-- ==== Sys2Proof/Syntax.lean ====
section
/-! DEFINITION. The commands the device takes (spec/opcode_table.json): one constructor of `Instr` per row, and the
records that commands carry as operands. -/
namespace Sys2Proof

/-- The blocks of R591. -/
inductive Blk where
  | tim | pln | rqt | adm | atn | pgm | skt | vse | zrb | smp | jsc | atu | kwp | trc | slp | ccx | nmo
  | cxh | cmp | mbx | sec | boot | psq | clk | ras | dbg | spr | dmv
  deriving DecidableEq, Repr, Inhabited

/-- The block type codes of R591. -/
def Blk.code : Blk → Nat
  | .tim => 0x01 | .pln => 0x02 | .rqt => 0x03 | .adm => 0x04 | .atn => 0x05 | .pgm => 0x06 | .skt => 0x07
  | .vse => 0x08 | .zrb => 0x09 | .smp => 0x0A | .jsc => 0x0B | .atu => 0x0C | .kwp => 0x0D | .trc => 0x0E
  | .slp => 0x0F | .ccx => 0x10 | .nmo => 0x11 | .cxh => 0x12 | .cmp => 0x13 | .mbx => 0x14 | .sec => 0x15
  | .boot => 0x16 | .psq => 0x17 | .clk => 0x18 | .ras => 0x19 | .dbg => 0x1A | .spr => 0x1B | .dmv => 0x1C

/-- Whether the block is a per-channel block (R591, "Location"). -/
def Blk.perChannel : Blk → Bool
  | .rqt | .adm | .atn | .pgm | .skt | .vse | .zrb | .smp | .jsc | .atu | .kwp | .trc | .slp | .ccx | .nmo
  | .dmv => true
  | .tim | .pln | .cxh | .cmp | .mbx | .sec | .boot | .psq | .clk | .ras | .dbg | .spr => false

/-- Who makes a register access: a control core (privileged firmware), an LD by its requester number (R467), the management
interface (R553), or the fabric manager, through the FM API or the FM-owned LD (R496, R514). -/
inductive Requester where
  | core
  | ld (n : Nat)
  | mgmt
  | fm
  deriving DecidableEq, Repr, Inhabited

/-- A page of BAR0 (R589, R590): a block and its number, which is the channel of a per-channel block, the port of CXH
and 0 otherwise. -/
structure Page where
  blk : Blk
  idx : Nat
  deriving DecidableEq, Repr, Inhabited

/-- The arrival stamp of a command (R32): its ToD, and whether it lies in Dawn before the twilight guard (R62). -/
structure Stamp where
  tod : Nat
  early : Bool
  deriving DecidableEq, Repr, Inhabited

/-- A queued command: the header of R306, its payload bytes (at most 224), and where it came from: a command queue, or
the day plan (R145, R311). -/
structure Cmd where
  op : Nat
  sizeM1 : Nat
  job : Nat
  layer : Nat
  waitTok : Nat
  signalTok : Nat
  waitValue : Nat
  waitEn : Bool
  signalEn : Bool
  noCpl : Bool
  tag : Nat
  payload : List Byte
  queue : Nat
  plan : Bool
  /-- The stamp that the doorbell gave it; none if it is stamped where it is acted on. -/
  stamp : Option Stamp
  deriving DecidableEq, Repr, Inhabited

/-- The fuse bank of R516. TRIM is not visible to software and has no effect on state. -/
structure Fuses where
  options : Nat
  chanMask : Nat
  idSeed : List Byte
  keyHash0 : List Byte
  keyHash1 : List Byte
  keyHash2 : List Byte
  keyHash3 : List Byte
  keyRevoke : Nat
  /-- The count of ones of the thermometer code, 0-64. -/
  svn : Nat
  deriving DecidableEq, Repr, Inhabited

/-- A page of the page table that a source returns for a move (R86, R209): where it is, what it holds, and the tier and
address under which the destination pulls it. -/
structure MovePage where
  layer : Nat
  page : Nat
  held : Nat
  score : Nat
  tier : Nat
  addr : Nat
  /-- The rack address of the side record of an image that is split in the source's T1 (R181); 0 of one that is whole. -/
  side : Nat
  deriving DecidableEq, Repr, Inhabited

/-- The entry fields and the page table that a source returns for MOVE_OPEN, or its refusal (R86, R87). -/
structure MoveReply where
  refused : Bool
  curLen : Nat
  lastCommit : Nat
  stepEst : Nat
  firstTokenNs : Nat
  degraded : Bool
  damaged : Bool
  sparseOn : Bool
  exitOn : Bool
  firstToken : Bool
  pages : List MovePage
  deriving DecidableEq, Repr, Inhabited

/-- Where an answer to a Kweuz packet goes: the source MAC, IP address and UDP port of the packet answered, and the interface
that received it, a port and its sub-port (R343). -/
structure KPeer where
  port : Nat
  mac : Nat
  v6 : Bool
  ip : Nat
  udp : Nat
  sub : Nat
  deriving DecidableEq, Repr, Inhabited

/-- A received Kweuz packet: what its frame carries, its base header but for OPCODE (R344), its extension header, and its payload and
authentication tag as they arrive, under the seal (R347). -/
structure KPkt where
  peer : KPeer
  dstIp : Nat
  dstUdp : Nat
  dscp : Nat
  dei : Bool
  tagged : Bool
  ce : Bool
  len : Nat
  first : Bool
  last : Bool
  coded : Bool
  retx : Bool
  ackReq : Bool
  ece : Bool
  poison : Bool
  dstConn : Nat
  psn : Nat
  gen : Nat
  sendTime : Nat
  iv : Nat
  srcConn : Nat
  ext : List Byte
  pay : List Byte
  tag : List Byte
  deriving DecidableEq, Repr, Inhabited

/-- Why a received frame is neither Kweuz nor PTP (R338, R339, R341). -/
inductive FrameFault where
  | malformed | fcs | uncorrectable | pause | other
  deriving DecidableEq, Repr, Inhabited

/-- An extent that the fabric manager offers (R471): its DC region, STATE_BASE, DPA_BASE, its
length in bytes, and TAG. -/
structure DcExtent where
  region : Nat
  stateBase : Nat
  dpaBase : Nat
  length : Nat
  tag : Nat
  deriving DecidableEq, Repr, Inhabited

/-- Why a host port resets (R486, R490). -/
inductive PortFault where
  | linkLoss | linkError | ideFailure
  deriving DecidableEq, Repr, Inhabited

/-- What an IDE_KM message does with the streams of a port (R488); `startSkid` starts the CXL.cachemem stream in skid mode. -/
inductive IdeStep where
  | program | start | startSkid | stop
  deriving DecidableEq, Repr, Inhabited

/-- A channel-fatal fault of one channel (R558): the block that detects it, the channel, SOURCE, and the address and DETAIL of the log.
`window` is the window record concerned, counted from 1, and 0 otherwise (R376). For KWP's SOURCE 0x44, `kwpUnit` is 1 where its miss
buffer holds the error, 3 where its context cache does (R378), and 0 otherwise; `conn` is the connection of the cached context. -/
structure ChFault where
  blk : Blk
  ch : Nat
  source : Nat
  addr : Nat
  detail : Nat
  window : Nat
  kwpUnit : Nat
  conn : Nat
  deriving DecidableEq, Repr, Inhabited

/-- How the Midnight check of a recovering channel ends (R564, R565). A check that passed names the array columns that failed their
self-test, which do not fail it. -/
inductive CheckResult where
  | passed (columns : List Nat)
  | readBackFailed | retrainFailed | coreFailed
  deriving DecidableEq, Repr, Inhabited

/-- The commands of spec/opcode_table.json, one constructor per row, in the table's order. -/
inductive Instr where
  /-- REGISTER_WRITE (R5): A write to a register that has no behaviour of its own stores or ignores the value by its access type,
  logging RWL writes under LOCK. -/
  | registerWrite (rq : Requester) (p : Page) (off : Nat) (v : Word)
  /-- LOCK (R7): Writing 1 to LOCK in BLK_CTRL locks the page's RWL registers until reset. -/
  | lock (rq : Requester) (p : Page)
  /-- RESET_BLOCK (R604): Writing RESET_BLOCK resets a quiesced block's internal work state, or is ignored and logged if the block is
  not quiesced. -/
  | resetBlock (rq : Requester) (p : Page) (clearQuiesce : Bool)
  /-- QUIESCE (R603): A write of QUIESCE moves the block between RUNNING and DRAINING. -/
  | quiesce (rq : Requester) (p : Page) (on : Bool)
  /-- BLOCK_ENABLE (R603): A write of ENABLE in BLK_CTRL moves STATE to INIT or OFF where R603 allows, and is otherwise ignored or
  logged. -/
  | blockEnable (rq : Requester) (p : Page) (on : Bool)
  /-- BLOCK_INIT_DONE (R603): A block's initialisation completes and it enters RUNNING, or DRAINING if QUIESCE is set. -/
  | blockInitDone (p : Page)
  /-- BLOCK_QUIESCED (R8): A draining block finishes its last accepted work and QUIESCED reads 1. -/
  | blockQuiesced (p : Page)
  /-- BLK_EVT_CLEAR (R597): An RW1C write to BLK_EVT clears pending event bits, with a same-cycle set winning. -/
  | blkEvtClear (rq : Requester) (p : Page) (v : Word) (setNow : Word)
  /-- BLK_EVT_SET (R597): A write to BLK_EVT_SET sets event bits and raises the interrupt and BLOCK_EVENT record, but not a chapter
  record. -/
  | blkEvtSet (rq : Requester) (p : Page) (v : Word)
  /-- ERR_LOG_CLEAR (R559): A write of 0 to the first BLK_ERR_LOG word clears VALID and COUNT. -/
  | errLogClear (rq : Requester) (p : Page) (v : Word) (errorNow : Bool)
  /-- TOD_NS_READ (R17): A read of TOD_NS latches the seconds into TOD_SEC_LO and TOD_SEC_HI. -/
  | todNsRead (rq : Requester)
  /-- CAD_PHASE_READ (R17): A read of CAD_PHASE latches the day number into CAD_DAY_LO and CAD_DAY_HI. -/
  | cadPhaseRead (rq : Requester)
  /-- PPS_IN_NS_READ (R17): A read of PPS_IN_NS latches the seconds of the last PPS_IN edge. -/
  | ppsInNsRead (rq : Requester)
  /-- TOD_SET (R16): TOD_CTRL SET loads ToD from TOD_SET_*, a step of the difference, and posts TOD_STEPPED. -/
  | todSet (rq : Requester) (alsoStep : Bool)
  /-- TOD_STEP (R16): TOD_CTRL STEP adds TOD_STEP_NS to ToD, updates CAD_ERR_NS and posts TOD_STEPPED. -/
  | todStep (rq : Requester)
  /-- SERVO_OFFSET (R22): A servo report written to SERVO_OFFSET_NS updates the lock count and synchronisation state. -/
  | servoOffset (rq : Requester) (v : Word)
  /-- LOSS_TIMEOUT (R22): No servo report for LOSS_TIMEOUT moves LOCKED to HOLDOVER and posts LOCK_LOST. -/
  | lossTimeout
  /-- HOLDOVER_TIMEOUT (R22): Two seconds in HOLDOVER move TIM to FREE_RUNNING and post FREE_RUNNING. -/
  | holdoverTimeout
  /-- TIME_DEGRADED (R23): The drift estimate passes 1 PU, so TIM sets TIME_DEGRADED and posts the event. -/
  | timeDegraded
  /-- PPS_IN_EDGE (R21): A rising edge on PPS_IN is timestamped into PPS_IN_*. -/
  | ppsInEdge
  /-- PPS_OUT_PULSE (R50): At each whole second or day start, as selected, PPS_OUT starts a pulse. -/
  | ppsOutPulse
  /-- PPS_PULSE_END (R50): The PPS_OUT pulse ends after OUT_WIDTH_US, or after P/2 when the width would not fit the period. -/
  | ppsPulseEnd
  /-- PPS_MISSING (R50): No PPS_IN edge for 1.1 s clears PPS_PRESENT and, with IN_EN, posts PPS_MISSING. -/
  | ppsMissing
  /-- CAD_RUN_SET (R28): Setting CAD_RUN puts a stopped cadence in WAITING, or cancels a pending stop. -/
  | cadRunSet (rq : Requester)
  /-- CAD_RUN_CLEAR (R29): Clearing CAD_RUN stops a waiting cadence at once, or arranges a stop at the next boundary or the end of
  Midnight. -/
  | cadRunClear (rq : Requester)
  /-- CADENCE_START (R28): At the first day boundary after CAD_RUN is set, the cadence starts running. -/
  | cadenceStart
  /-- DAY_BOUNDARY (R39): At a day boundary the device activates a staged plan, swaps banks, applies remaps, advances the day and
  starts Dawn. -/
  | dayBoundary
  /-- REALIGN_END (R41): An extended Midnight ends when ToD reaches the next aligned boundary, and the cadence resumes at Dawn. -/
  | realignEnd
  /-- NOON_START (R34): Noon begins and JSC enqueues the plan sweeps of stepping bins. -/
  | noonStart
  /-- DUSK_START (R34): Dusk begins: scheduled movement resumes and the deadline monitor runs. -/
  | duskStart
  /-- MIDNIGHT_START (R215): Midnight begins and PGM, JSC, DBG, VSE and RAS start their Midnight work. -/
  | midnightStart
  /-- GUARD_START (R33): A window's twilight guard begins and no new operation of its class starts. -/
  | guardStart
  /-- PLAN_LOAD (R46): Setting LOAD empties the STAGED bank and starts copying a plan image. -/
  | planLoad (rq : Requester) (discard : Bool)
  /-- PLAN_DISCARD (R46): Setting DISCARD ends a running load and empties the STAGED bank. -/
  | planDiscard (rq : Requester)
  /-- PLAN_LOAD_DONE (R46): A plan load ends, setting STAGED_VALID or posting PLAN_INVALID or PLAN_LATE. -/
  | planLoadDone
  /-- PLAN_RETIRE (R47): The RETIRING plan's in-flight count reaches zero, the bank empties and PLAN_RETIRED is posted. -/
  | planRetire
  /-- ADMIT (R68): An ADMIT command is stamped and held for Dawn, or admitted at once in Dawn before the guard. -/
  | admitReq (c : Nat) (cmd : Cmd)
  /-- CANCEL (R81): A CANCEL sets CANCEL_PENDING and is applied at Dawn, or refused by state. -/
  | cancel (c : Nat) (cmd : Cmd)
  /-- ACCEPT (R86): An ACCEPT creates an inbound MOVING entry and sends MOVE_OPEN to the source. -/
  | accept (c : Nat) (cmd : Cmd)
  /-- PARK (R89): A PARK moves a request's pages to the park destination and makes it SPILLED. -/
  | park (c : Nat) (cmd : Cmd)
  /-- RESUME (R89): A RESUME returns a SPILLED request to RESIDENT for placement. -/
  | resume (c : Nat) (cmd : Cmd)
  /-- MOVE_ABORT (R88): A MOVE_ABORT at an outbound source restores PRE_MOVE_STATE or makes it LOST, posting MOVE_FAILED. -/
  | moveAbort (c : Nat) (cmd : Cmd)
  /-- QUERY (R92): A QUERY completes at once with the request's STATE, FLAGS, CUR_LEN and END_CODE. -/
  | query (c : Nat) (cmd : Cmd)
  /-- RQT_ENTRY_READ (R96): A read of 0x200 snapshots the entry selected by RQT_SEL in one cycle. -/
  | rqtEntryRead (rq : Requester) (c : Nat)
  /-- MOVE_OPEN (R86): A source receives MOVE_OPEN, applied at its Dawn, entering MOVING outbound. -/
  | moveOpen (c slot gen node peer : Nat)
  /-- PAGE_TABLE_RETURN (R86): The destination receives the source's page table and entry fields for an inbound move. -/
  | pageTableReturn (c slot gen : Nat) (m : MoveReply)
  /-- HOME_SWITCH_NOTICE (R209): The source is told a page's home switched, evicts its PTE and frees the image. -/
  | homeSwitchNotice (c slot gen layer page : Nat)
  /-- MOVE_CLOSE (R86): The source receives MOVE_CLOSE, goes DONE (MOVED) and posts MOVE_DONE. -/
  | moveClose (c slot gen : Nat)
  /-- STEP_COMMIT (R168): The Dusk commit appends a step's tokens, writes keys and values, sketches and counts, or drops the output. -/
  | stepCommit (c slot : Nat)
  /-- QK (R147): A QK sweep command computes scores into SCORE_ADDR. -/
  | qk (c : Nat) (cmd : Cmd)
  /-- SOFTMAX (R148): A SOFTMAX sweep command turns scores into L8 probability blocks. -/
  | softmax (c : Nat) (cmd : Cmd)
  /-- PV (R147): A PV sweep command applies probabilities to values and writes outputs. -/
  | pv (c : Nat) (cmd : Cmd)
  /-- FUSED (R149): A FUSED sweep command runs score, softmax and value passes and writes output records. -/
  | fused (c : Nat) (cmd : Cmd)
  /-- PARTIAL (R169): A PARTIAL sweep command runs a shard's range and writes partial records. -/
  | partialSweep (c : Nat) (cmd : Cmd)
  /-- STATE_UPDATE (R150): A STATE_UPDATE sweep command updates recurrent state and writes outputs. -/
  | stateUpdate (c : Nat) (cmd : Cmd)
  /-- CROSS (R151): A CROSS sweep command attends to held encoder positions. -/
  | cross (c : Nat) (cmd : Cmd)
  /-- TILE_END (R138): A tile's passes finish, and ATN writes finished records, suspends or completes the sweep. -/
  | tileEnd (c : Nat) (bad : Option Nat)
  /-- QUERY_RECORD (R166): ATN takes a QUERY record into staging, encoding queries and keys, or discards it. -/
  | queryRecord (c r : Nat)
  /-- PARTIAL_RECORD (R170): A home takes a shard's PARTIAL record and merges once all have arrived. -/
  | partialRecord (c r : Nat)
  /-- LOGITS_RECORD (R284): SMP takes a LOGITS record for a member's step, or discards it. -/
  | logitsRecord (c r : Nat)
  /-- SAMPLER_ROW_DONE (R290): SMP finishes preparing a row and derives the step's tokens. -/
  | samplerRowDone (c : Nat)
  /-- SMP_CFG_SET (R280): SMP_CFG_SET claims or changes a sampler configuration record. -/
  | smpCfgSet (c : Nat) (cmd : Cmd)
  /-- SMP_CFG_RELEASE (R282): SMP_CFG_RELEASE releases a sampler configuration record. -/
  | smpCfgRelease (c : Nat) (cmd : Cmd)
  /-- BEAM_BIND (R295): BEAM_BIND forms a beam group of 2 to 8 admitted members. -/
  | beamBind (c : Nat) (cmd : Cmd)
  /-- DB_CQ_TAIL (R599): A doorbell advances a command queue's TAIL. -/
  | dbCqTail (rq : Requester) (c j size : Nat) (v : DWord)
  /-- DB_CPL_HEAD (R599): A doorbell advances a completion queue's HEAD, releasing waiting completions. -/
  | dbCplHead (rq : Requester) (c j size : Nat) (v : DWord)
  /-- DB_XR_PTR (R599): A doorbell advances an IN ring's TAIL or an OUT ring's consumption offset, resuming a set-aside sweep. -/
  | dbXrPtr (rq : Requester) (c j size : Nat) (v : DWord)
  /-- DB_CR_HEAD (R599): A doorbell advances a completion ring's HEAD, releasing a stalled commit. -/
  | dbCrHead (rq : Requester) (c j size : Nat) (v : DWord)
  /-- DB_EVQ_HEAD (R599): A doorbell advances the job's event queue HEAD. -/
  | dbEvqHead (rq : Requester) (c j size : Nat) (v : DWord)
  /-- DB_SQ_TAIL (R599): A doorbell advances a Kweuz connection's send queue tail. -/
  | dbSqTail (rq : Requester) (c j size : Nat) (v : DWord)
  /-- DB_RXQ_HEAD (R599): A doorbell advances a Solrov receive queue's HEAD. -/
  | dbRxqHead (rq : Requester) (c j size : Nat) (v : DWord)
  /-- DB_PEVQ_HEAD (R599): A doorbell advances the privileged event queue HEAD. -/
  | dbPevqHead (rq : Requester) (c size : Nat) (v : DWord)
  /-- DB_FQ_HEAD (R599): A doorbell advances the ATU fault queue HEAD, releasing held fault records. -/
  | dbFqHead (rq : Requester) (c size : Nat) (v : DWord)
  /-- DB_SMP_HEAD (R599): A doorbell advances the TRC sampling ring HEAD. -/
  | dbSmpHead (rq : Requester) (c size : Nat) (v : DWord)
  /-- PREFIX_ALLOC (R192): PREFIX_ALLOC takes a FREE handle record and returns the handle. -/
  | prefixAlloc (c : Nat) (cmd : Cmd)
  /-- PREFIX_FREE (R192): PREFIX_FREE sets a handle FREEING for the next Midnight release. -/
  | prefixFree (c : Nat) (cmd : Cmd)
  /-- PREFIX_QUERY (R192): PREFIX_QUERY returns a handle's LEN, HSTATE and PAGES_HELD. -/
  | prefixQuery (c : Nat) (cmd : Cmd)
  /-- COPY (R217): A COPY command starts a DMV byte transfer. -/
  | copy (c : Nat) (cmd : Cmd)
  /-- CONVERT (R217): A CONVERT command starts a DMV format conversion. -/
  | convert (c : Nat) (cmd : Cmd)
  /-- DMV_CHUNK_DONE (R326): A DMV chunk finishes; the transfer continues, suspends or completes. -/
  | dmvChunkDone (c : Nat)
  /-- PAGE_MOVE_DONE (R204): A page copy ends: the home PTE switches to the destination and the source is freed. -/
  | pageMoveDone (c id : Nat)
  /-- PAGE_MOVE_FAILED (R206): A transport reports a move failed; the home reverts or the request goes LOST. -/
  | pageMoveFailed (c id : Nat)
  /-- DRAIN_RELEASE (R210): A drained slot's last read completes and it returns to the pool. -/
  | drainRelease (c a : Nat)
  /-- VSE_STORE_SET (R238): VSE_STORE_SET defines a knowledge store for the job. -/
  | vseStoreSet (c : Nat) (cmd : Cmd)
  /-- VSE_INSERT (R242): VSE_INSERT appends vectors to a list, allocating groups. -/
  | vseInsert (c : Nat) (cmd : Cmd)
  /-- VSE_DELETE (R242): VSE_DELETE tombstones a vector. -/
  | vseDelete (c : Nat) (cmd : Cmd)
  /-- VSE_SEARCH (R245): VSE_SEARCH probes, scans, re-probes, expands and re-ranks queries against a store. -/
  | vseSearch (c : Nat) (cmd : Cmd)
  /-- SCAN_GROUP_END (R246): A scan finishes a group and continues, suspends or completes its round. -/
  | scanGroupEnd (c e : Nat)
  /-- VSE_REPAIR_POP (R251): Writing VSE_REPAIR_POP removes the head entry of the repair list. -/
  | vseRepairPop (rq : Requester) (c : Nat) (v : Word)
  /-- RERANK_EN_WRITE (R249): A write of RERANK_EN takes effect while quiesced, or is refused beyond four channels. -/
  | rerankEnWrite (rq : Requester) (c : Nat) (v : Word)
  /-- REGION_ENABLE (R259): Setting a ZRB region's ENABLE starts writing its headers as ZERO. -/
  | regionEnable (rq : Requester) (c : Nat) (v : Word)
  /-- REGION_READY (R259): A region's initialisation completes, INIT_DONE sets and REGION_READY is posted. -/
  | regionReady (c r : Nat)
  /-- WR_WAIT_EXPIRY (R269): A write block that found no lane within WR_WAIT cycles is stored RAW. -/
  | wrWaitExpiry (c a : Nat) (data : List Byte)
  /-- JSC_DISPATCH (R311): JSC dispatches one queue-head command into its job's engine lane. -/
  | jscDispatch (c : Nat)
  /-- ENGINE_START (R314): A free engine takes the head command of the ready job with the largest deficit. -/
  | engineStart (c e : Nat)
  /-- DEFICIT_UPDATE (R313): Every 64 ns JSC updates every job's deficit on each engine. -/
  | deficitUpdate (c : Nat)
  /-- BARRIER (R311): BARRIER completes once every earlier command of its queue has completed. -/
  | barrier (c q : Nat)
  /-- TOKEN_SET (R319): TOKEN_SET sets a dependency token's value. -/
  | tokenSet (c : Nat) (cmd : Cmd)
  /-- COUNTER_READ (R574): COUNTER_READ returns a job's counter set. -/
  | counterRead (c : Nat) (cmd : Cmd)
  /-- TOKEN_ASSIGN (R317): A write to JSC_TOK_CTRL assigns a token and sets its value to 0. -/
  | tokenAssign (rq : Requester) (c : Nat) (v : Word)
  /-- JOB_CONTEXT_WRITE (R304): A write to a job context record applies subject to ENABLE, FAULTED and binding rules. -/
  | jobContextWrite (rq : Requester) (c off : Nat) (v : Word)
  /-- KILL (R329): KILL in JSC_JOB_CMD starts a tear-down of the selected job. -/
  | kill (rq : Requester) (c : Nat) (alsoClear : Bool)
  /-- CLEAR (R330): CLEAR in JSC_JOB_CMD clears FAULTED of a torn-down job and empties its compact mailbox. -/
  | clear (rq : Requester) (c : Nat)
  /-- JOB_TEARDOWN (R329): On a channel, a tear-down discards the job's commands, disables its queues, revokes its windows and ends its
  requests. -/
  | jobTeardown (c j : Nat)
  /-- FAULT_RETRY (R327): ATU_FAULT_RESP RETRY walks the faulting access again. -/
  | faultRetry (rq : Requester) (c id : Nat)
  /-- FAULT_FAIL (R327): ATU_FAULT_RESP FAIL tears the job down. -/
  | faultFail (rq : Requester) (c id : Nat)
  /-- FAULT_TIMEOUT (R327): A fault outstanding for FAULT_TIMEOUT_MS tears the job down. -/
  | faultTimeout (c id : Nat)
  /-- TLB_INVALIDATE (R323): ATU_INV_CTRL GO starts a TLB invalidation. -/
  | tlbInvalidate (rq : Requester) (c : Nat) (v : Word)
  /-- INVALIDATE_DONE (R323): An invalidation completes and INV_BUSY clears. -/
  | invalidateDone (c : Nat)
  /-- ETHERNET_FRAME (R339): A received frame that is not a Kweuz or PTP message is dropped and counted. -/
  | ethernetFrame (c : Nat) (why : FrameFault)
  /-- PTP_MESSAGE (R20): A PTP event message is timestamped and handed to TIM. -/
  | ptpMessage (c : Nat) (egress : Bool) (data : List Byte)
  /-- WRITE (R362): A received WRITE packet is checked and placed in the window. -/
  | write (c : Nat) (pkt : KPkt)
  /-- READ_REQ (R367): A received READ_REQ is answered with READ_RESP packets or STATUS. -/
  | readReq (c : Nat) (pkt : KPkt)
  /-- READ_RESP (R367): A received READ_RESP places its data or poison locally. -/
  | readResp (c : Nat) (pkt : KPkt)
  /-- FLUSH (R369): A received FLUSH is answered with FLUSH_RESP once earlier packets are placed. -/
  | flush (c : Nat) (pkt : KPkt)
  /-- FLUSH_RESP (R366): A received FLUSH_RESP completes the FLUSH request. -/
  | flushResp (c : Nat) (pkt : KPkt)
  /-- ATOMIC (R368): A received ATOMIC is performed on the window and answered with ATOMIC_RESP. -/
  | atomic (c : Nat) (pkt : KPkt)
  /-- ATOMIC_RESP (R366): A received ATOMIC_RESP completes the ATOMIC request. -/
  | atomicResp (c : Nat) (pkt : KPkt)
  /-- STATUS (R360): A received STATUS reports a refused packet to the source. -/
  | status (c : Nat) (pkt : KPkt)
  /-- ACK (R371): A received ACK retires PSNs, gives an RTT sample and may trigger fast retransmission. -/
  | ack (c : Nat) (pkt : KPkt)
  /-- BUSY (R352): A received BUSY, if accepted, pauses the connection for a backoff. -/
  | busy (c : Nat) (pkt : KPkt)
  /-- WR_WRITE (R365): A WRITE work request sends its packets. -/
  | wrWrite (c conn : Nat)
  /-- WR_READ (R367): A READ work request sends a READ_REQ. -/
  | wrRead (c conn : Nat)
  /-- WR_FLUSH (R369): A FLUSH work request sends a FLUSH after earlier packets. -/
  | wrFlush (c conn : Nat)
  /-- WR_ATOMIC (R368): An ATOMIC work request sends an ATOMIC packet. -/
  | wrAtomic (c conn : Nat)
  /-- WIN_OPEN (R358): A WIN_OPEN work request opens a window index with a new key. -/
  | winOpen (c conn : Nat)
  /-- WIN_OPEN_GAP_END (R358): A WIN_OPEN waiting for the 1 µs reopen gap proceeds. -/
  | winOpenGapEnd (c conn : Nat)
  /-- WIN_REVOKE (R361): A WIN_REVOKE work request closes a window. -/
  | winRevoke (c conn : Nat)
  /-- CONN_SET (R350): SET copies staging into a connection context and makes it READY. -/
  | connSet (rq : Requester) (c : Nat) (keyWr : Bool)
  /-- CONN_RESET (R350): RESET fails outstanding requests and advances the connection generation. -/
  | connReset (rq : Requester) (c : Nat) (keyWr : Bool)
  /-- CONN_DESTROY (R350): DESTROY fails outstanding requests and makes the connection IDLE. -/
  | connDestroy (rq : Requester) (c : Nat)
  /-- CONN_SNAP (R350): SNAP copies a connection context into staging. -/
  | connSnap (rq : Requester) (c : Nat)
  /-- CTX_FETCH_DONE (R351): A connection context fetch from T1 completes, or posts CTX_FETCH_ERROR. -/
  | ctxFetchDone (c conn : Nat) (bad : Bool)
  /-- RTO_EXPIRY (R371): The retransmission timer expires, retransmitting or setting the connection to ERROR. -/
  | rtoExpiry (c conn : Nat)
  /-- ACK_DELAY_EXPIRY (R370): ACK_DELAY_NS after the oldest unacknowledged packet, the receiver sends an ACK. -/
  | ackDelayExpiry (c conn : Nat)
  /-- BUSY_BACKOFF_END (R352): A BUSY backoff ends and the connection retransmits from ECHO_PSN. -/
  | busyBackoffEnd (c conn : Nat)
  /-- RATE_ADJUST (R373): Once per SRTT KWP lowers or raises the connection rate. -/
  | rateAdjust (c conn : Nat)
  /-- LINK_CHANGE (R341): An Ethernet link loses or regains alignment and LINK_CHANGE is posted. -/
  | linkChange (c sub cause : Nat)
  /-- FEC_INTERVAL (R341): A 1 ms FEC interval ends, posting FEC_DEGRADED if the threshold was first exceeded. -/
  | fecInterval (c sub corr : Nat)
  /-- WHEEL_SLOT_DUE (R383): A fine wheel slot comes due and its shapers are evaluated again. -/
  | wheelSlotDue (c : Nat)
  /-- COARSE_SLOT_DUE (R383): A coarse wheel slot comes due and its shapers move to the fine level. -/
  | coarseSlotDue (c : Nat)
  /-- EGRESS_TRANSMIT (R390): The interface transmitter takes its next packet from the egress queues. -/
  | egressTransmit (c sub : Nat)
  /-- SHAPER_RATE_WRITE (R386): A RATE change reaches a shaper and its eligibility is recomputed. -/
  | shaperRateWrite (rq : Requester) (c : Nat) (v : Word)
  /-- SHAPER_CONFIG_WRITE (R385): A BURST or QUEUE change keeps and clamps TOKENS and re-times the shaper. -/
  | shaperConfigWrite (rq : Requester) (c : Nat) (burst : Bool) (v : Word)
  /-- POLICER_CONFIG_WRITE (R393): A policer change keeps and clamps its bucket counts. -/
  | policerConfigWrite (rq : Requester) (c off : Nat) (v : Word)
  /-- SAMPLE_INSTANT (R394): At each SAMPLE_US instant TRC writes queue sample records. -/
  | sampleInstant (c : Nat)
  /-- SOLROV_MODE_ENTER (R398): Setting SL_EN on a quiesced port puts it in Solrov mode. -/
  | solrovModeEnter (rq : Requester) (c : Nat) (v : Word)
  /-- FLIT (R400): A received flit is corrected and checked, accepted with its credits, or discarded with REPLAY_REQ. -/
  | flit (c : Nat) (data : List Byte)
  /-- REPLAY_REQ (R400): A received REPLAY_REQ makes the sender resend from after ACK_SEQ. -/
  | replayReq (c : Nat) (data : List Byte)
  /-- SOLROV_LINK (R402): A Solrov link loses alignment or recovers with replay, and SOLROV_LINK is posted. -/
  | solrovLink (c : Nat) (up : Bool)
  /-- LOAD (R412): A target receives LOAD, checks it and returns LOAD_RSP or NAK. -/
  | load (c : Nat)
  /-- STORE (R412): A target receives STORE, checks it, writes and returns STORE_ACK or NAK. -/
  | store (c : Nat)
  /-- RACK_ATOMIC (R413): A target receives a Solrov ATOMIC and performs it. -/
  | rackAtomic (c : Nat)
  /-- NMO (R417): A target receives an NMO message and queues the operation. -/
  | nmo (c : Nat)
  /-- NMO_START (R418): A waiting near-memory operation starts on the NMO unit. -/
  | nmoStart (c : Nat)
  /-- NMO_DONE (R420): A near-memory operation ends and NMO_RSP is sent. -/
  | nmoDone (c k : Nat)
  /-- MSG (R421): A MSG is placed in a receive queue or refused with NAK. -/
  | msg (c : Nat)
  /-- DEV_MSG (R422): A DEV_MSG fragment is collected and the whole record handed to its ring. -/
  | devMsg (c : Nat)
  /-- LOAD_RSP (R412): A LOAD_RSP places data or poison at the requester. -/
  | loadRsp (c : Nat)
  /-- STORE_ACK (R412): A STORE_ACK completes a store. -/
  | storeAck (c : Nat)
  /-- ATOMIC_RSP (R413): An ATOMIC_RSP returns OLD and completes a Solrov atomic. -/
  | atomicRsp (c : Nat)
  /-- NMO_RSP (R420): An NMO_RSP completes a SOLROV_NMO command. -/
  | nmoRsp (c : Nat)
  /-- NAK (R410): A NAK completes a request with its refusal status. -/
  | nak (c : Nat)
  /-- MSG_ACK (R421): A MSG_ACK completes a SOLROV_MSG command. -/
  | msgAck (c : Nat)
  /-- ORDERED_STORE_SEND (R416): An ordered store whose predecessors answered is sent, or completes ORDER_BROKEN. -/
  | orderedStoreSend (c : Nat)
  /-- SOLROV_STORE (R427): SOLROV_STORE sends a store into rack space. -/
  | solrovStore (c : Nat) (cmd : Cmd)
  /-- SOLROV_ATOMIC (R427): SOLROV_ATOMIC sends an atomic into rack space. -/
  | solrovAtomic (c : Nat) (cmd : Cmd)
  /-- SOLROV_NMO (R427): SOLROV_NMO starts a near-memory operation. -/
  | solrovNmo (c : Nat) (cmd : Cmd)
  /-- SOLROV_MSG (R427): SOLROV_MSG sends a message to a receive queue. -/
  | solrovMsg (c : Nat) (cmd : Cmd)
  /-- SOLROV_STALL (R424): A tag outstanding to a slot for STALL_REPORT posts SOLROV_STALL. -/
  | solrovStall (c slot : Nat)
  /-- ABANDON (R425): ABANDON marks a slot DEAD and completes its outstanding requests. -/
  | abandon (rq : Requester) (c slot : Nat) (all : Bool)
  /-- SLP_REVIVE (R426): REVIVE clears a slot's DEAD mark and returns quarantined tags. -/
  | slpRevive (rq : Requester) (c slot : Nat) (all : Bool)
  /-- CCX_JOIN (R437): JOIN in CCX_CMD makes the agent send JOIN to the controller. -/
  | ccxJoin (rq : Requester) (c : Nat)
  /-- CCX_LEAVE (R460): LEAVE in CCX_CMD removes the member from the domain. -/
  | ccxLeave (rq : Requester) (c : Nat)
  /-- CCX_REVIVE (R455): REVIVE at the controller lets a dead member rejoin. -/
  | ccxRevive (rq : Requester) (c m : Nat)
  /-- COH_FLUSH (R459): COH_FLUSH writes back and evicts the agent's lines of a range. -/
  | cohFlush (c : Nat) (cmd : Cmd)
  /-- RD_S (R448): The arbiter serves a read-to-share request. -/
  | rdS (c : Nat)
  /-- RD_X (R448): The arbiter serves a read-for-ownership request. -/
  | rdX (c : Nat)
  /-- UPG (R448): The arbiter serves an upgrade request. -/
  | upg (c : Nat)
  /-- WB (R448): The arbiter accepts a write-back or finds it stale. -/
  | wb (c : Nat)
  /-- EVC (R448): The arbiter accepts a clean eviction or finds it stale. -/
  | evc (c : Nat)
  /-- CLEAN (R440): The arbiter clears a granule for a home's plain access. -/
  | clean (c : Nat)
  /-- SRSP (R448): The arbiter takes a snoop answer and grants once all have arrived. -/
  | srsp (c : Nat)
  /-- CMP (R449): A CMP ends a transaction and sets the filter state. -/
  | cmp (c : Nat)
  /-- SNP_S (R445): An agent answers a shared snoop. -/
  | snpS (c : Nat)
  /-- SNP_X (R445): An agent answers an exclusive snoop. -/
  | snpX (c : Nat)
  /-- SNP_INV (R445): An agent answers an invalidating snoop. -/
  | snpInv (c : Nat)
  /-- GNT (R445): A requester receives a grant or refusal. -/
  | gnt (c : Nat)
  /-- RETRY (R452): A requester receives RETRY and schedules a resend. -/
  | retry (c : Nat)
  /-- EV_ACK (R445): An agent receives EV_ACK and the evicting line goes to I. -/
  | evAck (c : Nat)
  /-- MRD (R441): A home receives MRD and sends the granule as DATA. -/
  | mrd (c : Nat)
  /-- MWR (R441): A home receives MWR, writes the granule and answers MWR_ACK. -/
  | mwr (c : Nat)
  /-- PSN (R456): A home receives PSN, poisons the granule and answers PSN_ACK. -/
  | psn (c : Nat)
  /-- MWR_ACK (R448): The arbiter receives MWR_ACK and completes a write-back. -/
  | mwrAck (c : Nat)
  /-- PSN_ACK (R455): The arbiter receives PSN_ACK and invalidates the sharers. -/
  | psnAck (c : Nat)
  /-- DATA (R445): A requester or the arbiter receives a granule. -/
  | data (c : Nat)
  /-- COH_BACKOFF_END (R445): BACKOFF_NS after a RETRY the agent resends with AGE one higher. -/
  | cohBackoffEnd (c : Nat)
  /-- HB_SEND (R455): Every HB_US agents send HB and the controller sends HB_ECHO. -/
  | hbSend (c : Nat)
  /-- HB (R455): The controller receives a member's heartbeat. -/
  | hb (c : Nat)
  /-- HB_ECHO (R457): An agent receives the controller's heartbeat. -/
  | hbEcho (c : Nat)
  /-- MEMBER_DEAD (R455): No HB for HB_MISS intervals makes the controller declare the member dead. -/
  | memberDead (c m : Nat)
  /-- DOMAIN_LOST (R457): No HB_ECHO for HB_MISS intervals makes the agent declare the domain lost. -/
  | domainLost (c : Nat)
  /-- JOIN (R437): The controller receives JOIN and acknowledges when the mask is complete. -/
  | join (c : Nat)
  /-- JOIN_ACK (R437): A member receives JOIN_ACK, reads UP and posts COH_DOMAIN_UP. -/
  | joinAck (c : Nat)
  /-- DEAD_NOTE (R455): A member receives DEAD_NOTE and posts COH_AGENT_DEAD. -/
  | deadNote (c : Nat)
  /-- BIND_CHANNEL (R469): BIND_CHANNEL adds channels to an LD's CHANNEL_MASK. -/
  | bindChannel (ld mask : Nat)
  /-- UNBIND_CHANNEL (R469): UNBIND_CHANNEL removes channels from an LD's CHANNEL_MASK. -/
  | unbindChannel (ld mask : Nat)
  /-- INITIATE_DYNAMIC_CAPACITY_ADD (R471): The fabric manager offers extents, written PENDING. -/
  | initiateDynamicCapacityAdd (ld : Nat) (extents : List DcExtent)
  /-- ADD_DYNAMIC_CAPACITY_RESPONSE (R472): The host accepts or declines offered extents and a new epoch is made. -/
  | addDynamicCapacityResponse (ld : Nat) (accepted : List Nat)
  /-- INITIATE_DYNAMIC_CAPACITY_RELEASE (R473): The fabric manager starts removing extents. -/
  | initiateDynamicCapacityRelease (ld : Nat) (dpas : List Nat) (forced : Bool)
  /-- RELEASE_DYNAMIC_CAPACITY (R473): The host releases extents and CMP back-invalidates them. -/
  | releaseDynamicCapacity (ld : Nat) (dpas : List Nat)
  /-- COMPOSITION_EPOCH_RETIRE (R473): The retiring composition epoch's count reaches zero, entries are freed and events posted. -/
  | compositionEpochRetire
  /-- CXL_MEM_READ (R475): A host CXL.mem read is decoded, snooped if held, and served or poisoned. -/
  | cxlMemRead (ld dpa want : Nat)
  /-- CXL_MEM_WRITE (R475): A host CXL.mem write is decoded, snooped if held, and served or discarded. -/
  | cxlMemWrite (ld dpa : Nat) (data : List Byte)
  /-- BIRSP (R477): A BIRsp arrives and the waiting access proceeds when the last one has. -/
  | birsp (ld line keeps : Nat)
  /-- BI_TIMEOUT (R485): A BISnp unanswered for BI_TIMEOUT_US contains the LD. -/
  | biTimeout (ld : Nat)
  /-- LD_RESET (R485): An LD reset contains that LD's holdings. -/
  | ldReset (ld : Nat)
  /-- HOST_PORT_FAULT (R486): Link loss, link error or IDE failure resets one host port. -/
  | hostPortFault (port : Nat) (why : PortFault)
  /-- PUBLISH (R483): PUBLISH compare-and-swaps a share's version and live range. -/
  | publish (c : Nat) (cmd : Cmd)
  /-- SHARE_SET (R482): SHARE_SET creates a share record. -/
  | shareSet (c : Nat) (cmd : Cmd)
  /-- SHARE_QUERY (R482): SHARE_QUERY returns a share's version and live range. -/
  | shareQuery (c : Nat) (cmd : Cmd)
  /-- CONFIGURATION_REQUEST (R513): A CXL.io configuration request is answered, with retry status before release. -/
  | configurationRequest (ld : Nat) (msix : Option Bool)
  /-- DOE_DISCOVERY (R488): A DOE discovery request is answered. -/
  | doeDiscovery (ld index : Nat)
  /-- CDAT_READ (R489): A CDAT table access returns the LD's memory description. -/
  | cdatRead (ld : Nat)
  /-- IDE_KM (R488): IDE_KM programs IDE keys over a secured session. -/
  | ideKm (ld session : Nat) (step : IdeStep) (io : Bool)
  /-- GET_VERSION (R523): SPDM GET_VERSION is answered. -/
  | getVersion (t : Nat)
  /-- GET_CAPABILITIES (R523): SPDM GET_CAPABILITIES is answered. -/
  | getCapabilities (t version : Nat)
  /-- NEGOTIATE_ALGORITHMS (R523): SPDM NEGOTIATE_ALGORITHMS is answered with the supported set. -/
  | negotiateAlgorithms (t : Nat) (offers : List Bool)
  /-- GET_DIGESTS (R523): SPDM GET_DIGESTS is answered for slot 0. -/
  | getDigests (t slot : Nat)
  /-- GET_CERTIFICATE (R523): SPDM GET_CERTIFICATE returns the slot 0 chain. -/
  | getCertificate (t slot off len : Nat)
  /-- CHALLENGE (R523): SPDM CHALLENGE is answered with an identity signature. -/
  | challenge (t slot : Nat)
  /-- GET_MEASUREMENTS (R523): SPDM GET_MEASUREMENTS returns SEC's measurements. -/
  | getMeasurements (t index : Nat) (signed : Bool)
  /-- KEY_EXCHANGE (R523): SPDM KEY_EXCHANGE opens a session or is refused Busy. -/
  | keyExchange (t slot reqId : Nat)
  /-- FINISH (R523): SPDM FINISH completes session establishment. -/
  | finish (t session : Nat)
  /-- END_SESSION (R523): SPDM END_SESSION closes a session. -/
  | endSession (t session : Nat)
  /-- KEY_UPDATE (R523): SPDM KEY_UPDATE updates session keys. -/
  | keyUpdate (t session : Nat)
  /-- MB_DATA_WRITE (R502): A mailbox data word write fills the mailbox, or sets COLLISION if FULL. -/
  | mbDataWrite (rq : Requester) (box off : Nat) (v : Word)
  /-- MB_GO (R500): GO advances SEQ, stamps SENDER, sets FULL and wakes the routed core. -/
  | mbGo (rq : Requester) (box : Nat) (pasid : Option Nat)
  /-- MBX_RX_SEQ_READ (R504): A read of MBX_RX_SEQ latches the selected mailbox into the receive window. -/
  | mbxRxSeqRead (rq : Requester)
  /-- EMPTY (R504): EMPTY in MBX_RX_CTRL empties a compact mailbox matching the latched SEQ. -/
  | empty (rq : Requester)
  /-- CLR_COLLISION (R504): CLR_COLLISION clears a mailbox's COLLISION flag. -/
  | clrCollision (rq : Requester)
  /-- MBX_RX_ACK (R505): MBX_RX_ACK records a return code, empties a matching full mailbox and interrupts the sender. -/
  | mbxRxAck (rq : Requester) (v : Word)
  /-- MBX_ROUTE_WRITE (R507): A write of MBX_ROUTE reroutes a mailbox, waking the new core if FULL. -/
  | mbxRouteWrite (rq : Requester) (v : Word)
  /-- POWER_GOOD (R512): PWR_GOOD rises and a cold boot starts at phase FUSES. -/
  | powerGood (sysrefSel : Bool)
  /-- POWER_LOSS (R515): PWR_GOOD falls and the device resets cold. -/
  | powerLoss
  /-- FUSES_LOADED (R516): The fuses load, the identity key is derived and the boot ROM starts. -/
  | fusesLoaded (f : Fuses) (srcCxl : Bool)
  /-- LOAD_BOOT_IMAGE (R513): An FM API chunk of the boot image is received. -/
  | loadBootImage (off : Nat) (data : List Byte)
  /-- BOOT_IMAGE_DONE (R513): The fabric manager ends a CXL image push. -/
  | bootImageDone
  /-- BOOT_IMAGE_TIMEOUT (R513): No BOOT_IMAGE_DONE within 10 s fails the boot with FAIL_CODE 6. -/
  | bootImageTimeout
  /-- IMAGE_RECEIVED (R518): The whole image has been read and the ROM verifies it. -/
  | imageReceived (readError : Bool)
  /-- LOAD_PHASE_DONE (R512): Firmware, BLKCFG records and the plan are loaded, and training starts. -/
  | loadPhaseDone
  /-- TRAINING_DONE (R512): Stack training ends and the channels are released. -/
  | trainingDone (failed : List Nat)
  /-- WARM_RESET (R515): WARM_RESET restarts the boot from FUSES, keeping RWS registers. -/
  | warmReset (rq : Requester)
  /-- MOD_RESET (R552): A low pulse of at least 10 µs on MOD_RESET_N starts a warm reset at its rising edge. -/
  | modReset
  /-- BOOT_RETRY (R514): BOOT_RETRY restarts a failed boot at phase ROM. -/
  | bootRetry (rq : Requester) (srcCxl : Bool)
  /-- SWAP_NOW (R525): SWAP_NOW swaps configuration banks at once while the cadence is stopped or waiting. -/
  | swapNow (rq : Requester)
  /-- FW_UPDATE (R527): BOOT_UPD_CMD GO starts a core update by interrupting the target. -/
  | fwUpdate (rq : Requester) (core standin : Nat)
  /-- UPDATE_DRAINED (R527): The target passes its duties to the stand-in, reads DRAINED and BOOT reads the image. -/
  | updateDrained (core : Nat)
  /-- UPDATE_IMAGE_READ (R527): The update image is read and checked, then loaded or refused. -/
  | updateImageRead (core : Nat) (readError : Bool)
  /-- FW_SELF_TEST_DONE (R527): The restarted core takes back its duties and FW_UPDATED is posted. -/
  | fwSelfTestDone (core : Nat)
  /-- OUT (R528): BOOT_CH_CMD OUT quiesces a channel and takes it out of service. -/
  | chOut (rq : Requester) (c : Nat)
  /-- RETRAIN (R529): BOOT_CH_CMD RETRAIN retrains an OUT channel's stack. -/
  | retrain (rq : Requester) (c : Nat)
  /-- RETRAIN_DONE (R529): A channel retrain ends, or fails with CH_OUT cause 2. -/
  | retrainDone (c : Nat) (ok : Bool)
  /-- IN (R529): BOOT_CH_CMD IN re-initialises a channel and returns it to service. -/
  | chIn (rq : Requester) (c : Nat)
  /-- NOR_READ (R530): BOOT_NOR_CMD READ reads 256 bytes of NOR. -/
  | norRead (rq : Requester)
  /-- NOR_PROGRAM (R519): BOOT_NOR_CMD PROGRAM writes 256 bytes, refused in the certificate range. -/
  | norProgram (rq : Requester)
  /-- NOR_ERASE (R519): BOOT_NOR_CMD ERASE erases 64 KiB, refused in the certificate range. -/
  | norErase (rq : Requester)
  /-- SVN_BURN (R520): SEC_SVN_BURN raises the fused SVN. -/
  | svnBurn (rq : Requester) (v : Nat)
  /-- KEY_REVOKE (R520): SEC_KEY_REVOKE burns key revocation bits. -/
  | keyRevoke (rq : Requester) (slots : Nat)
  /-- TOKEN_TICK (R540): Every 5 µs PSQ adds a wake token and grants it to a queued domain. -/
  | tokenTick
  /-- DOMAIN_RAMP_DONE (R539): 2 µs after a token grant the domain is usable. -/
  | domainRampDone (d : Nat)
  /-- ARRAY_IDLE_EXPIRY (R539): An array idle for ARR_IDLE_US with PD_EN set powers down. -/
  | arrayIdleExpiry (c : Nat)
  /-- CORE_WAIT_FOR_INTERRUPT (R539): A control core waiting for an interrupt with PD_EN set powers down. -/
  | coreWaitForInterrupt (core : Nat)
  /-- SENSOR_SAMPLE (R544): Every 10 µs PSQ reads the sensors and sets the thermal demand. -/
  | sensorSample (temps : List Nat) (mw mv ma : Nat)
  /-- POWER_AVERAGE (R545): At each 1 ms boundary PSQ raises or lowers the power demand. -/
  | powerAverage
  /-- THROTTLE_STEP_DOWN (R546): Every 100 µs the effective level falls one step toward the demand. -/
  | throttleStepDown
  /-- THROT_FORCE_WRITE (R546): A write of THROT_FORCE sets the least throttle level. -/
  | throtForceWrite (rq : Requester) (v : Word)
  /-- THERMTRIP (R547): Tj at 115 °C, or 110 °C for 1 ms, asserts THERMTRIP_N and turns off the core regulators. -/
  | thermtrip
  /-- VIN_WARN (R536): The input enters 42–44 V or 58–60 V and VIN_WARN is posted. -/
  | vinWarn (mv : Nat)
  /-- VIN_FAULT (R536): The input stays outside 42–60 V for 100 µs and the core regulators turn off. -/
  | vinFault (mv : Nat)
  /-- REF_LOST (R550): A reference clock drifts or vanishes and its loss takes effect. -/
  | refLost (ref : Nat)
  /-- REF_RESTORED (R550): A reference stays within tolerance for 10 ms and REF_RESTORED is posted. -/
  | refRestored (ref : Nat)
  /-- PLL_UNLOCK (R556): A PLL loses lock, gating its domain as a fault of its blocks. -/
  | pllUnlock (dom : Nat)
  /-- PLL_RELOCK (R556): A PLL regains lock and its domain is ungated. -/
  | pllRelock (dom : Nat)
  /-- CORRECTED_ERROR (R560): A corrected error is counted and CE_THRESHOLD posted once per channel and day. -/
  | correctedError (p : Page) (source addr detail : Nat)
  /-- CHANNEL_FATAL_FAULT (R563): A channel-fatal fault puts the channel in recovery or quarantine. -/
  | channelFatalFault (faults : List ChFault)
  /-- DEVICE_FATAL_FAULT (R568): A device-fatal fault stops dispatch, poisons host reads and asserts ALERT_N. -/
  | deviceFatalFault (p : Page) (source addr detail : Nat)
  /-- CORE_FAULT (R570): A failed control core's duties pass to a spare core, or a channel-fatal fault follows. -/
  | coreFault (core : Nat)
  /-- SPARE_COMMIT (R571): COMMIT in SPR_CMD commits a spare offer for the next boundary. -/
  | spareCommit (rq : Requester) (id : Nat)
  /-- SPARE_DECLINE (R571): DECLINE in SPR_CMD withdraws a spare offer. -/
  | spareDecline (rq : Requester) (id : Nat)
  /-- RAS_INJECT (R582): RAS_INJECT GO injects a fault of a given source for test. -/
  | rasInject (rq : Requester) (v : Word)
  /-- SNAP (R578): DBG_SNAP_CMD SNAP takes a hang snapshot on every enabled channel. -/
  | snap (rq : Requester)
  /-- ARM (R576): ARM in DBG_WP_CTRL clears a watch point's results and arms it. -/
  | arm (rq : Requester) (v : Word)
  /-- DBG_MEM_READ (R584): DBG_MEM_CMD READ reads a core's local memory, or is refused under DEBUG_LOCK. -/
  | dbgMemRead (rq : Requester)
  /-- CHANNEL_CHECK_DONE (R564): A recovering channel's Midnight check finishes; on a failed read-back, stack retrain or core self-test the
  channel is quarantined HELD and its slot frees, otherwise it waits for Dawn. -/
  | channelCheckDone (c : Nat) (result : CheckResult)
  /-- LINK_UP (R486): A CXL host port finishes training after a port reset or at power-up, LINK_UP sets in CXH_STATUS, and the
  port carries traffic again. -/
  | linkUp (port speed width : Nat)
  /-- CONTROL_CORE_ACCESS (R439): A control core loads or stores at a rack address; a coherent access goes through the member's agent cache
  (RD_S, RD_X or UPG, victim choice), and a plain one is sent as a Solrov request, stalling the core until the
  response arrives. -/
  | controlCoreAccess (c core job addr n : Nat) (write : Bool) (data : List Byte)
  deriving DecidableEq, Repr, Inhabited

end Sys2Proof
end

