-- ==== Sys2Proof/Decode.lean ====
section
/-! DEFINITION. The decoder of the host's interface. The device is a block: its commands are register accesses, protocol messages and
events, and spec/opcode_table.json gives no row any bits, so no word spells a command. -/
namespace Sys2Proof

/-- The command that a word spells by the bits of spec/opcode_table.json: none, as no row of the table has bits. -/
def decodeTableWord (_nbits _w : Nat) : Option Instr := none

end Sys2Proof
end

