-- ==== Sys2Proof/Config.lean ====
section
/-! DEFINITION. What the spec leaves open: FREE VALUES, opaque constants with no body. Each is applied to the
state's draw counter (`State.free`) or to the operands it depends on, so that no proof can see which value it is.
The assumption log names each. -/
namespace Sys2Proof.Config

/-- A fresh natural number that the spec does not fix (log entry 6). The argument is the draw number. -/
opaque freeNat : Nat → Nat

/-- A byte whose value the spec leaves unspecified (log entry 6), by draw number. -/
opaque freeByte : Nat → Byte

/-- A 32-bit word whose value the spec leaves unspecified (log entry 6), by draw number. -/
opaque freeWord : Nat → Word

/-- A single choice that the spec leaves to the device (log entry 6), by draw number. -/
opaque freeBool : Nat → Bool

/-- The error of the side unit's product under R121, by its operands; the model holds it within the stated bound
(log entry 6). -/
opaque sideErr : Rat → Rat → Rat

/-- The relative error of an elementary function, by the function (0 exponential, 1 logarithm, 2 cosine and sine) and its
argument; the model holds it within the bound that the spec states for the function (log entry 6). -/
opaque fnErr : Nat → Rat → Rat

/-- The store that a VSE_SEARCH names, by LAYER and payload of the command: the spec says that the command names one and
not where (log entry 22). -/
opaque searchStore : Nat → List Byte → Nat

/-- The distance of two BF16 vectors of which one holds a value that is not finite: a number to order it by, by the bytes of
the two (log entry 6). -/
opaque openDist : List Byte → List Byte → Rat

/-- The FP32 bits reported for such a distance (log entry 6). -/
opaque openBits : List Byte → List Byte → Nat

/-- The content of the boot ROM, which measurement 1 covers (log entry 6). -/
opaque bootRom : List Byte

/-- The 16-byte record of measurement 2, by OPTIONS, CHAN_MASK, the fused SVN, KEY_REVOKE and KEY_SLOT: its layout is not stated
(log entry 6). -/
opaque hwRecord : Nat → Nat → Nat → Nat → Nat → List Byte

/-- Whether a DC region is shareable, as CDAT says it (log entry 6). -/
opaque regionShareable : Nat → Bool

/-- The frequency of a clock domain that CLK measures, in kHz (log entry 6). -/
opaque domKhz : Nat → Nat

/-- The byte that a read of a T0 state address beyond the general area, or of a channel that does not exist, brings (log entry 56). -/
opaque noSram : Nat → Byte

/-- The byte that a read of poison brings where its reader's chapter does not say what it makes of poison, by address (log entry 60). -/
opaque poisonByte : Nat → Byte

/-- TOKEN_BYTES of the coded transfers that a channel forms outside coded regions (log entry 60). -/
opaque tokenBytes : Nat → Nat

/-- The window and offset, as R187 packs them, under which a page of T0 or T1 is listed for a move to a node of the network (log entry
6). -/
opaque movePlace : Nat → Nat

end Sys2Proof.Config
end

