-- ==== Sys2Proof/Machine/State.lean ====
section
/-! DEFINITION. The state of the device as plain data, and the state right after reset. Registers live in one sparse
store (`regs`, with the shadow bank of R524 in `shadow`): a register that is not listed reads as its reset value.
Tables live in sparse maps in one canonical form. INVENTORY.md lists every piece with the rule that names it. -/
namespace Sys2Proof.Machine

/-- A sparse table: entries by rising key, none equal to what an unlisted key reads as. -/
abbrev SMap (α : Type) := List (Nat × α)

/-- The register access types of R5. -/
inductive Access where
  | ro | rw | rw1c | wo | rwl | rws
  deriving DecidableEq, Repr, Inhabited

/-- No command of this device stops the machine with a fault: what goes wrong in a command is a status, an error log
entry or an event, and the machine goes on. Nothing raises this; it is safe. -/
inductive Fault where
  /-- Raised by no meaning: the constructor only names the reason a stop would have (safe). -/
  | stopped
  deriving DecidableEq, Repr

/-- Why a command has no outcome. -/
inductive Refusal where
  /-- Raised by `exec` for a row that has no meaning yet (safe: the machine stops). -/
  | notModelled (mnemonic : String)
  deriving DecidableEq, Repr

/-- STATE of R8 and R603. -/
inductive BlkState where
  | off | init | running | draining | recovering | quarantined
  deriving DecidableEq, Repr, Inhabited

/-- The code of STATE in BLK_STAT (R8). -/
def BlkState.code : BlkState → Nat
  | .off => 0 | .init => 1 | .running => 2 | .draining => 3 | .recovering => 4 | .quarantined => 5

/-- What a block page holds beside its registers: STATE and QUIESCED of R8, and SHADOW_DIRTY of R524. -/
structure BlkSt where
  st : BlkState
  quiesced : Bool
  dirty : Bool
  deriving DecidableEq, Repr, Inhabited

/-- What the device sends out: interrupts, pins, replies and messages. The log is the MODEL's own; it only grows. -/
inductive OutMsg where
  /-- An MSI-X interrupt to an LD (R597, R505). -/
  | irq (ld vector : Nat)
  /-- The data of a register read with a side effect (R17, R96, R504). -/
  | readData (v : Word)
  /-- A pin driven to a level (R21, R514, R547). -/
  | pin (name : String) (level : Bool)
  /-- A notice to a control core of R507: an interrupt or a wake (R508, R527). -/
  | coreNotice (core : Nat) (what : String)
  /-- A notice on the management interface (R553, R568). -/
  | mgmtNotice (what : String)
  /-- A message of a chapter's protocol: a name, the numbers it carries, and its payload bytes. -/
  | msg (name : String) (args : List Nat) (data : List Byte)
  deriving DecidableEq, Repr

/-- Device memory: the bytes of the state address space (R200) and the 64-byte lines marked as poison (R606). A byte
that is not listed reads as 0 (DESIGN CHOICE, log entry 2). -/
structure Memory where
  cells : List Host.Cell
  poison : List Nat
  deriving DecidableEq, Repr, Inhabited

/-- CAD_STATE of R49. -/
inductive CadState where
  | stopped | waiting | running | extended
  deriving DecidableEq, Repr, Inhabited

/-- SYNC_STATE of R22 and R49. -/
inductive SyncState where
  | freeRunning | locked | holdover
  deriving DecidableEq, Repr, Inhabited

/-- The windows of R30. -/
inductive Window where
  | dawn | noon | dusk | midnight
  deriving DecidableEq, Repr, Inhabited

/-- TIM: the time of day, the synchronisation state and the cadence (R16 to R50). -/
structure Tim where
  /-- Time of day in nanoseconds: seconds × 10^9 + nanoseconds (R16). -/
  tod : Nat
  /-- The fraction of a nanosecond, in units of 2^-32 (R16). -/
  frac : Nat
  /-- Nanoseconds elapsed since reset, whatever steps ToD took; intervals are measured on it. -/
  now : Nat
  /-- CAD_ERR_NS at full width (R26). -/
  err : Int
  /-- Elapsed nanoseconds toward the next nanosecond of slew (R40), below 4,096. -/
  slew : Nat
  cad : CadState
  realign : Bool
  /-- The number of the current day, or of the last day while the cadence is stopped after running (R29). -/
  day : Nat
  /-- Whether the cadence has run since reset (R29). -/
  ran : Bool
  win : Window
  /-- Whether the current window's twilight guard has begun (R33). -/
  guard : Bool
  /-- ToD at which CAD_RUN was set (R28). -/
  runSet : Nat
  sync : SyncState
  goodCount : Nat
  lastReport : Nat
  lastOffset : Int
  holdSince : Nat
  degraded : Bool
  ppsPresent : Bool
  /-- ToD of the last PPS_IN edge (R21), and the elapsed time at which it came. -/
  ppsStamp : Nat
  ppsAt : Nat
  ref10m : Bool
  ppsOut : Bool
  ppsOutAt : Nat
  /-- The windows for which WINDOW_OVERRUN was posted this day (R37). -/
  overPosted : List Window
  deriving DecidableEq, Repr, Inhabited

/-- One section of a plan bank (R44): its type, its channel and its bytes, as they lie in the channel's T1 bank. -/
structure PlanSection where
  type : Nat
  ch : Nat
  data : List Byte
  deriving DecidableEq, Repr, Inhabited

/-- One plan bank (R42, R43). -/
structure Plan where
  id : Nat
  epoch : Nat
  periodUs : Nat
  winA : Nat
  winB : Nat
  guards : Nat
  chanMask : Nat
  sections : List PlanSection
  deriving DecidableEq, Repr, Inhabited

/-- PLN: the three plan banks and the load in progress (R42 to R47). -/
structure Pln where
  active : Plan
  retiring : Option Plan
  staged : Option Plan
  loading : Bool
  /-- The running load's address and length, taken when LOAD was set (R46). -/
  loadAddr : Nat
  loadLen : Nat
  /-- An activation day was written and no boundary has acted on it yet (R47; DEDUCED, log entry 8). -/
  armed : Bool
  deriving DecidableEq, Repr, Inhabited
/-- STATE of a request (R58). -/
inductive ReqState where
  | free | admitted | prefilling | sealed | moving | resident | decoding | spilled | cancelling | done | lost
  deriving DecidableEq, Repr, Inhabited

/-- The code of STATE (R58). -/
def ReqState.code : ReqState → Nat
  | .free => 0 | .admitted => 1 | .prefilling => 2 | .sealed => 3 | .moving => 4 | .resident => 5 | .decoding => 6
  | .spilled => 7 | .cancelling => 8 | .done => 9 | .lost => 10

/-- FLAGS of a request (R55). -/
structure ReqFlags where
  degraded : Bool
  damaged : Bool
  cancelPending : Bool
  sparseOn : Bool
  exitOn : Bool
  ftMissPosted : Bool
  ctMissPosted : Bool
  firstToken : Bool
  pulling : Bool
  keepPages : Bool
  noBinPosted : Bool
  deriving DecidableEq, Repr, Inhabited

/-- A request entry (R54), and what the device remembers of it beside: the table of its pages, whether its release has
completed (R63), whether its move is outbound and to whom (R86), and whether a step was taken this day (R59). -/
structure ReqEntry where
  st : ReqState
  job : Nat
  bulk : Bool
  prio : Nat
  fallback : Nat
  exitLayer : Nat
  smpCfg : Nat
  curLen : Nat
  cring : Nat
  promptLen : Nat
  layers : Nat
  maxNew : Nat
  flags : ReqFlags
  endCode : Nat
  preMove : ReqState
  gen : Nat
  pageRoot : Nat
  shard : Nat
  ftDeadline : Nat
  ctDeadline : Nat
  countTable : Nat
  userTag : Nat
  lastCommit : Nat
  stepEst : Nat
  bin : Nat
  prefixLen : Nat
  pagesReserved : Nat
  pagesHeld : Nat
  evictBudget : Nat
  admitNs : Nat
  firstTokenNs : Nat
  handle : Nat
  /-- The table of the request's pages (R185); 0 is none. -/
  table : Nat
  /-- The release of a DONE or LOST entry has completed (R63). -/
  released : Bool
  /-- The move is outbound: MOVE_OPEN was applied here (R86). -/
  outbound : Bool
  /-- The inbound end: SRC_REQ_INDEX, SRC_GEN and SRC_NODE of R85. The outbound end: the node that sent MOVE_OPEN. -/
  moveReq : Nat
  moveGen : Nat
  moveNode : Nat
  /-- Some page of an outbound request has switched home (R88). -/
  switched : Bool
  /-- The source's page table has been received (R86 step 2). -/
  tableIn : Bool
  /-- Its place in the order of the last placement (R148, R157). -/
  placeIx : Nat
  /-- The completion of the request has already been counted or its deadline evaluated today (R77). -/
  monitored : Bool
  /-- A shard: STRIDE and PHASE of the bin in which its home placed itself (R90). -/
  homeBin : Option (Nat × Nat)
  /-- A shard: GEN of its home, as the last QUERY record that the home forwarded carried it (R169). -/
  homeGen : Nat
  deriving DecidableEq, Repr, Inhabited

/-- A request command that waits for the next Dawn start (R62). -/
inductive PendKind where
  | admission | accept | cancel | park | resume | moveAbort | moveOpen
  /-- A change that a shard's home forwarded (R90): a CANCEL, PARK, RESUME or fallback. -/
  | shardCancel | shardPark | shardResume | shardFallback
  deriving DecidableEq, Repr, Inhabited

/-- A pending command of R62: its arrival stamp, the slot and generation it names, its command, and the prefill bin and
the job for the order of R71. -/
structure Pend where
  kind : PendKind
  stamp : Nat
  slot : Nat
  gen : Nat
  cmd : Cmd
  /-- MOVE_OPEN: the node that sent it and the destination's REQ_INDEX. -/
  node : Nat
  peer : Nat
  /-- A CANCEL of a request whose CANCEL_PENDING was set already (R84). -/
  again : Bool
  deriving DecidableEq, Repr, Inhabited

/-- RQT and ADM on one channel (R53, R62, R71). -/
structure RqtCh where
  entries : SMap ReqEntry
  pend : List Pend
  /-- R10 over job numbers (R71). -/
  jobPtr : Nat
  /-- RQT_ROLE_NEXT was written since the last Dawn start (R65). -/
  roleWritten : Bool
  /-- ToD at the start of the last Dusk, until the day's evaluations are done (R77). -/
  duskTod : Option Nat
  /-- The slots placed in a bin at the last Dawn, in placement order, with their generations (R148, R157). -/
  placed : SMap (List (Nat × Nat))
  deriving DecidableEq, Repr, Inhabited
/-- STATE of a page table entry (R187). -/
inductive PteState where
  | valid | moving | poisoned | evicted
  deriving DecidableEq, Repr, Inhabited

/-- The code of a PTE's STATE (R187). -/
def PteState.code : PteState → Nat
  | .valid => 0 | .moving => 1 | .poisoned => 2 | .evicted => 3

/-- A page table entry (R187). `there` is false where no entry was written. A link names its home by the home's key. -/
structure Pte where
  there : Bool
  st : PteState
  tier : Nat
  link : Bool
  held : Nat
  /-- Address bits [47:12] of the image, as a 48-bit number; with TIER KWEUZ the window index at [47:32] and the offset
  at [31:12]. -/
  addr : Nat
  home : Nat
  ref : Nat
  score : Nat
  moveId : Nat
  deriving DecidableEq, Repr, Inhabited

/-- Who owns a page table: a request slot, a handle, or nobody once it is released (R190). -/
inductive TblOwner where
  | none
  | req (slot : Nat)
  | handle (idx : Nat)
  deriving DecidableEq, Repr, Inhabited

/-- A page table (R185): its owner, the address of its root, and the address of the second-level table behind each
first-level entry that is PRESENT. -/
structure PgTable where
  owner : TblOwner
  job : Nat
  root : Nat
  layers : Nat
  stride : Nat
  l2 : SMap Nat
  /-- USER_TAG of the owner, for events (R219). -/
  userTag : Nat
  deriving DecidableEq, Repr, Inhabited

/-- HSTATE of a handle record (R191). -/
inductive HState where
  | free | empty | held | freeing
  deriving DecidableEq, Repr, Inhabited

/-- A prefix handle record (R191). `table` is its table's number, 0 while EMPTY. -/
structure Handle where
  root : Nat
  len : Nat
  layers : Nat
  job : Nat
  st : HState
  gen : Nat
  pagesHeld : Nat
  table : Nat
  /-- A FREEING handle's release has completed (R192). -/
  released : Bool
  deriving DecidableEq, Repr, Inhabited

/-- Where a page image lies: a tier and the 48-bit address of R187. -/
structure Place where
  tier : Nat
  addr : Nat
  deriving DecidableEq, Repr, Inhabited

/-- Why a page moves (R204). -/
inductive MoveKind where
  /-- A demand pull for a sweep (R208). -/
  | pull
  /-- Scheduled movement of an inbound request (R86). -/
  | sched
  /-- A park (R89). -/
  | park
  /-- A placement in T0, or back into T1 (R203). -/
  | t0
  deriving DecidableEq, Repr, Inhabited

/-- A page move in one of the channel's 64 move slots (R204). -/
structure PageMove where
  kind : MoveKind
  /-- The key of the home PTE. -/
  pte : Nat
  src : Place
  dst : Place
  /-- The plan epoch under which it was issued (R12). -/
  epoch : Nat
  /-- The request whose page it is, if one is served. -/
  slot : Nat
  /-- It failed and waits for the next window (R206). -/
  retry : Bool
  /-- It is paused at the end of its window (R38). -/
  paused : Bool
  /-- The 4 KiB boundary of the image at which a paused transfer stops (R374). -/
  stopAt : Nat
  /-- The day on which it was asked for. -/
  day : Nat
  /-- Image bytes whose transfer by Solrov was asked for, or by a Kweuz READ has ended. -/
  done : Nat
  /-- How its transfer by Kweuz or Solrov ended (R375, R412): 0 not yet, 1 arrived, 2 arrived as poison, 3 failed. -/
  isOver : Nat
  /-- What the pieces so far have met: 0 nothing, 2 poison, 3 a failure. -/
  flaw : Nat
  /-- The page was POISONED when the move began, and is again if the move fails (R206, R211). -/
  wasBad : Bool
  /-- The rack address of the side record of a source that is split in another device's T1 (R85, R181); 0 else. -/
  side : Nat
  deriving DecidableEq, Repr, Inhabited

/-- A freed image that reads still hold (R210): its place, whether it was POISONED, and the reads: the numbers of the
sweep streams and of the move slots that resolved to it. -/
structure DrainEntry where
  place : Place
  poisoned : Bool
  readers : List Nat
  deriving DecidableEq, Repr, Inhabited

/-- PGM and DMV on one channel (R177 to R223). Page table entries are keyed by
(table × 4,096 + layer) × 65,536 + page index. -/
structure PgmCh where
  ptes : SMap Pte
  tables : SMap PgTable
  nextTable : Nat
  handles : SMap Handle
  /-- Units of the table region in use: region number → table, counted from 1. -/
  units : SMap Nat
  /-- Page slots borrowed for tables: pool index → the use of its four units (0 free, else the table). -/
  borrowed : SMap (List Nat)
  /-- Pool indices of page slots that are not free: allocated, borrowed, draining, waiting for a scrub, or retired. -/
  used : List Nat
  /-- Images of the T0 page area in use (R183). -/
  t0used : List Nat
  /-- Park-area images in use, by the job and the map entry's tier: job × 8 + tier → image numbers (R202). -/
  parkUsed : SMap (List Nat)
  /-- Pool indices held out of the pool until a scrub (R213). -/
  scrub : List Nat
  retired : List Nat
  drain : List DrainEntry
  moves : SMap (Option PageMove)
  /-- Failed park attempts of a page, by PTE key (R206). -/
  parkTries : SMap Nat
  /-- Moves that wait: for a free slot of the pool, a move slot, or a running move of the page (R204, R208). -/
  waiting : List PageMove
  /-- Moves that were asked for while PGM accepted no work: asked for again when it does (R7). -/
  later : List PageMove
  /-- The layout in use (R182): pool base, pool slots, table base and table units. -/
  poolBase : Nat
  poolSlots : Nat
  tblBase : Nat
  tblUnits : Nat
  /-- Keys of home PTEs of inbound requests whose pages are still homed at the source (R86). -/
  atSource : List Nat
  /-- Where the side records of such pages lie that a device of the rack holds (R85, R181). -/
  sides : SMap Nat
  deriving DecidableEq, Repr, Inhabited

/-- A COPY or CONVERT command that started and has not completed (R217, R326): chunks done, the positions in the source's
and the destination's outlier and extension lists, flags, bytes written, and the job's ESC_THRESH when it started. -/
structure DmvRun where
  cmd : Cmd
  chunk : Nat
  srcOut : Nat
  srcExt : Nat
  dstOut : Nat
  dstExt : Nat
  flags : Nat
  written : Nat
  thresh : Nat
  /-- The chunk, counted from 1, whose loads from rack space have been sent, and what they brought: address, bytes, poison. -/
  fetched : Nat
  got : List (Nat × List Byte × Bool)
  /-- The chunk's stores into rack space have been sent and its end waits for their answers; the bytes written before it. -/
  settling : Bool
  before : Nat
  /-- The status with which a request of the chunk failed; 0 none. SOLROV_KEY_NAK was posted for the command (R410). -/
  fail : Nat
  nak : Bool
  deriving DecidableEq, Repr, Inhabited

/-- DMV's commands on one channel, by job (R314: a job has at most one that has started), and the bytes that COPY and CONVERT
carried through the crossbar beyond whole units of 4 KiB (R222). -/
structure DmvCh where
  runs : SMap (Option DmvRun)
  xbar : Nat
  deriving DecidableEq, Repr, Inhabited
/-- A stored block of 16 elements (R104 to R107): its side word, its code part (8 bytes in a NARROW plane, 16 in a WIDE
one), its extension entry if it has one, and its outlier entries. -/
structure LBlock where
  side : Nat
  code : List Byte
  ext : List Byte
  outl : List Nat
  deriving DecidableEq, Repr, Inhabited

/-- An accumulator with its ACC_REF (R117). `live` is false until the first tile feeds it; `sat` is R119's saturated. -/
structure Acc where
  a : Int
  ref : Int
  live : Bool
  sat : Bool
  deriving DecidableEq, Repr, Inhabited

/-- One query row of a stream: the running maximum and sum of R122, its output accumulators, and its weight sums by page
of the stream (R161). `seen` is false until a position was visible (R605). -/
structure RowRun where
  seen : Bool
  m : Int
  l : Nat
  acc : List Acc
  mass : SMap Nat
  deriving DecidableEq, Repr, Inhabited

/-- One page of a stream: its index, the key of its own PTE, where it was resolved to, its HELD, and whether it is
POISONED (R159, R189). -/
structure StreamPage where
  page : Nat
  pte : Nat
  place : Place
  held : Nat
  poisoned : Bool
  deriving DecidableEq, Repr, Inhabited

/-- A stream of a sweep: one member, one KV head, one row set (R133, R134). `done` is the positions that tiles have
covered, padding included. -/
structure StreamRun where
  slot : Nat
  head : Nat
  rowBase : Nat
  pages : List StreamPage
  len : Nat
  pad : Nat
  done : Nat
  rows : List RowRun
  finished : Bool
  deriving DecidableEq, Repr, Inhabited

/-- A member of a running sweep (R157): its slot and generation, whether streams were laid out for it, whether its output
was written, whether the sweep goes on without it because its step was abandoned (R160) or for another cause (`left`), whether a
POISONED page was masked for it, whether its record carries encoder keys and values only, so that it has no output (R165), and
its ARITH_FLAGS in this sweep (R125). -/
structure MemberRun where
  slot : Nat
  gen : Nat
  laid : Bool
  written : Bool
  abandoned : Bool
  left : Bool
  damaged : Bool
  silent : Bool
  flags : Nat
  deriving DecidableEq, Repr, Inhabited

/-- What an operation that runs across a day boundary goes on with: the plan epoch and the banked configuration of PGM, ATN and SKT
that it started with (R39). -/
structure OldBank where
  epoch : Nat
  pgm : Word
  atn : Word
  skt : Word
  deriving DecidableEq, Repr, Inhabited

/-- A sweep that started and has not completed (R139, R147, R173). -/
structure SweepRun where
  cmd : Cmd
  desc : List Byte
  members : List MemberRun
  streams : List StreamRun
  tiles : Nat
  cycles : Nat
  padPos : Nat
  stall : Nat
  /-- Projection passes that have run: 2 × slot before a member's streams, 2 × slot + 1 after them (R153). -/
  proj : SMap Nat
  /-- Elapsed time at which the running tile began, or the run was resumed. -/
  tileAt : Nat
  /-- Records that wait for room in the OUT ring, first the one held in the save slot (R163). -/
  held : List (List Byte)
  /-- The padded length of every stream: 16 × the largest page count among the members (R158). -/
  lpad : Nat
  /-- The slots placed in its bin at Dawn, in placement order: the members' order in the planes (R148, R157). -/
  placed : List Nat
  /-- Set at a day boundary that the sweep runs across (R39). -/
  old : Option OldBank
  deriving DecidableEq, Repr, Inhabited

/-- A QUERY record in step staging (R166): its queries and its new keys and values, in stored form, token by token. -/
structure StagedRec where
  pos : Nat
  ntok : Nat
  kv : Bool
  xkv : Bool
  bytes : Nat
  q : List LBlock
  kvb : List LBlock
  /-- ARITH_FLAGS of its encoding (R125). -/
  flags : Nat
  deriving DecidableEq, Repr, Inhabited

/-- A partial record of a row set that arrived (R169, R170): the shard's position, and its payload. -/
structure PartRec where
  pos : Nat
  payload : List Byte
  deriving DecidableEq, Repr, Inhabited

/-- A member's step of the day (R59): what staging holds for it, the layers whose sweep it has passed, and what the
sampler made of it. -/
structure StepRun where
  day : Nat
  gen : Nat
  started : Bool
  abandoned : Bool
  cause : Nat
  /-- Layers of which a QUERY record was taken, and what it holds. -/
  staged : SMap (Option StagedRec)
  /-- Sweeps that have started with the member, as layer × 8 + KIND. -/
  swept : List Nat
  /-- The OUT ring of its last sweep, counted from 1; 0 while no sweep has reached it (R160). -/
  lastRing : Nat
  lastLayer : Nat
  /-- Attention mass by layer × 65,536 + page: the FP32 sums of R161. -/
  mass : SMap (List Word)
  /-- Partial records by layer (R169). -/
  parts : SMap (List PartRec)
  /-- New recurrent state by layer × 256 + head: the bytes of the state plane (R150). -/
  newState : SMap (List Byte)
  flags : Nat
  committed : Bool
  /-- Sketch selection by layer: the PTE keys chosen for each stream, and the ARITH_FLAGS of the far keys read (R125, R230). -/
  sel : SMap (Option (List (List Nat) × Nat))
  /-- Full pages without a valid far record that selection met today, by PTE key (R236). -/
  farWant : List Nat
  deriving DecidableEq, Repr, Inhabited

/-- ATN on one channel (R131 to R176). Steps are by slot, runs by job. -/
structure AtnCh where
  steps : SMap StepRun
  runs : SMap (Option SweepRun)
  /-- The consumption offset C of each OUT ring (R163). -/
  xrC : SMap Nat
  /-- Rings for which XR_OUT_FULL, and for which XR_RECORD_DROPPED, was posted today. -/
  fullPosted : List Nat
  dropPosted : List Nat
  /-- The slot, generation and layer of every QUERY record taken today (R167). -/
  taken : List (Nat × Nat × Nat)
  /-- The Noon cut-off of the day has fallen (R160). -/
  cut : Bool
  deriving DecidableEq, Repr, Inhabited

/-- A knowledge store (R238, R240): whose it is, its descriptor, and the groups of each of its lists, by group number of the
page pool, in the order of appending. -/
structure VStore where
  isSet : Bool
  job : Nat
  desc : List Byte
  groups : SMap (List Nat)
  deriving DecidableEq, Repr, Inhabited

/-- A candidate of a query (R245): the value it is ordered by, the FP32 bits of its distance, its VREF, and whether it was
expanded (R248). -/
structure VCand where
  key : Rat
  out : Nat
  vref : Nat
  expanded : Bool
  deriving DecidableEq, Repr, Inhabited

/-- A query of a search (R244 to R248): its record, whether it was refused, the lists by coarse distance, how many of them
are probed, the re-probe rounds run, the lists it scans in the present round, its IVF_PQ tables with Σ tmin and W, and its
candidates in order. -/
structure VQuery where
  bytes : List Byte
  refused : Bool
  order : List Nat
  probed : Nat
  rounds : Nat
  want : List Nat
  tab : List (List Nat)
  tmin : Rat
  w : Rat
  cands : List VCand
  isOver : Bool
  deriving DecidableEq, Repr, Inhabited

/-- A VSE_SEARCH that started and has not completed: its store, its queries, the lists of the round still to be scanned, and
the list being scanned with the number of its next group. -/
structure SearchRun where
  cmd : Cmd
  store : Nat
  queries : List VQuery
  todo : List Nat
  cur : Option Nat
  grp : Nat
  deriving DecidableEq, Repr, Inhabited

/-- VSE on one channel (R238 to R256): stores by number, groups of dropped stores with the tenant they are charged to, until
Midnight frees them (R329), searches by job × 8 + engine, the repair list, and RERANK_EN as it is in effect (R249). -/
structure VseCh where
  stores : SMap VStore
  dropped : List (Nat × Nat)
  runs : SMap (Option SearchRun)
  repair : List (Nat × Nat)
  rerank : Bool
  deriving DecidableEq, Repr, Inhabited
/-- A step in the sampler (R284, R290): what its LOGITS record gave, the rows prepared so far, and the tokens once they
are derived. -/
structure SmpStep where
  gen : Nat
  day : Nat
  pos : Nat
  prefill : Bool
  ntok : Nat
  /-- Drafts: token and the FP32 bits of Q. -/
  drafts : List (Nat × Nat)
  /-- The logit rows behind the draft block, as the record holds them; under INDIRECT none, and the state address of the
  first row (R165, R284). -/
  rows : List Byte
  src : Option Nat
  /-- The bytes of each row that SMP has prepared, of the length that the row's own record gave (R282). -/
  rowB : SMap (List Byte)
  /-- One entry per row: none until SMP has prepared it, then the configuration record it was prepared under, empty if
  the configuration failed R282. -/
  done : List (Option (List Byte))
  /-- The count table as read once for the step (R293), and the state address parts it lies in. -/
  counts : Option (List Byte)
  parts : List (Nat × Nat)
  derived : Bool
  tokens : List Nat
  logps : List Nat
  accepted : Nat
  /-- The END_CODE that the tokens give; 0 for none. -/
  endCode : Nat
  /-- Beam search: FP32 bits of S after this step, and the member whose child it took. -/
  score : Nat
  parent : Option Nat
  deriving DecidableEq, Repr, Inhabited

/-- A member of a beam group: its slot and generation, and the FP32 bits of its score S (R296). -/
structure BeamMember where
  slot : Nat
  gen : Nat
  score : Nat
  deriving DecidableEq, Repr, Inhabited

/-- A beam group, leader first, and whether its first token has been produced (R295, R296). -/
structure BeamGroup where
  members : List BeamMember
  begun : Bool
  deriving DecidableEq, Repr, Inhabited

/-- A completion record that waits for room in its ring: a terminal transition's (R298, R300; DEDUCED, log entry 14). -/
structure WaitingCr where
  ring : Nat
  job : Nat
  slot : Nat
  record : List Byte
  deriving DecidableEq, Repr, Inhabited

/-- A member of a commit that has begun and stands stalled (R205, R298): whether it stands for the commit in the overrun count (R37),
and the plan epoch and the configuration that the commit started under and finishes with (R39). -/
structure BegunCommit where
  slot : Nat
  lead : Bool
  old : OldBank
  deriving DecidableEq, Repr, Inhabited

/-- SMP on one channel (R280 to R302). Configuration records by index, empty while unclaimed; steps by slot. -/
structure SmpCh where
  cfgs : SMap (List Byte)
  /-- Records that changed while a row ran under their earlier contents (R282), by index, with those contents. -/
  oldCfg : SMap (Option (List Byte))
  steps : SMap SmpStep
  beams : List BeamGroup
  waitCr : List WaitingCr
  /-- Rings for which CRING_FULL was posted today. -/
  crFull : List Nat
  /-- Slots whose commit stands stalled on a full ring. -/
  stalled : List Nat
  /-- Members of commits that stand stalled. -/
  begun : List BegunCommit
  deriving DecidableEq, Repr, Inhabited

/-- How the head of a lane stands (R312, R579). -/
inductive LaneState where
  | ready
  /-- Suspended at a pre-emption point; it resumes before the lane's next command (R314). -/
  | suspended
  /-- Set aside for the fault of this ID (R325). -/
  | faulted (id : Nat)
  /-- Set aside without an ID, because all 64 are in use (R324). -/
  | faultWait
  /-- Set aside on a full OUT ring (R163). -/
  | ringWait
  deriving DecidableEq, Repr, Inhabited

/-- A command in a job's lane (R311). -/
structure LaneCmd where
  cmd : Cmd
  st : LaneState
  /-- The plan epoch under which a suspended command started (R12); 0 for a command that has not started. -/
  epoch : Nat
  /-- Engine time used so far (R316), and time spent at the head of the lane, ready without the engine (R573). -/
  used : Nat
  waited : Nat
  /-- The job's WEIGHT as the command started (R304); 0 for a command that has not started. -/
  weight : Nat
  /-- The job's ESC_THRESH and BASE_NS as the command started (R304); 0 for a command that has not started. -/
  esc : Nat
  base : Nat
  /-- It holds a save record (R140, R310). -/
  saved : Bool
  deriving DecidableEq, Repr, Inhabited

/-- What holds an engine of a channel (R310, R314). -/
structure Engine where
  holder : Option Cmd
  /-- Elapsed time at which the holder took the engine, or at which its time was last accounted. -/
  since : Nat
  /-- Engine time that the holder has used, in ns (R316). -/
  used : Nat
  /-- A suspension was requested under R315. -/
  preempt : Bool
  /-- The plan epoch under which the holder started (R12). -/
  epoch : Nat
  /-- Time the holder waited, ready without the engine. -/
  waited : Nat
  /-- The job's WEIGHT as the holder started (R304). -/
  weight : Nat
  /-- The job's ESC_THRESH and its BASE_NS for the engine as the holder started (R304). -/
  esc : Nat
  base : Nat
  deriving DecidableEq, Repr, Inhabited

/-- A completion record that waits for room in its completion queue (R309). -/
structure WaitingCpl where
  cq : Nat
  record : List Byte
  cmd : Cmd
  engine : Nat
  deriving DecidableEq, Repr, Inhabited

/-- A job's use of one engine in the interval of R320. -/
structure Usage where
  engineNs : Nat
  cmds : Nat
  /-- The sum of BASE_NS over those commands, each as it started (R304). -/
  base : Nat
  waitNs : Nat
  deriving DecidableEq, Repr, Inhabited

/-- JSC on one channel: lanes, deficits, engines and what waits (R305 to R320). Lanes, deficits and usage are keyed by
job × 8 + engine. -/
structure JscCh where
  lanes : SMap (List LaneCmd)
  deficits : SMap Rat
  /-- The deficits as the last update at a multiple of 64 ns left them (R313, R334). -/
  shown : SMap Rat
  engines : SMap Engine
  /-- Elapsed time up to which the deficits are accrued (R313). -/
  lastUpdate : Nat
  /-- Elapsed time of the last update at a multiple of 64 ns (R313). -/
  tick : Nat
  /-- Arrival stamps of the units that doorbells published: queue × 65,536 + unit (R32). -/
  stamps : SMap (Option Stamp)
  /-- Jobs whose tear-down runs, with its CAUSE (R329); 0 is none. -/
  tearing : SMap Nat
  waitCpl : List WaitingCpl
  /-- Completion queues whose PHASE bit is inverted: an odd number of wraps since enabled (R307). -/
  phaseFlip : SMap Bool
  /-- Commands dispatched and not yet completed, by command queue (R311, BARRIER). -/
  outstanding : SMap Nat
  /-- R10 pointers: 8 for dispatch over queues, 0-4 for the engines over jobs. -/
  ptr : SMap Nat
  usage : SMap Usage
  /-- Events dropped today from each job's queue (R332). -/
  evqDrops : SMap Nat
  /-- Completion queues for which CQ_FULL was posted today (R309). -/
  cqFull : List Nat
  /-- Sweeps of the day plan not yet in a lane: one further queue of each job (R145, R311). -/
  planQueue : List Cmd
  /-- Commands discarded by a channel-fatal fault that complete later (R563). -/
  discarded : List Cmd
  /-- Commands of each job that a fault discarded during its tear-down (R328, R329). -/
  torn : SMap Nat
  /-- Commands that left their engine before they complete, with the BASE_NS under which they started (R304, R311, R427). -/
  handed : List (Cmd × Nat)
  deriving DecidableEq, Repr, Inhabited

/-- A fault outstanding at the ATU (R324). -/
structure AtuFault where
  engine : Nat
  cause : Nat
  write : Bool
  virtual : Bool
  job : Nat
  op : Nat
  addr : Nat
  tag : Nat
  tod : Nat
  /-- Whether its record has been written to the fault queue (R336). -/
  posted : Bool
  /-- Elapsed time at which the record was posted (R327). -/
  postedAt : Nat
  deriving DecidableEq, Repr, Inhabited

/-- A cached translation (R323). -/
structure TlbEntry where
  job : Nat
  /-- Job page number, address bits [47:12]. -/
  page : Nat
  frame : Nat
  read : Bool
  write : Bool
  deriving DecidableEq, Repr, Inhabited

/-- ATU on one channel: outstanding faults by FAULT_ID, faults that wait for an ID, the TLB, and the invalidation that
runs (R323, R324). -/
structure AtuCh where
  faults : SMap (Option AtuFault)
  waiting : List AtuFault
  tlb : List TlbEntry
  inv : Option (Nat × Bool × Nat × Nat)
  deriving DecidableEq, Repr, Inhabited

/-- A packet that the port is to send: its bytes in the clear without the tag, its frame length, where it goes, and the seal.
`move` is the plan epoch of scheduled movement and parks (R388); `conn`, `psn` and `req` say what it belongs to; `last` marks
the last packet of a request, sent for the first time. -/
structure EPkt where
  bytes : List Byte
  len : Nat
  dst : KPeer
  vlan : Option Nat
  dscp : Nat
  sport : Nat
  /-- The payload in the clear, and the key and salt that seal the packet as it leaves (R347); nothing seals a BUSY. -/
  pay : List Byte
  keys : Option (Nat × Nat)
  /-- A PTP message, whole in `bytes` (R389). -/
  ptp : Bool
  move : Option Nat
  conn : Nat
  psn : Nat
  req : Nat
  last : Bool
  /-- Elapsed time at which it entered its egress queue. -/
  enter : Nat
  deriving DecidableEq, Repr, Inhabited

/-- Why a shaper's head waits: for its slot on the wheel, fine or coarse (R383), for room in its queue (R384), or at its gate
(R388). A coarse wait keeps the eligibility time; none marks a placement beyond the horizon. -/
inductive ShpWait where
  | none
  | fine (due : Nat)
  | coarse (due : Nat) (elig : Option Nat)
  | full
  | gated
  deriving DecidableEq, Repr, Inhabited

/-- A flow shaper (R381): the packets that wait, first the head; TOKENS in units of 2^-16 bytes and the elapsed time up to
which they are filled. -/
structure Shaper where
  fifo : List EPkt
  tokens : Nat
  at_ : Nat
  wait : ShpWait
  deriving DecidableEq, Repr, Inhabited

/-- What the sampling of R394 has seen of a queue in the interval, up to the elapsed time `at_`. -/
structure QStat where
  obs : Nat
  dMin : Nat
  dMax : Nat
  dSum : Nat
  hMin : Nat
  hMax : Nat
  hSum : Nat
  at_ : Nat
  deriving DecidableEq, Repr, Inhabited

/-- An egress queue: its packets, its deficit (R390), and its samples. -/
structure EQueue where
  pkts : List EPkt
  deficit : Nat
  stat : QStat
  deriving DecidableEq, Repr, Inhabited

/-- A policer's two buckets, in units of 2^-16 bytes, and the elapsed time up to which they are filled (R391). -/
structure Policer where
  tc : Nat
  te : Nat
  at_ : Nat
  deriving DecidableEq, Repr, Inhabited

/-- TRC on one channel (R381 to R397). `turn` is the queue whose turn it is in the round robin of a priority p of interface i, under
8 × i + p. -/
structure TrcCh where
  shapers : SMap Shaper
  queues : SMap EQueue
  turn : SMap Nat
  policers : SMap Policer
  /-- Elapsed time at which the sampling interval began. -/
  smpFrom : Nat
  /-- ToD of the newest sample instant, counted from 1. -/
  smpLast : Nat
  ovfPosted : Bool
  ctlPosted : Bool
  deriving DecidableEq, Repr, Inhabited

/-- The path that a route gives: where to, the tag, and DSCP (R342). -/
structure KPath where
  dest : KPeer
  vlan : Option Nat
  dscp : Nat
  deriving DecidableEq, Repr, Inhabited

/-- A PSN that is sent and not acknowledged (R345, R355): its opcode, header flags (R344), extension header; the local ranges
that a WRITE's payload is read from again, or the payload of a response; its request; the IV_CTR of its last sending; whether
a SACK bit covers it, and whether it was retransmitted early (R371). `to` is the path of a response. -/
structure KSent where
  psn : Nat
  op : Nat
  flags : Nat
  ext : List Byte
  src : List (Nat × Nat)
  data : List Byte
  req : Nat
  iv : Nat
  sacked : Bool
  fast : Bool
  dest : Option KPeer
  /-- The path of the first sending, which retransmissions use too (R343). -/
  route : Option KPath
  /-- It belongs to a device transfer (R374). -/
  dev : Bool
  move : Option Nat
  deriving DecidableEq, Repr, Inhabited

/-- An outstanding request (R363 to R367): its operation, local ranges, key, window offset, length and operands; the bytes for
which packets are formed and the bytes placed; its first and last PSN; the plan epoch of its route (R343). `dev` is the move
slot of a device transfer (R374), counted from 1. `ended` marks a WRITE that has completed and whose STATUS can still come. -/
structure KReq where
  id : Nat
  op : Nat
  coded : Bool
  noCpl : Bool
  ranges : List (Nat × Nat)
  key : Nat
  off : Nat
  len : Nat
  tag : Nat
  aop : Nat
  operand0 : Nat
  operand1 : Nat
  formed : Nat
  placed : Nat
  psn0 : Nat
  psn1 : Nat
  epoch : Nat
  dev : Nat
  gate : Bool
  poisoned : Bool
  stale : Bool
  ended : Bool
  deriving DecidableEq, Repr, Inhabited

/-- A READ_REQ that the target answers (R367): the window, the state address and the length of the range, the bytes sent, and
where the answers go. -/
structure KRead where
  reqId : Nat
  psn : Nat
  win : Nat
  base : Nat
  len : Nat
  done : Nat
  coded : Bool
  dest : KPeer
  deriving DecidableEq, Repr, Inhabited

/-- A WRITE message of which packets have been received (R361, R362): its window under the key it came with, its first offset and its
length, and the raw bytes placed and refused. -/
structure KMsg where
  win : Nat
  key : Nat
  start : Nat
  len : Nat
  placed : Nat
  lost : Nat
  deriving DecidableEq, Repr, Inhabited

/-- A connection context (R349), with the transmit and reassembly state of KWP. CSTATE is 0 IDLE, 1 READY, 2 ERROR. `bitmap`
is RX_BITMAP. -/
structure KConn where
  cstate : Nat
  dflt : Bool
  sub : Nat
  job : Nat
  peerNode : Nat
  peerConn : Nat
  gen : Nat
  cq : Nat
  sqBase : Nat
  sqLog2 : Nat
  maxPay : Nat
  shaper : Nat
  retries : Nat
  sqHead : Nat
  sqTail : Nat
  txPsn : Nat
  unaPsn : Nat
  rxEpsn : Nat
  flushErr : Nat
  txIv : Nat
  rate : Nat
  srtt : Nat
  rttvar : Nat
  txSalt : Nat
  rxSalt : Nat
  txKey : Nat
  rxKey : Nat
  bitmap : Nat
  sent : List KSent
  reqs : List KReq
  nextReq : Nat
  reads : List KRead
  /-- Answers that wait for the send window or for the end of a pause, oldest first (R352, R355). -/
  outq : List KSent
  msgs : List KMsg
  /-- FLUSH PSNs that wait for earlier packets, with their answer's path (R369). -/
  flushes : List (Nat × KPeer)
  /-- Packets accepted since the last ACK, and the elapsed time of the oldest of them (R370). -/
  accepted : Nat
  oldest : Nat
  /-- A packet accepted since the last ACK came with CE. -/
  ce : Bool
  /-- SEND_TIME of the newest accepted packet, the elapsed time of its receipt, and its path. -/
  echoTime : Nat
  echoAt : Nat
  echoTo : Option KPeer
  /-- Elapsed time from which the retransmission timer runs (R371). -/
  timerAt : Nat
  /-- End of a BUSY pause and the PSN from which transmission resumes (R352). -/
  pause : Option (Nat × Nat)
  busyRun : Nat
  /-- A congestion signal since the last rate adjustment, and its elapsed time (R373). -/
  congested : Bool
  adjustAt : Nat
  deriving DecidableEq, Repr, Inhabited

/-- A window record (R356), and the elapsed time of its last closing, counted from 1 (R358). -/
structure KWin where
  isOpen : Bool
  read : Bool
  write : Bool
  atomic : Bool
  ringEn : Bool
  ring : Nat
  job : Nat
  assigned : Bool
  gen : Nat
  check : Nat
  base : Nat
  len : Nat
  closed : Nat
  deriving DecidableEq, Repr, Inhabited

/-- KWP on one channel (R338 to R380). `cache` gives the connection in each of the 8,192 places of the context cache, counted
from 1; `miss` the packets that wait for a fetch, with their opcode and arrival channel, oldest first; `fetching` the
connections being fetched; `bad` the error bitmap (R353); `ahead` the placed messages of each ring that wait for TAIL (R362). -/
structure KwpCh where
  conns : SMap KConn
  wins : SMap KWin
  cache : SMap Nat
  cachePtr : Nat
  fetching : List Nat
  miss : List (Nat × Nat × KPkt)
  bad : List Nat
  ahead : SMap (List (Nat × Nat))
  /-- The µs in which BUSY answers were last sent, and their number (R352). -/
  busyUs : Nat
  busySent : Nat
  /-- Sub-ports whose link is up, and sub-ports whose last FEC interval exceeded the threshold. -/
  up : List Nat
  fecBad : List Nat
  /-- SPLIT as it is in effect (R338). -/
  split : Bool
  deriving DecidableEq, Repr, Inhabited

/-- A Solrov message (R406): its header by fields, with the words at 0x10, 0x18 and 0x1C whole, as their meaning depends on
MTYPE (R406, R442), and the bytes of its data slots. -/
structure SMsg where
  mtype : Nat
  ordered : Bool
  poison : Bool
  tag : Nat
  srcSlot : Nat
  srcCh : Nat
  dstSlot : Nat
  dstCh : Nat
  addr : Nat
  rack : Nat
  w10 : Nat
  key : Nat
  w18 : Nat
  w1c : Nat
  data : List Byte
  deriving DecidableEq, Repr, Inhabited

/-- What a transaction tag serves: a fragment of the device's own record, a Solrov command, a piece of a COPY or CONVERT chunk of
a job, a piece of a page move, a control core's access (core, the part's offset in
the access, and the bytes of the first slot that precede it), a granule of
the agent, a granule that the home cleans, or a granule of the arbiter. -/
inductive TagUse where
  | dev
  /-- The MOVE_OPEN of an inbound entry: its slot and generation (R85, R87). -/
  | moveOpen (slot gen : Nat)
  | cmd (cmd : Cmd)
  | dmv (job : Nat)
  | move (id off : Nat)
  | core (core off skip : Nat)
  | agent (gran : Nat)
  | home (gran : Nat)
  | arb (gran : Nat)
  deriving DecidableEq, Repr, Inhabited

/-- A transaction tag in use (R407, R423): what it serves, the MTYPE, the target, the address and length, the issuing job, the
plan epoch of its route, and the elapsed time of its sending. `quar` marks it quarantined (R425); `mute` marks a torn-down job's,
whose completion is discarded (R411). `region` is the region that the request named. -/
structure STag where
  live : Bool
  use : TagUse
  mtype : Nat
  slot : Nat
  ch : Nat
  addr : Nat
  len : Nat
  job : Nat
  region : Nat
  epoch : Nat
  at_ : Nat
  quar : Bool
  mute : Bool
  /-- The request still waits for a tag (R1): the port that it will leave by, and its message. Such a request stands under a number
  of 2^34 and more. -/
  wait : Option (Nat × SMsg)
  deriving DecidableEq, Repr, Inhabited

/-- An ordered store that waits for earlier stores (R415, R416): its number, its message, what it serves, the numbers of the
stores it still waits for, and whether one of them failed. A store that was sent has its tag as number, a cached store of the
agent 16,384 and more, and an ordered store that waits 2^32 and more. -/
structure OrdStore where
  num : Nat
  msg : SMsg
  use : TagUse
  job : Nat
  len : Nat
  waits : List Nat
  broken : Bool
  deriving DecidableEq, Repr, Inhabited

/-- The link of a port in Solrov mode (R399 to R402). `out` holds the messages that wait for credits, by VC, as slots; `slots` the
slots whose credits are taken; `replay` the DATA flits not yet acknowledged. `part` holds the slots of the message being received,
and `due` the credits to return. -/
structure SlpLink where
  up : Bool
  retraining : Bool
  txSeq : Nat
  out : List (Nat × List (List Byte))
  slots : List (List Byte)
  replay : List (Nat × List Byte)
  credits : List Nat
  rxNext : Nat
  rxAny : Bool
  part : List (List Byte)
  due : List Nat
  /-- The millisecond of elapsed time in which symbols were last corrected, their count in it, and whether it exceeded the
  threshold (R402). -/
  fecMs : Nat
  fecCount : Nat
  fecBad : Bool
  deriving DecidableEq, Repr, Inhabited

/-- A record of another device that is being collected (R422): who sends it, its RECORD_ID and ring, and the fragments so far. -/
structure DevRec where
  slot : Nat
  ch : Nat
  id : Nat
  ring : Nat
  parts : SMap (List Byte)
  deriving DecidableEq, Repr, Inhabited

/-- SLP on one channel (R398 to R431). `inbox` holds the messages that have arrived for the channel, with the port that received
each; 16 stands for the device itself. `orderBad` marks jobs of which a store failed since their last ordered store. -/
structure SlpCh where
  /-- The port runs in Solrov mode (R398). -/
  mode : Bool
  link : SlpLink
  inbox : List (Nat × SMsg)
  tags : SMap STag
  order : List OrdStore
  orderBad : List Nat
  nextOrd : Nat
  /-- The number of the next request that waits for a tag (R1), counted from 2^34. -/
  nextWait : Nat
  /-- Inbound entries whose MOVE_OPEN did not reach its source: slot and generation (R87). -/
  cutOpens : List (Nat × Nat)
  dead : List Nat
  /-- The elapsed time of the last SOLROV_STALL of a slot, counted from 1 (R424). -/
  stallAt : SMap Nat
  /-- Regions for which SOLROV_KEY_NAK, and slots for which DEV_MSG_DROPPED, was posted today. -/
  nakPosted : List Nat
  devPosted : List Nat
  recs : List DevRec
  nextRec : Nat
  /-- The Solrov command on the MOVER waits for a place among the commands that await responses or in the order queue. -/
  held : Bool
  deriving DecidableEq, Repr, Inhabited

/-- A near-memory operation (R417 to R420): its request, its pieces done, and what it has taken so far. `sum` holds FP32 bits of a
reduction, none before the first element; `out` and `ext` the places in an L4 source's lists; `buf` the bytes of a COPY's 4 KiB
that have been read. -/
structure NmoOp where
  id : Nat
  msg : SMsg
  piece : Nat
  buf : List Byte
  count : Nat
  flags : Nat
  sum : Option Nat
  found : Option Nat
  out : Nat
  ext : Nat
  poisoned : Bool
  /-- The granules of the present piece that await their grants (R440). -/
  want : List Nat
  finished : Bool
  deriving DecidableEq, Repr, Inhabited

/-- NMO on one channel (R418): the operations that run, at most 8, and those that wait, oldest first. -/
structure NmoCh where
  running : List NmoOp
  waiting : List SMsg
  deriving DecidableEq, Repr, Inhabited

/-- The states of an agent line (R445). -/
inductive LineState where
  | i | s | e | o | m | isD | imD | smA | omA | miA | oiA | eiA | siA | iiA
  deriving DecidableEq, Repr, Inhabited

/-- A line of the agent cache (R438, R445): its way, data, the tag of its outstanding request, the retries so far, the GNT that has
arrived (STATE, DATA_EXP, POISON) and the DATA (bytes, POISON), and the elapsed time at which a resend is due. -/
structure CLine where
  st : LineState
  way : Nat
  data : List Byte
  tag : Nat
  age : Nat
  gnt : Option (Nat × Bool × Bool)
  dat : Option (List Byte × Bool)
  resend : Option Nat
  job : Nat
  key : Nat
  region : Nat
  deriving DecidableEq, Repr, Inhabited

/-- A cached access that the agent holds (R439): 0 load, 1 store, 2 atomic, on `n` bytes from byte `off` of a granule. `num` is the
number under which an ordered store waits for it. -/
structure CAcc where
  kind : Nat
  gran : Nat
  off : Nat
  n : Nat
  data : List Byte
  aop : Nat
  op0 : Nat
  op1 : Nat
  job : Nat
  key : Nat
  region : Nat
  use : TagUse
  ch : Nat
  num : Nat
  deriving DecidableEq, Repr, Inhabited

/-- A COH_FLUSH that waits for the agent (R459): the channel that issued it, and the granules still held. -/
structure CFlush where
  cmd : Cmd
  ch : Nat
  grans : List Nat
  deriving DecidableEq, Repr, Inhabited

/-- A transaction of the arbiter on a granule (R448 to R451). `kind`: 0 RD_S, 1 RD_X, 2 UPG, 3 WB, 4 EVC, 5 CLEAN, 6 the eviction of
the entry, 7 the poisoning of a dead owner's granule; `who` is the requester number of R453. `snoops` are the members whose SRSP is outstanding, with whether data was asked
of them; `ownerSt` the STATE of the owner's answer; `gone` the holders that snoops invalidated. -/
structure Trans where
  kind : Nat
  who : Nat
  slot : Nat
  ch : Nat
  tag : Nat
  snoops : List (Nat × Bool)
  ownerSt : Option Nat
  gone : List Nat
  grant : Nat
  dataExp : Bool
  granted : Bool
  /-- The granule of the eviction that must end first (R451). -/
  after : Option Nat
  /-- The tag of an outstanding MRD, MWR or PSN, counted from 1, and which of them it is (0x58, 0x59, 0x5A). -/
  homeTag : Nat
  homeOp : Nat
  /-- The data of a WB, or what an eviction brought. -/
  data : List Byte
  dataIn : Bool
  dirty : Bool
  needData : Bool
  /-- The home is dead: the grant carries POISON (R458). -/
  bad : Bool
  deriving DecidableEq, Repr, Inhabited

/-- An entry of the snoop filter (R447): X, the owner, the sharers, its way, and the transaction that makes it BUSY. -/
structure FEntry where
  there : Bool
  excl : Bool
  owner : Option Nat
  sharers : List Nat
  way : Nat
  trans : Option Trans
  deriving DecidableEq, Repr, Inhabited

/-- A reservation (R452). -/
structure Resv where
  gran : Nat
  who : Nat
  age : Nat
  deriving DecidableEq, Repr, Inhabited

/-- A granule that the home cleans (R440): the access or operation that it serves, by number, its tag and retries, the GNT and DATA that have arrived, and a resend that is due. -/
structure HGran where
  there : Bool
  who : Nat
  tag : Nat
  age : Nat
  gnt : Option (Bool × Bool)
  dat : Option (List Byte × Bool × Bool)
  granted : Bool
  resend : Option Nat
  deriving DecidableEq, Repr, Inhabited

/-- CCX on one channel (R434 to R464): the domain's state and members, the agent, the home, the arbiter and the controller. -/
structure CcxCh where
  /-- DSTATE: 0 DOWN, 1 JOINING, 2 UP, 3 LOST. -/
  dstate : Nat
  up : List Nat
  lines : SMap CLine
  /-- The rotating pointer of each set of the agent. -/
  setPtr : SMap Nat
  accs : List CAcc
  nextAcc : Nat
  flushes : List CFlush
  /-- A write of RERANK_EN that waits for the eviction of ways 8 to 15 (R438). -/
  rerank : Option Word
  /-- Requests of other devices that wait for grants, and the granules of them. -/
  homeAcc : List (Nat × SMsg)
  homeGran : SMap HGran
  /-- Home accesses that wait for the domain to be UP (R437). -/
  homeWait : List SMsg
  filter : SMap FEntry
  filtPtr : SMap Nat
  resv : List Resv
  tiePtr : Nat
  /-- The controller: members that joined, and members declared dead. -/
  joined : List Nat
  deadM : List Nat
  /-- Elapsed times, counted from 1: of the last HB of each member, of the last HB_ECHO, and of the last HB_SEND. -/
  hb : SMap Nat
  echo : Nat
  hbSent : Nat
  protoPosted : Bool
  deriving DecidableEq, Repr, Inhabited

/-- What an LD holds beside its registers (R467, R485, R505). -/
structure LdSt where
  /-- MSI-X enabled by the host through configuration space. -/
  msix : Bool
  contained : Bool
  deriving DecidableEq, Repr, Inhabited

/-- A CXL host port (R465, R486, R488, R492). -/
structure CxhPort where
  linkUp : Bool
  speed : Nat
  width : Nat
  ideIo : Bool
  ideCm : Bool
  /-- Keys programmed for the CXL.io stream and for the CXL.cachemem stream (R488). -/
  ioKeys : Bool
  cmKeys : Bool
  /-- Whether the CXL.cachemem stream runs in skid mode; in containment mode otherwise. -/
  skid : Bool
  viral : Bool
  deriving DecidableEq, Repr, Inhabited

/-- CXH: the ports, and the LDs by requester number. -/
structure Cxh where
  ports : SMap CxhPort
  lds : SMap LdSt
  deriving DecidableEq, Repr, Inhabited

/-- An entry of the composition table (R470), and how far its release has come (R473). -/
structure CompEntry where
  valid : Bool
  shared : Bool
  pending : Bool
  releasing : Bool
  ld : Nat
  port : Nat
  region : Nat
  epoch : Nat
  length : Nat
  stateBase : Nat
  dpaBase : Nat
  tag : Nat
  /-- 0 no release, 1 the host's Release is awaited, 2 BISnpInv are outstanding (R473 steps 1 and 2). -/
  relStep : Nat
  deriving DecidableEq, Repr, Inhabited

/-- A back-invalidate filter entry (R476): its way, the A holder, or the S holders. -/
structure BifEntry where
  there : Bool
  way : Nat
  holdA : Option Nat
  holdS : List Nat
  /-- Chosen to make room: its holders are being snooped (R478). -/
  leaving : Bool
  deriving DecidableEq, Repr, Inhabited

/-- A BISnp that waits for its BIRsp (R477). -/
structure BiSnp where
  ld : Nat
  line : Nat
  inv : Bool
  sentAt : Nat
  deriving DecidableEq, Repr, Inhabited

/-- An access that waits for snoops: of a host, or a write of the device, as requester 32 (R477). -/
structure HostAccess where
  ld : Nat
  dpa : Nat
  /-- The state address that its epoch's entry maps it to. -/
  addr : Nat
  write : Bool
  /-- What a read asks for: 0 no copy, 1 S, 2 A. -/
  want : Nat
  data : List Byte
  /-- The epoch whose in-flight count it holds (R474). -/
  epoch : Nat
  /-- The job of a write of the device. -/
  job : Nat
  /-- The bytes that a write of the device marks as poison; 0 where it writes data. -/
  mark : Nat
  deriving DecidableEq, Repr, Inhabited

/-- A share record (R482). -/
structure Share where
  valid : Bool
  tenant : Nat
  version : Nat
  liveAddr : Nat
  liveLen : Nat
  mirror : Nat
  deriving DecidableEq, Repr, Inhabited

/-- A PUBLISH that waits for its back-invalidates (R484). -/
structure PendingPublish where
  ch : Nat
  cmd : Cmd
  share : Nat
  expect : Nat
  new : Nat
  addr : Nat
  len : Nat
  deriving DecidableEq, Repr, Inhabited

/-- CMP: the composition table, its epochs, the back-invalidate filter by line number, and the shares. -/
structure Cmp where
  entries : SMap CompEntry
  epoch : Nat
  retiring : Option Nat
  filter : SMap BifEntry
  wayPtr : SMap Nat
  snoops : List BiSnp
  waiting : List HostAccess
  /-- Requests that wait until CMP accepts work (R7; log entry 61). -/
  later : List HostAccess
  shares : SMap Share
  publishes : List PendingPublish
  deriving DecidableEq, Repr, Inhabited

/-- A mailbox (R497 to R501): the data words, MB_IRQ, SEQ, the flags of MB_STAT, MB_ACK, SENDER, and whether MBX_COLLISION was posted
for it today. -/
structure Mailbox where
  data : SMap Word
  irq : Word
  seq : Nat
  full : Bool
  collision : Bool
  ackValid : Bool
  ack : Word
  sender : Nat
  posted : Bool
  deriving DecidableEq, Repr, Inhabited

/-- MBX: the mailboxes, what the receive window has latched since the last EMPTY or ACK (mailbox, SEQ and SENDER), the rotating
pointer of each core, and whether MBX_STALE_EMPTY was posted today (R504, R507, R511). -/
structure Mbx where
  boxes : SMap Mailbox
  latch : Option (Nat × Nat × Nat)
  ptr : SMap Nat
  stalePosted : Bool
  deriving DecidableEq, Repr, Inhabited

/-- PHASE of R512. -/
inductive BootPhase where
  | fuses | rom | image | verify | load | train | released | failed
  deriving DecidableEq, Repr, Inhabited

/-- The service state of a channel in BOOT_CH_STATE (R530). -/
inductive ChSvc where
  | inService | draining | out | retraining
  deriving DecidableEq, Repr, Inhabited

/-- CSTATE of a control core (R530). -/
inductive CoreState where
  | off | romWait | running | drained | updating
  deriving DecidableEq, Repr, Inhabited

/-- A control core, in the numbering of R507. -/
structure CoreSt where
  st : CoreState
  covering : Option Nat
  svn : Nat
  /-- Whether the core has failed (R570). -/
  failed : Bool
  /-- The mailboxes whose routes it took over with the duties that it covers (R527, R570). -/
  took : List Nat
  deriving DecidableEq, Repr, Inhabited

/-- A core update that runs on a die or among the device cores (R527). -/
structure CoreUpdate where
  core : Nat
  standin : Nat
  /-- The T2 address and the length of the image, as GO took them. -/
  addr : Nat
  len : Nat
  /-- 1 interrupting the target, 2 drained and reading, 3 loaded and restarting. -/
  step : Nat
  /-- The SVN of the image that was read. -/
  svn : Nat
  /-- SHA-256 of the FIRMWARE section that was read (measurement 8 + k). -/
  hash : List Byte
  deriving DecidableEq, Repr, Inhabited

/-- BOOT: the boot phase, the fuses, the received image, the cores, updates, channels out of service, and the NOR
(R512 to R530). -/
structure Boot where
  pwrGood : Bool
  /-- Elapsed time of the last rise of PWR_GOOD. -/
  goodAt : Nat
  phase : BootPhase
  failCode : Nat
  srcCxl : Bool
  relMs : Nat
  fuses : Fuses
  /-- The fuses have been read since the part was made: later loads give the same bank, with the bits burned since. -/
  fused : Bool
  chanMask : Nat
  /-- The chunks of the image received so far: offset and bytes (R513). -/
  chunks : SMap (List Byte)
  /-- The image that passed R518. -/
  image : List Byte
  cores : SMap CoreSt
  updates : SMap (Option CoreUpdate)
  chOut : SMap ChSvc
  nor : SMap Byte
  norBusy : Bool
  norRefused : Bool
  /-- Channels whose stack failed training (R514). -/
  trainFailed : List Nat
  deriving DecidableEq, Repr, Inhabited

/-- An SPDM session (R523). -/
structure SpdmSession where
  id : Nat
  /-- 0 key exchange done, 1 established. -/
  established : Bool
  /-- Key updates made. -/
  keyGen : Nat
  deriving DecidableEq, Repr, Inhabited

/-- One SPDM transport: CXH0, CXH1 or the management interface (R523). -/
structure SpdmPort where
  gotVersion : Bool
  gotCaps : Bool
  negotiated : Bool
  version : Nat
  sessions : List SpdmSession
  deriving DecidableEq, Repr, Inhabited

/-- SEC: identity, measurements and SPDM sessions (R520 to R523). -/
structure Sec where
  idReady : Bool
  keySlot : Nat
  /-- SHA-256 measurements by index (R522). -/
  meas : SMap (List Byte)
  spdm : SMap SpdmPort
  deriving DecidableEq, Repr, Inhabited

/-- A power domain as PSQ_DOM_STAT shows it (R539, R554). A domain is ON until something powers it down (DESIGN CHOICE,
log entry 10). -/
inductive DomState where
  | on | off | queued | ramping
  deriving DecidableEq, Repr, Inhabited

/-- A power domain, the elapsed time of its last change, and whether that was a power-down for want of work, which a wake-up request of
the same cycle undoes (R541). -/
structure Dom where
  st : DomState
  since : Nat
  idled : Bool := false
  deriving DecidableEq, Repr, Inhabited

/-- PSQ: wake tokens, temperatures, throttling, the input and the trip (R536 to R547). Temperatures are in units of
1/8 °C, as PSQ_TJ shows them. -/
structure Psq where
  doms : SMap Dom
  /-- Tokens taken from a full bucket. -/
  spent : Nat
  ptr : Nat
  lastToken : Nat
  temps : SMap Nat
  lastSample : Nat
  /-- Demand of the Tj rows of R544, and the elapsed time since when Tj is cool enough for it to fall. -/
  tjDemand : Nat
  tjCool : Option Nat
  stackHot : Bool
  stackCool : Option Nat
  powerDemand : Nat
  /-- Input-power samples of the current millisecond: their number and their sum in mW. -/
  samples : Nat
  sampleSum : Nat
  /-- Consecutive samples above PWR_LIMIT + 40 W. -/
  overRun : Nat
  lastAverage : Nat
  level : Nat
  lastFall : Nat
  /-- Elapsed time up to which PSQ_THROT_US_CNT is accounted. -/
  throtAt : Nat
  /-- Since when Tj has been at or above 110 °C (R547). -/
  hotSince : Option Nat
  tripped : Bool
  /-- The core regulators are off, after a trip or an input fault. -/
  regsOff : Bool
  deriving DecidableEq, Repr, Inhabited

/-- CLK: references lost (0 SYSREF25, 1 REFCLK100, 2-5 SREF0-3, 6 REF10M_IN), PLLs out of lock by domain, and the
strap (R548 to R551). -/
structure Clk where
  lost : SMap Bool
  unlocked : SMap Bool
  sysrefSel : Bool
  deriving DecidableEq, Repr, Inhabited

/-- Service state of a channel in RAS_CH_STATE (R582). -/
inductive ChService where
  | inService | recovering | waiting | held
  deriving DecidableEq, Repr, Inhabited

/-- RAS's record of one channel (R560 to R566). -/
structure RasCh where
  svc : ChService
  source : Nat
  faultDay : Nat
  /-- Dawn starts since the channel took its slot (R565). -/
  dawns : Nat
  /-- 0 no check yet, 1 the check runs, 2 the check passed and the channel waits for Dawn (R564). -/
  check : Nat
  /-- Whether the channel took its slot from WAITING, and so returns empty (R566). -/
  wasWaiting : Bool
  ceToday : Nat
  cePosted : Bool
  deriving DecidableEq, Repr, Inhabited

/-- RAS: the recovery slots and the device-fatal state (R566, R568). -/
structure Ras where
  ch : SMap RasCh
  slot0 : Option Nat
  slot1 : Option Nat
  ptr : Nat
  fatal : Option Nat
  /-- The pages that detected a standing device-fatal fault: each shows FAULT (R8). -/
  fatalAt : List Page
  deriving DecidableEq, Repr, Inhabited

/-- The six counts of a counter set (R573). -/
structure CntSet where
  cmds : Nat
  engineNs : Nat
  dramRd : Nat
  dramWr : Nat
  stallNs : Nat
  waitNs : Nat
  deriving DecidableEq, Repr, Inhabited

/-- The results of a watch point (R576). -/
structure WatchRes where
  armed : Bool
  hits : Nat
  values : Nat
  nonfinite : Nat
  /-- FP32 bits; none while no finite value has been seen (read as +Inf and -Inf). -/
  min : Option Word
  max : Option Word
  /-- FP64 bits. -/
  sum : DWord
  sumSq : DWord
  /-- The running CRC-64 (R577), before the final inversion; none before the first byte. -/
  digest : Option DWord
  deriving DecidableEq, Repr, Inhabited

/-- One entry of a hang snapshot (R579). -/
structure SnapEntry where
  kind : Nat
  unit : Nat
  job : Nat
  id : Nat
  value : Nat
  deriving DecidableEq, Repr, Inhabited

/-- DBG: counter sets and watch points by channel × 64 + number, and each channel's snapshot (R573 to R579). -/
structure Dbg where
  sets : SMap CntSet
  snaps : SMap CntSet
  wps : SMap WatchRes
  snapshot : SMap (List SnapEntry)
  truncated : SMap Bool
  deriving DecidableEq, Repr, Inhabited

/-- A spare offer (R571). -/
structure SpareOffer where
  pending : Bool
  isCore : Bool
  /-- Channel for a column, die for a core. -/
  unit : Nat
  /-- Column or core. -/
  item : Nat
  committed : Bool
  deriving DecidableEq, Repr, Inhabited

/-- State of a compute die's spare core (R570, R586). -/
inductive SpareCore where
  | free | covering | remapped
  deriving DecidableEq, Repr, Inhabited

/-- SPR: offers by OFFER_ID, the array columns, and the spare cores (R569 to R572). -/
structure Spr where
  offers : SMap SpareOffer
  slicesUsed : SMap Nat
  masked : SMap (List Nat)
  lastFailed : SMap Nat
  die0 : SpareCore
  die0Core : Nat
  die1 : SpareCore
  die1Core : Nat
  deriving DecidableEq, Repr, Inhabited

/-- The state of one channel's blocks. -/
structure Chan where
  rqt : RqtCh
  pgm : PgmCh
  dmv : DmvCh
  atn : AtnCh
  smp : SmpCh
  jsc : JscCh
  atu : AtuCh
  vse : VseCh
  kwp : KwpCh
  trc : TrcCh
  slp : SlpCh
  nmo : NmoCh
  ccx : CcxCh
  deriving DecidableEq, Repr, Inhabited

/-- The state of the device. `pending`, `out` and `free` are the model's own: the commands that wait, the log of what
the device sent, and the draw counter of the free values. -/
structure State where
  tim : Tim
  pln : Pln
  regs : SMap Word
  shadow : SMap Word
  blk : SMap BlkSt
  mem : Memory
  chan : SMap Chan
  cxh : Cxh
  cmp : Cmp
  mbx : Mbx
  boot : Boot
  sec : Sec
  ras : Ras
  dbg : Dbg
  spr : Spr
  psq : Psq
  clk : Clk
  out : List OutMsg
  free : Nat
  pending : List Instr
  deriving DecidableEq, Repr, Inhabited

/-- TIM after a cold start: FREE_RUNNING, TIME_DEGRADED set, the cadence STOPPED, ToD 0 (R22, R23, R49). -/
def Tim.reset : Tim := { (default : Tim) with degraded := true }

/-- The fuse bank of the model: GNV-U1616 with every channel enabled, no key and no burned bit (DESIGN CHOICE, log
entry 5); FUSES_LOADED replaces it by the bank that the part holds. -/
def Fuses.u1616 : Fuses :=
  { options := 0x10, chanMask := 0xFFFF, idSeed := List.replicate 32 0, keyHash0 := List.replicate 32 0,
    keyHash1 := List.replicate 32 0, keyHash2 := List.replicate 32 0, keyHash3 := List.replicate 32 0,
    keyRevoke := 0, svn := 0 }

/-- The plan bank before a boot image is loaded: the default period and windows of R30, no sections. -/
def Plan.dflt : Plan :=
  { id := 0, epoch := 0, periodUs := 20000, winA := 0x00CCC19A, winB := 0xF33, guards := 0, chanMask := 0xFFFF,
    sections := [] }

/-- The device right after reset: every register at its reset value, every block OFF, the cadence STOPPED, BOOT in
phase FUSES with PWR_GOOD not yet risen (R512), every table empty. -/
def State.reset : State :=
  { tim := Tim.reset, pln := { (default : Pln) with active := Plan.dflt },
    regs := [], shadow := [], blk := [], mem := { cells := [], poison := [] }, chan := [],
    cxh := default, cmp := default, mbx := default,
    boot := { (default : Boot) with fuses := Fuses.u1616, chanMask := 0xFFFF },
    sec := default, ras := default, dbg := default, spr := default, psq := default, clk := default, out := [], free := 0, pending := [] }

end Sys2Proof.Machine
end

