-- ==== Sys2Proof/Machine/Store.lean ====
section
/-! DEFINITION. The operations on sparse tables. A table lists the entries that differ from the value an unlisted key
reads as, in strictly rising key order: one canonical form, so that equal tables are equal data. -/
namespace Sys2Proof.Machine

/-- What the table holds at a key: the listed entry, or what an unlisted key reads as. -/
def SMap.get {α : Type} (dflt : Nat → α) (m : SMap α) (k : Nat) : α :=
  match m with
  | [] => dflt k
  | (k', v) :: m => if k = k' then v else SMap.get dflt m k

/-- Puts an entry in its place in the key order. -/
def SMap.place {α : Type} (k : Nat) (v : α) : SMap α → SMap α
  | [] => [(k, v)]
  | (k', v') :: m =>
    if k < k' then (k, v) :: (k', v') :: m
    else if k = k' then (k, v) :: m
    else (k', v') :: SMap.place k v m

/-- Removes a key. -/
def SMap.drop {α : Type} (k : Nat) (m : SMap α) : SMap α := m.filter fun e => e.1 != k

/-- Writes an entry; writing what an unlisted key reads as removes it. -/
def SMap.put {α : Type} [DecidableEq α] (dflt : Nat → α) (k : Nat) (v : α) (m : SMap α) : SMap α :=
  if v = dflt k then SMap.drop k m else SMap.place k v m

/-- The keys rise strictly. -/
def SMap.rising {α : Type} : SMap α → Bool
  | [] => true
  | [_] => true
  | (k, _) :: (k', v') :: m => decide (k < k') && SMap.rising ((k', v') :: m)

/-- The canonical form: keys strictly rising, and no entry equal to what an unlisted key reads as. -/
def SMap.wf {α : Type} [DecidableEq α] (dflt : Nat → α) (m : SMap α) : Bool :=
  SMap.rising m && m.all fun e => decide (e.2 ≠ dflt e.1)

/-- `get` for the tables whose unlisted entries are the default record. -/
def SMap.at {α : Type} [Inhabited α] (m : SMap α) (k : Nat) : α := SMap.get (fun _ => default) m k

/-- `put` for the tables whose unlisted entries are the default record. -/
def SMap.set {α : Type} [DecidableEq α] [Inhabited α] (m : SMap α) (k : Nat) (v : α) : SMap α :=
  SMap.put (fun _ => default) k v m

/-- Changes one entry by a function of it. -/
def SMap.upd {α : Type} [DecidableEq α] [Inhabited α] (m : SMap α) (k : Nat) (f : α → α) : SMap α :=
  m.set k (f (m.at k))

/-- The listed keys whose entries satisfy a test, in rising order. -/
def SMap.keysWhere {α : Type} (m : SMap α) (p : Nat → α → Bool) : List Nat :=
  (m.filter fun e => p e.1 e.2).map Prod.fst

end Sys2Proof.Machine
end

