-- ==== Sys2Proof/Machine/Regs.lean ====
section
/-! DEFINITION. The register tables of the spec: one row per register of each block page at offset 0x100 and above
(the tables of R48 to R586), the header of R6, and the reset value that an unlisted register reads as. Each row carries
the offset, the number of 32-bit words, the access type of R5, the bits that are not reserved, the selector register
that reaches it, the reset value, whether the register is banked under R524, and whether it is a counter under R593. -/
namespace Sys2Proof.Machine

/-- One row of a register table. -/
structure RegRow where
  off : Nat
  words : Nat
  acc : Access
  mask : Nat
  sel : Option Nat
  reset : Nat
  banked : Bool
  cnt : Bool
  deriving DecidableEq, Repr, Inhabited

/-- A register: its block and the offset of its first word. -/
structure RegId where
  blk : Blk
  off : Nat
  deriving DecidableEq, Repr, Inhabited

/-- Registers of TIM: `Reg.X` is the register that the spec names X. -/
def Reg.TOD_NS : RegId := ⟨.tim, 0x100⟩
def Reg.TOD_SEC_LO : RegId := ⟨.tim, 0x104⟩
def Reg.TOD_SEC_HI : RegId := ⟨.tim, 0x108⟩
def Reg.TOD_CTRL : RegId := ⟨.tim, 0x10C⟩
def Reg.TOD_SET_NS : RegId := ⟨.tim, 0x110⟩
def Reg.TOD_SET_SEC_LO : RegId := ⟨.tim, 0x114⟩
def Reg.TOD_SET_SEC_HI : RegId := ⟨.tim, 0x118⟩
def Reg.TOD_STEP_NS : RegId := ⟨.tim, 0x11C⟩
def Reg.TOD_FREQ_ADJ : RegId := ⟨.tim, 0x120⟩
def Reg.TIM_STATUS : RegId := ⟨.tim, 0x124⟩
def Reg.LOCK_CFG : RegId := ⟨.tim, 0x128⟩
def Reg.SERVO_OFFSET_NS : RegId := ⟨.tim, 0x12C⟩
def Reg.HOLD_PPB : RegId := ⟨.tim, 0x130⟩
def Reg.DRIFT_EST_NS : RegId := ⟨.tim, 0x134⟩
def Reg.PTP_CFG : RegId := ⟨.tim, 0x138⟩
def Reg.PPS_CFG : RegId := ⟨.tim, 0x13C⟩
def Reg.PPS_IN_NS : RegId := ⟨.tim, 0x140⟩
def Reg.PPS_IN_SEC_LO : RegId := ⟨.tim, 0x144⟩
def Reg.PPS_IN_SEC_HI : RegId := ⟨.tim, 0x148⟩
def Reg.CAD_CTRL : RegId := ⟨.tim, 0x150⟩
def Reg.CAD_ORIGIN_NS : RegId := ⟨.tim, 0x154⟩
def Reg.CAD_ORIGIN_SEC_LO : RegId := ⟨.tim, 0x158⟩
def Reg.CAD_ORIGIN_SEC_HI : RegId := ⟨.tim, 0x15C⟩
def Reg.CAD_DAY_BASE_LO : RegId := ⟨.tim, 0x160⟩
def Reg.CAD_DAY_BASE_HI : RegId := ⟨.tim, 0x164⟩
def Reg.CAD_DAY_LO : RegId := ⟨.tim, 0x168⟩
def Reg.CAD_DAY_HI : RegId := ⟨.tim, 0x16C⟩
def Reg.CAD_PHASE : RegId := ⟨.tim, 0x170⟩
def Reg.CAD_ERR_NS : RegId := ⟨.tim, 0x174⟩
def Reg.CAD_PERIOD_US : RegId := ⟨.tim, 0x178⟩
def Reg.CAD_WIN_A : RegId := ⟨.tim, 0x17C⟩
def Reg.CAD_WIN_B : RegId := ⟨.tim, 0x180⟩
def Reg.CAD_GUARD : RegId := ⟨.tim, 0x184⟩
def Reg.WIN_OVR_A : RegId := ⟨.tim, 0x188⟩
def Reg.WIN_OVR_B : RegId := ⟨.tim, 0x18C⟩
def Reg.REALIGN_CNT : RegId := ⟨.tim, 0x190⟩
def Reg.MOVE_CARRIED_CNT : RegId := ⟨.tim, 0x194⟩

/-- Registers of PLN: `Reg.X` is the register that the spec names X. -/
def Reg.PLN_CTRL : RegId := ⟨.pln, 0x100⟩
def Reg.PLN_STATUS : RegId := ⟨.pln, 0x104⟩
def Reg.PLN_LOAD_ADDR_LO : RegId := ⟨.pln, 0x108⟩
def Reg.PLN_LOAD_ADDR_HI : RegId := ⟨.pln, 0x10C⟩
def Reg.PLN_LOAD_LEN : RegId := ⟨.pln, 0x110⟩
def Reg.PLN_ACT_DAY_LO : RegId := ⟨.pln, 0x114⟩
def Reg.PLN_ACT_DAY_HI : RegId := ⟨.pln, 0x118⟩
def Reg.PLN_ACTIVE_ID : RegId := ⟨.pln, 0x11C⟩
def Reg.PLN_EPOCHS : RegId := ⟨.pln, 0x120⟩
def Reg.PLN_STAGED_ID : RegId := ⟨.pln, 0x124⟩

/-- Registers of RQT: `Reg.X` is the register that the spec names X. -/
def Reg.RQT_ROLE : RegId := ⟨.rqt, 0x100⟩
def Reg.RQT_ROLE_NEXT : RegId := ⟨.rqt, 0x104⟩
def Reg.RQT_CFG : RegId := ⟨.rqt, 0x108⟩
def Reg.RQT_SEL : RegId := ⟨.rqt, 0x10C⟩
def Reg.RQT_CNT_A : RegId := ⟨.rqt, 0x110⟩
def Reg.RQT_CNT_B : RegId := ⟨.rqt, 0x114⟩
def Reg.RQT_CNT_C : RegId := ⟨.rqt, 0x118⟩
def Reg.RQT_CNT_D : RegId := ⟨.rqt, 0x11C⟩
def Reg.RQT_CNT_E : RegId := ⟨.rqt, 0x120⟩
def Reg.RQT_CNT_F : RegId := ⟨.rqt, 0x124⟩
def Reg.RQT_CANCEL_CNT : RegId := ⟨.rqt, 0x128⟩
def Reg.RQT_DROP_CNT : RegId := ⟨.rqt, 0x12C⟩
def Reg.RQT_LOST_CNT : RegId := ⟨.rqt, 0x130⟩
def Reg.RQT_ENTRY : RegId := ⟨.rqt, 0x200⟩

/-- Registers of ADM: `Reg.X` is the register that the spec names X. -/
def Reg.ADM_CTRL : RegId := ⟨.adm, 0x100⟩
def Reg.ADM_RESERVE_PAGES : RegId := ⟨.adm, 0x104⟩
def Reg.ADM_FREE_PAGES : RegId := ⟨.adm, 0x108⟩
def Reg.ADM_MARGIN_INT : RegId := ⟨.adm, 0x10C⟩
def Reg.ADM_MARGIN_BULK : RegId := ⟨.adm, 0x110⟩
def Reg.ADM_DEF_STEP_NS : RegId := ⟨.adm, 0x114⟩
def Reg.ADM_TQ_SEL : RegId := ⟨.adm, 0x118⟩
def Reg.ADM_TQ_QUOTA : RegId := ⟨.adm, 0x11C⟩
def Reg.ADM_TQ_CHARGED : RegId := ⟨.adm, 0x120⟩
def Reg.ADM_REJ_A : RegId := ⟨.adm, 0x124⟩
def Reg.ADM_REJ_B : RegId := ⟨.adm, 0x128⟩
def Reg.ADM_PENDING : RegId := ⟨.adm, 0x12C⟩
def Reg.ADM_FALLBACK_CNT : RegId := ⟨.adm, 0x130⟩
def Reg.ADM_MISS_PRED_CNT : RegId := ⟨.adm, 0x134⟩
def Reg.ADM_MISSED_CNT : RegId := ⟨.adm, 0x138⟩

/-- Registers of ATN: `Reg.X` is the register that the spec names X. -/
def Reg.ATN_CFG : RegId := ⟨.atn, 0x100⟩
def Reg.ATN_STATUS : RegId := ⟨.atn, 0x104⟩
def Reg.ATN_CUR : RegId := ⟨.atn, 0x108⟩
def Reg.ATN_XR_SEL : RegId := ⟨.atn, 0x10C⟩
def Reg.ATN_XR_CFG : RegId := ⟨.atn, 0x110⟩
def Reg.ATN_XR_BASE_LO : RegId := ⟨.atn, 0x114⟩
def Reg.ATN_XR_BASE_HI : RegId := ⟨.atn, 0x118⟩
def Reg.ATN_XR_HEAD : RegId := ⟨.atn, 0x11C⟩
def Reg.ATN_XR_TAIL : RegId := ⟨.atn, 0x120⟩
def Reg.ATN_SWEEP_CNT : RegId := ⟨.atn, 0x124⟩
def Reg.ATN_TILE_CNT : RegId := ⟨.atn, 0x128⟩
def Reg.ATN_PAD_POS_CNT : RegId := ⟨.atn, 0x12C⟩
def Reg.ATN_IDLE_COL_CNT : RegId := ⟨.atn, 0x130⟩
def Reg.ATN_DRAM_STALL_CNT : RegId := ⟨.atn, 0x134⟩
def Reg.ATN_ABANDON_CNT : RegId := ⟨.atn, 0x138⟩
def Reg.ATN_PREEMPT_CNT : RegId := ⟨.atn, 0x13C⟩
def Reg.ATN_FAULT_SUSP_CNT : RegId := ⟨.atn, 0x140⟩
def Reg.ATN_XR_DROP_CNT : RegId := ⟨.atn, 0x144⟩
def Reg.ATN_MERGE_CNT : RegId := ⟨.atn, 0x148⟩

/-- Registers of PGM: `Reg.X` is the register that the spec names X. -/
def Reg.PGM_CFG : RegId := ⟨.pgm, 0x100⟩
def Reg.PGM_STATUS : RegId := ⟨.pgm, 0x104⟩
def Reg.PGM_POOL_BASE : RegId := ⟨.pgm, 0x108⟩
def Reg.PGM_POOL_SLOTS : RegId := ⟨.pgm, 0x10C⟩
def Reg.PGM_PAGE_COUNT : RegId := ⟨.pgm, 0x110⟩
def Reg.PGM_SIDE_BASE : RegId := ⟨.pgm, 0x114⟩
def Reg.PGM_TBL_BASE : RegId := ⟨.pgm, 0x118⟩
def Reg.PGM_TBL_UNITS : RegId := ⟨.pgm, 0x11C⟩
def Reg.PGM_TBL_FREE : RegId := ⟨.pgm, 0x120⟩
def Reg.PGM_PAGES_FREE : RegId := ⟨.pgm, 0x124⟩
def Reg.PGM_T0_BASE : RegId := ⟨.pgm, 0x128⟩
def Reg.PGM_T0_PAGES : RegId := ⟨.pgm, 0x12C⟩
def Reg.PGM_HANDLES : RegId := ⟨.pgm, 0x130⟩
def Reg.PGM_COW_CNT : RegId := ⟨.pgm, 0x134⟩
def Reg.PGM_EVICT_CNT : RegId := ⟨.pgm, 0x138⟩
def Reg.PGM_POISON_CNT : RegId := ⟨.pgm, 0x13C⟩
def Reg.PGM_RETIRED_CNT : RegId := ⟨.pgm, 0x140⟩
def Reg.PGM_PULL_CNT : RegId := ⟨.pgm, 0x144⟩
def Reg.PGM_MOVE_CNT : RegId := ⟨.pgm, 0x148⟩
def Reg.PGM_LIST_FULL_CNT : RegId := ⟨.pgm, 0x14C⟩
def Reg.PGM_CE_CNT : RegId := ⟨.pgm, 0x150⟩
def Reg.PGM_RWIN_SEL : RegId := ⟨.pgm, 0x160⟩
def Reg.PGM_RWIN_KEY_LO : RegId := ⟨.pgm, 0x164⟩
def Reg.PGM_RWIN_KEY_HI : RegId := ⟨.pgm, 0x168⟩
def Reg.PGM_RWIN_NODE : RegId := ⟨.pgm, 0x16C⟩
def Reg.PGM_RWIN_CTRL : RegId := ⟨.pgm, 0x170⟩

/-- Registers of DMV: `Reg.X` is the register that the spec names X. -/
def Reg.DMV_CFG : RegId := ⟨.dmv, 0x100⟩
def Reg.DMV_STATUS : RegId := ⟨.dmv, 0x104⟩
def Reg.DMV_BYTES_LO : RegId := ⟨.dmv, 0x108⟩
def Reg.DMV_BYTES_HI : RegId := ⟨.dmv, 0x10C⟩
def Reg.DMV_CMD_CNT : RegId := ⟨.dmv, 0x110⟩
def Reg.DMV_SUSP_CNT : RegId := ⟨.dmv, 0x114⟩
def Reg.DMV_MOVE_FAIL_CNT : RegId := ⟨.dmv, 0x118⟩
def Reg.DMV_POISON_CNT : RegId := ⟨.dmv, 0x11C⟩
def Reg.DMV_XBAR_BYTES : RegId := ⟨.dmv, 0x120⟩

/-- Registers of SKT: `Reg.X` is the register that the spec names X. -/
def Reg.SKT_CFG : RegId := ⟨.skt, 0x100⟩
def Reg.SKT_JOB_SEL : RegId := ⟨.skt, 0x104⟩
def Reg.SKT_SEED_LO : RegId := ⟨.skt, 0x108⟩
def Reg.SKT_SEED_HI : RegId := ⟨.skt, 0x10C⟩
def Reg.SKT_FAR_BASE_LO : RegId := ⟨.skt, 0x110⟩
def Reg.SKT_FAR_BASE_HI : RegId := ⟨.skt, 0x114⟩
def Reg.SKT_FAR_STRIDE : RegId := ⟨.skt, 0x118⟩
def Reg.SKT_FAR_CFG : RegId := ⟨.skt, 0x11C⟩
def Reg.SKT_SELECT_CNT : RegId := ⟨.skt, 0x120⟩
def Reg.SKT_CMP_CNT : RegId := ⟨.skt, 0x124⟩
def Reg.SKT_FAR_BUILD_CNT : RegId := ⟨.skt, 0x128⟩
def Reg.SKT_FAR_MISS_CNT : RegId := ⟨.skt, 0x12C⟩
def Reg.SKT_WAIT_CNT : RegId := ⟨.skt, 0x130⟩

/-- Registers of VSE: `Reg.X` is the register that the spec names X. -/
def Reg.VSE_CFG : RegId := ⟨.vse, 0x100⟩
def Reg.VSE_STATUS : RegId := ⟨.vse, 0x104⟩
def Reg.VSE_STORE_SEL : RegId := ⟨.vse, 0x108⟩
def Reg.VSE_QUERY_CNT : RegId := ⟨.vse, 0x10C⟩
def Reg.VSE_SHORT_CNT : RegId := ⟨.vse, 0x110⟩
def Reg.VSE_REPROBE_CNT : RegId := ⟨.vse, 0x114⟩
def Reg.VSE_TOMB_SKIP_CNT : RegId := ⟨.vse, 0x118⟩
def Reg.VSE_LIST_SCAN_CNT : RegId := ⟨.vse, 0x11C⟩
def Reg.VSE_GROUPS : RegId := ⟨.vse, 0x120⟩
def Reg.VSE_REPAIR_PEND : RegId := ⟨.vse, 0x124⟩
def Reg.VSE_REPAIR_OVF_CNT : RegId := ⟨.vse, 0x128⟩
def Reg.VSE_REPAIR_SRC_LO : RegId := ⟨.vse, 0x130⟩
def Reg.VSE_REPAIR_SRC_HI : RegId := ⟨.vse, 0x134⟩
def Reg.VSE_REPAIR_TGT_LO : RegId := ⟨.vse, 0x138⟩
def Reg.VSE_REPAIR_TGT_HI : RegId := ⟨.vse, 0x13C⟩
def Reg.VSE_REPAIR_POP : RegId := ⟨.vse, 0x140⟩
def Reg.VSE_STORE : RegId := ⟨.vse, 0x200⟩

/-- Registers of ZRB: `Reg.X` is the register that the spec names X. -/
def Reg.ZRB_CFG : RegId := ⟨.zrb, 0x100⟩
def Reg.ZRB_STATUS : RegId := ⟨.zrb, 0x104⟩
def Reg.ZRB_RGN_SEL : RegId := ⟨.zrb, 0x108⟩
def Reg.ZRB_RGN_CFG : RegId := ⟨.zrb, 0x10C⟩
def Reg.ZRB_RGN_DATA_SLOT : RegId := ⟨.zrb, 0x110⟩
def Reg.ZRB_RGN_SLOTS : RegId := ⟨.zrb, 0x114⟩
def Reg.ZRB_RGN_SIDE_LO : RegId := ⟨.zrb, 0x118⟩
def Reg.ZRB_RGN_SIDE_HI : RegId := ⟨.zrb, 0x11C⟩
def Reg.ZRB_RGN_STAT : RegId := ⟨.zrb, 0x120⟩
def Reg.ZRB_EXP_CNT : RegId := ⟨.zrb, 0x124⟩
def Reg.ZRB_CMP_CNT : RegId := ⟨.zrb, 0x128⟩
def Reg.ZRB_RAW_CNT : RegId := ⟨.zrb, 0x12C⟩
def Reg.ZRB_ZERO_CNT : RegId := ⟨.zrb, 0x130⟩
def Reg.ZRB_BUSY_RAW_CNT : RegId := ⟨.zrb, 0x134⟩
def Reg.ZRB_RMW_CNT : RegId := ⟨.zrb, 0x138⟩
def Reg.ZRB_READ_WAIT_CNT : RegId := ⟨.zrb, 0x13C⟩
def Reg.ZRB_MISMATCH_CNT : RegId := ⟨.zrb, 0x140⟩
def Reg.ZRB_POISON_READ_CNT : RegId := ⟨.zrb, 0x144⟩
def Reg.ZRB_DROP_WR_CNT : RegId := ⟨.zrb, 0x148⟩
def Reg.ZRB_RAW_UNITS_LO : RegId := ⟨.zrb, 0x150⟩
def Reg.ZRB_RAW_UNITS_HI : RegId := ⟨.zrb, 0x154⟩
def Reg.ZRB_STORED_UNITS_LO : RegId := ⟨.zrb, 0x158⟩
def Reg.ZRB_STORED_UNITS_HI : RegId := ⟨.zrb, 0x15C⟩

/-- Registers of SMP: `Reg.X` is the register that the spec names X. -/
def Reg.SMP_CFG_SEL : RegId := ⟨.smp, 0x100⟩
def Reg.SMP_STATUS : RegId := ⟨.smp, 0x104⟩
def Reg.SMP_CR_SEL : RegId := ⟨.smp, 0x108⟩
def Reg.SMP_CR_CFG : RegId := ⟨.smp, 0x10C⟩
def Reg.SMP_CR_BASE_LO : RegId := ⟨.smp, 0x110⟩
def Reg.SMP_CR_BASE_HI : RegId := ⟨.smp, 0x114⟩
def Reg.SMP_CR_HEAD : RegId := ⟨.smp, 0x118⟩
def Reg.SMP_CR_TAIL : RegId := ⟨.smp, 0x11C⟩
def Reg.SMP_ROW_CNT : RegId := ⟨.smp, 0x120⟩
def Reg.SMP_DRAFT_ACC_CNT : RegId := ⟨.smp, 0x124⟩
def Reg.SMP_DRAFT_REJ_CNT : RegId := ⟨.smp, 0x128⟩
def Reg.SMP_NONFINITE_CNT : RegId := ⟨.smp, 0x12C⟩
def Reg.SMP_INVALID_CNT : RegId := ⟨.smp, 0x130⟩
def Reg.SMP_CR_STALL_CNT : RegId := ⟨.smp, 0x134⟩
def Reg.SMP_BEAM_GROUPS : RegId := ⟨.smp, 0x138⟩
def Reg.SMP_CFG_REC : RegId := ⟨.smp, 0x200⟩

/-- Registers of JSC: `Reg.X` is the register that the spec names X. -/
def Reg.JSC_CFG : RegId := ⟨.jsc, 0x100⟩
def Reg.JSC_STATUS : RegId := ⟨.jsc, 0x104⟩
def Reg.JSC_JOB_SEL : RegId := ⟨.jsc, 0x108⟩
def Reg.JSC_JOB_CMD : RegId := ⟨.jsc, 0x10C⟩
def Reg.JSC_Q_SEL : RegId := ⟨.jsc, 0x110⟩
def Reg.JSC_Q_CFG : RegId := ⟨.jsc, 0x114⟩
def Reg.JSC_Q_BASE_LO : RegId := ⟨.jsc, 0x118⟩
def Reg.JSC_Q_BASE_HI : RegId := ⟨.jsc, 0x11C⟩
def Reg.JSC_Q_HEAD : RegId := ⟨.jsc, 0x120⟩
def Reg.JSC_Q_TAIL : RegId := ⟨.jsc, 0x124⟩
def Reg.JSC_CQ_SEL : RegId := ⟨.jsc, 0x128⟩
def Reg.JSC_CQ_CFG : RegId := ⟨.jsc, 0x12C⟩
def Reg.JSC_CQ_BASE_LO : RegId := ⟨.jsc, 0x130⟩
def Reg.JSC_CQ_BASE_HI : RegId := ⟨.jsc, 0x134⟩
def Reg.JSC_CQ_HEAD : RegId := ⟨.jsc, 0x138⟩
def Reg.JSC_CQ_TAIL : RegId := ⟨.jsc, 0x13C⟩
def Reg.JSC_TOK_SEL : RegId := ⟨.jsc, 0x140⟩
def Reg.JSC_TOK_CTRL : RegId := ⟨.jsc, 0x144⟩
def Reg.JSC_TOK_VALUE : RegId := ⟨.jsc, 0x148⟩
def Reg.JSC_PEVQ_CFG : RegId := ⟨.jsc, 0x150⟩
def Reg.JSC_PEVQ_BASE_LO : RegId := ⟨.jsc, 0x154⟩
def Reg.JSC_PEVQ_BASE_HI : RegId := ⟨.jsc, 0x158⟩
def Reg.JSC_PEVQ_HEAD : RegId := ⟨.jsc, 0x15C⟩
def Reg.JSC_PEVQ_TAIL : RegId := ⟨.jsc, 0x160⟩
def Reg.JSC_EVQ_HEAD : RegId := ⟨.jsc, 0x164⟩
def Reg.JSC_EVQ_TAIL : RegId := ⟨.jsc, 0x168⟩
def Reg.JSC_DEFICIT_SEL : RegId := ⟨.jsc, 0x16C⟩
def Reg.JSC_DEFICIT : RegId := ⟨.jsc, 0x170⟩
def Reg.JSC_DISPATCH_CNT : RegId := ⟨.jsc, 0x174⟩
def Reg.JSC_PREEMPT_CNT : RegId := ⟨.jsc, 0x178⟩
def Reg.JSC_TEARDOWN_CNT : RegId := ⟨.jsc, 0x17C⟩
def Reg.JSC_EVQ_DROP_CNT : RegId := ⟨.jsc, 0x180⟩
def Reg.JSC_REPORT_DROP_CNT : RegId := ⟨.jsc, 0x184⟩
def Reg.JSC_JOB_CTX : RegId := ⟨.jsc, 0x200⟩
def Reg.JSC_JOB_REPORT : RegId := ⟨.jsc, 0x240⟩

/-- Registers of ATU: `Reg.X` is the register that the spec names X. -/
def Reg.ATU_CFG : RegId := ⟨.atu, 0x100⟩
def Reg.ATU_STATUS : RegId := ⟨.atu, 0x104⟩
def Reg.ATU_FQ_CFG : RegId := ⟨.atu, 0x108⟩
def Reg.ATU_FQ_BASE_LO : RegId := ⟨.atu, 0x10C⟩
def Reg.ATU_FQ_BASE_HI : RegId := ⟨.atu, 0x110⟩
def Reg.ATU_FQ_HEAD : RegId := ⟨.atu, 0x114⟩
def Reg.ATU_FQ_TAIL : RegId := ⟨.atu, 0x118⟩
def Reg.ATU_FAULT_RESP : RegId := ⟨.atu, 0x11C⟩
def Reg.ATU_INV_JOB : RegId := ⟨.atu, 0x120⟩
def Reg.ATU_INV_VA_LO : RegId := ⟨.atu, 0x124⟩
def Reg.ATU_INV_VA_HI : RegId := ⟨.atu, 0x128⟩
def Reg.ATU_INV_CTRL : RegId := ⟨.atu, 0x12C⟩
def Reg.ATU_RGN_SEL : RegId := ⟨.atu, 0x130⟩
def Reg.ATU_RGN_BASE_LO : RegId := ⟨.atu, 0x134⟩
def Reg.ATU_RGN_BASE_HI : RegId := ⟨.atu, 0x138⟩
def Reg.ATU_RGN_LIMIT_LO : RegId := ⟨.atu, 0x13C⟩
def Reg.ATU_RGN_LIMIT_HI : RegId := ⟨.atu, 0x140⟩
def Reg.ATU_RGN_CTRL : RegId := ⟨.atu, 0x144⟩
def Reg.ATU_TLB_MISS_CNT : RegId := ⟨.atu, 0x148⟩
def Reg.ATU_WALK_CNT : RegId := ⟨.atu, 0x14C⟩
def Reg.ATU_FAULT_CNT : RegId := ⟨.atu, 0x150⟩
def Reg.ATU_FAULT_WAIT_CNT : RegId := ⟨.atu, 0x154⟩
def Reg.ATU_RESP_IGNORED_CNT : RegId := ⟨.atu, 0x158⟩

/-- Registers of KWP: `Reg.X` is the register that the spec names X. -/
def Reg.KWP_CFG : RegId := ⟨.kwp, 0x100⟩
def Reg.KWP_STATUS : RegId := ⟨.kwp, 0x104⟩
def Reg.KWP_UDP_PORT : RegId := ⟨.kwp, 0x108⟩
def Reg.KWP_MAX_AGE : RegId := ⟨.kwp, 0x10C⟩
def Reg.KWP_MTU : RegId := ⟨.kwp, 0x110⟩
def Reg.KWP_IP_CFG : RegId := ⟨.kwp, 0x114⟩
def Reg.KWP_SUB_SEL : RegId := ⟨.kwp, 0x118⟩
def Reg.KWP_MAC_LO : RegId := ⟨.kwp, 0x11C⟩
def Reg.KWP_MAC_HI : RegId := ⟨.kwp, 0x120⟩
def Reg.KWP_VLAN : RegId := ⟨.kwp, 0x124⟩
def Reg.KWP_TIMERS : RegId := ⟨.kwp, 0x128⟩
def Reg.KWP_RETRY : RegId := ⟨.kwp, 0x12C⟩
def Reg.KWP_BUSY : RegId := ⟨.kwp, 0x130⟩
def Reg.KWP_CC : RegId := ⟨.kwp, 0x134⟩
def Reg.KWP_CC_DELAY : RegId := ⟨.kwp, 0x138⟩
def Reg.KWP_CC_MIN : RegId := ⟨.kwp, 0x13C⟩
def Reg.KWP_FEC_THRESH : RegId := ⟨.kwp, 0x140⟩
def Reg.KWP_CONN_SEL : RegId := ⟨.kwp, 0x144⟩
def Reg.KWP_CONN_CMD : RegId := ⟨.kwp, 0x148⟩
def Reg.KWP_WIN_SEL : RegId := ⟨.kwp, 0x14C⟩
def Reg.KWP_WIN_ASSIGN : RegId := ⟨.kwp, 0x150⟩
def Reg.KWP_TX_PKT_CNT : RegId := ⟨.kwp, 0x160⟩
def Reg.KWP_RX_PKT_CNT : RegId := ⟨.kwp, 0x164⟩
def Reg.KWP_AUTH_FAIL_CNT : RegId := ⟨.kwp, 0x168⟩
def Reg.KWP_NO_CONN_CNT : RegId := ⟨.kwp, 0x16C⟩
def Reg.KWP_STALE_CONN_CNT : RegId := ⟨.kwp, 0x170⟩
def Reg.KWP_AGE_DROP_CNT : RegId := ⟨.kwp, 0x174⟩
def Reg.KWP_DUP_CNT : RegId := ⟨.kwp, 0x178⟩
def Reg.KWP_SEQ_DROP_CNT : RegId := ⟨.kwp, 0x17C⟩
def Reg.KWP_ACCESS_NAK_CNT : RegId := ⟨.kwp, 0x180⟩
def Reg.KWP_STALE_CNT : RegId := ⟨.kwp, 0x184⟩
def Reg.KWP_REVOKED_NAK_CNT : RegId := ⟨.kwp, 0x188⟩
def Reg.KWP_RETX_CNT : RegId := ⟨.kwp, 0x18C⟩
def Reg.KWP_BUSY_TX_CNT : RegId := ⟨.kwp, 0x190⟩
def Reg.KWP_BUSY_RX_CNT : RegId := ⟨.kwp, 0x194⟩
def Reg.KWP_BUSY_IGN_CNT : RegId := ⟨.kwp, 0x198⟩
def Reg.KWP_MISSBUF_DROP_CNT : RegId := ⟨.kwp, 0x19C⟩
def Reg.KWP_CTX_MISS_CNT : RegId := ⟨.kwp, 0x1A0⟩
def Reg.KWP_ECN_CE_CNT : RegId := ⟨.kwp, 0x1A4⟩
def Reg.KWP_PAUSE_CNT : RegId := ⟨.kwp, 0x1A8⟩
def Reg.KWP_MALFORMED_CNT : RegId := ⟨.kwp, 0x1AC⟩
def Reg.KWP_FCS_CNT : RegId := ⟨.kwp, 0x1B0⟩
def Reg.KWP_OTHER_CNT : RegId := ⟨.kwp, 0x1B4⟩
def Reg.KWP_FEC_CORR_CNT : RegId := ⟨.kwp, 0x1B8⟩
def Reg.KWP_FEC_UNCORR_CNT : RegId := ⟨.kwp, 0x1BC⟩
def Reg.KWP_XBAR_PKT_CNT : RegId := ⟨.kwp, 0x1C0⟩
def Reg.KWP_CONN_STAGE : RegId := ⟨.kwp, 0x200⟩
def Reg.KWP_WIN_REC : RegId := ⟨.kwp, 0x300⟩

/-- Registers of TRC: `Reg.X` is the register that the spec names X. -/
def Reg.TRC_CFG : RegId := ⟨.trc, 0x100⟩
def Reg.TRC_STATUS : RegId := ⟨.trc, 0x104⟩
def Reg.TRC_SHP_SEL : RegId := ⟨.trc, 0x108⟩
def Reg.TRC_SHP_RATE : RegId := ⟨.trc, 0x10C⟩
def Reg.TRC_SHP_BURST : RegId := ⟨.trc, 0x110⟩
def Reg.TRC_SHP_QUEUE : RegId := ⟨.trc, 0x114⟩
def Reg.TRC_SHP_TOKENS : RegId := ⟨.trc, 0x118⟩
def Reg.TRC_SHP_CAP : RegId := ⟨.trc, 0x11C⟩
def Reg.TRC_SHP_STATE : RegId := ⟨.trc, 0x120⟩
def Reg.TRC_Q_SEL : RegId := ⟨.trc, 0x124⟩
def Reg.TRC_Q_CFG : RegId := ⟨.trc, 0x128⟩
def Reg.TRC_Q_DEPTH : RegId := ⟨.trc, 0x12C⟩
def Reg.TRC_POL_SEL : RegId := ⟨.trc, 0x130⟩
def Reg.TRC_POL_CFG : RegId := ⟨.trc, 0x134⟩
def Reg.TRC_POL_CIR : RegId := ⟨.trc, 0x138⟩
def Reg.TRC_POL_CBS : RegId := ⟨.trc, 0x13C⟩
def Reg.TRC_POL_EXC : RegId := ⟨.trc, 0x140⟩
def Reg.TRC_POL_PIR : RegId := ⟨.trc, 0x144⟩
def Reg.TRC_POL_GREEN_CNT : RegId := ⟨.trc, 0x148⟩
def Reg.TRC_POL_YELLOW_CNT : RegId := ⟨.trc, 0x14C⟩
def Reg.TRC_POL_RED_CNT : RegId := ⟨.trc, 0x150⟩
def Reg.TRC_CLS_SEL : RegId := ⟨.trc, 0x154⟩
def Reg.TRC_CLS_ENTRY : RegId := ⟨.trc, 0x158⟩
def Reg.TRC_DSCP_MAP0 : RegId := ⟨.trc, 0x160⟩
def Reg.TRC_DSCP_MAP1 : RegId := ⟨.trc, 0x164⟩
def Reg.TRC_DSCP_MAP2 : RegId := ⟨.trc, 0x168⟩
def Reg.TRC_DSCP_MAP3 : RegId := ⟨.trc, 0x16C⟩
def Reg.TRC_SMP_CFG : RegId := ⟨.trc, 0x170⟩
def Reg.TRC_SMP_BASE_LO : RegId := ⟨.trc, 0x174⟩
def Reg.TRC_SMP_BASE_HI : RegId := ⟨.trc, 0x178⟩
def Reg.TRC_SMP_HEAD : RegId := ⟨.trc, 0x17C⟩
def Reg.TRC_SMP_TAIL : RegId := ⟨.trc, 0x180⟩
def Reg.TRC_SMP_MASK_LO : RegId := ⟨.trc, 0x184⟩
def Reg.TRC_SMP_MASK_HI : RegId := ⟨.trc, 0x188⟩
def Reg.TRC_Q_FULL_CNT : RegId := ⟨.trc, 0x18C⟩
def Reg.TRC_CTL_DROP_CNT : RegId := ⟨.trc, 0x190⟩
def Reg.TRC_FAR_CNT : RegId := ⟨.trc, 0x194⟩
def Reg.TRC_SMP_DROP_CNT : RegId := ⟨.trc, 0x198⟩

/-- Registers of SLP: `Reg.X` is the register that the spec names X. -/
def Reg.SLP_CFG : RegId := ⟨.slp, 0x100⟩
def Reg.SLP_STATUS : RegId := ⟨.slp, 0x104⟩
def Reg.SLP_SELF : RegId := ⟨.slp, 0x108⟩
def Reg.SLP_STALL_CFG : RegId := ⟨.slp, 0x10C⟩
def Reg.SLP_ABANDON : RegId := ⟨.slp, 0x110⟩
def Reg.SLP_DEAD0 : RegId := ⟨.slp, 0x114⟩
def Reg.SLP_DEAD1 : RegId := ⟨.slp, 0x118⟩
def Reg.SLP_DEAD2 : RegId := ⟨.slp, 0x11C⟩
def Reg.SLP_DEAD3 : RegId := ⟨.slp, 0x120⟩
def Reg.SLP_STALL_SEL : RegId := ⟨.slp, 0x124⟩
def Reg.SLP_STALL_INFO : RegId := ⟨.slp, 0x128⟩
def Reg.SLP_QUAR_TAGS : RegId := ⟨.slp, 0x12C⟩
def Reg.SLP_RGN_SEL : RegId := ⟨.slp, 0x130⟩
def Reg.SLP_RGN_BASE_LO : RegId := ⟨.slp, 0x134⟩
def Reg.SLP_RGN_BASE_HI : RegId := ⟨.slp, 0x138⟩
def Reg.SLP_RGN_LIMIT_LO : RegId := ⟨.slp, 0x13C⟩
def Reg.SLP_RGN_LIMIT_HI : RegId := ⟨.slp, 0x140⟩
def Reg.SLP_RGN_KEY : RegId := ⟨.slp, 0x144⟩
def Reg.SLP_RGN_CTRL : RegId := ⟨.slp, 0x148⟩
def Reg.SLP_RK_SEL : RegId := ⟨.slp, 0x14C⟩
def Reg.SLP_RK_BASE_LO : RegId := ⟨.slp, 0x150⟩
def Reg.SLP_RK_BASE_HI : RegId := ⟨.slp, 0x154⟩
def Reg.SLP_RK_LIMIT_LO : RegId := ⟨.slp, 0x158⟩
def Reg.SLP_RK_LIMIT_HI : RegId := ⟨.slp, 0x15C⟩
def Reg.SLP_RK_KEY : RegId := ⟨.slp, 0x160⟩
def Reg.SLP_RK_CTRL : RegId := ⟨.slp, 0x164⟩
def Reg.SLP_RXQ_SEL : RegId := ⟨.slp, 0x168⟩
def Reg.SLP_RXQ_CFG : RegId := ⟨.slp, 0x16C⟩
def Reg.SLP_RXQ_BASE_LO : RegId := ⟨.slp, 0x170⟩
def Reg.SLP_RXQ_BASE_HI : RegId := ⟨.slp, 0x174⟩
def Reg.SLP_RXQ_KEY : RegId := ⟨.slp, 0x178⟩
def Reg.SLP_RXQ_HEAD : RegId := ⟨.slp, 0x17C⟩
def Reg.SLP_RXQ_TAIL : RegId := ⟨.slp, 0x180⟩
def Reg.SLP_FEC_THRESH : RegId := ⟨.slp, 0x184⟩
def Reg.SLP_TX_FLIT_CNT : RegId := ⟨.slp, 0x188⟩
def Reg.SLP_RX_FLIT_CNT : RegId := ⟨.slp, 0x18C⟩
def Reg.SLP_FEC_CORR_CNT : RegId := ⟨.slp, 0x190⟩
def Reg.SLP_REPLAY_CNT : RegId := ⟨.slp, 0x194⟩
def Reg.SLP_NAK_TX_CNT : RegId := ⟨.slp, 0x198⟩
def Reg.SLP_NAK_RX_CNT : RegId := ⟨.slp, 0x19C⟩
def Reg.SLP_LATE_RSP_CNT : RegId := ⟨.slp, 0x1A0⟩
def Reg.SLP_DEVMSG_DROP_CNT : RegId := ⟨.slp, 0x1A4⟩
def Reg.SLP_ORDER_BROKEN_CNT : RegId := ⟨.slp, 0x1A8⟩
def Reg.SLP_XBAR_FLIT_CNT : RegId := ⟨.slp, 0x1AC⟩
def Reg.SLP_BAD_MSG_CNT : RegId := ⟨.slp, 0x1B0⟩

/-- Registers of NMO: `Reg.X` is the register that the spec names X. -/
def Reg.NMO_CFG : RegId := ⟨.nmo, 0x100⟩
def Reg.NMO_STATUS : RegId := ⟨.nmo, 0x104⟩
def Reg.NMO_OP_CNT : RegId := ⟨.nmo, 0x108⟩
def Reg.NMO_BYTES_LO : RegId := ⟨.nmo, 0x10C⟩
def Reg.NMO_BYTES_HI : RegId := ⟨.nmo, 0x110⟩
def Reg.NMO_POISON_CNT : RegId := ⟨.nmo, 0x114⟩
def Reg.NMO_NONFINITE_CNT : RegId := ⟨.nmo, 0x118⟩

/-- Registers of CCX: `Reg.X` is the register that the spec names X. -/
def Reg.CCX_CFG : RegId := ⟨.ccx, 0x100⟩
def Reg.CCX_STATUS : RegId := ⟨.ccx, 0x104⟩
def Reg.CCX_MEMBER_MASK : RegId := ⟨.ccx, 0x108⟩
def Reg.CCX_SLOTS_A : RegId := ⟨.ccx, 0x10C⟩
def Reg.CCX_SLOTS_B : RegId := ⟨.ccx, 0x110⟩
def Reg.CCX_AGENT_CH : RegId := ⟨.ccx, 0x114⟩
def Reg.CCX_ARB_MAP_LO : RegId := ⟨.ccx, 0x118⟩
def Reg.CCX_ARB_MAP_HI : RegId := ⟨.ccx, 0x11C⟩
def Reg.CCX_HB : RegId := ⟨.ccx, 0x120⟩
def Reg.CCX_AGE : RegId := ⟨.ccx, 0x124⟩
def Reg.CCX_CMD : RegId := ⟨.ccx, 0x128⟩
def Reg.CCX_CRGN_SEL : RegId := ⟨.ccx, 0x12C⟩
def Reg.CCX_CRGN_BASE_LO : RegId := ⟨.ccx, 0x130⟩
def Reg.CCX_CRGN_BASE_HI : RegId := ⟨.ccx, 0x134⟩
def Reg.CCX_CRGN_LIMIT_LO : RegId := ⟨.ccx, 0x138⟩
def Reg.CCX_CRGN_LIMIT_HI : RegId := ⟨.ccx, 0x13C⟩
def Reg.CCX_CRGN_KEY : RegId := ⟨.ccx, 0x140⟩
def Reg.CCX_CRGN_CTRL : RegId := ⟨.ccx, 0x144⟩
def Reg.CCX_AG_LINES : RegId := ⟨.ccx, 0x148⟩
def Reg.CCX_FILTER_USED : RegId := ⟨.ccx, 0x14C⟩
def Reg.CCX_REQ_CNT : RegId := ⟨.ccx, 0x150⟩
def Reg.CCX_RETRY_CNT : RegId := ⟨.ccx, 0x154⟩
def Reg.CCX_AGED_CNT : RegId := ⟨.ccx, 0x158⟩
def Reg.CCX_RESV_FULL_CNT : RegId := ⟨.ccx, 0x15C⟩
def Reg.CCX_SNOOP_CNT : RegId := ⟨.ccx, 0x160⟩
def Reg.CCX_WB_CNT : RegId := ⟨.ccx, 0x164⟩
def Reg.CCX_STALE_CNT : RegId := ⟨.ccx, 0x168⟩
def Reg.CCX_FILTER_EVICT_CNT : RegId := ⟨.ccx, 0x16C⟩
def Reg.CCX_POISON_CNT : RegId := ⟨.ccx, 0x170⟩
def Reg.CCX_CLEAN_CNT : RegId := ⟨.ccx, 0x174⟩
def Reg.CCX_PROTO_ERR_CNT : RegId := ⟨.ccx, 0x178⟩
def Reg.CCX_HB_LATE_CNT : RegId := ⟨.ccx, 0x17C⟩

/-- Registers of CXH: `Reg.X` is the register that the spec names X. -/
def Reg.CXH_CFG : RegId := ⟨.cxh, 0x100⟩
def Reg.CXH_STATUS : RegId := ⟨.cxh, 0x104⟩
def Reg.CXH_LD_SEL : RegId := ⟨.cxh, 0x108⟩
def Reg.CXH_LD_CFG : RegId := ⟨.cxh, 0x10C⟩
def Reg.CXH_LD_CHAN : RegId := ⟨.cxh, 0x110⟩
def Reg.CXH_BI_CFG : RegId := ⟨.cxh, 0x114⟩
def Reg.CXH_MEM_RD_CNT : RegId := ⟨.cxh, 0x118⟩
def Reg.CXH_MEM_WR_CNT : RegId := ⟨.cxh, 0x11C⟩
def Reg.CXH_BISNP_CNT : RegId := ⟨.cxh, 0x120⟩
def Reg.CXH_BI_TIMEOUT_CNT : RegId := ⟨.cxh, 0x124⟩
def Reg.CXH_CONTAINED_CNT : RegId := ⟨.cxh, 0x128⟩
def Reg.CXH_POISON_TX_CNT : RegId := ⟨.cxh, 0x12C⟩
def Reg.CXH_UNMAPPED_CNT : RegId := ⟨.cxh, 0x130⟩
def Reg.CXH_DISCARD_WR_CNT : RegId := ⟨.cxh, 0x134⟩
def Reg.CXH_T2_FAIL_CNT : RegId := ⟨.cxh, 0x138⟩
def Reg.CXH_PORT_RESET_CNT : RegId := ⟨.cxh, 0x13C⟩

/-- Registers of CMP: `Reg.X` is the register that the spec names X. -/
def Reg.CMP_CFG : RegId := ⟨.cmp, 0x100⟩
def Reg.CMP_EPOCHS : RegId := ⟨.cmp, 0x104⟩
def Reg.CMP_RETIRE_INFLIGHT : RegId := ⟨.cmp, 0x108⟩
def Reg.CMP_ENT_SEL : RegId := ⟨.cmp, 0x10C⟩
def Reg.CMP_ENT_USED : RegId := ⟨.cmp, 0x110⟩
def Reg.CMP_JOB_SEL : RegId := ⟨.cmp, 0x114⟩
def Reg.CMP_JOB_LD : RegId := ⟨.cmp, 0x118⟩
def Reg.CMP_T2_SEL : RegId := ⟨.cmp, 0x11C⟩
def Reg.CMP_T2_BASE_LO : RegId := ⟨.cmp, 0x120⟩
def Reg.CMP_T2_BASE_HI : RegId := ⟨.cmp, 0x124⟩
def Reg.CMP_T2_SIZE : RegId := ⟨.cmp, 0x128⟩
def Reg.CMP_T2_TGT_LO : RegId := ⟨.cmp, 0x12C⟩
def Reg.CMP_T2_TGT_HI : RegId := ⟨.cmp, 0x130⟩
def Reg.CMP_T2_CTRL : RegId := ⟨.cmp, 0x134⟩
def Reg.CMP_SHR_SEL : RegId := ⟨.cmp, 0x138⟩
def Reg.CMP_MAP_BUSY_CNT : RegId := ⟨.cmp, 0x13C⟩
def Reg.CMP_PUBLISH_CNT : RegId := ⟨.cmp, 0x140⟩
def Reg.CMP_CONFLICT_CNT : RegId := ⟨.cmp, 0x144⟩
def Reg.CXH_BIF_EVICT_CNT : RegId := ⟨.cmp, 0x148⟩
def Reg.CMP_BIF_USED : RegId := ⟨.cmp, 0x14C⟩
def Reg.CMP_ENTRY : RegId := ⟨.cmp, 0x200⟩
def Reg.CMP_SHARE : RegId := ⟨.cmp, 0x220⟩

/-- Registers of MBX: `Reg.X` is the register that the spec names X. -/
def Reg.MBX_CFG : RegId := ⟨.mbx, 0x100⟩
def Reg.MBX_RX_SEL : RegId := ⟨.mbx, 0x104⟩
def Reg.MBX_RX_SEQ : RegId := ⟨.mbx, 0x108⟩
def Reg.MBX_RX_CTRL : RegId := ⟨.mbx, 0x10C⟩
def Reg.MBX_RX_ACK : RegId := ⟨.mbx, 0x110⟩
def Reg.MBX_RX_SENDER_LO : RegId := ⟨.mbx, 0x114⟩
def Reg.MBX_RX_SENDER_HI : RegId := ⟨.mbx, 0x118⟩
def Reg.MBX_ROUTE_SEL : RegId := ⟨.mbx, 0x120⟩
def Reg.MBX_ROUTE : RegId := ⟨.mbx, 0x124⟩
def Reg.MBX_PEND_CORE : RegId := ⟨.mbx, 0x128⟩
def Reg.MBX_PEND_NEXT : RegId := ⟨.mbx, 0x12C⟩
def Reg.MBX_MSG_CNT : RegId := ⟨.mbx, 0x130⟩
def Reg.MBX_COLLISION_CNT : RegId := ⟨.mbx, 0x134⟩
def Reg.MBX_STALE_EMPTY_CNT : RegId := ⟨.mbx, 0x138⟩
def Reg.MBX_WAKE_CNT : RegId := ⟨.mbx, 0x13C⟩
def Reg.MBX_RX_DATA0 : RegId := ⟨.mbx, 0x140⟩
def Reg.MBX_RX_DATA1 : RegId := ⟨.mbx, 0x144⟩
def Reg.MBX_RX_DATA2 : RegId := ⟨.mbx, 0x148⟩
def Reg.MBX_RX_DATA3 : RegId := ⟨.mbx, 0x14C⟩
def Reg.MBX_RX_DATA4 : RegId := ⟨.mbx, 0x150⟩
def Reg.MBX_RX_DATA5 : RegId := ⟨.mbx, 0x154⟩
def Reg.MBX_RX_DATA6 : RegId := ⟨.mbx, 0x158⟩
def Reg.MBX_RX_DATA7 : RegId := ⟨.mbx, 0x15C⟩
def Reg.MBX_RX_DATA8 : RegId := ⟨.mbx, 0x160⟩
def Reg.MBX_RX_DATA9 : RegId := ⟨.mbx, 0x164⟩
def Reg.MBX_RX_DATA10 : RegId := ⟨.mbx, 0x168⟩
def Reg.MBX_RX_DATA11 : RegId := ⟨.mbx, 0x16C⟩
def Reg.MBX_RX_DATA12 : RegId := ⟨.mbx, 0x170⟩
def Reg.MBX_RX_DATA13 : RegId := ⟨.mbx, 0x174⟩
def Reg.MBX_RX_DATA14 : RegId := ⟨.mbx, 0x178⟩
def Reg.MBX_RX_DATA15 : RegId := ⟨.mbx, 0x17C⟩

/-- Registers of BOOT: `Reg.X` is the register that the spec names X. -/
def Reg.BOOT_STATUS : RegId := ⟨.boot, 0x100⟩
def Reg.BOOT_CTRL : RegId := ⟨.boot, 0x104⟩
def Reg.BOOT_CFG : RegId := ⟨.boot, 0x108⟩
def Reg.BOOT_CHAN_MASK : RegId := ⟨.boot, 0x10C⟩
def Reg.BOOT_OPTIONS : RegId := ⟨.boot, 0x110⟩
def Reg.BOOT_CORE_SEL : RegId := ⟨.boot, 0x114⟩
def Reg.BOOT_CORE_STAT : RegId := ⟨.boot, 0x118⟩
def Reg.BOOT_UPD_ADDR_LO : RegId := ⟨.boot, 0x11C⟩
def Reg.BOOT_UPD_ADDR_HI : RegId := ⟨.boot, 0x120⟩
def Reg.BOOT_UPD_LEN : RegId := ⟨.boot, 0x124⟩
def Reg.BOOT_UPD_CMD : RegId := ⟨.boot, 0x128⟩
def Reg.BOOT_UPD_STATUS : RegId := ⟨.boot, 0x12C⟩
def Reg.BOOT_CH_CMD : RegId := ⟨.boot, 0x130⟩
def Reg.BOOT_CH_STATE : RegId := ⟨.boot, 0x134⟩
def Reg.BOOT_CH_RESULT : RegId := ⟨.boot, 0x138⟩
def Reg.BOOT_NOR_ADDR : RegId := ⟨.boot, 0x13C⟩
def Reg.BOOT_NOR_CMD : RegId := ⟨.boot, 0x140⟩
def Reg.BOOT_NOR_STAT : RegId := ⟨.boot, 0x144⟩
def Reg.BOOT_NOR_DATA : RegId := ⟨.boot, 0x200⟩

/-- Registers of SEC: `Reg.X` is the register that the spec names X. -/
def Reg.SEC_STATUS : RegId := ⟨.sec, 0x100⟩
def Reg.SEC_SVN_BURN : RegId := ⟨.sec, 0x104⟩
def Reg.SEC_KEY_REVOKE : RegId := ⟨.sec, 0x108⟩
def Reg.SEC_MEAS_SEL : RegId := ⟨.sec, 0x10C⟩
def Reg.SEC_SESSIONS : RegId := ⟨.sec, 0x110⟩
def Reg.SEC_SPDM_CNT : RegId := ⟨.sec, 0x114⟩
def Reg.SEC_IMAGE_FAIL_CNT : RegId := ⟨.sec, 0x118⟩
def Reg.SEC_ID_PUB : RegId := ⟨.sec, 0x200⟩
def Reg.SEC_MEAS : RegId := ⟨.sec, 0x240⟩

/-- Registers of PSQ: `Reg.X` is the register that the spec names X. -/
def Reg.PSQ_CFG : RegId := ⟨.psq, 0x100⟩
def Reg.PSQ_STATUS : RegId := ⟨.psq, 0x104⟩
def Reg.PSQ_THROT_FORCE : RegId := ⟨.psq, 0x108⟩
def Reg.PSQ_PWR_LIMIT : RegId := ⟨.psq, 0x10C⟩
def Reg.PSQ_VIN : RegId := ⟨.psq, 0x110⟩
def Reg.PSQ_IIN : RegId := ⟨.psq, 0x114⟩
def Reg.PSQ_PIN : RegId := ⟨.psq, 0x118⟩
def Reg.PSQ_TJ : RegId := ⟨.psq, 0x11C⟩
def Reg.PSQ_SNS_SEL : RegId := ⟨.psq, 0x120⟩
def Reg.PSQ_SNS_TEMP : RegId := ⟨.psq, 0x124⟩
def Reg.PSQ_DOM_SEL : RegId := ⟨.psq, 0x128⟩
def Reg.PSQ_DOM_STAT : RegId := ⟨.psq, 0x12C⟩
def Reg.PSQ_ALERT_EN : RegId := ⟨.psq, 0x130⟩
def Reg.PSQ_WAKE_CNT : RegId := ⟨.psq, 0x134⟩
def Reg.PSQ_WAKE_QUEUED_CNT : RegId := ⟨.psq, 0x138⟩
def Reg.PSQ_THROT_US_CNT : RegId := ⟨.psq, 0x13C⟩
def Reg.PSQ_LEVEL_CHG_CNT : RegId := ⟨.psq, 0x140⟩

/-- Registers of CLK: `Reg.X` is the register that the spec names X. -/
def Reg.CLK_STATUS : RegId := ⟨.clk, 0x100⟩
def Reg.CLK_DOM_SEL : RegId := ⟨.clk, 0x104⟩
def Reg.CLK_DOM_STAT : RegId := ⟨.clk, 0x108⟩
def Reg.CLK_ALERT_EN : RegId := ⟨.clk, 0x10C⟩
def Reg.CLK_LOSS_CNT : RegId := ⟨.clk, 0x110⟩
def Reg.CLK_UNLOCK_CNT : RegId := ⟨.clk, 0x114⟩

/-- Registers of RAS: `Reg.X` is the register that the spec names X. -/
def Reg.RAS_CFG : RegId := ⟨.ras, 0x100⟩
def Reg.RAS_STATUS : RegId := ⟨.ras, 0x104⟩
def Reg.RAS_CH_SEL : RegId := ⟨.ras, 0x108⟩
def Reg.RAS_CH_STATE : RegId := ⟨.ras, 0x10C⟩
def Reg.RAS_CH_DAY_LO : RegId := ⟨.ras, 0x110⟩
def Reg.RAS_CH_DAY_HI : RegId := ⟨.ras, 0x114⟩
def Reg.RAS_QUAR_MASK : RegId := ⟨.ras, 0x118⟩
def Reg.RAS_INJECT : RegId := ⟨.ras, 0x11C⟩
def Reg.RAS_CE_CNT : RegId := ⟨.ras, 0x120⟩
def Reg.RAS_DEFER_CNT : RegId := ⟨.ras, 0x124⟩
def Reg.RAS_JOBFATAL_CNT : RegId := ⟨.ras, 0x128⟩
def Reg.RAS_CHFATAL_CNT : RegId := ⟨.ras, 0x12C⟩
def Reg.RAS_RECOVERED_CNT : RegId := ⟨.ras, 0x130⟩
def Reg.RAS_QUAR_CNT : RegId := ⟨.ras, 0x134⟩

/-- Registers of DBG: `Reg.X` is the register that the spec names X. -/
def Reg.DBG_CH_SEL : RegId := ⟨.dbg, 0x100⟩
def Reg.DBG_SET_SEL : RegId := ⟨.dbg, 0x104⟩
def Reg.DBG_SET_MATCH : RegId := ⟨.dbg, 0x108⟩
def Reg.DBG_SET_LAYER : RegId := ⟨.dbg, 0x10C⟩
def Reg.DBG_SET_OP : RegId := ⟨.dbg, 0x110⟩
def Reg.DBG_WP_SEL : RegId := ⟨.dbg, 0x114⟩
def Reg.DBG_WP_MATCH : RegId := ⟨.dbg, 0x118⟩
def Reg.DBG_WP_LAYER : RegId := ⟨.dbg, 0x11C⟩
def Reg.DBG_WP_OP : RegId := ⟨.dbg, 0x120⟩
def Reg.DBG_WP_CTRL : RegId := ⟨.dbg, 0x124⟩
def Reg.DBG_SNAP_CMD : RegId := ⟨.dbg, 0x128⟩
def Reg.DBG_SNAP_STAT : RegId := ⟨.dbg, 0x12C⟩
def Reg.DBG_SNAP_SEL : RegId := ⟨.dbg, 0x130⟩
def Reg.DBG_MEM_ADDR : RegId := ⟨.dbg, 0x134⟩
def Reg.DBG_MEM_CORE : RegId := ⟨.dbg, 0x138⟩
def Reg.DBG_MEM_DATA : RegId := ⟨.dbg, 0x13C⟩
def Reg.DBG_MEM_CMD : RegId := ⟨.dbg, 0x140⟩
def Reg.DBG_SET_CNT : RegId := ⟨.dbg, 0x200⟩
def Reg.DBG_SET_SNAP : RegId := ⟨.dbg, 0x230⟩
def Reg.DBG_WP_RES : RegId := ⟨.dbg, 0x260⟩
def Reg.DBG_SNAP_ENTRY : RegId := ⟨.dbg, 0x290⟩

/-- Registers of SPR: `Reg.X` is the register that the spec names X. -/
def Reg.SPR_CH_SEL : RegId := ⟨.spr, 0x100⟩
def Reg.SPR_COL : RegId := ⟨.spr, 0x104⟩
def Reg.SPR_CORE : RegId := ⟨.spr, 0x108⟩
def Reg.SPR_OFFER_SEL : RegId := ⟨.spr, 0x10C⟩
def Reg.SPR_OFFER : RegId := ⟨.spr, 0x110⟩
def Reg.SPR_CMD : RegId := ⟨.spr, 0x114⟩
def Reg.SPR_RETIRED : RegId := ⟨.spr, 0x118⟩
def Reg.SPR_REMAP_CNT : RegId := ⟨.spr, 0x11C⟩

/-- The register table of TIM, part 1. -/
def regRowsTIMA : List RegRow := [
  ⟨0x100, 1, .ro, 0xFFFFFFFF, none, 0x0, false, false⟩,
  ⟨0x104, 1, .ro, 0xFFFFFFFF, none, 0x0, false, false⟩,
  ⟨0x108, 1, .ro, 0xFFFF, none, 0x0, false, false⟩,
  ⟨0x10C, 1, .wo, 0x3, none, 0x0, false, false⟩,
  ⟨0x110, 1, .rw, 0xFFFFFFFF, none, 0x0, true, false⟩,
  ⟨0x114, 1, .rw, 0xFFFFFFFF, none, 0x0, true, false⟩,
  ⟨0x118, 1, .rw, 0xFFFF, none, 0x0, true, false⟩,
  ⟨0x11C, 1, .rw, 0xFFFFFFFF, none, 0x0, true, false⟩,
  ⟨0x120, 1, .rw, 0xFFFFFFFF, none, 0x0, true, false⟩,
  ⟨0x124, 1, .ro, 0xFFFFFFFF, none, 0x4, false, false⟩,
  ⟨0x128, 1, .rw, 0xFFFFFFFF, none, 0x19080064, true, false⟩,
  ⟨0x12C, 1, .wo, 0xFFFFFFFF, none, 0x0, false, false⟩,
  ⟨0x130, 1, .rw, 0xFFFF, none, 0x64, true, false⟩,
  ⟨0x134, 1, .ro, 0xFFFFFFFF, none, 0x0, false, false⟩,
  ⟨0x138, 1, .rwl, 0xFF0F7F, none, 0x0, true, false⟩,
  ⟨0x13C, 1, .rw, 0x3FFFFF, none, 0x186A0, true, false⟩,
  ⟨0x140, 1, .ro, 0xFFFFFFFF, none, 0x0, false, false⟩,
  ⟨0x144, 1, .ro, 0xFFFFFFFF, none, 0x0, false, false⟩,
  ⟨0x148, 1, .ro, 0xFFFF, none, 0x0, false, false⟩,
  ⟨0x150, 1, .rw, 0x1, none, 0x0, true, false⟩,
  ⟨0x154, 1, .rw, 0xFFFFFFFF, none, 0x0, true, false⟩,
  ⟨0x158, 1, .rw, 0xFFFFFFFF, none, 0x0, true, false⟩,
  ⟨0x15C, 1, .rw, 0xFFFF, none, 0x0, true, false⟩,
  ⟨0x160, 1, .rw, 0xFFFFFFFF, none, 0x0, true, false⟩]

/-- The register table of TIM, part 2. -/
def regRowsTIMB : List RegRow := [
  ⟨0x164, 1, .rw, 0xFFFFFFFF, none, 0x0, true, false⟩,
  ⟨0x168, 1, .ro, 0xFFFFFFFF, none, 0x0, false, false⟩,
  ⟨0x16C, 1, .ro, 0xFFFFFFFF, none, 0x0, false, false⟩,
  ⟨0x170, 1, .ro, 0x7FFF, none, 0x0, false, false⟩,
  ⟨0x174, 1, .ro, 0xFFFFFFFF, none, 0x0, false, false⟩,
  ⟨0x178, 1, .ro, 0xFFFFFFFF, none, 0x4E20, false, false⟩,
  ⟨0x17C, 1, .ro, 0xFFFFFF, none, 0xCCC19A, false, false⟩,
  ⟨0x180, 1, .ro, 0xFFF, none, 0xF33, false, false⟩,
  ⟨0x184, 1, .ro, 0xFFFFFFFF, none, 0x0, false, false⟩,
  ⟨0x188, 1, .ro, 0xFFFFFFFF, none, 0x0, false, false⟩,
  ⟨0x18C, 1, .ro, 0xFFFFFFFF, none, 0x0, false, false⟩,
  ⟨0x190, 1, .ro, 0xFFFFFFFF, none, 0x0, false, true⟩,
  ⟨0x194, 1, .ro, 0xFFFFFFFF, none, 0x0, false, true⟩]

/-- The register table of TIM. -/
def regRowsTIM : List RegRow := regRowsTIMA ++ regRowsTIMB

/-- The register table of PLN. -/
def regRowsPLN : List RegRow := [
  ⟨0x100, 1, .rw, 0x3, none, 0x0, true, false⟩,
  ⟨0x104, 1, .ro, 0xFFFF0007, none, 0x0, false, false⟩,
  ⟨0x108, 1, .rw, 0xFFFFFFFF, none, 0x0, true, false⟩,
  ⟨0x10C, 1, .rw, 0xFFFFFFFF, none, 0x0, true, false⟩,
  ⟨0x110, 1, .rw, 0xFFFFFFFF, none, 0x0, true, false⟩,
  ⟨0x114, 1, .rw, 0xFFFFFFFF, none, 0x0, true, false⟩,
  ⟨0x118, 1, .rw, 0xFFFFFFFF, none, 0x0, true, false⟩,
  ⟨0x11C, 1, .ro, 0xFFFFFFFF, none, 0x0, false, false⟩,
  ⟨0x120, 1, .ro, 0xFFFFFFFF, none, 0x0, false, false⟩,
  ⟨0x124, 1, .ro, 0xFFFFFFFF, none, 0x0, false, false⟩]

/-- The register table of RQT. RQT_ENTRY has no reset value: it reads 0 until the first snapshot is taken (R96; DESIGN CHOICE, log
entry 63). -/
def regRowsRQT : List RegRow := [
  ⟨0x100, 1, .ro, 0x3, none, 0x0, false, false⟩,
  ⟨0x104, 1, .rw, 0x3, none, 0x0, true, false⟩,
  ⟨0x108, 1, .rwl, 0xF, none, 0x3, true, false⟩,
  ⟨0x10C, 1, .rw, 0xFFF, none, 0x0, false, false⟩,
  ⟨0x110, 1, .ro, 0xFFFFFFFF, none, 0x1000, false, false⟩,
  ⟨0x114, 1, .ro, 0xFFFFFFFF, none, 0x0, false, false⟩,
  ⟨0x118, 1, .ro, 0xFFFFFFFF, none, 0x0, false, false⟩,
  ⟨0x11C, 1, .ro, 0xFFFFFFFF, none, 0x0, false, false⟩,
  ⟨0x120, 1, .ro, 0xFFFFFFFF, none, 0x0, false, false⟩,
  ⟨0x124, 1, .ro, 0xFFFF, none, 0x0, false, false⟩,
  ⟨0x128, 1, .ro, 0xFFFFFFFF, none, 0x0, false, true⟩,
  ⟨0x12C, 1, .ro, 0xFFFFFFFF, none, 0x0, false, true⟩,
  ⟨0x130, 1, .ro, 0xFFFFFFFF, none, 0x0, false, true⟩,
  ⟨0x200, 32, .ro, 0xFFFFFFFF, none, 0x0, false, false⟩]

/-- The register table of ADM. ADM_FREE_PAGES has no reset value: it reads 0 until the channel's release sets it (R98; DESIGN CHOICE, log
entry 63). -/
def regRowsADM : List RegRow := [
  ⟨0x100, 1, .rw, 0x3, none, 0x3, true, false⟩,
  ⟨0x104, 1, .rwl, 0xFFFFFFFF, none, 0x8000, true, false⟩,
  ⟨0x108, 1, .ro, 0xFFFFFFFF, none, 0x0, false, false⟩,
  ⟨0x10C, 1, .rw, 0xFFFFFFFF, none, 0x2625A00, true, false⟩,
  ⟨0x110, 1, .rw, 0xFFFFFFFF, none, 0x3B9ACA00, true, false⟩,
  ⟨0x114, 1, .rw, 0xFFFFFFFF, none, 0x1312D00, true, false⟩,
  ⟨0x118, 1, .rw, 0x3FF, none, 0x0, false, false⟩,
  ⟨0x11C, 1, .rw, 0xFFFFFFFF, (some 0x118), 0x0, false, false⟩,
  ⟨0x120, 1, .ro, 0xFFFFFFFF, (some 0x118), 0x0, false, false⟩,
  ⟨0x124, 1, .ro, 0xFFFFFFFF, none, 0x0, false, false⟩,
  ⟨0x128, 1, .ro, 0xFFFFFFFF, none, 0x0, false, false⟩,
  ⟨0x12C, 1, .ro, 0xFFFFFFFF, none, 0x0, false, false⟩,
  ⟨0x130, 1, .ro, 0xFFFFFFFF, none, 0x0, false, true⟩,
  ⟨0x134, 1, .ro, 0xFFFFFFFF, none, 0x0, false, true⟩,
  ⟨0x138, 1, .ro, 0xFFFFFFFF, none, 0x0, false, true⟩]

/-- The register table of ATN. -/
def regRowsATN : List RegRow := [
  ⟨0x100, 1, .rwl, 0x3, none, 0x1, true, false⟩,
  ⟨0x104, 1, .ro, 0x3FFF7FF, none, 0x0, false, false⟩,
  ⟨0x108, 1, .ro, 0xFF0FFF, none, 0x0, false, false⟩,
  ⟨0x10C, 1, .rw, 0xFF, none, 0x0, false, false⟩,
  ⟨0x110, 1, .rwl, 0x3FF007F, (some 0x10C), 0x0, false, false⟩,
  ⟨0x114, 1, .rwl, 0xFFFFFFFF, (some 0x10C), 0x0, false, false⟩,
  ⟨0x118, 1, .rwl, 0xFFFFFFFF, (some 0x10C), 0x0, false, false⟩,
  ⟨0x11C, 1, .ro, 0xFFFFFFFF, (some 0x10C), 0x0, false, false⟩,
  ⟨0x120, 1, .ro, 0xFFFFFFFF, (some 0x10C), 0x0, false, false⟩,
  ⟨0x124, 1, .ro, 0xFFFFFFFF, none, 0x0, false, true⟩,
  ⟨0x128, 1, .ro, 0xFFFFFFFF, none, 0x0, false, true⟩,
  ⟨0x12C, 1, .ro, 0xFFFFFFFF, none, 0x0, false, true⟩,
  ⟨0x130, 1, .ro, 0xFFFFFFFF, none, 0x0, false, true⟩,
  ⟨0x134, 1, .ro, 0xFFFFFFFF, none, 0x0, false, true⟩,
  ⟨0x138, 1, .ro, 0xFFFFFFFF, none, 0x0, false, true⟩,
  ⟨0x13C, 1, .ro, 0xFFFFFFFF, none, 0x0, false, true⟩,
  ⟨0x140, 1, .ro, 0xFFFFFFFF, none, 0x0, false, true⟩,
  ⟨0x144, 1, .ro, 0xFFFFFFFF, none, 0x0, false, true⟩,
  ⟨0x148, 1, .ro, 0xFFFFFFFF, none, 0x0, false, true⟩]

/-- The register table of PGM, part 1. -/
def regRowsPGMA : List RegRow := [
  ⟨0x100, 1, .rwl, 0x4FFFF7F, none, 0x4100401, true, false⟩,
  ⟨0x104, 1, .ro, 0xFF03, none, 0x0, false, false⟩,
  ⟨0x108, 1, .rwl, 0x1FFFFF, none, 0x16800, true, false⟩,
  ⟨0x10C, 1, .rwl, 0x3FFFFF, none, 0x1E9800, true, false⟩,
  ⟨0x110, 1, .ro, 0xFFFFFFFF, none, 0x187998, false, false⟩,
  ⟨0x114, 1, .ro, 0xFFFFFFFF, none, 0x19E198, false, false⟩,
  ⟨0x118, 1, .rwl, 0x1FFFFF, none, 0x2800, true, false⟩,
  ⟨0x11C, 1, .rwl, 0xFFFFFF, none, 0x10000, true, false⟩,
  ⟨0x120, 1, .ro, 0xFFFFFFFF, none, 0x10000, false, false⟩,
  ⟨0x124, 1, .ro, 0xFFFFFFFF, none, 0x0, false, false⟩,
  ⟨0x128, 1, .rwl, 0xFFFFFFFF, none, 0x0, true, false⟩,
  ⟨0x12C, 1, .rwl, 0xFFFFFFFF, none, 0x0, true, false⟩,
  ⟨0x130, 1, .ro, 0xFFFFFFFF, none, 0x0, false, false⟩,
  ⟨0x134, 1, .ro, 0xFFFFFFFF, none, 0x0, false, true⟩,
  ⟨0x138, 1, .ro, 0xFFFFFFFF, none, 0x0, false, true⟩,
  ⟨0x13C, 1, .ro, 0xFFFFFFFF, none, 0x0, false, true⟩,
  ⟨0x140, 1, .ro, 0xFFFFFFFF, none, 0x0, false, true⟩,
  ⟨0x144, 1, .ro, 0xFFFFFFFF, none, 0x0, false, true⟩,
  ⟨0x148, 1, .ro, 0xFFFFFFFF, none, 0x0, false, true⟩,
  ⟨0x14C, 1, .ro, 0xFFFFFFFF, none, 0x0, false, true⟩,
  ⟨0x150, 1, .ro, 0xFFFFFFFF, none, 0x0, false, true⟩,
  ⟨0x160, 1, .rw, 0xFFF, none, 0x0, false, false⟩,
  ⟨0x164, 1, .rw, 0xFFFFFFFF, (some 0x160), 0x0, false, false⟩,
  ⟨0x168, 1, .rw, 0xFFFFFFFF, (some 0x160), 0x0, false, false⟩]

/-- The register table of PGM, part 2. -/
def regRowsPGMB : List RegRow := [
  ⟨0x16C, 1, .rw, 0xFFFFFFFF, (some 0x160), 0x0, false, false⟩,
  ⟨0x170, 1, .rw, 0x800003FF, (some 0x160), 0x0, false, false⟩]

/-- The register table of PGM. -/
def regRowsPGM : List RegRow := regRowsPGMA ++ regRowsPGMB

/-- The register table of DMV. -/
def regRowsDMV : List RegRow := [
  ⟨0x100, 1, .rwl, 0x3F, none, 0x10, true, false⟩,
  ⟨0x104, 1, .ro, 0x3FFFF7F, none, 0x0, false, false⟩,
  ⟨0x108, 1, .ro, 0xFFFFFFFF, none, 0x0, false, false⟩,
  ⟨0x10C, 1, .ro, 0xFFFFFFFF, none, 0x0, false, false⟩,
  ⟨0x110, 1, .ro, 0xFFFFFFFF, none, 0x0, false, true⟩,
  ⟨0x114, 1, .ro, 0xFFFFFFFF, none, 0x0, false, true⟩,
  ⟨0x118, 1, .ro, 0xFFFFFFFF, none, 0x0, false, true⟩,
  ⟨0x11C, 1, .ro, 0xFFFFFFFF, none, 0x0, false, true⟩,
  ⟨0x120, 1, .ro, 0xFFFFFFFF, none, 0x0, false, false⟩]

/-- The register table of SKT. -/
def regRowsSKT : List RegRow := [
  ⟨0x100, 1, .rwl, 0x3, none, 0x1, true, false⟩,
  ⟨0x104, 1, .rw, 0x3FF, none, 0x0, false, false⟩,
  ⟨0x108, 1, .rw, 0xFFFFFFFF, (some 0x104), 0x0, false, false⟩,
  ⟨0x10C, 1, .rw, 0xFFFFFFFF, (some 0x104), 0x0, false, false⟩,
  ⟨0x110, 1, .rw, 0xFFFFFFFF, (some 0x104), 0x0, false, false⟩,
  ⟨0x114, 1, .rw, 0xFFFFFFFF, (some 0x104), 0x0, false, false⟩,
  ⟨0x118, 1, .rw, 0xFFFFFFFF, (some 0x104), 0x0, false, false⟩,
  ⟨0x11C, 1, .rw, 0xFFFFF, (some 0x104), 0x0, false, false⟩,
  ⟨0x120, 1, .ro, 0xFFFFFFFF, none, 0x0, false, true⟩,
  ⟨0x124, 1, .ro, 0xFFFFFFFF, none, 0x0, false, true⟩,
  ⟨0x128, 1, .ro, 0xFFFFFFFF, none, 0x0, false, true⟩,
  ⟨0x12C, 1, .ro, 0xFFFFFFFF, none, 0x0, false, true⟩,
  ⟨0x130, 1, .ro, 0xFFFFFFFF, none, 0x0, false, true⟩]

/-- The register table of VSE. -/
def regRowsVSE : List RegRow := [
  ⟨0x100, 1, .rwl, 0x1, none, 0x0, true, false⟩,
  ⟨0x104, 1, .ro, 0x3FF803F, none, 0x0, false, false⟩,
  ⟨0x108, 1, .rw, 0x3F, none, 0x0, false, false⟩,
  ⟨0x10C, 1, .ro, 0xFFFFFFFF, none, 0x0, false, true⟩,
  ⟨0x110, 1, .ro, 0xFFFFFFFF, none, 0x0, false, true⟩,
  ⟨0x114, 1, .ro, 0xFFFFFFFF, none, 0x0, false, true⟩,
  ⟨0x118, 1, .ro, 0xFFFFFFFF, none, 0x0, false, true⟩,
  ⟨0x11C, 1, .ro, 0xFFFFFFFF, none, 0x0, false, true⟩,
  ⟨0x120, 1, .ro, 0xFFFFFFFF, none, 0x0, false, false⟩,
  ⟨0x124, 1, .ro, 0x1FFF, none, 0x0, false, false⟩,
  ⟨0x128, 1, .ro, 0xFFFFFFFF, none, 0x0, false, true⟩,
  ⟨0x130, 1, .ro, 0xFFFFFFFF, none, 0x0, false, false⟩,
  ⟨0x134, 1, .ro, 0xFFFFFFFF, none, 0x0, false, false⟩,
  ⟨0x138, 1, .ro, 0xFFFFFFFF, none, 0x0, false, false⟩,
  ⟨0x13C, 1, .ro, 0xFFFFFFFF, none, 0x0, false, false⟩,
  ⟨0x140, 1, .wo, 0x1, none, 0x0, false, false⟩,
  ⟨0x200, 16, .ro, 0xFFFFFFFF, (some 0x108), 0x0, false, false⟩]

/-- The register table of ZRB. -/
def regRowsZRB : List RegRow := [
  ⟨0x100, 1, .rwl, 0x1FF, none, 0x140, true, false⟩,
  ⟨0x104, 1, .ro, 0xBF3F, none, 0x0, false, false⟩,
  ⟨0x108, 1, .rw, 0xF, none, 0x0, false, false⟩,
  ⟨0x10C, 1, .rwl, 0xFFFFFF1F, (some 0x108), 0x1E, false, false⟩,
  ⟨0x110, 1, .rwl, 0x1FFFFF, (some 0x108), 0x0, false, false⟩,
  ⟨0x114, 1, .rwl, 0x3FFFFF, (some 0x108), 0x0, false, false⟩,
  ⟨0x118, 1, .rwl, 0xFFFFFFFF, (some 0x108), 0x0, false, false⟩,
  ⟨0x11C, 1, .rwl, 0xFFFFFFFF, (some 0x108), 0x0, false, false⟩,
  ⟨0x120, 1, .ro, 0x3, (some 0x108), 0x0, false, false⟩,
  ⟨0x124, 1, .ro, 0xFFFFFFFF, none, 0x0, false, true⟩,
  ⟨0x128, 1, .ro, 0xFFFFFFFF, none, 0x0, false, true⟩,
  ⟨0x12C, 1, .ro, 0xFFFFFFFF, none, 0x0, false, true⟩,
  ⟨0x130, 1, .ro, 0xFFFFFFFF, none, 0x0, false, true⟩,
  ⟨0x134, 1, .ro, 0xFFFFFFFF, none, 0x0, false, true⟩,
  ⟨0x138, 1, .ro, 0xFFFFFFFF, none, 0x0, false, true⟩,
  ⟨0x13C, 1, .ro, 0xFFFFFFFF, none, 0x0, false, true⟩,
  ⟨0x140, 1, .ro, 0xFFFFFFFF, none, 0x0, false, true⟩,
  ⟨0x144, 1, .ro, 0xFFFFFFFF, none, 0x0, false, true⟩,
  ⟨0x148, 1, .ro, 0xFFFFFFFF, none, 0x0, false, true⟩,
  ⟨0x150, 1, .ro, 0xFFFFFFFF, none, 0x0, false, false⟩,
  ⟨0x154, 1, .ro, 0xFFFFFFFF, none, 0x0, false, false⟩,
  ⟨0x158, 1, .ro, 0xFFFFFFFF, none, 0x0, false, false⟩,
  ⟨0x15C, 1, .ro, 0xFFFFFFFF, none, 0x0, false, false⟩]

/-- The register table of SMP. -/
def regRowsSMP : List RegRow := [
  ⟨0x100, 1, .rw, 0xFFF, none, 0x0, false, false⟩,
  ⟨0x104, 1, .ro, 0x3FF8000, none, 0x0, false, false⟩,
  ⟨0x108, 1, .rw, 0xFF, none, 0x0, false, false⟩,
  ⟨0x10C, 1, .rwl, 0x3FF003F, (some 0x108), 0x0, false, false⟩,
  ⟨0x110, 1, .rwl, 0xFFFFFFFF, (some 0x108), 0x0, false, false⟩,
  ⟨0x114, 1, .rwl, 0xFFFFFFFF, (some 0x108), 0x0, false, false⟩,
  ⟨0x118, 1, .ro, 0xFFFFFFFF, (some 0x108), 0x0, false, false⟩,
  ⟨0x11C, 1, .ro, 0xFFFFFFFF, (some 0x108), 0x0, false, false⟩,
  ⟨0x120, 1, .ro, 0xFFFFFFFF, none, 0x0, false, true⟩,
  ⟨0x124, 1, .ro, 0xFFFFFFFF, none, 0x0, false, true⟩,
  ⟨0x128, 1, .ro, 0xFFFFFFFF, none, 0x0, false, true⟩,
  ⟨0x12C, 1, .ro, 0xFFFFFFFF, none, 0x0, false, true⟩,
  ⟨0x130, 1, .ro, 0xFFFFFFFF, none, 0x0, false, true⟩,
  ⟨0x134, 1, .ro, 0xFFFFFFFF, none, 0x0, false, true⟩,
  ⟨0x138, 1, .ro, 0x3FF, none, 0x0, false, false⟩,
  ⟨0x200, 16, .ro, 0xFFFFFFFF, (some 0x100), 0x0, false, false⟩]

/-- The register table of JSC, part 1. -/
def regRowsJSCA : List RegRow := [
  ⟨0x100, 1, .rwl, 0xFFFFFFFF, none, 0x6400C8, true, false⟩,
  ⟨0x104, 1, .ro, 0xFF1F, none, 0x0, false, false⟩,
  ⟨0x108, 1, .rw, 0x3FF, none, 0x0, false, false⟩,
  ⟨0x10C, 1, .wo, 0x3, none, 0x0, false, false⟩,
  ⟨0x110, 1, .rw, 0x3FF, none, 0x0, false, false⟩,
  ⟨0x114, 1, .rwl, 0x3FFFFFF, (some 0x110), 0x0, false, false⟩,
  ⟨0x118, 1, .rwl, 0xFFFFFFFF, (some 0x110), 0x0, false, false⟩,
  ⟨0x11C, 1, .rwl, 0xFFFFFFFF, (some 0x110), 0x0, false, false⟩,
  ⟨0x120, 1, .ro, 0xFFFFFFFF, (some 0x110), 0x0, false, false⟩,
  ⟨0x124, 1, .ro, 0xFFFFFFFF, (some 0x110), 0x0, false, false⟩,
  ⟨0x128, 1, .rw, 0x3FF, none, 0x0, false, false⟩,
  ⟨0x12C, 1, .rwl, 0x3FF003F, (some 0x128), 0x0, false, false⟩,
  ⟨0x130, 1, .rwl, 0xFFFFFFFF, (some 0x128), 0x0, false, false⟩,
  ⟨0x134, 1, .rwl, 0xFFFFFFFF, (some 0x128), 0x0, false, false⟩,
  ⟨0x138, 1, .ro, 0xFFFFFFFF, (some 0x128), 0x0, false, false⟩,
  ⟨0x13C, 1, .ro, 0xFFFFFFFF, (some 0x128), 0x0, false, false⟩,
  ⟨0x140, 1, .rw, 0xFF, none, 0x0, false, false⟩,
  ⟨0x144, 1, .rwl, 0x800003FF, (some 0x140), 0x0, false, false⟩,
  ⟨0x148, 1, .ro, 0xFFFFFFFF, (some 0x140), 0x0, false, false⟩,
  ⟨0x150, 1, .rwl, 0x3F, none, 0x0, true, false⟩,
  ⟨0x154, 1, .rwl, 0xFFFFFFFF, none, 0x0, true, false⟩,
  ⟨0x158, 1, .rwl, 0xFFFFFFFF, none, 0x0, true, false⟩,
  ⟨0x15C, 1, .ro, 0xFFFFFFFF, none, 0x0, false, false⟩,
  ⟨0x160, 1, .ro, 0xFFFFFFFF, none, 0x0, false, false⟩]

/-- The register table of JSC, part 2. -/
def regRowsJSCB : List RegRow := [
  ⟨0x164, 1, .ro, 0xFFFFFFFF, (some 0x108), 0x0, false, false⟩,
  ⟨0x168, 1, .ro, 0xFFFFFFFF, (some 0x108), 0x0, false, false⟩,
  ⟨0x16C, 1, .rw, 0x7, none, 0x0, false, false⟩,
  ⟨0x170, 1, .ro, 0xFFFFFFFF, (some 0x108), 0x0, false, false⟩,
  ⟨0x174, 1, .ro, 0xFFFFFFFF, none, 0x0, false, true⟩,
  ⟨0x178, 1, .ro, 0xFFFFFFFF, none, 0x0, false, true⟩,
  ⟨0x17C, 1, .ro, 0xFFFFFFFF, none, 0x0, false, true⟩,
  ⟨0x180, 1, .ro, 0xFFFFFFFF, none, 0x0, false, true⟩,
  ⟨0x184, 1, .ro, 0xFFFFFFFF, none, 0x0, false, true⟩,
  ⟨0x200, 16, .rw, 0xFFFFFFFF, (some 0x108), 0x0, false, false⟩,
  ⟨0x240, 32, .ro, 0xFFFFFFFF, (some 0x108), 0x0, false, false⟩]

/-- The register table of JSC. -/
def regRowsJSC : List RegRow := regRowsJSCA ++ regRowsJSCB

/-- The register table of ATU. -/
def regRowsATU : List RegRow := [
  ⟨0x100, 1, .rwl, 0x1, none, 0x1, true, false⟩,
  ⟨0x104, 1, .ro, 0x17F, none, 0x0, false, false⟩,
  ⟨0x108, 1, .rwl, 0x3F, none, 0x0, true, false⟩,
  ⟨0x10C, 1, .rwl, 0xFFFFFFFF, none, 0x0, true, false⟩,
  ⟨0x110, 1, .rwl, 0xFFFFFFFF, none, 0x0, true, false⟩,
  ⟨0x114, 1, .ro, 0xFFFFFFFF, none, 0x0, false, false⟩,
  ⟨0x118, 1, .ro, 0xFFFFFFFF, none, 0x0, false, false⟩,
  ⟨0x11C, 1, .wo, 0x33F, none, 0x0, false, false⟩,
  ⟨0x120, 1, .rw, 0x800003FF, none, 0x0, true, false⟩,
  ⟨0x124, 1, .rw, 0xFFFFFFFF, none, 0x0, true, false⟩,
  ⟨0x128, 1, .rw, 0xFFFFFFFF, none, 0x0, true, false⟩,
  ⟨0x12C, 1, .wo, 0x800FFFFF, none, 0x0, false, false⟩,
  ⟨0x130, 1, .rw, 0x3FF, none, 0x0, false, false⟩,
  ⟨0x134, 1, .rw, 0xFFFFFFFF, (some 0x130), 0x0, false, false⟩,
  ⟨0x138, 1, .rw, 0xFFFFFFFF, (some 0x130), 0x0, false, false⟩,
  ⟨0x13C, 1, .rw, 0xFFFFFFFF, (some 0x130), 0x0, false, false⟩,
  ⟨0x140, 1, .rw, 0xFFFFFFFF, (some 0x130), 0x0, false, false⟩,
  ⟨0x144, 1, .rw, 0x800703FF, (some 0x130), 0x0, false, false⟩,
  ⟨0x148, 1, .ro, 0xFFFFFFFF, none, 0x0, false, true⟩,
  ⟨0x14C, 1, .ro, 0xFFFFFFFF, none, 0x0, false, true⟩,
  ⟨0x150, 1, .ro, 0xFFFFFFFF, none, 0x0, false, true⟩,
  ⟨0x154, 1, .ro, 0xFFFFFFFF, none, 0x0, false, true⟩,
  ⟨0x158, 1, .ro, 0xFFFFFFFF, none, 0x0, false, true⟩]

/-- The register table of KWP, part 1. -/
def regRowsKWPA : List RegRow := [
  ⟨0x100, 1, .rwl, 0x3, none, 0x0, true, false⟩,
  ⟨0x104, 1, .ro, 0x3FF001F, none, 0x0, false, false⟩,
  ⟨0x108, 1, .rwl, 0xFFFF, none, 0xBEE6, true, false⟩,
  ⟨0x10C, 1, .rw, 0x3FF, none, 0x1F4, true, false⟩,
  ⟨0x110, 1, .rwl, 0x3FFF, none, 0x2400, true, false⟩,
  ⟨0x114, 1, .rwl, 0xFF, none, 0x40, true, false⟩,
  ⟨0x118, 1, .rw, 0x1, none, 0x0, false, false⟩,
  ⟨0x11C, 1, .rwl, 0xFFFFFFFF, (some 0x118), 0x0, false, false⟩,
  ⟨0x120, 1, .rwl, 0xFFFF, (some 0x118), 0x0, false, false⟩,
  ⟨0x124, 1, .rwl, 0xFFFF, (some 0x118), 0x0, false, false⟩,
  ⟨0x128, 1, .rw, 0xFFFFFFFF, none, 0x27100032, true, false⟩,
  ⟨0x12C, 1, .rw, 0xFFFFFF0F, none, 0x3E81007, true, false⟩,
  ⟨0x130, 1, .rw, 0xFFFFFF, none, 0x407D0, true, false⟩,
  ⟨0x134, 1, .rw, 0xFFFF00FF, none, 0xFA00040, true, false⟩,
  ⟨0x138, 1, .rw, 0xFFFFFFFF, none, 0x3E80, true, false⟩,
  ⟨0x13C, 1, .rw, 0xFFFFFFFF, none, 0x3E8, true, false⟩,
  ⟨0x140, 1, .rw, 0xFFFFFFFF, none, 0x2710, true, false⟩,
  ⟨0x144, 1, .rw, 0x3FFFF, none, 0x0, false, false⟩,
  ⟨0x148, 1, .wo, 0x1F, none, 0x0, false, false⟩,
  ⟨0x14C, 1, .rw, 0xFFFF, none, 0x0, false, false⟩,
  ⟨0x150, 1, .rw, 0x800003FF, (some 0x14C), 0x0, false, false⟩,
  ⟨0x160, 1, .ro, 0xFFFFFFFF, none, 0x0, false, true⟩,
  ⟨0x164, 1, .ro, 0xFFFFFFFF, none, 0x0, false, true⟩,
  ⟨0x168, 1, .ro, 0xFFFFFFFF, none, 0x0, false, true⟩]

/-- The register table of KWP, part 2. -/
def regRowsKWPB : List RegRow := [
  ⟨0x16C, 1, .ro, 0xFFFFFFFF, none, 0x0, false, true⟩,
  ⟨0x170, 1, .ro, 0xFFFFFFFF, none, 0x0, false, true⟩,
  ⟨0x174, 1, .ro, 0xFFFFFFFF, none, 0x0, false, true⟩,
  ⟨0x178, 1, .ro, 0xFFFFFFFF, none, 0x0, false, true⟩,
  ⟨0x17C, 1, .ro, 0xFFFFFFFF, none, 0x0, false, true⟩,
  ⟨0x180, 1, .ro, 0xFFFFFFFF, none, 0x0, false, true⟩,
  ⟨0x184, 1, .ro, 0xFFFFFFFF, none, 0x0, false, true⟩,
  ⟨0x188, 1, .ro, 0xFFFFFFFF, none, 0x0, false, true⟩,
  ⟨0x18C, 1, .ro, 0xFFFFFFFF, none, 0x0, false, true⟩,
  ⟨0x190, 1, .ro, 0xFFFFFFFF, none, 0x0, false, true⟩,
  ⟨0x194, 1, .ro, 0xFFFFFFFF, none, 0x0, false, true⟩,
  ⟨0x198, 1, .ro, 0xFFFFFFFF, none, 0x0, false, true⟩,
  ⟨0x19C, 1, .ro, 0xFFFFFFFF, none, 0x0, false, true⟩,
  ⟨0x1A0, 1, .ro, 0xFFFFFFFF, none, 0x0, false, true⟩,
  ⟨0x1A4, 1, .ro, 0xFFFFFFFF, none, 0x0, false, true⟩,
  ⟨0x1A8, 1, .ro, 0xFFFFFFFF, none, 0x0, false, true⟩,
  ⟨0x1AC, 1, .ro, 0xFFFFFFFF, none, 0x0, false, true⟩,
  ⟨0x1B0, 1, .ro, 0xFFFFFFFF, none, 0x0, false, true⟩,
  ⟨0x1B4, 1, .ro, 0xFFFFFFFF, none, 0x0, false, true⟩,
  ⟨0x1B8, 1, .ro, 0xFFFFFFFF, none, 0x0, false, true⟩,
  ⟨0x1BC, 1, .ro, 0xFFFFFFFF, none, 0x0, false, true⟩,
  ⟨0x1C0, 1, .ro, 0xFFFFFFFF, none, 0x0, false, true⟩,
  ⟨0x200, 64, .rw, 0xFFFFFFFF, none, 0x0, false, false⟩,
  ⟨0x300, 8, .ro, 0xFFFFFFFF, (some 0x14C), 0x0, false, false⟩]

/-- The register table of KWP. -/
def regRowsKWP : List RegRow := regRowsKWPA ++ regRowsKWPB

/-- The register table of TRC, part 1. -/
def regRowsTRCA : List RegRow := [
  ⟨0x100, 1, .rwl, 0x3, none, 0x3, true, false⟩,
  ⟨0x104, 1, .ro, 0x3FFF, none, 0x0, false, false⟩,
  ⟨0x108, 1, .rw, 0xFFF, none, 0x0, false, false⟩,
  ⟨0x10C, 1, .rw, 0xFFFFFFFF, (some 0x108), 0x0, false, false⟩,
  ⟨0x110, 1, .rw, 0xFFFFFF, (some 0x108), 0x4000, false, false⟩,
  ⟨0x114, 1, .rw, 0x3F, (some 0x108), 0x0, false, false⟩,
  ⟨0x118, 1, .ro, 0xFFFFFF, (some 0x108), 0x0, false, false⟩,
  ⟨0x11C, 1, .ro, 0xFFFFFFFF, (some 0x108), 0x0, false, false⟩,
  ⟨0x120, 1, .ro, 0x3F, (some 0x108), 0x0, false, false⟩,
  ⟨0x124, 1, .rw, 0x3F, none, 0x0, false, false⟩,
  ⟨0x128, 1, .rwl, 0xFFFFFF07, (some 0x124), 0x1000100, false, false⟩,
  ⟨0x12C, 1, .ro, 0xFFFFFFFF, (some 0x124), 0x0, false, false⟩,
  ⟨0x130, 1, .rw, 0x3FF, none, 0x0, false, false⟩,
  ⟨0x134, 1, .rw, 0x1F, (some 0x130), 0x0, false, false⟩,
  ⟨0x138, 1, .rw, 0xFFFFFFFF, (some 0x130), 0x0, false, false⟩,
  ⟨0x13C, 1, .rw, 0xFFFFFFFF, (some 0x130), 0x0, false, false⟩,
  ⟨0x140, 1, .rw, 0xFFFFFFFF, (some 0x130), 0x0, false, false⟩,
  ⟨0x144, 1, .rw, 0xFFFFFFFF, (some 0x130), 0x0, false, false⟩,
  ⟨0x148, 1, .ro, 0xFFFFFFFF, (some 0x130), 0x0, false, true⟩,
  ⟨0x14C, 1, .ro, 0xFFFFFFFF, (some 0x130), 0x0, false, true⟩,
  ⟨0x150, 1, .ro, 0xFFFFFFFF, (some 0x130), 0x0, false, true⟩,
  ⟨0x154, 1, .rw, 0xFF, none, 0x0, false, false⟩,
  ⟨0x158, 1, .rw, 0x800003FF, (some 0x154), 0x0, false, false⟩,
  ⟨0x160, 1, .rw, 0xFFFFFFFF, none, 0x0, true, false⟩]

/-- The register table of TRC, part 2. -/
def regRowsTRCB : List RegRow := [
  ⟨0x164, 1, .rw, 0xFFFFFFFF, none, 0x0, true, false⟩,
  ⟨0x168, 1, .rw, 0xFFFFFFFF, none, 0x0, true, false⟩,
  ⟨0x16C, 1, .rw, 0xFFFFFFFF, none, 0x0, true, false⟩,
  ⟨0x170, 1, .rwl, 0xFFFF003F, none, 0x3E8000C, true, false⟩,
  ⟨0x174, 1, .rwl, 0xFFFFFFFF, none, 0x0, true, false⟩,
  ⟨0x178, 1, .rwl, 0xFFFFFFFF, none, 0x0, true, false⟩,
  ⟨0x17C, 1, .ro, 0xFFFFFFFF, none, 0x0, false, false⟩,
  ⟨0x180, 1, .ro, 0xFFFFFFFF, none, 0x0, false, false⟩,
  ⟨0x184, 1, .rw, 0xFFFFFFFF, none, 0x0, true, false⟩,
  ⟨0x188, 1, .rw, 0xFFFFFFFF, none, 0x0, true, false⟩,
  ⟨0x18C, 1, .ro, 0xFFFFFFFF, none, 0x0, false, true⟩,
  ⟨0x190, 1, .ro, 0xFFFFFFFF, none, 0x0, false, true⟩,
  ⟨0x194, 1, .ro, 0xFFFFFFFF, none, 0x0, false, true⟩,
  ⟨0x198, 1, .ro, 0xFFFFFFFF, none, 0x0, false, true⟩]

/-- The register table of TRC. -/
def regRowsTRC : List RegRow := regRowsTRCA ++ regRowsTRCB

/-- The register table of SLP, part 1. -/
def regRowsSLPA : List RegRow := [
  ⟨0x100, 1, .rwl, 0x3, none, 0x0, true, false⟩,
  ⟨0x104, 1, .ro, 0x3FFF0007, none, 0x0, false, false⟩,
  ⟨0x108, 1, .ro, 0xFFFF007F, none, 0x0, false, false⟩,
  ⟨0x10C, 1, .rw, 0xFFFF, none, 0x3E8, true, false⟩,
  ⟨0x110, 1, .wo, 0x8000037F, none, 0x0, false, false⟩,
  ⟨0x114, 1, .ro, 0xFFFFFFFF, none, 0x0, false, false⟩,
  ⟨0x118, 1, .ro, 0xFFFFFFFF, none, 0x0, false, false⟩,
  ⟨0x11C, 1, .ro, 0xFFFFFFFF, none, 0x0, false, false⟩,
  ⟨0x120, 1, .ro, 0xFFFFFFFF, none, 0x0, false, false⟩,
  ⟨0x124, 1, .rw, 0x7F, none, 0x0, false, false⟩,
  ⟨0x128, 1, .ro, 0xFFFF3FFF, (some 0x124), 0x0, false, false⟩,
  ⟨0x12C, 1, .ro, 0x7FFF, none, 0x0, false, false⟩,
  ⟨0x130, 1, .rw, 0x3FF, none, 0x0, false, false⟩,
  ⟨0x134, 1, .rw, 0xFFFFFFFF, (some 0x130), 0x0, false, false⟩,
  ⟨0x138, 1, .rw, 0xFFFFFFFF, (some 0x130), 0x0, false, false⟩,
  ⟨0x13C, 1, .rw, 0xFFFFFFFF, (some 0x130), 0x0, false, false⟩,
  ⟨0x140, 1, .rw, 0xFFFFFFFF, (some 0x130), 0x0, false, false⟩,
  ⟨0x144, 1, .wo, 0xFFFFFFFF, (some 0x130), 0x0, false, false⟩,
  ⟨0x148, 1, .rw, 0x801F03FF, (some 0x130), 0x0, false, false⟩,
  ⟨0x14C, 1, .rw, 0x3FF, none, 0x0, false, false⟩,
  ⟨0x150, 1, .rw, 0xFFFFFFFF, (some 0x14C), 0x0, false, false⟩,
  ⟨0x154, 1, .rw, 0xFFFFFFFF, (some 0x14C), 0x0, false, false⟩,
  ⟨0x158, 1, .rw, 0xFFFFFFFF, (some 0x14C), 0x0, false, false⟩,
  ⟨0x15C, 1, .rw, 0xFFFFFFFF, (some 0x14C), 0x0, false, false⟩]

/-- The register table of SLP, part 2. -/
def regRowsSLPB : List RegRow := [
  ⟨0x160, 1, .wo, 0xFFFFFFFF, (some 0x14C), 0x0, false, false⟩,
  ⟨0x164, 1, .rw, 0x83FF3FFF, (some 0x14C), 0x0, false, false⟩,
  ⟨0x168, 1, .rw, 0xFF, none, 0x0, false, false⟩,
  ⟨0x16C, 1, .rwl, 0x3FF003F, (some 0x168), 0x0, false, false⟩,
  ⟨0x170, 1, .rwl, 0xFFFFFFFF, (some 0x168), 0x0, false, false⟩,
  ⟨0x174, 1, .rwl, 0xFFFFFFFF, (some 0x168), 0x0, false, false⟩,
  ⟨0x178, 1, .wo, 0xFFFFFFFF, (some 0x168), 0x0, false, false⟩,
  ⟨0x17C, 1, .ro, 0xFFFFFFFF, (some 0x168), 0x0, false, false⟩,
  ⟨0x180, 1, .ro, 0xFFFFFFFF, (some 0x168), 0x0, false, false⟩,
  ⟨0x184, 1, .rw, 0xFFFFFFFF, none, 0x2710, true, false⟩,
  ⟨0x188, 1, .ro, 0xFFFFFFFF, none, 0x0, false, true⟩,
  ⟨0x18C, 1, .ro, 0xFFFFFFFF, none, 0x0, false, true⟩,
  ⟨0x190, 1, .ro, 0xFFFFFFFF, none, 0x0, false, true⟩,
  ⟨0x194, 1, .ro, 0xFFFFFFFF, none, 0x0, false, true⟩,
  ⟨0x198, 1, .ro, 0xFFFFFFFF, none, 0x0, false, true⟩,
  ⟨0x19C, 1, .ro, 0xFFFFFFFF, none, 0x0, false, true⟩,
  ⟨0x1A0, 1, .ro, 0xFFFFFFFF, none, 0x0, false, true⟩,
  ⟨0x1A4, 1, .ro, 0xFFFFFFFF, none, 0x0, false, true⟩,
  ⟨0x1A8, 1, .ro, 0xFFFFFFFF, none, 0x0, false, true⟩,
  ⟨0x1AC, 1, .ro, 0xFFFFFFFF, none, 0x0, false, true⟩,
  ⟨0x1B0, 1, .ro, 0xFFFFFFFF, none, 0x0, false, true⟩]

/-- The register table of SLP. -/
def regRowsSLP : List RegRow := regRowsSLPA ++ regRowsSLPB

/-- The register table of NMO. -/
def regRowsNMO : List RegRow := [
  ⟨0x100, 1, .rwl, 0x1, none, 0x1, true, false⟩,
  ⟨0x104, 1, .ro, 0x8000FF0F, none, 0x0, false, false⟩,
  ⟨0x108, 1, .ro, 0xFFFFFFFF, none, 0x0, false, true⟩,
  ⟨0x10C, 1, .ro, 0xFFFFFFFF, none, 0x0, false, false⟩,
  ⟨0x110, 1, .ro, 0xFFFFFFFF, none, 0x0, false, false⟩,
  ⟨0x114, 1, .ro, 0xFFFFFFFF, none, 0x0, false, true⟩,
  ⟨0x118, 1, .ro, 0xFFFFFFFF, none, 0x0, false, true⟩]

/-- The register table of CCX, part 1. -/
def regRowsCCXA : List RegRow := [
  ⟨0x100, 1, .rwl, 0x3F3F, none, 0x0, true, false⟩,
  ⟨0x104, 1, .ro, 0x1FFFF03, none, 0x0, false, false⟩,
  ⟨0x108, 1, .rwl, 0xFF, none, 0x0, true, false⟩,
  ⟨0x10C, 1, .rwl, 0xFFFFFFFF, none, 0x0, true, false⟩,
  ⟨0x110, 1, .rwl, 0xFFFFFFFF, none, 0x0, true, false⟩,
  ⟨0x114, 1, .rwl, 0xFFFFFFFF, none, 0x0, true, false⟩,
  ⟨0x118, 1, .rwl, 0xFFFFFFFF, none, 0x0, true, false⟩,
  ⟨0x11C, 1, .rwl, 0xFFFFFFFF, none, 0x0, true, false⟩,
  ⟨0x120, 1, .rw, 0xFFFFFF, none, 0xA0064, true, false⟩,
  ⟨0x124, 1, .rw, 0xFFFF000F, none, 0xC80004, true, false⟩,
  ⟨0x128, 1, .wo, 0x707, none, 0x0, false, false⟩,
  ⟨0x12C, 1, .rw, 0xFF, none, 0x0, false, false⟩,
  ⟨0x130, 1, .rw, 0xFFFFFFFF, (some 0x12C), 0x0, false, false⟩,
  ⟨0x134, 1, .rw, 0xFFFFFFFF, (some 0x12C), 0x0, false, false⟩,
  ⟨0x138, 1, .rw, 0xFFFFFFFF, (some 0x12C), 0x0, false, false⟩,
  ⟨0x13C, 1, .rw, 0xFFFFFFFF, (some 0x12C), 0x0, false, false⟩,
  ⟨0x140, 1, .wo, 0xFFFFFFFF, (some 0x12C), 0x0, false, false⟩,
  ⟨0x144, 1, .rw, 0x80030000, (some 0x12C), 0x0, false, false⟩,
  ⟨0x148, 1, .ro, 0x1FFFF, none, 0x0, false, false⟩,
  ⟨0x14C, 1, .ro, 0x7FFFF, none, 0x0, false, false⟩,
  ⟨0x150, 1, .ro, 0xFFFFFFFF, none, 0x0, false, true⟩,
  ⟨0x154, 1, .ro, 0xFFFFFFFF, none, 0x0, false, true⟩,
  ⟨0x158, 1, .ro, 0xFFFFFFFF, none, 0x0, false, true⟩,
  ⟨0x15C, 1, .ro, 0xFFFFFFFF, none, 0x0, false, true⟩]

/-- The register table of CCX, part 2. -/
def regRowsCCXB : List RegRow := [
  ⟨0x160, 1, .ro, 0xFFFFFFFF, none, 0x0, false, true⟩,
  ⟨0x164, 1, .ro, 0xFFFFFFFF, none, 0x0, false, true⟩,
  ⟨0x168, 1, .ro, 0xFFFFFFFF, none, 0x0, false, true⟩,
  ⟨0x16C, 1, .ro, 0xFFFFFFFF, none, 0x0, false, true⟩,
  ⟨0x170, 1, .ro, 0xFFFFFFFF, none, 0x0, false, true⟩,
  ⟨0x174, 1, .ro, 0xFFFFFFFF, none, 0x0, false, true⟩,
  ⟨0x178, 1, .ro, 0xFFFFFFFF, none, 0x0, false, true⟩,
  ⟨0x17C, 1, .ro, 0xFFFFFFFF, none, 0x0, false, true⟩]

/-- The register table of CCX. -/
def regRowsCCX : List RegRow := regRowsCCXA ++ regRowsCCXB

/-- The register table of CXH. -/
def regRowsCXH : List RegRow := [
  ⟨0x100, 1, .rwl, 0x1, none, 0x0, true, false⟩,
  ⟨0x104, 1, .ro, 0xFFFF0FFF, none, 0x0, false, false⟩,
  ⟨0x108, 1, .rw, 0xF, none, 0x0, false, false⟩,
  ⟨0x10C, 1, .rwl, 0x3, (some 0x108), 0x0, false, false⟩,
  ⟨0x110, 1, .ro, 0xFFFF, (some 0x108), 0x0, false, false⟩,
  ⟨0x114, 1, .rw, 0xFFFF, none, 0x2710, true, false⟩,
  ⟨0x118, 1, .ro, 0xFFFFFFFF, none, 0x0, false, true⟩,
  ⟨0x11C, 1, .ro, 0xFFFFFFFF, none, 0x0, false, true⟩,
  ⟨0x120, 1, .ro, 0xFFFFFFFF, none, 0x0, false, true⟩,
  ⟨0x124, 1, .ro, 0xFFFFFFFF, none, 0x0, false, true⟩,
  ⟨0x128, 1, .ro, 0xFFFFFFFF, none, 0x0, false, true⟩,
  ⟨0x12C, 1, .ro, 0xFFFFFFFF, none, 0x0, false, true⟩,
  ⟨0x130, 1, .ro, 0xFFFFFFFF, none, 0x0, false, true⟩,
  ⟨0x134, 1, .ro, 0xFFFFFFFF, none, 0x0, false, true⟩,
  ⟨0x138, 1, .ro, 0xFFFFFFFF, none, 0x0, false, true⟩,
  ⟨0x13C, 1, .ro, 0xFFFFFFFF, none, 0x0, false, true⟩]

/-- The register table of CMP. -/
def regRowsCMP : List RegRow := [
  ⟨0x100, 1, .rwl, 0x1, none, 0x1, true, false⟩,
  ⟨0x104, 1, .ro, 0xFFFFFFFF, none, 0x0, false, false⟩,
  ⟨0x108, 1, .ro, 0xFFFFFFFF, none, 0x0, false, false⟩,
  ⟨0x10C, 1, .rw, 0xFFF, none, 0x0, false, false⟩,
  ⟨0x110, 1, .ro, 0x1FFF, none, 0x0, false, false⟩,
  ⟨0x114, 1, .rw, 0x3FF, none, 0x0, false, false⟩,
  ⟨0x118, 1, .rwl, 0x8000001F, (some 0x114), 0x0, false, false⟩,
  ⟨0x11C, 1, .rw, 0xFF, none, 0x0, false, false⟩,
  ⟨0x120, 1, .rw, 0xFFFFFFFF, (some 0x11C), 0x0, false, false⟩,
  ⟨0x124, 1, .rw, 0xFFFFFFFF, (some 0x11C), 0x0, false, false⟩,
  ⟨0x128, 1, .rw, 0xFFFFFFFF, (some 0x11C), 0x0, false, false⟩,
  ⟨0x12C, 1, .rw, 0xFFFFFFFF, (some 0x11C), 0x0, false, false⟩,
  ⟨0x130, 1, .rw, 0xFFFFFFFF, (some 0x11C), 0x0, false, false⟩,
  ⟨0x134, 1, .rw, 0x800001F3, (some 0x11C), 0x0, false, false⟩,
  ⟨0x138, 1, .rw, 0x3FF, none, 0x0, false, false⟩,
  ⟨0x13C, 1, .ro, 0xFFFFFFFF, none, 0x0, false, true⟩,
  ⟨0x140, 1, .ro, 0xFFFFFFFF, none, 0x0, false, true⟩,
  ⟨0x144, 1, .ro, 0xFFFFFFFF, none, 0x0, false, true⟩,
  ⟨0x148, 1, .ro, 0xFFFFFFFF, none, 0x0, false, true⟩,
  ⟨0x14C, 1, .ro, 0xFFFFFF, none, 0x0, false, false⟩,
  ⟨0x200, 8, .ro, 0xFFFFFFFF, (some 0x10C), 0x0, false, false⟩,
  ⟨0x220, 8, .ro, 0xFFFFFFFF, (some 0x138), 0x0, false, false⟩]

/-- The register table of MBX, part 1. -/
def regRowsMBXA : List RegRow := [
  ⟨0x100, 1, .rwl, 0x1, none, 0x1, true, false⟩,
  ⟨0x104, 1, .rw, 0x7FF, none, 0x0, false, false⟩,
  ⟨0x108, 1, .ro, 0x3FFFF, none, 0x0, false, false⟩,
  ⟨0x10C, 1, .wo, 0x3, none, 0x0, false, false⟩,
  ⟨0x110, 1, .wo, 0xFFFF, none, 0x0, false, false⟩,
  ⟨0x114, 1, .ro, 0xFFFFFFFF, none, 0x0, false, false⟩,
  ⟨0x118, 1, .ro, 0xFFFFFFFF, none, 0x0, false, false⟩,
  ⟨0x120, 1, .rw, 0x7FF, none, 0x0, false, false⟩,
  ⟨0x124, 1, .rw, 0x1F, (some 0x120), 0x0, false, false⟩,
  ⟨0x128, 1, .rw, 0x1F, none, 0x0, true, false⟩,
  ⟨0x12C, 1, .ro, 0x800007FF, (some 0x128), 0x0, false, false⟩,
  ⟨0x130, 1, .ro, 0xFFFFFFFF, none, 0x0, false, true⟩,
  ⟨0x134, 1, .ro, 0xFFFFFFFF, none, 0x0, false, true⟩,
  ⟨0x138, 1, .ro, 0xFFFFFFFF, none, 0x0, false, true⟩,
  ⟨0x13C, 1, .ro, 0xFFFFFFFF, none, 0x0, false, true⟩,
  ⟨0x140, 1, .ro, 0xFFFFFFFF, none, 0x0, false, false⟩,
  ⟨0x144, 1, .ro, 0xFFFFFFFF, none, 0x0, false, false⟩,
  ⟨0x148, 1, .ro, 0xFFFFFFFF, none, 0x0, false, false⟩,
  ⟨0x14C, 1, .ro, 0xFFFFFFFF, none, 0x0, false, false⟩,
  ⟨0x150, 1, .ro, 0xFFFFFFFF, none, 0x0, false, false⟩,
  ⟨0x154, 1, .ro, 0xFFFFFFFF, none, 0x0, false, false⟩,
  ⟨0x158, 1, .ro, 0xFFFFFFFF, none, 0x0, false, false⟩,
  ⟨0x15C, 1, .ro, 0xFFFFFFFF, none, 0x0, false, false⟩,
  ⟨0x160, 1, .ro, 0xFFFFFFFF, none, 0x0, false, false⟩]

/-- The register table of MBX, part 2. -/
def regRowsMBXB : List RegRow := [
  ⟨0x164, 1, .ro, 0xFFFFFFFF, none, 0x0, false, false⟩,
  ⟨0x168, 1, .ro, 0xFFFFFFFF, none, 0x0, false, false⟩,
  ⟨0x16C, 1, .ro, 0xFFFFFFFF, none, 0x0, false, false⟩,
  ⟨0x170, 1, .ro, 0xFFFFFFFF, none, 0x0, false, false⟩,
  ⟨0x174, 1, .ro, 0xFFFFFFFF, none, 0x0, false, false⟩,
  ⟨0x178, 1, .ro, 0xFFFFFFFF, none, 0x0, false, false⟩,
  ⟨0x17C, 1, .ro, 0xFFFFFFFF, none, 0x0, false, false⟩]

/-- The register table of MBX. -/
def regRowsMBX : List RegRow := regRowsMBXA ++ regRowsMBXB

/-- The register table of BOOT. -/
def regRowsBOOT : List RegRow := [
  ⟨0x100, 1, .ro, 0xFFFF01F7, none, 0x0, false, false⟩,
  ⟨0x104, 1, .wo, 0x7, none, 0x0, false, false⟩,
  ⟨0x108, 1, .rw, 0x1, none, 0x0, true, false⟩,
  ⟨0x10C, 1, .ro, 0xFFFF, none, 0x0, false, false⟩,
  ⟨0x110, 1, .ro, 0xFFFFFFFF, none, 0x0, false, false⟩,
  ⟨0x114, 1, .rw, 0x1F, none, 0x0, false, false⟩,
  ⟨0x118, 1, .ro, 0x7F1F17, (some 0x114), 0x0, false, false⟩,
  ⟨0x11C, 1, .rw, 0xFFFFFFFF, none, 0x0, true, false⟩,
  ⟨0x120, 1, .rw, 0xFFFFFFFF, none, 0x0, true, false⟩,
  ⟨0x124, 1, .rw, 0xFFFFFFFF, none, 0x0, true, false⟩,
  ⟨0x128, 1, .wo, 0x80001F1F, none, 0x0, false, false⟩,
  ⟨0x12C, 1, .ro, 0xFF1, none, 0x0, false, false⟩,
  ⟨0x130, 1, .wo, 0x70F, none, 0x0, false, false⟩,
  ⟨0x134, 1, .ro, 0xFFFFFFFF, none, 0x0, false, false⟩,
  ⟨0x138, 1, .ro, 0x3, none, 0x0, false, false⟩,
  ⟨0x13C, 1, .rw, 0xFFFFFFF, none, 0x0, true, false⟩,
  ⟨0x140, 1, .wo, 0x7, none, 0x0, false, false⟩,
  ⟨0x144, 1, .ro, 0x3, none, 0x0, false, false⟩,
  ⟨0x200, 64, .rw, 0xFFFFFFFF, none, 0x0, false, false⟩]

/-- The register table of SEC. -/
def regRowsSEC : List RegRow := [
  ⟨0x100, 1, .ro, 0x7FFF, none, 0x0, false, false⟩,
  ⟨0x104, 1, .wo, 0x8000007F, none, 0x0, false, false⟩,
  ⟨0x108, 1, .wo, 0x8000000F, none, 0x0, false, false⟩,
  ⟨0x10C, 1, .rw, 0x1F, none, 0x0, false, false⟩,
  ⟨0x110, 1, .ro, 0x3FF, none, 0x0, false, false⟩,
  ⟨0x114, 1, .ro, 0xFFFFFFFF, none, 0x0, false, true⟩,
  ⟨0x118, 1, .ro, 0xFFFFFFFF, none, 0x0, false, true⟩,
  ⟨0x200, 16, .ro, 0xFFFFFFFF, none, 0x0, false, false⟩,
  ⟨0x240, 8, .ro, 0xFFFFFFFF, (some 0x10C), 0x0, false, false⟩]

/-- The register table of PSQ. -/
def regRowsPSQ : List RegRow := [
  ⟨0x100, 1, .rwl, 0xFFFF011F, none, 0x320110, true, false⟩,
  ⟨0x104, 1, .ro, 0x3F1F1F, none, 0x10, false, false⟩,
  ⟨0x108, 1, .rw, 0x3, none, 0x0, true, false⟩,
  ⟨0x10C, 1, .rwl, 0x1FF, none, 0x1A4, true, false⟩,
  ⟨0x110, 1, .ro, 0xFFFFFFFF, none, 0x0, false, false⟩,
  ⟨0x114, 1, .ro, 0xFFFFFFFF, none, 0x0, false, false⟩,
  ⟨0x118, 1, .ro, 0xFFFFFFFF, none, 0x0, false, false⟩,
  ⟨0x11C, 1, .ro, 0xFFF, none, 0x0, false, false⟩,
  ⟨0x120, 1, .rw, 0x3F, none, 0x0, false, false⟩,
  ⟨0x124, 1, .ro, 0xFFF, (some 0x120), 0x0, false, false⟩,
  ⟨0x128, 1, .rw, 0x7F, none, 0x0, false, false⟩,
  ⟨0x12C, 1, .ro, 0x3, (some 0x128), 0x0, false, false⟩,
  ⟨0x130, 1, .rw, 0xFFFFFFFF, none, 0x8, true, false⟩,
  ⟨0x134, 1, .ro, 0xFFFFFFFF, none, 0x0, false, true⟩,
  ⟨0x138, 1, .ro, 0xFFFFFFFF, none, 0x0, false, true⟩,
  ⟨0x13C, 1, .ro, 0xFFFFFFFF, none, 0x0, false, true⟩,
  ⟨0x140, 1, .ro, 0xFFFFFFFF, none, 0x0, false, true⟩]

/-- The register table of CLK. -/
def regRowsCLK : List RegRow := [
  ⟨0x100, 1, .ro, 0x1FF, none, 0x0, false, false⟩,
  ⟨0x104, 1, .rw, 0x7F, none, 0x0, false, false⟩,
  ⟨0x108, 1, .ro, 0x33FFFFF, (some 0x104), 0x0, false, false⟩,
  ⟨0x10C, 1, .rw, 0xFFFFFFFF, none, 0x0, true, false⟩,
  ⟨0x110, 1, .ro, 0xFFFFFFFF, none, 0x0, false, true⟩,
  ⟨0x114, 1, .ro, 0xFFFFFFFF, none, 0x0, false, true⟩]

/-- The register table of RAS. -/
def regRowsRAS : List RegRow := [
  ⟨0x100, 1, .rwl, 0xFFFF0000, none, 0x10000, true, false⟩,
  ⟨0x104, 1, .ro, 0xFF011F1F, none, 0x0, false, false⟩,
  ⟨0x108, 1, .rw, 0xF, none, 0x0, false, false⟩,
  ⟨0x10C, 1, .ro, 0xFF07, (some 0x108), 0x0, false, false⟩,
  ⟨0x110, 1, .ro, 0xFFFFFFFF, (some 0x108), 0x0, false, false⟩,
  ⟨0x114, 1, .ro, 0xFFFFFFFF, (some 0x108), 0x0, false, false⟩,
  ⟨0x118, 1, .ro, 0xFFFF, none, 0x0, false, false⟩,
  ⟨0x11C, 1, .wo, 0x8000FF0F, none, 0x0, false, false⟩,
  ⟨0x120, 1, .ro, 0xFFFFFFFF, none, 0x0, false, true⟩,
  ⟨0x124, 1, .ro, 0xFFFFFFFF, none, 0x0, false, true⟩,
  ⟨0x128, 1, .ro, 0xFFFFFFFF, none, 0x0, false, true⟩,
  ⟨0x12C, 1, .ro, 0xFFFFFFFF, none, 0x0, false, true⟩,
  ⟨0x130, 1, .ro, 0xFFFFFFFF, none, 0x0, false, true⟩,
  ⟨0x134, 1, .ro, 0xFFFFFFFF, none, 0x0, false, true⟩]

/-- The register table of DBG. -/
def regRowsDBG : List RegRow := [
  ⟨0x100, 1, .rw, 0xF, none, 0x0, false, false⟩,
  ⟨0x104, 1, .rw, 0x3F, none, 0x0, false, false⟩,
  ⟨0x108, 1, .rw, 0x8000FFFF, (some 0x104), 0x0, false, false⟩,
  ⟨0x10C, 1, .rw, 0xFFF0FFF, (some 0x104), 0x0, false, false⟩,
  ⟨0x110, 1, .rw, 0xFFF0FFF, (some 0x104), 0x0, false, false⟩,
  ⟨0x114, 1, .rw, 0x3F, none, 0x0, false, false⟩,
  ⟨0x118, 1, .rw, 0x7FF, (some 0x114), 0x0, false, false⟩,
  ⟨0x11C, 1, .rw, 0xFFF0FFF, (some 0x114), 0x0, false, false⟩,
  ⟨0x120, 1, .rw, 0xFFF0FFF, (some 0x114), 0x0, false, false⟩,
  ⟨0x124, 1, .rw, 0xFFFF0003, (some 0x114), 0x0, false, false⟩,
  ⟨0x128, 1, .wo, 0x1, none, 0x0, false, false⟩,
  ⟨0x12C, 1, .ro, 0x7FFF0003, (some 0x100), 0x0, false, false⟩,
  ⟨0x130, 1, .rw, 0x3FFF, none, 0x0, false, false⟩,
  ⟨0x134, 1, .rw, 0xFFFFFFFF, none, 0x0, true, false⟩,
  ⟨0x138, 1, .rw, 0x1F, none, 0x0, true, false⟩,
  ⟨0x13C, 1, .ro, 0xFFFFFFFF, none, 0x0, false, false⟩,
  ⟨0x140, 1, .wo, 0x1, none, 0x0, false, false⟩,
  ⟨0x200, 12, .ro, 0xFFFFFFFF, (some 0x104), 0x0, false, true⟩,
  ⟨0x230, 12, .ro, 0xFFFFFFFF, (some 0x104), 0x0, false, false⟩,
  ⟨0x260, 12, .ro, 0xFFFFFFFF, (some 0x114), 0x0, false, false⟩,
  ⟨0x290, 4, .ro, 0xFFFFFFFF, (some 0x130), 0x0, false, false⟩]

/-- The register table of SPR. -/
def regRowsSPR : List RegRow := [
  ⟨0x100, 1, .rw, 0xF, none, 0x0, false, false⟩,
  ⟨0x104, 1, .ro, 0xFF0F0F, (some 0x100), 0x0, false, false⟩,
  ⟨0x108, 1, .ro, 0x1F031F03, none, 0x0, false, false⟩,
  ⟨0x10C, 1, .rw, 0xFF, none, 0x0, false, false⟩,
  ⟨0x110, 1, .ro, 0xFFF3, (some 0x10C), 0x0, false, false⟩,
  ⟨0x114, 1, .wo, 0x3FF, none, 0x0, false, false⟩,
  ⟨0x118, 1, .ro, 0x3FFFFF, (some 0x100), 0x0, false, false⟩,
  ⟨0x11C, 1, .ro, 0xFFFFFFFF, none, 0x0, false, true⟩]

/-- The register table of a block. -/
def regRows : Blk → List RegRow
  | .tim => regRowsTIM
  | .pln => regRowsPLN
  | .rqt => regRowsRQT
  | .adm => regRowsADM
  | .atn => regRowsATN
  | .pgm => regRowsPGM
  | .dmv => regRowsDMV
  | .skt => regRowsSKT
  | .vse => regRowsVSE
  | .zrb => regRowsZRB
  | .smp => regRowsSMP
  | .jsc => regRowsJSC
  | .atu => regRowsATU
  | .kwp => regRowsKWP
  | .trc => regRowsTRC
  | .slp => regRowsSLP
  | .nmo => regRowsNMO
  | .ccx => regRowsCCX
  | .cxh => regRowsCXH
  | .cmp => regRowsCMP
  | .mbx => regRowsMBX
  | .boot => regRowsBOOT
  | .sec => regRowsSEC
  | .psq => regRowsPSQ
  | .clk => regRowsCLK
  | .ras => regRowsRAS
  | .dbg => regRowsDBG
  | .spr => regRowsSPR

/-- The row that names the word at an offset, if one does (R592: every other offset is reserved). -/
def findRow (b : Blk) (off : Nat) : Option RegRow :=
  (regRows b).find? fun r => r.off ≤ off && off < r.off + 4 * r.words

/-- The number of the selector value that a table can hold (room for the largest selector, 18 bits, and for DBG's
channel and set together). -/
def selSpan : Nat := 2 ^ 20

/-- The key of a register word in the register store. -/
def regKey (b : Blk) (idx off sel : Nat) : Nat := ((b.code * 16 + idx) * 1024 + off / 4) * selSpan + sel

/-- The block whose type code is `n` (R591). -/
def blkOfCode (n : Nat) : Option Blk :=
  [Blk.tim, .pln, .rqt, .adm, .atn, .pgm, .skt, .vse, .zrb, .smp, .jsc, .atu, .kwp, .trc, .slp, .ccx, .nmo,
    .cxh, .cmp, .mbx, .sec, .boot, .psq, .clk, .ras, .dbg, .spr, .dmv].find? fun b => b.code == n

/-- The rows whose reset value depends on the selector or on the word of a window: a TRC queue 0 or 32 (R396), the word at
0x08 of a job context (R303: ESC_THRESH resets to 0x2000), and the route of a mailbox (R507). -/
def regResetOf (b : Blk) (off sel : Nat) : Nat :=
  match b, off with
  | .trc, 0x128 => if sel = 0 ∨ sel = 32 then 0x01000107 else 0x01000100
  | .jsc, 0x208 => 0x20000000
  | .mbx, 0x124 => if sel < 1024 then sel % 4 else 0
  | _, _ => match findRow b off with
    | some r => r.reset
    | none => 0

/-- What an unlisted register word reads as: its reset value. -/
def regReset (k : Nat) : Word :=
  match blkOfCode (k / selSpan / 1024 / 16) with
  | some b => BitVec.ofNat 32 (regResetOf b (k / selSpan % 1024 * 4) (k % selSpan))
  | none => 0

end Sys2Proof.Machine
end

