-- ==== Sys2Proof/Machine/Operands.lean ====
section
/-! DEFINITION. Operand forms: bit fields of words, the little-endian layout of in-memory records, and the header that
every queued command begins with (00_scope.md, R306). -/
namespace Sys2Proof

/-- The key of a block page: the type code of R591 and the block's number. -/
def Page.key (p : Page) : Nat := p.blk.code * 16 + p.idx

/-- The BAR0 offset of a page (R589, R590). -/
def Page.bar0 (p : Page) : Nat :=
  if p.blk.perChannel then 0x1000000 + p.idx * 0x200000 + p.blk.code * 0x1000
  else p.blk.code * 0x10000 + p.idx * 0x1000

end Sys2Proof

namespace Sys2Proof.Machine

/-- Bits `[hi:lo]` of a word, as a number. -/
def fld (w : Word) (hi lo : Nat) : Nat := w.toNat / 2 ^ lo % 2 ^ (hi + 1 - lo)

/-- Bit `i` of a word. -/
def wbit (w : Word) (i : Nat) : Bool := w.getLsbD i

/-- A word whose bits `[hi:lo]` are replaced by the low bits of a number. -/
def setFld (w : Word) (hi lo v : Nat) : Word :=
  let m : Word := BitVec.ofNat 32 ((2 ^ (hi + 1 - lo) - 1) * 2 ^ lo)
  (w &&& ~~~m) ||| (BitVec.ofNat 32 (v % 2 ^ (hi + 1 - lo) * 2 ^ lo))

/-- A word with one bit set to a value. -/
def setBit (w : Word) (i : Nat) (b : Bool) : Word := setFld w i i (if b then 1 else 0)

/-- Bits `[hi:lo]` of a natural number. -/
def nfld (n hi lo : Nat) : Nat := n / 2 ^ lo % 2 ^ (hi + 1 - lo)

/-- `1` for true, `0` for false. -/
def b2n (b : Bool) : Nat := if b then 1 else 0

/-- A number placed at bit `lo` of a record field `w` bits wide. -/
def fieldAt (lo w v : Nat) : Nat := v % 2 ^ w * 2 ^ lo

/-- The low word of a number. -/
def lo32 (n : Nat) : Word := BitVec.ofNat 32 n

/-- The second word of a number. -/
def hi32 (n : Nat) : Word := BitVec.ofNat 32 (n / 2 ^ 32)

/-- The `n` little-endian bytes of a number. -/
def leBytes : Nat → Nat → List Byte
  | 0, _ => []
  | n + 1, v => BitVec.ofNat 8 v :: leBytes n (v / 256)

/-- The number that little-endian bytes hold. -/
def leNat : List Byte → Nat
  | [] => 0
  | b :: bs => b.toNat + 256 * leNat bs

/-- The `n`-byte little-endian number at an offset of a record; bytes beyond its end read as 0. -/
def recNat (bs : List Byte) (off n : Nat) : Nat := leNat ((bs.drop off).take n)

/-- A byte list cut or zero-filled to `n` bytes. -/
def padTo (n : Nat) (bs : List Byte) : List Byte := (bs ++ List.replicate (n - bs.length) 0).take n

/-- A list cut or filled to `n` elements. -/
def padToList {α : Type} (n : Nat) (d : α) (l : List α) : List α := (l ++ List.replicate (n - l.length) d).take n

/-- A list cut into pieces of `n`, the last one shorter; `fuel` bounds the pieces. -/
def chunksOf {α : Type} (n : Nat) : Nat → List α → List (List α)
  | 0, _ => []
  | fuel + 1, l => if l.isEmpty then [] else l.take n :: chunksOf n fuel (l.drop n)

/-- The 32-bit words of a byte list. -/
def wordsOf (bs : List Byte) : List Word :=
  (chunksOf 4 (bs.length / 4 + 1) bs).map fun b => BitVec.ofNat 32 (leNat b)

/-! ### Ordering -/

/-- Two ordered runs as one; of elements that rank alike those of the first come first. `fuel` is the length of both together. -/
def mergeRuns {α : Type} (le : α → α → Bool) : Nat → List α → List α → List α
  | 0, a, b => a ++ b
  | _ + 1, [], b => b
  | _ + 1, a, [] => a
  | fuel + 1, x :: a, y :: b =>
    if le x y then x :: mergeRuns le fuel a (y :: b) else y :: mergeRuns le fuel (x :: a) b

/-- Neighbouring runs merged. -/
def pairRuns {α : Type} (le : α → α → Bool) : List (List α) → List (List α)
  | a :: b :: l => mergeRuns le (a.length + b.length) a b :: pairRuns le l
  | l => l

/-- All runs as one; each pass halves their number. -/
def sortRuns {α : Type} (le : α → α → Bool) : Nat → List (List α) → List α
  | 0, l => l.flatten
  | _ + 1, [] => []
  | _ + 1, [a] => a
  | fuel + 1, l => sortRuns le fuel (pairRuns le l)

/-- A list in the order of `le`; elements that rank alike keep their order. -/
def sortBy {α : Type} (l : List α) (le : α → α → Bool) : List α := sortRuns le l.length (l.map fun a => [a])

end Sys2Proof.Machine
end

