-- ==== Sys2Proof/Machine/Crc.lean ====
section
/-! DEFINITION. The checksums of the spec: CRC-32C (R263 and the text before R264: reflected polynomial 0x82F6_3B78,
initial value all ones, final inversion) and CRC-64 (R399, R577: polynomial 0x42F0_E1EB_A9EA_3693, initial value all
ones, final inversion; most significant bit first, DEDUCED, log entry 9). -/
namespace Sys2Proof.Machine

/-- One bit of CRC-32C. -/
def crc32cBit (c : Word) : Word := if wbit c 0 then (c >>> 1) ^^^ 0x82F63B78 else c >>> 1

/-- One byte of CRC-32C. -/
def crc32cByte (c : Word) (b : Byte) : Word :=
  let x := c ^^^ (b.setWidth 32)
  crc32cBit (crc32cBit (crc32cBit (crc32cBit (crc32cBit (crc32cBit (crc32cBit (crc32cBit x)))))))

/-- CRC-32C of a byte list. -/
def crc32c (bs : List Byte) : Word := ~~~(bs.foldl crc32cByte 0xFFFFFFFF)

/-- One bit of CRC-64. -/
def crc64Bit (c : DWord) : DWord := if c.getLsbD 63 then (c <<< 1) ^^^ 0x42F0E1EBA9EA3693 else c <<< 1

/-- One byte of CRC-64. -/
def crc64Byte (c : DWord) (b : Byte) : DWord :=
  let x := c ^^^ (b.setWidth 64 <<< 56)
  crc64Bit (crc64Bit (crc64Bit (crc64Bit (crc64Bit (crc64Bit (crc64Bit (crc64Bit x)))))))

/-- A running CRC-64, all ones at the start, before the final inversion. -/
def crc64Run (c : Option DWord) (bs : List Byte) : Option DWord :=
  if bs.isEmpty then c else some (bs.foldl crc64Byte (c.getD (BitVec.allOnes 64)))

/-- CRC-64 of a byte list. -/
def crc64 (bs : List Byte) : DWord := ~~~(bs.foldl crc64Byte (BitVec.allOnes 64))

end Sys2Proof.Machine
end

