-- ==== Sys2Proof/Machine/Ops.lean ====
section
/-! DEFINITION. The named operations over registers, tables, memory and time that the meanings share. -/
namespace Sys2Proof.Machine

/-! ### Registers -/

/-- The value of the register word at an offset of a page. -/
def State.rdAt (s : State) (p : Page) (off : Nat) (sel : Nat := 0) : Word :=
  SMap.get regReset s.regs (regKey p.blk p.idx off sel)

/-- Stores a register word, whatever its access type: the device's own write. -/
def State.wrAt (s : State) (p : Page) (off : Nat) (v : Word) (sel : Nat := 0) : State :=
  { s with regs := SMap.put regReset (regKey p.blk p.idx off sel) v s.regs }

/-- The value of a named register of block number `i` (the channel, the port, or 0). -/
def State.rd (s : State) (i : Nat) (r : RegId) (sel : Nat := 0) : Word := s.rdAt ⟨r.blk, i⟩ r.off sel

/-- Stores a named register of block number `i`. -/
def State.wr (s : State) (i : Nat) (r : RegId) (v : Word) (sel : Nat := 0) : State := s.wrAt ⟨r.blk, i⟩ r.off v sel

/-- A named register as a number. -/
def State.rdN (s : State) (i : Nat) (r : RegId) (sel : Nat := 0) : Nat := (s.rd i r sel).toNat

/-- A field of a named register. -/
def State.rdF (s : State) (i : Nat) (r : RegId) (hi lo : Nat) (sel : Nat := 0) : Nat := fld (s.rd i r sel) hi lo

/-- A bit of a named register. -/
def State.rdB (s : State) (i : Nat) (r : RegId) (b : Nat) (sel : Nat := 0) : Bool := wbit (s.rd i r sel) b

/-- A register pair, low word first. -/
def State.rd64 (s : State) (i : Nat) (r : RegId) (sel : Nat := 0) : Nat :=
  (s.rd i r sel).toNat + 2 ^ 32 * (s.rdAt ⟨r.blk, i⟩ (r.off + 4) sel).toNat

/-- Stores a register pair, low word first. -/
def State.wr64 (s : State) (i : Nat) (r : RegId) (v : Nat) (sel : Nat := 0) : State :=
  (s.wr i r (lo32 v) sel).wrAt ⟨r.blk, i⟩ (r.off + 4) (hi32 v) sel

/-- Adds to a wrapping counter register. -/
def State.bump (s : State) (i : Nat) (r : RegId) (n : Nat := 1) (sel : Nat := 0) : State :=
  s.wr i r (s.rd i r sel + BitVec.ofNat 32 n) sel

/-- Adds to a 16-bit field of a register that wraps within the field. -/
def State.bumpF (s : State) (i : Nat) (r : RegId) (hi lo : Nat) (n : Nat := 1) (sel : Nat := 0) : State :=
  s.wr i r (setFld (s.rd i r sel) hi lo (s.rdF i r hi lo sel + n)) sel

/-- Adds to a 64-bit counter pair. -/
def State.bump64 (s : State) (i : Nat) (r : RegId) (n : Nat) (sel : Nat := 0) : State :=
  s.wr64 i r (s.rd64 i r sel + n) sel

/-! ### Channels and blocks -/

/-- The state of a channel's blocks. -/
def State.ch (s : State) (c : Nat) : Chan := s.chan.at c

/-- Changes the state of a channel's blocks. -/
def State.updCh (s : State) (c : Nat) (f : Chan → Chan) : State := { s with chan := s.chan.upd c f }

/-- STATE, QUIESCED and SHADOW_DIRTY of a block page. -/
def State.blkSt (s : State) (p : Page) : BlkSt := s.blk.at p.key

/-- Changes STATE, QUIESCED and SHADOW_DIRTY of a block page. -/
def State.updBlk (s : State) (p : Page) (f : BlkSt → BlkSt) : State := { s with blk := s.blk.upd p.key f }

/-- READY of R8: 1 only while STATE is RUNNING (R603). -/
def State.ready (s : State) (p : Page) : Bool := (s.blkSt p).st == .running

/-- The blocks of a channel. -/
def chanBlks : List Blk :=
  [.rqt, .adm, .atn, .pgm, .skt, .vse, .zrb, .smp, .jsc, .atu, .kwp, .trc, .slp, .ccx, .nmo, .dmv]

/-- The device-global pages: CXH has two, every other block one (R589). -/
def devPages : List Page :=
  [⟨.tim, 0⟩, ⟨.pln, 0⟩, ⟨.cxh, 0⟩, ⟨.cxh, 1⟩, ⟨.cmp, 0⟩, ⟨.mbx, 0⟩, ⟨.sec, 0⟩, ⟨.boot, 0⟩, ⟨.psq, 0⟩, ⟨.clk, 0⟩,
    ⟨.ras, 0⟩, ⟨.dbg, 0⟩, ⟨.spr, 0⟩]

/-- Whether a channel is enabled by the fused mask (R2). -/
def State.enabledCh (s : State) (c : Nat) : Bool := decide (c < 16) && s.boot.chanMask.testBit c

/-- The enabled channels, in rising order. -/
def State.channels (s : State) : List Nat := (List.range 16).filter s.enabledCh

/-- Every page that the device has: those of the device blocks and of the enabled channels. -/
def State.allPages (s : State) : List Page :=
  devPages ++ s.channels.flatMap fun c => chanBlks.map fun b => ⟨b, c⟩

/-- Whether a channel is in service: enabled, not OUT (R528), and neither recovering nor quarantined (R563, R565). -/
def State.inService (s : State) (c : Nat) : Bool :=
  s.enabledCh c && (s.boot.chOut.at c == .inService) && ((s.ras.ch.at c).svc == .inService)

/-- Whether a channel is recovering (R563). -/
def State.recovering (s : State) (c : Nat) : Bool := (s.ras.ch.at c).svc == .recovering

/-- Whether a channel is quarantined, WAITING or HELD (R565, R566). -/
def State.quarantined (s : State) (c : Nat) : Bool :=
  (s.ras.ch.at c).svc == .waiting || (s.ras.ch.at c).svc == .held

/-- Whether a channel serves: it is enabled, neither OUT nor retraining (R528), neither recovering nor quarantined (R563, R565), and
no device-fatal fault stands (R568). -/
def State.serves (s : State) (c : Nat) : Bool :=
  s.enabledCh c && (s.boot.chOut.at c == .inService || s.boot.chOut.at c == .draining) && ((s.ras.ch.at c).svc == .inService) &&
    s.ras.fatal.isNone

/-- Whether a channel's port runs in Ethernet mode, not in Solrov mode (R398). -/
def State.ethMode (s : State) (c : Nat) : Bool := !(s.ch c).slp.mode

/-- A link as a port begins with it in Solrov mode: sequence numbers start at 0, and each side holds the credits of R401. -/
def freshLink : SlpLink := { (default : SlpLink) with credits := [256, 512, 256, 128], due := [0, 0, 0, 0] }

/-- Appends a message to the output log. -/
def State.emit (s : State) (m : OutMsg) : State := { s with out := s.out ++ [m] }

/-- Applies a function to the state for each element of a list, in order. -/
def State.each {α : Type} (s : State) (l : List α) (f : State → α → State) : State := l.foldl f s

/-- Applies a change under a condition. -/
def State.when (s : State) (c : Bool) (f : State → State) : State := if c then f s else s

/-! ### Free values -/

/-- A fresh natural number that the spec does not fix, and the state with the draw counter advanced. -/
def State.drawNat (s : State) : Nat × State := (Config.freeNat s.free, { s with free := s.free + 1 })

/-- A fresh Boolean that the spec does not fix. -/
def State.drawBool (s : State) : Bool × State := (Config.freeBool s.free, { s with free := s.free + 1 })

/-- `n` fresh bytes that the spec does not fix. -/
def State.drawBytes (s : State) (n : Nat) : List Byte × State :=
  ((List.range n).map fun i => Config.freeByte (s.free + i), { s with free := s.free + n })

/-! ### Arbitration -/

/-- R10: the first requester at or after the pointer, among those that ask, over numbers below `n`. -/
def roundRobin (n ptr : Nat) (asks : Nat → Bool) : Option Nat :=
  ((List.range n).map fun i => (ptr + i) % n).find? asks

/-! ### Memory -/

/-- The byte at a state address; an unlisted byte reads as 0. -/
def Memory.byte (m : Memory) (a : Nat) : Byte := SMap.get (α := Byte) (fun _ => 0) m.cells a

/-- The `n` bytes from a state address on. -/
def Memory.read (m : Memory) (a n : Nat) : List Byte := (List.range n).map fun i => m.byte (a + i)

/-- The 64-byte lines that a range touches. -/
def linesOf (a n : Nat) : List Nat := (List.range ((a + n + 63) / 64 - a / 64)).map fun i => a / 64 + i

/-- Whether any byte of a range lies in a marked line (R606). -/
def Memory.poisoned (m : Memory) (a n : Nat) : Bool := decide (0 < n) && (linesOf a n).any fun l => m.poison.contains l

/-- Puts a line number in its place in a rising list. -/
def insertLine (l : Nat) : List Nat → List Nat
  | [] => [l]
  | k :: ks => if l < k then l :: k :: ks else if l = k then k :: ks else k :: insertLine l ks

/-- Marks every line that a range touches, whole (R606). -/
def Memory.mark (m : Memory) (a n : Nat) : Memory :=
  { m with poison := if n = 0 then m.poison else (linesOf a n).foldl (fun ps l => insertLine l ps) m.poison }

/-- Whether a write of a range covers a whole line. -/
def coversLine (a n l : Nat) : Bool := decide (a ≤ 64 * l) && decide (64 * l + 64 ≤ a + n)

/-- Writes bytes whatever the marking says. -/
def putBytes (cells : SMap Byte) (a : Nat) : List Byte → SMap Byte
  | [] => cells
  | b :: bs => putBytes (SMap.put (fun _ => 0) a b cells) (a + 1) bs

/-- Writes the bytes whose line is not kept. -/
def putBytesExcept (keep : Nat → Bool) (cells : SMap Byte) (a : Nat) : List Byte → SMap Byte
  | [] => cells
  | b :: bs =>
    putBytesExcept keep (if keep (a / 64) then cells else SMap.put (fun _ => 0) a b cells) (a + 1) bs

/-- A write of a range under R606: a marked line that the write covers whole is replaced and its marking cleared; a
marked line that it covers in part keeps its bytes and its marking. -/
def Memory.write (m : Memory) (a : Nat) (bs : List Byte) : Memory :=
  { cells := putBytesExcept (fun l => m.poison.contains l && !coversLine a bs.length l) m.cells a bs,
    poison := m.poison.filter fun l => !coversLine a bs.length l }

/-- Zeros over a range; marked lines that it covers whole are replaced (R606). -/
def Memory.zero (m : Memory) (a n : Nat) : Memory :=
  { cells := m.cells.filter fun e => !(decide (a ≤ e.1) && decide (e.1 < a + n)),
    poison := m.poison.filter fun l => !coversLine a n l }

/-- The marking rises strictly. -/
def linesRising : List Nat → Bool
  | [] => true
  | [_] => true
  | a :: b :: l => decide (a < b) && linesRising (b :: l)

/-- The canonical form of memory: cells by strictly rising address, none equal to 0, and marked lines rising. -/
def Memory.wf (m : Memory) : Bool := SMap.wf (α := Byte) (fun _ => 0) m.cells && linesRising m.poison

/-- The base of channel `c`'s T0 range. -/
def t0Base (c : Nat) : Nat := c * 0x02000000

/-- The size of a channel's T0 general area: what the re-rank buffer and the agent cache leave of the 24 MiB of SRAM (R184). -/
def State.t0Size (s : State) (c : Nat) : Nat :=
  if s.rdB c Reg.CCX_CFG 0 && s.rdB c Reg.CCX_CFG 1 then 0x00280000 else if (s.ch c).vse.rerank then 0x00680000 else 0x00A80000

/-- The channel in whose T0 or T1 range a state address lies. -/
def stateChannel (a : Nat) : Option Nat :=
  if a < t0Base 16 then some (a / t0Base 1)
  else if 0x001000000000 ≤ a ∧ a < 0x009000000000 then some ((a - 0x001000000000) / 0x000800000000)
  else none

/-- Whether memory stands behind a state address: in T0 only the general areas, and T0 and T1 of the enabled channels only (R2,
R184). -/
def State.hasMem (s : State) (a : Nat) : Bool :=
  match stateChannel a with
  | some c => s.enabledCh c && (decide (t0Base 16 ≤ a) || decide (a % t0Base 1 < s.t0Size c))
  | none => true

/-- Whether memory stands behind a whole range: its ends lie in one channel's T0 or T1, or in neither. -/
def State.hasSpan (s : State) (a n : Nat) : Bool :=
  decide (n = 0) ||
    (stateChannel a == stateChannel (a + n - 1) && decide (a < t0Base 16) == decide (a + n - 1 < t0Base 16) && s.hasMem a &&
      s.hasMem (a + n - 1))

/-- The bytes of a state address range. Software that reaches beyond the general area reads what it may (R14, R184; log entry 56). -/
def State.mread (s : State) (a n : Nat) : List Byte :=
  if s.hasSpan a n then s.mem.read a n
  else (List.range n).map fun i => if s.hasMem (a + i) then s.mem.byte (a + i) else Config.noSram (a + i)

/-- The little-endian number of `n` bytes at a state address. -/
def State.mnat (s : State) (a n : Nat) : Nat := leNat (s.mread a n)

/-- Memory after a write: only bytes that memory stands behind are written. -/
def State.memWith (s : State) (a : Nat) (bs : List Byte) : Memory :=
  if s.hasSpan a bs.length then s.mem.write a bs
  else (bs.zipIdx.filter fun b => s.hasMem (a + b.2)).foldl (fun m b => m.write (a + b.2) [b.1]) s.mem

/-- Writes bytes at a state address. -/
def State.mwrite (s : State) (a : Nat) (bs : List Byte) : State := { s with mem := s.memWith a bs }

/-- Marks a range as poison. -/
def State.mpoison (s : State) (a n : Nat) : State := { s with mem := if s.hasSpan a n then s.mem.mark a n else s.mem }

/-! ### Lines that hosts hold (R476, R477) -/

/-- Changes CMP's state. -/
def State.setCmp (s : State) (f : Cmp → Cmp) : State := { s with cmp := f s.cmp }

/-- The holders of a line. -/
def BifEntry.holders (e : BifEntry) : List Nat := (match e.holdA with
  | some n => [n]
  | none => []) ++ e.holdS

/-- The holders that a BISnp is sent to before an access: the A holder for a read, every holder for a write (R477). -/
def BifEntry.toSnoop (e : BifEntry) (write : Bool) : List Nat :=
  if write then e.holders else match e.holdA with
    | some n => [n]
    | none => []

/-- An entry without a holder; with none left there is no entry. -/
def BifEntry.without (e : BifEntry) (n : Nat) : BifEntry :=
  let e1 := { e with holdA := if e.holdA = some n then none else e.holdA, holdS := e.holdS.filter fun k => k != n }
  if e1.holders.isEmpty then default else e1

/-- Sends a BISnp to an LD, once while it is outstanding. -/
def State.bisnp (s : State) (ld line : Nat) (inv : Bool) : State :=
  if s.cmp.snoops.any fun x => x.ld == ld && x.line == line then s
  else
    ((s.setCmp fun x => { x with snoops := x.snoops ++ [⟨ld, line, inv, s.tim.now⟩] }).bump (ld / 16) Reg.CXH_BISNP_CNT).emit
      (.msg "BISNP" [ld, 64 * line, b2n inv] [])

/-- What an access of the device touches: address, length, and whether it writes. -/
abbrev Touch := Nat × Nat × Bool

/-- The snoops that accesses of the device need: line, holder, and whether it is invalidated. -/
def State.needSnoops (s : State) (l : List Touch) : List (Nat × Nat × Bool) :=
  s.cmp.filter.flatMap fun x =>
    let hit := l.filter fun t => decide (0 < t.2.1) && decide (t.1 < 64 * x.1 + 64) && decide (64 * x.1 < t.1 + t.2.1)
    let write := hit.any fun t => t.2.2
    if hit.isEmpty then [] else (x.2.toSnoop write).map fun n => (x.1, n, write)



/-! ### State addresses (R200) -/

/-- The base of channel `c`'s T1 range. -/
def t1Base (c : Nat) : Nat := 0x001000000000 + c * 0x000800000000

/-- The base of T2. -/
def t2Base : Nat := 0x100000000000

/-- The end of T2. -/
def t2End : Nat := 0x200000000000

/-- The base of rack space. -/
def rackBase : Nat := 0x400000000000

/-- The end of rack space. -/
def rackEnd : Nat := 0x800000000000

/-- Whether a state address lies in channel `c`'s T1. -/
def inT1 (c a : Nat) : Bool := decide (t1Base c ≤ a) && decide (a < t1Base c + 0x000800000000)

/-- Whether a state address lies in T2. -/
def inT2 (a : Nat) : Bool := decide (t2Base ≤ a) && decide (a < t2End)

/-- Whether a state address lies in rack space. -/
def inRack (a : Nat) : Bool := decide (rackBase ≤ a) && decide (a < rackEnd)

/-- The channel whose T1 holds a state address. -/
def t1Channel (a : Nat) : Nat := (a - 0x001000000000) / 0x000800000000

/-! ### Time and the cadence -/

/-- The period P in nanoseconds (R25). -/
def State.periodNs (s : State) : Nat := s.rdN 0 Reg.CAD_PERIOD_US * 1000

/-- CAD_ORIGIN in nanoseconds (R26). -/
def State.originNs (s : State) : Nat :=
  (s.rdN 0 Reg.CAD_ORIGIN_SEC_LO + 2 ^ 32 * s.rdF 0 Reg.CAD_ORIGIN_SEC_HI 15 0) * 1000000000 + s.rdN 0 Reg.CAD_ORIGIN_NS

/-- CAD_DAY_BASE (R26). -/
def State.dayBase (s : State) : Nat := s.rd64 0 Reg.CAD_DAY_BASE_LO

/-- The cadence time of the present instant: ToD plus CAD_ERR_NS (R26). -/
def State.cadTime (s : State) : Int := s.tim.tod + s.tim.err

/-- The day number of a cadence time (R26). -/
def State.dayOf (s : State) (c : Int) : Nat := (s.dayBase + (c - s.originNs) / (s.periodNs : Int) : Int).toNat

/-- The phase unit of a cadence time (R26). -/
def State.puOf (s : State) (c : Int) : Nat :=
  ((c - s.originNs) % (s.periodNs : Int)).toNat * 4096 / s.periodNs

/-- The cadence time at which the day of a cadence time starts. -/
def State.dayStart (s : State) (c : Int) : Int := c - (c - s.originNs) % (s.periodNs : Int)

/-- Nanoseconds from the start of a day to the start of a phase unit (R26). -/
def State.puStartNs (s : State) (pu : Nat) : Nat := ceilDiv (pu * s.periodNs) 4096

/-- The phase unit at which a window starts (R30). -/
def State.winStartPu (s : State) : Window → Nat
  | .dawn => 0
  | .noon => s.rdF 0 Reg.CAD_WIN_A 11 0
  | .dusk => s.rdF 0 Reg.CAD_WIN_A 23 12
  | .midnight => s.rdF 0 Reg.CAD_WIN_B 11 0

/-- The phase unit at which a window ends. -/
def State.winEndPu (s : State) : Window → Nat
  | .dawn => s.winStartPu .noon
  | .noon => s.winStartPu .dusk
  | .dusk => s.winStartPu .midnight
  | .midnight => 4096

/-- The twilight guard of a window, in PU (R33). -/
def State.guardPu (s : State) : Window → Nat
  | .dawn => s.rdF 0 Reg.CAD_GUARD 5 0
  | .noon => s.rdF 0 Reg.CAD_GUARD 13 8
  | .dusk => s.rdF 0 Reg.CAD_GUARD 21 16
  | .midnight => s.rdF 0 Reg.CAD_GUARD 29 24

/-- The 64-bit time stamp of the present instant (R17). -/
def State.stamp (s : State) : Nat := s.tim.tod % 2 ^ 64

/-- ToD, in units of 2^-32 ns, that one elapsed nanosecond adds: TOD_FREQ_ADJ is in units of 2^-16 ppb (R16); the part
below 2^-32 ns is dropped (DESIGN CHOICE, log entry 4). -/
def State.todRate (s : State) : Nat :=
  ((2 ^ 32 : Int) + signedOf 32 (s.rdN 0 Reg.TOD_FREQ_ADJ) * 65536 / 1000000000).toNat

/-- ToD and its fraction after `n` elapsed nanoseconds, in units of 2^-32 ns. -/
def State.todAfter (s : State) (n : Nat) : Nat := s.tim.tod * 2 ^ 32 + s.tim.frac + n * s.todRate

/-- |CAD_ERR_NS| exceeds 32 PU (R41). -/
def State.errTooBig (s : State) : Bool := decide (32 * s.periodNs < s.tim.err.natAbs * 4096)

/-- Whether the cadence slews (R40): it runs, and the error is not 0 and at most 32 PU. -/
def State.slewing (s : State) : Bool := (s.tim.cad == .running) && !s.errTooBig && decide (s.tim.err ≠ 0)

/-- CAD_ERR_NS after `n` elapsed nanoseconds: 1 ns nearer to 0 for each 4,096 ns (R40). In an extended Midnight it keeps its value until
the resume sets it to 0 (R41; DESIGN CHOICE, log entry 63). -/
def State.errAfter (s : State) (n : Nat) : Int :=
  if s.slewing then
    let k : Int := ((s.tim.slew + n) / 4096 : Nat)
    if s.tim.err < 0 then min 0 (s.tim.err + k) else max 0 (s.tim.err - k)
  else s.tim.err

/-- Lets `n` nanoseconds elapse: ToD advances at its adjusted rate and the cadence slews (R16, R40). -/
def State.pass (s : State) (n : Nat) : State :=
  { s with tim := { s.tim with
      tod := s.todAfter n / 2 ^ 32, frac := s.todAfter n % 2 ^ 32, now := s.tim.now + n, err := s.errAfter n,
      slew := if s.slewing then (s.tim.slew + n) % 4096 else 0 } }

/-- The least `n` below `2 ^ fuel` at which a monotone test holds, else `2 ^ fuel - 1 + lo`, by halving. -/
def leastFrom (test : Nat → Bool) : Nat → Nat → Nat
  | 0, lo => lo
  | fuel + 1, lo => if test (lo + 2 ^ fuel - 1) then leastFrom test fuel lo else leastFrom test fuel (lo + 2 ^ fuel)

/-- Lets time pass until ToD reaches a value; no time passes if it has. -/
def State.passToTod (s : State) (t : Nat) : State :=
  s.pass (leastFrom (fun n => decide (t * 2 ^ 32 ≤ s.todAfter n)) 64 0)

/-- Lets time pass until the elapsed time reaches a value. -/
def State.passToNow (s : State) (t : Nat) : State := s.pass (t - s.tim.now)

/-- Lets time pass until the cadence time reaches a value (R26, R36). -/
def State.passToCad (s : State) (c : Int) : State :=
  s.pass (leastFrom (fun n => decide (c ≤ (s.todAfter n / 2 ^ 32 : Nat) + s.errAfter n)) 64 0)

/-- The cadence time at which a window of the current day starts. The tracked day number places it (R26). -/
def State.winStartCad (s : State) (w : Window) : Int :=
  (s.originNs : Int) + ((s.tim.day : Int) - s.dayBase) * s.periodNs + s.puStartNs (s.winStartPu w)

/-- The cadence time at which the current day ends. -/
def State.dayEndCad (s : State) : Int :=
  (s.originNs : Int) + ((s.tim.day : Int) + 1 - s.dayBase) * s.periodNs

/-- Whether the cadence is RUNNING in a window, outside its guard: scheduled work of that window may start (R33). -/
def State.inWindow (s : State) (w : Window) : Bool := (s.tim.cad == .running) && (s.tim.win == w) && !s.tim.guard

end Sys2Proof.Machine
end

