-- ==== Sys2Proof/Machine/Codec.lean ====
section
/-! DEFINITION. ZRB's codec: block headers, the bitstream, coded regions, and reads and writes of memory through them (R257 to
R273). -/
namespace Sys2Proof.Machine

/-! ### The header (R261) -/

/-- A block header. -/
structure ZHdr where
  tag : Nat
  k : Nat
  rawLen : Nat
  tokens : Nat
  crc : Nat
  deriving DecidableEq, Repr, Inhabited

/-- The 64-bit header. -/
def ZHdr.val (h : ZHdr) : Nat :=
  fieldAt 0 2 h.tag + fieldAt 2 4 h.k + fieldAt 6 5 h.rawLen + fieldAt 11 9 h.tokens + fieldAt 32 32 h.crc

/-- The fields of a 64-bit header. -/
def zhdrOf (v : Nat) : ZHdr := ⟨nfld v 1 0, nfld v 5 2, nfld v 10 6, nfld v 19 11, nfld v 63 32⟩

/-- The header that initialisation writes: ZERO with RAW_LEN 16 (R259). -/
def zhdrZero : Nat := 0x402

/-! ### The bitstream (R264 to R267) -/

/-- The kind of a word and its body bytes, after the word before it (R265, R266). -/
def zWord (prev w : Nat) : Nat × List Byte :=
  let bs := leBytes 8 w
  let nz := bs.filter fun b => b != 0
  if w = 0 then (0, [])
  else if w = prev then (3, [])
  else if nz.length ≤ 6 then
    (1, BitVec.ofNat 8 (bs.zipIdx.foldl (fun m x => if x.1 = 0 then m else m + 2 ^ x.2) 0) :: nz)
  else (2, bs)

/-- The kinds and bodies of a list of words. -/
def zWords (prev : Nat) : List Nat → List (Nat × List Byte)
  | [] => []
  | w :: ws => zWord prev w :: zWords w ws

/-- The encoder's stream for raw bytes, without padding (R264, R266). -/
def zEncode (raw : List Byte) : List Byte :=
  let ws := (chunksOf 8 (raw.length / 8 + 1) raw).map leNat
  let ks := zWords 0 ws
  let map := (chunksOf 4 (ks.length / 4 + 1) (ks.map Prod.fst)).map fun q =>
    (BitVec.ofNat 8 (q.zipIdx.foldl (fun m x => m + x.1 * 4 ^ x.2) 0) : Byte)
  BitVec.ofNat 8 ks.length :: map ++ ks.flatMap Prod.snd

/-- The bytes of a MASK word and what follows them; none if the stream ends first. -/
def zMask (m : Nat) : Nat → List Byte → Option (List Byte × List Byte)
  | 0, bs => some ([], bs)
  | n + 1, bs =>
    if m % 2 = 1 then
      match bs with
      | [] => none
      | b :: bs => (zMask (m / 2) n bs).map fun r => (b :: r.1, r.2)
    else (zMask (m / 2) n bs).map fun r => (0 :: r.1, r.2)

/-- Decodes words by their kinds; the produced bytes and the rest of the stream (R265). -/
def zBody (prev : List Byte) : List Nat → List Byte → Option (List Byte × List Byte)
  | [], bs => some ([], bs)
  | k :: ks, bs =>
    let word := match k with
      | 0 => some (List.replicate 8 (0 : Byte), bs)
      | 1 => match bs with
        | [] => none
        | m :: bs => zMask m.toNat 8 bs
      | 2 => if bs.length < 8 then none else some (bs.take 8, bs.drop 8)
      | _ => some (prev, bs)
    match word with
    | none => none
    | some (w, bs') => (zBody w ks bs').map fun r => (w ++ r.1, r.2)

/-- Expands the payload of a ZRB block (R264, R272): its raw bytes, or the cause of the mismatch. A block of no sectors has no NW
to check. -/
def zExpand (h : ZHdr) (pay : List Byte) : Except Nat (List Byte) :=
  let nw := recNat pay 0 1
  let nm := (nw + 3) / 4
  let ks := (List.range nw).map fun w => nfld (recNat pay (1 + w / 4) 1) (2 * (w % 4) + 1) (2 * (w % 4))
  if h.k = 0 then .error 2
  else if nw = 0 ∨ 64 < nw ∨ 8 * nw ≠ 32 * h.rawLen then .error 1
  else match zBody (List.replicate 8 0) ks (pay.drop (1 + nm)) with
    | none => .error 2
    | some (raw, rest) =>
      let used := pay.length - rest.length
      if pay.length < 1 + nm ∨ ceilDiv used 32 ≠ h.k then .error 2
      else if (crc32c raw).toNat ≠ h.crc then .error 3
      else .ok raw

/-- A coded block: its header and the bytes of its sectors (R267). -/
def zBlock (maxk tokens : Nat) (raw : List Byte) : ZHdr × List Byte :=
  let st := zEncode raw
  let k := ceilDiv st.length 32
  let n := raw.length / 32
  if raw.all fun b => b == 0 then (⟨2, 0, n, tokens, 0⟩, [])
  else if k ≤ maxk then (⟨1, k, n, tokens, (crc32c raw).toNat⟩, padTo (32 * k) st)
  else (⟨0, 0, n, tokens, (crc32c raw).toNat⟩, raw)

/-- R262: the token records that overlap the `n` bytes of a block, capped at 256. -/
def tokensOf (tb i : Nat) (n : Nat := 512) : Nat := if tb = 0 then 0 else min 256 ((512 * i + n - 1) / tb - 512 * i / tb + 1)

/-! ### Regions (R258) -/

/-- A coded region that contains an address: its channel, its number, and its first byte. -/
structure ZRegion where
  c : Nat
  r : Nat
  start : Nat
  deriving DecidableEq, Repr, Inhabited

/-- The first byte of a region. -/
def State.zrbStart (s : State) (c r : Nat) : Nat := t1Base c + s.rdF c Reg.ZRB_RGN_DATA_SLOT 20 0 r * 0x4000

/-- The bytes of a region. -/
def State.zrbBytes (s : State) (c r : Nat) : Nat := s.rdF c Reg.ZRB_RGN_SLOTS 21 0 r * 0x4000

/-- Whether an enabled region contains an address. -/
def State.zrbHas (s : State) (c a r : Nat) : Bool :=
  s.rdB c Reg.ZRB_RGN_CFG 0 r && decide (s.zrbStart c r ≤ a) && decide (a < s.zrbStart c r + s.zrbBytes c r)

/-- The coded region of a state address (R258). -/
def State.zrbRegion (s : State) (a : Nat) : Option ZRegion :=
  if a < t1Base 0 ∨ t1Base 16 ≤ a then none
  else
    let c := t1Channel a
    ((List.range 16).find? (s.zrbHas c a)).map fun r => ⟨c, r, s.zrbStart c r⟩

/-- The state address of a block's header: side base + 8 i (R258). -/
def State.zSide (s : State) (z : ZRegion) (a : Nat) : Nat := s.rd64 z.c Reg.ZRB_RGN_SIDE_LO z.r + 8 * ((a - z.start) / 512)

/-- A block's header. -/
def State.zHdr (s : State) (z : ZRegion) (a : Nat) : ZHdr := zhdrOf (s.mnat (s.zSide z a) 8)

/-- Writes sectors whatever their marking, which they clear. -/
def State.putSectors (s : State) (a : Nat) (bs : List Byte) : State :=
  { s with mem := { cells := putBytes s.mem.cells a bs,
                    poison := s.mem.poison.filter fun l => !(linesOf a bs.length).contains l } }

/-- Writes a block's header. In a line of the side array that an error has marked, a POISON header is written and the marking stays for
the line's other headers; any other header rewrites the line with POISON headers for the others (DESIGN CHOICE, log entry 60). -/
def State.setZHdr (s : State) (z : ZRegion) (a : Nat) (h : ZHdr) : State :=
  let side := s.zSide z a
  if !s.mem.poisoned side 8 then s.mwrite side (leBytes 8 h.val)
  else if h.tag = 3 then { s with mem := { s.mem with cells := putBytes s.mem.cells side (leBytes 8 h.val) } }
  else s.putSectors (side / 64 * 64) ((List.range 8).flatMap fun i =>
    leBytes 8 (if 8 * i = side % 64 then h.val else (⟨3, 0, 16, 0, 0⟩ : ZHdr).val))

/-- The address of the block that holds an address; regions start on slots, so blocks are aligned (R257). -/
def blockBase (a : Nat) : Nat := a / 512 * 512

/-- What a block gives once its own checks have passed: its bytes, or cause 4 where a line read for it is in error. The lowest
cause is the one reported (R272). -/
def zDram (bad : Bool) (r : Except Nat (List Byte)) : Except Nat (List Byte) :=
  match r with
  | .error e => .error e
  | .ok raw => if bad then .error 4 else .ok raw

/-- What a block of a region gives its reader: its 512 bytes, or the cause of R272, or 0 for a POISON block. -/
def State.zRead (s : State) (z : ZRegion) (a : Nat) : Except Nat (List Byte) :=
  let h := s.zHdr z a
  let b := blockBase a
  let bad := s.mem.poisoned (s.zSide z a) 8
  match h.tag with
  | 2 => zDram bad (.ok (List.replicate 512 0))
  | 3 => .error 0
  | 1 =>
    zDram (bad || s.mem.poisoned b (32 * h.k)) (if h.rawLen ≠ 16 then .error 1 else zExpand h (s.mread b (32 * h.k)))
  | _ =>
    let raw := s.mread b 512
    zDram (bad || s.mem.poisoned b 512)
      (if h.rawLen ≠ 16 then .error 1 else if (crc32c raw).toNat ≠ h.crc then .error 3 else .ok raw)

/-! ### T2 (R479 to R481) -/

/-- The VALID T2 window that holds a T2 address (R479). -/
def State.t2Window (s : State) (a : Nat) : Option Nat :=
  ((s.regs.filter fun e => e.1 / selSpan == regKey .cmp 0 Reg.CMP_T2_CTRL.off 0 / selSpan).map fun e => e.1 % selSpan).find? fun k =>
    let b := s.rd64 0 Reg.CMP_T2_BASE_LO k
    s.rdB 0 Reg.CMP_T2_CTRL 31 k && decide (b ≤ a) && decide (a < b + s.rdN 0 Reg.CMP_T2_SIZE k * 0x200000)

/-- The host port by which a T2 address is reached. -/
def State.t2Port (s : State) (a : Nat) : Option Nat := (s.t2Window a).map fun k => s.rdF 0 Reg.CMP_T2_CTRL 8 8 k

/-- Whether the port by which a T2 address is reached has no link: a read brings poison, and a write fails (R481). -/
def State.t2Gone (s : State) (a : Nat) : Bool := inT2 a && match s.t2Port a with
  | some p => !(s.cxh.ports.at p).linkUp
  | none => false

/-- The job of the accesses that the device makes for itself. -/
def noJob : Nat := 1024

/-- PASID and LD of a job, which every CXL request made for it carries (R303, R468); firmware gives a job one PASID. -/
def State.jobStamp (s : State) (j : Nat) : List Nat :=
  if noJob ≤ j then []
  else
    let c := (s.channels.find? fun c => wbit (s.rdAt ⟨.jsc, c⟩ 0x200 j) 0).getD (s.channels.headD 0)
    fld (s.rdAt ⟨.jsc, c⟩ 0x204 j) 19 0 :: (if s.rdB 0 Reg.CMP_JOB_LD 31 j then [s.rdF 0 Reg.CMP_JOB_LD 4 0 j] else [])

/-- The request by which the device reaches a T2 range, for a job (R468, R480): RdCurr for a read, and ItoMWr for a write of whole lines or
WrCur for any other, by a HOST window; a UIO request by a UIO window. It names the port, the window's LD, the target address and the
length, then the job's stamp. Which of the two writes it uses is DESIGN CHOICE, as is the KIND of a window that is neither (log entry
29). -/
def State.t2Send (s : State) (job a n : Nat) (write : Bool) : State :=
  if !inT2 a || s.t2Gone a || n == 0 then s
  else match s.t2Window a with
    | none => s
    | some k =>
      let w := s.rd 0 Reg.CMP_T2_CTRL k
      let name := if fld w 1 0 = 2 then (if write then "UIO_WR" else "UIO_RD")
        else if !write then "RD_CURR" else if a % 64 = 0 ∧ n % 64 = 0 then "ITOM_WR" else "WR_CUR"
      s.emit (.msg name ([fld w 8 8, fld w 7 4, s.rd64 0 Reg.CMP_T2_TGT_LO k + (a - s.rd64 0 Reg.CMP_T2_BASE_LO k), n] ++ s.jobStamp job) [])

/-! ### Reads -/

/-- Poison over a range: its bytes are open. -/
def poisonBytes (a k : Nat) : List Byte := (List.range k).map fun i => Config.poisonByte (a + i)

/-- The bytes of the piece of one 512-byte block that starts at `a`, and whether it is poison; a read of T2 that is cut off is (R481). -/
def State.piece (s : State) (a k : Nat) : List Byte × Bool :=
  match s.zrbRegion a with
  | none =>
    if s.t2Gone a then (poisonBytes a k, true)
    else if s.mem.poisoned a k then
      ((s.mread a k).zipIdx.map fun b => if s.mem.poisoned (a + b.2) 1 then Config.poisonByte (a + b.2) else b.1, true)
    else (s.mread a k, false)
  | some z =>
    match s.zRead z a with
    | .ok raw => ((raw.drop (a % 512)).take k, false)
    | .error _ => (poisonBytes a k, true)

/-- The pieces of a range, cut at 512-byte blocks; `fuel` bounds them. -/
def pieces (a n : Nat) : Nat → List (Nat × Nat)
  | 0 => []
  | fuel + 1 =>
    if n = 0 then []
    else
      let k := min n (512 - a % 512)
      (a, k) :: pieces (a + k) (n - k) fuel

/-- The pieces of a range. -/
def piecesOf (a n : Nat) : List (Nat × Nat) := pieces a n (n / 512 + 2)

/-- The bytes of a state address range, decoded where a region codes them; those of poison are open. -/
def State.vread (s : State) (a n : Nat) : List Byte := (piecesOf a n).flatMap fun p => (s.piece p.1 p.2).1

/-- Whether any byte of a range is poison: a marked line, or a coded block that fails its check (R272, R606). -/
def State.vpoison (s : State) (a n : Nat) : Bool := (piecesOf a n).any fun p => (s.piece p.1 p.2).2

/-- The little-endian number of `n` bytes. -/
def State.vnat (s : State) (a n : Nat) : Nat := leNat (s.vread a n)

/-- What an access through the codec leaves to be posted: a region whose initialisation the access waited for (R259), or a block
that failed its check: the channel, the cause and the block's address (R273). -/
inductive ZNote where
  | ready (c r : Nat)
  | bad (c cause a : Nat)
  deriving DecidableEq, Repr

/-- An access to a region that is initialising waits until that is done: INIT_DONE is set before it (R259; DESIGN CHOICE, log entry
60). -/
def State.zReady (s : State) (z : ZRegion) : State × List ZNote :=
  if s.rdB z.c Reg.ZRB_RGN_STAT 1 z.r then (s.wr z.c Reg.ZRB_RGN_STAT 1 z.r, [.ready z.c z.r]) else (s, [])

/-- What a read of one coded block does beside giving its bytes: its counts, and on a mismatch the POISON header (R268, R273). -/
def State.zCheck (s : State) (z : ZRegion) (a : Nat) : State × List ZNote :=
  let (s0, l) := s.zReady z
  let h := s0.zHdr z a
  let sectors := match h.tag with
    | 0 => 16
    | 1 => h.k
    | _ => 0
  let s1 := (s0.bump64 z.c Reg.ZRB_STORED_UNITS_LO sectors).when (h.tag == 1) fun s => s.bump z.c Reg.ZRB_EXP_CNT
  match s0.zRead z a with
  | .ok _ => (s1.bump64 z.c Reg.ZRB_RAW_UNITS_LO 16, l)
  | .error 0 => (s1.bump z.c Reg.ZRB_POISON_READ_CNT, l)
  | .error e => ((s1.setZHdr z a ⟨3, 0, 16, h.tokens, 0⟩).bump z.c Reg.ZRB_MISMATCH_CNT, l ++ [.bad z.c e (blockBase a)])

/-! ### Writes (R270) -/

/-- Writes a whole block (R267, R270); one that found no lane in time is stored RAW and counted (R269). -/
def State.zWriteBlock (s : State) (z : ZRegion) (b : Nat) (raw : List Byte) (noLane : Bool := false) : State :=
  let cfg := s.rd z.c Reg.ZRB_RGN_CFG z.r
  let tok := tokensOf (fld cfg 31 8) ((b - z.start) / 512)
  let (h, bs) := if noLane then (⟨0, 0, 16, tok, (crc32c raw).toNat⟩, raw) else zBlock (fld cfg 4 1) tok raw
  let s1 := ((s.putSectors b bs).setZHdr z b h).when noLane fun s => s.bump z.c Reg.ZRB_BUSY_RAW_CNT
  match h.tag with
  | 0 => s1.bump z.c Reg.ZRB_RAW_CNT
  | 1 => s1.bump z.c Reg.ZRB_CMP_CNT
  | _ => s1.bump z.c Reg.ZRB_ZERO_CNT

/-- Writes the piece of one block: whole, or merged into what it held; a partial write into poison is dropped (R270). -/
def State.zWrite (s : State) (z : ZRegion) (a : Nat) (bs : List Byte) (noLane : Bool := false) : State × List ZNote :=
  if bs.length = 512 then
    let (s1, l) := s.zReady z
    (s1.zWriteBlock z a bs noLane, l)
  else
    let (s1, l) := s.zCheck z a
    match s1.zRead z a with
    | .error _ => (s1.bump z.c Reg.ZRB_DROP_WR_CNT, l)
    | .ok raw =>
      ((s1.zWriteBlock z (blockBase a) (raw.take (a % 512) ++ bs ++ raw.drop (a % 512 + bs.length)) noLane).bump z.c
        Reg.ZRB_RMW_CNT, l)

/-- Writes a list of pieces: through the codec inside regions, directly outside them (R258). -/
def State.cwritePieces (s : State) : List (Nat × Nat) → List Byte → State × List ZNote
  | [], _ => (s, [])
  | (a, k) :: ps, bs =>
    let r := match s.zrbRegion a with
      | some z => s.zWrite z a (bs.take k)
      | none => (s.mwrite a (bs.take k), [])
    let t := r.1.cwritePieces ps (bs.drop k)
    (t.1, r.2 ++ t.2)

/-- Writes bytes at a state address: directly under R606 where no region has a part of them, and through the codec else (R258). A write
of T2 that is cut off fails and is counted (R481). -/
def State.cwrite (s : State) (a : Nat) (bs : List Byte) : State × List ZNote :=
  if s.t2Gone a then (s.bump ((s.t2Port a).getD 0) Reg.CXH_T2_FAIL_CNT, [])
  else if (piecesOf a bs.length).any fun p => (s.zrbRegion p.1).isSome then s.cwritePieces (piecesOf a bs.length) bs
  else (s.mwrite a bs, [])

/-! ### Writes of the device to lines that hosts hold (R477) -/

/-- The first and the last line of an access: of what it writes or marks, or of the line it reads. -/
def HostAccess.lines (x : HostAccess) : Nat × Nat :=
  (x.addr / 64, (x.addr + max x.mark (if x.write then x.data.length else 64) - 1) / 64)

/-- Whether an access waits for snoops on a line of a range. -/
def State.lineWaits (s : State) (a n : Nat) : Bool :=
  s.cmp.waiting.any fun x => decide (0 < n) && decide (x.lines.1 ≤ (a + n - 1) / 64) && decide (a / 64 ≤ x.lines.2)

/-- Whether a write of the device waits: a host holds one of its lines, or an access that came before it waits for one (R477). -/
def State.writeWaits (s : State) (a n : Nat) : Bool := !(s.needSnoops [(a, n, true)]).isEmpty || s.lineWaits a n

/-- The device's requester number beside those of the LDs (R477). -/
def devLd : Nat := 32

/-- A write of the device that waits: the snoops that it needs go out, and it is made when the last of their answers has arrived. -/
def State.holdWrite (s : State) (x : HostAccess) : State :=
  (s.setCmp fun y => { y with waiting := y.waiting ++ [x] }).each (s.needSnoops [(x.addr, max x.mark x.data.length, true)]) fun s y =>
    s.bisnp y.2.1 y.1 y.2.2

/-- A write of the device through the codec, once no host holds its lines. -/
def State.dcode (s : State) (a : Nat) (bs : List Byte) (job : Nat := noJob) : State × List ZNote :=
  if s.writeWaits a bs.length then (s.holdWrite ⟨devLd, 0, a, true, 0, bs, 0, job, 0⟩, [])
  else (s.t2Send job a bs.length true).cwrite a bs

end Sys2Proof.Machine
end

