-- ==== Sys2Proof/Machine/Flags.lean ====
section
/-! DEFINITION. Flags: the error log of a block page (R559), its event bits with their interrupt and BLOCK_EVENT record
(R597), and the event queues that records go to (R95, R332). -/
namespace Sys2Proof.Machine

/-- R559: the first error since the log was cleared is captured; COUNT goes on counting, saturating. -/
def State.logErr (s : State) (p : Page) (source job cls addr detail : Nat) : State :=
  let cnt := (s.rdAt p 0x024).toNat
  let s' := s.wrAt p 0x024 (BitVec.ofNat 32 (min (cnt + 1) (2 ^ 32 - 1)))
  if wbit (s.rdAt p 0x020) 31 then s'
  else
    ((((((s'.wrAt p 0x020 (BitVec.ofNat 32 (fieldAt 0 8 source + fieldAt 8 10 job + fieldAt 28 3 cls + 2 ^ 31))).wrAt p 0x028
      (lo32 s.stamp)).wrAt p 0x02C (hi32 s.stamp)).wrAt p 0x030 (lo32 addr)).wrAt p 0x034 (hi32 addr)).wrAt p 0x038
      (lo32 detail))

/-- A deferred error that a page detects: it is logged and counted, and the data travels as poison (R558, R561, R582). Which page logs
what is DEDUCED (log entry 46). -/
def State.deferred (s : State) (p : Page) (source job addr : Nat) : State :=
  (s.logErr p source (job % noJob) 2 addr 0).bump 0 Reg.RAS_DEFER_CNT

/-- A write ignored by rule is recorded with SOURCE 0x01, its BAR0 offset and the value written (R558, R559). -/
def State.logIgnored (s : State) (p : Page) (off : Nat) (v : Word) : State :=
  s.logErr p 0x01 0 0 (p.bar0 + off) v.toNat

/-- A doorbell ignored by rule: ADDRESS is the BAR4 offset with bit 63 set (R600). -/
def State.logDoorbell (s : State) (p : Page) (off : Nat) (v : Nat) : State :=
  s.logErr p 0x01 0 0 (off + 2 ^ 63) v

/-- A 32-byte event record (R95). -/
def eventRec (code cause gen req job day tod detail : Nat) : List Byte :=
  leBytes 4 (fieldAt 0 8 code + fieldAt 8 8 cause + fieldAt 16 16 gen) ++ leBytes 4 (fieldAt 0 16 req + fieldAt 16 10 job) ++
    leBytes 8 day ++ leBytes 8 tod ++ leBytes 8 detail

/-- A word of a job's context record on a channel (R303), by byte offset. -/
def State.jobWord (s : State) (c j off : Nat) : Word := s.rdAt ⟨.jsc, c⟩ (0x200 + off) j

/-- A 64-bit field of a job's context record. -/
def State.job64 (s : State) (c j off : Nat) : Nat :=
  (s.jobWord c j off).toNat + 2 ^ 32 * (s.jobWord c j (off + 4)).toNat

/-- Whether the job is enabled on the channel (R303). -/
def State.jobEnabled (s : State) (c j : Nat) : Bool := wbit (s.jobWord c j 0) 0

/-- EVQ_LOG2 of a job on a channel (R303). -/
def State.evqLog2 (s : State) (c j : Nat) : Nat := fld (s.jobWord c j 0x0C) 20 16

/-- Whether the job's event queue is enabled: EVQ_LOG2 in 6-16, whatever ENABLE is (R332). -/
def State.evqOn (s : State) (c j : Nat) : Bool := decide (6 ≤ s.evqLog2 c j) && decide (s.evqLog2 c j ≤ 16)

/-- Whether a ring of `size` places is full: one more write would make TAIL equal HEAD (DEDUCED, log entry 7). -/
def ringFull (size head tail : Nat) : Bool := (tail + 1) % size == head

/-- Writes one record to a channel's privileged event queue; `false` when the queue is full or disabled (R332). -/
def State.pevqPush (s : State) (c : Nat) (rec : List Byte) : State × Bool :=
  let size := 2 ^ s.rdF c Reg.JSC_PEVQ_CFG 5 1
  let tail := s.rdN c Reg.JSC_PEVQ_TAIL
  if !s.rdB c Reg.JSC_PEVQ_CFG 0 || ringFull size (s.rdN c Reg.JSC_PEVQ_HEAD) tail then
    (s.bump c Reg.JSC_EVQ_DROP_CNT, false)
  else
    ((s.dcode (s.rd64 c Reg.JSC_PEVQ_BASE_LO + 32 * tail) rec).1.wr c Reg.JSC_PEVQ_TAIL
      (BitVec.ofNat 32 ((tail + 1) % size)), true)

/-- The lowest-numbered channel in service, 0 if there is none. -/
def State.firstInService (s : State) : Nat := ((List.range 16).find? s.inService).getD 0

/-- The channel whose privileged event queue takes a page's records: its own for a per-channel block, else HOME_CH, and
the lowest-numbered channel in service where HOME_CH names one that is not (R596). -/
def State.homeCh (s : State) (p : Page) : Nat :=
  if p.blk.perChannel then p.idx
  else
    let h := fld (s.rdAt p 0x01C) 27 24
    if s.inService h then h else s.firstInService

/-- The BLK_EVT bits for which their chapter names a record for the privileged event queue (R97, R219, R333, R378,
R429, R462, R490, R531, R581). -/
def pevqNamed : Blk → Nat → Bool
  | .rqt, n => n == 0
  | .pgm, n => n == 1 || n == 3
  | .jsc, n => n == 0 || n == 2
  | .kwp, n => n == 0 || n == 1 || n == 4 || n == 5 || n == 6
  | .slp, n => decide (n ≤ 4)
  | .ccx, n => decide (n ≤ 3)
  | .cxh, n => decide (n ≤ 1)
  | .cmp, n => decide (n ≤ 2)
  | .boot, n => decide (n ≤ 4)
  | .ras, n => decide (n ≤ 4)
  | .spr, n => decide (n ≤ 2)
  | _, _ => false

/-- Whether an LD can take an interrupt: it is neither in reset nor contained, and its MSI-X is enabled (R505). -/
def State.ldTakesIrq (s : State) (n : Nat) : Bool := (s.cxh.lds.at n).msix && !(s.cxh.lds.at n).contained

/-- Sends an interrupt to an LD, or drops it (R597, R505). -/
def State.sendIrq (s : State) (ld vec : Nat) : State := s.when (s.ldTakesIrq ld) fun s => s.emit (.irq ld vec)

/-- The interrupt of a page's BLK_EVT_ROUTE, when IRQ_EN is set (R596). -/
def State.pageIrq (s : State) (p : Page) : State :=
  let r := s.rdAt p 0x01C
  s.when (wbit r 11) fun s => s.sendIrq (fld r 20 16) (fld r 10 0)

/-- The BLOCK_EVENT record of a bit (R597). -/
def State.blockEventRec (s : State) (p : Page) (n : Nat) : List Byte :=
  eventRec 0xFF n 0 0xFFFF 0 s.tim.day s.stamp (fieldAt 0 16 p.blk.code + fieldAt 16 8 p.idx)

/-- Whether a rise of the bit posts a BLOCK_EVENT record: PEVQ_EN, and no record of its own for that queue (R597). -/
def State.wantsBlockEvent (s : State) (p : Page) (n : Nat) : Bool := wbit (s.rdAt p 0x01C) 12 && !pevqNamed p.blk n

/-- Whether ALERT_N is asserted, that is low: after a boot failure, a thermal trip or a device-fatal fault, and while an event of PSQ or
CLK is pending that the block's ALERT_EN enables (R514, R547, R552, R568). -/
def State.alertLow (s : State) : Bool :=
  s.boot.phase == .failed || s.psq.tripped || s.ras.fatal.isSome || (s.rdAt ⟨.psq, 0⟩ 0x010 &&& s.rd 0 Reg.PSQ_ALERT_EN) != 0 ||
    (s.rdAt ⟨.clk, 0⟩ 0x010 &&& s.rd 0 Reg.CLK_ALERT_EN) != 0

/-- ALERT_N follows a change from an earlier state. -/
def State.alertEdge (old s : State) : State := if old.alertLow = s.alertLow then s else s.emit (.pin "ALERT_N" old.alertLow)

/-- The blocks whose events drive ALERT_N (R552). -/
def alerts (b : Blk) : Bool := b == .psq || b == .clk

/-- Sets BLK_EVT bit `n`; when an enabled bit rises, the interrupt and the BLOCK_EVENT record follow (R597). The record
goes through `push`. -/
def State.evtVia (push : State → Nat → List Byte → State) (s : State) (p : Page) (n : Nat) : State :=
  if wbit (s.rdAt p 0x010) n then s
  else
    let s1 := (s.wrAt p 0x010 (setBit (s.rdAt p 0x010) n true)).when (alerts p.blk) (State.alertEdge s)
    if wbit (s.rdAt p 0x014) n then
      (s1.pageIrq p).when (s.wantsBlockEvent p n) fun s => push s (s.homeCh p) (s.blockEventRec p n)
    else s1

/-- Writes a record to a channel's privileged event queue; a drop sets PEVQ_OVERFLOW (R332). -/
def State.postPriv (s : State) (c : Nat) (rec : List Byte) : State :=
  match s.pevqPush c rec with
  | (s, true) => s
  | (s, false) => State.evtVia (fun s c r => (s.pevqPush c r).1) s ⟨.jsc, c⟩ 3

/-- Sets a BLK_EVT bit with its interrupt and BLOCK_EVENT record (R597). -/
def State.evt (s : State) (p : Page) (n : Nat) : State := State.evtVia State.postPriv s p n

/-- Writes a record to a job's event queue on a channel; a drop posts EVQ_OVERFLOW at most once per job and day
(R332, R333). -/
def State.putEvent (s : State) (c j : Nat) (rec : List Byte) : State × List ZNote :=
  let size := 2 ^ s.evqLog2 c j
  let tail := s.rdN c Reg.JSC_EVQ_TAIL j
  if !s.evqOn c j || ringFull size (s.rdN c Reg.JSC_EVQ_HEAD j) tail then
    let d := (s.ch c).jsc.evqDrops.at j
    let s := (s.bump c Reg.JSC_EVQ_DROP_CNT).updCh c fun ch =>
      { ch with jsc := { ch.jsc with evqDrops := ch.jsc.evqDrops.set j (d + 1) } }
    (s.when (d == 0) fun s =>
      (s.evt ⟨.jsc, c⟩ 2).postPriv c (eventRec 0x72 0 0 0xFFFF j s.tim.day s.stamp (d + 1)), [])
  else
    let r := s.dcode (s.job64 c j 0x10 + 32 * tail) rec
    (r.1.wr c Reg.JSC_EVQ_TAIL (BitVec.ofNat 32 ((tail + 1) % size)) j, r.2)

/-- Writes a record to a job's event queue, with what the write itself leaves to be posted: BLOCK_POISONED, whose record goes to a
queue of the job in turn. `fuel` bounds the records. -/
def State.postJobs : Nat → State → Nat → Nat → List Byte → State
  | 0, s, c, j, rec => (s.putEvent c j rec).1
  | fuel + 1, s, c, j, rec =>
    (s.putEvent c j rec).2.foldl (fun s n => match n with
      | .ready z _ => s.evt ⟨.zrb, z⟩ 1
      | .bad z e a => State.postJobs fuel ((s.deferred ⟨.zrb, z⟩ 0x20 j a).evt ⟨.zrb, z⟩ 0) z j (eventRec 0x50 e 0 0xFFFF j s.tim.day s.stamp a)) (s.putEvent c j rec).1

/-- Writes a record to a job's event queue. A record can fall into at most two coded blocks that fail their check (R273). -/
def State.postJob (s : State) (c j : Nat) (rec : List Byte) : State := State.postJobs 3 s c j rec

/-- A chapter's event of a page that goes to the privileged event queue: the bit, and the record with REQ_INDEX 0xFFFF,
GEN 0 and JOB 0. -/
def State.evtPriv (s : State) (p : Page) (bit code cause detail : Nat) : State :=
  (s.evt p bit).postPriv (s.homeCh p) (eventRec code cause 0 0xFFFF 0 s.tim.day s.stamp detail)

/-- A chapter's event of a channel's block that goes to a job's event queue: the bit, and the record. -/
def State.evtJob (s : State) (c : Nat) (b : Blk) (bit code cause gen req job detail : Nat) : State :=
  (s.evt ⟨b, c⟩ bit).postJob c job (eventRec code cause gen req job s.tim.day s.stamp detail)

end Sys2Proof.Machine
end

