-- ==== Sys2Proof/Machine/Access.lean ====
section
/-! DEFINITION. Register accesses from outside: which pages a requester reaches (R2, R467, R593), the lock (R5), the
selected bank (R524), and the value a reserved bit keeps (R4). -/
namespace Sys2Proof.Machine

/-- What becomes of a register access before the register's own rules. -/
inductive Gate where
  | pass
  /-- Ignored without a trace (R2, R467). -/
  | ignore
  /-- Ignored and recorded in BLK_ERR_LOG with SOURCE 0x01 (R5, R593). -/
  | ignoreLog
  deriving DecidableEq, Repr

/-- CXH_LD_CFG of an LD, by requester number (R467, R492). -/
def State.ldEnabled (s : State) (n : Nat) : Bool := decide (n < 32) && s.rdB (n / 16) Reg.CXH_LD_CFG 0 (n % 16)

/-- PRIV of an LD (R467). -/
def State.ldPriv (s : State) (n : Nat) : Bool := s.rdB (n / 16) Reg.CXH_LD_CFG 1 (n % 16)

/-- CHANNEL_MASK of an LD (R469). -/
def State.ldChans (s : State) (n : Nat) : Nat := s.rdN (n / 16) Reg.CXH_LD_CHAN (n % 16)

/-- Whether the page exists: a device-global block, or a per-channel block of an enabled channel (R2, R589, R590). -/
def State.pageExists (s : State) (p : Page) : Bool :=
  if p.blk.perChannel then s.enabledCh p.idx
  else if p.blk == .cxh then decide (p.idx < 2) else p.idx == 0

/-- Whether the device is before its release, and past FUSES: the management interface and the FM API answer, and reach the BOOT page
only (R513, R553). -/
def State.preRelease (s : State) : Bool := s.boot.phase != .released && s.boot.phase != .fuses

/-- Whether the management interface reaches a page: BOOT before release (R513, R514), and SEC after it, for R520. -/
def State.mgmtReaches (s : State) (p : Page) : Bool :=
  (p.blk == .boot && s.preRelease) || (p.blk == .sec && s.boot.phase == .released)

/-- Who reaches a page for a write (R2, R467, R513, R514, R593). -/
def State.gate (s : State) (rq : Requester) (p : Page) : Gate :=
  if !s.pageExists p then .ignore
  else match rq with
    | .core => .pass
    | .mgmt => if s.mgmtReaches p then .pass else .ignore
    | .fm => if p.blk == .boot && s.preRelease then .pass else .ignore
    | .ld n =>
      if s.boot.phase != .released || !s.ldEnabled n then .ignore
      else if p.blk.perChannel then
        if !(s.ldChans n).testBit p.idx then .ignore
        else if s.ldPriv n then .pass else .ignoreLog
      else if s.ldPriv n then .pass else .ignore

/-- Who reaches a page for a read: as for a write, but an LD without PRIV reads the pages of its channels (R593). -/
def State.canRead (s : State) (rq : Requester) (p : Page) : Bool := s.gate rq p != .ignore

/-- LOCK of a page (R7). -/
def State.locked (s : State) (p : Page) : Bool := wbit (s.rdAt p 0x008) 3

/-- BLK_BANK_SEL of a page (R6). -/
def State.shadowSel (s : State) (p : Page) : Bool := wbit (s.rdAt p 0x040) 0

/-- The selector value with which a register word is reached: the value of its selector register; DBG's sets and watch
points are chosen by channel and number together (R584), and the deficit by job and engine (R334). -/
def State.selOf (s : State) (p : Page) (off : Nat) : Nat :=
  if p.blk == .dbg && ((decide (0x108 ≤ off) && decide (off ≤ 0x110)) || (decide (0x200 ≤ off) && decide (off < 0x260))) then
    s.rdN 0 Reg.DBG_CH_SEL * 64 + s.rdN 0 Reg.DBG_SET_SEL
  else if p.blk == .dbg && ((decide (0x118 ≤ off) && decide (off ≤ 0x124)) || (decide (0x260 ≤ off) && decide (off < 0x290))) then
    s.rdN 0 Reg.DBG_CH_SEL * 64 + s.rdN 0 Reg.DBG_WP_SEL
  else if p.blk == .jsc && off == 0x170 then s.rdN p.idx Reg.JSC_JOB_SEL * 8 + s.rdN p.idx Reg.JSC_DEFICIT_SEL
  else match findRow p.blk off with
    | some r => match r.sel with
      | some o => (s.rdAt p o).toNat
      | none => 0
    | none => 0

/-- Stores the writable bits of a value in the active bank and keeps the reserved ones (R4). -/
def State.storeActive (s : State) (p : Page) (off sel mask : Nat) (v : Word) : State :=
  let m : Word := BitVec.ofNat 32 mask
  s.wrAt p off ((s.rdAt p off sel &&& ~~~m) ||| (v &&& m)) sel

/-- The shadow bank's word of a register (R524). -/
def State.shadowAt (s : State) (p : Page) (off : Nat) : Word := SMap.get regReset s.shadow (regKey p.blk p.idx off 0)

/-- Sets it. -/
def State.setShadow (s : State) (p : Page) (off : Nat) (v : Word) : State :=
  { s with shadow := SMap.put regReset (regKey p.blk p.idx off 0) v s.shadow }

/-- The bits of a banked register that a rule keeps from being written for as long as the state holds: the cadence's origin while
CAD_RUN is 1 (R28), the base and size of a queue while it is enabled (R334, R396), and CCX's map while the domain joins or is UP
(R463). They hold for both banks, and a swap leaves them as they are (DESIGN CHOICE, log entry 64). -/
def State.heldBits (s : State) (p : Page) (off : Nat) : Word :=
  let held := match p.blk with
    | .tim => decide (0x154 ≤ off) && decide (off ≤ 0x164) && s.rdB 0 Reg.CAD_CTRL 0
    | .ccx => (off == 0x100 || decide (0x108 ≤ off) && decide (off ≤ 0x11C)) &&
        ((s.ch p.idx).ccx.dstate == 1 || (s.ch p.idx).ccx.dstate == 2)
    | .jsc => (off == 0x154 || off == 0x158) && s.rdB p.idx Reg.JSC_PEVQ_CFG 0
    | .trc => (off == 0x174 || off == 0x178) && s.rdB p.idx Reg.TRC_SMP_CFG 0
    | _ => false
  let size := match p.blk with
    | .jsc => off == 0x150 && s.rdB p.idx Reg.JSC_PEVQ_CFG 0
    | .trc => off == 0x170 && s.rdB p.idx Reg.TRC_SMP_CFG 0
    | _ => false
  if held then 0xFFFFFFFF else if size then 0x3E else 0

/-- Stores the writable bits of a value in the shadow bank and sets SHADOW_DIRTY (R524). What a rule holds back is not stored, and the
write is recorded. -/
def State.storeShadow (s : State) (p : Page) (off mask : Nat) (v : Word) : State :=
  let h := s.heldBits p off
  if h = 0xFFFFFFFF then s.logIgnored p off v
  else
    let m : Word := BitVec.ofNat 32 mask &&& ~~~h
    (((s.setShadow p off ((s.shadowAt p off &&& ~~~m) ||| (v &&& m))).updBlk p fun b => { b with dirty := true }).when
      (h &&& v != h &&& s.rdAt p off) fun s => s.logIgnored p off v)

/-- The LD of a requester whose function is not enabled (R467); the host port answers once the device is released (R513). -/
def State.ldOff (s : State) : Requester → Option Nat
  | .ld n => if n < 32 ∧ s.boot.phase = .released ∧ s.ldEnabled n = false then some n else none
  | _ => none

/-- An LD with ENABLE 0 answers every request to its function as an unsupported request (R467); any other request leaves no trace. -/
def State.ioUr (s : State) (rq : Requester) : State := match s.ldOff rq with
  | some n => s.emit (.msg "IO_UR" [n] [])
  | none => s

/-- Runs a register's own behaviour for a write that reaches it: past the gate, past LOCK if the register is RWL, and
with the active bank selected if it is banked; a write to the shadow bank only stores (R5, R524). -/
def State.withWrite (s : State) (rq : Requester) (p : Page) (off : Nat) (v : Word) (f : State → State) : State :=
  match s.gate rq p with
  | .ignore => s.ioUr rq
  | .ignoreLog => s.logIgnored p off v
  | .pass =>
    match findRow p.blk off with
    | none => f s
    | some r =>
      if r.acc == .rwl && s.locked p then s.logIgnored p off v
      else if r.banked && s.shadowSel p then s.storeShadow p off r.mask v
      else f s

/-- `withWrite` for a named register of block number `i`. -/
def State.onWrite (s : State) (rq : Requester) (i : Nat) (r : RegId) (v : Word) (f : State → State) : State :=
  s.withWrite rq ⟨r.blk, i⟩ r.off v f

/-- Stores a value in a named register by its row's mask, at the selected entry, in the active bank. -/
def State.store (s : State) (i : Nat) (r : RegId) (v : Word) : State :=
  match findRow r.blk r.off with
  | some row => s.storeActive ⟨r.blk, i⟩ r.off (s.selOf ⟨r.blk, i⟩ r.off) row.mask v
  | none => s

end Sys2Proof.Machine
end

