-- ==== Sys2Proof/Machine/Power.lean ====
section
/-! DEFINITION. PSQ: wake tokens, thermal and power throttling (R539 to R546). The rows that reset or fault other blocks
stand in Supply.lean. -/
namespace Sys2Proof.Machine

/-- PSQ's page. -/
def psqPage : Page := ⟨.psq, 0⟩

/-- Sets PSQ's own state. -/
def State.setPsq (s : State) (f : Psq → Psq) : State := { s with psq := f s.psq }

/-- Sets the state of a power domain, stamped with the present. -/
def State.setDom (s : State) (d : Nat) (st : DomState) : State :=
  s.setPsq fun p => { p with doms := p.doms.set d { st := st, since := s.tim.now } }

/-- The state of a power domain. -/
def State.domSt (s : State) (d : Nat) : DomState := (s.psq.doms.at d).st

/-- The tokens that PSQ holds (R540). -/
def State.tokensHeld (s : State) : Nat := s.rdF 0 Reg.PSQ_CFG 4 0 - s.psq.spent

/-- A change of TOKEN_BUDGET leaves the tokens held, as far as the bucket holds them; `old` is the state before it (R540). -/
def State.keepTokens (old s : State) : State :=
  s.setPsq fun p => { p with spent := s.rdF 0 Reg.PSQ_CFG 4 0 - old.tokensHeld }

/-- Grants a token to a domain: it ramps, and the pointer moves past it (R10, R539, R540). -/
def State.grantWake (s : State) (d : Nat) : State :=
  ((s.setDom d .ramping).setPsq fun p => { p with spent := p.spent + 1, ptr := (d + 1) % 70 }).bump 0 Reg.PSQ_WAKE_CNT

/-- A domain powers down for want of work: no token is taken (R539, R541). -/
def State.idleDown (s : State) (d : Nat) : State :=
  s.setPsq fun p => { p with doms := p.doms.set d { st := .off, since := s.tim.now, idled := true } }

/-- Whether a domain powered down for want of work at this very time (R541; log entry 10). -/
def State.justIdled (s : State) (d : Nat) : Bool := (s.psq.doms.at d).idled && (s.psq.doms.at d).since == s.tim.now

/-- A wake-up request (R540, R541): merged unless the domain is down; one in the cycle of the power-down wins, and the domain stays on;
else a held token is taken at once, or the request queues. -/
def State.wake (s : State) (d : Nat) : State :=
  match s.domSt d with
  | .off =>
    if s.justIdled d then s.setDom d .on
    else if 0 < s.tokensHeld then s.grantWake d
    else (s.setDom d .queued).bump 0 Reg.PSQ_WAKE_QUEUED_CNT
  | _ => s

/-- The queued domain that the next token goes to (R10). -/
def State.nextQueued (s : State) : Option Nat := roundRobin 70 s.psq.ptr fun d => s.domSt d == .queued

/-- Grants the tokens held to queued domains; at most one domain per token. -/
def State.grantQueued (s : State) : State :=
  match s.nextQueued with
  | some d => if 0 < s.tokensHeld then s.grantWake d else s
  | none => s

/-- TOKEN_TICK (R540): every 5 µs a token is added until the bucket is full, before any grant. -/
def execTokenTick (s : State) : Host.Outcome State Fault Refusal :=
  let s1 := s.passToNow (s.psq.lastToken + 5000)
  .next (s1.setPsq fun p => { p with lastToken := s1.tim.now, spent := p.spent - 1 }).grantQueued

/-- The power domain of a control core, in the numbering of R507 (R539). -/
def coreDom (k : Nat) : Nat := if k < 4 then 48 + k else if k < 20 then 12 + k else 32 + k

/-- The control core of a power domain, if it is one. -/
def domCore (d : Nat) : Option Nat :=
  if 48 ≤ d ∧ d < 52 then some (d - 48) else if 16 ≤ d ∧ d < 32 then some (d - 12)
  else if 52 ≤ d ∧ d < 54 then some (d - 32) else none

/-- DOMAIN_RAMP_DONE (R539): 2 µs after its token, the domain is usable; a control core that was woken is told (R508). -/
def execDomainRampDone (d : Nat) (s : State) : Host.Outcome State Fault Refusal :=
  .next (s.when (s.domSt d == .ramping) fun s =>
    let s1 := (s.passToNow ((s.psq.doms.at d).since + 2000)).setDom d .on
    match domCore d with
    | some k => s1.emit (.coreNotice k "woken")
    | none => s1)

/-- PD_EN (R554). -/
def State.pdEn (s : State) : Bool := s.rdB 0 Reg.PSQ_CFG 8

/-- ARRAY_IDLE_EXPIRY (R539): an array idle for ARR_IDLE_US with PD_EN set powers down. -/
def execArrayIdleExpiry (c : Nat) (s : State) : Host.Outcome State Fault Refusal :=
  let e := (s.ch c).jsc.engines.at 1
  .next (s.when (s.enabledCh c && s.pdEn && s.domSt c == .on && e.holder.isNone) fun s =>
    (s.passToNow (max e.since (s.psq.doms.at c).since + s.rdF 0 Reg.PSQ_CFG 31 16 * 1000)).idleDown c)

/-- CORE_WAIT_FOR_INTERRUPT (R539): a waiting control core powers down with PD_EN set. -/
def execCoreWaitForInterrupt (core : Nat) (s : State) : Host.Outcome State Fault Refusal :=
  .next (s.when (decide (core < 22) && s.pdEn && s.domSt (coreDom core) == .on) fun s => s.idleDown (coreDom core))

/-! ### Temperature, power and the throttle level -/

/-- Tj: the highest of sensors 0-15 and 32-35 (R542). -/
def State.tj (s : State) : Nat :=
  ((List.range 16 ++ [32, 33, 34, 35]).map fun i => s.psq.temps.at i).foldl max 0

/-- The thermal demand (R544). -/
def State.thermalDemand (s : State) : Nat := max s.psq.tjDemand (if s.psq.stackHot then 2 else 0)

/-- THROT_FORCE (R546). -/
def State.throtForce (s : State) : Nat := s.rdF 0 Reg.PSQ_THROT_FORCE 1 0

/-- The time of `n` array cycles at the effective level, where the array works 8, 6, 4 or 2 of 8 cycles (R543). -/
def State.onDuty (s : State) (n : Nat) : Nat := ceilDiv (8 * n) (8 - 2 * min 3 s.psq.level)

/-- The level that the demands call for (R546). -/
def State.wantedLevel (s : State) : Nat := max s.thermalDemand (max s.psq.powerDemand s.throtForce)

/-- Accounts the time spent at a level above 0 (R543). -/
def State.accountThrot (s : State) : State :=
  let us := (s.tim.now - s.psq.throtAt) / 1000
  let s1 := s.setPsq fun p => { p with throtAt := if p.level = 0 then s.tim.now else p.throtAt + us * 1000 }
  s1.when (s.psq.level != 0) fun s => s.bump 0 Reg.PSQ_THROT_US_CNT us

/-- Changes the effective level, with its events (R546). -/
def State.setLevel (s : State) (l : Nat) : State :=
  if l = s.psq.level then s
  else
    let s1 := (s.accountThrot.setPsq fun p => { p with level := l }).bump 0 Reg.PSQ_LEVEL_CHG_CNT
    if s.psq.level = 0 then s1.evt psqPage 1 else if l = 0 then s1.evt psqPage 2 else s1

/-- A rise of the demands takes effect at once; a fall waits for THROTTLE_STEP_DOWN (R546). -/
def State.raiseLevel (s : State) : State := s.when (decide (s.psq.level < s.wantedLevel)) fun s => s.setLevel s.wantedLevel

/-- The demand row of R544 for a junction temperature. -/
def tjRow (t : Nat) : Nat := if 840 ≤ t then 3 else if 800 ≤ t then 2 else if 760 ≤ t then 1 else 0

/-- The threshold that raised a Tj demand. -/
def tjThreshold : Nat → Nat
  | 0 => 0 | 1 => 760 | 2 => 800 | _ => 840

/-- The demand of the Tj rows after a sample (R544). -/
def State.updateTj (s : State) : State :=
  let row := tjRow s.tj
  let d := s.psq.tjDemand
  if d < row then
    let s1 := s.setPsq fun p => { p with tjDemand := row, tjCool := none }
    if row = 1 then s1.evt psqPage 0 else if row = 3 then s1.evt psqPage 3 else s1
  else if d = 0 then s
  else if s.tj + 24 ≤ tjThreshold d then
    match s.psq.tjCool with
    | none => s.setPsq fun p => { p with tjCool := some s.tim.now }
    | some t => s.when (decide (t + 1000000 ≤ s.tim.now)) fun s =>
        s.setPsq fun p => { p with tjDemand := row, tjCool := none }
  else s.setPsq fun p => { p with tjCool := none }

/-- The demand of the stack row after a sample (R544). -/
def State.updateStack (s : State) : State :=
  let hottest := ((List.range 16).map fun i => s.psq.temps.at (16 + i)).foldl max 0
  if 760 ≤ hottest then
    (s.setPsq fun p => { p with stackHot := true, stackCool := none }).when (!s.psq.stackHot) fun s => s.evt psqPage 6
  else if hottest < 736 then
    match s.psq.stackCool with
    | none => s.setPsq fun p => { p with stackCool := some s.tim.now }
    | some t => s.when (decide (t + 1000000 ≤ s.tim.now)) fun s => s.setPsq fun p => { p with stackHot := false }
  else s.setPsq fun p => { p with stackCool := none }

/-- PWR_LIMIT in mW; larger values are taken as 420 W (R554). -/
def State.pwrLimit (s : State) : Nat := min 420 (s.rdF 0 Reg.PSQ_PWR_LIMIT 8 0) * 1000

/-- Sets the power demand; PWR_LIMIT is posted once per rise from 0 (R545). -/
def State.setPowerDemand (s : State) (d : Nat) : State :=
  (s.setPsq fun p => { p with powerDemand := d }).when (s.psq.powerDemand == 0 && d != 0) fun s => s.evt psqPage 4

/-- An input-power sample (R545): five in a row above the limit by 40 W demand level 3 at once. -/
def State.samplePower (s : State) (mw : Nat) : State :=
  let isOver := if s.pwrLimit + 40000 < mw then s.psq.overRun + 1 else 0
  let s1 := s.setPsq fun p =>
    { p with samples := p.samples + 1, sampleSum := p.sampleSum + mw, overRun := isOver }
  s1.when (decide (5 ≤ isOver)) fun s => s.setPowerDemand 3

/-- SENSOR_SAMPLE (R542 to R546): every 10 µs the sensors and the input are read, the demands change together, and a
rise takes effect. -/
def execSensorSample (temps : List Nat) (mw mv ma : Nat) (s : State) : Host.Outcome State Fault Refusal :=
  let s1 := s.passToNow (s.psq.lastSample + 10000)
  let s2 := (s1.setPsq fun p =>
    { p with lastSample := s1.tim.now,
             temps := (temps.take 36).zipIdx.foldl (fun m x => m.set x.2 (x.1 % 4096)) p.temps }).accountThrot
  let s3 := ((s2.wr 0 Reg.PSQ_VIN (lo32 mv)).wr 0 Reg.PSQ_IIN (lo32 ma)).wr 0 Reg.PSQ_TJ (lo32 s2.tj)
  .next ((s3.updateTj.updateStack.samplePower mw).raiseLevel.setPsq fun p =>
    { p with hotSince := if 880 ≤ s3.tj then some (p.hotSince.getD s3.tim.now) else none })

/-- POWER_AVERAGE (R545): at each 1 ms boundary the average raises or lowers the power demand. -/
def execPowerAverage (s : State) : Host.Outcome State Fault Refusal :=
  let s1 := s.passToNow (s.psq.lastAverage + 1000000)
  let avg := if s.psq.samples = 0 then 0 else s.psq.sampleSum / s.psq.samples
  let s2 := (s1.setPsq fun p => { p with lastAverage := s1.tim.now, samples := 0, sampleSum := 0 }).wr 0 Reg.PSQ_PIN
    (lo32 avg)
  let d := s.psq.powerDemand
  .next (if s.psq.samples = 0 then s2
    else if s.pwrLimit * s.psq.samples < s.psq.sampleSum then (s2.setPowerDemand (min 3 (d + 1))).raiseLevel
    else if s.psq.sampleSum * 100 < s.pwrLimit * 95 * s.psq.samples then s2.setPowerDemand (d - 1)
    else s2)

/-- THROTTLE_STEP_DOWN (R546): every 100 µs the effective level falls one step toward the demand. -/
def execThrottleStepDown (s : State) : Host.Outcome State Fault Refusal :=
  let s1 := s.passToNow (s.psq.lastFall + 100000)
  let s2 := s1.setPsq fun p => { p with lastFall := s1.tim.now }
  .next (s2.when (decide (s2.wantedLevel < s2.psq.level)) fun s => s.setLevel (s.psq.level - 1))

/-- THROT_FORCE_WRITE (R546, R554). -/
def execThrotForceWrite (rq : Requester) (v : Word) (s : State) : Host.Outcome State Fault Refusal :=
  .next (s.onWrite rq 0 Reg.PSQ_THROT_FORCE v fun s => (s.store 0 Reg.PSQ_THROT_FORCE v).raiseLevel)

/-- PSQ_STATUS (R554). -/
def State.psqStatus (s : State) : Word :=
  BitVec.ofNat 32 (fieldAt 0 5 s.tokensHeld +
    fieldAt 8 5 ((List.range 70).filter fun d => s.domSt d == .queued).length +
    fieldAt 16 2 s.psq.level + fieldAt 18 2 s.thermalDemand + fieldAt 20 2 s.psq.powerDemand)

/-- PSQ_DOM_STAT (R554). -/
def State.domStat (s : State) (d : Nat) : Nat :=
  match s.domSt d with
  | .off => 0 | .queued => 1 | .ramping => 2 | .on => 3

end Sys2Proof.Machine
end

