-- ==== Sys2Proof/Machine/Mailbox.lean ====
section
/-! DEFINITION. MBX: mailboxes, the receive window, routes and wake events (R496 to R511). -/
namespace Sys2Proof.Machine

/-- MBX's page. -/
def mbxPage : Page := ⟨.mbx, 0⟩

/-- The number of mailboxes (R496). -/
def mailboxes : Nat := 1088

/-- Whether mailbox `n` is a compact one, which belongs to job `n` (R496). -/
def isCompact (n : Nat) : Bool := decide (n < 1024)

/-- A mailbox. -/
def State.box (s : State) (n : Nat) : Mailbox := s.mbx.boxes.at n

/-- Changes MBX's state. -/
def State.setMbx (s : State) (f : Mbx → Mbx) : State := { s with mbx := f s.mbx }

/-- Changes a mailbox. -/
def State.updBox (s : State) (n : Nat) (f : Mailbox → Mailbox) : State := s.setMbx fun x => { x with boxes := x.boxes.upd n f }

/-- The LD that a job is bound to (R468). -/
def State.jobLd (s : State) (j : Nat) : Option Nat :=
  if s.rdB 0 Reg.CMP_JOB_LD 31 j then some (s.rdF 0 Reg.CMP_JOB_LD 4 0 j) else none

/-- Whether a requester sees the page of a mailbox in BAR2 (R467, R496, R513). -/
def State.seesBox (s : State) (rq : Requester) (n : Nat) : Bool :=
  (s.boot.phase == .released) && decide (n < mailboxes) &&
    match rq with
    | .core => false
    | .ld k => s.ldEnabled k && (if isCompact n then s.jobLd n == some k else s.ldPriv k)
    | .mgmt => !isCompact n
    | .fm => !isCompact n

/-! ### Wake events and routes (R507, R508) -/

/-- A wake event at a core; a core whose domain is down is asked for at PSQ (R508). -/
def State.wakeCore (s : State) (k : Nat) : State :=
  let s1 := s.emit (.coreNotice k "mailbox")
  match s1.domSt (coreDom k) with
  | .off => (s1.bump 0 Reg.MBX_WAKE_CNT).wake (coreDom k)
  | .queued => (s1.bump 0 Reg.MBX_WAKE_CNT).wake (coreDom k)
  | _ => s1

/-- The core that a mailbox is routed to (R507). -/
def State.routeOf (s : State) (n : Nat) : Nat := s.rdF 0 Reg.MBX_ROUTE 4 0 n

/-- A new route; a FULL mailbox raises its wake event at the new core (R507). -/
def State.setRoute (s : State) (n k : Nat) : State :=
  (s.wr 0 Reg.MBX_ROUTE (lo32 k) n).when ((s.box n).full && s.routeOf n != k) fun s => s.wakeCore k

/-- Whether a route may name a core: neither a reserved one, nor that of a channel that is disabled, recovering, quarantined or OUT
(R507). -/
def State.routable (s : State) (k : Nat) : Bool :=
  decide (k < 22) && (decide (k < 4) || decide (20 ≤ k) || s.enabledCh (k - 4) && !s.recovering (k - 4) &&
    !s.quarantined (k - 4) && s.boot.chOut.at (k - 4) != .out && s.boot.chOut.at (k - 4) != .retraining)

/-- Every mailbox routed to a channel's core goes to the core that the reset routing gives it (R507). -/
def State.rerouteFrom (s : State) (c : Nat) : State :=
  s.each ((List.range mailboxes).filter fun n => s.routeOf n == 4 + c) fun s n => s.setRoute n (if isCompact n then n % 4 else 0)

/-- MBX_ROUTE_WRITE (R507). -/
def execMbxRouteWrite (rq : Requester) (v : Word) (s : State) : Host.Outcome State Fault Refusal :=
  .next (s.onWrite rq 0 Reg.MBX_ROUTE v fun s =>
    let n := s.rdF 0 Reg.MBX_ROUTE_SEL 10 0
    if decide (n < mailboxes) && s.routable (fld v 4 0) then s.setRoute n (fld v 4 0)
    else s.logIgnored mbxPage 0x124 v)

/-! ### Sending (R500 to R502) -/

/-- A collision: counted, and posted at most once per mailbox and day (R502). -/
def State.collide (s : State) (n : Nat) : State :=
  let first := !(s.box n).posted
  ((s.updBox n fun b => { b with collision := true, posted := true }).bump 0 Reg.MBX_COLLISION_CNT).when first fun s =>
    s.evt mbxPage 0

/-- The offset of MB_IRQ in a mailbox page (R497, R498). -/
def irqOff (n : Nat) : Nat := if isCompact n then 0x28 else 0x48

/-- The number of data words of a mailbox (R497, R498). -/
def boxWords (n : Nat) : Nat := if isCompact n then 8 else 16

/-- MB_DATA_WRITE: a write of a data word, or of MB_IRQ, the other RW register of a mailbox page (R497, R498, R502). -/
def execMbDataWrite (rq : Requester) (box off : Nat) (v : Word) (s : State) : Host.Outcome State Fault Refusal :=
  .next (if !s.seesBox rq box then s.ioUr rq
    else if off % 4 = 0 ∧ off / 4 < boxWords box then
      (s.updBox box fun b => { b with data := b.data.set (off / 4) v }).when (s.box box).full fun s => s.collide box
    else if off = irqOff box then s.updBox box fun b => { b with irq := v &&& 0x800007FF }
    else s)

/-- TENANT that SENDER shows for a job: from its context on the lowest channel where the job is enabled, else on the lowest channel
(DESIGN CHOICE, log entry 30). -/
def State.boxTenant (s : State) (j : Nat) : Nat :=
  let c := (s.channels.find? fun c => s.jobEnabled c j).getD (s.channels.headD 0)
  fld (s.jobWord c j 0) 25 16

/-- SENDER of a GO write (R501). The LD and PORT of the FM-owned LD are not stated: free (log entry 6). -/
def State.senderOf (s : State) (rq : Requester) (n : Nat) (pasid : Option Nat) : Nat × State :=
  let jobPart := if isCompact n then fieldAt 32 10 n + fieldAt 42 1 1 + fieldAt 48 10 (s.boxTenant n) else 0
  let pas := match pasid with
    | some p => fieldAt 0 20 p + fieldAt 20 1 1
    | none => 0
  match rq with
  | .ld k => (pas + fieldAt 21 4 k + fieldAt 25 1 (k / 16) + jobPart, s)
  | .fm => let (n, s1) := s.drawNat; (pas + fieldAt 21 5 n + fieldAt 26 2 1 + jobPart, s1)
  | _ => (fieldAt 26 2 2 + jobPart, s)

/-- A GO that reaches its mailbox (R500, R502). -/
def State.go (s : State) (rq : Requester) (n : Nat) (pasid : Option Nat) : State :=
  let s1 := s.when (s.box n).full fun s => s.collide n
  let (w, s2) := s1.senderOf rq n pasid
  ((s2.updBox n fun b => { b with seq := (b.seq + 1) % 2 ^ 16, sender := w, full := true, ackValid := false }).bump 0
    Reg.MBX_MSG_CNT).wakeCore (s.routeOf n)

/-- MB_GO (R500, R502, R510): ignored while MBX_EN is 0, and while MBX accepts no work (R7; DESIGN CHOICE, log entry 61). -/
def execMbGo (rq : Requester) (box : Nat) (pasid : Option Nat) (s : State) : Host.Outcome State Fault Refusal :=
  .next (if !s.seesBox rq box then s.ioUr rq
    else s.when (s.rdB 0 Reg.MBX_CFG 0 && s.ready mbxPage) fun s => s.go rq box pasid)

/-! ### Receiving (R504, R505) -/

/-- Latches a mailbox into the receive window. -/
def State.latchBox (s : State) (n : Nat) : State :=
  let b := s.box n
  let s1 := s.setMbx fun x => { x with latch := some (n, b.seq, b.sender) }
  let s2 := (s1.wr 0 Reg.MBX_RX_SEQ (lo32 (b.seq + fieldAt 16 1 (b2n b.full) + fieldAt 17 1 (b2n b.collision)))).wr64 0
    Reg.MBX_RX_SENDER_LO b.sender
  s2.each (List.range 16) fun s i =>
    s.wrAt mbxPage (0x140 + 4 * i) (if i < boxWords n then SMap.at b.data i else 0)

/-- MBX_RX_SEQ_READ (R504). -/
def execMbxRxSeqRead (rq : Requester) (s : State) : Host.Outcome State Fault Refusal :=
  .next (if !s.canRead rq mbxPage then s.ioUr rq
    else
      let n := s.rdF 0 Reg.MBX_RX_SEL 10 0
      let s1 := s.when (decide (n < mailboxes)) fun s => s.latchBox n
      s1.emit (.readData (s1.rd 0 Reg.MBX_RX_SEQ)))

/-- The interrupt of MB_IRQ, for a mailbox whose latched SENDER is known (R505). A sender on the management interface polls. -/
def State.boxIrq (s : State) (n sender : Nat) : State :=
  let b := s.box n
  let vec := fld b.irq 10 0
  if !wbit b.irq 31 then s
  else if isCompact n then match s.jobLd n with
    | some ld => s.sendIrq ld vec
    | none => s
  else if nfld sender 27 26 = 0 then s.sendIrq (nfld sender 25 21) vec
  else if nfld sender 27 26 = 1 then s.emit (.msg "FM_LD_IRQ" [vec] [])
  else s

/-- A mailbox goes empty; its core's pointer moves past it (R504, R507). -/
def State.emptyBox (s : State) (n : Nat) : State :=
  (s.updBox n fun b => { b with full := false }).setMbx fun x => { x with ptr := x.ptr.set (s.routeOf n) ((n + 1) % mailboxes) }

/-- An EMPTY or ACK that meets a newer message (R504). -/
def State.staleEmpty (s : State) (n : Nat) : State :=
  let s1 := (s.bump 0 Reg.MBX_STALE_EMPTY_CNT).when (!s.mbx.stalePosted) fun s =>
    (s.setMbx fun x => { x with stalePosted := true }).evt mbxPage 1
  s1.wakeCore (s.routeOf n)

/-- EMPTY (R504, R505): for a compact mailbox. Without a latch it is ignored and recorded; for a full mailbox it is ignored (DEDUCED,
log entry 30). -/
def execEmpty (rq : Requester) (s : State) : Host.Outcome State Fault Refusal :=
  .next (s.onWrite rq 0 Reg.MBX_RX_CTRL 1 fun s =>
    match s.mbx.latch with
    | none => s.logIgnored mbxPage 0x10C 1
    | some (n, seq, sender) =>
      if !isCompact n then s.logIgnored mbxPage 0x10C 1
      else
        let s1 := s.setMbx fun x => { x with latch := none }
        if (s.box n).seq ≠ seq then s1.staleEmpty n
        else s1.when (s.box n).full fun s => (s.emptyBox n).boxIrq n sender)

/-- CLR_COLLISION (R504): for the mailbox of the receive window. -/
def execClrCollision (rq : Requester) (s : State) : Host.Outcome State Fault Refusal :=
  .next (s.onWrite rq 0 Reg.MBX_RX_CTRL 2 fun s =>
    let n := s.rdF 0 Reg.MBX_RX_SEL 10 0
    s.when (decide (n < mailboxes)) fun s => s.updBox n fun b => { b with collision := false })

/-- MBX_RX_ACK (R504, R505): for a full mailbox; ignored for a compact one. -/
def execMbxRxAck (rq : Requester) (v : Word) (s : State) : Host.Outcome State Fault Refusal :=
  .next (s.onWrite rq 0 Reg.MBX_RX_ACK v fun s =>
    match s.mbx.latch with
    | none => s.logIgnored mbxPage 0x110 v
    | some (n, seq, sender) =>
      if isCompact n then s.logIgnored mbxPage 0x110 v
      else
        let same := (s.box n).seq == seq
        let s1 := (s.setMbx fun x => { x with latch := none }).updBox n fun b =>
          { b with ack := lo32 (fld v 15 0 + fieldAt 16 16 seq), ackValid := b.ackValid || same }
        let s2 := if same then s1.when (s.box n).full fun s => s.emptyBox n else s1.staleEmpty n
        s2.boxIrq n sender)

/-- A cleared job's compact mailbox goes empty, without an interrupt (R507, R509). -/
def State.clearBox (s : State) (j : Nat) : State :=
  (s.when (s.box j).full fun s => s.emptyBox j).updBox j fun b =>
    { b with full := false, collision := false, ackValid := false, seq := 0 }

/-- A new day: each event of MBX can be posted again (R502, R511). -/
def State.mbxDay (s : State) : State :=
  s.setMbx fun x => { x with stalePosted := false, boxes := x.boxes.foldl (fun m e => m.set e.1 { e.2 with posted := false }) x.boxes }

/-! ### What the pages show (R499, R510) -/

/-- MB_STAT. -/
def Mailbox.stat (b : Mailbox) : Word :=
  BitVec.ofNat 32 (b2n b.full + fieldAt 1 1 (b2n b.collision) + fieldAt 2 1 (b2n b.ackValid) + fieldAt 16 16 b.seq)

/-- A word of a mailbox page (R497, R498): the data words, MB_STAT, MB_IRQ and, on a full mailbox, MB_ACK; MB_GO is write-only. -/
def Mailbox.word (b : Mailbox) (n off : Nat) : Word :=
  if off / 4 < boxWords n then SMap.at b.data (off / 4)
  else if off = irqOff n - 4 then b.stat
  else if off = irqOff n then b.irq
  else if off = 0x4C ∧ isCompact n = false then b.ack
  else 0

/-- The mailbox whose page lies at a BAR2 offset (R496). -/
def boxAt (off : Nat) : Option Nat :=
  if off < 0x400000 then some (off / 0x1000)
  else if off < 0x440000 then some (1024 + (off - 0x400000) / 0x1000)
  else none

/-- What a read at a BAR2 offset answers (R496 to R498): zero beyond the mailboxes and from a page that the requester does not see;
none, an unsupported request, where the function is not enabled (R467). -/
def State.bar2Read (s : State) (rq : Requester) (off : Nat) : Option Word :=
  if (s.ldOff rq).isSome then none
  else some (match boxAt off with
    | some n => if s.seesBox rq n then (s.box n).word n (off % 0x1000 / 4 * 4) else 0
    | none => 0)

/-- MBX_PEND_NEXT for a core. -/
def State.pendNext (s : State) (k : Nat) : Word :=
  match roundRobin mailboxes (s.mbx.ptr.at k) fun n => (s.box n).full && s.routeOf n == k with
  | none => 0
  | some n => BitVec.ofNat 32 (n + 2 ^ 31)

end Sys2Proof.Machine
end

