-- ==== Sys2Proof/Machine/Blocks.lean ====
section
/-! DEFINITION. The common header of a block page: lock, reset, quiesce, enable, the state machine of R603, event bits
and the error log (R6 to R9, R559, R597, R603, R604), and the bank swap of R525. -/
namespace Sys2Proof.Machine

/-- LOCK of R7: writing 1 sets the bit, which only a reset clears. -/
def State.setLock (s : State) (p : Page) : State := s.wrAt p 0x008 (setBit (s.rdAt p 0x008) 3 true)

/-- LOCK (R7). -/
def execLock (rq : Requester) (p : Page) (s : State) : Host.Outcome State Fault Refusal :=
  .next (s.withWrite rq p 0x008 8 fun s => s.setLock p)

/-- QUIESCE of BLK_CTRL. -/
def State.quiesceBit (s : State) (p : Page) : Bool := wbit (s.rdAt p 0x008) 1

/-- A write of QUIESCE: RUNNING goes to DRAINING and back; any other STATE only keeps the bit (R603). -/
def State.setQuiesce (s : State) (p : Page) (on : Bool) : State :=
  (s.wrAt p 0x008 (setBit (s.rdAt p 0x008) 1 on)).updBlk p fun b =>
    match b.st, on with
    | .running, true => { b with st := .draining }
    | .draining, false => { b with st := .running, quiesced := false }
    | _, false => { b with quiesced := false }
    | _, true => b



/-- A write of ENABLE (R603). QUIESCED stays: it shows QUIESCE and accepted work, whatever the STATE (R8). -/
def State.setEnable (s : State) (p : Page) (on : Bool) : State :=
  let b := s.blkSt p
  let put := fun (st : BlkState) =>
    (s.wrAt p 0x008 (setBit (s.rdAt p 0x008) 0 on)).updBlk p fun b => { b with st := st }
  let ignored := s.logIgnored p 0x008 (if on then 1 else 0)
  match on, b.st with
  | true, .off => put .init
  | true, .recovering => ignored
  | true, .quarantined => ignored
  | true, _ => s
  | false, .init => put .off
  | false, .draining => if b.quiesced then put .off else ignored
  | false, _ => ignored

/-- BLOCK_ENABLE (R603). -/
def execBlockEnable (rq : Requester) (p : Page) (on : Bool) (s : State) : Host.Outcome State Fault Refusal :=
  .next (s.withWrite rq p 0x008 (if on then 1 else 0) fun s => s.setEnable p on)

/-- A block's initialisation completes: INIT goes to RUNNING, or to DRAINING if QUIESCE is 1 (R603). -/
def State.initDone (s : State) (p : Page) : State :=
  if (s.blkSt p).st == .init then
    s.updBlk p fun b => { b with st := if s.quiesceBit p then .draining else .running }
  else s



/-- Whether a Kweuz connection holds work: requests, packets not acknowledged, and answers under way (R8). -/
def KConn.busy (k : KConn) : Bool := k.reqs.any (fun r => !r.ended) || !k.sent.isEmpty || !k.reads.isEmpty || !k.outq.isEmpty || !k.flushes.isEmpty

/-- Whether a block holds accepted work (R8): what it has taken and not finished. ADM, RQT: commands that wait for Dawn. ATN, VSE,
DMV, SMP, JSC: what runs or is set aside. PGM: page moves. KWP, TRC, SLP, NMO, CCX: requests and packets under way. A command of a
lane that has not begun is JSC's. -/
def State.hasWork (s : State) (p : Page) : Bool :=
  let x := s.ch p.idx
  let eng := fun e => (x.jsc.engines.at e).holder
  let op := fun e (f : Nat → Bool) => ((eng e).map fun h => f h.op).getD false
  let moves := x.pgm.moves.any fun m => m.2.isSome
  match p.blk with
  | .pln => s.pln.loading
  | .rqt => !x.rqt.pend.isEmpty
  | .adm => x.rqt.pend.any fun p => p.kind == .admission || p.kind == .accept
  | .atn => (eng 1).isSome || x.atn.runs.any fun r => r.2.isSome
  | .pgm => moves || !x.pgm.waiting.isEmpty
  | .dmv => moves || op 2 (fun o => o == 0x040 || o == 0x041) || x.dmv.runs.any fun r => r.2.isSome
  | .vse => (eng 3).isSome || op 1 (fun o => o == 0x063) || x.vse.runs.any fun r => r.2.isSome
  | .zrb => (List.range 16).any fun n => s.rdB p.idx Reg.ZRB_RGN_STAT 1 n
  | .smp => (eng 4).isSome || x.smp.steps.any (fun e => !e.2.derived && !e.2.done.isEmpty) || !x.smp.waitCr.isEmpty
  | .jsc => x.jsc.lanes.any (fun l => !l.2.isEmpty) || [0, 1, 2, 3, 4].any (fun e => (eng e).isSome) || !x.jsc.waitCpl.isEmpty ||
      !x.jsc.discarded.isEmpty
  | .atu => x.atu.inv.isSome || x.atu.faults.any (fun f => f.2.isSome) || !x.atu.waiting.isEmpty
  | .kwp => x.kwp.conns.any (fun k => k.2.busy) || !x.kwp.miss.isEmpty
  | .trc => x.trc.shapers.any (fun k => !k.2.fifo.isEmpty) || x.trc.queues.any fun q => !q.2.pkts.isEmpty
  | .slp => x.slp.tags.any (fun t => t.2.live && !t.2.quar) || !x.slp.order.isEmpty || !x.slp.link.out.isEmpty ||
      x.slp.inbox.any (fun m => decide (6 < m.2.mtype)) || x.slp.held
  | .nmo => !x.nmo.running.isEmpty || !x.nmo.waiting.isEmpty
  | .ccx => !x.ccx.accs.isEmpty || !x.ccx.flushes.isEmpty || !x.ccx.homeAcc.isEmpty || !x.ccx.homeWait.isEmpty ||
      x.ccx.filter.any fun e => e.2.trans.isSome
  | .cmp => !s.cmp.waiting.isEmpty || !s.cmp.publishes.isEmpty
  | .boot => s.boot.updates.any (fun u => u.2.isSome) || s.boot.norBusy
  | .psq => s.psq.doms.any fun d => d.2.st == .queued || d.2.st == .ramping
  | .ras => s.ras.slot0.isSome || s.ras.slot1.isSome
  | _ => false

/-- A change to RERANK_EN takes effect while VSE reads QUIESCED (R249). -/
def State.syncRerank (s : State) (c : Nat) : State :=
  s.when ((s.blkSt ⟨.vse, c⟩).quiesced) fun s =>
    let on := s.rdB c Reg.VSE_CFG 0
    s.updCh c fun x => { x with vse := { x.vse with rerank := on } }

/-- A write to SPLIT takes effect while KWP reads QUIESCED (R338). -/
def State.syncSplit (s : State) (c : Nat) : State :=
  s.when ((s.blkSt ⟨.kwp, c⟩).quiesced) fun s =>
    let on := s.rdB c Reg.KWP_CFG 1
    s.updCh c fun x => { x with kwp := { x.kwp with split := on } }

/-- A port enters Solrov mode while SL_EN is 1, KW_EN is 0 and the port reads QUIESCED; with SL_EN at 0 it is not in that mode
(R398; the way back is DEDUCED, log entry 26). -/
def State.syncSolrov (s : State) (c : Nat) : State :=
  let en := s.rdB c Reg.SLP_CFG 0
  let on := (s.ch c).slp.mode
  if en && !on && !s.rdB c Reg.KWP_CFG 0 && (s.blkSt ⟨.kwp, c⟩).quiesced then
    s.updCh c fun x => { x with slp := { x.slp with mode := true, link := freshLink } }
  else if on && !en then s.updCh c fun x => { x with slp := { x.slp with mode := false, link := default } }
  else s

/-- QUIESCED reads 1 once QUIESCE is set and no accepted work remains, whatever the STATE (R8, R603). -/
def State.setQuiesced (s : State) (p : Page) : State :=
  if s.quiesceBit p && !s.hasWork p then
    ((s.updBlk p fun b => { b with quiesced := true }).when (p.blk == .vse) fun s => s.syncRerank p.idx).when (p.blk == .kwp)
      fun s => (s.syncSplit p.idx).syncSolrov p.idx
  else s

/-- Whether every block of a channel is quiesced, or was not running work. -/
def State.allQuiesced (s : State) (c : Nat) : Bool :=
  chanBlks.all fun b => (s.blkSt ⟨b, c⟩).quiesced || (s.blkSt ⟨b, c⟩).st == .off || (s.blkSt ⟨b, c⟩).st == .quarantined

/-- A channel's port lanes and its DRAM stack are powered down, and its links are down (R528, R539). -/
def State.chanDown (s : State) (c : Nat) : State :=
  ((s.setDom (32 + c) .off).setDom (54 + c) .off).updCh c fun x =>
    { x with kwp := { x.kwp with up := [] }, slp := { x.slp with link := default } }

/-- The last step of OUT (R528): each block's STATE becomes OFF and its ENABLE clears (R603), BOOT_CH_STATE reads OUT,
and CH_OUT is posted with CAUSE 1. -/
def State.finishOut (s : State) (c : Nat) : State :=
  let s1 := s.each chanBlks fun s b =>
    (s.wrAt ⟨b, c⟩ 0x008 (setBit (s.rdAt ⟨b, c⟩ 0x008) 0 false)).updBlk ⟨b, c⟩ fun x => { x with st := .off }
  (({ s1 with boot := { s1.boot with chOut := s1.boot.chOut.set c .out } }).chanDown c |>.rerouteFrom c).evtPriv ⟨.boot, 0⟩ 2 0xD2 1 c

/-- BLOCK_QUIESCED (R8), and the end of a channel's OUT when the last of its blocks quiesces (R528). -/
def execBlockQuiesced (p : Page) (s : State) : Host.Outcome State Fault Refusal :=
  let s1 := s.setQuiesced p
  .next (s1.when (p.blk.perChannel && s1.boot.chOut.at p.idx == .draining && s1.allQuiesced p.idx) fun s =>
    s.finishOut p.idx)

/-- How many BLK_EVT bits each block defines (R51 to R587); the others are reserved. -/
def evtBits : Blk → Nat
  | .tim => 8 | .pln => 5 | .rqt => 4 | .adm => 4 | .atn => 5 | .pgm => 5 | .skt => 1 | .vse => 3 | .zrb => 2
  | .smp => 2 | .jsc => 4 | .atu => 2 | .kwp => 7 | .trc => 2 | .slp => 5 | .ccx => 5 | .nmo => 0 | .cxh => 3
  | .cmp => 4 | .mbx => 2 | .sec => 3 | .boot => 5 | .psq => 7 | .clk => 3 | .ras => 5 | .dbg => 3 | .spr => 3
  | .dmv => 2

/-- The defined BLK_EVT bits that a word names. -/
def evtsOf (b : Blk) (v : Word) : List Nat := (List.range (evtBits b)).filter fun n => wbit v n

/-- One event that arrives in the cycle of a clear (R597): a bit that was 0 rises as ever; a bit that was 1 stays 1 and
its interrupt is sent. -/
def State.setOverClear (s : State) (p : Page) (old : Word) (n : Nat) : State :=
  if wbit old n then
    let s1 := s.wrAt p 0x010 (setBit (s.rdAt p 0x010) n true)
    s1.when (wbit (s.rdAt p 0x014) n) fun s => s.pageIrq p
  else s.evt p n

/-- An RW1C write of BLK_EVT, with the events that are set in the same cycle (R5, R597). -/
def State.clearEvts (s : State) (p : Page) (v setNow : Word) : State :=
  let old := s.rdAt p 0x010
  ((s.wrAt p 0x010 (old &&& ~~~v)).when (alerts p.blk) (State.alertEdge s)).each (evtsOf p.blk setNow) fun s n => s.setOverClear p old n

/-- BLK_EVT_CLEAR (R597). -/
def execBlkEvtClear (rq : Requester) (p : Page) (v : Word) (setNow : Word) (s : State) :
    Host.Outcome State Fault Refusal :=
  .next (s.withWrite rq p 0x010 v fun s => s.clearEvts p v setNow)

/-- BLK_EVT_SET (R597): the bits, their interrupts and BLOCK_EVENT records, and no record of a chapter. -/
def execBlkEvtSet (rq : Requester) (p : Page) (v : Word) (s : State) : Host.Outcome State Fault Refusal :=
  .next (s.withWrite rq p 0x018 v fun s => s.each (evtsOf p.blk v) fun s n => s.evt p n)

/-- A write to the first word of BLK_ERR_LOG: 0 clears VALID and COUNT; an error of the same cycle counts as the first
after the clear and is not captured (R559). -/
def State.clearErrLog (s : State) (p : Page) (v : Word) (errorNow : Bool) : State :=
  if v = 0 then
    (s.wrAt p 0x020 (setBit (s.rdAt p 0x020) 31 false)).wrAt p 0x024 (if errorNow then 1 else 0)
  else s

/-- ERR_LOG_CLEAR (R559). -/
def execErrLogClear (rq : Requester) (p : Page) (v : Word) (errorNow : Bool) (s : State) :
    Host.Outcome State Fault Refusal :=
  .next (s.withWrite rq p 0x020 v fun s => s.clearErrLog p v errorNow)

/-! ### Bank swaps (R525) -/

/-- The banked words of a block (R524). -/
def bankedOffs (b : Blk) : List Nat :=
  ((regRows b).filter fun r => r.banked).flatMap fun r => (List.range r.words).map fun i => r.off + 4 * i

/-- The word that a banked register holds after a swap: the shadow's, but for what a rule holds back (log entry 64). RERANK_EN, where
it would be set, waits for the effect of the swap (R249). -/
def State.swapWord (s : State) (p : Page) (off : Nat) : Word :=
  let h := if p.blk = .vse ∧ off = 0x100 ∧ wbit (s.shadowAt p off) 0 = true then 1 else s.heldBits p off
  (s.shadowAt p off &&& ~~~h) ||| (s.rdAt p off &&& h)

/-- One block's swap: the shadow bank becomes active and the new shadow is a copy of it, SHADOW_DIRTY clears, and
BLK_CFG_GEN increments (R525). -/
def State.swapBlock (s : State) (p : Page) : State :=
  let s1 := s.each (bankedOffs p.blk) fun t off => (t.wrAt p off (s.swapWord p off)).setShadow p off (s.swapWord p off)
  (s1.wrAt p 0x044 (s1.rdAt p 0x044 + 1)).updBlk p fun b => { b with dirty := false }

/-- The pages whose shadow bank was written since their last swap. -/
def State.dirtyPages (s : State) : List Page := s.allPages.filter fun p => (s.blkSt p).dirty

/-- Every block with SHADOW_DIRTY swaps unless CFG_HOLD is set; CFG_SWAPPED is posted once if any did (R525, R531). -/
def State.swapBanks (s : State) : State :=
  let ps := s.dirtyPages
  if s.rdB 0 Reg.BOOT_CFG 0 || ps.isEmpty then s
  else (s.each ps State.swapBlock).evtPriv ⟨.boot, 0⟩ 4 0xD4 0 ps.length

end Sys2Proof.Machine
end

