-- ==== Sys2Proof/Machine/Ecdsa.lean ====
section
/-! DEFINITION. ECDSA over P-256: the verification of an image's signature (R518, step 4) and the identity key of R521. -/
namespace Sys2Proof.Machine

/-- The field prime of P-256. -/
def p256P : Nat := 2 ^ 256 - 2 ^ 224 + 2 ^ 192 + 2 ^ 96 - 1

/-- The order n of P-256's base point. -/
def p256N : Nat := 0xFFFFFFFF00000000FFFFFFFFFFFFFFFFBCE6FAADA7179E84F3B9CAC2FC632551

/-- The coefficient b of P-256. -/
def p256B : Nat := 0x5AC635D8AA3A93E7B3EBBD55769886BC651D06B0CC53B0F63BCE3C3E27D2604B

/-- The base point of P-256. -/
def p256G : Nat × Nat :=
  (0x6B17D1F2E12C4247F8BCE6E563A440F277037D812DEB33A0F4A13945D898C296,
    0x4FE342E2FE1A7F9B8EE7EB4A7C0F9E162BCE33576B315ECECBB6406837BF51F5)

/-- `x ^ e` modulo `m`, over `fuel` bits of `e`. -/
def powMod (m : Nat) : Nat → Nat → Nat → Nat → Nat
  | 0, _, _, acc => acc
  | fuel + 1, x, e, acc => powMod m fuel (x * x % m) (e / 2) (if e % 2 = 1 then acc * x % m else acc)

/-- The inverse modulo a prime below 2^256. -/
def invMod (m x : Nat) : Nat := powMod m 256 (x % m) (m - 2) 1

/-- A point of the curve; none is the point at infinity. -/
abbrev EcPoint := Option (Nat × Nat)

/-- The point on a line of slope `k` through a point and the one at `x2`. -/
def ecLine (k x1 y1 x2 : Nat) : EcPoint :=
  let x := (k * k + 2 * p256P - x1 - x2) % p256P
  some (x, (k * (x1 + p256P - x) + p256P - y1) % p256P)

/-- The sum of two points. -/
def ecAdd : EcPoint → EcPoint → EcPoint
  | none, q => q
  | p, none => p
  | some (x1, y1), some (x2, y2) =>
    if x1 = x2 then
      if (y1 + y2) % p256P = 0 then none
      else ecLine ((3 * x1 * x1 + p256P - 3) * invMod p256P (2 * y1) % p256P) x1 y1 x1
    else ecLine ((y2 + p256P - y1) * invMod p256P (x2 + p256P - x1) % p256P) x1 y1 x2

/-- A multiple of a point, over `fuel` bits. -/
def ecMul : Nat → Nat → EcPoint → EcPoint → EcPoint
  | 0, _, _, acc => acc
  | fuel + 1, k, p, acc => ecMul fuel (k / 2) (ecAdd p p) (if k % 2 = 1 then ecAdd acc p else acc)

/-- Whether X and Y are a point of the curve. -/
def onCurve (x y : Nat) : Bool :=
  decide (x < p256P) && decide (y < p256P) && y * y % p256P == (x * x * x + (p256P - 3) * x + p256B) % p256P

/-- ECDSA verification over a 256-bit digest, as FIPS 186-5 defines it. -/
def ecdsaVerify (x y r s : Nat) (digest : List Byte) : Bool :=
  onCurve x y && decide (0 < r) && decide (r < p256N) && decide (0 < s) && decide (s < p256N) &&
    let w := invMod p256N s
    match ecAdd (ecMul 256 (beNat digest * w % p256N) (some p256G) none) (ecMul 256 (r * w % p256N) (some (x, y)) none) with
    | none => false
    | some v => v.1 % p256N == r

/-- The label "GNV-U1 IDENTITY" of R521. -/
def identityLabel : List Byte :=
  [0x47, 0x4E, 0x56, 0x2D, 0x55, 0x31, 0x20, 0x49, 0x44, 0x45, 0x4E, 0x54, 0x49, 0x54, 0x59]

/-- The identity key's private scalar (R521). -/
def identityKey (seed : List Byte) : Nat := 1 + beNat (hmac256 seed identityLabel) % (p256N - 1)

/-- The identity public key, X then Y (R521). -/
def identityPub (seed : List Byte) : List Byte :=
  match ecMul 256 (identityKey seed) (some p256G) none with
  | some v => beBytes 32 v.1 ++ beBytes 32 v.2
  | none => List.replicate 64 0

end Sys2Proof.Machine
end

