-- ==== Sys2Proof/Machine/LogNum.lean ====
section
/-! DEFINITION. The logarithmic number formats, their encoder and decoder, products, accumulators and the softmax side
unit (R100 to R125, R605). Linear values are exact rationals; every rounding that the spec states is made where it
states it. -/
namespace Sys2Proof.Machine

/-! ### Rounding -/

/-- The floor of log2 of a positive rational. -/
def floorLog2 (x : Rat) : Int :=
  let k : Int := (Nat.log2 x.num.toNat : Int) - (Nat.log2 x.den : Int)
  if (2 : Rat) ^ k ≤ x then k else k - 1

/-- Rounds to an integer, ties to even. -/
def rneInt (x : Rat) : Int :=
  let f := x.floor
  let d := x - (f : Rat)
  if d < 1 / 2 then f else if 1 / 2 < d then f + 1 else if f % 2 = 0 then f else f + 1

/-- Rounds to an integer, ties away from zero. -/
def rnaInt (x : Rat) : Int := if 0 ≤ x then (x + 1 / 2).floor else -((-x + 1 / 2).floor)

/-- Rounds to a binary format of `p` significand bits whose least exponent of a unit in the last place is `emin`,
ties to even, without an upper bound. -/
def rneTo (p : Nat) (emin : Int) (x : Rat) : Rat :=
  if x = 0 then 0
  else
    let a := if x < 0 then -x else x
    let e := max emin (floorLog2 a + 1 - (p : Int))
    let u := (2 : Rat) ^ e
    (rneInt (x / u) : Rat) * u

/-- The largest finite FP32. -/
def max32 : Rat := (2 ^ 24 - 1 : Nat) * (2 : Rat) ^ (104 : Int)

/-- 2^128, which stands for an infinity of FP32 with its sign: no finite FP32 holds it. -/
def inf32 : Rat := (2 : Rat) ^ (128 : Int)

/-- Normal FP32 rounding, ties to even: a result beyond the largest finite value is an infinity. -/
def rne32 (x : Rat) : Rat :=
  let y := rneTo 24 (-149) x
  if max32 < y then inf32 else if y < -max32 then -inf32 else y

/-- A value that FP32 holds as finite. -/
def finOf (x : Rat) : Option Rat := if max32 < x ∨ x < -max32 then none else some x

/-- The largest finite BF16. -/
def max16 : Rat := (2 ^ 8 - 1 : Nat) * (2 : Rat) ^ (120 : Int)

/-- Rounds to FP32; a value beyond the largest finite one becomes it (R120). -/
def sat32 (x : Rat) : Rat × Bool :=
  let y := rne32 x
  if max32 < y then (max32, true) else if y < -max32 then (-max32, true) else (y, false)

/-- Normal BF16 rounding, ties to even: a result beyond the largest finite value is an infinity. -/
def rne16 (x : Rat) : Rat :=
  let y := rneTo 8 (-133) x
  if max16 < y then inf32 else if y < -max16 then -inf32 else y

/-- Rounds to BF16; a value beyond the largest finite one becomes it (R120). -/
def sat16 (x : Rat) : Rat × Bool :=
  let y := rneTo 8 (-133) x
  if max16 < y then (max16, true) else if y < -max16 then (-max16, true) else (y, false)

/-- The value of FP32 bits; none for a NaN or an infinity. -/
def fp32Val (b : Nat) : Option Rat :=
  let e := nfld b 30 23
  let m := nfld b 22 0
  if e = 255 then none
  else
    let v : Rat := if e = 0 then (m : Rat) * (2 : Rat) ^ (-149 : Int)
      else ((m + 2 ^ 23 : Nat) : Rat) * (2 : Rat) ^ ((e : Int) - 150)
    some (if b.testBit 31 then -v else v)

/-- The FP32 bits of a value that FP32 holds, and of an infinity. A value that has become zero by rounding gives +0 whatever its sign was
(R120 states it for a zero accumulator; DESIGN CHOICE, log entry 62). -/
def fp32Bits (x : Rat) : Nat :=
  if x = 0 then 0
  else
    let a := if x < 0 then -x else x
    let e := max (-126) (floorLog2 a)
    let m := (a / (2 : Rat) ^ (e - 23)).floor.toNat
    (if x < 0 then 2 ^ 31 else 0) + (if m < 2 ^ 23 then m else ((e + 127).toNat * 2 ^ 23 + (m - 2 ^ 23)))

/-- The value of BF16 bits; none for a NaN or an infinity. -/
def bf16Val (b : Nat) : Option Rat := fp32Val (b * 65536)

/-- The BF16 bits of a value that BF16 holds. -/
def bf16Bits (x : Rat) : Nat := fp32Bits x / 65536

/-- A 32-bit pattern is a NaN. -/
def isNan32 (b : Nat) : Bool := nfld b 30 23 == 255 && nfld b 22 0 != 0

/-! ### Logarithms on a grid (R111) -/

/-- round_g: `G` × log2(|x|) rounded to the nearest integer, for a grid of 1/`G` octave. -/
def roundG (g : Nat) (x : Rat) : Int :=
  let a := if x < 0 then -x else x
  (floorLog2 (a ^ (2 * g)) + 1) / 2

/-- The largest `t` below `2 ^ fuel` more than `lo` with `t ^ 256 ≤ n`. -/
def root256From (n : Nat) : Nat → Nat → Nat
  | 0, lo => lo
  | fuel + 1, lo => if (lo + 2 ^ fuel) ^ 256 ≤ n then root256From n fuel (lo + 2 ^ fuel) else root256From n fuel lo

/-- 2 ^ (k / 256) rounded to the nearest integer, ties up, for a result below 2^40. -/
def pow256 (k : Int) : Nat := if k + 256 < 0 then 0 else (root256From (2 ^ (k + 256).toNat) 41 0 + 1) / 2

/-! ### Elements and blocks -/

/-- FTAB of R116. -/
def ftab (f : Nat) : Nat :=
  [32768, 34219, 35734, 37316, 38968, 40693, 42495, 44376, 46341, 48393, 50535, 52773, 55109, 57549, 60097,
    62757].getD f 0

/-- A decoded element: its sign and offset for products (R116), and its linear value (R110). -/
structure Elem where
  zero : Bool
  neg : Bool
  off : Int
  lin : Rat
  deriving DecidableEq, Repr, Inhabited

/-- A zero element. -/
def Elem.nil : Elem := ⟨true, false, 0, 0⟩

/-- R110: the linear value of offset `o` under SCALE `sc`; its distance from the exact logarithmic value stays within the
2^-16 of R127. -/
def linOf (neg : Bool) (o : Int) (sc : Nat) : Rat :=
  let v := rne32 ((ftab (o % 16).toNat : Rat) * (2 : Rat) ^ (o / 16 - 15 + (sc : Int) - 127))
  if neg then -v else v

/-- An element of an offset. -/
def Elem.at (neg : Bool) (o : Int) (sc : Nat) : Elem := ⟨false, neg, o, linOf neg o sc⟩

/-- The magnitude of an E4M3 value; none for NaN (R107). -/
def e4m3Mag (v : Nat) : Option Rat :=
  let e := nfld v 6 3
  let m := nfld v 2 0
  if e = 15 ∧ m = 7 then none
  else if e = 0 then some ((m : Rat) / 8 * (2 : Rat) ^ (-6 : Int))
  else some (((8 + m : Nat) : Rat) / 8 * (2 : Rat) ^ ((e : Int) - 7))

/-- The element of an outlier entry's VALUE (R107, R108, R110): a value that leaves FP32's range decodes to an infinity; a NaN
gives none. -/
def outlierElem (v sc : Nat) : Option Elem :=
  match e4m3Mag v with
  | none => none
  | some a =>
    if a = 0 then some Elem.nil
    else
      let l := rne32 (a * (2 : Rat) ^ ((sc : Int) - 127))
      some ⟨false, v.testBit 7, roundG 16 a, if v.testBit 7 then -l else l⟩

/-- R101: an L4 code that is not the escape. -/
def l4Elem (n sc : Nat) : Elem :=
  if n % 8 = 0 then Elem.nil else Elem.at (n.testBit 3) (8 * ((n % 8 : Nat) - 7 : Int)) sc

/-- R102: an L8 element, and whether it is the reserved pattern. -/
def l8Elem (n sc : Nat) : Elem × Bool :=
  if n % 128 = 0 then (Elem.nil, n.testBit 7) else (Elem.at (n.testBit 7) ((n % 128 : Nat) - 127 : Int) sc, false)

/-- R103: an L3 element, and whether it is the reserved pattern. -/
def l3Elem (n sc : Nat) : Elem × Bool :=
  if n % 4 = 0 then (Elem.nil, n.testBit 2) else (Elem.at (n.testBit 2) (16 * ((n % 4 : Nat) - 3 : Int)) sc, false)

/-- TAG of a side word: 0 L4, 1 L4O, 2 L8, 3 ZERO (R104). -/
def LBlock.tag (b : LBlock) : Nat := nfld b.side 9 8

/-- SCALE of a side word. -/
def LBlock.scale (b : LBlock) : Nat := nfld b.side 7 0

/-- The first outlier entry whose POS is `i`. -/
def outlAt (l : List Nat) (i : Nat) : Option Nat := l.find? fun e => nfld e 3 0 == i

/-- Whether an outlier list has an entry that R108 ignores: a POS without the escape, or a second entry of one POS. -/
def outlBad (code : Nat) : List Nat → Bool
  | [] => false
  | e :: l =>
    nfld code (4 * nfld e 3 0 + 3) (4 * nfld e 3 0) != 8 || (l.any fun x => nfld x 3 0 == nfld e 3 0) || outlBad code l

/-- One element of an L4 or L4O block (R101, R108), and whether FORMAT_ERR is set. -/
def l4At (b : LBlock) (code i : Nat) : Elem × Bool :=
  let n := nfld code (4 * i + 3) (4 * i)
  if n ≠ 8 then (l4Elem n b.scale, false)
  else if b.tag = 0 then (Elem.nil, true)
  else match outlAt b.outl i with
    | none => (Elem.nil, true)
    | some e => match outlierElem (nfld e 15 8) b.scale with
      | some x => (x, false)
      | none => (Elem.nil, true)

/-- The 16 elements of a block, and whether FORMAT_ERR is set (R100 to R108). -/
def LBlock.decode (b : LBlock) : List Elem × Bool :=
  let zeros := List.replicate 16 Elem.nil
  if b.tag = 3 then (zeros, false)
  else if b.scale = 255 then (zeros, true)
  else if b.tag = 2 then
    let es := ((b.code ++ b.ext).take 16).map fun x => l8Elem x.toNat b.scale
    (es.map Prod.fst, es.any Prod.snd)
  else
    let code := leNat (b.code.take 8)
    let es := (List.range 16).map fun i => l4At b code i
    (es.map Prod.fst, (es.any Prod.snd) || (b.tag == 1 && outlBad code b.outl))

/-- The linear values of a block (R110). -/
def LBlock.linear (b : LBlock) : List Rat := b.decode.1.map Elem.lin

/-- The ZERO block of a plane whose code parts have `n` bytes. -/
def LBlock.zero (n : Nat) : LBlock := ⟨0x300, List.replicate n 0, [], []⟩

/-! ### The encoder (R111 to R115) -/

/-- ARITH_FLAGS bits (R125). -/
def flSat : Nat := 1
def flClamp : Nat := 2
def flNonfinite : Nat := 4
def flFormat : Nat := 8
def flEscDenied : Nat := 16

/-- FORMAT_ERR of the blocks that an operation decodes (R125). -/
def blocksFlag (bs : List LBlock) : Nat := if bs.any fun b => b.decode.2 then flFormat else 0

/-- The OR of flag values. -/
def orFlags (l : List Nat) : Nat := l.foldl (fun a b => a ||| b) 0

/-- The magnitude of a rational. -/
def ratAbs (x : Rat) : Rat := if x < 0 then -x else x

/-- SCALE and whether it was clamped, from the top value on a grid of 1/`g` octave (R112). -/
def scaleOf (g : Nat) (m : Rat) : Nat × Bool :=
  let e := -((-(roundG g m)) / (g : Int))
  let sc := 127 + e
  if 254 < sc then (254, true) else (sc.toNat, false)

/-- The block top. -/
def topOf (sc : Nat) : Rat := (2 : Rat) ^ ((sc : Int) - 127)

/-- Whether |x| is below 2^(−142/16) × top (R113). -/
def l8Flush (x : Rat) (sc : Nat) : Bool := decide ((ratAbs x / topOf sc) ^ 8 < (2 : Rat) ^ (-71 : Int))

/-- The L4 code of a value that is not an outlier (R113). -/
def l4Code (sc : Nat) (x : Rat) : Nat :=
  if ratAbs x < topOf sc / 16 then 0
  else
    let k := min 6 (max 0 (6 + (roundG 2 x - 2 * ((sc : Int) - 127))))
    (if x < 0 then 8 else 0) + k.toNat + 1

/-- The L8 code of a value (R113). -/
def l8Code (sc : Nat) (x : Rat) : Nat :=
  if x = 0 ∨ l8Flush x sc = true then 0
  else
    let c := min 127 (max 1 (127 + (roundG 16 x - 16 * ((sc : Int) - 127))))
    (if x < 0 then 128 else 0) + c.toNat

/-- The L3 code of a value (R113). -/
def l3Code (sc : Nat) (x : Rat) : Nat :=
  if ratAbs x < topOf sc / 8 then 0
  else
    let c := min 3 (max 1 (3 + (roundG 1 x - ((sc : Int) - 127))))
    (if x < 0 then 4 else 0) + c.toNat

/-- E4M3 of a ratio x / top, rounded to nearest even on the grid extended above 448, then clamped (R113). -/
def e4m3Of (r : Rat) : Nat × Bool :=
  let a := rneTo 4 (-9) (ratAbs r)
  let s := if r < 0 then 0x80 else 0
  if 448 < a then (s + 0x7E, true)
  else if a < (2 : Rat) ^ (-6 : Int) then (s + (a * 512).floor.toNat, false)
  else
    let e := floorLog2 a
    (s + (e + 7).toNat * 8 + ((a / (2 : Rat) ^ e - 1) * 8).floor.toNat, false)

/-- The positions of 16 values by falling magnitude, the lower first among equals (R114). -/
def rankOf (xs : List Rat) : List Nat :=
  let le := fun (i j : Nat) => decide (ratAbs (xs.getD j 0) < ratAbs (xs.getD i 0)) ||
    (decide (ratAbs (xs.getD i 0) = ratAbs (xs.getD j 0)) && decide (i ≤ j))
  sortBy (List.range 16) le

/-- The FP32 sum of values in position order, rounded to nearest even at each addition; a sum of magnitudes that leaves the range
stays an infinity. -/
def sum32 (xs : List Rat) : Rat := xs.foldl (fun a x => rne32 (a + x)) 0

/-- The nibbles of an L4 code part. -/
def nibbles (ns : List Nat) : List Byte := leBytes 8 (ns.zipIdx.foldl (fun a x => a + x.1 * 2 ^ (4 * x.2)) 0)

/-- One candidate of R114: the elements at `outs` are outliers and the top comes from the next magnitude. -/
def l4Cand (xs : List Rat) (outs : List Nat) (top : Rat) : LBlock × Bool :=
  let (sc, cl) := scaleOf 2 top
  let es := sortBy outs fun a b => decide (a ≤ b)
  let vs := es.map fun i => (i, e4m3Of (xs.getD i 0 / topOf sc))
  let ns := (List.range 16).map fun i => if outs.contains i then 8 else l4Code sc (xs.getD i 0)
  (⟨(if outs.isEmpty then 0 else 0x100 + 0x400 * (outs.length - 1)) + sc, nibbles ns, [],
    vs.map fun v => v.2.1 * 256 + v.1⟩, cl || vs.any fun v => v.2.2)

/-- The magnitude of one linear-decode error: infinite where the element decodes to an infinity (R110, R114). -/
def errAt (x y : Rat) : Rat := if (finOf y).isNone then inf32 else ratAbs (rne32 (x - y))

/-- err of R114: the FP32 sum of the linear-decode errors. -/
def errOf (xs : List Rat) (b : LBlock) : Rat := sum32 ((xs.zip b.linear).map fun p => errAt p.1 p.2)

/-- Whether every element of an L4-class block is zero. -/
def l4AllZero (b : LBlock) : Bool := b.outl.isEmpty && leNat b.code == 0

/-- The best candidate of R114 among those whose outliers the list has room for: 0, 1 or 2 outliers. -/
def l4Best (xs : List Rat) (room : Nat) : Option (LBlock × Bool × Rat) :=
  let r := rankOf xs
  let m := fun n => ratAbs (xs.getD (r.getD n 0) 0)
  let cands := ([0, 1, 2].filter fun n => decide (0 < m n) && decide (n ≤ room)).map fun n =>
    let (b, cl) := l4Cand xs (r.take n) (m n)
    (b, cl, errOf xs b)
  cands.foldl (fun best c => match best with
    | none => some c
    | some b => if c.2.2 < b.2.2 then some c else some b) none

/-- The values with non-finite ones replaced by zero, and NONFINITE_IN (R111). -/
def finiteOf (xs : List (Option Rat)) : List Rat × Nat :=
  let ys := xs.map fun x => x.bind finOf
  (ys.map fun x => x.getD 0, if ys.any Option.isNone then flNonfinite else 0)

/-- A block of L8 codes in a plane whose code parts have `n` bytes: all zero codes make a ZERO block (R113, R115). -/
def encL8Fin (n : Nat) (xs : List Rat) : LBlock × Nat :=
  let m := (xs.map ratAbs).foldl max 0
  if m = 0 then (LBlock.zero n, 0)
  else
    let (sc, cl) := scaleOf 16 m
    let cs := xs.map fun x => BitVec.ofNat 8 (l8Code sc x)
    let f := if cl then flClamp else 0
    if cs.all fun b => b == 0 then (LBlock.zero n, f) else (⟨0x200 + sc, cs.take n, cs.drop n, []⟩, f)

/-- The L8 encoder (R112, R113) for a plane whose code parts have `n` bytes. With `LBlock.decode` it keeps the bounds of
R127. -/
def encL8 (n : Nat) (xs : List (Option Rat)) : LBlock × Nat :=
  let (ys, f) := finiteOf xs
  let (b, g) := encL8Fin n ys
  (b, f ||| g)

/-- Whether R115 asks for L8: 65,536 × err > ESC_THRESH × Σ|x|, both sides in FP32. Two sides that both leave the range are
equal; 0 × an infinite sum is a NaN, which nothing exceeds. -/
def escalates (thresh : Nat) (err : Rat) (xs : List Rat) : Bool :=
  let t := sum32 (xs.map ratAbs)
  decide (thresh ≠ 0xFFFF) && !(decide (thresh = 0) && decide (t = inf32)) &&
    decide (rne32 ((thresh : Rat) * t) < rne32 (65536 * err))

/-- The encoder of an L4-class block in a NARROW plane (R114, R115): `outRoom` outlier entries and `extRoom` extension
entries are free. -/
def encL4Fin (thresh outRoom extRoom : Nat) (xs : List Rat) : LBlock × Nat :=
  match l4Best xs outRoom with
  | none => (LBlock.zero 8, 0)
  | some (b, cl, err) =>
    let f := if cl then flClamp else 0
    if escalates thresh err xs then
      if extRoom = 0 then (if l4AllZero b then LBlock.zero 8 else b, f ||| flEscDenied) else encL8Fin 8 xs
    else (if l4AllZero b then LBlock.zero 8 else b, f)

/-- The encoder of an L4-class block from BF16 or FP32 values. With `LBlock.decode` it keeps the bounds of R127. -/
def encL4 (thresh outRoom extRoom : Nat) (xs : List (Option Rat)) : LBlock × Nat :=
  let (ys, f) := finiteOf xs
  let (b, g) := encL4Fin thresh outRoom extRoom ys
  (b, f ||| g)

/-- The 8 bytes of an L3 block, and its flags (R109, R112, R113). With `decL3` it keeps the bounds of R127. -/
def encL3 (xs : List (Option Rat)) : List Byte × Nat :=
  let (ys, f) := finiteOf xs
  let m := (ys.map ratAbs).foldl max 0
  if m = 0 then (List.replicate 8 0, f)
  else
    let (sc, cl) := scaleOf 1 m
    let code := ys.zipIdx.foldl (fun a x => a + l3Code sc x.1 * 2 ^ (3 * x.2)) 0
    (leBytes 6 code ++ [BitVec.ofNat 8 sc, 0], f ||| (if cl then flClamp else 0))

/-- The elements of an L3 block, and FORMAT_ERR (R103, R109). -/
def decL3 (bs : List Byte) : List Elem × Bool :=
  let code := leNat (bs.take 6)
  let sc := recNat bs 6 1
  if sc = 255 then (List.replicate 16 Elem.nil, true)
  else
    let es := (List.range 16).map fun i => l3Elem (nfld code (3 * i + 2) (3 * i)) sc
    (es.map Prod.fst, es.any Prod.snd)

/-! ### Products and accumulators (R116 to R120) -/

/-- A product term (R118). Its rounding, that of `shiftRound` at each rescale and the bounds of the two operands make the bound
of R128. -/
def term (a b : Elem) (eSum ref : Int) : Int :=
  if a.zero || b.zero then 0
  else
    let o := a.off + b.off + 16 * (eSum - ref)
    let i := o / 16
    let f := ftab (o % 16).toNat
    let mag : Int := if -5 ≤ i then (f * 2 ^ (i + 5).toNat : Nat)
      else
        let r := (-(i + 5)).toNat
        ((f + 2 ^ (r - 1)) / 2 ^ r : Nat)
    if a.neg != b.neg then -mag else mag

/-- The block-pair top T (R117); none if either block is ZERO. -/
def pairTop (a b : LBlock) : Option Int :=
  if a.tag = 3 ∨ b.tag = 3 then none
  else some ((a.scale : Int) - 127 + ((b.scale : Int) - 127) + (if a.tag = 1 ∨ b.tag = 1 then 9 else 0))

/-- Rescales a magnitude down by `d` bits, to nearest, ties up (R119). -/
def shiftRound (a : Int) (d : Nat) : Int :=
  if d = 0 then a
  else if 32 ≤ d then 0
  else
    let r : Int := ((a.natAbs + 2 ^ (d - 1)) / 2 ^ d : Nat)
    if a < 0 then -r else r

/-- Raises ACC_REF to meet a tile's largest T + H, or sets it on the first tile (R117, R119). -/
def Acc.meet (x : Acc) (t : Option Int) : Acc :=
  match t with
  | none => x
  | some t =>
    if !x.live then { x with ref := t, live := true }
    else if x.sat || decide (t ≤ x.ref) then x
    else { x with a := shiftRound x.a (t - x.ref).toNat, ref := t }

/-- Adds terms that arrive in one cycle, and saturates (R119). -/
def Acc.add (x : Acc) (v : Int) : Acc :=
  if x.sat then x
  else
    let s := x.a + v
    if 2 ^ 31 - 1 < s then { x with a := 2 ^ 31 - 1, sat := true }
    else if s < -(2 ^ 31 - 1) then { x with a := -(2 ^ 31 - 1), sat := true }
    else { x with a := s }

/-- The exact value of an accumulator (R117). -/
def Acc.val (x : Acc) : Rat := (x.a : Rat) * (2 : Rat) ^ (x.ref - 20)

/-- One dot product of two block lists, accumulated element by element in order (R116 to R119). -/
def dotBlocks (qs ks : List LBlock) : Acc :=
  let ps := qs.zip ks
  let t := (ps.filterMap fun p => pairTop p.1 p.2).foldl (fun m t => some (max t (m.getD t))) none
  ps.foldl (fun acc p =>
    let e := (p.1.scale : Int) - 127 + ((p.2.scale : Int) - 127)
    if p.1.tag = 3 ∨ p.2.tag = 3 then acc
    else (p.1.decode.1.zip p.2.decode.1).foldl (fun acc x => acc.add (term x.1 x.2 e acc.ref)) acc)
    ((default : Acc).meet t)

/-! ### Softmax (R121 to R124) -/

/-- log2(e), to 2^-60. -/
def log2e : Rat := (1663314137230540311 : Rat) / (2 : Rat) ^ (60 : Int)

/-- The free error of the side unit's product, held within the relative 2^-24 of R121 (log entry 6). -/
def relErr (s a : Rat) : Rat :=
  let b : Rat := (2 : Rat) ^ (-24 : Int) - (2 : Rat) ^ (-50 : Int)
  max (-b) (min b (Config.sideErr s a))

/-- z of R121 for α × score (with its position bias added, R155), and whether it was clamped. -/
def zOf (s alpha bias : Rat) : Int × Bool :=
  let z := rnaInt ((s * alpha + bias) * log2e * 256 * (1 + relErr s alpha))
  if 2 ^ 31 - 1 < z then (2 ^ 31 - 1, true) else if z < -(2 ^ 31 - 1) then (-(2 ^ 31 - 1), true) else (z, false)

/-- A rescale by 2^(−u/256) of a magnitude (R122). -/
def rescaleNat (u x : Nat) : Nat :=
  let q := (u + 255) / 256
  let g := 256 * q - u
  let p := x * pow256 (15 * 256 + g)
  (p + 2 ^ (14 + q)) / 2 ^ (15 + q)

/-- A rescale of a signed number; a negative exponent rescales upward. -/
def rescaleInt (u : Nat) (a : Int) : Int :=
  let r : Int := rescaleNat u a.natAbs
  if a < 0 then -r else r

/-- A rescale of an accumulator by 2^(−u/256); a saturated one is left as it is (R119). -/
def Acc.rescale (x : Acc) (u : Nat) : Acc := if x.sat then x else { x with a := rescaleInt u x.a }

/-- The weight of y = z − m, in units of 2^-24 (R122, step 3). -/
def weightOf (y : Int) : Nat := if y < -16384 then 0 else pow256 (24 * 256 + y)

/-- λl = round(256 × log2(l × 2^-24)), ties up (R123). -/
def lambdaOf (l : Nat) : Int := roundG 256 ((l : Rat) / (2 : Rat) ^ (24 : Int))

/-- The grid offset of a probability: its logarithm in 1/256 octave rounded to 1/16 octave, ties to the larger
magnitude (R123). -/
def probOff (y : Int) : Int := -(((-y).toNat + 8) / 16 : Nat)

/-- The L8 block of up to 16 probabilities, each given by y and by the logarithm of its probability, in 1/256 octave; none is no
weight, and y below −16,384 is flushed (R122, R123). The probabilities lie within the bound of R129. -/
def probBlock (ys : List (Option (Int × Int))) : LBlock :=
  let ps := (padToList 16 none ys).map fun y => (y.filter fun y => decide (-16384 ≤ y.1)).map Prod.snd
  match (ps.filterMap id).foldl (fun m p => some (max (probOff p) (m.getD (probOff p)))) none with
  | none => LBlock.zero 16
  | some top =>
    let e := -((-top) / 16)
    let sc := (127 + e).toNat
    let cs := ps.map fun p => match p with
      | none => (0 : Byte)
      | some p => if p - 256 * e < -2272 then 0 else BitVec.ofNat 8 (max 1 (127 + (probOff p - 16 * e))).toNat
    ⟨0x200 + sc, cs, [], []⟩

end Sys2Proof.Machine
end

