-- ==== Sys2Proof/Machine/Clock.lean ====
section
/-! DEFINITION. TIM: the time of day, synchronisation, the timing pins, and the start and stop of the cadence
(R16 to R29, R40, R41, R49 to R51). -/
namespace Sys2Proof.Machine

/-- TIM's page. -/
def timPage : Page := ⟨.tim, 0⟩

/-- Sets TIM's own state. -/
def State.setTim (s : State) (f : Tim → Tim) : State := { s with tim := f s.tim }

/-- REALIGN_PENDING sets where |CAD_ERR_NS| of a running cadence exceeds 32 PU: after a step, and after a change of the
period (R41). -/
def State.checkRealign (s : State) : State :=
  s.when (s.tim.cad == .running && s.errTooBig) fun s => s.setTim fun t => { t with realign := true }

/-- A step of ToD by `d` ns: the cadence does not jump, CAD_ERR_NS takes the difference while the cadence runs, and
REALIGN_PENDING follows R41. While the cadence is STOPPED or WAITING the error is held at 0 (R26). A step below 0 leaves ToD
at 0 (DESIGN CHOICE, log entry 51). -/
def State.stepTod (s : State) (d : Int) : State :=
  let tod := (s.tim.tod + d).toNat
  let running := s.tim.cad == .running || s.tim.cad == .extended
  let s1 := s.setTim fun t =>
    { t with tod := tod, err := if running then t.err - ((tod : Int) - t.tod) else 0 }
  s1.checkRealign

/-- TOD_SET_* in nanoseconds; a TOD_SET_NS of 10^9 and more carries into the seconds (DESIGN CHOICE, log entry 51). -/
def State.todSetNs (s : State) : Nat :=
  (s.rdN 0 Reg.TOD_SET_SEC_LO + 2 ^ 32 * s.rdF 0 Reg.TOD_SET_SEC_HI 15 0) * 1000000000 + s.rdN 0 Reg.TOD_SET_NS

/-- TOD_STEP_NS, signed. -/
def State.todStepNs (s : State) : Int := signedOf 32 (s.rdN 0 Reg.TOD_STEP_NS)

/-- TOD_CTRL with SET, and with STEP too if both bits are written: SET first, TOD_STEPPED once (R16, R51). -/
def State.doTodSet (s : State) (alsoStep : Bool) : State :=
  (s.stepTod ((s.todSetNs : Int) + (if alsoStep then s.todStepNs else 0) - s.tim.tod)).evt timPage 7

/-- TOD_SET (R16). -/
def execTodSet (rq : Requester) (alsoStep : Bool) (s : State) : Host.Outcome State Fault Refusal :=
  .next (s.onWrite rq 0 Reg.TOD_CTRL (if alsoStep then 3 else 1) fun s => s.doTodSet alsoStep)

/-- TOD_STEP (R16). -/
def execTodStep (rq : Requester) (s : State) : Host.Outcome State Fault Refusal :=
  .next (s.onWrite rq 0 Reg.TOD_CTRL 2 fun s => (s.stepTod s.todStepNs).evt timPage 7)

/-- A read with a side effect: nothing happens and 0 is answered where the requester does not reach the page, or that the request is
unsupported where its function is not enabled (R467). -/
def State.sideRead (s : State) (rq : Requester) (p : Page) (v : State → Word) (latch : State → State) : State :=
  if s.canRead rq p then (latch s).emit (.readData (v s))
  else if (s.ldOff rq).isSome then s.ioUr rq
  else s.emit (.readData 0)

/-- The seconds of a time in nanoseconds, latched into a register pair whose high word holds 16 bits (R17). -/
def State.latchSec (s : State) (r : RegId) (t : Nat) : State :=
  (s.wr 0 r (lo32 (t / 1000000000))).wrAt ⟨r.blk, 0⟩ (r.off + 4) (BitVec.ofNat 32 (t / 1000000000 / 2 ^ 32 % 2 ^ 16))

/-- TOD_NS_READ (R17). -/
def execTodNsRead (rq : Requester) (s : State) : Host.Outcome State Fault Refusal :=
  .next (s.sideRead rq timPage (fun s => lo32 (s.tim.tod % 1000000000)) fun s =>
    s.latchSec Reg.TOD_SEC_LO s.tim.tod)

/-- The phase unit that CAD_PHASE shows: 4095 in an extended Midnight and after a stop (R26, R29). -/
def State.curPu (s : State) : Nat :=
  if s.tim.cad == .extended || (s.tim.cad == .stopped && s.tim.ran) then 4095 else s.puOf s.cadTime

/-- The window that holds a phase unit (R30). -/
def State.winOfPu (s : State) (pu : Nat) : Window :=
  if pu < s.winStartPu .noon then .dawn
  else if pu < s.winStartPu .dusk then .noon
  else if pu < s.winStartPu .midnight then .dusk else .midnight

/-- The number of a window in CAD_PHASE (R50). -/
def Window.code : Window → Nat
  | .dawn => 0 | .noon => 1 | .dusk => 2 | .midnight => 3

/-- The day number that a CAD_PHASE read latches (R17, R26, R29). -/
def State.curDay (s : State) : Nat :=
  if s.tim.cad == .extended || (s.tim.cad == .stopped && s.tim.ran) then s.tim.day else s.dayOf s.cadTime

/-- CAD_PHASE (R50). -/
def State.cadPhase (s : State) : Word :=
  let w := s.winOfPu s.curPu
  BitVec.ofNat 32 (fieldAt 0 12 s.curPu + fieldAt 12 2 w.code +
    fieldAt 14 1 (b2n (decide (s.winEndPu w - s.guardPu w ≤ s.curPu))))

/-- CAD_PHASE_READ (R17). -/
def execCadPhaseRead (rq : Requester) (s : State) : Host.Outcome State Fault Refusal :=
  .next (s.sideRead rq timPage (fun s => s.cadPhase) fun s => s.wr64 0 Reg.CAD_DAY_LO s.curDay)

/-- PPS_IN_NS_READ (R17). -/
def execPpsInNsRead (rq : Requester) (s : State) : Host.Outcome State Fault Refusal :=
  .next (s.sideRead rq timPage (fun s => lo32 (s.tim.ppsStamp % 1000000000)) fun s =>
    s.latchSec Reg.PPS_IN_SEC_LO s.tim.ppsStamp)

/-- The drift estimate of R23 exceeds 1 PU of the active period, `el` ns after the last report. -/
def State.driftOver (s : State) (el : Nat) : Bool :=
  decide (s.periodNs * 1000000000 <
    (s.tim.lastOffset.natAbs * 1000000000 + s.rdF 0 Reg.HOLD_PPB 15 0 * el) * 4096)

/-- DRIFT_EST_NS (R23), saturating. -/
def State.driftEst (s : State) : Nat :=
  min (2 ^ 32 - 1)
    (s.tim.lastOffset.natAbs + s.rdF 0 Reg.HOLD_PPB 15 0 * (s.tim.now - s.tim.lastReport) / 1000000000)

/-- TIME_DEGRADED rises when the drift estimate passes 1 PU outside LOCKED (R23). -/
def State.checkDrift (s : State) : State :=
  s.when (s.tim.sync != .locked && !s.tim.degraded && s.driftOver (s.tim.now - s.tim.lastReport)) fun s =>
    (s.setTim fun t => { t with degraded := true }).evt timPage 2

/-- Enters LOCKED: LOCK_ACQUIRED is posted and TIME_DEGRADED clears (R22, R23). -/
def State.enterLocked (s : State) : State :=
  (s.setTim fun t => { t with sync := .locked, degraded := false }).evt timPage 0

/-- Enters HOLDOVER: LOCK_LOST is posted (R22). The count of good reports stays as it is (DESIGN CHOICE, log entry 51). -/
def State.enterHoldover (s : State) : State :=
  (s.setTim fun t => { t with sync := .holdover, holdSince := t.now }).evt timPage 1

/-- A servo report (R22): good, bad beyond 8 times the threshold, or between. -/
def State.servoReport (s : State) (off : Int) : State :=
  let thr := s.rdF 0 Reg.LOCK_CFG 15 0
  let s1 := s.setTim fun t => { t with lastOffset := off, lastReport := t.now }
  if off.natAbs ≤ thr then
    let s2 := s1.setTim fun t => { t with goodCount := min 255 (t.goodCount + 1) }
    if s.rdF 0 Reg.LOCK_CFG 23 16 ≤ s2.tim.goodCount && s2.tim.sync != .locked then s2.enterLocked else s2.checkDrift
  else
    let s2 := s1.setTim fun t => { t with goodCount := 0 }
    if 8 * thr < off.natAbs && s2.tim.sync == .locked then s2.enterHoldover.checkDrift else s2.checkDrift

/-- SERVO_OFFSET (R22). -/
def execServoOffset (rq : Requester) (v : Word) (s : State) : Host.Outcome State Fault Refusal :=
  .next (s.onWrite rq 0 Reg.SERVO_OFFSET_NS v fun s => s.servoReport (signedOf 32 v.toNat))

/-- LOSS_TIMEOUT (R22, R50): time passes until LOSS_TIMEOUT after the last report; 0 disables it. -/
def execLossTimeout (s : State) : Host.Outcome State Fault Refusal :=
  let t := s.rdF 0 Reg.LOCK_CFG 31 24
  .next (s.when (s.tim.sync == .locked && t != 0) fun s =>
    (s.passToNow (s.tim.lastReport + t * 10000000)).enterHoldover)

/-- HOLDOVER_TIMEOUT (R22): two seconds in HOLDOVER. -/
def execHoldoverTimeout (s : State) : Host.Outcome State Fault Refusal :=
  .next (s.when (s.tim.sync == .holdover) fun s =>
    ((s.passToNow (s.tim.holdSince + 2000000000)).setTim fun t => { t with sync := .freeRunning }).evt timPage 3)

/-- The elapsed nanoseconds since the last report after which the drift estimate passes 1 PU, if it ever does. -/
def State.driftDue (s : State) : Option Nat :=
  let need := s.periodNs * 1000000000
  let have_ := s.tim.lastOffset.natAbs * 1000000000 * 4096
  let rate := s.rdF 0 Reg.HOLD_PPB 15 0 * 4096
  if need < have_ then some 0 else if rate = 0 then none else some ((need - have_) / rate + 1)

/-- TIME_DEGRADED (R23): time passes until the drift estimate passes 1 PU. -/
def execTimeDegraded (s : State) : Host.Outcome State Fault Refusal :=
  .next (match s.driftDue with
    | none => s
    | some el =>
      s.when (s.tim.sync != .locked && !s.tim.degraded) fun s => (s.passToNow (s.tim.lastReport + el)).checkDrift)

/-- PPS_IN_EDGE (R21, R49, R50): PPS_PRESENT sets, and with IN_EN the edge is timestamped. -/
def execPpsInEdge (s : State) : Host.Outcome State Fault Refusal :=
  let s1 := s.setTim fun t => { t with ppsPresent := true, ppsAt := t.now }
  .next (s1.when (s.rdB 0 Reg.PPS_CFG 19) fun s =>
    (s.setTim fun t => { t with ppsStamp := t.tod }).wr 0 Reg.PPS_IN_NS (lo32 (s.tim.tod % 1000000000)))

/-- PPS_MISSING (R49, R50): 1.1 s without an edge. -/
def execPpsMissing (s : State) : Host.Outcome State Fault Refusal :=
  .next (s.when s.tim.ppsPresent fun s =>
    let s1 := (s.passToNow (s.tim.ppsAt + 1100000000)).setTim fun t => { t with ppsPresent := false }
    s1.when (s1.rdB 0 Reg.PPS_CFG 19) fun s => s.evt timPage 5)

/-- The index, from the origin, of the first boundary of ToD at or after a time (R26). -/
def State.boundaryFrom (s : State) (t : Int) : Int := -((s.originNs - t) / (s.periodNs : Int))

/-- The day that an extension leads to: the first whose aligned start ToD has not passed, after the current day (R41). -/
def State.realignDay (s : State) : Nat := max (s.tim.day + 1) ((s.dayBase : Int) + s.boundaryFrom s.tim.tod).toNat

/-- ToD at the aligned boundary that ends an extension (R41). -/
def State.realignTod (s : State) : Nat := ((s.originNs : Int) + ((s.realignDay : Int) - s.dayBase) * s.periodNs).toNat

/-- CAD_RUN. -/
def State.cadRun (s : State) : Bool := s.rdB 0 Reg.CAD_CTRL 0

/-- Time passes until the next day start, the present instant included (R21): the boundary of cadence time, or the end of the
extension that a pending realignment gives Midnight (R41). -/
def State.passToDayStart (s : State) : State :=
  let next := s.dayStart (s.cadTime + s.periodNs - 1)
  if s.tim.cad == .extended then s.passToTod s.realignTod
  else if s.tim.cad == .running && s.tim.realign && s.cadRun && decide (s.dayEndCad ≤ next) then
    let s1 := s.passToCad s.dayEndCad
    s1.passToTod s1.realignTod
  else s.passToCad next

/-- The ToD of the next whole second, the present instant included. -/
def State.nextSecond (s : State) : Nat := ceilDiv s.tim.tod 1000000000 * 1000000000

/-- PPS_OUT_PULSE (R21, R50): with OUT_EN, a pulse starts at the next whole second, or at the next day start. -/
def execPpsOutPulse (s : State) : Host.Outcome State Fault Refusal :=
  .next (s.when (s.rdB 0 Reg.PPS_CFG 20 && !s.tim.ppsOut) fun s =>
    let s1 := if s.rdB 0 Reg.PPS_CFG 21 then s.passToDayStart else s.passToTod s.nextSecond
    (s1.setTim fun t => { t with ppsOut := true, ppsOutAt := t.now }).emit (.pin "PPS_OUT" true))

/-- The width of a PPS_OUT pulse in ns (R50): P/2 in place of a width not less than P under OUT_SRC 1. -/
def State.ppsWidth (s : State) : Nat :=
  let w := s.rdF 0 Reg.PPS_CFG 18 0 * 1000
  if s.rdB 0 Reg.PPS_CFG 21 && decide (s.periodNs ≤ w) then s.periodNs / 2 else w

/-- PPS_PULSE_END (R50). -/
def execPpsPulseEnd (s : State) : Host.Outcome State Fault Refusal :=
  .next (s.when s.tim.ppsOut fun s =>
    ((s.passToNow (s.tim.ppsOutAt + s.ppsWidth)).setTim fun t => { t with ppsOut := false }).emit
      (.pin "PPS_OUT" false))

/-- Setting CAD_RUN (R28, R29): a stopped cadence waits for the next boundary; a pending stop is cancelled. -/
def State.cadRunSet (s : State) : State :=
  let s1 := s.wr 0 Reg.CAD_CTRL 1
  s1.when (s.tim.cad == .stopped) fun s => s.setTim fun t => { t with cad := .waiting, runSet := t.tod, err := 0, slew := 0 }

/-- CAD_RUN_SET (R28, R29). -/
def execCadRunSet (rq : Requester) (s : State) : Host.Outcome State Fault Refusal :=
  .next (s.onWrite rq 0 Reg.CAD_CTRL 1 State.cadRunSet)

/-- Clearing CAD_RUN (R29): a waiting cadence stops at once; a running or extended one stops at its boundary. -/
def State.cadRunClear (s : State) : State :=
  let s1 := s.wr 0 Reg.CAD_CTRL 0
  s1.when (s.tim.cad == .waiting) fun s => s.setTim fun t => { t with cad := .stopped }

/-- CAD_RUN_CLEAR (R29). -/
def execCadRunClear (rq : Requester) (s : State) : Host.Outcome State Fault Refusal :=
  .next (s.onWrite rq 0 Reg.CAD_CTRL 0 State.cadRunClear)

/-- TIM_STATUS (R49). -/
def State.timStatus (s : State) : Word :=
  BitVec.ofNat 32 (
    (match s.tim.sync with | .freeRunning => 0 | .locked => 1 | .holdover => 2) +
    fieldAt 2 1 (b2n s.tim.degraded) + fieldAt 3 1 (b2n s.tim.ref10m) + fieldAt 4 1 (b2n s.tim.ppsPresent) +
    fieldAt 5 1 (b2n s.tim.realign) +
    fieldAt 6 2 (match s.tim.cad with | .stopped => 0 | .waiting => 1 | .running => 2 | .extended => 3))

end Sys2Proof.Machine
end

