-- ==== Sys2Proof/Machine/Snoop.lean ====
section
/-! DEFINITION. CMP's back-invalidate filter as every access to device memory meets it (R476, R477). -/
namespace Sys2Proof.Machine

/-- Whether accesses can be served at once: no host holds their lines against them, and none waits for those lines (R477). -/
def State.snoopClear (s : State) (l : List Touch) : Bool :=
  (s.needSnoops l).isEmpty && !(l.any fun t => s.lineWaits t.1 t.2.1)

/-- An access of the device is served only once no host holds its lines, and none waits for them that came before it; until then its
BISnp go out (R477). -/
def State.afterSnoops (s : State) (l : List Touch) (f : State → State) : State :=
  if s.snoopClear l then f s else s.each (s.needSnoops l) fun s x => s.bisnp x.2.1 x.1 x.2.2

end Sys2Proof.Machine
end

