-- ==== Sys2Proof/Machine/Zrb.lean ====
section
/-! DEFINITION. ZRB: what accesses to device memory through the codec post, coded transfers, and its commands (R257 to R279). -/
namespace Sys2Proof.Machine

/-- ZRB's page of a channel. -/
def zrbPage (c : Nat) : Page := ⟨.zrb, c⟩

/-! ### Accesses (R259, R270 to R273) -/

/-- Posts what an access of a job left to be posted: REGION_READY, and BLOCK_POISONED to the job (R259, R273, R277). -/
def State.zPost (s : State) (job : Nat) (l : List ZNote) : State :=
  s.each l fun s n => match n with
    | .ready c _ => s.evt (zrbPage c) 1
    | .bad c e a => (s.deferred (zrbPage c) 0x20 job a).evtJob c .zrb 0 0x50 e 0 0xFFFF (job % noJob) a

/-- What a read of one coded block does beside: its counts, and on a mismatch the POISON header and BLOCK_POISONED
(R268, R273). -/
def State.zTouch (s : State) (job : Nat) (z : ZRegion) (a : Nat) : State :=
  let r := s.zCheck z a
  r.1.zPost job r.2

/-- A read of T2 that brings poison is a deferred error of its host port (R481, R558). -/
def State.t2Poison (s : State) (job a n : Nat) : State :=
  s.when (inT2 a && n != 0 && s.vpoison a n) fun s => s.deferred ⟨.cxh, (s.t2Port a).getD 0⟩ 0x21 job a

/-- What a read of a range does beside answering its bytes: the requests by which T2 is reached (R480), and what the block coding counts
and posts. -/
def State.touch (s : State) (job a n : Nat) : State :=
  ((s.t2Send job a n false).t2Poison job a n).each (piecesOf a n) fun s p => match s.zrbRegion p.1 with
    | some z => s.zTouch job z p.1
    | none => s

/-- Writes bytes at a state address for a job: directly outside coded regions under R606, and through the codec inside them. -/
def State.hwrite (s : State) (a : Nat) (bs : List Byte) (job : Nat := noJob) : State :=
  let r := s.cwrite a bs
  r.1.zPost job r.2

/-- A write of the device: it is made once no host holds its lines (R477). -/
def State.vwrite (s : State) (a : Nat) (bs : List Byte) (job : Nat := noJob) : State :=
  let r := s.dcode a bs job
  r.1.zPost job r.2

/-- Writes a range as poison: marked lines outside regions, POISON headers inside (R276, R606). -/
def State.hmark (s : State) (a n : Nat) : State :=
  s.each (piecesOf a n) fun s p => match s.zrbRegion p.1 with
    | some z =>
      let r := s.zReady z
      (r.1.setZHdr z p.1 ⟨3, 0, 16, (r.1.zHdr z p.1).tokens, 0⟩).zPost noJob r.2
    | none => s.mpoison p.1 p.2

/-- A write of poison by the device: it is made once no host holds its lines (R477). -/
def State.vmark (s : State) (a n : Nat) : State :=
  if s.writeWaits a n then s.holdWrite ⟨devLd, 0, a, true, 0, [], 0, noJob, n⟩ else s.hmark a n

/-- Zeros written by the device over a range of T1, through the codec where a region has a part of it. -/
def State.dzero (s : State) (a n : Nat) : State :=
  if (piecesOf a n).any (fun p => (s.zrbRegion p.1).isSome) || s.writeWaits a n then s.vwrite a (List.replicate n 0)
  else { s with mem := s.mem.zero a n }

/-! ### Coded transfers (R274 to R276) -/

/-- One coded unit: its header and the bytes after it. -/
structure ZUnit where
  hdr : ZHdr
  data : List Byte
  deriving DecidableEq, Repr, Inhabited

/-- The unit of one block of `k` raw bytes at `a`: as it is stored in a region, a POISON block with its own header; encoded, or
RAW, outside (R275). `i` is the block's index in the transfer and `tb` TOKEN_BYTES. -/
def State.unitAt (s : State) (code : Bool) (tb i a k : Nat) : ZUnit :=
  let plain := fun (raw : List Byte) =>
    if code then let (h, d) := zBlock 15 (tokensOf tb i k) raw; ZUnit.mk h d
    else ⟨⟨0, 0, k / 32, tokensOf tb i k, (crc32c raw).toNat⟩, raw⟩
  match s.zrbRegion a with
  | some z =>
    let h := s.zHdr z a
    match s.zRead z a with
    | .error _ => ⟨⟨3, 0, k / 32, h.tokens, 0⟩, []⟩
    | .ok raw =>
      if k = 512 ∧ a % 512 = 0 then
        ⟨h, match h.tag with
          | 0 => raw
          | 1 => s.mread a (32 * h.k)
          | _ => []⟩
      else plain ((raw.drop (a % 512)).take k)
  | none =>
    if (s.piece a k).2 then ⟨⟨3, 0, k / 32, tokensOf tb i k, 0⟩, []⟩ else plain (s.mread a k)

/-- The blocks of a range of a transfer from its block `i` on: the index, the address and the length of each. -/
def blocksFrom (i a n : Nat) : List (Nat × Nat × Nat) :=
  (List.range (ceilDiv n 512)).map fun x => (i + x, a + 512 * x, min 512 (n - 512 * x))

/-- The blocks of a transfer over ranges, from its byte `off` on. -/
def rangeBlocks (off : Nat) : List (Nat × Nat) → List (Nat × Nat × Nat)
  | [] => []
  | (a, n) :: l => blocksFrom (off / 512) a n ++ rangeBlocks (off + n) l

/-- TX_CODE (R275). -/
def State.txCode (s : State) (c : Nat) : Bool := s.rdB c Reg.ZRB_CFG 8

/-- The units that channel `c` forms of ranges, from byte `off` of the transfer on (R274, R275). No register or record gives a
transfer its TOKEN_BYTES: it is a free value of the source (R262; log entry 60). -/
def State.unitsOf (s : State) (c off : Nat) (l : List (Nat × Nat)) : List ZUnit :=
  (rangeBlocks off l).map fun b => s.unitAt (s.txCode c) (Config.tokenBytes c) b.1 b.2.1 b.2.2

/-- The raw bytes of a unit, or the cause of R272; 5 for a unit that arrived as POISON (R276, R277). -/
def unitRaw (u : ZUnit) : Except Nat (List Byte) :=
  match u.hdr.tag with
  | 2 => .ok (List.replicate (32 * u.hdr.rawLen) 0)
  | 3 => .error 5
  | 1 =>
    if u.hdr.rawLen = 0 ∨ 16 < u.hdr.rawLen then .error 1 else zExpand u.hdr u.data
  | _ =>
    if u.hdr.rawLen = 0 ∨ 16 < u.hdr.rawLen then .error 1
    else if (crc32c u.data).toNat ≠ u.hdr.crc then .error 3
    else .ok u.data

/-- Counts a block that is stored in a region by its TAG (R278). -/
def State.countStored (s : State) (c tag : Nat) : State :=
  match tag with
  | 0 => s.bump c Reg.ZRB_RAW_CNT
  | 1 => s.bump c Reg.ZRB_CMP_CNT
  | 2 => s.bump c Reg.ZRB_ZERO_CNT
  | _ => s

/-- Raw bytes of a unit; one whose RAW_LEN is none stands for a whole block. -/
def ZUnit.rawBytes (u : ZUnit) : Nat := if u.hdr.rawLen = 0 ∨ 16 < u.hdr.rawLen then 512 else 32 * u.hdr.rawLen

/-- Whether a unit is stored as it arrived: a whole block of a region whose lines no host holds. A unit shorter than a block is merged
into its block instead, since a header in a region always has RAW_LEN 16 (R263; DEDUCED, log entry 60). -/
def State.storesUnit (s : State) (a : Nat) (u : ZUnit) : Bool := u.rawBytes == 512 && a % 512 == 0 && !s.writeWaits a 512

/-- Places one unit at an address: as it arrived into a coded region, with its TOKENS (R262), expanded elsewhere; one that fails its
check is placed as poison and posted to the job that owns the destination (R276). `c` is the channel that receives it, whose ZRB checks
it: a ZRB unit is expanded for that, and one that fails is a mismatch. -/
def State.placeUnit (s : State) (c job a : Nat) (u : ZUnit) : State :=
  let s0 := s.when (u.hdr.tag == 1) fun s => s.bump c Reg.ZRB_EXP_CNT
  match unitRaw u with
  | .error e =>
    let s1 := s0.when (e != 5) fun s => (s.deferred (zrbPage c) 0x20 job a).bump c Reg.ZRB_MISMATCH_CNT
    (match s1.zrbRegion a with
      | some z =>
        if s1.storesUnit a u then
          let r := s1.zReady z
          (r.1.setZHdr z a ⟨3, 0, 16, u.hdr.tokens, 0⟩).zPost job r.2
        else s1.vmark a u.rawBytes
      | none => s1.vmark a u.rawBytes).evtJob c .zrb 0 0x50 e 0 0xFFFF (job % noJob) a
  | .ok raw =>
    match s0.zrbRegion a with
    | some z =>
      if s0.storesUnit a u then
        let r := s0.zReady z
        (((r.1.putSectors a u.data).setZHdr z a u.hdr).countStored z.c u.hdr.tag).zPost job r.2
      else s0.vwrite a raw job
    | none => s0.vwrite a raw job

/-- Places the units of a transfer over ranges, from its byte `off` on (R276). -/
def State.placeOver (s : State) (c job off : Nat) (l : List (Nat × Nat)) (us : List ZUnit) : State :=
  s.each ((rangeBlocks off l).zip us) fun s x => s.placeUnit c job x.1.2.1 x.2



/-! ### Commands -/

/-- The headers that initialisation writes, for a region of `n` blocks (R259). -/
def zeroHeaders (n : Nat) : List Byte := (List.range n).flatMap fun _ => leBytes 8 zhdrZero

/-- A write of ENABLE 1 to a region: the fields of the write are stored, every header becomes ZERO, and the region is
initialising (R259). While ENABLE is 1, only ENABLE can be written. -/
def State.zrbEnable (s : State) (c : Nat) (v : Word) : State :=
  let r := s.rdN c Reg.ZRB_RGN_SEL
  if s.rdB c Reg.ZRB_RGN_CFG 0 r then
    s.when (fld (v &&& 0xFFFFFF1F) 31 1 != s.rdF c Reg.ZRB_RGN_CFG 31 1 r) fun s => s.logIgnored (zrbPage c) 0x10C v
  else
    ((s.store c Reg.ZRB_RGN_CFG (setBit v 0 true)).wr c Reg.ZRB_RGN_STAT 2 r).mwrite (s.rd64 c Reg.ZRB_RGN_SIDE_LO r)
      (zeroHeaders (32 * s.rdF c Reg.ZRB_RGN_SLOTS 21 0 r))

/-- REGION_ENABLE (R259). -/
def execRegionEnable (rq : Requester) (c : Nat) (v : Word) (s : State) : Host.Outcome State Fault Refusal :=
  .next (s.onWrite rq c Reg.ZRB_RGN_CFG (setBit v 0 true) fun s => s.zrbEnable c v)

/-- REGION_READY (R259). -/
def execRegionReady (c r : Nat) (s : State) : Host.Outcome State Fault Refusal :=
  .next (s.when (s.rdB c Reg.ZRB_RGN_STAT 1 r && s.rdB c Reg.ZRB_RGN_CFG 0 r) fun s =>
    (s.wr c Reg.ZRB_RGN_STAT 1 r).evt (zrbPage c) 1)

/-- WR_WAIT_EXPIRY (R269): the write of `data` at `a`, of a whole block or merged into one (R270), found no lane in time and is stored
RAW. -/
def execWrWaitExpiry (c a : Nat) (data : List Byte) (s : State) : Host.Outcome State Fault Refusal :=
  .next (match s.zrbRegion a with
    | none => s
    | some z =>
      s.when (z.c == c && decide (0 < data.length) && decide (a % 512 + data.length ≤ 512)) fun s =>
        let r := s.zWrite z a data true
        r.1.zPost noJob r.2)

end Sys2Proof.Machine
end

