-- ==== Sys2Proof/Machine/Plan.lean ====
section
/-! DEFINITION. PLN: the plan image, its checks, and the three plan banks (R31, R42 to R48, R52). -/
namespace Sys2Proof.Machine

/-- PLN's page. -/
def plnPage : Page := ⟨.pln, 0⟩

/-- Sets PLN's own state. -/
def State.setPln (s : State) (f : Pln → Pln) : State := { s with pln := f s.pln }

/-- R31: the window bounds and guards of a plan are valid. -/
def windowsValid (winA winB guards : Nat) : Bool :=
  let n := nfld winA 11 0
  let d := nfld winA 23 12
  let m := nfld winB 11 0
  let g0 := nfld guards 5 0
  let g1 := nfld guards 13 8
  let g2 := nfld guards 21 16
  let g3 := nfld guards 29 24
  decide (1 ≤ n ∧ n < d ∧ d < m ∧ m ≤ 4095) && decide (g0 ≤ 32 ∧ g1 ≤ 32 ∧ g2 ≤ 32 ∧ g3 ≤ 32) &&
    decide (g0 + 1 ≤ n ∧ g1 + 1 ≤ d - n ∧ g2 + 1 ≤ m - d ∧ g3 + 1 ≤ 4096 - m)

/-- One directory entry of a plan image (R44). -/
structure PlanDir where
  type : Nat
  ch : Nat
  off : Nat
  len : Nat
  crc : Nat
  deriving DecidableEq, Repr

/-- The directory entry at an index (R43, R44). -/
def planDirAt (img : List Byte) (i : Nat) : PlanDir :=
  let b := 64 + 16 * i
  { type := recNat img b 1, ch := recNat img (b + 1) 1 % 16, off := recNat img (b + 4) 4, len := recNat img (b + 8) 4,
    crc := recNat img (b + 12) 4 }

/-- R45's LENGTH table: a sweep schedule's bin headers name descriptors below the declared count. -/
def sweepSectionOk (d : List Byte) : Bool :=
  let nb := recNat d 0 4
  let head := 4 + 8 * nb
  let descs := (d.length - head) / 128
  decide (4 ≤ d.length) && decide (head ≤ d.length) && (d.length - head) % 128 == 0 &&
    (List.range nb).all fun i =>
      decide (recNat d (4 + 8 * i + 4) 4 + recNat d (4 + 8 * i + 2) 2 ≤ descs)

/-- R45: a section's LENGTH holds exactly the entries that its own counts declare. -/
def sectionLenOk (type : Nat) (d : List Byte) : Bool :=
  match type with
  | 1 => d.length % 16 == 0 && decide (d.length ≤ 4096)
  | 2 => sweepSectionOk d
  | 3 => d.length % 32 == 0
  | 4 => decide (recNat d 0 4 ≤ 4096) && d.length == 8 + 16 * recNat d 0 4
  | 5 => decide (recNat d 0 4 ≤ 65536) && decide (1 ≤ recNat d 4 1 ∧ recNat d 4 1 ≤ 32) &&
      d.length == 8 + 48 * recNat d 0 4 + 32 * recNat d 4 1
  | 6 => d.length == 520
  | _ => false

/-- The bytes of a section. -/
def sectionBytes (img : List Byte) (e : PlanDir) : List Byte := (img.drop e.off).take e.len

/-- No two entries share both TYPE and CHANNEL (R45). -/
def dirDistinct : List PlanDir → Bool
  | [] => true
  | e :: es => es.all (fun x => !(x.type == e.type && x.ch == e.ch)) && dirDistinct es

/-- The image with its IMAGE_CRC field as zero (R43). -/
def imgForCrc (img : List Byte) : List Byte := img.take 0x3C ++ [0, 0, 0, 0] ++ img.drop 0x40

/-- The plan that an image holds, if it passes the checks of R31, R43 and R45. `boot` admits an image with no sections,
as R48 describes for the boot plan (DEDUCED, log entry 8); `active` is the EPOCH that a staged plan is to differ from. The SECTION_CRC
and the LENGTH table are checked for the sections of enabled channels alone (DESIGN CHOICE, log entry 52). -/
def planOf (img : List Byte) (boot : Bool) (active : Option Nat) (enabled : Nat → Bool) : Option Plan :=
  let epoch := recNat img 4 2
  let period := recNat img 8 2
  let count := recNat img 10 2
  let mask := recNat img 0x18 2
  let dir := (List.range count).map (planDirAt img)
  let live := dir.filter fun e => enabled e.ch
  if 64 + 16 * count ≤ img.length ∧ recNat img 6 2 = 1 ∧ 5000 ≤ period ∧ period ≤ 50000 ∧ count ≤ 256 ∧
      (boot = true ∨ 1 ≤ count) ∧ epoch ≠ 0 ∧ some epoch ≠ active ∧
      recNat img 0x3C 4 = (crc32c (imgForCrc img)).toNat ∧
      windowsValid (recNat img 0x0C 4) (recNat img 0x10 4) (recNat img 0x14 4) = true ∧
      (dir.all fun e => decide (1 ≤ e.type ∧ e.type ≤ 6) && mask.testBit e.ch && decide (e.off + e.len ≤ img.length))
        = true ∧
      dirDistinct dir = true ∧
      (live.all fun e => sectionLenOk e.type (sectionBytes img e) && e.crc == (crc32c (sectionBytes img e)).toNat)
        = true ∧
      ((List.range 16).all fun c => decide (((live.filter fun e => e.ch == c).map PlanDir.len).sum ≤ 0x2000000)) = true
  then
    some { id := recNat img 0 4, epoch := epoch, periodUs := period, winA := recNat img 0x0C 4 % 2 ^ 24,
           winB := recNat img 0x10 4 % 2 ^ 12, guards := recNat img 0x14 4 &&& 0x3F3F3F3F, chanMask := mask,
           sections := live.map fun e => { type := e.type, ch := e.ch, data := sectionBytes img e } }
  else none

/-- The bytes of a section of the ACTIVE plan; a covered channel without the section takes it as empty (R45). -/
def Plan.section_ (p : Plan) (type c : Nat) : List Byte :=
  match p.sections.find? fun x => x.type == type && x.ch == c with
  | some x => x.data
  | none => []

/-- PLN_STAGED_ID (R46). -/
def State.stagedIdReg (s : State) : State :=
  s.wr 0 Reg.PLN_STAGED_ID (match s.pln.staged with | some p => lo32 p.id | none => 0)

/-- PLN_EPOCHS and PLN_ACTIVE_ID. -/
def State.epochRegs (s : State) : State :=
  (s.wr 0 Reg.PLN_EPOCHS (BitVec.ofNat 32 (fieldAt 0 16 s.pln.active.epoch +
    fieldAt 16 16 (match s.pln.retiring with | some p => p.epoch | none => 0)))).wr 0 Reg.PLN_ACTIVE_ID
    (lo32 s.pln.active.id)

/-- The CAD_* registers that show the active plan (R48). -/
def State.cadRegs (s : State) : State :=
  let p := s.pln.active
  (((s.wr 0 Reg.CAD_PERIOD_US (lo32 p.periodUs)).wr 0 Reg.CAD_WIN_A (lo32 p.winA)).wr 0 Reg.CAD_WIN_B
    (lo32 p.winB)).wr 0 Reg.CAD_GUARD (lo32 p.guards)

/-- Work in flight under a plan epoch (R12, R39, R47, R343, R404): commands that started under it and hold an engine or are suspended,
stalled commits that began under it, page moves routed under it, Kweuz requests, and Solrov requests. -/
def State.planInflight (s : State) (ep : Nat) : Nat :=
  (s.chan.map fun e =>
    ((e.2.jsc.engines.filter fun x => x.2.holder.isSome && x.2.epoch == ep).length +
      (e.2.jsc.lanes.map fun l => (l.2.filter fun x => x.epoch == ep && x.st != .ready).length).sum +
      (e.2.smp.begun.filter fun b => b.lead && b.old.epoch == ep).length +
      (e.2.pgm.moves.filter fun m => m.2.isSome && (m.2.map PageMove.epoch) == some ep).length +
      (e.2.kwp.conns.map fun k => (k.2.reqs.filter fun r => !r.ended && (r.formed != 0 || r.dev != 0) && r.epoch == ep).length).sum +
      (e.2.slp.tags.filter fun t => t.2.live && !t.2.quar && t.2.epoch == ep).length)).sum

/-- The RETIRING bank empties and PLAN_RETIRED is posted, if its epoch has no work in flight (R47, R52). -/
def State.retirePlan (s : State) : State :=
  match s.pln.retiring with
  | none => s
  | some p =>
    s.when (s.planInflight p.epoch == 0) fun s => ((s.setPln fun x => { x with retiring := none }).epochRegs).evt plnPage 4

/-- PLAN_DISCARD: a running load ends and the STAGED bank empties (R46). -/
def State.planDiscard (s : State) : State :=
  ((s.setPln fun p => { p with staged := none, loading := false }).wr 0 Reg.PLN_CTRL 0).stagedIdReg

/-- LOAD without DISCARD: ignored and recorded while a load runs, and while PLN accepts no work (R7); else the STAGED bank empties and a
load starts (R46). -/
def State.planLoad (s : State) : State :=
  if s.pln.loading || !s.ready plnPage then s.logIgnored plnPage 0x100 1
  else
    ((s.setPln fun p =>
      { p with staged := none, loading := true, loadAddr := s.rd64 0 Reg.PLN_LOAD_ADDR_LO,
               loadLen := s.rdN 0 Reg.PLN_LOAD_LEN }).wr 0 Reg.PLN_CTRL 1).stagedIdReg

/-- PLAN_LOAD (R46): with DISCARD in the same write, DISCARD acts first. -/
def execPlanLoad (rq : Requester) (discard : Bool) (s : State) : Host.Outcome State Fault Refusal :=
  .next (s.onWrite rq 0 Reg.PLN_CTRL (if discard then 3 else 1) fun s =>
    (if discard then s.planDiscard else s).planLoad)

/-- PLAN_DISCARD (R46). -/
def execPlanDiscard (rq : Requester) (s : State) : Host.Outcome State Fault Refusal :=
  .next (s.onWrite rq 0 Reg.PLN_CTRL 2 State.planDiscard)

/-- The activation day (R47). -/
def State.actDay (s : State) : Nat := s.rd64 0 Reg.PLN_ACT_DAY_LO

/-- The staged plan of the running load's image, if the image reads without poison and passes its checks (R46). -/
def State.loadedPlan (s : State) : Option Plan :=
  if s.vpoison s.pln.loadAddr s.pln.loadLen then none
  else planOf (s.vread s.pln.loadAddr s.pln.loadLen) false (some s.pln.active.epoch) s.enabledCh

/-- PLAN_LOAD_DONE (R46, R47): the plan is staged, or PLAN_INVALID or PLAN_LATE is posted and the bank is empty. The sections are not
laid out in the bank's T1 slots, whose contents the spec does not give (R42; DESIGN CHOICE, log entry 52). -/
def execPlanLoadDone (s : State) : Host.Outcome State Fault Refusal :=
  .next (s.when s.pln.loading fun s =>
    let s1 := ((s.touch noJob s.pln.loadAddr s.pln.loadLen).setPln fun p => { p with loading := false }).wr 0 Reg.PLN_CTRL 0
    match s.loadedPlan with
    | none => s1.evt plnPage 2
    | some p =>
      if s.actDay ≤ s.curDay then s1.evt plnPage 1
      else (s1.setPln fun x => { x with staged := some p }).stagedIdReg)

/-- Step 1 of a boundary (R39, R47): on the first day at or after the activation day, the staged plan becomes ACTIVE and
the old one RETIRING; PLAN_LATE or MAP_BUSY otherwise. `d` is the number of the day that begins. -/
def State.activatePlan (s : State) (d : Nat) : State :=
  if !s.pln.armed || decide (d < s.actDay) then s
  else
    let s0 := (s.setPln fun p => { p with armed := false }).retirePlan
    match s0.pln.staged, s0.pln.retiring with
    | none, _ => s0.evt plnPage 1
    | some _, some _ => s0.evt plnPage 3
    | some p, none =>
      let newPeriod := p.periodUs != s0.pln.active.periodUs
      let c : Int := (s0.originNs : Int) + ((d : Int) - s0.dayBase) * s0.periodNs
      let s1 := s0.setPln fun x => { x with active := p, retiring := some x.active, staged := none }
      let s2 := if newPeriod then
          let o := c.toNat
          (((s1.wr 0 Reg.CAD_ORIGIN_NS (lo32 (o % 1000000000))).wr 0 Reg.CAD_ORIGIN_SEC_LO
            (lo32 (o / 1000000000))).wr 0 Reg.CAD_ORIGIN_SEC_HI (lo32 (o / 1000000000 / 2 ^ 32))).wr64 0
            Reg.CAD_DAY_BASE_LO d
        else s1
      ((s2.stagedIdReg.epochRegs.cadRegs).checkRealign.evt plnPage 0).retirePlan

/-- PLAN_RETIRE (R47): the retiring epoch's work in flight has ended. -/
def execPlanRetire (s : State) : Host.Outcome State Fault Refusal := .next s.retirePlan

/-- PLN_STATUS. -/
def State.plnStatus (s : State) : Word :=
  BitVec.ofNat 32 (b2n s.pln.staged.isSome + 2 * b2n s.pln.loading + 4 * b2n s.pln.retiring.isSome +
    fieldAt 16 16 (match s.pln.retiring with | some p => min 0xFFFF (s.planInflight p.epoch) | none => 0))

end Sys2Proof.Machine
end

