-- ==== Sys2Proof/Machine/Watch.lean ====
section
/-! DEFINITION. What DBG's tensor watch points observe (R576, R577, R584, R585). -/
namespace Sys2Proof.Machine

/-- DBG's page. -/
def dbgPage : Page := ⟨.dbg, 0⟩

/-- The value of finite FP64 bits; an infinity or a NaN gives none. -/
def fp64Val (b : DWord) : Option Rat :=
  let n := b.toNat
  let e := nfld n 62 52
  let m := nfld n 51 0
  if e = 2047 then none
  else
    let v : Rat := if e = 0 then (m : Rat) * (2 : Rat) ^ (-1074 : Int)
      else ((m + 2 ^ 52 : Nat) : Rat) * (2 : Rat) ^ ((e : Int) - 1075)
    some (if n.testBit 63 then -v else v)

/-- Rounds to FP64, ties to even; a value beyond the format becomes an infinity. -/
def fp64Of (x : Rat) : DWord :=
  let y := rneTo 53 (-1074) x
  let a := ratAbs y
  let sign := if y < 0 then 2 ^ 63 else 0
  if a = 0 then 0
  else if (2 : Rat) ^ (1024 : Int) ≤ a then BitVec.ofNat 64 (sign + 2047 * 2 ^ 52)
  else
    let e := max (-1022) (floorLog2 a)
    let m := (a / (2 : Rat) ^ (e - 52)).floor.toNat
    BitVec.ofNat 64 (sign + (if m < 2 ^ 52 then m else (e + 1023).toNat * 2 ^ 52 + (m - 2 ^ 52)))

/-- Adds a value to an FP64 sum; a sum that left the format stays as it is. -/
def fp64Add (s : DWord) (x : Rat) : DWord :=
  match fp64Val s with
  | none => s
  | some v => fp64Of (v + x)

/-- One observed value, given by its FP32 bits (R576). -/
def WatchRes.see (r : WatchRes) (b : Nat) : WatchRes :=
  let w : Word := BitVec.ofNat 32 b
  match fp32Val b with
  | none => { r with values := r.values + 1, nonfinite := r.nonfinite + 1 }
  | some v =>
    let low := match r.min with
      | none => true
      | some m => decide (v < (fp32Val m.toNat).getD 0)
    let high := match r.max with
      | none => true
      | some m => decide ((fp32Val m.toNat).getD 0 < v)
    { r with values := r.values + 1, min := if low then some w else r.min, max := if high then some w else r.max,
             sum := fp64Add r.sum v, sumSq := fp64Add r.sumSq (v * v) }

/-- Whether an armed watch point matches a command (R576). -/
def State.wpMatches (s : State) (c n job layer op : Nat) : Bool :=
  let k := c * 64 + n
  let m := s.rd 0 Reg.DBG_WP_MATCH k
  let l := s.rd 0 Reg.DBG_WP_LAYER k
  let o := s.rd 0 Reg.DBG_WP_OP k
  (s.dbg.wps.at k).armed && (wbit m 10 || fld m 9 0 == job) && decide (fld l 11 0 ≤ layer) &&
    decide (layer ≤ fld l 27 16) && (op &&& fld o 27 16) == (fld o 11 0 &&& fld o 27 16)

/-- The watch points of a channel that match a command. -/
def State.wpsFor (s : State) (c job layer op : Nat) : List Nat :=
  (List.range 64).filter fun n => s.wpMatches c n job layer op

/-- The output bytes of a command, as BF16 or FP32 values, are observed (R576, R577). -/
def State.watchBytes (s : State) (c job layer op : Nat) (fp32 : Bool) (bs : List Byte) : State :=
  let n := if fp32 then 4 else 2
  let vs := (chunksOf n (bs.length / n + 1) bs).map fun b => if fp32 then leNat b else leNat b * 65536
  s.each (s.wpsFor c job layer op) fun s w =>
    { s with dbg := { s.dbg with wps := s.dbg.wps.upd (c * 64 + w) fun r =>
        { vs.foldl WatchRes.see r with digest := crc64Run r.digest bs } } }

/-- A matching command has completed: it is a hit, and the LIMITth hit disarms a watch point that is not CONTINUOUS
(R576, R585). -/
def State.watchHit (s : State) (c job layer op : Nat) : State :=
  s.each (s.wpsFor c job layer op) fun s w =>
    let k := c * 64 + w
    let ctl := s.rd 0 Reg.DBG_WP_CTRL k
    let hits := (s.dbg.wps.at k).hits + 1
    let stop := !wbit ctl 1 && hits == fld ctl 31 16
    ({ s with dbg := { s.dbg with wps := s.dbg.wps.upd k fun r =>
        { r with hits := hits, armed := r.armed && !stop } } }).when stop fun s => s.evt dbgPage 1

/-- A write of ARM 1 clears the results and arms the watch point (R576, R584). -/
def State.armWatch (s : State) (k : Nat) : State :=
  { s with dbg := { s.dbg with wps := s.dbg.wps.set k { (default : WatchRes) with armed := true } } }

end Sys2Proof.Machine
end

