-- ==== Sys2Proof/Machine/Jobs.lean ====
section
/-! DEFINITION. JSC: queues, lanes, engines, shares, completions and tokens (R303 to R320, R574). -/
namespace Sys2Proof.Machine

/-- JSC's page of a channel. -/
def jscPage (c : Nat) : Page := ⟨.jsc, c⟩

/-- JSC's state of a channel. -/
def State.jsc (s : State) (c : Nat) : JscCh := (s.ch c).jsc

/-- Changes JSC's state of a channel. -/
def State.updJsc (s : State) (c : Nat) (f : JscCh → JscCh) : State := s.updCh c fun x => { x with jsc := f x.jsc }

/-! ### Engines and commands -/

/-- The engine of an OP (R310); VSE_SEARCH, whose store fixes it, is 3 here. `none`: the OP is not defined. -/
def engineOf (op : Nat) : Option Nat :=
  if op = 0 ∨ (0x010 ≤ op ∧ op ≤ 0x016) ∨ (0x020 ≤ op ∧ op ≤ 0x022) ∨ (0x080 ≤ op ∧ op ≤ 0x082) ∨
      (0x0E0 ≤ op ∧ op ≤ 0x0E2) ∨ op = 0x0F0 ∨ op = 0x0F1 ∨ op = 0x0F3 then some 0
  else if 0x101 ≤ op ∧ op ≤ 0x107 then some 1
  else if op = 0x040 ∨ op = 0x041 ∨ (0x0A0 ≤ op ∧ op ≤ 0x0A4) then some 2
  else if 0x060 ≤ op ∧ op ≤ 0x063 then some 3
  else none

/-- Whether a command is a sweep, which is Noon work (R34, R146). -/
def isSweep (op : Nat) : Bool := decide (0x101 ≤ op) && decide (op ≤ 0x107)

/-- The save records of an engine (R310). -/
def saveSlots : Nat → Nat
  | 1 => 3 | 2 => 16 | 3 => 8 | _ => 0

/-- The lane of a job on an engine. -/
def laneKey (j e : Nat) : Nat := j * 8 + e

/-- The lane of a job on an engine. -/
def State.lane (s : State) (c j e : Nat) : List LaneCmd := (s.jsc c).lanes.at (laneKey j e)

/-- Replaces a lane. -/
def State.setLane (s : State) (c j e : Nat) (l : List LaneCmd) : State :=
  s.updJsc c fun x => { x with lanes := x.lanes.set (laneKey j e) l }

/-- An engine of a channel. -/
def State.engine (s : State) (c e : Nat) : Engine := (s.jsc c).engines.at e

/-- Replaces an engine. -/
def State.setEngine (s : State) (c e : Nat) (x : Engine) : State :=
  s.updJsc c fun j => { j with engines := j.engines.set e x }

/-- The engine that a command holds. -/
def State.engineHolding (s : State) (c : Nat) (cmd : Cmd) : Option Nat :=
  [0, 1, 2, 3, 4].find? fun e => (s.engine c e).holder == some cmd

/-- A share weight; 0 is taken as 1 (R303). -/
def State.weight (s : State) (c j : Nat) : Nat := max 1 (fld (s.jobWord c j 0x08) 15 0)

/-- TEARING of a job (R303). -/
def State.jobTearing (s : State) (c j : Nat) : Bool := wbit (s.jobWord c j 0) 2

/-- FAULTED of a job (R303). -/
def State.jobFaulted (s : State) (c j : Nat) : Bool := wbit (s.jobWord c j 0) 1

/-- The save records of an engine that are free (R140, R310). -/
def State.savesFree (s : State) (c e : Nat) : Nat :=
  saveSlots e - (((s.jsc c).lanes.filter fun l => l.1 % 8 == e).map fun l => (l.2.filter fun x => x.saved).length).sum

/-! ### Tokens (R317 to R319) -/

/-- The value of a token. -/
def State.tokValue (s : State) (c t : Nat) : Nat := s.rdN c Reg.JSC_TOK_VALUE t

/-- Whether a token is VALID and belongs to a job (R317). -/
def State.tokOk (s : State) (c t j : Nat) : Bool :=
  s.rdB c Reg.JSC_TOK_CTRL 31 t && s.rdF c Reg.JSC_TOK_CTRL 9 0 t == j

/-- R318: the wait of a command is met. -/
def State.waitMet (s : State) (c : Nat) (cmd : Cmd) : Bool :=
  !cmd.waitEn || decide (0 ≤ signedOf 32 (s.tokValue c cmd.waitTok + 2 ^ 32 - cmd.waitValue % 2 ^ 32))

/-- R318: a signal adds 1 to the token. -/
def State.signalTok (s : State) (c : Nat) (cmd : Cmd) : State :=
  s.when cmd.signalEn fun s => s.bump c Reg.JSC_TOK_VALUE 1 cmd.signalTok

/-! ### Readiness and deficits (R312, R313) -/

/-- Whether the head of a lane may start: a suspended command may, a faulted one may not, and one that has not started
needs its wait met and, as a sweep or a sampler row, Noon before its guard (R33, R34, R146, R312). -/
def State.headReady (s : State) (c : Nat) (x : LaneCmd) : Bool :=
  match x.st with
  | .suspended => true
  | .ready => s.waitMet c x.cmd && (!(isSweep x.cmd.op || x.cmd.op == 0xFFF) || s.inWindow .noon)
  | _ => false

/-- Whether a job's completion from an engine waits on a full queue (R309). -/
def State.cplBlocked (s : State) (c j e : Nat) : Bool :=
  (s.jsc c).waitCpl.any fun w => w.engine == e && w.cmd.job == j

/-- Whether a job holds an engine. -/
def State.holds (s : State) (c j e : Nat) : Bool := ((s.engine c e).holder.map Cmd.job) == some j

/-- Whether a job is ready on an engine (R312). -/
def State.jobReady (s : State) (c j e : Nat) : Bool :=
  s.holds c j e ||
    (!s.cplBlocked c j e && match s.lane c j e with
      | x :: _ => s.headReady c x
      | [] => false)

/-- The jobs that are ready on an engine, in rising order, with the holder. -/
def State.readyJobs (s : State) (c e : Nat) : List Nat :=
  let ls := (((s.jsc c).lanes.filter fun l => l.1 % 8 == e).map fun l => l.1 / 8).filter fun j => s.jobReady c j e
  match (s.engine c e).holder with
  | some h => if ls.contains h.job then ls else h.job :: ls
  | none => ls

/-- D is clamped to ±16,000,000 ns (R313). -/
def clampD (d : Rat) : Rat := max (-16000000) (min 16000000 d)

/-- Adds a use to a job's interval record (R320). -/
def State.addUse (s : State) (c j e : Nat) (f : Usage → Usage) : State :=
  s.updJsc c fun x => { x with usage := x.usage.upd (laneKey j e) f }

/-- The WEIGHT of a ready job on an engine: a command that has started keeps the one it started under (R304). -/
def State.weightOn (s : State) (c e j : Nat) : Nat :=
  if s.holds c j e then (s.engine c e).weight
  else match s.lane c j e with
    | x :: _ => if x.st = .ready then s.weight c j else x.weight
    | [] => s.weight c j

/-- The exact change of one ready job's deficit over `dt` ns, and its waiting time (R313, R320, R573). -/
def State.accrueJob (s : State) (c e dt total j : Nat) : State :=
  let held := s.holds c j e
  let d : Rat := (dt * s.weightOn c e j : Nat) / (total : Rat) - (if held then (dt : Rat) else 0)
  let s1 := s.updJsc c fun x => { x with deficits := x.deficits.upd (laneKey j e) fun v => clampD (v + d) }
  if held then s1
  else
    (s1.addUse c j e fun u => { u with waitNs := u.waitNs + dt }).setLane c j e (match s1.lane c j e with
      | x :: l => { x with waited := x.waited + dt } :: l
      | [] => [])

/-- Brings one engine's deficits to the present. -/
def State.accrueEngine (s : State) (c dt e : Nat) : State :=
  let r := s.readyJobs c e
  let total := (r.map (s.weightOn c e)).sum
  s.each r fun s j => s.accrueJob c e dt total j

/-- R313: the exact change of every deficit since the last accrual, under the readiness and the holders as they stood. -/
def State.accrue (s : State) (c : Nat) : State :=
  let dt := s.tim.now - (s.jsc c).lastUpdate
  if dt = 0 then s
  else (s.each [0, 1, 2, 3, 4] fun s e => s.accrueEngine c dt e).updJsc c fun x => { x with lastUpdate := s.tim.now }

/-- R313: a job that is not ready keeps a debt and loses a credit. -/
def State.settle (s : State) (c : Nat) : State :=
  let drop := fun (m : SMap Rat) (k : Nat) =>
    if 0 < m.at k ∧ s.jobReady c (k / 8) (k % 8) = false then m.set k 0 else m
  s.updJsc c fun x => { x with deficits := (x.deficits.map Prod.fst).foldl drop x.deficits }

/-- A cycle at which the readiness of many jobs changes is accounted for there: the deficits before it (R313). -/
def State.accrueAll (s : State) : State := s.each s.channels State.accrue

/-- The deficits after a cycle at which the readiness of many jobs changes (R313). -/
def State.settleAll (s : State) : State := s.each s.channels State.settle

/-- R313: the update rounds each deficit to whole ns in favour of the holder: the holder's up, the others' down. JSC_DEFICIT shows
what it leaves. -/
def State.roundD (s : State) (c : Nat) : State :=
  let rnd := fun (m : SMap Rat) (k : Nat) =>
    m.upd k fun d => if s.holds c (k / 8) (k % 8) then (d.ceil : Rat) else (d.floor : Rat)
  let d := ((s.jsc c).deficits.map Prod.fst).foldl rnd (s.jsc c).deficits
  s.updJsc c fun x => { x with deficits := d, shown := d }

/-! ### Counter sets (R573) -/

/-- Whether a counter set matches a command (R573). -/
def State.setMatches (s : State) (c n job layer op e : Nat) : Bool :=
  let k := c * 64 + n
  let m := s.rd 0 Reg.DBG_SET_MATCH k
  let l := s.rd 0 Reg.DBG_SET_LAYER k
  let o := s.rd 0 Reg.DBG_SET_OP k
  wbit m 31 && (wbit m 10 || fld m 9 0 == job) && (fld m 15 11).testBit e &&
    decide (fld l 11 0 ≤ layer) && decide (layer ≤ fld l 27 16) &&
    (op &&& fld o 27 16) == (fld o 11 0 &&& fld o 27 16)

/-- Counts a command's engine time and waiting time in every set that matches it, and with `done` 1 its completion. DRAM traffic
and stall time depend on what the device caches: each is a free value (log entry 6). -/
def State.countCmd (s : State) (c job layer op e ns waited done : Nat) : State :=
  s.each ((List.range 64).filter fun n => s.setMatches c n job layer op e) fun s n =>
    let (rd, s) := s.drawNat
    let (wr, s) := s.drawNat
    let (st, s) := s.drawNat
    { s with dbg := { s.dbg with sets := s.dbg.sets.upd (c * 64 + n) fun x =>
        { cmds := (x.cmds + done) % 2 ^ 64, engineNs := (x.engineNs + ns) % 2 ^ 64, dramRd := (x.dramRd + rd) % 2 ^ 64,
          dramWr := (x.dramWr + wr) % 2 ^ 64, stallNs := (x.stallNs + st) % 2 ^ 64,
          waitNs := (x.waitNs + waited) % 2 ^ 64 } } }

/-! ### Completions (R307, R309) -/

/-- A completion record without its PHASE bit (R307). -/
def cplRec (cmd : Cmd) (status : Nat) (payload : List Byte) : List Byte :=
  leBytes 4 (fieldAt 0 12 cmd.op + fieldAt 16 8 status) ++
    leBytes 4 (fieldAt 0 10 (if cmd.plan then 0 else cmd.queue) + fieldAt 10 1 (b2n cmd.plan) + fieldAt 16 10 cmd.job) ++
    leBytes 8 cmd.tag ++ padTo 48 payload

/-- The completion queue of a command: the one that its queue names, or PLAN_CQ (R303, R334). -/
def State.cqOf (s : State) (c : Nat) (cmd : Cmd) : Nat :=
  if cmd.plan then fld (s.jobWord c cmd.job 0x0C) 9 0 else s.rdF c Reg.JSC_Q_CFG 15 6 cmd.queue

/-- The size of a completion queue. -/
def State.cqSize (s : State) (c q : Nat) : Nat := 2 ^ s.rdF c Reg.JSC_CQ_CFG 5 1 q

/-- Whether a completion queue is full (DEDUCED, log entry 7). -/
def State.cqIsFull (s : State) (c q : Nat) : Bool :=
  ringFull (s.cqSize c q) (s.rdN c Reg.JSC_CQ_HEAD q) (s.rdN c Reg.JSC_CQ_TAIL q)

/-- Sets PHASE in a record. -/
def setPhase (b : Bool) (r : List Byte) : List Byte :=
  leBytes 4 (recNat r 0 4 + fieldAt 12 1 (b2n b)) ++ r.drop 4

/-- Writes a record at TAIL of a completion queue; PHASE inverts on each wrap (R307). -/
def State.writeCpl (s : State) (c q : Nat) (r : List Byte) : State :=
  let t := s.rdN c Reg.JSC_CQ_TAIL q
  let t' := (t + 1) % s.cqSize c q
  let ph := !(s.jsc c).phaseFlip.at q
  ((s.vwrite (s.rd64 c Reg.JSC_CQ_BASE_LO q + 64 * t) (setPhase ph r) (s.rdF c Reg.JSC_CQ_CFG 25 16 q)).wr c Reg.JSC_CQ_TAIL (lo32 t') q).updJsc c
    fun x => { x with phaseFlip := if t' = 0 then x.phaseFlip.set q ph else x.phaseFlip }

/-- Delivers a completion record to its queue, and then the signal: at once, on a disabled queue without the record,
and on a full queue when there is room (R307, R309, R318). -/
def State.deliver (s : State) (c : Nat) (cmd : Cmd) (e : Nat) (rec : List Byte) : State :=
  let q := s.cqOf c cmd
  if !s.rdB c Reg.JSC_CQ_CFG 0 q then
    (s.logErr (jscPage c) 0x01 cmd.job 0 ((jscPage c).bar0 + 0x12C) q).signalTok c cmd
  else if s.cqIsFull c q || (s.jsc c).waitCpl.any (fun w => w.cq == q) then
    let s1 := s.updJsc c fun x => { x with waitCpl := x.waitCpl ++ [⟨q, rec, cmd, e⟩] }
    s1.when (!(s.jsc c).cqFull.contains q) fun s =>
      (s.updJsc c fun x => { x with cqFull := x.cqFull ++ [q] }).evtJob c .jsc 1 0x71 0 0 0xFFFF cmd.job q
  else (s.writeCpl c q rec).signalTok c cmd

/-- Writes the records that wait for room in a completion queue, oldest first; `fuel` bounds them (R309). -/
def State.flushCpl (s : State) (c q : Nat) : Nat → State
  | 0 => s
  | fuel + 1 =>
    match (s.jsc c).waitCpl.find? fun w => w.cq == q with
    | none => s
    | some w =>
      let off := !s.rdB c Reg.JSC_CQ_CFG 0 q
      if s.cqIsFull c q && !off then s
      else
        let s1 := s.updJsc c fun x => { x with waitCpl := x.waitCpl.erase w }
        let s2 := if off then s1.logErr (jscPage c) 0x01 w.cmd.job 0 ((jscPage c).bar0 + 0x12C) q
          else s1.writeCpl c q w.record
        (s2.signalTok c w.cmd).flushCpl c q fuel

/-- Accounts the holder's time up to the present (R316, R320). -/
def State.accountEngine (s : State) (c e : Nat) : State :=
  let x := s.engine c e
  match x.holder with
  | none => s
  | some h =>
    let dt := s.tim.now - x.since
    (s.addUse c h.job e fun u => { u with engineNs := u.engineNs + dt }).setEngine c e
      { x with since := s.tim.now, used := x.used + dt }

/-- Frees an engine. -/
def State.freeEngine (s : State) (c e : Nat) : State :=
  s.setEngine c e { (default : Engine) with since := s.tim.now }

/-- ESC_THRESH of a job, and its BASE_NS for an engine (R303). -/
def State.escThresh (s : State) (c j : Nat) : Nat := fld (s.jobWord c j 0x08) 31 16
def State.baseNs (s : State) (c j e : Nat) : Nat := (s.jobWord c j (0x2C + 4 * e)).toNat

/-- The command leaves its engine: its time is accounted, it counts as completed, and the engine is free. -/
def State.leaveEngine (s : State) (c e : Nat) (cmd : Cmd) : State :=
  let s1 := s.accountEngine c e
  let x := s1.engine c e
  ((s1.addUse c cmd.job e fun u => { u with cmds := u.cmds + 1, base := u.base + x.base }).freeEngine c e).countCmd c cmd.job cmd.layer
    cmd.op e x.used x.waited 1

/-- A command completes that held no engine, or left it before (R311, R320, R427). -/
def State.countLate (s : State) (c : Nat) (cmd : Cmd) : State :=
  let e := (engineOf cmd.op).getD 0
  let b := (((s.jsc c).handed.find? fun x => x.1 == cmd).map Prod.snd).getD (s.baseNs c cmd.job e)
  ((s.addUse c cmd.job e fun u => { u with cmds := u.cmds + 1, base := u.base + b }).updJsc c fun x =>
    { x with handed := x.handed.filter fun y => y.1 != cmd }).countCmd c cmd.job cmd.layer cmd.op e 0 0 1

/-- One command fewer is outstanding on its queue (R311). -/
def State.retireCmd (s : State) (c : Nat) (cmd : Cmd) : State :=
  if cmd.plan then s
  else s.updJsc c fun x => { x with outstanding := x.outstanding.upd cmd.queue fun n => n - 1 }

/-- A command completes with a status and a payload: its engine is free if it holds one, its record goes to its
completion queue unless NO_CPL suppresses it, and its token is signalled (R306, R307, R309, R318). `quiet`: the command is
refused under R308 and signals no token. -/
def State.complete (s : State) (c : Nat) (cmd : Cmd) (status : Nat) (payload : List Byte := []) (quiet : Bool := false) :
    State :=
  let s0 := s.accrue c
  let (e, s1) := match s0.engineHolding c cmd with
    | some e => (e, s0.leaveEngine c e cmd)
    | none => ((engineOf cmd.op).getD 0, s0.countLate c cmd)
  let s2 := (s1.retireCmd c cmd).watchHit c cmd.job cmd.layer cmd.op
  let out := { cmd with signalEn := cmd.signalEn && !quiet }
  let s3 := if cmd.noCpl && status == 0 then s2.signalTok c out
    else s2.deliver c out e (cplRec cmd status payload)
  s3.settle c

/-- A deferred CONTROL command leaves its lane and its engine when it is handed over (R311), as does a Solrov command once its
messages are formed (R427): its engine time is counted now, and its completion when it comes. -/
def State.handOver (s : State) (c : Nat) (cmd : Cmd) : State :=
  match s.engineHolding c cmd with
  | some e =>
    let s1 := (s.accrue c).accountEngine c e
    let x := s1.engine c e
    (((s1.freeEngine c e).updJsc c fun y => { y with handed := y.handed ++ [(cmd, x.base)] }).countCmd c cmd.job cmd.layer cmd.op e
      x.used x.waited 0).settle c
  | none => s

/-- Whether a command is set aside for a fault. -/
def LaneCmd.away (x : LaneCmd) : Bool := match x.st with
  | .faulted _ => true
  | .faultWait => true
  | _ => false

/-- A command set aside goes back to the head of its lane. A sampler row goes behind the others, so that they proceed (R325). -/
def laneBack (e : Nat) (x : LaneCmd) (l : List LaneCmd) : List LaneCmd := if e = 4 then l ++ [x] else x :: l

/-- A command that enters a lane comes last, but before sampler rows that are set aside. -/
def laneEnter (e : Nat) (x : LaneCmd) (l : List LaneCmd) : List LaneCmd :=
  if e = 4 then l.takeWhile (fun y => !y.away) ++ x :: l.dropWhile (fun y => !y.away) else l ++ [x]

/-- A command whose fault is retried stands at the head of its lane, and resumes (R314, R325, R327). -/
def laneRetry (id : Nat) (l : List LaneCmd) : List LaneCmd :=
  match l.find? fun x => x.st == .faulted id with
  | some x => { x with st := .suspended } :: l.filter fun x => x.st != .faulted id
  | none => l

/-- The first command that waits for a FAULT_ID is given its state. -/
def laneId (st : LaneState) : List LaneCmd → List LaneCmd
  | [] => []
  | x :: l => if x.st = .faultWait then { x with st := st } :: l else x :: laneId st l

/-- The holder goes back to its lane, set aside as `st`; its engine is free (R314, R315, R325). -/
def State.setAside (s : State) (c e : Nat) (st : LaneState) (saved : Bool) : State :=
  let s1 := (s.accrue c).accountEngine c e
  let x := s1.engine c e
  match x.holder with
  | none => s1
  | some h =>
    ((s1.setLane c h.job e (laneBack e ⟨h, st, x.epoch, x.used, x.waited, x.weight, x.esc, x.base, saved⟩
      (s1.lane c h.job e))).freeEngine c e).settle c

/-- Changes the state of the head of a lane. -/
def State.setHead (s : State) (c j e : Nat) (f : LaneCmd → LaneCmd) : State :=
  match s.lane c j e with
  | x :: l => s.setLane c j e (f x :: l)
  | [] => s

/-! ### Dispatch (R305, R311) -/

/-- The number of units of a command queue. -/
def State.qSize (s : State) (c q : Nat) : Nat := 2 ^ s.rdF c Reg.JSC_Q_CFG 5 1 q

/-- The command whose header is a 64-byte unit, as queue `q` holds it (R306). `raw` is all its units. -/
def parseCmd (raw : List Byte) (q : Nat) (stamp : Option Stamp) : Cmd :=
  let w0 := recNat raw 0 4
  let w1 := recNat raw 4 4
  let w3 := recNat raw 12 4
  { op := nfld w0 11 0, sizeM1 := nfld w0 14 12 % 4, job := nfld w0 25 16, layer := nfld w1 11 0,
    waitTok := nfld w1 23 16, signalTok := nfld w1 31 24, waitValue := recNat raw 8 4, waitEn := w3.testBit 0,
    signalEn := w3.testBit 1, noCpl := w3.testBit 2, tag := recNat raw 0x10 8,
    payload := (raw.drop 32).take (64 * (nfld w0 14 12 % 4 + 1) - 32), queue := q, plan := false, stamp := stamp }

/-- The state address of the head unit of a queue. -/
def State.qHeadAddr (s : State) (c q : Nat) : Nat :=
  s.rd64 c Reg.JSC_Q_BASE_LO q + 64 * s.rdN c Reg.JSC_Q_HEAD q

/-- The command at the head of a queue. -/
def State.qHeadCmd (s : State) (c q : Nat) : Cmd :=
  let u := s.vread (s.qHeadAddr c q) 64
  let n := 64 * (nfld (recNat u 0 4) 14 12 % 4 + 1)
  parseCmd (s.vread (s.qHeadAddr c q) n) q ((s.jsc c).stamps.at (q * 65536 + s.rdN c Reg.JSC_Q_HEAD q))

/-- The job that a queue is assigned to. -/
def State.qJob (s : State) (c q : Nat) : Nat := s.rdF c Reg.JSC_Q_CFG 25 16 q

/-- Whether JSC takes commands from a job's queues: the job is enabled and not torn down, JSC is RUNNING, and neither a
device-fatal fault (R568) nor a recovery (R563) holds dispatch. -/
def State.takesFrom (s : State) (c j : Nat) : Bool :=
  s.jobEnabled c j && !s.jobTearing c j && s.ready (jscPage c) && s.ras.fatal.isNone && !s.recovering c

/-- The store that a VSE_SEARCH names (log entry 22). -/
def searchStoreOf (cmd : Cmd) : Nat := Config.searchStore cmd.layer cmd.payload % 64

/-- A store of a channel. -/
def State.vstore (s : State) (c n : Nat) : VStore := (s.ch c).vse.stores.at n

/-- Whether a store is set and a job's. -/
def State.storeOf (s : State) (c n j : Nat) : Bool := (s.vstore c n).isSet && (s.vstore c n).job == j

/-- KIND of a store's descriptor: 0 IVF_PQ, 1 SKETCH (R238). -/
def VStore.kind (v : VStore) : Nat := nfld (recNat v.desc 0 4) 7 6

/-- The engine of a command: the OP's, or for VSE_SEARCH on an IVF_PQ store of its job the ARRAY (R310). -/
def State.engineFor (s : State) (c : Nat) (cmd : Cmd) : Option Nat :=
  if cmd.op = 0x063 ∧ s.storeOf c (searchStoreOf cmd) cmd.job = true ∧ (s.vstore c (searchStoreOf cmd)).kind = 0 then some 1
  else engineOf cmd.op

/-- The status with which a command is refused at dispatch (R308, R317, R567); WRONG_JOB is looked at first, then
BAD_OP, then BAD_TOKEN (DESIGN CHOICE, log entry 11). -/
def State.refusal (s : State) (c q : Nat) (cmd : Cmd) : Option Nat :=
  if cmd.job ≠ s.qJob c q then some 0x71
  else if (s.engineFor c cmd).isNone then some 0x70
  else if (cmd.waitEn && !s.tokOk c cmd.waitTok cmd.job) || (cmd.signalEn && !s.tokOk c cmd.signalTok cmd.job) then some 0x72
  else if s.quarantined c && cmd.op ≠ 0x011 && cmd.op ≠ 0x016 then some 0xE1
  else none

/-- Whether the head command of a queue can be taken now: a refused one and a NOP can; BARRIER when nothing of its queue
is outstanding and its wait is met; any other when its lane has room (R311). -/
def State.takeable (s : State) (c q : Nat) : Bool :=
  let cmd := s.qHeadCmd c q
  if cmd.op = 0 ∨ (s.refusal c q cmd).isSome then true
  else if cmd.op = 0x0F0 then (s.jsc c).outstanding.at q == 0 && s.waitMet c cmd
  else decide ((s.lane c cmd.job ((s.engineFor c cmd).getD 0)).length < 64)

/-- Whether queue `q` asks for dispatch. -/
def State.qAsks (s : State) (c q : Nat) : Bool :=
  s.rdB c Reg.JSC_Q_CFG 0 q && s.rdN c Reg.JSC_Q_HEAD q != s.rdN c Reg.JSC_Q_TAIL q && s.takesFrom c (s.qJob c q) &&
    s.takeable c q

/-- The first plan sweep of a job that is not yet in its lane. -/
def State.planHead (s : State) (c j : Nat) : Option Cmd := (s.jsc c).planQueue.find? fun x => x.job == j

/-- Whether a job's plan sweeps ask for dispatch (R311). -/
def State.planAsks (s : State) (c j : Nat) : Bool :=
  (s.planHead c j).isSome && s.takesFrom c j && decide ((s.lane c j 1).length < 64)

/-- A requester for dispatch: queue 0-1,023, or 1,024 plus the job of a plan queue (R311). -/
def State.dispAsks (s : State) (c n : Nat) : Bool := if n < 1024 then s.qAsks c n else s.planAsks c (n - 1024)

/-- The requesters that can ask at all: the queues that a register names, and the jobs with plan sweeps. -/
def State.dispCands (s : State) (c : Nat) : List Nat :=
  (List.range 1024).filter (fun q => s.rdB c Reg.JSC_Q_CFG 0 q) ++ (s.jsc c).planQueue.map fun x => 1024 + x.job

/-- The requester that R10 chooses among those that ask: the least at or after the pointer, cyclically. -/
def State.dispPick (s : State) (c : Nat) : Option Nat :=
  let p := (s.jsc c).ptr.at 8
  let asks := (s.dispCands c).filter (s.dispAsks c)
  match (asks.filter fun n => decide (p ≤ n)).foldl (fun m n => some (min n (m.getD n))) none with
  | some n => some n
  | none => asks.foldl (fun m n => some (min n (m.getD n))) none

/-- Reads a command from its queue and moves the queue's HEAD past it. -/
def State.popQueue (s : State) (c q : Nat) (cmd : Cmd) : State :=
  (s.touch (s.qJob c q) (s.qHeadAddr c q) (64 * (cmd.sizeM1 + 1))).wr c Reg.JSC_Q_HEAD (lo32 ((s.rdN c Reg.JSC_Q_HEAD q + cmd.sizeM1 + 1) % s.qSize c q)) q

/-- Puts a command into its lane, after those that stand there. -/
def State.enterLane (s : State) (c e : Nat) (cmd : Cmd) : State :=
  s.setLane c cmd.job e (laneEnter e ⟨cmd, .ready, 0, 0, 0, 0, 0, 0, false⟩ (s.lane c cmd.job e))

/-- One command more is outstanding on its queue (R311). -/
def State.countOut (s : State) (c : Nat) (cmd : Cmd) : State :=
  if cmd.plan then s
  else s.updJsc c fun x => { x with outstanding := x.outstanding.upd cmd.queue (· + 1) }

/-- A command refused at dispatch completes with its status; under R308 it signals no token. -/
def State.refuse (s : State) (c : Nat) (cmd : Cmd) (job status : Nat) : State :=
  let x := { cmd with job := job, signalEn := cmd.signalEn && status == 0xE1 }
  (s.deliver c x 7 (cplRec x status []))

/-- Begins a tear-down of a job on every enabled channel: TEARING is set and dispatch stops (R329, step 1). -/
def State.tearDown (s : State) (job cause : Nat) : State :=
  s.each s.channels fun s c =>
    if s.jobTearing c job then s
    else
      ((s.accrue c).wrAt (jscPage c) 0x200 (setBit (s.jobWord c job 0) 2 true) job).updJsc c fun x =>
        { x with tearing := x.tearing.set job cause }

/-- Takes the head command of queue `q` (R305, R308, R311). Poison in a command is a job-fatal error (R558). -/
def State.takeHead (s : State) (c q : Nat) : State :=
  let cmd := s.qHeadCmd c q
  let s1 := (s.popQueue c q cmd).bump c Reg.JSC_DISPATCH_CNT
  if s.mem.poisoned (s.qHeadAddr c q) (64 * (cmd.sizeM1 + 1)) then
    ((s1.logErr (jscPage c) 0x31 (s.qJob c q) 3 (s.qHeadAddr c q) 0).bump 0 Reg.RAS_JOBFATAL_CNT).tearDown (s.qJob c q) 4
  else if cmd.op = 0 then s.popQueue c q cmd
  else match s.refusal c q cmd with
    | some st => s1.refuse c cmd (s.qJob c q) st
    | none =>
      if cmd.op = 0x0F0 then (s1.countOut c cmd).complete c cmd 0
      else (s1.countOut c cmd).enterLane c ((s.engineFor c cmd).getD 0) cmd

/-- Takes a job's next plan sweep into its ARRAY lane (R145, R311). -/
def State.takePlan (s : State) (c j : Nat) : State :=
  match s.planHead c j with
  | none => s
  | some cmd =>
    ((s.updJsc c fun x => { x with planQueue := x.planQueue.erase cmd }).bump c Reg.JSC_DISPATCH_CNT).enterLane c 1 cmd

/-- JSC dispatches one command, if one can be dispatched (R311). -/
def State.dispatch (s : State) (c : Nat) : State :=
  let s0 := s.accrue c
  match s0.dispPick c with
  | none => s0
  | some n =>
    let s1 := s0.updJsc c fun x => { x with ptr := x.ptr.set 8 ((n + 1) % 2048) }
    (if n < 1024 then s1.takeHead c n else s1.takePlan c (n - 1024)).settle c

/-- The published units at the heads of a channel's command queues, up to the longest command. -/
def State.headUnits (s : State) (c : Nat) : List Touch :=
  ((List.range 1024).filter fun q => s.rdB c Reg.JSC_Q_CFG 0 q).map fun q =>
    let n := (s.rdN c Reg.JSC_Q_TAIL q + s.qSize c q - s.rdN c Reg.JSC_Q_HEAD q) % s.qSize c q
    (s.qHeadAddr c q, 64 * min 4 n, false)

/-- JSC_DISPATCH (R311), once no host holds the units that it looks at (R477). -/
def execJscDispatch (c : Nat) (s : State) : Host.Outcome State Fault Refusal :=
  .next (s.when (s.enabledCh c) fun s => s.afterSnoops (s.headUnits c) fun s => s.dispatch c)

/-- BARRIER (R311): the queue whose head is a BARRIER, all of whose earlier commands have completed, completes it when R10
chooses that queue. -/
def execBarrier (c q : Nat) (s : State) : Host.Outcome State Fault Refusal :=
  .next (s.when (s.enabledCh c && (s.qHeadCmd c q).op == 0x0F0 && (s.accrue c).dispPick c == some q) fun s => s.dispatch c)

/-! ### Starting and pre-empting (R314, R315) -/

/-- The page of the block that carries out an OP (R306, R310). -/
def opPage (c op : Nat) : Page :=
  if 0x010 ≤ op ∧ op ≤ 0x016 then ⟨.rqt, c⟩
  else if 0x020 ≤ op ∧ op ≤ 0x022 then ⟨.pgm, c⟩
  else if op = 0x040 ∨ op = 0x041 then ⟨.dmv, c⟩
  else if 0x060 ≤ op ∧ op ≤ 0x063 then ⟨.vse, c⟩
  else if 0x080 ≤ op ∧ op ≤ 0x082 then ⟨.smp, c⟩
  else if 0x0A0 ≤ op ∧ op ≤ 0x0A3 then ⟨.slp, c⟩
  else if op = 0x0A4 then ⟨.ccx, c⟩
  else if 0x0E0 ≤ op ∧ op ≤ 0x0E2 then ⟨.cmp, 0⟩
  else if isSweep op then ⟨.atn, c⟩
  else jscPage c

/-- Whether the block of a command that has not started accepts work: it is RUNNING (R7, R8, R603). A sampler row is part of
work already accepted. On a quarantined channel CANCEL and QUERY go on (R567). -/
def State.opReady (s : State) (c op : Nat) : Bool :=
  op == 0xFFF || s.ready (opPage c op) || (s.quarantined c && (op == 0x011 || op == 0x016))

/-- Whether job `j` can take a free engine: it is ready there and not torn down, the block of a command that has not started accepts
work, and on a quarantined channel only CONTROL takes commands (R7, R312, R329, R567). -/
def State.canTake (s : State) (c j e : Nat) : Bool :=
  s.jobReady c j e && !s.jobTearing c j && !s.recovering c && (!s.quarantined c || e == 0) && s.ras.fatal.isNone &&
    match s.lane c j e with
    | x :: _ => x.st != .ready || s.opReady c x.cmd.op
    | [] => false

/-- The jobs with a lane on an engine, that can take it. -/
def State.takers (s : State) (c e : Nat) : List Nat :=
  (((s.jsc c).lanes.filter fun l => l.1 % 8 == e).map fun l => l.1 / 8).filter fun j => s.canTake c j e

/-- A deficit. -/
def State.deficit (s : State) (c j e : Nat) : Rat := (s.jsc c).deficits.at (laneKey j e)

/-- R314: the taker with the largest deficit; equal deficits by R10 over job numbers. -/
def State.bestTaker (s : State) (c e : Nat) : Option Nat :=
  let js := s.takers c e
  let top := js.filter fun j => js.all fun k => decide (s.deficit c k e ≤ s.deficit c j e)
  match top.find? fun j => decide ((s.jsc c).ptr.at e ≤ j) with
  | some j => some j
  | none => top.head?

/-- A job's lane head takes the engine. -/
def State.takeEngine (s : State) (c e j : Nat) : State :=
  match s.lane c j e with
  | [] => s
  | x :: l =>
    let fresh := x.st == .ready
    ((s.setLane c j e l).setEngine c e
      { holder := some x.cmd, since := s.tim.now, used := x.used, preempt := false,
        epoch := if fresh then s.pln.active.epoch else x.epoch, waited := x.waited,
        weight := if fresh then s.weight c j else x.weight, esc := if fresh then s.escThresh c j else x.esc,
        base := if fresh then s.baseNs c j e else x.base }).updJsc
      c fun y => { y with ptr := y.ptr.set e ((j + 1) % 1024) }

/-- A command that arrives at its engine counts as dispatched from its queue and enters its lane, unless it stands there or the lane is
full (R311; log entry 55). -/
def State.arrive (s : State) (c e : Nat) (cmd : Cmd) : State :=
  s.when (!((s.lane c cmd.job e).any fun x => x.cmd == cmd) && decide ((s.lane c cmd.job e).length < 64)) fun s =>
    (s.countOut c cmd).enterLane c e cmd

/-- Whether a free engine would take this command next: its job is chosen, and it is the head of the job's lane (R312, R314). -/
def State.nextIs (s : State) (c e : Nat) (cmd : Cmd) : Bool :=
  (s.engine c e).holder.isNone && s.bestTaker c e == some cmd.job && ((s.lane c cmd.job e).head?.map LaneCmd.cmd) == some cmd

/-- A command arrives at its engine: the holder stays; any other enters its lane, and takes a free engine if it is the next one
that the engine takes (R311, R312, R314; log entry 55). -/
def State.occupy (s : State) (c e : Nat) (cmd : Cmd) : State :=
  if !s.enabledCh c || (s.engine c e).holder == some cmd then s
  else
    let s1 := (s.accrue c).arrive c e cmd
    (s1.when (s1.nextIs c e cmd) fun s => s.takeEngine c e cmd.job).settle c

/-- A command of the CONTROL engine arrives, and is acted on when it holds the engine (R310). -/
def State.control (s : State) (c : Nat) (cmd : Cmd) (f : State → State) : State :=
  let s1 := s.occupy c 0 cmd
  s1.when (s1.enabledCh c && (s1.engine c 0).holder == some cmd) f

/-- A free engine takes the next command; an array that is powered down is woken first (R314, R539). -/
def State.engineStart (s : State) (c e : Nat) : State :=
  let s0 := s.accrue c
  if (s0.engine c e).holder.isSome then s0
  else match s0.bestTaker c e with
    | none => s0
    | some j =>
      if e = 1 ∧ s0.domSt c ≠ .on then s0.wake c
      else (s0.takeEngine c e j).settle c

/-- Whether R315 asks the holder of an engine to suspend. -/
def State.wantsPreempt (s : State) (c e : Nat) : Bool :=
  match (s.engine c e).holder with
  | none => false
  | some h =>
    !(s.engine c e).preempt && decide (2 ≤ s.savesFree c e) &&
      (s.readyJobs c e).any fun k =>
        k != h.job && decide ((s.rdF c Reg.JSC_CFG 15 0 * 1000 : Nat) < s.deficit c k e - s.deficit c h.job e)

/-- Requests the suspension of an engine's holder (R315). -/
def State.askPreempt (s : State) (c e : Nat) : State :=
  s.when (s.wantsPreempt c e) fun s =>
    (s.setEngine c e { s.engine c e with preempt := true }).bump c Reg.JSC_PREEMPT_CNT

/-- The next multiple of 64 ns at which a channel updates its deficits: the present one, if it has not updated at it (R313). -/
def State.nextTick (s : State) (c : Nat) : Nat := max (ceilDiv s.tim.now 64 * 64) ((s.jsc c).tick / 64 * 64 + 64)

/-- DEFICIT_UPDATE (R313, R315): the update at the channel's next multiple of 64 ns. -/
def execDeficitUpdate (c : Nat) (s : State) : Host.Outcome State Fault Refusal :=
  .next (s.when (s.enabledCh c) fun s =>
    let t := s.nextTick c
    ((((s.passToNow t).accrue c).roundD c).updJsc c fun x => { x with tick := t }).each [1, 2, 3] fun s e => s.askPreempt c e)

/-! ### CONTROL commands of JSC and DBG -/

/-- TOKEN_SET (R319). A TOKEN that is not the job's is refused with BAD_TOKEN and signals nothing (R308, R317). -/
def execTokenSet (c : Nat) (cmd : Cmd) (s : State) : Host.Outcome State Fault Refusal :=
  let t := recNat cmd.payload 0 1
  .next (s.control c cmd fun s => if s.tokOk c t cmd.job then
      ((s.accrue c).wr c Reg.JSC_TOK_VALUE (lo32 (recNat cmd.payload 4 4)) t).complete c cmd 0
    else s.complete c cmd 0x72 (quiet := true))

/-- COUNTER_READ (R574). -/
def execCounterRead (c : Nat) (cmd : Cmd) (s : State) : Host.Outcome State Fault Refusal :=
  let k := c * 64 + nfld (recNat cmd.payload 0 1) 5 0
  .next (s.control c cmd fun s =>
    let m := s.rd 0 Reg.DBG_SET_MATCH k
    let x := s.dbg.sets.at k
    if fld m 9 0 = cmd.job ∧ wbit m 10 = false then
      s.complete c cmd 0 (leBytes 8 x.cmds ++ leBytes 8 x.engineNs ++ leBytes 8 x.dramRd ++ leBytes 8 x.dramWr ++
        leBytes 8 x.stallNs ++ leBytes 8 x.waitNs)
    else s.complete c cmd 0x71 (quiet := true))

/-- TOKEN_ASSIGN (R317): a write to JSC_TOK_CTRL of the selected token; the value becomes 0. -/
def execTokenAssign (rq : Requester) (c : Nat) (v : Word) (s : State) : Host.Outcome State Fault Refusal :=
  .next (s.onWrite rq c Reg.JSC_TOK_CTRL v fun s =>
    let t := s.rdN c Reg.JSC_TOK_SEL
    (((s.accrue c).store c Reg.JSC_TOK_CTRL v).wr c Reg.JSC_TOK_VALUE 0 t).settle c)

/-! ### Job contexts (R303, R304, R330, R468) -/

/-- Whether a job's VALID binding names an LD whose CHANNEL_MASK holds the channel (R468). -/
def State.boundOn (s : State) (c j : Nat) : Bool :=
  let b := s.rd 0 Reg.CMP_JOB_LD j
  wbit b 31 && (s.ldChans (fld b 4 0)).testBit c

/-- The bits of a context word that can be written, by offset (R303). -/
def ctxMask (off : Nat) : Nat :=
  if off = 0x00 then 0x03FF0000 else if off = 0x04 then 0x000FFFFF else if off = 0x0C then 0x001F03FF
  else if off = 0x28 then 0 else 0xFFFFFFFF

/-- Stores a context word but for ENABLE, FAULTED and TEARING. -/
def State.ctxStore (s : State) (c j off : Nat) (v : Word) : State :=
  s.storeActive (jscPage c) (0x200 + off) j (ctxMask off) v

/-- EVQ_LOG2 moves the event queue between disabled and enabled; HEAD and TAIL restart when it is enabled (R332, R602). -/
def State.evqRestart (s old : State) (c j : Nat) : State :=
  if s.evqOn c j && !old.evqOn c j then ((s.wr c Reg.JSC_EVQ_HEAD 0 j).wr c Reg.JSC_EVQ_TAIL 0 j) else s

/-- A write of ENABLE 1 (R304, R468). -/
def State.jobEnable (s : State) (c j : Nat) (v : Word) : State :=
  if s.jobFaulted c j || s.jobTearing c j || !s.boundOn c j then s.logIgnored (jscPage c) 0x200 v
  else if s.jobEnabled c j then s
  else
    let s1 := s.ctxStore c j 0 v
    s1.wrAt (jscPage c) 0x200 (setBit (s1.jobWord c j 0) 0 true) j

/-- A write of ENABLE 0 (R304); the other fields of the word are written only if ENABLE was already 0. -/
def State.jobDisable (s : State) (c j : Nat) (v : Word) : State :=
  if s.jobEnabled c j then
    if s.jobTearing c j then s.logIgnored (jscPage c) 0x200 v else s.wrAt (jscPage c) 0x200 (setBit (s.jobWord c j 0) 0 false) j
  else s.ctxStore c j 0 v

/-- A write of a word of the selected job's context (R304). -/
def State.ctxWrite (s : State) (c j off : Nat) (v : Word) : State :=
  if off = 0 then if wbit v 0 then s.jobEnable c j v else s.jobDisable c j v
  else if s.jobEnabled c j && !(off == 0x08 || decide (0x2C ≤ off)) then s.logIgnored (jscPage c) (0x200 + off) v
  else (s.ctxStore c j off v).evqRestart s c j

/-- JOB_CONTEXT_WRITE (R304). -/
def execJobContextWrite (rq : Requester) (c off : Nat) (v : Word) (s : State) : Host.Outcome State Fault Refusal :=
  .next (s.withWrite rq (jscPage c) (0x200 + off) v fun s =>
    if off < 0x40 ∧ off % 4 = 0 then ((s.accrue c).ctxWrite c (s.rdN c Reg.JSC_JOB_SEL) off v).settle c else s)

/-- Whether a job holds a request slot or a prefix handle other than FREE on the channel (R330). -/
def State.holdsAny (s : State) (c j : Nat) : Bool :=
  ((s.ch c).rqt.entries.any fun e => e.2.job == j && e.2.st != .free) ||
    ((s.ch c).pgm.handles.any fun h => h.2.job == j && h.2.st != .free)

/-- CLEAR (R330): FAULTED clears and the job's deficits restart at 0; otherwise ignored and recorded. -/
def State.clearJob (s : State) (c j : Nat) : State :=
  if !s.jobFaulted c j || s.holdsAny c j then s.logIgnored (jscPage c) 0x10C 2
  else
    (s.wrAt (jscPage c) 0x200 (setBit (s.jobWord c j 0) 1 false) j).updJsc c fun x =>
      { x with deficits := [0, 1, 2, 3, 4].foldl (fun m e => m.set (laneKey j e) 0) x.deficits,
               shown := [0, 1, 2, 3, 4].foldl (fun m e => m.set (laneKey j e) 0) x.shown }

end Sys2Proof.Machine
end

