-- ==== Sys2Proof/Machine/Translate.lean ====
section
/-! DEFINITION. ATU: regions, table walks, the TLB, and faults in flight (R321 to R328, R336). -/
namespace Sys2Proof.Machine

/-- ATU's page of a channel. -/
def atuPage (c : Nat) : Page := ⟨.atu, c⟩

/-- ATU's state of a channel. -/
def State.atu (s : State) (c : Nat) : AtuCh := (s.ch c).atu

/-- Changes ATU's state of a channel. -/
def State.updAtu (s : State) (c : Nat) (f : AtuCh → AtuCh) : State := s.updCh c fun x => { x with atu := f x.atu }

/-- A failed translation or check (R324). -/
structure AtuErr where
  cause : Nat
  virtual : Bool
  addr : Nat
  deriving DecidableEq, Repr, Inhabited

/-- The entries of a selected register that differ from reset, by selector. -/
def State.selsOf (s : State) (i : Nat) (r : RegId) : List Nat :=
  (s.regs.filter fun e => e.1 / selSpan == regKey r.blk i r.off 0 / selSpan).map fun e => e.1 % selSpan

/-! ### Regions (R322) -/

/-- Whether a VALID region of the job contains an address and allows the access. -/
def State.regionHas (s : State) (c n j a : Nat) (write : Bool) : Bool :=
  let k := s.rd c Reg.ATU_RGN_CTRL n
  wbit k 31 && fld k 9 0 == j && wbit k (if write then 17 else 16) &&
    decide (s.rd64 c Reg.ATU_RGN_BASE_LO n ≤ a) && decide (a < s.rd64 c Reg.ATU_RGN_LIMIT_LO n)

/-- The regions of the job that contain an address and allow the access. -/
def State.regionsFor (s : State) (c j a : Nat) (write : Bool) : List Nat :=
  (s.selsOf c Reg.ATU_RGN_CTRL).filter fun n => s.regionHas c n j a write

/-- The check of one state address: NOT_RESIDENT in a region that is not resident, BOUNDS in none (R322) and
at a T2 address that no window covers (R479). -/
def State.regionCheck (s : State) (c j a : Nat) (write : Bool) : Option Nat :=
  let ns := s.regionsFor c j a write
  if ns.isEmpty || (inT2 a && (s.t2Window a).isNone) then some 3 else if ns.any fun n => s.rdB c Reg.ATU_RGN_CTRL 18 n then none else some 4

/-- Whether a range that a request supplies as a whole lies wholly in one region of the job (R322). -/
def State.rangeInRegion (s : State) (c j a n : Nat) (write : Bool) : Bool :=
  (s.regionsFor c j a write).any fun r => decide (a + n ≤ s.rd64 c Reg.ATU_RGN_LIMIT_LO r)

/-! ### Walks (R321) -/

/-- A leaf's permission for an access. -/
def leafAllows (e : Nat) (write : Bool) : Bool := e.testBit (if write then 2 else 1)

/-- Walks the tables for a job address from the level whose index lies at bit `12 + 9 * n`, `n` levels above the last
(R321). -/
def State.walk (s : State) (c j va : Nat) (write : Bool) : Nat → Nat → Except AtuErr Nat
  | n, tbl =>
    let a := tbl + 8 * (va / 2 ^ (12 + 9 * n) % 512)
    match s.regionCheck c j a false with
    | some cause => .error ⟨cause, false, a⟩
    | none =>
      if s.vpoison a 8 then .error ⟨6, true, va⟩
      else
        let e := s.vnat a 8
        let leaf := e.testBit 3
        if !e.testBit 0 then .error ⟨1, true, va⟩
        else if nfld e 11 4 ≠ 0 ∨ nfld e 63 48 ≠ 0 then .error ⟨5, true, va⟩
        else match n with
          | 0 =>
            if !leaf then .error ⟨5, true, va⟩
            else if !leafAllows e write then .error ⟨2, true, va⟩
            else .ok (nfld e 47 12 * 4096 + va % 4096)
          | 1 =>
            if leaf then
              if nfld e 20 12 ≠ 0 then .error ⟨5, true, va⟩
              else if !leafAllows e write then .error ⟨2, true, va⟩
              else .ok (nfld e 47 12 * 4096 + va % 2 ^ 21)
            else s.walk c j va write 0 (nfld e 47 12 * 4096)
          | m + 2 => if leaf then .error ⟨5, true, va⟩ else s.walk c j va write (m + 1) (nfld e 47 12 * 4096)

/-- The job's top table (R303). -/
def State.transRoot (s : State) (c j : Nat) : Nat := s.job64 c j 0x18

/-- TLB_EN (R336). -/
def State.tlbOn (s : State) (c : Nat) : Bool := s.rdB c Reg.ATU_CFG 0

/-- Puts a translation in the TLB; which entry it replaces is the device's choice (R323): a free value chooses among the
entries, and among a new place while there are fewer than 4,096. -/
def State.tlbFill (s : State) (c : Nat) (x : TlbEntry) : State :=
  let l := (s.atu c).tlb
  if l.isEmpty then s.updAtu c fun a => { a with tlb := [x] }
  else
    let (k, s1) := s.drawNat
    let i := k % (if l.length < 4096 then l.length + 1 else l.length)
    s1.updAtu c fun a => { a with tlb := if i < l.length then l.set i x else l ++ [x] }

/-- A cached translation that allows the access. -/
def State.tlbHit (s : State) (c j va : Nat) (write : Bool) : Option TlbEntry :=
  if s.tlbOn c then
    (s.atu c).tlb.find? fun x => x.job == j && x.page == va / 4096 && (if write then x.write else x.read)
  else none

/-- Whether a walk for the other kind of access would succeed too. -/
def State.walkOk (s : State) (c j va : Nat) (write : Bool) : Bool :=
  match s.walk c j va write 3 (s.transRoot c j) with
  | .ok _ => true
  | .error _ => false

/-- A walk after a TLB miss: counted, and its result cached (R323, R336). -/
def State.missWalk (s : State) (c j va : Nat) (write : Bool) : State × Except AtuErr Nat :=
  let s1 := (s.bump c Reg.ATU_TLB_MISS_CNT).bump c Reg.ATU_WALK_CNT
  match s.walk c j va write 3 (s.transRoot c j) with
  | .error e => (s1, .error e)
  | .ok a =>
    (s1.when (s.tlbOn c) fun s =>
      s.tlbFill c ⟨j, va / 4096, a / 4096, s.walkOk c j va false, s.walkOk c j va true⟩, .ok a)

/-- The check of the final address of a translation (R322). -/
def State.finalCheck (s : State) (c j va a : Nat) (write : Bool) : Except AtuErr Nat :=
  match s.regionCheck c j a write with
  | some cause => .error ⟨cause, true, va⟩
  | none => .ok a

/-- Translates a job address for one access (R321 to R323). -/
def State.translate (s : State) (c j va : Nat) (write : Bool) : State × Except AtuErr Nat :=
  if 2 ^ 48 ≤ va then (s, .error ⟨3, true, va⟩)
  else match s.tlbHit c j va write with
    | some x => (s, s.finalCheck c j va (x.frame * 4096 + va % 4096) write)
    | none =>
      match s.missWalk c j va write with
      | (s1, .ok a) => (s1, s.finalCheck c j va a write)
      | (s1, .error e) => (s1, .error e)

/-- The check of a state address that a job supplies directly (R322). -/
def State.checkState (s : State) (c j a : Nat) (write : Bool) : Except AtuErr Nat :=
  match s.regionCheck c j a write with
  | some cause => .error ⟨cause, false, a⟩
  | none => .ok a

/-- Checks a range of state addresses that a descriptor supplies, 4 KiB by 4 KiB (R322). -/
def State.checkSpan (s : State) (c j a n : Nat) (write : Bool) : Option AtuErr :=
  ((List.range ((a + n + 4095) / 4096 - a / 4096)).map fun k => max a ((a / 4096 + k) * 4096)).findSome? fun x =>
    match s.checkState c j x write with
    | .error e => some e
    | .ok _ => none

/-- Translates every 4 KiB part of a range, the first failure being reported. The parts are visited from the lowest;
`fuel` bounds them. -/
def State.translateRange (s : State) (c j va n : Nat) (write : Bool) : Nat → State × Except AtuErr (List (Nat × Nat))
  | 0 => (s, .ok [])
  | fuel + 1 =>
    if n = 0 then (s, .ok [])
    else
      let k := min n (4096 - va % 4096)
      match s.translate c j va write with
      | (s1, .error e) => (s1, .error e)
      | (s1, .ok a) =>
        match s1.translateRange c j (va + k) (n - k) write fuel with
        | (s2, .ok l) => (s2, .ok ((a, k) :: l))
        | (s2, .error e) => (s2, .error e)

/-- The bytes of translated parts. -/
def State.readParts (s : State) (l : List (Nat × Nat)) : List Byte := l.flatMap fun x => s.vread x.1 x.2

/-- What a job's read of translated parts does beside (R268, R480). -/
def State.touchParts (s : State) (job : Nat) (l : List (Nat × Nat)) : State := s.each l fun s x => s.touch job x.1 x.2

/-- Writes bytes of a job over translated parts. -/
def State.writeParts (s : State) : List (Nat × Nat) → List Byte → Nat → State
  | [], _, _ => s
  | (a, k) :: l, bs, job => (s.vwrite a (bs.take k) job).writeParts l (bs.drop k) job

/-- Whether a part of translated parts lies in T2 behind a port without a link: a write of it fails (R481). -/
def State.partsGone (s : State) (l : List (Nat × Nat)) : Bool := l.any fun p => s.t2Gone p.1

/-! ### Faults (R324 to R328) -/

/-- The 32-byte fault record (R324). -/
def faultRec (id : Nat) (x : AtuFault) : List Byte :=
  leBytes 4 (fieldAt 0 6 id + fieldAt 8 3 x.engine + fieldAt 16 3 x.cause + fieldAt 19 1 (b2n x.write) +
      fieldAt 20 1 (b2n x.virtual)) ++
    leBytes 4 (fieldAt 0 10 x.job + fieldAt 16 12 x.op) ++ leBytes 8 x.addr ++ leBytes 8 x.tag ++ leBytes 8 x.tod

/-- Writes the record of an outstanding fault if the fault queue has room (R324, R336). -/
def State.postFault (s : State) (c id : Nat) : State :=
  match (s.atu c).faults.at id with
  | none => s
  | some x =>
    let size := 2 ^ s.rdF c Reg.ATU_FQ_CFG 5 1
    let t := s.rdN c Reg.ATU_FQ_TAIL
    if x.posted || !s.rdB c Reg.ATU_FQ_CFG 0 || ringFull size (s.rdN c Reg.ATU_FQ_HEAD) t then s
    else
      ((((s.vwrite (s.rd64 c Reg.ATU_FQ_BASE_LO + 32 * t) (faultRec id x)).wr c Reg.ATU_FQ_TAIL
        (lo32 ((t + 1) % size))).bump c Reg.ATU_FAULT_CNT).updAtu c fun a =>
          { a with faults := a.faults.set id (some { x with posted := true, postedAt := s.tim.now }) }).evt (atuPage c) 0

/-- Posts the records that wait for room in the fault queue. -/
def State.flushFaults (s : State) (c : Nat) : State := s.each (List.range 64) fun s id => s.postFault c id

/-- The lowest free FAULT_ID (DESIGN CHOICE, log entry 12). -/
def State.freeFaultId (s : State) (c : Nat) : Option Nat :=
  (List.range 64).find? fun i => ((s.atu c).faults.at i).isNone

/-- Records a fault: under a free ID, or among those that wait for one (R324). The lane state that says so. -/
def State.newFault (s : State) (c : Nat) (x : AtuFault) : State × LaneState :=
  match s.freeFaultId c with
  | some id => ((s.updAtu c fun a => { a with faults := a.faults.set id (some x) }).postFault c id, .faulted id)
  | none =>
    (((s.updAtu c fun a => { a with waiting := a.waiting ++ [x] }).bump c Reg.ATU_FAULT_WAIT_CNT).evt (atuPage c) 1,
      .faultWait)

/-- The fault of a command's access. -/
def State.faultOf (s : State) (e : Nat) (cmd : Cmd) (x : AtuErr) (write : Bool) : AtuFault :=
  { engine := e, cause := x.cause, write := write, virtual := x.virtual, job := cmd.job,
    op := if e = 4 then 0xFFF else cmd.op, addr := x.addr, tag := cmd.tag, tod := s.tim.tod, posted := false, postedAt := 0 }

/-- Whether a fault of the command that holds an engine is outstanding. -/
def State.engineStuck (s : State) (c e j : Nat) : Bool :=
  ((s.atu c).faults.any fun f => (f.2.map fun x => x.engine == e && x.job == j).getD false) ||
    (s.atu c).waiting.any fun x => x.engine == e && x.job == j

/-- Sets the holder of an engine aside on a fault (R324, R325). In a job whose TEARING is set there is no record and the
command is discarded (R328), and counts among those that the tear-down discards (R329). -/
def State.faultHolder (s : State) (c e : Nat) (cmd : Cmd) (x : AtuErr) (write saved : Bool) : State :=
  if s.jobTearing c cmd.job then
    ((((s.accrue c).accountEngine c e).freeEngine c e).updJsc c fun y => { y with torn := y.torn.upd cmd.job (· + 1) }).settle c
  else
    let (s1, st) := s.newFault c (s.faultOf e cmd x write)
    s1.setAside c e st saved

/-- An ID frees: the oldest fault that waits takes it (R324). -/
def State.freeFault (s : State) (c id : Nat) : State :=
  let s1 := s.updAtu c fun a => { a with faults := a.faults.set id none }
  match (s.atu c).waiting with
  | [] => s1
  | w :: ws =>
    let s2 := (s1.updAtu c fun a => { a with waiting := ws }).newFault c w
    s2.1.setLane c w.job w.engine (laneId s2.2 (s2.1.lane c w.job w.engine))

/-- Withdraws a job's faults on a channel (R328, R329). -/
def State.withdrawFaults (s : State) (c : Nat) (p : AtuFault → Bool) : State :=
  let s1 := s.updAtu c fun a => { a with waiting := a.waiting.filter fun w => !p w }
  s1.each (List.range 64) fun s id =>
    match (s.atu c).faults.at id with
    | some x => if p x then s.freeFault c id else s
    | none => s

/-- A response that is ignored and counted (R328). -/
def State.respIgnored (s : State) (c : Nat) : State := s.bump c Reg.ATU_RESP_IGNORED_CNT

/-- The outstanding fault that a response can serve (R328). -/
def State.servable (s : State) (c id : Nat) : Option AtuFault :=
  match (s.atu c).faults.at id with
  | some x => if s.jobTearing c x.job then none else some x
  | none => none

/-- RETRY (R327): the access is made again when the command next runs. -/
def State.faultRetry (s : State) (c id : Nat) : State :=
  match s.servable c id with
  | none => s.respIgnored c
  | some x =>
    let s1 := s.accrue c
    ((s1.setLane c x.job x.engine (laneRetry id (s1.lane c x.job x.engine))).freeFault c id).settle c

/-- FAIL (R327, R329). -/
def State.faultFail (s : State) (c id : Nat) : State :=
  match s.servable c id with
  | none => s.respIgnored c
  | some x => s.tearDown x.job 1

/-- FAULT_FAIL (R327, R336). -/
def execFaultFail (rq : Requester) (c id : Nat) (s : State) : Host.Outcome State Fault Refusal :=
  .next (s.onWrite rq c Reg.ATU_FAULT_RESP (lo32 (id % 64 + 0x200)) fun s => s.faultFail c (id % 64))

/-- FAULT_TIMEOUT_MS in ns (R334). -/
def State.faultTimeoutNs (s : State) (c : Nat) : Nat := s.rdF c Reg.JSC_CFG 31 16 * 1000000

/-- FAULT_TIMEOUT (R327): a posted fault is still outstanding at its timeout. -/
def execFaultTimeout (c id : Nat) (s : State) : Host.Outcome State Fault Refusal :=
  .next (match s.servable c id with
    | none => s
    | some x =>
      s.when (s.enabledCh c && x.posted && s.faultTimeoutNs c != 0) fun s =>
        (s.passToNow (x.postedAt + s.faultTimeoutNs c)).tearDown x.job 2)

/-- Whether an invalidation covers a cached translation. -/
def invCovers (inv : Nat × Bool × Nat × Nat) (x : TlbEntry) : Bool :=
  (inv.2.1 || x.job == inv.1) &&
    (inv.2.2.2 == 0 || (decide (inv.2.2.1 / 4096 ≤ x.page) && decide (x.page < inv.2.2.1 / 4096 + inv.2.2.2)))

/-- ATU_INV_CTRL with GO: an invalidation of the job, the addresses and the pages written; one that still runs is done first
(R323, R336). -/
def State.startInv (s : State) (c : Nat) (v : Word) : State :=
  let j := s.rd c Reg.ATU_INV_JOB
  s.updAtu c fun a => { a with
    inv := some (fld j 9 0, wbit j 31, s.rd64 c Reg.ATU_INV_VA_LO, fld v 19 0)
    tlb := match a.inv with
      | some i => a.tlb.filter fun x => !invCovers i x
      | none => a.tlb }

/-- TLB_INVALIDATE (R323). -/
def execTlbInvalidate (rq : Requester) (c : Nat) (v : Word) (s : State) : Host.Outcome State Fault Refusal :=
  .next (s.onWrite rq c Reg.ATU_INV_CTRL v fun s => s.when (wbit v 31) fun s => s.startInv c v)

/-- INVALIDATE_DONE (R323). -/
def execInvalidateDone (c : Nat) (s : State) : Host.Outcome State Fault Refusal :=
  .next (match (s.atu c).inv with
    | none => s
    | some i => s.updAtu c fun a => { a with inv := none, tlb := a.tlb.filter fun x => !invCovers i x })

/-- ATU_STATUS (R336). -/
def State.atuStatus (s : State) (c : Nat) : Word :=
  BitVec.ofNat 32 (((List.range 64).filter fun i => ((s.atu c).faults.at i).isSome).length +
    fieldAt 8 1 (b2n (s.atu c).inv.isSome))

end Sys2Proof.Machine
end

