-- ==== Sys2Proof/Machine/Pages.lean ====
section
/-! DEFINITION. PGM: the T1 layout, page tables, references, allocation, releases, evictions and prefix handles (R177 to
R199, R210 to R215, R219, R220). -/
namespace Sys2Proof.Machine

/-- PGM's page of a channel. -/
def pgmPage (c : Nat) : Page := ⟨.pgm, c⟩

/-- ADM's page of a channel. -/
def admPage (c : Nat) : Page := ⟨.adm, c⟩

/-- PGM's state of a channel. -/
def State.pgm (s : State) (c : Nat) : PgmCh := (s.ch c).pgm

/-- Changes PGM's state of a channel. -/
def State.updPgm (s : State) (c : Nat) (f : PgmCh → PgmCh) : State := s.updCh c fun x => { x with pgm := f x.pgm }

/-! ### The layout (R181, R182) -/

/-- P: the page slots of a channel. -/
def PgmCh.slots (p : PgmCh) : Nat := 4 * (p.poolSlots / 5)

/-- The state address of page slot `i` of the pool. -/
def State.slotAddr (s : State) (c i : Nat) : Nat := t1Base c + ((s.pgm c).poolBase + i) * 0x4000

/-- The state address of the side record of page slot `i`. -/
def State.sideAddr (s : State) (c i : Nat) : Nat :=
  t1Base c + ((s.pgm c).poolBase + (s.pgm c).slots + i / 4) * 0x4000 + 4096 * (i % 4)

/-- The pool index of the page slot at a T1 address of channel `c`. -/
def State.slotOf (s : State) (c a : Nat) : Nat := (a - t1Base c) / 0x4000 - (s.pgm c).poolBase

/-- The ranges of `n` image bytes from an image offset on: split between page slot and side record in T1, contiguous in
the other tiers (R181). -/
def State.imgRanges (s : State) (p : Place) (off n : Nat) : List (Nat × Nat) :=
  if p.tier = 1 then
    let c := t1Channel p.addr
    let a := min n (16384 - off)
    (if a = 0 then [] else [(p.addr + off, a)]) ++
      (if n - a = 0 then [] else [(s.sideAddr c (s.slotOf c p.addr) + (off + a - 16384), n - a)])
  else [(p.addr + off, n)]

/-- Reads image bytes. -/
def State.imgRead (s : State) (p : Place) (off n : Nat) : List Byte :=
  (s.imgRanges p off n).flatMap fun r => s.vread r.1 r.2

/-- Whether image bytes are poison. -/
def State.imgPoison (s : State) (p : Place) (off n : Nat) : Bool :=
  (s.imgRanges p off n).any fun r => s.vpoison r.1 r.2

/-- Writes bytes over ranges. -/
def State.writeRanges (s : State) (job : Nat) : List (Nat × Nat) → List Byte → State
  | [], _ => s
  | (a, k) :: l, bs => (s.vwrite a (bs.take k) job).writeRanges job l (bs.drop k)

/-- Writes image bytes. -/
def State.imgWrite (s : State) (p : Place) (off : Nat) (bs : List Byte) (job : Nat := 0) : State :=
  s.writeRanges job (s.imgRanges p off bs.length) bs

/-- Lays the slots out from the registers, as a channel's initialisation does (R182). -/
def State.pgmLayout (s : State) (c : Nat) : State :=
  let n := s.rdN c Reg.PGM_POOL_SLOTS
  let b := s.rdN c Reg.PGM_POOL_BASE
  let p := 4 * (n / 5)
  let u := s.rdN c Reg.PGM_TBL_UNITS
  ((((s.updPgm c fun x => { x with poolBase := b, poolSlots := n, tblBase := s.rdN c Reg.PGM_TBL_BASE, tblUnits := u }).wr
    c Reg.PGM_PAGE_COUNT (lo32 p)).wr c Reg.PGM_SIDE_BASE (lo32 (b + p))).wr c Reg.PGM_TBL_FREE (lo32 u)).wr c
    Reg.PGM_PAGES_FREE (lo32 p)

/-! ### Charges (R70, R214) -/

/-- The tenant of a job on a channel. -/
def State.tenant (s : State) (c j : Nat) : Nat := fld (s.jobWord c j 0) 25 16

/-- Adds to ADM_FREE_PAGES. -/
def State.freeAdd (s : State) (c n : Nat) : State := s.wr c Reg.ADM_FREE_PAGES (lo32 (s.rdN c Reg.ADM_FREE_PAGES + n))

/-- Takes from ADM_FREE_PAGES; RESERVE_LOW is posted as it falls below ADM_RESERVE_PAGES (R99). -/
def State.freeSub (s : State) (c n : Nat) : State :=
  let f := s.rdN c Reg.ADM_FREE_PAGES
  let r := s.rdN c Reg.ADM_RESERVE_PAGES
  (s.wr c Reg.ADM_FREE_PAGES (lo32 (f - n))).when (decide (r ≤ f) && decide (f - n < r)) fun s => s.evt (admPage c) 3

/-- Adds to a tenant's charge on a channel. -/
def State.charge (s : State) (c t n : Nat) : State :=
  s.wr c Reg.ADM_TQ_CHARGED (lo32 (s.rdN c Reg.ADM_TQ_CHARGED t + n)) t

/-- Takes from a tenant's charge on a channel. -/
def State.uncharge (s : State) (c t n : Nat) : State :=
  s.wr c Reg.ADM_TQ_CHARGED (lo32 (s.rdN c Reg.ADM_TQ_CHARGED t - n)) t

/-! ### Slots and table units -/

/-- The `k`-th number, from 0, that a rising list does not hold. -/
def kthFree (used : List Nat) (k : Nat) : Nat := used.foldl (fun k u => if u ≤ k then k + 1 else k) k

/-- Puts a number in its place in a rising list. -/
def insNat (x : Nat) : List Nat → List Nat
  | [] => [x]
  | y :: l => if x < y then x :: y :: l else if x = y then y :: l else y :: insNat x l

/-- PGM_PAGES_FREE (R220). -/
def State.pagesFreeReg (s : State) (c : Nat) : State :=
  s.wr c Reg.PGM_PAGES_FREE (lo32 ((s.pgm c).slots - (s.pgm c).used.length))

/-- Takes a free page slot of the pool; which one is the device's choice (log entry 6). -/
def State.takeSlot (s : State) (c : Nat) : State × Option Nat :=
  let p := s.pgm c
  if p.slots ≤ p.used.length then (s, none)
  else
    let (k, s1) := s.drawNat
    let i := kthFree p.used (k % (p.slots - p.used.length))
    ((s1.updPgm c fun x => { x with used := insNat i x.used }).pagesFreeReg c, some i)

/-- A page slot returns to the pool (R199, R210). -/
def State.giveSlot (s : State) (c i : Nat) : State :=
  ((s.updPgm c fun x => { x with used := x.used.erase i }).pagesFreeReg c).freeAdd c 1

/-- PGM_TBL_FREE. -/
def State.tblFreeReg (s : State) (c : Nat) : State :=
  s.wr c Reg.PGM_TBL_FREE (lo32 ((s.pgm c).tblUnits - (s.pgm c).units.length))

/-- The state address of a unit of the table region. -/
def State.unitAddr (s : State) (c u : Nat) : Nat := t1Base c + (s.pgm c).tblBase * 0x4000 + 4096 * u

/-- The free units of borrowed slots: slot and unit (R190). -/
def PgmCh.borrowedFree (p : PgmCh) : List (Nat × Nat) :=
  p.borrowed.flatMap fun b => (b.2.zipIdx.filter fun x => x.1 == 0).map fun x => (b.1, x.2)

/-- Takes a page slot from the channel reserve for tables (R190). -/
def State.borrowSlot (s : State) (c : Nat) (use : List Nat) : State × Option Nat :=
  match s.takeSlot c with
  | (s1, none) => (s1, none)
  | (s1, some i) =>
    ((s1.updPgm c fun x => { x with borrowed := SMap.place i use x.borrowed }).freeSub c 1, some i)

/-- Takes one free table unit for table `t`: of the region, else of a borrowed slot, else of a newly borrowed one, with
TABLE_LOW; which free unit is not specified (R190). The unit's state address. -/
def State.takeUnit (s : State) (c t : Nat) : State × Option Nat :=
  let p := s.pgm c
  if p.units.length < p.tblUnits then
    let (k, s1) := s.drawNat
    let u := kthFree (p.units.map Prod.fst) (k % (p.tblUnits - p.units.length))
    ((s1.updPgm c fun x => { x with units := SMap.place u t x.units }).tblFreeReg c, some (s.unitAddr c u))
  else if p.borrowedFree.isEmpty then
    match s.borrowSlot c [t, 0, 0, 0] with
    | (s1, none) => (s1, none)
    | (s1, some i) => (s1.evtPriv (pgmPage c) 1 0x33 0 0, some (s.slotAddr c i))
  else
    let (k, s1) := s.drawNat
    let b := p.borrowedFree.getD (k % p.borrowedFree.length) (0, 0)
    (s1.updPgm c fun x => { x with borrowed := x.borrowed.map fun e =>
        if e.1 = b.1 then (e.1, e.2.set b.2 t) else e }, some (s.slotAddr c b.1 + 4096 * b.2))

/-- The groups of four region units of which any is in use, rising. -/
def PgmCh.usedGroups (p : PgmCh) : List Nat := p.units.foldl (fun l e => insNat (e.1 / 4) l) []

/-- Takes a root: an aligned group of four region units, else a whole page slot (R190). Its state address. -/
def State.takeRoot (s : State) (c t : Nat) : State × Option Nat :=
  let p := s.pgm c
  let g := p.usedGroups
  if g.length < p.tblUnits / 4 then
    let (k, s1) := s.drawNat
    let u := 4 * kthFree g (k % (p.tblUnits / 4 - g.length))
    ((s1.updPgm c fun x => { x with units := [u, u + 1, u + 2, u + 3].foldl (fun m i => SMap.place i t m) x.units }).tblFreeReg
      c, some (s.unitAddr c u))
  else
    match s.borrowSlot c [t, t, t, t] with
    | (s1, none) => (s1, none)
    | (s1, some i) => (s1, some (s.slotAddr c i))

/-- A borrowed slot all of whose units are free returns to the pool (R190). -/
def State.returnBorrowed (s : State) (c : Nat) : State :=
  let done := ((s.pgm c).borrowed.filter fun e => e.2.all fun u => u == 0).map Prod.fst
  s.each done fun s i => (s.updPgm c fun x => { x with borrowed := SMap.drop i x.borrowed }).giveSlot c i

/-! ### Tables and their entries (R185 to R188) -/

/-- The key of a page table entry. -/
def pteKey (t layer j : Nat) : Nat := (t * 4096 + layer) * 65536 + j

/-- The table of a key. -/
def keyTable (k : Nat) : Nat := k / (4096 * 65536)

/-- The layer of a key. -/
def keyLayer (k : Nat) : Nat := k / 65536 % 4096

/-- The page index of a key. -/
def keyPage (k : Nat) : Nat := k % 65536

/-- A page table entry. -/
def State.pte (s : State) (c k : Nat) : Pte := (s.pgm c).ptes.at k

/-- A page table. -/
def State.table (s : State) (c t : Nat) : PgTable := (s.pgm c).tables.at t

/-- The first-level entry of a key (R185). -/
def PgTable.l1 (t : PgTable) (k : Nat) : Nat := keyLayer k * t.stride + keyPage k / 256

/-- The state address of the table unit that holds an entry. -/
def State.pteUnit (s : State) (c k : Nat) : Nat := (s.table c (keyTable k)).l2.at ((s.table c (keyTable k)).l1 k)

/-- The state address of an entry (R219). -/
def State.pteAddr (s : State) (c k : Nat) : Nat := s.pteUnit c k + 16 * (keyPage k % 256)

/-- The entry that gives a page its state, tier and address: itself, or a VALID link's home (R188). -/
def State.homeKey (s : State) (c k : Nat) : Nat :=
  let p := s.pte c k
  if p.link && p.st == .valid then p.home else k

/-- The state that an entry resolves to (R188, R189). -/
def State.resolved (s : State) (c k : Nat) : PteState := (s.pte c (s.homeKey c k)).st

/-- Whether a page is in its request's page list (R189). -/
def State.listed (s : State) (c k : Nat) : Bool := (s.pte c k).there && (s.pte c k).st != .evicted

/-- Where an entry resolves to. -/
def State.placeOf (s : State) (c k : Nat) : Place :=
  let p := s.pte c (s.homeKey c k)
  ⟨p.tier, p.addr⟩

/-- The 16 bytes of an entry (R187). `unit` and `idx` name the home's table unit and slot for a link. -/
def pteBytes (p : Pte) (unit idx : Nat) : List Byte :=
  let a := if p.link then unit else p.addr
  leBytes 4 (fieldAt 0 2 p.st.code + fieldAt 2 3 p.tier + fieldAt 5 1 (b2n p.link) + fieldAt 6 5 p.held +
      fieldAt 12 20 (a / 4096)) ++
    leBytes 4 (fieldAt 0 16 (a / 2 ^ 32) + fieldAt 16 8 (if p.link then idx else 0)) ++ leBytes 4 p.ref ++
    leBytes 4 (fieldAt 0 16 p.score + fieldAt 16 6 p.moveId)

/-- Writes an entry, and its bytes in its table unit. -/
def State.setPte (s : State) (c k : Nat) (p : Pte) : State :=
  let s1 := s.updPgm c fun x => { x with ptes := x.ptes.set k p }
  let u := s.pteUnit c k
  s1.when (u != 0) fun s => s.vwrite (u + 16 * (keyPage k % 256)) (pteBytes p (s.pteUnit c p.home) (keyPage p.home % 256))

/-- Writes a first-level entry's bytes (R186). -/
def State.writeL1 (s : State) (c t i unit : Nat) : State :=
  let x := s.table c t
  s.vwrite (x.root + 4 * i) (leBytes 4 (fieldAt 0 16 ((unit - s.unitAddr c 0) / 4096) + fieldAt 23 1 1 +
    fieldAt 24 8 (if i = 0 then x.stride - 1 else 0)))

/-- The second-level table of a key, allocated when the first entry in its range is written (R186); `false` when there is
no unit and no slot for it. -/
def State.ensureL2 (s : State) (c k : Nat) : State × Bool :=
  let t := keyTable k
  let x := s.table c t
  if x.l2.at (x.l1 k) ≠ 0 then (s, true)
  else match s.takeUnit c t with
    | (s1, none) => (s1, false)
    | (s1, some a) =>
      (((s1.dzero a 4096).updPgm c fun p => { p with tables := p.tables.upd t fun x => { x with l2 := x.l2.set (x.l1 k) a } }).writeL1
        c t (x.l1 k) a, true)

/-- The listed keys of a table, in order of layer and page. -/
def State.tableKeys (s : State) (c t : Nat) : List Nat :=
  (s.pgm c).ptes.keysWhere fun k p => keyTable k == t && p.there

/-- The pages of one layer of a table, rising. -/
def State.layerKeys (s : State) (c t layer : Nat) : List Nat :=
  (s.tableKeys c t).filter fun k => keyLayer k == layer && s.listed c k

/-- A new page table with its root (R185), none of whose first-level entries is PRESENT (R186). The number of the table; none when
no root can be had. -/
def State.newTable (s : State) (c : Nat) (owner : TblOwner) (job layers stride userTag : Nat) : State × Option Nat :=
  let t := (s.pgm c).nextTable + 1
  match s.takeRoot c t with
  | (s1, none) => (s1, none)
  | (s1, some a) =>
    let x : PgTable := { owner := owner, job := job, root := a, layers := layers, stride := stride, l2 := [],
                         userTag := userTag }
    (((s1.updPgm c fun p => { p with nextTable := t, tables := p.tables.set t x }).dzero a 16384).vwrite a
      (leBytes 4 (fieldAt 24 8 (stride - 1))), some t)

/-- The state addresses of a table's units that hold a home PTE with a nonzero REFCOUNT (R190). -/
def State.liveUnits (s : State) (c t : Nat) : List Nat :=
  ((s.pgm c).ptes.keysWhere fun k p => keyTable k == t && p.there && !p.link && p.ref != 0).map (s.pteUnit c)

/-- Frees each unit of a released table that holds no live home, the root's four among them (R190). -/
def State.reclaimTable (s : State) (c t : Nat) : State :=
  if (s.table c t).owner != .none then s
  else
    let live := s.liveUnits c t
    ((s.updPgm c fun x =>
      { x with
        tables := if live.isEmpty then x.tables.set t default
          else x.tables.upd t fun y => { y with l2 := y.l2.filter fun e => live.contains e.2 }
        ptes := x.ptes.filter fun e => keyTable e.1 != t || live.contains (s.pteUnit c e.1)
        units := x.units.filter fun e => e.2 != t || live.contains (s.unitAddr c e.1)
        borrowed := x.borrowed.map fun e => (e.1, e.2.zipIdx.map fun u =>
          if u.1 = t ∧ live.contains (s.slotAddr c e.1 + 4096 * u.2) = false then 0 else u.1) }).tblFreeReg
      c).returnBorrowed c

/-! ### Freeing images (R199, R210, R213) -/

/-- The number by which the drain list knows a stream of a job's sweep: its member's slot, its head and its first row, which stay
as they are when streams are laid beside it. -/
def streamId (j : Nat) (t : StreamRun) : Nat := ((j * 4096 + t.slot) * 4096 + t.head) * 65536 + t.rowBase

/-- The reads of a place that have not completed (R210): the unfinished streams of the channel's sweeps that resolved a
page to it, and the move slots that copy it, as 2^64 + slot. -/
def State.readersOf (s : State) (c : Nat) (p : Place) : List Nat :=
  ((s.ch c).atn.runs.flatMap fun e => match e.2 with
    | none => []
    | some r => (r.streams.filter fun x => !x.finished && x.pages.any fun g => g.place == p).map (streamId e.1)) ++
    ((s.pgm c).moves.filterMap fun e => match e.2 with
      | some m => if m.src = p then some (2 ^ 64 + e.1) else none
      | none => none)

/-- Whether a reader of R210 still reads. -/
def State.stillReads (s : State) (c : Nat) (p : Place) (r : Nat) : Bool := (s.readersOf c p).contains r

/-- An image's place becomes free: a page slot returns to the pool, or is held for a scrub if it was POISONED; a T0 image
and a park-area image return to their areas (R199, R202, R213). -/
def State.placeFree (s : State) (c : Nat) (p : Place) (poisoned : Bool) : State :=
  match p.tier with
  | 1 =>
    let h := t1Channel p.addr
    let i := s.slotOf h p.addr
    if poisoned then s.updPgm h fun x => { x with scrub := insNat i x.scrub } else s.giveSlot h i
  | 0 => s.updPgm c fun x => { x with t0used := x.t0used.erase ((p.addr - t0Base c - s.rdN c Reg.PGM_T0_BASE) / 20480) }
  | _ => s.updPgm c fun x => { x with parkUsed := x.parkUsed.map fun e => (e.1, e.2.erase p.addr) }

/-- Frees an image: at once if no read holds it, else through the drain list (R210). -/
def State.freeImage (s : State) (c : Nat) (p : Place) (poisoned : Bool) : State :=
  let rs := s.readersOf c p
  if rs.isEmpty then s.placeFree c p poisoned
  else s.updPgm c fun x => { x with drain := x.drain ++ [⟨p, poisoned, rs⟩] }

/-- DRAIN_RELEASE (R210): the images of a channel whose last read has completed return. `a` is the image's address. -/
def State.drainRelease (s : State) (c a : Nat) : State :=
  match (s.pgm c).drain.find? fun d => d.place.addr == a && !d.readers.any (s.stillReads c d.place) with
  | none => s
  | some d => (s.updPgm c fun x => { x with drain := x.drain.erase d }).placeFree c d.place d.poisoned

/-! ### References (R194) -/

/-- Adds a reference to a home. -/
def State.incRef (s : State) (c k : Nat) : State := s.setPte c k { s.pte c k with ref := (s.pte c k).ref + 1 }

/-- Drops a reference to a home; at 0 the page is freed and its entry goes (R194, R199). -/
def State.decRef (s : State) (c k : Nat) : State :=
  let p := s.pte c k
  if 1 < p.ref then s.setPte c k { p with ref := p.ref - 1 }
  else (s.setPte c k { (default : Pte) with there := true, st := .evicted }).freeImage c ⟨p.tier, p.addr⟩ (p.st == .poisoned)

/-- Drops the reference that an entry is: a home's own, or a VALID link's on its home. -/
def State.dropPte (s : State) (c k : Nat) : State :=
  let p := s.pte c k
  if !p.there || p.st == .evicted then s
  else if p.link then (s.setPte c k { p with st := .evicted }).decRef c p.home
  else if 1 < p.ref then s.setPte c k { p with ref := p.ref - 1 }
  else s.decRef c k

/-- Releases every page of a table, and the table (R63, R190). -/
def State.releaseTable (s : State) (c t : Nat) : State :=
  if t = 0 then s
  else
    ((s.each (s.tableKeys c t) fun s k => s.dropPte c k).updPgm c fun x =>
      { x with tables := x.tables.upd t fun y => { y with owner := .none } }).reclaimTable c t

/-! ### Request entries that pages charge -/

/-- A request entry. -/
def State.req (s : State) (c i : Nat) : ReqEntry := (s.ch c).rqt.entries.at i

/-- Changes a request entry. -/
def State.updReq (s : State) (c i : Nat) (f : ReqEntry → ReqEntry) : State :=
  s.updCh c fun x => { x with rqt := { x.rqt with entries := x.rqt.entries.upd i f } }

/-- Allocates a page slot for a request: from its reservation, and beyond it, where `beyond` allows, from the channel
reserve (R70, R214). The place of the page. -/
def State.allocPage (s : State) (c i : Nat) (beyond : Bool) : State × Option Place :=
  let e := s.req c i
  if e.pagesReserved = 0 ∧ (beyond = false ∨ s.rdN c Reg.ADM_FREE_PAGES = 0) then (s, none)
  else match s.takeSlot c with
    | (s1, none) => (s1, none)
    | (s1, some k) =>
      let p : Place := ⟨1, s.slotAddr c k⟩
      if 0 < e.pagesReserved then
        (s1.updReq c i fun e => { e with pagesReserved := e.pagesReserved - 1, pagesHeld := e.pagesHeld + 1 }, some p)
      else
        (((s1.updReq c i fun e => { e with pagesHeld := e.pagesHeld + 1 }).freeSub c 1).charge c (s.tenant c e.job) 1, some p)

/-! ### Poison (R211) -/

/-- The job that owns the table of a key, and its request index and tag for events (R219). -/
def State.tableEvent (s : State) (c k : Nat) : Nat × Nat × Nat :=
  let t := s.table c (keyTable k)
  match t.owner with
  | .req i => (t.job, c * 4096 + i, (s.req c i).gen)
  | _ => (t.job, 0xFFFF, 0)

/-- At an outbound source a POISONED page's whole image is answered as poison (R209). -/
def State.spoilImage (s : State) (c k : Nat) : State :=
  let p := s.pte c k
  let out := match (s.table c (keyTable k)).owner with
    | .req i => (s.req c i).outbound
    | _ => false
  s.when (out && p.there && !p.link && p.st == .poisoned && decide (p.tier ≤ 2)) fun s =>
    s.each (s.imgRanges ⟨p.tier, p.addr⟩ 0 20480) fun s r => s.vmark r.1 r.2

/-- A home becomes POISONED: counted, and posted to the job of its table (R211). -/
def State.poisonPage (s : State) (c k : Nat) : State :=
  let p := s.pte c k
  if !p.there || p.link || p.st == .poisoned || p.st == .evicted then s
  else
    let (j, r, g) := s.tableEvent c k
    (((s.setPte c k { p with st := .poisoned }).spoilImage c k).bump c Reg.PGM_POISON_CNT).evtJob c .pgm 0 0x30 0 g r j (s.pteAddr c k)

/-! ### Prefix handles (R191 to R193, R196) -/

/-- A handle record. -/
def State.handle (s : State) (c i : Nat) : Handle := (s.pgm c).handles.at i

/-- Replaces a handle record, and PGM_HANDLES with it. -/
def State.setHandle (s : State) (c i : Nat) (h : Handle) : State :=
  let s1 := s.updPgm c fun x => { x with handles := x.handles.set i h }
  s1.wr c Reg.PGM_HANDLES (lo32 ((s1.pgm c).handles.filter fun e => e.2.st != .free).length)

/-- The INDEX of a handle number. -/
def hIdx (h : Nat) : Nat := nfld h 13 0

/-- The GEN of a handle number. -/
def hGen (h : Nat) : Nat := nfld h 31 16

/-- Whether a handle number names a handle of the job that is neither FREE nor FREEING (R192). -/
def State.handleOk (s : State) (c job h : Nat) : Bool :=
  let x := s.handle c (hIdx h)
  hIdx h != 0 && nfld h 15 14 == 0 && x.gen == hGen h && x.job == job && (x.st == .empty || x.st == .held)

/-- The lowest handle index that is FREE (DESIGN CHOICE, log entry 12). -/
def State.freeHandle (s : State) (c : Nat) : Option Nat :=
  let live := ((s.pgm c).handles.filter fun e => e.2.st != .free).map Prod.fst
  let i := 1 + kthFree (live.map fun x => x - 1) 0
  if i < 16384 then some i else none

/-- A page that leaves the channel's slots lowers its request's PAGES_HELD and the charge (DEDUCED, log entry 13). -/
def State.unhold (s : State) (c i : Nat) : State :=
  if (s.req c i).pagesHeld = 0 then s
  else (s.updReq c i fun e => { e with pagesHeld := e.pagesHeld - 1 }).uncharge c (s.tenant c (s.req c i).job) 1

/-- A home's page slot leaves the PAGES_HELD of the handle or request whose table holds it, with the charge (R191; DEDUCED, log entry
13). -/
def State.slotLeft (s : State) (c k : Nat) : State :=
  match (s.table c (keyTable k)).owner with
  | .req i => s.unhold c i
  | .handle i =>
    let h := s.handle c i
    if h.pagesHeld = 0 then s else (s.setHandle c i { h with pagesHeld := h.pagesHeld - 1 }).uncharge c (s.tenant c h.job) 1
  | .none => s

/-- A home takes a page slot again: the reverse (R191, R203). -/
def State.slotCame (s : State) (c k : Nat) : State :=
  match (s.table c (keyTable k)).owner with
  | .req i => (s.updReq c i fun e => { e with pagesHeld := e.pagesHeld + 1 }).charge c (s.tenant c (s.req c i).job) 1
  | .handle i =>
    let h := s.handle c i
    (s.setHandle c i { h with pagesHeld := h.pagesHeld + 1 }).charge c (s.tenant c h.job) 1
  | .none => s

/-- Whether a place is a page slot of the channel. -/
def slotHere (c : Nat) (p : Place) : Bool := p.tier == 1 && inT1 c p.addr

/-- A home that another entry of the same page takes over: a move of the page is now one of the new home (R188, R204). -/
def PgmCh.rehome (x : PgmCh) (k h : Nat) : PgmCh :=
  let sub := fun (m : PageMove) => { m with pte := if m.pte = k then h else m.pte }
  { x with moves := x.moves.map fun m => (m.1, m.2.map sub), waiting := x.waiting.map sub, later := x.later.map sub }

/-- Gives a displaced home's page to the lowest of the links that point at it: each live page keeps one home (R188; DEDUCED,
log entry 21). Its slot goes from the PAGES_HELD of the one table's owner to that of the other (R191). -/
def State.passHome (s : State) (c k : Nat) : State :=
  let p := s.pte c k
  match (s.pgm c).ptes.keysWhere fun _ x => x.there && x.link && x.st == .valid && x.home == k with
  | [] => s
  | h :: l =>
    let q := s.pte c h
    let s1 := (s.setPte c h { p with held := q.held, score := q.score, ref := p.ref - 1 }).updPgm c fun x => x.rehome k h
    (s1.each l fun s x => s.setPte c x { s.pte c x with home := h }).when (slotHere c ⟨p.tier, p.addr⟩) fun s =>
      (s.slotLeft c k).slotCame c h

/-- PREFIX_ALLOC (R192, R216): NO_SLOT when no record is FREE. -/
def execPrefixAlloc (c : Nat) (cmd : Cmd) (s : State) : Host.Outcome State Fault Refusal :=
  .next (s.control c cmd fun s => match s.freeHandle c with
    | none => s.complete c cmd 0x03
    | some i =>
      let g := ((s.handle c i).gen + 1) % 65536
      (s.setHandle c i { (default : Handle) with layers := nfld (recNat cmd.payload 0 2) 11 0, job := cmd.job, st := .empty,
                                                 gen := g }).complete c cmd 0 (leBytes 4 (i + g * 65536)))

/-- PREFIX_FREE (R192): the handle is FREEING until the next release sweep. -/
def execPrefixFree (c : Nat) (cmd : Cmd) (s : State) : Host.Outcome State Fault Refusal :=
  let h := recNat cmd.payload 0 4
  .next (s.control c cmd fun s => if s.handleOk c cmd.job h then
      (s.setHandle c (hIdx h) { s.handle c (hIdx h) with st := .freeing, released := false }).complete c cmd 0
    else s.complete c cmd 0x06)

/-- The code of HSTATE (R191). -/
def HState.code : HState → Nat
  | .free => 0 | .empty => 1 | .held => 2 | .freeing => 3

/-- PREFIX_QUERY (R192): LEN, HSTATE and PAGES_HELD. -/
def execPrefixQuery (c : Nat) (cmd : Cmd) (s : State) : Host.Outcome State Fault Refusal :=
  let h := recNat cmd.payload 0 4
  .next (s.control c cmd fun s =>
    let x := s.handle c (hIdx h)
    if s.handleOk c cmd.job h then
      s.complete c cmd 0 (leBytes 4 x.len ++ leBytes 4 x.st.code ++ leBytes 4 x.pagesHeld)
    else s.complete c cmd 0x06)

/-- HELD of the link to page `j` of a prefix of `n` tokens (R193). -/
def linkHeld (n j : Nat) : Nat := if j = (n - 1) / 16 then n - 16 * ((n - 1) / 16) else 16

/-- Links a request's page to a handle's page: the link points at the home (R188, R193). -/
def State.linkPage (s : State) (c t ht n layer j : Nat) : State :=
  let hk := pteKey ht layer j
  let p := s.pte c hk
  if !p.there || p.st == .evicted then s
  else
    let home := if p.link then p.home else hk
    let k := pteKey t layer j
    match s.ensureL2 c k with
    | (s1, false) => s1
    | (s1, true) =>
      (s1.setPte c k { (default : Pte) with there := true, link := true, held := linkHeld n j, home := home }).incRef c home

/-- Links the first pages of every layer of a new request to a handle's (R193). -/
def State.linkPrefix (s : State) (c t h n layers : Nat) : State :=
  let ht := (s.handle c (hIdx h)).table
  if n = 0 ∨ ht = 0 then s
  else
    s.each (List.range layers) fun s layer =>
      s.each (List.range ((n + 15) / 16)) fun s j => s.linkPage c t ht n layer j

/-- A handle's earlier table is released as a request's is (R196). The pages that it alone held return as their slots
drain; the tenant's charge falls by them. -/
def State.releaseHandleTable (s : State) (c i : Nat) : State :=
  let h := s.handle c i
  (s.releaseTable c h.table).uncharge c (s.tenant c h.job) h.pagesHeld

/-- A released request's table passes to its handle (R196). -/
def State.adopt (s : State) (c i h : Nat) : State :=
  let e := s.req c i
  let x := s.handle c (hIdx h)
  let s1 := s.releaseHandleTable c (hIdx h)
  let s2 := (s1.setHandle c (hIdx h) { x with root := e.pageRoot, len := e.curLen - 1, st := .held, pagesHeld := e.pagesHeld,
                                              layers := e.layers, table := e.table }).updPgm c fun p =>
    { p with tables := p.tables.upd e.table fun y => { y with owner := .handle (hIdx h) } }
  (s2.uncharge c (s.tenant c e.job) e.pagesReserved).freeAdd c e.pagesReserved

/-- The release of a DONE or LOST request by the Midnight sweep (R63, R70, R196). -/
def State.releaseReq (s : State) (c i : Nat) : State :=
  let e := s.req c i
  let x := s.handle c (hIdx e.handle)
  let adopts := e.flags.keepPages && e.st == .done && e.endCode != 0x05 && e.endCode != 0x06 && e.handle != 0 &&
    x.gen == hGen e.handle && (x.st == .empty || x.st == .held) && e.table != 0
  let s1 := if adopts then s.adopt c i e.handle
    else
      ((s.releaseTable c e.table).uncharge c (s.tenant c e.job) (e.pagesReserved + e.pagesHeld)).freeAdd c e.pagesReserved
  s1.updReq c i fun e => { e with pagesReserved := 0, pagesHeld := 0, table := 0, released := true }

/-- The release of a FREEING handle by the Midnight sweep (R192). -/
def State.releaseHandle (s : State) (c i : Nat) : State :=
  let s1 := s.releaseHandleTable c i
  s1.setHandle c i { s.handle c i with table := 0, root := 0, len := 0, pagesHeld := 0, released := true }

/-- FREEING records whose release has completed go FREE at a Dawn start (R192). -/
def State.freeHandles (s : State) (c : Nat) : State :=
  let is := (s.pgm c).handles.keysWhere fun _ h => h.st == .freeing && h.released
  s.each is fun s i => s.setHandle c i { (default : Handle) with gen := (s.handle c i).gen }

/-! ### Eviction (R198, R199) -/

/-- The decoded SCORE of an entry (R197). -/
def scoreVal (v : Nat) : Rat :=
  if v / 256 = 255 then 0 else (l8Elem (v % 256) (v / 256)).1.lin

/-- EVICT_SINK. -/
def State.evictSink (s : State) (c : Nat) : Nat := s.rdF c Reg.PGM_CFG 15 8

/-- EVICT_RECENT. -/
def State.evictRecent (s : State) (c : Nat) : Nat := s.rdF c Reg.PGM_CFG 23 16

/-- Whether a listed page is a candidate for eviction (R198). -/
def State.evictable (s : State) (c t k : Nat) : Bool :=
  let p := s.pte c k
  let above := (s.layerKeys c t (keyLayer k)).filter fun x => decide (keyPage k < keyPage x)
  decide (s.evictSink c ≤ keyPage k) && decide (s.evictRecent c ≤ above.length) && s.resolved c k != .moving &&
    (p.link || decide (p.ref ≤ 1))

/-- The order in which candidates are taken: POISONED first, then lower score, lower layer, lower page (R198). -/
def State.evictBefore (s : State) (c a b : Nat) : Bool :=
  let pa := s.resolved c a == .poisoned
  let pb := s.resolved c b == .poisoned
  let sa := scoreVal (s.pte c a).score
  let sb := scoreVal (s.pte c b).score
  if pa != pb then pa
  else if sa ≠ sb then decide (sa < sb)
  else decide (a ≤ b)

/-- Evicts one page of a request (R199). -/
def State.evictPage (s : State) (c i k : Nat) : State :=
  let p := s.pte c k
  let s1 := (s.dropPte c k).bump c Reg.PGM_EVICT_CNT
  if p.link then s1
  else (s1.updReq c i fun e => { e with pagesHeld := e.pagesHeld - 1 }).uncharge c (s.tenant c (s.req c i).job) 1

/-- The eviction of one request at Midnight (R198). -/
def State.evictReq (s : State) (c i : Nat) : State :=
  let e := s.req c i
  let ks := (s.tableKeys c e.table).filter (s.listed c)
  if e.evictBudget = 0 ∨ ks.length ≤ e.evictBudget then s
  else
    s.each ((sortBy (ks.filter (s.evictable c e.table)) (s.evictBefore c)).take (ks.length - e.evictBudget)) fun s k =>
      s.evictPage c i k

/-! ### Scrubbing (R213) -/

/-- Scrubs one slot: its bytes are written over and read back. Whether the test passes is the memory's: a free value
(log entry 6). -/
def State.scrubSlot (s : State) (c i : Nat) : State :=
  let (fails, s1) := s.drawBool
  let s2 := s1.updPgm c fun x => { x with scrub := x.scrub.erase i }
  if fails then
    (((s2.updPgm c fun x => { x with retired := insNat i x.retired }).bump c Reg.PGM_RETIRED_CNT).bump 0 Reg.SPR_RETIRED 1 c).evtPriv
      (pgmPage c) 3 0x34 0 (s.slotAddr c i)
  else
    ((s2.vwrite (s.slotAddr c i) (List.replicate 16384 0)).vwrite (s.sideAddr c i) (List.replicate 4096 0)).giveSlot c i

/-- Scrubs every slot that waits, while SCRUB_EN is 1. -/
def State.scrubAll (s : State) (c : Nat) : State :=
  if s.rdB c Reg.PGM_CFG 26 then s.each (s.pgm c).scrub fun s i => s.scrubSlot c i else s

/-- Reclaims the tables that nothing holds (R190, R215). -/
def State.reclaimAll (s : State) (c : Nat) : State :=
  s.each ((s.pgm c).tables.map Prod.fst) fun s t => s.reclaimTable c t

/-- PGM_STATUS (R220). -/
def State.pgmStatus (s : State) (c : Nat) : Word :=
  let p := s.pgm c
  BitVec.ofNat 32 (b2n (p.moves.any fun m => (m.2.map PageMove.kind) == some .t0) + fieldAt 1 1 (b2n (decide (0 < p.tblUnits ∧ p.tblUnits ≤ p.units.length))) +
    fieldAt 8 8 (min 255 p.drain.length))

end Sys2Proof.Machine
end

