-- ==== Sys2Proof/Machine/Sampler.lean ====
section
/-! DEFINITION. SMP: sampler configurations, the preparation of rows, the choice of a step's tokens, beam groups and
completion rings (R280 to R302). -/
namespace Sys2Proof.Machine

/-- SMP's page of a channel. -/
def smpPage (c : Nat) : Page := ⟨.smp, c⟩

/-- SMP's state of a channel. -/
def State.smp (s : State) (c : Nat) : SmpCh := (s.ch c).smp

/-- Changes SMP's state of a channel. -/
def State.updSmp (s : State) (c : Nat) (f : SmpCh → SmpCh) : State := s.updCh c fun x => { x with smp := f x.smp }

/-! ### Configurations (R280 to R283) -/

/-- What SMP reads of a configuration record for a request (R281). -/
structure SmpEff where
  sample : Bool
  beam : Bool
  width : Nat
  fp32 : Bool
  vocab : Nat
  /-- TEMPERATURE; none is +∞ (log entry 47). -/
  temp : Option Rat
  topP : Rat
  minP : Rat
  topK : Nat
  /-- REP_PENALTY; none is +∞ (log entry 47). -/
  rep : Option Rat
  freq : Rat
  pres : Rat
  eos : Option Nat
  stops : List Nat
  seed : Nat
  deriving DecidableEq, Repr, Inhabited

/-- An FP32 field of a record; one that is not finite is taken as 0 (R281). -/
def cfgF (r : List Byte) (off : Nat) : Rat := (fp32Val (recNat r off 4)).getD 0

/-- TEMPERATURE and REP_PENALTY, whose rules of R281 take in +∞: it is above 0, and not below 1. -/
def cfgInf (r : List Byte) (off : Nat) : Bool := recNat r off 4 == 0x7F800000

/-- A token field with its enable in bit 31. -/
def cfgTok (r : List Byte) (off : Nat) : Option Nat :=
  let w := recNat r off 4
  if w.testBit 31 then some (nfld w 17 0) else none

/-- The owner of a configuration record. -/
def cfgJob (r : List Byte) : Nat := nfld (recNat r 0 4) 25 16

/-- R281: a record as it applies to a request of a class. A MODE that does not suit the class, and the reserved MODE, run
GREEDY. -/
def effOf (r : List Byte) (bulk : Bool) : SmpEff :=
  let w := recNat r 0 4
  let t := cfgF r 0x08
  let p := cfgF r 0x0C
  let mp := cfgF r 0x10
  let k := nfld (recNat r 0x14 4) 10 0
  { sample := nfld w 1 0 == 0 && !bulk && (cfgInf r 0x08 || decide (0 < t)), beam := nfld w 1 0 == 2 && bulk,
    width := nfld w 4 2 + 1, fp32 := w.testBit 5, vocab := nfld (recNat r 4 4) 18 0,
    temp := if cfgInf r 0x08 then none else some (max t ((2 : Rat) ^ (-8 : Int))), topP := if 0 < p ∧ p ≤ 1 then p else 1,
    minP := if 0 ≤ mp ∧ mp < 1 then mp else 0, topK := if k = 0 then 1024 else k,
    rep := if cfgInf r 0x18 then none else some (max 1 (cfgF r 0x18)),
    freq := cfgF r 0x1C, pres := cfgF r 0x20, eos := cfgTok r 0x24,
    stops := [0x28, 0x2C, 0x30, 0x34].filterMap (cfgTok r), seed := recNat r 0x38 8 }

/-- Whether a record can be set: VOCAB in 1-262,144 and every reserved field 0 (R281). -/
def cfgOk (r : List Byte) : Bool :=
  let w := recNat r 0 4
  let v := recNat r 4 4
  decide (1 ≤ nfld v 18 0 ∧ nfld v 18 0 ≤ 262144) && nfld v 31 19 == 0 && nfld w 15 6 == 0 && nfld w 31 26 == 0 &&
    nfld (recNat r 0x14 4) 31 11 == 0 && [0x24, 0x28, 0x2C, 0x30, 0x34].all fun o => nfld (recNat r o 4) 30 18 == 0

/-- The configuration index that a command names. -/
def cmdCfg (cmd : Cmd) : Nat := nfld (recNat cmd.payload 0 2) 11 0

/-- Whether a record belongs to another job than `j` (R282). -/
def State.cfgOther (s : State) (c i j : Nat) : Bool :=
  let r := (s.smp c).cfgs.at i
  !r.isEmpty && cfgJob r != j

/-- Replaces a configuration record. A row in process keeps the contents that each record had when the row started
(R282). -/
def State.setCfg (s : State) (c i : Nat) (r : List Byte) : State :=
  let keep := (s.engine c 4).holder.isSome && ((s.smp c).oldCfg.at i).isNone
  s.updSmp c fun x =>
    { x with oldCfg := if keep then x.oldCfg.set i (some (x.cfgs.at i)) else x.oldCfg, cfgs := x.cfgs.set i r }

/-- The record with JOB written by SMP (R280). -/
def ownedCfg (r : List Byte) (j : Nat) : List Byte :=
  let w := recNat r 0 4
  leBytes 4 (nfld w 15 0 + fieldAt 16 10 j + fieldAt 26 6 (nfld w 31 26)) ++ padTo 60 (r.drop 4)

/-- SMP_CFG_SET (R280 to R283). -/
def execSmpCfgSet (c : Nat) (cmd : Cmd) (s : State) : Host.Outcome State Fault Refusal :=
  let r := padTo 64 (cmd.payload.drop 8)
  .next (s.control c cmd fun s => if s.cfgOther c (cmdCfg cmd) cmd.job then s.complete c cmd 0x61
    else if cfgOk r then (s.setCfg c (cmdCfg cmd) (ownedCfg r cmd.job)).complete c cmd 0
    else s.complete c cmd 0x60)

/-- SMP_CFG_RELEASE (R280, R282). -/
def execSmpCfgRelease (c : Nat) (cmd : Cmd) (s : State) : Host.Outcome State Fault Refusal :=
  .next (s.control c cmd fun s => if s.cfgOther c (cmdCfg cmd) cmd.job then s.complete c cmd 0x61
    else (s.setCfg c (cmdCfg cmd) []).complete c cmd 0)

/-! ### Elementary functions (R286) -/

/-- The relative error of the exponential and the logarithm, free within 2^-20 (R286; log entry 6). -/
def fnRel (f : Nat) (x : Rat) : Rat :=
  let b : Rat := (2 : Rat) ^ (-20 : Int)
  max (-b) (min b (Config.fnErr f x))

/-- ln 2, to 2^-70. -/
def ln2 : Rat := (818323753292969962226 : Rat) / (2 : Rat) ^ (70 : Int)

/-- The Taylor sum of e^x, from the last of `n` terms. -/
def expTerms (x : Rat) : Nat → Rat → Rat
  | 0, acc => acc
  | n + 1, acc => expTerms x n (1 + x / (n + 1 : Nat) * acc)

/-- e^x to far better than 2^-20: reduced to |r| ≤ ln 2 / 2 (log entry 6). -/
def expFixed (x : Rat) : Rat :=
  let n := rneInt (x / ln2)
  (2 : Rat) ^ n * expTerms (x - n * ln2) 14 1

/-- The sum of t^(2i+1) / (2i+1) over `n` terms. -/
def atanhTerms (t : Rat) (n : Nat) : Rat :=
  ((List.range n).map fun i => t ^ (2 * i + 1) / ((2 * i + 1 : Nat) : Rat)).foldl (· + ·) 0

/-- ln x for x > 0 to far better than 2^-20 (log entry 6). -/
def lnFixed (x : Rat) : Rat :=
  let k := floorLog2 x
  let m := x / (2 : Rat) ^ k
  k * ln2 + 2 * atanhTerms ((m - 1) / (m + 1)) 16

/-- The exponential as SMP computes it. -/
def expErr (x : Rat) : Rat := rne32 (expFixed x * (1 + fnRel 0 x))

/-- The logarithm as SMP computes it. -/
def lnErr (x : Rat) : Rat := rne32 (lnFixed x * (1 + fnRel 1 x))

/-- FP32 rounding; a value beyond the format is not finite. -/
def fin32 (x : Rat) : Option Rat :=
  let y := rne32 x
  if max32 < ratAbs y then none else some y

/-! ### Preparing a row (R286, R287, R293) -/

/-- The bytes of a row, padded to 64 (R284). -/
def rowBytes (e : SmpEff) : Nat := ceilDiv (e.vocab * (if e.fp32 then 4 else 2)) 64 * 64

/-- The logits of a row; none is a logit that is not finite. -/
def rowLogits (e : SmpEff) (row : List Byte) : List (Option Rat) :=
  let n := if e.fp32 then 4 else 2
  ((chunksOf n e.vocab (row.take (e.vocab * n))).map fun b =>
    if e.fp32 then fp32Val (leNat b) else bf16Val (leNat b))

/-- The index of a token's count (R293). -/
def countIx (t : Nat) : Nat := t * 0x9E3779B1 % 2 ^ 32 / 2 ^ 20

/-- The count of a token. -/
def countOf (tbl : List Byte) (t : Nat) : Nat := recNat tbl (2 * countIx t) 2

/-- REP_PENALTY on one logit. Under a REP_PENALTY of +∞ a positive logit becomes 0 and any other is not finite (R281). -/
def repeatPenalty (e : SmpEff) (z : Rat) : Option Rat :=
  match e.rep with
  | some r => fin32 (if 0 < z then z / r else z * r)
  | none => if 0 < z then some 0 else none

/-- A logit over TEMPERATURE; over +∞ it is 0 (R281). -/
def coolLogit (e : SmpEff) (z : Rat) : Option Rat :=
  match e.temp with
  | some t => fin32 (z / t)
  | none => some 0

/-- The penalties on one logit, each step rounded to FP32 (R293). -/
def penalise (e : SmpEff) (c : Nat) (z : Rat) : Option Rat :=
  let a := if c = 0 then some z else repeatPenalty e z
  let b := a.bind fun a => (fin32 (e.freq * c)).bind fun f => fin32 (a - f)
  if c = 0 then b else b.bind fun b => fin32 (b - e.pres)

/-- R286: the prepared row. `counts` is the table of a BULK request that has one. -/
def prepareRow (e : SmpEff) (counts : Option (List Byte)) (row : List (Option Rat)) : List (Option Rat) :=
  let pen := match counts with
    | none => row
    | some t => row.zipIdx.map fun x => x.1.bind (penalise e (countOf t x.2))
  if e.sample then pen.map fun z => z.bind (coolLogit e) else pen

/-- The distribution of a row: z, the probability of each token, zmax, Σ, the tokens kept by R287 in rank order with their
renormalised probabilities, and the highest-ranked tokens, as many as a beam group can ask for (R295, R296). -/
structure RowDist where
  eff : SmpEff
  z : List (Option Rat)
  p : List Rat
  zmax : Rat
  sum : Rat
  kept : List (Nat × Rat)
  top : List (Nat × Rat)
  deriving DecidableEq, Repr, Inhabited

/-- The largest finite z. -/
def zMax (z : List (Option Rat)) : Option Rat := (z.filterMap id).foldl (fun m x => some (max x (m.getD x))) none

/-- The finite tokens by falling probability, the lower token first among equals (R287). -/
def ranked (z : List (Option Rat)) (p : List Rat) : List (Nat × Rat) :=
  sortBy ((p.zipIdx.zip z).filterMap fun x => if x.2.isSome then some (x.1.2, x.1.1) else none) fun a b =>
    decide (b.2 < a.2) || (decide (b.2 = a.2) && decide (a.1 ≤ b.1))

/-- The shortest prefix whose cumulative probability is at least TOP_P. -/
def topPrefix (topP acc : Rat) : List (Nat × Rat) → List (Nat × Rat)
  | [] => []
  | x :: l => if topP ≤ rne32 (acc + x.2) then [x] else x :: topPrefix topP (rne32 (acc + x.2)) l

/-- Renormalises probabilities over their FP32 sum in order. -/
def renorm (l : List (Nat × Rat)) : List (Nat × Rat) :=
  let t := sum32 (l.map Prod.snd)
  if t = 0 then l else l.map fun x => (x.1, rne32 (x.2 / t))

/-- R287: the tokens that survive truncation, renormalised. -/
def survivors (e : SmpEff) (r : List (Nat × Rat)) : List (Nat × Rat) :=
  match r.take e.topK with
  | [] => []
  | t :: l => renorm (topPrefix e.topP 0 (t :: l.filter fun x => decide (e.minP * t.2 ≤ x.2)))

/-- R286: the distribution of a prepared row; none if no z is finite. -/
def rowDist (e : SmpEff) (z : List (Option Rat)) : Option RowDist :=
  (zMax z).map fun m =>
    let es := z.map fun x => match x with
      | none => 0
      | some x => expErr (rne32 (x - m))
    let t := sum32 es
    let p := es.map fun x => rne32 (x / t)
    let r := ranked z p
    ⟨e, z, p, m, t, if e.sample then survivors e r else r.take 1, r.take 8⟩

/-- The log-probability of a token in the untruncated row (R286, R287). -/
def RowDist.logp (d : RowDist) (t : Nat) : Rat :=
  match d.z.getD t none with
  | none => 0
  | some z => rne32 (rne32 (z - d.zmax) - lnErr d.sum)

/-- LOGP of R299: a one-element L8 block. -/
def logpBits (x : Rat) : Nat :=
  let b := (encL8Fin 16 (x :: List.replicate 15 0)).1
  if b.tag = 3 then 0 else b.scale * 256 + (b.code.getD 0 0).toNat

/-- The ARITH_FLAGS that encoding a LOGP sets (R112, R125). -/
def logpFlags (x : Rat) : Nat := (encL8Fin 16 (x :: List.replicate 15 0)).2

/-- ORs flags into those of a member's step (R125). -/
def State.stepFlags (s : State) (c i f : Nat) : State :=
  s.updCh c fun x => { x with atn := { x.atn with steps := x.atn.steps.upd i fun y => { y with flags := y.flags ||| f } } }

/-- The largest p, the lower token among equals (R290). -/
def RowDist.argmax (d : RowDist) : Nat := (d.kept.head?.getD (0, 0)).1

/-- The probability of a token for draws and acceptance tests (R287). -/
def RowDist.prob (d : RowDist) (t : Nat) : Rat := ((d.kept.find? fun x => x.1 == t).map Prod.snd).getD 0

/-- R288: the counter-based uniform value. -/
def uniformAt (seed pos d : Nat) : Rat :=
  let x : DWord := BitVec.ofNat 64 seed ^^^ BitVec.ofNat 64 (pos * 256) ^^^ BitVec.ofNat 64 d
  let x := (x ^^^ (x >>> 30)) * 0xBF58476D1CE4E5B9
  let x := (x ^^^ (x >>> 27)) * 0x94D049BB133111EB
  let x := x ^^^ (x >>> 31)
  ((x >>> 40).toNat : Rat) * (2 : Rat) ^ (-24 : Int)

/-- R289: the first survivor whose running sum exceeds u, else the last. -/
def drawFrom (u acc : Rat) : List (Nat × Rat) → Nat → Nat
  | [], last => last
  | x :: l, _ => if u < rne32 (acc + x.2) then x.1 else drawFrom u (rne32 (acc + x.2)) l x.1

/-! ### The step's tokens (R290 to R292) -/

/-- What R290 derives so far: the tokens with the row each comes from, and the drafts accepted; `bad` says that the row it
next needed gives none (R292). -/
structure TokRun where
  toks : List (Nat × Nat)
  accepted : Nat
  bad : Bool
  deriving DecidableEq, Repr, Inhabited

/-- R290 from row `j` on, over the drafts that are left. `seed` and `pos` are of R288. -/
def stepTokens (rows : Nat → Option RowDist) (tag pos : Nat) : Nat → List (Nat × Nat) → TokRun → TokRun
  | j, drafts, r =>
    match rows j with
    | none => { r with bad := true }
    | some d =>
      let seed := d.eff.seed ^^^ tag
      let u := uniformAt seed (pos + j + 1) 0
      match drafts with
      | [] =>
        { r with toks := r.toks ++ [(if d.eff.sample then drawFrom u 0 d.kept d.argmax else d.argmax, j)] }
      | (t, qb) :: l =>
        let q := match fp32Val qb with
          | some q => if 0 < q ∧ q ≤ 1 then q else 1
          | none => 1
        let ok := if d.eff.sample then decide (uniformAt seed (pos + j + 1) 1 * q ≤ d.prob t) else t == d.argmax
        if ok then
          stepTokens rows tag pos (j + 1) l { r with toks := r.toks ++ [(t, j)], accepted := r.accepted + 1 }
        else
          let rest := renorm (d.kept.filter fun x => x.1 != t)
          { r with toks := r.toks ++ [(if d.eff.sample then drawFrom u 0 rest d.argmax else d.argmax, j)] }

/-- R291: the END_CODE of a token, 0 if it does not end the request. `n` is the generated count with it. -/
def endOf (e : SmpEff) (t n maxNew : Nat) : Nat :=
  if e.eos = some t then 1 else if e.stops.contains t then 3 else if maxNew ≤ n then 2 else 0

/-- R291: the tokens up to the first that ends the request, and its END_CODE. -/
def cutTokens (eff : Nat → SmpEff) (maxNew : Nat) : Nat → List (Nat × Nat) → List (Nat × Nat) × Nat
  | _, [] => ([], 0)
  | n, x :: l =>
    let code := endOf (eff x.2) x.1 (n + 1) maxNew
    if code ≠ 0 then ([x], code)
    else
      let r := cutTokens eff maxNew (n + 1) l
      (x :: r.1, r.2)

/-- The configuration record that a row of a request runs under: the claimed record as it was when the row started;
empty when it fails R282. -/
def State.rowCfg (s : State) (c : Nat) (e : ReqEntry) : List Byte :=
  let r := ((s.smp c).oldCfg.at e.smpCfg).getD ((s.smp c).cfgs.at e.smpCfg)
  if cfgJob r = e.job then r else []

/-- The bytes of row `j` of a step, of the length that the row's record gives (R282, R284). -/
def State.rowSource (s : State) (st : SmpStep) (job c : Nat) (f : SmpEff) (j : Nat) : List Byte :=
  let n := rowBytes f
  match st.src with
  | none => (st.rows.drop (j * n)).take n
  | some a => if (s.checkSpan c job (a + j * n) n false).isSome then [] else s.vread (a + j * n) n

/-- A sampler step. -/
def State.smpStep (s : State) (c i : Nat) : SmpStep := (s.smp c).steps.at i

/-- Changes a sampler step. -/
def State.updSmpStep (s : State) (c i : Nat) (f : SmpStep → SmpStep) : State :=
  s.updSmp c fun x => { x with steps := x.steps.upd i f }

/-- The distribution of row `j` of a step, under the record it was prepared with. -/
def State.stepRow (s : State) (c i j : Nat) : Option RowDist :=
  let e := s.req c i
  let st := s.smpStep c i
  match st.done.getD j none with
  | none => none
  | some r =>
    if r.isEmpty then none
    else
      let f := effOf r e.bulk
      rowDist f (prepareRow f (if e.bulk then st.counts else none) (rowLogits f (st.rowB.at j)))

/-- Tokens generated before the step: none in a prefill. -/
def genBefore (e : ReqEntry) (st : SmpStep) : Nat := if st.prefill then 0 else e.curLen - e.promptLen

/-- Derives the tokens of a step all of whose rows are prepared (R290 to R292). -/
def State.deriveStep (s : State) (c i : Nat) : State :=
  let e := s.req c i
  let st := s.smpStep c i
  let r := stepTokens (s.stepRow c i) e.userTag st.pos 0 st.drafts default
  let (toks, code) := cutTokens (fun j => effOf ((st.done.getD j none).getD []) e.bulk) e.maxNew (genBefore e st) r.toks
  let kept := min r.accepted toks.length
  let lps := toks.map fun x => match s.stepRow c i x.2 with
    | some d => logpBits (d.logp x.1)
    | none => 0
  let s1 := s.updSmpStep c i fun x =>
    { x with derived := true, tokens := toks.map Prod.fst, logps := lps, accepted := kept,
             endCode := if code = 0 && r.bad then 4 else code }
  let s2 := s1.stepFlags c i (orFlags (toks.map fun x => ((s.stepRow c i x.2).map fun d => logpFlags (d.logp x.1)).getD 0))
  (s2.bump c Reg.SMP_DRAFT_ACC_CNT kept).bump c Reg.SMP_DRAFT_REJ_CNT (st.drafts.length - kept)

/-! ### Beam search (R295, R296) -/

/-- Whether a request is still before its end: a beam member is live. -/
def ReqState.live : ReqState → Bool
  | .admitted | .prefilling | .sealed | .moving | .resident | .decoding | .spilled => true
  | .free | .cancelling | .done | .lost => false

/-- Whether a member of a beam group is live. -/
def State.beamLive (s : State) (c : Nat) (m : BeamMember) : Bool :=
  let e := s.req c m.slot
  e.gen == m.gen && e.st.live

/-- Whether a member of a beam group has not ended. -/
def State.beamHeld (s : State) (c : Nat) (m : BeamMember) : Bool :=
  s.beamLive c m || ((s.req c m.slot).gen == m.gen && (s.req c m.slot).st == .cancelling)

/-- The beam group of a live request. -/
def State.beamOf (s : State) (c i : Nat) : Option BeamGroup :=
  (s.smp c).beams.find? fun g => g.members.any fun m => m.slot == i && s.beamLive c m

/-- The live members of a group, in member order. -/
def State.liveOf (s : State) (c : Nat) (g : BeamGroup) : List BeamMember := g.members.filter (s.beamLive c)

/-- SMP_BEAM_GROUPS (R301). -/
def State.beamGroups (s : State) (c : Nat) : Nat :=
  ((s.smp c).beams.filter fun g => !(s.liveOf c g).isEmpty).length

/-- The slots that a BEAM_BIND payload names: 2 to 8 handles, zero fill. -/
def bindHandles (p : List Byte) : List (Nat × Nat) :=
  let hs := (List.range 8).map fun i => recNat p (4 * i) 4
  (hs.take ((hs.zipIdx.filter fun x => x.1 != 0 || x.2 == 0).foldl (fun m x => max m (x.2 + 1)) 0)).map fun h =>
    (nfld h 15 0, nfld h 31 16)

/-- Whether a handle of BEAM_BIND that names a slot of this channel is stale (R56). -/
def State.bindStale (s : State) (c : Nat) (h : Nat × Nat) : Bool :=
  let e := s.req c (h.1 % 4096)
  h.1 / 4096 == c && (e.gen != h.2 || e.st == .free)

/-- Whether a handle can be bound with `w` members beside the leader's entry `l` (R295). -/
def State.bindable (s : State) (c job w : Nat) (l : ReqEntry) (h : Nat × Nat) : Bool :=
  let e := s.req c (h.1 % 4096)
  let r := (s.smp c).cfgs.at e.smpCfg
  let f := effOf r true
  h.1 / 4096 == c && e.gen == h.2 && e.st == .admitted && e.job == job && e.bulk && e.smpCfg == l.smpCfg &&
    !r.isEmpty && cfgJob r == job && f.beam && f.width == w && e.promptLen == l.promptLen &&
    (s.beamOf c (h.1 % 4096)).isNone

/-- BEAM_BIND (R56, R295). -/
def execBeamBind (c : Nat) (cmd : Cmd) (s : State) : Host.Outcome State Fault Refusal :=
  let hs := bindHandles cmd.payload
  .next (s.control c cmd fun s =>
    let l := s.req c ((hs.head?.getD (0, 0)).1 % 4096)
    if (hs.any (s.bindStale c)) = true then s.complete c cmd 0x06
    else if 2 ≤ hs.length ∧ (hs.map Prod.fst).Nodup ∧ (hs.all (s.bindable c cmd.job hs.length l)) = true then
      (s.updSmp c fun x => { x with beams := x.beams.filter (fun g => g.members.any (s.beamHeld c)) ++
        [⟨hs.map fun h => ⟨h.1 % 4096, h.2, 0⟩, false⟩] }).complete c cmd 0
    else s.complete c cmd 0x0A)

/-- S of a beam member that has not ended, CANCELLING too, as FP32 bits; 0 for any other request (R299). -/
def State.beamScore (s : State) (c i : Nat) : Nat :=
  (((s.smp c).beams.flatMap BeamGroup.members).find? fun m => m.slot == i && s.beamHeld c m).map BeamMember.score |>.getD 0

/-- A candidate of R296: the parent's number in its group, its token and its score. -/
structure BeamCand where
  parent : Nat
  tok : Nat
  score : Rat
  deriving DecidableEq, Repr, Inhabited

/-- The order of candidates: higher score, then lower member, then lower token (R296). -/
def candBefore (a b : BeamCand) : Bool :=
  if a.score ≠ b.score then decide (b.score < a.score)
  else if a.parent ≠ b.parent then decide (a.parent < b.parent) else decide (a.tok ≤ b.tok)

/-- The candidates that one live member offers: its W highest tokens, by rank. -/
def State.candsOf (s : State) (c w k : Nat) (base : Rat) (m : BeamMember) : List BeamCand :=
  match s.stepRow c m.slot 0 with
  | none => []
  | some d => (d.top.take w).map fun x => ⟨k, x.1, rne32 (base + d.logp x.1)⟩

/-- Each parent's best child, of the kept candidates in rank order. -/
def bestOf (kept : List BeamCand) (k : Nat) : Option BeamCand := kept.find? fun x => x.parent == k

/-- The child of each member of a list: its own best child, else the remaining children in rank order over the members
without one, ascending (R296). -/
def assignBeams (kept : List BeamCand) : List Nat → List BeamCand → List (Option BeamCand)
  | [], _ => []
  | k :: ks, rest =>
    match bestOf kept k with
    | some x => some x :: assignBeams kept ks rest
    | none => rest.head? :: assignBeams kept ks (rest.drop 1)

/-- The candidates that are nobody's best child, in rank order. -/
def spareChildren (kept : List BeamCand) : List BeamCand := kept.filter fun x => bestOf kept x.parent != some x

/-- The number of the member whose row gives the group's first token: the leader's, or the first live member's where the
leader has ended (R296; DESIGN CHOICE, log entry 47). -/
def State.beamLeader (s : State) (c : Nat) (g : BeamGroup) : Nat := g.members.findIdx (s.beamLive c)

/-- The live members of a group with their numbers, whose next row gives a distribution: the others end with
SAMPLE_INVALID, take no child and offer none. At the group's first token the row that each needs is the leader's (R292,
R296). -/
def State.beamPlayers (s : State) (c : Nat) (g : BeamGroup) : List (BeamMember × Nat) :=
  let row := fun (m : BeamMember) => (s.stepRow c m.slot 0).isSome
  let lead := g.members.getD (s.beamLeader c g) default
  g.members.zipIdx.filter fun x => s.beamLive c x.1 && (if g.begun then row x.1 else row lead)

/-- The children of the members that play at a step of a group, by member number (R296). -/
def State.beamChildren (s : State) (c : Nat) (g : BeamGroup) : List (Nat × Option BeamCand) :=
  let play := s.beamPlayers c g
  let ks := play.map Prod.snd
  let w := g.members.length
  if g.begun then
    let offers := play.flatMap fun x => s.candsOf c w x.2 ((fp32Val x.1.score).getD 0) x.1
    let kept := (sortBy offers candBefore).take play.length
    ks.zip (assignBeams kept ks (spareChildren kept))
  else
    let l := s.beamLeader c g
    let top := s.candsOf c w l 0 (g.members.getD l default)
    ks.map fun k => (k, top[k]?)

/-- Records what a member took of a step: its token, score and parent, or its end: SAMPLE_INVALID where the row it needed
gives nothing, STOP where it received no child (R291, R292, R296). `all` is its whole group, `plays` says that its row gave a
distribution. -/
def State.takeChild (s : State) (c : Nat) (all : List BeamMember) (plays : Bool) (m : BeamMember) (x : Option BeamCand) : State :=
  let e := s.req c m.slot
  let st := s.smpStep c m.slot
  match x with
  | none =>
    s.updSmpStep c m.slot fun y =>
      { y with derived := true, tokens := [], logps := [], accepted := 0, parent := none, score := m.score,
               endCode := if plays then 3 else 4 }
  | some x =>
    let p := all.getD x.parent m
    let eff := effOf (((s.smpStep c p.slot).done.getD 0 none).getD []) true
    let lp := match s.stepRow c p.slot 0 with
      | some d => logpBits (d.logp x.tok)
      | none => 0
    let f := ((s.stepRow c p.slot 0).map fun d => logpFlags (d.logp x.tok)).getD 0
    (s.stepFlags c m.slot f).updSmpStep c m.slot fun y =>
      { y with derived := true, tokens := [x.tok], logps := [lp], accepted := 0, score := fp32Bits x.score,
               parent := if p.slot = m.slot then none else some p.slot,
               endCode := endOf eff x.tok (genBefore e st + 1) e.maxNew }

/-- Derives a group's step once every live member's row is prepared (R296). -/
def State.deriveBeam (s : State) (c : Nat) (g : BeamGroup) : State :=
  let ks := s.beamChildren c g
  (g.members.zipIdx.filter fun x => s.beamLive c x.1).foldl (fun t x =>
    match ks.find? fun k => k.1 == x.2 with
    | some k => t.takeChild c g.members true x.1 k.2
    | none => t.takeChild c g.members false x.1 none) s

/-! ### Rows on the engine (R284, R286, R325) -/

/-- The command that stands for row `j` of a step in the job's lane of engine 4. -/
def rowCmd (job slot gen j day : Nat) : Cmd :=
  { op := 0xFFF, sizeM1 := 0, job := job, layer := 0xFFF, waitTok := 0, signalTok := 0, waitValue := 0, waitEn := false,
    signalEn := false, noCpl := true, tag := day, payload := leBytes 2 slot ++ leBytes 2 gen ++ leBytes 2 j, queue := 0,
    plan := true, stamp := none }

/-- Whether every row of a step is prepared. -/
def SmpStep.ready (st : SmpStep) : Bool := !st.done.isEmpty && st.done.all Option.isSome

/-- The tokens of a step are derived when its rows are prepared; a beam group's when all its live members' are. -/
def State.deriveIfReady (s : State) (c i : Nat) : State :=
  match s.beamOf c i with
  | some g =>
    s.when ((s.liveOf c g).all fun m =>
      let st := s.smpStep c m.slot
      st.gen == m.gen && st.day == s.tim.day && st.ready && !st.derived) fun s => s.deriveBeam c g
  | none => s.when ((s.smpStep c i).ready && !(s.smpStep c i).derived) fun s => s.deriveStep c i

/-- The count table of a request is read once for its step, through the job's tables, for the update of R294 too. -/
def State.needCounts (s : State) (c i : Nat) (cfg : List Byte) : Bool :=
  !cfg.isEmpty && (s.req c i).countTable != 0 && (s.smpStep c i).counts.isNone

/-- Row `j` of a step is prepared: counted, and the step derived if it was the last. -/
def State.finishRow (s : State) (c i j : Nat) (cmd : Cmd) (cfg : List Byte) : State :=
  let f := effOf cfg (s.req c i).bulk
  let row := s.rowSource (s.smpStep c i) (s.req c i).job c f j
  let nonfin := !cfg.isEmpty && (rowLogits f row).any Option.isNone
  let s0 := match (s.smpStep c i).src with
    | some a => s.touch (s.req c i).job (a + j * rowBytes f) row.length
    | none => s
  let s1 := s0.passToNow ((s.engine c 4).since + ceilDiv (max 1 f.vocab * 1000) 32768)
  let s2 := (s1.updSmpStep c i fun st => { st with done := st.done.set j (some cfg), rowB := st.rowB.set j row }).updSmp c
    fun x => { x with oldCfg := [] }
  (((s2.bump c Reg.SMP_ROW_CNT).when nonfin fun s => s.bump c Reg.SMP_NONFINITE_CNT).complete c cmd 0).deriveIfReady c i

/-- The row that holds engine 4 is prepared, or set aside on a translation fault of its count table (R325). -/
def State.rowDone (s : State) (c : Nat) (cmd : Cmd) : State :=
  let i := recNat cmd.payload 0 2
  let j := recNat cmd.payload 4 2
  let st := s.smpStep c i
  if st.gen ≠ recNat cmd.payload 2 2 ∨ st.day ≠ cmd.tag ∨ st.done.getD j (some []) ≠ none then
    (s.updSmp c fun x => { x with oldCfg := [] }).complete c cmd 0
  else
    let cfg := s.rowCfg c (s.req c i)
    if s.needCounts c i cfg then
      match s.translateRange c cmd.job (s.req c i).countTable 8192 true 4 with
      | (s1, .error x) => (s1.updSmp c fun x => { x with oldCfg := [] }).faultHolder c 4 cmd x true false
      | (s1, .ok l) =>
        ((s1.touchParts cmd.job l).updSmpStep c i fun y => { y with counts := some (s1.readParts l), parts := l }).finishRow c i j cmd cfg
    else s.finishRow c i j cmd cfg

/-- SAMPLER_ROW_DONE (R290). -/
def execSamplerRowDone (c : Nat) (s : State) : Host.Outcome State Fault Refusal :=
  .next (match (s.engine c 4).holder with
    | none => s
    | some cmd => s.rowDone c cmd)

/-- The step's rows enter the job's lane of engine 4; of a beam member only row 0 is used (R295). -/
def State.queueRows (s : State) (c i : Nat) : State :=
  let e := s.req c i
  let st := s.smpStep c i
  let n := if (s.beamOf c i).isSome then 1 else st.ntok
  s.each (List.range n) fun s j => s.enterLane c 4 (rowCmd e.job i e.gen j st.day)

/-- R294: each appended token adds 1 to its count, saturating. -/
def countTokens (tbl : List Byte) (toks : List Nat) : List Byte :=
  toks.foldl (fun t x =>
    let k := 2 * countIx x
    t.take k ++ leBytes 2 (min 65535 (recNat t k 2 + 1)) ++ t.drop (k + 2)) tbl

/-- The commit's update of a count table (R294): the table as it now stands, through the parts that the step translated. -/
def State.updCounts (s : State) (c i : Nat) (toks : List Nat) : State :=
  let st := s.smpStep c i
  s.when (!st.parts.isEmpty) fun s => s.writeParts st.parts (countTokens (padTo 8192 (s.readParts st.parts)) toks) (s.req c i).job

/-! ### Completion rings (R298 to R300) -/

/-- FLAGS as the 12-bit field of R55. -/
def ReqFlags.num (f : ReqFlags) : Nat :=
  b2n f.degraded + 2 * b2n f.damaged + 4 * b2n f.cancelPending + 8 * b2n f.sparseOn + 16 * b2n f.exitOn +
    32 * b2n f.ftMissPosted + 64 * b2n f.ctMissPosted + 128 * b2n f.firstToken + 256 * b2n f.pulling +
    512 * b2n f.keepPages + 1024 * b2n f.noBinPosted

/-- A completion record (R299). -/
def crRec (kind endCode reqIdx : Nat) (e : ReqEntry) (toks lps : List Nat) (accepted flags day tod score : Nat) : List Byte :=
  leBytes 4 (fieldAt 0 8 kind + fieldAt 8 8 endCode + fieldAt 16 16 e.gen) ++
    leBytes 4 (fieldAt 0 16 reqIdx + fieldAt 16 10 e.job + fieldAt 26 4 toks.length) ++ leBytes 8 day ++
    leBytes 8 e.userTag ++
    leBytes 4 (fieldAt 0 20 e.curLen + fieldAt 20 8 flags + fieldAt 28 4 accepted) ++ leBytes 4 e.flags.num ++
    leBytes 8 tod ++ leBytes 4 score ++ leBytes 4 0 ++
    ((padToList 9 0 toks).flatMap fun t => leBytes 4 (t % 2 ^ 18)) ++ ((padToList 9 0 lps).flatMap (leBytes 2)) ++
    List.replicate 26 0

/-- The number of records of a completion ring. -/
def State.crSize (s : State) (c r : Nat) : Nat := 2 ^ s.rdF c Reg.SMP_CR_CFG 5 1 r

/-- Whether a ring is disabled or another job's (R298). -/
def State.crDenied (s : State) (c r j : Nat) : Bool :=
  !s.rdB c Reg.SMP_CR_CFG 0 r || s.rdF c Reg.SMP_CR_CFG 25 16 r != j

/-- Whether a ring is full (R298). -/
def State.crIsFull (s : State) (c r : Nat) : Bool :=
  ringFull (s.crSize c r) (s.rdN c Reg.SMP_CR_HEAD r) (s.rdN c Reg.SMP_CR_TAIL r)

/-- The records that a ring still takes before it is full (R298). -/
def State.crRoom (s : State) (c r : Nat) : Nat :=
  let n := s.crSize c r
  let h := s.rdN c Reg.SMP_CR_HEAD r
  if n ≤ h then n else (h + n - 1 - s.rdN c Reg.SMP_CR_TAIL r % n) % n

/-- An event of SMP about a request (R302). -/
def State.smpEvt (s : State) (c bit code i : Nat) : State :=
  let e := s.req c i
  s.evtJob c .smp bit code 0 e.gen (c * 4096 + i) e.job e.userTag

/-- CRING_FULL, once per ring and day (R298). -/
def State.postCrFull (s : State) (c r i : Nat) : State :=
  if (s.smp c).crFull.contains r then s
  else (s.updSmp c fun x => { x with crFull := x.crFull ++ [r] }).smpEvt c 0 0x58 i

/-- Writes a record at TAIL of a ring. -/
def State.putCr (s : State) (c r : Nat) (rec : List Byte) : State :=
  let t := s.rdN c Reg.SMP_CR_TAIL r
  (s.vwrite (s.rd64 c Reg.SMP_CR_BASE_LO r + 128 * t) rec (s.rdF c Reg.SMP_CR_CFG 25 16 r)).wr c Reg.SMP_CR_TAIL (lo32 ((t + 1) % s.crSize c r)) r

/-- The record of a terminal transition: written, denied, or kept until its ring has room (R298, R300). -/
def State.postCr (s : State) (c i : Nat) (rec : List Byte) : State :=
  let e := s.req c i
  let r := e.cring
  if s.crDenied c r e.job then s.smpEvt c 1 0x59 i
  else if s.crIsFull c r || (s.smp c).waitCr.any (fun w => w.ring == r) then
    (s.postCrFull c r i).updSmp c fun x => { x with waitCr := x.waitCr ++ [⟨r, e.job, i, rec⟩] }
  else s.putCr c r rec

/-- Writes the records that wait for a ring, oldest first; `fuel` bounds them. -/
def State.flushCr (s : State) (c r : Nat) : Nat → State
  | 0 => s
  | fuel + 1 =>
    match (s.smp c).waitCr.find? fun w => w.ring == r with
    | none => s
    | some w =>
      let off := s.crDenied c r w.job
      if s.crIsFull c r && !off then s
      else
        let s1 := s.updSmp c fun x => { x with waitCr := x.waitCr.erase w }
        (if off then s1.smpEvt c 1 0x59 w.slot else s1.putCr c r w.record).flushCr c r fuel

/-- SMP_STATUS (R301). -/
def State.smpStatus (s : State) (c : Nat) : Word :=
  match (s.engine c 4).holder with
  | none => 0
  | some h => BitVec.ofNat 32 (2 ^ 15 + fieldAt 16 10 h.job)

end Sys2Proof.Machine
end

