-- ==== Sys2Proof/Machine/Traffic.lean ====
section
/-! DEFINITION. TRC: flow shapers, the timing wheel, shaper calendars, egress queues, policers and queue sampling
(R381 to R397). -/
namespace Sys2Proof.Machine

/-- TRC's page of a channel. -/
def trcPage (c : Nat) : Page := ⟨.trc, c⟩

/-- TRC's state of a channel. -/
def State.trc (s : State) (c : Nat) : TrcCh := (s.ch c).trc

/-- Changes TRC's state of a channel. -/
def State.updTrc (s : State) (c : Nat) (f : TrcCh → TrcCh) : State := s.updCh c fun x => { x with trc := f x.trc }

/-- The line rate of an interface in Mb/s (R338). -/
def State.lineRate (s : State) (c : Nat) : Nat := if (s.ch c).kwp.split then 200000 else 400000

/-! ### Shaper calendars (R387, R388) -/

/-- The plan of an epoch: the ACTIVE one, or the RETIRING one. -/
def State.planOfEpoch (s : State) (ep : Nat) : Plan :=
  match s.pln.retiring with
  | some p => if p.epoch = ep then p else s.pln.active
  | none => s.pln.active

/-- The entries of a channel's shaper calendar. -/
def calEntries (p : Plan) (c : Nat) : List (List Byte) :=
  let d := p.section_ 4 c
  (List.range (recNat d 0 4)).map fun i => (d.drop (8 + 16 * i)).take 16

/-- A shaper's calendar entry: the last that names it. -/
def State.calEntry (s : State) (c k ep : Nat) : Option (List Byte) :=
  ((calEntries (s.planOfEpoch ep) c).filter fun e => nfld (recNat e 0 4) 11 0 == k).getLast?

/-- The cap of a shaper under a plan epoch; 0 for none. -/
def State.calCap (s : State) (c k ep : Nat) : Nat :=
  match s.calEntry c k ep with
  | some e => recNat e 4 4
  | none => 0

/-- The windows that a calendar entry names (R387). -/
def entryNames (e : List Byte) (w : Window) : Bool :=
  (recNat e 0 4).testBit (12 + match w with | .dawn => 0 | .noon => 1 | .dusk => 2 | .midnight => 3)

/-- Whether the current window is one in which a calendar lets scheduled movement leave; while the cadence is STOPPED or WAITING there
is no window (R28, R388). -/
def State.calOpen (s : State) (c k ep : Nat) : Bool :=
  match s.calEntry c k ep with
  | some e => entryNames e s.tim.win && (s.tim.cad == .running || s.tim.cad == .extended)
  | none => true

/-- Whether a packet is held at its shaper's gate (R388). -/
def State.gatedPkt (s : State) (c k : Nat) (p : EPkt) : Bool :=
  match p.move with
  | some ep => !s.calOpen c k ep
  | none => false

/-! ### Shapers (R381 to R386) -/

/-- A shaper. -/
def State.shaper (s : State) (c k : Nat) : Shaper := (s.trc c).shapers.at k

/-- Replaces a shaper. -/
def State.setShaper (s : State) (c k : Nat) (x : Shaper) : State := s.updTrc c fun t => { t with shapers := t.shapers.set k x }

/-- BURST in bytes (R381). -/
def State.shpBurst (s : State) (c k : Nat) : Nat :=
  max (s.rdF c Reg.TRC_SHP_BURST 23 0 k) (s.rdF c Reg.KWP_MTU 13 0 + 20)

/-- The head of a shaper: its oldest packet that the gate does not hold back, since all others pass through a gated shaper (R382,
R388). -/
def State.shpHead (s : State) (c k : Nat) : Option EPkt := (s.shaper c k).fifo.find? fun p => !s.gatedPkt c k p

/-- The plan epoch whose calendar rules a shaper's head (R388). -/
def State.headEpoch (s : State) (c k : Nat) : Nat :=
  match s.shpHead c k with
  | some p => p.move.getD s.pln.active.epoch
  | none => s.pln.active.epoch

/-- The effective rate in Mb/s (R381). -/
def State.shpRate (s : State) (c k : Nat) : Nat :=
  let r := min (s.rdN c Reg.TRC_SHP_RATE k) (s.lineRate c)
  let cap := s.calCap c k (s.headEpoch c k)
  if cap = 0 then r else min r cap

/-- Brings TOKENS to the present; what falls below 2^-16 of a byte is dropped (DESIGN CHOICE, log entry 25). -/
def State.shpFill (s : State) (c k : Nat) : State :=
  let x := s.shaper c k
  let add := (s.tim.now - x.at_) * s.shpRate c k * 65536 / 8000
  s.setShaper c k { x with tokens := min (s.shpBurst c k * 65536) (x.tokens + add), at_ := s.tim.now }

/-- The wheel place of an eligibility time (R383). -/
def wheelPlace (now elig : Nat) : ShpWait :=
  if elig < now + 262144 then .fine (ceilDiv elig 64 * 64)
  else if elig < now + 268435456 then .coarse (elig / 262144 * 262144) (some elig)
  else .coarse ((now + 268435456) / 262144 * 262144 - 262144) none

/-! ### Egress queues (R389, R390) -/

/-- An egress queue. -/
def State.equeue (s : State) (c q : Nat) : EQueue := (s.trc c).queues.at q

/-- Replaces an egress queue. -/
def State.setQueue (s : State) (c q : Nat) (x : EQueue) : State := s.updTrc c fun t => { t with queues := t.queues.set q x }

/-- The depth of a queue in bytes. -/
def EQueue.depth (x : EQueue) : Nat := (x.pkts.map EPkt.len).sum

/-- Whether a frame fits under a queue's limit. -/
def State.queueTakes (s : State) (c q len : Nat) : Bool :=
  decide ((s.equeue c q).depth + len ≤ s.rdF c Reg.TRC_Q_CFG 31 16 q * 1024)

/-- The observations of a queue that fall due up to the present, one per 64 ns of wheel time (R394). -/
def EQueue.observe (x : EQueue) (from_ now : Nat) : EQueue :=
  let t := x.stat
  let a := max t.at_ from_
  let t0 := if t.at_ ≤ from_ then { (default : QStat) with at_ := from_ } else t
  let n := now / 64 - a / 64
  if n = 0 then { x with stat := { t0 with at_ := now } }
  else
    let d := x.depth
    let h1 := match x.pkts with
      | p :: _ => (a / 64 + 1) * 64 - p.enter
      | [] => 0
    let hn := if x.pkts.isEmpty then 0 else h1 + 64 * (n - 1)
    { x with stat :=
        { obs := t0.obs + n, dMin := if t0.obs = 0 then d else min t0.dMin d, dMax := max t0.dMax d, dSum := t0.dSum + n * d,
          hMin := if t0.obs = 0 then h1 else min t0.hMin h1, hMax := max t0.hMax hn, hSum := t0.hSum + n * (h1 + hn) / 2,
          at_ := now } }

/-- Puts a packet at the end of a queue. -/
def State.enqueue (s : State) (c q : Nat) (p : EPkt) : State :=
  let x := (s.equeue c q).observe (s.trc c).smpFrom s.tim.now
  s.setQueue c q { x with pkts := x.pkts ++ [{ p with enter := s.tim.now }] }

/-- A control packet enters its interface's first queue, or is dropped there (R389, R397). -/
def State.sendControl (s : State) (p : EPkt) : State :=
  let c := p.dst.port
  let q := if (s.ch c).kwp.split && p.dst.sub == 1 then 32 else 0
  if s.queueTakes c q p.len then s.enqueue c q p
  else
    (s.bump c Reg.TRC_CTL_DROP_CNT).when (!(s.trc c).ctlPosted) fun s =>
      (s.updTrc c fun t => { t with ctlPosted := true }).evt (trcPage c) 1

/-! ### Evaluation (R382, R384) -/

/-- Cost of a packet in bytes (R382). -/
def EPkt.cost (p : EPkt) : Nat := p.len + 20

/-- Whether a packet answers another: READ_RESP, FLUSH_RESP or ATOMIC_RESP (R343). -/
def EPkt.answers (p : EPkt) : Bool := [3, 5, 7].contains (recNat p.bytes 1 1)

/-- The port and the egress queue that a shaper feeds with a packet: QUEUE of its own port, but an answer leaves by the interface that
received the packet it answers, by the queue of the same place there (R343, R381, R389; the queue is DEDUCED, log entry 25). -/
def State.outQueue (s : State) (c k : Nat) (p : EPkt) : Nat × Nat :=
  let q := s.rdF c Reg.TRC_SHP_QUEUE 5 0 k
  if p.answers then (p.dst.port, if (s.ch p.dst.port).kwp.split then q % 32 + 32 * (p.dst.sub % 2) else q) else (c, q)

/-- Takes the head off a shaper, with its tokens. -/
def State.releaseHead (s : State) (c k : Nat) (p : EPkt) (cost : Nat) : State :=
  let x := s.shaper c k
  let out := s.outQueue c k p
  (s.setShaper c k { x with fifo := x.fifo.erase p, tokens := x.tokens - cost * 65536, wait := .none }).enqueue out.1 out.2 p

/-- Evaluates a shaper: heads leave while they are eligible; then the head waits for its queue, its gate or its time, and a RATE of 0
holds it (R381, R382, R384). With SHAPE_EN 0 no head waits for tokens or for its rate (DEDUCED, log entry 25). `fuel` bounds the
packets. -/
def State.evalShaper (s : State) (c k : Nat) : Nat → State
  | 0 => s
  | fuel + 1 =>
    let s0 := s.shpFill c k
    let x := s0.shaper c k
    let on := s0.rdB c Reg.TRC_CFG 0
    match s0.shpHead c k with
    | none => s0.setShaper c k { x with wait := if x.fifo.isEmpty then .none else .gated }
    | some p =>
      let short := p.cost * 65536 - x.tokens
      let r := s0.shpRate c k
      let out := s0.outQueue c k p
      if on && r == 0 then s0.setShaper c k { x with wait := .none }
      else if on && decide (x.tokens < p.cost * 65536) then
        let w := wheelPlace s0.tim.now (s0.tim.now + ceilDiv (short * 8000) (r * 65536))
        (s0.setShaper c k { x with wait := w }).when (w matches .coarse _ none) fun s => s.bump c Reg.TRC_FAR_CNT
      else if !s0.queueTakes out.1 out.2 p.len then
        (s0.setShaper c k { x with wait := .full }).when (x.wait != .full) fun s => s.bump c Reg.TRC_Q_FULL_CNT
      else (s0.releaseHead c k p (if on then p.cost else 0)).evalShaper c k fuel

/-- Evaluates a shaper over all its packets. -/
def State.evalShp (s : State) (c k : Nat) : State := s.evalShaper c k ((s.shaper c k).fifo.length + 1)

/-- Puts a packet at the end of a shaper (R382); behind a head that waits it only waits. -/
def State.shape (s : State) (c k : Nat) (p : EPkt) : State :=
  let s0 := s.shpFill c k
  let x := s0.shaper c k
  let s1 := s0.setShaper c k { x with fifo := x.fifo ++ [p] }
  if x.fifo.isEmpty || x.wait == .gated then s1.evalShp c k else s1

/-- A change of RATE, BURST or QUEUE, or of a cap: TOKENS are kept and clamped, and a waiting head is re-timed (R385). `f`
makes the change. -/
def State.reshape (s : State) (c k : Nat) (f : State → State) : State := (f (s.shpFill c k)).evalShp c k

/-- The shapers with packets. -/
def State.busyShapers (s : State) (c : Nat) : List Nat := (s.trc c).shapers.keysWhere fun _ x => !x.fifo.isEmpty

/-- Brings the TOKENS of every shaper of every enabled channel to the present, at the rates that end now (R385). -/
def State.fillShapers (s : State) : State :=
  s.each s.channels fun s c => s.each ((s.trc c).shapers.map Prod.fst) fun s k => s.shpFill c k

/-- At a window's start, the shapers with packets that a gate can hold back, or may have held back until now, are evaluated again
(R388). -/
def State.openGates (s : State) (c : Nat) : State :=
  s.each ((s.busyShapers c).filter fun k => (s.shaper c k).fifo.any fun p => p.move.isSome) fun s k => s.evalShp c k

/-- At a plan's activation: caps change, and the BURST values of the new calendar are applied (R387, R388). -/
def State.calActivate (s : State) (c : Nat) : State :=
  let es := (calEntries s.pln.active c).filter fun e => recNat e 8 4 % 2 ^ 24 != 0
  let s1 := s.each es fun s e =>
    let k := nfld (recNat e 0 4) 11 0
    if s.calEntry c k s.pln.active.epoch = some e then
      (s.shpFill c k).wr c Reg.TRC_SHP_BURST (lo32 (recNat e 8 4 % 2 ^ 24)) k
    else s
  s1.each (s1.busyShapers c) fun s k => s.evalShp c k

/-! ### The wheel (R383) -/

/-- The least number of a list. -/
def leastOf : List Nat → Option Nat
  | [] => none
  | x :: l => some (l.foldl min x)

/-- The next fine slot in use. -/
def State.nextFine (s : State) (c : Nat) : Option Nat :=
  leastOf ((s.trc c).shapers.filterMap fun e => match e.2.wait with
    | .fine t => some t
    | _ => none)

/-- WHEEL_SLOT_DUE (R383): the shapers of the next fine slot are evaluated. -/
def execWheelSlotDue (c : Nat) (s : State) : Host.Outcome State Fault Refusal :=
  .next (match s.nextFine c with
    | none => s
    | some t =>
      let s1 := s.passToNow t
      s1.each ((s1.trc c).shapers.keysWhere fun _ x => x.wait == .fine t) fun s k => s.evalShp c k)

/-- The next coarse slot in use. -/
def State.nextCoarse (s : State) (c : Nat) : Option Nat :=
  leastOf ((s.trc c).shapers.filterMap fun e => match e.2.wait with
    | .coarse t _ => some t
    | _ => none)

/-- A shaper whose coarse slot is due moves into the fine level, or is computed again (R383). -/
def State.toFine (s : State) (c k : Nat) : State :=
  let x := s.shaper c k
  match x.wait with
  | .coarse _ (some e) => s.setShaper c k { x with wait := .fine (ceilDiv e 64 * 64) }
  | _ => s.evalShp c k

/-- COARSE_SLOT_DUE (R383). -/
def execCoarseSlotDue (c : Nat) (s : State) : Host.Outcome State Fault Refusal :=
  .next (match s.nextCoarse c with
    | none => s
    | some t =>
      let s1 := s.passToNow t
      s1.each ((s1.trc c).shapers.keysWhere fun _ x => match x.wait with
        | .coarse u _ => u == t
        | _ => false) fun s k => s.toFine c k)

/-! ### The transmitter (R390) -/

/-- The queues of an interface. -/
def State.ifQueues (s : State) (c sub : Nat) : List Nat :=
  if (s.ch c).kwp.split then (List.range 32).map fun i => 32 * sub + i else List.range 64

/-- PRIO and WEIGHT of a queue. -/
def State.qPrio (s : State) (c q : Nat) : Nat := s.rdF c Reg.TRC_Q_CFG 2 0 q
def State.qWeight (s : State) (c q : Nat) : Nat := max 1 (s.rdF c Reg.TRC_Q_CFG 15 8 q)

/-- The non-empty queues of the highest priority of an interface. -/
def State.serving (s : State) (c sub : Nat) : List Nat :=
  let l := (s.ifQueues c sub).filter fun q => !(s.equeue c q).pkts.isEmpty
  let top := (l.map (s.qPrio c)).foldl max 0
  l.filter fun q => s.qPrio c q == top

/-- The queue after another in the round of those being served. -/
def nextInRound (l : List Nat) (q : Nat) : Nat :=
  match l.find? fun x => decide (q < x) with
  | some x => x
  | none => l.headD 0

/-- The queue that sends next, by deficit round robin: a queue whose deficit does not cover its head waits for the next
round, and its turn brings it a quantum (R390). `q` is the queue whose turn it is. -/
def State.robin (s : State) (c : Nat) (l : List Nat) : Nat → Nat → State × Option Nat
  | 0, _ => (s, none)
  | fuel + 1, q =>
    let x := s.equeue c q
    let len := match x.pkts with
      | p :: _ => p.len
      | [] => 0
    if l.contains q && decide (len ≤ x.deficit) then (s, some q)
    else
      let n := nextInRound l q
      let y := s.equeue c n
      (s.setQueue c n { y with deficit := y.deficit + s.qWeight c n * 64 }).robin c l fuel n

/-- The shapers whose heads wait for room in a queue are evaluated again (R384). -/
def State.queueDrained (s : State) : State :=
  s.each s.channels fun s d => s.each ((s.busyShapers d).filter fun k => (s.shaper d k).wait == .full) fun s k => s.evalShp d k

/-- Takes the packet that an interface sends next. Each priority has a round of its own, which another priority's turn does not
break (R390). -/
def State.takeFrame (s : State) (c sub : Nat) : State × Option EPkt :=
  let l := s.serving c sub
  match l with
  | [] => (s, none)
  | q0 :: _ =>
    let r := 8 * sub + s.qPrio c q0
    match s.robin c l 16384 ((s.trc c).turn.at r) with
    | (s1, none) => (s1, none)
    | (s1, some q) =>
      let x := (s1.equeue c q).observe (s1.trc c).smpFrom s1.tim.now
      match x.pkts with
      | [] => (s1, none)
      | p :: rest =>
        let d := if rest.isEmpty then 0 else x.deficit - p.len
        (((s1.setQueue c q { x with pkts := rest, deficit := d }).updTrc c fun t => { t with turn := t.turn.set r q }).queueDrained, some p)

/-- Takes the next PTP message of an interface alone: with KW_EN 0 no Kweuz packet leaves (R379, R389). -/
def State.takePtp (s : State) (c sub : Nat) : State × Option EPkt :=
  let q := if (s.ch c).kwp.split && sub == 1 then 32 else 0
  let x := (s.equeue c q).observe (s.trc c).smpFrom s.tim.now
  match x.pkts.find? fun p => p.ptp with
  | none => (s, none)
  | some p => ((s.setQueue c q { x with pkts := x.pkts.erase p }).queueDrained, some p)

/-! ### Shaper writes (R385, R386) -/

/-- SHAPER_RATE_WRITE (R386): a privileged write of RATE of the selected shaper. -/
def execShaperRateWrite (rq : Requester) (c : Nat) (v : Word) (s : State) : Host.Outcome State Fault Refusal :=
  .next (s.onWrite rq c Reg.TRC_SHP_RATE v fun s =>
    s.reshape c (s.rdN c Reg.TRC_SHP_SEL) fun s => s.store c Reg.TRC_SHP_RATE v)

/-- SHAPER_CONFIG_WRITE (R385): a write of BURST, or of QUEUE, of the selected shaper. -/
def execShaperConfigWrite (rq : Requester) (c : Nat) (burst : Bool) (v : Word) (s : State) : Host.Outcome State Fault Refusal :=
  let r := if burst then Reg.TRC_SHP_BURST else Reg.TRC_SHP_QUEUE
  .next (s.onWrite rq c r v fun s => s.reshape c (s.rdN c Reg.TRC_SHP_SEL) fun s => s.store c r v)

/-! ### Policers (R391 to R393) -/

/-- Fills a policer's buckets to the present under its configuration: under srTCM what overflows the first goes to the second
(RFC 2697), under trTCM each has its own rate (RFC 2698). -/
def State.polFill (s : State) (c n : Nat) : Policer :=
  let x := (s.trc c).policers.at n
  let dt := s.tim.now - x.at_
  let cbs := s.rdN c Reg.TRC_POL_CBS n * 65536
  let exc := s.rdN c Reg.TRC_POL_EXC n * 65536
  let addC := dt * s.rdN c Reg.TRC_POL_CIR n * 65536 / 8000
  if s.rdB c Reg.TRC_POL_CFG 1 n then
    { tc := min cbs (x.tc + addC), te := min exc (x.te + dt * s.rdN c Reg.TRC_POL_PIR n * 65536 / 8000), at_ := s.tim.now }
  else
    let tc := min cbs (x.tc + addC)
    { tc := tc, te := min exc (x.te + (x.tc + addC - tc)), at_ := s.tim.now }

/-- The pre-colour of a frame (R391): 0 green, 1 yellow, 2 red. -/
def State.preColour (s : State) (c n : Nat) (p : KPkt) : Nat :=
  if !s.rdB c Reg.TRC_POL_CFG 2 n then 0
  else if s.rdB c Reg.TRC_POL_CFG 3 n then (if p.tagged && p.dei then 1 else 0)
  else
    let d := p.dscp % 64
    min 2 (fld (s.rdAt (trcPage c) (0x160 + 4 * (d / 16))) (2 * (d % 16) + 1) (2 * (d % 16)))

/-- The colour of a frame of `b` units, and the buckets after it (R391). -/
def meter (tr : Bool) (pre b : Nat) (x : Policer) : Nat × Policer :=
  if tr then
    if pre = 2 ∨ x.te < b then (2, x)
    else if pre = 1 ∨ x.tc < b then (1, { x with te := x.te - b })
    else (0, { x with tc := x.tc - b, te := x.te - b })
  else if pre = 0 ∧ b ≤ x.tc then (0, { x with tc := x.tc - b })
  else if pre ≤ 1 ∧ b ≤ x.te then (1, { x with te := x.te - b })
  else (2, x)

/-- Meters a frame against a policer: the state, and whether the frame passes (R391, R392). -/
def State.police (s : State) (c n : Nat) (p : KPkt) : State × Bool :=
  let (colour, x) := meter (s.rdB c Reg.TRC_POL_CFG 1 n) (s.preColour c n p) (p.len * 65536) (s.polFill c n)
  let s1 := s.updTrc c fun t => { t with policers := t.policers.set n x }
  match colour with
  | 0 => (s1.bump c Reg.TRC_POL_GREEN_CNT 1 n, true)
  | 1 => (s1.bump c Reg.TRC_POL_YELLOW_CNT 1 n, !s.rdB c Reg.TRC_POL_CFG 4 n)
  | _ => (s1.bump c Reg.TRC_POL_RED_CNT 1 n, false)

/-- R392: the frame addressed to local entry `loc` meets the policer that the classifier chooses, if it chooses one. A policer
without ENABLE, and POLICE_EN 0, leave the frame unpoliced (DEDUCED, log entry 25). -/
def State.classify (s : State) (c loc : Nat) (p : KPkt) : State × Bool :=
  let e := s.rd c Reg.TRC_CLS_ENTRY (loc * 8 + p.dscp % 64 / 8)
  if s.rdB c Reg.TRC_CFG 1 && wbit e 31 && s.rdB c Reg.TRC_POL_CFG 0 (fld e 9 0) then s.police c (fld e 9 0) p else (s, true)

/-- A policer's registers by offset: its configuration, rates and sizes. -/
def polReg (off : Nat) : Option RegId :=
  [Reg.TRC_POL_CFG, Reg.TRC_POL_CIR, Reg.TRC_POL_CBS, Reg.TRC_POL_EXC, Reg.TRC_POL_PIR].find? fun r => r.off == off

/-- A change of a policer keeps its counts, clamped to the new sizes (R393). -/
def State.polChange (s : State) (c : Nat) (r : RegId) (v : Word) : State :=
  let n := s.rdN c Reg.TRC_POL_SEL
  let x := s.polFill c n
  let s1 := s.store c r v
  let y : Policer :=
    { x with tc := min (s1.rdN c Reg.TRC_POL_CBS n * 65536) x.tc, te := min (s1.rdN c Reg.TRC_POL_EXC n * 65536) x.te }
  s1.updTrc c fun t => { t with policers := t.policers.set n y }

/-- POLICER_CONFIG_WRITE (R393): a write of a register of the selected policer, by its offset. -/
def execPolicerConfigWrite (rq : Requester) (c off : Nat) (v : Word) (s : State) : Host.Outcome State Fault Refusal :=
  .next (match polReg off with
    | none => s
    | some r => s.onWrite rq c r v fun s => s.polChange c r v)

/-! ### Queue sampling (R394, R395) -/

/-- SAMPLE_US in ns. -/
def State.sampleNs (s : State) (c : Nat) : Nat := s.rdF c Reg.TRC_SMP_CFG 31 16 * 1000

/-- The record of a queue at a sample instant (R394). -/
def sampleRec (tod q : Nat) (x : EQueue) : List Byte :=
  let t := x.stat
  let avg := fun (n : Nat) => if t.obs = 0 then 0 else n / t.obs
  padTo 64 (leBytes 8 tod ++ leBytes 4 q ++ leBytes 4 t.obs ++ leBytes 4 x.depth ++ leBytes 4 t.dMin ++ leBytes 4 t.dMax ++
    leBytes 4 (avg t.dSum) ++ leBytes 4 t.hMin ++ leBytes 4 (min t.hMax (2 ^ 32 - 1)) ++ leBytes 4 (avg t.hSum))

/-- Writes a record to the sampling ring, or drops it (R395). -/
def State.putSample (s : State) (c : Nat) (r : List Byte) : State :=
  let size := 2 ^ s.rdF c Reg.TRC_SMP_CFG 5 1
  let t := s.rdN c Reg.TRC_SMP_TAIL
  if ringFull size (s.rdN c Reg.TRC_SMP_HEAD) t then
    (s.bump c Reg.TRC_SMP_DROP_CNT).when (!(s.trc c).ovfPosted) fun s =>
      (s.updTrc c fun x => { x with ovfPosted := true }).evt (trcPage c) 0
  else (s.vwrite (s.rd64 c Reg.TRC_SMP_BASE_LO + 64 * t) r).wr c Reg.TRC_SMP_TAIL (lo32 ((t + 1) % size))

/-- The records of one sample instant, and the next interval. -/
def State.sampleNow (s : State) (c : Nat) : State :=
  let mask := s.rd64 c Reg.TRC_SMP_MASK_LO
  let s1 := s.each ((List.range 64).filter fun q => mask.testBit q) fun s q =>
    s.putSample c (sampleRec s.stamp q ((s.equeue c q).observe (s.trc c).smpFrom s.tim.now))
  s1.updTrc c fun t => { t with
    smpFrom := s1.tim.now, smpLast := s1.tim.tod + 1,
    queues := t.queues.map fun e => (e.1, { e.2 with stat := { (default : QStat) with at_ := s1.tim.now } }) }

/-- The ToD of the next sample instant: the present one where ToD stands on a multiple of SAMPLE_US that has not been sampled (R394). -/
def State.nextSample (s : State) (c : Nat) : Nat :=
  let n := s.sampleNs c
  if s.tim.tod % n = 0 ∧ (s.trc c).smpLast ≠ s.tim.tod + 1 then s.tim.tod else (s.tim.tod / n + 1) * n

/-- SAMPLE_INSTANT (R394): the next multiple of SAMPLE_US in ToD. -/
def execSampleInstant (c : Nat) (s : State) : Host.Outcome State Fault Refusal :=
  .next (s.when (s.ethMode c && s.rdB c Reg.TRC_SMP_CFG 0 && decide (0 < s.sampleNs c)) fun s =>
    (s.passToTod (s.nextSample c)).sampleNow c)

/-- A write of TRC_SMP_CFG: enabling starts the ring and the first interval anew (R394, R602); base and size are kept while the
ring is enabled (R396). -/
def State.smpCfgWrite (s : State) (c : Nat) (v : Word) : State :=
  let old := s.rd c Reg.TRC_SMP_CFG
  if wbit old 0 then s.store c Reg.TRC_SMP_CFG (setFld v 5 1 (fld old 5 1))
  else
    (s.store c Reg.TRC_SMP_CFG v).when (wbit v 0) fun s =>
      ((s.wr c Reg.TRC_SMP_HEAD 0).wr c Reg.TRC_SMP_TAIL 0).updTrc c fun t => { t with smpFrom := s.tim.now }

/-! ### Registers (R396) -/

/-- TRC_STATUS. -/
def State.trcStatus (s : State) (c : Nat) : Word :=
  let l := (s.trc c).shapers
  BitVec.ofNat 32 (fieldAt 0 13 (l.filter fun e => e.2.wait matches .fine _ || e.2.wait matches .coarse _ _).length +
    fieldAt 13 1 (b2n (l.any fun e => e.2.wait == .gated)))

/-- TRC_SHP_TOKENS of a shaper. -/
def State.trcTokens (s : State) (c k : Nat) : Word := lo32 (((s.shpFill c k).shaper c k).tokens / 65536 % 2 ^ 24)

/-- TRC_SHP_STATE of a shaper. -/
def State.trcShpState (s : State) (c k : Nat) : Word :=
  let x := s.shaper c k
  let w := match s.calEntry c k s.pln.active.epoch with
    | some e => nfld (recNat e 0 4) 15 12
    | none => 0
  BitVec.ofNat 32 (b2n (!x.fifo.isEmpty) + fieldAt 1 1 (b2n (x.wait == .gated)) + fieldAt 2 4 w)

end Sys2Proof.Machine
end

