-- ==== Sys2Proof/Machine/Kweuz.lean ====
section
/-! DEFINITION. KWP: nodes and routes, packets, connections, windows, requests, acknowledgement and retransmission
(R338 to R378). The rows stand in Frames.lean. -/
namespace Sys2Proof.Machine

/-- KWP's page of a channel. -/
def kwpPage (c : Nat) : Page := ⟨.kwp, c⟩

/-- KWP's state of a channel. -/
def State.kwp (s : State) (c : Nat) : KwpCh := (s.ch c).kwp

/-- Changes KWP's state of a channel. -/
def State.updKwp (s : State) (c : Nat) (f : KwpCh → KwpCh) : State := s.updCh c fun x => { x with kwp := f x.kwp }

/-- A connection context. -/
def State.conn (s : State) (c k : Nat) : KConn := (s.kwp c).conns.at k

/-- Changes a connection context. -/
def State.updConn (s : State) (c k : Nat) (f : KConn → KConn) : State := s.updKwp c fun x => { x with conns := x.conns.upd k f }

/-- A window record. -/
def State.win (s : State) (c i : Nat) : KWin := (s.kwp c).wins.at i

/-- KW_EN (R379). -/
def State.kwEn (s : State) (c : Nat) : Bool := s.rdB c Reg.KWP_CFG 0

/-- Whether the send path of a channel forms packets: KW_EN is 1, and TRC accepts them (R7, R379; log entry 61). -/
def State.txOn (s : State) (c : Nat) : Bool := s.kwEn c && s.ready (trcPage c)

/-- Whether PSN `a` comes before PSN `b` (R354). -/
def psnBefore (a b : Nat) : Bool :=
  let d := (b + 2 ^ 32 - a % 2 ^ 32) % 2 ^ 32
  decide (1 ≤ d) && decide (d < 2 ^ 31)

/-! ### Tags (R1) -/

/-- The requests of a channel's connections that have not ended. -/
def State.kReqs (s : State) (c : Nat) : Nat :=
  ((s.kwp c).conns.map fun k => (k.2.reqs.filter fun r => !r.ended).length).sum

/-- The transaction tags of a channel in use: those of Solrov requests, and one for each Kweuz request (R1; what else moves in a channel
ends within its step, log entry 12). -/
def State.tagsUsed (s : State) (c : Nat) : Nat :=
  ((s.ch c).slp.tags.filter fun t => decide (t.1 < 16384) && t.2.live).length + s.kReqs c

/-- Whether one of the channel's 16,384 tags is free (R1). -/
def State.tagFree (s : State) (c : Nat) : Bool := decide (s.tagsUsed c < 16384)

/-! ### Nodes, routes and local addresses (R342, R343) -/

/-- The route entry of a node under a plan epoch; one whose NODE has bit 31 set is never matched (R85). -/
def State.route (s : State) (c ep node : Nat) : Option (List Byte) :=
  let d := (s.planOfEpoch ep).section_ 5 c
  ((List.range (recNat d 0 4)).map fun i => (d.drop (8 + 48 * i)).take 48).find? fun r => recNat r 0 4 == node && !node.testBit 31

/-- The local entry of an address in the ACTIVE plan: its index and its channel. -/
def State.localEntry (s : State) (c : Nat) (v6 : Bool) (ip : Nat) : Option (Nat × Nat) :=
  let d := s.pln.active.section_ 5 c
  let at_ := fun (i : Nat) => (d.drop (8 + 48 * recNat d 0 4 + 32 * i)).take 32
  ((List.range (recNat d 4 1)).find? fun i =>
    (recNat (at_ i) 0x10 4).testBit 0 == v6 && recNat (at_ i) 0 (if v6 then 16 else 4) == ip).map fun i =>
      (i, nfld (recNat (at_ i) 0x10 4) 7 4)



/-- The path of a route entry (R342). -/
def pathOf (c : Nat) (r : List Byte) : KPath :=
  let w := recNat r 4 4
  let m := recNat r 8 8
  { dest := { port := c, mac := nfld m 47 0, v6 := w.testBit 0, ip := recNat r 0x10 (if w.testBit 0 then 16 else 4), udp := recNat r 0x20 2,
              sub := nfld w 2 2 },
    vlan := if w.testBit 1 then some (nfld m 59 48 + 2 ^ 13 * nfld m 62 60) else none, dscp := nfld w 9 4 }

/-- The path of an answer. The VLAN register tags ACK and BUSY (R343, R379); other answers go untagged and with DSCP 0 (DEDUCED,
log entry 24). -/
def State.answerPath (s : State) (p : KPeer) (ctl : Bool) : KPath :=
  let v := s.rd p.port Reg.KWP_VLAN p.sub
  { dest := p, vlan := if ctl && wbit v 15 then some (fld v 11 0 + 2 ^ 13 * fld v 14 12) else none, dscp := 0 }

/-! ### Packets (R344, R345) -/

/-- Flag bits of the base header, from bit 16 on. -/
def kfFirst : Nat := 1
def kfLast : Nat := 2
def kfCoded : Nat := 4
def kfRetx : Nat := 8
def kfAckReq : Nat := 16
def kfEce : Nat := 32
def kfPoison : Nat := 64

/-- The base header (R344). -/
def kHdr (op flags dst psn gen time iv len src : Nat) : List Byte :=
  leBytes 4 (1 + fieldAt 8 8 op + fieldAt 16 7 flags) ++ leBytes 4 (dst % 2 ^ 18) ++ leBytes 4 psn ++ leBytes 4 (gen % 2 ^ 16) ++
    leBytes 8 time ++ leBytes 8 iv ++ leBytes 4 (len % 2 ^ 16) ++ leBytes 4 (src % 2 ^ 18)

/-- Bytes of the extension header of an opcode (R345). -/
def kExtLen : Nat → Nat
  | 1 => 24 | 2 => 24 | 3 => 16 | 5 => 8 | 6 => 40 | 7 => 16 | 8 => 8 | 9 => 24 | 10 => 16 | _ => 0

/-- Length of a frame that carries a packet; BUSY has no tag, being sealed by nothing (R345, R347). -/
def frameLen (p : KPath) (op body : Nat) : Nat :=
  14 + (if p.vlan.isSome then 4 else 0) + (if p.dest.v6 then 40 else 20) + 8 + 40 + body + (if op = 10 then 0 else 16) + 4

/-- A packet of a connection, to be sealed as it leaves: IV_CTR advances (R347). -/
def State.sealPkt (s : State) (c k op flags psn : Nat) (ext pay : List Byte) (path : KPath) : State × EPkt :=
  let v := s.conn c k
  let e := padTo (kExtLen op) ext
  let p : EPkt :=
    { bytes := kHdr op flags v.peerConn psn v.gen s.stamp v.txIv pay.length k ++ e, pay := pay,
      len := frameLen path op (e.length + pay.length), dst := path.dest, vlan := path.vlan, dscp := path.dscp,
      sport := 0xC000 + k % 16384, keys := some (v.txKey, v.txSalt), ptp := false, move := none, conn := k, psn := psn, req := 0,
      last := false, enter := 0 }
  (s.updConn c k fun x => { x with txIv := x.txIv + 1 }, p)

/-! ### Local ranges (R358, R364) -/

/-- Whether a range lies in one RESIDENT region of a job with the rights asked for. -/
def State.inOneRegion (s : State) (c j a n : Nat) (rd wr : Bool) : Bool :=
  (s.selsOf c Reg.ATU_RGN_CTRL).any fun r =>
    let k := s.rd c Reg.ATU_RGN_CTRL r
    wbit k 31 && fld k 9 0 == j && wbit k 18 && (!rd || wbit k 16) && (!wr || wbit k 17) &&
      decide (s.rd64 c Reg.ATU_RGN_BASE_LO r ≤ a) && decide (a + n ≤ s.rd64 c Reg.ATU_RGN_LIMIT_LO r)

/-- The part of a list of ranges from byte `off` on, `n` bytes long. -/
def sliceRanges : List (Nat × Nat) → Nat → Nat → List (Nat × Nat)
  | [], _, _ => []
  | (a, k) :: l, off, n =>
    if n = 0 then []
    else if k ≤ off then sliceRanges l (off - k) n
    else (a + off, min n (k - off)) :: sliceRanges l 0 (n - min n (k - off))

/-- The bytes of ranges; poison in a raw WRITE's source leaves them open (log entry 6). -/
def State.rangesRead (s : State) (l : List (Nat × Nat)) : State × List Byte :=
  if l.any fun p => s.vpoison p.1 p.2 then
    let (bs, s1) := s.drawBytes (l.map Prod.snd).sum
    (s1, bs)
  else (s, l.flatMap fun p => s.vread p.1 p.2)

/-- The bytes of a coded unit. -/
def ZUnit.bytes (u : ZUnit) : List Byte := leBytes 8 u.hdr.val ++ u.data

/-- How many of the first units fit in a payload (R346). Where the first is longer than the limit no packet can carry it: the request
waits (log entry 24). -/
def unitsFit (limit : Nat) : List ZUnit → Nat → Nat
  | [], _ => 0
  | u :: l, used => if limit < used + u.bytes.length then 0 else 1 + unitsFit limit l (used + u.bytes.length)

/-- Raw bytes of units. -/
def unitsRaw (l : List ZUnit) : Nat := (l.map ZUnit.rawBytes).sum

/-- The units in a payload; `fuel` bounds them. -/
def parseUnits : Nat → List Byte → List ZUnit
  | 0, _ => []
  | fuel + 1, bs =>
    if bs.length < 8 then []
    else
      let h := zhdrOf (recNat bs 0 8)
      let n := if h.tag = 1 then 32 * h.k else if h.tag = 0 then 32 * h.rawLen else 0
      ⟨h, (bs.drop 8).take n⟩ :: parseUnits fuel (bs.drop (8 + n))

/-- The units of a packet's payload. -/
def pktUnits (pay : List Byte) : List ZUnit := parseUnits (pay.length / 8 + 1) pay

/-- The address of byte `off` of ranges, where they have that byte. -/
def rangeAddr (l : List (Nat × Nat)) (off : Nat) : Option Nat := (sliceRanges l off 1).head?.map Prod.fst

/-- Places units from byte `off` of ranges on (R276). -/
def State.placeAt (s : State) (c job : Nat) (l : List (Nat × Nat)) (off : Nat) (us : List ZUnit) : State :=
  s.each us.zipIdx fun s u => match rangeAddr l (off + 512 * u.2) with
    | some a => s.placeUnit c job a u.1
    | none => s

/-- Writes bytes over ranges from byte `off` on. -/
def State.rangesWrite (s : State) (job : Nat) (l : List (Nat × Nat)) (off : Nat) (bs : List Byte) : State :=
  s.writeRanges job (sliceRanges l off bs.length) bs

/-! ### Sending (R343, R345, R355, R365) -/

/-- The payload limit of a connection in bytes (R346). -/
def KConn.limit (v : KConn) : Nat := (v.maxPay + 1) * 256

/-- Whether one more PSN can be outstanding (R355). -/
def KConn.windowOpen (v : KConn) : Bool := decide ((v.txPsn + 2 ^ 32 - v.unaPsn % 2 ^ 32) % 2 ^ 32 < 256)

/-- The path of a PSN: an answer's, or the route of its request's epoch. -/
def State.pathFor (s : State) (c k : Nat) (x : KSent) : KPath :=
  let v := s.conn c k
  match x.dest with
  | some p => s.answerPath p false
  | none =>
    let ep := match v.reqs.find? fun r => r.id == x.req with
      | some r => r.epoch
      | none => s.pln.active.epoch
    match s.route c ep v.peerNode with
    | some r => pathOf c r
    | none => default

/-- Whether ranges still lie in one region of a job each, with the rights asked for: privileged software may have removed it since the
request was taken (R364). -/
def State.rangesOk (s : State) (c j : Nat) (l : List (Nat × Nat)) (rd wr : Bool) : Bool :=
  l.all fun p => s.inOneRegion c j p.1 p.2 rd wr

/-- A RAW unit of bytes that are open. -/
def openUnit (bs : List Byte) : ZUnit := ⟨⟨0, 0, bs.length / 32, 0, (crc32c bs).toNat⟩, bs⟩

/-- The payload of a WRITE, read from its source (R275, R366); a source whose region was removed gives open bytes (R364). -/
def State.writePay (s : State) (c k : Nat) (x : KSent) : State × List Byte :=
  let coded := x.flags &&& kfCoded != 0
  if !x.dev && !s.rangesOk c (s.conn c k).job x.src true false then
    let (bs, s1) := s.drawBytes (x.src.map Prod.snd).sum
    (s1, if coded then (chunksOf 512 (bs.length / 512 + 1) bs).flatMap fun b => (openUnit b).bytes else bs)
  else
    let s1 := s.each x.src fun s p => s.touch (s.conn c k).job p.1 p.2
    if coded then (s1, (s1.unitsOf c (recNat x.ext 16 4) x.src).flatMap ZUnit.bytes) else s1.rangesRead x.src

/-- Sends one PSN, for the first time or again: a WRITE reads its source (R366), the packet carries a new SEND_TIME and IV_CTR
and goes through the connection's shaper, and a STATUS beside it (R382, R389). -/
def State.sendPsn (s : State) (c k : Nat) (x : KSent) (retx last : Bool) : State :=
  let path := x.route.getD default
  let (s1, pay) := if x.op ≠ 1 then (s, x.data) else s.writePay c k x
  let iv := (s1.conn c k).txIv
  let (s2, p) := s1.sealPkt c k x.op (x.flags ||| (if retx then kfRetx else 0)) x.psn x.ext pay path
  let pkt := { p with move := x.move, req := x.req, last := last && !retx }
  let s3 := s2.updConn c k fun v => { v with sent := v.sent.map fun y => if y.psn = x.psn then { y with iv := iv } else y }
  let s4 := s3.when retx fun s => s.bump c Reg.KWP_RETX_CNT
  if x.op = 8 then s4.sendControl pkt else s4.shape c (s4.conn c k).shaper pkt

/-- Gives a packet the next PSN and its path, and sends it; the timer starts with the first outstanding PSN. -/
def State.sendNew (s : State) (c k : Nat) (x : KSent) (last : Bool) : State :=
  let v := s.conn c k
  let y := { x with psn := v.txPsn, route := some (s.pathFor c k x) }
  let s1 := s.updConn c k fun v =>
    { v with txPsn := (v.txPsn + 1) % 2 ^ 32, sent := v.sent ++ [y], timerAt := if v.sent.isEmpty then s.tim.now else v.timerAt }
  s1.sendPsn c k y false last

/-- A packet that is not yet sent. -/
def newSent (op flags : Nat) (ext : List Byte) : KSent :=
  { psn := 0, op := op, flags := flags, ext := ext, src := [], data := [], req := 0, iv := 0, sacked := false, fast := false,
    dest := none, route := none, dev := false, move := none }

/-- Whether a device transfer that its window's end has paused stands at its boundary (R38, R374). -/
def State.devPaused (s : State) (c : Nat) (r : KReq) : Bool :=
  r.dev != 0 && match (s.pgm c).moves.at (r.dev - 1) with
    | some m => m.paused && (r.op != 1 || decide (m.stopAt ≤ r.formed))
    | none => false

/-- The raw bytes that a request's next packet covers: 0 where none can be formed. A paused transfer forms none that begins at
or beyond its next 4 KiB boundary (R374). -/
def State.nextRaw (s : State) (c : Nat) (v : KConn) (r : KReq) : Nat :=
  let left := r.len - r.formed
  let n := if r.coded then
      let us := s.unitsOf c r.formed (sliceRanges r.ranges r.formed (min left (512 * (v.limit / 8 + 1))))
      unitsRaw (us.take (unitsFit v.limit us 0))
    else min v.limit left
  if s.devPaused c r then 0 else n

/-- Forms the next packet of a WRITE (R346, R365). -/
def State.formWrite (s : State) (c k : Nat) (r : KReq) (n : Nat) : State :=
  let flags := (if r.formed = 0 then kfFirst else 0) ||| (if r.formed + n = r.len then kfLast else 0) |||
    (if r.coded then kfCoded else 0)
  let ext := leBytes 8 r.key ++ leBytes 8 (r.off + r.formed) ++ leBytes 4 r.formed ++ leBytes 4 r.len
  let x := { newSent 1 flags ext with
    src := sliceRanges r.ranges r.formed n, req := r.id, dev := r.dev != 0, move := if r.gate then some r.epoch else none }
  s.sendNew c k x (r.formed + n == r.len)

/-- Forms the one packet of a READ, a FLUSH or an ATOMIC. -/
def State.formOther (s : State) (c k : Nat) (r : KReq) : State :=
  let fl := kfFirst ||| kfLast
  let mv := if r.gate then some r.epoch else none
  let x := if r.op = 2 then
      newSent 2 (fl ||| (if r.coded then kfCoded else 0)) (leBytes 8 r.key ++ leBytes 8 r.off ++ leBytes 4 r.len ++ leBytes 4 r.id)
    else if r.op = 3 then newSent 4 fl []
    else newSent 6 fl (leBytes 8 r.key ++ leBytes 8 r.off ++ leBytes 8 r.operand0 ++ leBytes 8 r.operand1 ++ leBytes 8 r.aop)
  s.sendNew c k { x with req := r.id, move := mv } true

/-- Whether every packet of a request has been formed. -/
def KReq.formedAll (r : KReq) : Bool := r.ended || (if r.op = 1 then decide (r.len ≤ r.formed) else r.formed != 0)

/-- Changes an outstanding request. -/
def State.updKReq (s : State) (c k id : Nat) (f : KReq → KReq) : State :=
  s.updConn c k fun v => { v with reqs := v.reqs.map fun r => if r.id = id then f r else r }

/-- Forms one packet of a request; `none` where none can be formed now. -/
def State.formReq (s : State) (c k : Nat) (r : KReq) : Option State :=
  let psn := (s.conn c k).txPsn
  let mark := fun (s : State) (n : Nat) => s.updKReq c k r.id fun r =>
    { r with formed := r.formed + n, psn0 := if r.formed = 0 then psn else r.psn0, psn1 := psn }
  if r.op = 1 then
    let n := s.nextRaw c (s.conn c k) r
    if n = 0 then none else some (mark (s.formWrite c k r n) n)
  else if s.devPaused c r then none else some (mark (s.formOther c k r) 1)

/-- The units of a coded READ_RESP: as many as fit, up to one that is poison, which a packet of its own reports (R346, R367). -/
def respUnits (limit : Nat) (us : List ZUnit) : List ZUnit :=
  match us with
  | u :: _ => if u.hdr.tag = 3 then [u] else (us.take (unitsFit limit us 0)).takeWhile fun u => u.hdr.tag != 3
  | [] => []

/-- Forms one READ_RESP of a read that the target answers (R367, R374); `none` where the first unit fits in no packet. -/
def State.formResp (s : State) (c k : Nat) (r : KRead) : Option State :=
  let v := s.conn c k
  let left := r.len - r.done
  let us := if r.coded then s.unitsOf c r.done [(r.base + r.done, min left (512 * (v.limit / 8 + 1)))] else []
  let take := respUnits v.limit us
  let n := if r.coded then unitsRaw take else min v.limit left
  let bad := if r.coded then take.any fun u => u.hdr.tag == 3 else s.vpoison (r.base + r.done) n
  let flags := (if r.done = 0 then kfFirst else 0) ||| (if r.len ≤ r.done + n then kfLast else 0) |||
    (if r.coded then kfCoded else 0) ||| (if bad then kfPoison else 0)
  let pay := if bad then [] else if r.coded then take.flatMap ZUnit.bytes else s.vread (r.base + r.done) n
  let x := { newSent 3 flags (leBytes 8 r.reqId ++ leBytes 4 r.done ++ leBytes 4 n) with data := pay, dest := some r.dest }
  let s1 := s.updConn c k fun v => { v with reads := if r.len ≤ r.done + n then v.reads.drop 1
                                                     else { r with done := r.done + n } :: v.reads.drop 1 }
  if n = 0 ∧ r.len ≠ r.done then none else some ((s1.touch v.job (r.base + r.done) n).sendNew c k x false)

/-- Writes a request's completion record to its connection's queue: at once, when there is room, or not at all on a queue that
is disabled, as `deliver` does for a command's. -/
def State.kwpCpl (s : State) (c k op tag status bytes extra : Nat) : State :=
  let v := s.conn c k
  let cmd : Cmd := { (default : Cmd) with op := 0x0C0 + op, job := v.job, tag := tag }
  let rec_ := cplRec cmd status (leBytes 4 k ++ leBytes 4 bytes ++ leBytes 8 extra)
  let q := v.cq
  if !s.rdB c Reg.JSC_CQ_CFG 0 q then s.logErr (jscPage c) 0x01 v.job 0 ((jscPage c).bar0 + 0x12C) q
  else if s.cqIsFull c q || (s.jsc c).waitCpl.any (fun w => w.cq == q) then
    let s1 := s.updJsc c fun x => { x with waitCpl := x.waitCpl ++ [⟨q, rec_, { cmd with queue := k }, 8⟩] }
    s1.when (!(s.jsc c).cqFull.contains q) fun s =>
      (s.updJsc c fun x => { x with cqFull := x.cqFull ++ [q] }).evtJob c .jsc 1 0x71 0 0 0xFFFF v.job q
  else s.writeCpl c q rec_

/-- The epoch under which a request whose first packet is to be formed is routed: for a work request the ACTIVE one, for a device
transfer the one its move was routed with (R12, R343). -/
def State.epochFor (s : State) (r : KReq) : Nat := if r.formed = 0 ∧ r.dev = 0 then s.pln.active.epoch else r.epoch

/-- Forms the next packet of a request of a connection to a node; `none` where none can be formed now. A work request whose node has
no route when its first packet is to be formed ends with NO_ROUTE (R343). -/
def State.formNext (s : State) (c k node : Nat) (r : KReq) : Option State :=
  let ep := s.epochFor r
  if r.dev = 0 ∧ r.formed = 0 ∧ (s.route c ep node).isNone then
    some ((s.updConn c k fun v => { v with reqs := v.reqs.filter fun x => x.id != r.id }).kwpCpl c k r.op r.tag 0x97 0 0)
  else (s.updKReq c k r.id fun x => { x with epoch := ep }).formReq c k { r with epoch := ep }

/-- Forms the next packet of a connection: answers first, then requests in queue order; `none` where there is none to form. -/
def State.formOne (s : State) (c k : Nat) : Option State :=
  let v := s.conn c k
  match v.outq, v.reads with
  | x :: l, _ => some ((s.updConn c k fun v => { v with outq := l }).sendNew c k x false)
  | [], r :: _ => s.formResp c k r
  | [], [] => (v.reqs.find? fun r => !r.formedAll).bind (s.formNext c k v.peerNode)

/-- Whether a connection may send now: it is READY, not paused, and its window is open (R352, R355, R379). -/
def State.maySend (s : State) (c k : Nat) : Bool :=
  let v := s.conn c k
  s.txOn c && v.cstate == 1 && v.pause.isNone && v.windowOpen

/-- Forms packets while the connection may send. `fuel` bounds the packets. -/
def State.pump (s : State) (c k : Nat) : Nat → State
  | 0 => s
  | fuel + 1 =>
    if !s.maySend c k then s
    else match s.formOne c k with
      | none => s
      | some s1 => s1.pump c k fuel

/-- `pump` over a whole send window. -/
def State.pumpAll (s : State) (c k : Nat) : State := s.pump c k 257

/-- Sends an answer with a PSN of its own as soon as the connection may (R352, R355). -/
def State.answer (s : State) (c k : Nat) (x : KSent) : State :=
  (s.updConn c k fun v => { v with outq := v.outq ++ [x] }).pumpAll c k

/-! ### Completions (R363, R366) -/

/-- A completion of the connection waits for room: its send queue stalls (R363). -/
def State.sqStalled (s : State) (c k : Nat) : Bool := (s.jsc c).waitCpl.any fun w => w.engine == 8 && w.cmd.queue == k

/-- Adds a request, routed under a plan epoch, to a connection and forms its packets. -/
def State.addReqAt (s : State) (c k ep : Nat) (r : KReq) : State :=
  let id := (s.conn c k).nextReq + 1
  (s.updConn c k fun v => { v with nextReq := id % 2 ^ 32, reqs := v.reqs ++ [{ r with id := id, epoch := ep }] }).pumpAll c k

/-- Adds a request under the ACTIVE plan epoch (R343). -/
def State.addReq (s : State) (c k : Nat) (r : KReq) : State := s.addReqAt c k s.pln.active.epoch r

/-! ### Device transfers (R374, R375) -/

/-- The connection that a device transfer of a job to a node uses. -/
def State.defaultConn (s : State) (c job node : Nat) : Option Nat :=
  ((s.kwp c).conns.keysWhere fun _ v => v.dflt && v.job == job && v.peerNode == node && v.cstate == 1).head?

/-- The remote window and the state address or offset of a move's end in tier KWEUZ. -/
def PageMove.remote (m : PageMove) : Option Nat :=
  if m.src.tier = 4 then some m.src.addr else if m.dst.tier = 4 then some m.dst.addr else none

/-- The connection of a move by Kweuz. -/
def State.moveConn (s : State) (c : Nat) (m : PageMove) : Option Nat :=
  m.remote.bind fun a => s.defaultConn c (s.table c (keyTable m.pte)).job (s.rdN c Reg.PGM_RWIN_NODE (a / 2 ^ 32))

/-- Changes the move in a slot. -/
def State.updMove (s : State) (c id : Nat) (f : PageMove → PageMove) : State :=
  s.updPgm c fun p => { p with moves := p.moves.upd id fun m => m.map f }

/-- Scheduled movement, or a park: what the shaper calendar confines (R35, R388). -/
def PageMove.scheduled (m : PageMove) : Bool := m.kind == .sched || m.kind == .park

/-- The image bytes that one request of a move by Kweuz carries: all of them, but a READ of scheduled movement goes 4 KiB at a time,
so that it can pause between two (R38; DEDUCED, log entry 57). -/
def PageMove.pieceLen (m : PageMove) : Nat := if m.kind == .sched && m.src.tier == 4 then 4096 else 20480

/-- The next Kweuz request of a move with an end in tier KWEUZ, under the epoch it was routed with (R12): a READ from the window, or a
WRITE to it, as coded units. Without a connection or a route it has failed (R375); without a free tag it waits (R1). -/
def State.kwpPiece (s : State) (c id : Nat) : State :=
  match (s.pgm c).moves.at id with
  | none => s
  | some m =>
    let rd := m.src.tier == 4
    let a := m.remote.getD 0
    let r : KReq := { (default : KReq) with
      op := if rd then 2 else 1, coded := true, ranges := s.imgRanges (if rd then m.dst else m.src) m.done m.pieceLen,
      key := s.rd64 c Reg.PGM_RWIN_KEY_LO (a / 2 ^ 32), off := a % 2 ^ 32 + m.done, len := m.pieceLen, dev := id + 1,
      gate := m.scheduled }
    match s.moveConn c m with
    | none => s.updMove c id fun m => { m with isOver := 3 }
    | some k =>
      if (s.route c m.epoch (s.conn c k).peerNode).isNone then s.updMove c id fun m => { m with isOver := 3 }
      else s.when (s.tagFree c) fun s => s.addReqAt c k m.epoch r

/-- The Kweuz transfer of a move with an end in tier KWEUZ (R374). -/
def State.kwpTransfer (s : State) (c id : Nat) (m : PageMove) : State := if m.remote.isNone then s else s.kwpPiece c id

/-- How a request of a device transfer ended (R375): the move is told, and goes on with its next piece unless it is paused. -/
def State.devEnd (s : State) (c : Nat) (r : KReq) (status : Nat) : State :=
  let id := r.dev - 1
  match (s.pgm c).moves.at id with
  | none => s
  | some m =>
    if status ≠ 0 ∧ status ≠ 0x96 then s.updMove c id fun m => { m with isOver := 3 }
    else
      let flaw := if status = 0 then m.flaw else max m.flaw 2
      let n := m.done + m.pieceLen
      let s1 := s.updMove c id fun m => { m with done := n, flaw := flaw, isOver := if n < 20480 then 0 else if flaw = 0 then 1 else 2 }
      s1.when (decide (n < 20480) && !m.paused) fun s => s.kwpPiece c id

/-- Completes an outstanding request: a WRITE stays on record for the STATUS that can still come, as long as its PSNs can be compared
with the connection's (R354, R360); any other leaves the connection. -/
def State.endReq (s : State) (c k : Nat) (r : KReq) (status bytes extra : Nat) : State :=
  let s1 := if r.op = 1 then s.updKReq c k r.id fun r => { r with ended := true }
    else s.updConn c k fun v => { v with reqs := v.reqs.filter fun x => x.id != r.id }
  let s2 := s1.updConn c k fun v =>
    { v with reqs := v.reqs.filter fun x => !x.ended || (x.formed != 0 && psnBefore x.psn1 v.txPsn) }
  (if r.dev ≠ 0 then s2.devEnd c r status
   else if r.noCpl && status == 0 then s2
   else s2.kwpCpl c k r.op r.tag status bytes extra).retirePlan

/-- Completes every outstanding request of a connection: the first with one status, the others with another. -/
def State.endAll (s : State) (c k first rest : Nat) : State :=
  let l := (s.conn c k).reqs.filter fun r => !r.ended
  let s1 := s.each l.zipIdx fun s x => s.endReq c k x.1 (if x.2 = 0 then first else rest) 0 0
  s1.updConn c k fun v => { v with reqs := [], sent := [], reads := [], outq := [], flushes := [], msgs := [], pause := none }

/-! ### Work requests (R363 to R366) -/

/-- The work request at the head of a send queue. -/
def State.sqHeadWr (s : State) (c k : Nat) : List Byte := s.vread ((s.conn c k).sqBase + 64 * (s.conn c k).sqHead) 64

/-- Moves SQ_HEAD past a work request. -/
def State.sqPop (s : State) (c k : Nat) : State :=
  (s.touch (s.conn c k).job ((s.conn c k).sqBase + 64 * (s.conn c k).sqHead) 64).updConn c k fun v =>
    { v with sqHead := (v.sqHead + 1) % 2 ^ v.sqLog2 }

/-- Whether a connection's send queue has a work request that KWP may take. -/
def State.sqReady (s : State) (c k : Nat) : Bool :=
  let v := s.conn c k
  s.kwEn c && s.ready (kwpPage c) && s.tagFree c && v.cstate == 1 && !(s.kwp c).bad.contains k && v.sqHead != v.sqTail &&
    !s.sqStalled c k && v.reqs.all KReq.formedAll

/-- A request as a work request gives it. -/
def reqOf (wr : List Byte) : KReq :=
  let w := recNat wr 0 4
  { (default : KReq) with
    op := nfld w 7 0, coded := w.testBit 8, noCpl := w.testBit 9, ranges := [(recNat wr 8 8, recNat wr 4 4)],
    key := recNat wr 0x10 8, off := recNat wr 0x18 8, len := recNat wr 4 4, tag := recNat wr 0x20 8, aop := nfld w 11 10,
    operand0 := recNat wr 0x28 8, operand1 := recNat wr 0x30 8 }

/-- The status with which a transfer or an atomic is refused when it is taken (R346, R364), before its node is looked up; the order is
a DESIGN CHOICE (log entry 11), as is BOUNDS for a LENGTH of 0 and BAD_OP for a reserved AOP (log entry 24). -/
def State.wrRefusal (s : State) (c k : Nat) (r : KReq) : Option Nat :=
  let v := s.conn c k
  let a := (r.ranges.headD (0, 0)).1
  let moves := r.op == 1 || r.op == 2
  if moves && (r.len == 0 || !s.inOneRegion c v.job a r.len (r.op == 1) (r.op == 2)) then some 0x95
  else if moves && r.coded && (a % 512 != 0 || r.off % 512 != 0 || r.len % 32 != 0) then some 0x0A
  else if r.op == 4 && r.aop == 3 then some 0x70
  else none

/-- Takes a WRITE, READ, FLUSH or ATOMIC. -/
def State.takeTransfer (s : State) (c k : Nat) (r : KReq) : State :=
  let s1 := s.sqPop c k
  match s.wrRefusal c k r with
  | some st => if r.noCpl && st == 0 then s1 else s1.kwpCpl c k r.op r.tag st 0 0
  | none => s1.addReq c k r

/-! ### Windows (R356 to R362) -/

/-- The INDEX, GEN and CHECK of a window key (R357), and the key of a record. -/
def keyIndex (k : Nat) : Nat := nfld k 23 0
def keyGen (k : Nat) : Nat := nfld k 47 24
def keyCheck (k : Nat) : Nat := nfld k 63 48
def winKey (i : Nat) (w : KWin) : Nat := fieldAt 0 24 i + fieldAt 24 24 w.gen + fieldAt 48 16 w.check

/-- Changes a window record. -/
def State.updWin (s : State) (c i : Nat) (f : KWin → KWin) : State := s.updKwp c fun x => { x with wins := x.wins.upd i f }

/-- Opens a window (R358). CHECK comes from the device's random source: a free value (log entry 6). -/
def State.winOpen (s : State) (c k : Nat) (wr : List Byte) : State :=
  let w := recNat wr 0 4
  let i := nfld (recNat wr 0x10 8) 23 0
  let (chk, s1) := s.drawNat
  let x := s.win c i
  let y := { x with
    isOpen := true, read := w.testBit 12, write := w.testBit 13, atomic := w.testBit 14, ringEn := w.testBit 15,
    ring := nfld w 23 16, gen := if x.gen = 0xFFFFFF then 1 else x.gen + 1, check := chk % 2 ^ 16, base := recNat wr 8 8,
    len := recNat wr 0x18 8 }
  let s2 := s1.updWin c i fun _ => y
  s2.when (!w.testBit 9) fun s => s.kwpCpl c k 0x10 (recNat wr 0x20 8) 0 0 (winKey i y)

/-- The status with which a WIN_OPEN is refused (R358); a window of no bytes is BOUNDS (DESIGN CHOICE, log entry 24). -/
def State.winRefusal (s : State) (c k : Nat) (wr : List Byte) : Option Nat :=
  let w := recNat wr 0 4
  let i := nfld (recNat wr 0x10 8) 23 0
  let x := s.win c i
  let job := (s.conn c k).job
  if 65536 ≤ i ∨ x.assigned = false ∨ x.job ≠ job ∨ x.isOpen = true then some 0x0A
  else if recNat wr 0x18 8 = 0 ∨ s.inOneRegion c job (recNat wr 8 8) (recNat wr 0x18 8) (w.testBit 12 || w.testBit 14)
      (w.testBit 13 || w.testBit 14) = false then some 0x95
  else none

/-- Takes a WIN_OPEN at the head of a queue, unless its index was closed less than 1 µs ago (R358). -/
def State.takeOpen (s : State) (c k : Nat) (wr : List Byte) : State :=
  let x := s.win c (nfld (recNat wr 0x10 8) 23 0)
  match s.winRefusal c k wr with
  | some st => (s.sqPop c k).kwpCpl c k 0x10 (recNat wr 0x20 8) st 0 0
  | none => if x.closed ≠ 0 ∧ s.tim.now + 1 < x.closed + 1000 then s else (s.sqPop c k).winOpen c k wr

/-- The Kweuz DETAIL layout (R378). -/
def kDetail (conn win gen : Nat) : Nat := fieldAt 0 18 conn + fieldAt 20 16 win + fieldAt 36 24 gen

/-- Why a revoke meets a use of the window: 1 a WRITE message in part, 2 a read with packets still to send; 0 no use (R361). -/
def State.winInUse (s : State) (c i : Nat) : Nat :=
  let cs := (s.kwp c).conns.map Prod.snd
  if cs.any fun v => v.msgs.any fun m => m.win == i && m.placed != 0 then 1
  else if cs.any fun v => v.reads.any fun r => r.win == i then 2 else 0

/-- The reads of a window that are not fully sent end with one STATUS each (R361). -/
def State.cutReads (s : State) (c i : Nat) : State :=
  s.each (s.kwp c).conns fun s e =>
    let (cut, keep) := (s.conn c e.1).reads.partition fun r => r.win == i
    let s1 := s.updConn c e.1 fun v =>
      { v with reads := keep, msgs := v.msgs.filter fun m => m.win != i }
    s1.each cut fun s r => s.answer c e.1 { newSent 8 0 (leBytes 4 r.psn ++ leBytes 4 0x92) with dest := some r.dest }

/-- Closes a window. -/
def State.closeWin (s : State) (c i : Nat) : State :=
  s.updWin c i fun w => { w with isOpen := false, closed := s.tim.now + 1 }

/-- Takes a WIN_REVOKE (R361). -/
def State.takeRevoke (s : State) (c k : Nat) (wr : List Byte) : State :=
  let i := nfld (recNat wr 0x10 8) 23 0
  let w := s.win c i
  let s1 := s.sqPop c k
  let done := fun (s : State) (st : Nat) =>
    s.when (!((recNat wr 0 4).testBit 9 && st == 0)) fun s => s.kwpCpl c k 0x11 (recNat wr 0x20 8) st 0 0
  if 65536 ≤ i ∨ w.job ≠ (s.conn c k).job ∨ w.isOpen = false then done s1 0x0A
  else
    let use := s.winInUse c i
    let s2 := ((s1.closeWin c i).cutReads c i).when (use != 0) fun s =>
      s.evtJob c .kwp 3 0x83 use 0 0xFFFF w.job (kDetail 0 i w.gen)
    done s2 0

/-- The check of step 8: the status of the first check that fails (R359). `need` is 0 read, 1 write, 2 atomic. -/
def State.winCheck (s : State) (c job key off n need : Nat) : Option Nat :=
  let i := keyIndex key
  let w := s.win c i
  let perm := if need = 0 then w.read else if need = 1 then w.write else w.atomic
  if 65536 ≤ i ∨ key = 0 ∨ w.assigned = false ∨ w.job ≠ job then some 0x90
  else if keyGen key ≠ w.gen then some 0x91
  else if keyCheck key ≠ w.check then some 0x90
  else if w.isOpen = false then some 0x92
  else if perm = false ∨ w.len < off + n ∨ (need = 2 ∧ off % 8 ≠ 0) ∨
      s.inOneRegion c job (w.base + off) n (need != 1) (need != 0) = false then some 0x90
  else none

/-- The counter of a refusal (R359). -/
def nakReg (st : Nat) : RegId :=
  if st = 0x91 then Reg.KWP_STALE_CNT else if st = 0x92 then Reg.KWP_REVOKED_NAK_CNT else Reg.KWP_ACCESS_NAK_CNT

/-! ### Ring windows (R362) -/

/-- Moves a ring's TAIL over the messages already placed that begin at it. -/
def State.ringAdvance (s : State) (c r : Nat) : Nat → State
  | 0 => s
  | fuel + 1 =>
    let t := s.rdN c Reg.ATN_XR_TAIL r
    match ((s.kwp c).ahead.at r).find? fun m => m.1 == t with
    | none => s
    | some m =>
      let size := 2 ^ s.rdF c Reg.ATN_XR_CFG 6 2 r
      ((s.updKwp c fun x => { x with ahead := x.ahead.upd r fun l => l.erase m }).wr c Reg.ATN_XR_TAIL (lo32 (m.2 % size)) r).ringAdvance
        c r fuel

/-- A whole message has been placed in a window that feeds a ring; more than 64 that wait are a host error, and are dropped
(R362, R14). One that begins at TAIL does not wait. -/
def State.ringPlaced (s : State) (c : Nat) (w : KWin) (start len : Nat) : State :=
  let l := (s.kwp c).ahead.at w.ring
  if 64 ≤ l.length ∧ start ≠ s.rdN c Reg.ATN_XR_TAIL w.ring then s
  else (s.updKwp c fun x => { x with ahead := x.ahead.set w.ring (l ++ [(start, start + len)]) }).ringAdvance c w.ring 65

/-- Accounts a packet, placed or refused, to its message. A message of which every packet has come is over, and feeds its ring if all of
them were placed (R361, R362). -/
def State.msgCame (s : State) (c k key start len n : Nat) (placed : Bool) : State :=
  let v := s.conn c k
  let same := fun (m : KMsg) => m.key == key && m.start == start && m.len == len
  let m := (v.msgs.find? same).getD ⟨keyIndex key, key, start, len, 0, 0⟩
  let m1 := if placed then { m with placed := m.placed + n } else { m with lost := m.lost + n }
  let rest := v.msgs.filter fun m => !same m
  let w := s.win c (keyIndex key)
  if len ≤ m1.placed + m1.lost then
    (s.updConn c k fun v => { v with msgs := rest }).when (w.ringEn && m1.lost == 0) fun s => s.ringPlaced c w start len
  else s.updConn c k fun v => { v with msgs := rest ++ [m1] }

/-! ### Acknowledgement (R370, R371) -/

/-- HOLD_NS and ECHO_TIME of an ACK; before any packet has been accepted the rule gives them no value (log entry 24). -/
def State.ackEcho (s : State) (c k : Nat) : State × Nat × Nat :=
  let v := s.conn c k
  if v.echoTo.isSome then (s, s.tim.now - v.echoAt, v.echoTime)
  else
    let (a, s1) := s.drawNat
    let (b, s2) := s1.drawNat
    (s2, a, b)

/-- Sends an ACK to the source of the packet that it answers (R343, R370), while the send path forms packets. -/
def State.sendAck (s : State) (c k : Nat) (dest : KPeer) : State :=
  s.when (s.txOn c) fun s =>
    let v := s.conn c k
    let (s0, hold, time) := s.ackEcho c k
    let ext := leBytes 4 v.rxEpsn ++ leBytes 4 hold ++ leBytes 8 time ++ leBytes 8 (v.bitmap / 2)
    let (s1, p) := s0.sealPkt c k 9 (if v.ce then kfEce else 0) 0 ext [] (s0.answerPath dest true)
    (s1.updConn c k fun v => { v with accepted := 0, ce := false }).sendControl p

/-- RX_EPSN advances past the set bits at its head. -/
def advanceEpsn : Nat → Nat × Nat → Nat × Nat
  | 0, x => x
  | fuel + 1, (e, b) => if b.testBit 0 then advanceEpsn fuel ((e + 1) % 2 ^ 32, b / 2) else (e, b)

/-- Accepts a reliable packet's PSN, and notes it for the next ACK (R354, R370). -/
def State.acceptPsn (s : State) (c k : Nat) (p : KPkt) : State :=
  let s1 := s.when p.ce fun s => s.bump c Reg.KWP_ECN_CE_CNT
  s1.updConn c k fun v =>
    let d := (p.psn + 2 ^ 32 - v.rxEpsn % 2 ^ 32) % 2 ^ 32
    let (e, b) := advanceEpsn 257 (v.rxEpsn, v.bitmap ||| 2 ^ d)
    { v with rxEpsn := e, bitmap := b, accepted := v.accepted + 1, oldest := if v.accepted = 0 then s.tim.now else v.oldest,
             ce := v.ce || p.ce, echoTime := p.sendTime, echoAt := s.tim.now, echoTo := some p.peer }

/-- An ACK is due after an accepted packet (R370). -/
def State.ackIfDue (s : State) (c k : Nat) (req : Bool) (dest : KPeer) : State :=
  let v := s.conn c k
  s.when (req || decide (s.rdF c Reg.KWP_RETRY 15 8 ≤ v.accepted)) fun s => s.sendAck c k dest

/-- Puts a FLUSH among others in PSN order. -/
def insFlush (f : Nat × KPeer) : List (Nat × KPeer) → List (Nat × KPeer)
  | [] => [f]
  | g :: l => if psnBefore f.1 g.1 then f :: g :: l else g :: insFlush f l

/-- The FLUSH_RESP of every FLUSH whose earlier packets have all been accepted, in PSN order (R369). -/
def State.answerFlushes (s : State) (c k : Nat) : State :=
  let v := s.conn c k
  let (due, rest) := v.flushes.partition fun f => psnBefore f.1 v.rxEpsn
  (s.updConn c k fun v => { v with flushes := rest }).each (due.foldr insFlush []) fun s f =>
    let err := (s.conn c k).flushErr
    (s.updConn c k fun v => { v with flushErr := 0 }).answer c k
      { newSent 5 0 (leBytes 4 f.1 ++ leBytes 4 err) with dest := some f.2 }

/-- The retransmission timeout in ns (R371). -/
def State.rto (s : State) (c k : Nat) : Nat :=
  let v := s.conn c k
  let base := max (s.rdF c Reg.KWP_TIMERS 15 0 * 1000) (v.srtt + 4 * v.rttvar)
  min (max base (s.rdF c Reg.KWP_TIMERS 31 16 * 1000)) (base * 2 ^ v.retries)

/-- A round-trip sample (R371); the divisions round down (DEDUCED, log entry 24). -/
def KConn.sample (v : KConn) (rtt : Int) : KConn :=
  let srtt := ((v.srtt : Int) + (rtt - v.srtt) / 8).toNat
  let var := ((v.rttvar : Int) + (((rtt - v.srtt).natAbs : Int) - v.rttvar) / 4).toNat
  { v with srtt := srtt, rttvar := var }

/-- Retires the PSNs that an ACK covers and marks those its SACK bits cover. -/
def KConn.retire (v : KConn) (a sack : Nat) : KConn :=
  let on := fun (x : KSent) =>
    let d := (x.psn + 2 ^ 32 - a % 2 ^ 32) % 2 ^ 32
    decide (1 ≤ d) && decide (d ≤ 64) && sack.testBit (d - 1)
  { v with sent := (v.sent.filter fun x => !psnBefore x.psn a).map fun x => { x with sacked := x.sacked || on x },
           unaPsn := if psnBefore v.unaPsn a then a else v.unaPsn }

/-- PSNs that are missing while three higher ones are acknowledged are sent again, once (R371). -/
def State.fastRetx (s : State) (c k : Nat) : State :=
  let v := s.conn c k
  let due := if !s.txOn c then [] else v.sent.filter fun x => !x.sacked && !x.fast && decide (3 ≤ (v.sent.filter fun y => y.sacked && psnBefore x.psn y.psn).length)
  (s.updConn c k fun v => { v with sent := v.sent.map fun x => if due.contains x then { x with fast := true } else x }).each due
    fun s x => s.sendPsn c k x true false

/-- Sends PSNs again, in PSN order, from `a` on. -/
def State.resendFrom (s : State) (c k : Nat) (a : Nat) : State :=
  s.each ((s.conn c k).sent.filter fun x => !x.sacked && !psnBefore x.psn a) fun s x => s.sendPsn c k x true false

/-- CONN_ERROR (R372): the connection goes to ERROR and its requests end. -/
def State.connError (s : State) (c k : Nat) : State :=
  let v := s.conn c k
  let det := fieldAt 0 18 k + fieldAt 32 32 v.unaPsn
  let s1 := (s.updConn c k fun v => { v with cstate := 2 }).endAll c k 0x93 0x94
  (s1.evtJob c .kwp 4 0x84 1 0 0xFFFF v.job det).postPriv c (eventRec 0x84 1 0 0xFFFF v.job s.tim.day s.stamp det)

/-! ### Transfers that go on (R38) -/

/-- Whether a request of a move by Kweuz is outstanding. -/
def State.kwpBusy (s : State) (c id : Nat) : Bool := (s.kwp c).conns.any fun k => k.2.reqs.any fun r => r.dev == id + 1 && !r.ended

/-- The next piece of a move by Kweuz that was paused between two (R38). -/
def State.kwpGoOn (s : State) (c id : Nat) (m : PageMove) : State :=
  s.when (m.remote.isSome && m.isOver == 0 && decide (m.done < 20480) && !s.kwpBusy c id) fun s => s.kwpPiece c id

/-- Transfers that wait at a window's end go on (R38), and the packets that waited while the send path formed none. -/
def State.kwpResume (s : State) (c : Nat) : State := s.each (s.kwp c).conns fun s e => s.pumpAll c e.1

/-! ### Tear-down (R376) -/

/-- Step 5 of R329 at KWP: the job's windows close, its connections go to ERROR, and their requests are discarded; a device transfer
on one of them fails (R375, R376). -/
def State.kwpTearDown (s : State) (c job : Nat) : State :=
  let ws := (s.kwp c).wins.keysWhere fun _ w => w.isOpen && w.job == job
  let ks := (s.kwp c).conns.keysWhere fun _ v => v.job == job && v.cstate != 0
  (s.each ws fun s i => s.closeWin c i).each ks fun s k =>
    let dev := (s.conn c k).reqs.filter fun r => r.dev != 0 && !r.ended
    (s.each dev fun s r => s.devEnd c r 0x94).updConn c k fun v =>
      { v with cstate := 2, reqs := [], sent := [], reads := [], outq := [], flushes := [], msgs := [], pause := none }

end Sys2Proof.Machine
end

