-- ==== Sys2Proof/Machine/Rs.lean ====
section
/-! DEFINITION. The forward error correction of a Solrov flit (R400): Reed-Solomon codes over GF(2^8), and the flit's bytes
(R399). -/
namespace Sys2Proof.Machine

/-! ### The field -/

/-- Doubling in GF(2^8) under x^8 + x^4 + x^3 + x^2 + 1. -/
def gfDouble (a : Nat) : Nat := if a < 128 then 2 * a else (2 * a) ^^^ 0x11D

/-- Product in GF(2^8); `fuel` is the bits of `b`. -/
def gfMulN : Nat → Nat → Nat → Nat
  | 0, _, _ => 0
  | fuel + 1, a, b => (if b % 2 = 1 then a else 0) ^^^ gfMulN fuel (gfDouble a) (b / 2)

/-- Product in GF(2^8). -/
def gfMul (a b : Nat) : Nat := gfMulN 8 a b

/-- A power in GF(2^8). -/
def gfPow (a : Nat) : Nat → Nat
  | 0 => 1
  | n + 1 => gfMul a (gfPow a n)

/-- The inverse, a^254. -/
def gfInv (a : Nat) : Nat :=
  let a2 := gfMul a a
  let a4 := gfMul a2 a2
  let a8 := gfMul a4 a4
  let a16 := gfMul a8 a8
  let a32 := gfMul a16 a16
  let a64 := gfMul a32 a32
  let a128 := gfMul a64 a64
  gfMul a128 (gfMul a64 (gfMul a32 (gfMul a16 (gfMul a8 (gfMul a4 a2)))))

/-! ### Polynomials: lists of coefficients, the constant first -/

/-- The value of a polynomial. -/
def polyAt (x : Nat) : List Nat → Nat
  | [] => 0
  | a :: l => a ^^^ gfMul x (polyAt x l)

/-- A sum of polynomials. -/
def polyAdd : List Nat → List Nat → List Nat
  | [], q => q
  | p, [] => p
  | a :: p, b :: q => (a ^^^ b) :: polyAdd p q

/-- A multiple of a polynomial. -/
def polyScale (k : Nat) (p : List Nat) : List Nat := p.map (gfMul k)

/-- A product of polynomials. -/
def polyMul : List Nat → List Nat → List Nat
  | [], _ => []
  | a :: p, q => polyAdd (polyScale a q) (0 :: polyMul p q)

/-- The formal derivative. -/
def polyDeriv (p : List Nat) : List Nat := (p.zipIdx.drop 1).map fun x => if x.2 % 2 = 1 then x.1 else 0

/-- The generator polynomial, the product of x − α^i for i from 0 to 7. -/
def rsGen : List Nat := ((List.range 8).map fun i => [gfPow 2 i, 1]).foldl polyMul [1]

/-! ### The code -/

/-- One step of the division by the generator: the remainder, highest power first, after one more data symbol. -/
def rsStep (r : List Nat) (d : Nat) : List Nat :=
  let f := d ^^^ r.headD 0
  List.zipWith (fun (a g : Nat) => a ^^^ gfMul f g) (r.drop 1 ++ [0]) (rsGen.take 8).reverse

/-- The 8 parity symbols of 120 data symbols, the highest power first. -/
def rsParity (data : List Nat) : List Nat := data.foldl rsStep (List.replicate 8 0)

/-- The 8 syndromes of a word of 128 symbols, the highest power first. -/
def rsSyndromes (w : List Nat) : List Nat :=
  (List.range 8).map fun i => w.foldl (fun acc d => gfMul acc (gfPow 2 i) ^^^ d) 0

/-- The state of the Berlekamp-Massey recursion. -/
structure Bm where
  c : List Nat
  b : List Nat
  l : Nat
  m : Nat
  d : Nat

/-- The discrepancy at syndrome `n`. -/
def bmDisc (x : Bm) (s : List Nat) (n : Nat) : Nat :=
  (List.range (x.l + 1)).foldl (fun acc i => acc ^^^ gfMul (x.c.getD i 0) (if i ≤ n then s.getD (n - i) 0 else 0)) 0

/-- One step of the recursion. -/
def bmStep (s : List Nat) (x : Bm) (n : Nat) : Bm :=
  let d := bmDisc x s n
  if d = 0 then { x with m := x.m + 1 }
  else
    let c := polyAdd x.c (List.replicate x.m 0 ++ polyScale (gfMul d (gfInv x.d)) x.b)
    if 2 * x.l ≤ n then ⟨c, x.c, n + 1 - x.l, 1, d⟩ else { x with c := c, m := x.m + 1 }

/-- The error locator of a syndrome list, and its degree bound. -/
def rsLocator (s : List Nat) : Bm := (List.range 8).foldl (bmStep s) ⟨[1], [1], 0, 1, 1⟩

/-- The powers at which the locator places errors: j where Λ(α^-j) is 0. -/
def rsPlaces (c : List Nat) : List Nat := (List.range 128).filter fun j => polyAt (gfPow 2 (255 - j)) c == 0

/-- The error value at power `j` (Forney, with the roots from α^0). -/
def rsValue (s c : List Nat) (j : Nat) : Nat :=
  let om := (polyMul s c).take 8
  let xi := gfPow 2 (255 - j)
  gfMul (gfPow 2 j) (gfMul (polyAt xi om) (gfInv (polyAt xi (polyDeriv c))))

/-- R400: a word of 128 symbols corrected in up to 4 symbols, with their number; none if it cannot be. -/
def rsCorrect (w : List Nat) : Option (List Nat × Nat) :=
  let s := rsSyndromes w
  if s.all fun x => x == 0 then some (w, 0)
  else
    let x := rsLocator s
    let ps := rsPlaces x.c
    let w' := w.zipIdx.map fun y => if ps.contains (127 - y.2) then y.1 ^^^ rsValue s x.c (127 - y.2) else y.1
    if x.l ≤ 4 ∧ ps.length = x.l ∧ (rsSyndromes w').all (fun x => x == 0) then some (w', ps.length) else none

/-! ### Flits -/

/-- The even, or the odd, elements of a list. -/
def everyOther {α : Type} : List α → List α
  | [] => []
  | [a] => [a]
  | a :: _ :: l => a :: everyOther l

/-- Two lists, element by element. -/
def interleave {α : Type} : List α → List α → List α
  | a :: l, b :: m => a :: b :: interleave l m
  | _, _ => []

/-- A flit of a header and seven slots: its CRC and its parity are added. -/
def flitOf (hdr : Nat) (slots : List (List Byte)) : List Byte :=
  let body := leBytes 8 hdr ++ padTo 224 (slots.flatMap (padTo 32))
  let d := (body ++ leBytes 8 (crc64 body).toNat).map BitVec.toNat
  let par := interleave (rsParity (everyOther d)) (rsParity (everyOther (d.drop 1)))
  (d ++ par).map (BitVec.ofNat 8)

/-- A received flit, corrected and checked: its 240 bytes and the number of symbols corrected, or none if it is to be discarded. -/
def flitCheck (bs : List Byte) : Option (List Byte × Nat) :=
  let w := (padTo 256 bs).map BitVec.toNat
  match rsCorrect (everyOther w), rsCorrect (everyOther (w.drop 1)) with
  | some (e, n), some (o, m) =>
    let b := (interleave e o).map (BitVec.ofNat 8)
    if crc64 (b.take 232) = BitVec.ofNat 64 (recNat b 232 8) then some (b.take 240, n + m) else none
  | _, _ => none

end Sys2Proof.Machine
end

