-- ==== Sys2Proof/Machine/Slp.lean ====
section
/-! DEFINITION. SLP: the Solrov link, the rack address space, messages, tags and keys (R398 to R416, R421 to R426). The rows stand
in Fabric.lean. -/
namespace Sys2Proof.Machine

/-- SLP's page of a channel. -/
def slpPage (c : Nat) : Page := ⟨.slp, c⟩

/-- SLP's state of a channel. -/
def State.slp (s : State) (c : Nat) : SlpCh := (s.ch c).slp

/-- Changes SLP's state of a channel. -/
def State.updSlp (s : State) (c : Nat) (f : SlpCh → SlpCh) : State := s.updCh c fun x => { x with slp := f x.slp }

/-- Whether a port runs in Solrov mode. -/
def State.solMode (s : State) (p : Nat) : Bool := (s.slp p).mode

/-! ### Messages (R406, R407) -/

/-- LEN_M1, REGION and JOB of a message. -/
def SMsg.lenM1 (m : SMsg) : Nat := nfld m.w10 16 14
def SMsg.region (m : SMsg) : Nat := nfld m.w10 13 0
def SMsg.job (m : SMsg) : Nat := nfld m.w10 29 20
/-- STATUS of a response. -/
def SMsg.status (m : SMsg) : Nat := nfld m.w18 7 0

/-- The data slots of a message. -/
def dataSlots (mtype lenM1 : Nat) : Nat :=
  if mtype = 0x02 ∨ mtype = 0x05 ∨ mtype = 0x06 ∨ mtype = 0x10 then lenM1 + 1
  else if mtype = 0x03 ∨ mtype = 0x04 ∨ mtype = 0x12 ∨ mtype = 0x13 then 1
  else if mtype = 0x43 ∨ mtype = 0x59 ∨ mtype = 0x60 then 4 else 0

/-- The MTYPE values that are not reserved (R407, R443). -/
def mtypes : List Nat :=
  [0x01, 0x02, 0x03, 0x04, 0x05, 0x06, 0x10, 0x11, 0x12, 0x13, 0x14, 0x15, 0x40, 0x41, 0x42, 0x43, 0x44, 0x45, 0x48, 0x49, 0x50, 0x51,
    0x52, 0x53, 0x54, 0x55, 0x58, 0x59, 0x5A, 0x5C, 0x5D, 0x60, 0x70, 0x71, 0x74, 0x75, 0x76]

/-- The virtual channel of an MTYPE (R401, R407). -/
def vcOf (mtype : Nat) : Nat :=
  if 0x40 ≤ mtype then 2 else if 0x10 ≤ mtype then 1 else if mtype = 0x05 ∨ mtype = 0x06 then 3 else 0

/-- The header slot of a message. -/
def SMsg.header (m : SMsg) : List Byte :=
  leBytes 4 (fieldAt 0 8 m.mtype + fieldAt 8 1 (b2n m.ordered) + fieldAt 9 1 (b2n m.poison) + fieldAt 16 14 m.tag) ++
    leBytes 4 (fieldAt 0 7 m.srcSlot + fieldAt 7 4 m.srcCh + fieldAt 16 7 m.dstSlot + fieldAt 23 4 m.dstCh) ++
    leBytes 6 m.addr ++ leBytes 2 m.rack ++ leBytes 4 m.w10 ++ leBytes 4 m.key ++ leBytes 4 m.w18 ++ leBytes 4 m.w1c

/-- The slots of a message. -/
def SMsg.slots (m : SMsg) : List (List Byte) :=
  let n := dataSlots m.mtype m.lenM1
  m.header :: chunksOf 32 n (padTo (32 * n) m.data)

/-- A message's answer: it copies TAG, exchanges source and destination, and carries STATUS (R406, R421). RACK is 0, except that the
answer to a MSG of another rack names that rack (DEDUCED, log entry 26). -/
def SMsg.reply (m : SMsg) (mtype status : Nat) : SMsg :=
  { m with mtype := mtype, ordered := false, poison := false, srcSlot := m.dstSlot, srcCh := m.dstCh, dstSlot := m.srcSlot,
           dstCh := m.srcCh, rack := if m.mtype = 0x05 ∧ m.w1c % 2 ^ 16 ≠ m.rack then m.w1c % 2 ^ 16 else 0, w18 := status, w1c := 0, key := 0,
           data := [] }

/-- What answers a message for a disabled channel: BAD_ADDRESS for an access, KEY_MISMATCH for a message, since its queue is not
enabled; anything else is lost (R403, R421, R422). -/
def SMsg.absentNak (m : SMsg) : Option SMsg :=
  if 1 ≤ m.mtype ∧ m.mtype ≤ 4 then some (m.reply 0x14 0xA1) else if m.mtype = 5 ∨ m.mtype = 6 then some (m.reply 0x14 0xA0) else none

/-- The message that slots hold. -/
def msgOfSlots (l : List (List Byte)) : SMsg :=
  let h := l.headD []
  let w0 := recNat h 0 4
  let w4 := recNat h 4 4
  { mtype := nfld w0 7 0, ordered := w0.testBit 8, poison := w0.testBit 9, tag := nfld w0 29 16, srcSlot := nfld w4 6 0,
    srcCh := nfld w4 10 7, dstSlot := nfld w4 22 16, dstCh := nfld w4 26 23, addr := recNat h 8 6, rack := recNat h 14 2,
    w10 := recNat h 0x10 4, key := recNat h 0x14 4, w18 := recNat h 0x18 4, w1c := recNat h 0x1C 4,
    data := (l.drop 1).flatMap id }

/-! ### Slots and routes (R403 to R405) -/

/-- The slot and the channel of a rack address, and the T1 state address that it maps to. -/
def rackSlot (a : Nat) : Nat := nfld a 45 39
def rackCh (a : Nat) : Nat := nfld a 38 35
def rackT1 (a : Nat) : Nat := t1Base (rackCh a) + a % 2 ^ 35

/-- The Solrov routing section of a channel. -/
def State.solSec (s : State) (c : Nat) : List Byte := s.pln.active.section_ 6 c

/-- SELF_SLOT and SELF_RACK. -/
def State.selfSlot (s : State) (c : Nat) : Nat := nfld (recNat (s.solSec c) 0 4) 6 0
def State.selfRack (s : State) (c : Nat) : Nat := nfld (recNat (s.solSec c) 0 4) 31 16

/-- The routing word of a slot. -/
def State.slotWord (s : State) (c slot : Nat) : Nat := recNat (s.solSec c) (8 + 4 * slot) 4

/-- The port by which a channel reaches a slot: 16 is the device itself. -/
def State.slotRoute (s : State) (c slot : Nat) : Option Nat :=
  let w := s.slotWord c slot
  if slot = s.selfSlot c ∧ s.solSec c ≠ [] then some 16
  else if w.testBit 0 && s.solMode (nfld w 4 1) then some (nfld w 4 1) else none

/-! ### The link (R399 to R402) -/

/-- The link of a port. -/
def State.link (s : State) (p : Nat) : SlpLink := (s.slp p).link

/-- Changes the link of a port. -/
def State.updLink (s : State) (p : Nat) (f : SlpLink → SlpLink) : State := s.updSlp p fun x => { x with link := f x.link }

/-- The flit header (R399). -/
def SlpLink.hdr (l : SlpLink) (ftype seq n : Nat) : Nat :=
  fieldAt 0 2 ftype + fieldAt 2 10 seq + fieldAt 12 10 (l.rxNext + 1023) + fieldAt 22 1 (b2n l.rxAny) + fieldAt 23 7 (2 ^ n - 1) +
    2 ^ 32 * leNat (l.due.map fun d => BitVec.ofNat 8 (min d 255))

/-- The credits that a flit has carried are no longer due. -/
def SlpLink.paid (l : SlpLink) : SlpLink := { l with due := l.due.map fun d => d - min d 255 }

/-- Sends a flit. -/
def State.sendFlit (s : State) (p : Nat) (f : List Byte) : State := s.emit (.msg "FLIT" [p] f)

/-- The messages whose VC has credits for all their slots, in order within each VC, and the credits left: a message is placed as a
whole (DEDUCED, log entry 26). -/
def takeOut (blocked : List Nat) (credits : List Nat) : List (Nat × List (List Byte)) →
    List Nat × List (List Byte) × List (Nat × List (List Byte))
  | [] => (credits, [], [])
  | (v, sl) :: l =>
    if blocked.contains v || decide (credits.getD v 0 < sl.length) then
      let (cr, got, rest) := takeOut (v :: blocked) credits l
      (cr, got, (v, sl) :: rest)
    else
      let (cr, got, rest) := takeOut blocked (credits.set v (credits.getD v 0 - sl.length)) l
      (cr, sl ++ got, rest)

/-- Sends DATA flits while slots wait and fewer than 512 flits are unacknowledged; `fuel` bounds the flits. -/
def State.pumpFlits (s : State) (p : Nat) : Nat → State
  | 0 => s
  | fuel + 1 =>
    let l := s.link p
    if l.slots.isEmpty ∨ 512 ≤ l.replay.length then s
    else
      let now := l.slots.take 7
      let f := flitOf (l.hdr 1 l.txSeq now.length) now
      (((s.updLink p fun l => { l.paid with slots := l.slots.drop 7, txSeq := (l.txSeq + 1) % 1024,
                                            replay := l.replay ++ [(l.txSeq, f)] }).sendFlit p f).bump p Reg.SLP_TX_FLIT_CNT).pumpFlits
        p fuel

/-- Sends what a port can send. -/
def State.pumpLink (s : State) (p : Nat) : State :=
  let l := s.link p
  if !l.up then s
  else
    let (cr, got, rest) := takeOut [] l.credits l.out
    let s1 := s.updLink p fun l => { l with credits := cr, slots := l.slots ++ got, out := rest }
    s1.pumpFlits p ((s1.link p).slots.length + 1)

/-- An IDLE flit with the acknowledgement and the credits that are due. -/
def State.idleFlit (s : State) (p : Nat) : State :=
  let l := s.link p
  s.when l.up fun s => (s.sendFlit p (flitOf (l.hdr 0 0 0) [])).updLink p SlpLink.paid

/-- The receiver frees the slots of a message: their credits go back (R401). -/
def State.freeSlots (s : State) (p : Nat) (m : SMsg) : State :=
  if 16 ≤ p then s
  else
    let v := vcOf m.mtype
    let n := dataSlots m.mtype m.lenM1 + 1
    (s.updLink p fun l => { l with due := l.due.set v (l.due.getD v 0 + n) }).idleFlit p

/-- A message arrives for a channel of the device. -/
def State.toInbox (s : State) (p : Nat) (m : SMsg) : State :=
  s.updSlp m.dstCh fun x => { x with inbox := x.inbox ++ [(p, m)] }

/-- Sends a message by a port; 16 is the device itself, where a disabled channel's answer comes at once, counted by the SLP that meets
the disabled channel (R403, R405; the counter is a DESIGN CHOICE, log entry 26). -/
def State.sendBy (s : State) (c p : Nat) (m : SMsg) : State :=
  if 16 ≤ p then
    if s.enabledCh m.dstCh then s.toInbox 16 m
    else match m.absentNak with
      | some r => (s.bump c Reg.SLP_NAK_TX_CNT).toInbox 16 r
      | none => s
  else
    ((s.updLink p fun l => { l with out := l.out ++ [(vcOf m.mtype, m.slots)] }).when (p != c) fun s =>
      s.bump c Reg.SLP_XBAR_FLIT_CNT (ceilDiv m.slots.length 7)).pumpLink p

/-- Sends a message from a channel to the slot that it names; without a route it is lost. -/
def State.sendMsg (s : State) (c : Nat) (m : SMsg) : State :=
  match s.slotRoute c m.dstSlot with
  | some p => s.sendBy c p m
  | none => s

/-- An acknowledgement: every flit up to a SEQ is done with. -/
def SlpLink.acked (l : SlpLink) (seq : Nat) : SlpLink :=
  if l.replay.any fun f => f.1 == seq then { l with replay := (l.replay.dropWhile fun f => f.1 != seq).drop 1 } else l

/-- ACK and credits that a flit's header brings. -/
def SlpLink.took (l : SlpLink) (hdr : Nat) : SlpLink :=
  let l1 := if hdr.testBit 22 then l.acked (nfld hdr 21 12) else l
  { l1 with credits := l1.credits.zipIdx.map fun x => x.1 + nfld hdr (39 + 8 * x.2) (32 + 8 * x.2) }

/-- Sends the replay buffer again, from after an ACK_SEQ (R400). -/
def State.replayFlits (s : State) (p : Nat) : State :=
  s.each (s.link p).replay fun s f => (s.sendFlit p f.2).bump p Reg.SLP_REPLAY_CNT

/-- A message has arrived by a port: poison that it brings is a deferred error of the port's SLP (R558); one with a reserved MTYPE is
dropped and counted, and one for a disabled channel is answered (R403, R407). -/
def State.tookMsg (s0 : State) (p : Nat) (m : SMsg) : State :=
  let s := s0.when m.poison fun s => s.deferred (slpPage p) 0x21 0 (if m.mtype = 0x02 then rackT1 m.addr else 0)
  if !mtypes.contains m.mtype then (s.bump p Reg.SLP_BAD_MSG_CNT).freeSlots p m
  else if s.enabledCh m.dstCh then s.toInbox p m
  else match m.absentNak with
    | some r => ((s.freeSlots p m).bump p Reg.SLP_NAK_TX_CNT).sendBy p p r
    | none => s.freeSlots p m

/-- Whether any of the slots of a flit belongs to a message for another channel than the port's. -/
def crosses (p : Nat) (part : List (List Byte)) : List (List Byte) → Bool
  | [] => false
  | x :: l =>
    let sl := part ++ [x]
    let m := msgOfSlots sl
    (m.dstCh != p && mtypes.contains m.mtype) || crosses p (if dataSlots m.mtype m.lenM1 + 1 ≤ sl.length then [] else sl) l

/-- The slots of a flit are taken into messages. -/
def State.takeSlots (s : State) (p : Nat) : List (List Byte) → State
  | [] => s
  | x :: l =>
    let sl := (s.link p).part ++ [x]
    let m := msgOfSlots sl
    if dataSlots m.mtype m.lenM1 + 1 ≤ sl.length then
      ((s.updLink p fun l => { l with part := [] }).tookMsg p m).takeSlots p l
    else (s.updLink p fun k => { k with part := sl }).takeSlots p l

/-- Corrected symbols, and SOLROV_LINK with CAUSE 2 when the count of a millisecond first exceeds SLP_FEC_THRESH (R402). -/
def State.fecCorrected (s : State) (p n : Nat) : State :=
  let ms := s.tim.now / 1000000
  let l := s.link p
  let old := if l.fecMs = ms then l.fecCount else 0
  let thr := s.rdN p Reg.SLP_FEC_THRESH
  let isOver := decide (thr < old + n)
  ((s.bump p Reg.SLP_FEC_CORR_CNT n).updLink p fun l => { l with fecMs := ms, fecCount := old + n, fecBad := isOver }).when
    (isOver && decide (old ≤ thr)) fun s => s.evtPriv (slpPage p) 2 0xA2 2 p

/-- A flit that is not intact: it is discarded, and REPLAY_REQ is sent (R400). The DATA flits that follow it are out of their place, and
so are discarded as well; one that is itself not intact asks again. -/
def State.badFlit (s : State) (p : Nat) : State :=
  (s.sendFlit p (flitOf ((s.link p).hdr 2 0 0) [])).updLink p SlpLink.paid

/-- A REPLAY_REQ (R400). -/
def State.gotReplayReq (s : State) (p hdr : Nat) : State :=
  ((s.updLink p fun l => l.took hdr).replayFlits p).pumpLink p

/-- A DATA flit in its place. -/
def State.dataFlit (s : State) (p hdr : Nat) (b : List Byte) : State :=
  let sl := ((List.range 7).filter fun n => hdr.testBit (23 + n)).map fun n => (b.drop (8 + 32 * n)).take 32
  let s1 := (s.updLink p fun l => { (l.took hdr) with rxNext := (l.rxNext + 1) % 1024, rxAny := true }).bump p
    Reg.SLP_RX_FLIT_CNT
  let s2 := s1.when (crosses p (s1.link p).part sl) fun s => s.bump p Reg.SLP_XBAR_FLIT_CNT
  ((s2.takeSlots p sl).pumpLink p).idleFlit p

/-- An intact flit (R400). A DATA flit out of its place is discarded: before a replay it follows a flit that was lost, and after
one it was taken already. -/
def State.goodFlit (s : State) (p : Nat) (b : List Byte) : State :=
  let hdr := recNat b 0 8
  match nfld hdr 1 0 with
  | 1 => if nfld hdr 11 2 = (s.link p).rxNext then s.dataFlit p hdr b else s
  | 2 => s.gotReplayReq p hdr
  | 0 => (s.updLink p fun l => l.took hdr).pumpLink p
  | _ => s

/-- A received flit (R400). -/
def State.rxFlit (s : State) (p : Nat) (bs : List Byte) : State :=
  if !s.solMode p || !(s.link p).up then s
  else match flitCheck bs with
    | none => s.badFlit p
    | some (b, n) => (s.when (n != 0) fun s => s.fecCorrected p n).goodFlit p b

/-! ### Remote keys and tags (R404, R407, R409) -/

/-- The REGION and KEY that a job uses for a range of rack space: those of its lowest entry that contains it (R409). -/
def State.remoteKey (s : State) (c job a n : Nat) : Option (Nat × Nat) :=
  let ks := (s.selsOf c Reg.SLP_RK_CTRL).filter fun k =>
    s.rdB c Reg.SLP_RK_CTRL 31 k && s.rdF c Reg.SLP_RK_CTRL 25 16 k == job &&
      decide (s.rd64 c Reg.SLP_RK_BASE_LO k ≤ a) && decide (a + n ≤ s.rd64 c Reg.SLP_RK_LIMIT_LO k)
  ks.head?.map fun k => (s.rdF c Reg.SLP_RK_CTRL 13 0 k, s.rdN c Reg.SLP_RK_KEY k)

/-- The number under which a channel's next request stands: its lowest free tag (DESIGN CHOICE, log entry 12), or with none free the
next number of those that wait for one (R1). -/
def State.freeTag (s : State) (c : Nat) : Nat :=
  (if s.tagFree c then (List.range 16384).find? fun t => !((s.slp c).tags.at t).live else none).getD (2 ^ 34 + (s.slp c).nextWait)

/-- Takes a tag, or a place among the requests that wait for one. -/
def State.takeTag (s : State) (c : Nat) (t : STag) : State × Nat :=
  let k := s.freeTag c
  (s.updSlp c fun x => { x with tags := x.tags.set k { t with live := true },
                                nextWait := if k < 16384 then x.nextWait else x.nextWait + 1 }, k)

/-- Sends the message of a request under its tag, or keeps it until the request has one (R1). -/
def State.sendUnder (s : State) (c k p : Nat) (m : SMsg) : State :=
  if k < 16384 then s.sendBy c p { m with tag := k }
  else s.updSlp c fun x => { x with tags := x.tags.upd k fun t => { t with wait := some (p, m) } }

/-- A number by which stores and coherence operations of a channel know a request becomes another. -/
def State.renumber (s : State) (c k t : Nat) : State :=
  let sub := fun (n : Nat) => if n = k then t else n
  (s.updSlp c fun x => { x with order := x.order.map fun o => { o with waits := o.waits.map sub } }).updCh c fun x =>
    { x with ccx := { x.ccx with
      lines := x.ccx.lines.map fun l => (l.1, { l.2 with tag := sub l.2.tag }),
      filter := x.ccx.filter.map fun e => (e.1, { e.2 with trans := e.2.trans.map fun y =>
        { y with homeTag := if y.homeTag = k + 1 then t + 1 else y.homeTag } }),
      homeGran := x.ccx.homeGran.map fun h => (h.1, { h.2 with tag := sub h.2.tag }) } }

/-- The oldest request that waits for a tag takes a free one, and is sent (R1). -/
def State.promoteTag (s : State) (c t : Nat) : State :=
  match (s.slp c).tags.find? fun x => decide (2 ^ 34 ≤ x.1) && x.2.live with
  | none => s
  | some (k, w) => match w.wait with
    | none => s
    | some (p, m) =>
      let own := match w.use with
        | .agent _ | .home _ => true
        | _ => false
      let m1 := if own then { m with w1c := m.w1c / 2 ^ 14 * 2 ^ 14 + t } else m
      ((s.updSlp c fun x => { x with tags := (x.tags.set k default).set t { w with wait := none, at_ := s.tim.now } }).renumber c k
        t).sendBy c p { m1 with tag := t }

/-- The requests of a channel that wait for a tag. -/
def State.tagWaits (s : State) (c : Nat) : Nat := ((s.slp c).tags.filter fun t => decide (2 ^ 34 ≤ t.1) && t.2.live).length

/-- Requests that wait for a tag take those that requests of other traffic have returned, and moves by Kweuz that wait for one go on
(R1). -/
def State.tagsBack (s : State) (c : Nat) : State :=
  (s.each (List.range (s.tagWaits c)) fun s _ => s.when (s.tagFree c) fun s => s.promoteTag c (s.freeTag c)).each
    ((s.pgm c).moves.keysWhere fun _ m => m.any fun m => !m.paused) fun s id => match (s.pgm c).moves.at id with
      | some m => s.kwpGoOn c id m
      | none => s

/-- Returns a tag; the oldest request that waits for one takes it. -/
def State.dropTag (s : State) (c t : Nat) : State :=
  (s.updSlp c fun x => { x with tags := x.tags.set t default }).when (decide (t < 16384)) fun s => s.tagsBack c

/-- What became of a request at its source. -/
inductive Sent where
  | ok
  | refused (status : Nat)
  | poison
  deriving DecidableEq, Repr

/-- Sends a message under a new tag. -/
def State.sendTagged (s : State) (c p : Nat) (m : SMsg) (use : TagUse) (job len : Nat) : State :=
  let t : STag := { (default : STag) with
    use := use, mtype := m.mtype, slot := m.dstSlot, ch := m.dstCh, addr := m.addr, len := len, job := job, region := m.region,
    epoch := s.pln.active.epoch, at_ := s.tim.now }
  let (s1, k) := s.takeTag c t
  s1.sendUnder c k p { m with srcSlot := s.selfSlot c, srcCh := c }

/-- Whether a slot is DEAD on a channel (R425). -/
def State.slotDead (s : State) (c slot : Nat) : Bool := (s.slp c).dead.contains slot

/-- Sends a request to a slot: NO_ROUTE, a DEAD slot, or the message under a tag (R404, R425; the order is a DESIGN CHOICE, log
entry 11). -/
def State.sendRequest (s : State) (c : Nat) (m : SMsg) (use : TagUse) (job len : Nat) : State × Sent :=
  if s.slotDead c m.dstSlot then (s, if m.mtype = 0x01 then .poison else .refused 0xA4)
  else match s.slotRoute c m.dstSlot with
    | none => (s, .refused 0x97)
    | some p => (s.sendTagged c p m use job len, .ok)

/-- Issues a LOAD, STORE, ATOMIC or NMO of a job that accesses `n` bytes of rack space from `a` on (R409). -/
def State.issue (s : State) (c job a n : Nat) (m : SMsg) (use : TagUse) : State × Sent :=
  match s.remoteKey c job a n with
  | none => (s, .refused 0xA7)
  | some (r, k) =>
    s.sendRequest c { m with dstSlot := rackSlot m.addr, dstCh := rackCh m.addr, key := k,
                             w10 := fieldAt 0 14 r + fieldAt 14 3 m.lenM1 + fieldAt 20 10 job } use job n

/-- The pieces of a range that no 256-byte boundary cuts (R412). -/
def pieces256 (a n : Nat) : Nat → List (Nat × Nat)
  | 0 => []
  | fuel + 1 => if n = 0 then [] else (a, min n (256 - a % 256)) :: pieces256 (a + min n (256 - a % 256)) (n - min n (256 - a % 256)) fuel

/-- The slots that a range touches. -/
def slotSpan (a n : Nat) : Nat := ceilDiv (a + n) 32 - a / 32

/-- A LOAD of the slots that a range touches. -/
def loadMsg (a n : Nat) : SMsg := { (default : SMsg) with mtype := 0x01, addr := a / 32 * 32, w10 := fieldAt 14 3 (slotSpan a n - 1) }

/-- Byte enables of slot `k` of a range. -/
def beOf (a n k : Nat) : Nat :=
  let b := a / 32 * 32 + 32 * k
  leNat ((List.range 4).map fun i => BitVec.ofNat 8 (((List.range 8).map fun j =>
    if a ≤ b + 8 * i + j ∧ b + 8 * i + j < a + n then 2 ^ j else 0).sum))

/-- A STORE of bytes at an address (R412). -/
def storeMsg (a : Nat) (bs : List Byte) (ordered poison : Bool) : SMsg :=
  let k := slotSpan a bs.length
  { (default : SMsg) with
    mtype := 0x02, ordered := ordered, poison := poison, addr := a / 32 * 32, w10 := fieldAt 14 3 (k - 1), w18 := beOf a bs.length 0,
    w1c := if k = 1 then 0 else beOf a bs.length (k - 1), data := padTo (32 * k) (List.replicate (a % 32) 0 ++ bs) }

/-! ### Page moves of tier SOLROV (R412) -/

/-- Whether a tag of a channel serves a move. -/
def servesMove (id : Nat) (t : STag) : Bool := t.live && !t.quar && match t.use with
  | .move i _ => i == id
  | _ => false



/-- What a piece of a move has met. -/
def PageMove.spoil (m : PageMove) (k : Nat) : PageMove := { m with flaw := max m.flaw k }

/-- A piece of a pulled image arrives, or poison (R412). -/
def State.movePiece (s : State) (c id off n : Nat) (bs : List Byte) (poison : Bool) : State :=
  match (s.pgm c).moves.at id with
  | none => s
  | some m =>
    if poison then
      (s.each (s.imgRanges m.dst off n) fun s r => s.vmark r.1 r.2).updMove c id fun m => m.spoil 2
    else s.imgWrite m.dst off bs

/-- The outcome of sending one piece of a move. -/
def State.moveSent (x : State × Sent) (c id off n : Nat) : State :=
  match x.2 with
  | .ok => x.1
  | .refused _ => x.1.updMove c id fun m => m.spoil 3
  | .poison => x.1.movePiece c id off n [] true

/-- The rack address of a byte of a move's source: a page in another device's T1 is split (R181). -/
def PageMove.srcAt (m : PageMove) (off : Nat) : Nat := if m.side ≠ 0 ∧ 16384 ≤ off then m.side + (off - 16384) else m.src.addr + off

/-- The Solrov requests of `n` pieces of 256 bytes of a move: LOADs of its source, or STOREs to its destination. -/
def State.slpPieces (s : State) (c id : Nat) (m : PageMove) (n : Nat) : State :=
  let job := (s.table c (keyTable m.pte)).job
  (s.updMove c id fun x => { x with done := m.done + 256 * n }).each (List.range n) fun s i =>
    let off := m.done + 256 * i
    if m.src.tier = 3 then State.moveSent (s.issue c job (m.srcAt off) 256 (loadMsg (m.srcAt off) 256) (.move id off)) c id off 256
    else
      let bad := s.imgPoison m.src off 256
      let s2 := s.when bad fun s => s.updMove c id fun m => m.spoil 2
      State.moveSent (s2.issue c job (m.dst.addr + off) 256 (storeMsg (m.dst.addr + off) (s.imgRead m.src off 256) false bad) (.move id off)) c id off 256

/-- A move by Solrov none of whose pieces is outstanding ends, or goes on with what is left of its image: a scheduled one with its
next 4 KiB, unless it is paused (R38). `fuel` bounds what a queue refuses at once. -/
def State.moveNext (s : State) (c id : Nat) : Nat → State
  | 0 => s
  | fuel + 1 =>
    if (s.slp c).tags.any fun t => servesMove id t.2 then s
    else match (s.pgm c).moves.at id with
      | none => s
      | some m =>
        if m.flaw = 3 ∨ 20480 ≤ m.done then s.updMove c id fun m => { m with isOver := if m.flaw = 0 then 1 else m.flaw }
        else if m.paused then s
        else (s.slpPieces c id m (if m.scheduled then 16 else 80)).moveNext c id fuel

/-- The pieces of a move have been answered. -/
def State.moveSettle (s : State) (c id : Nat) : State := s.moveNext c id 6

/-- The Solrov transfer of a move with an end in tier SOLROV. -/
def State.slpTransfer (s : State) (c id : Nat) (m : PageMove) : State :=
  if m.src.tier ≠ 3 ∧ m.dst.tier ≠ 3 then s else s.moveSettle c id

/-! ### Answers at the source (R410, R415, R416, R425) -/

/-- SOLROV_KEY_NAK at the source. -/
def State.keyNakSource (s : State) (c : Nat) (t : STag) (st : Nat) : State :=
  s.evtJob c .slp 0 0xA0 1 0 0xFFFF t.job (fieldAt 0 7 t.slot + fieldAt 7 4 t.ch + fieldAt 14 14 t.region + fieldAt 32 8 st)

/-- Whether a refusal is still to be posted: once per command (R410). The refusal of a message by its queue is none of the checks of
R410. -/
def State.nakFresh (s : State) (c : Nat) (t : STag) : Bool :=
  match t.use with
  | .dmv j => match (s.ch c).dmv.runs.at j with
    | some r => !r.nak && !t.mute
    | none => false
  | .move id _ => match (s.pgm c).moves.at id with
    | some m => m.flaw != 3
    | none => false
  | .dev | .moveOpen _ _ => false
  | _ => t.mtype != 0x05

/-- A store has been answered: ordered stores no longer wait for it, and the first of them that did is broken if it failed; if none
did, the job's next ordered store is (R415, R416). -/
def State.storeDone (s : State) (c job num : Nat) (failed : Bool) : State :=
  let hit := (s.slp c).order.find? fun o => o.waits.contains num
  s.updSlp c fun x =>
    let ord := x.order.map fun o =>
      { o with waits := o.waits.erase num, broken := o.broken || (failed && (hit.map OrdStore.num) == some o.num) }
    { x with order := ord, orderBad := if failed && hit.isNone && !x.orderBad.contains job then x.orderBad ++ [job] else x.orderBad }

/-- A piece of a COPY or CONVERT chunk is answered. -/
def State.dmvPiece (s : State) (c j : Nat) (f : DmvRun → DmvRun) : State :=
  s.updCh c fun x => { x with dmv := { x.dmv with runs := x.dmv.runs.upd j fun r => r.map f } }

/-- The payload of a Solrov command's completion (R427). -/
def solPayload (op status : Nat) (data : List Byte) : List Byte :=
  if op = 0x0A1 then leBytes 8 status ++ data.take 8
  else if op = 0x0A2 then (if data.isEmpty then leBytes 8 status else data.take 32) else leBytes 8 status

/-- What an answer does for what its tag serves. `status` is 0 for OK. -/
def State.answerUse (s : State) (c : Nat) (t : STag) (status : Nat) (data : List Byte) (poison : Bool) : State :=
  match t.use with
  | .dev | .agent _ | .home _ | .arb _ => s
  | .moveOpen i g => s.when (status != 0) fun s => s.updSlp c fun x => { x with cutOpens := x.cutOpens ++ [(i, g)] }
  | .cmd cmd => if t.mute then s else s.complete c cmd status (solPayload cmd.op status data)
  | .dmv j => s.when (!t.mute) fun s => s.dmvPiece c j fun r =>
      if t.mtype = 0x01 ∧ status = 0 then { r with got := r.got ++ [(t.addr, data, poison)] }
      else { r with fail := if r.fail = 0 then status else r.fail, nak := r.nak || status == 0xA0 || status == 0xA2 }
  | .move id off =>
    (if status ≠ 0 then s.updMove c id fun m => m.spoil 3
     else if t.mtype = 0x01 then s.movePiece c id off t.len data poison else s).moveSettle c id
  | .core k off skip => s.emit (.msg "CORE_ACCESS" [k, off, status, b2n poison] ((data.drop skip).take t.len))

/-- A tag's answer has come: the tag is free (R407). -/
def State.finishTag (s : State) (c tag status : Nat) (data : List Byte) (poison : Bool) : State :=
  let t := (s.slp c).tags.at tag
  let s1 := s.when ((status == 0xA0 || status == 0xA2) && s.nakFresh c t) fun s => s.keyNakSource c t status
  let s2 := (s1.dropTag c tag).when (t.mtype == 0x02) fun s => s.storeDone c t.job tag (status != 0)
  (s2.answerUse c t status data poison).retirePlan

/-- Whether a response answers a request of an MTYPE. -/
def answerTo (req rsp : Nat) : Bool :=
  decide (1 ≤ req) && decide (req ≤ 6) && (rsp == 0x14 || rsp == if req ≤ 4 then req + 0x0F else 0x15)

/-- A response arrives: from a DEAD slot it is dropped and counted (R425). Slots of another rack stand above those of the own rack, which
alone can be DEAD (DEDUCED, log entry 26). -/
def State.gotResponse (s : State) (c : Nat) (m : SMsg) (status : Nat) (poison : Bool) : State :=
  let t := (s.slp c).tags.at m.tag
  if s.slotDead c m.srcSlot && decide (t.slot < 128) then s.bump c Reg.SLP_LATE_RSP_CNT
  else if t.live && !t.quar && t.slot % 128 == m.srcSlot && answerTo t.mtype m.mtype then s.finishTag c m.tag status m.data poison else s

/-! ### Targets (R408, R410) -/

/-- The port that carries messages to other racks, if there may be any (R404). -/
def State.msgPort (s : State) (c : Nat) : Option Nat :=
  let w := recNat (s.solSec c) 4 4
  if w.testBit 4 && s.solMode (nfld w 3 0) then some (nfld w 3 0) else none

/-- Sends the answer to a message: to a MSG of another rack by the port for other racks, else by the slot's route (R404, R421). -/
def State.replyTo (s : State) (c : Nat) (m r : SMsg) : State :=
  if m.mtype = 0x05 ∧ m.w1c % 2 ^ 16 ≠ s.selfRack c then
    match s.msgPort c with
    | some p => s.sendBy c p r
    | none => s
  else s.sendMsg c r

/-- Answers with NAK. -/
def State.sendNak (s : State) (c : Nat) (m : SMsg) (st : Nat) : State :=
  (s.bump c Reg.SLP_NAK_TX_CNT).replyTo c m (m.reply 0x14 st)

/-- Control word and range of a target region. -/
def State.rgnCtrl (s : State) (c r : Nat) : Word := s.rd c Reg.SLP_RGN_CTRL r
def State.rgnHas (s : State) (c r a n : Nat) : Bool :=
  decide (s.rd64 c Reg.SLP_RGN_BASE_LO r ≤ a) && decide (a + n ≤ s.rd64 c Reg.SLP_RGN_LIMIT_LO r)

/-- The checks of R410 on a range at state address `a`: the status of the first that fails, and whether it is one of checks 2 to
4. `rights` are the bits of SLP_RGN_CTRL that the access needs. -/
def State.rackCheck (s : State) (c : Nat) (m : SMsg) (n : Nat) (rights : List Nat) : Option (Nat × Bool) :=
  let r := m.region % 1024
  let k := s.rgnCtrl c r
  if !s.serves c || !inRack m.addr || rackSlot m.addr != s.selfSlot c || rackCh m.addr != c then some (0xA1, false)
  else if m.region / 1024 ≠ c ∨ wbit k 31 = false then some (0xA0, true)
  else if m.key ≠ s.rdN c Reg.SLP_RGN_KEY r then some (0xA0, true)
  else if !s.rgnHas c r (rackT1 m.addr) n || !rights.all (fun b => wbit k b) || (m.mtype == 0x03 && m.addr % 8 != 0) then
    some (0xA2, true)
  else none

/-- SOLROV_KEY_NAK at the target, at most once per region and day (R410, R429). -/
def State.keyNakTarget (s : State) (c : Nat) (m : SMsg) (st : Nat) : State :=
  let r := m.region
  let k := s.rgnCtrl c (r % 1024)
  let det := fieldAt 0 7 m.srcSlot + fieldAt 7 4 m.srcCh + fieldAt 14 14 r + fieldAt 32 8 st
  if (s.slp c).nakPosted.contains r then s
  else
    let s1 := s.updSlp c fun x => { x with nakPosted := x.nakPosted ++ [r] }
    if wbit k 31 then s1.evtJob c .slp 0 0xA0 0 0 0xFFFF (fld k 9 0) det else s1.evtPriv (slpPage c) 0 0xA0 0 det

/-- Refuses a request (R410). -/
def State.refuseRack (s : State) (c : Nat) (m : SMsg) (x : Nat × Bool) : State :=
  (s.when x.2 fun s => s.keyNakTarget c m x.1).sendNak c m x.1

/-- Bytes with their addresses, as runs of addresses that follow one another. -/
def runsOf : List (Nat × Byte) → List (Nat × List Byte)
  | [] => []
  | (a, b) :: l =>
    match runsOf l with
    | [] => [(a, [b])]
    | (a', bs) :: r => if a' = a + 1 then (a, b :: bs) :: r else (a, [b]) :: (a', bs) :: r

/-- The bytes that a STORE enables, with their offsets from its address (R412). -/
def SMsg.enabled (m : SMsg) : List (Nat × Byte) :=
  let k := m.lenM1 + 1
  (padTo (32 * k) m.data).zipIdx.filterMap fun x =>
    let i := x.2 / 32
    let be := if i = 0 then m.w18 else if i + 1 = k then m.w1c else 2 ^ 32 - 1
    if be.testBit (x.2 % 32) then some (x.2, x.1) else none

/-- Performs a STORE at a state address (R412). -/
def State.performStore (s : State) (c a : Nat) (m : SMsg) : State :=
  let job := fld (s.rgnCtrl c (m.region % 1024)) 9 0
  s.each (runsOf m.enabled) fun s r => if m.poison then s.vmark (a + r.1) r.2.length else s.vwrite (a + r.1) r.2 job

/-- Performs a LOAD at a state address, and its answer. -/
def State.performLoad (s : State) (c a : Nat) (m : SMsg) : State :=
  let n := 32 * (m.lenM1 + 1)
  let job := fld (s.rgnCtrl c (m.region % 1024)) 9 0
  let bad := s.vpoison a n
  let r := m.reply 0x10 0
  (s.touch job a n).sendMsg c { r with poison := bad, data := if bad then List.replicate n 0 else s.vread a n }

/-- Performs an ATOMIC at a state address, and its answer (R413). A poisoned location is answered with POISONED_SRC and the
reserved AOP with ACCESS (DEDUCED, log entry 26). -/
def State.performAtomic (s : State) (c a : Nat) (m : SMsg) : State :=
  let job := fld (s.rgnCtrl c (m.region % 1024)) 9 0
  let aop := recNat m.data 0 1 % 4
  let op0 := recNat m.data 8 8
  if aop = 3 then s.sendNak c m 0xA2
  else if s.vpoison a 8 then s.sendMsg c (m.reply 0x12 0x21)
  else
    let old := s.vnat a 8
    let new := if aop = 0 then (old + op0) % 2 ^ 64 else if aop = 1 then (if old = op0 then recNat m.data 16 8 else old) else op0
    (s.vwrite a (leBytes 8 new) job).sendMsg c { (m.reply 0x12 0) with data := leBytes 8 old }

/-- Performs a LOAD, STORE or ATOMIC that passed its checks, on memory. -/
def State.performRack (s : State) (c : Nat) (m : SMsg) : State :=
  let a := rackT1 m.addr
  match m.mtype with
  | 0x01 => s.performLoad c a m
  | 0x02 => (s.performStore c a m).sendMsg c (m.reply 0x11 0)
  | _ => s.performAtomic c a m

/-! ### Records between devices (R422) -/

/-- The slot of a domain member, as a channel's table names it (R434, R463). -/
def State.memberSlot (s : State) (c m : Nat) : Nat :=
  if m < 4 then s.rdF c Reg.CCX_SLOTS_A (8 * m + 6) (8 * m) else s.rdF c Reg.CCX_SLOTS_B (8 * (m - 4) + 6) (8 * (m - 4))

/-- The 32-byte header of a record (R164). -/
def xrHdr (type rflags gen req layer day pos ntok shard len : Nat) : List Byte :=
  leBytes 4 (fieldAt 0 8 type + fieldAt 8 8 rflags + fieldAt 16 16 gen) ++
    leBytes 4 (fieldAt 0 16 req + fieldAt 16 12 layer) ++ leBytes 8 day ++ leBytes 4 (pos % 2 ^ 20) ++
    leBytes 4 (fieldAt 0 16 ntok + fieldAt 16 3 shard) ++ leBytes 4 len ++ leBytes 4 0

/-- A length rounded up to 64 bytes. -/
def up64 (n : Nat) : Nat := ceilDiv n 64 * 64

/-- A record with its header and payload, filled to a multiple of 64 bytes. -/
def xrRec (type rflags gen req layer day pos ntok shard : Nat) (payload : List Byte) : List Byte :=
  let n := up64 (32 + payload.length)
  padTo n (xrHdr type rflags gen req layer day pos ntok shard n ++ payload)

/-- Sends a record to the IN ring of a channel of a device as fragments of up to 256 bytes, and whether every fragment was sent. -/
def State.devSendAs (s : State) (c slot ch ring : Nat) (use : TagUse) (r : List Byte) : State × Bool :=
  let id := (s.slp c).nextRec % 2 ^ 16
  let s1 := s.updSlp c fun x => { x with nextRec := x.nextRec + 1 }
  (List.range (ceilDiv r.length 256)).foldl (fun x i =>
    let d := (r.drop (256 * i)).take 256
    let k := ceilDiv d.length 32
    let y := x.1.sendRequest c { (default : SMsg) with
      mtype := 0x06, dstSlot := slot, dstCh := ch, addr := fieldAt 0 8 ring + fieldAt 8 24 (8 * i) + fieldAt 32 16 id,
      w10 := fieldAt 14 3 (k - 1), data := padTo (32 * k) d } use 0 d.length
    (y.1, x.2 && y.2 matches .ok)) (s1, true)

/-- Sends a record; what cannot be sent is lost. -/
def State.devSend (s : State) (c slot ch ring : Nat) (r : List Byte) : State := (s.devSendAs c slot ch ring .dev r).1

/-! ### Dead targets (R424 to R426) -/

/-- The requests to a slot that have not been answered. -/
def State.slotReqs (s : State) (c slot : Nat) : List (Nat × STag) :=
  (s.slp c).tags.filter fun t => t.2.live && !t.2.quar && t.2.slot == slot

/-- Outstanding tags to a slot. -/
def State.slotTags (s : State) (c slot : Nat) : List (Nat × STag) :=
  (s.slotReqs c slot).filter fun t => decide (t.1 < 16384)

/-- STALL_REPORT in ns. -/
def State.stallNs (s : State) (c : Nat) : Nat := s.rdF c Reg.SLP_STALL_CFG 15 0 * 1000

/-- The oldest sending time of tags. -/
def oldestAt : List (Nat × STag) → Option Nat
  | [] => none
  | t :: l => some (l.foldl (fun m x => min m x.2.at_) t.2.at_)

/-- The elapsed time at which the stall of a slot is next reported, if tags are outstanding to it. -/
def State.stallDue (s : State) (c slot : Nat) : Option Nat :=
  (oldestAt (s.slotTags c slot)).map fun a =>
    let last := (s.slp c).stallAt.at slot
    if last = 0 then a + s.stallNs c else max (a + s.stallNs c) (last - 1 + s.stallNs c)

/-- SOLROV_STALL for a slot (R424). -/
def State.reportStall (s : State) (c slot : Nat) : State :=
  match s.stallDue c slot with
  | none => s
  | some t =>
    let s1 := s.passToNow t
    let l := s1.slotTags c slot
    let age := (s1.tim.now - (oldestAt l).getD s1.tim.now) / 1000
    (s1.updSlp c fun x => { x with stallAt := x.stallAt.set slot (s1.tim.now + 1) }).evtPriv (slpPage c) 1 0xA1 0
      (fieldAt 0 7 slot + fieldAt 16 14 l.length + fieldAt 32 32 age)

/-- Whether ABANDON completes a tag: coherence requests end under R455 to R458. -/
def STag.abandoned (t : STag) : Bool := match t.use with
  | .agent _ | .home _ | .arb _ => false
  | _ => true

/-- Abandons one request: a LOAD completes with poison, anything else with ABANDONED, and its tag is quarantined (R425). -/
def State.abandonTag (s : State) (c tag : Nat) : State :=
  let t := (s.slp c).tags.at tag
  let s1 := s.updSlp c fun x =>
    { x with tags := if tag < 16384 then x.tags.upd tag fun t => { t with quar := true } else x.tags.set tag default }
  let s2 := s1.when (t.mtype == 0x02) fun s => s.storeDone c t.job tag true
  if t.mtype = 0x01 then s2.answerUse c t 0 (List.replicate t.len 0) true else s2.answerUse c t 0xA3 [] false

/-- ABANDON of a slot on one channel (R425). -/
def State.abandonSlot (s : State) (c slot : Nat) : State :=
  let ts := (s.slotReqs c slot).filter fun t => t.2.abandoned
  let s1 := s.updSlp c fun x => { x with dead := insNat slot x.dead, stallAt := x.stallAt.set slot 0 }
  ((s1.each ts fun s t => s.abandonTag c t.1).retirePlan).evtPriv (slpPage c) 3 0xA3 0 ts.length

/-- REVIVE of a slot on one channel; ignored where it is not DEAD (R426). -/
def State.reviveSlot (s : State) (c slot : Nat) : State :=
  s.when (s.slotDead c slot) fun s =>
    let ks := ((s.slp c).tags.filter fun t => t.2.quar && t.2.slot == slot).map Prod.fst
    (s.updSlp c fun x => { x with dead := x.dead.filter fun d => d != slot }).each ks fun s k => s.dropTag c k

/-! ### Tear-down (R411) and registers (R430) -/

/-- Step 5 of R329 at SLP: the job's regions and keys are no longer VALID, and its completions are discarded. -/
def State.slpTearDown (s : State) (c job : Nat) : State :=
  let s1 := s.each ((s.selsOf c Reg.SLP_RGN_CTRL).filter fun r => s.rdF c Reg.SLP_RGN_CTRL 9 0 r == job) fun s r =>
    s.wr c Reg.SLP_RGN_CTRL (setBit (s.rd c Reg.SLP_RGN_CTRL r) 31 false) r
  let s2 := s1.each ((s1.selsOf c Reg.SLP_RK_CTRL).filter fun r => s1.rdF c Reg.SLP_RK_CTRL 25 16 r == job) fun s r =>
    s.wr c Reg.SLP_RK_CTRL (setBit (s.rd c Reg.SLP_RK_CTRL r) 31 false) r
  s2.updSlp c fun x =>
    { x with tags := x.tags.map fun t => (t.1, if t.2.job = job then { t.2 with mute := true } else t.2),
             order := x.order.filter fun o => o.job != job, orderBad := x.orderBad.filter fun j => j != job }

/-- SLP_STATUS. -/
def State.slpStatus (s : State) (c : Nat) : Word :=
  let l := s.link c
  BitVec.ofNat 32 (b2n l.up + 2 * b2n l.retraining + 4 * b2n (l.fecBad && l.fecMs == s.tim.now / 1000000) +
    fieldAt 16 14 ((s.slp c).tags.filter fun t => t.2.live && !t.2.quar && decide (t.1 < 16384)).length)

/-- SLP_SELF. -/
def State.slpSelf (s : State) (c : Nat) : Word := BitVec.ofNat 32 (s.selfSlot c + fieldAt 16 16 (s.selfRack c))

/-- SLP_DEAD0 to SLP_DEAD3. -/
def State.slpDead (s : State) (c k : Nat) : Word :=
  BitVec.ofNat 32 (((s.slp c).dead.filter fun d => d / 32 == k).map fun d => 2 ^ (d % 32)).sum

/-- SLP_STALL_INFO of a slot. -/
def State.slpStallInfo (s : State) (c slot : Nat) : Word :=
  let l := s.slotTags c slot
  let past := l.filter fun t => decide (t.2.at_ + s.stallNs c ≤ s.tim.now)
  BitVec.ofNat 32 (fieldAt 0 14 past.length + fieldAt 16 16 (min 0xFFFF ((s.tim.now - (oldestAt l).getD s.tim.now) / 100000)))

/-- SLP_QUAR_TAGS. -/
def State.slpQuar (s : State) (c : Nat) : Word := BitVec.ofNat 32 ((s.slp c).tags.filter fun t => t.2.quar).length

end Sys2Proof.Machine
end

