-- ==== Sys2Proof/Machine/Ends.lean ====
section
/-! DEFINITION. The end of a request: its terminal state, its completion record and events, and what becomes of a step
that runs (R61, R63, R83, R91, R94, R300). -/
namespace Sys2Proof.Machine

/-- RQT's page of a channel. -/
def rqtPage (c : Nat) : Page := ⟨.rqt, c⟩

/-- ATN's page of a channel. -/
def atnPage (c : Nat) : Page := ⟨.atn, c⟩

/-- ATN's state of a channel. -/
def State.atn (s : State) (c : Nat) : AtnCh := (s.ch c).atn

/-- Changes ATN's state of a channel. -/
def State.updAtn (s : State) (c : Nat) (f : AtnCh → AtnCh) : State := s.updCh c fun x => { x with atn := f x.atn }

/-- REQ_INDEX of a slot (R54). -/
def reqIndex (c i : Nat) : Nat := c * 4096 + i

/-- The handle of a request (R56). -/
def State.handleNum (s : State) (c i : Nat) : Nat := reqIndex c i + (s.req c i).gen * 65536

/-! ### SHARD (R57) -/

/-- SHARD_COUNT_M1. -/
def shardCountM1 (x : Nat) : Nat := nfld x 2 0

/-- SHARD_POS. -/
def shardPos (x : Nat) : Nat := nfld x 5 3

/-- HOME_DEV. -/
def shardHomeDev (x : Nat) : Nat := nfld x 10 8

/-- HOME_REQ. -/
def shardHomeReq (x : Nat) : Nat := nfld x 31 16

/-- SEQ_START. -/
def shardStart (x : Nat) : Nat := nfld x 51 32

/-- Whether an entry is the home of its request, or unsharded (R67, R90). -/
def isHome (x : Nat) : Bool := shardCountM1 x == 0 || shardPos x == shardCountM1 x

/-! ### Events of a request (R95) -/

/-- Posts a request event to the owning job. -/
def State.reqEvt (s : State) (c : Nat) (b : Blk) (bit code cause i detail : Nat) : State :=
  let e := s.req c i
  s.evtJob c b bit code cause e.gen (reqIndex c i) e.job detail

/-- CONTEXT_DAMAGED (R95, R211): the flag is set, and the event posted when it is first set. The event has no BLK_EVT bit
(R97). -/
def State.setDamaged (s : State) (c i : Nat) : State :=
  let e := s.req c i
  if e.flags.damaged then s
  else
    (s.updReq c i fun e => { e with flags := { e.flags with damaged := true } }).postJob c e.job
      (eventRec 0x04 0 e.gen (reqIndex c i) e.job s.tim.day s.stamp e.userTag)

/-! ### Steps that are dropped -/

/-- The step of a slot's request. -/
def State.step_ (s : State) (c i : Nat) : StepRun := (s.atn c).steps.at i

/-- Changes a step. -/
def State.updStep (s : State) (c i : Nat) (f : StepRun → StepRun) : State :=
  s.updAtn c fun x => { x with steps := x.steps.upd i f }

/-- Whether a step of the request's present generation runs. -/
def State.stepRuns (s : State) (c i : Nat) : Bool :=
  let r := s.step_ c i
  r.started && !r.committed && !r.abandoned && r.gen == (s.req c i).gen

/-- Takes a member out of a sweep that runs: its streams are finished, and it is left out, as abandoned where its step is
(R160) and its output was not yet written. -/
def SweepRun.leave (r : SweepRun) (i : Nat) (ab : Bool) : SweepRun :=
  let out := fun (m : MemberRun) => { m with left := true, abandoned := m.abandoned || (ab && !m.written && !m.silent) }
  { r with members := r.members.map (fun m => if m.slot = i then out m else m),
           streams := r.streams.map fun x => if x.slot = i then { x with finished := true } else x }

/-- Takes a member out of every sweep of the channel. -/
def State.leaveRuns (s : State) (c i : Nat) (ab : Bool) : State :=
  s.updAtn c fun x => { x with runs := x.runs.map fun e => (e.1, e.2.map fun r => r.leave i ab) }

/-- Drops the step of a slot: nothing of it stays (R83). -/
def State.clearStep (s : State) (c i : Nat) : State :=
  ((s.leaveRuns c i false).updAtn c fun x => { x with steps := x.steps.set i default }).updSmp c fun x =>
    { x with steps := x.steps.set i default, stalled := x.stalled.filter (fun j => j != i), begun := x.begun.filter fun b => b.slot != i }

/-- Drops the output of a running step, counted (R83, R91). -/
def State.dropStep (s : State) (c i : Nat) : State :=
  (s.when (s.stepRuns c i) fun s => s.bump c Reg.RQT_DROP_CNT).clearStep c i

/-! ### Terminal transitions -/

/-- What a record says that a device sends another about a request (R90, R422). -/
inductive DevKind where
  | shardCancel | shardPark | shardResume | shardFallback | shardPlace | shardEnd | shardLost
  | moveOpen | pageTable | moveRefused | homeSwitch | moveClose
  deriving DecidableEq, Repr

/-- Its TYPE in the header of R164, of the reserved values (DESIGN CHOICE, log entry 58). -/
def DevKind.code : DevKind → Nat
  | .shardCancel => 0x10 | .shardPark => 0x11 | .shardResume => 0x12 | .shardFallback => 0x13 | .shardPlace => 0x14
  | .shardEnd => 0x15 | .shardLost => 0x16 | .moveOpen => 0x18 | .pageTable => 0x19 | .moveRefused => 0x1A | .homeSwitch => 0x1B
  | .moveClose => 0x1C

/-- The RING number of these records, which no exchange ring has (DESIGN CHOICE, log entry 58). -/
def devRing : Nat := 255

/-- A record about the request that the receiver knows by REQ_INDEX and GEN. -/
def devRec (k : DevKind) (req gen : Nat) (payload : List Byte) : List Byte := xrRec k.code 0 gen req 0 0 0 0 0 payload

/-- The domain member that holds SHARD_POS `k`: the members but the home's, in order (DESIGN CHOICE, log entry 58). -/
def ReqEntry.shardMember (e : ReqEntry) (k : Nat) : Nat := ((List.range 8).filter fun m => m != shardHomeDev e.shard).getD k 0

/-- The home tells its other shards, each on the home's channel number of its device (R90, R422). -/
def State.toShards (s : State) (c i : Nat) (k : DevKind) (payload : List Byte) : State :=
  let e := s.req c i
  s.when (shardCountM1 e.shard != 0 && isHome e.shard) fun s =>
    s.each (List.range (shardCountM1 e.shard)) fun s n =>
      s.devSend c (s.memberSlot c (e.shardMember n)) c devRing (devRec k (reqIndex c i) e.gen payload)

/-- Messages of a sharded request's end: the home ends every shard, and a shard's loss goes to the home (R90, R91). -/
def State.shardEnd (s : State) (c i : Nat) (lost : Bool) (code : Nat) : State :=
  let e := s.req c i
  if shardCountM1 e.shard = 0 then s
  else if isHome e.shard then s.toShards c i .shardEnd (leBytes 4 code ++ leBytes 4 (b2n lost))
  else s.when lost fun s =>
    s.devSend c (s.memberSlot c (shardHomeDev e.shard)) (shardHomeReq e.shard / 4096) devRing
      (devRec .shardLost (shardHomeReq e.shard) 0 [])

/-- The state and END_CODE of a terminal transition. -/
def State.setEnd (s : State) (c i : Nat) (st : ReqState) (code : Nat) : State :=
  s.updReq c i fun e => { e with st := st, endCode := code, bin := 0xFF, released := false }

/-- A terminal transition without tokens: an END record with NTOK 0, and with S of a beam member (R63, R299, R300). -/
def State.finish (s : State) (c i : Nat) (st : ReqState) (code : Nat) : State :=
  let s1 := s.setEnd c i st code
  let e := s1.req c i
  (s1.postCr c i (crRec 2 code (reqIndex c i) e [] [] 0 0 s.tim.day s.stamp (s.beamScore c i))).shardEnd c i (st == .lost) code

/-- Whether a request can still go to LOST: it is neither FREE nor ended (R61). -/
def ReqState.canLose : ReqState → Bool
  | .free | .done | .lost => false
  | _ => true

/-- A request goes to LOST: its running step is dropped, REQUEST_LOST is posted, and its END record is written at once
(R61, R63, R95, R300). -/
def State.lose (s : State) (c i code : Nat) : State :=
  if (s.req c i).st.canLose then
    let s1 := ((s.dropStep c i).bump c Reg.RQT_LOST_CNT).finish c i .lost code
    s1.reqEvt c .rqt 1 0x03 code i (s1.req c i).userTag
  else s

/-- Whether an inbound entry still waits for its source's page table (R86, R87). -/
def ReqEntry.waitsTable (e : ReqEntry) : Bool := e.flags.pulling && !e.outbound && !e.tableIn && e.st.canLose

/-- Inbound entries whose source cannot be reached go to LOST (R87): `p` says of which entries the way to the source is cut. -/
def State.cutMoves (s : State) (c : Nat) (p : Nat → ReqEntry → Bool) : State :=
  s.each ((s.ch c).rqt.entries.keysWhere fun i e => e.waitsTable && p i e) fun s i => s.lose c i 0x10

/-- The entries whose MOVE_OPEN was abandoned or refused on its way (R87, R425). -/
def State.cutOpens (s : State) (c : Nat) : State :=
  let l := (s.slp c).cutOpens
  (s.updSlp c fun x => { x with cutOpens := [] }).cutMoves c fun i e => l.contains (i, e.gen)

/-- The homes of a channel that have a shard on a member that has failed go to LOST (R91). -/
def State.losesShards (s : State) (c : Nat) (failed : Nat → Bool) : State :=
  s.each ((s.ch c).rqt.entries.keysWhere fun _ e => e.st.canLose && shardCountM1 e.shard != 0 && isHome e.shard &&
    (List.range (shardCountM1 e.shard)).any fun k => failed (e.shardMember k)) fun s i => s.lose c i 0x10

/-- A member of the domain has failed: the homes of the requests that have a shard there go to LOST (R91). -/
def State.shardsLost (s : State) (m : Nat) : State := s.each s.channels fun s c => s.losesShards c fun k => k == m

end Sys2Proof.Machine
end

