-- ==== Sys2Proof/Machine/Moves.lean ====
section
/-! DEFINITION. DMV's page moves: demand pulls, scheduled movement, parks and T0 placements (R200 to R210, R222, R223). -/
namespace Sys2Proof.Machine

/-- DMV's page of a channel. -/
def dmvPage (c : Nat) : Page := ⟨.dmv, c⟩

/-! ### Destinations -/

/-- One entry of a placement map section (R202). -/
structure MapEntry where
  kind : Nat
  job : Nat
  tier : Nat
  chan : Nat
  rwin : Nat
  base : Nat
  area : Nat
  handle : Nat
  firstLayer : Nat
  layerCount : Nat
  deriving DecidableEq, Repr, Inhabited

/-- The entry that 32 bytes hold. -/
def mapEntryOf (d : List Byte) : MapEntry :=
  { kind := recNat d 0 1, job := nfld (recNat d 0 4) 25 16, tier := nfld (recNat d 4 4) 2 0,
    chan := nfld (recNat d 4 4) 7 4, rwin := nfld (recNat d 4 4) 27 16, base := recNat d 8 8, area := recNat d 0x10 4,
    handle := recNat d 0x14 4, firstLayer := nfld (recNat d 0x18 4) 11 0, layerCount := nfld (recNat d 0x18 4) 23 12 }

/-- The placement map of a channel in the active plan (R202). -/
def State.placeMap (s : State) (c : Nat) : List MapEntry :=
  let d := s.pln.active.section_ 3 c
  (chunksOf 32 (d.length / 32) d).map mapEntryOf

/-- The park destination of a job: the first PARK_DEST entry for it. -/
def State.parkDest (s : State) (c j : Nat) : Option MapEntry :=
  (s.placeMap c).find? fun e => e.kind == 1 && e.job == j

/-- The 48-bit address of image `n` of a park area: a state address, or a window index with an offset (R187, R202). -/
def parkAddr (e : MapEntry) (n : Nat) : Nat :=
  if e.tier = 4 then e.rwin * 2 ^ 32 + 20480 * n else e.base + 20480 * n

/-- The key of a job's park area of a tier. -/
def parkKey (j tier : Nat) : Nat := j * 8 + tier

/-- A free image of a job's park area: the lowest (DESIGN CHOICE, log entry 12). -/
def State.parkArea (s : State) (c j : Nat) (e : MapEntry) : Option Nat :=
  let used := (s.pgm c).parkUsed.at (parkKey j e.tier)
  ((List.range (used.length + 1)).find? fun n => !used.contains (parkAddr e n) && decide (n < e.area)).map (parkAddr e)

/-- A place for a parked page: a slot of a CACHE channel, which counts it against its own ADM_FREE_PAGES, or an image of
the park area; none when there is no room, or the channel's role refuses parked pages (R64, R202). -/
def State.parkPlace (s : State) (c j : Nat) : State × Option Place :=
  match s.parkDest c j with
  | none => (s, none)
  | some e =>
    if e.tier = 1 then
      if s.rdF e.chan Reg.RQT_ROLE 1 0 ≠ 2 ∨ s.rdN e.chan Reg.ADM_FREE_PAGES = 0 ∨ s.inService e.chan = false then (s, none)
      else match s.takeSlot e.chan with
        | (s1, none) => (s1, none)
        | (s1, some k) => (s1.freeSub e.chan 1, some ⟨1, s1.slotAddr e.chan k⟩)
    else match s.parkArea c j e with
      | none => (s, none)
      | some a =>
        (s.updPgm c fun p => { p with parkUsed := p.parkUsed.upd (parkKey j e.tier) fun l => insNat a l }, some ⟨e.tier, a⟩)

/-- A free image of the T0 page area: the lowest (R183; DESIGN CHOICE, log entry 12). -/
def State.t0Place (s : State) (c : Nat) : State × Option Place :=
  let i := kthFree (s.pgm c).t0used 0
  if i < s.rdN c Reg.PGM_T0_PAGES then
    (s.updPgm c fun p => { p with t0used := insNat i p.t0used },
      some ⟨0, t0Base c + s.rdN c Reg.PGM_T0_BASE + 20480 * i⟩)
  else (s, none)

/-- A page slot of the channel for a page that leaves T0 (R203). -/
def State.backPlace (s : State) (c : Nat) : State × Option Place :=
  if s.rdN c Reg.ADM_FREE_PAGES = 0 then (s, none)
  else match s.takeSlot c with
    | (s1, none) => (s1, none)
    | (s1, some k) => (s1.freeSub c 1, some ⟨1, s1.slotAddr c k⟩)

/-- The destination of a move (R204, step 1). -/
def State.movePlace (s : State) (c : Nat) (m : PageMove) : State × Option Place :=
  match m.kind with
  | .pull | .sched => s.allocPage c m.slot true
  | .park => s.parkPlace c (s.table c (keyTable m.pte)).job
  | .t0 => if m.src.tier = 0 then s.backPlace c else s.t0Place c

/-! ### Starting a move (R204, R208) -/

/-- The move slots in use. -/
def State.movesActive (s : State) (c : Nat) : Nat := ((s.pgm c).moves.filter fun m => m.2.isSome).length

/-- The move slots that demand pulls use. -/
def State.pullsActive (s : State) (c : Nat) : Nat :=
  ((s.pgm c).moves.filter fun m => (m.2.map PageMove.kind) == some .pull).length

/-- Whether a move slot can be had: a move that is no demand pull leaves PULL_SLOTS to the pulls (R222). -/
def State.moveSlotFree (s : State) (c : Nat) (k : MoveKind) : Bool :=
  decide (s.movesActive c < 64) &&
    (k == .pull || decide (s.movesActive c - s.pullsActive c + s.rdF c Reg.DMV_CFG 5 0 < 64))

/-- The lowest free move slot (DESIGN CHOICE, log entry 12). -/
def State.freeMoveId (s : State) (c : Nat) : Nat :=
  ((List.range 64).find? fun i => ((s.pgm c).moves.at i).isNone).getD 0

/-! ### When scheduled movement runs (R34, R35, R38, R387) -/

/-- The shaper of a move by Kweuz. -/
def State.moveShaper (s : State) (c : Nat) (m : PageMove) : Option Nat := (s.moveConn c m).map fun k => (s.conn c k).shaper

/-- Whether a window is one in which a move by scheduled movement may run: one that its shaper's calendar entry names, or Dusk where
there is none (R34, R35, R86; DEDUCED, log entry 57). -/
def State.moveNamed (s : State) (c : Nat) (m : PageMove) (ep : Nat) (w : Window) : Bool :=
  match (s.moveShaper c m).bind fun k => s.calEntry c k ep with
  | some e => entryNames e w
  | none => w == .dusk

/-- Whether a move may start now: a demand pull at any time; a T0 placement in Midnight before its guard; scheduled movement and a park
in a window that their calendar names, before its guard, from Dusk of the day on which they were asked for (R33 to R35, R203, R206,
R215). -/
def State.moveMay (s : State) (c : Nat) (m : PageMove) : Bool :=
  match m.kind with
  | .pull => true
  | .t0 => s.inWindow .midnight
  | _ => s.inWindow s.tim.win && s.moveNamed c m s.pln.active.epoch s.tim.win &&
      (m.day != s.tim.day || s.tim.win == .dusk || s.tim.win == .midnight)

/-- Whether a page can be read by a sweep of the channel: homed in the channel's T0 or T1 (R200). -/
def homedHere (c : Nat) (p : Place) : Bool := p.tier == 0 || (p.tier == 1 && inT1 c p.addr)

/-- Whether there is nothing left to move: the page is where the move would take it. -/
def State.moveMoot (s : State) (c : Nat) (m : PageMove) : Bool :=
  let here := homedHere c (s.placeOf c m.pte)
  match m.kind with
  | .pull => here
  | .sched => here || !(s.pgm c).atSource.contains m.pte
  | .park | .t0 => !here

/-- The end that a park of a job has by Kweuz, before its image is allocated. -/
def State.parkEnd (s : State) (c : Nat) (m : PageMove) : Place :=
  match m.kind, s.parkDest c (s.table c (keyTable m.pte)).job with
  | .park, some e => ⟨e.tier, e.rwin * 2 ^ 32⟩
  | _, _ => default

/-- Puts a move among those that wait, once. -/
def State.waitMove (s : State) (c : Nat) (m : PageMove) : State :=
  if (s.pgm c).waiting.any fun w => w.pte == m.pte && w.kind == m.kind then s
  else s.updPgm c fun p => { p with waiting := p.waiting ++ [m] }

/-- Starts a move if its time has come, DMV accepts work, the page can move, a slot is free and a destination can be had; else it waits
(R7, R204, R208). A POISONED page arrives as poison (R209, R211). -/
def State.startMove (s : State) (c : Nat) (m : PageMove) : State :=
  let p := s.pte c m.pte
  let src : Place := ⟨p.tier, p.addr⟩
  if !p.there || p.link || p.st == .evicted || s.moveMoot c m then s
  else if p.st == .moving || !s.ready (dmvPage c) || !s.moveSlotFree c m.kind || !s.moveMay c { m with src := src, dst := s.parkEnd c m } then s.waitMove c m
  else match s.movePlace c { m with src := src } with
    | (s1, none) => s1.waitMove c m
    | (s1, some d) =>
      let id := s1.freeMoveId c
      let m1 := { m with
        src := src, dst := d, epoch := s.pln.active.epoch, retry := false, flaw := if p.st == .poisoned then 2 else 0,
        wasBad := p.st == .poisoned, side := if src.tier = 3 && (s.pgm c).atSource.contains m.pte then (s.pgm c).sides.at m.pte else 0 }
      (((s1.updPgm c fun x => { x with moves := x.moves.set id (some m1) }).setPte c m.pte
        { p with st := .moving, moveId := id }).kwpTransfer c id m1).slpTransfer c id m1

/-- Asks PGM for a move: one that PGM does not accept now is asked for again when it does (R7; log entry 61). -/
def State.reqMove (s : State) (c : Nat) (m : PageMove) : State :=
  if s.ready (pgmPage c) then s.startMove c m else s.updPgm c fun p => { p with later := p.later ++ [m] }

/-- PGM accepts work again. -/
def State.laterMoves (s : State) (c : Nat) : State :=
  (s.updPgm c fun p => { p with later := [] }).each (s.pgm c).later fun s m => s.startMove c m

/-- A move as it is asked for now. -/
def State.askMove (s : State) (k : MoveKind) (pte slot : Nat) : PageMove :=
  { kind := k, pte := pte, src := default, dst := default, epoch := 0, slot := slot, retry := false, paused := false, stopAt := 0,
    day := s.tim.day, done := 0, isOver := 0, flaw := 0, wasBad := false, side := 0 }

/-- Moves that wait are tried again, in order; a failed park only where a window starts (R206, R208). -/
def State.kickMoves (s : State) (c : Nat) (retries : Bool) : State :=
  let ws := (s.pgm c).waiting.filter fun w => retries || !w.retry
  (s.updPgm c fun p => { p with waiting := p.waiting.filter fun w => !(retries || !w.retry) }).each ws fun s w =>
    s.startMove c w

/-- DRAIN_RELEASE (R210): an image that no read holds any longer returns, and moves that wait for a slot may start. -/
def execDrainRelease (c a : Nat) (s : State) : Host.Outcome State Fault Refusal :=
  .next ((s.drainRelease c a).kickMoves c false)

/-! ### The end of a move -/

/-- Whether the Solrov fabric or Kweuz carries the image of a move, which then stands at its destination when the transfer ends
(R374, R412). -/
def PageMove.far (m : PageMove) : Bool := decide (3 ≤ m.src.tier) || decide (3 ≤ m.dst.tier)

/-- The effects of reading a source image on the block coding's counts (R268, R273). -/
def State.touchImage (s : State) (job : Nat) (p : Place) : State :=
  s.each (s.imgRanges p 0 20480) fun s r => s.touch job r.1 r.2

/-- Whether source and destination lie on different channels of the device (R207). -/
def crossesXbar (c : Nat) (m : PageMove) : Bool :=
  let ch := fun (p : Place) => if p.tier = 1 then t1Channel p.addr else c
  ch m.src != ch m.dst && decide (m.src.tier ≤ 1) && decide (m.dst.tier ≤ 1)

/-- A message of a move to the other end (R85): to a channel of the rack as a record, and to a Kweuz node as traffic of the job's
DEFAULT connection, whose form the spec does not give (log entry 58). -/
def State.moveSend (s : State) (c i : Nat) (k : DevKind) (what : String) (node req gen : Nat) (payload : List Byte) : State :=
  if node.testBit 31 then s.devSend c (nfld node 10 4) (nfld node 3 0) devRing (devRec k req gen payload)
  else s.emit (.msg what [node, req, gen, reqIndex c i] payload)

/-- MOVE_CLOSE to the source (R86, step 5). -/
def State.sendClose (s : State) (c i : Nat) : State :=
  let e := s.req c i
  s.moveSend c i .moveClose "MOVE_CLOSE" e.moveNode e.moveReq e.moveGen []

/-- The last page of an inbound request has switched home: PULLING clears, a MOVING entry goes RESIDENT, and MOVE_CLOSE is
sent (R60, R86). -/
def State.moveComplete (s : State) (c i : Nat) : State :=
  (s.updReq c i fun e => { e with st := if e.st = .moving then .resident else e.st,
                                  flags := { e.flags with pulling := false } }).sendClose c i

/-- Whether pages of a request's table are still homed at its source. -/
def State.stillPulling (s : State) (c i : Nat) : Bool :=
  (s.pgm c).atSource.any fun k => keyTable k == (s.req c i).table

/-- An inbound page has switched home: the source is told, and the move completes with the last page (R86, R209). -/
def State.switchedHome (s : State) (c k : Nat) : State :=
  if !(s.pgm c).atSource.contains k then s
  else
    let s1 := s.updPgm c fun p => { p with atSource := p.atSource.erase k }
    match (s.table c (keyTable k)).owner with
    | .req i =>
      let e := s.req c i
      let s2 := s1.moveSend c i .homeSwitch "HOME_SWITCH" e.moveNode e.moveReq e.moveGen (leBytes 2 (keyLayer k) ++ leBytes 2 (keyPage k))
      s2.when (e.flags.pulling && !s2.stillPulling c i) fun s => s.moveComplete c i
    | _ => s1

/-- Takes a move out of its slot. -/
def State.dropMove (s : State) (c id : Nat) : State := s.updPgm c fun p => { p with moves := p.moves.set id none }

/-- The home switches to the destination, in one write (R204, step 3; R211). A page that became POISONED meanwhile was counted then. -/
def State.switchHome (s : State) (c id : Nat) (m : PageMove) (poison : Bool) : State :=
  let p := s.pte c m.pte
  let st := if p.st == .poisoned then .poisoned else PteState.valid
  let s1 := (s.setPte c m.pte { p with st := st, tier := m.dst.tier, addr := m.dst.addr, moveId := 0 }).dropMove c id
  let s2 := if poison then (((s1.poisonPage c m.pte).bump c Reg.DMV_POISON_CNT).evt (dmvPage c) 1) else s1
  s2.freeImage c m.src poison

/-- Counts of a finished move (R220, R222). -/
def State.countMove (s : State) (c : Nat) (m : PageMove) : State :=
  let s1 := (s.bump c Reg.PGM_MOVE_CNT).bump64 c Reg.DMV_BYTES_LO 20480
  let s2 := s1.when (m.kind == .pull) fun s => s.bump c Reg.PGM_PULL_CNT
  s2.when (crossesXbar c m) fun s => s.bump c Reg.DMV_XBAR_BYTES 5

/-- Whether the home that a move copies is still the one it started with; it may have become POISONED during the copy. -/
def State.moveHolds (s : State) (c id : Nat) (m : PageMove) : Bool :=
  let p := s.pte c m.pte
  p.there && !p.link && (p.st == .moving || p.st == .poisoned) && p.moveId == id && p.tier == m.src.tier && p.addr == m.src.addr

/-- Whether a page that a request pulled has its home in another table, a handle's or another request's. -/
def State.pulledForOther (s : State) (c : Nat) (m : PageMove) : Bool :=
  (m.kind == .pull || m.kind == .sched) && (s.table c (keyTable m.pte)).owner != .req m.slot

/-- PAGES_HELD after a page moved: a park or a T0 placement gives its slot up, and a page that comes back from T0 takes one, as one does
that a request pulled home for the handle or request whose table holds the home (R191). -/
def State.moveSlots (s : State) (c : Nat) (m : PageMove) : State :=
  let leaves := (m.kind == .park || m.kind == .t0) && m.src.tier == 1
  (s.when leaves fun s => s.slotLeft c m.pte).when ((m.kind == .t0 && m.src.tier == 0) || s.pulledForOther c m) fun s =>
    s.slotCame c m.pte

/-- The image of a move reaches its destination: as coded units where it crosses the crossbar (R274 to R276), as bytes within the
channel. -/
def State.copyImage (s : State) (c job : Nat) (m : PageMove) : State :=
  let s1 := s.touchImage job m.src
  if crossesXbar c m then
    s1.placeAt (if m.dst.tier = 1 then t1Channel m.dst.addr else c) job (s1.imgRanges m.dst 0 20480) 0
      (s1.unitsOf (if m.src.tier = 1 then t1Channel m.src.addr else c) 0 (s1.imgRanges m.src 0 20480))
  else s1.imgWrite m.dst 0 (s1.imgRead m.src 0 20480) job

/-- A move's copy ends (R204, steps 2 to 4). -/
def State.finishMove (s : State) (c id : Nat) (m : PageMove) : State :=
  let job := (s.table c (keyTable m.pte)).job
  if !s.moveHolds c id m then (s.dropMove c id).placeFree c m.dst false
  else
    let bad := (s.pte c m.pte).st == .poisoned || (if m.far then m.isOver == 2 else s.imgPoison m.src 0 20480 || decide (2 ≤ m.flaw))
    let s1 := (if m.far then s else s.copyImage c job m).countMove c m
    ((s1.switchHome c id m bad).moveSlots c m).switchedHome c m.pte

/-- Whether the copy of a move can end: a transfer by Kweuz or Solrov has arrived (R375, R412), and any other is not paused
(R38) nor cut off by its host port (R481). -/
def PageMove.canEnd (m : PageMove) : Bool := if m.far then m.isOver == 1 || m.isOver == 2 else !m.paused && m.isOver != 3

/-- The channels that a move's copy runs on: PGM's own, and those of its source and destination in T1. -/
def moveChs (c : Nat) (m : PageMove) : List Nat :=
  c :: ([m.src, m.dst].filter fun p => p.tier == 1).map fun p => t1Channel p.addr

/-- Whether a copy goes on: every channel that it runs on serves (R528, R563, R568). -/
def State.copyGoesOn (s : State) (c : Nat) (m : PageMove) : Bool := (moveChs c m).all s.serves

/-- A failed move: its destination is freed and the home is at the source again, VALID, or POISONED as it was (R206). -/
def State.undoMove (s : State) (c id : Nat) (m : PageMove) : State :=
  let p := s.pte c m.pte
  let s1 := (s.dropMove c id).placeFree c m.dst false
  s1.when (p.there && p.st == .moving && p.moveId == id) fun s =>
    s.setPte c m.pte { p with st := if m.wasBad then .poisoned else .valid, moveId := 0 }

/-- PARK_FAILED (R206, R219). -/
def State.parkFailed (s : State) (c k : Nat) : State :=
  let (j, r, g) := s.tableEvent c k
  (s.updPgm c fun p => { p with parkTries := p.parkTries.set k 0 }).evtJob c .pgm 2 0x31 0 g r j (s.pteAddr c k)

/-- A park failed: it waits for the next window, and after three attempts the page stays (R206). -/
def State.retryPark (s : State) (c : Nat) (m : PageMove) : State :=
  let n := (s.pgm c).parkTries.at m.pte + 1
  if 3 ≤ n then s.parkFailed c m.pte
  else
    (s.updPgm c fun p => { p with parkTries := p.parkTries.set m.pte n }).waitMove c { m with retry := true }

/-- Whether a failed pull ends the request: one that is RESIDENT, DECODING or inbound MOVING (R61). -/
def pullEnds (e : ReqEntry) : Bool :=
  match e.st with
  | .moving => !e.outbound
  | .resident | .decoding => true
  | _ => false

/-- An inbound move failed (R206): the request goes to LOST. -/
def State.pullFailed (s : State) (c i : Nat) : State :=
  let s1 := (s.unhold c i).evt (dmvPage c) 0
  s1.when (pullEnds (s.req c i)) fun s => s.lose c i 0x10

/-- A move that its transport reports failed (R206). -/
def State.failMove (s : State) (c id : Nat) (m : PageMove) : State :=
  let s1 := (s.undoMove c id m).bump c Reg.DMV_MOVE_FAIL_CNT
  match m.kind with
  | .pull | .sched => s1.pullFailed c m.slot
  | .park => s1.retryPark c m
  | .t0 => s1

/-- Whether the copy of a move writes T2 behind a port without a link, which fails (R481). -/
def State.writesGone (s : State) (m : PageMove) : Bool := !m.far && m.dst.tier == 2 && s.t2Gone m.dst.addr

/-- PAGE_MOVE_DONE (R204, R207, R211). -/
def execPageMoveDone (c id : Nat) (s : State) : Host.Outcome State Fault Refusal :=
  .next (match (s.pgm c).moves.at id with
    | none => s
    | some m => s.when (m.canEnd && s.copyGoesOn c m) fun s =>
        ((if s.writesGone m then (s.bump ((s.t2Port m.dst.addr).getD 0) Reg.CXH_T2_FAIL_CNT).failMove c id m
          else s.finishMove c id m).kickMoves c false).retirePlan)

/-- Whether a move waits for a recovery: a channel that its copy runs on is recovering (R563). -/
def State.copyWaits (s : State) (c : Nat) (m : PageMove) : Bool := (moveChs c m).any s.recovering

/-- The moves of other channels with an end in a channel's memory fail: the channel is quarantined (R206, R563). -/
def State.failMovesOf (s : State) (c : Nat) : State :=
  s.each (s.channels.filter fun d => d != c) fun s d =>
    (s.each ((s.pgm d).moves.keysWhere fun _ m => m.any fun x => !x.far && (moveChs d x).contains c) fun s id =>
      match (s.pgm d).moves.at id with
      | some m => s.failMove d id m
      | none => s).kickMoves d false

/-- PAGE_MOVE_FAILED (R206, R375, R425, R563). -/
def execPageMoveFailed (c id : Nat) (s : State) : Host.Outcome State Fault Refusal :=
  .next (match (s.pgm c).moves.at id with
    | none => s
    | some m => s.when ((!m.far || m.isOver == 3) && !s.copyWaits c m) fun s => ((s.failMove c id m).kickMoves c false).retirePlan)

/-! ### What asks for moves -/

/-- A demand pull of a page for a request (R208). A page whose remote window belongs to another job is unreachable: the
pull fails (R201). -/
def State.windowOk (s : State) (c k job : Nat) : Bool :=
  let p := s.pte c k
  p.tier != 4 || (s.rdB c Reg.PGM_RWIN_CTRL 31 (p.addr / 2 ^ 32) && s.rdF c Reg.PGM_RWIN_CTRL 9 0 (p.addr / 2 ^ 32) == job)

/-- Asks for an inbound move of a page, by its home, for a request. -/
def State.pullPage (s : State) (c k i : Nat) (kind : MoveKind) : State :=
  if !s.windowOk c k (s.req c i).job then
    (s.bump c Reg.DMV_MOVE_FAIL_CNT).evt (dmvPage c) 0 |>.when (pullEnds (s.req c i)) fun s => s.lose c i 0x10
  else s.reqMove c (s.askMove kind k i)

/-- The homes of a table that are not EVICTED. -/
def State.homeKeys (s : State) (c t : Nat) : List Nat :=
  (s.tableKeys c t).filter fun k => !(s.pte c k).link && (s.pte c k).st != .evicted

/-- Scheduled movement of the inbound requests of a channel (R86, step 3). -/
def State.schedMoves (s : State) (c : Nat) : State :=
  s.each (s.pgm c).atSource fun s k => match (s.table c (keyTable k)).owner with
    | .req i => s.when ((s.pte c k).st != .moving) fun s => s.pullPage c k i .sched
    | _ => s

/-- Parks the pages of a request that are homed in the channel's T0 or T1 (R89). -/
def State.parkPages (s : State) (c i : Nat) : State :=
  s.each ((s.homeKeys c (s.req c i).table).filter fun k => homedHere c (s.placeOf c k)) fun s k =>
    s.reqMove c (s.askMove .park k i)

/-- The homes of the pages that a handle's entries reach, its own or by its links (R188, R203), in layer order. -/
def State.handleHomes (s : State) (c t first count : Nat) : List Nat :=
  (((s.tableKeys c t).filter fun k => s.listed c k && decide (first ≤ keyLayer k ∧ keyLayer k < first + count)).map (s.homeKey c)).eraseDups

/-- The home keys that the placement map names for T0, in entry and layer order (R203). -/
def State.t0Wanted (s : State) (c : Nat) : List Nat :=
  ((s.placeMap c).filter fun e => e.kind == 2).flatMap fun e =>
    let h := s.handle c (hIdx e.handle)
    if h.gen = hGen e.handle ∧ h.st = .held ∧ h.job = e.job then s.handleHomes c h.table e.firstLayer e.layerCount else []

/-- The T0 placement moves of Midnight (R203, R215 step 5). -/
def State.t0Moves (s : State) (c : Nat) : State :=
  let want := s.t0Wanted c
  let s0 := s.updPgm c fun p => { p with waiting := p.waiting.filter fun m => m.kind != .t0 }
  let still := fun (p : Pte) => p.st == .valid || p.st == .poisoned
  let back := ((s0.pgm c).ptes.keysWhere fun k p => p.there && !p.link && p.tier == 0 && still p && !want.contains k)
  let s1 := s0.each back fun s k => s.reqMove c (s.askMove .t0 k 0)
  let room := s1.rdN c Reg.PGM_T0_PAGES - (s1.pgm c).t0used.length
  s1.each ((want.filter fun k => (s1.pte c k).tier == 1 && still (s1.pte c k)).take room) fun s k =>
    s.reqMove c (s.askMove .t0 k 0)

/-- DMV_STATUS (R222). -/
def State.dmvStatus (s : State) (c : Nat) : Word :=
  BitVec.ofNat 32 (fieldAt 0 7 (s.movesActive c) + fieldAt 8 7 (s.pullsActive c) +
    match (s.engine c 2).holder with
    | none => 0
    | some h => fieldAt 15 1 1 + fieldAt 16 10 h.job)

end Sys2Proof.Machine
end

