-- ==== Sys2Proof/Machine/Mover.lean ====
section
/-! DEFINITION. DMV's commands: COPY and CONVERT in chunks (R216 to R218, R314, R325, R326). -/
namespace Sys2Proof.Machine

/-- DMV's command state of a channel. -/
def State.dmv (s : State) (c : Nat) : DmvCh := (s.ch c).dmv

/-- Replaces the started DMV command of a job. -/
def State.setDmvRun (s : State) (c j : Nat) (r : Option DmvRun) : State :=
  s.updCh c fun x => { x with dmv := { x.dmv with runs := x.dmv.runs.set j r } }

/-- A DMV command that starts, under the ESC_THRESH with which it took the MOVER (R304). -/
def State.newDmvRun (s : State) (c : Nat) (cmd : Cmd) : DmvRun :=
  { cmd := cmd, chunk := 0, srcOut := 0, srcExt := 0, dstOut := 0, dstExt := 0, flags := 0, written := 0,
    thresh := (s.engine c 2).esc, fetched := 0, got := [], settling := false, before := 0, fail := 0,
    nak := false }

/-- The started command of a job, or the one given as it starts. -/
def State.dmvRun (s : State) (c : Nat) (cmd : Cmd) : DmvRun :=
  match (s.dmv c).runs.at cmd.job with
  | some r => if r.cmd = cmd then r else s.newDmvRun c cmd
  | none => s.newDmvRun c cmd

/-- SRC, DST and LENGTH of a descriptor (R217). -/
def dmvSrc (cmd : Cmd) : Nat := recNat cmd.payload 0 8
def dmvDst (cmd : Cmd) : Nat := recNat cmd.payload 8 8
def dmvLen (cmd : Cmd) : Nat := recNat cmd.payload 0x10 4
/-- SRC_FMT and DST_FMT. -/
def dmvSrcFmt (cmd : Cmd) : Nat := nfld (recNat cmd.payload 0x14 4) 3 0
def dmvDstFmt (cmd : Cmd) : Nat := nfld (recNat cmd.payload 0x14 4) 7 4

/-- Parts of a transfer that lie in another channel's memory go through the crossbar (R3, R222). -/
def State.crossed (s : State) (c : Nat) (l : List (Nat × Nat)) : State :=
  let n := (s.dmv c).xbar + (l.map fun p => if (stateChannel p.1).any fun k => k != c then p.2 else 0).sum
  (s.updCh c fun x => { x with dmv := { x.dmv with xbar := n % 4096 } }).bump c Reg.DMV_XBAR_BYTES (n / 4096)

/-- What an access of a transfer meets: bytes, poison, or a translation fault. -/
inductive Got where
  | bytes (bs : List Byte)
  | poison
  | fault (x : AtuErr) (write : Bool)
  deriving DecidableEq, Repr, Inhabited

/-- What the loads of a chunk brought from rack space: address, bytes, poison (R412). -/
abbrev Loaded := List (Nat × List Byte × Bool)

/-- The bytes that loads brought for a range of rack space. -/
def loadedBytes (got : Loaded) (a n : Nat) : List Byte :=
  (pieces256 a n (n / 256 + 2)).flatMap fun p => match got.find? fun g => g.1 == p.1 / 32 * 32 with
    | some g => padTo p.2 (g.2.1.drop (p.1 % 32))
    | none => padTo p.2 []

/-- Whether a load for a range brought poison. -/
def loadedPoison (got : Loaded) (a n : Nat) : Bool :=
  inRack a && (pieces256 a n (n / 256 + 2)).any fun p => got.any fun g => g.1 == p.1 / 32 * 32 && g.2.2

/-- Reads a range of a job's space. Parts in rack space take what loads brought. -/
def State.readSpan (s : State) (got : Loaded) : List (Nat × Nat) → List Byte
  | [] => []
  | (a, k) :: l => (if inRack a then loadedBytes got a k else s.vread a k) ++ s.readSpan got l

/-- The read of a range of a job's space, with what it does to the block coding's counts. -/
def State.jobRead (s : State) (c j va n : Nat) (got : Loaded) : State × Got :=
  match s.translateRange c j va n false (n / 4096 + 2) with
  | (s1, .error x) => (s1, .fault x false)
  | (s1, .ok l) =>
    let s2 := (s1.touchParts j l).crossed c l
    (s2, if l.any fun p => s1.vpoison p.1 p.2 || loadedPoison got p.1 p.2 then .poison else .bytes (s1.readSpan got l))

/-- What became of a request that a chunk sent. -/
def State.dmvSent (x : State × Sent) (c j a : Nat) : State :=
  match x.2 with
  | .ok => x.1
  | .refused st => x.1.dmvPiece c j fun r => { r with fail := if r.fail = 0 then st else r.fail }
  | .poison => x.1.dmvPiece c j fun r => { r with got := r.got ++ [(a / 32 * 32, [], true)] }

/-- STOREs of a chunk into rack space (R412). -/
def State.rackWrite (s : State) (c j a : Nat) (bs : List Byte) : State :=
  s.each (pieces256 a bs.length (bs.length / 256 + 2)) fun s p =>
    State.dmvSent (s.issue c j p.1 p.2 (storeMsg p.1 ((bs.drop (p.1 - a)).take p.2) false false) (.dmv j)) c j p.1

/-- Writes translated parts: memory, or stores into rack space. -/
def State.writeSpan (s : State) (c j : Nat) : List (Nat × Nat) → List Byte → State
  | [], _ => s
  | (a, k) :: l, bs =>
    (if inRack a then s.rackWrite c j a (bs.take k) else s.vwrite a (bs.take k) j).writeSpan c j l (bs.drop k)

/-- Writes ranges of a job's space, stopping at a translation fault. A write of T2 that fails ends the command with POISONED_SRC (R481). -/
def State.jobWrites (s : State) (c j : Nat) : List (Nat × List Byte) → State × Option AtuErr
  | [] => (s, none)
  | (va, bs) :: l =>
    match s.translateRange c j va bs.length true (bs.length / 4096 + 2) with
    | (s1, .error x) => (s1, some x)
    | (s1, .ok ps) =>
      (((s1.writeSpan c j ps bs).crossed c ps).when (s1.partsGone ps) fun s =>
        s.dmvPiece c j fun r => { r with fail := if r.fail = 0 then 0x21 else r.fail }).jobWrites c j l

/-- Reads several ranges in order. -/
def State.jobReads (s : State) (c j : Nat) (got : Loaded) : List (Nat × Nat) → State × Except Got (List (List Byte))
  | [] => (s, .ok [])
  | (va, n) :: l =>
    match s.jobRead c j va n got with
    | (s1, .bytes bs) =>
      match s1.jobReads c j got l with
      | (s2, .ok r) => (s2, .ok (bs :: r))
      | (s2, .error e) => (s2, .error e)
    | (s1, g) => (s1, .error g)

/-! ### Block formats of CONVERT (R105, R217) -/

/-- Bytes of a block in a format whose blocks stand one after another: BF16, FP32 and L3. -/
def plainBytes (f : Nat) : Nat := if f = 0 then 32 else if f = 1 then 64 else 8

/-- The linear values of one block of a plain format; none is a value that is not finite. -/
def plainVals (f : Nat) (b : List Byte) : List (Option Rat) :=
  if f = 0 then (chunksOf 2 16 b).map fun x => bf16Val (leNat x)
  else if f = 1 then (chunksOf 4 16 b).map fun x => fp32Val (leNat x)
  else (decL3 b).1.map fun e => some e.lin

/-- FORMAT_ERR of one block of a plain format. -/
def plainErr (f : Nat) (b : List Byte) : Nat := if f = 4 ∧ (decL3 b).2 = true then flFormat else 0

/-- The ranges of blocks `i` to `i + m` of an operand of `n` blocks: plain blocks; or code parts and side words, and for
L4 NARROW the lists from the positions reached (R217; the WIDE layout is DEDUCED from R105, log entry 15). -/
def blockRanges (f base n i m out ext : Nat) : List (Nat × Nat) :=
  if f = 2 then [(base + 16 * i, 16 * m), (base + 16 * n + 2 * i, 2 * m)]
  else if f = 3 then
    [(base + 8 * i, 8 * m), (base + 8 * n + 2 * i, 2 * m), (base + 10 * n + 2 * out, 2 * min (2 * m) (2 * n - out)),
      (base + 14 * n + 8 * ext, 8 * min m (n - ext))]
  else [(base + plainBytes f * i, plainBytes f * m)]

/-- Entries that a block takes from the outlier and extension lists (R106). -/
def takesOut (side : Nat) : Nat := if nfld side 9 8 = 1 then nfld side 10 10 + 1 else 0
def takesExt (side : Nat) : Nat := if nfld side 9 8 = 2 then 1 else 0

/-- The stored blocks of an L4 NARROW piece, taking list entries in block order. -/
def narrowBlocks : Nat → List Byte → List Byte → List Byte → List Byte → List LBlock
  | 0, _, _, _, _ => []
  | m + 1, code, sides, out, ext =>
    let sd := recNat sides 0 2
    let o := takesOut sd
    let e := takesExt sd
    ⟨sd, code.take 8, ext.take (8 * e), (List.range o).map fun i => recNat out (2 * i) 2⟩ ::
      narrowBlocks m (code.drop 8) (sides.drop 2) (out.drop (2 * o)) (ext.drop (8 * e))

/-- The blocks of the source of a chunk in L format. -/
def srcBlocks (f m : Nat) (bs : List (List Byte)) : List LBlock :=
  if f = 2 then
    (List.range m).map fun i => ⟨recNat (bs.getD 1 []) (2 * i) 2, ((bs.getD 0 []).drop (16 * i)).take 16, [], []⟩
  else narrowBlocks m (bs.getD 0 []) (bs.getD 1 []) (bs.getD 2 []) (bs.getD 3 [])

/-- The values of the source blocks of a chunk, and their FORMAT_ERR. -/
def srcValues (f m : Nat) (bs : List (List Byte)) : List (List (Option Rat)) × Nat :=
  if f = 2 ∨ f = 3 then
    let l := srcBlocks f m bs
    (l.map fun b => b.linear.map some, orFlags (l.map fun b => if b.decode.2 then flFormat else 0))
  else
    let l := chunksOf (plainBytes f) m (bs.getD 0 [])
    (l.map (plainVals f), orFlags (l.map (plainErr f)))

/-- BF16 or FP32 of linear values by normal rounding: a value beyond the range, as a decode can give it, is an infinity (R110, R217). A
NaN or an infinity of a BF16 or FP32 source is written as 0 and sets NONFINITE_IN, as R111 says of a block; for these destinations the
spec does not say (DESIGN CHOICE, log entry 62). -/
def encPlain (f : Nat) (xs : List (Option Rat)) : List Byte × Nat :=
  (xs.flatMap fun x => if f = 0 then leBytes 2 (bf16Bits (rne16 (x.getD 0))) else leBytes 4 (fp32Bits (rne32 (x.getD 0))),
    if xs.any Option.isNone then flNonfinite else 0)

/-- The encoded L blocks of a chunk: L8 WIDE, or L4 NARROW with room in both lists (R217). -/
def encBlocks (f thresh : Nat) (vs : List (List (Option Rat))) : List (LBlock × Nat) :=
  vs.map fun v => if f = 2 then encL8 16 v else encL4 thresh 2 1 v

/-- The writes of a chunk's destination, the list positions after it, and its flags. -/
def dstWrites (f thresh base n i out ext : Nat) (vs : List (List (Option Rat))) :
    List (Nat × List Byte) × (Nat × Nat) × Nat :=
  if f = 2 ∨ f = 3 then
    let bs := encBlocks f thresh vs
    let w := if f = 2 then 16 else 8
    let outs := bs.flatMap fun b => b.1.outl.flatMap (leBytes 2)
    let exts := bs.flatMap fun b => b.1.ext
    ([(base + w * i, bs.flatMap fun b => padTo w b.1.code), (base + w * n + 2 * i, bs.flatMap fun b => leBytes 2 b.1.side)] ++
        (if f = 3 then [(base + 10 * n + 2 * out, outs), (base + 14 * n + 8 * ext, exts)] else []),
      (out + outs.length / 2, ext + exts.length / 8), orFlags (bs.map Prod.snd))
  else
    let bs := vs.map fun v => if f = 4 then encL3 v else encPlain f v
    ([(base + plainBytes f * i, bs.flatMap Prod.fst)], (out, ext), orFlags (bs.map Prod.snd))

/-! ### Chunks -/

/-- Bytes written by a list of writes. -/
def bytesOf (ws : List (Nat × List Byte)) : Nat := (ws.map fun w => w.2.length).sum

/-- What one chunk does: the state after its accesses, and the run after it, poison, or a fault. -/
inductive ChunkEnd where
  | done (r : DmvRun)
  | poison
  | fault (x : AtuErr) (write : Bool)
  deriving DecidableEq, Repr, Inhabited

/-- The writes of a chunk, and the run after them. -/
def State.endChunk (s : State) (c : Nat) (r : DmvRun) (ws : List (Nat × List Byte)) : State × ChunkEnd :=
  match s.jobWrites c r.cmd.job ws with
  | (s1, some x) => (s1, .fault x true)
  | (s1, none) =>
    (s1.bump64 c Reg.DMV_BYTES_LO (bytesOf ws), .done { r with chunk := r.chunk + 1, written := r.written + bytesOf ws })

/-- One chunk of a COPY (R326). -/
def State.copyChunk (s : State) (c : Nat) (r : DmvRun) (got : Loaded) : State × ChunkEnd :=
  let o := r.chunk * 4096
  match s.jobRead c r.cmd.job (dmvSrc r.cmd + o) (min 4096 (dmvLen r.cmd - o)) got with
  | (s1, .fault x w) => (s1, .fault x w)
  | (s1, .poison) => (s1, .poison)
  | (s1, .bytes bs) => s1.endChunk c r [(dmvDst r.cmd + o, bs)]

/-- One chunk of a CONVERT: 128 blocks, a linear decode followed by encoding; BF16 and FP32 destinations are observed by
watch points (R110, R217, R326, R576). -/
def State.convertChunk (s : State) (c : Nat) (r : DmvRun) (got : Loaded) : State × ChunkEnd :=
  let i := r.chunk * 128
  let n := dmvLen r.cmd
  let m := min 128 (n - i)
  match s.jobReads c r.cmd.job got (blockRanges (dmvSrcFmt r.cmd) (dmvSrc r.cmd) n i m r.srcOut r.srcExt) with
  | (s1, .error (.fault x w)) => (s1, .fault x w)
  | (s1, .error _) => (s1, .poison)
  | (s1, .ok bs) =>
    let (vs, fl) := srcValues (dmvSrcFmt r.cmd) m bs
    let (ws, pos, gl) := dstWrites (dmvDstFmt r.cmd) r.thresh (dmvDst r.cmd) n i r.dstOut r.dstExt vs
    let blocks := if dmvSrcFmt r.cmd = 3 then srcBlocks 3 m bs else []
    let r1 := { r with srcOut := r.srcOut + (blocks.map fun b => takesOut b.side).sum,
                       srcExt := r.srcExt + (blocks.map fun b => takesExt b.side).sum,
                       dstOut := pos.1, dstExt := pos.2, flags := r.flags ||| fl ||| gl }
    match s1.endChunk c r1 ws with
    | (s2, .done r2) =>
      (s2.when (decide (dmvDstFmt r.cmd ≤ 1)) fun s =>
        s.watchBytes c r.cmd.job r.cmd.layer r.cmd.op (dmvDstFmt r.cmd == 1) (ws.flatMap Prod.snd), .done r2)
    | x => x

/-- The number of chunks of a command. -/
def dmvChunks (cmd : Cmd) : Nat := ceilDiv (dmvLen cmd) (if cmd.op = 0x040 then 4096 else 128)

/-- A DMV command completes (R218). -/
def State.dmvComplete (s : State) (c : Nat) (r : DmvRun) (status : Nat) : State :=
  ((s.setDmvRun c r.cmd.job none).bump c Reg.DMV_CMD_CNT).complete c r.cmd status
    (leBytes 4 (fieldAt 0 8 status + fieldAt 8 8 r.flags) ++ leBytes 4 r.written)

/-- The holder is set aside at a chunk boundary (R314, R325). -/
def State.dmvSuspend (s : State) (c : Nat) (r : DmvRun) : State :=
  ((s.setDmvRun c r.cmd.job (some r)).bump c Reg.DMV_SUSP_CNT).setAside c 2 .suspended true

/-- After a chunk: the command goes on, is suspended as asked, or completes. -/
def State.afterChunk (s : State) (c : Nat) (r : DmvRun) : State :=
  if dmvChunks r.cmd ≤ r.chunk then s.dmvComplete c r 0
  else if (s.engine c 2).preempt then s.dmvSuspend c r
  else s.setDmvRun c r.cmd.job (some r)

/-- The source ranges of the chunk that a command is at. -/
def chunkSrc (r : DmvRun) : List (Nat × Nat) :=
  if r.cmd.op = 0x040 then [(dmvSrc r.cmd + r.chunk * 4096, min 4096 (dmvLen r.cmd - r.chunk * 4096))]
  else blockRanges (dmvSrcFmt r.cmd) (dmvSrc r.cmd) (dmvLen r.cmd) (r.chunk * 128) (min 128 (dmvLen r.cmd - r.chunk * 128)) r.srcOut
    r.srcExt

/-- The parts of the chunk's source that lie in rack space, in pieces; none where a part does not translate. -/
def State.rackSrc (s : State) (c : Nat) (r : DmvRun) : List (Nat × Nat) :=
  (chunkSrc r).flatMap fun x => match (s.translateRange c r.cmd.job x.1 x.2 false (x.2 / 4096 + 2)).2 with
    | .ok l => (l.filter fun p => inRack p.1).flatMap fun p => pieces256 p.1 p.2 (p.2 / 256 + 2)
    | .error _ => []

/-- Whether requests of a job's chunk are outstanding. -/
def State.dmvWaits (s : State) (c j : Nat) : Bool :=
  (s.slp c).tags.any fun t => t.2.live && !t.2.quar && !t.2.mute && t.2.use == .dmv j

/-- Sends the loads of the chunk that the command on the MOVER is at, if its source lies in rack space and they have not been sent
(R412). -/
def State.dmvArm (s : State) (c : Nat) : State :=
  match (s.engine c 2).holder with
  | none => s
  | some cmd =>
    let r := s.dmvRun c cmd
    if (cmd.op ≠ 0x040 ∧ cmd.op ≠ 0x041) ∨ r.settling ∨ r.fetched = r.chunk + 1 ∨ dmvChunks cmd ≤ r.chunk then s
    else
      let ps := s.rackSrc c r
      if ps.isEmpty then s
      else (s.setDmvRun c cmd.job (some { r with fetched := r.chunk + 1, got := [], fail := 0 })).each ps fun s p =>
        State.dmvSent (s.issue c cmd.job p.1 p.2 (loadMsg p.1 p.2) (.dmv cmd.job)) c cmd.job p.1

/-- The end of a chunk's accesses: it waits for its stores into rack space, or the command goes on. -/
def State.chunkOver (s : State) (c : Nat) (r r1 : DmvRun) : State :=
  let now := s.dmvRun c r.cmd
  if s.dmvWaits c r.cmd.job ∨ now.fail ≠ 0 then
    s.setDmvRun c r.cmd.job (some { r1 with settling := true, before := r.written, fail := now.fail, nak := now.nak })
  else s.afterChunk c r1

/-- A fault sets the command aside at the chunk boundary with a save record, or leaves it on the MOVER where none is free (R140,
R310, R325). In a job whose TEARING is set it is discarded (R328). -/
def State.dmvFault (s : State) (c : Nat) (cmd : Cmd) (x : AtuErr) (write : Bool) : State :=
  if s.jobTearing c cmd.job then s.faultHolder c 2 cmd x write true
  else if 0 < s.savesFree c 2 then (s.bump c Reg.DMV_SUSP_CNT).faultHolder c 2 cmd x write true
  else (s.newFault c (s.faultOf 2 cmd x write)).1

/-- One chunk of the command that holds the MOVER (R326). Nothing ends while its requests are outstanding (R423). -/
def State.dmvChunk (s : State) (c : Nat) (cmd : Cmd) : State :=
  let r := s.dmvRun c cmd
  if s.dmvWaits c cmd.job || s.engineStuck c 2 cmd.job then s
  else if r.fail ≠ 0 then s.dmvComplete c { r with written := if r.settling then r.before else r.written } r.fail
  else if r.settling then s.afterChunk c { r with settling := false }
  else if dmvChunks cmd ≤ r.chunk then s.dmvComplete c r 0
  else if r.fetched ≠ r.chunk + 1 ∧ (s.rackSrc c r) ≠ [] then s
  else
    let s0 := s.setDmvRun c cmd.job (some r)
    match if cmd.op = 0x040 then s0.copyChunk c r r.got else s0.convertChunk c r r.got with
    | (s1, .done r1) => s1.chunkOver c r r1
    | (s1, .poison) => (s1.bump c Reg.DMV_POISON_CNT).dmvComplete c r 0x21
    | (s1, .fault x w) =>
      (s1.setDmvRun c cmd.job (some r)).dmvFault c cmd x w

/-- What a chunk touches in the device's memory: its source, and its destination at its longest. -/
def State.chunkTouches (s : State) (c : Nat) (r : DmvRun) : List Touch :=
  let i := r.chunk * (if r.cmd.op = 0x040 then 4096 else 128)
  let n := dmvLen r.cmd
  let dst := if r.cmd.op = 0x040 then [(dmvDst r.cmd + i, min 4096 (n - i))]
    else blockRanges (dmvDstFmt r.cmd) (dmvDst r.cmd) n i (min 128 (n - i)) r.dstOut r.dstExt
  let parts := fun (w : Bool) (x : Nat × Nat) =>
    match (s.translateRange c r.cmd.job x.1 x.2 w (x.2 / 4096 + 2)).2 with
    | .ok l => (l.filter fun p => !inRack p.1).map fun p => (p.1, p.2, w)
    | .error _ => []
  (chunkSrc r).flatMap (parts false) ++ dst.flatMap (parts true)

/-- DMV_CHUNK_DONE (R326): the chunk ends, once no host holds what it touches (R477), and the loads of the next one go out. -/
def execDmvChunkDone (c : Nat) (s : State) : Host.Outcome State Fault Refusal :=
  .next (match (s.engine c 2).holder with
    | none => s
    | some cmd =>
      if cmd.op = 0x040 ∨ cmd.op = 0x041 then
        s.afterSnoops (s.chunkTouches c (s.dmvRun c cmd)) fun s => (s.dmvChunk c cmd).dmvArm c
      else s)

/-- COPY (R216, R217): the transfer starts when the command has the MOVER. -/
def execCopy (c : Nat) (cmd : Cmd) (s : State) : Host.Outcome State Fault Refusal :=
  .next ((s.occupy c 2 { cmd with op := 0x040 }).when (s.enabledCh c) fun s => s.dmvArm c)

/-- CONVERT (R216, R217): the conversion starts when the command has the MOVER. -/
def execConvert (c : Nat) (cmd : Cmd) (s : State) : Host.Outcome State Fault Refusal :=
  .next ((s.occupy c 2 { cmd with op := 0x041 }).when (s.enabledCh c) fun s => s.dmvArm c)

end Sys2Proof.Machine
end

