-- ==== Sys2Proof/Machine/Hosts.lean ====
section
/-! DEFINITION. CXH and CMP: logical devices, composition and its epochs, CXL.mem requests and back-invalidation, shares, and
containment (R465 to R495). -/
namespace Sys2Proof.Machine

/-- The page of a host port. -/
def cxhPage (p : Nat) : Page := ⟨.cxh, p⟩

/-- CMP's page. -/
def cmpPage : Page := ⟨.cmp, 0⟩

/-- Changes a host port. -/
def State.updPort (s : State) (p : Nat) (f : CxhPort → CxhPort) : State :=
  { s with cxh := { s.cxh with ports := s.cxh.ports.upd p f } }

/-- Changes an LD. -/
def State.updLd (s : State) (n : Nat) (f : LdSt → LdSt) : State := { s with cxh := { s.cxh with lds := s.cxh.lds.upd n f } }

/-- Whether the device has been released: before that its hosts reach nothing (R513). -/
def State.released (s : State) : Bool := s.boot.phase == .released

/-! ### Epochs of the composition map (R12, R13, R474) -/

/-- The in-flight count of an epoch. -/
def State.compInflight (s : State) (ep : Nat) : Nat := (s.cmp.waiting.filter fun x => x.epoch == ep).length

/-- The LDs of the entries that an epoch's retirement frees, each with their number. -/
def freedOf (l : List (Nat × CompEntry)) : List (Nat × Nat) :=
  (List.range 32).filterMap fun n =>
    let k := (l.filter fun x => 16 * x.2.port + x.2.ld == n).length
    if k = 0 then none else some (n, k)

/-- The retiring epoch ends once its in-flight count is 0: its entries are freed (R473, step 4; R495). -/
def State.compRetire (s : State) : State :=
  match s.cmp.retiring with
  | none => s
  | some ep =>
    if s.compInflight ep ≠ 0 then s
    else
      let es := s.cmp.entries.filter fun x => x.2.releasing
      let s1 := s.setCmp fun x => { x with retiring := none, entries := es.foldl (fun m e => m.set e.1 default) x.entries }
      (s1.each (freedOf es) fun s x => s.evtPriv cmpPage 1 0xC3 0 (fieldAt 0 5 x.1 + fieldAt 32 12 x.2)).evt cmpPage 3

/-- A new epoch. EPOCH 0 stands for none in CMP_EPOCHS and is not reused. -/
def State.compEpoch (s : State) : State :=
  s.setCmp fun x => { x with retiring := some x.epoch, epoch := if x.epoch = 65535 then 1 else x.epoch + 1 }

/-- The answer of an FM API command. -/
def State.fmAnswer (s : State) (code : String) (ld : Nat) : State := s.emit (.msg code [ld] [])

/-- MAP_BUSY: a change of composition that would make a third epoch is refused and counted (R12, R474). -/
def State.mapBusy (s : State) (ep : Nat) : State := (s.bump 0 Reg.CMP_MAP_BUSY_CNT).evtPriv cmpPage 2 0xC4 0 ep

/-- A command that would create an epoch: refused with Busy while two exist, after the old one has been retired where it can be
(R13, R474). -/
def State.withEpoch (s : State) (ld : Nat) (f : State → State) : State :=
  let s1 := s.compRetire
  match s1.cmp.retiring with
  | none => f s1
  | some ep => (s1.mapBusy ep).fmAnswer "FM_BUSY" ld

/-! ### Binding channels (R469) -/

/-- Whether a mask names only enabled channels. -/
def State.maskOk (s : State) (mask : Nat) : Bool := decide (mask < 2 ^ 16) && (List.range 16).all fun c => !mask.testBit c || s.enabledCh c

/-- Whether a job that is bound to an LD is enabled on a channel of a mask. -/
def State.boundHere (s : State) (ld mask : Nat) : Bool :=
  (s.selsOf 0 Reg.CMP_JOB_LD).any fun j => s.rdB 0 Reg.CMP_JOB_LD 31 j && s.rdF 0 Reg.CMP_JOB_LD 4 0 j == ld &&
    s.channels.any fun c => mask.testBit c && s.jobEnabled c j

/-- Sets an LD's CHANNEL_MASK. -/
def State.setMask (s : State) (ld mask : Nat) : State :=
  ((s.wr (ld / 16) Reg.CXH_LD_CHAN (lo32 (mask % 2 ^ 16)) (ld % 16)).compEpoch).fmAnswer "FM_SUCCESS" ld

/-- An FM API command for an LD; the FM API reaches the device once it is released (R513). -/
def State.onFm (s : State) (ld : Nat) (f : State → State) : State := if s.released && decide (ld < 32) then f s else s

/-- BIND_CHANNEL (R469). -/
def execBindChannel (ld mask : Nat) (s : State) : Host.Outcome State Fault Refusal :=
  .next (s.onFm ld fun s =>
    if !s.maskOk mask then s.fmAnswer "FM_INVALID_INPUT" ld
    else s.withEpoch ld fun s => s.setMask ld (s.ldChans ld ||| mask))

/-- UNBIND_CHANNEL (R469). -/
def execUnbindChannel (ld mask : Nat) (s : State) : Host.Outcome State Fault Refusal :=
  .next (s.onFm ld fun s =>
    if !s.maskOk mask then s.fmAnswer "FM_INVALID_INPUT" ld
    else if s.boundHere ld mask then s.fmAnswer "FM_BUSY" ld
    else s.withEpoch ld fun s => s.setMask ld ((List.range 16).foldl (fun a c =>
      if (s.ldChans ld).testBit c && !mask.testBit c then a + 2 ^ c else a) 0))

/-! ### Dynamic capacity (R470 to R473) -/

/-- The requester number of an entry's LD. -/
def CompEntry.num (e : CompEntry) : Nat := 16 * e.port + e.ld

/-- An entry's length in bytes. -/
def CompEntry.bytes (e : CompEntry) : Nat := e.length * 0x200000

/-- Whether an entry is in use. -/
def CompEntry.used (e : CompEntry) : Bool := e.valid || e.pending || e.releasing

/-- Whether two ranges overlap. -/
def overlap (a n b m : Nat) : Bool := decide (a < b + m) && decide (b < a + n)

/-- The ranges of a channel's T1 that no extent may touch: plan banks, connection contexts, table region and page pool (R182). -/
def State.kept (s : State) (c : Nat) : List (Nat × Nat) :=
  let p := s.pgm c
  [(t1Base c, 10240 * 0x4000), (t1Base c + p.tblBase * 0x4000, p.tblUnits * 4096),
    (t1Base c + p.poolBase * 0x4000, p.poolSlots * 0x4000)]

/-- The side arrays of all coded regions: 1/64 of a region's size (R259). -/
def State.sideArrays (s : State) : List (Nat × Nat) :=
  s.channels.flatMap fun c => ((s.selsOf c Reg.ZRB_RGN_SLOTS).filter fun r => s.zrbBytes c r != 0).map fun r =>
    (s.rd64 c Reg.ZRB_RGN_SIDE_LO r, s.zrbBytes c r / 64)

/-- The channel of an extent, if it lies wholly in the T1 of a channel of its region. -/
def extentChannel (x : DcExtent) : Option Nat :=
  [2 * x.region, 2 * x.region + 1].find? fun c => decide (t1Base c ≤ x.stateBase) && decide (x.stateBase + x.length ≤ t1Base c + 0x800000000)

/-- The rules of R471 for one extent, against entries. Whether a DC region is shareable is the region's, as CDAT says it (R470, R489). -/
def State.extentOk (s : State) (ld : Nat) (es : List CompEntry) (x : DcExtent) : Bool :=
  let units := x.stateBase % 0x200000 == 0 && x.dpaBase % 0x200000 == 0 && x.length % 0x200000 == 0 && decide (0 < x.length)
  units && (match extentChannel x with
    | none => false
    | some c => s.enabledCh c && decide (x.region < 8) &&
        (s.kept c ++ s.sideArrays).all fun k => !overlap x.stateBase x.length k.1 k.2) &&
    es.all fun e => !(e.num == ld && overlap x.dpaBase x.length e.dpaBase e.bytes) &&
      (!overlap x.stateBase x.length e.stateBase e.bytes || (Config.regionShareable x.region && e.shared))

/-- The entry of an offered extent. -/
def extentEntry (x : DcExtent) (ld epoch : Nat) : CompEntry :=
  { valid := false, shared := Config.regionShareable x.region, pending := true, releasing := false, ld := ld % 16, port := ld / 16, region := x.region,
    epoch := epoch, length := x.length / 0x200000, stateBase := x.stateBase, dpaBase := x.dpaBase, tag := x.tag, relStep := 0 }

/-- Whether every extent keeps the rules, each also against those before it. -/
def State.extentsOk (s : State) (ld : Nat) : List CompEntry → List DcExtent → Bool
  | _, [] => true
  | es, x :: l => s.extentOk ld es x && s.extentsOk ld (extentEntry x ld 0 :: es) l

/-- The free entries, in order. -/
def State.freeEntries (s : State) : List Nat := (List.range 4096).filter fun i => !(s.cmp.entries.at i).used

/-- INITIATE_DYNAMIC_CAPACITY_ADD (R471, R472): all extents are offered, or none. -/
def execInitiateDynamicCapacityAdd (ld : Nat) (extents : List DcExtent) (s : State) : Host.Outcome State Fault Refusal :=
  .next (s.onFm ld fun s =>
    let es := (s.cmp.entries.filter fun e => e.2.used).map Prod.snd
    if !s.extentsOk ld es extents then s.fmAnswer "FM_INVALID_INPUT" ld
    else s.withEpoch ld fun s =>
      let free := s.freeEntries
      if free.length < extents.length then s.fmAnswer "FM_RESOURCES_EXHAUSTED" ld
      else
        let s1 := s.setCmp fun x => { x with
          entries := (free.zip extents).foldl (fun m y => m.set y.1 (extentEntry y.2 ld 0)) x.entries }
        (s1.emit (.msg "ADD_CAPACITY" (ld :: extents.map DcExtent.dpaBase) [])).fmAnswer "FM_SUCCESS" ld)

/-- ADD_DYNAMIC_CAPACITY_RESPONSE (R472): the host accepts extents, named by their DPA, and declines the LD's other offers. An answer
that would make a third epoch is refused with Busy (R12, R474); the offers stand (DESIGN CHOICE, log entry 29). -/
def execAddDynamicCapacityResponse (ld : Nat) (accepted : List Nat) (s : State) : Host.Outcome State Fault Refusal :=
  .next (s.onFm ld fun s =>
    let s1 := s.compRetire
    let mine := s1.cmp.entries.filter fun e => e.2.pending && e.2.num == ld
    let yes := mine.filter fun e => accepted.contains e.2.dpaBase
    if mine.isEmpty then s1
    else if yes.isEmpty then
      (s1.setCmp fun x => { x with entries := mine.foldl (fun m e => m.set e.1 default) x.entries }).evtPriv cmpPage 0 0xC2 0 ld
    else s1.withEpoch ld fun s1 =>
      let s2 := s1.compEpoch
      let put := fun (m : SMap CompEntry) (e : Nat × CompEntry) =>
        m.set e.1 (if accepted.contains e.2.dpaBase then { e.2 with valid := true, pending := false, epoch := s2.cmp.epoch }
                   else default)
      (s2.setCmp fun x => { x with entries := mine.foldl put x.entries }).evtPriv cmpPage 0 0xC2 0 (ld + fieldAt 32 12 yes.length))

/-- The lines of an entry that the filter records for its LD. -/
def State.heldBy (s : State) (e : CompEntry) : List Nat :=
  (s.cmp.filter.filter fun x => x.2.holders.contains e.num && decide (e.stateBase ≤ 64 * x.1) &&
    decide (64 * x.1 < e.stateBase + e.bytes)).map Prod.fst

/-- Steps 2 and 3 of R473: what is released is back-invalidated, and what no line holds any longer leaves in a new epoch. A step 3
that would make a third epoch is refused with MAP_BUSY, once, and is taken again when the old epoch is retired (DESIGN CHOICE, log
entry 29). -/
def State.releaseGo (s : State) : State :=
  let es := s.cmp.entries.filter fun e => e.2.valid && decide (2 ≤ e.2.relStep)
  let s1 := s.each es fun s e => s.each (s.heldBy e.2) fun s l => s.bisnp e.2.num l true
  let ready := es.filter fun e => (s1.heldBy e.2).isEmpty
  if ready.isEmpty then s1
  else
    let s2 := s1.compRetire
    match s2.cmp.retiring with
    | some ep =>
      let fresh := ready.filter fun e => e.2.relStep == 2
      if fresh.isEmpty then s2
      else (s2.setCmp fun x =>
        { x with entries := fresh.foldl (fun m e => m.set e.1 { e.2 with relStep := 3 }) x.entries }).mapBusy ep
    | none => (s2.setCmp fun x => { x with
      entries := ready.foldl (fun m e => m.set e.1 { e.2 with valid := false, releasing := true, relStep := 0 }) x.entries }).compEpoch

/-- INITIATE_DYNAMIC_CAPACITY_RELEASE (R473): for extents of the LD, named by their DPA. -/
def execInitiateDynamicCapacityRelease (ld : Nat) (dpas : List Nat) (forced : Bool) (s : State) : Host.Outcome State Fault Refusal :=
  .next (s.onFm ld fun s =>
    let es := s.cmp.entries.filter fun e => e.2.valid && e.2.num == ld && dpas.contains e.2.dpaBase
    if es.length ≠ dpas.length then s.fmAnswer "FM_INVALID_INPUT" ld
    else s.withEpoch ld fun s =>
      let k := if forced then 2 else 1
      let s1 := s.setCmp fun x => { x with entries := es.foldl (fun m e => m.set e.1 { e.2 with relStep := k }) x.entries }
      ((s1.when (!forced) fun s => s.emit (.msg "RELEASE_CAPACITY" (ld :: dpas) [])).fmAnswer "FM_SUCCESS" ld).releaseGo)

/-- RELEASE_DYNAMIC_CAPACITY (R473): the host gives back the extents that it was asked for. -/
def execReleaseDynamicCapacity (ld : Nat) (dpas : List Nat) (s : State) : Host.Outcome State Fault Refusal :=
  .next (s.onFm ld fun s =>
    let es := s.cmp.entries.filter fun e => e.2.valid && e.2.relStep == 1 && e.2.num == ld && dpas.contains e.2.dpaBase
    (s.setCmp fun x => { x with entries := es.foldl (fun m e => m.set e.1 { e.2 with relStep := 2 }) x.entries }).releaseGo)

/-- COMPOSITION_EPOCH_RETIRE (R473, R474). -/
def execCompositionEpochRetire (s : State) : Host.Outcome State Fault Refusal := .next (s.compRetire.releaseGo)

/-! ### CXL.mem requests (R474 to R478, R487) -/

/-- The state address to which an LD's DPA maps under the active epoch, if composition is enabled (R475, R494). -/
def State.compMap (s : State) (ld dpa : Nat) : Option Nat :=
  if !s.rdB 0 Reg.CMP_CFG 0 then none
  else (s.cmp.entries.find? fun e => e.2.valid && e.2.num == ld && decide (e.2.dpaBase ≤ dpa) &&
    decide (dpa < e.2.dpaBase + e.2.bytes)).map fun e => e.2.stateBase + (dpa - e.2.dpaBase)

/-- A read's answer. -/
def State.memData (s : State) (ld dpa : Nat) (bad : Bool) (bs : List Byte) : State :=
  (s.when bad fun s => s.bump (ld / 16) Reg.CXH_POISON_TX_CNT).emit
    (.msg "MEM_DATA" [ld, dpa, b2n bad] (if bad then List.replicate 64 0 else bs))

/-- A write's answer. -/
def State.memCmp (s : State) (ld dpa : Nat) : State := s.emit (.msg "MEM_CMP" [ld, dpa] [])

/-- The set of a line: its number modulo the 524,288 sets (DESIGN CHOICE, log entry 29). -/
def bifSet (line : Nat) : Nat := line % 524288

/-- The entry of a line once a read has been served (R476). -/
def BifEntry.reads (e : BifEntry) (ld want : Nat) : BifEntry :=
  if want = 0 then e
  else if want = 2 then { e with there := true, holdA := some ld, holdS := [] }
  else if e.holdA = some ld then e
  else { e with there := true, holdS := (e.holdS.filter fun k => k != ld) ++ [ld] }

/-- Whether the device withholds an extent's memory: its channel is quarantined, recovering or OUT, or a device-fatal fault stands
(R487, R528). -/
def State.withheld (s : State) (a : Nat) : Bool := !s.serves (t1Channel a)

/-- Serves a host access on memory, or answers it as R487 has it where the device withholds the memory by then; or makes a write of the
device that waited. -/
def State.hostServe (s : State) (x : HostAccess) (e : BifEntry) : State :=
  let s1 := s.setCmp fun y => { y with waiting := y.waiting.erase x }
  if x.ld = devLd then (if x.mark = 0 then (s1.t2Send x.job x.addr x.data.length true).hwrite x.addr x.data x.job else s1.hmark x.addr x.mark)
  else if s.withheld x.addr then
    (if x.write then (s1.bump (x.ld / 16) Reg.CXH_DISCARD_WR_CNT).memCmp x.ld x.dpa else s1.memData x.ld x.dpa true [])
  else if x.write then (((s1.hwrite x.addr x.data).bump (x.ld / 16) Reg.CXH_MEM_WR_CNT).memCmp x.ld x.dpa)
  else
    let bad := s1.vpoison x.addr 64
    let s2 := ((s1.touch noJob x.addr 64).bump (x.ld / 16) Reg.CXH_MEM_RD_CNT).memData x.ld x.dpa bad (s1.vread x.addr 64)
    s2.setCmp fun y => { y with filter := y.filter.set (x.addr / 64) (e.reads x.ld x.want) }

/-- The waiting reads of a set whose lines need an entry. -/
def State.bifNeed (s : State) (k : Nat) : Nat :=
  ((s.cmp.waiting.filter fun x => !x.write && x.want != 0 && bifSet (x.addr / 64) == k && !(s.cmp.filter.at (x.addr / 64)).there).map
    fun x => x.addr / 64).eraseDups.length

/-- An access whose line needs an entry in a full set: an entry without outstanding snoops is evicted first, one for each that needs a
place (R478). -/
def State.bifEvict (s : State) (k : Nat) (es : List (Nat × BifEntry)) : State :=
  let busy := fun (line : Nat) => s.cmp.snoops.any fun y => y.line == line
  if s.bifNeed k ≤ (es.filter fun e => e.2.leaving).length then s
  else match roundRobin 16 (s.cmp.wayPtr.at k) fun w => es.any fun e => e.2.way == w && !busy e.1 with
    | none => s
    | some w => match es.find? fun e => e.2.way == w with
      | none => s
      | some v =>
        (((s.setCmp fun y => { y with
          wayPtr := y.wayPtr.set k ((w + 1) % 16), filter := y.filter.set v.1 { v.2 with leaving := true } }).bump 0
            Reg.CXH_BIF_EVICT_CNT)).each v.2.holders
          fun s n => s.bisnp n v.1 true

/-- The holders that a waiting access has snooped: line and holder. -/
def State.hostSnoops (s : State) (x : HostAccess) : List (Nat × Nat) :=
  (List.range (x.lines.2 + 1 - x.lines.1)).flatMap fun k =>
    (((s.cmp.filter.at (x.lines.1 + k)).toSnoop (x.write || x.want == 2)).filter fun n => n != x.ld).map fun n => (x.lines.1 + k, n)

/-- A waiting access: other holders are snooped, a place in the filter is made, or it is served. Accesses to one line keep their
order. -/
def State.hostTry (s : State) (x : HostAccess) : State :=
  let e := s.cmp.filter.at (x.addr / 64)
  let first := (s.cmp.waiting.find? fun y => decide (y.lines.1 ≤ x.lines.2) && decide (x.lines.1 ≤ y.lines.2)) == some x
  let others := s.hostSnoops x
  if !first then s
  else if !others.isEmpty then s.each others fun s n => s.bisnp n.2 n.1 (x.write || x.want == 2)
  else if e.there || x.write || x.want == 0 then s.hostServe x e
  else
    let k := bifSet (x.addr / 64)
    let es := s.cmp.filter.filter fun y => bifSet y.1 == k && y.2.there
    match (List.range 16).find? fun w => !es.any fun y => y.2.way == w with
    | some w => s.hostServe x { e with way := w }
    | none => s.bifEvict k es

/-- Every waiting host access is tried. -/
def State.hostGo (s : State) : State := s.each s.cmp.waiting fun s x => s.hostTry x

/-- Whether a port carries CXL.mem traffic: its link is up, and every IDE stream that is configured is secure (R488). -/
def State.portCarries (s : State) (p : Nat) : Bool :=
  let x := s.cxh.ports.at p
  x.linkUp && (!x.ioKeys || x.ideIo) && (!x.cmKeys || x.ideCm)

/-- A CXL.mem request of an LD: unsupported where the LD is not enabled (R467). -/
def State.onMem (s : State) (ld dpa : Nat) (f : State → State) : State :=
  if !s.released || !decide (ld < 32) || !s.portCarries (ld / 16) then s
  else if !s.ldEnabled ld then s.emit (.msg "MEM_UR" [ld, dpa] [])
  else f s

/-- Whether an LD writes back a line for which it owes a BIRsp. -/
def State.writesBack (s : State) (ld a : Nat) : Bool :=
  (s.cmp.filter.at (a / 64)).holders.contains ld && s.cmp.snoops.any fun y => y.ld == ld && y.line == a / 64

/-- CMP decodes a read: it takes the ACTIVE epoch (R474). -/
def State.memRead (s : State) (ld d want : Nat) : State :=
  if s.ras.fatal.isSome then s.memData ld d true []
  else match s.compMap ld d with
    | none => (s.bump (ld / 16) Reg.CXH_UNMAPPED_CNT).memData ld d true []
    | some a =>
      if s.withheld a then s.memData ld d true []
      else (s.setCmp fun x => { x with
        waiting := x.waiting ++ [⟨ld, d, a, false, want, [], x.epoch, noJob, 0⟩] }).hostGo

/-- CMP decodes a write. What a holder writes back is served at once. -/
def State.memWrite (s : State) (ld dpa : Nat) (bs : List Byte) : State :=
  match s.compMap ld dpa with
  | none => (s.bump (ld / 16) Reg.CXH_UNMAPPED_CNT).memCmp ld dpa
  | some a =>
    if s.withheld a then (s.bump (ld / 16) Reg.CXH_DISCARD_WR_CNT).memCmp ld dpa
    else
      let x : HostAccess := ⟨ld, dpa, a, true, 0, bs, s.cmp.epoch, noJob, 0⟩
      let s1 := s.setCmp fun y => { y with waiting := y.waiting ++ [x] }
      if s.writesBack ld a then s1.hostServe x (s.cmp.filter.at (a / 64)) else s1.hostGo

/-- A request that reaches CMP while it accepts no work waits until it does (R7; DESIGN CHOICE, log entry 61). -/
def State.cmpWait (s : State) (x : HostAccess) : State := s.setCmp fun y => { y with later := y.later ++ [x] }

/-- CMP accepts work again: the requests that waited for that are decoded, in order. -/
def State.cmpLater (s : State) : State :=
  (s.setCmp fun y => { y with later := [] }).each s.cmp.later fun s x =>
    if x.write then s.memWrite x.ld x.dpa x.data else s.memRead x.ld x.dpa x.want

/-- CXL_MEM_READ (R475 to R477, R487): a read of a line, asking for no copy (0), for S (1) or for A (2). -/
def execCxlMemRead (ld dpa want : Nat) (s : State) : Host.Outcome State Fault Refusal :=
  let d := dpa / 64 * 64
  .next (s.onMem ld d fun s =>
    if s.ready cmpPage then s.memRead ld d want else s.cmpWait ⟨ld, d, 0, false, want, [], 0, noJob, 0⟩)

/-- CXL_MEM_WRITE (R475 to R477, R487): a write of a line, or of part of one. What a holder writes back belongs to work under way, and is
taken whether or not CMP accepts more. -/
def execCxlMemWrite (ld dpa : Nat) (data : List Byte) (s : State) : Host.Outcome State Fault Refusal :=
  .next (s.onMem ld dpa fun s =>
    let bs := data.take (64 - dpa % 64)
    if s.ready cmpPage || (s.compMap ld dpa).any (s.writesBack ld) then s.memWrite ld dpa bs
    else s.cmpWait ⟨ld, dpa, 0, true, 0, bs, 0, noJob, 0⟩)

/-! ### Shares (R482 to R484) -/

/-- The share record that a command names. -/
def State.share (s : State) (n : Nat) : Share := s.cmp.shares.at n

/-- A share that a command may use: VALID and of the job's tenant (R482). -/
def State.shareOk (s : State) (c : Nat) (cmd : Cmd) (n : Nat) : Bool := (s.share n).valid && (s.share n).tenant == s.tenant c cmd.job

/-- SHARE_SET (R482). -/
def execShareSet (c : Nat) (cmd : Cmd) (s : State) : Host.Outcome State Fault Refusal :=
  let n := nfld (recNat cmd.payload 0 2) 9 0
  .next (s.control c cmd fun s => if (s.share n).valid then s.complete c cmd 0x0A
    else (s.setCmp fun x => { x with
      shares := x.shares.set n ⟨true, s.tenant c cmd.job, 0, 0, 0, recNat cmd.payload 8 8⟩ }).complete c cmd 0)

/-- SHARE_QUERY (R482). -/
def execShareQuery (c : Nat) (cmd : Cmd) (s : State) : Host.Outcome State Fault Refusal :=
  let n := nfld (recNat cmd.payload 0 2) 9 0
  .next (s.control c cmd fun s =>
    let r := s.share n
    if s.shareOk c cmd n then s.complete c cmd 0 (leBytes 8 r.version ++ leBytes 8 r.liveAddr ++ leBytes 8 r.liveLen)
    else s.complete c cmd 0xC1)

/-- The update of a share by the first of its publishes (R483, R484). -/
def State.publishEnd (s : State) (p : PendingPublish) : State :=
  let r := s.share p.share
  let s1 := s.setCmp fun x => { x with publishes := x.publishes.erase p }
  if r.version ≠ p.expect then (s1.bump 0 Reg.CMP_CONFLICT_CNT).complete p.ch p.cmd 0xC0 (leBytes 8 r.version)
  else
    let s2 := (s1.setCmp fun x => { x with
      shares := x.shares.set p.share { r with version := p.new, liveAddr := p.addr, liveLen := p.len } }).bump 0 Reg.CMP_PUBLISH_CNT
    (s2.when (r.mirror != 0) fun s => s.vwrite r.mirror (leBytes 8 p.new ++ leBytes 8 p.addr)).complete p.ch p.cmd 0

/-- The publishes that wait, in the order in which they arrived: the first of each share goes on once no host holds a line of its
range (R484). -/
def State.publishGo (s : State) : State :=
  s.each s.cmp.publishes fun s p =>
    if (s.cmp.publishes.find? fun q => q.share == p.share) ≠ some p then s
    else if (s.share p.share).version ≠ p.expect then s.publishEnd p
    else s.afterSnoops [(p.addr, p.len, true)] fun s => s.publishEnd p

/-- PUBLISH (R483). -/
def execPublish (c : Nat) (cmd : Cmd) (s : State) : Host.Outcome State Fault Refusal :=
  let n := nfld (recNat cmd.payload 0 2) 9 0
  let p : PendingPublish :=
    { ch := c, cmd := cmd, share := n, expect := recNat cmd.payload 8 8, new := recNat cmd.payload 0x10 8,
      addr := recNat cmd.payload 0x18 8, len := recNat cmd.payload 0x20 8 }
  .next (s.control c cmd fun s0 =>
    if !s0.shareOk c cmd n then s0.complete c cmd 0xC1
    else if p.new = p.expect then s0.complete c cmd 0x0A
    else if !s0.rangeInRegion c cmd.job p.addr p.len false then s0.faultHolder c 0 cmd ⟨3, false, p.addr⟩ false false
    else ((s0.handOver c cmd).setCmp fun x => { x with publishes := x.publishes ++ [p] }).publishGo)

/-! ### BIRsp and containment (R477, R485, R486) -/

/-- Everything that waits for snoops is tried. -/
def State.snoopsDone (s : State) : State := ((s.hostGo).publishGo).releaseGo

/-- BIRSP (R477): a holder answers; it keeps no copy (0) or one in S (1). The access that waited proceeds with the last answer, so a
holder that says it keeps A (2) is recorded in S (DESIGN CHOICE, log entry 29). -/
def execBirsp (ld line keeps : Nat) (s : State) : Host.Outcome State Fault Refusal :=
  .next (match s.cmp.snoops.find? fun x => x.ld == ld && x.line == line with
    | none => s
    | some x =>
      let e := s.cmp.filter.at line
      let e1 := if x.inv ∨ keeps = 0 then e.without ld
        else if e.holdA = some ld then { e with holdA := none, holdS := e.holdS ++ [ld] }
        else e
      (s.setCmp fun y => { y with snoops := y.snoops.erase x, filter := y.filter.set line e1 }).snoopsDone)

/-- Containment of an LD (R485). -/
def State.contain (s : State) (ld cause : Nat) : State :=
  let lost := (s.cmp.filter.filter fun x => x.2.holdA == some ld).map Prod.fst
  let s1 := s.setCmp fun x => { x with
    snoops := x.snoops.filter fun y => y.ld != ld,
    filter := x.filter.foldl (fun m e => m.set e.1 (e.2.without ld)) x.filter }
  let s2 := (s1.each lost fun s l => s.hmark (64 * l) 64).updLd ld fun x => { x with contained := true }
  (((s2.bump (ld / 16) Reg.CXH_CONTAINED_CNT lost.length).evtPriv (cxhPage (ld / 16)) 0 0xC0 cause
    (fieldAt 0 5 ld + fieldAt 32 32 lost.length))).snoopsDone

/-- The elapsed time at which the oldest BISnp to an LD times out. -/
def State.biDue (s : State) (ld : Nat) : Option Nat :=
  match s.cmp.snoops.filter fun x => x.ld == ld with
  | [] => none
  | x :: l => some (l.foldl (fun m y => min m y.sentAt) x.sentAt + s.rdF (ld / 16) Reg.CXH_BI_CFG 15 0 * 1000)

/-- BI_TIMEOUT (R485): time passes until a BISnp to the LD has gone unanswered for BI_TIMEOUT_US. -/
def execBiTimeout (ld : Nat) (s : State) : Host.Outcome State Fault Refusal :=
  .next (match s.biDue ld with
    | none => s
    | some t => ((s.passToNow t).bump (ld / 16) Reg.CXH_BI_TIMEOUT_CNT).contain ld 1)

/-- LD_RESET (R485): the reset function has MSI-X disabled. -/
def execLdReset (ld : Nat) (s : State) : Host.Outcome State Fault Refusal :=
  .next (if ld < 32 then (s.contain ld 2).updLd ld fun x => { x with msix := false } else s)

/-- T2 accesses in flight through a port are cut off: a read brings poison, a write fails (R481). -/
def State.cutT2 (s : State) (p : Nat) : State :=
  let through := fun (a : Nat) => inT2 a && s.t2Port a == some p
  s.each s.channels fun s c =>
    let s1 := s.each ((s.pgm c).moves.filterMap fun m => m.2.map fun x => (m.1, x)) fun s m =>
      if m.2.src.tier = 2 ∧ through m.2.src.addr = true then s.updMove c m.1 fun x => x.spoil 2
      else if m.2.dst.tier = 2 ∧ through m.2.dst.addr = true then
        (s.updMove c m.1 fun x => { x with isOver := 3 }).bump p Reg.CXH_T2_FAIL_CNT
      else s
    match (s1.engine c 2).holder with
    | none => s1
    | some cmd =>
      if cmd.op ≠ 0x040 ∧ cmd.op ≠ 0x041 then s1
      else
        let r := s1.dmvRun c cmd
        let reads := (chunkSrc r).any fun x => match (s1.translateRange c cmd.job x.1 x.2 false (x.2 / 4096 + 2)).2 with
          | .ok l => l.any fun y => through y.1
          | .error _ => false
        let o := if cmd.op = 0x040 then 4096 * r.chunk else 0
        let writes := match (s1.translateRange c cmd.job (dmvDst cmd + o) 1 true 2).2 with
          | .ok l => l.any fun y => through y.1
          | .error _ => false
        (s1.when (reads || writes) fun s => s.setDmvRun c cmd.job (some { r with fail := 0x21 })).when (writes && !reads) fun s =>
          s.bump p Reg.CXH_T2_FAIL_CNT

/-- Whether a port fault contains an LD: it is enabled, or holds a line or owes a BIRsp (R486; that an LD with neither posts nothing is
DEDUCED from the worked example of the host port's chapter, log entry 29). -/
def State.ldAtWork (s : State) (n : Nat) : Bool :=
  s.ldEnabled n || s.cmp.filter.any (fun e => e.2.holders.contains n) || s.cmp.snoops.any fun y => y.ld == n

/-- HOST_PORT_FAULT (R486). -/
def execHostPortFault (port : Nat) (why : PortFault) (s : State) : Host.Outcome State Fault Refusal :=
  let cause := match why with
    | .linkLoss => 1
    | .linkError => 2
    | .ideFailure => 3
  .next (if 2 ≤ port then s
    else
      let s1 := (s.setCmp fun x => { x with
        waiting := x.waiting.filter fun y => y.ld / 16 != port, later := x.later.filter fun y => y.ld / 16 != port }).updPort port fun x =>
        { x with linkUp := false, speed := 0, width := 0, ideIo := false, ideCm := false }
      let lds := ((List.range 16).map fun k => 16 * port + k).filter s.ldAtWork
      let s2 := s1.each lds fun s n => (s.contain n 3).updLd n fun x => { x with msix := false }
      (((s2.cutT2 port).bump port Reg.CXH_PORT_RESET_CNT).evtPriv (cxhPage port) 1 0xC1 cause port))

/-- LINK_UP (R486): a port has finished training at a speed (0 to 3) and a width (8 or 16). -/
def execLinkUp (port speed width : Nat) (s : State) : Host.Outcome State Fault Refusal :=
  .next (if port < 2 then s.updPort port fun x => { x with linkUp := true, speed := speed % 4, width := if width = 8 then 8 else 16 } else s)

/-- CONFIGURATION_REQUEST (R467, R513): retry status before release, unsupported where the LD is not enabled; a write may enable or
disable MSI-X. -/
def execConfigurationRequest (ld : Nat) (msix : Option Bool) (s : State) : Host.Outcome State Fault Refusal :=
  .next (if 32 ≤ ld then s
    else if !s.released then s.emit (.msg "CFG_RETRY" [ld] [])
    else if !s.ldEnabled ld then s.emit (.msg "CFG_UR" [ld] [])
    else
      (match msix with
        | some b => s.updLd ld fun x => { x with msix := b, contained := x.contained && !b }
        | none => s).emit (.msg "CFG_CPL" [ld] []))

/-! ### Status registers (R492, R494) -/

/-- CXH_STATUS. -/
def State.cxhStatus (s : State) (p : Nat) : Word :=
  let x := s.cxh.ports.at p
  let up := x.linkUp
  BitVec.ofNat 32 (b2n up + (if up then fieldAt 1 3 x.speed + fieldAt 4 5 x.width else 0) + fieldAt 9 1 (b2n x.ideIo) +
    fieldAt 10 1 (b2n x.ideCm) + fieldAt 11 1 (b2n x.viral) +
    (((List.range 16).filter fun k => s.ldEnabled (16 * p + k)).map fun k => 2 ^ (16 + k)).sum)

/-- CMP_EPOCHS. -/
def State.cmpEpochs (s : State) : Word := BitVec.ofNat 32 (s.cmp.epoch + fieldAt 16 16 (s.cmp.retiring.getD 0))

/-- CMP_RETIRE_INFLIGHT. -/
def State.cmpInflight (s : State) : Word := match s.cmp.retiring with
  | none => 0
  | some ep => lo32 (min (2 ^ 32 - 1) (s.compInflight ep))

/-- CMP_ENT_USED. -/
def State.cmpUsed (s : State) : Word := lo32 (s.cmp.entries.filter fun e => e.2.used).length

/-- CMP_BIF_USED. -/
def State.bifUsed (s : State) : Word := lo32 (s.cmp.filter.filter fun e => e.2.there).length

/-- The 32 bytes of an entry (R470). -/
def CompEntry.bytesOf (e : CompEntry) : List Byte :=
  leBytes 4 (b2n e.valid + fieldAt 1 1 (b2n e.shared) + fieldAt 2 1 (b2n e.pending) + fieldAt 3 1 (b2n e.releasing) + fieldAt 4 4 e.ld +
    fieldAt 8 1 e.port + fieldAt 9 3 e.region + fieldAt 16 16 e.epoch) ++ leBytes 4 e.length ++ leBytes 8 e.stateBase ++
    leBytes 8 e.dpaBase ++ leBytes 4 e.tag ++ leBytes 4 0

/-- The 32 bytes of a share as CMP_SHARE shows it. -/
def Share.bytesOf (r : Share) : List Byte := leBytes 8 r.version ++ leBytes 8 r.liveAddr ++ leBytes 8 r.liveLen ++ leBytes 8 r.mirror

end Sys2Proof.Machine
end

