-- ==== Sys2Proof/Machine/Identity.lean ====
section
/-! DEFINITION. DOE, CDAT, IDE keys, and SPDM (R488, R489, R521 to R523). An SPDM transport is an LD's DOE mailbox, by requester number,
or the management interface, 32. -/
namespace Sys2Proof.Machine

/-- The management interface as an SPDM transport. -/
def mctp : Nat := 32

/-- SEC's page. -/
def secPage : Page := ⟨.sec, 0⟩

/-- Changes SEC's state. -/
def State.setSec (s : State) (f : Sec → Sec) : State := { s with sec := f s.sec }

/-- A transport's SPDM state. -/
def State.spdm (s : State) (t : Nat) : SpdmPort := s.sec.spdm.at t

/-- Changes a transport's SPDM state. -/
def State.updSpdm (s : State) (t : Nat) (f : SpdmPort → SpdmPort) : State :=
  s.setSec fun x => { x with spdm := x.spdm.upd t f }

/-- Whether a DOE mailbox can be reached: it is unreachable before RELEASED (R467, R513). -/
def State.doeUp (s : State) (ld : Nat) : Bool := s.released && decide (ld < 32) && s.ldEnabled ld

/-- Whether a transport can be reached. -/
def State.spdmUp (s : State) (t : Nat) : Bool := if t = mctp then s.released else s.doeUp t

/-- The answer to an SPDM request (R532). -/
def State.spdmSay (s : State) (name : String) (t : Nat) (args : List Nat) (data : List Byte) : State :=
  (s.bump 0 Reg.SEC_SPDM_CNT).emit (.msg name (t :: args) data)

/-- An SPDM error. -/
def State.spdmError (s : State) (t : Nat) (why : String) : State := s.spdmSay why t [] []

/-- A request once the algorithms are negotiated; earlier it is unexpected (PRESUMED from SPDM, log entry 31). -/
def State.onSpdm (s : State) (t : Nat) (f : State → State) : State :=
  if !s.spdmUp t then s
  else if (s.spdm t).negotiated then f s
  else s.spdmError t "SPDM_UNEXPECTED_REQUEST"

/-! ### Connection (R523) -/

/-- GET_VERSION (R523): the versions 1.2 and 1.3. It begins the connection anew (PRESUMED from SPDM, log entry 31). -/
def execGetVersion (t : Nat) (s : State) : Host.Outcome State Fault Refusal :=
  .next (s.when (s.spdmUp t) fun s =>
    (s.updSpdm t fun x => { x with gotVersion := true, gotCaps := false, negotiated := false, version := 0 }).spdmSay "SPDM_VERSION" t
      [0x12, 0x13] [])

/-- GET_CAPABILITIES (R523): under version 1.2 or 1.3. -/
def execGetCapabilities (t version : Nat) (s : State) : Host.Outcome State Fault Refusal :=
  .next (s.when (s.spdmUp t) fun s =>
    if !(s.spdm t).gotVersion then s.spdmError t "SPDM_UNEXPECTED_REQUEST"
    else if version ≠ 0x12 ∧ version ≠ 0x13 then s.spdmError t "SPDM_VERSION_MISMATCH"
    else (s.updSpdm t fun x => { x with gotCaps := true, version := version }).spdmSay "SPDM_CAPABILITIES" t [version] [])

/-- NEGOTIATE_ALGORITHMS (R523): whether the requester offers ECDSA P-256, SHA-256, AES-256-GCM and secp256r1, in that order; all four
are selected, and nothing else can be. -/
def execNegotiateAlgorithms (t : Nat) (offers : List Bool) (s : State) : Host.Outcome State Fault Refusal :=
  .next (s.when (s.spdmUp t) fun s =>
    if !(s.spdm t).gotCaps then s.spdmError t "SPDM_UNEXPECTED_REQUEST"
    else if offers.length < 4 ∨ (offers.take 4).contains false then s.spdmError t "SPDM_INVALID_REQUEST"
    else (s.updSpdm t fun x => { x with negotiated := true }).spdmSay "SPDM_ALGORITHMS" t [1, 1, 1, 1] [])

/-! ### Certificates and measurements (R519, R521, R522) -/

/-- What an unlisted NOR byte reads as: an erased one (PRESUMED for NOR flash, log entry 32). -/
def norErased : Nat → Byte := fun _ => 0xFF

/-- NOR bytes; the address wraps at 256 MiB. -/
def State.norRead (s : State) (a n : Nat) : List Byte :=
  (List.range n).map fun i => SMap.get norErased s.boot.nor ((a + i) % 2 ^ 28)

/-- The base and the length of the NOR range of the certificate chain (R519). -/
def chainBase : Nat := 0x0FF00000
def chainSize : Nat := 0x00100000

/-- The certificate chain: its first two bytes give its length (PRESUMED from SPDM, log entry 31). -/
def State.certChain (s : State) : List Byte := s.norRead chainBase (leNat (s.norRead chainBase 2))

/-- GET_DIGESTS (R523): for slot 0 only. -/
def execGetDigests (t slot : Nat) (s : State) : Host.Outcome State Fault Refusal :=
  .next (s.onSpdm t fun s =>
    if slot ≠ 0 then s.spdmError t "SPDM_INVALID_REQUEST" else s.spdmSay "SPDM_DIGESTS" t [0] (sha256 s.certChain))

/-- GET_CERTIFICATE (R523): for slot 0 only. -/
def execGetCertificate (t slot off len : Nat) (s : State) : Host.Outcome State Fault Refusal :=
  .next (s.onSpdm t fun s =>
    if slot ≠ 0 then s.spdmError t "SPDM_INVALID_REQUEST"
    else
      let d := (s.certChain.drop off).take len
      s.spdmSay "SPDM_CERTIFICATE" t [0, off, d.length, s.certChain.length - off - d.length] d)

/-- A signature of the identity key: it depends on a nonce and on SPDM's transcript, so its bytes are free (log entry 6). -/
def State.signed (s : State) : List Byte × State := s.drawBytes 64

/-- CHALLENGE (R521, R523). -/
def execChallenge (t slot : Nat) (s : State) : Host.Outcome State Fault Refusal :=
  .next (s.onSpdm t fun s =>
    if slot ≠ 0 then s.spdmError t "SPDM_INVALID_REQUEST"
    else
      let (sig, s1) := s.signed
      s1.spdmSay "SPDM_CHALLENGE_AUTH" t [0] (sha256 s.certChain ++ sig))

/-- The measurement at an index; none if it is unused (R522). -/
def State.measurement (s : State) (i : Nat) : Option (List Byte) :=
  let m := s.sec.meas.at i
  if m.isEmpty then none else some m

/-- The indices that hold a measurement. -/
def State.measured (s : State) : List Nat := (List.range 30).filter fun i => (s.measurement i).isSome

/-- GET_MEASUREMENTS (R522, R523): index 0 asks for their number, 0xFF for all, any other for one. -/
def execGetMeasurements (t index : Nat) (signed : Bool) (s : State) : Host.Outcome State Fault Refusal :=
  .next (s.onSpdm t fun s =>
    let l := if index = 0xFF then s.measured else s.measured.filter fun i => i == index
    if index ≠ 0 ∧ l = [] then s.spdmError t "SPDM_INVALID_REQUEST"
    else
      let (sig, s1) := if signed then s.signed else ([], s)
      s1.spdmSay "SPDM_MEASUREMENTS" t (if index = 0 then [s.measured.length] else l) (l.flatMap (fun i => s.sec.meas.at i) ++ sig))

/-! ### Sessions (R523) -/

/-- The place of a transport: CXH0, CXH1, or the management interface. -/
def spdmPlace (t : Nat) : Nat := t / 16

/-- The sessions of a place. -/
def State.placeSessions (s : State) (p : Nat) : List SpdmSession :=
  (s.sec.spdm.filter fun e => spdmPlace e.1 == p).flatMap fun e => e.2.sessions

/-- The most sessions of a place. -/
def placeLimit (p : Nat) : Nat := if p = 2 then 2 else 4

/-- The lowest number that no session of a place has in the upper half of its ID (DESIGN CHOICE, log entry 31). -/
def State.freeSession (s : State) (p : Nat) : Nat :=
  ((List.range 5).find? fun n => !(s.placeSessions p).any fun x => x.id / 65536 == n).getD 0

/-- KEY_EXCHANGE (R523): opens a session, or is refused with Busy. -/
def execKeyExchange (t slot reqId : Nat) (s : State) : Host.Outcome State Fault Refusal :=
  .next (s.onSpdm t fun s =>
    let p := spdmPlace t
    if slot ≠ 0 then s.spdmError t "SPDM_INVALID_REQUEST"
    else if placeLimit p ≤ (s.placeSessions p).length then s.spdmError t "SPDM_BUSY"
    else
      let id := reqId % 65536 + 65536 * s.freeSession p
      let (sig, s1) := s.signed
      (s1.updSpdm t fun x => { x with sessions := x.sessions ++ [⟨id, false, 0⟩] }).spdmSay "SPDM_KEY_EXCHANGE_RSP" t [id] sig)

/-- A request within a session of the transport. -/
def State.onSession (s : State) (t id : Nat) (established : Bool) (f : State → State) : State :=
  s.onSpdm t fun s =>
    if (s.spdm t).sessions.any fun x => x.id == id && x.established == established then f s
    else s.spdmError t "SPDM_SESSION_REQUIRED"

/-- Changes a session. -/
def State.updSession (s : State) (t id : Nat) (f : SpdmSession → SpdmSession) : State :=
  s.updSpdm t fun x => { x with sessions := x.sessions.map fun y => if y.id = id then f y else y }

/-- FINISH (R523): the session is established. -/
def execFinish (t session : Nat) (s : State) : Host.Outcome State Fault Refusal :=
  .next (s.onSession t session false fun s =>
    (s.updSession t session fun x => { x with established := true }).spdmSay "SPDM_FINISH_RSP" t [session] [])

/-- END_SESSION (R523). -/
def execEndSession (t session : Nat) (s : State) : Host.Outcome State Fault Refusal :=
  .next (s.onSession t session true fun s =>
    (s.updSpdm t fun x => { x with sessions := x.sessions.filter fun y => y.id != session }).spdmSay "SPDM_END_SESSION_ACK" t [session] [])

/-- KEY_UPDATE (R523). -/
def execKeyUpdate (t session : Nat) (s : State) : Host.Outcome State Fault Refusal :=
  .next (s.onSession t session true fun s =>
    (s.updSession t session fun x => { x with keyGen := x.keyGen + 1 }).spdmSay "SPDM_KEY_UPDATE_ACK" t [session] [])

/-- SEC_SESSIONS (R532). -/
def State.secSessions (s : State) : Word :=
  let n := fun p => (s.placeSessions p).length
  BitVec.ofNat 32 (fieldAt 0 4 (n 0) + fieldAt 4 4 (n 1) + fieldAt 8 2 (n 2))

/-! ### DOE and IDE (R488, R489) -/

/-- DOE_DISCOVERY (R488): the protocols by index: DOE discovery, CMA/SPDM, secured CMA/SPDM, and table access; the next index, 0 after
the last. -/
def execDoeDiscovery (ld index : Nat) (s : State) : Host.Outcome State Fault Refusal :=
  .next (s.when (s.doeUp ld) fun s =>
    let i := min index 3
    s.emit (.msg "DOE_PROTOCOL" [ld, i, (i + 1) % 4] []))

/-- The CDAT entries of a DC region (R489): handle, DPA base and length, whether it is shareable, the EFI memory type and attribute
(conventional memory, specific purpose), latencies in ns and bandwidths in MB/s, reads first. -/
def cdatOf (r : Nat) : List Nat :=
  [r, r * 2 ^ 36, 2 ^ 36, b2n (Config.regionShareable r), 1, 1, 600, 400, 128000, 128000]

/-- CDAT_READ (R489). -/
def execCdatRead (ld : Nat) (s : State) : Host.Outcome State Fault Refusal :=
  .next (s.when (s.doeUp ld) fun s => s.emit (.msg "CDAT" (ld :: (List.range 8).flatMap cdatOf) []))

/-- A stream of a port goes secure, where its keys are there and the link is up. -/
def State.ideStart (s : State) (p : Nat) (io skid : Bool) : State :=
  s.updPort p fun x =>
    if io then { x with ideIo := x.ioKeys && x.linkUp } else { x with ideCm := x.cmKeys && x.linkUp, skid := skid }

/-- IDE_KM (R488): keys for a stream of the LD's port, CXL.io (`io`) or CXL.cachemem, over an established session of its mailbox: they
are programmed, the stream goes secure where it has keys, in containment mode or skid mode, or it stops. -/
def execIdeKm (ld session : Nat) (step : IdeStep) (io : Bool) (s : State) : Host.Outcome State Fault Refusal :=
  .next (s.when (decide (ld < 32)) fun s => s.onSession ld session true fun s =>
    let p := ld / 16
    let s1 := match step with
      | .program => s.updPort p fun x => if io then { x with ioKeys := true } else { x with cmKeys := true }
      | .start => s.ideStart p io false
      | .startSkid => s.ideStart p io true
      | .stop => s.updPort p fun x => if io then { x with ideIo := false } else { x with ideCm := false }
    (s1.spdmSay "IDE_KM_ACK" ld [session, b2n io] []).hostGo)

end Sys2Proof.Machine
end

