-- ==== Sys2Proof/Machine/Image.lean ====
section
/-! DEFINITION. The configuration image and the checks of the boot ROM (R517, R518, R526). -/
namespace Sys2Proof.Machine

/-- A directory entry of an image (R517). -/
structure ImgSection where
  type : Nat
  mask : Nat
  off : Nat
  len : Nat
  deriving DecidableEq, Repr

/-- IMAGE_LEN (R517). -/
def imgLen (img : List Byte) : Nat := recNat img 8 4

/-- SVN of an image. -/
def imgSvn (img : List Byte) : Nat := recNat img 0x0C 1 % 128

/-- KEY_SLOT of an image. -/
def imgSlot (img : List Byte) : Nat := nfld (recNat img 0x0C 2) 9 8

/-- The directory of an image. -/
def imgDir (img : List Byte) : List ImgSection :=
  (List.range (recNat img 6 2)).map fun i =>
    let b := 256 + 32 * i
    { type := recNat img b 1, mask := recNat img (b + 4) 4, off := recNat img (b + 8) 4, len := recNat img (b + 12) 4 }

/-- The bytes of a section. -/
def imgSection (img : List Byte) (e : ImgSection) : List Byte := (img.drop e.off).take e.len

/-- The sections of a type, in directory order. -/
def imgOf (img : List Byte) (type : Nat) : List ImgSection := (imgDir img).filter fun e => e.type == type

/-- The FIRMWARE section of a core. -/
def imgFirmware (img : List Byte) (k : Nat) : List Byte :=
  match (imgOf img 1).find? fun e => e.mask.testBit k with
  | some e => imgSection img e
  | none => []

/-- The image with SIG as zero (R518). -/
def imgUnsigned (img : List Byte) : List Byte := img.take 0x50 ++ List.replicate 64 0 ++ img.drop 0x90

/-- A fuse key hash. -/
def keyHash (f : Fuses) : Nat → List Byte
  | 0 => f.keyHash0
  | 1 => f.keyHash1
  | 2 => f.keyHash2
  | _ => f.keyHash3

/-- Step 1 of R518: MAGIC, FORMAT and IMAGE_LEN are valid and the bytes were received. An image holds at least its header. -/
def imgHeadOk (img : List Byte) : Bool :=
  recNat img 0 4 == 0x55424731 && recNat img 4 2 == 1 && decide (256 ≤ imgLen img) && decide (imgLen img ≤ 16777216) &&
    decide (imgLen img ≤ img.length)

/-- Step 2: the key. -/
def imgKeyOk (f : Fuses) (img : List Byte) : Bool :=
  !f.keyRevoke.testBit (imgSlot img) && sha256 ((img.drop 0x10).take 64) == keyHash f (imgSlot img)

/-- Step 4: the signature. -/
def imgSigOk (img : List Byte) : Bool :=
  let n := fun (off : Nat) => beNat ((img.drop off).take 32)
  ecdsaVerify (n 0x10) (n 0x30) (n 0x50) (n 0x70) (sha256 (imgUnsigned (img.take (imgLen img))))

/-- Steps 1 to 4 of R518: the FAIL_CODE of the first that fails, else 0. -/
def imgCheck (f : Fuses) (img : List Byte) : Nat :=
  if imgHeadOk img = false then 1
  else if imgKeyOk f img = false then 2
  else if imgSvn img < f.svn then 3
  else if imgSigOk img = false then 4
  else 0

/-- Every section lies within IMAGE_LEN, there are 1 to 64, and a FIRMWARE section holds at most 1 MiB (R517, R518). -/
def imgSectionsOk (img : List Byte) : Bool :=
  decide (1 ≤ recNat img 6 2) && decide (recNat img 6 2 ≤ 64) && decide (256 + 32 * recNat img 6 2 ≤ imgLen img) &&
    (imgDir img).all fun e => decide (e.off + e.len ≤ imgLen img) && (e.type != 1 || decide (e.len ≤ 1048576))

/-- The enabled cores (R518). -/
def enabledCores (mask : Nat) : List Nat :=
  (List.range 22).filter fun k => decide (k < 4) || decide (20 ≤ k) || mask.testBit (k - 4)

/-- The plan that a boot image holds (R48, R518). -/
def imgPlan (mask : Nat) (img : List Byte) : Option Plan :=
  match imgOf img 3 with
  | [e] => planOf (imgSection img e) true none fun c => mask.testBit c
  | _ => none

/-- Step 5 of R518. -/
def imgDirOk (mask : Nat) (img : List Byte) : Bool :=
  imgSectionsOk img && ((enabledCores mask).all fun k => ((imgOf img 1).filter fun e => e.mask.testBit k).length == 1) &&
    (imgPlan mask img).isSome

/-- The checks of a boot image: FAIL_CODE, or 0 (R518). -/
def bootCheck (f : Fuses) (img : List Byte) : Nat :=
  let e := imgCheck f img
  if e ≠ 0 then e else if imgDirOk f.chanMask img then 0 else 5

/-- The checks of an update image for a core: one FIRMWARE section that names the core, and no other (R526, R527). -/
def updateCheck (f : Fuses) (k : Nat) (img : List Byte) : Nat :=
  let e := imgCheck f img
  if e ≠ 0 then e
  else match imgDir img with
    | [x] => if imgSectionsOk img && x.type == 1 && x.mask.testBit k then 0 else 5
    | _ => 5

end Sys2Proof.Machine
end

