-- ==== Sys2Proof/Machine/NearMem.lean ====
section
/-! DEFINITION. NMO: what near-memory operations do, piece by piece (R417 to R420, R432). The rows stand in Fabric.lean. -/
namespace Sys2Proof.Machine

/-- NMO of a channel. -/
def State.nmo (s : State) (c : Nat) : NmoCh := (s.ch c).nmo

/-- Changes NMO of a channel. -/
def State.updNmo (s : State) (c : Nat) (f : NmoCh → NmoCh) : State := s.updCh c fun x => { x with nmo := f x.nmo }

/-! ### The descriptor (R417) -/

def nmoNop (m : SMsg) : Nat := nfld (recNat m.data 0 4) 3 0
def nmoDtype (m : SMsg) : Nat := nfld (recNat m.data 0 4) 7 4
def nmoLen (m : SMsg) : Nat := recNat m.data 4 4
def nmoOther (m : SMsg) : Nat := recNat m.data 8 8
def nmoPattern (m : SMsg) : Nat := recNat m.data 0x10 8

/-- Whether the operation is a reduction. -/
def nmoReduces (m : SMsg) : Bool := decide (4 ≤ nmoNop m)

/-- The bytes of one unit of LENGTH: a byte, an element, or a block with its side word and its places in both lists (R217). -/
def nmoUnit (m : SMsg) : Nat :=
  if !nmoReduces m then 1 else if nmoDtype m = 0 then 2 else if nmoDtype m = 1 then 4 else 22

/-- The bytes of the first range. -/
def nmoBytes (m : SMsg) : Nat := nmoLen m * nmoUnit m

/-- The rights that an operation needs, as bits of SLP_RGN_CTRL. -/
def nmoRights (m : SMsg) : List Nat := if nmoNop m = 1 ∨ nmoNop m = 2 then [19, 16, 17] else [19, 16]

/-- Whether a second range is there, and lies where the first may lie: in the same region of this channel. -/
def State.nmoOtherOk (s : State) (c : Nat) (m : SMsg) : Bool :=
  if nmoNop m = 2 ∨ nmoNop m = 3 then
    let a := nmoOther m
    inRack a && rackSlot a == s.selfSlot c && rackCh a == c && s.rgnHas c (m.region % 1024) (rackT1 a) (nmoLen m)
  else true

/-- Whether a descriptor keeps the rules of R417. Reserved NOP and DTYPE values break them (DEDUCED, log entry 27). -/
def State.nmoOk (s : State) (c : Nat) (m : SMsg) : Bool :=
  decide (1 ≤ nmoNop m) && decide (nmoNop m ≤ 6) && (!nmoReduces m || decide (nmoDtype m ≤ 2)) &&
    decide (nmoBytes m ≤ 2 ^ 26) && (nmoNop m != 1 || (m.addr % 8 == 0 && nmoLen m % 8 == 0)) && s.nmoOtherOk c m

/-- The refusal of an NMO message, if one of its checks fails (R410, R417, R432). -/
def State.nmoRefusal (s : State) (c : Nat) (m : SMsg) : Option (Nat × Bool) :=
  match s.rackCheck c m (nmoBytes m) (nmoRights m) with
  | some x => some x
  | none => if s.rdB c Reg.NMO_CFG 0 then (if s.nmoOk c m then none else some (0xA2, true)) else some (0xA2, false)

/-! ### Reductions in FP32 (R419) -/

/-- A place of FP32 bits that are no NaN in their order. -/
def fpOrd (b : Nat) : Int := if b.testBit 31 then -((b % 2 ^ 31 : Nat) : Int) else (b % 2 ^ 31 : Nat)

/-- The largest finite value with a sign. -/
def fpMax (neg : Bool) : Nat := if neg then 0xFF7FFFFF else 0x7F7FFFFF

/-- An FP32 sum, rounded to nearest even; beyond the range it is the largest finite value with its sign. -/
def fpAdd (a b : Nat) : Nat × Bool :=
  match fp32Val a, fp32Val b with
  | some x, some y =>
    if a = 0x80000000 ∧ b = 0x80000000 then (a, false)
    else
      let r := sat32 (x + y)
      (fp32Bits r.1, r.2)
  | _, _ => (fpMax (b.testBit 31), true)

/-- What a reduction makes of one more element. -/
def redStep (nop : Nat) (acc : Option Nat) (b : Nat) : Nat × Bool :=
  match acc with
  | none => if nop = 4 ∧ (fp32Val b).isNone then (fpMax (b.testBit 31), true) else (b, false)
  | some a =>
    if nop = 4 then fpAdd a b
    else if nop = 5 then (if fpOrd b < fpOrd a then b else a, false)
    else (if fpOrd a < fpOrd b then b else a, false)

/-- Takes an element into a reduction; a NaN is skipped. -/
def NmoOp.element (o : NmoOp) (b : Nat) : NmoOp :=
  if isNan32 b then { o with flags := o.flags ||| flNonfinite }
  else
    let (v, sat) := redStep (nmoNop o.msg) o.sum b
    { o with sum := some v, count := o.count + 1, flags := o.flags ||| (if sat then flSat else 0) }

/-- The elements of BF16 or FP32 bytes as FP32 bits. -/
def nmoElems (dtype n : Nat) (bs : List Byte) : List Nat :=
  if dtype = 0 then (chunksOf 2 n bs).map fun b => leNat b * 65536 else (chunksOf 4 n bs).map leNat

/-- The elements of L4 blocks as FP32 bits: one that leaves FP32's range is an infinity (R110, R419). -/
def blockElems (l : List LBlock) : List Nat := l.flatMap fun b => b.linear.map fp32Bits

/-! ### Pieces (R418) -/

/-- The 4 KiB parts of a COPY. -/
def nmoParts (m : SMsg) : Nat := ceilDiv (nmoLen m) 4096

/-- The elements or blocks of a piece: 256 bytes, and 8 blocks of L4 (the cut of an L4 operand into pieces is a DESIGN CHOICE, log
entry 27). -/
def nmoPer (m : SMsg) : Nat := if nmoDtype m = 0 then 128 else if nmoDtype m = 1 then 64 else 8

/-- The steps of an operation. A COPY reads the pieces of each 4 KiB and then writes them. -/
def nmoSteps (m : SMsg) : Nat :=
  if nmoNop m = 2 then 32 * nmoParts m else if nmoReduces m then ceilDiv (nmoLen m) (nmoPer m) else ceilDiv (nmoLen m) 256

/-- The offset of the 4 KiB that a COPY is at: in descending order when ADDR is above OTHER. -/
def NmoOp.part (o : NmoOp) : Nat :=
  let k := o.piece / 32
  4096 * (if nmoOther o.msg < o.msg.addr then nmoParts o.msg - 1 - k else k)

/-- The offset and length of the piece of a COPY, and whether it is written. -/
def NmoOp.copyPiece (o : NmoOp) : Nat × Nat × Bool :=
  let off := o.part + 256 * (o.piece % 16)
  (off, min 256 (nmoLen o.msg - off), decide (16 ≤ o.piece % 32))

/-- The rack ranges that a step touches. -/
def NmoOp.ranges (o : NmoOp) : List (Nat × Nat) :=
  let m := o.msg
  let off := 256 * o.piece
  let n := min 256 (nmoLen m - off)
  match nmoNop m with
  | 1 => [(m.addr + off, n)]
  | 2 => match o.copyPiece with
    | (f, k, w) => [((if w then m.addr else nmoOther m) + f, k)]
  | 3 => [(m.addr + off, n), (nmoOther m + off, n)]
  | _ =>
    let i := nmoPer m * o.piece
    let k := min (nmoPer m) (nmoLen m - i)
    if nmoDtype m = 2 then blockRanges 3 m.addr (nmoLen m) i k o.out o.ext else [(m.addr + nmoUnit m * i, nmoUnit m * k)]

/-- The job of the region that a message names. -/
def State.rgnJob (s : State) (c : Nat) (m : SMsg) : Nat := fld (s.rgnCtrl c (m.region % 1024)) 9 0

/-- The granule bytes of a list of rack ranges, and whether any is poisoned; reading them counts. -/
def State.nmoRead (s : State) (c : Nat) (o : NmoOp) (l : List (Nat × Nat)) : State × Option (List (List Byte)) :=
  let job := s.rgnJob c o.msg
  let s1 := (s.each l fun s r => s.touch job (rackT1 r.1) r.2).bump64 c Reg.NMO_BYTES_LO ((l.map Prod.snd).sum)
  (s1, if l.any fun r => s.vpoison (rackT1 r.1) r.2 then none else some (l.map fun r => s.vread (rackT1 r.1) r.2))

/-- Writes bytes at a rack address. -/
def State.nmoWrite (s : State) (c : Nat) (o : NmoOp) (a : Nat) (bs : List Byte) : State :=
  (s.vwrite (rackT1 a) bs (s.rgnJob c o.msg)).bump64 c Reg.NMO_BYTES_LO bs.length

/-- The offset of the first byte in which two lists differ. -/
def firstDiff : Nat → List Byte → List Byte → Option Nat
  | i, a :: l, b :: r => if a = b then firstDiff (i + 1) l r else some i
  | _, _, _ => none

/-- A reduction takes the elements of a piece. -/
def NmoOp.reduce (o : NmoOp) (bs : List (List Byte)) : NmoOp :=
  let m := o.msg
  let k := min (nmoPer m) (nmoLen m - nmoPer m * o.piece)
  if nmoDtype m = 2 then
    let l := srcBlocks 3 k bs
    let o1 := { o with
      out := o.out + (l.map fun b => takesOut b.side).sum, ext := o.ext + (l.map fun b => takesExt b.side).sum,
      flags := o.flags ||| orFlags (l.map fun b => if b.decode.2 then flFormat else 0) }
    (blockElems l).foldl NmoOp.element o1
  else (nmoElems (nmoDtype m) k (bs.headD [])).foldl NmoOp.element o

/-- What a step does with the bytes that it read. -/
def State.nmoAct (s : State) (o : NmoOp) (bs : List (List Byte)) : State × NmoOp :=
  let m := o.msg
  let off := 256 * o.piece
  let n := min 256 (nmoLen m - off)
  match nmoNop m with
  | 2 => (s, { o with buf := if o.piece % 32 = 0 then bs.headD [] else o.buf ++ bs.headD [] })
  | 3 =>
    (s, { o with found := match o.found with
                    | some i => some i
                    | none => firstDiff off (bs.headD []) (bs.getD 1 []),
                 count := o.count + n })
  | _ => (s, o.reduce bs)

/-- The count of skipped NaN elements of a step. -/
def nansOf (o : NmoOp) (bs : List (List Byte)) : Nat :=
  if nmoReduces o.msg && decide (nmoDtype o.msg ≤ 1) then
    ((nmoElems (nmoDtype o.msg) (nmoPer o.msg) (bs.headD [])).filter isNan32).length
  else 0

/-- One step of an operation: a read that meets poison ends it (R420). -/
def State.nmoStep (s : State) (c : Nat) (o : NmoOp) : State × NmoOp :=
  let m := o.msg
  let next := fun (x : State × NmoOp) => (x.1, { x.2 with piece := o.piece + 1 })
  if nmoNop m = 1 then
    let off := 256 * o.piece
    let n := min 256 (nmoLen m - off)
    let bs := (List.replicate 32 (leBytes 8 (nmoPattern m))).flatten.take n
    next (s.nmoWrite c o (m.addr + off) bs, { o with count := o.count + n })
  else if nmoNop m = 2 ∧ o.copyPiece.2.2 = true then
    match o.copyPiece with
    | (f, k, _) =>
      next (s.nmoWrite c o (m.addr + f) ((o.buf.drop (f - o.part)).take k), { o with count := o.count + k })
  else
    match s.nmoRead c o o.ranges with
    | (s1, none) => (s1, { o with poisoned := true })
    | (s1, some bs) => next ((s1.bump c Reg.NMO_NONFINITE_CNT (nansOf o bs)).nmoAct o bs)

/-- Whether an operation has taken its last step. -/
def NmoOp.isOver (o : NmoOp) : Bool := o.poisoned || decide (nmoSteps o.msg ≤ o.piece)

/-- All the steps that are left, for an operation whose memory is not coherent. -/
def State.nmoRun (s : State) (c : Nat) (o : NmoOp) : Nat → State × NmoOp
  | 0 => (s, o)
  | fuel + 1 =>
    if o.isOver then (s, o)
    else match s.nmoStep c o with
      | (s1, o1) => s1.nmoRun c o1 fuel

/-- RESULT of an operation. -/
def NmoOp.result (o : NmoOp) : Nat :=
  match nmoNop o.msg with
  | 3 => o.found.getD (2 ^ 64 - 1)
  | 4 => o.sum.getD 0
  | 5 => o.sum.getD 0x7FC00000
  | 6 => o.sum.getD 0x7FC00000
  | _ => 0

/-- The NMO_RSP of an operation that has ended (R420). The RESULT of a reduction or COMPARE that met poison is not stated: free
bytes (log entry 6). -/
def State.nmoAnswer (s : State) (c : Nat) (o : NmoOp) : State :=
  let st := if o.poisoned then 0x21 else 0
  let (res, s1) := if o.poisoned && decide (3 ≤ nmoNop o.msg) then s.drawBytes 8 else (leBytes 8 o.result, s)
  let rsp : SMsg := o.msg.reply 0x13 st
  let data := padTo 32 (leBytes 8 (fieldAt 0 8 st + fieldAt 8 8 o.flags) ++ res ++ leBytes 8 o.count)
  (((s1.bump c Reg.NMO_OP_CNT).when o.poisoned fun s => s.bump c Reg.NMO_POISON_CNT).sendMsg c { rsp with data := data })

/-- NMO_STATUS. -/
def State.nmoStatus (s : State) (c : Nat) : Word :=
  let x := s.nmo c
  BitVec.ofNat 32 (fieldAt 0 4 x.running.length + fieldAt 8 8 x.waiting.length +
    fieldAt 31 1 (b2n (!x.running.isEmpty || !x.waiting.isEmpty)))

end Sys2Proof.Machine
end

