-- ==== Sys2Proof/Machine/Agent.lean ====
section
/-! DEFINITION. CCX: the domain's registers, coherence messages, and the agent with its cache (R434 to R446, R459, R461). The
rows stand in Domain.lean. -/
namespace Sys2Proof.Machine

/-- CCX's page of a channel. -/
def ccxPage (c : Nat) : Page := ⟨.ccx, c⟩

/-- CCX's state of a channel. -/
def State.ccx (s : State) (c : Nat) : CcxCh := (s.ch c).ccx

/-- Changes CCX's state of a channel. -/
def State.updCcx (s : State) (c : Nat) (f : CcxCh → CcxCh) : State := s.updCh c fun x => { x with ccx := f x.ccx }

/-! ### The domain's registers (R434 to R437, R463) -/

def State.cohOn (s : State) (c : Nat) : Bool := s.enabledCh c && s.rdB c Reg.CCX_CFG 0
def State.isAgent (s : State) (c : Nat) : Bool := s.cohOn c && s.rdB c Reg.CCX_CFG 1
def State.isArb (s : State) (c : Nat) : Bool := s.cohOn c && s.rdB c Reg.CCX_CFG 2
def State.member (s : State) (c : Nat) : Nat := s.rdF c Reg.CCX_CFG 5 3
def State.domainId (s : State) (c : Nat) : Nat := s.rdF c Reg.CCX_CFG 13 8

/-- The agent channel of a member, as a channel's registers name it. -/
def State.agentChOf (s : State) (c m : Nat) : Nat := s.rdF c Reg.CCX_AGENT_CH (4 * m + 3) (4 * m)

/-- The device's own agent channel. -/
def State.ownAgent (s : State) (c : Nat) : Nat := s.agentChOf c (s.member c)

/-- The channel of member 0 that arbitrates a granule. -/
def State.arbChOf (s : State) (c g : Nat) : Nat :=
  let k := rackCh (128 * g)
  if k < 8 then s.rdF c Reg.CCX_ARB_MAP_LO (4 * k + 3) (4 * k) else s.rdF c Reg.CCX_ARB_MAP_HI (4 * (k - 8) + 3) (4 * (k - 8))

/-- The channels of the device that belong to the domain. -/
def State.domainChans (s : State) : List Nat := s.channels.filter s.cohOn

/-- The VALID coherent region entry that contains a range of rack space (R436). -/
def State.cohEntry (s : State) (c a n : Nat) : Option Nat :=
  (s.selsOf c Reg.CCX_CRGN_CTRL).find? fun k => s.rdB c Reg.CCX_CRGN_CTRL 31 k &&
    decide (s.rd64 c Reg.CCX_CRGN_BASE_LO k ≤ a) && decide (a + n ≤ s.rd64 c Reg.CCX_CRGN_LIMIT_LO k)

/-- Whether a range is coherent for the channel: it lies in a coherent region and the domain is not LOST (R436, R457). -/
def State.coherentAt (s : State) (c a n : Nat) : Bool := s.cohOn c && (s.ccx c).dstate != 3 && (s.cohEntry c a n).isSome

/-! ### Messages (R442) -/

def SMsg.gran (m : SMsg) : Nat := m.addr / 128
def SMsg.crgn (m : SMsg) : Nat := nfld m.w10 7 0
def SMsg.domain (m : SMsg) : Nat := nfld m.w10 13 8
def SMsg.cState (m : SMsg) : Nat := nfld m.w18 10 8
def SMsg.dirty (m : SMsg) : Bool := m.w18.testBit 11
def SMsg.dataExp (m : SMsg) : Bool := m.w18.testBit 12
def SMsg.stale (m : SMsg) : Bool := m.w18.testBit 13
def SMsg.cAge (m : SMsg) : Nat := nfld m.w18 19 16
def SMsg.reqTag (m : SMsg) : Nat := nfld m.w1c 13 0
def SMsg.reqSlot (m : SMsg) : Nat := nfld m.w1c 20 14
def SMsg.reqCh (m : SMsg) : Nat := nfld m.w1c 24 21

/-- The word at 0x1C. -/
def reqWord (tag slot ch : Nat) : Nat := fieldAt 0 14 tag + fieldAt 14 7 slot + fieldAt 21 4 ch

/-- A coherence message of a channel. -/
def State.cohMsg (s : State) (c mtype g slot ch tag : Nat) : SMsg :=
  { (default : SMsg) with
    mtype := mtype, tag := tag, srcSlot := s.selfSlot c, srcCh := c, dstSlot := slot, dstCh := ch, addr := 128 * g,
    w10 := fieldAt 0 8 ((s.cohEntry c (128 * g) 128).getD 0) + fieldAt 8 6 (s.domainId c) }

/-- An answer to the sender of a message, with its TAG and its requester. -/
def State.cohReply (s : State) (c : Nat) (m : SMsg) (mtype w18 : Nat) : State :=
  s.sendMsg c { s.cohMsg c mtype m.gran m.srcSlot m.srcCh m.tag with w18 := w18, w1c := m.w1c }

/-- Takes the first message of an MTYPE that has arrived for a channel; its slots are free. -/
def State.takeMsg (s : State) (c mtype : Nat) : State × Option SMsg :=
  match (s.slp c).inbox.find? fun x => x.2.mtype == mtype with
  | none => (s, none)
  | some x => ((s.updSlp c fun y => { y with inbox := y.inbox.erase x }).freeSlots x.1 x.2, some x.2)

/-- Messages that answer: SRSP, GNT, RETRY, EV_ACK, MWR_ACK, PSN_ACK and DATA. -/
def answers : List Nat := [0x48, 0x53, 0x54, 0x55, 0x5C, 0x5D, 0x60]

/-- Takes a coherence message: one of another domain is dropped and counted (R442), and so is an answer from a DEAD slot (R425,
R455). -/
def State.cohTake (s : State) (c mtype : Nat) (f : State → SMsg → State) : State :=
  match s.takeMsg c mtype with
  | (s1, none) => s1
  | (s1, some m) =>
    if !s1.cohOn c || m.domain != s1.domainId c then s1.bump c Reg.CCX_PROTO_ERR_CNT
    else if answers.contains mtype && s1.slotDead c m.srcSlot then s1.bump c Reg.SLP_LATE_RSP_CNT
    else f s1 m

/-- A protocol error: counted, and posted once per day (R446). -/
def State.protoErr (s : State) (c : Nat) (m : SMsg) : State :=
  let s1 := s.bump c Reg.CCX_PROTO_ERR_CNT
  if (s.ccx c).protoPosted then s1
  else (s1.updCcx c fun x => { x with protoPosted := true }).evtPriv (ccxPage c) 3 0xB3 m.mtype m.addr

/-! ### The agent cache (R438, R445) -/

/-- The line of a granule. -/
def State.cline (s : State) (a g : Nat) : CLine := (s.ccx a).lines.at g

/-- Changes the line of a granule. -/
def State.setLine (s : State) (a g : Nat) (l : CLine) : State := s.updCcx a fun x => { x with lines := x.lines.set g l }

/-- A stable state that holds a copy. -/
def LineState.stable : LineState → Bool
  | .s => true
  | .e => true
  | .o => true
  | .m => true
  | _ => false

/-- An eviction that awaits EV_ACK. -/
def LineState.evicting : LineState → Bool
  | .miA => true
  | .oiA => true
  | .eiA => true
  | .siA => true
  | .iiA => true
  | _ => false

/-- A state that awaits a grant. -/
def LineState.asking : LineState → Bool
  | .isD => true
  | .imD => true
  | .smA => true
  | .omA => true
  | _ => false

/-- STATE of the copy that a line holds. -/
def LineState.code : LineState → Nat
  | .s => 1
  | .smA => 1
  | .siA => 1
  | .e => 2
  | .eiA => 2
  | .o => 3
  | .omA => 3
  | .oiA => 3
  | .m => 4
  | .miA => 4
  | _ => 0

/-- The request that a state has sent. -/
def LineState.request : LineState → Nat
  | .isD => 0x40
  | .imD => 0x41
  | .smA => 0x42
  | .omA => 0x42
  | .miA => 0x43
  | .oiA => 0x43
  | _ => 0x44

/-- The state of a line whose eviction has been sent. -/
def LineState.evict : LineState → LineState
  | .m => .miA
  | .o => .oiA
  | .e => .eiA
  | _ => .siA

/-- The set of a granule: its number modulo the 4,096 sets (DESIGN CHOICE, log entry 28). -/
def agentSet (g : Nat) : Nat := g % 4096

/-- The usable ways of each set (R438). -/
def State.agentWays (s : State) (a : Nat) : Nat := if s.rdB a Reg.VSE_CFG 0 || (s.ccx a).rerank.isSome then 8 else 16

/-- The lines of a set. -/
def State.setLines (s : State) (a k : Nat) : List (Nat × CLine) :=
  (s.ccx a).lines.filter fun x => agentSet x.1 == k && x.2.st != .i

/-- A free way of a granule's set. -/
def State.freeWay (s : State) (a g : Nat) : Option Nat :=
  (List.range (s.agentWays a)).find? fun w => !(s.setLines a (agentSet g)).any fun x => x.2.way == w

/-- The victim in a granule's set, by the rotating pointer over the usable ways that hold a stable state. -/
def State.victim (s : State) (a g : Nat) : Option (Nat × CLine) :=
  let ls := (s.setLines a (agentSet g)).filter fun x => x.2.st.stable
  match roundRobin (s.agentWays a) ((s.ccx a).setPtr.at (agentSet g)) fun w => ls.any fun x => x.2.way == w with
  | some w => ls.find? fun x => x.2.way == w
  | none => none

/-- The agent's requests that are outstanding. -/
def State.agentOut (s : State) (a : Nat) : Nat :=
  ((s.slp a).tags.filter fun t => t.2.live && !t.2.quar && match t.2.use with
    | .agent _ => true
    | _ => false).length

/-- The request of a line in a state. -/
def State.lineMsg (s : State) (a g : Nat) (l : CLine) (st : LineState) (tag : Nat) : SMsg :=
  { s.cohMsg a st.request g (s.memberSlot a 0) (s.arbChOf a g) tag with
    key := if st.asking then l.key else 0, w18 := fieldAt 16 4 (min 15 l.age), w1c := reqWord tag (s.selfSlot a) a,
    data := if st.request = 0x43 then l.data else [] }

/-- Sends a line's request under a new tag. -/
def State.agentSend (s : State) (a g : Nat) (l : CLine) (st : LineState) : State × Sent :=
  let tag := s.freeTag a
  let l1 := { l with st := st, tag := tag, age := 0, gnt := none, dat := none, resend := none }
  match s.sendRequest a (s.lineMsg a g l1 st tag) (.agent g) 0 128 with
  | (s1, .ok) => (s1.setLine a g l1, .ok)
  | x => x

/-- Evicts a stable line. -/
def State.evictLine (s : State) (a g : Nat) : State × Sent := s.agentSend a g (s.cline a g) (s.cline a g).st.evict

/-! ### Cached accesses (R439) -/

/-- A cached access ends. -/
def State.accEnd (s : State) (a : Nat) (x : CAcc) (status : Nat) (data : List Byte) (poison : Bool) : State :=
  let s1 := s.updCcx a fun y => { y with accs := y.accs.filter fun z => z.num != x.num }
  let s2 := s1.when (x.kind == 1) fun s => s.storeDone x.ch x.job (16384 + x.num) (status != 0)
  let t : STag := { (default : STag) with
    use := x.use, mtype := x.kind + 1, slot := 0, addr := 128 * x.gran + x.off, len := x.n, job := x.job }
  s2.answerUse x.ch t status data poison

/-- Puts bytes into a granule. -/
def splice (d : List Byte) (off : Nat) (bs : List Byte) : List Byte := d.take off ++ bs ++ d.drop (off + bs.length)

/-- A load that hits. -/
def State.accLoad (s : State) (a : Nat) (x : CAcc) (l : CLine) : State := s.accEnd a x 0 ((l.data.drop x.off).take x.n) false

/-- A store or an atomic on a line in E or M, which becomes M. -/
def State.accStore (s : State) (a : Nat) (x : CAcc) (l : CLine) : State :=
  if x.kind = 1 then (s.setLine a x.gran { l with st := .m, data := splice l.data x.off x.data }).accEnd a x 0 [] false
  else
    let old := recNat l.data x.off 8
    let new := if x.aop = 0 then (old + x.op0) % 2 ^ 64 else if x.aop = 1 then (if old = x.op0 then x.op1 else old) else x.op0
    (s.setLine a x.gran { l with st := .m, data := splice l.data x.off (leBytes 8 new) }).accEnd a x 0 (leBytes 8 old) false

/-- An access that finds the line in I: it takes a way, or a victim leaves its way. -/
def State.accMiss (s : State) (a : Nat) (x : CAcc) : State :=
  match s.freeWay a x.gran with
  | some w =>
    if 256 ≤ s.agentOut a then s
    else
      let l : CLine := { (default : CLine) with way := w, key := x.key, region := x.region, job := x.job, data := List.replicate 128 0 }
      match s.agentSend a x.gran l (if x.kind = 0 then .isD else .imD) with
      | (s1, .refused st) => s1.accEnd a x st [] false
      | (s1, _) => s1
  | none =>
    let k := agentSet x.gran
    let waiting := (((s.ccx a).accs.filter fun y => agentSet y.gran == k && (s.cline a y.gran).st == .i).map CAcc.gran).eraseDups
    if waiting.length ≤ ((s.setLines a k).filter fun y => y.2.st.evicting).length ∨ 256 ≤ s.agentOut a then s
    else match s.victim a x.gran with
      | none => s
      | some v => ((s.updCcx a fun y => { y with setPtr := y.setPtr.set k ((v.2.way + 1) % 16) }).evictLine a v.1).1

/-- An access acts from the state that its line is in (R445). -/
def State.accTry (s : State) (a : Nat) (x : CAcc) : State :=
  let l := s.cline a x.gran
  let upgrade := fun (st : LineState) =>
    if 256 ≤ s.agentOut a then s
    else match s.agentSend a x.gran { l with key := x.key, region := x.region, job := x.job } st with
      | (s1, .refused r) => s1.accEnd a x r [] false
      | (s1, _) => s1
  match l.st with
  | .i => s.accMiss a x
  | .e => if x.kind = 0 then s.accLoad a x l else s.accStore a x l
  | .m => if x.kind = 0 then s.accLoad a x l else s.accStore a x l
  | .s => if x.kind = 0 then s.accLoad a x l else upgrade .smA
  | .o => if x.kind = 0 then s.accLoad a x l else upgrade .omA
  | .smA => if x.kind = 0 then s.accLoad a x l else s
  | .omA => if x.kind = 0 then s.accLoad a x l else s
  | _ => s

/-! ### Flushes (R438, R459) -/

/-- Evicts the lines that a flush or a write of RERANK_EN waits for, where they are stable. -/
def State.flushLines (s : State) (a : Nat) : State :=
  let x := s.ccx a
  let gs := (x.lines.filter fun l => l.2.st.stable &&
    ((x.rerank.isSome && decide (8 ≤ l.2.way)) || x.flushes.any fun f => f.grans.contains l.1)).map Prod.fst
  s.each gs fun s g => if 256 ≤ s.agentOut a then s else (s.evictLine a g).1

/-- Flushes whose granules have all left complete. -/
def State.flushDone (s : State) (a : Nat) : State :=
  let left := fun (f : CFlush) => { f with grans := f.grans.filter fun g => (s.cline a g).st != .i }
  let fs := (s.ccx a).flushes.map left
  (s.updCcx a fun x => { x with flushes := fs.filter fun f => !f.grans.isEmpty }).each (fs.filter fun f => f.grans.isEmpty)
    fun s f => s.complete f.ch f.cmd 0 (leBytes 8 0)

/-- A write of RERANK_EN takes effect once ways 8 to 15 are empty (R438). -/
def State.rerankReady (s : State) (a : Nat) : Bool :=
  (s.ccx a).rerank.isSome && !((s.ccx a).lines.any fun l => l.2.st != .i && decide (8 ≤ l.2.way))

/-- Everything that waits at the agent is tried. A flush whose granules have left completes before an access takes one of them
again; accesses wait until the domain is UP (R437, R459). -/
def State.agentTry (s : State) (a : Nat) : State :=
  let s1 := (s.flushLines a).flushDone a
  if (s1.ccx a).dstate = 2 then s1.each (s1.ccx a).accs fun s x => s.accTry a x else s1

/-! ### Grants at the agent -/

/-- The granule whose request holds a tag. -/
def State.agentTag (s : State) (a tag : Nat) : Option Nat :=
  let t := (s.slp a).tags.at tag
  if t.live && !t.quar then match t.use with
    | .agent g => some g
    | _ => none
  else none

/-- Every access that waits for a granule, and was issued before number `num` if one is given, ends: poison for loads, a status for
the rest; a status ends loads too where `all`. -/
def State.accsEnd (s : State) (a g status : Nat) (all : Bool) (num : Option Nat) : State :=
  s.each ((s.ccx a).accs.filter fun x => x.gran == g && num.all fun k => decide (x.num < k)) fun s x =>
    if x.kind = 0 ∧ all = false then s.accEnd a x 0 (List.replicate x.n 0) true else s.accEnd a x status [] false

/-- CMP of a line's transaction. -/
def State.sendCmp (s : State) (a g tag state : Nat) : State :=
  s.sendMsg a { s.cohMsg a 0x49 g (s.memberSlot a 0) (s.arbChOf a g) tag with
    w18 := fieldAt 8 3 state, w1c := reqWord tag (s.selfSlot a) a }

/-- The state that a granted line takes. -/
def grantedState (st : LineState) (granted : Nat) : LineState := if st = .isD then (if granted = 2 then .e else .s) else .m

/-- Grant done (R445). A grant with poison is not installed and ends what waits; a store of the whole granule replaces the poison, as
R456 says of a cached store (DEDUCED, log entry 28). -/
def State.grantDone (s : State) (a g : Nat) : State :=
  let l := s.cline a g
  match l.gnt with
  | none => s
  | some (st, ex, bad) =>
    if ex && l.dat.isNone && !bad then s
    else
      let poison := bad || (match l.dat with
        | some d => d.2
        | none => false)
      let s1 := s.dropTag a l.tag
      if poison then match (s.ccx a).accs.find? fun x => st == 4 && x.gran == g && x.kind == 1 && x.n == 128 with
        | some x =>
          ((s1.setLine a g { l with st := .m, data := x.data, gnt := none, dat := none, resend := none, tag := 0 }).sendCmp a g l.tag
            4).accsEnd a g 0x21 false (some x.num) |>.accEnd a x 0 [] false
        | none => ((s1.setLine a g default).sendCmp a g l.tag 0).accsEnd a g 0x21 false none
      else
        let st1 := grantedState l.st st
        let d := match l.dat with
          | some d => padTo 128 d.1
          | none => l.data
        (s1.setLine a g { l with st := st1, data := d, gnt := none, dat := none, resend := none, tag := 0 }).sendCmp a g l.tag st1.code

/-- SOLROV_KEY_NAK at the agent, for the jobs of the accesses that a refusal ends (R410, R450). -/
def State.agentNak (s : State) (a g : Nat) (m : SMsg) : State :=
  s.each ((((s.ccx a).accs.filter fun x => x.gran == g).map CAcc.job).eraseDups) fun s j =>
    s.keyNakSource a { (default : STag) with slot := m.srcSlot, ch := m.srcCh, region := m.crgn, job := j } m.status

/-- GNT at the agent. -/
def State.agentGnt (s : State) (a g : Nat) (m : SMsg) : State :=
  let l := s.cline a g
  if !l.st.asking then s.protoErr a m
  else if m.status ≠ 0 then
    let s1 := s.when (m.status == 0xA0 || m.status == 0xA2) fun s => s.agentNak a g m
    ((s1.dropTag a l.tag).setLine a g default).accsEnd a g m.status true none
  else (s.setLine a g { l with gnt := some (m.cState, m.dataExp, m.poison) }).grantDone a g

/-- DATA at the agent. -/
def State.agentData (s : State) (a g : Nat) (m : SMsg) : State :=
  let l := s.cline a g
  if !l.st.asking then s.protoErr a m else (s.setLine a g { l with dat := some (m.data, m.poison) }).grantDone a g

/-- BACKOFF_NS (R463). -/
def State.backoff (s : State) (c : Nat) : Nat := s.rdF c Reg.CCX_AGE 31 16

/-- RETRY at the agent (R445, R452). -/
def State.agentRetry (s : State) (a g : Nat) (m : SMsg) : State :=
  let l := s.cline a g
  if l.st = .i ∨ l.st.stable = true then s.protoErr a m
  else s.setLine a g { l with age := min 15 (l.age + 1), resend := some (s.tim.now + s.backoff a) }

/-- EV_ACK at the agent. -/
def State.agentEvAck (s : State) (a g : Nat) (m : SMsg) : State :=
  if !(s.cline a g).st.evicting then s.protoErr a m else (s.dropTag a m.tag).setLine a g default

/-- A line resends its request. -/
def State.lineResend (s : State) (a g : Nat) : State :=
  let l := s.cline a g
  (s.setLine a g { l with resend := none }).sendMsg a (s.lineMsg a g l l.st l.tag)

/-! ### Snoops (R445, R446) -/

/-- SRSP. -/
def State.sendSrsp (s : State) (a : Nat) (m : SMsg) (st : Nat) (ex dirty : Bool) : State :=
  s.cohReply a m 0x48 (fieldAt 8 3 st + fieldAt 11 1 (b2n dirty) + fieldAt 12 1 (b2n ex))

/-- DATA to the requester that a snoop or MRD names. -/
def State.sendData (s : State) (a : Nat) (m : SMsg) (bs : List Byte) (dirty poison : Bool) : State :=
  s.sendMsg a { s.cohMsg a 0x60 m.gran m.reqSlot m.reqCh m.reqTag with
    w18 := fieldAt 11 1 (b2n dirty), w1c := m.w1c, data := bs, poison := poison }

/-- What a snoop does to a line: none where it cannot arrive, else whether data is sent, whether it is dirty, and the state after
it. -/
def snoopOf (mtype : Nat) (st : LineState) : Option (Bool × Bool × LineState) :=
  if mtype = 0x50 then
    match st with
    | .e => some (true, false, .s)
    | .o => some (true, true, .o)
    | .m => some (true, true, .o)
    | .omA => some (true, true, .omA)
    | .miA => some (true, true, .oiA)
    | .oiA => some (true, true, .oiA)
    | .eiA => some (true, false, .siA)
    | _ => none
  else if mtype = 0x51 then
    match st with
    | .e => some (true, false, .i)
    | .o => some (true, true, .i)
    | .m => some (true, true, .i)
    | .omA => some (true, true, .imD)
    | .miA => some (true, true, .iiA)
    | .oiA => some (true, true, .iiA)
    | .eiA => some (true, false, .iiA)
    | _ => none
  else
    match st with
    | .s => some (false, false, .i)
    | .o => some (false, false, .i)
    | .smA => some (false, false, .imD)
    | .omA => some (false, false, .imD)
    | .oiA => some (false, false, .iiA)
    | .siA => some (false, false, .iiA)
    | _ => none

/-- A snoop at the agent. -/
def State.agentSnoop (s : State) (a : Nat) (m : SMsg) : State :=
  let l := s.cline a m.gran
  match snoopOf m.mtype l.st with
  | none => (s.protoErr a m).sendSrsp a m l.st.code false false
  | some (ex, dirty, st) =>
    let s1 := s.when ex fun s => s.sendData a m l.data dirty false
    (s1.setLine a m.gran (if st = .i then default else { l with st := st })).sendSrsp a m st.code ex dirty

/-! ### The issue of a cached access -/

/-- A cached access goes to the member's agent channel (R435, R439), under the key of the issuing job's remote key entry. -/
def State.cacheIssue (s : State) (c job kind a : Nat) (d : List Byte) (n aop op0 op1 : Nat) (use : TagUse) : State × Sent :=
  match s.remoteKey c job a n with
  | none => (s, .refused 0xA7)
  | some (r, k) =>
    let g := s.ownAgent c
    let x : CAcc :=
      { kind := kind, gran := a / 128, off := a % 128, n := n, data := d, aop := aop, op0 := op0, op1 := op1, job := job, key := k, region := r,
        use := use, ch := c, num := (s.ccx g).nextAcc }
    (s.updCcx g fun y => { y with accs := y.accs ++ [x], nextAcc := y.nextAcc + 1 }, .ok)

/-- Step 5 of R329 at CCX (R461): the accesses and flushes of the channel's job that wait in the member's agent are discarded, and
nothing completes them. -/
def State.ccxTearDown (s : State) (c job : Nat) : State :=
  s.updCcx (s.ownAgent c) fun x =>
    { x with accs := x.accs.filter fun y => y.ch != c || y.job != job,
             flushes := x.flushes.filter fun f => f.ch != c || f.cmd.job != job }

/-- CCX_AG_LINES. -/
def State.agLines (s : State) (a : Nat) : Word := lo32 ((s.ccx a).lines.filter fun l => l.2.st != .i).length

/-- CCX_STATUS. -/
def State.ccxStatus (s : State) (c : Nat) : Word :=
  let x := s.ccx c
  BitVec.ofNat 32 (x.dstate + fieldAt 8 8 ((x.up.map fun m => 2 ^ m).sum) + fieldAt 16 9 (s.agentOut c))

end Sys2Proof.Machine
end

