-- ==== Sys2Proof/Machine/Arbiter.lean ====
section
/-! DEFINITION. CCX: the arbiter with its snoop filter, reservations, and what a dead member or home does to its transactions (R447 to
R453, R455, R458). The rows stand in Domain.lean. -/
namespace Sys2Proof.Machine

/-! ### The snoop filter (R447) -/

/-- The filter entry of a granule. -/
def State.fent (s : State) (a g : Nat) : FEntry := (s.ccx a).filter.at g

/-- Sets the filter entry of a granule. -/
def State.setFent (s : State) (a g : Nat) (e : FEntry) : State := s.updCcx a fun x => { x with filter := x.filter.set g e }

/-- Changes the transaction of a granule. -/
def State.updTrans (s : State) (a g : Nat) (f : Trans → Trans) : State :=
  let e := s.fent a g
  s.setFent a g { e with trans := e.trans.map f }

/-- The set of a granule in the filter: its number modulo the 16,384 sets (DESIGN CHOICE, log entry 28). -/
def filterSet (g : Nat) : Nat := g % 16384

/-- An entry whose holders have gone, and that is not BUSY, is none. -/
def FEntry.tidy (e : FEntry) : FEntry := if e.trans.isNone ∧ e.owner.isNone ∧ e.sharers = [] then default else e

/-- The entry of a granule that one member holds in E or M. -/
def FEntry.only (e : FEntry) (r : Nat) : FEntry := { e with excl := true, owner := some r, sharers := [], trans := none }

/-- The entry of a granule whose owner and sharers are given. -/
def FEntry.shared (e : FEntry) (w : Option Nat) (sh : List Nat) : FEntry :=
  ({ e with excl := false, owner := w, sharers := sh, trans := none } : FEntry).tidy

/-- An entry without the holders that are named. -/
def FEntry.less (e : FEntry) (gone : List Nat) : FEntry :=
  let w := match e.owner with
    | some k => if gone.contains k then none else some k
    | none => none
  { e with excl := e.excl && w.isSome, owner := w, sharers := e.sharers.filter fun k => !gone.contains k }

/-- The members of the domain, by the slot in which they stand. -/
def State.memberOf (s : State) (c slot : Nat) : Option Nat :=
  (List.range 8).find? fun m => s.rdB c Reg.CCX_MEMBER_MASK m && s.memberSlot c m == slot

/-! ### Messages of the arbiter -/

/-- Sends a snoop to a member for a transaction. -/
def State.sendSnoop (s : State) (a g : Nat) (t : Trans) (x : Nat × Nat) : State :=
  (s.bump a Reg.CCX_SNOOP_CNT).sendMsg a { s.cohMsg a x.2 g (s.memberSlot a x.1) (s.agentChOf a x.1) t.tag with
    w1c := reqWord t.tag t.slot t.ch }

/-- Sends MRD, MWR or PSN to a granule's home, under a tag; whether it was sent. -/
def State.sendHome (s : State) (a g mtype : Nat) (t : Trans) (d : List Byte) : State × Bool :=
  let tag := s.freeTag a
  match s.sendRequest a { s.cohMsg a mtype g (rackSlot (128 * g)) (rackCh (128 * g)) tag with
      w1c := reqWord t.tag t.slot t.ch, data := d } (.arb g) 0 128 with
  | (s1, .ok) => (s1.updTrans a g fun t => { t with homeTag := tag + 1, homeOp := mtype }, true)
  | (s1, _) => (s1, false)

/-- MRD; a home that cannot be reached makes the grant carry POISON (R458). -/
def State.sendMrd (s : State) (a g : Nat) (t : Trans) : State :=
  match s.sendHome a g 0x58 t [] with
  | (s1, true) => s1
  | (s1, false) => s1.updTrans a g fun t => { t with bad := true }

/-- GNT to a requester. -/
def State.sendGnt (s : State) (a g : Nat) (t : Trans) : State :=
  s.sendMsg a { s.cohMsg a 0x53 g t.slot t.ch t.tag with
    w18 := fieldAt 8 3 t.grant + fieldAt 12 1 (b2n t.dataExp), w1c := reqWord t.tag t.slot t.ch, poison := t.bad }

/-- EV_ACK for a transaction. -/
def State.sendEvAck (s : State) (a g : Nat) (t : Trans) : State :=
  s.sendMsg a { s.cohMsg a 0x55 g t.slot t.ch t.tag with w1c := reqWord t.tag t.slot t.ch }

/-- Returns the tag that a transaction holds for its home, or for its eviction. -/
def State.freeHome (s : State) (a g : Nat) (t : Trans) : State :=
  ((s.when (t.homeTag != 0) fun s => s.dropTag a (t.homeTag - 1)).when (t.kind == 6) fun s => s.dropTag a t.tag).updTrans a g fun t =>
    { t with homeTag := 0, homeOp := 0 }

/-! ### The table of R448 -/

/-- What serving a request asks for: the snoops as member and MTYPE, whether MRD is sent, the STATE granted, and whether DATA
follows. -/
structure Served where
  snoops : List (Nat × Nat)
  mrd : Bool
  grant : Nat
  dataExp : Bool
  deriving DecidableEq, Repr, Inhabited

/-- SNP_INV to members. -/
def invAll (l : List Nat) : List (Nat × Nat) := l.map fun m => (m, 0x52)

/-- RD_X (R448). -/
def servedX (e : FEntry) (r : Nat) : Served :=
  match e.owner with
  | some w =>
    if e.excl then ⟨[(w, 0x51)], false, 4, true⟩
    else ⟨(w, 0x51) :: invAll (e.sharers.filter fun m => m != r), false, 4, true⟩
  | none => ⟨invAll e.sharers, true, 4, true⟩

/-- What a request of a kind and a requester asks for, from the entry as it stands (R448). -/
def served (e : FEntry) (kind r : Nat) : Served :=
  match kind with
  | 0 => match e.owner with
    | some w => ⟨[(w, 0x50)], false, 1, true⟩
    | none => ⟨[], true, if e.sharers = [] then 2 else 1, true⟩
  | 1 => servedX e r
  | 2 => match e.owner with
    | some w =>
      if e.excl then servedX e r
      else if w = r then ⟨invAll e.sharers, false, 4, false⟩
      else if e.sharers.contains r then ⟨(w, 0x52) :: invAll (e.sharers.filter fun m => m != r), false, 4, false⟩
      else servedX e r
    | none =>
      if e.sharers.contains r then ⟨invAll (e.sharers.filter fun m => m != r), false, 4, false⟩ else servedX e r
  | _ => match e.owner with
    | some w => ⟨(w, 0x51) :: invAll e.sharers, false, 0, true⟩
    | none => ⟨invAll e.sharers, false, 0, false⟩

/-! ### The end of a transaction (R449) -/

/-- The entry after a RD_S whose CMP reports S. An owner whose SRSP has not come, as where the requester has died, counts as the owner
of dirty data (DESIGN CHOICE, log entry 28). -/
def afterReadS (e : FEntry) (t : Trans) : FEntry :=
  match e.owner with
  | none => e.shared none (insNat t.who e.sharers)
  | some w =>
    if e.excl then
      match t.ownerSt with
      | some 1 => e.shared none (insNat t.who [w])
      | some 3 => e.shared (some w) [t.who]
      | some _ => e.shared none [t.who]
      | none => if t.gone.contains w then e.shared none [t.who] else e.shared (some w) [t.who]
    else if t.gone.contains w then e.shared none (insNat t.who e.sharers) else e.shared (some w) (insNat t.who e.sharers)

/-- The entry after the CMP of a transaction. -/
def afterCmp (e : FEntry) (t : Trans) (state : Nat) : FEntry :=
  if t.kind = 5 then default
  else if state = 0 then (({ e with trans := none } : FEntry).less t.gone).tidy
  else if t.kind = 0 ∧ state = 1 then afterReadS e t
  else e.only t.who

/-- The entry after a WB or EVC of a member. -/
def afterEvict (e : FEntry) (kind r : Nat) : FEntry :=
  if kind = 3 then e.shared none (if e.excl then [] else e.sharers)
  else if e.excl then default else e.shared e.owner (e.sharers.filter fun m => m != r)

/-! ### Transactions -/

/-- A transaction begins: its MRD and its snoops go out. -/
def State.beginTrans (s : State) (a g : Nat) (t : Trans) : State :=
  let e := s.fent a g
  let v := served e t.kind t.who
  let t1 := { t with snoops := v.snoops.map fun x => (x.1, x.2 != 0x52), grant := v.grant, dataExp := v.dataExp, after := none }
  let s1 := s.setFent a g { e with trans := some t1 }
  (s1.when v.mrd fun s => s.sendMrd a g t1).each v.snoops fun s x => s.sendSnoop a g t1 x

/-- A transaction whose snoops have all been answered goes on: GNT, the MWR of an eviction, or the end of an entry. What waits for
the place of the entry then begins; `fuel` bounds the chain. -/
def State.transGo (s : State) (a g : Nat) : Nat → State
  | 0 => s
  | fuel + 1 =>
    match (s.fent a g).trans with
    | none => s
    | some t =>
      let gone := fun (s : State) =>
        let s1 := (s.freeHome a g t).setFent a g default
        match (s1.ccx a).filter.find? fun x => (x.2.trans.bind Trans.after) == some g with
        | none => s1
        | some x => match x.2.trans with
          | some u => (s1.beginTrans a x.1 u).transGo a x.1 fuel
          | none => s1
      if t.after.isSome ∨ !t.snoops.isEmpty ∨ t.homeOp = 0x5A then s
      else if t.kind = 7 then gone s
      else if t.kind = 6 then
        if t.homeOp = 0x59 ∨ (t.needData && !t.dataIn && !t.bad) then s
        else if t.dirty && !t.granted then
          match s.sendHome a g 0x59 { t with slot := s.selfSlot a, ch := a } t.data with
          | (s1, true) => s1.updTrans a g fun t => { t with granted := true }
          | (s1, false) => gone s1
        else gone s
      else if t.kind ≤ 2 ∨ t.kind = 5 then
        if t.granted then s else (s.updTrans a g fun t => { t with granted := true }).sendGnt a g t
      else s

/-- A bound for the chain of transactions that wait for one another's places. -/
def chainFuel : Nat := 4

/-- A transaction ends with a new entry. -/
def State.endTrans (s : State) (a g : Nat) (t : Trans) (e : FEntry) : State :=
  ((s.freeHome a g t).setFent a g e).retirePlan

/-! ### Refusals and reservations (R450, R452) -/

/-- The refusal of RD_S, RD_X and UPG by the coherent region table (R450). -/
def State.crgnRefusal (s : State) (a : Nat) (m : SMsg) (kind : Nat) : Option Nat :=
  let k := m.crgn
  let w := s.rd a Reg.CCX_CRGN_CTRL k
  if !wbit w 31 || !(decide (s.rd64 a Reg.CCX_CRGN_BASE_LO k ≤ m.addr) && decide (m.addr + 128 ≤ s.rd64 a Reg.CCX_CRGN_LIMIT_LO k)) then
    some 0xA1
  else if m.key ≠ s.rdN a Reg.CCX_CRGN_KEY k then some 0xA0
  else if !wbit w 16 || (kind != 0 && !wbit w 17) then some 0xA2
  else none

/-- SOLROV_KEY_NAK with the arbiter as target. A coherent region has no job: the privileged queue takes it, once per entry and day
(DEDUCED, log entry 28). -/
def State.arbNak (s : State) (a : Nat) (m : SMsg) (st : Nat) : State :=
  let r := 16384 + m.crgn
  if st = 0xA1 ∨ (s.slp a).nakPosted.contains r = true then s
  else (s.updSlp a fun x => { x with nakPosted := x.nakPosted ++ [r] }).evtPriv (slpPage a) 0 0xA0 0
    (fieldAt 0 7 m.srcSlot + fieldAt 7 4 m.srcCh + fieldAt 14 14 m.crgn + fieldAt 32 8 st)

/-- Takes away the reservation of a granule. -/
def State.unreserve (s : State) (a g : Nat) : State := s.updCcx a fun x => { x with resv := x.resv.filter fun r => r.gran != g }

/-- Whether an aged request outranks a reservation's holder: by AGE, and at equal AGE by R10 over the 16 requester numbers. -/
def State.outranks (s : State) (a who age : Nat) (r : Resv) : Bool :=
  decide (r.age < age) ||
    (age == r.age && roundRobin 16 (s.ccx a).tiePtr (fun n => n == who || n == r.who) == some who && who != r.who)

/-- Whether a request holds age standing (R452). -/
def State.aged (s : State) (a : Nat) (m : SMsg) : Bool := decide (s.rdF a Reg.CCX_AGE 3 0 ≤ m.cAge)

/-- RETRY, with the reservation that an aged request may take (R452). -/
def State.arbRefuse (s : State) (a who : Nat) (m : SMsg) : State :=
  let s1 := (s.cohReply a m 0x54 0).bump a Reg.CCX_RETRY_CNT
  let g := m.gran
  let put := fun (s : State) =>
    (s.unreserve a g).updCcx a fun x => { x with resv := x.resv ++ [⟨g, who, m.cAge⟩], tiePtr := (who + 1) % 16 }
  if !s.aged a m then s1
  else match (s.ccx a).resv.find? fun r => r.gran == g with
    | some r =>
      if r.who = who then s1.updCcx a fun x => { x with resv := x.resv.map fun y => if y.gran = g then { y with age := m.cAge } else y }
      else if s.outranks a who m.cAge r then put s1
      else s1
    | none => if (s.ccx a).resv.length < 64 then put s1 else s1.bump a Reg.CCX_RESV_FULL_CNT

/-- A request is served: it counts, and its reservation is cleared. -/
def State.arbServed (s : State) (a g : Nat) : State :=
  ((s.bump a Reg.CCX_REQ_CNT).when ((s.ccx a).resv.any fun r => r.gran == g) fun s => s.bump a Reg.CCX_AGED_CNT).unreserve a g

/-! ### Serving (R448, R451) -/

/-- A transaction of a request. -/
def newTrans (kind who : Nat) (m : SMsg) : Trans :=
  { (default : Trans) with kind := kind, who := who, slot := m.srcSlot, ch := m.srcCh, tag := m.tag, data := m.data }

/-- Evicts the entry of a granule (R451). -/
def State.evictEntry (s : State) (a g : Nat) : State :=
  let own := (s.fent a g).owner.map fun w => s.memberSlot a w
  let tg : STag := { (default : STag) with
    use := .arb g, mtype := 0x51, slot := own.getD (s.selfSlot a), ch := a, addr := 128 * g, epoch := s.pln.active.epoch,
    at_ := s.tim.now }
  let (s1, k) := s.takeTag a tg
  ((s1.bump a Reg.CCX_FILTER_EVICT_CNT).beginTrans a g
    { (default : Trans) with kind := 6, who := 0, slot := s.selfSlot a, ch := a, tag := k }).transGo a g chainFuel

/-- The entries of a set. -/
def State.filterIn (s : State) (a k : Nat) : List (Nat × FEntry) :=
  (s.ccx a).filter.filter fun x => filterSet x.1 == k && x.2.there

/-- RD_S, RD_X, UPG or CLEAN for a line without an entry: it takes a free way, or the place of an entry that is not BUSY; none if
every way is BUSY, or no tag is free for the eviction. -/
def State.placeReq (s : State) (a g : Nat) (t : Trans) : Option State :=
  let es := s.filterIn a (filterSet g)
  let e : FEntry := { (default : FEntry) with there := true }
  match (List.range 16).find? fun w => !es.any fun x => x.2.way == w with
  | some w => some (((s.setFent a g { e with way := w }).beginTrans a g t).transGo a g chainFuel)
  | none =>
    if !s.tagFree a then none
    else match roundRobin 16 ((s.ccx a).filtPtr.at (filterSet g)) fun w => es.all fun x => x.2.way != w || x.2.trans.isNone with
    | none => none
    | some w =>
      match es.find? fun x => x.2.way == w with
      | none => none
      | some v =>
        let s1 := (s.updCcx a fun x => { x with filtPtr := x.filtPtr.set (filterSet g) ((w + 1) % 16) }).setFent a g
          { e with way := w, trans := some { t with after := some v.1 } }
        some (s1.evictEntry a v.1)

/-- A request that the table marks STALE. -/
def State.arbStale (s : State) (a : Nat) (m : SMsg) : State :=
  (s.cohReply a m 0x55 (fieldAt 13 1 1)).bump a Reg.CCX_STALE_CNT

/-- WB and EVC (R448, R449). -/
def State.arbEvict (s : State) (a kind who : Nat) (m : SMsg) : State :=
  let g := m.gran
  let e := s.fent a g
  let s1 := s.arbServed a g
  let t := newTrans kind who m
  if kind = 3 then
    if e.owner = some who then
      match (s1.setFent a g { e with trans := some t }).sendHome a g 0x59 { t with slot := s.selfSlot a, ch := a } m.data with
      | (s2, true) => s2
      | (s2, false) => (s2.sendEvAck a g t).endTrans a g t (afterEvict e 3 who)
    else s1.arbStale a m
  else if e.sharers.contains who ∨ (e.excl = true ∧ e.owner = some who) then
    (s1.sendEvAck a g t).setFent a g (afterEvict e 4 who)
  else s1.arbStale a m

/-- The number of a requester: a member's agent, or, of a CLEAN, its home channels (R453). -/
def requesterOf (kind k : Nat) : Nat := if kind = 5 then 8 + k else k

/-- The requests for a line that wait at the arbiter, with their requester numbers. They are those of one cycle (R453; DESIGN
CHOICE, log entry 28). -/
def State.rivals (s : State) (a g : Nat) : List (Nat × Nat × SMsg) :=
  (s.slp a).inbox.filterMap fun x =>
    if 0x40 ≤ x.2.mtype ∧ x.2.mtype ≤ 0x45 ∧ x.2.gran = g ∧ x.2.domain = s.domainId a then
      (s.memberOf a x.2.srcSlot).map fun k => (requesterOf (x.2.mtype - 0x40) k, x.1, x.2)
    else none

/-- The requester that goes first of those that ask for a line in one cycle: age standing, then R10 over the requester numbers
(R11, R453). -/
def State.firstOf (s : State) (a : Nat) (l : List (Nat × Bool)) : Nat :=
  let top := if l.any Prod.snd then l.filter Prod.snd else l
  (roundRobin 16 (s.ccx a).tiePtr fun n => top.any fun x => x.1 == n).getD 0

/-- A request at the arbiter alone (R448 to R452). `kind` as in `Trans`. -/
def State.arbServe (s : State) (a kind : Nat) (m : SMsg) : State :=
  match s.memberOf a m.srcSlot with
  | none => s.protoErr a m
  | some k =>
    let who := requesterOf kind k
    let g := m.gran
    let e := s.fent a g
    if e.trans.isSome || (s.ccx a).resv.any (fun r => r.gran == g && r.who != who) then s.arbRefuse a who m
    else if kind = 3 ∨ kind = 4 then s.arbEvict a kind who m
    else match if kind = 5 then none else s.crgnRefusal a m kind with
      | some st => ((s.arbServed a g).cohReply a m 0x53 st).arbNak a m st
      | none =>
        let t := newTrans kind who m
        if e.there then (((s.arbServed a g).beginTrans a g t).transGo a g chainFuel)
        else match (s.arbServed a g).placeReq a g t with
          | some s1 => s1
          | none => s.arbRefuse a who m

/-- A request at the arbiter (R10, R448 to R453). Of requests for a line that come in one cycle and find it neither BUSY nor
reserved, the first is served first, and the pointer moves past it. -/
def State.arbRequest (s : State) (a kind : Nat) (m : SMsg) : State :=
  let g := m.gran
  let rs := s.rivals a g
  match s.memberOf a m.srcSlot with
  | none => s.arbServe a kind m
  | some k =>
    let who := requesterOf kind k
    if rs.isEmpty || (s.fent a g).trans.isSome || (s.ccx a).resv.any (fun r => r.gran == g) then s.arbServe a kind m
    else
      let w := s.firstOf a ((who, s.aged a m) :: rs.map fun x => (x.1, s.aged a x.2.2))
      let s1 := s.updCcx a fun x => { x with tiePtr := (w + 1) % 16 }
      match if w = who then none else rs.find? fun x => x.1 == w with
      | none => s1.arbServe a kind m
      | some x =>
        let s2 := (s1.updSlp a fun y => { y with inbox := y.inbox.erase x.2 }).freeSlots x.2.1 x.2.2
        (s2.arbServe a (x.2.2.mtype - 0x40) x.2.2).arbServe a kind m

/-! ### Answers at the arbiter -/

/-- SRSP (R446, R448). -/
def State.arbSrsp (s : State) (a : Nat) (m : SMsg) : State :=
  let g := m.gran
  let e := s.fent a g
  match s.memberOf a m.srcSlot, e.trans with
  | some k, some t =>
    match t.snoops.find? fun x => x.1 == k with
    | none => s.protoErr a m
    | some x =>
      let t1 := { t with
        snoops := t.snoops.erase x, ownerSt := if e.owner = some k then some m.cState else t.ownerSt,
        gone := if m.cState = 0 then insNat k t.gone else t.gone, needData := t.needData || m.dataExp || (x.2 && t.kind == 6) }
      let s1 := s.setFent a g { e with trans := some t1 }
      (s1.when (x.2 && !m.dataExp) fun s => s.sendMrd a g t1).transGo a g chainFuel
  | _, _ => s.protoErr a m

/-- CMP (R449). -/
def State.arbCmp (s : State) (a : Nat) (m : SMsg) : State :=
  let g := m.gran
  let e := s.fent a g
  match e.trans with
  | none => s.protoErr a m
  | some t =>
    if t.slot = m.srcSlot ∧ t.ch = m.srcCh ∧ t.tag = m.tag ∧ t.granted ∧ t.kind ≠ 6 then s.endTrans a g t (afterCmp e t m.cState)
    else s.protoErr a m

/-- The granule whose transaction a tag of the arbiter serves. -/
def State.arbTag (s : State) (a tag : Nat) : Option (Nat × Trans) :=
  let t := (s.slp a).tags.at tag
  if t.live && !t.quar then match t.use with
    | .arb g => (s.fent a g).trans.map fun u => (g, u)
    | _ => none
  else none

/-- DATA for the arbiter itself (R443, R451). -/
def State.arbData (s : State) (a g : Nat) (m : SMsg) : State :=
  let mrd := ((s.fent a g).trans.filter fun t => t.homeOp == 0x58).map Trans.homeTag
  let s1 := match mrd with
    | some k => (s.dropTag a (k - 1)).updTrans a g fun t => { t with homeTag := 0, homeOp := 0 }
    | none => s
  (s1.updTrans a g fun t => { t with data := m.data, dataIn := true, dirty := m.dirty }).transGo a g chainFuel

/-- The end of an MWR: EV_ACK of a WB, or the end of an eviction. -/
def State.mwrDone (s : State) (a g : Nat) (t : Trans) : State :=
  let e := s.fent a g
  if t.kind = 3 then (s.sendEvAck a g t).endTrans a g t (afterEvict e 3 t.who)
  else ((s.when (t.homeTag != 0) fun s => s.dropTag a (t.homeTag - 1)).updTrans a g fun t =>
    { t with homeTag := 0, homeOp := 0 }).transGo a g chainFuel

/-- MWR_ACK. -/
def State.arbMwrAck (s : State) (a : Nat) (m : SMsg) : State :=
  match s.arbTag a m.tag with
  | some (g, t) => if t.homeOp = 0x59 then (s.bump a Reg.CCX_WB_CNT).mwrDone a g t else s.protoErr a m
  | none => s.protoErr a m

/-- The end of a PSN: the sharers are invalidated, the entry is I, and a transaction that waited for the dead owner's data is
answered by MRD (R455). -/
def State.psnDone (s : State) (a g : Nat) (t : Trans) : State :=
  let e := s.fent a g
  let sh := e.sharers
  let need := !t.granted && decide (t.kind ≤ 5) && (t.needData || (t.kind == 2 && !t.dataExp))
  let t1 := { t with homeTag := 0, homeOp := 0, snoops := t.snoops ++ sh.map fun m => (m, false), dataExp := t.dataExp || need }
  let s1 := (s.when (t.homeTag != 0) fun s => s.dropTag a (t.homeTag - 1)).setFent a g
    { e with excl := false, owner := none, sharers := [], trans := some t1 }
  let s2 := s1.each (invAll sh) fun s x => s.sendSnoop a g t1 x
  (s2.when need fun s => s.sendMrd a g t1).transGo a g chainFuel

/-- PSN_ACK. -/
def State.arbPsnAck (s : State) (a : Nat) (m : SMsg) : State :=
  match s.arbTag a m.tag with
  | some (g, t) => if t.homeOp = 0x5A then s.psnDone a g t else s.protoErr a m
  | none => s.protoErr a m

/-! ### A dead member (R455) and a dead home (R458) -/

/-- Step 2: the transactions of a dead requester complete as though CMP had reported the state granted. -/
def State.deadRequester (s : State) (a k : Nat) : State :=
  s.each (s.ccx a).filter fun s x => match (s.fent a x.1).trans with
    | none => s
    | some t =>
      if (t.who = k ∨ t.who = 8 + k) ∧ (t.kind ≤ 2 ∨ t.kind = 5) then
        if t.after.isSome then s.setFent a x.1 default else s.endTrans a x.1 t (afterCmp (s.fent a x.1) t t.grant)
      else s

/-- PSN for an entry whose owner is dead; a transaction that waits for the owner's data will be answered by MRD. -/
def State.poisonEntry (s : State) (a k g : Nat) : State :=
  let e := s.fent a g
  let t : Trans := match e.trans with
    | some t =>
      let waits := t.snoops.any fun x => x.1 == k && x.2
      { t with needData := if t.kind = 6 then t.needData && !waits else waits, snoops := t.snoops.filter fun x => x.1 != k }
    | none => { (default : Trans) with kind := 7, slot := s.selfSlot a, ch := a }
  if t.kind = 3 then s
  else match (s.setFent a g { e with trans := some t }).sendHome a g 0x5A { t with slot := s.selfSlot a, ch := a } [] with
    | (s1, true) => s1
    | (s1, false) => s1.psnDone a g t

/-- Step 3: the entries that a dead member owns. -/
def State.deadOwner (s : State) (a k : Nat) : State :=
  s.each ((s.ccx a).filter.filter fun x => x.2.owner == some k) fun s x => s.poisonEntry a k x.1

/-- Step 4: the member leaves every sharer mask, and its outstanding answers count as I. -/
def State.deadSharer (s : State) (a k : Nat) : State :=
  s.each (s.ccx a).filter fun s x =>
    let e := s.fent a x.1
    let t := e.trans.map fun t =>
      if t.snoops.any fun y => y.1 == k then
        { t with snoops := t.snoops.filter fun y => y.1 != k, gone := insNat k t.gone }
      else t
    (s.setFent a x.1 ({ e with sharers := e.sharers.filter (fun m => m != k), trans := t } : FEntry).tidy).transGo a x.1 chainFuel

/-- What an ABANDON of a home's slot does to the arbiter's operations there (R458). -/
def State.homeGone (s : State) (a slot : Nat) : State :=
  s.each (s.slotReqs a slot) fun s x => match s.arbTag a x.1 with
    | none => s
    | some (g, t) =>
      if t.homeTag ≠ x.1 + 1 then s
      else
        let s1 := (s.updSlp a fun y => { y with
            tags := if x.1 < 16384 then y.tags.upd x.1 fun z => { z with quar := true } else y.tags.set x.1 default }).updTrans a g fun t =>
          { t with homeTag := 0, homeOp := 0, bad := t.homeOp == 0x58 }
        let t1 := { t with homeTag := 0, homeOp := 0, bad := t.homeOp == 0x58 }
        if t.homeOp = 0x58 then (if t.granted then s1.sendGnt a g t1 else s1.transGo a g chainFuel)
        else if t.homeOp = 0x59 then s1.mwrDone a g t1
        else s1.psnDone a g t1

/-- CCX_FILTER_USED. -/
def State.filterUsed (s : State) (a : Nat) : Word := lo32 ((s.ccx a).filter.filter fun x => x.2.there).length

end Sys2Proof.Machine
end

