-- ==== Sys2Proof/Machine/Home.lean ====
section
/-! DEFINITION. CCX: a home channel's accesses to COHERENT regions, its answers to MRD, MWR and PSN, and near-memory operations
on coherent regions (R440, R441, R456). The rows stand in Domain.lean and Fabric.lean. -/
namespace Sys2Proof.Machine

/-- Whether the region that a message names is COHERENT (R408). -/
def State.rgnCoherent (s : State) (c : Nat) (m : SMsg) : Bool := wbit (s.rgnCtrl c (m.region % 1024)) 20

/-- The granules that ranges of rack space touch. -/
def granulesOf (l : List (Nat × Nat)) : List Nat :=
  (l.flatMap fun r => if r.2 = 0 then [] else (List.range ((r.1 + r.2 - 1) / 128 - r.1 / 128 + 1)).map fun i => r.1 / 128 + i).eraseDups

/-- The bytes that a LOAD, STORE or ATOMIC covers. -/
def SMsg.span (m : SMsg) : Nat := if m.mtype = 0x03 then 8 else 32 * (m.lenM1 + 1)

/-- The COHERENT region in which a state address lies. -/
def State.cohRegion (s : State) (c a : Nat) : Option Nat :=
  (s.selsOf c Reg.SLP_RGN_CTRL).find? fun r =>
    let k := s.rgnCtrl c r
    wbit k 31 && wbit k 20 && s.rgnHas c r a 1

/-- COH_POISONED for a granule, to the region's job (R456, R462). -/
def State.postPoisoned (s : State) (c g cause : Nat) : State :=
  match s.cohRegion c (rackT1 (128 * g)) with
  | some r => s.evtJob c .ccx 4 0xB4 cause 0 0xFFFF (fld (s.rgnCtrl c r) 9 0) (128 * g)
  | none => s

/-- Performs an access; poison that a member of a lost domain stores is posted (R457, R462). -/
def State.homePerform (s : State) (c : Nat) (m : SMsg) : State :=
  let gs := granulesOf [(m.addr, m.span)]
  let s1 := s.when (m.mtype == 0x02 && m.poison && s.rgnCoherent c m && (s.memberOf c m.srcSlot).isSome) fun s =>
    s.each gs fun s g => s.postPoisoned c g 1
  s1.performRack c m

/-- The record of a granule that the home cleans. -/
def State.hgran (s : State) (c g : Nat) : HGran := (s.ccx c).homeGran.at g

/-- Sets it. -/
def State.setHgran (s : State) (c g : Nat) (h : HGran) : State := s.updCcx c fun x => { x with homeGran := x.homeGran.set g h }

/-- CLEAN of a granule. -/
def State.cleanMsg (s : State) (c g age tag : Nat) : SMsg :=
  { s.cohMsg c 0x45 g (s.memberSlot c 0) (s.arbChOf c g) tag with w18 := fieldAt 16 4 age, w1c := reqWord tag (s.selfSlot c) c }

/-- Sends CLEAN for a granule on behalf of an access. -/
def State.sendClean (s : State) (c g who : Nat) : State :=
  let tag := s.freeTag c
  match s.sendRequest c (s.cleanMsg c g 0 tag) (.home g) 0 128 with
  | (s1, .ok) => (s1.setHgran c g { (default : HGran) with there := true, who := who, tag := tag }).bump c Reg.CCX_CLEAN_CNT
  | (s1, _) => s1

/-- An access claims its granules: all of them, where no other access holds one. -/
def State.claim (s : State) (c who : Nat) (gs : List Nat) : State :=
  if gs.all fun g => !(s.hgran c g).there then s.each gs fun s g => s.sendClean c g who else s

/-- Whether an access's granules have all been granted. -/
def State.allGranted (s : State) (c who : Nat) (gs : List Nat) : Bool :=
  gs.all fun g => (s.hgran c g).there && (s.hgran c g).who == who && (s.hgran c g).granted

/-- The granules of an access are given back with CMP (R440). -/
def State.release (s : State) (c : Nat) (gs : List Nat) : State :=
  s.each gs fun s g =>
    let t := (s.hgran c g).tag
    ((s.sendCmp c g t 0).dropTag c t).setHgran c g default

/-- Replaces a running near-memory operation. -/
def State.setOp (s : State) (c : Nat) (o : NmoOp) : State :=
  s.updNmo c fun x => { x with running := x.running.map fun y => if y.id = o.id then o else y }

/-- An operation's next step: the granules that it needs. -/
def State.armOp (s : State) (c : Nat) (o : NmoOp) : State :=
  s.setOp c (if o.isOver then { o with want := [] } else { o with want := granulesOf o.ranges })

/-- One access to a COHERENT region (R440). -/
def State.homeTry (s : State) (c : Nat) (x : Nat × SMsg) : State :=
  let gs := granulesOf [(x.2.addr, x.2.span)]
  if s.allGranted c x.1 gs then
    ((s.homePerform c x.2).release c gs).updCcx c fun y => { y with homeAcc := y.homeAcc.filter fun z => z.1 != x.1 }
  else s.claim c x.1 gs

/-- One near-memory operation on a COHERENT region. -/
def State.opTry (s : State) (c : Nat) (o : NmoOp) : State :=
  if o.want.isEmpty then s
  else if s.allGranted c o.id o.want then
    match s.nmoStep c o with
    | (s1, o1) => (s1.release c o.want).armOp c o1
  else s.claim c o.id o.want

/-- Everything that waits at a home is tried; `fuel` lets what is given back serve what waits for it. -/
def State.homeGo (s : State) (c : Nat) : Nat → State
  | 0 => s
  | fuel + 1 =>
    if (s.ccx c).dstate ≠ 2 then s
    else
      let s1 := s.each (s.ccx c).homeAcc fun s x => s.homeTry c x
      (s1.each (s1.nmo c).running fun s o => s.opTry c o).homeGo c fuel

/-- A LOAD, STORE or ATOMIC that passed its checks: on memory; or, in a COHERENT region, by way of the arbiter, and only once the
domain is formed (R437, R440, R457). -/
def State.homeServe (s : State) (c : Nat) (m : SMsg) : State :=
  if !s.rgnCoherent c m || (s.ccx c).dstate == 3 then s.homePerform c m
  else if (s.ccx c).dstate = 2 then
    (s.updCcx c fun x => { x with homeAcc := x.homeAcc ++ [(x.nextAcc, m)], nextAcc := x.nextAcc + 1 }).homeGo c 2
  else s.updCcx c fun x => { x with homeWait := x.homeWait ++ [m] }

/-- The accesses that waited for the domain. -/
def State.homeStart (s : State) (c : Nat) : State :=
  ((s.updCcx c fun x => { x with homeWait := [] }).each (s.ccx c).homeWait fun s m => s.homeServe c m).homeGo c 2

/-! ### Grants at the home -/

/-- The granule of a tag of the home. -/
def State.homeTag (s : State) (c tag : Nat) : Option Nat :=
  let t := (s.slp c).tags.at tag
  if t.live && !t.quar then match t.use with
    | .home g => some g
    | _ => none
  else none

/-- A grant at the home is done: dirty data goes to memory first (R440). -/
def State.homeGranted (s : State) (c g : Nat) : State :=
  let h := s.hgran c g
  match h.gnt with
  | none => s
  | some (ex, bad) =>
    if ex && h.dat.isNone && !bad then s
    else
      let a := rackT1 (128 * g)
      let s1 := match h.dat with
        | some (bs, true, false) => s.vwrite a (padTo 128 bs)
        | some (_, true, true) => s.vmark a 128
        | _ => s
      (s1.setHgran c g { h with granted := true, resend := none }).homeGo c 2

/-- GNT at the home. -/
def State.homeGnt (s : State) (c g : Nat) (m : SMsg) : State :=
  let h := s.hgran c g
  if h.granted then s.protoErr c m else (s.setHgran c g { h with gnt := some (m.dataExp, m.poison) }).homeGranted c g

/-- DATA at the home. -/
def State.homeData (s : State) (c g : Nat) (m : SMsg) : State :=
  let h := s.hgran c g
  if h.granted then s.protoErr c m else (s.setHgran c g { h with dat := some (m.data, m.dirty, m.poison) }).homeGranted c g

/-- RETRY at the home. -/
def State.homeRetry (s : State) (c g : Nat) : State :=
  let h := s.hgran c g
  s.setHgran c g { h with age := min 15 (h.age + 1), resend := some (s.tim.now + s.backoff c) }

/-- The home resends CLEAN. -/
def State.homeResend (s : State) (c g : Nat) : State :=
  let h := s.hgran c g
  ((s.setHgran c g { h with resend := none }).sendMsg c (s.cleanMsg c g h.age h.tag)).bump c Reg.CCX_CLEAN_CNT

/-! ### MRD, MWR and PSN (R441, R456) -/

/-- MRD: the granule goes to the requester. -/
def State.homeMrd (s : State) (c : Nat) (m : SMsg) : State :=
  let a := rackT1 m.addr
  let bad := s.vpoison a 128
  (s.touch 0 a 128).sendData c m (if bad then List.replicate 128 0 else s.vread a 128) false bad

/-- MWR: the granule is written. -/
def State.homeMwr (s : State) (c : Nat) (m : SMsg) : State :=
  (s.vwrite (rackT1 m.addr) (padTo 128 m.data)).cohReply c m 0x5C 0

/-- PSN: the granule is poisoned. -/
def State.homePsn (s : State) (c : Nat) (m : SMsg) : State :=
  (((s.vmark (rackT1 m.addr) 128).bump c Reg.CCX_POISON_CNT).postPoisoned c m.gran 0).cohReply c m 0x5D 0

/-! ### A lost domain (R457) -/

/-- The home's accesses go on as plain ones. -/
def State.homeLost (s : State) (c : Nat) : State :=
  let x := s.ccx c
  let s1 := (s.each x.homeGran fun s h => s.dropTag c h.2.tag).updCcx c fun y =>
    { y with homeGran := [], homeAcc := [], homeWait := [] }
  let s2 := s1.each (x.homeAcc.map Prod.snd ++ x.homeWait) fun s m => s.homePerform c m
  s2.updNmo c fun y => { y with running := y.running.map fun o => { o with want := [] } }

/-! ### Near-memory operations (R417, R418, R420) -/

/-- An operation starts on the NMO unit. -/
def State.startOp (s : State) (c : Nat) (m : SMsg) : State :=
  let o : NmoOp := { (default : NmoOp) with id := (s.ccx c).nextAcc, msg := m }
  let s1 := (s.updCcx c fun x => { x with nextAcc := x.nextAcc + 1 }).updNmo c fun x => { x with running := x.running ++ [o] }
  if s.rgnCoherent c m && (s.ccx c).dstate != 3 then (s1.armOp c o).homeGo c 2 else s1

/-- NMO at the target: refused, started, or kept waiting in arrival order. -/
def State.nmoArrives (s : State) (c : Nat) (m : SMsg) : State :=
  match s.nmoRefusal c m with
  | some x => s.refuseRack c m x
  | none =>
    if (s.nmo c).running.length < 8 ∧ (s.nmo c).waiting = [] then s.startOp c m
    else s.updNmo c fun x => { x with waiting := x.waiting ++ [m] }

/-- The oldest waiting operation starts where one of the 8 places is free. -/
def State.nmoNext (s : State) (c : Nat) : State :=
  match (s.nmo c).waiting with
  | [] => s
  | m :: l => if 8 ≤ (s.nmo c).running.length then s else (s.updNmo c fun x => { x with waiting := l }).startOp c m

/-- Running operation `k` ends: what it has left is done, unless it still waits for the arbiter. -/
def State.nmoEnd (s : State) (c k : Nat) : State :=
  match (s.nmo c).running[k]? with
  | none => s
  | some o =>
    if s.rgnCoherent c o.msg && (s.ccx c).dstate != 3 && !o.isOver then s
    else match s.nmoRun c o (nmoSteps o.msg) with
      | (s1, o1) => (s1.updNmo c fun x => { x with running := x.running.filter fun y => y.id != o.id }).nmoAnswer c o1

end Sys2Proof.Machine
end

