-- ==== Sys2Proof/Machine/Requests.lean ====
section
/-! DEFINITION. RQT and ADM: bins, admission, placement, the deadline monitor, cancels, moves of requests and the Dawn
actions (R53 to R99). -/
namespace Sys2Proof.Machine

/-- RQT's state of a channel. -/
def State.rqt (s : State) (c : Nat) : RqtCh := (s.ch c).rqt

/-- Changes RQT's state of a channel. -/
def State.updRqt (s : State) (c : Nat) (f : RqtCh → RqtCh) : State := s.updCh c fun x => { x with rqt := f x.rqt }

/-! ### Bins (R72 to R74) -/

/-- One entry of a bin plan section (R72). -/
structure Bin where
  id : Nat
  mode : Nat
  prefill : Bool
  job : Nat
  minLen : Nat
  maxLen : Nat
  chunk : Nat
  cap : Nat
  stride : Nat
  phase : Nat
  deriving DecidableEq, Repr, Inhabited

/-- The bin that 16 bytes hold. -/
def binOf (d : List Byte) : Bin :=
  let w0 := recNat d 0 4
  let w2 := recNat d 8 4
  let w3 := recNat d 12 4
  { id := nfld w0 7 0, mode := nfld w0 9 8, prefill := w0.testBit 10, job := nfld w0 25 16,
    minLen := nfld (recNat d 4 4) 19 0, maxLen := nfld w2 19 0, chunk := nfld w2 31 20, cap := nfld w3 15 0,
    stride := max 1 (nfld w3 23 16), phase := nfld w3 31 24 }

/-- The bins of a channel under the active plan. -/
def State.bins (s : State) (c : Nat) : List Bin :=
  let d := s.pln.active.section_ 1 c
  (chunksOf 16 (d.length / 16) d).map binOf

/-- A bin by its ID. -/
def State.binById (s : State) (c id : Nat) : Option Bin := (s.bins c).find? fun b => b.id == id

/-- Whether a bin steps on a day (R72). -/
def Bin.steps (b : Bin) (d : Nat) : Bool := d % b.stride == b.phase

/-- The step mode of a request, encoded as FALLBACK (R55). -/
def ReqEntry.mode (e : ReqEntry) : Nat := b2n e.flags.sparseOn + 2 * b2n e.flags.exitOn

/-- Whether a request is measured by prefill bins: it is ADMITTED or PREFILLING (R74). -/
def ReqEntry.inPrefill (e : ReqEntry) : Bool := e.st == .admitted || e.st == .prefilling

/-- The length that a bin covers (R73). -/
def ReqEntry.binLen (e : ReqEntry) : Nat :=
  if e.inPrefill then e.promptLen - e.prefixLen
  else if isHome e.shard then e.curLen - shardStart e.shard else e.curLen

/-- R74 without capacity. -/
def Bin.covers (b : Bin) (e : ReqEntry) : Bool :=
  b.job == e.job && b.prefill == e.inPrefill && b.mode == e.mode && decide (b.minLen ≤ e.binLen) &&
    decide (e.binLen ≤ b.maxLen)

/-- The bin with the smallest STRIDE, and then the lowest BIN_ID (R75). -/
def leastBin (bs : List Bin) : Option Bin :=
  bs.foldl (fun m b => match m with
    | none => some b
    | some x => if b.stride < x.stride ∨ (b.stride = x.stride ∧ b.id < x.id) then some b else some x) none

/-- The states in which RQT places requests (R74). -/
def ReqEntry.placeable (e : ReqEntry) : Bool :=
  match e.st with
  | .admitted | .prefilling | .resident | .decoding => true
  | .moving => !e.outbound
  | _ => false

/-! ### The order of R71 -/

/-- What R71 orders: an item with its class, PRIORITY, stamp or deadline, and job. -/
structure Ranked (α : Type) where
  bulk : Bool
  prio : Nat
  key : Nat
  job : Nat
  item : α

/-- Whether `a` ranks strictly before `b` under steps 1 to 3. -/
def Ranked.before {α : Type} (a b : Ranked α) : Bool :=
  if a.bulk != b.bulk then b.bulk
  else if a.prio ≠ b.prio then decide (b.prio < a.prio) else decide (a.key < b.key)

/-- The items that no other ranks before. -/
def topRanked {α : Type} (l : List (Ranked α)) : List (Ranked α) := l.filter fun x => !l.any fun y => y.before x

/-- Distance of a job from the pointer. -/
def jobDist (ptr j : Nat) : Nat := (j + 1024 - ptr) % 1024

/-- The first of the top items by R10 over job numbers. -/
def pickRanked {α : Type} (ptr : Nat) (l : List (Ranked α)) : Option (Ranked α) :=
  let t := topRanked l
  t.find? fun x => t.all fun y => decide (jobDist ptr x.job ≤ jobDist ptr y.job)

/-- Removes the first item at a place. -/
def dropFirst {α : Type} (p : α → Bool) : List α → List α
  | [] => []
  | x :: l => if p x then l else x :: dropFirst p l

/-- The order of R71 of a list of items, and the pointer after it; the pointer moves where jobs tie (R10). -/
def rankOrder {α : Type} : Nat → Nat → List (Ranked α) → List α × Nat
  | 0, ptr, _ => ([], ptr)
  | fuel + 1, ptr, l =>
    match pickRanked ptr l with
    | none => ([], ptr)
    | some x =>
      let tie := (topRanked l).any fun y => y.job != x.job
      let rest := dropFirst (fun y => !y.before x && !x.before y && y.job == x.job) l
      let r := rankOrder fuel (if tie then (x.job + 1) % 1024 else ptr) rest
      (x.item :: r.1, r.2)

/-! ### Placement (R75) -/

/-- The live entries of a channel's table, by slot. -/
def State.reqSlots (s : State) (c : Nat) (p : ReqEntry → Bool) : List Nat := (s.rqt c).entries.keysWhere fun _ e => p e

/-- Requests now placed in a bin, but for slot `i`. -/
def State.binUse (s : State) (c id i : Nat) : Nat :=
  (s.reqSlots c fun e => e.placeable && e.bin == id && id != 0xFF).filter (· != i) |>.length

/-- Whether a bin has room for `n` more, but for slot `i`'s own place. -/
def State.binRoom (s : State) (c : Nat) (b : Bin) (i n : Nat) : Bool := decide (s.binUse c b.id i + n ≤ b.cap)

/-- Whether a bin suits a shard: in its decode state it steps on the days of its home's bin (R90). -/
def ReqEntry.suits (e : ReqEntry) (b : Bin) : Bool := isHome e.shard || e.inPrefill || e.homeBin == some (b.stride, b.phase)

/-- The bin that a request of slot `i` takes, `n` places being needed: its own while it is eligible, else the least. `old`
is its bin before the placement. -/
def State.chooseBin (s : State) (c i old n : Nat) : Option Bin :=
  let e := s.req c i
  let el := (s.bins c).filter fun b => b.covers e && e.suits b && s.binRoom c b i n
  match el.find? fun b => b.id == old with
  | some b => some b
  | none => leastBin el

/-- The home places its shards: it tells them the STRIDE and PHASE of its own bin, 0 for none (R90). -/
def State.placeShards (s : State) (c i stride phase : Nat) : State :=
  s.when (!(s.req c i).inPrefill) fun s => s.toShards c i .shardPlace (leBytes 4 stride ++ leBytes 4 phase)

/-- A request takes a bin: a decode-state request is DECODING, and NO_BIN_POSTED clears (R60, R75). -/
def State.takeBin (s : State) (c i ix : Nat) (b : Bin) : State :=
  ((s.updReq c i fun e => { e with bin := b.id, placeIx := ix, st := if e.inPrefill then e.st else .decoding,
                                   flags := { e.flags with noBinPosted := false } }).updRqt c fun r =>
    { r with placed := r.placed.upd b.id fun l => (l.filter fun x => x.1 != i) ++ [(i, (s.req c i).gen)] }).placeShards c i b.stride b.phase

/-- A request that finds no bin: a decode-state one goes to RESIDENT, and NO_BIN is posted once (R75). An inbound MOVING
one stays MOVING. -/
def State.noBin (s : State) (c i : Nat) : State :=
  let e := s.req c i
  let s1 := (s.updReq c i fun e => { e with bin := 0xFF, st := if e.st = .decoding then .resident else e.st }).placeShards c i 0 0
  if e.inPrefill || e.flags.noBinPosted then s1
  else (s1.updReq c i fun e => { e with flags := { e.flags with noBinPosted := true } }).reqEvt c .rqt 2 0x05 0 i e.userTag

/-- Whether RQT places a request now (R74, R75, R81); a shard in its decode state is placed by its home (R90). -/
def State.canPlace (s : State) (c i : Nat) : Bool :=
  let e := s.req c i
  e.placeable && !e.flags.cancelPending && (isHome e.shard || e.inPrefill || e.homeBin.isSome)

/-- Places the live members of a beam group together, all in one bin or none; a group with a member that cannot be placed
gets none (R295). `l` is the member at whose turn the group is placed. -/
def State.placeGroup (s : State) (c ix : Nat) (old : Nat → Nat) (l : Nat) (slots : List Nat) : State :=
  let s0 := s.each slots fun s i => s.updReq c i fun e => { e with bin := 0xFF }
  let el := (s0.bins c).filter fun b =>
    (slots.all fun i => b.covers (s0.req c i) && s0.canPlace c i) && s0.binRoom c b l slots.length
  match (match el.find? fun b => b.id == old l with | some b => some b | none => leastBin el) with
  | some b => s0.each slots fun s i => s.takeBin c i ix b
  | none => s0.each (slots.filter (s0.canPlace c)) fun s i => s.noBin c i

/-- Places one request, at its turn in the order. The members of a beam group are placed at their leader's turn; where the
leader takes no part in the placement, at the turn of the first member that does (R295; DESIGN CHOICE, log entry 47). -/
def State.placeOne (s : State) (c ix : Nat) (old : Nat → Nat) (i : Nat) : State :=
  match s.beamOf c i with
  | some g =>
    let slots := (s.liveOf c g).map BeamMember.slot
    if slots.find? (s.canPlace c) = some i then s.placeGroup c ix old i slots else s
  | none =>
    match s.chooseBin c i (old i) 1 with
    | some b => s.takeBin c i ix b
    | none => s.noBin c i

/-- CT_DEADLINE as a rank: 0 counts as latest (R75). -/
def deadlineKey (d : Nat) : Nat := if d = 0 then 2 ^ 64 else d

/-- The rank of an entry for placement. -/
def State.placeRank (s : State) (c i : Nat) : Ranked Nat :=
  let e := s.req c i
  ⟨e.bulk, e.prio, deadlineKey e.ctDeadline, e.job, i⟩

/-- Step 6 of Dawn: every placeable request without CANCEL_PENDING is placed, in the order of R71 (R75, R81). Placement and admission
share one rotating pointer over the jobs, and within a job slots come in rising order (DESIGN CHOICE, log entry 53). A DECODING request
whose cancel is held is not placed: it stays DECODING, with BIN 0xFF (DESIGN CHOICE, log entry 63). -/
def State.placeAll (s : State) (c : Nat) : State :=
  let slots := s.reqSlots c ReqEntry.placeable
  let old := fun i => (s.req c i).bin
  let s1 := (s.each slots fun s i => s.updReq c i fun e => { e with bin := 0xFF }).updRqt c fun r => { r with placed := [] }
  let go := slots.filter (s.canPlace c)
  let (order, ptr) := rankOrder go.length (s.rqt c).jobPtr (go.map (s.placeRank c))
  (order.zipIdx.foldl (fun t x => t.placeOne c x.2 old x.1) s1).updRqt c fun r => { r with jobPtr := ptr }

/-- Places one request at once, after the others (R62). -/
def State.placeNow (s : State) (c i : Nat) : State :=
  let ix := (s.reqSlots c fun e => e.placeable && e.bin != 0xFF).length
  if s.canPlace c i then
    match s.beamOf c i with
    | some g => s.placeGroup c ix (fun i => (s.req c i).bin) i ((s.liveOf c g).map BeamMember.slot)
    | none => s.placeOne c ix (fun i => (s.req c i).bin) i
  else s

/-! ### Admission (R66 to R70) -/

/-- A field of the ADMIT payload (R66). -/
def admW (cmd : Cmd) (off hi lo : Nat) : Nat := nfld (recNat cmd.payload off 4) hi lo

/-- SHARD of an ADMIT; an ACCEPT names its source there instead (R66, R85). -/
def admShard (cmd : Cmd) : Nat := if cmd.op = 0x012 then 0 else recNat cmd.payload 0x38 8

/-- The pages per layer before the prefix deduction, and with it (R67, R185). -/
def pagesPerLayer (cmd : Cmd) : Nat :=
  let sh := admShard cmd
  let endTok := if isHome sh then admW cmd 0 19 0 + admW cmd 4 19 0 else shardStart sh + admW cmd 0 19 0
  ceilDiv endTok 16 - shardStart sh / 16

/-- The projected page slots (R67). -/
def projected (cmd : Cmd) : Nat :=
  admW cmd 8 31 20 * (pagesPerLayer cmd - (if shardStart (admShard cmd) = 0 then admW cmd 8 19 0 / 16 else 0))

/-- L1_STRIDE (R185). -/
def l1Stride (cmd : Cmd) : Nat := max 1 (ceilDiv (pagesPerLayer cmd) 256)

/-- ToD at which a day starts. -/
def State.dayStartTod (s : State) (d : Nat) : Nat := s.originNs + (d - s.dayBase) * s.periodNs

/-- R69: the first-token time of `new` prompt tokens from day `d` on in a prefill bin. -/
def State.firstTokenNs (s : State) (new d : Nat) (b : Bin) : Nat :=
  let n := max 1 (ceilDiv new (max 1 b.chunk * 16))
  let d0 := d + (b.phase + b.stride - d % b.stride) % b.stride
  s.dayStartTod (d0 + (n - 1) * b.stride) + s.puStartNs (s.winStartPu .midnight)

/-- The prefill bin in which placement would put a request of a job and a length, its mode being dense (R69, R74, R75); where every
such bin is full, the first that would be taken with room (DESIGN CHOICE, log entry 53). -/
def State.prefillBin (s : State) (c j len : Nat) : Option Bin :=
  let bs := (s.bins c).filter fun b => b.prefill && b.job == j && b.mode == 0 && decide (b.minLen ≤ len) && decide (len ≤ b.maxLen)
  match leastBin (bs.filter fun b => s.binRoom c b 4096 1) with
  | some b => some b
  | none => leastBin bs

/-- The lowest FREE slot (DESIGN CHOICE, log entry 12). -/
def State.freeReq (s : State) (c : Nat) : Option Nat :=
  let i := kthFree (s.reqSlots c fun e => e.st != .free) 0
  if i < 4096 then some i else none

/-- The entry of an accepted ADMIT or ACCEPT (R54, R66, R70, R86). EVICT_BUDGET is named by no command: it is a free value
(log entry 6). CUR_LEN starts at PREFIX_LEN (DEDUCED, log entry 53). -/
def State.newEntry (s : State) (c : Nat) (cmd : Cmd) (i budget : Nat) : ReqEntry :=
  let acc := cmd.op == 0x012
  let hint := recNat cmd.payload 0x34 4
  { (default : ReqEntry) with
    st := if acc then .moving else .admitted, job := cmd.job, bulk := (recNat cmd.payload 0 4).testBit 20,
    prio := admW cmd 0 23 21, fallback := admW cmd 0 25 24, exitLayer := admW cmd 4 31 20, smpCfg := admW cmd 0x30 11 0,
    curLen := if acc then admW cmd 0 19 0 + 1 else admW cmd 8 19 0, cring := admW cmd 0x30 19 12,
    promptLen := admW cmd 0 19 0, layers := admW cmd 8 31 20, maxNew := admW cmd 4 19 0,
    flags := { (default : ReqFlags) with keepPages := (recNat cmd.payload 0 4).testBit 26, pulling := acc,
                                         firstToken := acc },
    gen := ((s.req c i).gen + 1) % 65536, shard := admShard cmd, ftDeadline := recNat cmd.payload 0x10 8,
    ctDeadline := recNat cmd.payload 0x18 8, countTable := recNat cmd.payload 0x20 8, userTag := recNat cmd.payload 0x28 8,
    stepEst := if hint = 0 then s.rdN c Reg.ADM_DEF_STEP_NS else hint, bin := 0xFF, prefixLen := admW cmd 8 19 0,
    pagesReserved := projected cmd, evictBudget := budget % 2 ^ 24, admitNs := s.stamp, handle := recNat cmd.payload 0x0C 4,
    moveReq := if acc then recNat cmd.payload 0x38 2 else 0, moveGen := if acc then recNat cmd.payload 0x3A 2 else 0,
    moveNode := if acc then recNat cmd.payload 0x3C 4 else 0 }

/-- The prefill bin that placement would give a new request: at the start of Dawn the placement of every request as they then stand,
later in Dawn that of the request alone (R69, R75). Where no place is left, the bin that would be taken with room (DESIGN CHOICE, log
entry 53). -/
def State.admitBin (s : State) (c : Nat) (cmd : Cmd) (start : Bool) : Option Bin :=
  let new := admW cmd 0 19 0 - admW cmd 8 19 0
  match s.freeReq c with
  | none => s.prefillBin c cmd.job new
  | some i =>
    let t := s.updReq c i fun _ => s.newEntry c cmd i 0
    let t1 := if start then t.placeAll c else t.placeNow c i
    match s.binById c (t1.req c i).bin with
    | some b => some b
    | none => s.prefillBin c cmd.job new

/-- Check 4 of R68. -/
def State.timeOk (s : State) (c : Nat) (cmd : Cmd) (start : Bool := false) : Bool :=
  if !s.rdB c Reg.ADM_CTRL 0 || cmd.op == 0x012 || !isHome (admShard cmd) then true
  else
    let new := admW cmd 0 19 0 - admW cmd 8 19 0
    match s.admitBin c cmd start with
    | none => false
    | some b =>
      let ft := recNat cmd.payload 0x10 8
      ft == 0 || decide (s.firstTokenNs new s.tim.day b ≤ ft)

/-- Whether a channel's role accepts an ADMIT or an ACCEPT (R64). -/
def State.roleTakes (s : State) (c op : Nat) : Bool :=
  let r := s.rdF c Reg.RQT_ROLE 1 0
  if op = 0x010 then r == 0 || r == 1 else r == 1

/-- The status of an admission's checks: WRONG_ROLE and STALE_HANDLE first, then R68 in order. -/
def State.admitCheck (s : State) (c : Nat) (cmd : Cmd) (start : Bool := false) : Nat :=
  let h := recNat cmd.payload 0x0C 4
  let t := s.tenant c cmd.job
  if !s.roleTakes c cmd.op then 0x05
  else if h ≠ 0 ∧ s.handleOk c cmd.job h = false then 0x06
  else if (s.freeReq c).isNone then 0x03
  else if s.rdN c Reg.ADM_TQ_QUOTA t < s.rdN c Reg.ADM_TQ_CHARGED t + projected cmd then 0x04
  else if s.rdN c Reg.ADM_FREE_PAGES < projected cmd + s.rdN c Reg.ADM_RESERVE_PAGES ∨ 4096 < admW cmd 8 31 20 * l1Stride cmd then 0x01
  else if !s.timeOk c cmd start then 0x02
  else 0

/-- Counts a rejection, and posts ADMIT_REJECTED (R98, R99). -/
def State.countReject (s : State) (c st : Nat) : State :=
  let s1 := match st with
    | 1 => s.bumpF c Reg.ADM_REJ_A 15 0
    | 2 => s.bumpF c Reg.ADM_REJ_A 31 16
    | 3 => s.bumpF c Reg.ADM_REJ_B 15 0
    | 4 => s.bumpF c Reg.ADM_REJ_B 31 16
    | _ => s
  s1.when (decide (1 ≤ st ∧ st ≤ 4)) fun s => s.evt (admPage c) 2

/-- Reserves the projection: charged to the tenant and taken from ADM_FREE_PAGES (R70). -/
def State.reserve (s : State) (c : Nat) (cmd : Cmd) : State :=
  (s.charge c (s.tenant c cmd.job) (projected cmd)).freeSub c (projected cmd)

/-- Makes the entry with its table and its prefix links (R70, R185, R193); `none` when no root can be had. -/
def State.makeEntry (s : State) (c : Nat) (cmd : Cmd) (i : Nat) : Option State :=
  let (budget, s0) := s.drawNat
  match s0.newTable c (.req i) cmd.job (admW cmd 8 31 20) (l1Stride cmd) (recNat cmd.payload 0x28 8) with
  | (_, none) => none
  | (s1, some t) =>
    let e := { s0.newEntry c cmd i budget with table := t, pageRoot := (s1.table c t).root }
    some (((s1.updReq c i fun _ => e).reserve c cmd).linkPrefix c t (recNat cmd.payload 0x0C 4) (admW cmd 8 19 0)
      (admW cmd 8 31 20))

/-! ### Moves between nodes (R85 to R88) -/

/-- Whether a source's location can be reached under the active plan: a slot of the rack by the Solrov routing section, bits [30:11]
being zero, or a Kweuz node by its route entry and the job's DEFAULT connection (R85, R342, R375, R404). -/
def State.nodeRoute (s : State) (c job node : Nat) : Bool :=
  if node.testBit 31 then nfld node 30 11 == 0 && (s.slotRoute c (nfld node 10 4)).isSome
  else (s.route c s.pln.active.epoch node).isSome && (s.defaultConn c job node).isSome

/-- This channel as a Solrov location (R85). -/
def State.ownLocation (s : State) (c : Nat) : Nat := 2 ^ 31 + 16 * s.selfSlot c + c

/-- MOVE_OPEN to the source of an inbound entry; a source that cannot be reached fails the move (R85 to R87). -/
def State.sendOpen (s : State) (c i : Nat) : State :=
  let e := s.req c i
  if !s.nodeRoute c e.job e.moveNode then s.lose c i 0x10
  else if e.moveNode.testBit 31 then
    let (s1, ok) := s.devSendAs c (nfld e.moveNode 10 4) (nfld e.moveNode 3 0) devRing (.moveOpen i e.gen)
      (devRec .moveOpen e.moveReq e.moveGen (leBytes 4 (s.ownLocation c) ++ leBytes 4 (reqIndex c i)))
    s1.when (!ok) fun s => s.lose c i 0x10
  else s.emit (.msg "MOVE_OPEN" [e.moveNode, e.moveReq, e.moveGen, reqIndex c i] [])

/-- Processes one ADMIT or ACCEPT (R68, R70, R86). The slot it took, if it was accepted. One for which no page-table root can be had is
rejected NO_MEMORY after the checks of R68 (DESIGN CHOICE, log entry 53). -/
def State.admitNow (s : State) (c : Nat) (cmd : Cmd) (start : Bool := false) : State × Option Nat :=
  let st := s.admitCheck c cmd start
  if st ≠ 0 then ((s.countReject c st).complete c cmd st, none)
  else match s.freeReq c with
    | none => (s, none)
    | some i =>
      match s.makeEntry c cmd i with
      | none => ((s.countReject c 1).complete c cmd 1, none)
      | some s1 =>
        let s2 := s1.complete c cmd 0 (leBytes 4 (s1.handleNum c i))
        (s2.when (cmd.op == 0x012) fun s => s.sendOpen c i, some i)

/-! ### Pending commands (R32, R62) -/

/-- The stamp of a command: its doorbell's, else the present instant. -/
def State.cmdStamp (s : State) (cmd : Cmd) : Stamp := cmd.stamp.getD ⟨s.tim.tod, s.inWindow .dawn⟩

/-- REQ_INDEX and GEN of a request command (R92). -/
def cmdReq (cmd : Cmd) : Nat := recNat cmd.payload 0 2
def cmdGen (cmd : Cmd) : Nat := recNat cmd.payload 2 2

/-- Whether a handle names a live slot of the command's job on the channel (R56). -/
def State.handleLive (s : State) (c : Nat) (cmd : Cmd) : Bool :=
  let e := s.req c (cmdReq cmd % 4096)
  cmdReq cmd / 4096 == c && e.gen == cmdGen cmd && e.st != .free && e.job == cmd.job

/-- A command waits for the next Dawn start: it leaves its lane (R62, R311). -/
def State.defer (s : State) (c : Nat) (k : PendKind) (cmd : Cmd) : State :=
  let p : Pend := { kind := k, stamp := (s.cmdStamp cmd).tod, slot := cmdReq cmd % 4096, gen := cmdGen cmd, cmd := cmd, node := 0,
                    peer := 0, again := (s.req c (cmdReq cmd % 4096)).flags.cancelPending }
  (s.handOver c cmd).updRqt c fun r => { r with pend := r.pend ++ [p] }

/-- Acts on an ADMIT or ACCEPT at once, and places what it admits (R62). -/
def State.admitEarly (s : State) (c : Nat) (cmd : Cmd) : State :=
  match s.admitNow c cmd with
  | (s1, some i) => s1.placeNow c i
  | (s1, none) => s1

/-- ADMIT (R68). -/
def execAdmitReq (c : Nat) (cmd : Cmd) (s : State) : Host.Outcome State Fault Refusal :=
  let cmd := { cmd with op := 0x010 }
  .next (s.control c cmd fun s => if (s.cmdStamp cmd).early then s.admitEarly c cmd else s.defer c .admission cmd)

/-- ACCEPT (R86). -/
def execAccept (c : Nat) (cmd : Cmd) (s : State) : Host.Outcome State Fault Refusal :=
  let cmd := { cmd with op := 0x012 }
  .next (s.control c cmd fun s => if (s.cmdStamp cmd).early then s.admitEarly c cmd else s.defer c .accept cmd)

/-! ### Cancels (R81 to R84) -/

/-- What a home forwards to its shards (R90). -/
def State.forward (s : State) (c i : Nat) (k : DevKind) : State := s.toShards c i k []

/-- Whether a cancel of a request is held: it is inbound, or pages are still pulled (R81). -/
def ReqEntry.cancelHeld (e : ReqEntry) : Bool := e.flags.pulling && !e.outbound && e.st.live

/-- The status of a cancel that is applied (R61). -/
def ReqEntry.cancelStatus (e : ReqEntry) : Nat :=
  match e.st with
  | .free => 0x06
  | .moving => 0x0A
  | .cancelling => 0x09
  | .done => 0x07
  | .lost => 0x08
  | _ => 0

/-- Clears CANCEL_PENDING. -/
def State.clearCancel (s : State) (c i : Nat) : State :=
  s.updReq c i fun e => { e with flags := { e.flags with cancelPending := false } }

/-- A cancel takes effect: CANCELLING, counted, and forwarded to shards (R60, R90, R96). -/
def State.cancelling (s : State) (c i : Nat) : State :=
  ((((s.dropStep c i).updReq c i fun e => { e with st := .cancelling, bin := 0xFF }).clearCancel c i).bump c
    Reg.RQT_CANCEL_CNT).forward c i .shardCancel

/-- Applies a pending cancel (R61, R84): a second one completes with ALREADY_CANCELLING. The state, and whether the cancel is done
with. -/
def State.applyCancel (s : State) (c : Nat) (p : Pend) : State × Bool :=
  let e := s.req c p.slot
  if e.gen ≠ p.gen ∨ e.st = .free then (s.complete c p.cmd 0x06, true)
  else if e.cancelHeld then (s, false)
  else if p.again then (s.complete c p.cmd 0x09, true)
  else if e.cancelStatus = 0 then ((s.cancelling c p.slot).complete c p.cmd 0, true)
  else ((s.clearCancel c p.slot).complete c p.cmd e.cancelStatus, true)

/-- CANCEL (R81, R84). A second one waits for the Dawn step of the first. -/
def State.cancel (s : State) (c : Nat) (cmd : Cmd) : State :=
  if !s.handleLive c cmd then s.complete c cmd 0x06
  else
    let i := cmdReq cmd % 4096
    let set := fun (s : State) => s.updReq c i fun e => { e with flags := { e.flags with cancelPending := true } }
    let p : Pend := { kind := .cancel, stamp := (s.cmdStamp cmd).tod, slot := i, gen := cmdGen cmd, cmd := cmd, node := 0, peer := 0,
                      again := (s.req c i).flags.cancelPending }
    if (s.cmdStamp cmd).early && !p.again then
      match (set s).applyCancel c p with
      | (s2, true) => s2
      | (_, false) => set (s.defer c .cancel cmd)
    else set (s.defer c .cancel cmd)

/-- CANCEL (R81). -/
def execCancel (c : Nat) (cmd : Cmd) (s : State) : Host.Outcome State Fault Refusal :=
  .next (s.control c cmd fun s => s.cancel c cmd)

/-! ### PARK, RESUME, MOVE_OPEN and MOVE_ABORT (R61, R86 to R89) -/

/-- Applies PARK: RESIDENT and DECODING requests go to SPILLED, and their pages move (R89). -/
def State.applyPark (s : State) (c : Nat) (p : Pend) : State :=
  let e := s.req c p.slot
  if e.gen ≠ p.gen ∨ e.st = .free then s.complete c p.cmd 0x06
  else if e.st = .resident ∨ e.st = .decoding then
    (((((s.dropStep c p.slot).updReq c p.slot fun e => { e with st := .spilled, bin := 0xFF }).parkPages c p.slot).forward c p.slot
      .shardPark).complete c p.cmd 0)
  else s.complete c p.cmd 0x0A

/-- Applies RESUME: SPILLED goes to RESIDENT (R89). -/
def State.applyResume (s : State) (c : Nat) (p : Pend) : State :=
  let e := s.req c p.slot
  if e.gen ≠ p.gen ∨ e.st = .free then s.complete c p.cmd 0x06
  else if e.st = .spilled then
    ((s.updReq c p.slot fun e => { e with st := .resident }).forward c p.slot .shardResume).complete c p.cmd 0
  else s.complete c p.cmd 0x0A

/-- Whether a source takes MOVE_OPEN (R61). -/
def ReqEntry.canMoveOut (e : ReqEntry) : Bool :=
  match e.st with
  | .sealed | .resident | .spilled => true
  | .decoding => !e.flags.pulling
  | _ => false

/-- The rack address of an address in this device's T1 (R403). -/
def State.rackAddr (s : State) (c a : Nat) : Nat := rackBase + s.selfSlot c * 2 ^ 39 + (a - t1Base 0)

/-- Where the other end of a move reaches a page: another device of the rack reaches T1 by its rack address (R85, R403). A node of the
network reaches it by a window and an offset, of which the spec names none: a free value (R85, R187; log entry 6). -/
def State.placeFor (s : State) (c node : Nat) (p : Pte) : Place :=
  if 2 ≤ p.tier then ⟨p.tier, p.addr⟩
  else if node.testBit 31 then (if p.tier = 1 then ⟨3, s.rackAddr c p.addr⟩ else ⟨p.tier, p.addr⟩)
  else ⟨4, Config.movePlace p.addr / 4096 * 4096 % 2 ^ 48⟩

/-- Where the other end of a move by the rack reaches the side record of a page in T1 (R181): 0 where the image is whole. -/
def State.sideFor (s : State) (c node : Nat) (p : Pte) : Nat :=
  if node.testBit 31 && p.tier == 1 then s.rackAddr c (s.sideAddr (t1Channel p.addr) (s.slotOf (t1Channel p.addr) p.addr)) else 0

/-- The pages that a source lists for a move: its homes, with tier and address as the destination reaches them (R86,
R209). -/
def State.movePages (s : State) (c i : Nat) : List MovePage :=
  (s.homeKeys c (s.req c i).table).map fun k =>
    let p := s.pte c k
    let a := s.placeFor c (s.req c i).moveNode p
    ⟨keyLayer k, keyPage k, p.held, p.score, a.tier, a.addr, s.sideFor c (s.req c i).moveNode p⟩

/-- Every VALID home PTE of a request turns MOVING, and the image of a POISONED one is answered as poison (R209). -/
def State.homesMoving (s : State) (c i : Nat) : State :=
  s.each (s.homeKeys c (s.req c i).table) fun s k =>
    let p := s.pte c k
    (s.when (p.st == .valid) fun s => s.setPte c k { p with st := .moving, moveId := 0 }).spoilImage c k

/-- A listed page as a record carries it (log entry 58). -/
def movePageBytes (x : MovePage) : List Byte :=
  leBytes 4 x.layer ++ leBytes 4 x.page ++ leBytes 4 x.held ++ leBytes 4 x.score ++ leBytes 2 x.tier ++ leBytes 6 x.addr ++ leBytes 8 x.side

/-- The listed page that 32 bytes hold. -/
def movePageOf (d : List Byte) : MovePage :=
  ⟨recNat d 0 4, recNat d 4 4, recNat d 8 4, recNat d 12 4, recNat d 16 2, recNat d 18 6, recNat d 24 8⟩

/-- Entry fields and page table as a record carries them (log entry 58). -/
def State.tableBytes (s : State) (c i : Nat) : List Byte :=
  let e := s.req c i
  let f := b2n e.flags.degraded + 2 * b2n e.flags.damaged + 4 * b2n e.flags.sparseOn + 8 * b2n e.flags.exitOn + 16 * b2n e.flags.firstToken
  let l := s.movePages c i
  leBytes 4 e.curLen ++ leBytes 4 e.stepEst ++ leBytes 8 e.lastCommit ++ leBytes 8 e.firstTokenNs ++ leBytes 4 f ++
    leBytes 4 l.length ++ l.flatMap movePageBytes

/-- What a record of a page table says. -/
def moveReplyOf (d : List Byte) : MoveReply :=
  let f := recNat d 24 4
  { refused := false, curLen := recNat d 0 4, stepEst := recNat d 4 4, lastCommit := recNat d 8 8, firstTokenNs := recNat d 16 8,
    degraded := f.testBit 0, damaged := f.testBit 1, sparseOn := f.testBit 2, exitOn := f.testBit 3, firstToken := f.testBit 4,
    pages := (chunksOf 32 (recNat d 28 4) (d.drop 32)).map movePageOf }

/-- The source's answer to MOVE_OPEN: entry fields and page table (R86). -/
def State.sendTable (s : State) (c i : Nat) : State :=
  let e := s.req c i
  s.moveSend c i .pageTable "PAGE_TABLE" e.moveNode e.moveReq 0 (s.tableBytes c i)

/-- The source refuses MOVE_OPEN (R87). -/
def State.refuseOpen (s : State) (c node peer : Nat) : State :=
  if node.testBit 31 then s.devSend c (nfld node 10 4) (nfld node 3 0) devRing (devRec .moveRefused peer 0 [])
  else s.emit (.msg "MOVE_REFUSED" [node, peer] [])

/-- Applies MOVE_OPEN at a source (R61, R86, R87). -/
def State.applyOpen (s : State) (c : Nat) (p : Pend) : State :=
  let e := s.req c p.slot
  if e.gen ≠ p.gen ∨ e.canMoveOut = false then s.refuseOpen c p.node p.peer
  else
    (((s.dropStep c p.slot).updReq c p.slot fun e =>
      { e with preMove := e.st, st := .moving, bin := 0xFF, outbound := true, switched := false, moveNode := p.node,
               moveReq := p.peer }).sendTable c p.slot).homesMoving c p.slot

/-- A MOVING home of an aborted move is VALID again. -/
def State.homesBack (s : State) (c i : Nat) : State :=
  s.each (s.homeKeys c (s.req c i).table) fun s k =>
    let p := s.pte c k
    s.when (p.st == .moving && ((s.pgm c).moves.at p.moveId).all fun m => m.pte != k) fun s => s.setPte c k { p with st := .valid }

/-- MOVE_FAILED (R88, R95). -/
def State.moveFailed (s : State) (c i code : Nat) : State :=
  s.reqEvt c .rqt 3 0x07 code i (s.req c i).userTag

/-- Applies MOVE_ABORT (R61, R88). -/
def State.applyAbort (s : State) (c : Nat) (p : Pend) : State :=
  let e := s.req c p.slot
  if e.gen ≠ p.gen ∨ e.st = .free then s.complete c p.cmd 0x06
  else if e.st ≠ .moving ∨ e.outbound = false then s.complete c p.cmd 0x0A
  else
    let s1 := s.homesBack c p.slot
    let s2 := if e.switched then (s1.lose c p.slot 0x10).moveFailed c p.slot 0x10
      else (s1.updReq c p.slot fun e => { e with st := e.preMove, outbound := false }).moveFailed c p.slot 0
    s2.complete c p.cmd 0

/-- A change that a home forwarded to a shard on this channel (R90). -/
def State.applyShard (s : State) (c : Nat) (p : Pend) : State :=
  let e := s.req c p.slot
  if e.gen ≠ p.gen then s
  else match p.kind with
    | .shardCancel => s.when (e.cancelStatus == 0) fun s => s.cancelling c p.slot
    | .shardPark => s.when (e.st == .resident || e.st == .decoding) fun s =>
        ((s.dropStep c p.slot).updReq c p.slot fun e => { e with st := .spilled, bin := 0xFF }).parkPages c p.slot
    | .shardResume => s.when (e.st == .spilled) fun s => s.updReq c p.slot fun e => { e with st := .resident }
    | .shardFallback => (s.updReq c p.slot fun e =>
        { e with flags := { e.flags with sparseOn := e.flags.sparseOn || e.fallback.testBit 0,
                                         exitOn := e.flags.exitOn || e.fallback.testBit 1, degraded := true } }).bump c
        Reg.ADM_FALLBACK_CNT
    | _ => s

/-- Applies one command of step 4 of Dawn. -/
def State.applyFour (s : State) (c : Nat) (p : Pend) : State :=
  match p.kind with
  | .park => s.applyPark c p
  | .resume => s.applyResume c p
  | .moveOpen => s.applyOpen c p
  | .moveAbort => s.applyAbort c p
  | .shardCancel | .shardPark | .shardResume | .shardFallback => s.applyShard c p
  | .admission | .accept | .cancel => s

/-- A PARK, RESUME or MOVE_ABORT: refused as stale at once, applied in Dawn before the guard, else deferred (R62). -/
def State.reqCommand (s : State) (c : Nat) (k : PendKind) (cmd : Cmd) : State :=
  if !s.handleLive c cmd then s.complete c cmd 0x06
  else if (s.cmdStamp cmd).early then
    let s1 := s.applyFour c { kind := k, stamp := 0, slot := cmdReq cmd % 4096, gen := cmdGen cmd, cmd := cmd, node := 0, peer := 0,
                              again := false }
    s1.when (k == .resume) fun s => s.placeNow c (cmdReq cmd % 4096)
  else s.defer c k cmd

/-- PARK (R89). -/
def execPark (c : Nat) (cmd : Cmd) (s : State) : Host.Outcome State Fault Refusal :=
  .next (s.control c cmd fun s => s.reqCommand c .park cmd)

/-- RESUME (R89). -/
def execResume (c : Nat) (cmd : Cmd) (s : State) : Host.Outcome State Fault Refusal :=
  .next (s.control c cmd fun s => s.reqCommand c .resume cmd)

/-- MOVE_ABORT (R88). -/
def execMoveAbort (c : Nat) (cmd : Cmd) (s : State) : Host.Outcome State Fault Refusal :=
  .next (s.control c cmd fun s => s.reqCommand c .moveAbort cmd)

/-- QUERY (R92): STATE, FLAGS, CUR_LEN and END_CODE, a word each (DESIGN CHOICE, log entry 16). -/
def execQuery (c : Nat) (cmd : Cmd) (s : State) : Host.Outcome State Fault Refusal :=
  .next (s.control c cmd fun s =>
    let e := s.req c (cmdReq cmd % 4096)
    if s.handleLive c cmd then
      s.complete c cmd 0 (leBytes 4 e.st.code ++ leBytes 4 e.flags.num ++ leBytes 4 e.curLen ++ leBytes 4 e.endCode)
    else s.complete c cmd 0x06)

/-- MOVE_OPEN at a source: it waits for the source's Dawn, or is applied in Dawn before the guard. -/
def State.moveOpened (s : State) (c slot gen node peer : Nat) : State :=
  let p : Pend := { kind := .moveOpen, stamp := s.tim.tod, slot := slot % 4096, gen := gen, cmd := default, node := node, peer := peer,
                    again := false }
  s.when (s.enabledCh c) fun s =>
    if s.inWindow .dawn then s.applyOpen c p else s.updRqt c fun r => { r with pend := r.pend ++ [p] }

/-- MOVE_OPEN arrives at a source (R86). -/
def execMoveOpen (c slot gen node peer : Nat) (s : State) : Host.Outcome State Fault Refusal := .next (s.moveOpened c slot gen node peer)

/-- One page that the source listed becomes a home PTE at the destination, still homed at the source (R86, R209). -/
def State.importPage (s : State) (c i : Nat) (x : MovePage) : State :=
  let k := pteKey (s.req c i).table x.layer x.page
  match s.ensureL2 c k with
  | (s1, false) => s1
  | (s1, true) =>
    (s1.setPte c k { (default : Pte) with there := true, tier := x.tier, addr := x.addr, held := x.held, ref := 1,
                                          score := x.score }).updPgm c fun p =>
      { p with atSource := insNat k p.atSource, sides := p.sides.set k x.side }

/-- The entry fields that a move carries (R76, R86). -/
def State.importEntry (s : State) (c i : Nat) (m : MoveReply) : State :=
  s.updReq c i fun e =>
    { e with curLen := m.curLen, lastCommit := m.lastCommit, stepEst := m.stepEst, firstTokenNs := m.firstTokenNs,
             tableIn := true,
             flags := { e.flags with degraded := m.degraded, damaged := m.damaged, sparseOn := m.sparseOn, exitOn := m.exitOn,
                                     firstToken := m.firstToken } }

/-- The page table of an inbound entry arrives: the source's fields and pages, or its refusal. -/
def State.tableReturned (s : State) (c slot gen : Nat) (m : MoveReply) : State :=
  let i := slot % 4096
  let e := s.req c i
  if !s.enabledCh c ∨ e.gen ≠ gen ∨ e.flags.pulling = false ∨ e.outbound ∨ e.tableIn then s
  else if m.refused then s.lose c i 0x10
  else
    let s1 := (s.importEntry c i m).each m.pages fun s x => s.importPage c i x
    if s1.stillPulling c i then s1 else s1.moveComplete c i

/-- PAGE_TABLE_RETURN (R86, R87). -/
def execPageTableReturn (c slot gen : Nat) (m : MoveReply) (s : State) : Host.Outcome State Fault Refusal :=
  .next (s.tableReturned c slot gen m)

/-- A home that has switched leaves its source: the PTE is EVICTED and the image freed. A page that other requests link to stays, and
the lowest link becomes its home (R188, R209; DEDUCED, log entry 21). -/
def State.leaveHome (s : State) (c k : Nat) : State :=
  let p := s.pte c k
  if 1 < p.ref then
    ((s.setPte c k { p with st := if p.st = .poisoned then .poisoned else .valid }).passHome c k).setPte c k
      { (default : Pte) with there := true, st := .evicted }
  else s.decRef c k

/-- The destination tells the source that a page's home has switched (R209). -/
def State.homeSwitched (s : State) (c slot gen layer page : Nat) : State :=
  let i := slot % 4096
  let e := s.req c i
  let k := pteKey e.table layer page
  let p := s.pte c k
  if !s.enabledCh c ∨ e.gen ≠ gen ∨ e.outbound = false ∨ p.there = false ∨ p.link ∨ p.st = .evicted then s
  else ((s.updReq c i fun e => { e with switched := true }).when (decide (p.ref ≤ 1) && slotHere c ⟨p.tier, p.addr⟩) fun s =>
    s.unhold c i).leaveHome c k

/-- HOME_SWITCH_NOTICE (R209). -/
def execHomeSwitchNotice (c slot gen layer page : Nat) (s : State) : Host.Outcome State Fault Refusal :=
  .next (s.homeSwitched c slot gen layer page)

/-- MOVE_CLOSE at the source (R86, R209): it drops its remaining links, is DONE (MOVED) and posts MOVE_DONE. -/
def State.moveClosed (s : State) (c slot gen : Nat) : State :=
  let i := slot % 4096
  let e := s.req c i
  if !s.enabledCh c ∨ e.gen ≠ gen ∨ e.st ≠ .moving ∨ e.outbound = false then s
  else
    let links := (s.tableKeys c e.table).filter fun k => (s.pte c k).link && (s.pte c k).st == .valid
    let s1 := ((s.each links fun s k => s.dropPte c k).setEnd c i .done 0x06).shardEnd c i false 0x06
    s1.postJob c e.job (eventRec 0x06 0 e.gen (reqIndex c i) e.job s.tim.day s.stamp e.userTag)

/-- MOVE_CLOSE (R86, R209). -/
def execMoveClose (c slot gen : Nat) (s : State) : Host.Outcome State Fault Refusal := .next (s.moveClosed c slot gen)

/-! ### Records between devices (R90, R91, R422) -/

/-- The slot of the shard entry on a channel whose home is the request that another device knows by REQ_INDEX `req` (log entry 58). -/
def State.shardOf (s : State) (c srcSlot req : Nat) : Option Nat :=
  (s.reqSlots c fun e => e.st.live && shardCountM1 e.shard != 0 && !isHome e.shard && shardHomeReq e.shard == req &&
    s.memberSlot c (shardHomeDev e.shard) == srcSlot).head?

/-- A change that the home forwarded waits for the shard's next Dawn (R90). -/
def State.shardWaits (s : State) (c i : Nat) (k : PendKind) : State :=
  s.updRqt c fun r => { r with pend := r.pend ++
    [{ kind := k, stamp := s.tim.tod, slot := i, gen := (s.req c i).gen, cmd := default, node := 0, peer := 0, again := false }] }

/-- The home has placed the shard (R90). -/
def State.shardPlaced (s : State) (c i stride phase : Nat) : State :=
  if stride = 0 then s.updReq c i fun e =>
    { e with homeBin := none, bin := if e.inPrefill then e.bin else 0xFF, st := if e.st = .decoding then .resident else e.st }
  else (s.updReq c i fun e => { e with homeBin := some (stride, phase) }).when (s.inWindow .dawn) fun s => s.placeNow c i

/-- The home has ended the shard (R90): a terminal transition as any other, with its END record, and REQUEST_LOST where it is lost; one
of a home that has MOVED writes no record (R63, R300). -/
def State.shardEnded (s : State) (c i code : Nat) (lost : Bool) : State :=
  if lost then s.lose c i code
  else if code = 0x06 then (s.dropStep c i).setEnd c i .done code
  else (s.dropStep c i).finish c i .done code

/-- Whether a record is a message about a request. -/
def isDevRec (bs : List Byte) : Bool := decide (0x10 ≤ recNat bs 0 1)

/-- A record of another device about a request takes effect. -/
def State.devRecord (s : State) (c srcSlot : Nat) (bs : List Byte) : State :=
  let req := recNat bs 4 2
  let gen := recNat bs 2 2
  let d := bs.drop 32
  let shard := fun (f : State → Nat → State) => match s.shardOf c srcSlot req with
    | some i => f s i
    | none => s
  match recNat bs 0 1 with
  | 0x10 => shard fun s i => s.shardWaits c i .shardCancel
  | 0x11 => shard fun s i => s.shardWaits c i .shardPark
  | 0x12 => shard fun s i => s.shardWaits c i .shardResume
  | 0x13 => shard fun s i => s.shardWaits c i .shardFallback
  | 0x14 => shard fun s i => s.shardPlaced c i (recNat d 0 4) (recNat d 4 4)
  | 0x15 => shard fun s i => s.shardEnded c i (recNat d 0 4) (recNat d 4 4 != 0)
  | 0x16 =>
    let e := s.req c (req % 4096)
    s.when (req / 4096 == c && shardCountM1 e.shard != 0 && isHome e.shard) fun s => s.lose c (req % 4096) 0x10
  | 0x18 => s.moveOpened c req gen (recNat d 0 4) (recNat d 4 4)
  | 0x19 => s.tableReturned c req (s.req c (req % 4096)).gen (moveReplyOf d)
  | 0x1A => s.tableReturned c req (s.req c (req % 4096)).gen { (default : MoveReply) with refused := true }
  | 0x1B => s.homeSwitched c req gen (recNat d 0 2) (recNat d 2 2)
  | 0x1C => s.moveClosed c req gen
  | _ => s

/-- The GEN of the home is kept with the shard whose QUERY record came (R169). -/
def State.noteHome (s : State) (c srcSlot : Nat) (bs : List Byte) : State :=
  match s.shardOf c srcSlot (recNat bs 4 2) with
  | some i => s.when (recNat bs 0 1 == 1) fun s => s.updReq c i fun e => { e with homeGen := recNat bs 2 2 }
  | none => s

/-- A QUERY record that the home forwarded, under the REQ_INDEX and GEN of the shard's own entry (R169; log entry 58). -/
def State.ownQuery (s : State) (c srcSlot : Nat) (bs : List Byte) : List Byte :=
  match s.shardOf c srcSlot (recNat bs 4 2) with
  | some i =>
    if recNat bs 0 1 = 1 then
      bs.take 2 ++ leBytes 2 (s.req c i).gen ++ leBytes 4 (fieldAt 0 16 (reqIndex c i) + fieldAt 16 12 (nfld (recNat bs 4 4) 27 16)) ++
        bs.drop 8
    else bs
  | none => bs

/-! ### Dawn (R62) -/

/-- Steps 1 and 4 and 5 take their commands by arrival stamp. -/
def pendOrder (l : List Pend) : List Pend := sortBy l fun a b => decide (a.stamp ≤ b.stamp)

/-- Step 1: every pending cancel; a held one stays. -/
def State.dawnCancels (s : State) (c : Nat) : State :=
  let ps := pendOrder ((s.rqt c).pend.filter fun p => p.kind == .cancel)
  let s0 := s.updRqt c fun r => { r with pend := r.pend.filter fun p => p.kind != .cancel }
  s0.each ps fun s p => match s.applyCancel c p with
    | (s1, true) => s1
    | (s1, false) => s1.updRqt c fun r => { r with pend := r.pend ++ [p] }

/-- Step 2: DONE and LOST entries whose release has completed go FREE, keeping their generation (R56, R63). -/
def State.dawnFree (s : State) (c : Nat) : State :=
  s.each (s.reqSlots c fun e => (e.st == .done || e.st == .lost) && e.released) fun s i =>
    s.updReq c i fun e => { (default : ReqEntry) with gen := e.gen }

/-- Step 3: RQT_ROLE_NEXT takes effect, with ROLE_CHANGED (R65, R95). The reserved value 3 becomes the role too, which then takes neither
ADMIT nor ACCEPT (DESIGN CHOICE, log entry 63). -/
def State.dawnRole (s : State) (c : Nat) : State :=
  if (s.rqt c).roleWritten then
    let r := s.rdF c Reg.RQT_ROLE_NEXT 1 0
    ((s.updRqt c fun x => { x with roleWritten := false }).wr c Reg.RQT_ROLE (BitVec.ofNat 32 r)).evtPriv (rqtPage c) 0 0x08 r 0
  else s

/-- Whether a pending command belongs to step 4. -/
def stepFour : PendKind → Bool
  | .admission | .accept | .cancel => false
  | _ => true

/-- Step 4: pending PARK, RESUME, MOVE_OPEN and MOVE_ABORT commands. -/
def State.dawnFour (s : State) (c : Nat) : State :=
  let ps := pendOrder ((s.rqt c).pend.filter fun p => stepFour p.kind)
  (s.updRqt c fun r => { r with pend := r.pend.filter fun p => !stepFour p.kind }).each ps fun s p => s.applyFour c p

/-- The rank of a pending ADMIT or ACCEPT (R71). -/
def pendRank (p : Pend) : Ranked Pend :=
  ⟨(recNat p.cmd.payload 0 4).testBit 20, admW p.cmd 0 23 21, p.stamp, p.cmd.job, p⟩

/-- Step 5: pending ADMIT and ACCEPT commands in the order of R71. -/
def State.dawnAdmit (s : State) (c : Nat) : State :=
  let ps := (s.rqt c).pend.filter fun p => p.kind == .admission || p.kind == .accept
  let (order, ptr) := rankOrder ps.length (s.rqt c).jobPtr (ps.map pendRank)
  let s0 := s.updRqt c fun r => { r with jobPtr := ptr, pend := r.pend.filter fun p => !(p.kind == .admission || p.kind == .accept) }
  s0.each order fun s p => (s.admitNow c p.cmd true).1

/-- The Dawn start of a channel (R62): cancels, releases, the role, commands, admission and placement. FREEING handles
whose release has completed go FREE too (R192). -/
def State.dawnStart (s : State) (c : Nat) : State :=
  ((((((s.dawnCancels c).dawnFree c).freeHandles c).dawnRole c).dawnFour c).dawnAdmit c).placeAll c

/-! ### The deadline monitor (R76 to R80) -/

/-- R76: the commit of tokens updates STEP_EST_NS and LAST_COMMIT_NS. The first token's commit sets FIRST_TOKEN_NS and
leaves the estimate. An EST_SHIFT beyond 8 is used as it is written (DESIGN CHOICE, log entry 63). -/
def State.onCommit (s : State) (c i tokens : Nat) : State :=
  let now := s.stamp
  let sh := s.rdF c Reg.RQT_CFG 3 0
  s.updReq c i fun e =>
    if e.flags.firstToken then
      let meas : Int := ((now : Int) - e.lastCommit) / (max 1 tokens : Nat)
      { e with stepEst := lowOf 32 (e.stepEst + (meas - e.stepEst) / (2 ^ sh : Nat)), lastCommit := now }
    else
      { e with firstTokenNs := now, lastCommit := now, flags := { e.flags with firstToken := true } }

/-- The decode bins of a job in a mode that cover a request's length, capacity aside. -/
def State.fallbackBins (s : State) (c i mode : Nat) : List Bin :=
  let e := s.req c i
  (s.bins c).filter fun b =>
    !b.prefill && b.job == e.job && b.mode == mode && decide (b.minLen ≤ e.binLen) && decide (e.binLen ≤ b.maxLen)

/-- Applies a request's fallback (R77, R78, R90). -/
def State.applyFallback (s : State) (c i pred : Nat) : State :=
  (((s.updReq c i fun e =>
    { e with flags := { e.flags with sparseOn := e.flags.sparseOn || e.fallback.testBit 0,
                                     exitOn := e.flags.exitOn || e.fallback.testBit 1, degraded := true } }).bump c
    Reg.ADM_FALLBACK_CNT).reqEvt c .adm 0 0x01 0 i pred).forward c i .shardFallback

/-- Posts MISS_PREDICTED (R77, R79, R95). -/
def State.postMiss (s : State) (c i cause pred : Nat) : State :=
  let s1 := s.updReq c i fun e =>
    { e with flags := if cause = 1 then { e.flags with ftMissPosted := true } else { e.flags with ctMissPosted := true } }
  (s1.bump c Reg.ADM_MISS_PRED_CNT).reqEvt c .adm 1 0x02 cause i pred

/-- The margin of a request's class (R98). -/
def State.margin (s : State) (c : Nat) (bulk : Bool) : Nat :=
  s.rdN c (if bulk then Reg.ADM_MARGIN_BULK else Reg.ADM_MARGIN_INT)

/-- R77: the evaluation of one request at `now`. A request without a bin counts with a STRIDE of 1 (DESIGN CHOICE, log entry 53). -/
def State.monitor (s : State) (c i now : Nat) : State :=
  let e := s.req c i
  let rem := e.maxNew - (e.curLen - e.promptLen)
  let limit : Int := (e.ctDeadline : Int) - s.margin c e.bulk
  let pred := now + rem * e.stepEst
  if (pred : Int) ≤ limit then s
  else
    let fb := if e.fallback ≠ 0 ∧ e.flags.degraded = false then s.fallbackBins c i e.fallback else []
    match leastBin fb with
    | some b =>
      let stride := ((s.binById c e.bin).map Bin.stride).getD 1
      let pred2 := now + rem * e.stepEst * b.stride / stride
      let s1 := s.applyFallback c i pred
      if (pred2 : Int) ≤ limit || e.flags.ctMissPosted then s1 else s1.postMiss c i 0 pred2
    | none => if e.flags.ctMissPosted then s else s.postMiss c i 0 pred

/-- Whether the monitor evaluates a request: DECODING, with a deadline, and the home of its shards (R77, R90). -/
def State.monitored (s : State) (c i : Nat) : Bool :=
  let e := s.req c i
  s.rdB c Reg.ADM_CTRL 1 && e.st == .decoding && e.ctDeadline != 0 && isHome e.shard && !e.monitored

/-- Evaluates a request that the monitor has not yet evaluated today. -/
def State.monitorOnce (s : State) (c i now : Nat) : State :=
  s.when (s.monitored c i) fun s => (s.monitor c i now).updReq c i fun e => { e with monitored := true }

/-- The Dusk start's evaluation: every monitored request without a step to commit today (R77). -/
def State.duskMonitor (s : State) (c : Nat) : State :=
  let s0 := (s.each (s.reqSlots c fun e => e.monitored) fun s i => s.updReq c i fun e => { e with monitored := false }).updRqt c
    fun r => { r with duskTod := some s.stamp }
  s0.each (s0.reqSlots c fun e => e.st == .decoding) fun s i =>
    s.when (!s.stepRuns c i) fun s => s.monitorOnce c i s.stamp

/-- The evaluation of a request whose step of the day does not commit after all: as of the start of Dusk (R77). -/
def State.monitorLate (s : State) (c i : Nat) : State :=
  match (s.rqt c).duskTod with
  | some t => s.monitorOnce c i t
  | none => s

/-- At the day's end the requests whose step did not commit are evaluated (R77); no monitor runs on a channel in recovery (R563). -/
def State.lateMonitor (s : State) (c : Nat) : State :=
  (s.when (s.serves c) fun s => s.each (s.reqSlots c fun e => e.st == .decoding) fun s i => s.monitorLate c i).updRqt c fun r =>
    { r with duskTod := none }

/-- R79: the first-token evaluation of one prefilling request, from the next day on. A request that no prefill bin covers gets none
(DESIGN CHOICE, log entry 63). -/
def State.monitorFirst (s : State) (c i : Nat) : State :=
  let e := s.req c i
  match (match s.binById c e.bin with | some b => some b | none => s.prefillBin c e.job e.binLen) with
  | none => s
  | some b =>
    let t := s.firstTokenNs (e.promptLen - e.curLen) (s.tim.day + 1) b
    s.when (decide (e.ftDeadline < t)) fun s => s.postMiss c i 1 t

/-- The Dusk's first-token evaluations (R79), made at the start of Dusk: a chunk that the day still commits counts from the next day on
(DESIGN CHOICE, log entry 63). -/
def State.duskFirst (s : State) (c : Nat) : State :=
  if s.rdB c Reg.ADM_CTRL 1 then
    s.each (s.reqSlots c fun e => e.inPrefill && isHome e.shard && e.ftDeadline != 0 && !e.flags.ftMissPosted) fun s i =>
      s.monitorFirst c i
  else s

/-- CANCELLING requests end at Dusk (R60, R82). -/
def State.duskCancelled (s : State) (c : Nat) : State :=
  s.each (s.reqSlots c fun e => e.st == .cancelling) fun s i => s.finish c i .done 0x05

/-! ### Views (R54, R96, R98) -/

/-- The number of entries in a state. -/
def State.stateCount (s : State) (c : Nat) (st : ReqState) : Nat :=
  if st = .free then 4096 - (s.reqSlots c fun e => e.st != .free).length else (s.reqSlots c fun e => e.st == st).length

/-- Two counts in one word. -/
def State.cntWord (s : State) (c : Nat) (a b : ReqState) : Word :=
  BitVec.ofNat 32 (s.stateCount c a + 65536 * s.stateCount c b)

/-- The 128 bytes of an entry (R54). -/
def entryBytes (c i : Nat) (e : ReqEntry) : List Byte :=
  leBytes 4 (fieldAt 0 16 (reqIndex c i) + fieldAt 16 10 e.job + fieldAt 26 1 (b2n e.bulk) + fieldAt 28 4 e.st.code) ++
    leBytes 4 (fieldAt 0 3 e.prio + fieldAt 4 2 e.fallback + fieldAt 8 12 e.exitLayer + fieldAt 20 12 e.smpCfg) ++
    leBytes 4 (fieldAt 0 20 e.curLen + fieldAt 20 8 e.cring) ++ leBytes 4 (fieldAt 0 20 e.promptLen + fieldAt 20 12 e.layers) ++
    leBytes 4 (fieldAt 0 20 e.maxNew + fieldAt 20 12 e.flags.num) ++
    leBytes 4 (fieldAt 0 8 e.endCode + fieldAt 8 4 e.preMove.code + fieldAt 16 16 e.gen) ++ leBytes 8 e.pageRoot ++
    leBytes 8 e.shard ++ leBytes 8 e.ftDeadline ++ leBytes 8 e.ctDeadline ++ leBytes 8 e.countTable ++ leBytes 8 e.userTag ++
    leBytes 8 e.lastCommit ++ leBytes 4 e.stepEst ++ leBytes 4 (fieldAt 0 8 e.bin) ++ leBytes 4 (fieldAt 0 20 e.prefixLen) ++
    leBytes 4 e.pagesReserved ++ leBytes 4 e.pagesHeld ++ leBytes 4 (fieldAt 0 24 e.evictBudget) ++ leBytes 8 e.admitNs ++
    leBytes 8 e.firstTokenNs ++ leBytes 4 e.handle ++ leBytes 4 0

/-- The snapshot of the selected entry in the entry window, which shows it whatever RQT_SEL holds afterwards (R96); before the first it
reads 0 (DESIGN CHOICE, log entry 63). -/
def State.snapEntry (s : State) (c : Nat) : State :=
  let i := s.rdF c Reg.RQT_SEL 11 0
  (wordsOf (entryBytes c i (s.req c i))).zipIdx.foldl (fun t x => t.wrAt (rqtPage c) (0x200 + 4 * x.2) x.1) s

/-- RQT_ENTRY_READ (R96). -/
def execRqtEntryRead (rq : Requester) (c : Nat) (s : State) : Host.Outcome State Fault Refusal :=
  .next (s.sideRead rq (rqtPage c)
    (fun s => let i := s.rdF c Reg.RQT_SEL 11 0; (wordsOf (entryBytes c i (s.req c i))).headD 0) fun s => s.snapEntry c)

/-- ADM_PENDING (R98). -/
def State.admPending (s : State) (c : Nat) : Word :=
  BitVec.ofNat 32 (((s.rqt c).pend.filter fun p => p.kind == .admission).length +
    65536 * ((s.rqt c).pend.filter fun p => p.kind == .accept).length)

end Sys2Proof.Machine
end

