-- ==== Sys2Proof/Machine/Spares.lean ====
section
/-! DEFINITION. SPR: spare offers, their commit and decline, and the remaps that take effect at a day boundary (R569 to
R572, R581, R586, R587). -/
namespace Sys2Proof.Machine

/-- SPR's page. -/
def sprPage : Page := ⟨.spr, 0⟩

/-- Sets SPR's own state. -/
def State.setSpr (s : State) (f : Spr → Spr) : State := { s with spr := f s.spr }

/-- DETAIL of a spare event (R581). -/
def sparesDetail (unit item id : Nat) : Nat := fieldAt 0 4 unit + fieldAt 8 8 item + fieldAt 16 8 id

/-- The offers of a channel, or of a die, that are pending or wait for their boundary. -/
def Spr.offersOf (x : Spr) (isCore : Bool) (unit : Nat) : List Nat :=
  x.offers.keysWhere fun _ o => o.pending && o.isCore == isCore && o.unit == unit

/-- The lowest OFFER_ID that no offer holds (DESIGN CHOICE, log entry 12). -/
def Spr.freeId (x : Spr) : Nat := ((List.range 256).find? fun i => !(x.offers.at i).pending).getD 0

/-- Holds an offer and posts SPARE_OFFER, if there is room for it: 8 per channel and one per die (R571). -/
def State.offerSpare (s : State) (isCore : Bool) (unit item : Nat) : State :=
  if (if isCore then 1 else 8) ≤ (s.spr.offersOf isCore unit).length then s
  else
    let id := s.spr.freeId
    (s.setSpr fun x => { x with offers := x.offers.set id ⟨true, isCore, unit, item, false⟩ }).evtPriv sprPage 0 0xE4
      (b2n isCore) (sparesDetail unit item id)

/-- A column of an array fails: it is masked, the error is posted under SOURCE 0x23, and a spare slice is offered, or
SPARE_EXHAUSTED is posted (R569, R571). -/
def State.failColumn (s : State) (c x : Nat) : State :=
  let s1 := (s.logErr ⟨.atn, c⟩ 0x23 0 2 0 x).bump 0 Reg.RAS_DEFER_CNT
  if (s1.spr.masked.at c).contains x then s1
  else
    let s2 := s1.setSpr fun y => { y with masked := y.masked.upd c (· ++ [x]), lastFailed := y.lastFailed.set c x }
    if 8 ≤ s2.spr.slicesUsed.at c then s2.evtPriv sprPage 2 0xE6 0 (fieldAt 0 4 c + fieldAt 8 8 x)
    else s2.offerSpare false c x

/-- The usable columns of a band of a channel's array (R132, R569). -/
def State.bandCols (s : State) (c : Nat) : Nat := 128 - (s.spr.masked.at c).length

/-- SPARE_COMMIT (R571): the offer's remap waits for the next day boundary. -/
def execSpareCommit (rq : Requester) (id : Nat) (s : State) : Host.Outcome State Fault Refusal :=
  .next (s.onWrite rq 0 Reg.SPR_CMD (lo32 (id % 256 + 0x100)) fun s =>
    s.when (s.spr.offers.at (id % 256)).pending fun s =>
      s.setSpr fun x => { x with offers := x.offers.upd (id % 256) fun o => { o with committed := true } })

/-- SPARE_DECLINE (R571): the offer is withdrawn. -/
def execSpareDecline (rq : Requester) (id : Nat) (s : State) : Host.Outcome State Fault Refusal :=
  .next (s.onWrite rq 0 Reg.SPR_CMD (lo32 (id % 256 + 0x200)) fun s =>
    s.setSpr fun x => { x with offers := x.offers.set (id % 256) default })

/-- A remap takes effect: a slice takes the column's place, or the spare core answers as the failed core (R571). -/
def Spr.remap (x : Spr) (o : SpareOffer) : Spr :=
  if o.isCore then
    if o.unit = 0 then { x with die0 := .remapped, die0Core := o.item } else { x with die1 := .remapped, die1Core := o.item }
  else
    { x with masked := x.masked.upd o.unit (fun l => l.filter fun i => i != o.item),
             slicesUsed := x.slicesUsed.upd o.unit (· + 1) }

/-- A control core. -/
def State.core (s : State) (k : Nat) : CoreSt := s.boot.cores.at k

/-- Changes a control core. -/
def State.updCore (s : State) (k : Nat) (f : CoreSt → CoreSt) : State :=
  { s with boot := { s.boot with cores := s.boot.cores.upd k f } }

/-- A spare core answers as the failed core: the routes that it took return to that number, and it stands in for no other (R571). -/
def State.spareAnswers (s : State) (die item : Nat) : State :=
  let x := s.core (20 + die)
  ((s.each x.took fun s n => s.setRoute n item).updCore item fun _ => { x with covering := none, failed := false, took := [] }).updCore
    (20 + die) fun _ => default

/-- Step 3 of a boundary: every committed remap takes effect (R39, R571, R581). A column for which no spare slice is left by then stays
masked (DEDUCED, log entry 12). -/
def State.remapSpares (s : State) : State :=
  s.each (s.spr.offers.keysWhere fun _ o => o.pending && o.committed) fun s id =>
    let o := s.spr.offers.at id
    if !o.isCore && decide (8 ≤ s.spr.slicesUsed.at o.unit) then
      (s.setSpr fun x => { x with offers := x.offers.set id default }).evtPriv sprPage 2 0xE6 0 (fieldAt 0 4 o.unit + fieldAt 8 8 o.item)
    else (((s.setSpr fun x => { x.remap o with offers := x.offers.set id default }).when o.isCore fun s =>
      s.spareAnswers o.unit o.item).bump 0 Reg.SPR_REMAP_CNT).evtPriv sprPage 1 0xE5 (b2n o.isCore) (sparesDetail o.unit o.item id)

/-- The code of a compute die's spare core (R586). -/
def SpareCore.code : SpareCore → Nat
  | .free => 0 | .covering => 1 | .remapped => 2

/-- SPR_COL of the selected channel (R586). -/
def State.sprCol (s : State) (c : Nat) : Word :=
  BitVec.ofNat 32 (fieldAt 0 4 (s.spr.slicesUsed.at c) + fieldAt 8 4 (s.spr.masked.at c).length +
    fieldAt 16 8 (s.spr.lastFailed.at c))

/-- SPR_CORE (R586). -/
def State.sprCore (s : State) : Word :=
  BitVec.ofNat 32 (s.spr.die0.code + fieldAt 8 5 s.spr.die0Core + fieldAt 16 2 s.spr.die1.code + fieldAt 24 5 s.spr.die1Core)

end Sys2Proof.Machine
end

