-- ==== Sys2Proof/Machine/Sweep.lean ====
section
/-! DEFINITION. What a sweep is made of: its descriptor and the checks of R144, the sweep schedule, page images and their
blocks, rotation, and exchange rings with their records (R143 to R146, R154, R162 to R166, R177 to R179). -/
namespace Sys2Proof.Machine

/-! ### The sweep descriptor (R143, R144) -/

/-- A sweep descriptor. -/
structure Desc where
  kind : Nat
  fold : Nat
  bin : Nat
  drafts : Nat
  layer : Nat
  qHeads : Nat
  kvHeads : Nat
  kDim : Nat
  vDim : Nat
  latent : Nat
  ropeDims : Nat
  latMode : Nat
  ropeMode : Nat
  ropePair : Bool
  posBias : Bool
  mask : Nat
  inRing : Nat
  outRing : Nat
  alpha : Rat
  theta : Rat
  window : Nat
  top : Nat
  sink : Nat
  recent : Nat
  biasAddr : Nat
  projAddr : Nat
  scoreAddr : Nat
  probAddr : Nat
  stateAddr : Nat
  stateStride : Nat
  decayAddr : Nat
  reservedZero : Bool
  deriving DecidableEq, Repr, Inhabited

/-- The descriptor that 128 bytes hold. -/
def descOf (d : List Byte) : Desc :=
  let w := fun o => recNat d o 4
  { kind := nfld (w 0) 7 0, fold := nfld (w 0) 10 8, bin := nfld (w 0) 23 16, drafts := nfld (w 0) 27 24,
    layer := nfld (w 4) 11 0, qHeads := nfld (w 4) 23 16 + 1, kvHeads := nfld (w 4) 31 24 + 1,
    kDim := nfld (w 8) 15 0, vDim := nfld (w 8) 31 16, latent := nfld (w 0x0C) 15 0, ropeDims := nfld (w 0x0C) 31 16,
    latMode := nfld (w 0x10) 1 0, ropeMode := nfld (w 0x10) 3 2, ropePair := (w 0x10).testBit 4,
    posBias := (w 0x10).testBit 5, mask := nfld (w 0x10) 7 6, inRing := nfld (w 0x10) 15 8,
    outRing := nfld (w 0x10) 23 16, alpha := (fp32Val (w 0x14)).getD 0, theta := (fp32Val (w 0x18)).getD 0,
    window := nfld (w 0x1C) 19 0, top := nfld (w 0x20) 15 0, sink := nfld (w 0x20) 23 16, recent := nfld (w 0x20) 31 24,
    biasAddr := recNat d 0x28 8, projAddr := recNat d 0x30 8, scoreAddr := recNat d 0x38 8, probAddr := recNat d 0x40 8,
    stateAddr := recNat d 0x48 8, stateStride := w 0x50, decayAddr := recNat d 0x58 8,
    reservedZero := nfld (w 0) 15 11 == 0 && nfld (w 0) 31 28 == 0 && nfld (w 4) 15 12 == 0 && nfld (w 0x10) 31 24 == 0 &&
      nfld (w 0x1C) 31 20 == 0 && w 0x24 == 0 && w 0x54 == 0 && recNat d 0x60 32 == 0 }

/-- The group size G: query heads per KV head, and all of them in latent modes (R134). -/
def Desc.group (d : Desc) : Nat := if d.latMode = 0 then d.qHeads / d.kvHeads else d.qHeads

/-- H of R177: the KV heads whose keys a page holds. -/
def Desc.heads (d : Desc) : Nat := if d.latMode = 0 then d.kvHeads else 1

/-- The attended key dimension (R143). -/
def Desc.keyDim (d : Desc) : Nat := if d.latMode = 0 then d.kDim else d.latent + d.ropeDims

/-- The attended value dimension (R143). -/
def Desc.valDim (d : Desc) : Nat := if d.latMode = 0 then d.vDim else d.latent

/-- V of R177: KV values per token and layer. -/
def Desc.kvVals (d : Desc) : Nat := if d.latMode = 0 then d.kvHeads * (d.kDim + d.vDim) else d.latent + d.ropeDims

/-- The query dimension of R166. -/
def Desc.queryDim (d : Desc) : Nat :=
  match d.latMode with
  | 0 => d.kDim
  | 1 => d.latent + d.ropeDims
  | _ => d.kDim + d.ropeDims

/-- The output dimension of R166. -/
def Desc.outDim (d : Desc) : Nat := if d.latMode = 1 then d.latent else d.vDim

/-- Blocks per token (R178). -/
def Desc.tokBlocks (d : Desc) : Nat := d.kvVals / 16

/-- The fold's height: rows of a row set (R131). -/
def Desc.height (d : Desc) : Nat := 8 * 2 ^ d.fold

/-- The bands of a column set (R131). -/
def Desc.bands (d : Desc) : Nat := 32 / 2 ^ d.fold

/-- R177: the model fits a page image. -/
def Desc.fits (d : Desc) : Bool := decide (10 * d.kvVals + 128 * d.heads ≤ 20480)

/-- A dimension that is a multiple of 16 and at least 16. -/
def dimOk (n : Nat) : Bool := n % 16 == 0 && decide (16 ≤ n)

/-- R144, for a command of an OP and a job; `b` is the descriptor's bin in the active plan. A reserved value of a mode
field fails the checks, as does a KIND that is not the OP's (DEDUCED, log entry 17). -/
def Desc.ok (d : Desc) (op job : Nat) (b : Option Bin) : Bool :=
  decide (1 ≤ d.kind) && decide (d.kind ≤ 7) && d.kind + 0x100 == op && decide (d.fold ≤ 5) &&
    (match b with
      | some b => b.job == job && (d.drafts == 0 || ((d.kind == 4 || d.kind == 5) && !b.prefill && decide (d.drafts ≤ 8)))
      | none => false) &&
    d.qHeads % d.kvHeads == 0 && (d.latMode == 0 || d.kvHeads == 1) && decide (d.latMode ≤ 2) && decide (d.ropeMode ≤ 2) &&
    decide (d.mask ≤ 2) && dimOk d.kDim && dimOk d.vDim && (d.latent == 0 || dimOk d.latent) &&
    (d.latMode == 0 || d.latent != 0) && decide (d.keyDim + d.valDim ≤ 960) &&
    (d.latMode != 2 || (decide (d.kDim ≤ 944) && decide (d.latent ≤ 944))) && d.ropeDims % 2 == 0 &&
    decide (d.ropeDims ≤ d.keyDim) && (d.ropeMode != 1 || d.ropeDims % 16 == 0) && ((d.mask == 2) == (d.kind == 7)) &&
    (d.kind != 7 || d.ropeMode == 0) && (d.kind != 6 || (d.latMode == 0 && d.ropeMode == 0)) && d.fits && d.reservedZero

/-- The descriptor bytes of a sweep command (R146). -/
def cmdDesc (cmd : Cmd) : List Byte := padTo 128 cmd.payload

/-! ### The sweep schedule (R145) -/

/-- The sweep schedule section of a channel in the active plan. -/
def State.schedule (s : State) (c : Nat) : List Byte := s.pln.active.section_ 2 c

/-- The descriptors of a bin, in execution order (R145). -/
def schedDescs (d : List Byte) (bin : Nat) : List (List Byte) :=
  let nb := recNat d 0 4
  let hdr := fun i => recNat d (4 + 8 * i) 8
  match (List.range nb).find? fun i => nfld (hdr i) 7 0 == bin with
  | none => []
  | some i =>
    (List.range (nfld (hdr i) 31 16)).map fun k => (d.drop (4 + 8 * nb + 128 * (nfld (hdr i) 63 32 + k))).take 128

/-- The descriptors of a bin's schedule on a channel. -/
def State.binDescs (s : State) (c bin : Nat) : List Desc := (schedDescs (s.schedule c) bin).map descOf

/-- Whether a request is a member of the sweeps of a layer: EXIT_ON leaves out the layers from EXIT_LAYER on (R157). -/
def ReqEntry.inLayer (e : ReqEntry) (layer : Nat) : Bool := !e.flags.exitOn || decide (layer < e.exitLayer)

/-- The first scheduled descriptor of a member for a layer (R157, R167). -/
def State.layerDesc (s : State) (c i layer : Nat) : Option Desc :=
  let e := s.req c i
  if e.inLayer layer then (s.binDescs c e.bin).find? fun d => d.layer == layer else none

/-! ### Elements and rotation (R110, R154) -/

/-- π, to 2^-66. -/
def piFixed : Rat := (231808622658467930956 : Rat) / (2 : Rat) ^ (66 : Int)

/-- The alternating Taylor sum of the cosine (`odd` false) or the sine, over `n` terms, at a small angle. -/
def trigTerms (odd : Bool) (x : Rat) (n : Nat) : Rat :=
  ((List.range n).foldl (fun (st : Rat × Rat) i =>
    let k := 2 * i + (if odd then 2 else 1)
    (st.1 + st.2, -(st.2 * x * x) / ((k * (k + 1) : Nat) : Rat))) ((0 : Rat), if odd then x else (1 : Rat))).1

/-- The free absolute error of a cosine or sine before its rounding to FP32, which adds up to 2^-24: together they stay within 2^-20
(R154; log entry 6). -/
def trigErr (x : Rat) : Rat :=
  let b : Rat := (2 : Rat) ^ (-20 : Int) - (2 : Rat) ^ (-23 : Int)
  max (-b) (min b (Config.fnErr 2 x))

/-- The cosine and the sine of an angle, as the array forms them. -/
def cosSin (a : Rat) : Rat × Rat :=
  let r := a - (rneInt (a / (2 * piFixed)) : Rat) * (2 * piFixed)
  (rne32 (trigTerms false r 20 + trigErr (2 * a)), rne32 (trigTerms true r 20 + trigErr (2 * a + 1)))

/-- The angle of pair `i` at position `p` (R154). A base that is not positive has no logarithm: its angle is taken as
the position itself for pair 0 and is free otherwise (log entry 6). -/
def ropeAngle (d : Desc) (p i : Nat) : Rat :=
  if 0 < d.theta then p * expFixed (-(2 * i : Nat) / (d.ropeDims : Rat) * lnFixed d.theta) else p * Config.fnErr 3 d.theta

/-- Rotates the first ROPE_DIMS of a list of elements to position `p`, in FP32 (R154). A pair with an element that is not finite
gives none that is. -/
def rotate (d : Desc) (p : Nat) (xs : List Rat) : List Rat :=
  let n := d.ropeDims
  let at_ := fun k => xs.getD k 0
  let pairs := (List.range (n / 2)).map fun i => cosSin (ropeAngle d p i)
  (List.range n).map (fun k =>
    let i := if d.ropePair then k % (n / 2) else k / 2
    let cs := pairs.getD i (1, 0)
    let lo := if d.ropePair then i else 2 * i
    let hi := if d.ropePair then i + n / 2 else 2 * i + 1
    if (finOf (at_ lo)).isNone || (finOf (at_ hi)).isNone then inf32
    else if k = lo then rne32 (rne32 (at_ lo * cs.1) - rne32 (at_ hi * cs.2))
    else rne32 (rne32 (at_ lo * cs.2) + rne32 (at_ hi * cs.1))) ++ xs.drop n

/-- Rotates the rotated part of a key or query vector: its first elements, or in latent modes the rotary part at
`base` (R154). -/
def rotateVec (d : Desc) (p : Nat) (base : Nat) (xs : List Rat) : List Rat :=
  if d.ropeMode ≠ 1 ∨ d.ropeDims = 0 then xs
  else xs.take base ++ rotate d p (xs.drop base)

/-- Where the rotary part of an attended key starts. -/
def Desc.rotBase (d : Desc) : Nat := if d.latMode = 0 then 0 else d.latent

/-- L8 blocks in a WIDE plane of a list of values, and their flags. -/
def encWide (xs : List (Option Rat)) : List LBlock × Nat :=
  let r := (chunksOf 16 (xs.length / 16 + 1) xs).map (encL8 16)
  (r.map Prod.fst, orFlags (r.map Prod.snd))

/-- The blocks of a vector with the rotary part at a position re-encoded as L8 (R154), and the flags of decoding the vector and
of encoding the part (R125). -/
def rotateBlocks (d : Desc) (p base : Nat) (bs : List LBlock) : List LBlock × Nat :=
  if d.ropeMode ≠ 1 ∨ d.ropeDims = 0 then (bs, blocksFlag bs)
  else
    let lin := ((bs.drop (base / 16)).take (d.ropeDims / 16)).flatMap LBlock.linear
    let rot := encWide ((rotate d p lin).map some)
    ((bs.take (base / 16)) ++ rot.1 ++ bs.drop (base / 16 + d.ropeDims / 16), blocksFlag bs ||| rot.2)

/-! ### Page images (R178, R179) -/

/-- A decoded page image: its blocks in order, and the entries that its lists hold. -/
structure PageImg where
  blocks : List LBlock
  outs : Nat
  exts : Nat
  deriving DecidableEq, Repr, Inhabited

/-- Image offset of the list area (R178). -/
def Desc.listAt (d : Desc) : Nat := 10 * 16 * d.tokBlocks + 128 * d.heads

/-- The first `n` blocks of a NARROW plane whose list areas stand in a page image (R105, R106, R179). -/
def imgBlocks (d : Desc) (img : List Byte) : Nat → Nat → Nat → Nat → List LBlock
  | 0, _, _, _ => []
  | n + 1, b, out, ext =>
    let sd := recNat img (8 * 16 * d.tokBlocks + 2 * b) 2
    let o := takesOut sd
    let e := takesExt sd
    ⟨sd, (img.drop (8 * b)).take 8, if e = 1 then (img.drop (20480 - 8 * (ext + 1))).take 8 else [],
      (List.range o).map fun k => recNat img (d.listAt + 2 * (out + k)) 2⟩ ::
      imgBlocks d img n (b + 1) (out + o) (ext + e)

/-- The blocks of the positions that a page holds. -/
def pageBlocks (d : Desc) (img : List Byte) (held : Nat) : List LBlock := imgBlocks d img (held * d.tokBlocks) 0 0 0

/-- Blocks of token `t` in a list of token blocks: the keys of head `h` (R178). -/
def Desc.keyBlocks (d : Desc) (bs : List LBlock) (t h : Nat) : List LBlock :=
  (bs.drop (t * d.tokBlocks + h * (d.keyDim / 16))).take (d.keyDim / 16)

/-- The values of head `h` of token `t`: after the keys, or the latent elements themselves (R153, R178). -/
def Desc.valBlocks (d : Desc) (bs : List LBlock) (t h : Nat) : List LBlock :=
  if d.latMode = 0 then
    (bs.drop (t * d.tokBlocks + d.kvHeads * (d.kDim / 16) + h * (d.vDim / 16))).take (d.vDim / 16)
  else (bs.drop (t * d.tokBlocks)).take (d.latent / 16)

/-! ### Exchange rings (R162, R163) -/

/-- XR_EN (R175). -/
def State.xrEn (s : State) (c : Nat) : Bool := s.rdB c Reg.ATN_CFG 0

/-- The size of a ring in bytes. -/
def State.xrSize (s : State) (c r : Nat) : Nat := 2 ^ s.rdF c Reg.ATN_XR_CFG 6 2 r

/-- Whether a ring is enabled in a direction (0 IN, 1 OUT). -/
def State.xrIs (s : State) (c r dir : Nat) : Bool :=
  s.xrEn c && s.rdB c Reg.ATN_XR_CFG 0 r && s.rdF c Reg.ATN_XR_CFG 1 1 r == dir

/-- The job of a ring. -/
def State.xrJob (s : State) (c r : Nat) : Nat := s.rdF c Reg.ATN_XR_CFG 25 16 r

/-- The consumption offset C of an OUT ring (R163). -/
def State.xrC (s : State) (c r : Nat) : Nat := (s.atn c).xrC.at r

/-- The bytes of PAD that a record of `n` bytes at HEAD needs first (R162). -/
def State.xrPad (s : State) (c r n : Nat) : Nat :=
  let h := s.rdN c Reg.ATN_XR_HEAD r
  if s.xrSize c r < h + n then s.xrSize c r - h else 0

/-- Whether a record of `n` bytes, with the PAD it needs, stays below C (R163). -/
def State.xrRoom (s : State) (c r n : Nat) : Bool :=
  let size := s.xrSize c r
  let used := (s.rdN c Reg.ATN_XR_HEAD r + size - s.xrC c r) % size
  decide (used + s.xrPad c r n + n + 64 ≤ size)

/-- Writes bytes at HEAD of an OUT ring and moves HEAD. -/
def State.xrWrite (s : State) (c r : Nat) (bs : List Byte) : State :=
  let h := s.rdN c Reg.ATN_XR_HEAD r
  (s.vwrite (s.rd64 c Reg.ATN_XR_BASE_LO r + h) bs (s.xrJob c r)).wr c Reg.ATN_XR_HEAD (lo32 ((h + bs.length) % s.xrSize c r)) r

/-- Writes a record, after the PAD record that fills the end of the ring, where there is room (R162, R163). -/
def State.xrPut (s : State) (c r : Nat) (bs : List Byte) : State :=
  let p := s.xrPad c r bs.length
  let s1 := if p = 0 then s
    else ((s.vwrite (s.rd64 c Reg.ATN_XR_BASE_LO r + s.rdN c Reg.ATN_XR_HEAD r) (xrHdr 0 0 0 0 0 0 0 0 0 p) (s.xrJob c r)).wr c
      Reg.ATN_XR_HEAD 0 r)
  s1.xrWrite c r bs

/-- XR_OUT_FULL, once per ring and day (R163, R174). -/
def State.xrFull (s : State) (c r job : Nat) : State :=
  if (s.atn c).fullPosted.contains r then s
  else (s.updAtn c fun x => { x with fullPosted := x.fullPosted ++ [r] }).evtJob c .atn 4 0x22 0 0 0xFFFF job r

/-! ### Damaged and abandoned steps (R160, R562) -/

/-- A page-table unit that returns poison (R562): every home PTE in it is lost and POISONED, and the page slots behind
them are retired. -/
def State.loseUnit (s : State) (c k : Nat) : State :=
  let u := s.pteUnit c k
  let keys := (s.tableKeys c (keyTable k)).filter fun x => s.pteUnit c x == u && !(s.pte c x).link && (s.pte c x).st != .poisoned
  s.each keys fun s x =>
    let p := s.pte c x
    let s1 := s.updPgm c fun y => { y with ptes := y.ptes.set x { p with st := .poisoned } }
    if p.tier = 1 ∧ inT1 c p.addr then
      ((s1.updPgm c fun y => { y with retired := insNat (s.slotOf c p.addr) y.retired }).bump c Reg.PGM_RETIRED_CNT).bump 0
        Reg.SPR_RETIRED 1 c
    else s1

/-- Whether the table unit of an entry returns poison. -/
def State.unitBad (s : State) (c k : Nat) : Bool := s.pteUnit c k != 0 && s.mem.poisoned (s.pteUnit c k) 4096

/-- The OUT ring of a record: whether it can be written there at all for a job. -/
def State.xrTakes (s : State) (c r job : Nat) : Bool := s.xrIs c r 1 && s.xrJob c r == job

/-- The OUT ring of a member's last sweep; of a member that no sweep has reached, that of its first scheduled sweep. -/
def State.lastRing (s : State) (c i : Nat) : Nat :=
  let r := (s.step_ c i).lastRing
  if r = 0 then ((s.binDescs c (s.req c i).bin).head?.map Desc.outRing).getD 0 else r - 1

/-- The step of a slot's request for the present day, begun if it has not begun (R59, R157). -/
def State.beginStep (s : State) (c i : Nat) : State :=
  let r := s.step_ c i
  let g := (s.req c i).gen
  if r.started && r.day == s.tim.day && r.gen == g then s
  else s.updStep c i fun _ => { (default : StepRun) with day := s.tim.day, gen := g, started := true }

/-- A member's step of the day is abandoned (R160): it leaves every sweep, STEP_ABANDONED is posted, and an ABANDONED record goes
to the OUT ring of its last sweep, or is dropped and counted where that ring is full. -/
def State.abandon (s : State) (c i cause : Nat) : State :=
  let s0 := s.beginStep c i
  let r := s0.step_ c i
  if r.abandoned || r.committed then s
  else
    let e := s.req c i
    let s1 := (((s0.leaveRuns c i true).updStep c i fun x => { x with abandoned := true, cause := cause }).bump c
      Reg.ATN_ABANDON_CNT).reqEvt c .atn 0 0x20 cause i e.userTag
    let ring := s1.lastRing c i
    let pos := match r.staged.at r.lastLayer with
      | some q => (q.pos, q.ntok)
      | none => (e.curLen - 1, 1)
    let bs := xrRec 4 0 e.gen (reqIndex c i) r.lastLayer s.tim.day pos.1 pos.2 0 []
    if s1.xrTakes c ring e.job && s1.xrRoom c ring bs.length then s1.xrPut c ring bs
    else s1.bump c Reg.ATN_XR_DROP_CNT

end Sys2Proof.Machine
end

