-- ==== Sys2Proof/Machine/Tiles.lean ====
section
/-! DEFINITION. The arithmetic of a tile: score rows, the running softmax of a row, the value pass, the latent projections,
and the recurrent state pass (R116 to R125, R135, R136, R148 to R156, R161, R605). -/
namespace Sys2Proof.Machine

/-! ### Stored planes -/

/-- The 18 × n bytes of an L8 matrix of `n` blocks in a NARROW plane: code parts, side words, extension list (R153; the
place of the side words is DEDUCED, log entry 18). -/
def matBlocks (n : Nat) (bs : List Byte) : List LBlock :=
  narrowBlocks n (bs.take (8 * n)) ((bs.drop (8 * n)).take (2 * n)) [] (bs.drop (10 * n))

/-- The state address of a head's W_UK, or of its W_UV, and the blocks of the matrix (R153). -/
def Desc.projPlane (d : Desc) (h : Nat) (up : Bool) : Nat × Nat :=
  let nk := d.kDim * d.latent / 16
  let nv := d.vDim * d.latent / 16
  if up then (d.projAddr + h * 18 * (nk + nv) + 18 * nk, nv) else (d.projAddr + h * 18 * (nk + nv), nk)

/-- The rows of a matrix as lists of blocks. -/
def matRows (cols : Nat) (bs : List LBlock) : List (List LBlock) := chunksOf (cols / 16) (bs.length + 1) bs

/-- The element of a vector in blocks. -/
def elemAt (bs : List LBlock) (i : Nat) : LBlock × Elem :=
  let b := bs.getD (i / 16) (LBlock.zero 16)
  (b, b.decode.1.getD (i % 16) Elem.nil)

/-- The largest of some tops. -/
def maxTop (l : List (Option Int)) : Option Int := (l.filterMap id).foldl (fun m t => some (max t (m.getD t))) none

/-- One projection pass (R153): Σ over d of x[d] × W[d][j], for the elements of column block `k`. -/
def projBlock (xs : List LBlock) (rows : List (List LBlock)) (k : Nat) : List Acc :=
  let ps := rows.zipIdx.map fun r => (elemAt xs r.2, r.1.getD k (LBlock.zero 8))
  let t := maxTop (ps.map fun p => pairTop p.1.1 p.2)
  (List.range 16).map fun j =>
    ps.foldl (fun acc p =>
      if p.1.1.tag = 3 ∨ p.2.tag = 3 then acc
      else acc.add (term p.1.2 (p.2.decode.1.getD j Elem.nil) ((p.1.1.scale : Int) - 127 + ((p.2.scale : Int) - 127)) acc.ref))
      ((default : Acc).meet t)

/-- The value of an accumulator in FP32 (R120), with SATURATED. -/
def Acc.fp32 (a : Acc) : Rat × Bool :=
  let r := sat32 a.val
  (r.1, r.2 || a.sat)

/-- The value of an accumulator in BF16 (R120), with SATURATED. -/
def Acc.bf16 (a : Acc) : Rat × Bool :=
  let r := sat16 a.val
  (r.1, r.2 || a.sat)

/-- SATURATED of some values (R125). -/
def satFlag (l : List (Rat × Bool)) : Nat := if l.any Prod.snd then flSat else 0

/-- q_lat of a query in PROJECTED mode, in FP32, and the flags of the pass (R125, R153, R227). -/
def projQuery (d : Desc) (q : List LBlock) (w : List LBlock) : List Rat × Nat :=
  let r := ((List.range (d.latent / 16)).flatMap (projBlock (q.take (d.kDim / 16)) (matRows d.latent w))).map Acc.fp32
  (r.map Prod.fst, satFlag r ||| blocksFlag w)

/-! ### Query rows -/

/-- The stored query blocks of a token's head. -/
def StagedRec.queryOf (r : StagedRec) (d : Desc) (tok h : Nat) : List LBlock :=
  (r.q.drop ((tok * d.qHeads + h) * (d.queryDim / 16))).take (d.queryDim / 16)

/-- The attended query of a row: as stored, or in PROJECTED mode q_lat encoded as L8 and the rotary blocks, with the flags of
forming it; and the linear values of which SKT forms a sketch (R125, R153, R227; the L8 form of q_lat is DEDUCED, log entry
18). -/
def State.attQuery (s : State) (d : Desc) (r : StagedRec) (tok h : Nat) : (List LBlock × Nat) × List Rat :=
  let q := r.queryOf d tok h
  if d.latMode = 2 then
    let p := d.projPlane h false
    let lat := projQuery d q (matBlocks p.2 (s.vread p.1 (18 * p.2)))
    let rot := q.drop (d.kDim / 16)
    let enc := encWide (lat.1.map some)
    ((enc.1 ++ rot, lat.2 ||| enc.2), lat.1 ++ rot.flatMap LBlock.linear)
  else ((q, 0), q.flatMap LBlock.linear)

/-! ### One row over one tile (R121 to R124, R136) -/

/-- A position of a tile as one row meets it: its position, its key as it reaches the cells, the flags of bringing it there
(R125), and its value. Sixteen of them make a page. -/
structure TilePos where
  p : Nat
  k : List LBlock
  kf : Nat
  v : List LBlock
  deriving DecidableEq, Repr, Inhabited

/-- b of R155. -/
def biasOf (slope : Rat) (pq p : Nat) : Rat := rne32 (-slope * ((if pq < p then p - pq else pq - p : Nat) : Rat))

/-- The accumulators of one value block over a tile (R117 to R119, R136): `ps` gives each position's probability element,
its block, and the value block. -/
def valueBlock (h : Nat) (ps : List (LBlock × Elem × LBlock)) (accs : List Acc) : List Acc :=
  let t := (maxTop (ps.map fun x => pairTop x.1 x.2.2)).map fun t => t + (h : Int)
  accs.zipIdx.map fun a =>
    let m := a.1.meet t
    m.add ((ps.map fun x =>
      if x.1.tag = 3 ∨ x.2.2.tag = 3 then 0
      else term x.2.1 (x.2.2.decode.1.getD a.2 Elem.nil) ((x.1.scale : Int) - 127 + ((x.2.2.scale : Int) - 127)) m.ref).foldl
        (· + ·) 0)

/-- The value pass of a row over a tile: `pages` pairs each page's probability block with the values of its visible
positions by place. -/
def valuePass (h dim : Nat) (pages : List (LBlock × List (Option (List LBlock)))) (accs : List Acc) : List Acc :=
  let ps := pages.flatMap fun pg => pg.2.zipIdx.filterMap fun x => x.1.map fun v => (pg.1, pg.1.decode.1.getD x.2 Elem.nil, v)
  (List.range (dim / 16)).flatMap fun k =>
    valueBlock h (ps.map fun x => (x.1, x.2.1, x.2.2.getD k (LBlock.zero 8))) ((accs.drop (16 * k)).take 16)

/-- H of R117 for a length in tokens. -/
def headroom (l : Nat) : Nat := (l - 1).log2 + 1 - 10

/-- The rescale of a row to a larger maximum (R122, step 1; R161). -/
def RowRun.raise (r : RowRun) (z : Int) : RowRun :=
  if !r.seen then { r with seen := true, m := z }
  else if z ≤ r.m then r
  else
    let u := (z - r.m).toNat
    { r with m := z, l := rescaleNat u r.l, acc := r.acc.map fun a => a.rescale u,
             mass := r.mass.map fun e => (e.1, rescaleNat u e.2) }

/-- The weights of a page's positions against the row's maximum, and their sum. -/
def RowRun.weigh (r : RowRun) (page : Nat) (zs : List (Option Int)) : RowRun :=
  let w := ((zs.filterMap id).map fun z => weightOf (z - r.m)).sum
  { r with l := r.l + w, mass := r.mass.upd page (· + w) }

/-- The scores of a row over a page: z by place, and whether something saturated (R116 to R121, R155). -/
def pageScores (alpha : Rat) (bias : Nat → Rat) (q : List LBlock) (pos : List (Option TilePos)) : List (Option Int) × Bool :=
  let zs := pos.map fun x => x.map fun x =>
    let a := dotBlocks q x.k
    let z := zOf a.val alpha (bias x.p)
    (z.1, z.2 || a.sat)
  (zs.map fun z => z.map Prod.fst, zs.any fun z => (z.map Prod.snd).getD false)

/-- One row over one tile of a fused or partial sweep: score pass, side unit, value pass (R122, R123, R136). `pages` gives
each page's number in the stream and its 16 places. -/
def RowRun.fusedTile (r : RowRun) (alpha : Rat) (bias : Nat → Rat) (h dim : Nat) (q : List LBlock)
    (pages : List (Nat × List (Option TilePos))) : RowRun × Nat :=
  let zs := pages.map fun pg => (pg.1, pageScores alpha bias q pg.2, pg.2)
  match (zs.flatMap fun x => x.2.1.1.filterMap id).foldl (fun m z => some (max z (m.getD z))) none with
  | none => (r, 0)
  | some top =>
    let r0 := if r.acc.isEmpty then { r with acc := List.replicate dim default } else r
    let r1 := r0.raise top
    let r2 := zs.foldl (fun r x => r.weigh x.1 x.2.1.1) r1
    let ps := zs.map fun x =>
      (probBlock (x.2.1.1.map fun z => z.map fun z => (z - r1.m, z - r1.m)), x.2.2.map fun p => p.map TilePos.v)
    ({ r2 with acc := valuePass h dim ps r2.acc }, if zs.any fun x => x.2.1.2 then flSat else 0)

/-- The side unit over the scores of one tile of a SOFTMAX sweep, from position `lo` of the stream on: the running maximum and sum
of the row, and its sums by page (R121, R122, R148, R161). `zs` gives z by position. -/
def RowRun.softTile (r : RowRun) (lo : Nat) (zs : List (Option Int)) : RowRun :=
  match (zs.filterMap id).foldl (fun m z => some (max z (m.getD z))) none with
  | none => r
  | some top =>
    ((List.range (ceilDiv (lo + zs.length) 16)).drop (lo / 16)).foldl (fun r g =>
      let here := zs.zipIdx.filter fun x => (lo + x.2) / 16 == g
      r.weigh g (here.map Prod.fst)) (r.raise top)

/-- The probability blocks of a row from its scores, after all tiles of a SOFTMAX sweep: ZERO blocks for a row that saw no
position (R123, R605). -/
def RowRun.softBlocks (r : RowRun) (zs : List (Option Int)) : List LBlock :=
  let ys := zs.map fun z => if r.seen then z.map fun z => (z - r.m, min 0 (z - r.m - lambdaOf r.l)) else none
  (chunksOf 16 (zs.length / 16 + 1) ys).map probBlock

/-- One row over one tile of a PV sweep: the stored probability blocks with the values (R148). -/
def RowRun.pvTile (r : RowRun) (dim : Nat) (pages : List (LBlock × List (Option TilePos))) : RowRun :=
  let r0 := if r.acc.isEmpty then { r with acc := List.replicate dim default } else r
  { r0 with seen := true, acc := valuePass 0 dim (pages.map fun x => (x.1, x.2.map fun p => p.map TilePos.v)) r0.acc }

/-- The finished accumulators of a row: normalised where the sweep kind normalises (R124); none for a row that saw no
position (R605). -/
def RowRun.final (r : RowRun) (normalise : Bool) : Option (List Acc) :=
  if !r.seen then none
  else some (if normalise then r.acc.map fun a => a.rescale (lambdaOf r.l).toNat else r.acc)

/-- λl of a row (R123). -/
def RowRun.lam (r : RowRun) : Int := lambdaOf r.l

/-- The share of each page of a row in its attention mass, in FP32 (R161). -/
def RowRun.share (r : RowRun) (page : Nat) : Rat := if r.l = 0 then 0 else rne32 ((r.mass.at page : Rat) / (r.l : Rat))

/-! ### The output projection (R153) -/

/-- o of a latent output, encoded as L8 and multiplied with the rows of W_UV: its accumulators, and the flags of encoding and
decoding (R125, R153). -/
def projOut (d : Desc) (o : List Rat) (w : List LBlock) : List Acc × Nat :=
  let x := encWide (o.map some)
  ((matRows d.latent w).map fun row => dotBlocks x.1 row, x.2 ||| blocksFlag w)

/-! ### The recurrent state (R150) -/

/-- The stored state of one head: its rows of L8 blocks, from the code parts and the side words behind them. -/
def stateRows (v k : Nat) (bs : List Byte) : List (List LBlock) :=
  let n := v * k / 16
  matRows k ((List.range n).map fun i =>
    ⟨recNat bs (16 * n + 2 * i) 2, (bs.drop (16 * i)).take 16, [], []⟩)

/-- The bytes of a state plane. -/
def stateBytes (rows : List (List LBlock)) : List Byte :=
  (rows.flatMap fun r => r.flatMap fun b => padTo 16 (b.code ++ b.ext)) ++ rows.flatMap fun r => r.flatMap fun b => leBytes 2 b.side

/-- One element of the state pass: the decayed element loaded against its block's top, and the term of v × k (R150). The
load rounds to nearest even, and one beyond the accumulator's 32 bits saturates as a sum does (R117, R119; both DEDUCED, log entry
18). -/
def stateElem (g : Rat) (b kb vb : LBlock) (x kx vx : Elem) : Acc :=
  let a0 : Acc := if b.tag = 3 then default
    else ({ a := 0, ref := (b.scale : Int) - 127, live := true, sat := false } : Acc).add
      (rneInt (rne32 (g * x.lin) * (2 : Rat) ^ (20 - ((b.scale : Int) - 127))))
  if kb.tag = 3 ∨ vb.tag = 3 then a0
  else
    let m := a0.meet (pairTop vb kb)
    m.add (term vx kx ((kb.scale : Int) - 127 + ((vb.scale : Int) - 127)) m.ref)

/-- One position of the state pass: the new rows, and their flags (R150, steps 1 to 3). -/
def stateStep (g : Rat) (k v : List LBlock) (rows : List (List LBlock)) : List (List LBlock) × Nat :=
  let rs := rows.zipIdx.map fun r =>
    let vx := elemAt v r.2
    r.1.zipIdx.map fun b =>
      let kb := k.getD b.2 (LBlock.zero 8)
      let accs := (b.1.decode.1.zip kb.decode.1).map fun e => stateElem g b.1 kb vx.1 e.1 e.2 vx.2
      let x := encL8 16 (accs.map fun a => some a.fp32.1)
      (x.1, x.2 ||| satFlag (accs.map Acc.fp32))
  (rs.map fun r => r.map Prod.fst, orFlags (rs.flatMap fun r => r.map Prod.snd))

/-- The output pass of one query over a state (R150, step 4). -/
def stateOut (q : List LBlock) (rows : List (List LBlock)) : List Acc := rows.map fun r => dotBlocks q r

/-! ### The merge of partials (R170) -/

/-- EMPTY of R605. -/
def emptyLam : Int := -(2 ^ 31)

/-- One partial of a row. -/
structure PartRow where
  u : List Rat
  m : Int
  lam : Int
  deriving DecidableEq, Repr, Inhabited

/-- 2^(−u/256) of an FP32 value by the table of R122: round(2^(15 + g/256)) × 2^−(15 + q), rounded to FP32. -/
def pow2Down (u : Nat) : Rat :=
  let q := (u + 255) / 256
  rne32 ((pow256 (15 * 256 + (256 * q - u : Nat)) : Rat) * (2 : Rat) ^ (-(15 + q : Nat) : Int))

/-- 2^(λ/256) by the same table. -/
def pow2Lam (lam : Int) : Rat :=
  let q := lam / 256
  rne32 ((pow256 (15 * 256 + lam % 256) : Rat) * (2 : Rat) ^ (q - 15))

/-- The merged row of some partials, in order of arrival; none where every partial is EMPTY. -/
def mergeRow (ps : List PartRow) : Option (List Rat) :=
  let ps := ps.filter fun p => p.lam != emptyLam
  match ps with
  | [] => none
  | p0 :: _ =>
    let big := ps.foldl (fun m p => max m p.m) p0.m
    let r := ps.foldl (fun (st : List Rat × Rat) p =>
      let w := pow2Down (big - p.m).toNat
      ((st.1.zip p.u).map fun x => rne32 (x.1 + rne32 (w * x.2)), rne32 (st.2 + rne32 (w * pow2Lam p.lam))))
      (p0.u.map fun _ => (0 : Rat), (0 : Rat))
    some (r.1.map fun n => rne32 (n / r.2))

/-- The 4-byte signed field of a number. -/
def leSigned (i : Int) : List Byte := leBytes 4 (lowOf 32 i)

/-- A partial row in a PARTIAL payload (R169). -/
def PartRow.bytes (p : PartRow) : List Byte :=
  (p.u.flatMap fun x => leBytes 4 (fp32Bits x)) ++ leSigned p.m ++ leSigned p.lam

/-- The rows of a PARTIAL payload of values of `dim` elements. -/
def partRows (dim : Nat) (bs : List Byte) : List PartRow :=
  (chunksOf (4 * dim + 8) (bs.length / (4 * dim + 8)) bs).map fun b =>
    { u := (List.range dim).map fun i => (fp32Val (recNat b (4 * i) 4)).getD 0, m := signedOf 32 (recNat b (4 * dim) 4),
      lam := signedOf 32 (recNat b (4 * dim + 4) 4) }

end Sys2Proof.Machine
end

