-- ==== Sys2Proof/Machine/Sketch.lean ====
section
/-! DEFINITION. SKT: key and query sketches, sparse selection and far keys (R224 to R237, R253). -/
namespace Sys2Proof.Machine

/-- SKT's page of a channel. -/
def sktPage (c : Nat) : Page := ⟨.skt, c⟩

/-! ### Sketches (R224, R225) -/

/-- Whether a projection entry is −1 (R224). -/
def projNeg (seed layer head b d : Nat) : Bool :=
  let x : DWord := BitVec.ofNat 64 seed ^^^ (BitVec.ofNat 64 layer <<< 48) ^^^ (BitVec.ofNat 64 head <<< 40) ^^^
    (BitVec.ofNat 64 b <<< 32) ^^^ BitVec.ofNat 64 d
  let x := (x ^^^ (x >>> 30)) * 0xBF58476D1CE4E5B9
  let x := (x ^^^ (x >>> 27)) * 0x94D049BB133111EB
  (x ^^^ (x >>> 31)).getLsbD 63

/-- The sketch of a vector (R225). -/
def sketchOf (seed layer head : Nat) (xs : List Rat) : Nat :=
  ((List.range 64).map fun b =>
    let t := xs.zipIdx.foldl (fun acc x => rne32 (if projNeg seed layer head b x.2 then acc - x.1 else acc + x.1)) (0 : Rat)
    if 0 < t then 2 ^ b else 0).sum

/-- The Hamming distance of two sketches. -/
def hamming (a b : Nat) : Nat := ((List.range 64).filter fun i => a.testBit i != b.testBit i).length

/-- The sketch seed of a job (R228). -/
def State.seedOf (s : State) (c j : Nat) : Nat := s.rd64 c Reg.SKT_SEED_LO j

/-- The linear form of a stored key for a sketch: decoded, and rotated under ON_THE_FLY (R225). -/
def keyLinear (d : Desc) (p : Nat) (bs : List LBlock) : List Rat := rotateVec d p d.rotBase (bs.flatMap LBlock.linear)

/-- The sketches of a committed token's keys, head by head (R226). -/
def State.tokSketches (s : State) (c j : Nat) (d : Desc) (p : Nat) (bs : List LBlock) : List Nat :=
  (List.range d.heads).map fun h => sketchOf (s.seedOf c j) d.layer h (keyLinear d p (d.keyBlocks bs 0 h))

/-! ### Far keys (R235, R236) -/

/-- REFINE of a job, 0 where refinement is off (R235, R253). -/
def State.refine (s : State) (c j : Nat) : Nat :=
  let r := s.rdF c Reg.SKT_FAR_CFG 19 16 j
  if s.rdB c Reg.SKT_CFG 1 && decide (2 ≤ r) && decide (r ≤ 8) then r else 0

/-- RL of R235. -/
def Desc.farLen (d : Desc) : Nat := 8 + d.heads * d.keyDim / 2

/-- The job address of a far record; none for a page beyond FAR_PAGES (R235). -/
def State.farAddr (s : State) (c i : Nat) (d : Desc) (page : Nat) : Option Nat :=
  let j := (s.req c i).job
  let n := s.rdF c Reg.SKT_FAR_CFG 15 0 j
  if page < n then some (s.rd64 c Reg.SKT_FAR_BASE_LO j + i * s.rdN c Reg.SKT_FAR_STRIDE j + (d.layer * n + page) * d.farLen)
  else none

/-- A valid far record's key of a head, with the FORMAT_ERR of its blocks; none where there is no record or it is not valid for the
slot's GEN; a fault where its address does not translate (R125, R235, R331). -/
def State.farKey (s : State) (c i : Nat) (d : Desc) (page h : Nat) : State × Except AtuErr (Option (List Rat × Nat)) :=
  match s.farAddr c i d page with
  | none => (s, .ok none)
  | some a =>
    match s.translateRange c (s.req c i).job a d.farLen false (d.farLen / 4096 + 2) with
    | (s1, .error e) => (s1, .error e)
    | (s1, .ok ps) =>
      let b := s1.readParts ps
      let s2 := s1.touchParts (s.req c i).job ps
      if (recNat b 0 4).testBit 0 && nfld (recNat b 0 4) 31 16 == (s.req c i).gen then
        let ks := (List.range (d.keyDim / 16)).map fun k => decL3 ((b.drop (8 + h * d.keyDim / 2 + 8 * k)).take 8)
        (s2, .ok (some (ks.flatMap fun k => k.1.map Elem.lin, if ks.any Prod.snd then flFormat else 0)))
      else (s2, .ok none)

/-- The mean of 16 keys, summed in position order in FP32 (R236). -/
def meanKey (ks : List (List Rat)) : List Rat :=
  match ks with
  | [] => []
  | k0 :: _ => (ks.foldl (fun acc k => (acc.zip k).map fun x => rne32 (x.1 + x.2)) (k0.map fun _ => (0 : Rat))).map fun x =>
      rne32 (x / 16)

/-- Builds the far record of a full page from its keys (R236), with the flags of their decoding and its encoding in the step's (R125). An address that
does not translate faults: the record is not built, and a later selection that meets the page has it built then. Such a fault
belongs to no command: it is posted for engine 0 with OP 0 and the day as its tag (R324, R331; DESIGN CHOICE, log entry 59). -/
def State.buildFar (s : State) (c i : Nat) (d : Desc) (page p0 : Nat) (bs : List LBlock) : State :=
  let e := s.req c i
  if s.refine c e.job = 0 then s
  else match s.farAddr c i d page with
    | none => s
    | some a =>
      let keys := (List.range d.heads).flatMap fun h =>
        let m := meanKey ((List.range 16).map fun t => keyLinear d (p0 + t) (d.keyBlocks bs t h))
        (chunksOf 16 (d.keyDim / 16 + 1) (m.map some)).map encL3
      let met := (List.range d.heads).flatMap fun h => (List.range 16).map fun t => blocksFlag (d.keyBlocks bs t h)
      let bytes := leBytes 4 (1 + fieldAt 16 16 e.gen) ++ leBytes 4 0 ++ keys.flatMap Prod.fst
      match s.translateRange c e.job a bytes.length true (bytes.length / 4096 + 2) with
      | (s1, .error x) =>
        s1.when (!s1.jobTearing c e.job) fun s =>
          (s.newFault c (s.faultOf 0 { (default : Cmd) with job := e.job, tag := s.tim.day } x true)).1
      | (s1, .ok ps) =>
        ((s1.writeParts ps bytes e.job).bump c Reg.SKT_FAR_BUILD_CNT).updStep c i fun x =>
          { x with flags := x.flags ||| orFlags (keys.map Prod.snd) ||| orFlags met }

/-! ### Sparse selection (R230 to R234, R237) -/

/-- Whether a member steps in sparse mode under a bin: MODE 1 or 3 of a decode bin, with SPARSE_EN set (R72, R253). -/
def State.sparseBin (s : State) (c : Nat) (b : Bin) : Bool := !b.prefill && (b.mode == 1 || b.mode == 3) && s.rdB c Reg.SKT_CFG 0

/-- Page index of a position of a request (R185). -/
def pageIx (e : ReqEntry) (p : Nat) : Nat := p / 16 - shardStart e.shard / 16

/-- The keys of the pages that take a step's own token and drafts: `n` positions from `p` on. -/
def ownPages (e : ReqEntry) (layer p n : Nat) : List Nat :=
  if n = 0 then []
  else (List.range (pageIx e (p + n - 1) + 1 - pageIx e p)).map fun k => pteKey e.table layer (pageIx e p + k)

/-- The pages that a reader of a request meets for a layer: those listed, and those that the step's own tokens take. -/
def State.withOwn (s : State) (c : Nat) (e : ReqEntry) (layer p n : Nat) : List Nat :=
  (ownPages e layer p n).foldl (fun l k => insNat k l) (s.layerKeys c e.table layer)

/-- Steps 1 to 3 of R231 under R234: the home takes the pages of the step's own tokens, `n` from position `p` on, and the RECENT
highest listed pages, that of position `p` counting among them; the first shard takes the SINK lowest. A page that only drafts
take is attended beside them and counts in no step (DEDUCED, log entry 17). `listed` rises. -/
def protectedPages (d : Desc) (e : ReqEntry) (p n : Nat) (listed : List Nat) : List Nat :=
  let own := if isHome e.shard then ownPages e d.layer p n else []
  let met := (own.take 1).foldl (fun l k => insNat k l) listed
  let recent := if isHome e.shard then (met.drop (met.length - d.recent)) ++ listed.filter (· == pteKey e.table d.layer (pageIx e p))
    else []
  let sink := if shardCountM1 e.shard = 0 ∨ shardPos e.shard = 0 then listed.take d.sink else []
  (own ++ recent ++ sink).foldl (fun l k => insNat k l) []

/-- The listed pages that step 4 of R231 ranks. -/
def State.rankable (s : State) (c : Nat) (pr listed : List Nat) : List Nat :=
  listed.filter fun k => !pr.contains k && s.resolved c k != .poisoned

/-- How many pages each stream of a member takes (R158, R231). -/
def State.chosenCount (s : State) (c : Nat) (d : Desc) (e : ReqEntry) (p n : Nat) : Nat :=
  let listed := s.layerKeys c e.table d.layer
  if listed.length ≤ d.recent + d.sink + d.top then (s.withOwn c e d.layer p n).length
  else
    let pr := protectedPages d e p n listed
    pr.length + min d.top (s.rankable c pr listed).length

/-- The sketches of a page's held positions for a head. -/
def State.pageSketches (s : State) (c : Nat) (d : Desc) (k h : Nat) : List Nat :=
  let held := (s.pte c k).held
  let img := s.imgRead (s.placeOf c k) (10 * 16 * d.tokBlocks) (128 * d.heads)
  (List.range held).map fun t => recNat img (8 * (t * d.heads + h)) 8

/-- d(page) of R230. -/
def pageDist (qs ks : List Nat) : Nat := (qs.flatMap fun q => ks.map (hamming q)).foldl min 64

/-- r of R237: the largest dot product of a query row with the far key, in FP32. -/
def farScore (rows : List (List Rat)) (k : List Rat) : Rat :=
  let dot := fun (q : List Rat) => (q.zip k).foldl (fun acc x => rne32 (acc + rne32 (x.1 * x.2))) (0 : Rat)
  match rows with
  | [] => 0
  | q :: l => l.foldl (fun m q => max m (dot q)) (dot q)

/-- The order of survivors by r: those without a record first, then by falling r; ties keep the order of stage 1. -/
def farBefore (a b : Nat × Option Rat) : Bool :=
  match a.2, b.2 with
  | none, _ => true
  | some _, none => false
  | some x, some y => decide (y ≤ x)

/-- The pages ranked so far, with their r, and the flags of the far keys read. -/
abbrev FarRanks := List (Nat × Option Rat) × Nat

/-- One survivor of stage 2: its r, or none where it has no valid record; a full page without one is noted for R236. -/
def State.refineOne (s : State) (c i h : Nat) (d : Desc) (rows : List (List Rat)) (k : Nat) (l : FarRanks) :
    State × Except AtuErr FarRanks :=
  match s.farKey c i d (keyPage k) h with
  | (s1, .error e) => (s1, .error e)
  | (s1, .ok (some key)) => (s1, .ok (l.1 ++ [(k, some (farScore rows key.1))], l.2 ||| key.2))
  | (s1, .ok none) =>
    ((s1.bump c Reg.SKT_FAR_MISS_CNT).updStep c i fun x =>
      { x with farWant := if (s.pte c k).held = 16 then insNat k x.farWant else x.farWant }, .ok (l.1 ++ [(k, none)], l.2))

/-- Stage 2 of R237 for one stream: the survivors ordered by r, with those that had no valid record noted for R236, and the flags
of the far keys read. -/
def State.refineStage (s : State) (c i h : Nat) (d : Desc) (rows : List (List Rat)) (ks : List Nat) :
    State × Except AtuErr (List Nat × Nat) :=
  let r := ks.foldl (fun (st : State × Except AtuErr FarRanks) k =>
    match st.2 with
    | .error _ => st
    | .ok l => st.1.refineOne c i h d rows k l) (s, .ok ([], 0))
  (r.1, r.2.map fun l => ((sortBy l.1 farBefore).map Prod.fst, l.2))

/-- Step 4 of R231 for one stream over candidate pages. `held` is the positions whose sketches the stream's rows meet (R230);
comparisons count in 4,096s, rounded up for each stream (R253; DEDUCED, log entry 17). -/
def State.rankPages (s : State) (c i h : Nat) (d : Desc) (rows : List (List Rat)) (held : Nat) (cands : List Nat) :
    State × Except AtuErr (List Nat × Nat) :=
  let e := s.req c i
  let qs := rows.map (sketchOf (s.seedOf c e.job) d.layer h)
  let ds := cands.map fun k => (k, pageDist qs (s.pageSketches c d k h))
  let order := (sortBy ds fun a b => decide (a.2 < b.2) || (decide (a.2 = b.2) && decide (b.1 ≤ a.1))).map Prod.fst
  let s1 := s.bump c Reg.SKT_CMP_CNT (ceilDiv (rows.length * held) 4096)
  let n := s.refine c e.job
  if n = 0 then (s1, .ok (order.take d.top, 0))
  else
    let r := s1.refineStage c i h d rows (order.take (n * d.top))
    (r.1, r.2.map fun l => (l.1.take d.top, l.2))

/-- The linear query rows of a stream. -/
def State.streamRows (s : State) (d : Desc) (q : StagedRec) (h : Nat) : List (List Rat) :=
  (List.range q.ntok).flatMap fun t => (List.range d.group).map fun g => (s.attQuery d q t (h * d.group + g)).2

/-- The pages of each stream of a member, with the flags of choosing them (R230, R231), once every listed page is local. `p` and
`n` are the first position and the number of the step's own tokens. -/
def State.selectPages (s : State) (c i p n : Nat) (d : Desc) (q : StagedRec) :
    State × Except AtuErr (List (List Nat) × Nat) :=
  let e := s.req c i
  let listed := s.layerKeys c e.table d.layer
  let s1 := s.bump c Reg.SKT_SELECT_CNT d.heads
  if listed.length ≤ d.recent + d.sink + d.top then (s1, .ok (List.replicate d.heads (s.withOwn c e d.layer p n), 0))
  else
    let pr := protectedPages d e p n listed
    let held := (listed.map fun k => (s.pte c k).held).sum
    (List.range d.heads).foldl (fun (st : State × Except AtuErr (List (List Nat) × Nat)) h =>
      match st.2 with
      | .error _ => st
      | .ok l =>
        let r := st.1.rankPages c i h d (s.streamRows d q h) held (s.rankable c pr listed)
        (r.1, r.2.map fun x => (l.1 ++ [(pr ++ x.1).foldl (fun l k => insNat k l) []], l.2 ||| x.2))) (s1, .ok ([], 0))

/-- Pulls the listed pages of a layer that are homed elsewhere (R208, R233). -/
def State.pullLayer (s : State) (c i : Nat) (keys : List Nat) : State :=
  s.each keys fun s k =>
    s.when (s.resolved c k == .valid && !homedHere c (s.placeOf c k) && (s.req c i).st.canLose) fun s =>
      s.pullPage c (s.homeKey c k) i .pull

/-- Whether a listed page can be read here: homed in the channel, or POISONED and so not read (R159, R233). -/
def State.pageLocal (s : State) (c k : Nat) : Bool := homedHere c (s.placeOf c k) || s.resolved c k == .poisoned

/-- Whether every listed page of a member's layer can be read here (R233). -/
def State.layerLocal (s : State) (c i layer : Nat) : Bool := (s.layerKeys c (s.req c i).table layer).all (s.pageLocal c)

/-- The reads of the sketches that a selection ranks: a page whose sketches return poison becomes POISONED and is not ranked (R211,
R273). -/
def State.meetSketches (s : State) (c i p n : Nat) (d : Desc) : State :=
  let e := s.req c i
  let listed := s.layerKeys c e.table d.layer
  if listed.length ≤ d.recent + d.sink + d.top then s
  else s.each (s.rankable c (protectedPages d e p n listed) listed) fun s k =>
    let rs := s.imgRanges (s.placeOf c k) (10 * 16 * d.tokBlocks) (128 * d.heads)
    (s.each rs fun s r => s.touch e.job r.1 r.2).when (rs.any fun r => s.vpoison r.1 r.2) fun s => s.poisonPage c (s.homeKey c k)

/-- SPARSE_SELECT (R230): the selection of a member for a layer, when its record is there and its pages are local; else its
pages are pulled, and it waits. A far record that faults leaves the selection to the sweep (R325). -/
def State.sparseSelect (s : State) (c i p n : Nat) (d : Desc) (q : StagedRec) : State :=
  if ((s.step_ c i).sel.at d.layer).isSome then s
  else if s.layerLocal c i d.layer then
    match (s.meetSketches c i p n d).selectPages c i p n d q with
    | (s1, .ok l) => s1.updStep c i fun x => { x with sel := x.sel.set d.layer (some l) }
    | (_, .error _) => s
  else s.pullLayer c i (s.layerKeys c (s.req c i).table d.layer)

/-- The fault of a selection that is still to be made (R235, R331). -/
def State.farFault (s : State) (c i p n : Nat) (d : Desc) (q : StagedRec) : Option AtuErr :=
  if ((s.step_ c i).sel.at d.layer).isSome || !s.layerLocal c i d.layer then none
  else match (s.selectPages c i p n d q).2 with
    | .ok _ => none
    | .error e => some e

end Sys2Proof.Machine
end

