-- ==== Sys2Proof/Machine/Sweeps.lean ====
section
/-! DEFINITION. Sweeps on the array: their start, members and streams, tiles, output records, suspension and completion,
and the Noon cut-off (R133 to R173, R605). -/
namespace Sys2Proof.Machine

/-- The sweep that a job has started and not completed. -/
def State.run (s : State) (c j : Nat) : Option SweepRun := (s.atn c).runs.at j

/-- Replaces a job's sweep. -/
def State.setRun (s : State) (c j : Nat) (r : Option SweepRun) : State :=
  s.updAtn c fun x => { x with runs := x.runs.set j r }

/-- Changes a job's sweep. -/
def State.updRun (s : State) (c j : Nat) (f : SweepRun → SweepRun) : State :=
  s.updAtn c fun x => { x with runs := x.runs.upd j fun r => r.map f }

/-- The descriptor of a sweep. -/
def SweepRun.d (r : SweepRun) : Desc := descOf r.desc

/-! ### Configuration across a day boundary (R39) -/

/-- The state with the plan epoch and the configuration that an operation started with. -/
def State.asOld (s : State) (c : Nat) : Option OldBank → State
  | none => s
  | some b => (((s.setPln fun x => { x with active := s.planOfEpoch b.epoch }).wr c Reg.PGM_CFG b.pgm).wr c Reg.ATN_CFG b.atn).wr c
      Reg.SKT_CFG b.skt

/-- Goes on with an operation that runs across a day boundary: under the configuration it started with (R39). -/
def State.under (s : State) (c : Nat) (o : Option OldBank) (f : State → State) : State :=
  match o with
  | none => f s
  | some _ =>
    let t := (f (s.asOld c o)).setPln fun x => { x with active := s.pln.active }
    (((t.wr c Reg.PGM_CFG (s.rd c Reg.PGM_CFG)).wr c Reg.ATN_CFG (s.rd c Reg.ATN_CFG)).wr c Reg.SKT_CFG (s.rd c Reg.SKT_CFG)).retirePlan

/-- What an operation that runs now started with. -/
def State.bankNow (s : State) (c : Nat) : OldBank :=
  ⟨s.pln.active.epoch, s.rd c Reg.PGM_CFG, s.rd c Reg.ATN_CFG, s.rd c Reg.SKT_CFG⟩

/-- Goes on with a job's sweep under the configuration it started with. -/
def State.underRun (s : State) (c j : Nat) (f : State → State) : State := s.under c ((s.run c j).bind SweepRun.old) f

/-- The sweeps that run as a boundary comes keep their configuration (R39). -/
def State.keepBanks (s : State) : State :=
  s.each s.channels fun s c =>
    s.each ((s.atn c).runs.map Prod.fst) fun s j => s.updRun c j fun r => { r with old := some (r.old.getD (s.bankNow c)) }

/-! ### Members (R157) -/



/-- Whether the request's step of the present day was abandoned. -/
def State.stepAbandoned (s : State) (c i : Nat) : Bool :=
  let r := s.step_ c i
  r.abandoned && r.day == s.tim.day && r.gen == (s.req c i).gen

/-- The slots placed in a bin, in placement order. -/
def State.binMembers (s : State) (c bin : Nat) : List Nat :=
  sortBy (s.reqSlots c fun e => e.bin == bin && (e.st.live || e.st == .cancelling)) fun a b =>
    decide ((s.req c a).placeIx ≤ (s.req c b).placeIx)

/-- The members of the sweeps of a layer that can step (R157). -/
def State.sweepMembers (s : State) (c bin layer : Nat) : List Nat :=
  (s.binMembers c bin).filter fun i => (s.req c i).inLayer layer

/-- The slots that were placed in a bin at Dawn, in placement order: those that have left it since stand in it too (R148, R157). -/
def State.placedIn (s : State) (c bin : Nat) : List Nat :=
  (((s.rqt c).placed.at bin).filter fun x => (s.req c x.1).gen == x.2).map Prod.fst

/-- First position and number of the query tokens that a member's step is to bring: the own token and the drafts, or the
next chunk of the prompt (R158, R166). A shard that is not the home brings none. -/
def State.stepSpan (s : State) (c i : Nat) (d : Desc) : Nat × Nat :=
  let e := s.req c i
  if e.inPrefill then
    (e.curLen, min (16 * ((s.binById c d.bin).map Bin.chunk).getD 0) (e.promptLen - e.curLen))
  else if isHome e.shard then (e.curLen - 1, d.drafts + 1) else (e.curLen, 0)

/-- First position and number of the tokens of a step whose keys and values its record staged (R166). -/
def State.ownSpan (s : State) (c i : Nat) (q : StagedRec) : Nat × Nat :=
  let e := s.req c i
  (if e.inPrefill then q.pos else e.curLen - 1, if q.kv then q.ntok else 0)

/-- The position of the first query token of a record: CUR_LEN − 1 at a decoding home (R166), else POS. -/
def State.queryPos (s : State) (c i : Nat) (q : StagedRec) : Nat :=
  let e := s.req c i
  if e.inPrefill || !isHome e.shard then q.pos else e.curLen - 1

/-- The pages of a member's streams before any selection (R158). -/
def State.densePages (s : State) (c i : Nat) (d : Desc) (p n : Nat) : List Nat :=
  let e := s.req c i
  if d.kind = 7 then s.layerKeys c e.table d.layer
  else
    let l := s.withOwn c e d.layer p n
    if e.inPrefill then l.filter fun k => decide (keyPage k ≤ pageIx e (p + n - 1)) else l

/-- Whether a member's streams are chosen by sketch (R230). -/
def State.isSparse (s : State) (c : Nat) (d : Desc) : Bool :=
  d.kind != 7 && d.kind != 6 && ((s.binById c d.bin).map (s.sparseBin c)).getD false

/-- The pages of each stream of a member, in number (R158). -/
def State.pageCount (s : State) (c i : Nat) (d : Desc) : Nat :=
  let (p, n) := match (s.step_ c i).staged.at d.layer with
    | some q => s.ownSpan c i q
    | none => s.stepSpan c i d
  if d.kind = 6 then 0
  else if s.isSparse c d then s.chosenCount c d (s.req c i) p n else (s.densePages c i d p n).length

/-! ### The start of a sweep (R144, R157) -/

/-- The completion payload (R173): a member counts in MEMBERS once its output was written, in ABANDONED where the sweep went on
without it under R160. -/
def SweepRun.payload (r : SweepRun) (status : Nat) : List Byte :=
  let d := r.d
  let n := fun (p : MemberRun → Bool) => (r.members.filter p).length
  leBytes 4 (fieldAt 0 8 status + fieldAt 8 8 (orFlags (r.members.map MemberRun.flags)) + fieldAt 16 12 d.layer) ++
    leBytes 4 (fieldAt 0 8 d.bin + fieldAt 8 8 d.kind + fieldAt 16 16 (n fun m => m.written && !m.silent)) ++
    leBytes 4 (fieldAt 0 16 (n MemberRun.abandoned) + fieldAt 16 16 (n MemberRun.damaged)) ++ leBytes 4 r.tiles ++
    leBytes 4 r.padPos ++ leBytes 4 r.stall ++ leBytes 4 r.cycles ++ leBytes 4 0

/-- A sweep as it starts. -/
def newRun (cmd : Cmd) (members : List MemberRun) (placed : List Nat) (lpad now : Nat) : SweepRun :=
  { cmd := cmd, desc := cmdDesc cmd, members := members, streams := [], tiles := 0, cycles := 0, padPos := 0, stall := 0,
    proj := [], tileAt := now, held := [], lpad := lpad, placed := placed, old := none }

/-- The time on the array up to now, waits included, counts as cycles of the sweep (R173). -/
def SweepRun.clock (r : SweepRun) (now : Nat) : SweepRun := { r with cycles := r.cycles + (now - r.tileAt), tileAt := now }

/-- A descriptor that fails its checks: BAD_DESC, and no work is done (R144, R173, R176). -/
def State.badDesc (s : State) (c : Nat) (cmd : Cmd) : State :=
  (s.evt (atnPage c) 3).complete c cmd 0x20 ((newRun cmd [] [] 0 0).payload 0x20)

/-- A member joins a sweep: its step begins, and an ADMITTED one becomes PREFILLING (R60, R157). An inbound member whose page table has
not come yet steps over the pages that it has (R86; DESIGN CHOICE, log entry 63). -/
def State.joinSweep (s : State) (c i : Nat) (d : Desc) : State :=
  if s.stepAbandoned c i then s
  else
    let s1 := (s.beginStep c i).updStep c i fun r =>
      { r with swept := insNat (d.layer * 8 + d.kind) r.swept, lastRing := d.outRing + 1, lastLayer := d.layer }
    s1.updReq c i fun e => { e with st := if e.st = .admitted then .prefilling else e.st }

/-- A member completes a sweep, or has left it. -/
def MemberRun.isOver (m : MemberRun) : Bool := m.written || m.abandoned || m.left || m.silent

/-- Completes a sweep whose members are all over and whose records are written (R173). -/
def State.settleSweep (s : State) (c j : Nat) : State :=
  match s.run c j with
  | none => s
  | some r =>
    if r.members.all MemberRun.isOver && r.held.isEmpty then
      let s1 := (s.setRun c j none).bump c Reg.ATN_SWEEP_CNT
      if (s1.engine c 1).holder = some r.cmd then s1.complete c r.cmd 0 ((r.clock s.tim.now).payload 0)
      else
        let s2 := s1.accrue c
        ((s2.setLane c j 1 ((s2.lane c j 1).filter fun x => x.cmd != r.cmd)).withdrawFaults c fun f =>
          f.engine == 1 && f.job == j).complete c r.cmd 0 (r.payload 0)
    else s

/-- A sweep command starts on the array (R144, R147, R157). -/
def State.startSweep (s : State) (c : Nat) (cmd : Cmd) : State :=
  let d := descOf (cmdDesc cmd)
  if !d.ok cmd.op cmd.job (s.binById c d.bin) then s.badDesc c cmd
  else
    let ms := s.sweepMembers c d.bin d.layer
    let placed := s.placedIn c d.bin
    let lpad := 16 * ((ms ++ placed.filter fun i => (s.req c i).inLayer d.layer).map fun i => s.pageCount c i d).foldl max 0
    let s1 := s.each ms fun s i => s.joinSweep c i d
    let member := fun i : Nat => { (default : MemberRun) with slot := i, gen := (s.req c i).gen, abandoned := s.stepAbandoned c i }
    let run := newRun cmd (ms.map member) placed lpad s.tim.now
    (s1.setRun c cmd.job (some run)).settleSweep c cmd.job

/-- The sweep that has just taken the array starts, or resumes (R141). -/
def State.sweepTaken (s : State) (c : Nat) : State :=
  match (s.engine c 1).holder with
  | none => s
  | some cmd =>
    if !isSweep cmd.op then s
    else match s.run c cmd.job with
      | some r => if r.cmd = cmd then s.updRun c cmd.job fun r => { r with tileAt := s.tim.now } else s.startSweep c cmd
      | none => s.startSweep c cmd

/-- A sweep command that arrives: it takes the array and starts, or resumes, where the array is powered and takes it next; else it
waits in its lane, and in Noon an array that is powered down is woken (R33, R146, R311, R312, R539). -/
def State.sweepCmd (s : State) (c : Nat) (cmd : Cmd) : State :=
  if s.domSt c = .on then
    (s.occupy c 1 cmd).when (s.enabledCh c && (s.engine c 1).holder.isNone) fun s => s.sweepTaken c
  else s.when (s.enabledCh c) fun s => (((s.accrue c).arrive c 1 cmd).settle c).when (s.inWindow .noon) fun s => s.wake c

/-- QK (R147, R148). -/
def execQk (c : Nat) (cmd : Cmd) (s : State) : Host.Outcome State Fault Refusal := .next (s.sweepCmd c { cmd with op := 0x101 })

/-- SOFTMAX (R147, R148). -/
def execSoftmax (c : Nat) (cmd : Cmd) (s : State) : Host.Outcome State Fault Refusal :=
  .next (s.sweepCmd c { cmd with op := 0x102 })

/-- PV (R147, R148). -/
def execPv (c : Nat) (cmd : Cmd) (s : State) : Host.Outcome State Fault Refusal := .next (s.sweepCmd c { cmd with op := 0x103 })

/-- FUSED (R147, R149). -/
def execFused (c : Nat) (cmd : Cmd) (s : State) : Host.Outcome State Fault Refusal :=
  .next (s.sweepCmd c { cmd with op := 0x104 })

/-- PARTIAL (R147, R169): the sweep of a shard. -/
def execPartialSweep (c : Nat) (cmd : Cmd) (s : State) : Host.Outcome State Fault Refusal :=
  .next (s.sweepCmd c { cmd with op := 0x105 })

/-- STATE_UPDATE (R147, R150). -/
def execStateUpdate (c : Nat) (cmd : Cmd) (s : State) : Host.Outcome State Fault Refusal :=
  .next (s.sweepCmd c { cmd with op := 0x106 })

/-- CROSS (R147, R151). -/
def execCross (c : Nat) (cmd : Cmd) (s : State) : Host.Outcome State Fault Refusal :=
  .next (s.sweepCmd c { cmd with op := 0x107 })

/-! ### Streams (R133, R134, R158, R159) -/

/-- A page of a stream, as its PTE stands. -/
def State.streamPage (s : State) (c k : Nat) : StreamPage :=
  let p := s.pte c k
  { page := keyPage k, pte := k, place := s.placeOf c k, held := if s.listed c k then p.held else 0,
    poisoned := s.listed c k && s.resolved c k == .poisoned }

/-- The streams of one head: a row set each (R134). -/
def headStreams (d : Desc) (i h rows lpad : Nat) (pages : List StreamPage) : List StreamRun :=
  (List.range (ceilDiv rows d.height)).map fun k =>
    { slot := i, head := h, rowBase := k * d.height, pages := pages, len := 16 * pages.length,
      pad := lpad - 16 * pages.length, done := 0,
      rows := List.replicate (min d.height (rows - k * d.height)) default, finished := false }

/-- Marks a member in a sweep. -/
def SweepRun.mark (r : SweepRun) (i : Nat) (f : MemberRun → MemberRun) : SweepRun :=
  { r with members := r.members.map fun m => if m.slot = i then f m else m }

/-- A member whose streams cover a POISONED page: counted in the sweep, and CONTEXT_DAMAGED is set (R156, R173). -/
def State.coverPoison (s : State) (c j i : Nat) : State := (s.updRun c j fun r => r.mark i fun m => { m with damaged := true }).setDamaged c i

/-- The members of a sweep on whose streams a POISONED page is masked and that are not yet counted (R156, R211). -/
def SweepRun.struck (r : SweepRun) : List Nat :=
  (r.members.filter fun m => !m.damaged && !m.isOver &&
    r.streams.any fun x => x.slot == m.slot && x.pages.any StreamPage.poisoned).map MemberRun.slot

/-- Counts them. -/
def State.coverStruck (s : State) (c j : Nat) : State :=
  match s.run c j with
  | none => s
  | some r => s.each r.struck fun s i => s.coverPoison c j i

/-- Flags of a member's work in a sweep (R125). -/
def SweepRun.flag (r : SweepRun) (i f : Nat) : SweepRun := r.mark i fun m => { m with flags := m.flags ||| f }

/-- A member's part in a sweep is written: its flags count for its step (R125). -/
def State.writeMember (s : State) (c j i : Nat) : State :=
  let f := ((s.run c j).bind fun r => (r.members.find? fun m => m.slot == i).map MemberRun.flags).getD 0
  (s.updRun c j fun r => r.mark i fun m => { m with written := true }).updStep c i fun y => { y with flags := y.flags ||| f }

/-- Table units of a stream's pages that return poison lose their entries (R562). -/
def State.checkUnits (s : State) (c i : Nat) (keys : List Nat) : State :=
  s.each keys fun s k => s.when (s.listed c k && s.unitBad c k) fun s => (s.loseUnit c k).setDamaged c i

/-- Lays out a member's streams over the pages of each head, head by head and row set by row set. Padding counts once for each
stream, whatever its row sets (R158). -/
def State.putStreams (s : State) (c j i : Nat) (d : Desc) (lpad : Nat) (q : StagedRec) (pages : List (List Nat)) : State :=
  let s1 := s.checkUnits c i (pages.flatMap id)
  let sts := pages.zipIdx.flatMap fun x =>
    headStreams d i x.2 (q.ntok * d.group) lpad (x.1.map (s1.streamPage c))
  let pads := ((sts.filter fun x => x.rowBase == 0).map StreamRun.pad).sum
  let s2 := (s1.updRun c j fun r =>
    let r := (r.mark i fun m => { m with laid := true }).flag i q.flags
    { r with streams := r.streams ++ sts, padPos := r.padPos + pads }).bump c Reg.ATN_PAD_POS_CNT pads
  s2.coverStruck c j

/-- Streams of recurrent heads, a row set each: K_DIM columns, no pages (R134, R150). -/
def stateStreams (d : Desc) (i rows : Nat) : List StreamRun :=
  (List.range d.kvHeads).flatMap fun h => (List.range (ceilDiv rows d.height)).map fun k =>
    { slot := i, head := h, rowBase := k * d.height, pages := [], len := d.kDim, pad := 0, done := 0,
      rows := List.replicate (min d.height (rows - k * d.height)) default, finished := false }

/-- Lays out a member whose record is there and whose pages are chosen; else it waits, its pages pulled (R159, R230). -/
def State.layMember (s : State) (c j i : Nat) (d : Desc) (lpad : Nat) : State :=
  match (s.step_ c i).staged.at d.layer with
  | none => s
  | some q =>
    if q.xkv then
      (s.updRun c j fun r => (r.mark i fun m => { m with laid := true, silent := true }).flag i q.flags).updStep c i fun y =>
        { y with flags := y.flags ||| q.flags }
    else if d.kind = 6 then
      s.updRun c j fun r =>
        let r := (r.mark i fun m => { m with laid := true }).flag i q.flags
        { r with streams := r.streams ++ stateStreams d i (q.ntok * d.group) }
    else
      let (p, n) := s.ownSpan c i q
      if s.isSparse c d then
        let s1 := s.sparseSelect c i p n d q
        match (s1.step_ c i).sel.at d.layer with
        | none => s1
        | some ps =>
          let bad := (s1.layerKeys c (s1.req c i).table d.layer).any fun k => s1.resolved c k == .poisoned
          let s2 := (s1.updRun c j fun r => r.flag i ps.2).putStreams c j i d lpad q ps.1
          s2.when bad fun s => s.coverPoison c j i
      else
        let keys := s.densePages c i d p n
        (s.pullLayer c i (keys.filter (s.listed c))).putStreams c j i d lpad q (List.replicate d.heads keys)

/-- Lays out every member of a sweep that can be laid out. Streams stand in member order. -/
def State.layAll (s : State) (c j : Nat) : State :=
  match s.run c j with
  | none => s
  | some r =>
    let s1 := s.each ((r.members.filter fun m => !m.laid && !m.isOver).map MemberRun.slot) fun s i => s.layMember c j i r.d r.lpad
    let place := fun (x : StreamRun) => (r.members.findIdx? fun m => m.slot == x.slot).getD 0
    s1.updRun c j fun r => { r with streams := sortBy r.streams fun a b => decide (place a ≤ place b) }

/-- A stream that has not begun resolves its pages again; a begun one keeps what it resolved (R159, R210). -/
def State.refresh (s : State) (c : Nat) (x : StreamRun) : StreamRun :=
  if x.done = 0 then { x with pages := x.pages.map fun p => { s.streamPage c p.pte with page := p.page } } else x

/-- Whether a stream can run: its pages are local, or hold nothing to read (R159). -/
def StreamRun.isLocal (c : Nat) (x : StreamRun) : Bool :=
  x.pages.all fun p => p.held == 0 || p.poisoned || homedHere c p.place

/-- Whether a sweep kind reads page images. -/
def Desc.readsPages (d : Desc) : Bool := d.kind != 2 && d.kind != 6

/-! ### Packing a column set (R135, R137) -/

/-- A stream's share of a column set: its number and the positions it takes. -/
structure TilePart where
  ix : Nat
  n : Nat
  deriving DecidableEq, Repr, Inhabited

/-- Packs streams into `bands` bands of `cols` columns in order, within `bank` accumulators; each stream's rows need `dim`
accumulators (R135, R137, R569). -/
def packSet (cols dim : Nat) : Nat → Nat → List (Nat × StreamRun) → List TilePart
  | _, _, [] => []
  | bands, bank, (i, x) :: l =>
    let left := x.len + x.pad - x.done
    let need := max 1 (ceilDiv left cols)
    let acc := x.rows.length * dim
    if bands = 0 ∨ bank < acc then []
    else if need ≤ bands then ⟨i, left⟩ :: packSet cols dim (bands - need) (bank - acc) l
    else [⟨i, bands * cols⟩]

/-- The parts of the next column set of a sweep: the stream carried over from the last set first, whose accumulators stand in the
bank (R135, R137), then the others in order. -/
def State.nextSet (s : State) (c : Nat) (r : SweepRun) : List TilePart :=
  let d := r.d
  let ready := (r.streams.zipIdx.map fun x => (x.2, x.1)).filter fun x =>
    !x.2.finished && (!d.readsPages || decide (0 < x.2.done) || x.2.isLocal c)
  packSet (max 1 (s.bandCols c)) d.valDim d.bands 262144
    (ready.filter (fun x => decide (0 < x.2.done)) ++ ready.filter fun x => decide (x.2.done = 0))

/-! ### What a tile reads -/

/-- The places of a page for a stream of a member: held data of a page that is not POISONED, and the step's own tokens as
staged (R156, R166, R189). `own` is the first position and number of the own tokens. -/
def State.pagePlaces (s : State) (d : Desc) (seq h : Nat) (q : StagedRec) (own : Nat × Nat) (g : StreamPage) :
    List (Option TilePos) :=
  let bs := if g.poisoned || g.held == 0 then [] else pageBlocks d (s.imgRead g.place 0 20480) g.held
  (List.range 16).map fun t =>
    let p := seq + 16 * g.page + t
    let place := fun bs t =>
      let k := rotateBlocks d p d.rotBase (d.keyBlocks bs t h)
      some ⟨p, k.1, k.2, d.valBlocks bs t h⟩
    if own.1 ≤ p ∧ p < own.1 + own.2 then place q.kvb (p - own.1)
    else if t < g.held ∧ g.poisoned = false then place bs t
    else none

/-- R156's mask and window, for a query at `pq` and a key at `p`; `pl` is PROMPT_LEN. -/
def Desc.sees (d : Desc) (pl pq p : Nat) : Bool :=
  (d.mask == 2 || decide (p ≤ pq) || (d.mask == 1 && decide (p < pl) && decide (pq < pl))) &&
    (d.window == 0 || decide ((if pq < p then p - pq else pq - p) < d.window))

/-- The stream positions of a page that lie in a tile. -/
def inTile (lo n page : Nat) (xs : List (Option TilePos)) : List (Option TilePos) :=
  xs.zipIdx.map fun x => if lo ≤ 16 * page + x.2 ∧ 16 * page + x.2 < lo + n then x.1 else none

/-- The columns of bands that a tile does not skip: a band in which no row sees any position is skipped, and the other bands
stream every column, masked ones too (R135). `vis` says of each position whether some row sees it. -/
def streamedCols (cols : Nat) (ps : List (Option TilePos)) (vis : List Bool) : List TilePos :=
  ((chunksOf cols (ps.length + 1) ps).zip (chunksOf cols (ps.length + 1) vis)).flatMap fun b =>
    if b.2.any id then b.1.filterMap id else []

/-- The L8 blocks at each key block index and each value block index of a tile's places (R135). -/
def hasL8 (n : Nat) (bs : List (List LBlock)) : List Bool :=
  (List.range n).map fun k => bs.any fun b => (b.getD k (LBlock.zero 8)).tag == 2

/-- Cycles of a pass over block indices: 16 each, 64 where a column holds an L8 block, and the turnaround (R135). -/
def passCycles (l : List Bool) : Nat := (l.map fun b => if b then 64 else 16).sum + 4

/-- Rows of the planes of the separate sweeps per member: the query positions by the query heads (R148; DEDUCED, log
entry 18). -/
def State.planeRows (s : State) (c : Nat) (d : Desc) : Nat :=
  d.qHeads * (match s.binById c d.bin with
    | some b => if b.prefill then 16 * b.chunk else 1
    | none => 1)

/-- The row number of a stream's row in the planes: by head, then by row (R148). -/
def planeRow (d : Desc) (q : StagedRec) (x : StreamRun) (row : Nat) : Nat := x.head * (q.ntok * d.group) + x.rowBase + row

/-- The place of a member in the placement order of its bin at Dawn (R148). -/
def SweepRun.memberIx (r : SweepRun) (i : Nat) : Nat := (r.placed.findIdx? fun k => k == i).getD 0

/-- The address of a score (R148). -/
def State.scoreAt (s : State) (c : Nat) (r : SweepRun) (i row pos : Nat) : Nat :=
  r.d.scoreAddr + 4 * ((r.memberIx i * s.planeRows c r.d + row) * r.lpad + pos)

/-- The number of a probability block (R148). -/
def State.probIx (s : State) (c : Nat) (r : SweepRun) (i row blk : Nat) : Nat :=
  (r.memberIx i * s.planeRows c r.d + row) * (r.lpad / 16) + blk

/-- The blocks of the probability plane. -/
def State.probCount (s : State) (c : Nat) (r : SweepRun) : Nat := r.placed.length * s.planeRows c r.d * (r.lpad / 16)

/-- A stored probability block. -/
def State.probAt (s : State) (c : Nat) (r : SweepRun) (k : Nat) : LBlock :=
  ⟨s.vnat (r.d.probAddr + 16 * s.probCount c r + 2 * k) 2, s.vread (r.d.probAddr + 16 * k) 16, [], []⟩

/-- The state address of a recurrent head's state (R150). -/
def stateAt (d : Desc) (i h : Nat) : Nat := d.stateAddr + i * d.stateStride + h * (d.vDim * d.kDim * 18 / 16)

/-- The ranges that a part of a column set accesses beside page images: address, length, write. -/
def State.partSpans (s : State) (c : Nat) (r : SweepRun) (x : StreamRun) (q : StagedRec) : List (Nat × Nat × Bool) :=
  let d := r.d
  let rows := (List.range x.rows.length).map (planeRow d q x)
  let bias := if d.posBias then [(d.biasAddr, 4 * d.qHeads, false)] else []
  let proj := fun (us : List Bool) => if d.latMode = 2 then
      (List.range d.qHeads).flatMap fun h => us.map fun u => ((d.projPlane h u).1, 18 * (d.projPlane h u).2, false)
    else []
  let scores := fun w => rows.map fun row => (s.scoreAt c r x.slot row 0, 4 * r.lpad, w)
  let probs := fun (w : Bool) => rows.flatMap fun row =>
    let k := s.probIx c r x.slot row 0
    [(d.probAddr + 16 * k, r.lpad, w), (d.probAddr + 16 * s.probCount c r + 2 * k, r.lpad / 8, w)]
  match d.kind with
  | 1 => bias ++ proj [false] ++ scores true
  | 2 => bias ++ scores false ++ probs true
  | 3 => proj [true] ++ probs false
  | 6 => [(stateAt d x.slot x.head, d.vDim * d.kDim * 18 / 16, false), (d.decayAddr + 4 * x.head, 4, false)]
  | _ => bias ++ proj [false, true]

/-- The first failed check of a column set, and whether the access was a write. -/
def State.setFault (s : State) (c : Nat) (r : SweepRun) (set : List TilePart) : Option (AtuErr × Bool) :=
  set.findSome? fun t =>
    let x := r.streams.getD t.ix default
    match (s.step_ c x.slot).staged.at r.d.layer with
    | none => none
    | some q => (s.partSpans c r x q).findSome? fun sp => (s.checkSpan c r.cmd.job sp.1 sp.2.1 sp.2.2).map fun e => (e, sp.2.2)

/-! ### Running one part of a tile -/

/-- What a part of a tile gives: the stream's rows, flags, the planes it writes, the L8 places of its keys and values, the
recurrent state of its head, and whether some position was visible. -/
structure PartOut where
  rows : List RowRun
  flags : Nat
  writes : List (Nat × List Byte)
  kL8 : List Bool
  vL8 : List Bool
  newState : Option (List Byte)
  active : Bool
  deriving DecidableEq, Repr, Inhabited

/-- The token and the query head of a stream's row (R134). -/
def rowTok (d : Desc) (x : StreamRun) (row : Nat) : Nat := (x.rowBase + row) / d.group
def rowHead (d : Desc) (x : StreamRun) (row : Nat) : Nat := x.head * d.group + (x.rowBase + row) % d.group

/-- The slope of a query head (R155). -/
def State.slope (s : State) (d : Desc) (h : Nat) : Rat :=
  if d.posBias then (fp32Val (s.vnat (d.biasAddr + 4 * h) 4)).getD 0 else 0

/-- FP32 of minus infinity: a masked score (R148, R156; DEDUCED, log entry 18). -/
def negInf : Nat := 0xFF800000

/-- The scores of a row over the positions of a tile, in FP32 (R148). -/
def scoreBytes (q : List LBlock) (ps : List (Option TilePos)) : List Byte × Bool :=
  let r := ps.map fun x => x.map fun x => (dotBlocks q x.k).fp32
  (r.flatMap fun v => leBytes 4 (match v with
    | some v => fp32Bits v.1
    | none => negInf), r.any fun v => (v.map Prod.snd).getD false)

/-- One part of a score, value or fused tile. -/
def State.runPart (s : State) (c : Nat) (r : SweepRun) (x : StreamRun) (n : Nat) (q : StagedRec) : PartOut :=
  let d := r.d
  let e := s.req c x.slot
  let seq := shardStart e.shard
  let own := if d.kind = 7 then (0, 0) else s.ownSpan c x.slot q
  let pq := s.queryPos c x.slot q
  let lo := x.done
  let ix := (List.range (ceilDiv (min (lo + n) x.len) 16)).drop (lo / 16)
  let pages := ix.map fun g => (g, inTile lo n g (s.pagePlaces d seq x.head q own (x.pages.getD g default)))
  let sees := fun row (p : TilePos) => d.sees e.promptLen (pq + rowTok d x row) p.p
  let see := fun row (ps : List (Option TilePos)) => ps.map fun p => p.filter (sees row)
  let bias := fun row p => if d.posBias then biasOf (s.slope d (rowHead d x row)) (pq + rowTok d x row) p else 0
  let vis := (List.range x.rows.length).map fun row => pages.map fun g => (g.1, see row g.2)
  let cols := (pages.flatMap Prod.snd).drop (lo % 16)
  let strm := streamedCols (max 1 (s.bandCols c)) cols
    (cols.map fun p => (p.map fun p => (List.range x.rows.length).any fun row => sees row p).getD false)
  let h := if d.kind = 4 ∨ d.kind = 5 then headroom r.lpad else 0
  let res := x.rows.zipIdx.map fun rw =>
    let v : List (Nat × List (Option TilePos)) := vis.getD rw.2 []
    let qs := fun (_ : Unit) => (s.attQuery d q (rowTok d x rw.2) (rowHead d x rw.2)).1
    let prow := planeRow d q x rw.2
    match d.kind with
    | 1 =>
      let ps : List (Option TilePos) := padToList n none ((v.flatMap Prod.snd).drop (lo % 16))
      let b := scoreBytes (qs ()).1 ps
      (rw.1, (qs ()).2 ||| (if b.2 then flSat else 0), [(s.scoreAt c r x.slot prow lo, b.1)])
    | 3 =>
      let ps := v.map fun (g : Nat × List (Option TilePos)) => (s.probAt c r (s.probIx c r x.slot prow g.1), g.2)
      (rw.1.pvTile d.valDim ps, blocksFlag (ps.map Prod.fst), [])
    | _ =>
      let t := rw.1.fusedTile d.alpha (bias rw.2) h d.valDim (qs ()).1 v
      (t.1, (qs ()).2 ||| t.2, [])
  let vs := strm.map TilePos.v
  { rows := res.map fun y => y.1,
    flags := orFlags (res.map fun y => y.2.1) ||| (if d.kind = 3 then 0 else orFlags (strm.map TilePos.kf)) |||
      (if d.kind = 1 then 0 else blocksFlag (vs.flatMap id)),
    writes := res.flatMap fun y => y.2.2, kL8 := hasL8 (d.keyDim / 16) (strm.map TilePos.k), vL8 := hasL8 (d.valDim / 16) vs,
    newState := none, active := !strm.isEmpty }

/-- The position of the token at a stream's place. -/
def streamPos (seq : Nat) (x : StreamRun) (k : Nat) : Nat := seq + 16 * (x.pages.getD (k / 16) default).page + k % 16

/-- z of the scores of a row from position `lo` of its stream on, from the score plane; a score that is not finite is a masked one
(R121, R148, R155). -/
def State.planeZ (s : State) (c : Nat) (r : SweepRun) (x : StreamRun) (q : StagedRec) (row lo n : Nat) : List (Option (Int × Bool)) :=
  let d := r.d
  let p := s.queryPos c x.slot q + rowTok d x row
  let seq := shardStart (s.req c x.slot).shard
  ((wordsOf (s.vread (s.scoreAt c r x.slot (planeRow d q x row) lo) (4 * n))).zipIdx).map fun w =>
    (fp32Val w.1.toNat).map fun v => zOf v d.alpha
      (if d.posBias then biasOf (s.slope d (rowHead d x row)) p (streamPos seq x (lo + w.2)) else 0)

/-- One part of a SOFTMAX sweep: the running maximum and sum of each row meet the tile's scores, and after the last tile of the
stream its probability blocks are written (R122, R123, R148). -/
def State.softmaxPart (s : State) (c : Nat) (r : SweepRun) (x : StreamRun) (n : Nat) (q : StagedRec) : PartOut :=
  let d := r.d
  let res := x.rows.zipIdx.map fun rw =>
    let zs := s.planeZ c r x q rw.2 x.done n
    let row := rw.1.softTile x.done (zs.map fun z => z.map Prod.fst)
    let ws := if x.done + n < x.len + x.pad then []
      else
        let bs := row.softBlocks ((s.planeZ c r x q rw.2 0 r.lpad).map fun z => z.map Prod.fst)
        let k := s.probIx c r x.slot (planeRow d q x rw.2) 0
        [(d.probAddr + 16 * k, bs.flatMap fun y => padTo 16 (y.code ++ y.ext)),
          (d.probAddr + 16 * s.probCount c r + 2 * k, bs.flatMap fun y => leBytes 2 y.side)]
    (row, if zs.any fun z => (z.map Prod.snd).getD false then flSat else 0, ws)
  { (default : PartOut) with
    rows := res.map fun y => y.1, flags := orFlags (res.map fun y => y.2.1), writes := res.flatMap fun y => y.2.2, active := true }

/-- One row set of a recurrent head (R150): every query position in order, from the stored state on; the outputs are those of its own
rows, and the state after its last row is the new one. -/
def State.statePart (s : State) (r : SweepRun) (x : StreamRun) (q : StagedRec) : PartOut :=
  let d := r.d
  let g := (fp32Val (s.vnat (d.decayAddr + 4 * x.head) 4)).getD 0
  let s0 := stateRows d.vDim d.kDim (s.vread (stateAt d x.slot x.head) (d.vDim * d.kDim * 18 / 16))
  let upto := x.rowBase + x.rows.length
  let res := (List.range (ceilDiv upto d.group)).foldl (fun (st : List (List LBlock) × Nat × List RowRun) t =>
    let y := stateStep g (d.keyBlocks q.kvb t x.head) (d.valBlocks q.kvb t x.head) st.1
    let outs := (List.range d.group).map fun k =>
      { (default : RowRun) with seen := true, acc := stateOut (q.queryOf d t (x.head * d.group + k)) y.1 }
    (y.1, st.2.1 ||| y.2, st.2.2 ++ outs)) (s0, 0, [])
  { (default : PartOut) with
    rows := (res.2.2.take upto).drop x.rowBase, flags := res.2.1 ||| blocksFlag (s0.flatMap id), newState := some (stateBytes res.1),
    active := true }

/-- Runs one part of a column set. -/
def State.partOut (s : State) (c : Nat) (r : SweepRun) (t : TilePart) : PartOut :=
  let x := r.streams.getD t.ix default
  match (s.step_ c x.slot).staged.at r.d.layer with
  | none => { (default : PartOut) with rows := x.rows }
  | some q =>
    if r.d.kind = 2 then s.softmaxPart c r x t.n q
    else if r.d.kind = 6 then s.statePart r x q
    else s.runPart c r x t.n q

/-- The pages whose keys and values the next `n` positions of a stream take from memory. -/
def StreamRun.tilePages (x : StreamRun) (n : Nat) : List StreamPage :=
  (x.pages.zipIdx.filter fun (g : StreamPage × Nat) => decide (x.done < 16 * g.2 + 16) && decide (16 * g.2 < x.done + n) &&
    decide (0 < g.1.held) && !g.1.poisoned).map Prod.fst

/-- What a part of a tile reads beside page images: bias slopes, the decay rate and the recurrent state as its stream begins; the scores
or the probability blocks of its positions, and all scores again where its probability blocks are written (R148, R150, R155). -/
def State.partReads (s : State) (c : Nat) (r : SweepRun) (x : StreamRun) (n : Nat) (q : StagedRec) : List (Nat × Nat) :=
  let d := r.d
  let rows := (List.range x.rows.length).map (planeRow d q x)
  let bias := if d.posBias && x.done == 0 then [(d.biasAddr, 4 * d.qHeads)] else []
  match d.kind with
  | 2 => bias ++ (rows.map fun row => (s.scoreAt c r x.slot row x.done, 4 * n)) ++
      if x.done + n < x.len + x.pad then [] else rows.map fun row => (s.scoreAt c r x.slot row 0, 4 * r.lpad)
  | 3 => rows.flatMap fun row =>
      let k := s.probIx c r x.slot row (x.done / 16)
      [(d.probAddr + 16 * k, 16 * ceilDiv n 16), (d.probAddr + 16 * s.probCount c r + 2 * k, 2 * ceilDiv n 16)]
  | 6 => if x.done = 0 then [(stateAt d x.slot x.head, d.vDim * d.kDim * 18 / 16), (d.decayAddr + 4 * x.head, 4)] else []
  | _ => bias

/-- What the reads of a tile do to the block coding's counts and headers: each image that the tile reads is read whole, once (R268, R273;
DESIGN CHOICE, log entry 60), and what its parts read beside. -/
def State.touchTile (s : State) (c j : Nat) (r : SweepRun) (set : List TilePart) : State :=
  let ps := if r.d.readsPages then (set.flatMap fun t => (r.streams.getD t.ix default).tilePages t.n).map StreamPage.place else []
  let v := s.asOld c r.old
  let ds := set.flatMap fun t =>
    let x := r.streams.getD t.ix default
    match (s.step_ c x.slot).staged.at r.d.layer with
    | none => []
    | some q => v.partReads c r x t.n q
  (s.each ps.eraseDups fun s p => s.touchImage j p).each ds fun s a => s.touch j a.1 a.2

/-- Poison in a page image that a tile reads: the home becomes POISONED, and the stream's page with it (R211). -/
def State.meetPoison (s : State) (c j : Nat) (r : SweepRun) (set : List TilePart) : State :=
  s.each (if r.d.readsPages then set else []) fun s t =>
    let x := r.streams.getD t.ix default
    let bad := (x.tilePages t.n).filter fun g => s.imgPoison g.place 0 20480
    if bad.isEmpty then s
    else
      let s1 := s.each bad fun s g => s.poisonPage c (s.homeKey c g.pte)
      let strike := fun (y : StreamRun) => { y with pages := y.pages.zipIdx.map fun (g : StreamPage × Nat) =>
        if y.done < 16 * g.2 + 16 && (bad.any fun b => b.place == g.1.place) then { g.1 with poisoned := true } else g.1 }
      (s1.updRun c j fun r => { r with streams := r.streams.map strike }).coverStruck c j

/-- Whether a key block index is rotated on the way to the cells, and so runs at the L8 rate (R154). -/
def Desc.rotIx (d : Desc) (k : Nat) : Bool :=
  d.ropeMode == 1 && decide (d.rotBase / 16 ≤ k) && decide (k < d.rotBase / 16 + d.ropeDims / 16)

/-- Cycles of a tile by sweep kind (R135, R136, R154); the passes of a STATE_UPDATE have no stated length: a free value within the
bound of R138 (log entry 6). -/
def tileCycles (d : Desc) (outs : List PartOut) (free : Nat) : Nat :=
  let join := fun (n : Nat) (f : PartOut → List Bool) => (List.range n).map fun k =>
    outs.any fun o => (f o).getD k false
  let k := passCycles ((join (d.keyDim / 16) PartOut.kL8).zipIdx.map fun b => b.1 || d.rotIx b.2)
  let v := passCycles (join (d.valDim / 16) PartOut.vL8)
  if !outs.any PartOut.active then 0
  else match d.kind with
    | 1 => k
    | 2 => 0
    | 3 => v
    | 6 => min free 3900
    | _ => k + v

/-! ### Projection passes (R138, R153) -/

/-- Whether every query-projection pass of a member's stream has run: one for each head, in the kinds that run a score pass. -/
def SweepRun.projIn (r : SweepRun) (i : Nat) : Bool :=
  r.d.latMode != 2 || r.d.kind == 2 || r.d.kind == 3 || decide (r.d.qHeads ≤ r.proj.at (2 * i))

/-- Whether every output-projection pass of a member's stream has run: one for each head, in the kinds that run a value pass. -/
def SweepRun.projOut (r : SweepRun) (i : Nat) : Bool :=
  r.d.latMode != 2 || r.d.kind == 1 || r.d.kind == 2 || decide (r.d.qHeads ≤ r.proj.at (2 * i + 1))

/-- Whether all streams of a laid-out member have ended and it is not over. -/
def SweepRun.ended (r : SweepRun) (m : MemberRun) : Bool :=
  m.laid && !m.isOver && (r.streams.filter fun x => x.slot == m.slot).all StreamRun.finished

/-- The projection pass that is due before the column set: its member, and whether it is an output projection (R153). -/
def SweepRun.projDue (r : SweepRun) (set : List TilePart) : Option (Nat × Bool) :=
  match r.members.find? fun m => r.ended m && !r.projOut m.slot with
  | some m => some (m.slot, true)
  | none => ((set.map fun t => (r.streams.getD t.ix default).slot).find? fun i => !r.projIn i).map fun i => (i, false)

/-- One projection pass, a tile of its own: 4 × K_DIM + 4 or 4 × LATENT_DIM + 4 cycles. The columns that it leaves idle are those
beyond its output elements (DEDUCED, log entry 18). -/
def State.projTile (s : State) (c j : Nat) (r : SweepRun) (i : Nat) (out : Bool) : State :=
  let d := r.d
  let m := d.projPlane (r.proj.at (2 * i + b2n out)) out
  let (stall, s0) := (s.touch j m.1 (18 * m.2)).drawNat
  let s1 := s0.passToNow (r.tileAt + s.onDuty (if out then 4 * d.latent + 4 else 4 * d.kDim + 4) + stall)
  let s2 := s1.updRun c j fun _ =>
    { r.clock s1.tim.now with tiles := r.tiles + 1, stall := r.stall + stall, proj := r.proj.upd (2 * i + b2n out) (· + 1) }
  ((s2.bump c Reg.ATN_TILE_CNT).bump c Reg.ATN_IDLE_COL_CNT (d.bands * 128 - (if out then d.vDim else d.latent))).bump c
    Reg.ATN_DRAM_STALL_CNT stall

/-- The first failed check of a projection pass's matrix. -/
def State.projFault (s : State) (c : Nat) (r : SweepRun) (i : Nat) (out : Bool) : Option AtuErr :=
  let p := r.d.projPlane (r.proj.at (2 * i + b2n out)) out
  s.checkSpan c r.cmd.job p.1 (18 * p.2) false

/-- The new recurrent states of a tile go to step staging (R150). -/
def State.stageStates (s : State) (c : Nat) (r : SweepRun) (set : List TilePart) (outs : List PartOut) : State :=
  (set.zip outs).foldl (fun s t => match t.2.newState with
    | none => s
    | some b =>
      let x := r.streams.getD t.1.ix default
      s.updStep c x.slot fun y => { y with newState := y.newState.set (r.d.layer * 256 + x.head) b }) s

/-- The streams after a tile. -/
def SweepRun.advance (r : SweepRun) (set : List TilePart) (outs : List PartOut) : List StreamRun :=
  r.streams.zipIdx.map fun x =>
    match (set.zip outs).find? fun t => t.1.ix == x.2 with
    | none => x.1
    | some t =>
      let done := x.1.done + t.1.n
      { x.1 with done := done, rows := t.2.rows, finished := done == x.1.len + x.1.pad }

/-- A free number of cycles for which the array stalls on a tile's codes; a tile that streams none does not stall (R142; log entry
6). -/
def State.tileStall (s : State) (d : Desc) (outs : List PartOut) : Nat × State :=
  if d.kind = 2 || !outs.any PartOut.active then (0, s) else s.drawNat

/-- The effects of a tile: planes, states, counts and the time it took (R135 to R138, R142, R543). -/
def State.runTile (s : State) (c j : Nat) (r : SweepRun) (set : List TilePart) : State :=
  let d := r.d
  let outs := set.map (s.partOut c r)
  let (stall, s1) := s.tileStall d outs
  let (free, s2) := s1.drawNat
  let s3 := s2.passToNow (r.tileAt + s.onDuty (tileCycles d outs free) + stall)
  let s4 := s3.each outs fun s o => s.each o.writes fun s w =>
    (s.vwrite w.1 w.2 j).when (d.kind == 1) fun s => s.watchBytes c j d.layer r.cmd.op true w.2
  let s5 := (s4.stageStates c r set outs).updRun c j fun _ =>
    (set.zip outs).foldl (fun r t => r.flag (r.streams.getD t.1.ix default).slot t.2.flags)
      { r.clock s3.tim.now with streams := r.advance set outs, tiles := r.tiles + 1, stall := r.stall + stall }
  let idle := d.bands * 128 - (set.map TilePart.n).sum
  (((s5.bump c Reg.ATN_TILE_CNT).bump c Reg.ATN_IDLE_COL_CNT idle).bump c Reg.ATN_DRAM_STALL_CNT stall)

/-! ### Output records (R149, R161, R163, R166, R169) -/

/-- The stream and row that hold a query head of a token. -/
def SweepRun.rowOf (r : SweepRun) (d : Desc) (i tok h : Nat) : RowRun :=
  let row := tok * d.group + h % d.group
  match r.streams.find? fun x => x.slot == i && x.head == h / d.group && decide (x.rowBase ≤ row) &&
      decide (row < x.rowBase + x.rows.length) with
  | some x => x.rows.getD (row - x.rowBase) default
  | none => default

/-- The accumulators of one query head's output, in PROJECTED mode those of its output projection, and the flags of forming them
(R125, R153). -/
def State.headAccs (s : State) (d : Desc) (accs : List Acc) (h : Nat) : List Acc × Nat :=
  if d.latMode = 2 then
    let p := d.projPlane h true
    let vs := accs.map Acc.fp32
    let o := projOut d (vs.map Prod.fst) (matBlocks p.2 (s.vread p.1 (18 * p.2)))
    (o.1, o.2 ||| satFlag vs)
  else (accs, 0)

/-- The output values of one query head, in BF16, and the flags of forming them (R120, R124, R125, R153, R605). -/
def State.headOut (s : State) (d : Desc) (r : RowRun) (h : Nat) : List Rat × Nat :=
  match r.final (d.kind == 4 || d.kind == 7) with
  | none => (List.replicate d.outDim 0, 0)
  | some accs =>
    let o := s.headAccs d accs h
    let vs := o.1.map Acc.bf16
    (vs.map Prod.fst, o.2 ||| satFlag vs)

/-- RFLAGS of an OUTPUT record (R165). -/
def outFlags (e : ReqEntry) (layer : Nat) : Nat := if e.flags.exitOn ∧ layer + 1 = e.exitLayer then 4 else 0

/-- An OUTPUT record of values in BF16. -/
def State.outputRec (s : State) (c i : Nat) (d : Desc) (q : StagedRec) (vals : List Rat) : List Byte :=
  let e := s.req c i
  xrRec 2 (outFlags e d.layer) e.gen (reqIndex c i) d.layer s.tim.day (s.queryPos c i q) q.ntok 0
    (vals.flatMap fun v => leBytes 2 (bf16Bits v))

/-- The share of a page in the attention mass of a stream: one FP32 sum over all its rows in ascending order, whatever its row
sets (R134, R161). -/
def SweepRun.pageMass (r : SweepRun) (i h g : Nat) : Rat :=
  ((r.streams.filter fun x => x.slot == i && x.head == h).flatMap StreamRun.rows).foldl (fun acc rw => rne32 (acc + rw.share g)) 0

/-- The attention mass of a member's streams goes to PGM's account of the step (R161); a SOFTMAX sweep has the effect on scores that
a fused one has (R148). -/
def State.deliverMass (s : State) (c i : Nat) (d : Desc) (r : SweepRun) : State :=
  if !s.rdB c Reg.ATN_CFG 1 || (s.req c i).evictBudget == 0 || !(d.kind == 2 || d.kind == 4 || d.kind == 7) then s
  else s.each (r.streams.filter fun x => x.slot == i && x.rowBase == 0) fun s x =>
    s.each x.pages.zipIdx fun s (g : StreamPage × Nat) =>
      let m := BitVec.ofNat 32 (fp32Bits (r.pageMass i x.head g.2))
      s.updStep c i fun y => { y with mass := y.mass.upd (d.layer * 65536 + g.1.page) fun l => l ++ [m] }

/-- The partial rows of a member, token by token and head by head, and the flags of forming them (R120, R125, R169, R605). U has
V_DIM elements; in PROJECTED mode each shard projects its own unnormalised output, and in ABSORBED mode, where no V_DIM elements
exist, U has the LATENT_DIM of the output (both DEDUCED, log entry 18). -/
def State.partialOf (s : State) (d : Desc) (r : SweepRun) (i ntok : Nat) : List (PartRow × Nat) :=
  (List.range ntok).flatMap fun t => (List.range d.qHeads).map fun h =>
    let row := r.rowOf d i t h
    if !row.seen then ({ u := List.replicate d.outDim 0, m := emptyLam, lam := emptyLam }, 0)
    else
      let o := s.headAccs d row.acc h
      let vs := o.1.map Acc.fp32
      ({ u := vs.map Prod.fst, m := row.m, lam := row.lam }, o.2 ||| satFlag vs)

/-- A record for the OUT ring of a sweep: written, held until the ring has room, or dropped on a ring that is not the job's
(R14, R163). -/
def State.sendRecord (s : State) (c j : Nat) (d : Desc) (bs : List Byte) : State :=
  if !s.xrTakes c d.outRing j then s.bump c Reg.ATN_XR_DROP_CNT
  else
    let busy := match s.run c j with
      | some r => !r.held.isEmpty
      | none => false
    if busy || !s.xrRoom c d.outRing bs.length then
      (s.updRun c j fun r => { r with held := r.held ++ [bs] }).xrFull c d.outRing j
    else s.xrPut c d.outRing bs

/-- A member's OUTPUT record leaves: its values are observed, and the member is done with the sweep (R149, R576). -/
def State.putOutput (s : State) (c j i : Nat) (d : Desc) (q : StagedRec) (vals : List (List Rat × Nat)) : State :=
  let bs := s.outputRec c i d q (vals.flatMap Prod.fst)
  let s1 := (s.updRun c j fun r => r.flag i (orFlags (vals.map Prod.snd))).writeMember c j i
  (s1.watchBytes c j d.layer (0x100 + d.kind) false ((vals.flatMap Prod.fst).flatMap fun v => leBytes 2 (bf16Bits v))).sendRecord c j d bs

/-- The number of shards of a member. -/
def shardTotal (e : ReqEntry) : Nat := shardCountM1 e.shard + 1

/-- The merged values of a row of a sharded member in BF16, with the flags of converting them (R120, R170). -/
def mergedOut (d : Desc) (ps : List PartRow) : List Rat × Nat :=
  match mergeRow ps with
  | none => (List.replicate d.outDim 0, 0)
  | some v => ((v.map sat16).map Prod.fst, satFlag (v.map sat16))

/-- The home writes a sharded member's OUTPUT record once every partial of the layer has arrived (R170, R171). -/
def State.mergeMember (s : State) (c j i : Nat) (d : Desc) : State :=
  let e := s.req c i
  let ps := (s.step_ c i).parts.at d.layer
  match (s.step_ c i).staged.at d.layer, s.run c j with
  | some q, some r =>
    let mine := r.streams.filter fun x => x.slot == i
    let live := r.members.any fun m => m.slot == i && m.laid && !m.isOver
    if live && mine.all StreamRun.finished && decide (shardTotal e ≤ ps.length) then
      let parts := ps.map fun p => partRows d.outDim p.payload
      let rows := q.ntok * d.qHeads
      let vals := (List.range rows).map fun k => mergedOut d (parts.map fun p => p.getD k ⟨[], emptyLam, emptyLam⟩)
      (s.bump c Reg.ATN_MERGE_CNT rows).putOutput c j i d q vals
    else s
  | _, _ => s

/-- The last stream of a member has ended (R149, R169): its output, its planes, or its partial. -/
def State.endMember (s : State) (c j i : Nat) (d : Desc) (q : StagedRec) (r : SweepRun) : State :=
  let e := s.req c i
  if d.kind = 1 ∨ d.kind = 2 then (s.deliverMass c i d r).writeMember c j i
  else if d.kind = 5 then
    let rows := s.partialOf d r i q.ntok
    let bytes := rows.flatMap fun p => p.1.bytes
    let us := rows.flatMap fun p => p.1.u.flatMap fun x => leBytes 4 (fp32Bits x)
    let s1 := (s.updRun c j fun r => r.flag i (orFlags (rows.map Prod.snd))).watchBytes c j d.layer 0x105 true us
    if isHome e.shard then
      (s1.updStep c i fun y => { y with parts := y.parts.upd d.layer fun l => l ++ [⟨shardPos e.shard, bytes⟩] }).mergeMember c j i d
    else
      (s1.writeMember c j i).devSend c (s.memberSlot c (shardHomeDev e.shard))
        (shardHomeReq e.shard / 4096) d.outRing
        (xrRec 3 0 e.homeGen (shardHomeReq e.shard) d.layer s.tim.day q.pos q.ntok (shardPos e.shard) bytes)
  else
    let vals := (List.range q.ntok).flatMap fun t => (List.range d.qHeads).map fun h => s.headOut d (r.rowOf d i t h) h
    (s.deliverMass c i d r).putOutput c j i d q vals

/-- Ends every member whose streams have all finished. -/
def State.endMembers (s : State) (c j : Nat) : State :=
  match s.run c j with
  | none => s
  | some r =>
    let ready := (r.members.filter fun m => r.ended m && r.projOut m.slot &&
      !(r.d.kind == 5 && isHome (s.req c m.slot).shard &&
        ((s.step_ c m.slot).parts.at r.d.layer).any fun p => p.pos == shardPos (s.req c m.slot).shard)).map MemberRun.slot
    s.each ready fun s i =>
      match (s.step_ c i).staged.at r.d.layer with
      | some q => s.endMember c j i r.d q r
      | none => s

/-! ### Boundaries of tiles (R139 to R141, R163, R325) -/

/-- A translation fault of the sweep that holds the array is outstanding: it stays there until it is served (R140). -/
def State.arrayStuck (s : State) (c j : Nat) : Bool :=
  ((s.atu c).faults.any fun f => (f.2.map fun x => x.engine == 1 && x.job == j).getD false) ||
    (s.atu c).waiting.any fun x => x.engine == 1 && x.job == j

/-- A sweep that leaves the array has its time there counted (R173). -/
def State.clockRun (s : State) (c j : Nat) : State := s.updRun c j fun r => r.clock s.tim.now

/-- A fault sets the sweep aside with a save slot, or leaves it on the array with SAVE_EXHAUSTED where none is free (R139,
R140, R325). In a job whose TEARING is set the sweep is discarded (R328). -/
def State.sweepFault (s : State) (c : Nat) (cmd : Cmd) (x : AtuErr) (write : Bool) : State :=
  if s.jobTearing c cmd.job then (s.setRun c cmd.job none).faultHolder c 1 cmd x write false
  else if 0 < s.savesFree c 1 then ((s.clockRun c cmd.job).bump c Reg.ATN_FAULT_SUSP_CNT).faultHolder c 1 cmd x write true
  else ((s.newFault c (s.faultOf 1 cmd x write)).1).evt (atnPage c) 2

/-- Writes the held records of a sweep, oldest first, while there is room. -/
def State.flushHeld (s : State) (c j : Nat) : Nat → State
  | 0 => s
  | fuel + 1 =>
    match s.run c j with
    | none => s
    | some r =>
      match r.held with
      | [] => s
      | bs :: l =>
        if s.xrTakes c r.d.outRing j && !s.xrRoom c r.d.outRing bs.length then s
        else
          let s1 := s.updRun c j fun r => { r with held := l }
          (if s1.xrTakes c r.d.outRing j then s1.xrPut c r.d.outRing bs else s1.bump c Reg.ATN_XR_DROP_CNT).flushHeld c j fuel

/-- What follows a tile: the sweep completes, is set aside on a full OUT ring or for a pre-emption, or goes on. -/
def State.afterTile (s : State) (c : Nat) (cmd : Cmd) : State :=
  let s1 := s.settleSweep c cmd.job
  match s1.run c cmd.job with
  | none => s1
  | some r =>
    if (s1.engine c 1).holder ≠ some cmd then s1
    else if !r.held.isEmpty then
      if 0 < s1.savesFree c 1 then (s1.clockRun c cmd.job).setAside c 1 .ringWait true else s1.evt (atnPage c) 2
    else if (s1.engine c 1).preempt then ((s1.clockRun c cmd.job).bump c Reg.ATN_PREEMPT_CNT).setAside c 1 .suspended true
    else s1

/-- Members whose streams a column set carries. -/
def SweepRun.carried (r : SweepRun) (set : List TilePart) : List Nat :=
  (set.map fun t => (r.streams.getD t.ix default).slot).eraseDups

/-- A beam group is abandoned whole (R285). -/
def State.abandonGroups (s : State) (c : Nat) : State :=
  s.each (s.smp c).beams fun s g =>
    let live := s.liveOf c g
    s.when (live.any fun m => s.stepAbandoned c m.slot) fun s =>
      s.each live fun s m => s.when (!s.stepAbandoned c m.slot) fun s => s.abandon c m.slot 4

/-- A column of the array whose residue check fails in a tile: the steps that the tile carried are abandoned, and the column is
masked (R569). -/
def State.residueCheck (s : State) (c : Nat) (carried : List Nat) (bad : Option Nat) : State :=
  match bad with
  | none => s
  | some x => ((s.each carried fun s i => s.abandon c i 5).abandonGroups c).failColumn c (x % 128)

/-- The selection fault of a member that waits to be laid out (R235, R325). -/
def State.layFault (s : State) (c : Nat) (r : SweepRun) : Option AtuErr :=
  if !s.isSparse c r.d then none
  else (r.members.filter fun m => !m.laid && !m.isOver).findSome? fun m =>
    match (s.step_ c m.slot).staged.at r.d.layer with
    | some q => if q.xkv then none else s.farFault c m.slot (s.ownSpan c m.slot q).1 (s.ownSpan c m.slot q).2 r.d q
    | none => none

/-- The column set of a tile runs, where its accesses translate (R138, R325). -/
def State.setTile (s : State) (c : Nat) (cmd : Cmd) (r0 : SweepRun) (set : List TilePart) (bad : Option Nat) : State :=
  let j := cmd.job
  match (s.asOld c r0.old).setFault c r0 set with
  | some x => s.sweepFault c cmd x.1 x.2
  | none =>
    let s1 := (s.touchTile c j r0 set).meetPoison c j r0 set
    match s1.run c j with
    | none => s1
    | some r =>
      (s1.underRun c j fun s => ((s.runTile c j r set).residueCheck c (r.carried set) bad).endMembers c j).afterTile c cmd

/-- One tile of the sweep that holds the array: a column set, or a projection pass (R138, R153). `bad` is a physical column whose
residue check fails (R569). -/
def State.tile (s : State) (c : Nat) (cmd : Cmd) (bad : Option Nat) : State :=
  let j := cmd.job
  let s1 := s.underRun c j fun s => (s.flushHeld c j 4096).layAll c j
  match s1.run c j with
  | none => s1
  | some r0 =>
    let s2 := (s1.setRun c j (some { r0 with streams := r0.streams.map (s1.refresh c) })).coverStruck c j
    match s2.run c j with
    | none => s2
    | some r =>
      let set := s2.nextSet c r
      if !r.held.isEmpty then (s2.underRun c j fun s => s.endMembers c j).afterTile c cmd
      else match (s2.asOld c r.old).layFault c r, r.projDue set with
        | some e, _ => s2.sweepFault c cmd e false
        | none, some (i, out) =>
          match s2.projFault c r i out with
          | some e => s2.sweepFault c cmd e false
          | none =>
            (s2.underRun c j fun s => ((s.projTile c j r i out).residueCheck c [i] bad).endMembers c j).afterTile c cmd
        | none, none =>
          if set.isEmpty then (s2.underRun c j fun s => s.endMembers c j).afterTile c cmd else s2.setTile c cmd r set bad

/-- TILE_END (R138). -/
def execTileEnd (c : Nat) (bad : Option Nat) (s : State) : Host.Outcome State Fault Refusal :=
  .next (match (s.engine c 1).holder with
    | none => s
    | some cmd =>
      if !isSweep cmd.op then s
      else match s.run c cmd.job with
        | none => s.startSweep c cmd
        | some r =>
          if r.cmd ≠ cmd then s.startSweep c cmd
          else if s.arrayStuck c cmd.job then s else s.tile c cmd bad)

/-! ### The Noon cut-off (R160, R285, R328) -/

/-- The slots whose bin steps on the present day. -/
def State.stepping (s : State) (c : Nat) : List Nat :=
  ((s.bins c).filter fun b => b.steps s.tim.day).flatMap fun b => s.binMembers c b.id

/-- Whether a sweep of a member's schedule has not started (R160). -/
def State.unstarted (s : State) (c i : Nat) : Bool :=
  let e := s.req c i
  let r := s.step_ c i
  (s.binDescs c e.bin).any fun d => e.inLayer d.layer &&
    !(r.started && r.day == s.tim.day && r.gen == e.gen && r.swept.contains (d.layer * 8 + d.kind))

/-- Whether a page that a member is to read is being pulled, or is to be (R159, R233). -/
def State.waitsPages (s : State) (c i : Nat) (r : SweepRun) : Bool :=
  if r.members.any fun m => m.slot == i && m.laid then
    (r.streams.filter fun x => x.slot == i).any fun x =>
      !x.finished && r.d.readsPages && x.done == 0 && !(s.refresh c x).isLocal c
  else r.d.kind != 6 && !s.layerLocal c i r.d.layer

/-- Whether a home lacks a partial of another shard for a layer (R171). -/
def State.lacksPartial (s : State) (c i : Nat) (r : SweepRun) : Bool :=
  let e := s.req c i
  r.d.kind == 5 && isHome e.shard &&
    decide ((((s.step_ c i).parts.at r.d.layer).filter fun p => p.pos != shardPos e.shard).length + 1 < shardTotal e)

/-- Whether the first sweep that a member has still to start has its record, and waits for the pages of its selection (R233). -/
def State.selectionWaits (s : State) (c i : Nat) : Bool :=
  let r := s.step_ c i
  match (s.binDescs c (s.req c i).bin).find? fun d => (s.req c i).inLayer d.layer && !r.swept.contains (d.layer * 8 + d.kind) with
  | none => false
  | some d => r.started && r.day == s.tim.day && (r.staged.at d.layer).isSome && s.isSparse c d && (r.sel.at d.layer).isNone && !s.layerLocal c i d.layer

/-- What a member waits for in a running sweep, or before its next one: 1 its query record, 2 a partial, 3 a page pull; 0 nothing
(R160, R171, R174, R233). -/
def State.waitsFor (s : State) (c i : Nat) : Nat :=
  let rs := (s.atn c).runs.filterMap fun e => e.2
  match rs.find? fun r => r.members.any fun m => m.slot == i && !m.isOver with
  | none => if s.selectionWaits c i then 3 else 0
  | some r =>
    if ((s.step_ c i).staged.at r.d.layer).isNone then 1
    else if s.waitsPages c i r then 3
    else if s.lacksPartial c i r then 2
    else 0

/-- Whether a sweep holds a record of a member (R163). -/
def SweepRun.holds (r : SweepRun) (i : Nat) : Bool := r.held.any fun b => recNat b 4 2 % 4096 == i

/-- Whether a member's sweep is set aside on a fault or on a full OUT ring (R163, R328). -/
def State.sweepAside (s : State) (c i : Nat) : Bool :=
  (s.atn c).runs.any fun e => match e.2 with
    | none => false
    | some r => (r.members.any fun m => m.slot == i && (!m.isOver || r.holds i)) &&
        ((s.lane c e.1 1).any fun x => x.cmd == r.cmd && x.st != .ready && x.st != .suspended)

/-- The CAUSE with which the cut-off abandons a member: 0 for none. A sweep that has not started for want of anything else
counts as waiting for its record (DEDUCED, log entry 19). -/
def State.cutCause (s : State) (c i : Nat) : Nat :=
  let w := s.waitsFor c i
  if w ≠ 0 then w
  else if s.sweepAside c i then (if s.unstarted c i then 1 else 3)
  else if s.unstarted c i then 1 else 0

/-- Whether a member is to bring logits today: the home, in a decode step or the prompt's last chunk (R284, R285). -/
def State.needsLogits (s : State) (c i : Nat) : Bool :=
  let e := s.req c i
  isHome e.shard &&
    (!e.inPrefill || decide (e.promptLen ≤ e.curLen + 16 * ((s.binById c e.bin).map Bin.chunk).getD 0))

/-- Whether a member's LOGITS record of the day has been taken in. -/
def State.hasLogits (s : State) (c i : Nat) : Bool :=
  let st := s.smpStep c i
  st.gen == (s.req c i).gen && st.day == s.tim.day && !st.done.isEmpty

/-- The held records of abandoned members are dropped, and the sweep counts those members as abandoned (R160, R163, R173). -/
def State.dropHeld (s : State) (c j : Nat) : State :=
  match s.run c j with
  | none => s
  | some r =>
    let gone := (r.members.filter fun m => r.holds m.slot && s.stepAbandoned c m.slot).map MemberRun.slot
    (s.each gone fun s i => s.updRun c j fun r => r.mark i fun m => { m with written := false, abandoned := true }).updRun c j fun r =>
      { r with held := r.held.filter fun b => !gone.contains (recNat b 4 2 % 4096) }

/-- NOON_CUTOFF (R160) of a channel, once a day. -/
def State.noonCutoff (s : State) (c : Nat) : State :=
  if (s.atn c).cut then s
  else
    let s0 := s.updAtn c fun x => { x with cut := true }
    let s1 := s0.each (s0.stepping c) fun s i =>
      let k := s.cutCause c i
      if s.stepAbandoned c i then s
      else if k ≠ 0 then s.abandon c i k
      else s.when (s.needsLogits c i && !s.hasLogits c i) fun s => s.abandon c i 4
    let s2 := s1.abandonGroups c
    s2.each ((s2.atn c).runs.map Prod.fst) fun s j => (s.dropHeld c j).settleSweep c j

/-! ### ATN's registers (R175) -/

/-- The descriptor of the sweep on the array; that of zeros while none or a search holds it. -/
def State.arrayDesc (s : State) (c : Nat) : Desc :=
  match (s.engine c 1).holder with
  | some h => if isSweep h.op then descOf (cmdDesc h) else descOf []
  | none => descOf []

/-- ATN_STATUS (R175). A search in table-lookup mode shows BUSY and its job, and no KIND (DEDUCED, log entry 19). -/
def State.atnStatus (s : State) (c : Nat) : Word :=
  let d := s.arrayDesc c
  let run := match (s.engine c 1).holder with
    | none => 0
    | some h => fieldAt 14 1 (b2n (s.engine c 1).preempt) + 2 ^ 15 + fieldAt 16 10 h.job
  BitVec.ofNat 32 (fieldAt 0 8 d.kind + fieldAt 8 3 d.fold + fieldAt 12 2 (3 - s.savesFree c 1) + run)

/-- ATN_CUR. -/
def State.atnCur (s : State) (c : Nat) : Word :=
  BitVec.ofNat 32 (fieldAt 0 12 (s.arrayDesc c).layer + fieldAt 16 8 (s.arrayDesc c).bin)

end Sys2Proof.Machine
end

