-- ==== Sys2Proof/Machine/Records.lean ====
section
/-! DEFINITION. The records that arrive in IN rings: QUERY, PARTIAL and LOGITS (R162, R165 to R171, R284, R285). -/
namespace Sys2Proof.Machine

/-- A record's header as it lies in a ring, and the address of its first byte (R164). -/
structure XrHead where
  type : Nat
  rflags : Nat
  gen : Nat
  req : Nat
  layer : Nat
  day : Nat
  pos : Nat
  ntok : Nat
  shard : Nat
  len : Nat
  addr : Nat
  deriving DecidableEq, Repr, Inhabited

/-- The header at a state address. -/
def State.xrHeadAt (s : State) (a : Nat) : XrHead :=
  let b := s.vread a 32
  let w := fun o => recNat b o 4
  { type := nfld (w 0) 7 0, rflags := nfld (w 0) 15 8, gen := nfld (w 0) 31 16, req := nfld (w 4) 15 0,
    layer := nfld (w 4) 27 16, day := recNat b 8 8, pos := nfld (w 0x10) 19 0, ntok := nfld (w 0x14) 15 0,
    shard := nfld (w 0x14) 18 16, len := max 64 (up64 (w 0x18)), addr := a }

/-- Moves HEAD of an IN ring past a record. -/
def State.xrPop (s : State) (c r len : Nat) : State :=
  s.wr c Reg.ATN_XR_HEAD (lo32 ((s.rdN c Reg.ATN_XR_HEAD r + len) % s.xrSize c r)) r

/-- Skips PAD records at HEAD; `fuel` bounds them (R162). -/
def State.skipPads (s : State) (c r : Nat) : Nat → State
  | 0 => s
  | fuel + 1 =>
    if s.rdN c Reg.ATN_XR_HEAD r = s.rdN c Reg.ATN_XR_TAIL r then s
    else
      let h := s.xrHeadAt (s.rd64 c Reg.ATN_XR_BASE_LO r + s.rdN c Reg.ATN_XR_HEAD r)
      if h.type = 0 then (s.xrPop c r h.len).skipPads c r fuel else s

/-- The record at HEAD of an enabled IN ring, if it holds one of a type, and the state with the PAD records before it
skipped. -/
def State.xrNext (s : State) (c r type : Nat) : State × Option XrHead :=
  if !s.xrIs c r 0 then (s, none)
  else
    let s1 := s.skipPads c r 64
    if s1.rdN c Reg.ATN_XR_HEAD r = s1.rdN c Reg.ATN_XR_TAIL r then (s1, none)
    else
      let h := s1.xrHeadAt (s1.rd64 c Reg.ATN_XR_BASE_LO r + s1.rdN c Reg.ATN_XR_HEAD r)
      (s1, if h.type = type then some h else none)

/-- What an IN ring publishes from HEAD to TAIL, or to the end of the ring. -/
def State.xrPublished (s : State) (c r : Nat) : List Touch :=
  let h := s.rdN c Reg.ATN_XR_HEAD r
  let t := s.rdN c Reg.ATN_XR_TAIL r
  if s.xrIs c r 0 then [(s.rd64 c Reg.ATN_XR_BASE_LO r + h, (if h ≤ t then t else s.xrSize c r) - h, false)] else []

/-- A row that takes a record of an IN ring, once no host holds what the ring publishes (R477). -/
def State.onRing (s : State) (c r : Nat) (f : State → State) : State :=
  s.when (s.serves c) fun s => s.afterSnoops (s.xrPublished c r) f

/-- The slot that a record names. -/
def XrHead.slot (h : XrHead) : Nat := h.req % 4096

/-- Cause 1 of R167. -/
def State.staleRecord (s : State) (c r : Nat) (h : XrHead) : Bool :=
  let e := s.req c h.slot
  h.req / 4096 != c || e.st == .free || e.gen != h.gen || e.job != s.xrJob c r

/-- A record is discarded: counted, and posted once per ring and day (R167, R174). -/
def State.dropRecord (s : State) (c r cause : Nat) (h : XrHead) : State :=
  let s1 := (s.xrPop c r h.len).bump c Reg.ATN_XR_DROP_CNT
  if (s1.atn c).dropPosted.contains r then s1
  else (s1.updAtn c fun x => { x with dropPosted := x.dropPosted ++ [r] }).evtJob c .atn 1 0x21 cause h.gen h.req (s1.xrJob c r) h.day

/-- The cause for which a QUERY record is discarded; 0 for none (R167). -/
def State.queryCause (s : State) (c r : Nat) (h : XrHead) : Nat :=
  if s.staleRecord c r h then 1
  else if h.day ≠ s.tim.day then 2
  else if (s.atn c).taken.contains (h.slot, h.gen, h.layer) then 3
  else if !((s.stepping c).contains h.slot) || (s.layerDesc c h.slot h.layer).isNone || s.stepAbandoned c h.slot then 4
  else 0

/-- The payload of a record: behind its header, or where INDIRECT points; none where that is not the job's (R165, R322). -/
def State.xrPayload (s : State) (c : Nat) (h : XrHead) (job n : Nat) : Option (List Byte) :=
  if h.rflags.testBit 0 then
    let a := s.vnat (h.addr + 0x20) 8
    if (s.checkSpan c job a n false).isSome then none else some (s.vread a n)
  else some (s.vread (h.addr + 32) (min n (h.len - 32)))

/-- A record leaves its IN ring: its payload of `n` bytes has been read (R273, R480), and HEAD moves past it. -/
def State.xrTake (s : State) (c r : Nat) (h : XrHead) (job n : Nat) : State :=
  let a := if h.rflags.testBit 0 then s.vnat (h.addr + 0x20) 8 else h.addr + 32
  ((s.touch job h.addr 32).touch job a n).xrPop c r h.len

/-- BF16 elements. -/
def bf16s (bs : List Byte) : List (Option Rat) := (chunksOf 2 (bs.length / 2 + 1) bs).map fun b => bf16Val (leNat b)

/-- Where the rotary part of a query vector starts (R153, R154). -/
def Desc.queryRot (d : Desc) : Nat := if d.latMode = 0 then 0 else d.queryDim - d.ropeDims

/-- One head's query, rotated under ON_THE_FLY and encoded as L8 (R154, R166). -/
def encQuery (d : Desc) (p : Nat) (xs : List (Option Rat)) : List LBlock × Nat :=
  if d.ropeMode = 1 then
    let f := finiteOf xs
    let r := encWide ((rotateVec d p d.queryRot f.1).map some)
    (r.1, r.2 ||| f.2)
  else encWide xs

/-- New keys and values in L4, each block without regard to a list area (R166). -/
def encKv (thresh : Nat) (xs : List (Option Rat)) : List LBlock × Nat :=
  let r := (chunksOf 16 (xs.length / 16 + 1) xs).map (encL4 thresh 2 1)
  (r.map Prod.fst, orFlags (r.map Prod.snd))

/-- Bytes of a token in a QUERY payload: its query, and its keys and values (R166). -/
def queryBytes (d : Desc) (h : XrHead) : Nat := if h.rflags.testBit 3 then 0 else 2 * d.qHeads * d.queryDim
def kvBytes (d : Desc) (h : XrHead) : Nat := if h.rflags.testBit 1 || h.rflags.testBit 3 then 2 * d.kvVals else 0

/-- A QUERY record as step staging holds it (R166). `p` is the position of its first query token. -/
def stageOf (d : Desc) (thresh p : Nat) (h : XrHead) (pay : List Byte) : StagedRec :=
  let qn := queryBytes d h
  let kn := kvBytes d h
  let toks := (List.range h.ntok).map fun t => pay.drop (t * (qn + kn))
  let qs := toks.zipIdx.flatMap fun t =>
    if qn = 0 then [] else (List.range d.qHeads).map fun k =>
      encQuery d (p + t.2) (bf16s ((t.1.drop (2 * k * d.queryDim)).take (2 * d.queryDim)))
  let ks := toks.map fun t => if kn = 0 then ([], 0) else encKv thresh (bf16s ((t.drop qn).take kn))
  let q := qs.flatMap Prod.fst
  let kv := ks.flatMap Prod.fst
  { pos := h.pos, ntok := h.ntok, kv := h.rflags.testBit 1, xkv := h.rflags.testBit 3, bytes := 18 * (q.length + kv.length),
    q := q, kvb := kv, flags := orFlags (qs.map Prod.snd) ||| orFlags (ks.map Prod.snd) }

/-- Bytes of step staging in use (R162). -/
def State.stagedBytes (s : State) (c : Nat) : Nat :=
  ((s.atn c).steps.map fun e => (e.2.staged.map fun x => (x.2.map StagedRec.bytes).getD 0).sum).sum

/-- The home of a sharded request sends the query on to its other shards, without its keys and values, into the ring of the number
in which it came (R169, R422; DESIGN CHOICE, log entry 58). -/
def State.forwardQuery (s : State) (c r : Nat) (d : Desc) (h : XrHead) (pay : List Byte) : State :=
  let e := s.req c h.slot
  if shardCountM1 e.shard = 0 ∨ isHome e.shard = false ∨ h.rflags.testBit 3 then s
  else
    let qn := queryBytes d h
    let qs := (List.range h.ntok).flatMap fun t => (pay.drop (t * (qn + kvBytes d h))).take qn
    s.each (List.range (shardCountM1 e.shard)) fun s k =>
      s.devSend c (s.memberSlot c (e.shardMember k)) c r (xrRec 1 0 e.gen h.req h.layer h.day h.pos h.ntok 0 qs)

/-- ATN takes a QUERY record into staging (R166, R230). -/
def State.takeQuery (s : State) (c r : Nat) (h : XrHead) (d : Desc) : State :=
  let i := h.slot
  let job := s.xrJob c r
  match s.xrPayload c h job (h.ntok * (queryBytes d h + kvBytes d h)) with
  | none => (s.xrPop c r h.len).bump c Reg.ATN_XR_DROP_CNT
  | some pay =>
    let e := s.req c i
    let p := if e.inPrefill || !isHome e.shard then h.pos else e.curLen - 1
    let q := stageOf d (fld (s.jobWord c job 0x08) 31 16) p h pay
    if 4194304 < s.stagedBytes c + q.bytes then s
    else
      let s1 := (((s.xrTake c r h job pay.length).beginStep c i).updStep c i fun x => { x with staged := x.staged.set h.layer (some q) }).updAtn c
        fun x => { x with taken := x.taken ++ [(i, h.gen, h.layer)] }
      let s2 := s1.forwardQuery c r d h pay
      if s2.isSparse c d && !q.xkv && !e.inPrefill then
        let own := s2.ownSpan c i q
        (s2.sparseSelect c i own.1 own.2 d q).when (!s2.layerLocal c i d.layer) fun s => s.bump c Reg.SKT_WAIT_CNT
      else s2

/-- QUERY_RECORD (R166, R167): the record at HEAD of IN ring `r`. -/
def execQueryRecord (c r : Nat) (s : State) : Host.Outcome State Fault Refusal :=
  .next (s.onRing c r fun s =>
    match s.xrNext c r 1 with
    | (s1, none) => s1
    | (s1, some h) =>
      match s1.queryCause c r h, s1.layerDesc c h.slot h.layer with
      | 0, some d => s1.takeQuery c r h d
      | k, _ => s1.dropRecord c r k h)

/-- The cause for which a PARTIAL record is discarded, as R167 gives for queries (DEDUCED, log entry 19). -/
def State.partialCause (s : State) (c r : Nat) (h : XrHead) : Nat :=
  if s.staleRecord c r h then 1
  else if h.day ≠ s.tim.day then 2
  else if ((s.step_ c h.slot).parts.at h.layer).any fun p => p.pos == h.shard then 3
  else if s.stepAbandoned c h.slot || (s.layerDesc c h.slot h.layer).isNone then 4
  else 0

/-- PARTIAL_RECORD (R169 to R171): a shard's partial arrives at the home, which merges once all are there. -/
def execPartialRecord (c r : Nat) (s : State) : Host.Outcome State Fault Refusal :=
  .next (s.onRing c r fun s =>
    match s.xrNext c r 3 with
    | (s1, none) => s1
    | (s1, some h) =>
      match s1.partialCause c r h, s1.layerDesc c h.slot h.layer with
      | 0, some d =>
        let job := s1.xrJob c r
        match s1.xrPayload c h job (h.ntok * d.qHeads * (4 * d.outDim + 8)) with
        | none => (s1.xrPop c r h.len).bump c Reg.ATN_XR_DROP_CNT
        | some pay =>
          let s2 := ((s1.xrTake c r h job pay.length).beginStep c h.slot).updStep c h.slot fun x =>
            { x with parts := x.parts.upd h.layer fun l => l ++ [⟨h.shard, pay⟩] }
          (s2.mergeMember c job h.slot d).settleSweep c job
      | k, _ => s1.dropRecord c r k h)

/-- The cause for which a LOGITS record is discarded (R167, R285). -/
def State.logitsCause (s : State) (c r : Nat) (h : XrHead) : Nat :=
  if s.staleRecord c r h then 1
  else if h.day ≠ s.tim.day then 2
  else if s.hasLogits c h.slot then 3
  else if h.layer ≠ 0xFFF || !((s.stepping c).contains h.slot) || s.stepAbandoned c h.slot || !s.needsLogits c h.slot then 4
  else 0

/-- SMP takes a LOGITS record: its drafts and rows, and its rows wait for the sampler (R284, R290, R295). -/
def State.takeLogits (s : State) (c r : Nat) (h : XrHead) : State :=
  let i := h.slot
  let job := s.xrJob c r
  let e := s.req c i
  let beam := (s.beamOf c i).isSome
  let n := if beam then 1 else max 1 (min 9 h.ntok)
  let f := effOf ((s.smp c).cfgs.at e.smpCfg) e.bulk
  let far := h.rflags.testBit 0
  match s.xrPayload c h job (if far then 64 + n * rowBytes f else h.len - 32) with
  | none => (s.xrPop c r h.len).bump c Reg.ATN_XR_DROP_CNT
  | some pay =>
    let drafts := (List.range (n - 1)).map fun k => (recNat pay (8 * k) 4 % 2 ^ 18, recNat pay (8 * k + 4) 4)
    let st : SmpStep :=
    { gen := e.gen, day := s.tim.day, pos := h.pos, prefill := e.inPrefill, ntok := n, drafts := drafts,
      rows := if far then [] else pay.drop 64, src := if far then some (s.vnat (h.addr + 0x20) 8 + 64) else none, rowB := [],
      done := List.replicate n none, counts := none, parts := [], derived := false, tokens := [], logps := [],
      accepted := 0, endCode := 0, score := 0, parent := none }
    ((((s.xrTake c r h job (if far then 64 else pay.length)).beginStep c i).updSmp c fun x => { x with steps := x.steps.set i st }).accrue c).queueRows c i |>.settle c

/-- LOGITS_RECORD (R284, R285): the record at HEAD of IN ring `r`. -/
def execLogitsRecord (c r : Nat) (s : State) : Host.Outcome State Fault Refusal :=
  .next (s.onRing c r fun s =>
    match s.xrNext c r 5 with
    | (s1, none) => s1
    | (s1, some h) =>
      match s1.logitsCause c r h with
      | 0 => s1.takeLogits c r h
      | k => s1.dropRecord c r k h)

end Sys2Proof.Machine
end

