-- ==== Sys2Proof/Machine/Commit.lean ====
section
/-! DEFINITION. The Dusk commit of a step: keys and values, sketches and scores, copies on write, counts, beam re-parenting,
the entry and its completion record (R59, R60, R63, R76, R80, R82, R83, R168, R178, R179, R195, R197, R205, R212, R214, R226,
R236, R294, R297 to R300). -/
namespace Sys2Proof.Machine

/-! ### Writing tokens into a page image (R178, R179, R226) -/

/-- What a page image holds while tokens are added: its bytes, the parts written so far, the entries of its lists in use, flags,
and blocks encoded again for want of list room. -/
structure PageEdit where
  img : List Byte
  ws : List (Nat × List Byte)
  outs : Nat
  exts : Nat
  flags : Nat
  again : Nat
  deriving DecidableEq, Repr, Inhabited

/-- Replaces bytes of an image. -/
def patch (img : List Byte) (off : Nat) (bs : List Byte) : List Byte := img.take off ++ bs ++ img.drop (off + bs.length)

/-- A page image with the entries that its held positions take (R106, R179). -/
def pageEdit (d : Desc) (img : List Byte) (held : Nat) : PageEdit :=
  let bs := pageBlocks d img held
  { img := img, ws := [], outs := (bs.map fun b => takesOut b.side).sum, exts := (bs.map fun b => takesExt b.side).sum, flags := 0,
    again := 0 }

/-- Writes bytes into the image. -/
def PageEdit.put (x : PageEdit) (off : Nat) (bs : List Byte) : PageEdit :=
  if bs.isEmpty then x else { x with img := patch x.img off bs, ws := x.ws ++ [(off, bs)] }

/-- Whether a block's entries fit the list area (R179). -/
def PageEdit.fits (x : PageEdit) (d : Desc) (b : LBlock) : Bool :=
  decide (d.listAt + 2 * (x.outs + takesOut b.side) ≤ 20480 - 8 * (x.exts + takesExt b.side))

/-- The form in which a staged block is written: as staged, or encoded again from its linear decode (R179). -/
def PageEdit.form (x : PageEdit) (d : Desc) (thresh : Nat) (b : LBlock) : LBlock × Nat × Nat :=
  if x.fits d b then (b, 0, 0)
  else
    let room := 20480 - 8 * x.exts - (d.listAt + 2 * x.outs)
    let r := encL4 thresh (room / 2) (room / 8) (b.linear.map some)
    (r.1, r.2, 1)

/-- Writes block number `n` of a page, and gives the block in the form in which it is written. -/
def PageEdit.putBlock (x : PageEdit) (d : Desc) (thresh n : Nat) (b : LBlock) : PageEdit × LBlock :=
  let (b, f, k) := x.form d thresh b
  let x1 := (x.put (8 * n) (padTo 8 b.code)).put (8 * 16 * d.tokBlocks + 2 * n) (leBytes 2 b.side)
  let x2 := if takesExt b.side = 1 then x1.put (20480 - 8 * (x.exts + 1)) (padTo 8 b.ext) else x1
  let x3 := x2.put (d.listAt + 2 * x.outs) ((b.outl.take (takesOut b.side)).flatMap (leBytes 2))
  ({ x3 with
    outs := x.outs + takesOut b.side, exts := x.exts + takesExt b.side, flags := x.flags ||| f, again := x.again + k }, b)

/-- Writes blocks from number `n` of a page on, and gives them as written. -/
def PageEdit.putBlocks (x : PageEdit) (d : Desc) (thresh n : Nat) (bs : List LBlock) : PageEdit × List LBlock :=
  bs.zipIdx.foldl (fun y b =>
    let r := y.1.putBlock d thresh (n + b.2) b.1
    (r.1, y.2 ++ [r.2])) (x, [])

/-- Writes the blocks of token `t` of a page in block order, and the sketches of its keys as stored (R225, R226). -/
def PageEdit.putToken (x : PageEdit) (d : Desc) (thresh t : Nat) (bs : List LBlock) (sk : List LBlock → List Nat) : PageEdit :=
  let y := x.putBlocks d thresh (t * d.tokBlocks) bs
  y.1.put (10 * 16 * d.tokBlocks + 8 * t * d.heads) ((sk y.2).flatMap (leBytes 8))

/-! ### Private pages (R195, R212, R214) -/

/-- What a commit meets at an entry that it writes. -/
inductive PageWrite where
  /-- POISONED or EVICTED: the keys and values are discarded (R212). -/
  | discard
  /-- MOVING: the write stalls (R205). -/
  | stall
  /-- A private home, written in place. -/
  | direct
  /-- A link or a shared home: copied first (R195). -/
  | copy
  /-- No entry: a new page. -/
  | fresh
  deriving DecidableEq, Repr

/-- How a commit writes an entry. -/
def State.pageWrite (s : State) (c k : Nat) : PageWrite :=
  let p := s.pte c k
  if !p.there then .fresh
  else if p.st == .evicted || s.resolved c k == .poisoned then .discard
  else if p.link || decide (1 < p.ref) then .copy
  else if p.st == .moving then .stall
  else .direct

/-- The image bytes of the positions that a writer holds; nothing else of the copy is defined (R195). -/
def heldImage (d : Desc) (img : List Byte) (held : Nat) : List Byte :=
  let bs := pageBlocks d img held
  let x : PageEdit := { img := List.replicate 20480 0, ws := [], outs := 0, exts := 0, flags := 0, again := 0 }
  let y := (x.putBlocks d 0xFFFF 0 bs).1
  patch y.img (10 * 16 * d.tokBlocks) ((img.drop (10 * 16 * d.tokBlocks)).take (8 * held * d.heads))

/-- The copy of R195: a private home in place of the writer's entry; `none` where no slot can be had. A source that returns poison
is POISONED, and so is the copy (R211). -/
def State.copyPage (s : State) (c i k : Nat) (d : Desc) : Option State :=
  let p := s.pte c k
  let src := s.placeOf c k
  match s.allocPage c i true with
  | (_, none) => none
  | (s1, some pl) =>
    let job := (s.req c i).job
    let img := heldImage d (s1.imgRead src 0 20480) p.held
    let bad := s1.imgPoison src 0 20480
    let s2 := ((s1.touchImage job src).when bad fun s => s.poisonPage c (s.homeKey c k)).imgWrite pl 0 img job
    let s3 := if p.link then s2 else s2.passHome c k
    let s4 := s3.setPte c k { (default : Pte) with
      there := true, tier := pl.tier, held := p.held, addr := pl.addr, ref := 1, score := p.score }
    let s5 := if p.link then s4.decRef c p.home else s4
    let s6 := s5.bump c Reg.PGM_COW_CNT
    some (if bad then s6.poisonPage c k else s6)

/-- A new page at an entry; `none` where no slot or no table unit can be had. -/
def State.freshPage (s : State) (c i k : Nat) : Option State :=
  match s.allocPage c i false with
  | (_, none) => none
  | (s1, some pl) =>
    match s1.ensureL2 c k with
    | (_, false) => none
    | (s2, true) =>
      some (s2.setPte c k { (default : Pte) with there := true, tier := pl.tier, addr := pl.addr, ref := 1 })

/-- Writes the parts of an edited image, each as a write of its own (R270). -/
def State.editWrite (s : State) (job : Nat) (pl : Place) (x : PageEdit) : State :=
  s.each x.ws fun s w => s.imgWrite pl w.1 w.2 job

/-- Writes the tokens of one page: `toks` gives each token's place, its position and its blocks. A page whose held part returns
poison becomes POISONED, and the tokens are discarded (R211, R212, R273). -/
def State.fillPage (s : State) (c i k : Nat) (d : Desc) (toks : List (Nat × Nat × List LBlock)) : State :=
  let job := (s.req c i).job
  let p := s.pte c k
  let pl := s.placeOf c k
  if p.held ≠ 0 ∧ s.imgPoison pl 0 20480 = true then (s.touchImage job pl).poisonPage c k
  else
    let thresh := fld (s.jobWord c job 0x08) 31 16
    let x0 := pageEdit d (s.imgRead pl 0 20480) p.held
    let x := toks.foldl (fun x t => x.putToken d thresh t.1 t.2.2 (s.tokSketches c job d t.2.1)) x0
    let held := toks.foldl (fun m t => max m (t.1 + 1)) p.held
    let s1 := (((s.editWrite job pl x).setPte c k { p with held := held }).bump c Reg.PGM_LIST_FULL_CNT x.again).updStep c i
      fun y => { y with flags := y.flags ||| x.flags }
    if p.held < 16 ∧ held = 16 then
      s1.buildFar c i d (keyPage k) (shardStart (s.req c i).shard + 16 * keyPage k) (pageBlocks d x.img 16)
    else s1

/-- Writes the tokens of one page of a layer; `none` drops the step (R214). -/
def State.commitPage (s : State) (c i k : Nat) (d : Desc) (toks : List (Nat × Nat × List LBlock)) : Option State :=
  match s.pageWrite c k with
  | .discard => some s
  | .stall => some s
  | .direct => some (s.fillPage c i k d toks)
  | .copy => (s.copyPage c i k d).map fun s => if s.resolved c k = .poisoned then s else s.fillPage c i k d toks
  | .fresh => (s.freshPage c i k).map fun s => s.fillPage c i k d toks

/-- The tokens of a layer that a commit writes, by the entry that takes each: `n` tokens from position `p` on. -/
def commitToks (d : Desc) (e : ReqEntry) (p n : Nat) (q : StagedRec) : List (Nat × List (Nat × Nat × List LBlock)) :=
  let toks := (List.range (min n q.ntok)).map fun t =>
    (pteKey e.table d.layer (pageIx e (p + t)), ((p + t) % 16, p + t, (q.kvb.drop (t * d.tokBlocks)).take d.tokBlocks))
  let keys := (toks.map Prod.fst).foldl (fun l k => insNat k l) []
  keys.map fun k => (k, (toks.filter fun t => t.1 == k).map Prod.snd)

/-- Applies a list of changes of which each can fail. -/
def State.tryEach {α : Type} (s : State) : List α → (State → α → Option State) → Option State
  | [], _ => some s
  | x :: l, f => (f s x).bind fun s1 => s1.tryEach l f

/-! ### What a step writes (R168) -/

/-- The staged layers of a step that carry keys and values, with their descriptors. -/
def State.stagedLayers (s : State) (c i src : Nat) : List (Desc × StagedRec) :=
  (s.step_ c src).staged.filterMap fun x => match x.2, s.layerDesc c i x.1 with
    | some q, some d => if q.kv || q.xkv then some (d, q) else none
    | _, _ => none

/-- First position and number of the positions that a commit writes for a layer: the chunk in a prefill step; the own token
and accepted drafts, as far as the appended tokens reach, in a decode step; encoder positions as the record gives them
(R168; DEDUCED, log entry 20). -/
def State.writeSpanOf (s : State) (c i : Nat) (q : StagedRec) : Nat × Nat :=
  let e := s.req c i
  let st := s.smpStep c i
  if q.xkv || e.inPrefill then (q.pos, q.ntok)
  else (e.curLen - 1, if st.tokens.isEmpty then 0 else min (1 + st.accepted) st.tokens.length)

/-- Every entry that the commit writes, with its tokens. `src` is the slot whose staged keys and values are written (R297). -/
def State.commitWrites (s : State) (c i src : Nat) : List (Desc × Nat × List (Nat × Nat × List LBlock)) :=
  (s.stagedLayers c i src).flatMap fun x =>
    let w := s.writeSpanOf c i x.2
    (commitToks x.1 (s.req c i) w.1 w.2 x.2).map fun y => (x.1, y.1, y.2)

/-- Whether some entry that the commit writes is MOVING (R205). -/
def State.commitStalls (s : State) (c i src : Nat) : Bool :=
  (s.commitWrites c i src).any fun w => s.pageWrite c w.2.1 == .stall

/-- The recurrent states of a completed step are written, where the job may write them (R150, R322). -/
def State.writeStates (s : State) (c i src : Nat) : State :=
  let job := (s.req c i).job
  s.each (s.step_ c src).newState fun s x =>
    match (s.binDescs c (s.req c i).bin).find? fun d => d.layer == x.1 / 256 && d.kind == 6 with
    | none => s
    | some d =>
      let a := stateAt d i (x.1 % 256)
      if (s.checkSpan c job a x.2.length true).isSome then s else s.vwrite a x.2 job

/-- Builds the far records of full pages that selection met today without one (R236). -/
def State.buildMet (s : State) (c i : Nat) : State :=
  (s.each (s.step_ c i).farWant fun s k =>
    match s.layerDesc c i (keyLayer k) with
    | none => s
    | some d =>
      let pl := s.placeOf c k
      if s.listed c k && s.resolved c k != .poisoned && (s.pte c k).held == 16 && s.pageLocal c k then
        let s1 := s.touchImage (s.req c i).job pl
        if s.imgPoison pl 0 20480 then s1.poisonPage c (s.homeKey c k)
        else s1.buildFar c i d (keyPage k) (shardStart (s.req c i).shard + 16 * keyPage k) (pageBlocks d (s.imgRead pl 0 20480) 16)
      else s).updStep c i fun x => { x with farWant := [] }

/-- Builds, as Dusk begins, the far records that selection met today for steps that were abandoned and so commit nothing (R160,
R236). -/
def State.buildLeft (s : State) (c : Nat) : State :=
  s.each (((s.atn c).steps.map Prod.fst).filter fun i => s.stepAbandoned c i) fun s i => s.buildMet c i

/-- EVICT_DECAY. -/
def State.evictDecay (s : State) (c : Nat) : Nat := s.rdF c Reg.PGM_CFG 6 0

/-- 2^(−n/16), to 2^-30 and rounded to FP32 (R197). -/
def decayOf (n : Nat) : Rat := rne32 ((pow256 (30 * 256 - (16 * n : Nat) : Int) : Rat) * (2 : Rat) ^ (-30 : Int))

/-- SCORE_UPDATE (R197): every listed entry decays and gains the step's mass. -/
def State.updateScores (s : State) (c i : Nat) : State :=
  let e := s.req c i
  let mass := (s.step_ c i).mass
  if e.evictBudget = 0 then s
  else s.each ((s.tableKeys c e.table).filter (s.listed c)) fun s k =>
    let p := s.pte c k
    let m := sum32 ((mass.at (keyLayer k * 65536 + keyPage k)).map fun w => (fp32Val w.toNat).getD 0)
    let x := rne32 (rne32 (scoreVal p.score * decayOf (s.evictDecay c)) + m)
    (s.setPte c k { p with score := logpBits x }).stepFlags c i (logpFlags x)

/-! ### Whether a step can commit (R59, R160) -/

/-- Whether every sweep of a member's schedule has run for it. -/
def State.sweepsDone (s : State) (c i : Nat) : Bool :=
  !s.unstarted c i && !((s.atn c).runs.any fun e => match e.2 with
    | none => false
    | some r => r.members.any fun m => m.slot == i && !m.isOver)

/-- Whether the step of a slot is complete: its sweeps have run, and its tokens are derived where it brings any. -/
def State.stepComplete (s : State) (c i : Nat) : Bool :=
  let st := s.smpStep c i
  s.stepRuns c i && s.sweepsDone c i &&
    (!s.needsLogits c i || (st.derived && st.gen == (s.req c i).gen && st.day == (s.step_ c i).day))

/-- Whether a commit of a slot has begun and stands stalled. -/
def State.commitBegun (s : State) (c i : Nat) : Bool := (s.smp c).begun.any fun b => b.slot == i

/-! ### The entry and the record (R60, R76, R80, R299, R300) -/

/-- The chunk of a prefill step: the tokens of its records (R166). -/
def State.chunkTokens (s : State) (c i : Nat) : Nat :=
  let e := s.req c i
  match (s.step_ c i).staged.findSome? fun x => x.2.bind fun q => if q.xkv then none else some q.ntok with
  | some n => min n (e.promptLen - e.curLen)
  | none => min (16 * ((s.binById c e.bin).map Bin.chunk).getD 0) (e.promptLen - e.curLen)

/-- CUR_LEN and the state after a commit that does not end the request (R60, R90). After the last chunk a request on a channel whose role
is now CACHE goes RESIDENT, as on a GENERATE one (DESIGN CHOICE, log entry 63). -/
def State.advanceEntry (s : State) (c i : Nat) : State :=
  let e := s.req c i
  let t := (s.smpStep c i).tokens.length
  if e.inPrefill then
    let n := e.curLen + s.chunkTokens c i
    if e.promptLen ≤ n then
      s.updReq c i fun e =>
        { e with curLen := n + (if isHome e.shard then t else 0), bin := 0xFF,
                 st := if isHome e.shard && s.rdF c Reg.RQT_ROLE 1 0 == 0 then .sealed else .resident }
    else s.updReq c i fun e => { e with curLen := n }
  else if isHome e.shard then s.updReq c i fun e => { e with curLen := e.curLen + t }
  else s

/-- Whether a ring takes fewer than `n` records now, so that a commit which writes them there stalls (R298). -/
def State.crStalls (s : State) (c i n : Nat) : Bool :=
  let e := s.req c i
  !s.crDenied c e.cring e.job && (decide (s.crRoom c e.cring < n) || (s.smp c).waitCr.any fun w => w.ring == e.cring)

/-- Whether a commit writes a completion record: it appends tokens or ends the request (R300). -/
def State.writesRecord (s : State) (c i : Nat) : Bool :=
  let st := s.smpStep c i
  s.needsLogits c i && (!st.tokens.isEmpty || st.endCode != 0)

/-- A commit stalls on its full ring, counted once (R298). -/
def State.stallCommit (s : State) (c i : Nat) : State :=
  let s1 := s.postCrFull c (s.req c i).cring i
  if (s1.smp c).stalled.contains i then s1
  else (s1.bump c Reg.SMP_CR_STALL_CNT).updSmp c fun x => { x with stalled := x.stalled ++ [i] }

/-- Writes the commit's record, or posts CRING_DENIED. -/
def State.commitRecord (s : State) (c i : Nat) (flags : Nat) : State :=
  let e := s.req c i
  let st := s.smpStep c i
  let kind := if st.endCode = 0 then 1 else 2
  if s.crDenied c e.cring e.job then s.smpEvt c 1 0x59 i
  else s.putCr c e.cring (crRec kind st.endCode (reqIndex c i) e st.tokens st.logps st.accepted flags s.tim.day s.stamp st.score)

/-- The last effects of a commit: the entry, the record, the deadlines, and the end of the step. -/
def State.finishCommit (s : State) (c i : Nat) : State :=
  let st := s.smpStep c i
  let toks := if s.needsLogits c i then st.tokens.length else 0
  let ends := s.needsLogits c i && st.endCode != 0
  let rec_ := s.writesRecord c i
  let flags := (s.step_ c i).flags
  let s1 := (s.when (decide (0 < toks)) fun s => (s.onCommit c i toks).updCounts c i st.tokens).advanceEntry c i
  let s2 := s1.when ends fun s => (s.setEnd c i .done st.endCode).when (st.endCode == 4) fun s => s.bump c Reg.SMP_INVALID_CNT
  let s3 := s2.when rec_ fun s => s.commitRecord c i flags
  let e := s3.req c i
  let s4 := s3.when (ends && e.ctDeadline != 0 && decide (e.ctDeadline < s3.stamp)) fun s => s.bump c Reg.ADM_MISSED_CNT
  let s5 := s4.when ends fun s => s.shardEnd c i false st.endCode
  let s6 := s5.when (!ends && decide (0 < toks)) fun s => s.monitorOnce c i s.stamp
  (s6.updStep c i fun x => { (default : StepRun) with
    day := x.day, gen := x.gen, started := true, committed := true, lastRing := x.lastRing, lastLayer := x.lastLayer }).updSmp c
      fun x => { x with stalled := x.stalled.filter (fun k => k != i), begun := x.begun.filter fun b => b.slot != i }

/-- POOL_EXHAUSTED: the output is dropped (R214, R219). -/
def State.poolDrop (s : State) (c i : Nat) : State :=
  let e := s.req c i
  (((s.buildMet c i).dropStep c i).evtJob c .pgm 4 0x32 0 e.gen (reqIndex c i) e.job e.userTag).monitorLate c i

/-- The writes of a commit: pages, states, far records and scores; `none` where a slot is wanting. -/
def State.commitState (s : State) (c i src : Nat) : Option State :=
  (s.tryEach (s.commitWrites c i src) fun s w => s.commitPage c i w.2.1 w.1 w.2.2).map fun s1 =>
    let s2 := (s1.writeStates c i src).buildMet c i
    s2.when (!(s2.smpStep c i).tokens.isEmpty) fun s => s.updateScores c i

/-- Whether a pending cancel drops the output: it does unless the step ends the request (R82). -/
def State.cancelDrops (s : State) (c i : Nat) : Bool :=
  (s.req c i).flags.cancelPending && !(s.needsLogits c i && (s.smpStep c i).endCode != 0)

/-- Commits one complete step. -/
def State.commitOne (s : State) (c i src : Nat) : State :=
  if s.cancelDrops c i then ((s.buildMet c i).dropStep c i).monitorLate c i
  else match s.commitState c i src with
    | none => s.poolDrop c i
    | some s1 => s1.finishCommit c i

/-! ### Beam groups (R297) -/

/-- A member takes links to its parent's listed pages, in a table of its own, as `s0` holds them; `none` where no root or
unit can be had. -/
def State.adoptPages (s s0 : State) (c i p : Nat) : Option State :=
  let e := s.req c i
  let t0 := s0.table c (s0.req c p).table
  match s.newTable c (.req i) e.job t0.layers t0.stride e.userTag with
  | (_, none) => none
  | (s1, some t) =>
    let keys := (s0.tableKeys c (s0.req c p).table).filter (s0.listed c)
    (s1.tryEach keys fun s k =>
      let n := pteKey t (keyLayer k) (keyPage k)
      match s.ensureL2 c n with
      | (_, false) => none
      | (s2, true) =>
        let home := s0.homeKey c k
        some ((s2.setPte c n { (default : Pte) with
          there := true, link := true, held := (s0.pte c k).held, home := home, score := (s0.pte c k).score }).incRef c home)).map
      fun s2 => s2.updReq c i fun e => { e with table := t, pageRoot := (s2.table c t).root }

/-- A re-parented member's old pages: those it alone held are freed, and its charge falls by them (R194, R199). -/
def State.dropOldTable (s s0 : State) (c i : Nat) : State :=
  let e := s0.req c i
  let own := ((s.tableKeys c e.table).filter fun k => !(s.pte c k).link && (s.pte c k).ref == 1 && (s.pte c k).st != .evicted).length
  ((s.releaseTable c e.table).updReq c i fun e => { e with pagesHeld := e.pagesHeld - own }).uncharge c (s.tenant c e.job) own

/-- The members of a group that took another member's child, with the parent. -/
def State.reparents (s : State) (c : Nat) (live : List BeamMember) : List (Nat × Nat) :=
  live.filterMap fun m => (s.smpStep c m.slot).parent.map fun p => (m.slot, p)

/-- BEAM_REPARENT (R297): all members of a group, from the tables as they stood before. -/
def State.reparent (s : State) (c : Nat) (ms : List (Nat × Nat)) : Option State :=
  (s.tryEach ms fun t m => t.adoptPages s c m.1 m.2).map fun s1 =>
    let s2 := s1.each ms fun t m => t.dropOldTable s c m.1
    s2.each ms fun t m =>
      let from_ := s.smpStep c m.2
      let to_ := s.smpStep c m.1
      t.when (!from_.parts.isEmpty && !to_.parts.isEmpty) fun t => t.writeParts to_.parts (padTo 8192 (s.readParts from_.parts)) (s.req c m.1).job

/-- The scores that members of a group carry on. -/
def State.carryScores (s : State) (c : Nat) (live : List BeamMember) : State :=
  let put := fun (m : BeamMember) =>
    if live.contains m then { m with score := (s.smpStep c m.slot).score } else m
  let one := fun (g : BeamGroup) => if g.members.any fun m => live.contains m then { members := g.members.map put, begun := true } else g
  s.updSmp c fun x => { x with beams := x.beams.map one }

/-- Commits the live members of a beam group together (R297). -/
def State.commitGroup (s : State) (c : Nat) (live : List BeamMember) : State :=
  let slots := live.map BeamMember.slot
  let ms := (s.reparents c live).filter fun m => !s.cancelDrops c m.1
  match s.reparent c ms with
  | none => s.each slots fun s i => s.poolDrop c i
  | some s1 =>
    let src := fun i => ((ms.find? fun m => m.1 == i).map Prod.snd).getD i
    let staged := s1.atn c
    let s2 := s1.carryScores c live
    s2.each slots fun t i =>
      let t1 := t.updStep c (src i) fun x => { x with
        staged := (staged.steps.at (src i)).staged, newState := (staged.steps.at (src i)).newState }
      let t2 := t1.commitOne c i (src i)
      t2.when (src i != i && (t2.step_ c (src i)).committed) fun t =>
        t.updStep c (src i) fun x => { x with staged := [], newState := [] }

/-! ### STEP_COMMIT -/

/-- The slots that commit with a slot: its beam group's live members, in member order, or itself. -/
def State.commitSet (s : State) (c i : Nat) : List BeamMember :=
  match s.beamOf c i with
  | some g => if (s.req c i).inPrefill && !s.needsLogits c i then [] else s.liveOf c g
  | none => []

/-- A commit has begun and stalls: it keeps the plan epoch and the configuration it started under (R37, R39). -/
def State.beginCommit (s : State) (c : Nat) (slots : List Nat) : State :=
  if slots.any (s.commitBegun c) then s
  else s.updSmp c fun x => { x with
    begun := x.begun ++ slots.zipIdx.map fun k => ⟨k.1, k.2 == 0, s.bankNow c⟩ }

/-- Goes on with a commit under the configuration that it began with (R39). -/
def State.underBegun (s : State) (c i : Nat) (f : State → State) : State :=
  s.under c (((s.smp c).begun.find? fun b => b.slot == i).map BegunCommit.old) f

/-- Commits the complete steps of some slots, or stalls them: on a MOVING page, or on a full completion ring (R205, R298). -/
def State.tryCommit (s : State) (c i : Nat) (live : List BeamMember) (slots : List Nat) : State :=
  if slots.any fun k => s.commitStalls c k k then s.beginCommit c slots
  else
    let writers := slots.filter fun k => s.writesRecord c k && !s.cancelDrops c k
    match writers.find? fun k => s.crStalls c k (writers.filter fun j => (s.req c j).cring == (s.req c k).cring).length with
    | some k => (s.beginCommit c slots).stallCommit c k
    | none => if live.isEmpty then s.commitOne c i i else s.commitGroup c live

/-- The commit of a slot, with the members of its group: it begins in Dusk before the guard (R33, R34), and one that stalled goes on
at any time. -/
def State.stepCommit (s : State) (c i : Nat) : State :=
  let live := s.commitSet c i
  let slots := if live.isEmpty then [i] else live.map BeamMember.slot
  if !(s.inWindow .dusk || slots.any (s.commitBegun c)) || !(slots.all (s.stepComplete c)) then s
  else s.underBegun c i fun s => s.tryCommit c i live slots

/-- STEP_COMMIT (R168). -/
def execStepCommit (c slot : Nat) (s : State) : Host.Outcome State Fault Refusal :=
  .next (s.when (s.serves c) fun s => s.stepCommit c (slot % 4096))

end Sys2Proof.Machine
end

