-- ==== Sys2Proof/Machine/Vse.lean ====
section
/-! DEFINITION. VSE: knowledge stores, their groups, inserts, deletes, searches and graph repair (R238 to R252, R255, R256,
R310, R325). -/
namespace Sys2Proof.Machine

/-- VSE's page of a channel. -/
def vsePage (c : Nat) : Page := ⟨.vse, c⟩

/-- VSE's state of a channel. -/
def State.vse (s : State) (c : Nat) : VseCh := (s.ch c).vse

/-- Changes VSE's state of a channel. -/
def State.updVse (s : State) (c : Nat) (f : VseCh → VseCh) : State := s.updCh c fun x => { x with vse := f x.vse }

/-! ### Reads of a job's space -/

/-- A computation that reads and can meet a translation fault. -/
abbrev Rd (α : Type) := ExceptT AtuErr (StateM State) α

/-- Runs a computation of reads. -/
def State.rdRun {α : Type} (s : State) (m : Rd α) : Except AtuErr α × State := (ExceptT.run m).run s

/-- A range of a job's space as VSE reads it. Bytes that come back as poison, and bytes from rack space, are free values: the
chapter says nothing of either (log entry 6). -/
def State.openRead (s : State) (c j va n : Nat) : Except AtuErr (List Byte) × State :=
  match s.translateRange c j va n false (n / 4096 + 2) with
  | (s1, .error x) => (.error x, s1)
  | (s1, .ok l) =>
    let s2 := s1.touchParts j l
    if l.any fun p => s1.vpoison p.1 p.2 || inRack p.1 then
      let (bs, s3) := s2.drawBytes n
      (.ok bs, s3)
    else (.ok (s1.readSpan [] l), s2)

/-- Reads a range of a job's space. -/
def rdJob (c j va n : Nat) : Rd (List Byte) := ExceptT.mk fun s => s.openRead c j va n

/-- Whether a range of a job's space can be written. -/
def rdCanWrite (c j va n : Nat) : Rd (List (Nat × Nat)) := ExceptT.mk fun s =>
  match s.translateRange c j va n true (n / 4096 + 2) with
  | (s1, .error x) => (.error x, s1)
  | (s1, .ok l) => (.ok l, s1)

/-- Applies a computation to the elements of a list in order. -/
def rdMap {α β : Type} (f : α → Rd β) : List α → Rd (List β)
  | [] => pure []
  | x :: l => do
    let y ← f x
    let ys ← rdMap f l
    pure (y :: ys)

/-! ### Store descriptors (R238) -/

/-- The fields of a store's descriptor. -/
def VStore.metric (v : VStore) : Nat := nfld (recNat v.desc 0 4) 8 8
def VStore.filtered (v : VStore) : Bool := (recNat v.desc 0 4).testBit 9
def VStore.graph (v : VStore) : Bool := (recNat v.desc 0 4).testBit 10
def VStore.fullFmt (v : VStore) : Nat := nfld (recNat v.desc 0 4) 11 11
def VStore.dim (v : VStore) : Nat := recNat v.desc 4 2
def VStore.codeBytes (v : VStore) : Nat := recNat v.desc 6 1
def VStore.nlist (v : VStore) : Nat := nfld (recNat v.desc 8 4) 19 0 + 1
def VStore.reprobeMax (v : VStore) : Nat := nfld (recNat v.desc 8 4) 21 20
def VStore.centAddr (v : VStore) : Nat := recNat v.desc 0x10 8
def VStore.bookAddr (v : VStore) : Nat := recNat v.desc 0x18 8
def VStore.listAddr (v : VStore) : Nat := recNat v.desc 0x20 8

/-- The field rules of a descriptor (R238). -/
def VStore.ok (v : VStore) : Bool :=
  decide (v.kind ≤ 1) && !(v.kind == 0 && v.graph) && decide (16 ≤ v.dim ∧ v.dim ≤ 4096) && v.dim % 16 == 0 &&
    (if v.kind = 0 then [8, 16, 24, 32].contains v.codeBytes && v.dim % v.codeBytes == 0
     else [32, 64, 96, 128].contains v.codeBytes && v.bookAddr == 0) &&
    decide (v.reprobeMax ≤ 2)

/-- The vector capacity of a group (R240). -/
def VStore.capacity (v : VStore) : Nat :=
  let size := fun (n : Nat) => 64 + 64 * ceilDiv n 512 + (if v.filtered then 8 else 0) * n + v.codeBytes * n
  ((List.range 10241).filter fun n => decide (size n ≤ 81920)).foldl max 0

/-- The groups that a store holds. -/
def VStore.groupCount (v : VStore) : Nat := (v.groups.map fun e => e.2.length).sum

/-- Replaces a store. -/
def State.setStore (s : State) (c n : Nat) (v : VStore) : State := s.updVse c fun x => { x with stores := x.stores.set n v }

/-- VSE_GROUPS. -/
def State.vseGroupsReg (s : State) (c : Nat) : State :=
  s.wr c Reg.VSE_GROUPS (lo32 (((s.vse c).stores.map fun e => e.2.groupCount).sum + (s.vse c).dropped.length))

/-! ### Groups (R240) -/

/-- Parts of the bytes of a group: in its four page slots, or in their side slot. -/
def State.groupRanges (s : State) (c g off n : Nat) : List (Nat × Nat) :=
  let base := s.slotAddr c (4 * g)
  let side := s.sideAddr c (4 * g)
  if off + n ≤ 65536 then [(base + off, n)]
  else if 65536 ≤ off then [(side + (off - 65536), n)]
  else [(base + off, 65536 - off), (side, off + n - 65536)]

/-- Reads bytes of a group; bytes that come back as poison are free values (log entry 6). -/
def State.groupRead (s : State) (c g off n : Nat) : List Byte × State :=
  let l := s.groupRanges c g off n
  if l.any fun p => s.vpoison p.1 p.2 then s.drawBytes n else (s.readSpan [] l, s)

/-- Reads bytes of a group. -/
def rdGroup (c g off n : Nat) : Rd (List Byte) := ExceptT.mk fun s => ((.ok (s.groupRead c g off n).1), (s.groupRead c g off n).2)

/-- Writes bytes of a group. -/
def State.groupWrite (s : State) (c g off : Nat) (bs : List Byte) : State :=
  s.writeRanges 0 (s.groupRanges c g off bs.length) bs

/-- Offsets of the attribute masks and of the codes of a group. -/
def VStore.attrAt (v : VStore) : Nat := 64 + 64 * ceilDiv v.capacity 512
def VStore.codeAt (v : VStore) : Nat := v.attrAt + if v.filtered then 8 * v.capacity else 0

/-- The vectors in a group. -/
def State.groupLen (s : State) (c g : Nat) : Nat := leNat (s.groupRead c g 8 4).1

/-- The groups of the pool of which a slot is in use, rising. -/
def PgmCh.usedFours (p : PgmCh) : List Nat := p.used.foldl (fun l i => insNat (i / 4) l) []

/-- Takes a free group of the pool for a job: five slots of the tenant's quota and of ADM_FREE_PAGES (R240; the limits are
DEDUCED, log entry 23). Which group it is, is the device's choice (log entry 6). -/
def State.takeGroup (s : State) (c j : Nat) : State × Option Nat :=
  let p := s.pgm c
  let u := p.usedFours
  let t := s.tenant c j
  if p.slots / 4 ≤ u.length ∨ s.rdN c Reg.ADM_FREE_PAGES < 5 ∨
      s.rdN c Reg.ADM_TQ_QUOTA t < s.rdN c Reg.ADM_TQ_CHARGED t + 5 then (s, none)
  else
    let (k, s1) := s.drawNat
    let g := kthFree u (k % (p.slots / 4 - u.length))
    ((((s1.updPgm c fun x => { x with used := [0, 1, 2, 3].foldl (fun l i => insNat (4 * g + i) l) x.used }).pagesFreeReg c).freeSub
      c 5).charge c t 5, some g)

/-- Returns a group of a dropped store (R329). -/
def State.giveGroup (s : State) (c g t : Nat) : State :=
  (((s.each [0, 1, 2, 3] fun s i => s.giveSlot c (4 * g + i)).freeAdd c 1).uncharge c t 5)

/-- The groups of dropped stores are freed at Midnight (R329). -/
def State.freeDropped (s : State) (c : Nat) : State :=
  ((s.each (s.vse c).dropped fun s d => s.giveGroup c d.1 d.2).updVse c fun x => { x with dropped := [] }).vseGroupsReg c

/-- Drops a job's stores (R329 step 6). -/
def State.dropStores (s : State) (c j : Nat) : State :=
  let t := s.tenant c j
  let mine := (s.vse c).stores.filter fun e => e.2.isSet && e.2.job == j
  let gs := mine.flatMap fun e => e.2.groups.flatMap fun l => l.2.map fun g => (g, t)
  (s.each mine fun s e => s.each (List.range 16) fun s i => s.wr c ⟨.vse, 0x200 + 4 * i⟩ 0 e.1).updVse c fun x =>
    { x with stores := x.stores.filter fun e => !(e.2.isSet && e.2.job == j), dropped := x.dropped ++ gs }

/-! ### Commands on the SEARCH engine -/

/-- Engines 1 and 3 set a command aside on a fault; with no save record free it stays on its engine (R140, R310, R325). -/
def State.vseFault (s : State) (c e : Nat) (cmd : Cmd) (x : AtuErr) (write : Bool) : State :=
  if s.jobTearing c cmd.job || decide (0 < s.savesFree c e) then
    (s.when (e == 1 && !s.jobTearing c cmd.job) fun s => s.bump c Reg.ATN_FAULT_SUSP_CNT).faultHolder c e cmd x write true
  else
    ((s.newFault c (s.faultOf e cmd x write)).1).when (e == 1) fun s => s.evt (atnPage c) 2

/-- VSE_STORE_SET (R238): its status and the state. -/
def State.storeSet (s : State) (c : Nat) (cmd : Cmd) : State × Nat :=
  let n := nfld (recNat cmd.payload 0 4) 5 0
  let old := s.vstore c n
  let v : VStore := { isSet := true, job := cmd.job, desc := padTo 64 cmd.payload, groups := [] }
  if (old.isSet && old.job != cmd.job) || decide (0 < old.groupCount) then (s, 0x40)
  else if v.kind = 1 ∧ (s.vse c).rerank = false then (s, 0x42)
  else if !v.ok then (s, 0x40)
  else
    ((s.setStore c n v).each (List.range 16) fun s i => s.wr c ⟨.vse, 0x200 + 4 * i⟩ (lo32 (recNat v.desc (4 * i) 4)) n, 0)

/-- The list being scanned by some search of a store (R243): one whose scan has ended a group, or the next list of a search that
holds its engine. -/
def State.listScanned (s : State) (c n l : Nat) : Bool :=
  (s.vse c).runs.any fun e => match e.2 with
    | some r => r.store == n && (r.cur == some l ||
        (r.todo.head? == some l && ([1, 3].any fun k => (s.engine c k).holder == some r.cmd)))
    | none => false

/-- The vectors that a list holds: its groups are full but for the last. -/
def State.listLen (s : State) (c : Nat) (v : VStore) (l : Nat) : Nat :=
  let gs := v.groups.at l
  match gs.getLast? with
  | none => 0
  | some g => (gs.length - 1) * v.capacity + s.groupLen c g

/-- Appends one vector to a list; `none` when it needs a group and none can be had (R242). -/
def State.appendVec (s : State) (c n l : Nat) (mask code : List Byte) : Option State :=
  let v := s.vstore c n
  let gs := v.groups.at l
  let put := fun (s : State) (g : Nat) =>
    let v := s.vstore c n
    let k := s.groupLen c g
    let s1 := s.groupWrite c g 8 (leBytes 4 (k + 1))
    let s2 := if v.filtered then s1.groupWrite c g (v.attrAt + 8 * k) (padTo 8 mask) else s1
    s2.groupWrite c g (v.codeAt + v.codeBytes * k) (padTo v.codeBytes code)
  let last := gs.getLast?.getD 0
  if !gs.isEmpty && decide (s.groupLen c last < v.capacity) then some (put s last)
  else match s.takeGroup c v.job with
    | (_, none) => none
    | (s1, some g) =>
      let s2 := s1.groupWrite c g 0 (List.replicate v.attrAt 0)
      let s3 := if gs.isEmpty then s2 else s2.groupWrite c last 0 (leBytes 8 (s2.slotAddr c (4 * g)))
      some (put ((s3.setStore c n { v with groups := v.groups.set l (gs ++ [g]) }).vseGroupsReg c) g)

/-- Appends vectors in order; the state, and how many found room. -/
def State.appendAll (s : State) (c n l : Nat) : List (List Byte × List Byte) → State × Nat
  | [] => (s, 0)
  | x :: xs =>
    match s.appendVec c n l x.1 x.2 with
    | none => (s, 0)
    | some s1 => ((s1.appendAll c n l xs).1, (s1.appendAll c n l xs).2 + 1)

/-- The reads of VSE_INSERT: the entry of the list with its place, and the masks and codes (R242). -/
def insertReads (c j : Nat) (v : VStore) (l count src : Nat) : Rd (List Byte × List (Nat × Nat) × List (List Byte × List Byte)) := do
  let entry ← rdJob c j (v.listAddr + 32 * l) 32
  let at_ ← rdCanWrite c j (v.listAddr + 32 * l) 32
  let masks ← rdJob c j src (if v.filtered then 8 * count else 0)
  let codes ← rdJob c j (src + if v.filtered then 8 * count else 0) (v.codeBytes * count)
  pure (entry, at_, (List.range count).map fun i =>
    ((masks.drop (8 * i)).take 8, (codes.drop (v.codeBytes * i)).take v.codeBytes))

/-- VSE_INSERT on the engine (R242). A LIST beyond the store is refused with BAD_STORE (DESIGN CHOICE, log entry 23). -/
def State.vseInsert (s : State) (c e : Nat) (cmd : Cmd) : State :=
  let p := recNat cmd.payload 0 8
  let n := nfld p 5 0
  let l := nfld p 51 32
  let v := s.vstore c n
  if !s.storeOf c n cmd.job || decide (v.nlist ≤ l) then s.complete c cmd 0x40
  else match s.rdRun (insertReads c cmd.job v l (recNat cmd.payload 8 4) (recNat cmd.payload 0x10 8)) with
    | (.error x, s1) => s1.vseFault c e cmd x false
    | (.ok (entry, at_, vecs), s1) =>
      let first := s1.listLen c v l
      let (s2, k) := s1.appendAll c n l vecs
      let fg := match ((s2.vstore c n).groups.at l).head? with
        | some g => s2.slotAddr c (4 * g)
        | none => 0
      let live := (recNat entry 4 4 + k) % 2 ^ 32
      (s2.writeParts at_ (leBytes 4 (first + k) ++ leBytes 4 live ++ leBytes 8 fg ++ entry.drop 16) cmd.job).complete c cmd
        (if s2.partsGone at_ then 0x21 else if k < vecs.length then 0x43 else 0) (leBytes 4 first)

/-- The tombstone bit of vector `k` of a group. -/
def State.tombBit (s : State) (c g k : Nat) : Bool := ((s.groupRead c g (64 + k / 8) 1).1.headD 0).getLsbD (k % 8)

/-- Where a vector lies: its group and its place there. -/
def VStore.vecAt (v : VStore) (l i : Nat) : Nat × Nat := ((v.groups.at l).getD (i / v.capacity) 0, i % v.capacity)

/-- The fields of a VREF (R241). -/
def vrefChan (r : Nat) : Nat := nfld r 63 60
def vrefStore (r : Nat) : Nat := nfld r 59 54
def vrefList (r : Nat) : Nat := nfld r 51 32
def vrefIndex (r : Nat) : Nat := nfld r 31 0

/-- The VREF of a vector. -/
def vrefOf (c n l i : Nat) : Nat := fieldAt 60 4 c + fieldAt 54 6 n + fieldAt 32 20 l + fieldAt 0 32 i

/-- Whether a VREF names a vector of a store of this channel. -/
def State.vrefOk (s : State) (c n r : Nat) : Bool :=
  let v := s.vstore c n
  vrefChan r == c && vrefStore r == n && decide (vrefList r < v.nlist) && decide (vrefIndex r < s.listLen c v (vrefList r))

/-- The entry of a list with its place. -/
def listReads (c j : Nat) (v : VStore) (l : Nat) : Rd (List Byte × List (Nat × Nat)) := do
  let entry ← rdJob c j (v.listAddr + 32 * l) 32
  let at_ ← rdCanWrite c j (v.listAddr + 32 * l) 32
  pure (entry, at_)

/-- VSE_DELETE on the engine (R242). A VREF that names no vector of the store is refused with BAD_STORE (DESIGN CHOICE, log
entry 23). -/
def State.vseDelete (s : State) (c e : Nat) (cmd : Cmd) : State :=
  let r := recNat cmd.payload 0 8
  let n := vrefStore r
  let v := s.vstore c n
  if !s.storeOf c n cmd.job || !s.vrefOk c n r then s.complete c cmd 0x40
  else
    let (g, k) := v.vecAt (vrefList r) (vrefIndex r)
    if s.tombBit c g k then s.complete c cmd 0x07
    else match s.rdRun (listReads c cmd.job v (vrefList r)) with
      | (.error x, s1) => s1.vseFault c e cmd x false
      | (.ok (entry, at_), s1) =>
        let b := ((s1.groupRead c g (64 + k / 8) 1).1.headD 0).toNat
        let s2 := s1.groupWrite c g (64 + k / 8) (leBytes 1 (b ||| 2 ^ (k % 8)))
        (s2.writeParts at_ (entry.take 4 ++ leBytes 4 (recNat entry 4 4 + (2 ^ 32 - 1)) ++ entry.drop 8) cmd.job).complete c cmd
          (if s2.partsGone at_ then 0x21 else 0)

/-! ### Queries (R244) -/

/-- The fields of a query record. -/
def VQuery.mode (q : VQuery) : Nat := nfld (recNat q.bytes 0 4) 1 0
def VQuery.k (q : VQuery) : Nat := nfld (recNat q.bytes 0 4) 26 16
def VQuery.nprobe (q : VQuery) : Nat := nfld (recNat q.bytes 4 4) 19 0
def VQuery.reprobes (q : VQuery) : Nat := nfld (recNat q.bytes 4 4) 21 20
def VQuery.mask (q : VQuery) : Nat := recNat q.bytes 8 8
def VQuery.tag (q : VQuery) : Nat := recNat q.bytes 0x10 8
def VQuery.result (q : VQuery) : Nat := recNat q.bytes 0x18 8
def VQuery.rerankM (q : VQuery) : Nat := nfld (recNat q.bytes 0x20 4) 10 0
def VQuery.hops (q : VQuery) : Nat := nfld (recNat q.bytes 0x20 4) 13 12
def VQuery.seeds (q : VQuery) : Nat := nfld (recNat q.bytes 0x20 4) 23 16

/-- The query vector's bytes, and the query's sketch. -/
def VQuery.vector (v : VStore) (q : VQuery) : List Byte := (q.bytes.drop 0x40).take (2 * v.dim)
def VQuery.sketch (v : VStore) (q : VQuery) : List Byte := (q.bytes.drop (0x40 + 2 * v.dim)).take v.codeBytes

/-- Bytes from one query record to the next. -/
def VStore.queryStride (v : VStore) : Nat := 64 * ceilDiv (0x40 + 2 * v.dim + if v.kind = 1 then v.codeBytes else 0) 64

/-- Whether a query keeps its field ranges and filters only where the store is FILTERED (R244; DEDUCED, log entry 23: SEEDS
is a field of GRAPH stores). -/
def VQuery.ok (v : VStore) (q : VQuery) : Bool :=
  decide (q.mode ≤ 2) && (q.mode == 0 || v.filtered) && decide (1 ≤ q.k ∧ q.k ≤ 1024) &&
    decide (1 ≤ q.nprobe ∧ q.nprobe ≤ v.nlist) && decide (q.reprobes ≤ 2) &&
    (v.kind == 0 || decide (q.k ≤ q.rerankM ∧ q.rerankM ≤ 1024)) &&
    (!v.graph || decide (1 ≤ q.seeds ∧ q.seeds ≤ 64))

/-- How many candidates a query keeps (R245). -/
def VQuery.keep (v : VStore) (q : VQuery) : Nat := if v.kind = 1 then max q.k q.rerankM else q.k

/-! ### Distances (R245, R249) -/

/-- The metric of two vectors, in FP32 in ascending element order, each operation rounded (R245, R249; DEDUCED, log entry
23). METRIC 0 is the squared distance, 1 the negated product. -/
def vmetric (metric : Nat) (xs ys : List Rat) : Rat :=
  if metric = 0 then
    (xs.zip ys).foldl (fun acc x => let d := rne32 (x.1 - x.2); rne32 (acc + rne32 (d * d))) (0 : Rat)
  else - (xs.zip ys).foldl (fun acc x => rne32 (acc + rne32 (x.1 * x.2))) (0 : Rat)

/-- FP32 bits of a distance; one beyond FP32 is an infinity. -/
def distBits (x : Rat) : Nat := if max32 < x then 0x7F800000 else if x < -max32 then 0xFF800000 else fp32Bits x

/-- The distance of a query's bytes to a vector's values: what it is ordered by, and its FP32 bits. A value that is not finite
leaves both open (log entry 6). -/
def vdist (metric : Nat) (qb vb : List Byte) (vals : List (Option Rat)) : Rat × Nat :=
  let qs := bf16s qb
  if (qs ++ vals).all Option.isSome then
    let d := vmetric metric (qs.map fun x => x.getD 0) (vals.map fun x => x.getD 0)
    (d, distBits d)
  else (Config.openDist qb vb, Config.openBits qb vb % 2 ^ 32)

/-- The lists of a store by rising coarse distance, ties to the lower list (R245 step 1). -/
def coarseOrder (v : VStore) (qb : List Byte) (cents : List (List Byte)) : List Nat :=
  let ds := (cents.map fun b => (vdist v.metric qb b (bf16s b)).1).zipIdx
  (sortBy ds fun a b => decide (a.1 < b.1) || (decide (a.1 = b.1) && decide (a.2 ≤ b.2))).map Prod.snd

/-- The IVF_PQ tables of a query (R245 step 2): u, Σ tmin in FP32, and W. -/
def pqTables (v : VStore) (qb book : List Byte) : List (List Nat) × Rat × Rat :=
  let m := v.codeBytes
  let sub := 2 * (v.dim / m)
  let t := (List.range m).map fun j => (List.range 256).map fun k =>
    let b := (book.drop ((j * 256 + k) * sub)).take sub
    (vdist v.metric ((qb.drop (j * sub)).take sub) b (bf16s b)).1
  let tmin := t.map fun r => r.foldl min (r.headD 0)
  let tmax := t.map fun r => r.foldl max (r.headD 0)
  let w0 := ((tmax.zip tmin).map fun x => rne32 (x.1 - x.2)).foldl max 0
  let w := if w0 = 0 then 1 else w0
  ((t.zip tmin).map fun r => r.1.map fun x => ((x - r.2) * 65535 / w + 1 / 2).floor.toNat, sum32 tmin, w)

/-- The Hamming distance of two sketches. -/
def sketchDist (a b : List Byte) : Nat :=
  ((a.zip b).map fun x => ((List.range 8).filter fun i => x.1.getLsbD i != x.2.getLsbD i).length).sum

/-- Whether attributes pass a query's filter (R244). -/
def VQuery.passes (q : VQuery) (attr : Nat) : Bool :=
  match q.mode with
  | 1 => (attr &&& q.mask) == q.mask
  | 2 => (attr &&& q.mask) != 0
  | _ => true

/-- The order of candidates: rising distance, then rising VREF (R245). -/
def VCand.before (a b : VCand) : Bool := decide (a.key < b.key) || (decide (a.key = b.key) && decide (a.vref ≤ b.vref))

/-- Puts a candidate in its place and keeps the best `n`. -/
def insCand (n : Nat) (x : VCand) (l : List VCand) : List VCand :=
  ((l.takeWhile fun y => y.before x) ++ x :: (l.dropWhile fun y => y.before x)).take n

/-- The candidate that a code makes for a query. -/
def VQuery.cand (v : VStore) (q : VQuery) (vref : Nat) (code : List Byte) : VCand :=
  if v.kind = 1 then
    let d := sketchDist (q.sketch v) code
    { key := (d : Rat), out := distBits (d : Rat), vref := vref, expanded := false }
  else
    let sum : Nat := ((q.tab.zip code).map fun x => x.1.getD x.2.toNat 0).sum % 2 ^ 32
    { key := (sum : Rat), out := distBits (rne32 (q.tmin + rne32 ((sum : Rat) * q.w / 65535))), vref := vref, expanded := false }

/-! ### A search (R245 to R250) -/

/-- The search that a job started on an engine. -/
def State.search (s : State) (c e j : Nat) : Option SearchRun := (s.vse c).runs.at (laneKey j e)

/-- Replaces the search of a job on an engine. -/
def State.setSearch (s : State) (c e j : Nat) (r : Option SearchRun) : State :=
  s.updVse c fun x => { x with runs := x.runs.set (laneKey j e) r }

/-- The lists that the queries of a round scan, rising (R245 step 3, R247). -/
def roundLists (qs : List VQuery) : List Nat := (qs.flatMap VQuery.want).foldl (fun l x => insNat x l) []

/-- A query as the search begins it: its first probes and its tables (R245). -/
def beginQuery (v : VStore) (cents : List (List Byte)) (book bytes : List Byte) : VQuery :=
  let q : VQuery := { (default : VQuery) with bytes := bytes }
  if !q.ok v then { q with refused := true, isOver := true }
  else
    let o := coarseOrder v (q.vector v) cents
    let t := if v.kind = 0 then pqTables v (q.vector v) book else ([], 0, 1)
    { q with order := o, probed := q.nprobe, want := o.take q.nprobe, tab := t.1, tmin := t.2.1, w := t.2.2 }

/-- The reads with which a search begins. -/
def searchReads (c j : Nat) (v : VStore) (addr n : Nat) : Rd (List VQuery) := do
  let recs ← rdMap (fun i => rdJob c j (addr + i * v.queryStride) (0x40 + 2 * v.dim + if v.kind = 1 then v.codeBytes else 0))
    (List.range n)
  let cents ← rdMap (fun l => rdJob c j (v.centAddr + l * (2 * v.dim)) (2 * v.dim)) (List.range v.nlist)
  let book ← rdJob c j v.bookAddr (if v.kind = 0 then 512 * v.dim else 0)
  pure (recs.map (beginQuery v cents book))

/-- A search that the engine takes begins (R244, R245, R249, R252). A query count outside 1 to 64 is BAD_QUERY (DESIGN
CHOICE, log entry 23). -/
def State.beginSearch (s : State) (c e : Nat) (cmd : Cmd) : State :=
  let n := searchStoreOf cmd
  let v := s.vstore c n
  let count := nfld (recNat cmd.payload 8 4) 6 0
  let fail := fun (s : State) (st : Nat) => s.complete c cmd st (leBytes 8 st)
  if !s.storeOf c n cmd.job then fail s 0x40
  else if v.kind = 1 ∧ (s.vse c).rerank = false then fail s 0x42
  else if count = 0 ∨ 64 < count then fail s 0x41
  else match s.rdRun (searchReads c cmd.job v (recNat cmd.payload 0 8) count) with
    | (.error x, s1) => s1.vseFault c e cmd x false
    | (.ok qs, s1) => s1.setSearch c e cmd.job (some ⟨cmd, n, qs, roundLists qs, none, 0⟩)

/-- One vector of a group: its place there, whether it is tombstoned, its attributes, its code. -/
def rdVec (c g : Nat) (v : VStore) (k : Nat) : Rd (Nat × Bool × Nat × List Byte) := do
  let t ← rdGroup c g (64 + k / 8) 1
  let a ← rdGroup c g (v.attrAt + 8 * k) (if v.filtered then 8 else 0)
  let code ← rdGroup c g (v.codeAt + v.codeBytes * k) v.codeBytes
  pure (k, (t.headD 0).getLsbD (k % 8), leNat a, code)

/-- What the vectors of a group add to a query that scans its list (R245 steps 3 and 4). -/
def VQuery.scan (v : VStore) (c n l base : Nat) (vecs : List (Nat × Bool × Nat × List Byte)) (q : VQuery) : VQuery :=
  if !q.want.contains l then q
  else { q with cands := vecs.foldl (fun cs x =>
    if x.2.1 || !q.passes x.2.2.1 then cs
    else insCand (q.keep v) (q.cand v (vrefOf c n l (base + x.1)) x.2.2.2) cs) q.cands }

/-- Cycles of the scan of a group for `nq` queries (R246). -/
def scanCycles (v : VStore) (len nq : Nat) : Nat :=
  let bytes := ceilDiv (len * (v.codeBytes + if v.filtered then 8 else 0)) 2048
  if v.kind = 1 then max bytes (ceilDiv (len * (8 * v.codeBytes) * nq) 262144) else bytes

/-- The lane comparisons of that scan in units of 4,096, rounded up for each group: a lane compares 64 bits (R229, R253; log
entry 17). -/
def scanLanes (v : VStore) (len nq : Nat) : Nat := if v.kind = 1 then ceilDiv (len * nq * (v.codeBytes / 8)) 4096 else 0

/-- Whether a query runs another round (R247). -/
def VQuery.again (v : VStore) (q : VQuery) : Bool :=
  !q.isOver && decide (q.cands.length < q.k) && decide (q.rounds < min q.reprobes v.reprobeMax)

/-- The next round of a query, or the end of its scans. -/
def VQuery.nextRound (v : VStore) (q : VQuery) : VQuery :=
  if q.again v then
    let p := min (2 * q.probed) v.nlist
    { q with want := (q.order.take p).drop q.probed, probed := p, rounds := q.rounds + 1 }
  else { q with want := [], isOver := true }

/-! ### Expansion and re-ranking (R248, R249) -/

/-- What the expansion of a query carries: its candidates, the tombstoned targets met, and the pairs for the repair list. -/
structure Expand where
  cands : List VCand
  tombs : Nat
  pairs : List (Nat × Nat)
  deriving DecidableEq, Repr, Inhabited

/-- One edge of a candidate. A target that names no vector of the store is passed over (DEDUCED from R15, log entry 23). -/
def rdEdge (c n : Nat) (v : VStore) (q : VQuery) (src tgt : Nat) (x : Expand) : Rd Expand := do
  let s ← get
  if !s.vrefOk c n tgt then pure x
  else
    let (g, k) := v.vecAt (vrefList tgt) (vrefIndex tgt)
    let y ← rdVec c g v k
    if y.2.1 then pure { x with tombs := x.tombs + 1, pairs := x.pairs ++ [(src, tgt)] }
    else if (x.cands.any fun a => a.vref == tgt) || !q.passes y.2.2.1 then pure x
    else pure { x with cands := insCand (q.keep v) (q.cand v tgt y.2.2.2) x.cands }

/-- A sequence of computations that hand a value on. -/
def rdFold {α β : Type} (f : α → β → Rd β) : List α → β → Rd β
  | [], b => pure b
  | x :: l, b => do
    let b1 ← f x b
    rdFold f l b1

/-- The edges of one candidate (R239, R248 step 2). -/
def rdEdges (c j n : Nat) (v : VStore) (q : VQuery) (src : Nat) (x : Expand) : Rd Expand := do
  let entry ← rdJob c j (v.listAddr + 32 * vrefList src) 32
  let bs ← rdJob c j (recNat entry 0x18 8 + 256 * vrefIndex src) 256
  let es := ((List.range 32).map fun i => recNat bs (8 * i) 8).takeWhile fun t => t != 2 ^ 64 - 1
  rdFold (fun t x => rdEdge c n v q src t x) es x

/-- The best candidates not yet expanded. -/
def seedsOf (n : Nat) (l : List VCand) : List Nat := ((l.filter fun a => !a.expanded).take n).map VCand.vref

/-- The expansion rounds of a query (R248). -/
def rdHops (c j n : Nat) (v : VStore) (q : VQuery) : Nat → Expand → Rd Expand
  | 0, x => pure x
  | h + 1, x => do
    let seeds := seedsOf q.seeds x.cands
    let marked := x.cands.map fun a => { a with expanded := a.expanded || seeds.contains a.vref }
    let y ← rdFold (fun t x => rdEdges c j n v q t x) seeds { x with cands := marked }
    rdHops c j n v q h y

/-- The blocks of a full vector in L8: one WIDE plane, code parts first (R239). -/
def wideVals (bs : List Byte) : List (Option Rat) :=
  let n := bs.length / 18
  (List.range n).flatMap fun i =>
    (LBlock.linear ⟨recNat bs (16 * n + 2 * i) 2, (bs.drop (16 * i)).take 16, [], []⟩).map some

/-- The exact distance of a candidate; none where it is tombstoned (R243, R249). -/
def rdExact (c j : Nat) (v : VStore) (q : VQuery) (a : VCand) : Rd (Option VCand) := do
  let (g, k) := v.vecAt (vrefList a.vref) (vrefIndex a.vref)
  let t ← rdGroup c g (64 + k / 8) 1
  if (t.headD 0).getLsbD (k % 8) then pure none
  else
    let entry ← rdJob c j (v.listAddr + 32 * vrefList a.vref) 32
    let size := if v.fullFmt = 0 then 2 * v.dim else 18 * v.dim / 16
    let bs ← rdJob c j (recNat entry 0x10 8 + vrefIndex a.vref * size) size
    let d := vdist v.metric (q.vector v) bs (if v.fullFmt = 0 then bf16s bs else wideVals bs)
    pure (some { a with key := d.1, out := d.2 })

/-- What a query gives: its results, the tombstoned targets it skipped, and its pairs for the repair list. -/
structure Answer where
  found : List VCand
  tombs : Nat
  pairs : List (Nat × Nat)
  place : List (Nat × Nat)
  deriving DecidableEq, Repr, Inhabited

/-- The end of one query: expansion, re-ranking, and the place of its result block. -/
def rdAnswer (c j n : Nat) (v : VStore) (q : VQuery) : Rd Answer := do
  if q.refused then
    let p ← rdCanWrite c j q.result 32
    pure ⟨[], 0, [], p⟩
  else
    let x ← rdHops c j n v q (if v.kind = 1 ∧ v.graph = true then q.hops else 0) ⟨q.cands, 0, []⟩
    let fs ← if v.kind = 1 then do
        let ys ← rdMap (rdExact c j v q) (x.cands.take q.rerankM)
        pure ((sortBy (ys.filterMap id) VCand.before).take q.k)
      else pure (x.cands.take q.k)
    let p ← rdCanWrite c j q.result (32 + 16 * fs.length)
    pure ⟨fs, x.tombs, x.pairs, p⟩

/-- Whether an answer is SHORT (R247). -/
def VQuery.short (q : VQuery) (a : Answer) : Bool := !q.refused && decide (a.found.length < q.k)

/-- The result block (R250). -/
def resultBlock (q : VQuery) (a : Answer) : List Byte :=
  leBytes 4 (fieldAt 0 8 (if q.refused then 0x41 else 0) + fieldAt 8 1 (b2n (q.short a)) + fieldAt 9 2 q.rounds) ++
    leBytes 4 a.found.length ++ leBytes 4 (if q.refused then 0 else q.probed) ++ leBytes 4 a.tombs ++ leBytes 8 q.tag ++
    leBytes 8 0 ++ a.found.flatMap fun x => leBytes 8 x.vref ++ leBytes 4 x.out ++ leBytes 4 0

/-- The registers that show the repair list (R255). -/
def State.repairRegs (s : State) (c : Nat) : State :=
  let l := (s.vse c).repair
  let h := l.headD (0, 0)
  ((s.wr c Reg.VSE_REPAIR_PEND (lo32 l.length)).wr64 c Reg.VSE_REPAIR_SRC_LO h.1).wr64 c Reg.VSE_REPAIR_TGT_LO h.2

/-- Adds a pair to the repair list (R251). -/
def State.addRepair (s : State) (c : Nat) (p : Nat × Nat) : State :=
  let l := (s.vse c).repair
  if l.contains p then s
  else if 4096 ≤ l.length then (s.bump c Reg.VSE_REPAIR_OVF_CNT).evt (vsePage c) 1
  else (s.updVse c fun x => { x with repair := l ++ [p] }).repairRegs c

/-- Writes the answer of one query, with its counts. -/
def State.putAnswer (s : State) (c job : Nat) (q : VQuery) (a : Answer) : State :=
  let s1 := (s.writeParts a.place (resultBlock q a) job).each a.pairs fun s p => s.addRepair c p
  if q.refused then s1
  else
    ((s1.bump c Reg.VSE_QUERY_CNT).bump c Reg.VSE_SHORT_CNT (b2n (q.short a))).bump c Reg.VSE_TOMB_SKIP_CNT a.tombs

/-- The end of a search: every result block is written and the command completes (R250). -/
def State.endSearch (s : State) (c e : Nat) (r : SearchRun) : State :=
  let v := s.vstore c r.store
  match s.rdRun (rdMap (rdAnswer c r.cmd.job r.store v) r.queries) with
  | (.error x, s1) => (s1.setSearch c e r.cmd.job (some r)).vseFault c e r.cmd x false
  | (.ok as, s1) =>
    let l := r.queries.zip as
    let n := (r.queries.filter fun q => !q.refused).length
    let st := if as.any (fun a => s1.partsGone a.place) then 0x21 else if n = 0 then 0x41 else 0
    ((s1.each l fun s x => s.putAnswer c r.cmd.job x.1 x.2).setSearch c e r.cmd.job none).complete c r.cmd st
      (leBytes 8 (fieldAt 0 8 st + fieldAt 8 7 n + fieldAt 15 1 (b2n (l.any fun x => x.1.short x.2))))

/-- A search at a group boundary: it is suspended where a pre-emption was asked for (R246); on the array that counts as one of its
pre-emptions (R175). -/
def State.yieldAt (s : State) (c e : Nat) : State :=
  if (s.engine c e).preempt then
    (s.when (e == 1) fun s => s.bump c Reg.ATN_PREEMPT_CNT).setAside c e .suspended true
  else s

/-- The end of a round: another one where a query runs it, else the end of the search (R247). The round's last group is a group
boundary like the others (R246). -/
def State.endRound (s : State) (c e : Nat) (r : SearchRun) : State :=
  let v := s.vstore c r.store
  let n := (r.queries.filter (VQuery.again v)).length
  let qs := r.queries.map fun q => if q.isOver then q else q.nextRound v
  let r1 := { r with queries := qs, todo := roundLists qs }
  if n = 0 then s.endSearch c e r1
  else ((s.bump c Reg.VSE_REPROBE_CNT n).setSearch c e r.cmd.job (some r1)).yieldAt c e

/-- What becomes of a search when a group has been read: the candidates of its vectors are taken, and the next group of the list
follows, if it has one (R245, R246). `stall` is what DRAM adds to the cycles of R246, `n` the groups of the list. -/
def scannedGroup (c : Nat) (r : SearchRun) (l : Nat) (rest : List Nat) (v : VStore) (stall n : Nat)
    (x : Except AtuErr (List (Nat × Bool × Nat × List Byte)) × State) : State × SearchRun :=
  match x.1 with
  | .error _ => (x.2, r)
  | .ok vecs =>
    let nq := (r.queries.filter fun q => q.want.contains l).length
    let s1 := (x.2.passToNow (x.2.tim.now + scanCycles v vecs.length nq + stall)).bump c Reg.SKT_CMP_CNT (scanLanes v vecs.length nq)
    let qs := r.queries.map (VQuery.scan v c r.store l (r.grp * v.capacity) vecs)
    if r.grp + 1 < n then (s1, { r with queries := qs, cur := some l, grp := r.grp + 1 })
    else (s1.bump c Reg.VSE_LIST_SCAN_CNT, { r with queries := qs, cur := none, grp := 0, todo := rest })

/-- Scans the next group of a list, or ends the scan of a list that has none (R245, R246). -/
def State.scanGroup (s : State) (c : Nat) (r : SearchRun) (l : Nat) (rest : List Nat) : State × SearchRun :=
  let gs := (s.vstore c r.store).groups.at l
  match gs[r.grp]? with
  | none => (s.bump c Reg.VSE_LIST_SCAN_CNT, { r with cur := none, grp := 0, todo := rest })
  | some g =>
    let v := s.vstore c r.store
    scannedGroup c r l rest v s.drawNat.1 gs.length
      (s.drawNat.2.rdRun (rdMap (rdVec c g v) (List.range (s.groupLen c g))))

/-- One step of a search on its engine: a group, then the end of the round or a suspension where one is due. -/
def State.searchStep (s : State) (c e : Nat) (r : SearchRun) : State :=
  match r.todo with
  | [] => s.endRound c e r
  | l :: rest =>
    let (s1, r1) := s.scanGroup c r l rest
    if r1.todo.isEmpty then s1.endRound c e r1 else (s1.setSearch c e r.cmd.job (some r1)).yieldAt c e

/-- The commands of VSE that an engine has taken are acted on: an insert or a delete once its list is not being scanned, or at
once where the store is not its job's, and a search begins (R243, R252). -/
def State.vseTaken (s : State) (c e : Nat) : State :=
  match (s.engine c e).holder with
  | none => s
  | some cmd =>
    if s.engineStuck c e cmd.job then s
    else if cmd.op = 0x060 then
      let (s1, st) := s.storeSet c cmd
      s1.complete c cmd st
    else if cmd.op = 0x061 then
      let n := nfld (recNat cmd.payload 0 8) 5 0
      if s.storeOf c n cmd.job && s.listScanned c n (nfld (recNat cmd.payload 0 8) 51 32) then s else s.vseInsert c e cmd
    else if cmd.op = 0x062 then
      let r := recNat cmd.payload 0 8
      if s.storeOf c (vrefStore r) cmd.job && s.listScanned c (vrefStore r) (vrefList r) then s else s.vseDelete c e cmd
    else if cmd.op = 0x063 then
      match s.search c e cmd.job with
      | some r => if r.cmd = cmd then s else s.beginSearch c e cmd
      | none => s.beginSearch c e cmd
    else s

/-- A command of VSE that arrives: it takes its engine if it can, and is acted on (R252, R311, R314, R539). -/
def State.vseCmd (s : State) (c e : Nat) (cmd : Cmd) : State :=
  if e = 1 ∧ s.domSt c ≠ .on then s.when (s.enabledCh c) fun s => (((s.accrue c).arrive c e cmd).settle c).wake c
  else (s.occupy c e cmd).when (s.enabledCh c) fun s => s.vseTaken c e

/-- VSE_STORE_SET (R238, R252). -/
def execVseStoreSet (c : Nat) (cmd : Cmd) (s : State) : Host.Outcome State Fault Refusal :=
  .next (s.vseCmd c 3 { cmd with op := 0x060 })

/-- VSE_INSERT (R242, R252). -/
def execVseInsert (c : Nat) (cmd : Cmd) (s : State) : Host.Outcome State Fault Refusal :=
  .next (s.vseCmd c 3 { cmd with op := 0x061 })

/-- VSE_DELETE (R242, R252). -/
def execVseDelete (c : Nat) (cmd : Cmd) (s : State) : Host.Outcome State Fault Refusal :=
  .next (s.vseCmd c 3 { cmd with op := 0x062 })

/-- VSE_SEARCH (R244, R252, R310). -/
def execVseSearch (c : Nat) (cmd : Cmd) (s : State) : Host.Outcome State Fault Refusal :=
  let x := { cmd with op := 0x063 }
  .next (s.vseCmd c ((s.engineFor c x).getD 3) x)

/-- The scan of a group ends on an engine (R246). -/
def State.scanGroupEnd (s : State) (c e : Nat) : State :=
  match (s.engine c e).holder with
  | none => s
  | some cmd =>
    if cmd.op ≠ 0x063 ∨ s.engineStuck c e cmd.job = true then s
    else match s.search c e cmd.job with
      | none => s.beginSearch c e cmd
      | some r => if r.cmd = cmd then (s.searchStep c e r).vseTaken c 3 else s.beginSearch c e cmd

/-- SCAN_GROUP_END (R246): on the ARRAY, 1, or on the SEARCH engine, 3. -/
def execScanGroupEnd (c e : Nat) (s : State) : Host.Outcome State Fault Refusal :=
  .next (s.when (s.enabledCh c && (e == 1 || e == 3)) fun s => s.scanGroupEnd c e)

/-- ENGINE_START (R314): the engine takes the next command; a sweep starts on the array or resumes, and a command of VSE is
acted on. -/
def execEngineStart (c e : Nat) (s : State) : Host.Outcome State Fault Refusal :=
  .next (s.when (s.enabledCh c && decide (e < 5)) fun s =>
    let free := (s.engine c e).holder.isNone
    (((s.engineStart c e).when (free && e == 1) fun s => s.sweepTaken c).when (free && e == 2) fun s => s.dmvArm c).when
      (free && (e == 1 || e == 3)) fun s => s.vseTaken c e)

/-- RETRY, and the access of a command of VSE that stayed on its engine is made again (R325, R327). -/
def State.retryGo (s : State) (c id : Nat) : State :=
  match s.servable c id with
  | none => s.respIgnored c
  | some x => (s.faultRetry c id).when (x.engine == 1 || x.engine == 3) fun s => s.vseTaken c x.engine

/-- FAULT_RETRY (R327, R336). -/
def execFaultRetry (rq : Requester) (c id : Nat) (s : State) : Host.Outcome State Fault Refusal :=
  .next (s.onWrite rq c Reg.ATU_FAULT_RESP (lo32 (id % 64 + 0x100)) fun s => s.retryGo c (id % 64))

/-! ### Registers (R249, R251, R255) -/

/-- VSE_REPAIR_POP (R251). -/
def execVseRepairPop (rq : Requester) (c : Nat) (v : Word) (s : State) : Host.Outcome State Fault Refusal :=
  .next (s.onWrite rq c Reg.VSE_REPAIR_POP v fun s => s.when (wbit v 0) fun s =>
    (s.updVse c fun x => { x with repair := x.repair.drop 1 }).repairRegs c)

/-- Whether four other channels of the device have RERANK_EN, or empty their ways for it (R249, R438). -/
def State.rerankFull (s : State) (c : Nat) : Bool :=
  decide (4 ≤ ((List.range 16).filter fun k => k != c && (s.rdB k Reg.VSE_CFG 0 || (s.ch k).ccx.rerank.isSome)).length)

/-- A write of RERANK_EN (R249): a fifth channel of the device is refused; the effect waits for QUIESCED. -/
def State.rerankWrite (s : State) (c : Nat) (v : Word) : State :=
  if wbit v 0 && s.rerankFull c then s.evt (vsePage c) 2
  else (s.store c Reg.VSE_CFG v).syncRerank c

/-- The command of VSE that an engine runs, with the store that it scans if it scans one. -/
def State.vseRuns (s : State) (c e : Nat) : Option (Cmd × Option Nat) :=
  match (s.engine c e).holder with
  | none => none
  | some h =>
    if h.op < 0x060 ∨ 0x063 < h.op then none
    else some (h, match s.search c e h.job with
      | some r => if r.cmd = h ∧ r.todo ≠ [] then some r.store else none
      | none => none)

/-- VSE_STATUS (R255): STORE and JOB of a scan where one runs, of the SEARCH engine before the array. -/
def State.vseStatus (s : State) (c : Nat) : Word :=
  let l := [3, 1].filterMap (s.vseRuns c)
  match (l.filter fun x => x.2.isSome).head?.or l.head? with
  | none => 0
  | some x => BitVec.ofNat 32 (fieldAt 0 6 (x.2.getD 0) + 2 ^ 15 + fieldAt 16 10 x.1.job)

/-- REPAIR_PENDING at the start of Midnight (R256). -/
def State.repairPending (s : State) (c : Nat) : State := s.when (!(s.vse c).repair.isEmpty) fun s => s.evt (vsePage c) 0

end Sys2Proof.Machine
end

