-- ==== Sys2Proof/Machine/Domain.lean ====
section
/-! DEFINITION. CCX: the coherence messages and commands, the domain controller, members that die and domains that are lost
(R437, R445 to R460), and RERANK_EN_WRITE (R249, R438). -/
namespace Sys2Proof.Machine

/-! ### The agent's work -/

/-- The agent goes on with everything that waits; a write of RERANK_EN takes effect once its ways are empty (R438). -/
def State.agentGo (s : State) (a : Nat) : State :=
  let s1 := s.agentTry a
  if s1.rerankReady a then
    match (s1.ccx a).rerank with
    | some v => (s1.updCcx a fun x => { x with rerank := none }).rerankWrite a v
    | none => s1
  else s1

/-- VSE_CFG takes a value (R249); on an agent channel ways 8 to 15 are emptied first (R438). A write that a later one follows is
forgotten. -/
def State.vseCfg (s : State) (c : Nat) (v : Word) : State :=
  if s.isAgent c && wbit v 0 && !s.rdB c Reg.VSE_CFG 0 && !s.rerankFull c then
    (s.updCcx c fun x => { x with rerank := some v }).agentGo c
  else (s.updCcx c fun x => { x with rerank := none }).rerankWrite c v

/-- RERANK_EN_WRITE (R249, R438). -/
def execRerankEnWrite (rq : Requester) (c : Nat) (v : Word) (s : State) : Host.Outcome State Fault Refusal :=
  .next (s.onWrite rq c Reg.VSE_CFG v fun s => s.vseCfg c v)

/-! ### Messages to the arbiter -/

/-- A message that only an arbitrating channel takes. -/
def State.atArb (s : State) (c mtype : Nat) (f : State → SMsg → State) : State :=
  s.cohTake c mtype fun s m => if s.isArb c then f s m else s.protoErr c m

/-- A message that only an agent channel takes. -/
def State.atAgent (s : State) (c mtype : Nat) (f : State → SMsg → State) : State :=
  s.cohTake c mtype fun s m => if s.isAgent c then f s m else s.protoErr c m

/-- RD_S (R448). -/
def execRdS (c : Nat) (s : State) : Host.Outcome State Fault Refusal := .next (s.atArb c 0x40 fun s m => s.arbRequest c 0 m)

/-- RD_X (R448). -/
def execRdX (c : Nat) (s : State) : Host.Outcome State Fault Refusal := .next (s.atArb c 0x41 fun s m => s.arbRequest c 1 m)

/-- UPG (R448). -/
def execUpg (c : Nat) (s : State) : Host.Outcome State Fault Refusal := .next (s.atArb c 0x42 fun s m => s.arbRequest c 2 m)

/-- WB (R448). -/
def execWb (c : Nat) (s : State) : Host.Outcome State Fault Refusal := .next (s.atArb c 0x43 fun s m => s.arbRequest c 3 m)

/-- EVC (R448). -/
def execEvc (c : Nat) (s : State) : Host.Outcome State Fault Refusal := .next (s.atArb c 0x44 fun s m => s.arbRequest c 4 m)

/-- CLEAN (R440, R448). -/
def execClean (c : Nat) (s : State) : Host.Outcome State Fault Refusal := .next (s.atArb c 0x45 fun s m => s.arbRequest c 5 m)

/-- SRSP (R448). -/
def execSrsp (c : Nat) (s : State) : Host.Outcome State Fault Refusal := .next (s.atArb c 0x48 fun s m => s.arbSrsp c m)

/-- CMP (R449). -/
def execCmp (c : Nat) (s : State) : Host.Outcome State Fault Refusal := .next (s.atArb c 0x49 fun s m => s.arbCmp c m)

/-- MWR_ACK (R448). -/
def execMwrAck (c : Nat) (s : State) : Host.Outcome State Fault Refusal := .next (s.atArb c 0x5C fun s m => s.arbMwrAck c m)

/-- PSN_ACK (R455). -/
def execPsnAck (c : Nat) (s : State) : Host.Outcome State Fault Refusal := .next (s.atArb c 0x5D fun s m => s.arbPsnAck c m)

/-! ### Messages to agents and homes -/

/-- SNP_S (R445). -/
def execSnpS (c : Nat) (s : State) : Host.Outcome State Fault Refusal :=
  .next (s.atAgent c 0x50 fun s m => (s.agentSnoop c m).agentGo c)

/-- SNP_X (R445). -/
def execSnpX (c : Nat) (s : State) : Host.Outcome State Fault Refusal :=
  .next (s.atAgent c 0x51 fun s m => (s.agentSnoop c m).agentGo c)

/-- SNP_INV (R445). -/
def execSnpInv (c : Nat) (s : State) : Host.Outcome State Fault Refusal :=
  .next (s.atAgent c 0x52 fun s m => (s.agentSnoop c m).agentGo c)

/-- GNT (R445): for the agent, or for the home (R440). -/
def execGnt (c : Nat) (s : State) : Host.Outcome State Fault Refusal :=
  .next (s.cohTake c 0x53 fun s m => match s.agentTag c m.tag, s.homeTag c m.tag with
    | some g, _ => (s.agentGnt c g m).agentGo c
    | none, some g => s.homeGnt c g m
    | none, none => s.protoErr c m)

/-- RETRY (R445, R452). -/
def execRetry (c : Nat) (s : State) : Host.Outcome State Fault Refusal :=
  .next (s.cohTake c 0x54 fun s m => match s.agentTag c m.tag, s.homeTag c m.tag with
    | some g, _ => s.agentRetry c g m
    | none, some g => s.homeRetry c g
    | none, none => s.protoErr c m)

/-- EV_ACK (R445). -/
def execEvAck (c : Nat) (s : State) : Host.Outcome State Fault Refusal :=
  .next (s.cohTake c 0x55 fun s m => match s.agentTag c m.tag with
    | some g => (s.agentEvAck c g m).agentGo c
    | none => s.protoErr c m)

/-- MRD (R441). -/
def execMrd (c : Nat) (s : State) : Host.Outcome State Fault Refusal := .next (s.cohTake c 0x58 fun s m => s.homeMrd c m)

/-- MWR (R441). -/
def execMwr (c : Nat) (s : State) : Host.Outcome State Fault Refusal := .next (s.cohTake c 0x59 fun s m => s.homeMwr c m)

/-- PSN (R456). -/
def execPsn (c : Nat) (s : State) : Host.Outcome State Fault Refusal := .next (s.cohTake c 0x5A fun s m => s.homePsn c m)

/-- DATA (R443, R445, R451): for the agent, the home or the arbiter whose tag it names. -/
def execData (c : Nat) (s : State) : Host.Outcome State Fault Refusal :=
  .next (s.cohTake c 0x60 fun s m => match s.agentTag c m.reqTag, s.homeTag c m.reqTag, s.arbTag c m.reqTag with
    | some g, _, _ => (s.agentData c g m).agentGo c
    | none, some g, _ => s.homeData c g m
    | none, none, some x => s.arbData c x.1 m
    | none, none, none => s.protoErr c m)

/-- The resends of a channel, with the elapsed times at which they are due. -/
def State.resends (s : State) (c : Nat) : List (Nat × Bool × Nat) :=
  ((s.ccx c).lines.filterMap fun l => l.2.resend.map fun t => (t, true, l.1)) ++
    (s.ccx c).homeGran.filterMap fun h => h.2.resend.map fun t => (t, false, h.1)

/-- COH_BACKOFF_END (R445): time passes to the next resend of the channel, and the requests that are due go out again. -/
def execCohBackoffEnd (c : Nat) (s : State) : Host.Outcome State Fault Refusal :=
  .next (match s.resends c with
    | [] => s
    | x :: l =>
      let s1 := s.passToNow (l.foldl (fun m y => min m y.1) x.1)
      s1.each ((s1.resends c).filter fun y => decide (y.1 ≤ s1.tim.now)) fun s y =>
        if y.2.1 then s.lineResend c y.2.2 else s.homeResend c y.2.2)

/-! ### Forming a domain (R437) -/

/-- Changes CCX of every channel of the device that belongs to the domain. -/
def State.eachCcx (s : State) (f : CcxCh → CcxCh) : State := s.each s.domainChans fun s c => s.updCcx c f

/-- The members of MEMBER_MASK. -/
def State.maskMembers (s : State) (c : Nat) : List Nat := (List.range 8).filter fun m => s.rdB c Reg.CCX_MEMBER_MASK m

/-- MEMBERS_UP as a number. -/
def upWord (l : List Nat) : Nat := (l.map fun m => 2 ^ m).sum

/-- A message to the agent channel of a member. -/
def State.toMember (s : State) (c m mtype addr : Nat) : State :=
  s.sendMsg c { s.cohMsg c mtype 0 (s.memberSlot c m) (s.agentChOf c m) 0 with addr := addr }

/-- Whether a channel is the domain controller (R435). -/
def State.isController (s : State) (c : Nat) : Bool := s.isAgent c && s.member c == 0

/-- CCX_JOIN (R437): JOIN at an agent channel of a member whose domain is DOWN or LOST. -/
def execCcxJoin (rq : Requester) (c : Nat) (s : State) : Host.Outcome State Fault Refusal :=
  .next (s.onWrite rq c Reg.CCX_CMD 1 fun s =>
    if s.isAgent c && ((s.ccx c).dstate == 0 || (s.ccx c).dstate == 3) then
      (s.eachCcx fun x => { x with dstate := 1 }).toMember c 0 0x74 0
    else s)

/-- JOIN at the controller: JOIN_ACK to all once every member of the mask has joined, and at once to one that joins after that
(R437). -/
def State.joinMember (s : State) (c k : Nat) : State :=
  let x := s.ccx c
  if x.deadM.contains k then s
  else
    let j := insNat k x.joined
    let s1 := s.updCcx c fun y => { y with joined := j }
    if x.up ≠ [] then (s1.updCcx c fun y => { y with up := insNat k y.up, hb := y.hb.set k (s.tim.now + 1) }).toMember c k 0x75 0
    else if !(s.maskMembers c).all fun m => j.contains m then s1
    else
      (s1.updCcx c fun y =>
        { y with up := s.maskMembers c, hb := (s.maskMembers c).foldl (fun h m => h.set m (s.tim.now + 1)) y.hb }).each
          (s.maskMembers c) fun s m => s.toMember c m 0x75 0

/-- JOIN (R437). -/
def execJoin (c : Nat) (s : State) : Host.Outcome State Fault Refusal :=
  .next (s.atAgent c 0x74 fun s m => match s.memberOf c m.srcSlot with
    | some k => if s.isController c then s.joinMember c k else s.protoErr c m
    | none => s.protoErr c m)

/-- A member's channels read UP, and what waited for it goes on. -/
def State.domainUp (s : State) (c : Nat) : State :=
  let t := s.tim.now + 1
  let s1 := s.each s.domainChans fun s k =>
    let up := if (s.ccx k).up = [] then s.maskMembers k else (s.ccx k).up
    (s.updCcx k fun x => { x with dstate := 2, up := up, echo := t, hbSent := t }).evtPriv (ccxPage k) 2 0xB2 0 (upWord up)
  (s1.agentGo c).each s1.domainChans fun s k => s.homeStart k

/-- JOIN_ACK (R437). -/
def execJoinAck (c : Nat) (s : State) : Host.Outcome State Fault Refusal :=
  .next (s.atAgent c 0x75 fun s m => if (s.ccx c).dstate = 1 then s.domainUp c else s.protoErr c m)

/-- CCX_LEAVE (R460): the member leaves. A controller on this device removes it at once; the spec names no message for another
(log entry 28). -/
def execCcxLeave (rq : Requester) (c : Nat) (s : State) : Host.Outcome State Fault Refusal :=
  .next (s.onWrite rq c Reg.CCX_CMD 2 fun s =>
    if s.isAgent c && (s.ccx c).dstate == 2 then
      let k := s.member c
      let ctl := s.agentChOf c 0
      let s1 := s.eachCcx fun x => { x with dstate := 0, up := [] }
      if s.memberSlot c 0 = s.selfSlot c then
        (s1.wr ctl Reg.CCX_MEMBER_MASK (setBit (s1.rd ctl Reg.CCX_MEMBER_MASK) k false)).updCcx ctl fun x =>
          { x with joined := x.joined.filter fun m => m != k }
      else s1.emit (.msg "LEAVE" [c, s.memberSlot c 0, k] [])
    else s)

/-! ### Heartbeats (R455, R457) -/

/-- HB_US in ns. -/
def State.hbNs (s : State) (c : Nat) : Nat := s.rdF c Reg.CCX_HB 15 0 * 1000

/-- HB_MISS intervals in ns. -/
def State.hbLimit (s : State) (c : Nat) : Nat := s.rdF c Reg.CCX_HB 23 16 * s.hbNs c

/-- The controller's part of a heartbeat: what is late, and HB_ECHO. -/
def State.echoAll (s : State) (c : Nat) : State :=
  let x := s.ccx c
  let late := (x.up.filter fun m => decide (x.hb.at m < x.hbSent)).length
  (s.bump c Reg.CCX_HB_LATE_CNT late).each x.up fun s m => s.toMember c m 0x71 0

/-- HB_SEND (R455): time passes to the agent's next heartbeat. -/
def execHbSend (c : Nat) (s : State) : Host.Outcome State Fault Refusal :=
  .next (if s.isAgent c && s.serves c && (s.ccx c).dstate == 2 then
      let s1 := s.passToNow ((s.ccx c).hbSent - 1 + s.hbNs c)
      let x := s1.ccx c
      let s2 := (s1.bump c Reg.CCX_HB_LATE_CNT (if x.echo < x.hbSent then 1 else 0)).toMember c 0 0x70 0
      let s3 := s2.when (s2.isController c) fun s => s.echoAll c
      s3.updCcx c fun x => { x with hbSent := s3.tim.now + 1 }
    else s)

/-- HB (R455). -/
def execHb (c : Nat) (s : State) : Host.Outcome State Fault Refusal :=
  .next (s.atAgent c 0x70 fun s m => match s.memberOf c m.srcSlot with
    | some k => if s.isController c then s.updCcx c fun x => { x with hb := x.hb.set k (s.tim.now + 1) } else s.protoErr c m
    | none => s.protoErr c m)

/-- HB_ECHO (R457). -/
def execHbEcho (c : Nat) (s : State) : Host.Outcome State Fault Refusal :=
  .next (s.atAgent c 0x71 fun s _ => s.updCcx c fun x => { x with echo := s.tim.now + 1 })

/-! ### A member that dies (R455) -/

/-- Steps 1 to 4, and the reservations of step 5, on an arbitrating channel. -/
def State.deadAtArb (s : State) (a k slot : Nat) : State :=
  let s1 := (((s.abandonSlot a slot).homeGone a slot).deadRequester a k).deadOwner a k
  (s1.deadSharer a k).updCcx a fun x => { x with resv := x.resv.filter fun r => r.who != k && r.who != 8 + k }

/-- The controller declares a member dead; the requests that have a shard there are lost (R91). -/
def State.declareDead (s : State) (c k : Nat) : State :=
  let slot := s.memberSlot c k
  let s1 := s.each (s.channels.filter s.isArb) fun s a => s.deadAtArb a k slot
  let s2 := (s1.eachCcx fun x => { x with up := x.up.filter fun m => m != k }).updCcx c fun x =>
    { x with joined := x.joined.filter fun m => m != k, deadM := insNat k x.deadM }
  (((s2.each (((s2.ccx c).up).filter fun m => m != 0) fun s m => s.toMember c m 0x76 k).evtPriv (ccxPage c) 0 0xB0 k slot).each
    s.channels fun s a => s.cutOpens a).shardsLost k

/-- MEMBER_DEAD (R455): time passes until HB_MISS intervals have gone without HB from the member. -/
def execMemberDead (c m : Nat) (s : State) : Host.Outcome State Fault Refusal :=
  .next (if s.isController c && (s.ccx c).dstate == 2 && (s.ccx c).up.contains m then
      (s.passToNow ((s.ccx c).hb.at m - 1 + s.hbLimit c)).declareDead c m
    else s)

/-- DEAD_NOTE (R455). -/
def execDeadNote (c : Nat) (s : State) : Host.Outcome State Fault Refusal :=
  .next (s.atAgent c 0x76 fun s m =>
    let k := m.addr % 8
    ((s.eachCcx fun x => { x with up := x.up.filter fun y => y != k }).evtPriv (ccxPage c) 0 0xB0 k (s.memberSlot c k)).shardsLost k)

/-- CCX_REVIVE (R455): at the controller, a dead member may join again. -/
def execCcxRevive (rq : Requester) (c m : Nat) (s : State) : Host.Outcome State Fault Refusal :=
  .next (s.onWrite rq c Reg.CCX_CMD (BitVec.ofNat 32 (4 + fieldAt 8 3 m)) fun s =>
    if s.isController c then
      (s.updCcx c fun x => { x with deadM := x.deadM.filter fun y => y != m % 8 }).each (s.channels.filter s.isArb) fun s a =>
        s.reviveSlot a (s.memberSlot c (m % 8))
    else s)

/-! ### A lost domain (R457) -/

/-- Writes a line of a lost domain to its home by a plain STORE, with the REGION and KEY under which the line was asked for (R457). -/
def State.saveLine (s : State) (a : Nat) (x : Nat × CLine) : State :=
  let put := fun (poison : Bool) =>
    let m := storeMsg (128 * x.1) (padTo 128 x.2.data) false poison
    (s.sendRequest a { m with dstSlot := rackSlot m.addr, dstCh := rackCh m.addr, key := x.2.key,
                              w10 := fieldAt 0 14 x.2.region + fieldAt 14 3 m.lenM1 + fieldAt 20 10 x.2.job } .dev x.2.job 128).1
  match x.2.st with
  | .m => put false
  | .o => put false
  | .miA => put false
  | .oiA => put false
  | .imD => put true
  | .smA => put true
  | .omA => put true
  | _ => s

/-- What the agent does when the domain is lost. -/
def State.agentLost (s : State) (a : Nat) : State :=
  let s1 := s.each (s.ccx a).accs fun s x =>
    if x.kind = 0 then s.accEnd a x 0 (List.replicate x.n 0) true else s.accEnd a x 0xA3 [] false
  let x := s1.ccx a
  let s2 := s1.each x.lines fun s l => s.when (l.2.st.asking || l.2.st.evicting) fun s => s.dropTag a l.2.tag
  let s3 := (s2.updCcx a fun y => { y with lines := [], flushes := [] }).each x.lines fun s l => s.saveLine a l
  (s3.each x.flushes fun s f => s.complete f.ch f.cmd 0xA3 (leBytes 8 0xA3)).agentGo a

/-- The domain is lost to the member: member 0 has failed, and with it the shards there (R91, R457). -/
def State.loseDomain (s : State) (c : Nat) : State :=
  let s1 := s.each s.domainChans fun s k =>
    (s.updCcx k fun x => { x with dstate := 3, up := [], joined := [] }).evtPriv (ccxPage k) 1 0xB1 0 (s.domainId k)
  ((s1.agentLost c).each s1.domainChans fun s k => s.homeLost k).shardsLost 0

/-- DOMAIN_LOST (R457): time passes until HB_MISS intervals have gone without HB_ECHO. -/
def execDomainLost (c : Nat) (s : State) : Host.Outcome State Fault Refusal :=
  .next (if s.isAgent c && (s.ccx c).dstate == 2 then (s.passToNow ((s.ccx c).echo - 1 + s.hbLimit c)).loseDomain c else s)

end Sys2Proof.Machine
end

