-- ==== Sys2Proof/Machine/Fabric.lean ====
section
/-! DEFINITION. The Solrov fabric's rows: the link, requests at their targets, responses at their sources, the MOVER's Solrov
commands, and dead targets (R398 to R431), with COH_FLUSH and the accesses of control cores (R439, R459). -/
namespace Sys2Proof.Machine

/-! ### The link -/

/-- SOLROV_MODE_ENTER (R398): a write of SLP_CFG. -/
def execSolrovModeEnter (rq : Requester) (c : Nat) (v : Word) (s : State) : Host.Outcome State Fault Refusal :=
  .next (s.onWrite rq c Reg.SLP_CFG v fun s => (s.store c Reg.SLP_CFG v).syncSolrov c)

/-- FLIT (R399, R400). -/
def execFlit (c : Nat) (data : List Byte) (s : State) : Host.Outcome State Fault Refusal := .next (s.rxFlit c data)

/-- REPLAY_REQ (R400): the flit is checked as every flit is. -/
def execReplayReq (c : Nat) (data : List Byte) (s : State) : Host.Outcome State Fault Refusal :=
  .next (if !s.solMode c || !(s.link c).up then s
    else match flitCheck data with
      | none => s.badFlit c
      | some (b, n) =>
        let h := recNat b 0 8
        (s.when (n != 0) fun s => s.fecCorrected c n).when (nfld h 1 0 == 2) fun s => s.gotReplayReq c h)

/-- A link comes up: after a retrain as it was, else as a new link with the credits that each receiver grants (R401, R402). -/
def SlpLink.comeUp (l : SlpLink) : SlpLink :=
  if l.retraining then { l with up := true, retraining := false } else { freshLink with up := true, out := l.out }

/-- SOLROV_LINK (R402): the link loses alignment and retrains, or comes up and replays. -/
def execSolrovLink (c : Nat) (up : Bool) (s : State) : Host.Outcome State Fault Refusal :=
  .next (if !s.solMode c || (s.link c).up == up then s
    else if up then
      (((s.updLink c SlpLink.comeUp).evtPriv (slpPage c) 2 0xA2 1 c).replayFlits c).pumpLink c
    else (s.updLink c fun l => { l with up := false, retraining := true }).evtPriv (slpPage c) 2 0xA2 0 c)

/-! ### Requests at their target (R408 to R413, R417, R421, R422) -/

/-- Whether requests that have arrived for a channel are taken: while its SLP accepts work, or where none of the channel's units serves
and it answers NAK (R7, R403; log entry 61). -/
def State.slpTakes (s : State) (c : Nat) : Bool := !s.serves c || s.ready (slpPage c)

/-- Takes the first message of an MTYPE. -/
def State.onMsg (s : State) (c mtype : Nat) (f : State → SMsg → State) : State :=
  match s.takeMsg c mtype with
  | (s1, none) => s1
  | (s1, some m) => f s1 m

/-- A LOAD, STORE or ATOMIC at its target: refused, or performed. -/
def State.targetAccess (s : State) (c right : Nat) (m : SMsg) : State :=
  match s.rackCheck c m m.span [right] with
  | some x => s.refuseRack c m x
  | none => s.homeServe c m

/-- The row of a LOAD, STORE or ATOMIC: a request that passes its checks waits until no host holds what it touches (R477). -/
def State.accessRow (s : State) (c mtype right : Nat) : State :=
  match (s.slp c).inbox.find? fun x => x.2.mtype == mtype with
  | none => s
  | some x => s.when (s.slpTakes c) fun s =>
    let touch : List Touch := match s.rackCheck c x.2 x.2.span [right] with
      | some _ => []
      | none => [(rackT1 x.2.addr, x.2.span, decide (mtype ≠ 1))]
    s.afterSnoops touch fun s => s.onMsg c mtype fun s m => s.targetAccess c right m

/-- LOAD (R410, R412). -/
def execLoad (c : Nat) (s : State) : Host.Outcome State Fault Refusal := .next (s.accessRow c 0x01 16)

/-- STORE (R410, R412). -/
def execStore (c : Nat) (s : State) : Host.Outcome State Fault Refusal := .next (s.accessRow c 0x02 17)

/-- RACK_ATOMIC (R410, R413). -/
def execRackAtomic (c : Nat) (s : State) : Host.Outcome State Fault Refusal := .next (s.accessRow c 0x03 18)

/-- NMO (R417, R418): the unit takes the message while it accepts work (R7). -/
def execNmo (c : Nat) (s : State) : Host.Outcome State Fault Refusal :=
  .next (s.when (s.ready ⟨.nmo, c⟩ && s.slpTakes c) fun s => s.onMsg c 0x04 fun s m => s.nmoArrives c m)

/-- NMO_START (R418). -/
def execNmoStart (c : Nat) (s : State) : Host.Outcome State Fault Refusal := .next (s.nmoNext c)

/-- What an operation touches in all. -/
def NmoOp.touches (o : NmoOp) : List Touch :=
  let m := o.msg
  (rackT1 m.addr, nmoBytes m, decide (nmoNop m ≤ 2)) ::
    (if nmoNop m = 2 ∨ nmoNop m = 3 then [(rackT1 (nmoOther m), nmoLen m, false)] else [])

/-- NMO_DONE (R418 to R420), once no host holds what the operation touches (R477). -/
def execNmoDone (c k : Nat) (s : State) : Host.Outcome State Fault Refusal :=
  .next (match (s.nmo c).running[k]? with
    | none => s
    | some o => s.afterSnoops o.touches fun s => s.nmoEnd c k)

/-- An entry of a receive queue (R421): a MSG carries no length but its data slots'. -/
def rxqEntry (m : SMsg) (tod : Nat) : List Byte :=
  let n := 32 * (m.lenM1 + 1)
  padTo 256 (leBytes 8 (fieldAt 0 16 m.w1c + fieldAt 16 7 m.srcSlot + fieldAt 23 4 m.srcCh + fieldAt 32 8 n) ++ leBytes 8 tod ++
    List.replicate 16 0 ++ padTo n m.data)

/-- A MSG at its receive queue (R421). -/
def State.msgArrives (s : State) (c : Nat) (m : SMsg) : State :=
  let q := m.addr % 256
  let size := 2 ^ s.rdF c Reg.SLP_RXQ_CFG 5 1 q
  let t := s.rdN c Reg.SLP_RXQ_TAIL q
  if s.enabledCh c && !s.serves c then s.sendNak c m 0xA1
  else if !s.enabledCh c || !s.rdB c Reg.SLP_RXQ_CFG 0 q || m.key != s.rdN c Reg.SLP_RXQ_KEY q then s.sendNak c m 0xA0
  else if ringFull size (s.rdN c Reg.SLP_RXQ_HEAD q) t then s.sendNak c m 0xA6
  else
    ((s.vwrite (s.rd64 c Reg.SLP_RXQ_BASE_LO q + 256 * t) (rxqEntry m s.stamp) (s.rdF c Reg.SLP_RXQ_CFG 25 16 q)).wr c
      Reg.SLP_RXQ_TAIL (lo32 ((t + 1) % size)) q).replyTo c m (m.reply 0x15 0)

/-- MSG (R421). -/
def execMsg (c : Nat) (s : State) : Host.Outcome State Fault Refusal :=
  .next (s.when (s.slpTakes c) fun s => s.onMsg c 0x05 fun s m => s.msgArrives c m)

/-- Whether an IN ring has room for a record with the PAD that it needs (R162). -/
def State.xrInRoom (s : State) (c r n : Nat) : Bool :=
  let size := s.xrSize c r
  let t := s.rdN c Reg.ATN_XR_TAIL r
  let used := (t + size - s.rdN c Reg.ATN_XR_HEAD r) % size
  decide (used + (if size < t + n then size - t else 0) + n + 64 ≤ size)

/-- Writes a record into an IN ring at TAIL, after the PAD that fills the end of the ring (R162). -/
def State.xrInPut (s : State) (c r : Nat) (bs : List Byte) : State :=
  let size := s.xrSize c r
  let base := s.rd64 c Reg.ATN_XR_BASE_LO r
  let t := s.rdN c Reg.ATN_XR_TAIL r
  let p := if size < t + bs.length then size - t else 0
  let s1 := s.when (p != 0) fun s => s.vwrite (base + t) (xrHdr 0 0 0 0 0 0 0 0 0 p) (s.xrJob c r)
  let t1 := if p = 0 then t else 0
  (s1.vwrite (base + t1) bs (s1.xrJob c r)).wr c Reg.ATN_XR_TAIL (lo32 ((t1 + bs.length) % size)) r

/-- The bytes of a collected record, once all its LENGTH bytes are there (R164, R422). -/
def DevRec.whole (x : DevRec) : Option (List Byte) :=
  let len := recNat (x.parts.at 0) 0x18 4
  let bs := x.parts.flatMap Prod.snd
  if 0 < len ∧ len ≤ bs.length then some (bs.take len) else none

/-- Hands whole records to their rings, and messages about requests to RQT: to one that is no enabled IN ring a record is lost, and one that is full is waited for
(DESIGN CHOICE, log entry 26). -/
def State.recsGo (s : State) (c : Nat) : State :=
  s.each (s.slp c).recs fun s x => match x.whole with
    | none => s
    | some bs =>
      let done := fun (s : State) => s.updSlp c fun y => { y with recs := y.recs.erase x }
      if x.ring = devRing then (done s).devRecord c x.slot bs
      else if !s.xrIs c x.ring 0 then done s
      else if s.xrInRoom c x.ring bs.length then done ((s.noteHome c x.slot bs).xrInPut c x.ring (s.ownQuery c x.slot bs))
      else s

/-- A fragment joins its record. -/
def State.addPart (s : State) (c : Nat) (m : SMsg) : State :=
  let id := nfld m.addr 47 32
  let off := 32 * nfld m.addr 31 8
  let bs := padTo (32 * (m.lenM1 + 1)) m.data
  let same := fun (x : DevRec) => x.slot == m.srcSlot && x.ch == m.srcCh && x.id == id
  s.updSlp c fun y =>
    { y with recs := if y.recs.any same then y.recs.map fun x => if same x then { x with parts := x.parts.set off bs } else x
                     else y.recs ++ [⟨m.srcSlot, m.srcCh, id, m.addr % 256, SMap.set [] off bs⟩] }

/-- DEV_MSG_DROPPED, once per slot and day (R422, R429). -/
def State.devDropped (s : State) (c slot : Nat) : State :=
  let s1 := s.bump c Reg.SLP_DEVMSG_DROP_CNT
  if (s.slp c).devPosted.contains slot then s1
  else (s1.updSlp c fun x => { x with devPosted := x.devPosted ++ [slot] }).evtPriv (slpPage c) 4 0xA4 0 slot

/-- DEV_MSG (R422): collected, or dropped where the slot is no peer. -/
def execDevMsg (c : Nat) (s : State) : Host.Outcome State Fault Refusal :=
  .next (s.when (s.slpTakes c) fun s => s.onMsg c 0x06 fun s m =>
    if s.enabledCh c && !s.serves c then s.sendNak c m 0xA1
    else if s.rdB c Reg.SLP_CFG 1 && (s.slotWord c m.srcSlot).testBit 5 then
      ((s.addPart c m).sendMsg c (m.reply 0x15 0)).recsGo c
    else (s.devDropped c m.srcSlot).sendNak c m 0xA0)

/-! ### Solrov commands (R415, R416, R427) -/

/-- The commands of a channel that await responses. -/
def State.cmdsOut (s : State) (c : Nat) : Nat :=
  let isCmd := fun (u : TagUse) => match u with
    | .cmd _ => true
    | _ => false
  let ag := s.ccx (s.ownAgent c)
  ((s.slp c).tags.filter fun t => t.2.live && !t.2.quar && isCmd t.2.use).length + ((s.slp c).order.filter fun o => isCmd o.use).length +
    (if s.cohOn c then (ag.accs.filter fun x => x.ch == c && isCmd x.use).length + (ag.flushes.filter fun f => f.ch == c).length else 0)

/-- A store goes out: to the agent where it is coherent, or under a tag; and the number under which later ordered stores wait for
it. -/
def State.storeOut (s : State) (c job : Nat) (m : SMsg) (use : TagUse) : (State × Sent) × Nat :=
  let r := (runsOf m.enabled).headD (0, [])
  let a := m.addr + r.1
  if s.coherentAt c a r.2.length then
    (s.cacheIssue c job 1 a r.2 r.2.length 0 0 0 use, 16384 + (s.ccx (s.ownAgent c)).nextAcc)
  else (s.issue c job a r.2.length m use, s.freeTag c)

/-- The stores of a channel and job that have not been answered (R415). -/
def State.openStores (s : State) (c job : Nat) : List Nat :=
  ((s.slp c).tags.filter fun t => t.2.live && !t.2.quar && t.2.mtype == 0x02 && t.2.job == job).map Prod.fst ++
    (if s.cohOn c then
      (((s.ccx (s.ownAgent c)).accs.filter fun x => x.ch == c && x.kind == 1 && x.job == job).map fun x => 16384 + x.num) else []) ++
    ((s.slp c).order.filter fun o => o.job == job).map OrdStore.num

/-- A Solrov command ends with a status. -/
def State.solEnd (s : State) (c : Nat) (cmd : Cmd) (st : Nat) : State := s.complete c cmd st (solPayload cmd.op st [])

/-- After a command's message was formed: the engine is free, or the command has ended. -/
def State.solSent (x : State × Sent) (c : Nat) (cmd : Cmd) : State :=
  match x.2 with
  | .refused st => x.1.solEnd c cmd st
  | _ => x.1.handOver c cmd

/-- ORDERED and unordered stores of a command (R415, R416). -/
def State.solStore (s : State) (c : Nat) (cmd : Cmd) (m : SMsg) : State :=
  let job := cmd.job
  let plain := fun (s : State) =>
    match s.storeOut c job m (.cmd cmd) with
    | ((s1, .refused st), n) => (s1.storeDone c job n true).solEnd c cmd st
    | (x, _) => State.solSent x c cmd
  if !m.ordered then plain s
  else
    let waits := s.openStores c job
    let bad := (s.slp c).orderBad.contains job
    let s1 := s.updSlp c fun x => { x with orderBad := x.orderBad.filter fun j => j != job }
    if waits = [] then
      if bad then (s1.bump c Reg.SLP_ORDER_BROKEN_CNT).solEnd c cmd 0xA5 else plain s1
    else if 32 ≤ (s.slp c).order.length then s.updSlp c fun x => { x with held := true }
    else
      let o : OrdStore :=
        { num := 2 ^ 32 + (s.slp c).nextOrd, msg := m, use := .cmd cmd, job := job, len := m.span, waits := waits, broken := bad }
      (s1.updSlp c fun x => { x with order := x.order ++ [o], nextOrd := x.nextOrd + 1 }).handOver c cmd

/-- Translates the address of a command and goes on with the rack address; a translation fault sets the command aside (R324). -/
def State.withRack (s : State) (c : Nat) (cmd : Cmd) (va : Nat) (write : Bool) (f : State → Nat → State) : State :=
  match s.translate c cmd.job va write with
  | (s1, .error x) => s1.faultHolder c 2 cmd x write false
  | (s1, .ok a) => if inRack a then f s1 a else s1.solEnd c cmd 0xA1

/-- Whether parts of a range follow one another. -/
def adjoining : List (Nat × Nat) → Bool
  | (a, n) :: (b, k) :: l => b == a + n && adjoining ((b, k) :: l)
  | _ => true

/-- Translates a whole range of a command and goes on with its first rack address: every part passes the job's regions (R322, R409). One
whose pages do not follow one another in rack space is no range that a message can name, and ends with BAD_ADDRESS, as one outside rack
space does (DESIGN CHOICE, log entry 27). -/
def State.withRacks (s : State) (c : Nat) (cmd : Cmd) (va n : Nat) (write : Bool) (f : State → Nat → State) : State :=
  match s.translateRange c cmd.job va n write (n / 4096 + 2) with
  | (s1, .error x) => s1.faultHolder c 2 cmd x write false
  | (s1, .ok []) => s1.withRack c cmd va write f
  | (s1, .ok ((a, k) :: l)) =>
    if adjoining ((a, k) :: l) && inRack a && decide (a + n ≤ rackEnd) then f s1 a else s1.solEnd c cmd 0xA1

/-- SOLROV_STORE on the MOVER. -/
def State.actStore (s : State) (c : Nat) (cmd : Cmd) : State :=
  let va := recNat cmd.payload 0 8
  let w := recNat cmd.payload 8 4
  let n := nfld w 7 0
  if !([8, 16, 32, 64, 128].contains n) || va % n != 0 then s.solEnd c cmd 0x0A
  else s.withRack c cmd va true fun s a =>
    s.solStore c cmd (storeMsg a (padTo n ((cmd.payload.drop 16).take n)) (w.testBit 8) false)

/-- SOLROV_ATOMIC on the MOVER. -/
def State.actAtomic (s : State) (c : Nat) (cmd : Cmd) : State :=
  let aop := recNat cmd.payload 8 1 % 4
  let op0 := recNat cmd.payload 16 8
  let op1 := recNat cmd.payload 24 8
  s.withRack c cmd (recNat cmd.payload 0 8) true fun s a =>
    if s.coherentAt c a 8 then
      if a % 8 ≠ 0 ∨ aop = 3 then s.solEnd c cmd 0xA2
      else State.solSent (s.cacheIssue c cmd.job 2 a [] 8 aop op0 op1 (.cmd cmd)) c cmd
    else
      let m : SMsg := { (default : SMsg) with
        mtype := 0x03, addr := a, data := padTo 32 (leBytes 8 aop ++ leBytes 8 op0 ++ leBytes 8 op1) }
      State.solSent (s.issue c cmd.job a 8 m (.cmd cmd)) c cmd

/-- SOLROV_NMO on the MOVER. -/
def State.actNmo (s : State) (c : Nat) (cmd : Cmd) : State :=
  let d := padTo 32 ((cmd.payload.drop 8).take 32)
  let m : SMsg := { (default : SMsg) with mtype := 0x04, data := d }
  let write := decide (nmoNop m = 1 ∨ nmoNop m = 2)
  let send := fun (s : State) (a : Nat) (d : List Byte) =>
    State.solSent (s.issue c cmd.job a (nmoBytes m) { m with addr := a, data := d } (.cmd cmd)) c cmd
  s.withRacks c cmd (recNat cmd.payload 0 8) (nmoBytes m) write fun s a =>
    if nmoNop m = 2 ∨ nmoNop m = 3 then
      s.withRacks c cmd (nmoOther m) (nmoLen m) false fun s b => send s a (d.take 8 ++ leBytes 8 b ++ d.drop 16)
    else send s a d

/-- SOLROV_MSG on the MOVER (R421, R427). -/
def State.actMsg (s : State) (c : Nat) (cmd : Cmd) : State :=
  let w := recNat cmd.payload 0 8
  let rack := nfld w 15 0
  let slot := nfld w 22 16
  let n := recNat cmd.payload 12 1
  let k := ceilDiv n 32
  let m : SMsg := { (default : SMsg) with
    mtype := 0x05, dstSlot := slot, dstCh := nfld w 27 24, addr := nfld w 39 32, rack := rack,
    w10 := fieldAt 14 3 (k - 1) + fieldAt 20 10 cmd.job, key := recNat cmd.payload 8 4, w1c := s.selfRack c,
    data := padTo (32 * k) ((cmd.payload.drop 16).take n) }
  if n = 0 ∨ 192 < n then s.solEnd c cmd 0x0A
  else if rack = s.selfRack c then State.solSent (s.sendRequest c m (.cmd cmd) cmd.job n) c cmd
  else match s.msgPort c with
  | none => s.solEnd c cmd 0x97
  | some p =>
    let t : STag := { (default : STag) with
      use := .cmd cmd, mtype := 0x05, slot := 128 + slot, ch := m.dstCh, addr := m.addr, len := n, job := cmd.job,
      epoch := s.pln.active.epoch, at_ := s.tim.now }
    let (s1, k) := s.takeTag c t
    (s1.sendUnder c k p { m with srcSlot := s.selfSlot c, srcCh := c }).handOver c cmd

/-- COH_FLUSH on the MOVER (R459): the lines of the range leave the agent of the issuing member. -/
def State.actFlush (s : State) (c : Nat) (cmd : Cmd) : State :=
  let va := recNat cmd.payload 0 8
  let n := recNat cmd.payload 8 8
  if va % 128 ≠ 0 ∨ n % 128 ≠ 0 then s.solEnd c cmd 0x0A
  else match s.translateRange c cmd.job va n false (n / 4096 + 2) with
    | (s1, .error x) => s1.faultHolder c 2 cmd x false false
    | (s1, .ok ps) =>
      if !(ps.all fun p => inRack p.1 && (s.cohEntry c p.1 p.2).isSome) then s1.solEnd c cmd 0xA1
      else if !(ps.all fun p => (s.remoteKey c cmd.job p.1 p.2).isSome) then s1.solEnd c cmd 0xA7
      else
        let a := s1.ownAgent c
        let gs := ((s1.ccx a).lines.filter fun l => l.2.st != .i && l.2.st != .isD && l.2.st != .imD &&
          ps.any fun p => decide (p.1 ≤ 128 * l.1) && decide (128 * l.1 < p.1 + p.2)).map Prod.fst
        ((s1.handOver c cmd).updCcx a fun x => { x with flushes := x.flushes ++ [⟨cmd, c, gs⟩] }).agentGo a

/-- A Solrov command that has the MOVER forms its messages; with 256 commands awaiting responses it waits (R427). -/
def State.solAct (s : State) (c : Nat) (cmd : Cmd) : State :=
  if 256 ≤ s.cmdsOut c then s.updSlp c fun x => { x with held := true }
  else
    let s1 := s.updSlp c fun x => { x with held := false }
    let s2 := match cmd.op with
      | 0x0A0 => s1.actStore c cmd
      | 0x0A1 => s1.actAtomic c cmd
      | 0x0A2 => s1.actNmo c cmd
      | 0x0A3 => s1.actMsg c cmd
      | _ => s1.actFlush c cmd
    s2.when (s2.cohOn c) fun s => s.agentGo (s.ownAgent c)

/-- A Solrov command takes the MOVER, or waits for it in its lane (R310, R311, R427). -/
def State.onMover (s : State) (c : Nat) (cmd : Cmd) : State :=
  let s1 := s.occupy c 2 cmd
  s1.when (s1.enabledCh c && (s1.engine c 2).holder == some cmd) fun s => s.solAct c cmd

/-- A command that held the MOVER for want of a place tries again. -/
def State.retryHeld (s : State) (c : Nat) : State :=
  if (s.slp c).held then
    match (s.engine c 2).holder with
    | some cmd => s.solAct c cmd
    | none => s.updSlp c fun x => { x with held := false }
  else s

/-- SOLROV_STORE (R427). -/
def execSolrovStore (c : Nat) (cmd : Cmd) (s : State) : Host.Outcome State Fault Refusal :=
  .next (s.onMover c { cmd with op := 0x0A0 })

/-- SOLROV_ATOMIC (R427). -/
def execSolrovAtomic (c : Nat) (cmd : Cmd) (s : State) : Host.Outcome State Fault Refusal :=
  .next (s.onMover c { cmd with op := 0x0A1 })

/-- SOLROV_NMO (R427). -/
def execSolrovNmo (c : Nat) (cmd : Cmd) (s : State) : Host.Outcome State Fault Refusal :=
  .next (s.onMover c { cmd with op := 0x0A2 })

/-- SOLROV_MSG (R427). -/
def execSolrovMsg (c : Nat) (cmd : Cmd) (s : State) : Host.Outcome State Fault Refusal :=
  .next (s.onMover c { cmd with op := 0x0A3 })

/-- COH_FLUSH (R459). -/
def execCohFlush (c : Nat) (cmd : Cmd) (s : State) : Host.Outcome State Fault Refusal :=
  .next (s.onMover c { cmd with op := 0x0A4 })

/-- The oldest ordered store that waits for nothing is sent, or completes ORDER_BROKEN (R416). -/
def State.ordNext (s : State) (c : Nat) : State :=
  match (s.slp c).order.find? fun o => o.waits.isEmpty with
  | none => s
  | some o =>
    let s1 := s.updSlp c fun x => { x with order := x.order.erase o }
    let t : STag := { (default : STag) with use := o.use, mtype := 0x02, job := o.job, len := o.len }
    if o.broken then ((s1.bump c Reg.SLP_ORDER_BROKEN_CNT).storeDone c o.job o.num false).answerUse c t 0xA5 [] false
    else match s1.storeOut c o.job o.msg o.use with
      | ((s2, .refused st), _) => (s2.storeDone c o.job o.num true).answerUse c t st [] false
      | ((s2, _), n) => s2.updSlp c fun x =>
          { x with order := x.order.map fun y => { y with waits := y.waits.map fun k => if k = o.num then n else k } }

/-- ORDERED_STORE_SEND (R416). -/
def execOrderedStoreSend (c : Nat) (s : State) : Host.Outcome State Fault Refusal :=
  .next (let s1 := s.ordNext c
    (s1.when (s1.cohOn c) fun s => s.agentGo (s.ownAgent c)).retryHeld c)

/-! ### Responses at their source -/

/-- Takes a response of an MTYPE. -/
def State.onRsp (s : State) (c mtype : Nat) : State :=
  ((s.onMsg c mtype fun s m => (s.when (mtype == 0x14) fun s => s.bump c Reg.SLP_NAK_RX_CNT).gotResponse c m m.status m.poison).retryHeld c).cutOpens c

/-- LOAD_RSP (R412). -/
def execLoadRsp (c : Nat) (s : State) : Host.Outcome State Fault Refusal := .next (s.onRsp c 0x10)

/-- STORE_ACK (R412). -/
def execStoreAck (c : Nat) (s : State) : Host.Outcome State Fault Refusal := .next (s.onRsp c 0x11)

/-- ATOMIC_RSP (R413). -/
def execAtomicRsp (c : Nat) (s : State) : Host.Outcome State Fault Refusal := .next (s.onRsp c 0x12)

/-- NMO_RSP (R420). -/
def execNmoRsp (c : Nat) (s : State) : Host.Outcome State Fault Refusal := .next (s.onRsp c 0x13)

/-- NAK (R410). -/
def execNak (c : Nat) (s : State) : Host.Outcome State Fault Refusal := .next (s.onRsp c 0x14)

/-- MSG_ACK (R421). -/
def execMsgAck (c : Nat) (s : State) : Host.Outcome State Fault Refusal := .next (s.onRsp c 0x15)

/-! ### Dead targets (R423 to R426, R458) -/

/-- SOLROV_STALL (R424): time passes until the report of the slot is due. -/
def execSolrovStall (c slot : Nat) (s : State) : Host.Outcome State Fault Refusal := .next (s.reportStall c slot)

/-- The word of SLP_ABANDON. -/
def abandonWord (slot bit : Nat) (all : Bool) : Word := BitVec.ofNat 32 (fieldAt 0 7 slot + 2 ^ bit + fieldAt 31 1 (b2n all))

/-- The channels that a write of SLP_ABANDON applies to. -/
def State.abandonChans (s : State) (c : Nat) (all : Bool) : List Nat := if all then s.channels else [c]

/-- ABANDON (R425); at an arbitrating channel it also ends what waits for a dead home (R458). -/
def execAbandon (rq : Requester) (c slot : Nat) (all : Bool) (s : State) : Host.Outcome State Fault Refusal :=
  .next (s.onWrite rq c Reg.SLP_ABANDON (abandonWord slot 8 all) fun s =>
    s.each (s.abandonChans c all) fun s k =>
      ((((s.abandonSlot k (slot % 128)).homeGone k (slot % 128)).retryHeld k).cutOpens k).losesShards k fun m =>
        s.memberSlot k m == slot % 128)

/-- SLP_REVIVE (R426). -/
def execSlpRevive (rq : Requester) (c slot : Nat) (all : Bool) (s : State) : Host.Outcome State Fault Refusal :=
  .next (s.onWrite rq c Reg.SLP_ABANDON (abandonWord slot 9 all) fun s =>
    s.each (s.abandonChans c all) fun s k =>
      if s.slotDead k (slot % 128) then s.reviveSlot k (slot % 128)
      else s.logIgnored (slpPage k) 0x110 (abandonWord slot 9 all))

/-! ### Control cores (R439) -/

/-- What becomes of a part of a core's access at once. -/
def State.coreSent (x : State × Sent) (core off n : Nat) : State :=
  match x.2 with
  | .ok => x.1
  | .refused st => x.1.emit (.msg "CORE_ACCESS" [core, off, st, 0] [])
  | .poison => x.1.emit (.msg "CORE_ACCESS" [core, off, 0, 1] (List.replicate n 0))

/-- The parts of a range that no boundary of `k` bytes cuts. -/
def cutAt (k a n : Nat) : Nat → List (Nat × Nat)
  | 0 => []
  | fuel + 1 => if n = 0 then [] else (a, min n (k - a % k)) :: cutAt k (a + min n (k - a % k)) (n - min n (k - a % k)) fuel

/-- The parts of a core's access, and whether each is coherent: regions are aligned to 4 KiB (R436), so no page of 4 KiB is both. A
coherent page is cut at its granules, a plain one at 256 bytes. -/
def State.coreParts (s : State) (c a n : Nat) : List (Nat × Nat × Bool) :=
  (cutAt 4096 a n (n / 4096 + 2)).flatMap fun p =>
    if s.coherentAt c p.1 p.2 then (cutAt 128 p.1 p.2 (p.2 / 128 + 2)).map fun q => (q.1, q.2, true)
    else (pieces256 p.1 p.2 (p.2 / 256 + 2)).map fun q => (q.1, q.2, false)

/-- One part of a core's access: through the member's agent if it is coherent, else as a request. -/
def State.corePart (s : State) (c core job addr : Nat) (write : Bool) (data : List Byte) (p : Nat × Nat × Bool) : State :=
  let off := p.1 - addr
  let bs := (data.drop off).take p.2.1
  if p.2.2 then State.coreSent (s.cacheIssue c job (b2n write) p.1 bs p.2.1 0 0 0 (.core core off 0)) core off p.2.1
  else
    let m := if write then storeMsg p.1 bs false false else loadMsg p.1 p.2.1
    State.coreSent (s.issue c job p.1 p.2.1 m (.core core off (p.1 % 32))) core off p.2.1

/-- CONTROL_CORE_ACCESS (R423, R439): a coherent access goes through the member's agent, one granule at a time; a plain one is sent
as requests. The core stalls until its parts have been answered. -/
def execControlCoreAccess (c core job addr n : Nat) (write : Bool) (data : List Byte) (s : State) : Host.Outcome State Fault Refusal :=
  let len := if write then data.length else n
  let parts := s.coreParts c addr len
  .next (if !s.enabledCh c || !(inRack addr && decide (addr + len ≤ rackEnd)) then s
    else (s.each parts fun s p => s.corePart c core job addr write data p).when (parts.any fun p => p.2.2) fun s =>
      s.agentGo (s.ownAgent c))

end Sys2Proof.Machine
end

