-- ==== Sys2Proof/Machine/Aes.lean ====
section
/-! DEFINITION. AES-256 in Galois/Counter mode, the seal of Kweuz packets (R347, R348): FIPS 197 and NIST SP 800-38D, which the rule
names. -/
namespace Sys2Proof.Machine

/-! ### The block cipher (FIPS 197) -/

/-- The substitution box by rows of 16: byte `i` of a row is entry 16 × row + `i`. -/
def sboxRows : List Nat :=
  [0x76ABD7FE2B670130C56F6BF27B777C63, 0xC072A49CAFA2D4ADF04759FA7DC982CA, 0x1531D871F1E5A534CCF73F362693FDB7,
    0x75B227EBE28012079A059618C323C704, 0x842FE329B3D63B52A05A6E1B1A2C8309, 0xCF584C4A39BECB6A5BB1FC20ED00D153,
    0xA89F3C507F02F94585334D43FBAAEFD0, 0xD2F3FF1021DAB6BCF5389D928F40A351] ++
  [0x73195D643D7EA7C41744975FEC130CCD, 0xDB0B5EDE14B8EE4688902A22DC4F8160, 0x79E4959162ACD3C25C2406490A3A32E0,
    0x08AE7A65EAF4566CA94ED58D6D37C8E7, 0x8A8BBD4B1F74DDE8C6B4A61C2E2578BA, 0x9E1DC186B95735610EF6034866B53E70,
    0xDF2855CEE9871E9B948ED9691198F8E1, 0x16BB54B00F2D99416842E6BF0D89A18C]

/-- SubBytes of one byte. -/
def sbox (b : Nat) : Nat := (sboxRows.getD (b / 16) 0 >>> (8 * (b % 16))) % 256

/-- A byte times x in the field of AES. -/
def xtime (b : Nat) : Nat := if 128 ≤ b then (2 * b) ^^^ 0x11B else 2 * b

/-- The exclusive or of two lists of bytes. -/
def xorBytes (a b : List Nat) : List Nat := a.zipWith (fun x y => x ^^^ y) b

/-- The next word of the key schedule of a 256-bit key, before the words so far, newest first; `i` is its number. -/
def nextWord (ws : List (List Nat)) (i : Nat) : List (List Nat) :=
  let t := ws.headD []
  let rot := t.drop 1 ++ t.take 1
  let u := if i % 8 = 0 then xorBytes (rot.map sbox) [2 ^ (i / 8 - 1), 0, 0, 0] else if i % 8 = 4 then t.map sbox else t
  xorBytes (ws.getD 7 []) u :: ws

/-- The 60 words of the key schedule. -/
def keyWords (key : List Nat) : List (List Nat) :=
  let first := (List.range 8).map fun i => (key.drop (4 * i)).take 4
  (((List.range 52).map fun i => i + 8).foldl nextWord first.reverse).reverse

/-- ShiftRows: byte `i` stands in row `i` mod 4 of column `i` / 4. -/
def shiftRows (s : List Nat) : List Nat := (List.range 16).map fun i => s.getD (5 * i % 16) 0

/-- MixColumns of one column. -/
def mixColumn (s : List Nat) (k : Nat) : List Nat :=
  let at_ := fun (r : Nat) => s.getD (4 * k + r % 4) 0
  (List.range 4).map fun r => xtime (at_ r) ^^^ (xtime (at_ (r + 1)) ^^^ at_ (r + 1)) ^^^ at_ (r + 2) ^^^ at_ (r + 3)

/-- MixColumns. -/
def mixColumns (s : List Nat) : List Nat := (List.range 4).flatMap (mixColumn s)

/-- The key of a round. -/
def roundKey (ws : List (List Nat)) (r : Nat) : List Nat := ((ws.drop (4 * r)).take 4).flatMap id

/-- AES-256 of one block under a key schedule. -/
def aesBlock (ws : List (List Nat)) (b : List Nat) : List Nat :=
  let mid := (List.range 13).foldl (fun s r => xorBytes (mixColumns (shiftRows (s.map sbox))) (roundKey ws (r + 1)))
    (xorBytes b (roundKey ws 0))
  xorBytes (shiftRows (mid.map sbox)) (roundKey ws 14)

/-! ### Galois/Counter mode (NIST SP 800-38D) -/

/-- The number that bytes spell, the first the most significant. -/
def beNum (l : List Nat) : Nat := l.foldl (fun a b => 256 * a + b) 0

/-- A number as `n` bytes, the most significant first. -/
def beList (n v : Nat) : List Nat := ((List.range n).map fun i => v / 256 ^ i % 256).reverse

/-- The product of two blocks: the most significant bit of a block is the coefficient of x^0. -/
def gmul (x y : Nat) : Nat :=
  ((List.range 128).foldl (fun (p : Nat × Nat) i =>
    (if x.testBit (127 - i) then p.1 ^^^ p.2 else p.1, if p.2 % 2 = 1 then (p.2 / 2) ^^^ (0xE1 * 2 ^ 120) else p.2 / 2)) (0, y)).1

/-- The blocks of bytes, the last filled with zeros. -/
def gblocks (l : List Nat) : List Nat :=
  (List.range ((l.length + 15) / 16)).map fun i =>
    let b := (l.drop (16 * i)).take 16
    beNum b * 256 ^ (16 - b.length)

/-- The counter block `i` of an IV of 96 bits; 1 masks the tag. -/
def ctrBlock (iv : List Nat) (i : Nat) : List Nat := iv ++ beList 4 i

/-- Bytes under the key stream. -/
def gctr (ws : List (List Nat)) (iv l : List Nat) : List Nat :=
  (List.range ((l.length + 15) / 16)).flatMap fun i => xorBytes ((l.drop (16 * i)).take 16) (aesBlock ws (ctrBlock iv (i + 2)))

/-- The tag over additional data and a ciphertext. -/
def gcmTag (ws : List (List Nat)) (iv aad ct : List Nat) : List Nat :=
  let h := beNum (aesBlock ws (List.replicate 16 0))
  let x := (gblocks aad ++ gblocks ct ++ [8 * aad.length * 2 ^ 64 + 8 * ct.length]).foldl (fun y b => gmul (y ^^^ b) h) 0
  xorBytes (beList 16 x) (aesBlock ws (ctrBlock iv 1))

/-- Bytes as numbers, and back. -/
def natsOf (l : List Byte) : List Nat := l.map BitVec.toNat
def bytesOfNats (l : List Nat) : List Byte := l.map (BitVec.ofNat 8)

/-! ### The seal of a packet (R347) -/

/-- The IV of a packet: the salt in bytes 0 to 3 and IV_CTR in bytes 4 to 11, both little-endian. -/
def kweuzIv (salt ctr : Nat) : List Nat := natsOf (leBytes 4 salt ++ leBytes 8 ctr)

/-- The key schedule of a connection's key, whose bytes stand as in the context. -/
def kweuzKey (key : Nat) : List (List Nat) := keyWords (natsOf (leBytes 32 key))

/-- The ciphertext and the tag of a packet with its headers and its payload. -/
def kweuzSeal (key salt ctr : Nat) (hdr pay : List Byte) : List Byte × List Byte :=
  let ws := kweuzKey key
  let iv := kweuzIv salt ctr
  let ct := gctr ws iv (natsOf pay)
  (bytesOfNats ct, bytesOfNats (gcmTag ws iv (natsOf hdr) ct))

/-- The payload of a packet whose tag verifies. -/
def kweuzOpen (key salt ctr : Nat) (hdr ct tag : List Byte) : Option (List Byte) :=
  let ws := kweuzKey key
  let iv := kweuzIv salt ctr
  if gcmTag ws iv (natsOf hdr) (natsOf ct) = natsOf tag then some (bytesOfNats (gctr ws iv (natsOf ct))) else none

end Sys2Proof.Machine
end

