-- ==== Sys2Proof/Machine/Frames.lean ====
section
/-! DEFINITION. What a port in Ethernet mode receives and sends, the work requests of send queues, the context commands, and
the timers of connections (R338 to R380). -/
namespace Sys2Proof.Machine

/-! ### Other frames (R338, R339, R341) and PTP (R19, R20) -/

/-- The counter of a frame that is dropped. -/
def frameCnt : FrameFault → RegId
  | .malformed => Reg.KWP_MALFORMED_CNT
  | .fcs => Reg.KWP_FCS_CNT
  | .uncorrectable => Reg.KWP_FEC_UNCORR_CNT
  | .pause => Reg.KWP_PAUSE_CNT
  | .other => Reg.KWP_OTHER_CNT

/-- ETHERNET_FRAME (R339): the frame is dropped and counted. -/
def execEthernetFrame (c : Nat) (why : FrameFault) (s : State) : Host.Outcome State Fault Refusal :=
  .next (s.when (s.ethMode c) fun s => s.bump c (frameCnt why))

/-- Whether PTP runs on a port (R19, R50). -/
def State.ptpOn (s : State) (c : Nat) : Bool := s.rdB 0 Reg.PTP_CFG 4 && s.rdF 0 Reg.PTP_CFG 3 0 == c && s.ethMode c

/-- A Sync message that leaves in one step carries its time of transmission (R18, R50): messageType 0, and originTimestamp in bytes 34
to 43 of the message, 48 bits of seconds and 32 of nanoseconds, most significant byte first (PRESUMED, IEEE 1588, log entry 54). -/
def State.oneStep (s : State) (egress : Bool) (data : List Byte) : List Byte :=
  if egress && s.rdB 0 Reg.PTP_CFG 11 && recNat data 0 1 % 16 == 0 && decide (44 ≤ data.length) then
    data.take 34 ++ (leBytes 6 (s.tim.tod / 1000000000)).reverse ++ (leBytes 4 (s.tim.tod % 1000000000)).reverse ++ data.drop 44
  else data

/-- Timestamps a PTP event message (R20). -/
def State.ptpStamp (s : State) (c : Nat) (egress : Bool) (data : List Byte) : State :=
  s.emit (.msg "PTP_TIMESTAMP" [c, b2n egress, s.tim.tod] (s.oneStep egress data))

/-- A PTP message to be sent: it enters the first queue of its port's first interface, Not-ECT, in an Ethernet frame (R340, R389; the
interface and the frame are DESIGN CHOICES, log entry 54). -/
def ptpPkt (c : Nat) (data : List Byte) : EPkt :=
  { (default : EPkt) with bytes := data, len := 18 + data.length, dst := { (default : KPeer) with port := c }, ptp := true }

/-- PTP_MESSAGE (R18, R20, R389): a message that arrives is timestamped and handed to TIM, which the output log shows; one to be sent
enters its queue, and is timestamped as it leaves. One that arrives on another port is dropped (R339). -/
def execPtpMessage (c : Nat) (egress : Bool) (data : List Byte) (s : State) : Host.Outcome State Fault Refusal :=
  .next (if s.ptpOn c then (if egress then s.sendControl (ptpPkt c data) else s.ptpStamp c false data)
    else s.when (s.ethMode c && !egress) fun s => s.bump c Reg.KWP_OTHER_CNT)

/-! ### The context cache (R351 to R353) -/

/-- Whether a context is cached. -/
def State.cachedConn (s : State) (c k : Nat) : Bool := (s.kwp c).cache.any fun e => e.2 == k + 1

/-- Starts the fetch of a context (R351). -/
def State.startFetch (s : State) (c k : Nat) : State :=
  if (s.kwp c).fetching.contains k then s
  else (s.updKwp c fun x => { x with fetching := x.fetching ++ [k] }).bump c Reg.KWP_CTX_MISS_CNT

/-- Bytes in the miss buffer. -/
def State.missBytes (s : State) (c : Nat) : Nat := ((s.kwp c).miss.map fun m => m.2.2.len).sum

/-- The BUSY that answers a packet (R352): nothing seals it. -/
def State.busyPkt (s : State) (p : KPkt) : EPkt :=
  let path := s.answerPath p.peer true
  { bytes := kHdr 10 0 p.srcConn 0 0 s.stamp 0 0 p.dstConn ++ leBytes 4 p.psn ++ leBytes 4 0 ++ leBytes 8 p.iv, pay := [],
    len := frameLen path 10 16, dst := path.dest, vlan := path.vlan, dscp := path.dscp, sport := 0xC000 + p.dstConn % 16384,
    keys := none, ptp := false, move := none, conn := p.dstConn, psn := 0, req := 0, last := false, enter := 0 }

/-- A packet finds no room in the miss buffer: BUSY, at most BUSY_RATE times per µs, or a silent drop (R352). A BUSY is not
answered (DEDUCED, log entry 24). -/
def State.missFull (s : State) (c op : Nat) (p : KPkt) : State :=
  let us := s.tim.now / 1000
  let n := if (s.kwp c).busyUs = us then (s.kwp c).busySent else 0
  if op = 10 then s.bump c Reg.KWP_BUSY_IGN_CNT
  else if n < s.rdF c Reg.KWP_BUSY 23 16 ∧ s.txOn c = true then
    (((s.updKwp c fun x => { x with busyUs := us, busySent := n + 1 }).bump c Reg.KWP_BUSY_TX_CNT).sendControl (s.busyPkt p))
  else s.bump c Reg.KWP_MISSBUF_DROP_CNT

/-! ### Refusals (R359, R360) -/

/-- Sends a STATUS for a refused packet. -/
def State.sendStatus (s : State) (c k : Nat) (p : KPkt) (st : Nat) : State :=
  s.answer c k { newSent 8 0 (leBytes 4 p.psn ++ leBytes 4 st) with dest := some p.peer }

/-- The window key, offset and two further words of an extension header. -/
def extKey (p : KPkt) : Nat := recNat p.ext 0 8
def extOff (p : KPkt) : Nat := recNat p.ext 8 8

/-- STALE_WRITE of one end (R360). -/
def State.staleWrite (s : State) (c k job key cause : Nat) : State :=
  s.evtJob c .kwp 2 0x82 cause 0 0xFFFF job (kDetail k (keyIndex key) (keyGen key))

/-- The first refusal of a WRITE since the last FLUSH is kept (R369). -/
def State.noteRefusal (s : State) (c k st : Nat) : State :=
  s.updConn c k fun v => { v with flushErr := if v.flushErr = 0 then st else v.flushErr }

/-! ### Requests that a target serves (R362, R367, R368) -/

/-- The first window offset and the length of a WRITE's message (R362). -/
def msgStart (p : KPkt) : Nat := extOff p - recNat p.ext 0x10 4
def msgLen (p : KPkt) : Nat := recNat p.ext 0x14 4

/-- A WRITE that passed its checks is placed. -/
def State.placeWrite (s : State) (c k : Nat) (p : KPkt) (n : Nat) : State :=
  let i := keyIndex (extKey p)
  let job := (s.conn c k).job
  let l := [((s.win c i).base + extOff p, n)]
  let us := pktUnits p.pay
  let s0 := s.when (p.coded && us.any fun u => u.hdr.tag == 3) fun s => s.deferred (kwpPage c) 0x21 job ((s.win c i).base + extOff p)
  let s1 := if p.coded then s0.placeAt c job l 0 us else s0.rangesWrite job l 0 p.pay
  s1.msgCame c k (extKey p) (msgStart p) (msgLen p) n true

/-- The raw bytes that a packet's payload covers. -/
def pktRaw (p : KPkt) : Nat := if p.coded then unitsRaw (pktUnits p.pay) else p.pay.length

/-- A received WRITE (R359 to R362). -/
def State.rxWrite (s : State) (c k : Nat) (p : KPkt) : State :=
  let job := (s.conn c k).job
  match s.winCheck c job (extKey p) (extOff p) (pktRaw p) 1 with
  | none => s.placeWrite c k p (pktRaw p)
  | some st =>
    ((((s.bump c (nakReg st)).noteRefusal c k st).msgCame c k (extKey p) (msgStart p) (msgLen p) (pktRaw p) false).when
      (st == 0x91 && p.first) fun s => s.staleWrite c k (s.win c (keyIndex (extKey p))).job (extKey p) 0).sendStatus c k p st

/-- A received READ_REQ (R359, R367). -/
def State.rxReadReq (s : State) (c k : Nat) (p : KPkt) : State :=
  let n := recNat p.ext 0x10 4
  let i := keyIndex (extKey p)
  match s.winCheck c (s.conn c k).job (extKey p) (extOff p) n 0 with
  | some st => (s.bump c (nakReg st)).sendStatus c k p st
  | none =>
    (s.updConn c k fun v =>
      { v with reads := v.reads ++ [{ reqId := recNat p.ext 0x14 4, psn := p.psn, win := i, base := (s.win c i).base + extOff p,
                                      len := n, done := 0, coded := p.coded, dest := p.peer }] }).pumpAll c k

/-- The value that an ATOMIC leaves (R368). -/
def atomicNew (aop old op0 op1 : Nat) : Nat :=
  if aop = 0 then (old + op0) % 2 ^ 64 else if aop = 1 then (if old = op0 then op1 else old) else op0

/-- Answers an ATOMIC. -/
def State.answerAtomic (s : State) (c k : Nat) (p : KPkt) (st old : Nat) : State :=
  s.answer c k { newSent 7 0 (leBytes 4 p.psn ++ leBytes 4 st ++ leBytes 8 old) with dest := some p.peer }

/-- A received ATOMIC (R359, R368). The reserved AOP is answered with BAD_OP, and a poisoned location with REMOTE_POISON; neither
is changed (DEDUCED, log entry 24). -/
def State.rxAtomic (s : State) (c k : Nat) (p : KPkt) : State :=
  let job := (s.conn c k).job
  match s.winCheck c job (extKey p) (extOff p) 8 2 with
  | some st => (s.bump c (nakReg st)).answerAtomic c k p st 0
  | none =>
    let a := (s.win c (keyIndex (extKey p))).base + extOff p
    let aop := recNat p.ext 0x20 1 % 4
    if aop = 3 then s.answerAtomic c k p 0x70 0
    else if s.vpoison a 8 then (s.touch job a 8).answerAtomic c k p 0x96 0
    else
      let old := s.vnat a 8
      (s.rangesWrite job [(a, 8)] 0 (leBytes 8 (atomicNew aop old (recNat p.ext 0x10 8) (recNat p.ext 0x18 8)))).answerAtomic c k p
        0 old

/-! ### Answers that a source receives (R360, R366 to R369) -/

/-- Places one READ_RESP (R367). A coded payload may bring POISON units. What a range takes whose region was removed since the request
was taken is dropped (R364). -/
def State.placeResp (s0 : State) (c k : Nat) (r : KReq) (p : KPkt) : State :=
  let d := recNat p.ext 8 4
  let n := min (recNat p.ext 0xC 4) (r.len - d)
  let job := (s0.conn c k).job
  let us := pktUnits p.pay
  let bad := p.poison || (p.coded && us.any fun u => u.hdr.tag == 3)
  let s := s0.when bad fun s => s.deferred (kwpPage c) 0x21 job ((rangeAddr r.ranges d).getD 0)
  let s1 := if r.dev = 0 ∧ s.rangesOk c job r.ranges false true = false then s
    else if p.poison then s.each (sliceRanges r.ranges d n) fun s x => s.vmark x.1 x.2
    else if p.coded then s.placeAt c job r.ranges d us
    else s.rangesWrite job r.ranges d (p.pay.take n)
  let s2 := s1.updKReq c k r.id fun r => { r with placed := r.placed + n, poisoned := r.poisoned || bad }
  match (s2.conn c k).reqs.find? fun x => x.id == r.id with
  | some x => if x.len ≤ x.placed then s2.endReq c k x (if x.poisoned then 0x96 else 0) x.len 0 else s2
  | none => s2

/-- A received READ_RESP. -/
def State.rxReadResp (s : State) (c k : Nat) (p : KPkt) : State :=
  match (s.conn c k).reqs.find? fun r => r.op == 2 && r.id == recNat p.ext 0 4 with
  | some r => s.placeResp c k r p
  | none => s

/-- The outstanding request of an operation whose packet had a PSN. -/
def State.reqByPsn (s : State) (c k psn : Nat) : Option KReq :=
  (s.conn c k).reqs.find? fun r => r.formed != 0 && !psnBefore psn r.psn0 && !psnBefore r.psn1 psn

/-- A received FLUSH_RESP or ATOMIC_RESP (R366). The bytes transferred of an ATOMIC are 8 (DEDUCED, log entry 24). -/
def State.rxOneResp (s : State) (c k op : Nat) (p : KPkt) : State :=
  match s.reqByPsn c k (recNat p.ext 0 4) with
  | some r =>
    if r.op = op then
      let st := recNat p.ext 4 1
      s.endReq c k r st (if op = 4 ∧ st = 0 then 8 else 0) (if op = 4 then recNat p.ext 8 8 else 0)
    else s
  | none => s

/-- A received STATUS (R360, R366). -/
def State.rxStatus (s : State) (c k : Nat) (p : KPkt) : State :=
  match s.reqByPsn c k (recNat p.ext 0 4) with
  | none => s
  | some r =>
    let st := recNat p.ext 4 1
    let s1 := s.when (r.op == 1 && st == 0x91 && !r.stale) fun s =>
      (s.updKReq c k r.id fun r => { r with stale := true }).staleWrite c k (s.conn c k).job r.key 1
    if r.ended then s1 else s1.endReq c k { r with stale := true } st 0 0

/-! ### Acknowledgements and BUSY (R352, R371, R373) -/

/-- A received ACK (R371). -/
def State.rxAck (s : State) (c k : Nat) (p : KPkt) : State :=
  let v := s.conn c k
  let a := recNat p.ext 0 4
  let rtt : Int := (s.stamp : Int) - recNat p.ext 8 8 - recNat p.ext 4 4
  if psnBefore v.txPsn a then s
  else
    let up := psnBefore v.unaPsn a
    let sig := p.ece || decide ((s.rdN c Reg.KWP_CC_DELAY : Int) < rtt)
    let s1 := s.updConn c k fun v =>
      let w := (v.sample rtt).retire a (recNat p.ext 0x10 8)
      { w with retries := if up then 0 else w.retries, busyRun := if up then 0 else w.busyRun,
               timerAt := if up then s.tim.now else w.timerAt, congested := w.congested || sig }
    let s2 := s1.when (v.pause.isNone) fun s => s.fastRetx c k
    s2.pumpAll c k

/-- A pause of a connection until `t` from a PSN on; one that is already on ends no earlier, and keeps the older PSN (R352; DEDUCED, log
entry 24). -/
def KConn.pauseTo (v : KConn) (t psn : Nat) : KConn :=
  { v with pause := some (match v.pause with
      | some (u, p) => (max u t, if psnBefore psn p then psn else p)
      | none => (t, psn)) }

/-- A received BUSY (R352). -/
def State.rxBusy (s : State) (c k : Nat) (p : KPkt) : State :=
  let v := s.conn c k
  let psn := recNat p.ext 0 4
  if v.cstate == 1 && v.sent.any (fun x => x.psn == psn && x.iv == recNat p.ext 8 8) then
    (s.updConn c k fun v =>
      { v.pauseTo (s.tim.now + s.rdF c Reg.KWP_BUSY 15 0 * 2 ^ min v.busyRun 6) psn with
        busyRun := v.busyRun + 1, timerAt := s.tim.now }).bump c Reg.KWP_BUSY_RX_CNT
  else s.bump c Reg.KWP_BUSY_IGN_CNT

/-! ### The receive path (R354) -/

/-- Step 9: the packet is processed. -/
def State.process (s : State) (c k op : Nat) (p : KPkt) : State :=
  match op with
  | 1 => s.rxWrite c k p
  | 2 => s.rxReadReq c k p
  | 3 => s.rxReadResp c k p
  | 4 => s.updConn c k fun v => { v with flushes := v.flushes ++ [(p.psn, p.peer)] }
  | 5 => s.rxOneResp c k 3 p
  | 6 => s.rxAtomic c k p
  | 7 => s.rxOneResp c k 4 p
  | _ => s.rxStatus c k p

/-- Step 7 for a reliable packet, and what follows its acceptance. -/
def State.acceptReliable (s : State) (c k op : Nat) (p : KPkt) : State :=
  let v := s.conn c k
  let d := (p.psn + 2 ^ 32 - v.rxEpsn % 2 ^ 32) % 2 ^ 32
  if 2 ^ 31 ≤ d ∨ (d < 256 ∧ v.bitmap.testBit d = true) then (s.bump c Reg.KWP_DUP_CNT).sendAck c k p.peer
  else if 256 ≤ d then s.bump c Reg.KWP_SEQ_DROP_CNT
  else (((s.acceptPsn c k p).process c k op p).answerFlushes c k).ackIfDue c k p.ackReq p.peer

/-- Step 6: the age of a packet. -/
def State.tooOld (s : State) (c : Nat) (p : KPkt) : Bool :=
  decide (s.rdF c Reg.KWP_MAX_AGE 9 0 * 1000000 < ((s.stamp : Int) - p.sendTime).natAbs)

/-- The header flags of a received packet. -/
def pktFlags (p : KPkt) : Nat :=
  b2n p.first + 2 * b2n p.last + 4 * b2n p.coded + 8 * b2n p.retx + 16 * b2n p.ackReq + 32 * b2n p.ece + 64 * b2n p.poison

/-- The headers of a received packet as they were sent: what its tag covers beside the payload (R347). -/
def pktHeaders (op : Nat) (p : KPkt) : List Byte :=
  kHdr op (pktFlags p) p.dstConn p.psn p.gen p.sendTime p.iv p.pay.length p.srcConn ++ p.ext

/-- Counts a Kweuz packet that port `from_` has received for channel `c`. A packet that fails verification is not counted (R348,
R379). -/
def State.countRx (s : State) (c from_ : Nat) : State :=
  (s.bump from_ Reg.KWP_RX_PKT_CNT).when (from_ != c) fun s => s.bump from_ Reg.KWP_XBAR_PKT_CNT

/-- Steps 5 to 9 for a packet that is authentic, with its payload in the clear. -/
def State.rxTrue (s : State) (c op : Nat) (p : KPkt) : State :=
  let k := p.dstConn
  if p.gen ≠ (s.conn c k).gen then s.bump c Reg.KWP_STALE_CONN_CNT
  else if s.tooOld c p then s.bump c Reg.KWP_AGE_DROP_CNT
  else if op = 9 then s.rxAck c k p
  else s.acceptReliable c k op p

/-- Steps 3 to 9 for a packet whose context is cached: the tag is verified with RX_KEY and RX_SALT under the IV_CTR of the header (R348).
A BUSY is not authenticated (R352). -/
def State.rxPacket (s : State) (c op from_ : Nat) (p : KPkt) : State :=
  let k := p.dstConn
  let v := s.conn c k
  if op = 10 then (s.countRx c from_).rxBusy c k p
  else if v.cstate ≠ 1 then (s.countRx c from_).bump c Reg.KWP_NO_CONN_CNT
  else match kweuzOpen v.rxKey v.rxSalt p.iv (pktHeaders op p) p.pay p.tag with
    | none => s.bump c Reg.KWP_AUTH_FAIL_CNT
    | some pay => (s.countRx c from_).rxTrue c op { p with pay := pay }

/-- Step 2: the context is cached, or the packet waits for it (R351 to R353). -/
def State.rxContext (s : State) (c op from_ : Nat) (p : KPkt) : State :=
  let k := p.dstConn
  if (s.kwp c).bad.contains k then (s.countRx c from_).bump c Reg.KWP_NO_CONN_CNT
  else if s.cachedConn c k then s.rxPacket c op from_ p
  else if s.missBytes c + p.len ≤ 524288 then
    (s.updKwp c fun x => { x with miss := x.miss ++ [(op, from_, p)] }).startFetch c k
  else (s.countRx c from_).missFull c op p

/-- A packet addressed to channel `d` that arrived on port `c` (R342, R392). -/
def State.rxLocal (s : State) (c d loc op : Nat) (p : KPkt) : State :=
  match s.classify c loc p with
  | (s1, false) => s1
  | (s1, true) =>
    if s1.enabledCh d && !s1.serves d then s1
    else if !s1.kwEn c || !s1.kwEn d then s1.bump c Reg.KWP_OTHER_CNT
    else (s1.rxContext d op c { p with peer := { p.peer with port := c }, dstConn := p.dstConn % 2 ^ 18 }).tagsBack d

/-- Step 1: a Kweuz packet arrives on port `c` (R339, R354). -/
def State.rxFrame (s : State) (c op : Nat) (p : KPkt) : State :=
  if !s.ethMode c || (s.enabledCh c && !s.serves c) then s
  else if s.rdF c Reg.KWP_MTU 13 0 < p.len ∨ p.dstUdp ≠ s.rdF c Reg.KWP_UDP_PORT 15 0 then s.bump c Reg.KWP_OTHER_CNT
  else match s.localEntry c p.peer.v6 p.dstIp with
    | none => s.bump c Reg.KWP_OTHER_CNT
    | some (i, d) => s.rxLocal c d i op p

/-- WRITE (R362). -/
def execWrite (c : Nat) (pkt : KPkt) (s : State) : Host.Outcome State Fault Refusal := .next (s.rxFrame c 1 pkt)

/-- READ_REQ (R367). -/
def execReadReq (c : Nat) (pkt : KPkt) (s : State) : Host.Outcome State Fault Refusal := .next (s.rxFrame c 2 pkt)

/-- READ_RESP (R367). -/
def execReadResp (c : Nat) (pkt : KPkt) (s : State) : Host.Outcome State Fault Refusal := .next (s.rxFrame c 3 pkt)

/-- FLUSH (R369). -/
def execFlush (c : Nat) (pkt : KPkt) (s : State) : Host.Outcome State Fault Refusal := .next (s.rxFrame c 4 pkt)

/-- FLUSH_RESP (R366). -/
def execFlushResp (c : Nat) (pkt : KPkt) (s : State) : Host.Outcome State Fault Refusal := .next (s.rxFrame c 5 pkt)

/-- ATOMIC (R368). -/
def execAtomic (c : Nat) (pkt : KPkt) (s : State) : Host.Outcome State Fault Refusal := .next (s.rxFrame c 6 pkt)

/-- ATOMIC_RESP (R366). -/
def execAtomicResp (c : Nat) (pkt : KPkt) (s : State) : Host.Outcome State Fault Refusal := .next (s.rxFrame c 7 pkt)

/-- STATUS (R360). -/
def execStatus (c : Nat) (pkt : KPkt) (s : State) : Host.Outcome State Fault Refusal := .next (s.rxFrame c 8 pkt)

/-- ACK (R371). -/
def execAck (c : Nat) (pkt : KPkt) (s : State) : Host.Outcome State Fault Refusal := .next (s.rxFrame c 9 pkt)

/-- BUSY (R352). -/
def execBusy (c : Nat) (pkt : KPkt) (s : State) : Host.Outcome State Fault Refusal := .next (s.rxFrame c 10 pkt)

/-! ### Context fetches (R351, R353) -/

/-- Whether a cached context has a packet or a request in process. -/
def KConn.inProcess (v : KConn) : Bool :=
  !v.sent.isEmpty || !v.reads.isEmpty || !v.outq.isEmpty || !v.flushes.isEmpty || v.reqs.any fun r => !r.ended

/-- The place that a fetched context takes: by R10 among the empty places and those whose context is idle. -/
def State.cachePlace (s : State) (c : Nat) : Option Nat :=
  roundRobin 8192 (s.kwp c).cachePtr fun i =>
    let e := (s.kwp c).cache.at i
    e == 0 || !(s.conn c (e - 1)).inProcess

/-- The state of a context is lost in its fetch (R353): its requests write no completions, and device transfers fail. -/
def State.loseConn (s : State) (c k : Nat) : State :=
  let dev := (s.conn c k).reqs.filter fun r => r.dev != 0 && !r.ended
  (s.each dev fun s r => s.devEnd c r 0x94).updConn c k fun v =>
    { v with reqs := [], sent := [], reads := [], outq := [], flushes := [], msgs := [], pause := none }

/-- CTX_FETCH_DONE (R351, R353): the waiting packets are processed in arrival order, or dropped with the context. -/
def execCtxFetchDone (c conn : Nat) (bad : Bool) (s : State) : Host.Outcome State Fault Refusal :=
  let waits := (s.kwp c).miss.filter fun m => m.2.2.dstConn == conn
  let leave := fun (s : State) => s.updKwp c fun x =>
    { x with fetching := x.fetching.erase conn, miss := x.miss.filter fun m => m.2.2.dstConn != conn }
  .next (s.when ((s.kwp c).fetching.contains conn) fun s =>
    if bad then
      ((((leave s).updKwp c fun x => { x with bad := x.bad ++ [conn] }).loseConn c conn).evtPriv (kwpPage c) 5 0x85 0 conn).tagsBack c
    else match s.cachePlace c with
      | none => s
      | some i =>
        (((leave s).updKwp c fun x => { x with cache := x.cache.set i (conn + 1), cachePtr := (i + 1) % 8192 }).each waits
          fun s m => s.rxPacket c m.1 m.2.1 m.2.2).tagsBack c)

/-! ### Work requests (R363 to R366) -/

/-- The WR_OP values that R363 defines. -/
def wrOps : List Nat := [1, 2, 3, 4, 0x10, 0x11]

/-- Takes the work request at the head of a send queue if it is of one operation; one of no operation completes with BAD_OP. A
context that is not cached is fetched first (R351, R363). -/
def State.takeWr (s : State) (c k op : Nat) (f : State → List Byte → State) : State :=
  let wr := s.sqHeadWr c k
  let o := recNat wr 0 1
  if !s.sqReady c k then s
  else if !s.cachedConn c k then s.startFetch c k
  else if o = op then (f s wr).tagsBack c
  else if wrOps.contains o then s
  else (s.sqPop c k).kwpCpl c k o (recNat wr 0x20 8) 0x70 0 0

/-- WR_WRITE (R365). -/
def execWrWrite (c conn : Nat) (s : State) : Host.Outcome State Fault Refusal :=
  .next (s.takeWr c conn 1 fun s wr => s.takeTransfer c conn (reqOf wr))

/-- WR_READ (R367). -/
def execWrRead (c conn : Nat) (s : State) : Host.Outcome State Fault Refusal :=
  .next (s.takeWr c conn 2 fun s wr => s.takeTransfer c conn (reqOf wr))

/-- WR_FLUSH (R369). -/
def execWrFlush (c conn : Nat) (s : State) : Host.Outcome State Fault Refusal :=
  .next (s.takeWr c conn 3 fun s wr => s.takeTransfer c conn (reqOf wr))

/-- WR_ATOMIC (R368). -/
def execWrAtomic (c conn : Nat) (s : State) : Host.Outcome State Fault Refusal :=
  .next (s.takeWr c conn 4 fun s wr => s.takeTransfer c conn (reqOf wr))

/-- WIN_OPEN (R358). -/
def execWinOpen (c conn : Nat) (s : State) : Host.Outcome State Fault Refusal :=
  .next (s.takeWr c conn 0x10 fun s wr => s.takeOpen c conn wr)

/-- WIN_OPEN_GAP_END (R358): time passes until 1 µs after the index was closed. -/
def execWinOpenGapEnd (c conn : Nat) (s : State) : Host.Outcome State Fault Refusal :=
  .next (s.takeWr c conn 0x10 fun s wr =>
    let x := s.win c (nfld (recNat wr 0x10 8) 23 0)
    if x.closed ≠ 0 ∧ (s.winRefusal c conn wr).isNone then (s.passToNow (x.closed - 1 + 1000)).takeOpen c conn wr else s)

/-- WIN_REVOKE (R361). -/
def execWinRevoke (c conn : Nat) (s : State) : Host.Outcome State Fault Refusal :=
  .next (s.takeWr c conn 0x11 fun s wr => s.takeRevoke c conn wr)

/-! ### Context commands (R349, R350) -/

/-- Bytes of the staging window. -/
def State.stageNat (s : State) (c off n : Nat) : Nat :=
  leNat (((List.range (ceilDiv n 4)).flatMap fun i => leBytes 4 (s.rdAt (kwpPage c) (0x200 + off + 4 * i)).toNat).take n)

/-- Keys and salts from staging, with KEY_WR; TX_IV starts at 0 (R347). -/
def State.stageKeys (s : State) (c : Nat) (v : KConn) : KConn :=
  { v with txSalt := s.stageNat c 0x44 4, rxSalt := s.stageNat c 0x48 4, txKey := s.stageNat c 0x50 32,
           rxKey := s.stageNat c 0x70 32, txIv := 0 }

/-- The context that SET leaves: every writable field from staging, keys, salts and TX_IV kept, the rest clear. -/
def State.stagedConn (s : State) (c : Nat) (v : KConn) : KConn :=
  let w0 := s.stageNat c 0 4
  let w18 := s.stageNat c 0x18 4
  { (default : KConn) with
    cstate := 1, dflt := w0.testBit 2, sub := nfld w0 3 3, job := nfld w0 25 16, peerNode := s.stageNat c 4 4,
    peerConn := s.stageNat c 8 4 % 2 ^ 18, gen := nfld (s.stageNat c 0xC 4) 15 0, cq := nfld (s.stageNat c 0xC 4) 25 16,
    sqTail := nfld (s.stageNat c 0x1C 4) 31 16,
    sqBase := s.stageNat c 0x10 8, sqLog2 := nfld w18 4 0, maxPay := nfld w18 11 8, shaper := nfld w18 23 12,
    txPsn := s.stageNat c 0x20 4, unaPsn := s.stageNat c 0x20 4, rxEpsn := s.stageNat c 0x28 4, txIv := v.txIv,
    txSalt := v.txSalt, rxSalt := v.rxSalt, txKey := v.txKey, rxKey := v.rxKey, rate := s.lineRate c, adjustAt := s.tim.now }

/-- The selected connection (R379). -/
def State.connSel (s : State) (c : Nat) : Nat := s.rdF c Reg.KWP_CONN_SEL 17 0

/-- Clears a connection's bit in the error bitmap (R353). -/
def State.clearBad (s : State) (c k : Nat) : State := s.updKwp c fun x => { x with bad := x.bad.filter fun b => b != k }

/-- KWP writes a connection's rate to its shaper (R373). -/
def State.putRate (s : State) (c k : Nat) : State :=
  let v := s.conn c k
  s.reshape c v.shaper fun s => s.wr c Reg.TRC_SHP_RATE (lo32 v.rate) v.shaper

/-- SET (R350). -/
def State.connSet (s : State) (c k : Nat) (keyWr : Bool) : State :=
  if (s.conn c k).reqs.any fun r => !r.ended then s.logIgnored (kwpPage c) 0x148 (if keyWr then 0x11 else 1)
  else
    ((s.clearBad c k).updConn c k fun v =>
      let w := s.stagedConn c v
      if keyWr then s.stageKeys c w else w).putRate c k

/-- RESET (R350). -/
def State.connReset (s : State) (c k : Nat) (keyWr : Bool) : State :=
  ((s.endAll c k 0x94 0x94).tagsBack c).updConn c k fun v =>
    let w := { v with
      cstate := 1, gen := (v.gen + 1) % 2 ^ 16, txPsn := s.stageNat c 0x20 4, unaPsn := s.stageNat c 0x20 4,
      rxEpsn := s.stageNat c 0x28 4, bitmap := 0, retries := 0, flushErr := 0, busyRun := 0, accepted := 0, ce := false }
    if keyWr then s.stageKeys c w else w

/-- DESTROY (R350). -/
def State.connDestroy (s : State) (c k : Nat) : State :=
  (((s.endAll c k 0x94 0x94).tagsBack c).clearBad c k).updConn c k fun v => { v with cstate := 0 }

/-- The bytes of a context, keys and salts as zero (R347, R349). -/
def connBytes (v : KConn) : List Byte :=
  leBytes 4 (v.cstate + 4 * b2n v.dflt + 8 * v.sub + fieldAt 16 10 v.job) ++ leBytes 4 v.peerNode ++ leBytes 4 v.peerConn ++
    leBytes 4 (v.gen + fieldAt 16 10 v.cq) ++ leBytes 8 v.sqBase ++
    leBytes 4 (v.sqLog2 + fieldAt 8 4 v.maxPay + fieldAt 12 12 v.shaper + fieldAt 24 8 v.retries) ++
    leBytes 4 (fieldAt 0 16 v.sqHead + fieldAt 16 16 v.sqTail) ++ leBytes 4 v.txPsn ++ leBytes 4 v.unaPsn ++ leBytes 4 v.rxEpsn ++
    leBytes 4 v.flushErr ++ leBytes 8 v.txIv ++ leBytes 4 v.rate ++ leBytes 4 v.srtt ++ leBytes 4 v.rttvar ++
    List.replicate (0x90 - 0x44) 0 ++ leBytes 32 v.bitmap

/-- SNAP (R350). -/
def State.connSnap (s : State) (c k : Nat) : State :=
  s.each ((wordsOf (padTo 256 (connBytes (s.conn c k)))).zipIdx) fun s w => s.wrAt (kwpPage c) (0x200 + 4 * w.2) w.1

/-- A write of one command bit to KWP_CONN_CMD. -/
def State.connCmd (s : State) (rq : Requester) (c bit : Nat) (keyWr : Bool) (f : State → Nat → State) : State :=
  s.onWrite rq c Reg.KWP_CONN_CMD (lo32 (2 ^ bit + if keyWr then 16 else 0)) fun s => f s (s.connSel c)

/-- CONN_SET (R350). -/
def execConnSet (rq : Requester) (c : Nat) (keyWr : Bool) (s : State) : Host.Outcome State Fault Refusal :=
  .next (s.connCmd rq c 0 keyWr fun s k => s.connSet c k keyWr)

/-- CONN_RESET (R350). -/
def execConnReset (rq : Requester) (c : Nat) (keyWr : Bool) (s : State) : Host.Outcome State Fault Refusal :=
  .next (s.connCmd rq c 1 keyWr fun s k => s.connReset c k keyWr)

/-- CONN_DESTROY (R350). -/
def execConnDestroy (rq : Requester) (c : Nat) (s : State) : Host.Outcome State Fault Refusal :=
  .next (s.connCmd rq c 2 false fun s k => s.connDestroy c k)

/-- CONN_SNAP (R350). -/
def execConnSnap (rq : Requester) (c : Nat) (s : State) : Host.Outcome State Fault Refusal :=
  .next (s.connCmd rq c 3 false fun s k => s.connSnap c k)

/-! ### Timers (R352, R370 to R373) -/

/-- RTO_EXPIRY (R371, R372): the timer of a connection that is paused, or whose send path is off, does not run (DEDUCED, log entry
24). -/
def execRtoExpiry (c conn : Nat) (s : State) : Host.Outcome State Fault Refusal :=
  let v := s.conn c conn
  .next (s.when (s.txOn c && v.cstate == 1 && !v.sent.isEmpty && v.pause.isNone) fun s =>
    let s1 := s.passToNow (v.timerAt + s.rto c conn)
    if v.retries = s.rdF c Reg.KWP_RETRY 3 0 then
      ((s1.connError c conn).cutMoves c fun _ e =>
        !e.moveNode.testBit 31 && e.moveNode == v.peerNode && e.job == v.job && v.dflt).tagsBack c
    else
      (s1.updConn c conn fun v => { v with retries := v.retries + 1, timerAt := s1.tim.now }).resendFrom c conn v.unaPsn)

/-- ACK_DELAY_EXPIRY (R370): the ACK goes to the source of the newest packet accepted. -/
def execAckDelayExpiry (c conn : Nat) (s : State) : Host.Outcome State Fault Refusal :=
  let v := s.conn c conn
  .next (s.when (s.txOn c && v.cstate == 1 && v.accepted != 0) fun s =>
    (s.passToNow (v.oldest + s.rdF c Reg.KWP_RETRY 31 16)).sendAck c conn (v.echoTo.getD default))

/-- BUSY_BACKOFF_END (R352). -/
def execBusyBackoffEnd (c conn : Nat) (s : State) : Host.Outcome State Fault Refusal :=
  .next (match (s.conn c conn).pause with
    | none => s
    | some (t, psn) => s.when (s.txOn c) fun s =>
      (((s.passToNow t).updConn c conn fun v => { v with pause := none }).resendFrom c conn psn).pumpAll c conn)

/-- The rate after one interval (R373). -/
def State.nextRate (s : State) (c : Nat) (v : KConn) : Nat :=
  if v.congested then max (s.rdN c Reg.KWP_CC_MIN) (v.rate * (256 - s.rdF c Reg.KWP_CC 7 0) / 256)
  else min (s.lineRate c) (v.rate + s.rdF c Reg.KWP_CC 31 16)

/-- RATE_ADJUST (R373): one SRTT after the last adjustment. -/
def execRateAdjust (c conn : Nat) (s : State) : Host.Outcome State Fault Refusal :=
  let v := s.conn c conn
  .next (s.when (v.cstate == 1 && v.srtt != 0) fun s =>
    let s1 := s.passToNow (v.adjustAt + v.srtt)
    (s1.updConn c conn fun v => { v with rate := s1.nextRate c v, congested := false, adjustAt := s1.tim.now }).putRate c conn)

/-! ### Links (R341) -/

/-- LINK_CHANGE (R341): CAUSE 0 down, 1 up, 2 local fault, 3 remote fault. -/
def execLinkChange (c sub cause : Nat) (s : State) : Host.Outcome State Fault Refusal :=
  .next (s.when (s.ethMode c) fun s =>
    (s.updKwp c fun x =>
      { x with up := if cause = 1 then insNat sub x.up else x.up.filter fun i => i != sub }).evtPriv (kwpPage c) 0 0x80 cause
      (c + 16 * sub))

/-- FEC_INTERVAL (R341): the corrected symbols of a 1 ms interval. -/
def execFecInterval (c sub corr : Nat) (s : State) : Host.Outcome State Fault Refusal :=
  let isOver := decide (s.rdN c Reg.KWP_FEC_THRESH < corr)
  .next (s.when (s.ethMode c) fun s =>
    ((s.bump c Reg.KWP_FEC_CORR_CNT corr).updKwp c fun x =>
      { x with fecBad := if isOver then insNat sub x.fecBad else x.fecBad.filter fun i => i != sub }).when isOver fun s =>
        s.evtPriv (kwpPage c) 1 0x81 0 (c + 16 * sub + fieldAt 32 32 corr))

/-! ### Transmission (R340, R366, R390) -/

/-- The last packet of a WRITE has left the port (R366). -/
def State.writeLeft (s : State) (c : Nat) (p : EPkt) : State :=
  s.when p.last fun s => match (s.conn c p.conn).reqs.find? fun r => r.id == p.req && r.op == 1 && !r.ended with
    | some r => (s.endReq c p.conn r 0 r.len 0).tagsBack c
    | none => s

/-- The UDP payload of a packet: its headers, its payload under the seal, and the tag (R347). -/
def EPkt.sealed (p : EPkt) : List Byte :=
  match p.keys with
  | none => p.bytes ++ p.pay
  | some (key, salt) =>
    let x := kweuzSeal key salt (recNat p.bytes 0x18 8) p.bytes p.pay
    p.bytes ++ x.1 ++ x.2

/-- The address that a channel sends from: its lowest local entry of the IP version, 0 without one (DESIGN CHOICE, log entry 24). -/
def State.ownIp (s : State) (c : Nat) (v6 : Bool) : Nat :=
  let d := s.pln.active.section_ 5 c
  let at_ := fun (i : Nat) => (d.drop (8 + 48 * recNat d 0 4 + 32 * i)).take 32
  (((List.range (recNat d 4 1)).find? fun i =>
    (recNat (at_ i) 0x10 4).testBit 0 == v6 && nfld (recNat (at_ i) 0x10 4) 7 4 == c).map fun i =>
      recNat (at_ i) 0 (if v6 then 16 else 4)).getD 0

/-- The sum of the 16-bit words of bytes, the first byte of a word the more significant. -/
def words16 : List Byte → Nat
  | a :: b :: l => 256 * a.toNat + b.toNat + words16 l
  | [a] => 256 * a.toNat
  | [] => 0

/-- A sum in ones' complement of 16 bits. -/
def fold16 (n : Nat) : Nat := if n = 0 then 0 else (n - 1) % 65535 + 1

/-- The UDP checksum: 0 on IPv4, and on IPv6 over the pseudo-header, the UDP header and the payload (R340). -/
def udpChecksum (v6 : Bool) (src dst sport dport : Nat) (pay : List Byte) : Nat :=
  if !v6 then 0
  else
    let n := 8 + pay.length
    let ip := fun (a : Nat) => words16 (leBytes 16 a).reverse
    let sum := fold16 (ip src + ip dst + n + 17 + sport + dport + n + words16 pay)
    if sum = 65535 then 65535 else 65535 - sum

/-- A frame leaves: what goes into a link that is down is lost (R341). It carries DF on IPv4, ECT(0), and the checksum (R340). -/
def State.emitFrame (s : State) (c sub : Nat) (p : EPkt) : State :=
  s.when ((s.kwp c).up.contains sub) fun s =>
    let pay := p.sealed
    let src := s.ownIp c p.dst.v6
    s.emit (.msg "KWEUZ_FRAME"
      [c, sub, p.len, s.rdN c Reg.KWP_MAC_LO sub + 2 ^ 32 * s.rdF c Reg.KWP_MAC_HI 15 0 sub, p.dst.mac, b2n p.dst.v6, src, p.dst.ip,
        b2n (!p.dst.v6), 2, p.dscp, s.rdF c Reg.KWP_IP_CFG 7 0, p.vlan.getD 0, p.sport, p.dst.udp,
        udpChecksum p.dst.v6 src p.dst.ip p.sport p.dst.udp pay] pay)

/-- What the transmitter of an interface sends has left it. -/
def State.frameLeaves (s : State) (c sub : Nat) (p : EPkt) : State :=
  if p.ptp then s.when ((s.kwp c).up.contains sub) fun s => s.ptpStamp c true p.bytes
  else ((s.bump c Reg.KWP_TX_PKT_CNT).emitFrame c sub p).writeLeft c p

/-- EGRESS_TRANSMIT (R390): the transmitter of an interface sends its next packet; with KW_EN 0 it sends PTP messages alone (R379). -/
def execEgressTransmit (c sub : Nat) (s : State) : Host.Outcome State Fault Refusal :=
  .next (s.when (s.ethMode c) fun s => match if s.kwEn c then s.takeFrame c sub else s.takePtp c sub with
    | (s1, none) => s1
    | (s1, some p) => s1.frameLeaves c sub p)

/-! ### Registers (R356, R379) -/

/-- KWP_STATUS. -/
def State.kwpStatus (s : State) (c : Nat) : Word :=
  let x := s.kwp c
  BitVec.ofNat 32 (b2n (x.up.contains 0) + 2 * b2n (x.up.contains 1) + 4 * b2n (x.fecBad.contains 0) +
    8 * b2n (x.fecBad.contains 1) + fieldAt 16 10 (s.missBytes c / 1024))

/-- KWP_WIN_REC of the selected window, CHECK as zero. -/
def State.kwpWinRec (s : State) (c : Nat) : List Byte :=
  let w := s.win c (s.rdF c Reg.KWP_WIN_SEL 15 0)
  leBytes 4 (b2n w.isOpen + 2 * b2n w.read + 4 * b2n w.write + 8 * b2n w.atomic + 16 * b2n w.ringEn + fieldAt 8 8 w.ring +
    fieldAt 16 10 w.job + fieldAt 31 1 (b2n w.assigned)) ++ leBytes 4 w.gen ++ leBytes 8 0 ++ leBytes 8 w.base ++ leBytes 8 w.len

/-- KWP_WIN_ASSIGN of the selected window: ignored while it is OPEN (R356). -/
def State.winAssign (s : State) (c : Nat) (v : Word) : State :=
  let i := s.rdF c Reg.KWP_WIN_SEL 15 0
  if (s.win c i).isOpen then s.logIgnored (kwpPage c) 0x150 v
  else (s.store c Reg.KWP_WIN_ASSIGN v).updWin c i fun w => { w with job := fld v 9 0, assigned := wbit v 31 }

end Sys2Proof.Machine
end

