-- ==== Sys2Proof/Machine/Teardown.lean ====
section
/-! DEFINITION. Tear-down of a job, and its clearing (R329, R330, R509). -/
namespace Sys2Proof.Machine

/-- KILL (R329): the tear-down of the selected job starts on every channel. With CLEAR in the same write, CLEAR is looked at first
(DESIGN CHOICE, log entry 33). -/
def State.killJob (s : State) (c j : Nat) (alsoClear : Bool) : State :=
  (s.when alsoClear fun s => (s.clearJob c j).when (s.jobFaulted c j && !s.holdsAny c j) fun s => s.clearBox j).tearDown j 3

/-- KILL (R329). -/
def execKill (rq : Requester) (c : Nat) (alsoClear : Bool) (s : State) : Host.Outcome State Fault Refusal :=
  .next (s.onWrite rq c Reg.JSC_JOB_CMD (if alsoClear then 3 else 1) fun s =>
    s.killJob c (s.rdN c Reg.JSC_JOB_SEL) alsoClear)

/-- CLEAR (R330), with the job's compact mailbox (R509). -/
def execClear (rq : Requester) (c : Nat) (s : State) : Host.Outcome State Fault Refusal :=
  .next (s.onWrite rq c Reg.JSC_JOB_CMD 2 fun s =>
    let j := s.rdN c Reg.JSC_JOB_SEL
    (s.clearJob c j).when (s.jobFaulted c j && !s.holdsAny c j) fun s => s.clearBox j)

/-! ### The steps of a tear-down (R329) -/

/-- The engines of a channel that a job holds. -/
def State.heldEngines (s : State) (c j : Nat) : List Nat := [0, 1, 2, 3, 4].filter fun e => s.holds c j e

/-- The commands of a job that left the MOVER or CONTROL and await responses: over Solrov, at the agent, and a PUBLISH. -/
def State.cmdsAway (s : State) (c j : Nat) : Nat :=
  let isCmd := fun (u : TagUse) => match u with
    | .cmd x => x.job == j
    | _ => false
  let ag := s.ccx (s.ownAgent c)
  ((s.slp c).tags.filter fun t => t.2.live && !t.2.quar && !t.2.mute && isCmd t.2.use).length +
    ((s.slp c).order.filter fun o => isCmd o.use).length + (s.cmp.publishes.filter fun p => p.ch == c && p.cmd.job == j).length +
    (if s.cohOn c then (ag.accs.filter fun x => x.ch == c && isCmd x.use).length +
      (ag.flushes.filter fun f => f.ch == c && f.cmd.job == j).length else 0)

/-- The commands of a job that step 2 discards: on engines, in lanes, waiting for Dawn, and awaiting responses. -/
def State.jobCmds (s : State) (c j : Nat) : Nat :=
  (s.heldEngines c j).length + (([0, 1, 2, 3, 4].map fun e => (s.lane c j e).length).sum) +
    ((s.ch c).rqt.pend.filter fun p => p.kind != .moveOpen && p.cmd.job == j).length + s.cmdsAway c j

/-- Step 2: the job's commands are discarded, with their save records and faults; no token is signalled and no completion
written. -/
def State.discardCmds (s : State) (c j : Nat) : State :=
  let held := s.heldEngines c j
  let s1 := s.accrue c
  let s2 := s1.each held fun s e => (s.accountEngine c e).freeEngine c e
  let s3 := s2.each [0, 1, 2, 3, 4] fun s e => s.setLane c j e []
  let s4 := (s3.withdrawFaults c fun x => x.job == j).updCh c fun x => { x with
    dmv := { x.dmv with runs := x.dmv.runs.set j none },
    atn := { x.atn with runs := x.atn.runs.set j none },
    vse := { x.vse with runs := (x.vse.runs.set (laneKey j 1) none).set (laneKey j 3) none },
    rqt := { x.rqt with pend := x.rqt.pend.filter fun p => p.kind == .moveOpen || p.cmd.job != j },
    slp := { x.slp with held := x.slp.held && !held.contains 2 },
    smp := { x.smp with oldCfg := if held.contains 4 then [] else x.smp.oldCfg },
    jsc := { x.jsc with handed := x.jsc.handed.filter (fun h => h.1.job != j), waitCpl := x.jsc.waitCpl.filter (fun w => w.cmd.job != j), planQueue := x.jsc.planQueue.filter fun q => q.job != j } }
  s4.setCmp fun x => { x with publishes := x.publishes.filter fun p => !(p.ch == c && p.cmd.job == j) }

/-- Step 3: the job's command queues are empty and disabled, and its completion queues are disabled. -/
def State.stopQueues (s : State) (c j : Nat) : State :=
  let qs := (s.selsOf c Reg.JSC_Q_CFG).filter fun q => s.qJob c q == j
  let s1 := s.each qs fun s q =>
    ((s.wr c Reg.JSC_Q_HEAD (s.rd c Reg.JSC_Q_TAIL q) q).wr c Reg.JSC_Q_CFG (setBit (s.rd c Reg.JSC_Q_CFG q) 0 false) q).updJsc c
      fun x => { x with outstanding := x.outstanding.set q 0 }
  s1.each ((s1.selsOf c Reg.JSC_CQ_CFG).filter fun q => s1.rdF c Reg.JSC_CQ_CFG 25 16 q == j) fun s q =>
    (s.wr c Reg.JSC_CQ_CFG (setBit (s.rd c Reg.JSC_CQ_CFG q) 0 false) q).flushCpl c q (s.jsc c).waitCpl.length

/-- Step 4: the job's exchange rings and completion rings are disabled, and its sampler configurations released. -/
def State.stopRings (s : State) (c j : Nat) : State :=
  let s1 := s.each ((s.selsOf c Reg.ATN_XR_CFG).filter fun r => s.xrJob c r == j) fun s r =>
    s.wr c Reg.ATN_XR_CFG (setBit (s.rd c Reg.ATN_XR_CFG r) 0 false) r
  let s2 := s1.each ((s1.selsOf c Reg.SMP_CR_CFG).filter fun r => s1.rdF c Reg.SMP_CR_CFG 25 16 r == j) fun s r =>
    s.wr c Reg.SMP_CR_CFG (setBit (s.rd c Reg.SMP_CR_CFG r) 0 false) r
  let mine := (s2.smp c).cfgs.keysWhere fun _ r => !r.isEmpty && cfgJob r == j
  (s2.each mine fun s i => s.setCfg c i []).updSmp c fun x => { x with waitCr := x.waitCr.filter fun w => w.job != j }

/-- Step 5: the job's Kweuz windows and Solrov keys (R376, R411, R461). -/
def State.stopWindows (s : State) (c j : Nat) : State := (((s.kwpTearDown c j).slpTearDown c j).ccxTearDown c j).tagsBack c

/-- Step 6: the job's requests end, its handles are released, and its stores dropped. -/
def State.endJobState (s : State) (c j : Nat) : State :=
  let s1 := s.each ((s.ch c).rqt.entries.keysWhere fun _ e => e.job == j && e.st.canLose) fun s i => s.lose c i 0x12
  let hs := (s1.pgm c).handles.keysWhere fun _ h => h.job == j && (h.st == .empty || h.st == .held)
  (s1.each hs fun s i => s.setHandle c i { s.handle c i with st := .freeing, released := false }).dropStores c j

/-- Step 7: ENABLE clears, FAULTED sets, TEARING clears, and JOB_TORN_DOWN is posted. -/
def State.tornDown (s : State) (c j n : Nat) : State :=
  let cause := (s.jsc c).tearing.at j
  let w := setBit (setBit (setBit (s.jobWord c j 0) 0 false) 1 true) 2 false
  let s1 := ((s.wrAt (jscPage c) 0x200 w j).updJsc c fun x => { x with tearing := x.tearing.set j 0, torn := x.torn.set j 0 }).bump c Reg.JSC_TEARDOWN_CNT
  let rec_ := eventRec 0x70 cause 0 0xFFFF j s1.tim.day s1.stamp n
  (((s1.evt (jscPage c) 0).postJob c j rec_).postPriv c rec_).settle c

/-- The tear-down of a job on one channel (R329). -/
def State.tearJob (s : State) (c j : Nat) : State :=
  let n := s.jobCmds c j + (s.jsc c).torn.at j
  (((((s.discardCmds c j).stopQueues c j).stopRings c j).stopWindows c j).endJobState c j).tornDown c j n

/-- JOB_TEARDOWN (R329): on a channel where the tear-down of the job has begun. -/
def execJobTeardown (c j : Nat) (s : State) : Host.Outcome State Fault Refusal :=
  .next (s.when (s.enabledCh c && s.jobTearing c j) fun s => s.tearJob c j)

end Sys2Proof.Machine
end

