-- ==== Sys2Proof/Machine/Reset.lean ====
section
/-! DEFINITION. What RESET_BLOCK clears (R9, R604). -/
namespace Sys2Proof.Machine

/-- The RO status words of a block that the model keeps in a register: RESET_BLOCK returns them to reset (R604). What shows a
structure, a table or a configuration that the reset keeps, or what stands outside the block, stays with it (DESIGN CHOICE, log entry
35). -/
def latchRegs : Blk → List Nat
  | .tim => [0x104, 0x108, 0x140, 0x144, 0x148, 0x168, 0x16C]
  | .rqt => [0x100]
  | .vse => [0x130, 0x134, 0x138, 0x13C]
  | .boot => [0x12C, 0x138]
  | .psq => [0x110, 0x114, 0x118, 0x11C]
  | .mbx => [0x108, 0x114, 0x118] ++ (List.range 16).map fun i => 0x140 + 4 * i
  | .dbg => [0x13C]
  | _ => []

/-- A Kweuz connection without the work that it held: its record stays (R604). -/
def KConn.emptied (k : KConn) : KConn :=
  { k with sent := [], reqs := [], reads := [], outq := [], msgs := [], flushes := [], accepted := 0, ce := false, pause := none, busyRun := 0 }

/-- The page moves whose transfer a port gives up fail (R206): those that its tier names, and that have not ended. -/
def PgmCh.cutMoves (x : PgmCh) (tier : Nat) : PgmCh :=
  { x with moves := x.moves.map fun m => (m.1, m.2.map fun y =>
      if (y.src.tier == tier || y.dst.tier == tier) && y.isOver == 0 then { y with isOver := 3 } else y) }

/-- The internal work state of a channel's block: pipelines, buffers of accepted work and arbiter pointers, and the status that it
shows (R604). The commands of RQT and JSC are no part of it: a block that reads QUIESCED has none, and those of a channel that recovers
stay (R563). -/
def Chan.resetBlk (x : Chan) : Blk → Chan
  | .rqt => { x with rqt := { x.rqt with jobPtr := 0 } }
  | .atn => { x with atn := { x.atn with runs := [] } }
  | .pgm => { x with pgm := { x.pgm with waiting := [], parkTries := [] } }
  | .dmv => { x with dmv := { x.dmv with runs := [] } }
  | .vse => { x with vse := { x.vse with runs := [] } }
  | .smp => { x with smp := { x.smp with oldCfg := [], steps := x.smp.steps.filter fun e => e.2.derived } }
  | .jsc => { x with jsc := { x.jsc with ptr := [] } }
  | .atu => { x with atu := { x.atu with faults := [], waiting := [], tlb := [], inv := none } }
  | .kwp => { x with
      kwp := { x.kwp with
        cachePtr := 0, fetching := [], miss := [], ahead := [], up := [], fecBad := [],
        conns := x.kwp.conns.map fun k => (k.1, k.2.emptied) }
      pgm := x.pgm.cutMoves 4 }
  | .trc => { x with trc := { x.trc with
      turn := [], shapers := x.trc.shapers.map fun k => (k.1, { k.2 with fifo := [], wait := .none }),
      queues := x.trc.queues.map fun q => (q.1, { q.2 with pkts := [], deficit := 0 }) } }
  | .slp => { x with
      slp := { x.slp with
        inbox := [], order := [], orderBad := [], dead := [], recs := [], held := false,
        tags := x.slp.tags.filter fun t => t.2.quar, link := if x.slp.mode then freshLink else default }
      pgm := x.pgm.cutMoves 3 }
  | .nmo => { x with nmo := { x.nmo with running := [], waiting := [] } }
  | .ccx => { x with ccx := { x.ccx with
      dstate := 0, up := [], setPtr := [], filtPtr := [], tiePtr := 0, accs := [], flushes := [], homeAcc := [], homeGran := [], homeWait := [] } }
  | _ => x

/-- The internal work state of a block that the model holds: running work, arbiter pointers, and the status that shows it (R604). -/
def State.resetInner (s : State) (p : Page) : State :=
  match p.blk with
  | .tim => s.setTim fun t =>
      { t with sync := .freeRunning, degraded := true, goodCount := 0, ppsPresent := false, ppsStamp := 0, cad := .stopped,
               realign := false, err := 0, slew := 0 }
  | .pln => s.setPln fun x => { x with loading := false }
  | .vse => (s.updCh p.idx fun x => x.resetBlk .vse).syncRerank p.idx

  | .cmp => s.setCmp fun x => { x with wayPtr := [], waiting := [], later := [], publishes := [] }
  | .mbx => s.setMbx fun x => { x with latch := none, ptr := [] }
  | .sec => s.setSec fun x => { x with spdm := [] }
  | .psq => s.accountThrot.setPsq fun x =>
      { x with ptr := 0, spent := 0, tjDemand := 0, tjCool := none, stackHot := false, stackCool := none, powerDemand := 0, samples := 0,
               sampleSum := 0, overRun := 0, level := 0 }

  | .ras => { s with ras := { s.ras with ptr := 0 } }
  | .boot => { s with boot := { s.boot with norRefused := false } }
  | .cxh | .clk | .dbg | .spr => s
  | b => s.updCh p.idx fun x => x.resetBlk b

/-- RESET_BLOCK on a block that may act on it (R604). -/
def State.resetWork (s : State) (p : Page) : State :=
  (s.resetInner p).each (latchRegs p.blk) fun s o => s.wrAt p o 0

/-! ### Work that waited for a block (R7) -/

/-- A block accepts work: what waited for it goes on (log entry 61). -/
def State.readyAgain (s : State) (p : Page) : State :=
  if !s.ready p then s
  else match p.blk with
    | .pgm => s.laterMoves p.idx
    | .dmv => s.kickMoves p.idx false
    | .trc | .kwp => s.kwpResume p.idx
    | .cmp => s.cmpLater
    | _ => s

/-- A change that may let a block accept work again. -/
def State.mayReady (s : State) (p : Page) (f : State → State) : State := if s.ready p then f s else (f s).readyAgain p

/-- QUIESCE (R603). -/
def execQuiesce (rq : Requester) (p : Page) (on : Bool) (s : State) : Host.Outcome State Fault Refusal :=
  .next (s.withWrite rq p 0x008 (if on then 2 else 0) fun s => s.mayReady p fun s => s.setQuiesce p on)

/-- BLOCK_INIT_DONE (R8, R603). The device chooses the moment: the length of an initialisation is not specified. -/
def execBlockInitDone (p : Page) (s : State) : Host.Outcome State Fault Refusal := .next (s.mayReady p fun s => s.initDone p)

/-- A write of RESET_BLOCK: only while QUIESCED reads 1, as it reads before the write (R9). -/
def State.resetBlock (s : State) (p : Page) (clearQuiesce : Bool) : State :=
  let s1 := if (s.blkSt p).quiesced then s.resetWork p else s.logIgnored p 0x008 (if clearQuiesce then 4 else 6)
  s1.when clearQuiesce fun s => s.mayReady p fun s => s.setQuiesce p false

/-- RESET_BLOCK (R9, R604): with `clearQuiesce`, the same write clears QUIESCE. -/
def execResetBlock (rq : Requester) (p : Page) (clearQuiesce : Bool) (s : State) : Host.Outcome State Fault Refusal :=
  .next (s.withWrite rq p 0x008 (if clearQuiesce then 4 else 6) fun s => s.resetBlock p clearQuiesce)

end Sys2Proof.Machine
end

