-- ==== Sys2Proof/Machine/Recover.lean ====
section
/-! DEFINITION. Fault classes, channel recovery and quarantine (R558 to R568), and the rebuilding of a channel (R529, R566, R572). -/
namespace Sys2Proof.Machine

/-- RAS's page. -/
def rasPage : Page := ⟨.ras, 0⟩

/-- Changes RAS's state. -/
def State.setRas (s : State) (f : Ras → Ras) : State := { s with ras := f s.ras }

/-- RAS's record of a channel. -/
def State.rasCh (s : State) (c : Nat) : RasCh := s.ras.ch.at c

/-- Changes RAS's record of a channel. -/
def State.updRas (s : State) (c : Nat) (f : RasCh → RasCh) : State := s.setRas fun x => { x with ch := x.ch.upd c f }

/-- The class of a SOURCE (R558, R559): 0 none, 1 corrected, 2 deferred, 3 job-fatal, 4 channel-fatal, 5 device-fatal. -/
def sourceClass (source : Nat) : Nat :=
  if source = 0x10 ∨ source = 0x11 ∨ source = 0x12 then 1
  else if 0x20 ≤ source ∧ source ≤ 0x23 then 2
  else if source = 0x30 ∨ source = 0x31 then 3
  else if 0x40 ≤ source ∧ source ≤ 0x44 then 4
  else if 0x50 ≤ source ∧ source ≤ 0x53 then 5 else 0

/-! ### Corrected errors (R560) -/

/-- The count of a channel's corrected errors of the day, with CE_THRESHOLD once they exceed CE_THRESH. -/
def State.countCe (s : State) (c : Nat) : State :=
  let s1 := s.updRas c fun x => { x with ceToday := x.ceToday + 1 }
  let x := s1.rasCh c
  s1.when (decide (s1.rdF 0 Reg.RAS_CFG 31 16 < x.ceToday) && !x.cePosted) fun s =>
    (s.updRas c fun x => { x with cePosted := true }).evtPriv rasPage 4 0xE7 0 (fieldAt 0 4 c + fieldAt 32 32 x.ceToday)

/-- Whether a page slot of the pool holds a page image or a group of the vector engine: not free, not borrowed for tables (R190), and
neither waiting for a scrub nor retired (R213). -/
def PgmCh.holdsImage (p : PgmCh) (i : Nat) : Bool :=
  p.used.contains i && !p.scrub.contains i && !p.retired.contains i && p.borrowed.all fun b => b.1 != i

/-- Whether a page slot is one of the four of a group of a store, or of a dropped store's (R240, R329). -/
def VseCh.holdsSlot (x : VseCh) (i : Nat) : Bool :=
  (x.stores.any fun v => v.2.groups.any fun l => l.2.contains (i / 4)) || x.dropped.any fun d => d.1 == i / 4

/-- Whether a state address of channel `c` lies in the image of a page: in its page slot, or in its side record (R181). -/
def State.inImage (s : State) (c a : Nat) : Bool :=
  let p := s.pgm c
  let k := (a - t1Base c) / 0x4000 - p.poolBase
  inT1 c a && decide (p.poolBase ≤ (a - t1Base c) / 0x4000) &&
    (let i := if k < p.slots then k else 4 * (k - p.slots) + (a - t1Base c) / 4096 % 4
     p.holdsImage i && !(s.ch c).vse.holdsSlot i)

/-- A corrected DRAM error in a page image is counted in PGM_CE_CNT of the channel whose page it is (R220). -/
def State.countImageCe (s : State) (source a : Nat) : State :=
  s.each (s.channels.filter fun c => source == 0x10 && s.inImage c a) fun s c => s.bump c Reg.PGM_CE_CNT

/-- Whether a channel is OUT: a fault there is logged, and has no further effect (R528, R558). -/
def State.isOut (s : State) (c : Nat) : Bool := s.boot.chOut.at c == .out || s.boot.chOut.at c == .retraining

/-- A corrected error that a block page detects: logged and counted, and nothing else changes. -/
def State.corrected (s : State) (p : Page) (source addr detail : Nat) : State :=
  if s.pageExists p then
    if p.blk.perChannel && s.isOut p.idx then s.logErr p source 0 1 addr detail
    else (((s.logErr p source 0 1 addr detail).bump 0 Reg.RAS_CE_CNT).countImageCe source addr).when p.blk.perChannel fun s => s.countCe p.idx
  else s

/-- CORRECTED_ERROR (R560). -/
def execCorrectedError (p : Page) (source addr detail : Nat) (s : State) : Host.Outcome State Fault Refusal :=
  .next (s.when (sourceClass source == 1) fun s => s.corrected p source addr detail)

/-! ### What stops when a channel stops (R563) -/

/-- Whether a command of a lane has started: it is suspended or set aside. -/
def LaneCmd.begun (x : LaneCmd) : Bool := x.st != .ready

/-- The commands of a channel that have started. Those that wait in a lane without having started stay there (DEDUCED, log entry
36). -/
def State.begunCmds (s : State) (c : Nat) : List Cmd :=
  ([0, 1, 2, 3, 4].filterMap fun e => (s.engine c e).holder) ++
    ((s.jsc c).lanes.flatMap fun l => (l.2.filter LaneCmd.begun).map LaneCmd.cmd)

/-- Every command that has started is discarded at once: its engine, its save records and its faults are free. The deficits of the
channel's engines are 0. -/
def State.discardRunning (s : State) (c : Nat) : State :=
  let cmds := s.begunCmds c
  let s1 := (s.accrue c).each [0, 1, 2, 3, 4] fun s e => s.when ((s.engine c e).holder.isSome) fun s => (s.accountEngine c e).freeEngine c e
  let s2 := s1.updJsc c fun x => { x with
    lanes := (x.lanes.map fun l => (l.1, l.2.filter fun y => !y.begun)).filter fun l => !l.2.isEmpty
    deficits := [], shown := [], discarded := x.discarded ++ cmds }
  ((s2.withdrawFaults c fun _ => true).updCh c fun x => { x with
    dmv := { x.dmv with runs := [] }, atn := { x.atn with runs := [] }, vse := { x.vse with runs := [] },
    slp := { x.slp with held := false } }).setCmp fun x => { x with publishes := x.publishes.filter fun p => p.ch != c }

/-- The steps in progress of a channel are abandoned with a cause (R160, R563). -/
def State.abandonAll (s : State) (c cause : Nat) : State := s.each (s.stepping c) fun s i => s.abandon c i cause

/-- Every block of a channel takes the STATE of a recovery or of a quarantine: one that is OFF, or QUARANTINED, stays so (R603). -/
def State.chanBlkState (s : State) (c : Nat) (st : BlkState) : State :=
  s.each chanBlks fun s b => s.updBlk ⟨b, c⟩ fun x => if x.st = .off ∨ x.st = .quarantined then x else { x with st := st }

/-- Every block of a channel returns to service (R603): one that is OFF stays OFF. The blocks of a channel that took its slot from
WAITING are QUARANTINED until then, and read RUNNING from then on (R564; DEDUCED, log entry 36). -/
def State.chanBlksBack (s : State) (c : Nat) : State :=
  (s.each chanBlks fun s b => s.updBlk ⟨b, c⟩ fun x =>
    if x.st = .recovering ∨ x.st = .quarantined then { x with st := if s.quiesceBit ⟨b, c⟩ then .draining else .running }
    else x).each chanBlks fun s b => s.readyAgain ⟨b, c⟩

/-! ### Recovery slots (R566) -/

/-- Whether a recovery slot is free. -/
def State.slotFree (s : State) : Bool := s.ras.slot0.isNone || s.ras.slot1.isNone

/-- The lowest free recovery slot is the channel's, and the pointer over channels moves past it (R10). -/
def State.giveSlot_ (s : State) (c : Nat) : State :=
  s.setRas fun x =>
    if x.slot0.isNone then { x with slot0 := some c, ptr := (c + 1) % 16 } else { x with slot1 := some c, ptr := (c + 1) % 16 }

/-- A channel's recovery slot is free again. -/
def State.dropSlot (s : State) (c : Nat) : State :=
  s.setRas fun x =>
    { x with slot0 := if x.slot0 = some c then none else x.slot0, slot1 := if x.slot1 = some c then none else x.slot1 }

/-- A channel takes a slot: it is recovering, and its check waits for a Midnight start. -/
def State.recover (s : State) (c : Nat) (waited : Bool) : State :=
  ((s.giveSlot_ c).updRas c fun x => { x with svc := .recovering, dawns := 0, check := 0, wasWaiting := waited }).chanBlkState c .recovering

/-- The first WAITING channel at or after the pointer takes a slot, while one is free; a channel of another STATE than QUARANTINED
cannot wait. -/
def State.nextWaiting (s : State) : State :=
  if !s.slotFree || s.ras.fatal.isSome then s
  else match roundRobin 16 s.ras.ptr fun c => (s.rasCh c).svc == .waiting with
    | none => s
    | some c => s.recover c true

/-! ### Quarantine (R565, R567) -/

/-- Whether a command of a lane goes on while its channel is quarantined: QUERY and CANCEL (R567). -/
def keptInQuarantine (cmd : Cmd) : Bool := cmd.op == 0x011 || cmd.op == 0x016

/-- The dispatched commands of a channel that a quarantine ends: all but QUERY and CANCEL; they leave their lanes. -/
def State.endLanes (s : State) (c : Nat) : State :=
  let cmds := (s.jsc c).lanes.flatMap fun l => (l.2.map LaneCmd.cmd).filter fun x => !keptInQuarantine x
  let s1 := s.updJsc c fun x => { x with
    lanes := (x.lanes.map fun l => (l.1, l.2.filter fun y => keptInQuarantine y.cmd)).filter fun l => !l.2.isEmpty }
  s1.each cmds fun s x => s.complete c x 0xE1

/-- The commands that waited for Dawn, and the plan sweeps that wait: a CANCEL finds its request LOST, and the others complete with
CHANNEL_DOWN (DEDUCED, log entry 36). -/
def State.endPend (s : State) (c : Nat) : State :=
  let ps := (s.rqt c).pend
  let plan := (s.jsc c).planQueue
  let s1 := (s.updRqt c fun r => { r with pend := [] }).updJsc c fun x => { x with planQueue := [] }
  let s2 := s1.each ps fun s p => match p.kind with
    | .cancel => (s.applyCancel c p).1
    | .admission | .accept | .park | .resume | .moveAbort => s.complete c p.cmd 0xE1
    | _ => s
  s2.each plan fun s x => s.complete c x 0xE1

/-- Every live request of a channel goes to LOST with CHANNEL_QUARANTINED (R61, R565). -/
def State.loseAll (s : State) (c : Nat) : State := s.each (s.reqSlots c fun e => e.st.canLose) fun s i => s.lose c i 0x11

/-- The discarded commands of a channel complete with a status. -/
def State.endDiscarded (s : State) (c status : Nat) : State :=
  let cmds := (s.jsc c).discarded
  (s.updJsc c fun x => { x with discarded := [] }).each cmds fun s x => s.complete c x status

/-- A channel is quarantined, WAITING or HELD, for a CAUSE (R565, R566). -/
def State.quarantine (s : State) (c cause : Nat) (svc : ChService) : State :=
  let n := (s.reqSlots c fun e => e.st.canLose).length
  let s1 := (((s.discardRunning c).chanBlkState c .quarantined).updRas c fun x => { x with svc := svc, check := 0 }).rerouteFrom c
  let s2 := ((((s1.loseAll c).endDiscarded c 0xE1).endLanes c).endPend c).failMovesOf c
  ((s2.dropSlot c).bump 0 Reg.RAS_QUAR_CNT).evtPriv rasPage 2 0xE2 cause (fieldAt 0 4 c + fieldAt 32 32 n)

/-! ### Channel-fatal faults (R563 to R566) -/

/-- KWP_DEVICE_ERROR (R378), with the job of the window or the connection concerned, if any. -/
def State.kwpError (s : State) (c unit job det : Nat) : State :=
  (s.evt (kwpPage c) 6).postPriv c (eventRec 0x86 unit 0 0xFFFF job s.tim.day s.stamp det)

/-- A channel-fatal fault of one channel: the block that detects it, the channel, SOURCE, and the address and DETAIL of the log. For
SOURCE 0x40, `window` is the window record concerned, counted from 1 (R376); for KWP's SOURCE 0x44, `kwpUnit` and `conn` name the miss
buffer or the context cache (R378; that such an error is this SOURCE is DESIGN CHOICE, log entry 24). -/
def State.chFatal (s : State) (x : ChFault) : State :=
  let c := x.ch
  let p : Page := ⟨x.blk, if x.blk.perChannel then c else 0⟩
  if !s.enabledCh c || s.ras.fatal.isSome then s
  else
    let s0 := (s.logErr p x.source 0 4 x.addr x.detail).when (x.source == 0x40 && x.window != 0) fun s =>
      (s.closeWin c (x.window - 1)).kwpError c 2 (s.win c (x.window - 1)).job (kDetail 0 (x.window - 1) (s.win c (x.window - 1)).gen)
    let s1 := s0.when (x.source == 0x44 && x.blk == .kwp && x.kwpUnit != 0) fun s =>
      if x.kwpUnit = 3 then s.kwpError c 3 (s.conn c x.conn).job (kDetail x.conn 0 0) else s.kwpError c 1 0 0
    if s1.isOut c then s1
    else
      let s2 := (s1.bump 0 Reg.RAS_CHFATAL_CNT).updRas c fun y => { y with source := x.source, faultDay := s.curDay }
      match (s.rasCh c).svc with
      | .recovering => (s2.evtPriv rasPage 0 0xE0 x.source c).quarantine c 1 .held
      | .waiting | .held => s2
      | .inService =>
        if s2.slotFree then
          let s3 := (s2.abandonAll c 6).discardRunning c
          ((s3.recover c false).rerouteFrom c).evtPriv rasPage 0 0xE0 x.source (c + 16)
        else (s2.evtPriv rasPage 0 0xE0 x.source c).quarantine c 2 .waiting

/-- The faults of one cycle, second faults of recovering channels first, and the others by R10 over channel numbers (R566); then a
slot that is still free goes to a WAITING channel. -/
def State.chFatals (s : State) (l : List ChFault) : State :=
  let again := l.filter fun x => s.recovering x.ch
  let new := (List.range 16).flatMap fun i => l.filter fun x => !s.recovering x.ch && x.ch == (s.ras.ptr + i) % 16
  let s1 := (s.each again fun s x => s.chFatal x).each new fun s x => s.chFatal x
  s1.nextWaiting.nextWaiting

/-- CHANNEL_FATAL_FAULT (R563): the channel-fatal faults of one cycle. -/
def execChannelFatalFault (faults : List ChFault) (s : State) : Host.Outcome State Fault Refusal :=
  .next (s.chFatals (faults.filter fun x => sourceClass x.source == 4 && decide (x.ch < 16)))

/-! ### The check and the return to service (R564 to R566) -/

/-- A Midnight start: every recovering channel that has not been checked since it took its slot begins its check. Its blocks are
reset. -/
def State.startChecks (s : State) : State :=
  s.each (s.channels.filter fun c => s.recovering c && (s.rasCh c).check == 0) fun s c =>
    (s.updRas c fun x => { x with check := 1 }).each chanBlks fun s b => s.resetWork ⟨b, c⟩

/-- CHANNEL_CHECK_DONE (R564, R565): the running check of a channel ends. A stack retrain is part of it only when SOURCE is 0x43. The
columns that fail their self-test are masked (R569). -/
def execChannelCheckDone (c : Nat) (result : CheckResult) (s : State) : Host.Outcome State Fault Refusal :=
  .next (s.when (s.recovering c && (s.rasCh c).check == 1 && s.ras.fatal.isNone &&
      !(result == .retrainFailed && (s.rasCh c).source != 0x43)) fun s =>
    match result with
    | .passed cols => (s.updRas c fun x => { x with check := 2 }).each cols fun s x => s.failColumn c (x % 128)
    | _ => (s.quarantine c 1 .held).nextWaiting)

/-- The slots of a channel that are out of its pool when the pool is rebuilt: each retired slot is scrubbed, and returns unless the
test fails, which is the memory's (a free value, log entry 6); slots that wait for a scrub still wait (R572). -/
def State.scrubRetired (s : State) (c : Nat) : State × List Nat :=
  (s.pgm c).retired.foldl (fun x i => let (fails, s1) := x.1.drawBool; (s1, if fails then x.2 ++ [i] else x.2)) (s, [])

/-- PGM's pool, tables and handles, and ADM_FREE_PAGES, are rebuilt: nothing is held but what stays retired (R529, R566, R572). The
stores, whose groups lay in the pool, are gone, and no tenant is charged (DEDUCED, log entry 36). -/
def State.rebuildPool (s : State) (c : Nat) : State :=
  let (s1, bad) := s.scrubRetired c
  let p := s1.pgm c
  let hs := p.handles.map fun h => (h.1, { (default : Handle) with gen := h.2.gen })
  let out := p.scrub.foldl (fun l i => insNat i l) bad
  let s2 := s1.updPgm c fun p => { (default : PgmCh) with
    nextTable := p.nextTable, handles := hs.filter fun h => h.2 != default, used := out, scrub := p.scrub, retired := bad }
  let s3 := (((s2.pgmLayout c).wr c Reg.PGM_HANDLES 0).updVse c fun _ => default).each (s2.vse c).stores fun s e =>
    s.each (List.range 16) fun s i => s.wr c ⟨.vse, 0x200 + 4 * i⟩ 0 e.1
  let free := s3.rdN c Reg.PGM_PAGE_COUNT - out.length
  ((((s3.each (s3.selsOf c Reg.ADM_TQ_CHARGED) fun s t => s.wr c Reg.ADM_TQ_CHARGED 0 t).wr c Reg.PGM_PAGES_FREE (lo32 free)).wr c
    Reg.ADM_FREE_PAGES (lo32 free)).wr 0 Reg.SPR_RETIRED (lo32 bad.length) c)

/-- LOST entries are freed, and an ended one holds nothing any longer (R528, R529, R566). -/
def State.freeLost (s : State) (c : Nat) : State :=
  (s.each (s.reqSlots c fun e => e.st == .lost) fun s i => s.updReq c i fun e => { (default : ReqEntry) with gen := e.gen }).each
    (s.reqSlots c fun e => e.st == .done) fun s i => s.updReq c i fun e =>
      { e with table := 0, pagesReserved := 0, pagesHeld := 0, released := true }

/-- A recovering channel returns to service (R564, R566). -/
def State.returnCh (s : State) (c : Nat) : State :=
  let n := (s.jsc c).discarded.length
  let s1 := s.when ((s.rasCh c).wasWaiting) fun s => (s.freeLost c).rebuildPool c
  let covered := (s1.core (if c < 8 then 20 else 21)).covering == some (4 + c)
  let s2 := (((s1.chanBlksBack c).when (!covered) fun s =>
    s.updCore (4 + c) fun x => { x with st := .running, failed := false }).updRas c fun x => { x with svc := .inService, check := 0, dawns := 0, wasWaiting := false }).dropSlot c
  ((s2.endDiscarded c 0xE0).bump 0 Reg.RAS_RECOVERED_CNT).evtPriv rasPage 1 0xE1 0 (fieldAt 0 4 c + fieldAt 32 32 n)

/-- A Dawn start: a channel whose check passed returns to service, and one that has not at its second Dawn is quarantined. Slots that
are free go to WAITING channels. -/
def State.dawnRecovery (s : State) : State :=
  let s1 := s.each (s.channels.filter s.recovering) fun s c =>
    if (s.rasCh c).check = 2 then s.returnCh c
    else
      let s1 := s.updRas c fun x => { x with dawns := x.dawns + 1 }
      if 2 ≤ (s1.rasCh c).dawns then s1.quarantine c 3 .held else s1
  s1.nextWaiting.nextWaiting

/-! ### Device-fatal faults (R568) -/

/-- A device-fatal fault: dispatch stops everywhere, running commands are discarded, recoveries end, the ports signal viral, and
ALERT_N and the management interface say so. -/
def State.deviceFatal (s : State) (p : Page) (source addr detail : Nat) : State :=
  let s1 := (s.logErr p source 0 5 addr detail).setRas fun x =>
    { x with fatalAt := if x.fatalAt.contains p then x.fatalAt else x.fatalAt ++ [p] }
  if s.ras.fatal.isSome then s1
  else
    let s2 := s1.evtPriv rasPage 3 0xE3 source 0
    let s3 := (s2.each s2.channels fun s c => s.discardRunning c).setRas fun x => { x with fatal := some source, slot0 := none, slot1 := none }
    let s4 := s3.each [0, 1] fun s k => s.when (s.rdB k Reg.CXH_CFG 0) fun s =>
      (s.updPort k fun x => { x with viral := true }).evt ⟨.cxh, k⟩ 2
    (State.alertEdge s s4).emit (.mgmtNotice "DEVICE_FATAL")

/-- DEVICE_FATAL_FAULT (R568). -/
def execDeviceFatalFault (p : Page) (source addr detail : Nat) (s : State) : Host.Outcome State Fault Refusal :=
  .next (s.when (sourceClass source == 5 && s.pageExists p) fun s => s.deviceFatal p source addr detail)

/-! ### RAS's registers (R582) -/

/-- RAS_STATUS. -/
def State.rasStatus (s : State) : Word :=
  BitVec.ofNat 32 (fieldAt 0 4 (s.ras.slot0.getD 0) + fieldAt 4 1 (b2n s.ras.slot0.isSome) + fieldAt 8 4 (s.ras.slot1.getD 0) +
    fieldAt 12 1 (b2n s.ras.slot1.isSome) + fieldAt 16 1 (b2n s.ras.fatal.isSome) + fieldAt 24 8 (s.ras.fatal.getD 0))

/-- RAS_CH_STATE of a channel. -/
def State.rasChState (s : State) (c : Nat) : Word :=
  BitVec.ofNat 32 ((match (s.rasCh c).svc with
    | .inService => 0 | .recovering => 1 | .waiting => 2 | .held => 3) + fieldAt 8 8 (s.rasCh c).source)

/-- RAS_QUAR_MASK. -/
def State.quarMask (s : State) : Word := BitVec.ofNat 32 (((List.range 16).filter s.quarantined).foldl (fun m c => m + 2 ^ c) 0)

end Sys2Proof.Machine
end

