-- ==== Sys2Proof/Machine/Banks.lean ====
section
/-! DEFINITION. Queues and rings that start empty as they are enabled (R602), and what follows the swap of a block's banks (R524,
R525). -/
namespace Sys2Proof.Machine

/-! ### Queues and rings (R175, R301, R334, R396, R430, R602) -/

/-- A queue or ring: its CFG register, the bits of its size, its base, and its HEAD and TAIL. `fixed`: its base and size are not
written while it is enabled. -/
structure RingRegs where
  cfg : RegId
  hi : Nat
  lo : Nat
  base : Nat
  head : RegId
  tail : RegId
  fixed : Bool
  deriving DecidableEq, Repr

/-- The queues and rings of a block. The rule of JSC names the base and size of "a queue", and the fault queue is ATU's (DEDUCED, log
entry 39). -/
def ringsOf : Blk → List RingRegs
  | .atn => [⟨Reg.ATN_XR_CFG, 6, 2, 0x114, Reg.ATN_XR_HEAD, Reg.ATN_XR_TAIL, true⟩]
  | .smp => [⟨Reg.SMP_CR_CFG, 5, 1, 0x110, Reg.SMP_CR_HEAD, Reg.SMP_CR_TAIL, true⟩]
  | .jsc =>
    [⟨Reg.JSC_Q_CFG, 5, 1, 0x118, Reg.JSC_Q_HEAD, Reg.JSC_Q_TAIL, true⟩,
      ⟨Reg.JSC_CQ_CFG, 5, 1, 0x130, Reg.JSC_CQ_HEAD, Reg.JSC_CQ_TAIL, true⟩,
      ⟨Reg.JSC_PEVQ_CFG, 5, 1, 0x154, Reg.JSC_PEVQ_HEAD, Reg.JSC_PEVQ_TAIL, true⟩]
  | .atu => [⟨Reg.ATU_FQ_CFG, 5, 1, 0x10C, Reg.ATU_FQ_HEAD, Reg.ATU_FQ_TAIL, false⟩]
  | .trc => [⟨Reg.TRC_SMP_CFG, 5, 1, 0x174, Reg.TRC_SMP_HEAD, Reg.TRC_SMP_TAIL, true⟩]
  | .slp => [⟨Reg.SLP_RXQ_CFG, 5, 1, 0x170, Reg.SLP_RXQ_HEAD, Reg.SLP_RXQ_TAIL, true⟩]
  | _ => []

/-- What else a queue or ring needs as it is enabled: PHASE of a completion queue, C of an OUT ring, the faults that wait for a
record (R163, R307, R324). -/
def State.ringFresh (s : State) (c i : Nat) (r : RegId) : State :=
  if r = Reg.ATN_XR_CFG then s.updAtn c fun x => { x with xrC := x.xrC.set i 0 }
  else if r = Reg.JSC_CQ_CFG then s.updJsc c fun x => { x with phaseFlip := x.phaseFlip.set i false }
  else if r = Reg.TRC_SMP_CFG then s.updTrc c fun x => { x with smpFrom := s.tim.now }
  else if r = Reg.ATU_FQ_CFG then s.flushFaults c
  else s

/-- An enable goes from 0 to 1: HEAD and TAIL read 0 (R602). -/
def State.ringStart (s : State) (c i : Nat) (r : RingRegs) : State :=
  ((s.wr c r.head 0 i).wr c r.tail 0 i).ringFresh c i r.cfg

/-! ### After a swap of banks (R525) -/

/-- Queues whose CFG is banked, and that the swap enabled, start empty (R602). -/
def State.swapRings (s old : State) (p : Page) : State :=
  s.each ((ringsOf p.blk).filter fun r => (bankedOffs p.blk).contains r.cfg.off && s.rdB p.idx r.cfg 0 && !old.rdB p.idx r.cfg 0)
    fun s r => s.ringStart p.idx 0 r

/-- A swap that sets RERANK_EN: as a write that does so (R249, R438). Where it is refused, both banks hold 0. -/
def State.swapRerank (s : State) (c : Nat) (v : Word) : State :=
  let s1 := s.vseCfg c v
  s1.setShadow ⟨.vse, c⟩ 0x100 (if (s1.ccx c).rerank.isSome then v else s1.rd c Reg.VSE_CFG)

/-- A register whose active bank changed takes effect as its chapter says (R524): `old` is the state before the swap. -/
def State.swapEffect (old s : State) (p : Page) : State :=
  let c := p.idx
  match p.blk with
  | .tim => if s.rdB 0 Reg.CAD_CTRL 0 then s.cadRunSet else s.cadRunClear
  | .pln =>
    (s.wr 0 Reg.PLN_CTRL (if s.pln.loading then 1 else 0)).when (s.rd64 0 Reg.PLN_ACT_DAY_LO != old.rd64 0 Reg.PLN_ACT_DAY_LO)
      fun s => s.setPln fun x => { x with armed := true }
  | .rqt => s.when (s.rd c Reg.RQT_ROLE_NEXT != old.rd c Reg.RQT_ROLE_NEXT) fun s => s.updRqt c fun x => { x with roleWritten := true }
  | .vse => if wbit (old.shadowAt p 0x100) 0 && !s.rdB c Reg.VSE_CFG 0 then s.swapRerank c (old.shadowAt p 0x100) else s.syncRerank c
  | .kwp => (s.syncSplit c).syncSolrov c
  | .slp => s.syncSolrov c
  | .psq => State.keepTokens old (State.alertEdge old s.raiseLevel)
  | .clk => State.alertEdge old s
  | _ => s.swapRings old p

/-- Step 2 of R39, and SWAP_NOW (R525). -/
def State.swapAll (s : State) : State :=
  let ps := if s.rdB 0 Reg.BOOT_CFG 0 then [] else s.dirtyPages
  (s.swapBanks).each ps fun t p => State.swapEffect s t p

end Sys2Proof.Machine
end

