-- ==== Sys2Proof/Machine/Cadence.lean ====
section
/-! DEFINITION. The edges of the day: starts, boundaries, windows and guards, and the work that they start (R28 to R41, R145, R160,
R215, R320, R564, R575). -/
namespace Sys2Proof.Machine

/-- The channels that serve. -/
def State.servingChs (s : State) : List Nat := s.channels.filter s.serves

/-! ### Overruns (R37) -/

/-- The operations of a window's class that still run on a channel: sweeps and sampler rows, stalled commits, and T0 placement moves
(DEDUCED, log entry 37). -/
def State.classRuns (s : State) (c : Nat) : Window → Nat
  | .dawn => 0
  | .noon => ((s.begunCmds c).filter fun x => isSweep x.op || x.op == 0xFFF).length
  | .dusk => ((s.smp c).begun.filter BegunCommit.lead).length
  | .midnight => ((s.pgm c).moves.filter fun m => (m.2.map PageMove.kind) == some .t0).length

/-- Adds to the overrun count of a window. -/
def State.bumpOvr (s : State) (n : Nat) : Window → State
  | .dawn => s.bumpF 0 Reg.WIN_OVR_A 15 0 n
  | .noon => s.bumpF 0 Reg.WIN_OVR_A 31 16 n
  | .dusk => s.bumpF 0 Reg.WIN_OVR_B 15 0 n
  | .midnight => s.bumpF 0 Reg.WIN_OVR_B 31 16 n

/-- The end of a window: what still runs is counted, and WINDOW_OVERRUN is posted at most once per window and day. -/
def State.endWindow (s : State) (w : Window) : State :=
  let n := (s.channels.map fun c => s.classRuns c w).sum
  if n = 0 then s
  else
    (s.bumpOvr n w).when (!s.tim.overPosted.contains w) fun s =>
      (s.setTim fun t => { t with overPosted := t.overPosted ++ [w] }).evt timPage 6

/-! ### Scheduled movement at the edges (R38) -/

/-- The image bytes of which a move's WRITE has formed packets. -/
def State.formedOf (s : State) (c id : Nat) : Nat :=
  (((s.kwp c).conns.findSome? fun k => k.2.reqs.find? fun r => r.dev == id + 1 && !r.ended).map KReq.formed).getD 0

/-- At a window's end the scheduled transfers in progress pause at their next 4 KiB boundary, but for those whose calendar names the
window that opens; each is counted once. With the cadence at its end no window opens. -/
def State.pauseMoves (s : State) (next : Option Window) : State :=
  s.each s.channels fun s c => s.each (s.pgm c).moves fun s e => match e.2 with
    | none => s
    | some m =>
      let goesOn := match next with
        | some w => s.moveNamed c m m.epoch w
        | none => false
      s.when (m.scheduled && m.isOver == 0 && !m.paused && !goesOn) fun s =>
        (s.updMove c e.1 fun m => { m with paused := true, stopAt := ceilDiv (s.formedOf c e.1) 4096 * 4096 }).bump 0 Reg.MOVE_CARRIED_CNT

/-- A paused move goes on where its calendar names the window that has opened. -/
def State.resumeMoves (s : State) (c : Nat) : State :=
  s.each (s.pgm c).moves fun s e => match e.2 with
    | none => s
    | some m =>
      s.when (m.paused && s.moveNamed c m m.epoch s.tim.win) fun s =>
        let s1 := (s.updMove c e.1 fun m => { m with paused := false }).kwpGoOn c e.1 m
        s1.when (m.isOver == 0 && (m.src.tier == 3 || m.dst.tier == 3)) fun s => s.moveSettle c e.1

/-- What every window's start does on a channel: gates open, paused transfers go on, and moves that wait are tried again (R38, R206,
R388). -/
def State.openCh (s : State) (c : Nat) : State :=
  ((((s.resumeMoves c).openGates c).kickMoves c true).schedMoves c).kwpResume c

/-- A window begins. -/
def State.openWindow (s : State) (w : Window) : State :=
  let s1 := s.setTim fun t => { t with win := w, guard := false }
  s1.each s1.servingChs fun s c => s.openCh c

/-- The end of one window and the start of the next, at the start's instant. -/
def State.turnWindow (s : State) (old new : Window) : State :=
  let s1 := (s.passToCad (s.winStartCad new)).fillShapers
  (((s1.accrueAll.endWindow old).pauseMoves (some new)).openWindow new).settleAll

/-! ### A new day (R39) -/

/-- What is counted or posted once per day begins anew (R160, R163, R298, R309, R332, R388, R422, R429, R446, R502, R511, R560). -/
def Chan.newDay (x : Chan) : Chan :=
  { x with atn := { x.atn with cut := false, fullPosted := [], dropPosted := [], taken := [] }
           smp := { x.smp with crFull := [] }
           jsc := { x.jsc with evqDrops := [], cqFull := [] }
           trc := { x.trc with ovfPosted := false, ctlPosted := false }
           slp := { x.slp with nakPosted := [], devPosted := [] }
           ccx := { x.ccx with protoPosted := false } }

/-- The daily marks of every block. -/
def State.dailyMarks (s : State) : State :=
  let s1 := s.each s.channels fun s c => (s.updCh c Chan.newDay).updRas c fun x => { x with ceToday := 0, cePosted := false }
  (s1.setTim fun t => { t with overPosted := [] }).mbxDay

/-- Step 1 (R39): activation, with the new calendars of a plan that became ACTIVE (R388). -/
def State.boundaryPlan (s : State) (d : Nat) : State :=
  let s1 := s.fillShapers.activatePlan d
  if s1.pln.active.epoch = s.pln.active.epoch then s1 else s1.each s1.channels fun s c => s.calActivate c

/-- The actions of a day boundary in their order, at one instant: activation, bank swaps, spare remaps, the day number, and Dawn
(R39, R62, R564). -/
def State.beginDay (s : State) (d : Nat) : State :=
  let s0 := (s.each s.channels fun s c => s.lateMonitor c).keepBanks
  let s1 := ((s0.boundaryPlan d).swapAll).remapSpares
  let s2 := (s1.setTim fun t => { t with day := d, ran := true, win := .dawn, guard := false }).dailyMarks
  let s3 := s2.when s2.ras.fatal.isNone State.dawnRecovery
  (s3.each s3.servingChs fun s c => s.dawnStart c).openWindow .dawn

/-- The stop of the cadence at a boundary: none of R39's actions (R29). -/
def State.stopCadence (s : State) : State :=
  ((s.each s.channels fun s c => s.lateMonitor c).setTim fun t =>
    { t with cad := .stopped, realign := false, err := 0, slew := 0, ran := true }).pauseMoves none



/-- The index of the boundary at which a waiting cadence starts: strictly after the instant at which CAD_RUN was set (R28). -/
def State.startIndex (s : State) : Int :=
  let next := s.boundaryFrom s.tim.tod
  if s.tim.tod < s.tim.runSet then next else max next (s.boundaryFrom (s.tim.runSet + 1))

/-- CADENCE_START (R28): the first boundary after CAD_RUN was set, with the actions of a boundary (R29). -/
def execCadenceStart (s : State) : Host.Outcome State Fault Refusal :=
  .next (s.when (s.tim.cad == .waiting) fun s =>
    let k := s.startIndex
    let s1 := s.passToTod ((s.originNs : Int) + k * s.periodNs).toNat
    (s1.setTim fun t => { t with cad := .running, err := 0, slew := 0, realign := false }).beginDay ((s.dayBase : Int) + k).toNat)

/-- DAY_BOUNDARY (R29, R39, R41): Midnight closes; the cadence stops, is extended, or begins the next day. Midnight's overruns are
counted at its nominal end, before an extension (DESIGN CHOICE, log entry 51). -/
def execDayBoundary (s : State) : Host.Outcome State Fault Refusal :=
  .next (s.when (s.tim.cad == .running && s.tim.win == .midnight) fun s =>
    let s1 := (s.passToCad s.dayEndCad).endWindow .midnight
    if !s1.cadRun then s1.stopCadence
    else if s1.tim.realign then s1.setTim fun t => { t with cad := .extended, guard := true, slew := 0 }
    else (s1.pauseMoves (some .dawn)).beginDay (s1.tim.day + 1))



/-- REALIGN_END (R29, R41): ToD reaches the aligned boundary that ends the extension. -/
def execRealignEnd (s : State) : Host.Outcome State Fault Refusal :=
  .next (s.when (s.tim.cad == .extended) fun s =>
    let d := s.realignDay
    let s1 := s.passToTod s.realignTod
    if !s1.cadRun then s1.stopCadence
    else
      let s2 := ((s1.setTim fun t => { t with cad := .running, realign := false, err := 0, slew := 0 }).bump 0 Reg.REALIGN_CNT).evt timPage 4
      (s2.pauseMoves (some .dawn)).beginDay d)

/-! ### Noon (R34, R145) -/

/-- The sweeps of a stepping bin, as commands of the bin's job, tagged with the day (R145, R146, R307). -/
def State.planSweeps (s : State) (c : Nat) (b : Bin) : List Cmd :=
  (schedDescs (s.schedule c) b.id).map fun d =>
    { (default : Cmd) with
      op := 0x100 + (descOf d).kind, sizeM1 := 2, job := b.job, layer := (descOf d).layer, payload := d, plan := true,
      tag := s.tim.day }

/-- JSC enqueues the sweeps of every bin that steps on the day. -/
def State.enqueuePlan (s : State) (c : Nat) : State :=
  let bs := (s.bins c).filter fun b => b.steps s.tim.day
  s.updJsc c fun x => { x with planQueue := x.planQueue ++ bs.flatMap (s.planSweeps c) }

/-- NOON_START (R34, R145). -/
def execNoonStart (s : State) : Host.Outcome State Fault Refusal :=
  .next (s.when (s.tim.cad == .running && s.tim.win == .dawn) fun s =>
    let s1 := s.turnWindow .dawn .noon
    s1.each s1.servingChs fun s c => s.enqueuePlan c)

/-- The Noon cut-off on every channel (R160). -/
def State.cutoffAll (s : State) : State := s.each s.servingChs fun s c => s.noonCutoff c

/-- The instant at which the current window's guard begins (R33). -/
def State.guardStartCad (s : State) : Int :=
  let w := s.tim.win
  (s.originNs : Int) + ((s.tim.day : Int) - s.dayBase) * s.periodNs + s.puStartNs (s.winEndPu w - s.guardPu w)

/-- GUARD_START (R33): with a guard of 0 there is none. In Noon the cut-off falls (R160). -/
def execGuardStart (s : State) : Host.Outcome State Fault Refusal :=
  .next (s.when (s.tim.cad == .running && !s.tim.guard && s.guardPu s.tim.win != 0) fun s =>
    let s1 := (s.passToCad s.guardStartCad).accrueAll.setTim fun t => { t with guard := true }
    (s1.when (s1.tim.win == .noon) State.cutoffAll).settleAll)

/-! ### Dusk (R34, R77, R79) -/

/-- DUSK_START (R34, R77, R79, R82, R160, R236): with a guard of 0 the cut-off falls at the end of Noon;
the full pages that left steps met get their far records before the Dusk work. -/
def execDuskStart (s : State) : Host.Outcome State Fault Refusal :=
  .next (s.when (s.tim.cad == .running && s.tim.win == .noon) fun s =>
    let s1 := (s.passToCad (s.winStartCad .dusk)).cutoffAll.turnWindow .noon .dusk
    s1.each s1.servingChs fun s c => (((s.buildLeft c).duskCancelled c).duskMonitor c).duskFirst c)

/-! ### Midnight (R215, R256, R320, R564, R575) -/

/-- PGM's Midnight work, in the order of R215. -/
def State.pgmMidnight (s : State) (c : Nat) : State :=
  let s1 := s.each (s.reqSlots c fun e => (e.st == .done || e.st == .lost) && !e.released) fun s i => s.releaseReq c i
  let s2 := s1.each ((s1.pgm c).handles.keysWhere fun _ h => h.st == .freeing && !h.released) fun s i => s.releaseHandle c i
  let s3 := s2.each (s2.reqSlots c fun e => (e.st == .resident || e.st == .decoding) && e.evictBudget != 0) fun s i => s.evictReq c i
  ((s3.reclaimAll c).scrubAll c).t0Moves c

/-- A job's report words of one engine (R320). The BASE_NS of each command is the one under which it started (R304), so CMDS × BASE_NS
is the sum over the commands (DEDUCED, log entry 65). -/
def reportEngine (u : Usage) : List Byte :=
  let sat := fun (n : Nat) => min n (2 ^ 32 - 1)
  leBytes 4 (sat u.engineNs) ++ leBytes 4 (sat u.cmds) ++
    leBytes 4 (if u.base = 0 then 0 else sat (65536 * u.engineNs / u.base)) ++ leBytes 4 (sat u.waitNs)

/-- A job's interference report (R320). -/
def State.reportBytes (s : State) (c j : Nat) : List Byte :=
  leBytes 8 s.tim.day ++ leBytes 4 j ++ leBytes 4 0 ++
    ([0, 1, 2, 3, 4].flatMap fun e => reportEngine ((s.jsc c).usage.at (laneKey j e))) ++
    List.replicate 32 0

/-- Writes a job's report where its REPORT_ADDR says, and shows it in JSC_JOB_REPORT; a write that faults is dropped and counted. -/
def State.reportJob (s : State) (c j : Nat) : State :=
  let r := s.reportBytes c j
  let s1 := (wordsOf r).zipIdx.foldl (fun t x => t.wrAt (jscPage c) (0x240 + 4 * x.2) x.1 j) s
  let a := s.job64 c j 0x20
  if a = 0 then s1
  else match s1.translateRange c j a 128 true 2 with
    | (s2, .error _) => s2.bump c Reg.JSC_REPORT_DROP_CNT
    | (s2, .ok ps) => s2.writeSpan c j ps r

/-- JSC closes the interval: a report for every job that used an engine in it (R320). -/
def State.closeInterval (s : State) (c : Nat) : State :=
  let s1 := (s.accrue c).each [0, 1, 2, 3, 4] fun s e => s.accountEngine c e
  let js := (List.range 1024).filter fun j => [0, 1, 2, 3, 4].any fun e =>
    let u := (s1.jsc c).usage.at (laneKey j e)
    u.engineNs != 0 || u.cmds != 0
  ((s1.each js fun s j => s.reportJob c j).updJsc c fun x => { x with usage := [] }).settle c

/-- MIDNIGHT_START (R34, R215). -/
def execMidnightStart (s : State) : Host.Outcome State Fault Refusal :=
  .next (s.when (s.tim.cad == .running && s.tim.win == .dusk) fun s =>
    let s1 := s.turnWindow .dusk .midnight
    let s2 := s1.each s1.servingChs fun s c => (((s.pgmMidnight c).freeDropped c).repairPending c).closeInterval c
    let s3 := { s2 with dbg := { s2.dbg with snaps := s2.dbg.sets } }
    s3.when s3.ras.fatal.isNone State.startChecks)

end Sys2Proof.Machine
end

