-- ==== Sys2Proof/Machine/Doorbells.lean ====
section
/-! DEFINITION. Doorbells (R598 to R600). A doorbell is written by an LD; `size` is the length of the write in bytes. A pointer that is
out of its range is taken modulo the size of its ring or queue (DESIGN CHOICE, log entry 34). -/
namespace Sys2Proof.Machine

/-- The new pointer of a doorbell (R599). -/
def dbPtr (v : DWord) : Nat := v.toNat % 2 ^ 32

/-- The object number of a doorbell (R599). -/
def dbObj (v : DWord) : Nat := nfld v.toNat 49 32

/-- Whether a requester sees the job page of a job, or a channel's privileged page (R467, R598). -/
def State.seesDoorbell (s : State) (rq : Requester) (c : Nat) (job : Option Nat) : Bool :=
  (s.boot.phase == .released) && s.enabledCh c && match rq with
    | .ld n => s.ldEnabled n && (match job with
      | some j => decide (j < 1024) && s.jobLd j == some n
      | none => s.ldPriv n)
    | _ => false

/-- A doorbell on a job page: the owning block checks that it is one aligned 8-byte write and that the object is in range, enabled and
the job's; otherwise it is ignored and recorded (R600). -/
def State.jobBell (s : State) (rq : Requester) (c j size off : Nat) (owner : Blk) (v : DWord) (ok : Bool) (f : State → State) : State :=
  if !s.seesDoorbell rq c (some j) then s.ioUr rq
  else if size = 8 ∧ ok = true then f s
  else s.logDoorbell ⟨owner, c⟩ ((c * 1024 + j) * 0x1000 + off) (v.toNat % 2 ^ 32)

/-- A doorbell on a privileged page. -/
def State.privBell (s : State) (rq : Requester) (c size off : Nat) (owner : Blk) (v : DWord) (ok : Bool) (f : State → State) : State :=
  if !s.seesDoorbell rq c none then s.ioUr rq
  else if size = 8 ∧ ok = true then f s
  else s.logDoorbell ⟨owner, c⟩ (0x4000000 + c * 0x1000 + off) (v.toNat % 2 ^ 32)

/-- The arrival stamp of the present (R32, R62). -/
def State.nowStamp (s : State) : Stamp := ⟨s.stamp, s.inWindow .dawn⟩

/-- DB_CQ_TAIL (R305, R599): the units from the old TAIL to the new one are stamped (R32). -/
def State.setQTail (s : State) (c q p : Nat) : State :=
  let size := s.qSize c q
  let t := s.rdN c Reg.JSC_Q_TAIL q
  let n := (p % size + size - t) % size
  (s.updJsc c fun x => { x with
    stamps := (List.range n).foldl (fun m i => m.set (q * 65536 + (t + i) % size) (some s.nowStamp)) x.stamps }).wr c
      Reg.JSC_Q_TAIL (lo32 (p % size)) q

/-- DB_CQ_TAIL (R599, R600). -/
def execDbCqTail (rq : Requester) (c j size : Nat) (v : DWord) (s : State) : Host.Outcome State Fault Refusal :=
  let q := dbObj v
  .next (s.jobBell rq c j size 0x00 .jsc v (decide (q < 1024) && s.rdB c Reg.JSC_Q_CFG 0 q && s.qJob c q == j) fun s =>
    s.setQTail c q (dbPtr v))

/-- DB_CPL_HEAD (R309, R599, R600): completions that wait for room are written. -/
def execDbCplHead (rq : Requester) (c j size : Nat) (v : DWord) (s : State) : Host.Outcome State Fault Refusal :=
  let q := dbObj v
  .next (s.jobBell rq c j size 0x08 .jsc v
      (decide (q < 1024) && s.rdB c Reg.JSC_CQ_CFG 0 q && s.rdF c Reg.JSC_CQ_CFG 25 16 q == j) fun s =>
    let s1 := (s.accrue c).wr c Reg.JSC_CQ_HEAD (lo32 (dbPtr v % s.cqSize c q)) q
    (s1.flushCpl c q ((s1.jsc c).waitCpl.length + 1)).settle c)

/-- Sweeps of a job set aside on a full OUT ring are suspended as any other once the ring takes their next record (R163). -/
def State.ringRoom (s : State) (c j r : Nat) : State :=
  match s.lane c j 1, s.run c j with
  | x :: _, some run =>
    if x.st = .ringWait ∧ run.d.outRing = r ∧ s.xrRoom c r (run.held.headD []).length = true then
      s.setHead c j 1 fun y => { y with st := .suspended }
    else s
  | _, _ => s

/-- DB_XR_PTR (R162, R163, R599, R600): TAIL of an IN ring, or C of an OUT ring. -/
def execDbXrPtr (rq : Requester) (c j size : Nat) (v : DWord) (s : State) : Host.Outcome State Fault Refusal :=
  let r := dbObj v
  .next (s.jobBell rq c j size 0x10 .atn v (decide (r < 256) && (s.xrIs c r 0 || s.xrIs c r 1) && s.xrJob c r == j) fun s =>
    let p := dbPtr v / 64 * 64 % s.xrSize c r
    if s.xrIs c r 0 then s.wr c Reg.ATN_XR_TAIL (lo32 p) r
    else (((s.accrue c).updAtn c fun x => { x with xrC := x.xrC.set r p }).ringRoom c j r).settle c)

/-- DB_CR_HEAD (R298, R599, R600): records that wait for room are written, and stalled commits tried again. -/
def execDbCrHead (rq : Requester) (c j size : Nat) (v : DWord) (s : State) : Host.Outcome State Fault Refusal :=
  let r := dbObj v
  .next (s.jobBell rq c j size 0x18 .smp v
      (decide (r < 256) && s.rdB c Reg.SMP_CR_CFG 0 r && s.rdF c Reg.SMP_CR_CFG 25 16 r == j) fun s =>
    let s1 := s.wr c Reg.SMP_CR_HEAD (lo32 (dbPtr v % s.crSize c r)) r
    let s2 := s1.flushCr c r ((s1.smp c).waitCr.length + 1)
    s2.each ((s2.smp c).stalled.filter fun i => (s2.req c i).cring == r) fun s i => s.stepCommit c i)

/-- DB_EVQ_HEAD (R332, R599, R600). -/
def execDbEvqHead (rq : Requester) (c j size : Nat) (v : DWord) (s : State) : Host.Outcome State Fault Refusal :=
  .next (s.jobBell rq c j size 0x20 .jsc v (s.evqOn c j) fun s =>
    s.wr c Reg.JSC_EVQ_HEAD (lo32 (dbPtr v % 2 ^ s.evqLog2 c j)) j)

/-- DB_SQ_TAIL (R363, R599, R600): for a connection of the job that is not IDLE. -/
def execDbSqTail (rq : Requester) (c j size : Nat) (v : DWord) (s : State) : Host.Outcome State Fault Refusal :=
  let k := dbObj v
  .next (s.jobBell rq c j size 0x28 .kwp v ((s.conn c k).cstate != 0 && (s.conn c k).job == j) fun s =>
    s.updConn c k fun x => { x with sqTail := dbPtr v % 2 ^ x.sqLog2 })

/-- DB_RXQ_HEAD (R421, R599, R600). -/
def execDbRxqHead (rq : Requester) (c j size : Nat) (v : DWord) (s : State) : Host.Outcome State Fault Refusal :=
  let q := dbObj v
  .next (s.jobBell rq c j size 0x30 .slp v
      (decide (q < 256) && s.rdB c Reg.SLP_RXQ_CFG 0 q && s.rdF c Reg.SLP_RXQ_CFG 25 16 q == j) fun s =>
    s.wr c Reg.SLP_RXQ_HEAD (lo32 (dbPtr v % 2 ^ s.rdF c Reg.SLP_RXQ_CFG 5 1 q)) q)

/-- DB_PEVQ_HEAD (R332, R599, R600). -/
def execDbPevqHead (rq : Requester) (c size : Nat) (v : DWord) (s : State) : Host.Outcome State Fault Refusal :=
  .next (s.privBell rq c size 0x00 .jsc v (s.rdB c Reg.JSC_PEVQ_CFG 0 && dbObj v == 0) fun s =>
    s.wr c Reg.JSC_PEVQ_HEAD (lo32 (dbPtr v % 2 ^ s.rdF c Reg.JSC_PEVQ_CFG 5 1)))

/-- DB_FQ_HEAD (R324, R336, R599, R600): fault records that wait for room are written. -/
def execDbFqHead (rq : Requester) (c size : Nat) (v : DWord) (s : State) : Host.Outcome State Fault Refusal :=
  .next (s.privBell rq c size 0x08 .atu v (s.rdB c Reg.ATU_FQ_CFG 0 && dbObj v == 0) fun s =>
    (s.wr c Reg.ATU_FQ_HEAD (lo32 (dbPtr v % 2 ^ s.rdF c Reg.ATU_FQ_CFG 5 1))).flushFaults c)

/-- DB_SMP_HEAD (R395, R599, R600). -/
def execDbSmpHead (rq : Requester) (c size : Nat) (v : DWord) (s : State) : Host.Outcome State Fault Refusal :=
  .next (s.privBell rq c size 0x10 .trc v (s.rdB c Reg.TRC_SMP_CFG 0 && dbObj v == 0) fun s =>
    s.wr c Reg.TRC_SMP_HEAD (lo32 (dbPtr v % 2 ^ s.rdF c Reg.TRC_SMP_CFG 5 1)))

end Sys2Proof.Machine
end

