-- ==== Sys2Proof/Machine/Faults.lean ====
section
/-! DEFINITION. Control core faults, injected faults, watch points, the hang snapshot, and DBG's reads of core memory (R570, R576 to
R579, R582, R584). -/
namespace Sys2Proof.Machine

/-! ### Control cores (R507, R570) -/

/-- The compute die of a channel's core. -/
def dieOf (k : Nat) : Nat := if k < 12 then 0 else 1

/-- The spare core of a compute die. -/
def State.spareSt (s : State) (d : Nat) : SpareCore := if d = 0 then s.spr.die0 else s.spr.die1

/-- The core that a die's spare serves. -/
def State.spareServes (s : State) (d : Nat) : Nat := if d = 0 then s.spr.die0Core else s.spr.die1Core

/-- Sets a die's spare core. -/
def State.setSpare (s : State) (d : Nat) (st : SpareCore) (k : Nat) : State :=
  s.setSpr fun x => if d = 0 then { x with die0 := st, die0Core := k } else { x with die1 := st, die1Core := k }

/-- Whether a core runs and can take duties: it covers no other, and no update runs on it. -/
def State.coreIdle (s : State) (k : Nat) : Bool := (s.core k).st == .running && (s.core k).covering.isNone && !(s.core k).failed

/-- One core's duties, with the mailboxes routed to it, pass to another (R527, R570). -/
def State.takeDuties (s : State) (old new : Nat) : State :=
  let ns := (List.range mailboxes).filter fun n => s.routeOf n == old
  ((s.each ns fun s n => s.setRoute n new).updCore new fun x => { x with covering := some old, took := ns }).updCore old fun x =>
    { x with covering := none, took := [] }

/-- A core has failed. -/
def State.markFailed (s : State) (k : Nat) : State := s.updCore k fun x => { x with st := .off, failed := true }

/-- A core fault that another core carries: corrected, under SOURCE 0x12 (R558). -/
def State.coreCarried (s : State) (k : Nat) : State :=
  ((s.logErr rasPage 0x12 0 1 0 k).bump 0 Reg.RAS_CE_CNT).when (decide (4 ≤ k ∧ k < 20)) fun s => s.countCe (k - 4)

/-- The channel-fatal fault of a channel's core (R570). -/
def State.coreLost (s : State) (k : Nat) : State := s.chFatals [⟨.ras, k - 4, 0x41, 0, k, 0, 0, 0⟩]

/-- A channel's core fails: the die's spare core covers it and is offered, or the fault is channel-fatal (R570, R571). -/
def State.chCoreFault (s : State) (k : Nat) : State :=
  let d := dieOf k
  if s.spareSt d == .free && s.coreIdle (20 + d) then
    (((((s.markFailed k).takeDuties k (20 + d)).setSpare d .covering k).coreCarried k).offerSpare true d k)
  else (s.markFailed k).coreLost k

/-- The lowest other device core that runs, first one that covers no other. -/
def State.otherDeviceCore (s : State) (k : Nat) : Option Nat :=
  let l := [0, 1, 2, 3].filter fun x => x != k && (s.core x).st == .running
  (l.find? fun x => (s.core x).covering.isNone).or l.head?

/-- A device core fails: another takes its duties, and the device fails with fewer than two RUNNING (R558, R570). -/
def State.devCoreFault (s : State) (k : Nat) : State :=
  let s1 := s.markFailed k
  let s2 := match s1.otherDeviceCore k with
    | some x => (s1.takeDuties k x).coreCarried k
    | none => s1
  s2.when (decide (([0, 1, 2, 3].filter fun x => (s2.core x).st == .running).length < 2)) fun s => s.deviceFatal rasPage 0x53 0 k

/-- A spare core fails: what it covers is lost, as the failure of the covered core (R527). The fault of an idle one counts as corrected
(DESIGN CHOICE, log entry 36). -/
def State.spareFault (s : State) (k : Nat) : State :=
  let s1 := s.markFailed k
  match (s.core k).covering with
  | some x => (s1.setSpare (k - 20) .free 0).coreLost x
  | none => s1.coreCarried k

/-- An update ends with a core that takes part in it (R527). -/
def State.dropUpdates (s : State) (k : Nat) : State :=
  { s with boot := { s.boot with updates := s.boot.updates.filter fun e => match e.2 with
    | some u => u.core != k && u.standin != k
    | none => true } }

/-- A control core fails. A core that is not in use cannot. -/
def State.coreFault (s0 : State) (k : Nat) : State :=
  let s := s0.dropUpdates k
  if (s.core k).st == .off then s0
  else if k < 4 then s.devCoreFault k
  else if k < 20 then (if s.enabledCh (k - 4) then s.chCoreFault k else s)
  else if k < 22 then s.spareFault k else s

/-- CORE_FAULT (R570). -/
def execCoreFault (core : Nat) (s : State) : Host.Outcome State Fault Refusal := .next (s.coreFault core)

/-! ### Injected faults (R582) -/

/-- An uncorrectable DRAM error in a line: the homes whose page images hold a part of it become POISONED, in whichever channel's table
they lie (R202, R211). -/
def State.lineError (s : State) (a n : Nat) : State :=
  let hit := fun (k : Nat) (p : Pte) => p.there && !p.link && (s.imgRanges ⟨p.tier, p.addr⟩ 0 20480).any fun r =>
    decide (r.1 < a + n) && decide (a < r.1 + r.2)
  (s.mpoison a n).each s.channels fun s d => s.each ((s.pgm d).ptes.keysWhere hit) fun s k => s.poisonPage d k

/-- A deferred error is injected (R211, R561, R562, R569). Which line, table unit or column it strikes the spec does not say: free
values (log entry 6). -/
def State.injectDeferred (s : State) (c source : Nat) : State :=
  let (n, s1) := s.drawNat
  if source = 0x23 then s1.failColumn c (n % 128)
  else
    let s2 := (s1.logErr rasPage source 0 2 0 c).bump 0 Reg.RAS_DEFER_CNT
    if source = 0x22 then match (s2.pgm c).ptes[n % max 1 (s2.pgm c).ptes.length]? with
      | some e => s2.loseUnit c e.1
      | none => s2
    else s2.lineError (t1Base c + 64 * (n % 2 ^ 29)) 64

/-- A job-fatal error is injected: the job is not named (a free value, log entry 6). -/
def State.injectJob (s : State) (source : Nat) : State :=
  let (n, s1) := s.drawNat
  ((s1.logErr rasPage source (n % 1024) 3 0 0).bump 0 Reg.RAS_JOBFATAL_CNT).tearDown (n % 1024) 4

/-- RAS_INJECT with GO (R582). -/
def State.inject (s : State) (v : Word) : State :=
  let c := fld v 3 0
  let src := fld v 15 8
  if !s.enabledCh c then s
  else if s.isOut c && (1 ≤ sourceClass src && sourceClass src ≤ 3) then s.logErr rasPage src 0 (sourceClass src) 0 c
  else match sourceClass src with
    | 1 => if src = 0x12 then s.coreFault (4 + c) else ((s.logErr rasPage src 0 1 0 c).bump 0 Reg.RAS_CE_CNT).countCe c
    | 2 => s.injectDeferred c src
    | 3 => s.injectJob src
    | 4 => s.chFatals [⟨.ras, c, src, 0, 0, 0, 0, 0⟩]
    | 5 => s.deviceFatal rasPage src 0 c
    | _ => s

/-- RAS_INJECT (R582). -/
def execRasInject (rq : Requester) (v : Word) (s : State) : Host.Outcome State Fault Refusal :=
  .next (s.onWrite rq 0 Reg.RAS_INJECT v fun s => s.when (wbit v 31) fun s => s.inject v)

/-! ### Watch points (R576, R584) -/

/-- A write of DBG_WP_CTRL: the fields are stored, and ARM clears the results and arms the selected watch point. -/
def State.wpCtrl (s : State) (v : Word) : State :=
  (s.store 0 Reg.DBG_WP_CTRL v).when (wbit v 0) fun s => s.armWatch (s.selOf dbgPage Reg.DBG_WP_CTRL.off)

/-- ARM (R576). -/
def execArm (rq : Requester) (v : Word) (s : State) : Host.Outcome State Fault Refusal :=
  .next (s.onWrite rq 0 Reg.DBG_WP_CTRL v fun s => s.wpCtrl v)

/-! ### The hang snapshot (R578, R579) -/

/-- KIND 2's state of a lane's head. A head set aside on a full OUT ring counts as suspended (DEDUCED, log entry 38). -/
def State.headCode (s : State) (c : Nat) (x : LaneCmd) : Nat :=
  match x.st with
  | .ready => if s.waitMet c x.cmd then 0 else 1
  | .suspended | .ringWait => 3
  | .faulted _ | .faultWait => 4

/-- The entry of a lane's head, and that of the token it waits for. -/
def State.snapHead (s : State) (c e : Nat) (cmd : Cmd) (st : Nat) : List SnapEntry :=
  ⟨2, e, cmd.job, e, cmd.op % 4096 + 4096 * st + 2 ^ 32 * cmd.tag⟩ ::
    (if st = 1 then [⟨3, e, cmd.job, cmd.waitTok, s.tokValue c cmd.waitTok + 2 ^ 32 * cmd.waitValue⟩] else [])

/-- The command queues and lanes of a channel. -/
def State.snapQueues (s : State) (c : Nat) : List SnapEntry :=
  ((s.selsOf c Reg.JSC_Q_CFG).map fun q =>
    ⟨1, Blk.jsc.code, s.qJob c q, q, s.rdN c Reg.JSC_Q_HEAD q + 2 ^ 32 * s.rdN c Reg.JSC_Q_TAIL q⟩) ++
  ([0, 1, 2, 3, 4].flatMap fun e => match (s.engine c e).holder with
    | some h => s.snapHead c e h 2
    | none => []) ++
  (s.jsc c).lanes.flatMap fun l => match l.2 with
    | x :: _ => s.snapHead c (l.1 % 8) x.cmd (s.headCode c x)
    | [] => []

/-- The arbiter pointers of a channel, numbered within their blocks (log entry 38). -/
def State.snapArbiters (s : State) (c : Nat) : List SnapEntry :=
  let x := s.ch c
  let of := fun (b : Blk) (base : Nat) (l : SMap Nat) => l.map fun e => (⟨5, b.code, 0, base + e.1, e.2⟩ : SnapEntry)
  [⟨5, Blk.rqt.code, 0, 0, x.rqt.jobPtr⟩, ⟨5, Blk.kwp.code, 0, 0, x.kwp.cachePtr⟩, ⟨5, Blk.ccx.code, 0, 0, x.ccx.tiePtr⟩] ++
    of .jsc 0 x.jsc.ptr ++ of .trc 0 x.trc.turn ++ of .ccx 0x10000 x.ccx.setPtr ++ of .ccx 0x20000 x.ccx.filtPtr

/-- The credits, arbiters and tags of a channel. -/
def State.snapWaits (s : State) (c : Nat) : List SnapEntry :=
  (if (s.ch c).slp.mode then (s.ch c).slp.link.credits.zipIdx.map fun x => ⟨4, Blk.slp.code, 0, c + 16 * x.2, x.1⟩ else []) ++
  s.snapArbiters c ++
  ((s.ch c).slp.tags.filter fun t => t.2.live && decide (t.1 < 16384)).map fun t =>
    ⟨6, Blk.slp.code, 0, t.1, (if t.2.slot = s.selfSlot c then 0x7F else t.2.slot) + 2 ^ 32 * ((s.tim.now - t.2.at_) / 1000)⟩

/-- The rings of a channel: exchange, completion, event and sampling. -/
def State.snapRings (s : State) (c : Nat) : List SnapEntry :=
  let at_ := fun (b : Blk) (kind n job head tail : Nat) => (⟨7, b.code, job, n % 256 + 256 * kind, head + 2 ^ 32 * tail⟩ : SnapEntry)
  ((s.selsOf c Reg.ATN_XR_CFG).map fun r => at_ .atn 0 r (s.xrJob c r) (s.rdN c Reg.ATN_XR_HEAD r) (s.rdN c Reg.ATN_XR_TAIL r)) ++
  ((s.selsOf c Reg.SMP_CR_CFG).map fun r =>
    at_ .smp 1 r (s.rdF c Reg.SMP_CR_CFG 25 16 r) (s.rdN c Reg.SMP_CR_HEAD r) (s.rdN c Reg.SMP_CR_TAIL r)) ++
  (at_ .jsc 2 0 0 (s.rdN c Reg.JSC_PEVQ_HEAD) (s.rdN c Reg.JSC_PEVQ_TAIL) ::
    ((s.selsOf c Reg.JSC_EVQ_TAIL).map fun j => at_ .jsc 2 j j (s.rdN c Reg.JSC_EVQ_HEAD j) (s.rdN c Reg.JSC_EVQ_TAIL j))) ++
  [at_ .trc 3 0 0 (s.rdN c Reg.TRC_SMP_HEAD) (s.rdN c Reg.TRC_SMP_TAIL)]

/-- A channel's snapshot: header first, at most 16,384 entries. -/
def State.snapCh (s : State) (c : Nat) : State :=
  let l := ⟨0, 0, 0, c, s.stamp⟩ :: (s.snapQueues c ++ s.snapWaits c ++ s.snapRings c)
  { s with dbg := { s.dbg with snapshot := s.dbg.snapshot.set c (l.take 16384),
                               truncated := s.dbg.truncated.set c (decide (16384 < l.length)) } }

/-- SNAP (R578): every enabled channel takes its snapshot, and SNAP_DONE is posted. -/
def execSnap (rq : Requester) (s : State) : Host.Outcome State Fault Refusal :=
  .next (s.onWrite rq 0 Reg.DBG_SNAP_CMD 1 fun s => (s.each s.channels fun s c => s.snapCh c).evt dbgPage 0)

/-- The 16 bytes of a snapshot entry (R579). -/
def SnapEntry.bytes (x : SnapEntry) : List Byte :=
  leBytes 4 (fieldAt 0 8 x.kind + fieldAt 8 8 x.unit + fieldAt 16 10 x.job) ++ leBytes 4 x.id ++ leBytes 8 x.value

/-- DBG_SNAP_STAT of a channel (R584). -/
def State.snapStat (s : State) (c : Nat) : Word :=
  BitVec.ofNat 32 (fieldAt 1 1 (b2n (s.dbg.truncated.at c)) + fieldAt 16 15 (s.dbg.snapshot.at c).length)

/-! ### Core memory (R516, R584) -/

/-- DEBUG_LOCK (R516). -/
def State.debugLock (s : State) : Bool := s.boot.fuses.options.testBit 8

/-- DBG_MEM_READ (R584): a word of a core's memory, whose content no rule gives (a free value, log entry 6), or MEM_REFUSED. -/
def execDbgMemRead (rq : Requester) (s : State) : Host.Outcome State Fault Refusal :=
  .next (s.onWrite rq 0 Reg.DBG_MEM_CMD 1 fun s =>
    if s.debugLock then s.evt dbgPage 2
    else
      let (n, s1) := s.drawNat
      s1.wr 0 Reg.DBG_MEM_DATA (lo32 n))

end Sys2Proof.Machine
end

