-- ==== Sys2Proof/Machine/RegWrite.lean ====
section
/-! DEFINITION. A write of any register of a page: the header of R6, the registers that have a row of their own, the registers whose
write a rule holds back or changes, and the plain ones, which store by their access type (R4, R5, R592). -/
namespace Sys2Proof.Machine

/-- The state that a row's meaning leaves. -/
def State.row (s : State) (f : State → Host.Outcome State Fault Refusal) : State :=
  match f s with
  | .next t => t
  | _ => s

/-- Runs the actions whose bit is written, in order. -/
def State.acts (s : State) (l : List (Bool × (State → State))) : State := l.foldl (fun s a => s.when a.1 a.2) s

/-! ### The header (R6, R7, R9, R596, R597) -/

/-- A write of BLK_CTRL: RESET_BLOCK and ENABLE are judged by QUIESCED and STATE as they were before the write (R9, R603). -/
def State.ctrlWrite (s : State) (p : Page) (v : Word) : State :=
  let q := (s.blkSt p).quiesced
  let s1 := s.when (wbit v 2) fun s => if q then s.resetWork p else s.logIgnored p 0x008 v
  let off := (s.blkSt p).st == .draining && q && !wbit v 0
  let s2 := if off then (s1.setEnable p false).setQuiesce p (wbit v 1)
    else (s1.mayReady p fun s => s.setQuiesce p (wbit v 1)).setEnable p (wbit v 0)
  s2.when (wbit v 3) fun s => s.setLock p

/-- A write of a header word (R6). The other words are read-only. -/
def State.headerWrite (s : State) (p : Page) (off : Nat) (v : Word) : State :=
  if off = 0x008 then s.ctrlWrite p v
  else if off = 0x010 then s.clearEvts p v 0
  else if off = 0x014 then s.storeActive p 0x014 0 (2 ^ evtBits p.blk - 1) v
  else if off = 0x018 then s.each (evtsOf p.blk v) fun s n => s.evt p n
  else if off = 0x01C then if s.locked p then s.logIgnored p off v else s.storeActive p 0x01C 0 0x0F1F1FFF v
  else if off = 0x020 then s.clearErrLog p v false
  else if off = 0x040 then s.storeActive p 0x040 0 1 v
  else s

/-! ### Queues and rings (R175, R301, R334, R396, R430, R602) -/

/-- A write of a queue's or ring's CFG. While it is enabled its size is not written, and the write is recorded (R558). The
completions that wait for a completion queue that is disabled are discarded and recorded (R307). -/
def State.ringWrite (s : State) (c : Nat) (r : RingRegs) (v : Word) : State :=
  let i := s.selOf ⟨r.cfg.blk, c⟩ r.cfg.off
  let old := s.rd c r.cfg i
  if wbit old 0 then
    let same := fld v r.hi r.lo == fld old r.hi r.lo
    let w := if r.fixed then setFld v r.hi r.lo (fld old r.hi r.lo) else v
    let off := r.cfg == Reg.JSC_CQ_CFG && !wbit w 0
    ((((s.when off fun s => s.accrue c).store c r.cfg w).when (r.fixed && !same) fun s => s.logIgnored ⟨r.cfg.blk, c⟩ r.cfg.off v).when
      off fun s => (s.flushCpl c i (s.jsc c).waitCpl.length).settle c)
  else (s.store c r.cfg v).when (wbit v 0) fun s => s.ringStart c i r

/-! ### Writes that a rule holds back -/

/-- SEED of a job that holds a request or a handle (R228). -/
def State.seedWrite (s : State) (p : Page) (off : Nat) (v : Word) : State :=
  if s.holdsAny p.idx (s.selOf p off) then (s.logIgnored p off v).evt p 0
  else s.storeActive p off (s.selOf p off) 0xFFFFFFFF v

/-- Whether a rule ignores a write of a register for as long as the state holds: the cadence's origin while CAD_RUN is 1 (R28), a
queue's base while it is enabled, a region's fields while ENABLE is 1 (R259), CCX's map while the domain joins or is UP (R463), and a
T2 window while VALID is 1 (R494). Such a write is recorded (R558; DEDUCED, log entry 39). -/
def State.heldBack (s : State) (p : Page) (off : Nat) : Bool :=
  let c := p.idx
  match p.blk with
  | .tim => decide (0x154 ≤ off) && decide (off ≤ 0x164) && s.rdB 0 Reg.CAD_CTRL 0
  | .zrb => decide (0x110 ≤ off) && decide (off ≤ 0x11C) && s.rdB c Reg.ZRB_RGN_CFG 0 (s.selOf p off)
  | .ccx => (off == 0x100 || decide (0x108 ≤ off) && decide (off ≤ 0x11C)) &&
      ((s.ccx c).dstate == 1 || (s.ccx c).dstate == 2)
  | .cmp => decide (0x120 ≤ off) && decide (off ≤ 0x130) && s.rdB 0 Reg.CMP_T2_CTRL 31 (s.selOf p off)
  | b => (ringsOf b).any fun r => r.fixed && (off == r.base || off == r.base + 4) && s.rdB c r.cfg 0 (s.selOf p off)

/-- CMP_T2_CTRL: only VALID can be written while VALID is 1 (R494). -/
def State.t2Ctrl (s : State) (v : Word) : State :=
  let old := s.rd 0 Reg.CMP_T2_CTRL (s.selOf ⟨.cmp, 0⟩ 0x134)
  if wbit old 31 then
    (s.store 0 Reg.CMP_T2_CTRL (setBit old 31 (wbit v 31))).when (fld (v &&& 0x1F3) 30 0 != fld old 30 0) fun s => s.logIgnored ⟨.cmp, 0⟩ 0x134 v
  else s.store 0 Reg.CMP_T2_CTRL v

/-- ZRB_RGN_CFG with ENABLE 0: only ENABLE can be written while it is 1 (R259). -/
def State.rgnDisable (s : State) (c : Nat) (v : Word) : State :=
  let r := s.rdN c Reg.ZRB_RGN_SEL
  let old := s.rd c Reg.ZRB_RGN_CFG r
  if wbit old 0 then
    ((s.store c Reg.ZRB_RGN_CFG (setBit old 0 false)).wr c Reg.ZRB_RGN_STAT 0 r).when (fld (v &&& 0xFFFFFF1F) 31 1 != fld old 31 1) fun s =>
      s.logIgnored ⟨.zrb, c⟩ 0x10C v
  else s.store c Reg.ZRB_RGN_CFG v

/-- PULL_SLOTS of DMV_CFG as it is stored (R222). -/
def pullSlots (v : Word) : Word :=
  let n := fld v 5 0
  setFld v 5 0 (if n = 0 then 1 else min n 32)

/-- KWP_CFG: SPLIT and Solrov mode follow while the port reads QUIESCED (R338, R398), and packets that waited for KW_EN go (R379). -/
def State.kwpCfg (s : State) (c : Nat) (v : Word) : State :=
  (((s.store c Reg.KWP_CFG v).syncSplit c).syncSolrov c).when (!s.kwEn c) fun s => s.kwpResume c

/-- The WO registers that hold a value, read as 0: keys (R430, R463). -/
def isKey (p : Page) (off : Nat) : Bool :=
  (p.blk == .slp && (off == 0x144 || off == 0x160 || off == 0x178)) || (p.blk == .ccx && off == 0x140)

/-- A write that reached the active bank of a register without a row of its own. -/
def State.bankWrite (s : State) (p : Page) (off : Nat) (v : Word) : State :=
  let c := p.idx
  let put := fun (s : State) => match findRow p.blk off with
    | none => s
    | some r => if r.acc = .ro ∨ (r.acc = .wo ∧ isKey p off = false) then s else s.storeActive p off (s.selOf p off) r.mask v
  if s.heldBack p off then s.logIgnored p off v
  else match (ringsOf p.blk).find? fun r => r.cfg.off == off with
    | some r => s.ringWrite c r v
    | none => match p.blk with
      | .pln => (put s).when (off == 0x114 || off == 0x118) fun s => s.setPln fun x => { x with armed := true }
      | .rqt => (put s).when (off == 0x104) fun s => s.updRqt c fun x => { x with roleWritten := true }
      | .skt => if off = 0x108 ∨ off = 0x10C then s.seedWrite p off v else put s
      | .kwp => if off = 0x100 then s.kwpCfg c v else if off = 0x150 then s.winAssign c v else put s
      | .cmp => if off = 0x134 then s.t2Ctrl v else put s
      | .zrb => if off = 0x10C then s.rgnDisable c v else put s
      | .psq => State.keepTokens s (State.alertEdge s (put s))
      | .clk => State.alertEdge s (put s)
      | _ => put s

/-! ### Registers that have a row of their own -/

/-- A write of JSC_JOB_CMD (R329, R330). -/
def State.jobCmd (s : State) (rq : Requester) (c : Nat) (v : Word) : State :=
  if wbit v 0 then s.row (execKill rq c (wbit v 1)) else s.when (wbit v 1) fun s => s.row (execClear rq c)

/-- A write of ATU_FAULT_RESP: ACTION 0 or 3 is ignored, counted and recorded (R327, R336). -/
def State.faultResp (s : State) (rq : Requester) (c : Nat) (v : Word) : State :=
  if fld v 9 8 = 1 then s.row (execFaultRetry rq c (fld v 5 0))
  else if fld v 9 8 = 2 then s.row (execFaultFail rq c (fld v 5 0))
  else s.onWrite rq c Reg.ATU_FAULT_RESP v fun s => (s.respIgnored c).logIgnored ⟨.atu, c⟩ 0x11C v

/-- What a write of a register with a row of its own does, by register. -/
def rowWrites (rq : Requester) (c : Nat) (v : Word) : Blk → List (RegId × (State → State))
  | .tim =>
    [(Reg.TOD_CTRL, fun s => if wbit v 0 then s.row (execTodSet rq (wbit v 1)) else s.when (wbit v 1) fun s => s.row (execTodStep rq)),
      (Reg.SERVO_OFFSET_NS, fun s => s.row (execServoOffset rq v)),
      (Reg.CAD_CTRL, fun s => if wbit v 0 then s.row (execCadRunSet rq) else s.row (execCadRunClear rq))]
  | .pln =>
    [(Reg.PLN_CTRL, fun s =>
      if wbit v 0 then s.row (execPlanLoad rq (wbit v 1)) else s.when (wbit v 1) fun s => s.row (execPlanDiscard rq))]
  | .vse =>
    [(Reg.VSE_CFG, fun s => s.row (execRerankEnWrite rq c v)), (Reg.VSE_REPAIR_POP, fun s => s.row (execVseRepairPop rq c v))]
  | .jsc => [(Reg.JSC_JOB_CMD, fun s => s.jobCmd rq c v), (Reg.JSC_TOK_CTRL, fun s => s.row (execTokenAssign rq c v))]
  | .atu => [(Reg.ATU_FAULT_RESP, fun s => s.faultResp rq c v), (Reg.ATU_INV_CTRL, fun s => s.row (execTlbInvalidate rq c v))]
  | .kwp =>
    [(Reg.KWP_CONN_CMD, fun s => s.acts
      [(wbit v 0, fun s => s.row (execConnSet rq c (wbit v 4))), (wbit v 1, fun s => s.row (execConnReset rq c (wbit v 4))),
        (wbit v 2, fun s => s.row (execConnDestroy rq c)), (wbit v 3, fun s => s.row (execConnSnap rq c))])]
  | .trc =>
    [(Reg.TRC_SHP_RATE, fun s => s.row (execShaperRateWrite rq c v)),
      (Reg.TRC_SHP_BURST, fun s => s.row (execShaperConfigWrite rq c true v)),
      (Reg.TRC_SHP_QUEUE, fun s => s.row (execShaperConfigWrite rq c false v)),
      (Reg.TRC_POL_CFG, fun s => s.row (execPolicerConfigWrite rq c Reg.TRC_POL_CFG.off v)),
      (Reg.TRC_POL_CIR, fun s => s.row (execPolicerConfigWrite rq c Reg.TRC_POL_CIR.off v)),
      (Reg.TRC_POL_CBS, fun s => s.row (execPolicerConfigWrite rq c Reg.TRC_POL_CBS.off v)),
      (Reg.TRC_POL_EXC, fun s => s.row (execPolicerConfigWrite rq c Reg.TRC_POL_EXC.off v)),
      (Reg.TRC_POL_PIR, fun s => s.row (execPolicerConfigWrite rq c Reg.TRC_POL_PIR.off v))]
  | .slp =>
    [(Reg.SLP_CFG, fun s => s.row (execSolrovModeEnter rq c v)),
      (Reg.SLP_ABANDON, fun s => s.acts
        [(wbit v 8, fun s => s.row (execAbandon rq c (fld v 6 0) (wbit v 31))),
          (wbit v 9, fun s => s.row (execSlpRevive rq c (fld v 6 0) (wbit v 31)))])]
  | .ccx =>
    [(Reg.CCX_CMD, fun s => s.acts
      [(wbit v 0, fun s => s.row (execCcxJoin rq c)), (wbit v 1, fun s => s.row (execCcxLeave rq c)),
        (wbit v 2, fun s => s.row (execCcxRevive rq c (fld v 10 8)))])]
  | .mbx =>
    [(Reg.MBX_ROUTE, fun s => s.row (execMbxRouteWrite rq v)),
      (Reg.MBX_RX_CTRL, fun s => s.acts
        [(wbit v 0, fun s => s.row (execEmpty rq)), (wbit v 1, fun s => s.row (execClrCollision rq))]),
      (Reg.MBX_RX_ACK, fun s => s.row (execMbxRxAck rq v))]
  | .psq => [(Reg.PSQ_THROT_FORCE, fun s => s.row (execThrotForceWrite rq v))]
  | .ras => [(Reg.RAS_INJECT, fun s => s.row (execRasInject rq v))]
  | .dbg =>
    [(Reg.DBG_WP_CTRL, fun s => s.row (execArm rq v)), (Reg.DBG_SNAP_CMD, fun s => s.when (wbit v 0) fun s => s.row (execSnap rq)),
      (Reg.DBG_MEM_CMD, fun s => s.when (wbit v 0) fun s => s.row (execDbgMemRead rq))]
  | .spr =>
    [(Reg.SPR_CMD, fun s => s.acts
      [(wbit v 8, fun s => s.row (execSpareCommit rq (fld v 7 0))), (wbit v 9, fun s => s.row (execSpareDecline rq (fld v 7 0)))])]
  | .zrb => if wbit v 0 then [(Reg.ZRB_RGN_CFG, fun s => s.row (execRegionEnable rq c v))] else []
  | _ => []

/-- A write of a register, from outside or by a BLKCFG record, but for the commands of BOOT and SEC. A reserved offset and a read-only
register ignore it (R5, R592). -/
def State.regWrite (s : State) (rq : Requester) (p : Page) (off : Nat) (w : Word) : State :=
  let v := if p.blk = .dmv ∧ off = 0x100 then pullSlots w else w
  if off % 4 ≠ 0 then s
  else if p.blk = .jsc ∧ 0x200 ≤ off ∧ off < 0x240 then s.row (execJobContextWrite rq p.idx (off - 0x200) v)
  else match (rowWrites rq p.idx v p.blk).find? fun r => r.1.off == off with
    | some r => r.2 s
    | none => s.withWrite rq p off v fun s => if off < 0x100 then s.headerWrite p off v else s.bankWrite p off v

end Sys2Proof.Machine
end

