-- ==== Sys2Proof/Machine/Boot.lean ====
section
/-! DEFINITION. The boot from POWER_GOOD to the release, and the resets (R512 to R518, R552). -/
namespace Sys2Proof.Machine

/-- BOOT's page. -/
def bootPage : Page := ⟨.boot, 0⟩

/-- Changes BOOT's state. -/
def State.setBoot (s : State) (f : Boot → Boot) : State := { s with boot := f s.boot }

/-! ### Resets (R515) -/

/-- What a reset leaves of memory: DRAM and SRAM are not kept; T2 is the hosts' memory. -/
def Memory.afterReset (m : Memory) : Memory :=
  { cells := m.cells.filter fun e => inT2 e.1, poison := m.poison.filter fun l => inT2 (64 * l) }

/-- The device as a cold reset leaves it: every register at reset. What is not the device's own state stays: the fuses, the NOR, T2,
the references at the pins, the trip that holds the regulators off, elapsed time, and the model's log, draws and queue. -/
def State.cold (s : State) : State :=
  { State.reset with
    tim := { Tim.reset with now := s.tim.now, ref10m := s.tim.ref10m }
    mem := s.mem.afterReset
    boot := { State.reset.boot with
      nor := s.boot.nor, fuses := s.boot.fuses, fused := s.boot.fused, chanMask := s.boot.fuses.chanMask }
    clk := { State.reset.clk with lost := s.clk.lost }
    psq := { State.reset.psq with tripped := s.psq.tripped }
    out := s.out, free := s.free, pending := s.pending }

/-- Whether a register word keeps its value over a warm reset: BLK_ERR_LOG and the RWS registers (R515, R559). -/
def warmKept (k : Nat) : Bool :=
  let off := k / selSpan % 1024 * 4
  decide (0x020 ≤ off ∧ off < 0x03C) ||
    match blkOfCode (k / selSpan / 1024 / 16) with
    | some b => match findRow b off with
      | some r => r.acc == .rws
      | none => false
    | none => false

/-- A warm reset: phase FUSES again (R515). -/
def State.warm (s : State) : State :=
  let t := s.cold
  State.alertEdge s { t with
    regs := s.regs.filter fun e => warmKept e.1
    clk := s.clk
    boot := { t.boot with pwrGood := s.boot.pwrGood, goodAt := s.boot.goodAt } }

/-- A cold reset, from the fall of PWR_GOOD to its next rise (R515, R536). -/
def State.powerLoss (s : State) : State := State.alertEdge s s.cold

/-- POWER_LOSS (R515). -/
def execPowerLoss (s : State) : Host.Outcome State Fault Refusal := .next s.powerLoss

/-- POWER_GOOD (R512, R551): phase FUSES begins, unless the regulators are held off after a trip or an input fault (R547). -/
def execPowerGood (sysrefSel : Bool) (s : State) : Host.Outcome State Fault Refusal :=
  .next (s.when (!s.boot.pwrGood && !s.psq.tripped) fun s =>
    let t := s.setBoot fun b => { b with pwrGood := true, goodAt := s.tim.now, phase := .fuses }
    { t with psq := { t.psq with regsOff := false }, clk := { t.clk with sysrefSel := sysrefSel } })

/-- MOD_RESET (R552): a warm reset. -/
def execModReset (s : State) : Host.Outcome State Fault Refusal := .next (s.when s.boot.pwrGood State.warm)

/-- WARM_RESET (R515). -/
def execWarmReset (rq : Requester) (s : State) : Host.Outcome State Fault Refusal :=
  .next (s.onWrite rq 0 Reg.BOOT_CTRL 1 State.warm)

/-! ### Fuses, ROM and image (R512 to R514, R516, R521, R522) -/

/-- Replaces a measurement. -/
def State.measure (s : State) (i : Nat) (h : List Byte) : State := s.setSec fun x => { x with meas := x.meas.set i h }

/-- Measurement 2 (R522). -/
def State.measureHw (s : State) : State :=
  let f := s.boot.fuses
  s.measure 2 (sha256 (Config.hwRecord f.options f.chanMask f.svn f.keyRevoke s.sec.keySlot))

/-- The registers that show the fuses and the identity key. -/
def State.fuseRegs (s : State) : State :=
  let f := s.boot.fuses
  ((s.wr 0 Reg.BOOT_CHAN_MASK (lo32 f.chanMask)).wr 0 Reg.BOOT_OPTIONS (lo32 f.options)).each
    ((wordsOf (identityPub f.idSeed)).zipIdx) fun s w => s.wrAt secPage (0x200 + 4 * w.2) w.1

/-- The ROM runs on core 0 and samples BOOT_SRC; the image is then read (R512). Harvested channels have their ports and stacks powered
down (R539). -/
def State.romStart (s : State) (srcCxl : Bool) : State :=
  let s1 := (s.setBoot fun b => { b with phase := .image, srcCxl := srcCxl, failCode := 0, chunks := [] }).updCore 0 fun x =>
    { x with st := .romWait }
  s1.each ((List.range 16).filter fun c => !s.enabledCh c) fun s c => (s.setDom (32 + c) .off).setDom (54 + c) .off

/-- FUSES_LOADED (R512, R516, R521): phases FUSES and ROM end. The bank that the part holds is taken at its first load (log entry 5). -/
def execFusesLoaded (f : Fuses) (srcCxl : Bool) (s : State) : Host.Outcome State Fault Refusal :=
  .next (s.when (s.boot.pwrGood && s.boot.phase == .fuses) fun s =>
    let g := if s.boot.fused then s.boot.fuses else f
    let s1 := s.setBoot fun b => { b with fuses := g, fused := true, chanMask := g.chanMask % 65536 }
    let s2 := (s1.fuseRegs.setSec fun x => { x with idReady := true }).measure 1 (sha256 Config.bootRom)
    s2.measureHw.romStart srcCxl)

/-- Whether a chunk overlaps one that was received. -/
def overlaps (m : SMap (List Byte)) (off n : Nat) : Bool :=
  m.any fun e => decide (e.1 < off + n) && decide (off < e.1 + e.2.length)

/-- LOAD_BOOT_IMAGE (R513): a chunk that overlaps, or of more than 4 KiB, is refused. -/
def execLoadBootImage (off : Nat) (data : List Byte) (s : State) : Host.Outcome State Fault Refusal :=
  .next (s.when (s.boot.phase == .image && s.boot.srcCxl) fun s =>
    if 4096 < data.length ∨ overlaps s.boot.chunks off data.length = true then s.emit (.msg "FM_INVALID_INPUT" [off] [])
    else (s.setBoot fun b => { b with chunks := b.chunks.set off data }).emit (.msg "FM_SUCCESS" [off] []))

/-- BOOT_IMAGE_DONE (R512, R513): phase VERIFY begins. -/
def execBootImageDone (s : State) : Host.Outcome State Fault Refusal :=
  .next (s.when (s.boot.phase == .image && s.boot.srcCxl) fun s => s.setBoot fun b => { b with phase := .verify })

/-- A boot fails: core 0 stays in the ROM, the others in reset, and ALERT_N is asserted (R514). R518 counts and posts what it refuses. -/
def State.bootFail (s : State) (code : Nat) : State :=
  let s1 := (s.setBoot fun b => { b with phase := .failed, failCode := code, cores := [] }).updCore 0 fun x => { x with st := .romWait }
  let s2 := s1.when (decide (code ≤ 5)) fun s => (s.bump 0 Reg.SEC_IMAGE_FAIL_CNT).evt secPage 0
  State.alertEdge s s2

/-- BOOT_IMAGE_TIMEOUT (R513): 10 s after PWR_GOOD. -/
def execBootImageTimeout (s : State) : Host.Outcome State Fault Refusal :=
  .next (s.when (s.boot.phase == .image && s.boot.srcCxl) fun s => (s.passToNow (s.boot.goodAt + 10000000000)).bootFail 6)

/-- The bytes that chunks give without a gap from offset 0 on. -/
def chunkBytes : SMap (List Byte) → Nat → List Byte
  | [], _ => []
  | (k, bs) :: m, n => if k = n then bs ++ chunkBytes m (n + bs.length) else []

/-- The image as it was received: IMAGE_LEN bytes of the NOR, or the chunks. -/
def State.gotImage (s : State) : List Byte :=
  if s.boot.srcCxl then chunkBytes s.boot.chunks 0
  else s.norRead 0 (max 256 (min 16777216 (leNat (s.norRead 8 4))))

/-- An image that passed: phase LOAD begins, with measurements 2 to 5 (R512, R522). -/
def State.bootPass (s : State) (img : List Byte) : State :=
  let s1 := (s.setBoot fun b => { b with phase := .load, image := img, chunks := [] }).setSec fun x => { x with keySlot := imgSlot img }
  ((s1.measureHw.measure 3 (sha256 (img.take 0x50))).measure 4 (sha256 ((imgOf img 2).flatMap (imgSection img)))).measure 5
    (sha256 ((imgOf img 3).flatMap (imgSection img)))

/-- IMAGE_RECEIVED (R512, R518): the source gave the whole image, or failed. -/
def execImageReceived (readError : Bool) (s : State) : Host.Outcome State Fault Refusal :=
  .next (s.when (s.boot.phase == (if s.boot.srcCxl then .verify else .image)) fun s =>
    if readError then s.bootFail 6
    else match bootCheck s.boot.fuses s.gotImage with
      | 0 => s.bootPass (s.gotImage.take (imgLen s.gotImage))
      | e => s.bootFail e)

/-- BOOT_RETRY (R514): over the management interface or the FM API, a failed boot restarts at phase ROM. -/
def State.bootRetry (s : State) (rq : Requester) (srcCxl : Bool) : State :=
  s.when ((rq == .mgmt || rq == .fm) && s.boot.phase == .failed) fun s => State.alertEdge s (s.romStart srcCxl)

/-- BOOT_RETRY (R514): `srcCxl` is BOOT_SRC as the ROM then samples it. -/
def execBootRetry (rq : Requester) (srcCxl : Bool) (s : State) : Host.Outcome State Fault Refusal :=
  .next (s.onWrite rq 0 Reg.BOOT_CTRL 2 fun s => s.bootRetry rq srcCxl)

/-! ### Load, training and release (R512) -/

/-- The page at a BAR0 offset (R589, R590). -/
def pageAt (off : Nat) : Option Page :=
  if off < 0x1000000 then (blkOfCode (off / 0x10000)).bind fun b =>
    if b.perChannel || !(off / 0x1000 % 16 == 0 || b == .cxh) then none else some ⟨b, off / 0x1000 % 16⟩
  else if off < 0x3000000 then (blkOfCode ((off - 0x1000000) % 0x200000 / 0x1000)).bind fun b =>
    if b.perChannel then some ⟨b, (off - 0x1000000) / 0x200000⟩ else none
  else none

/-- One BLKCFG record: [23:0] numbers the word of BAR0, 4 bytes each (DEDUCED, log entry 40). -/
def State.blkcfg (s : State) (r : List Byte) : State :=
  let off := 4 * (recNat r 0 4 % 2 ^ 24)
  match pageAt off with
  | some p => s.regWrite .core p (off % 0x1000) (lo32 (recNat r 4 4))
  | none => s

/-- LOAD_PHASE_DONE (R512, R517, R522): BLKCFG records are applied in order, every enabled core runs its image, and the stacks train, one
wake token each (R539). -/
def execLoadPhaseDone (s : State) : Host.Outcome State Fault Refusal :=
  .next (s.when (s.boot.phase == .load) fun s =>
    let img := s.boot.image
    let recs := (imgOf img 2).flatMap fun e => (chunksOf 8 (e.len / 8) (imgSection img e)).filter fun r => r.length == 8
    let s1 := s.each recs State.blkcfg
    let s2 := s1.each (enabledCores s.boot.chanMask) fun s k =>
      (s.updCore k fun x => { x with st := .running, svn := imgSvn img }).measure (8 + k) (sha256 (imgFirmware img k))
    let s3 := s2.each s2.channels fun s c => (s.setDom (54 + c) .off).wake (54 + c)
    s3.setBoot fun b => { b with phase := .train })

/-- The plan of the image becomes the ACTIVE plan (R48, R517). -/
def State.bootPlan (s : State) : State :=
  match imgPlan s.boot.chanMask s.boot.image with
  | some p => ((s.setPln fun x => { x with active := p }).epochRegs).cadRegs
  | none => s

/-- A channel is initialised: PGM's layout, the free pages, and the calendar of the ACTIVE plan (R182, R388). -/
def State.initCh (s : State) (c : Nat) : State := (s.rebuildPool c).calActivate c

/-- Firmware sets ENABLE in a page (R512, R603). -/
def State.releasePage (s : State) (p : Page) : State := s.setEnable p true

/-- The release (R512, R514): the channels whose stack failed training stay OUT. -/
def State.releaseAll (s : State) (failed : List Nat) : State :=
  let bad := s.channels.filter fun c => failed.contains c
  let s1 := (s.bootPlan.setBoot fun b =>
    { b with trainFailed := bad, phase := .released, relMs := min 65535 ((s.tim.now - b.goodAt) / 1000000),
             chOut := bad.foldl (fun m c => m.set c .out) b.chOut }).each s.channels fun s c => s.setDom (54 + c) .on
  let s2 := s1.each s1.channels fun s c => s.initCh c
  let s3 := s2.each (s2.allPages.filter fun p => !(p.blk.perChannel && bad.contains p.idx)) fun s p =>
    s.when ((s.blkSt p).st == .off) fun s => s.releasePage p
  s3.each bad fun s c => ((s.chanDown c).rerouteFrom c).evtPriv bootPage 2 0xD2 2 c

/-- TRAINING_DONE (R512, R514): `failed` lists the channels whose stack failed. -/
def execTrainingDone (failed : List Nat) (s : State) : Host.Outcome State Fault Refusal :=
  .next (s.when (s.boot.phase == .train) fun s => s.releaseAll failed)

/-! ### Registers (R530, R532) -/

/-- PHASE of R512. -/
def BootPhase.code : BootPhase → Nat
  | .fuses => 0 | .rom => 1 | .image => 2 | .verify => 3 | .load => 4 | .train => 5 | .released => 6 | .failed => 7

/-- BOOT_STATUS. -/
def State.bootStatus (s : State) : Word :=
  BitVec.ofNat 32 (s.boot.phase.code + fieldAt 4 4 s.boot.failCode + fieldAt 8 1 (b2n s.boot.srcCxl) + fieldAt 16 16 s.boot.relMs)

/-- BOOT_CORE_STAT of a core. -/
def State.coreStat (s : State) (k : Nat) : Word :=
  let x := s.core k
  BitVec.ofNat 32 ((match x.st with
    | .off => 0 | .romWait => 1 | .running => 2 | .drained => 3 | .updating => 4) + fieldAt 4 1 (b2n x.covering.isSome) +
    fieldAt 8 5 (x.covering.getD 0) + fieldAt 16 7 x.svn)

/-- BOOT_CH_STATE. -/
def State.bootChState (s : State) : Word :=
  BitVec.ofNat 32 (((List.range 16).map fun c => 4 ^ c * match s.boot.chOut.at c with
    | .inService => 0 | .draining => 1 | .out => 2 | .retraining => 3).sum)

/-- BOOT_NOR_STAT. -/
def State.norStat (s : State) : Word := BitVec.ofNat 32 (b2n s.boot.norBusy + 2 * b2n s.boot.norRefused)

/-- SEC_STATUS. -/
def State.secStatus (s : State) : Word :=
  let f := s.boot.fuses
  BitVec.ofNat 32 (fieldAt 0 1 (b2n (f.options.testBit 8)) + fieldAt 1 1 (b2n s.sec.idReady) + fieldAt 2 2 s.sec.keySlot +
    fieldAt 4 4 f.keyRevoke + fieldAt 8 7 f.svn)

end Sys2Proof.Machine
end

