-- ==== Sys2Proof/Machine/Update.lean ====
section
/-! DEFINITION. The update of a control core (R526, R527), the NOR (R519, R530), and the burning of fuses (R520). -/
namespace Sys2Proof.Machine

/-! ### Core updates -/

/-- The die of a core: the compute dies 0 and 1, and 2 for the I/O die (R507, R527). -/
def coreDie (k : Nat) : Nat := if k < 4 then 2 else if k < 12 ∨ k = 20 then 0 else 1

/-- The update of a die. -/
def State.updateOn (s : State) (d : Nat) : Option CoreUpdate := s.boot.updates.at d

/-- Sets the update of a die. -/
def State.setUpdate (s : State) (d : Nat) (u : Option CoreUpdate) : State := s.setBoot fun b => { b with updates := b.updates.set d u }

/-- RESULT and FAIL_CODE of BOOT_UPD_STATUS. -/
def State.updResult (s : State) (result code : Nat) : State :=
  s.wr 0 Reg.BOOT_UPD_STATUS (lo32 (fieldAt 4 4 result + fieldAt 8 4 code))

/-- BOOT_UPD_STATUS, with BUSY. -/
def State.updStatus (s : State) : Word :=
  setBit (s.rd 0 Reg.BOOT_UPD_STATUS) 0 (s.boot.updates.any fun e => e.2.isSome)

/-- The core that covers another. -/
def State.coverOf (s : State) (k : Nat) : Option Nat := (List.range 22).find? fun x => (s.core x).covering == some k

/-- An update begins at a step. -/
def State.beginUpdate (s : State) (k standin step : Nat) : State :=
  ((s.setUpdate (coreDie k) (some
    { core := k, standin := standin, addr := s.rd64 0 Reg.BOOT_UPD_ADDR_LO, len := s.rdN 0 Reg.BOOT_UPD_LEN, step := step, svn := 0,
      hash := [] })).updResult 0 0).emit (.coreNotice k "update")

/-- The stand-in of a core: RESULT if there is none, or the core (R526, R527). A device core's is another device core. -/
def State.standinOf (s : State) (k named : Nat) : Except Nat Nat :=
  if k < 4 then
    if 4 ≤ named ∨ named = k then .error 2 else if s.coreIdle named then .ok named else .error 1
  else
    let d := dieOf k
    if s.spareSt d == .remapped then .error 2 else if s.coreIdle (20 + d) then .ok (20 + d) else .error 1

/-- GO of BOOT_UPD_CMD (R527). A core that is not in use, and one that is neither RUNNING nor in ROM_WAIT, is refused with BUSY
(DEDUCED, log entry 40). -/
def State.updateGo (s : State) (k named : Nat) : State :=
  if (s.updateOn (coreDie k)).isSome then s.updResult 1 0
  else if s.released = true ∧ (s.core k).st = .romWait then s.beginUpdate k ((s.coverOf k).getD k) 2
  else if k ≥ 22 ∨ (s.core k).st ≠ .running then s.updResult 1 0
  else if 20 ≤ k then if (s.core k).covering.isSome then s.updResult 1 0 else s.beginUpdate k k 1
  else match s.standinOf k named with
    | .error r => s.updResult r 0
    | .ok x => s.beginUpdate k x 1

/-- The word of BOOT_UPD_CMD. -/
def updWord (core standin : Nat) : Word := lo32 (fieldAt 0 5 core + fieldAt 8 5 standin + 2 ^ 31)

/-- FW_UPDATE (R526, R527). -/
def execFwUpdate (rq : Requester) (core standin : Nat) (s : State) : Host.Outcome State Fault Refusal :=
  .next (s.onWrite rq 0 Reg.BOOT_UPD_CMD (updWord core standin) fun s => s.updateGo (core % 32) (standin % 32))

/-- Runs a step of a core's update. -/
def State.onUpdate (s : State) (k step : Nat) (f : State → CoreUpdate → State) : State :=
  match s.updateOn (coreDie k) with
  | some u => if u.core = k ∧ u.step = step then f s u else s
  | none => s

/-- UPDATE_DRAINED (R527): the duties and the routes pass to the stand-in, and the target reads DRAINED. -/
def execUpdateDrained (core : Nat) (s : State) : Host.Outcome State Fault Refusal :=
  .next (s.onUpdate core 1 fun s u =>
    ((s.when (u.standin != core) fun s => s.takeDuties core u.standin).updCore core fun x => { x with st := .drained }).setUpdate
      (coreDie core) (some { u with step := 2 }))

/-- An update fails: the target waits in the ROM, and the stand-in keeps its duties (R527). What R518 refuses is counted and posted. -/
def State.updateFail (s : State) (k code : Nat) : State :=
  let s1 := ((s.setUpdate (coreDie k) none).updCore k fun x => { x with st := .romWait }).updResult 3 code
  (s1.when (decide (code ≤ 5)) fun s => (s.bump 0 Reg.SEC_IMAGE_FAIL_CNT).evt secPage 0).evtPriv bootPage 1 0xD1 code k

/-- UPDATE_IMAGE_READ (R526, R527): the image is checked, and loaded or refused. A read that fails or meets poison is a failure of the
source (DEDUCED, log entry 40). -/
def execUpdateImageRead (core : Nat) (readError : Bool) (s : State) : Host.Outcome State Fault Refusal :=
  .next (s.onUpdate core 2 fun s0 u =>
    let s := s0.touch noJob u.addr u.len
    let img := s.vread u.addr u.len
    if readError || s.vpoison u.addr u.len then s.updateFail core 6
    else match updateCheck s.boot.fuses core img with
      | 0 => (s.updCore core fun x => { x with st := .updating }).setUpdate (coreDie core)
          (some { u with step := 3, svn := imgSvn img, hash := sha256 (imgFirmware img core) })
      | e => s.updateFail core e)

/-- The duties return to a core, and the routes with them. -/
def State.giveBack (s : State) (k standin : Nat) : State :=
  let l := (s.core standin).took
  if standin = k then s
  else (s.each l fun s n => s.setRoute n k).updCore standin fun x => { x with covering := none, took := [] }

/-- FW_SELF_TEST_DONE (R522, R527). -/
def execFwSelfTestDone (core : Nat) (s : State) : Host.Outcome State Fault Refusal :=
  .next (s.onUpdate core 3 fun s u =>
    let s1 := (s.setUpdate (coreDie core) none).updCore core fun x => { x with st := .running, svn := u.svn }
    (((s1.giveBack core u.standin).measure (8 + core) u.hash).updResult 0 0).evtPriv bootPage 0 0xD0 0
      (fieldAt 0 5 core + fieldAt 32 7 u.svn))

/-! ### The NOR (R519, R530) -/

/-- BOOT_NOR_ADDR. -/
def State.norAddr (s : State) : Nat := s.rdF 0 Reg.BOOT_NOR_ADDR 27 0

/-- REFUSED of BOOT_NOR_STAT. -/
def State.norRefuse (s : State) (b : Bool) : State := s.setBoot fun x => { x with norRefused := b }

/-- Whether NOR bytes from an address on meet the certificate chain. -/
def inChain (a n : Nat) : Bool := (List.range n).any fun i => decide (chainBase ≤ (a + i) % 2 ^ 28)

/-- Writes NOR bytes. -/
def State.norWrite (s : State) (a : Nat) (bs : List Byte) : State :=
  s.setBoot fun x => { x with nor := bs.zipIdx.foldl (fun m b => SMap.put norErased ((a + b.2) % 2 ^ 28) b.1 m) x.nor }

/-- NOR_READ (R530): 256 bytes into the data window. -/
def execNorRead (rq : Requester) (s : State) : Host.Outcome State Fault Refusal :=
  .next (s.onWrite rq 0 Reg.BOOT_NOR_CMD 1 fun s =>
    (s.norRefuse false).each ((wordsOf (s.norRead s.norAddr 256)).zipIdx) fun s w => s.wrAt bootPage (0x200 + 4 * w.2) w.1)

/-- The 256 bytes of the data window. -/
def State.norWindow (s : State) : List Byte :=
  (List.range 64).flatMap fun i => leBytes 4 (s.rdAt bootPage (0x200 + 4 * i)).toNat

/-- NOR_PROGRAM (R519, R530): 256 bytes from the data window. -/
def execNorProgram (rq : Requester) (s : State) : Host.Outcome State Fault Refusal :=
  .next (s.onWrite rq 0 Reg.BOOT_NOR_CMD 2 fun s =>
    if inChain s.norAddr 256 then s.norRefuse true else (s.norRefuse false).norWrite s.norAddr s.norWindow)

/-- NOR_ERASE (R519, R530): the 64 KiB that hold the address. -/
def execNorErase (rq : Requester) (s : State) : Host.Outcome State Fault Refusal :=
  .next (s.onWrite rq 0 Reg.BOOT_NOR_CMD 4 fun s =>
    let b := s.norAddr / 65536
    if chainBase ≤ 65536 * b then s.norRefuse true
    else (s.norRefuse false).setBoot fun x => { x with nor := x.nor.filter fun e => e.1 / 65536 != b })

/-! ### Burning fuses (R520) -/

/-- Whether a requester may burn: an LD with PRIV, which is the only one that reaches the page, or the management interface. -/
def mayBurn : Requester → Bool
  | .ld _ => true
  | .mgmt => true
  | _ => false

/-- Changes the fuses. -/
def State.setFuses (s : State) (f : Fuses → Fuses) : State := s.setBoot fun b => { b with fuses := f b.fuses }

/-- The cores that run an image. -/
def State.runningCores (s : State) : List Nat := (List.range 22).filter fun k => (s.core k).st == .running

/-- The fused SVN rises to V, unless V is above the SVN of every running image, or not above the fused one. -/
def State.svnBurn (s : State) (v : Nat) : State :=
  if (s.runningCores.all fun k => decide ((s.core k).svn < v)) || decide (v ≤ s.boot.fuses.svn) then s
  else ((s.setFuses fun f => { f with svn := v }).measureHw).evt secPage 1

/-- SVN_BURN (R520). -/
def execSvnBurn (rq : Requester) (v : Nat) (s : State) : Host.Outcome State Fault Refusal :=
  .next (s.onWrite rq 0 Reg.SEC_SVN_BURN (lo32 (v % 128 + 2 ^ 31)) fun s => s.when (mayBurn rq) fun s => s.svnBurn (v % 128))

/-- KEY_REVOKE bits are burned, unless they name the slot of the running image. -/
def State.keyBurn (s : State) (slots : Nat) : State :=
  if slots.testBit s.sec.keySlot then s else (s.setFuses fun f => { f with keyRevoke := f.keyRevoke ||| slots }).evt secPage 2

/-- KEY_REVOKE (R520). -/
def execKeyRevoke (rq : Requester) (slots : Nat) (s : State) : Host.Outcome State Fault Refusal :=
  .next (s.onWrite rq 0 Reg.SEC_KEY_REVOKE (lo32 (slots % 16 + 2 ^ 31)) fun s => s.when (mayBurn rq) fun s => s.keyBurn (slots % 16))

end Sys2Proof.Machine
end

