-- ==== Sys2Proof/Machine/Service.lean ====
section
/-! DEFINITION. Channels out of service and back (R528, R529), SWAP_NOW (R525), and a write of any register, the commands of BOOT and SEC
included (R5). -/
namespace Sys2Proof.Machine

/-! ### OUT, RETRAIN, IN -/

/-- The service state of a channel (R530). -/
def State.chSvc (s : State) (c : Nat) : ChSvc := s.boot.chOut.at c

/-- Sets the service state of a channel. -/
def State.setChSvc (s : State) (c : Nat) (x : ChSvc) : State := s.setBoot fun b => { b with chOut := b.chOut.set c x }

/-- BOOT_CH_RESULT: 0 OK, 1 BUSY, 2 BAD_STATE. -/
def State.chResult (s : State) (r : Nat) : State := s.wr 0 Reg.BOOT_CH_RESULT (lo32 r)

/-- The word of BOOT_CH_CMD. -/
def chWord (c bit : Nat) : Word := lo32 (c % 16 + 2 ^ bit)

/-- The conditions of R528: for OUT from quarantine a LOST entry counts as FREE (R567). -/
def State.canGoOut (s : State) (c : Nat) : Bool :=
  (s.reqSlots c fun e => e.st != .free && !(s.quarantined c && e.st == .lost)).isEmpty &&
    ((s.pgm c).handles.all fun h => h.2.st == .free) &&
    ((List.range 1024).all fun j => !s.jobEnabled c j) &&
    (s.cmp.entries.all fun e => !(e.2.used && overlap e.2.stateBase e.2.bytes (t1Base c) 0x800000000)) &&
    !(s.boot.updates.any fun e => match e.2 with
      | some u => u.core == 4 + c
      | none => false)

/-- A quarantined channel that goes OUT waits for no recovery slot, and its LOST entries are freed (R528, R567). -/
def State.outQuarantined (s : State) (c : Nat) : State :=
  s.when (s.quarantined c) fun s => (s.updRas c fun x => { x with svc := .held }).freeLost c

/-- OUT accepted: QUIESCE in every block; the channel is OUT once all are quiesced (R528). -/
def State.startOut (s : State) (c : Nat) : State :=
  let s1 := ((s.chResult 0).setChSvc c .draining).outQuarantined c
  let s2 := s1.each chanBlks fun s b => s.setQuiesce ⟨b, c⟩ true
  s2.when (s2.allQuiesced c) fun s => s.finishOut c

/-- OUT (R528): BUSY unless the conditions hold, and BAD_STATE for a channel that is disabled or not in service (DEDUCED, log entry
40). -/
def execChOut (rq : Requester) (c : Nat) (s : State) : Host.Outcome State Fault Refusal :=
  .next (s.onWrite rq 0 Reg.BOOT_CH_CMD (chWord c 8) fun s =>
    let k := c % 16
    if !s.enabledCh k || s.chSvc k != .inService then s.chResult 2
    else if s.canGoOut k then s.startOut k else s.chResult 1)

/-- A channel's T1 loses its contents (R529). -/
def State.loseT1 (s : State) (c : Nat) : State :=
  { s with mem := { cells := s.mem.cells.filter fun e => !inT1 c e.1, poison := s.mem.poison.filter fun l => !inT1 c (64 * l) } }

/-- RETRAIN (R529): of an OUT channel, under one wake token. -/
def execRetrain (rq : Requester) (c : Nat) (s : State) : Host.Outcome State Fault Refusal :=
  .next (s.onWrite rq 0 Reg.BOOT_CH_CMD (chWord c 9) fun s =>
    let k := c % 16
    if s.enabledCh k && s.chSvc k == .out then
      ((((s.chResult 0).setChSvc k .retraining).setDom (54 + k) .off).wake (54 + k)).loseT1 k
    else s.chResult 2)

/-- RETRAIN_DONE (R529): the channel is OUT again; a failure posts CH_OUT with CAUSE 2. -/
def execRetrainDone (c : Nat) (ok : Bool) (s : State) : Host.Outcome State Fault Refusal :=
  .next (s.when (s.chSvc c == .retraining) fun s =>
    let s1 := s.setChSvc c .out
    if ok then s1.setDom (54 + c) .on else (s1.setDom (54 + c) .off).evtPriv bootPage 2 0xD2 2 c)

/-- A channel's core serves again, unless the die's spare answers for it. -/
def State.coreBack (s : State) (c : Nat) : State :=
  s.when ((s.core (if c < 8 then 20 else 21)).covering != some (4 + c)) fun s =>
    s.updCore (4 + c) fun x => { x with st := .running, failed := false }

/-- One block of a channel is initialised again, and enabled (R529, R603). QUIESCE, which OUT set, clears (DEDUCED, log entry 40). -/
def State.blockIn (s : State) (p : Page) : State := ((s.resetWork p).setQuiesce p false).setEnable p true

/-- IN on an OUT channel (R529, R572). -/
def State.startIn (s : State) (c : Nat) : State :=
  let s1 := (((s.chResult 0).setChSvc c .inService).freeLost c).initCh c
  let s2 := (s1.updCh c fun x => { x with rqt := { x.rqt with roleWritten := true } }).updRas c fun x =>
    { x with svc := .inService, check := 0, dawns := 0, wasWaiting := false }
  let s3 := (s2.each chanBlks fun s b => s.blockIn ⟨b, c⟩).coreBack c
  ((s3.wake (32 + c)).wake (54 + c)).evtPriv bootPage 3 0xD3 0 c

/-- IN (R529). -/
def execChIn (rq : Requester) (c : Nat) (s : State) : Host.Outcome State Fault Refusal :=
  .next (s.onWrite rq 0 Reg.BOOT_CH_CMD (chWord c 10) fun s =>
    if s.enabledCh (c % 16) && s.chSvc (c % 16) == .out then s.startIn (c % 16) else s.chResult 2)

/-! ### SWAP_NOW (R525) -/

/-- SWAP_NOW: only while the cadence is STOPPED or WAITING. -/
def State.swapNow (s : State) : State :=
  if s.tim.cad == .stopped || s.tim.cad == .waiting then s.keepBanks.swapAll else s.logIgnored bootPage 0x104 4

/-- SWAP_NOW (R525). -/
def execSwapNow (rq : Requester) (s : State) : Host.Outcome State Fault Refusal :=
  .next (s.onWrite rq 0 Reg.BOOT_CTRL 4 State.swapNow)

/-! ### Any register (R5) -/

/-- A write of a command register of BOOT or SEC, by its bits; for BOOT_RETRY BOOT_SRC is taken as it last was. -/
def State.bootCmd (s : State) (rq : Requester) (p : Page) (off : Nat) (v : Word) : Option State :=
  match p.blk, off with
  | .boot, 0x104 => some (s.acts
      [(wbit v 2, fun s => s.row (execSwapNow rq)), (wbit v 1, fun s => s.row (execBootRetry rq s.boot.srcCxl)),
        (wbit v 0, fun s => s.row (execWarmReset rq))])
  | .boot, 0x128 => some (s.when (wbit v 31) fun s => s.row (execFwUpdate rq (fld v 4 0) (fld v 12 8)))
  | .boot, 0x130 => some (s.acts
      [(wbit v 8, fun s => s.row (execChOut rq (fld v 3 0))), (wbit v 9, fun s => s.row (execRetrain rq (fld v 3 0))),
        (wbit v 10, fun s => s.row (execChIn rq (fld v 3 0)))])
  | .boot, 0x140 => some (s.acts
      [(wbit v 0, fun s => s.row (execNorRead rq)), (wbit v 1, fun s => s.row (execNorProgram rq)),
        (wbit v 2, fun s => s.row (execNorErase rq))])
  | .sec, 0x104 => some (s.when (wbit v 31) fun s => s.row (execSvnBurn rq (fld v 6 0)))
  | .sec, 0x108 => some (s.when (wbit v 31) fun s => s.row (execKeyRevoke rq (fld v 3 0)))
  | _, _ => none

/-- What becomes of a register write that does not take effect: it does not reach the page, it reaches the page of a channel without the
privilege for it and is recorded (R593), or LOCK holds the register (R5, R7). -/
def State.writeTurnedAway (s : State) (rq : Requester) (p : Page) (off : Nat) (v : Word) : Option State :=
  match s.gate rq p with
  | .ignore => some (s.ioUr rq)
  | .ignoreLog => some (s.when (off % 4 == 0) fun s => s.logIgnored p off v)
  | .pass =>
    if off % 4 = 0 ∧ (findRow p.blk off).any (fun r => r.acc == .rwl) = true ∧ s.locked p = true then some (s.logIgnored p off v)
    else none

/-- REGISTER_WRITE (R5, R7, R593). -/
def execRegisterWrite (rq : Requester) (p : Page) (off : Nat) (v : Word) (s : State) : Host.Outcome State Fault Refusal :=
  .next ((s.writeTurnedAway rq p off v).getD ((s.bootCmd rq p off v).getD (s.regWrite rq p off v)))

end Sys2Proof.Machine
end

