-- ==== Sys2Proof/Machine/Supply.lean ====
section
/-! DEFINITION. The input supply, the thermal trip, the reference clocks and the PLLs (R536, R547 to R557). -/
namespace Sys2Proof.Machine

/-! ### Supply and trip -/

/-- The core regulators turn off: PWR_GOOD falls, and the next start is a cold one (R515, R536). -/
def State.regsDown (s : State) : State :=
  let t := s.cold
  State.alertEdge s { t with psq := { t.psq with regsOff := true } }

/-- When the trip of R547 falls: at 115 °C at once, at 110 °C after 1 ms. -/
def State.tripAt (s : State) : Option Nat :=
  if 920 ≤ s.tj then some s.tim.now
  else match s.psq.hotSince with
    | some t => if 880 ≤ s.tj then some (t + 1000000) else none
    | none => none

/-- THERMTRIP (R547): THERMTRIP_N and ALERT_N are asserted, and the regulators stay off until the input has fallen below 42 V. -/
def execThermtrip (s : State) : Host.Outcome State Fault Refusal :=
  .next (match s.tripAt with
    | none => s
    | some t =>
      let s1 := (s.passToNow t).emit (.pin "THERMTRIP_N" false)
      let s2 := State.alertEdge s1 (s1.setPsq fun p => { p with tripped := true })
      s2.regsDown)

/-- VIN_WARN (R536): the input enters 42-44 V or 58-60 V. -/
def execVinWarn (mv : Nat) (s : State) : Host.Outcome State Fault Refusal :=
  .next (s.when (s.boot.pwrGood && ((decide (42000 ≤ mv) && decide (mv < 44000)) || (decide (58000 < mv) && decide (mv ≤ 60000)))) fun s =>
    (s.wr 0 Reg.PSQ_VIN (lo32 mv)).evt psqPage 5)

/-- A trip ends as the input falls below 42 V (R547). -/
def State.endTrip (s : State) : State :=
  if s.psq.tripped then
    (State.alertEdge s (s.setPsq fun p => { p with tripped := false })).emit (.pin "THERMTRIP_N" true)
  else s

/-- VIN_FAULT (R536): below 42 V or above 60 V for 100 µs. -/
def execVinFault (mv : Nat) (s : State) : Host.Outcome State Fault Refusal :=
  .next (s.when (decide (mv < 42000) || decide (60000 < mv)) fun s =>
    s.regsDown.when (decide (mv < 42000)) State.endTrip)

/-! ### References (R548, R550) -/

/-- CLK's page. -/
def clkPage : Page := ⟨.clk, 0⟩

/-- Changes CLK's state. -/
def State.setClk (s : State) (f : Clk → Clk) : State := { s with clk := f s.clk }

/-- The links of a port go down (R341, R402). -/
def State.portDown (s : State) (c : Nat) : State :=
  if s.ethMode c then s.each (s.kwp c).up fun s sub => s.row (execLinkChange c sub 0) else s.row (execSolrovLink c false)

/-- What the loss of a reference does (R550): 0 SYSREF25, 1 REFCLK100, 2-5 SREF0-SREF3, 6 REF10M_IN. -/
def State.refEffect (s : State) (ref : Nat) : State :=
  if ref = 0 then s.deviceFatal clkPage 0x50 0 0
  else if ref = 1 then (s.row (execHostPortFault 0 .linkLoss)).row (execHostPortFault 1 .linkLoss)
  else if ref < 6 then s.each ((List.range 4).map fun i => 4 * (ref - 2) + i) fun s c => s.when (s.enabledCh c) fun s => s.portDown c
  else s.setTim fun t => { t with ref10m := false }

/-- REF_LOST (R550). -/
def execRefLost (ref : Nat) (s : State) : Host.Outcome State Fault Refusal :=
  .next (s.when (decide (ref < 7) && !s.clk.lost.at ref) fun s =>
    (((s.setClk fun x => { x with lost := x.lost.set ref true }).bump 0 Reg.CLK_LOSS_CNT).evt clkPage 0).refEffect ref)

/-- REF_RESTORED (R550). The oscillator is disciplined to REF10M_IN again. -/
def execRefRestored (ref : Nat) (s : State) : Host.Outcome State Fault Refusal :=
  .next (s.when (decide (ref < 7) && (s.clk.lost.at ref || ref == 6 && !s.tim.ref10m)) fun s =>
    ((s.setClk fun x => { x with lost := x.lost.set ref false }).evt clkPage 1).when (ref == 6) fun s =>
      s.setTim fun t => { t with ref10m := true })

/-! ### PLLs (R549, R556) -/

/-- Whether a clock domain exists: those of a disabled channel are gated (R549). -/
def State.clkDom (s : State) (d : Nat) : Bool := decide (d < 104) && (decide (96 ≤ d) || s.enabledCh (d / 6))

/-- PLL_UNLOCK (R556, R558): a channel's domain makes a channel-fatal fault, a device-wide one a device-fatal one. -/
def execPllUnlock (dom : Nat) (s : State) : Host.Outcome State Fault Refusal :=
  .next (s.when (s.clkDom dom && !s.clk.unlocked.at dom) fun s =>
    let s1 := ((s.setClk fun x => { x with unlocked := x.unlocked.set dom true }).bump 0 Reg.CLK_UNLOCK_CNT).evt clkPage 2
    if 96 ≤ dom then s1.deviceFatal clkPage 0x50 0 dom else s1.chFatals [⟨.clk, dom / 6, 0x42, 0, dom, 0, 0, 0⟩])

/-- PLL_RELOCK (R556). -/
def execPllRelock (dom : Nat) (s : State) : Host.Outcome State Fault Refusal :=
  .next (s.when (s.clkDom dom) fun s => s.setClk fun x => { x with unlocked := x.unlocked.set dom false })

/-- CLK_STATUS (R556). -/
def State.clkStatus (s : State) : Word :=
  let ok := fun (r : Nat) => b2n (!s.clk.lost.at r)
  BitVec.ofNat 32 (ok 0 + 2 * ok 1 + 4 * ok 2 + 8 * ok 3 + 16 * ok 4 + 32 * ok 5 + 64 * b2n (s.tim.ref10m) +
    128 * b2n s.clk.sysrefSel + 256 * b2n (s.clk.unlocked.all fun e => !e.2))

/-- CLK_DOM_STAT of a domain (R556). -/
def State.clkDomStat (s : State) (d : Nat) : Word :=
  BitVec.ofNat 32 (fieldAt 0 22 (Config.domKhz d) + fieldAt 24 1 (b2n (s.clkDom d && !s.clk.unlocked.at d)) +
    fieldAt 25 1 (b2n (!s.clkDom d || s.clk.unlocked.at d)))

end Sys2Proof.Machine
end

