-- ==== Sys2Proof/Machine/Dispatch.lean ====
section
/-! DEFINITION. One arm per command: the direct call of its meaning. -/
namespace Sys2Proof.Machine

def exec (i : Instr) (s : State) : Host.Outcome State Fault Refusal :=
  match i with
  | .registerWrite rq p off v => Sys2Proof.Machine.execRegisterWrite rq p off v s
  | .lock rq p => Sys2Proof.Machine.execLock rq p s
  | .resetBlock rq p clearQuiesce => Sys2Proof.Machine.execResetBlock rq p clearQuiesce s
  | .quiesce rq p on => Sys2Proof.Machine.execQuiesce rq p on s
  | .blockEnable rq p on => Sys2Proof.Machine.execBlockEnable rq p on s
  | .blockInitDone p => Sys2Proof.Machine.execBlockInitDone p s
  | .blockQuiesced p => Sys2Proof.Machine.execBlockQuiesced p s
  | .blkEvtClear rq p v setNow => Sys2Proof.Machine.execBlkEvtClear rq p v setNow s
  | .blkEvtSet rq p v => Sys2Proof.Machine.execBlkEvtSet rq p v s
  | .errLogClear rq p v errorNow => Sys2Proof.Machine.execErrLogClear rq p v errorNow s
  | .todNsRead rq => Sys2Proof.Machine.execTodNsRead rq s
  | .cadPhaseRead rq => Sys2Proof.Machine.execCadPhaseRead rq s
  | .ppsInNsRead rq => Sys2Proof.Machine.execPpsInNsRead rq s
  | .todSet rq alsoStep => Sys2Proof.Machine.execTodSet rq alsoStep s
  | .todStep rq => Sys2Proof.Machine.execTodStep rq s
  | .servoOffset rq v => Sys2Proof.Machine.execServoOffset rq v s
  | .lossTimeout => Sys2Proof.Machine.execLossTimeout s
  | .holdoverTimeout => Sys2Proof.Machine.execHoldoverTimeout s
  | .timeDegraded => Sys2Proof.Machine.execTimeDegraded s
  | .ppsInEdge => Sys2Proof.Machine.execPpsInEdge s
  | .ppsOutPulse => Sys2Proof.Machine.execPpsOutPulse s
  | .ppsPulseEnd => Sys2Proof.Machine.execPpsPulseEnd s
  | .ppsMissing => Sys2Proof.Machine.execPpsMissing s
  | .cadRunSet rq => Sys2Proof.Machine.execCadRunSet rq s
  | .cadRunClear rq => Sys2Proof.Machine.execCadRunClear rq s
  | .cadenceStart => Sys2Proof.Machine.execCadenceStart s
  | .dayBoundary => Sys2Proof.Machine.execDayBoundary s
  | .realignEnd => Sys2Proof.Machine.execRealignEnd s
  | .noonStart => Sys2Proof.Machine.execNoonStart s
  | .duskStart => Sys2Proof.Machine.execDuskStart s
  | .midnightStart => Sys2Proof.Machine.execMidnightStart s
  | .guardStart => Sys2Proof.Machine.execGuardStart s
  | .planLoad rq discard => Sys2Proof.Machine.execPlanLoad rq discard s
  | .planDiscard rq => Sys2Proof.Machine.execPlanDiscard rq s
  | .planLoadDone => Sys2Proof.Machine.execPlanLoadDone s
  | .planRetire => Sys2Proof.Machine.execPlanRetire s
  | .admitReq c cmd => Sys2Proof.Machine.execAdmitReq c cmd s
  | .cancel c cmd => Sys2Proof.Machine.execCancel c cmd s
  | .accept c cmd => Sys2Proof.Machine.execAccept c cmd s
  | .park c cmd => Sys2Proof.Machine.execPark c cmd s
  | .resume c cmd => Sys2Proof.Machine.execResume c cmd s
  | .moveAbort c cmd => Sys2Proof.Machine.execMoveAbort c cmd s
  | .query c cmd => Sys2Proof.Machine.execQuery c cmd s
  | .rqtEntryRead rq c => Sys2Proof.Machine.execRqtEntryRead rq c s
  | .moveOpen c slot gen node peer => Sys2Proof.Machine.execMoveOpen c slot gen node peer s
  | .pageTableReturn c slot gen m => Sys2Proof.Machine.execPageTableReturn c slot gen m s
  | .homeSwitchNotice c slot gen layer page => Sys2Proof.Machine.execHomeSwitchNotice c slot gen layer page s
  | .moveClose c slot gen => Sys2Proof.Machine.execMoveClose c slot gen s
  | .stepCommit c slot => Sys2Proof.Machine.execStepCommit c slot s
  | .qk c cmd => Sys2Proof.Machine.execQk c cmd s
  | .softmax c cmd => Sys2Proof.Machine.execSoftmax c cmd s
  | .pv c cmd => Sys2Proof.Machine.execPv c cmd s
  | .fused c cmd => Sys2Proof.Machine.execFused c cmd s
  | .partialSweep c cmd => Sys2Proof.Machine.execPartialSweep c cmd s
  | .stateUpdate c cmd => Sys2Proof.Machine.execStateUpdate c cmd s
  | .cross c cmd => Sys2Proof.Machine.execCross c cmd s
  | .tileEnd c bad => Sys2Proof.Machine.execTileEnd c bad s
  | .queryRecord c r => Sys2Proof.Machine.execQueryRecord c r s
  | .partialRecord c r => Sys2Proof.Machine.execPartialRecord c r s
  | .logitsRecord c r => Sys2Proof.Machine.execLogitsRecord c r s
  | .samplerRowDone c => Sys2Proof.Machine.execSamplerRowDone c s
  | .smpCfgSet c cmd => Sys2Proof.Machine.execSmpCfgSet c cmd s
  | .smpCfgRelease c cmd => Sys2Proof.Machine.execSmpCfgRelease c cmd s
  | .beamBind c cmd => Sys2Proof.Machine.execBeamBind c cmd s
  | .dbCqTail rq c j size v => Sys2Proof.Machine.execDbCqTail rq c j size v s
  | .dbCplHead rq c j size v => Sys2Proof.Machine.execDbCplHead rq c j size v s
  | .dbXrPtr rq c j size v => Sys2Proof.Machine.execDbXrPtr rq c j size v s
  | .dbCrHead rq c j size v => Sys2Proof.Machine.execDbCrHead rq c j size v s
  | .dbEvqHead rq c j size v => Sys2Proof.Machine.execDbEvqHead rq c j size v s
  | .dbSqTail rq c j size v => Sys2Proof.Machine.execDbSqTail rq c j size v s
  | .dbRxqHead rq c j size v => Sys2Proof.Machine.execDbRxqHead rq c j size v s
  | .dbPevqHead rq c size v => Sys2Proof.Machine.execDbPevqHead rq c size v s
  | .dbFqHead rq c size v => Sys2Proof.Machine.execDbFqHead rq c size v s
  | .dbSmpHead rq c size v => Sys2Proof.Machine.execDbSmpHead rq c size v s
  | .prefixAlloc c cmd => Sys2Proof.Machine.execPrefixAlloc c cmd s
  | .prefixFree c cmd => Sys2Proof.Machine.execPrefixFree c cmd s
  | .prefixQuery c cmd => Sys2Proof.Machine.execPrefixQuery c cmd s
  | .copy c cmd => Sys2Proof.Machine.execCopy c cmd s
  | .convert c cmd => Sys2Proof.Machine.execConvert c cmd s
  | .dmvChunkDone c => Sys2Proof.Machine.execDmvChunkDone c s
  | .pageMoveDone c id => Sys2Proof.Machine.execPageMoveDone c id s
  | .pageMoveFailed c id => Sys2Proof.Machine.execPageMoveFailed c id s
  | .drainRelease c a => Sys2Proof.Machine.execDrainRelease c a s
  | .vseStoreSet c cmd => Sys2Proof.Machine.execVseStoreSet c cmd s
  | .vseInsert c cmd => Sys2Proof.Machine.execVseInsert c cmd s
  | .vseDelete c cmd => Sys2Proof.Machine.execVseDelete c cmd s
  | .vseSearch c cmd => Sys2Proof.Machine.execVseSearch c cmd s
  | .scanGroupEnd c e => Sys2Proof.Machine.execScanGroupEnd c e s
  | .vseRepairPop rq c v => Sys2Proof.Machine.execVseRepairPop rq c v s
  | .rerankEnWrite rq c v => Sys2Proof.Machine.execRerankEnWrite rq c v s
  | .regionEnable rq c v => Sys2Proof.Machine.execRegionEnable rq c v s
  | .regionReady c r => Sys2Proof.Machine.execRegionReady c r s
  | .wrWaitExpiry c a data => Sys2Proof.Machine.execWrWaitExpiry c a data s
  | .jscDispatch c => Sys2Proof.Machine.execJscDispatch c s
  | .engineStart c e => Sys2Proof.Machine.execEngineStart c e s
  | .deficitUpdate c => Sys2Proof.Machine.execDeficitUpdate c s
  | .barrier c q => Sys2Proof.Machine.execBarrier c q s
  | .tokenSet c cmd => Sys2Proof.Machine.execTokenSet c cmd s
  | .counterRead c cmd => Sys2Proof.Machine.execCounterRead c cmd s
  | .tokenAssign rq c v => Sys2Proof.Machine.execTokenAssign rq c v s
  | .jobContextWrite rq c off v => Sys2Proof.Machine.execJobContextWrite rq c off v s
  | .kill rq c alsoClear => Sys2Proof.Machine.execKill rq c alsoClear s
  | .clear rq c => Sys2Proof.Machine.execClear rq c s
  | .jobTeardown c j => Sys2Proof.Machine.execJobTeardown c j s
  | .faultRetry rq c id => Sys2Proof.Machine.execFaultRetry rq c id s
  | .faultFail rq c id => Sys2Proof.Machine.execFaultFail rq c id s
  | .faultTimeout c id => Sys2Proof.Machine.execFaultTimeout c id s
  | .tlbInvalidate rq c v => Sys2Proof.Machine.execTlbInvalidate rq c v s
  | .invalidateDone c => Sys2Proof.Machine.execInvalidateDone c s
  | .ethernetFrame c why => Sys2Proof.Machine.execEthernetFrame c why s
  | .ptpMessage c egress data => Sys2Proof.Machine.execPtpMessage c egress data s
  | .write c pkt => Sys2Proof.Machine.execWrite c pkt s
  | .readReq c pkt => Sys2Proof.Machine.execReadReq c pkt s
  | .readResp c pkt => Sys2Proof.Machine.execReadResp c pkt s
  | .flush c pkt => Sys2Proof.Machine.execFlush c pkt s
  | .flushResp c pkt => Sys2Proof.Machine.execFlushResp c pkt s
  | .atomic c pkt => Sys2Proof.Machine.execAtomic c pkt s
  | .atomicResp c pkt => Sys2Proof.Machine.execAtomicResp c pkt s
  | .status c pkt => Sys2Proof.Machine.execStatus c pkt s
  | .ack c pkt => Sys2Proof.Machine.execAck c pkt s
  | .busy c pkt => Sys2Proof.Machine.execBusy c pkt s
  | .wrWrite c conn => Sys2Proof.Machine.execWrWrite c conn s
  | .wrRead c conn => Sys2Proof.Machine.execWrRead c conn s
  | .wrFlush c conn => Sys2Proof.Machine.execWrFlush c conn s
  | .wrAtomic c conn => Sys2Proof.Machine.execWrAtomic c conn s
  | .winOpen c conn => Sys2Proof.Machine.execWinOpen c conn s
  | .winOpenGapEnd c conn => Sys2Proof.Machine.execWinOpenGapEnd c conn s
  | .winRevoke c conn => Sys2Proof.Machine.execWinRevoke c conn s
  | .connSet rq c keyWr => Sys2Proof.Machine.execConnSet rq c keyWr s
  | .connReset rq c keyWr => Sys2Proof.Machine.execConnReset rq c keyWr s
  | .connDestroy rq c => Sys2Proof.Machine.execConnDestroy rq c s
  | .connSnap rq c => Sys2Proof.Machine.execConnSnap rq c s
  | .ctxFetchDone c conn bad => Sys2Proof.Machine.execCtxFetchDone c conn bad s
  | .rtoExpiry c conn => Sys2Proof.Machine.execRtoExpiry c conn s
  | .ackDelayExpiry c conn => Sys2Proof.Machine.execAckDelayExpiry c conn s
  | .busyBackoffEnd c conn => Sys2Proof.Machine.execBusyBackoffEnd c conn s
  | .rateAdjust c conn => Sys2Proof.Machine.execRateAdjust c conn s
  | .linkChange c sub cause => Sys2Proof.Machine.execLinkChange c sub cause s
  | .fecInterval c sub corr => Sys2Proof.Machine.execFecInterval c sub corr s
  | .wheelSlotDue c => Sys2Proof.Machine.execWheelSlotDue c s
  | .coarseSlotDue c => Sys2Proof.Machine.execCoarseSlotDue c s
  | .egressTransmit c sub => Sys2Proof.Machine.execEgressTransmit c sub s
  | .shaperRateWrite rq c v => Sys2Proof.Machine.execShaperRateWrite rq c v s
  | .shaperConfigWrite rq c burst v => Sys2Proof.Machine.execShaperConfigWrite rq c burst v s
  | .policerConfigWrite rq c off v => Sys2Proof.Machine.execPolicerConfigWrite rq c off v s
  | .sampleInstant c => Sys2Proof.Machine.execSampleInstant c s
  | .solrovModeEnter rq c v => Sys2Proof.Machine.execSolrovModeEnter rq c v s
  | .flit c data => Sys2Proof.Machine.execFlit c data s
  | .replayReq c data => Sys2Proof.Machine.execReplayReq c data s
  | .solrovLink c up => Sys2Proof.Machine.execSolrovLink c up s
  | .load c => Sys2Proof.Machine.execLoad c s
  | .store c => Sys2Proof.Machine.execStore c s
  | .rackAtomic c => Sys2Proof.Machine.execRackAtomic c s
  | .nmo c => Sys2Proof.Machine.execNmo c s
  | .nmoStart c => Sys2Proof.Machine.execNmoStart c s
  | .nmoDone c k => Sys2Proof.Machine.execNmoDone c k s
  | .msg c => Sys2Proof.Machine.execMsg c s
  | .devMsg c => Sys2Proof.Machine.execDevMsg c s
  | .loadRsp c => Sys2Proof.Machine.execLoadRsp c s
  | .storeAck c => Sys2Proof.Machine.execStoreAck c s
  | .atomicRsp c => Sys2Proof.Machine.execAtomicRsp c s
  | .nmoRsp c => Sys2Proof.Machine.execNmoRsp c s
  | .nak c => Sys2Proof.Machine.execNak c s
  | .msgAck c => Sys2Proof.Machine.execMsgAck c s
  | .orderedStoreSend c => Sys2Proof.Machine.execOrderedStoreSend c s
  | .solrovStore c cmd => Sys2Proof.Machine.execSolrovStore c cmd s
  | .solrovAtomic c cmd => Sys2Proof.Machine.execSolrovAtomic c cmd s
  | .solrovNmo c cmd => Sys2Proof.Machine.execSolrovNmo c cmd s
  | .solrovMsg c cmd => Sys2Proof.Machine.execSolrovMsg c cmd s
  | .solrovStall c slot => Sys2Proof.Machine.execSolrovStall c slot s
  | .abandon rq c slot all => Sys2Proof.Machine.execAbandon rq c slot all s
  | .slpRevive rq c slot all => Sys2Proof.Machine.execSlpRevive rq c slot all s
  | .ccxJoin rq c => Sys2Proof.Machine.execCcxJoin rq c s
  | .ccxLeave rq c => Sys2Proof.Machine.execCcxLeave rq c s
  | .ccxRevive rq c m => Sys2Proof.Machine.execCcxRevive rq c m s
  | .cohFlush c cmd => Sys2Proof.Machine.execCohFlush c cmd s
  | .rdS c => Sys2Proof.Machine.execRdS c s
  | .rdX c => Sys2Proof.Machine.execRdX c s
  | .upg c => Sys2Proof.Machine.execUpg c s
  | .wb c => Sys2Proof.Machine.execWb c s
  | .evc c => Sys2Proof.Machine.execEvc c s
  | .clean c => Sys2Proof.Machine.execClean c s
  | .srsp c => Sys2Proof.Machine.execSrsp c s
  | .cmp c => Sys2Proof.Machine.execCmp c s
  | .snpS c => Sys2Proof.Machine.execSnpS c s
  | .snpX c => Sys2Proof.Machine.execSnpX c s
  | .snpInv c => Sys2Proof.Machine.execSnpInv c s
  | .gnt c => Sys2Proof.Machine.execGnt c s
  | .retry c => Sys2Proof.Machine.execRetry c s
  | .evAck c => Sys2Proof.Machine.execEvAck c s
  | .mrd c => Sys2Proof.Machine.execMrd c s
  | .mwr c => Sys2Proof.Machine.execMwr c s
  | .psn c => Sys2Proof.Machine.execPsn c s
  | .mwrAck c => Sys2Proof.Machine.execMwrAck c s
  | .psnAck c => Sys2Proof.Machine.execPsnAck c s
  | .data c => Sys2Proof.Machine.execData c s
  | .cohBackoffEnd c => Sys2Proof.Machine.execCohBackoffEnd c s
  | .hbSend c => Sys2Proof.Machine.execHbSend c s
  | .hb c => Sys2Proof.Machine.execHb c s
  | .hbEcho c => Sys2Proof.Machine.execHbEcho c s
  | .memberDead c m => Sys2Proof.Machine.execMemberDead c m s
  | .domainLost c => Sys2Proof.Machine.execDomainLost c s
  | .join c => Sys2Proof.Machine.execJoin c s
  | .joinAck c => Sys2Proof.Machine.execJoinAck c s
  | .deadNote c => Sys2Proof.Machine.execDeadNote c s
  | .bindChannel ld mask => Sys2Proof.Machine.execBindChannel ld mask s
  | .unbindChannel ld mask => Sys2Proof.Machine.execUnbindChannel ld mask s
  | .initiateDynamicCapacityAdd ld extents => Sys2Proof.Machine.execInitiateDynamicCapacityAdd ld extents s
  | .addDynamicCapacityResponse ld accepted => Sys2Proof.Machine.execAddDynamicCapacityResponse ld accepted s
  | .initiateDynamicCapacityRelease ld dpas forced => Sys2Proof.Machine.execInitiateDynamicCapacityRelease ld dpas forced s
  | .releaseDynamicCapacity ld dpas => Sys2Proof.Machine.execReleaseDynamicCapacity ld dpas s
  | .compositionEpochRetire => Sys2Proof.Machine.execCompositionEpochRetire s
  | .cxlMemRead ld dpa want => Sys2Proof.Machine.execCxlMemRead ld dpa want s
  | .cxlMemWrite ld dpa data => Sys2Proof.Machine.execCxlMemWrite ld dpa data s
  | .birsp ld line keeps => Sys2Proof.Machine.execBirsp ld line keeps s
  | .biTimeout ld => Sys2Proof.Machine.execBiTimeout ld s
  | .ldReset ld => Sys2Proof.Machine.execLdReset ld s
  | .hostPortFault port why => Sys2Proof.Machine.execHostPortFault port why s
  | .publish c cmd => Sys2Proof.Machine.execPublish c cmd s
  | .shareSet c cmd => Sys2Proof.Machine.execShareSet c cmd s
  | .shareQuery c cmd => Sys2Proof.Machine.execShareQuery c cmd s
  | .configurationRequest ld msix => Sys2Proof.Machine.execConfigurationRequest ld msix s
  | .doeDiscovery ld index => Sys2Proof.Machine.execDoeDiscovery ld index s
  | .cdatRead ld => Sys2Proof.Machine.execCdatRead ld s
  | .ideKm ld session step io => Sys2Proof.Machine.execIdeKm ld session step io s
  | .getVersion t => Sys2Proof.Machine.execGetVersion t s
  | .getCapabilities t version => Sys2Proof.Machine.execGetCapabilities t version s
  | .negotiateAlgorithms t offers => Sys2Proof.Machine.execNegotiateAlgorithms t offers s
  | .getDigests t slot => Sys2Proof.Machine.execGetDigests t slot s
  | .getCertificate t slot off len => Sys2Proof.Machine.execGetCertificate t slot off len s
  | .challenge t slot => Sys2Proof.Machine.execChallenge t slot s
  | .getMeasurements t index signed => Sys2Proof.Machine.execGetMeasurements t index signed s
  | .keyExchange t slot reqId => Sys2Proof.Machine.execKeyExchange t slot reqId s
  | .finish t session => Sys2Proof.Machine.execFinish t session s
  | .endSession t session => Sys2Proof.Machine.execEndSession t session s
  | .keyUpdate t session => Sys2Proof.Machine.execKeyUpdate t session s
  | .mbDataWrite rq box off v => Sys2Proof.Machine.execMbDataWrite rq box off v s
  | .mbGo rq box pasid => Sys2Proof.Machine.execMbGo rq box pasid s
  | .mbxRxSeqRead rq => Sys2Proof.Machine.execMbxRxSeqRead rq s
  | .empty rq => Sys2Proof.Machine.execEmpty rq s
  | .clrCollision rq => Sys2Proof.Machine.execClrCollision rq s
  | .mbxRxAck rq v => Sys2Proof.Machine.execMbxRxAck rq v s
  | .mbxRouteWrite rq v => Sys2Proof.Machine.execMbxRouteWrite rq v s
  | .powerGood sysrefSel => Sys2Proof.Machine.execPowerGood sysrefSel s
  | .powerLoss => Sys2Proof.Machine.execPowerLoss s
  | .fusesLoaded f srcCxl => Sys2Proof.Machine.execFusesLoaded f srcCxl s
  | .loadBootImage off data => Sys2Proof.Machine.execLoadBootImage off data s
  | .bootImageDone => Sys2Proof.Machine.execBootImageDone s
  | .bootImageTimeout => Sys2Proof.Machine.execBootImageTimeout s
  | .imageReceived readError => Sys2Proof.Machine.execImageReceived readError s
  | .loadPhaseDone => Sys2Proof.Machine.execLoadPhaseDone s
  | .trainingDone failed => Sys2Proof.Machine.execTrainingDone failed s
  | .warmReset rq => Sys2Proof.Machine.execWarmReset rq s
  | .modReset => Sys2Proof.Machine.execModReset s
  | .bootRetry rq srcCxl => Sys2Proof.Machine.execBootRetry rq srcCxl s
  | .swapNow rq => Sys2Proof.Machine.execSwapNow rq s
  | .fwUpdate rq core standin => Sys2Proof.Machine.execFwUpdate rq core standin s
  | .updateDrained core => Sys2Proof.Machine.execUpdateDrained core s
  | .updateImageRead core readError => Sys2Proof.Machine.execUpdateImageRead core readError s
  | .fwSelfTestDone core => Sys2Proof.Machine.execFwSelfTestDone core s
  | .chOut rq c => Sys2Proof.Machine.execChOut rq c s
  | .retrain rq c => Sys2Proof.Machine.execRetrain rq c s
  | .retrainDone c ok => Sys2Proof.Machine.execRetrainDone c ok s
  | .chIn rq c => Sys2Proof.Machine.execChIn rq c s
  | .norRead rq => Sys2Proof.Machine.execNorRead rq s
  | .norProgram rq => Sys2Proof.Machine.execNorProgram rq s
  | .norErase rq => Sys2Proof.Machine.execNorErase rq s
  | .svnBurn rq v => Sys2Proof.Machine.execSvnBurn rq v s
  | .keyRevoke rq slots => Sys2Proof.Machine.execKeyRevoke rq slots s
  | .tokenTick => Sys2Proof.Machine.execTokenTick s
  | .domainRampDone d => Sys2Proof.Machine.execDomainRampDone d s
  | .arrayIdleExpiry c => Sys2Proof.Machine.execArrayIdleExpiry c s
  | .coreWaitForInterrupt core => Sys2Proof.Machine.execCoreWaitForInterrupt core s
  | .sensorSample temps mw mv ma => Sys2Proof.Machine.execSensorSample temps mw mv ma s
  | .powerAverage => Sys2Proof.Machine.execPowerAverage s
  | .throttleStepDown => Sys2Proof.Machine.execThrottleStepDown s
  | .throtForceWrite rq v => Sys2Proof.Machine.execThrotForceWrite rq v s
  | .thermtrip => Sys2Proof.Machine.execThermtrip s
  | .vinWarn mv => Sys2Proof.Machine.execVinWarn mv s
  | .vinFault mv => Sys2Proof.Machine.execVinFault mv s
  | .refLost ref => Sys2Proof.Machine.execRefLost ref s
  | .refRestored ref => Sys2Proof.Machine.execRefRestored ref s
  | .pllUnlock dom => Sys2Proof.Machine.execPllUnlock dom s
  | .pllRelock dom => Sys2Proof.Machine.execPllRelock dom s
  | .correctedError p source addr detail => Sys2Proof.Machine.execCorrectedError p source addr detail s
  | .channelFatalFault faults => Sys2Proof.Machine.execChannelFatalFault faults s
  | .deviceFatalFault p source addr detail => Sys2Proof.Machine.execDeviceFatalFault p source addr detail s
  | .coreFault core => Sys2Proof.Machine.execCoreFault core s
  | .spareCommit rq id => Sys2Proof.Machine.execSpareCommit rq id s
  | .spareDecline rq id => Sys2Proof.Machine.execSpareDecline rq id s
  | .rasInject rq v => Sys2Proof.Machine.execRasInject rq v s
  | .snap rq => Sys2Proof.Machine.execSnap rq s
  | .arm rq v => Sys2Proof.Machine.execArm rq v s
  | .dbgMemRead rq => Sys2Proof.Machine.execDbgMemRead rq s
  | .channelCheckDone c result => Sys2Proof.Machine.execChannelCheckDone c result s
  | .linkUp port speed width => Sys2Proof.Machine.execLinkUp port speed width s
  | .controlCoreAccess c core job addr n write data => Sys2Proof.Machine.execControlCoreAccess c core job addr n write data s

end Sys2Proof.Machine
end

