-- ==== Sys2Proof/Machine/Step.lean ====
section
/-! DEFINITION. One step of the device. -/
namespace Sys2Proof.Machine

/-- One step: the command at the front of the queue is taken and acted on. With no command waiting, one nanosecond of time passes
and nothing else happens: ToD and the slewed cadence error advance (R16, R26, R40; log entry 1). -/
def step (s : State) : Host.Outcome State Fault Refusal :=
  match s.pending with
  | [] => .next (s.pass 1)
  | c :: cs => exec c { s with pending := cs }

/-- A state with the command that a word spells put at the front of its queue; the state itself where the word spells none. -/
def State.withFetchWord (s : State) (nbits w : Nat) : State :=
  match decodeTableWord nbits w with
  | some c => { s with pending := c :: s.pending }
  | none => s

end Sys2Proof.Machine
end

