-- ==== Sys2Proof/Safety.lean ====
section
/-! DEFINITION. What counts as a safe run: a step never stops the machine, the tables keep their canonical form, and fuses that are
burned stay burned. It also names the commands that write no memory. The statements are made in these terms. -/
namespace Sys2Proof

/-- What burning can do to a fuse bank that has been read: the SVN rises, KEY_REVOKE gains bits, and nothing else changes
(R516, R520). -/
def Fuses.grows (f g : Fuses) : Prop :=
  f.svn ≤ g.svn ∧ (∀ n, f.keyRevoke.testBit n = true → g.keyRevoke.testBit n = true) ∧ g.options = f.options ∧
    g.chanMask = f.chanMask ∧ g.idSeed = f.idSeed ∧ g.keyHash0 = f.keyHash0 ∧ g.keyHash1 = f.keyHash1 ∧
    g.keyHash2 = f.keyHash2 ∧ g.keyHash3 = f.keyHash3

/-- Whether a command can write the device's memory or mark a line of it: every command but those that act on registers, blocks and links
alone. -/
def Instr.writesMemory : Instr → Bool
  | .lock .. | .blockEnable .. | .errLogClear .. | .todNsRead .. | .cadPhaseRead .. | .ppsInNsRead .. | .ppsInEdge
  | .ppsOutPulse | .ppsPulseEnd | .cadRunSet .. | .cadRunClear .. | .planLoad .. | .planDiscard .. | .rqtEntryRead ..
  | .dbCqTail .. | .dbXrPtr .. | .dbEvqHead .. | .dbSqTail .. | .dbRxqHead .. | .dbPevqHead .. | .dbSmpHead ..
  | .copy .. | .convert .. | .vseRepairPop .. | .deficitUpdate .. | .tokenAssign .. | .jobContextWrite .. | .kill ..
  | .clear .. | .faultFail .. | .faultTimeout .. | .tlbInvalidate .. | .invalidateDone .. | .ethernetFrame ..
  | .connSet .. | .connSnap .. | .rateAdjust .. | .wheelSlotDue .. | .coarseSlotDue .. | .shaperRateWrite ..
  | .shaperConfigWrite .. | .policerConfigWrite .. | .solrovModeEnter .. | .ccxJoin .. | .ccxLeave ..
  | .cohBackoffEnd .. | .hbSend .. | .configurationRequest .. | .doeDiscovery .. | .cdatRead .. | .getVersion ..
  | .getCapabilities .. | .negotiateAlgorithms .. | .getDigests .. | .getCertificate .. | .challenge ..
  | .getMeasurements .. | .keyExchange .. | .finish .. | .endSession .. | .keyUpdate .. | .mbxRxSeqRead ..
  | .clrCollision .. | .mbxRouteWrite .. | .powerGood .. | .fusesLoaded .. | .loadBootImage .. | .bootImageDone
  | .bootRetry .. | .norRead .. | .norProgram .. | .norErase .. | .tokenTick | .domainRampDone ..
  | .arrayIdleExpiry .. | .coreWaitForInterrupt .. | .pllRelock .. | .spareCommit .. | .spareDecline .. | .arm ..
  | .linkUp .. => false
  | _ => true

end Sys2Proof

namespace Sys2Proof.Machine

/-- Every sparse table of the device stands in its canonical form, so that equal machines are equal data: memory, the registers
of the active and the shadow bank, the blocks and the channels. -/
def State.canon (s : State) : Bool :=
  s.mem.wf && SMap.wf regReset s.regs && SMap.wf regReset s.shadow && SMap.wf (fun _ => default) s.blk &&
    SMap.wf (fun _ => default) s.chan

/-- Whether a write reaches a register's own behaviour: the requester reaches the page (R2, R467, R513, R593), LOCK does not hold the
register back (R5, R7), and the active bank is selected if the register is banked (R524). -/
def State.reaches (s : State) (rq : Requester) (p : Page) (off : Nat) : Bool :=
  s.gate rq p == .pass && match findRow p.blk off with
    | none => true
    | some r => !(r.acc == .rwl && s.locked p) && !(r.banked && s.shadowSel p)

/-- The same for a named register of block number `i`. -/
def State.reachesReg (s : State) (rq : Requester) (i : Nat) (r : RegId) : Bool := s.reaches rq ⟨r.blk, i⟩ r.off

/-- Whether a command holds its engine of an enabled channel: it was dispatched to it, and it is acted on when its row comes (R310,
R314; log entry 55). -/
def State.holdsCmd (s : State) (c e : Nat) (cmd : Cmd) : Bool := s.enabledCh c && (s.engine c e).holder == some cmd

/-- Whether a command that arrives at a free engine of an enabled channel is the next one that the engine takes (R311, R312, R314). -/
def State.comesNext (s : State) (c e : Nat) (cmd : Cmd) : Bool :=
  s.enabledCh c && (s.engine c e).holder.isNone && ((s.accrue c).arrive c e cmd).nextIs c e cmd

/-- The state in which that command has taken the engine. -/
def State.taken (s : State) (c e : Nat) (cmd : Cmd) : State :=
  (((s.accrue c).arrive c e cmd).takeEngine c e cmd.job).settle c

/-- A step from the state ends in a next state: it neither faults nor is refused. -/
def State.goesOn (s : State) : Prop := ∃ t, step s = .next t

end Sys2Proof.Machine
end

