-- ==== Sys2Proof/Certificates/Slice0/Obligations.lean ====
section
/-! DEFINITION. What the model claims, for the provers: a statement for every family of commands (what each command answers, under
conditions on the state and the operands alone), and statements about steps, registers, memory, errors and frames. Each clause
names its commands. "Reaches" is `State.reaches`: the sender reaches the page, and neither LOCK nor the shadow bank holds the
register back. -/
open Sys2Proof Sys2Proof.Machine

/-- Writes of a page header and plain register writes take effect as the common header says. For every state in which the write
reaches the page and its register, LOCK, QUIESCE, BLOCK_ENABLE, BLK_EVT_CLEAR, BLK_EVT_SET, ERRLOG_CLEAR, RESET_BLOCK and a
write of a plain RW or RWL register answer the next state written out; BLOCK_INIT_DONE and BLOCK_QUIESCED answer theirs for a
block in the state they end. The model's own readings of log entries 35, 39 enter here. (spec/00_scope.md,
spec/18_faults_and_debug.md, spec/19_register_index.md.) -/
def Obligations.BlockControlWritesAct : Prop :=
  -- LOCK
  (∀ (s : State) (rq : Requester) (p : Page), s.reaches rq p 0x008 = true →
     exec (.lock rq p) s = .next (s.wrAt p 0x008 (setBit (s.rdAt p 0x008) 3 true))) ∧
  -- QUIESCE
  (∀ (s : State) (rq : Requester) (p : Page), s.reaches rq p 0x008 = true → (s.blkSt p).st = .running →
     exec (.quiesce rq p true) s =
       .next ((s.wrAt p 0x008 (setBit (s.rdAt p 0x008) 1 true)).updBlk p fun b => { b with st := .draining })) ∧
  -- QUIESCE
  (∀ (s : State) (rq : Requester) (p : Page), s.reaches rq p 0x008 = true → (s.blkSt p).st = .draining →
     exec (.quiesce rq p false) s = .next (((s.wrAt p 0x008 (setBit (s.rdAt p 0x008) 1 false)).updBlk p fun b =>
       { b with st := .running, quiesced := false }).readyAgain p)) ∧
  -- BLOCK_ENABLE
  (∀ (s : State) (rq : Requester) (p : Page), s.reaches rq p 0x008 = true → (s.blkSt p).st = .off →
     exec (.blockEnable rq p true) s = .next ((s.wrAt p 0x008 (setBit (s.rdAt p 0x008) 0 true)).updBlk p fun b =>
       { b with st := .init })) ∧
  -- BLOCK_ENABLE
  (∀ (s : State) (rq : Requester) (p : Page), s.reaches rq p 0x008 = true → (s.blkSt p).st = .draining →
     (s.blkSt p).quiesced = true →
     exec (.blockEnable rq p false) s = .next ((s.wrAt p 0x008 (setBit (s.rdAt p 0x008) 0 false)).updBlk p fun b =>
       { b with st := .off })) ∧
  -- BLOCK_ENABLE
  (∀ (s : State) (rq : Requester) (p : Page), s.reaches rq p 0x008 = true → (s.blkSt p).st = .running →
     exec (.blockEnable rq p false) s = .next (s.logIgnored p 0x008 0)) ∧
  -- BLOCK_INIT_DONE
  (∀ (s : State) (p : Page), (s.blkSt p).st = .init →
     exec (.blockInitDone p) s =
       .next ((s.updBlk p fun b => { b with st := if wbit (s.rdAt p 0x008) 1 then .draining else .running }).readyAgain p)) ∧
  -- BLOCK_QUIESCED
  (∀ (s : State) (p : Page), wbit (s.rdAt p 0x008) 1 = true → s.hasWork p = false →
     (p.blk.perChannel && s.boot.chOut.at p.idx == .draining) = false →
     exec (.blockQuiesced p) s = .next (match p.blk with
       | .vse => (s.updBlk p fun b => { b with quiesced := true }).syncRerank p.idx
       | .kwp => ((s.updBlk p fun b => { b with quiesced := true }).syncSplit p.idx).syncSolrov p.idx
       | _ => s.updBlk p fun b => { b with quiesced := true })) ∧
  -- BLOCK_QUIESCED
  (∀ (s : State) (p : Page), wbit (s.rdAt p 0x008) 1 = false ∨ s.hasWork p = true →
     (p.blk.perChannel && s.boot.chOut.at p.idx == .draining) = false → exec (.blockQuiesced p) s = .next s) ∧
  -- BLK_EVT_CLEAR
  (∀ (s : State) (rq : Requester) (p : Page) (v : Word), s.reaches rq p 0x010 = true → alerts p.blk = false →
     exec (.blkEvtClear rq p v 0) s = .next (s.wrAt p 0x010 (s.rdAt p 0x010 &&& ~~~v))) ∧
  -- BLK_EVT_CLEAR
  (∀ (s : State) (rq : Requester) (p : Page) (v : Word), s.reaches rq p 0x010 = true → alerts p.blk = true →
     exec (.blkEvtClear rq p v 0) s = .next (State.alertEdge s (s.wrAt p 0x010 (s.rdAt p 0x010 &&& ~~~v)))) ∧
  -- BLK_EVT_CLEAR
  (∀ (s : State) (rq : Requester) (p : Page) (v setNow : Word) (n : Nat), s.reaches rq p 0x010 = true → alerts p.blk = false →
     evtsOf p.blk setNow = [n] → wbit (s.rdAt p 0x010) n = true → wbit (s.rdAt p 0x014) n = false →
     exec (.blkEvtClear rq p v setNow) s =
       .next (let t := s.wrAt p 0x010 (s.rdAt p 0x010 &&& ~~~v); t.wrAt p 0x010 (setBit (t.rdAt p 0x010) n true))) ∧
  -- BLK_EVT_SET
  (∀ (s : State) (rq : Requester) (p : Page) (v : Word), s.reaches rq p 0x018 = true →
     exec (.blkEvtSet rq p v) s = .next ((evtsOf p.blk v).foldl (fun s n => s.evt p n) s)) ∧
  -- ERR_LOG_CLEAR
  (∀ (s : State) (rq : Requester) (p : Page) (errorNow : Bool), s.reaches rq p 0x020 = true →
     exec (.errLogClear rq p 0 errorNow) s = .next ((s.wrAt p 0x020 (setBit (s.rdAt p 0x020) 31 false)).wrAt p 0x024
       (if errorNow then 1 else 0))) ∧
  -- ERR_LOG_CLEAR
  (∀ (s : State) (rq : Requester) (p : Page) (v : Word) (errorNow : Bool), s.reaches rq p 0x020 = true → v ≠ 0 →
     exec (.errLogClear rq p v errorNow) s = .next s) ∧
  -- RESET_BLOCK
  (∀ (s : State) (rq : Requester) (p : Page), s.reaches rq p 0x008 = true → (s.blkSt p).quiesced = true →
     exec (.resetBlock rq p false) s = .next ((latchRegs p.blk).foldl (fun s o => s.wrAt p o 0) (s.resetInner p)) ∧
     exec (.resetBlock rq p true) s =
       .next (((latchRegs p.blk).foldl (fun s o => s.wrAt p o 0) (s.resetInner p)).mayReady p fun s => s.setQuiesce p false)) ∧
  -- RESET_BLOCK
  (∀ (s : State) (rq : Requester) (p : Page), s.reaches rq p 0x008 = true → (s.blkSt p).quiesced = false →
     exec (.resetBlock rq p false) s = .next (s.logIgnored p 0x008 6)) ∧
  -- REGISTER_WRITE
  (∀ (s : State) (rq : Requester) (p : Page) (off : Nat) (v : Word) (r : RegRow), s.reaches rq p off = true → off % 4 = 0 →
     0x100 ≤ off → findRow p.blk off = some r → (r.acc = .rw ∨ r.acc = .rwl) →
     p.blk ∉ [Blk.pln, .rqt, .skt, .kwp, .cmp, .zrb, .psq, .clk] → (∀ x ∈ rowWrites rq p.idx v p.blk, x.1.off ≠ off) →
     (∀ x ∈ ringsOf p.blk, x.cfg.off ≠ off) → s.heldBack p off = false → s.bootCmd rq p off v = none →
     (p.blk = .dmv → off ≠ 0x100) → (p.blk = .jsc → off < 0x200) →
     exec (.registerWrite rq p off v) s = .next (s.wrAt p off
       ((s.rdAt p off (s.selOf p off) &&& ~~~BitVec.ofNat 32 r.mask) ||| (v &&& BitVec.ofNat 32 r.mask)) (s.selOf p off)))

/-- TOD is set and stepped, and reads of the time latch the rest of it. TOD_SET and TOD_STEP that reach TOD_CTRL set or step the
time of day and record it, and reads of TOD_NS, CAD_PHASE and PPS_IN_NS answer the data and latch the other words, or answer 0
and latch nothing where the reader does not reach TIM, or an unsupported request where it is an LD that is not enabled. The model's
own readings of log entry 4 enter here. (spec/01_cadence.md.) -/
def Obligations.TimeOfDayIsSetSteppedAndLatched : Prop :=
  -- TOD_SET
  (∀ (s : State) (rq : Requester) (alsoStep : Bool), s.reachesReg rq 0 Reg.TOD_CTRL = true → s.tim.cad = .stopped →
     exec (.todSet rq alsoStep) s = .next ((s.setTim fun t =>
       { t with tod := ((s.todSetNs : Int) + if alsoStep then s.todStepNs else 0).toNat, err := 0 }).evt timPage 7)) ∧
  -- TOD_STEP
  (∀ (s : State) (rq : Requester), s.reachesReg rq 0 Reg.TOD_CTRL = true → s.tim.cad = .stopped →
     exec (.todStep rq) s = .next ((s.setTim fun t =>
       { t with tod := ((t.tod : Int) + s.todStepNs).toNat, err := 0 }).evt timPage 7)) ∧
  -- TOD_STEP
  (∀ (s : State) (rq : Requester), s.reachesReg rq 0 Reg.TOD_CTRL = true → s.tim.cad = .running →
     let t := s.setTim fun t => { t with
       tod := ((t.tod : Int) + s.todStepNs).toNat, err := t.err - ((((t.tod : Int) + s.todStepNs).toNat : Int) - t.tod) }
     exec (.todStep rq) s =
       .next ((if t.errTooBig then t.setTim fun x => { x with realign := true } else t).evt timPage 7)) ∧
  -- TOD_NS_READ
  (∀ (s : State) (rq : Requester), s.canRead rq timPage = true →
     exec (.todNsRead rq) s = .next (((s.wr 0 Reg.TOD_SEC_LO (lo32 (s.tim.tod / 1000000000))).wr 0 Reg.TOD_SEC_HI
       (BitVec.ofNat 32 (s.tim.tod / 1000000000 / 2 ^ 32 % 2 ^ 16))).emit (.readData (lo32 (s.tim.tod % 1000000000))))) ∧
  -- CAD_PHASE_READ
  (∀ (s : State) (rq : Requester), s.canRead rq timPage = true →
     exec (.cadPhaseRead rq) s = .next ((s.wr64 0 Reg.CAD_DAY_LO s.curDay).emit (.readData s.cadPhase))) ∧
  -- PPS_IN_NS_READ
  (∀ (s : State) (rq : Requester), s.canRead rq timPage = true →
     exec (.ppsInNsRead rq) s = .next (((s.wr 0 Reg.PPS_IN_SEC_LO (lo32 (s.tim.ppsStamp / 1000000000))).wr 0 Reg.PPS_IN_SEC_HI
       (BitVec.ofNat 32 (s.tim.ppsStamp / 1000000000 / 2 ^ 32 % 2 ^ 16))).emit (.readData (lo32 (s.tim.ppsStamp % 1000000000))))) ∧
  -- TOD_NS_READ, CAD_PHASE_READ, PPS_IN_NS_READ of a reader that does not reach TIM, and of an LD that is not enabled
  (∀ (s : State) (rq : Requester), s.canRead rq timPage = false → ∀ c ∈ [Instr.todNsRead rq, .cadPhaseRead rq, .ppsInNsRead rq],
     exec c s = .next (match s.ldOff rq with
       | none => s.emit (.readData 0)
       | some n => s.emit (.msg "IO_UR" [n] [])))

/-- The synchronisation state follows the servo, its loss and the holdover limits. SERVO_OFFSET that reaches its register answers
the state with the report taken, and LOSS_TIMEOUT, HOLDOVER_TIMEOUT and TIME_DEGRADED the next state of the SYNC state machine in
every state, with the time passed to the due instant, as written out. The model's own readings of log entries 1, 51 enter here.
(spec/01_cadence.md.) -/
def Obligations.SynchronisationStatesFollowTheServo : Prop :=
  -- SERVO_OFFSET
  (∀ (s : State) (rq : Requester) (v : Word), s.reachesReg rq 0 Reg.SERVO_OFFSET_NS = true →
     exec (.servoOffset rq v) s = .next (s.servoReport (signedOf 32 v.toNat))) ∧
  -- SERVO_OFFSET
  (∀ (s : State) (rq : Requester) (v : Word), s.reachesReg rq 0 Reg.SERVO_OFFSET_NS = true → s.tim.sync = .locked →
     (signedOf 32 v.toNat).natAbs ≤ s.rdF 0 Reg.LOCK_CFG 15 0 →
     exec (.servoOffset rq v) s = .next (s.setTim fun t => { t with
       lastOffset := signedOf 32 v.toNat, lastReport := t.now, goodCount := min 255 (t.goodCount + 1) })) ∧
  -- SERVO_OFFSET
  (∀ (s : State) (rq : Requester) (v : Word), s.reachesReg rq 0 Reg.SERVO_OFFSET_NS = true → s.tim.sync = .locked →
     s.rdF 0 Reg.LOCK_CFG 15 0 < (signedOf 32 v.toNat).natAbs → (signedOf 32 v.toNat).natAbs ≤ 8 * s.rdF 0 Reg.LOCK_CFG 15 0 →
     exec (.servoOffset rq v) s = .next (s.setTim fun t => { t with
       lastOffset := signedOf 32 v.toNat, lastReport := t.now, goodCount := 0 })) ∧
  -- LOSS_TIMEOUT
  (∀ s : State, s.tim.sync ≠ .locked ∨ s.rdF 0 Reg.LOCK_CFG 31 24 = 0 → exec .lossTimeout s = .next s) ∧
  -- HOLDOVER_TIMEOUT
  (∀ s : State, s.tim.sync ≠ .holdover → exec .holdoverTimeout s = .next s) ∧
  -- TIME_DEGRADED
  (∀ s : State, s.driftDue = none ∨ s.tim.sync = .locked ∨ s.tim.degraded = true → exec .timeDegraded s = .next s) ∧
  -- TIME_DEGRADED
  (∀ (s : State) (el : Nat), s.driftDue = some el → s.tim.sync ≠ .locked → s.tim.degraded = false →
     exec .timeDegraded s = .next (s.pass (s.tim.lastReport + el - s.tim.now)).checkDrift) ∧
  -- SERVO_OFFSET
  (∀ (s : State) (rq : Requester) (v : Word), s.reachesReg rq 0 Reg.SERVO_OFFSET_NS = true →
     (signedOf 32 v.toNat).natAbs ≤ s.rdF 0 Reg.LOCK_CFG 15 0 → s.rdF 0 Reg.LOCK_CFG 23 16 ≤ min 255 (s.tim.goodCount + 1) →
     s.tim.sync ≠ .locked →
     exec (.servoOffset rq v) s = .next ((s.setTim fun t => { t with
       lastOffset := signedOf 32 v.toNat, lastReport := t.now, goodCount := min 255 (t.goodCount + 1), sync := .locked,
       degraded := false }).evt timPage 0)) ∧
  -- SERVO_OFFSET
  (∀ (s : State) (rq : Requester) (v : Word), s.reachesReg rq 0 Reg.SERVO_OFFSET_NS = true → s.tim.sync = .locked →
     8 * s.rdF 0 Reg.LOCK_CFG 15 0 < (signedOf 32 v.toNat).natAbs → s.tim.degraded = true →
     exec (.servoOffset rq v) s = .next ((s.setTim fun t => { t with
       lastOffset := signedOf 32 v.toNat, lastReport := t.now, goodCount := 0, sync := .holdover, holdSince := t.now }).evt timPage 1)) ∧
  -- LOSS_TIMEOUT
  (∀ s : State, s.tim.sync = .locked → s.rdF 0 Reg.LOCK_CFG 31 24 ≠ 0 →
     exec .lossTimeout s = .next (((s.pass (s.tim.lastReport + s.rdF 0 Reg.LOCK_CFG 31 24 * 10000000 - s.tim.now)).setTim fun t =>
       { t with sync := .holdover, holdSince := t.now }).evt timPage 1)) ∧
  -- HOLDOVER_TIMEOUT
  (∀ s : State, s.tim.sync = .holdover →
     exec .holdoverTimeout s = .next (((s.pass (s.tim.holdSince + 2000000000 - s.tim.now)).setTim fun t =>
       { t with sync := .freeRunning }).evt timPage 3)) ∧
  -- TIME_DEGRADED
  (∀ (s : State) (el : Nat), s.driftDue = some el → s.tim.sync ≠ .locked → s.tim.degraded = false →
     let t := s.pass (s.tim.lastReport + el - s.tim.now)
     t.driftOver (t.tim.now - t.tim.lastReport) = true →
     exec .timeDegraded s = .next ((t.setTim fun x => { x with degraded := true }).evt timPage 2))

/-- The timing pins are stamped on input and driven on output. PPS_IN_EDGE, PPS_MISSING, PPS_OUT_PULSE and PPS_PULSE_END answer
the next state written out: the stamp and its event, the missing pulse, and the edges of the output pin. The model's own
readings of log entry 1 enter here. (spec/01_cadence.md.) -/
def Obligations.TimingPinsAreStampedAndDriven : Prop :=
  -- PPS_IN_EDGE
  (∀ s : State, s.rdB 0 Reg.PPS_CFG 19 = true →
     exec .ppsInEdge s = .next ((s.setTim fun t => { t with ppsPresent := true, ppsAt := t.now, ppsStamp := t.tod }).wr 0
       Reg.PPS_IN_NS (lo32 (s.tim.tod % 1000000000)))) ∧
  -- PPS_IN_EDGE
  (∀ s : State, s.rdB 0 Reg.PPS_CFG 19 = false →
     exec .ppsInEdge s = .next (s.setTim fun t => { t with ppsPresent := true, ppsAt := t.now })) ∧
  -- PPS_MISSING
  (∀ s : State, s.tim.ppsPresent = true → s.rdB 0 Reg.PPS_CFG 19 = true →
     exec .ppsMissing s = .next (((s.pass (s.tim.ppsAt + 1100000000 - s.tim.now)).setTim fun t =>
       { t with ppsPresent := false }).evt timPage 5)) ∧
  -- PPS_OUT_PULSE
  (∀ s : State, s.rdB 0 Reg.PPS_CFG 20 = true → s.rdB 0 Reg.PPS_CFG 21 = false → s.tim.ppsOut = false →
     exec .ppsOutPulse s = .next (((s.passToTod (ceilDiv s.tim.tod 1000000000 * 1000000000)).setTim fun t =>
       { t with ppsOut := true, ppsOutAt := t.now }).emit (.pin "PPS_OUT" true))) ∧
  -- PPS_OUT_PULSE
  (∀ s : State, s.rdB 0 Reg.PPS_CFG 20 = true → s.rdB 0 Reg.PPS_CFG 21 = true → s.tim.ppsOut = false →
     exec .ppsOutPulse s = .next ((s.passToDayStart.setTim fun t =>
       { t with ppsOut := true, ppsOutAt := t.now }).emit (.pin "PPS_OUT" true))) ∧
  -- PPS_OUT_PULSE
  (∀ s : State, s.rdB 0 Reg.PPS_CFG 20 = true → s.rdB 0 Reg.PPS_CFG 21 = true → s.tim.ppsOut = false → s.tim.cad = .extended →
     exec .ppsOutPulse s = .next (((s.passToTod s.realignTod).setTim fun t =>
       { t with ppsOut := true, ppsOutAt := t.now }).emit (.pin "PPS_OUT" true))) ∧
  -- PPS_PULSE_END
  (∀ s : State, s.tim.ppsOut = true →
     exec .ppsPulseEnd s = .next (((s.pass (s.tim.ppsOutAt + s.ppsWidth - s.tim.now)).setTim fun t =>
       { t with ppsOut := false }).emit (.pin "PPS_OUT" false)))

/-- The cadence starts, turns its days, realigns and stops. CAD_RUN_SET, CAD_RUN_CLEAR, CADENCE_START, DAY_BOUNDARY and
REALIGN_END answer the next state written out for the cadence state each is for. The model's own readings of log entry 1 enter
here. (spec/01_cadence.md.) -/
def Obligations.CadenceStartsTurnsAndStops : Prop :=
  -- CAD_RUN_SET
  (∀ (s : State) (rq : Requester), s.reachesReg rq 0 Reg.CAD_CTRL = true → s.tim.cad = .stopped →
     exec (.cadRunSet rq) s = .next ((s.wr 0 Reg.CAD_CTRL 1).setTim fun t =>
       { t with cad := .waiting, runSet := t.tod, err := 0, slew := 0 })) ∧
  -- CAD_RUN_CLEAR
  (∀ (s : State) (rq : Requester), s.reachesReg rq 0 Reg.CAD_CTRL = true →
     exec (.cadRunClear rq) s = .next (if s.tim.cad = .waiting then
       (s.wr 0 Reg.CAD_CTRL 0).setTim fun t => { t with cad := .stopped } else s.wr 0 Reg.CAD_CTRL 0)) ∧
  -- CADENCE_START
  (∀ s : State, s.tim.cad = .waiting →
     exec .cadenceStart s = .next (((s.passToTod ((s.originNs : Int) + s.startIndex * s.periodNs).toNat).setTim fun t =>
       { t with cad := .running, err := 0, slew := 0, realign := false }).beginDay ((s.dayBase : Int) + s.startIndex).toNat)) ∧
  -- DAY_BOUNDARY
  (∀ s : State, s.tim.cad = .running → s.tim.win = .midnight →
     let t := (s.passToCad s.dayEndCad).endWindow .midnight
     (t.cadRun = false → exec .dayBoundary s = .next t.stopCadence) ∧
     (t.cadRun = true → t.tim.realign = true →
       exec .dayBoundary s = .next (t.setTim fun x => { x with cad := .extended, guard := true, slew := 0 })) ∧
     (t.cadRun = true → t.tim.realign = false →
       exec .dayBoundary s = .next ((t.pauseMoves (some .dawn)).beginDay (t.tim.day + 1)))) ∧
  -- REALIGN_END
  (∀ s : State, s.tim.cad = .extended →
     let t := s.passToTod s.realignTod
     (t.cadRun = false → exec .realignEnd s = .next t.stopCadence) ∧
     (t.cadRun = true → exec .realignEnd s = .next
       (((((t.setTim fun x => { x with cad := .running, realign := false, err := 0, slew := 0 }).bump 0 Reg.REALIGN_CNT).evt
         timPage 4).pauseMoves (some .dawn)).beginDay s.realignDay)))

/-- Noon, Dusk, Midnight and the guard open at their instants. NOON_START, DUSK_START, MIDNIGHT_START and GUARD_START pass the
time to their instant and answer the next state written out: the window opens and the blocks begin or end what the window
allows. The model's own readings of log entries 1, 37 enter here. (spec/01_cadence.md.) -/
def Obligations.WindowsOfTheDayOpenInOrder : Prop :=
  -- NOON_START
  (∀ s : State, s.tim.cad = .running → s.tim.win = .dawn →
     let t := s.turnWindow .dawn .noon
     exec .noonStart s = .next (t.servingChs.foldl (fun u c => u.enqueuePlan c) t)) ∧
  -- DUSK_START
  (∀ s : State, s.tim.cad = .running → s.tim.win = .noon →
     let t := (s.passToCad (s.winStartCad .dusk)).cutoffAll.turnWindow .noon .dusk
     exec .duskStart s = .next (t.servingChs.foldl (fun u c => (((u.buildLeft c).duskCancelled c).duskMonitor c).duskFirst c) t)) ∧
  -- MIDNIGHT_START
  (∀ s : State, s.tim.cad = .running → s.tim.win = .dusk →
     let t := s.turnWindow .dusk .midnight
     let u := t.servingChs.foldl (fun u c => (((u.pgmMidnight c).freeDropped c).repairPending c).closeInterval c) t
     let v := { u with dbg := { u.dbg with snaps := u.dbg.sets } }
     exec .midnightStart s = .next (if v.ras.fatal.isNone then v.startChecks else v)) ∧
  -- GUARD_START
  (∀ s : State, s.tim.cad = .running → s.tim.guard = false → s.guardPu s.tim.win ≠ 0 → s.tim.win ≠ .noon →
     exec .guardStart s = .next (((s.passToCad s.guardStartCad).accrueAll.setTim fun t => { t with guard := true }).settleAll)) ∧
  -- GUARD_START
  (∀ s : State, s.tim.cad = .running → s.tim.guard = false → s.guardPu s.tim.win ≠ 0 → s.tim.win = .noon →
     exec .guardStart s = .next (((s.passToCad s.guardStartCad).accrueAll.setTim fun t =>
       { t with guard := true }).cutoffAll.settleAll))

/-- A day plan is loaded, checked, staged, discarded and retired. PLAN_LOAD, PLAN_DISCARD, PLAN_LOAD_DONE and PLAN_RETIRE answer
the next state written out: the load begins or is ignored, the checks end it with their code or stage the bank, and the
retiring bank is freed. The model's own readings of log entries 8, 9 enter here. (spec/01_cadence.md.) -/
def Obligations.DayPlansLoadStageAndRetire : Prop :=
  -- PLAN_LOAD
  (∀ (s : State) (rq : Requester), s.reachesReg rq 0 Reg.PLN_CTRL = true → s.pln.loading = false → s.ready plnPage = true →
     exec (.planLoad rq false) s = .next (((s.setPln fun p =>
       { p with staged := none, loading := true, loadAddr := s.rd64 0 Reg.PLN_LOAD_ADDR_LO,
                loadLen := s.rdN 0 Reg.PLN_LOAD_LEN }).wr 0 Reg.PLN_CTRL 1).wr 0 Reg.PLN_STAGED_ID 0)) ∧
  -- PLAN_LOAD
  (∀ (s : State) (rq : Requester), s.reachesReg rq 0 Reg.PLN_CTRL = true → (s.pln.loading = true ∨ s.ready plnPage = false) →
     exec (.planLoad rq false) s = .next (s.logIgnored plnPage 0x100 1)) ∧
  -- PLAN_DISCARD
  (∀ (s : State) (rq : Requester), s.reachesReg rq 0 Reg.PLN_CTRL = true →
     exec (.planDiscard rq) s = .next (((s.setPln fun p => { p with staged := none, loading := false }).wr 0 Reg.PLN_CTRL 0).wr 0
       Reg.PLN_STAGED_ID 0)) ∧
  -- PLAN_LOAD_DONE
  (∀ (s : State) (p : Plan), s.pln.loading = true → s.loadedPlan = some p → s.curDay < s.actDay →
     let t := s.touch noJob s.pln.loadAddr s.pln.loadLen
     exec .planLoadDone s = .next (((t.setPln fun x => { x with loading := false, staged := some p }).wr 0 Reg.PLN_CTRL 0).wr 0
       Reg.PLN_STAGED_ID (lo32 p.id))) ∧
  -- PLAN_LOAD_DONE
  (∀ s : State, s.pln.loading = true →
     let t := s.touch noJob s.pln.loadAddr s.pln.loadLen
     (s.loadedPlan = none → exec .planLoadDone s =
       .next (((t.setPln fun x => { x with loading := false }).wr 0 Reg.PLN_CTRL 0).evt plnPage 2)) ∧
     (∀ p, s.loadedPlan = some p → s.actDay ≤ s.curDay → exec .planLoadDone s =
       .next (((t.setPln fun x => { x with loading := false }).wr 0 Reg.PLN_CTRL 0).evt plnPage 1))) ∧
  -- PLAN_RETIRE
  (∀ (s : State) (p : Plan), s.pln.retiring = some p → s.planInflight p.epoch = 0 →
     exec .planRetire s = .next (((s.setPln fun x => { x with retiring := none }).epochRegs).evt plnPage 4))

/-- ADMIT and ACCEPT admit a request or complete with the first check that fails. ADMIT and ACCEPT of the current step answer
the completion with the status of the first check that refuses them, and otherwise the state with the request admitted into the
lowest free slot; an ADMIT too late for the step waits for the next. The model's own readings of log entries 11, 12 enter here.
(spec/02_requests.md.) -/
def Obligations.AdmissionCommandsAdmitOrReject : Prop :=
  -- ADMIT
  (∀ (s0 s s1 : State) (c i : Nat) (cmd : Cmd), let k : Cmd := { cmd with op := 0x010 }
     s0.occupy c 0 k = s → s.holdsCmd c 0 k = true → (s.cmdStamp k).early = true → s.admitCheck c k = 0 → s.freeReq c = some i →
     s.makeEntry c k i = some s1 →
     exec (.admitReq c cmd) s0 = .next ((s1.complete c k 0 (leBytes 4 (s1.handleNum c i))).placeNow c i)) ∧
  -- ADMIT
  (∀ (s0 s : State) (c st : Nat) (cmd : Cmd), let k : Cmd := { cmd with op := 0x010 }
     s0.occupy c 0 k = s → s.holdsCmd c 0 k = true → (s.cmdStamp k).early = true → s.admitCheck c k = st → st ≠ 0 →
     exec (.admitReq c cmd) s0 = .next ((s.countReject c st).complete c k st)) ∧
  -- ADMIT
  (∀ (s0 s : State) (c : Nat) (cmd : Cmd), let k : Cmd := { cmd with op := 0x010 }
     s0.occupy c 0 k = s → s.holdsCmd c 0 k = true → (s.cmdStamp k).early = false →
     exec (.admitReq c cmd) s0 = .next ((s.handOver c k).updRqt c fun r => { r with pend := r.pend ++
       [{ kind := .admission, stamp := (s.cmdStamp k).tod, slot := cmdReq k % 4096, gen := cmdGen k, cmd := k, node := 0, peer := 0,
          again := (s.req c (cmdReq k % 4096)).flags.cancelPending }] })) ∧
  -- ADMIT
  (∀ (s0 s : State) (c i : Nat) (cmd : Cmd), let k : Cmd := { cmd with op := 0x010 }
     s0.occupy c 0 k = s → s.holdsCmd c 0 k = true → (s.cmdStamp k).early = true → s.admitCheck c k = 0 → s.freeReq c = some i →
     s.makeEntry c k i = none → exec (.admitReq c cmd) s0 = .next ((s.countReject c 1).complete c k 1)) ∧
  -- ADMIT
  (∀ (s : State) (c : Nat) (cmd x : Cmd), let k : Cmd := { cmd with op := 0x010 }
     s.enabledCh c = true → (s.engine c 0).holder = some x → x ≠ k →
     exec (.admitReq c cmd) s = .next (((s.accrue c).arrive c 0 k).settle c)) ∧
  -- ACCEPT
  (∀ (s0 s s1 : State) (c i : Nat) (cmd : Cmd), let k : Cmd := { cmd with op := 0x012 }
     s0.occupy c 0 k = s → s.holdsCmd c 0 k = true → (s.cmdStamp k).early = true → s.admitCheck c k = 0 → s.freeReq c = some i →
     s.makeEntry c k i = some s1 →
     exec (.accept c cmd) s0 = .next (((s1.complete c k 0 (leBytes 4 (s1.handleNum c i))).sendOpen c i).placeNow c i)) ∧
  -- ACCEPT
  (∀ (s0 s : State) (c st : Nat) (cmd : Cmd), let k : Cmd := { cmd with op := 0x012 }
     s0.occupy c 0 k = s → s.holdsCmd c 0 k = true → (s.cmdStamp k).early = true → s.admitCheck c k = st → st ≠ 0 →
     exec (.accept c cmd) s0 = .next ((s.countReject c st).complete c k st))

/-- CANCEL, PARK, RESUME, MOVE_ABORT, QUERY and entry reads act on a request as its state allows. For a request the command may
act on, each command answers the next state written out (a second CANCEL waits for the Dawn step of the first, where it
completes with 0x09); for one it may not, the completion with the status of the rule; a table read answers the entry. The
model's own readings of log entry 16 enter here. (spec/02_requests.md.) -/
def Obligations.RequestCommandsMoveTheStateMachine : Prop :=
  -- CANCEL
  (∀ (s0 s : State) (c : Nat) (cmd : Cmd), s0.occupy c 0 cmd = s → s.holdsCmd c 0 cmd = true → s.handleLive c cmd = true → (s.cmdStamp cmd).early = true →
     let i := cmdReq cmd % 4096
     (s.req c i).flags.cancelPending = false → (s.req c i).cancelHeld = false → (s.req c i).cancelStatus = 0 →
     exec (.cancel c cmd) s0 = .next (((s.updReq c i fun e =>
       { e with flags := { e.flags with cancelPending := true } }).cancelling c i).complete c cmd 0)) ∧
  -- CANCEL
  (∀ (s0 s : State) (c : Nat) (cmd : Cmd), s0.occupy c 0 cmd = s → s.holdsCmd c 0 cmd = true → s.handleLive c cmd = true →
     let i := cmdReq cmd % 4096
     (s.req c i).flags.cancelPending = true →
     exec (.cancel c cmd) s0 = .next ((s.defer c .cancel cmd).updReq c i fun e =>
       { e with flags := { e.flags with cancelPending := true } })) ∧
  -- CANCEL
  (∀ (s : State) (c : Nat) (p : Pend), (s.req c p.slot).gen = p.gen → (s.req c p.slot).st ≠ .free → (s.req c p.slot).cancelHeld = false →
     p.again = true → s.applyCancel c p = (s.complete c p.cmd 0x09, true)) ∧
  -- CANCEL
  (∀ (s0 s : State) (c : Nat) (cmd : Cmd), s0.occupy c 0 cmd = s → s.holdsCmd c 0 cmd = true → s.handleLive c cmd = false →
     exec (.cancel c cmd) s0 = .next (s.complete c cmd 0x06)) ∧
  -- PARK
  (∀ (s0 s : State) (c : Nat) (cmd : Cmd), s0.occupy c 0 cmd = s → s.holdsCmd c 0 cmd = true → s.handleLive c cmd = true → (s.cmdStamp cmd).early = true →
     let i := cmdReq cmd % 4096
     (s.req c i).st = .decoding ∨ (s.req c i).st = .resident →
     exec (.park c cmd) s0 = .next (((((s.dropStep c i).updReq c i fun e =>
       { e with st := .spilled, bin := 0xFF }).parkPages c i).forward c i .shardPark).complete c cmd 0)) ∧
  -- RESUME
  (∀ (s0 s : State) (c : Nat) (cmd : Cmd), s0.occupy c 0 cmd = s → s.holdsCmd c 0 cmd = true → s.handleLive c cmd = true → (s.cmdStamp cmd).early = true →
     let i := cmdReq cmd % 4096
     (s.req c i).st = .spilled →
     exec (.resume c cmd) s0 = .next ((((s.updReq c i fun e =>
       { e with st := .resident }).forward c i .shardResume).complete c cmd 0).placeNow c i)) ∧
  -- MOVE_ABORT
  (∀ (s0 s : State) (c : Nat) (cmd : Cmd), s0.occupy c 0 cmd = s → s.holdsCmd c 0 cmd = true → s.handleLive c cmd = true → (s.cmdStamp cmd).early = true →
     let i := cmdReq cmd % 4096
     (s.req c i).st = .moving → (s.req c i).outbound = true →
     exec (.moveAbort c cmd) s0 = .next ((if (s.req c i).switched then ((s.homesBack c i).lose c i 0x10).moveFailed c i 0x10
       else ((s.homesBack c i).updReq c i fun e => { e with st := e.preMove, outbound := false }).moveFailed c i 0).complete c cmd 0)) ∧
  -- QUERY
  (∀ (s0 s : State) (c : Nat) (cmd : Cmd), s0.occupy c 0 cmd = s → s.holdsCmd c 0 cmd = true → s.handleLive c cmd = true →
     let e := s.req c (cmdReq cmd % 4096)
     exec (.query c cmd) s0 =
       .next (s.complete c cmd 0 (leBytes 4 e.st.code ++ leBytes 4 e.flags.num ++ leBytes 4 e.curLen ++ leBytes 4 e.endCode))) ∧
  -- PARK, RESUME, MOVE_ABORT, QUERY
  (∀ (s0 s : State) (c : Nat) (cmd : Cmd), s0.occupy c 0 cmd = s → s.holdsCmd c 0 cmd = true → s.handleLive c cmd = false →
     exec (.park c cmd) s0 = .next (s.complete c cmd 0x06) ∧ exec (.resume c cmd) s0 = .next (s.complete c cmd 0x06) ∧
     exec (.moveAbort c cmd) s0 = .next (s.complete c cmd 0x06) ∧ exec (.query c cmd) s0 = .next (s.complete c cmd 0x06)) ∧
  -- RQT_ENTRY_READ
  (∀ (s : State) (rq : Requester) (c : Nat), s.canRead rq (rqtPage c) = true →
     let i := s.rdF c Reg.RQT_SEL 11 0
     exec (.rqtEntryRead rq c) s =
       .next ((s.snapEntry c).emit (.readData ((wordsOf (entryBytes c i (s.req c i))).headD 0))))

/-- A request is moved to another node: opened, filled, switched and closed. MOVE_OPEN, PAGE_TABLE_RETURN, HOME_SWITCH_NOTICE and
MOVE_CLOSE answer the next state written out at the source, at the target and at the holders of the pages, or the rejection
with its cause. The model's own readings of log entry 12 enter here. (spec/02_requests.md.) -/
def Obligations.MovingARequestBetweenNodes : Prop :=
  -- MOVE_OPEN
  (∀ (s : State) (c slot gen node peer : Nat), s.enabledCh c = true → s.inWindow .dawn = true →
     let i := slot % 4096
     (s.req c i).gen = gen → (s.req c i).canMoveOut = true →
     exec (.moveOpen c slot gen node peer) s = .next ((((s.dropStep c i).updReq c i fun e =>
       { e with preMove := e.st, st := .moving, bin := 0xFF, outbound := true, switched := false, moveNode := node,
                moveReq := peer }).sendTable c i).homesMoving c i)) ∧
  -- MOVE_OPEN
  (∀ (s : State) (c slot gen node peer : Nat), s.enabledCh c = true → s.inWindow .dawn = true →
     (s.req c (slot % 4096)).gen ≠ gen ∨ (s.req c (slot % 4096)).canMoveOut = false →
     exec (.moveOpen c slot gen node peer) s = .next (s.refuseOpen c node peer)) ∧
  -- MOVE_OPEN
  (∀ (s : State) (c slot gen node peer : Nat), s.enabledCh c = true → s.inWindow .dawn = false →
     exec (.moveOpen c slot gen node peer) s = .next (s.updRqt c fun r => { r with pend := r.pend ++
       [{ kind := .moveOpen, stamp := s.tim.tod, slot := slot % 4096, gen := gen, cmd := default, node := node, peer := peer,
          again := false }] })) ∧
  -- PAGE_TABLE_RETURN
  (∀ (s : State) (c slot gen : Nat) (m : MoveReply),
     let i := slot % 4096
     s.enabledCh c = true → (s.req c i).gen = gen → (s.req c i).flags.pulling = true → (s.req c i).outbound = false →
     (s.req c i).tableIn = false → m.refused = false →
     let t := m.pages.foldl (fun s x => s.importPage c i x) (s.importEntry c i m)
     exec (.pageTableReturn c slot gen m) s = .next (if t.stillPulling c i then t else t.moveComplete c i)) ∧
  -- PAGE_TABLE_RETURN
  (∀ (s : State) (c slot gen : Nat) (m : MoveReply),
     let i := slot % 4096
     s.enabledCh c = true → (s.req c i).gen = gen → (s.req c i).flags.pulling = true → (s.req c i).outbound = false →
     (s.req c i).tableIn = false → m.refused = true → exec (.pageTableReturn c slot gen m) s = .next (s.lose c i 0x10)) ∧
  -- HOME_SWITCH_NOTICE
  (∀ (s : State) (c slot gen layer page : Nat),
     let i := slot % 4096
     let k := pteKey (s.req c i).table layer page
     let p := s.pte c k
     s.enabledCh c = true → (s.req c i).gen = gen → (s.req c i).outbound = true → p.there = true → p.link = false →
     p.st ≠ .evicted →
     let t := s.updReq c i fun e => { e with switched := true }
     exec (.homeSwitchNotice c slot gen layer page) s = .next (if 1 < p.ref then
       ((t.setPte c k { p with st := if p.st = .poisoned then .poisoned else .valid }).passHome c k).setPte c k
         { (default : Pte) with there := true, st := .evicted }
       else (if slotHere c ⟨p.tier, p.addr⟩ then t.unhold c i else t).decRef c k)) ∧
  -- MOVE_CLOSE
  (∀ (s : State) (c slot gen : Nat),
     let i := slot % 4096
     let e := s.req c i
     s.enabledCh c = true → e.gen = gen → e.st = .moving → e.outbound = true →
     let links := (s.tableKeys c e.table).filter fun k => (s.pte c k).link && (s.pte c k).st == .valid
     exec (.moveClose c slot gen) s = .next ((((links.foldl (fun s k => s.dropPte c k) s).setEnd c i .done 0x06).shardEnd c i false
       0x06).postJob c e.job
       (eventRec 0x06 0 e.gen (reqIndex c i) e.job s.tim.day s.stamp e.userTag)))

/-- Sweep commands are checked and take the array. QK, SOFTMAX, PV, FUSED, PARTIAL, STATE_UPDATE and CROSS take the array and
start their sweep where they come next and its power is on, and wait where the array is powered down or another command holds
it; a sweep whose descriptor keeps the rules starts with the members and the rows of its bin. The model's own readings of log
entries 17, 18 enter here. (spec/04_attention_array.md.) -/
def Obligations.SweepCommandsTakeTheArray : Prop :=
  -- QK, SOFTMAX, PV, FUSED, PARTIAL, STATE_UPDATE, CROSS
  (∀ (s : State) (c op : Nat) (cmd : Cmd), let k : Cmd := { cmd with op := op }
     s.comesNext c 1 k = true → s.domSt c = .on →
     let t := s.taken c 1 k
     (t.engine c 1).holder = some k → t.run c cmd.job = none →
     (op = 0x101 → exec (.qk c cmd) s = .next (t.startSweep c k)) ∧
     (op = 0x102 → exec (.softmax c cmd) s = .next (t.startSweep c k)) ∧
     (op = 0x103 → exec (.pv c cmd) s = .next (t.startSweep c k)) ∧
     (op = 0x104 → exec (.fused c cmd) s = .next (t.startSweep c k)) ∧
     (op = 0x105 → exec (.partialSweep c cmd) s = .next (t.startSweep c k)) ∧
     (op = 0x106 → exec (.stateUpdate c cmd) s = .next (t.startSweep c k)) ∧
     (op = 0x107 → exec (.cross c cmd) s = .next (t.startSweep c k))) ∧
  -- QK, SOFTMAX, PV, FUSED, PARTIAL, STATE_UPDATE, CROSS
  (∀ (s : State) (c op : Nat) (cmd : Cmd), let k : Cmd := { cmd with op := op }
     s.enabledCh c = true → s.domSt c ≠ .on →
     let t := ((s.accrue c).arrive c 1 k).settle c
     let u := if t.inWindow .noon then t.wake c else t
     (op = 0x101 → exec (.qk c cmd) s = .next u) ∧ (op = 0x102 → exec (.softmax c cmd) s = .next u) ∧
     (op = 0x103 → exec (.pv c cmd) s = .next u) ∧ (op = 0x104 → exec (.fused c cmd) s = .next u) ∧
     (op = 0x105 → exec (.partialSweep c cmd) s = .next u) ∧ (op = 0x106 → exec (.stateUpdate c cmd) s = .next u) ∧
     (op = 0x107 → exec (.cross c cmd) s = .next u)) ∧
  -- QK, SOFTMAX, PV, FUSED, PARTIAL, STATE_UPDATE, CROSS
  (∀ (s : State) (c op : Nat) (cmd x : Cmd), let k : Cmd := { cmd with op := op }
     s.enabledCh c = true → s.domSt c = .on → (s.engine c 1).holder = some x → x ≠ k →
     let u := ((s.accrue c).arrive c 1 k).settle c
     (op = 0x101 → exec (.qk c cmd) s = .next u) ∧ (op = 0x102 → exec (.softmax c cmd) s = .next u) ∧
     (op = 0x103 → exec (.pv c cmd) s = .next u) ∧ (op = 0x104 → exec (.fused c cmd) s = .next u) ∧
     (op = 0x105 → exec (.partialSweep c cmd) s = .next u) ∧ (op = 0x106 → exec (.stateUpdate c cmd) s = .next u) ∧
     (op = 0x107 → exec (.cross c cmd) s = .next u)) ∧
  -- QK, SOFTMAX, PV, FUSED, PARTIAL, STATE_UPDATE, CROSS
  (∀ (s : State) (c : Nat) (cmd : Cmd), (descOf (cmdDesc cmd)).ok cmd.op cmd.job (s.binById c (descOf (cmdDesc cmd)).bin) = true →
     let d := descOf (cmdDesc cmd)
     let ms := s.sweepMembers c d.bin d.layer
     let placed := s.placedIn c d.bin
     let rows := (ms ++ placed.filter fun i => (s.req c i).inLayer d.layer).map fun i => s.pageCount c i d
     s.startSweep c cmd = ((ms.foldl (fun t i => t.joinSweep c i d) s).setRun c cmd.job (some (newRun cmd
       (ms.map fun i => ⟨i, (s.req c i).gen, false, false, s.stepAbandoned c i, false, false, false, 0⟩)
       placed (16 * rows.foldl max 0) s.tim.now))).settleSweep c cmd.job)

/-- The array works off a tile, and ring records of queries, partials and logits are taken. TILE_END answers the next state of
the sweep in the array, with the end of its members where nothing is left to run; QUERY_RECORD, PARTIAL_RECORD and LOGITS_RECORD
take a record that no rule drops, and a QUERY record that one drops is dropped with its cause. The model's own readings of log
entries 18, 19 enter here. (spec/04_attention_array.md.) -/
def Obligations.ArrayTilesAndRingRecordsAreWorkedOff : Prop :=
  -- TILE_END
  (∀ (s : State) (c : Nat) (bad : Option Nat) (cmd : Cmd) (r : SweepRun), (s.engine c 1).holder = some cmd → isSweep cmd.op = true →
     s.run c cmd.job = some r → r.cmd = cmd → s.arrayStuck c cmd.job = false →
     exec (.tileEnd c bad) s = .next (s.tile c cmd bad)) ∧
  -- TILE_END
  (∀ (s u : State) (c : Nat) (bad : Option Nat) (cmd : Cmd) (r0 r1 r : SweepRun), (s.engine c 1).holder = some cmd →
     isSweep cmd.op = true → s.run c cmd.job = some r0 → r0.cmd = cmd → s.arrayStuck c cmd.job = false →
     (s.underRun c cmd.job fun s => (s.flushHeld c cmd.job 4096).layAll c cmd.job) = u → u.run c cmd.job = some r1 →
     let v := (u.setRun c cmd.job (some { r1 with streams := r1.streams.map (u.refresh c) })).coverStruck c cmd.job
     v.run c cmd.job = some r → r.held = [] → (v.asOld c r.old).layFault c r = none → r.projDue (v.nextSet c r) = none →
     v.nextSet c r = [] →
     exec (.tileEnd c bad) s = .next ((v.underRun c cmd.job fun s => s.endMembers c cmd.job).afterTile c cmd)) ∧
  -- TILE_END
  (∀ (s : State) (c : Nat) (bad : Option Nat) (cmd : Cmd), (s.engine c 1).holder = some cmd → isSweep cmd.op = true →
     s.run c cmd.job = none → exec (.tileEnd c bad) s = .next (s.startSweep c cmd)) ∧
  -- QUERY_RECORD
  (∀ (s t : State) (c r : Nat) (h : XrHead) (d : Desc), s.serves c = true → s.snoopClear (s.xrPublished c r) = true →
     s.xrNext c r 1 = (t, some h) → t.queryCause c r h = 0 → t.layerDesc c h.slot h.layer = some d →
     exec (.queryRecord c r) s = .next (t.takeQuery c r h d)) ∧
  -- QUERY_RECORD
  (∀ (s t : State) (c r : Nat) (h : XrHead), s.serves c = true → s.snoopClear (s.xrPublished c r) = true →
     s.xrNext c r 1 = (t, some h) → t.queryCause c r h ≠ 0 →
     exec (.queryRecord c r) s = .next (t.dropRecord c r (t.queryCause c r h) h)) ∧
  -- PARTIAL_RECORD
  (∀ (s t : State) (c r : Nat) (h : XrHead) (d : Desc) (pay : List Byte), s.serves c = true →
     s.snoopClear (s.xrPublished c r) = true → s.xrNext c r 3 = (t, some h) → t.partialCause c r h = 0 →
     t.layerDesc c h.slot h.layer = some d →
     t.xrPayload c h (t.xrJob c r) (h.ntok * d.qHeads * (4 * d.outDim + 8)) = some pay →
     exec (.partialRecord c r) s = .next (((((t.xrTake c r h (t.xrJob c r) pay.length).beginStep c h.slot).updStep c h.slot fun x =>
       { x with parts := x.parts.upd h.layer fun l => l ++ [⟨h.shard, pay⟩] }).mergeMember c (t.xrJob c r) h.slot d).settleSweep c
         (t.xrJob c r))) ∧
  -- LOGITS_RECORD
  (∀ (s t : State) (c r : Nat) (h : XrHead), s.serves c = true → s.snoopClear (s.xrPublished c r) = true →
     s.xrNext c r 5 = (t, some h) → t.logitsCause c r h = 0 →
     exec (.logitsRecord c r) s = .next (t.takeLogits c r h))

/-- A step commits, sampler configurations are set, released and bound, and a sampler row is chosen. STEP_COMMIT, SMP_CFG_SET,
SMP_CFG_RELEASE, BEAM_BIND and SAMPLER_ROW_DONE answer the next state written out, with the completion or the terminal record
each writes. The model's own readings of log entries 14, 20 enter here. (spec/08_sampling.md, spec/02_requests.md.) -/
def Obligations.StepsCommitAndTheSamplerRuns : Prop :=
  -- STEP_COMMIT
  (∀ (s : State) (c slot : Nat), s.serves c = true →
     let i := slot % 4096
     s.commitSet c i = [] → s.inWindow .dusk = true → s.commitBegun c i = false → s.stepComplete c i = true →
     s.commitStalls c i i = false → (s.writesRecord c i && !s.cancelDrops c i && s.crStalls c i 1) = false →
     exec (.stepCommit c slot) s = .next (if s.cancelDrops c i then ((s.buildMet c i).dropStep c i).monitorLate c i
       else match s.commitState c i i with
       | none => s.poolDrop c i
       | some t => t.finishCommit c i)) ∧
  -- STEP_COMMIT
  (∀ (s : State) (c slot : Nat), s.serves c = true →
     let i := slot % 4096
     s.commitSet c i = [] → s.inWindow .dusk = true → s.commitBegun c i = false → s.stepComplete c i = true →
     s.commitStalls c i i = false → (s.writesRecord c i && !s.cancelDrops c i && s.crStalls c i 1) = true →
     exec (.stepCommit c slot) s = .next ((s.beginCommit c [i]).stallCommit c i)) ∧
  -- STEP_COMMIT
  (∀ (s : State) (c slot : Nat), s.serves c = true →
     let i := slot % 4096
     s.commitSet c i = [] → s.inWindow .dusk = true → s.commitBegun c i = false → s.stepComplete c i = true →
     s.commitStalls c i i = true → exec (.stepCommit c slot) s = .next (s.beginCommit c [i])) ∧
  -- STEP_COMMIT
  (∀ (s : State) (c slot : Nat), s.serves c = true →
     let i := slot % 4096
     s.commitSet c i = [] → s.commitBegun c i = true → s.stepComplete c i = true →
     exec (.stepCommit c slot) s = .next (s.underBegun c i fun s => s.tryCommit c i [] [i])) ∧
  -- STEP_COMMIT
  (∀ (s : State) (c slot : Nat), s.serves c = true →
     let i := slot % 4096
     let live := s.commitSet c i
     live ≠ [] → s.inWindow .dusk = true → (∀ x ∈ live, s.stepComplete c x.slot = true) →
     exec (.stepCommit c slot) s = .next (s.underBegun c i fun s => s.tryCommit c i live (live.map BeamMember.slot))) ∧
  -- STEP_COMMIT
  (∀ (s : State) (c slot : Nat), s.serves c = true →
     let i := slot % 4096
     s.commitSet c i = [] → s.inWindow .dusk = false → s.commitBegun c i = false →
     exec (.stepCommit c slot) s = .next s) ∧
  -- SMP_CFG_SET
  (∀ (s0 s : State) (c : Nat) (cmd : Cmd), let r := padTo 64 (cmd.payload.drop 8)
     s0.occupy c 0 cmd = s → s.holdsCmd c 0 cmd = true → s.cfgOther c (cmdCfg cmd) cmd.job = false → cfgOk r = true →
     exec (.smpCfgSet c cmd) s0 = .next ((s.setCfg c (cmdCfg cmd) (ownedCfg r cmd.job)).complete c cmd 0)) ∧
  -- SMP_CFG_SET, SMP_CFG_RELEASE
  (∀ (s0 s : State) (c : Nat) (cmd : Cmd), s0.occupy c 0 cmd = s → s.holdsCmd c 0 cmd = true → s.cfgOther c (cmdCfg cmd) cmd.job = true →
     exec (.smpCfgSet c cmd) s0 = .next (s.complete c cmd 0x61) ∧ exec (.smpCfgRelease c cmd) s0 = .next (s.complete c cmd 0x61)) ∧
  -- SMP_CFG_RELEASE
  (∀ (s0 s : State) (c : Nat) (cmd : Cmd), s0.occupy c 0 cmd = s → s.holdsCmd c 0 cmd = true → s.cfgOther c (cmdCfg cmd) cmd.job = false →
     exec (.smpCfgRelease c cmd) s0 = .next ((s.setCfg c (cmdCfg cmd) []).complete c cmd 0)) ∧
  -- BEAM_BIND
  (∀ (s0 s : State) (c : Nat) (cmd : Cmd), let hs := bindHandles cmd.payload
     s0.occupy c 0 cmd = s → s.holdsCmd c 0 cmd = true → 2 ≤ hs.length → (hs.map Prod.fst).Nodup → (hs.any (s.bindStale c)) = false →
     (hs.all (s.bindable c cmd.job hs.length (s.req c ((hs.head?.getD (0, 0)).1 % 4096)))) = true →
     exec (.beamBind c cmd) s0 = .next ((s.updSmp c fun x => { x with
       beams := x.beams.filter (fun g => g.members.any (s.beamHeld c)) ++ [⟨hs.map fun h => ⟨h.1 % 4096, h.2, 0⟩, false⟩] }).complete c cmd 0)) ∧
  -- BEAM_BIND
  (∀ (s0 s : State) (c : Nat) (cmd : Cmd), s0.occupy c 0 cmd = s → s.holdsCmd c 0 cmd = true → ((bindHandles cmd.payload).any (s.bindStale c)) = true →
     exec (.beamBind c cmd) s0 = .next (s.complete c cmd 0x06)) ∧
  -- SAMPLER_ROW_DONE
  (∀ (s : State) (c : Nat) (cmd : Cmd), (s.engine c 4).holder = some cmd →
     let i := recNat cmd.payload 0 2
     let j := recNat cmd.payload 4 2
     (s.smpStep c i).gen = recNat cmd.payload 2 2 → (s.smpStep c i).day = cmd.tag → (s.smpStep c i).done.getD j (some []) = none →
     s.needCounts c i (s.rowCfg c (s.req c i)) = false →
     exec (.samplerRowDone c) s = .next (s.finishRow c i j cmd (s.rowCfg c (s.req c i))))

/-- Prefix handles are allocated, freed and queried. PREFIX_ALLOC, PREFIX_FREE and PREFIX_QUERY complete with the status of the
first check that fails, and otherwise with the handle allocated, released or described. The model's own readings of log
entries 12, 16 enter here. (spec/05_kv_pages.md.) -/
def Obligations.PrefixHandlesAreAllocatedFreedAndQueried : Prop :=
  -- PREFIX_ALLOC
  (∀ (s0 s : State) (c i : Nat) (cmd : Cmd), s0.occupy c 0 cmd = s → s.holdsCmd c 0 cmd = true → s.freeHandle c = some i →
     let g := ((s.handle c i).gen + 1) % 65536
     exec (.prefixAlloc c cmd) s0 = .next ((s.setHandle c i
       { (default : Handle) with layers := nfld (recNat cmd.payload 0 2) 11 0, job := cmd.job, st := .empty, gen := g }).complete c cmd 0 (leBytes 4 (i + g * 65536)))) ∧
  -- PREFIX_FREE
  (∀ (s0 s : State) (c : Nat) (cmd : Cmd), let h := recNat cmd.payload 0 4
     s0.occupy c 0 cmd = s → s.holdsCmd c 0 cmd = true → s.handleOk c cmd.job h = true →
     exec (.prefixFree c cmd) s0 = .next ((s.setHandle c (hIdx h)
       { s.handle c (hIdx h) with st := .freeing, released := false }).complete c cmd 0)) ∧
  -- PREFIX_QUERY
  (∀ (s0 s : State) (c : Nat) (cmd : Cmd), let h := recNat cmd.payload 0 4
     let x := s.handle c (hIdx h)
     s0.occupy c 0 cmd = s → s.holdsCmd c 0 cmd = true → s.handleOk c cmd.job h = true →
     exec (.prefixQuery c cmd) s0 = .next (s.complete c cmd 0 (leBytes 4 x.len ++ leBytes 4 x.st.code ++ leBytes 4 x.pagesHeld))) ∧
  -- PREFIX_FREE, PREFIX_QUERY
  (∀ (s0 s : State) (c : Nat) (cmd : Cmd), s0.occupy c 0 cmd = s → s.holdsCmd c 0 cmd = true → s.handleOk c cmd.job (recNat cmd.payload 0 4) = false →
     exec (.prefixFree c cmd) s0 = .next (s.complete c cmd 0x06) ∧ exec (.prefixQuery c cmd) s0 = .next (s.complete c cmd 0x06))

/-- A page move ends well or badly, and a drained tier is released. PAGE_MOVE_DONE and PAGE_MOVE_FAILED answer the next state of
the page and its accounts, and DRAIN_RELEASE the release of the tier, as written out. The model's own readings of log entry 13
enter here. (spec/05_kv_pages.md.) -/
def Obligations.PagesMoveBetweenTiers : Prop :=
  -- PAGE_MOVE_DONE
  (∀ (s : State) (c id : Nat) (m : PageMove), (s.pgm c).moves.at id = some m → m.canEnd = true → s.copyGoesOn c m = true →
     exec (.pageMoveDone c id) s = .next (((if s.writesGone m then
       (s.bump ((s.t2Port m.dst.addr).getD 0) Reg.CXH_T2_FAIL_CNT).failMove c id m
       else s.finishMove c id m).kickMoves c false).retirePlan)) ∧
  -- PAGE_MOVE_DONE
  (∀ (s : State) (c id : Nat) (m : PageMove), s.moveHolds c id m = true → m.far = false → crossesXbar c m = false →
     m.kind = .pull →
     let bad := (s.pte c m.pte).st == .poisoned || (s.imgPoison m.src 0 20480 || decide (2 ≤ m.flaw))
     let job := (s.table c (keyTable m.pte)).job
     let t := s.touchImage job m.src
     s.finishMove c id m =
       ((((t.imgWrite m.dst 0 (t.imgRead m.src 0 20480) job).countMove c m).switchHome c id m bad).moveSlots c m).switchedHome c
         m.pte) ∧
  -- PAGE_MOVE_DONE
  (∀ (s : State) (c id : Nat) (m : PageMove), s.moveHolds c id m = false →
     s.finishMove c id m = (s.dropMove c id).placeFree c m.dst false) ∧
  -- PAGE_MOVE_FAILED
  (∀ (s : State) (c id : Nat) (m : PageMove), (s.pgm c).moves.at id = some m → (m.far = false ∨ m.isOver = 3) → s.copyWaits c m = false →
     exec (.pageMoveFailed c id) s = .next (((s.failMove c id m).kickMoves c false).retirePlan)) ∧
  -- DRAIN_RELEASE
  (∀ (s : State) (c a : Nat), exec (.drainRelease c a) s = .next ((s.drainRelease c a).kickMoves c false))

/-- COPY and CONVERT occupy the MOVER engine and run chunk by chunk. COPY and CONVERT take the MOVER where they come next and
wait where another command holds it; DMV_CHUNK_DONE answers the next state after one chunk. The model's own readings of log
entries 15, 61 enter here. (spec/05_kv_pages.md, spec/12_solrov_fabric.md.) -/
def Obligations.MoverRunsCopyAndConvertInChunks : Prop :=
  -- COPY
  (∀ (s : State) (c : Nat) (cmd : Cmd), let k : Cmd := { cmd with op := 0x040 }
     s.comesNext c 2 k = true → exec (.copy c cmd) s = .next ((s.taken c 2 k).dmvArm c)) ∧
  -- COPY
  (∀ (s : State) (c : Nat) (cmd x : Cmd), let k : Cmd := { cmd with op := 0x040 }
     s.enabledCh c = true → (s.engine c 2).holder = some x → x ≠ k →
     exec (.copy c cmd) s = .next ((((s.accrue c).arrive c 2 k).settle c).dmvArm c)) ∧
  -- CONVERT
  (∀ (s : State) (c : Nat) (cmd : Cmd), let k : Cmd := { cmd with op := 0x041 }
     s.comesNext c 2 k = true → exec (.convert c cmd) s = .next ((s.taken c 2 k).dmvArm c)) ∧
  -- CONVERT
  (∀ (s : State) (c : Nat) (cmd x : Cmd), let k : Cmd := { cmd with op := 0x041 }
     s.enabledCh c = true → (s.engine c 2).holder = some x → x ≠ k →
     exec (.convert c cmd) s = .next ((((s.accrue c).arrive c 2 k).settle c).dmvArm c)) ∧
  -- DMV_CHUNK_DONE
  (∀ (s : State) (c : Nat) (cmd : Cmd), (s.engine c 2).holder = some cmd → (cmd.op = 0x040 ∨ cmd.op = 0x041) →
     s.snoopClear (s.chunkTouches c (s.dmvRun c cmd)) = true →
     exec (.dmvChunkDone c) s = .next ((s.dmvChunk c cmd).dmvArm c)) ∧
  -- DMV_CHUNK_DONE
  (∀ (s t : State) (c : Nat) (cmd : Cmd) (r : DmvRun), cmd.op = 0x040 → s.dmvWaits c cmd.job = false →
     (s.dmvRun c cmd).fail = 0 → (s.dmvRun c cmd).settling = false → (s.dmvRun c cmd).chunk < dmvChunks cmd →
     s.engineStuck c 2 cmd.job = false → s.rackSrc c (s.dmvRun c cmd) = [] →
     (s.setDmvRun c cmd.job (some (s.dmvRun c cmd))).copyChunk c (s.dmvRun c cmd) (s.dmvRun c cmd).got = (t, .done r) →
     s.dmvChunk c cmd = t.chunkOver c (s.dmvRun c cmd) r)

/-- Vector stores are set, filled, thinned out, searched and repaired. VSE_STORE_SET, VSE_INSERT, VSE_DELETE, VSE_SEARCH,
SCAN_GROUP_END, VSE_REPAIR_POP and RERANK_EN_WRITE answer the next state written out, and a search on the array that is powered
down waits for it. The model's own readings of log entries 22, 23 enter here. (spec/06_sketches_and_search.md.) -/
def Obligations.VectorCommandsStoreInsertDeleteAndSearch : Prop :=
  -- VSE_STORE_SET
  (∀ (s : State) (c : Nat) (cmd : Cmd), let k : Cmd := { cmd with op := 0x060 }
     let n := nfld (recNat cmd.payload 0 4) 5 0
     let v : VStore := { isSet := true, job := cmd.job, desc := padTo 64 cmd.payload, groups := [] }
     let t := s.taken c 3 k
     s.comesNext c 3 k = true → (t.engine c 3).holder = some k → t.engineStuck c 3 cmd.job = false →
     ((t.vstore c n).isSet = false ∨ (t.vstore c n).job = cmd.job) → (t.vstore c n).groupCount = 0 →
     (v.kind = 0 ∨ (t.vse c).rerank = true) → v.ok = true →
     exec (.vseStoreSet c cmd) s = .next (((t.setStore c n v).each (List.range 16) fun s i =>
       s.wr c ⟨.vse, 0x200 + 4 * i⟩ (lo32 (recNat v.desc (4 * i) 4)) n).complete c k 0)) ∧
  -- VSE_INSERT
  (∀ (s : State) (c : Nat) (cmd : Cmd), let k : Cmd := { cmd with op := 0x061 }
     let r := recNat cmd.payload 0 8
     let t := s.taken c 3 k
     s.comesNext c 3 k = true → (t.engine c 3).holder = some k → t.engineStuck c 3 cmd.job = false →
     (t.storeOf c (nfld r 5 0) cmd.job = false ∨ t.listScanned c (nfld r 5 0) (nfld r 51 32) = false) → exec (.vseInsert c cmd) s = .next (t.vseInsert c 3 k)) ∧
  -- VSE_DELETE
  (∀ (s : State) (c : Nat) (cmd : Cmd), let k : Cmd := { cmd with op := 0x062 }
     let r := recNat cmd.payload 0 8
     let t := s.taken c 3 k
     s.comesNext c 3 k = true → (t.engine c 3).holder = some k → t.engineStuck c 3 cmd.job = false →
     (t.storeOf c (vrefStore r) cmd.job = false ∨ t.listScanned c (vrefStore r) (vrefList r) = false) → exec (.vseDelete c cmd) s = .next (t.vseDelete c 3 k)) ∧
  -- VSE_SEARCH
  (∀ (s : State) (c e : Nat) (cmd : Cmd), let k : Cmd := { cmd with op := 0x063 }
     let t := s.taken c e k
     s.engineFor c k = some e → (e = 1 → s.domSt c = .on) → s.comesNext c e k = true → (t.engine c e).holder = some k →
     t.engineStuck c e cmd.job = false → t.search c e cmd.job = none →
     exec (.vseSearch c cmd) s = .next (t.beginSearch c e k)) ∧
  -- VSE_SEARCH
  (∀ (s : State) (c : Nat) (cmd : Cmd), let k : Cmd := { cmd with op := 0x063 }
     s.enabledCh c = true → s.engineFor c k = some 1 → s.domSt c ≠ .on →
     exec (.vseSearch c cmd) s = .next ((((s.accrue c).arrive c 1 k).settle c).wake c)) ∧
  -- SCAN_GROUP_END
  (∀ (s : State) (c e : Nat) (cmd : Cmd) (r : SearchRun), s.enabledCh c = true → (e = 1 ∨ e = 3) → (s.engine c e).holder = some cmd →
     cmd.op = 0x063 → s.engineStuck c e cmd.job = false → s.search c e cmd.job = some r → r.cmd = cmd →
     exec (.scanGroupEnd c e) s = .next ((s.searchStep c e r).vseTaken c 3)) ∧
  -- VSE_REPAIR_POP
  (∀ (s : State) (rq : Requester) (c : Nat) (v : Word), s.reachesReg rq c Reg.VSE_REPAIR_POP = true → wbit v 0 = true →
     exec (.vseRepairPop rq c v) s = .next ((s.updVse c fun x => { x with repair := x.repair.drop 1 }).repairRegs c)) ∧
  -- RERANK_EN_WRITE
  (∀ (s : State) (rq : Requester) (c : Nat) (v : Word), s.reachesReg rq c Reg.VSE_CFG = true →
     (s.isAgent c = false ∨ wbit v 0 = false ∨ s.rdB c Reg.VSE_CFG 0 = true ∨ s.rerankFull c = true) →
     exec (.rerankEnWrite rq c v) s = .next ((s.updCcx c fun x => { x with rerank := none }).rerankWrite c v)) ∧
  -- RERANK_EN_WRITE
  (∀ (s : State) (rq : Requester) (c : Nat) (v : Word), s.reachesReg rq c Reg.VSE_CFG = true → s.isAgent c = true →
     wbit v 0 = true → s.rdB c Reg.VSE_CFG 0 = false → s.rerankFull c = false →
     exec (.rerankEnWrite rq c v) s = .next ((s.updCcx c fun x => { x with rerank := some v }).agentGo c))

/-- Coded regions are enabled and initialised, and a waiting whole-block write is stored RAW. REGION_ENABLE that reaches its
register and REGION_READY answer the next state written out in every state. WR_WAIT_EXPIRY stores a whole block RAW with its
counts; a part of a block is merged with what the block reads and stored RAW, or dropped and counted where the block does not
read; other operands change nothing, and a whole block leaves every other byte of memory but its header's. The model's own
readings of log entries 6, 60 enter here. (spec/07_block_coding.md.) -/
def Obligations.ResidueBlocksAndRegionsAreKept : Prop :=
  -- REGION_ENABLE
  (∀ (s : State) (rq : Requester) (c : Nat) (v : Word), let r := s.rdN c Reg.ZRB_RGN_SEL
     s.reachesReg rq c Reg.ZRB_RGN_CFG = true → s.rdB c Reg.ZRB_RGN_CFG 0 r = false →
     exec (.regionEnable rq c v) s = .next (((s.store c Reg.ZRB_RGN_CFG (setBit v 0 true)).wr c Reg.ZRB_RGN_STAT 2 r).mwrite
       (s.rd64 c Reg.ZRB_RGN_SIDE_LO r) (zeroHeaders (32 * s.rdF c Reg.ZRB_RGN_SLOTS 21 0 r)))) ∧
  -- REGION_ENABLE
  (∀ (s : State) (rq : Requester) (c : Nat) (v : Word), let r := s.rdN c Reg.ZRB_RGN_SEL
     s.reachesReg rq c Reg.ZRB_RGN_CFG = true → s.rdB c Reg.ZRB_RGN_CFG 0 r = true →
     exec (.regionEnable rq c v) s = .next (if fld (v &&& 0xFFFFFF1F) 31 1 = s.rdF c Reg.ZRB_RGN_CFG 31 1 r then s
       else s.logIgnored (zrbPage c) 0x10C v)) ∧
  -- REGION_READY
  (∀ (s : State) (c r : Nat), s.rdB c Reg.ZRB_RGN_STAT 1 r = true → s.rdB c Reg.ZRB_RGN_CFG 0 r = true →
     exec (.regionReady c r) s = .next ((s.wr c Reg.ZRB_RGN_STAT 1 r).evt (zrbPage c) 1)) ∧
  -- REGION_READY
  (∀ (s : State) (c r : Nat), s.rdB c Reg.ZRB_RGN_STAT 1 r = false ∨ s.rdB c Reg.ZRB_RGN_CFG 0 r = false →
     exec (.regionReady c r) s = .next s) ∧
  -- WR_WAIT_EXPIRY
  (∀ (s : State) (c a : Nat) (data : List Byte) (z : ZRegion), s.zrbRegion a = some z → z.c = c → data.length = 512 → a % 512 = 0 →
     let tb := s.rdF c Reg.ZRB_RGN_CFG 31 8 z.r
     let h : ZHdr := ⟨0, 0, 16, tokensOf tb ((a - z.start) / 512), (crc32c data).toNat⟩
     let busy := s.rdB c Reg.ZRB_RGN_STAT 1 z.r
     let t := if busy then s.wr c Reg.ZRB_RGN_STAT 1 z.r else s
     let u := (((t.putSectors a data).setZHdr z a h).bump c Reg.ZRB_BUSY_RAW_CNT).bump c Reg.ZRB_RAW_CNT
     exec (.wrWaitExpiry c a data) s = .next (if busy then u.evt (zrbPage c) 1 else u)) ∧
  -- WR_WAIT_EXPIRY
  (∀ (s t : State) (c a : Nat) (data : List Byte) (z : ZRegion) (l : List ZNote), s.zrbRegion a = some z → z.c = c →
     0 < data.length → data.length < 512 → a % 512 + data.length ≤ 512 → s.zCheck z a = (t, l) →
     (∀ e, t.zRead z a = .error e → exec (.wrWaitExpiry c a data) s = .next ((t.bump c Reg.ZRB_DROP_WR_CNT).zPost noJob l)) ∧
     (∀ raw, t.zRead z a = .ok raw →
       let m := raw.take (a % 512) ++ data ++ raw.drop (a % 512 + data.length)
       let h : ZHdr := ⟨0, 0, 16, tokensOf (t.rdF c Reg.ZRB_RGN_CFG 31 8 z.r) ((blockBase a - z.start) / 512), (crc32c m).toNat⟩
       let u := (((t.putSectors (blockBase a) m).setZHdr z (blockBase a) h).bump c Reg.ZRB_BUSY_RAW_CNT).bump c Reg.ZRB_RAW_CNT
       exec (.wrWaitExpiry c a data) s = .next ((u.bump c Reg.ZRB_RMW_CNT).zPost noJob l))) ∧
  -- WR_WAIT_EXPIRY
  (∀ (s : State) (c a : Nat) (data : List Byte),
     (s.zrbRegion a = none ∨ (∃ z, s.zrbRegion a = some z ∧ z.c ≠ c) ∨ data.length = 0 ∨ 512 < a % 512 + data.length) →
     exec (.wrWaitExpiry c a data) s = .next s) ∧
  -- WR_WAIT_EXPIRY
  (∀ (s t : State) (c a : Nat) (data : List Byte) (z : ZRegion), s.zrbRegion a = some z → s.rdB c Reg.ZRB_RGN_STAT 1 z.r = false →
     data.length = 512 → exec (.wrWaitExpiry c a data) s = .next t →
     let w := if s.mem.poisoned (s.zSide z a) 8 then (s.zSide z a / 64 * 64, 64) else (s.zSide z a, 8)
     ∀ x, (x < blockBase a ∨ blockBase a + 512 ≤ x) → (x < w.1 ∨ w.1 + w.2 ≤ x) → t.mem.byte x = s.mem.byte x)

/-- A doorbell moves its ring pointer, and a doorbell that is ignored by rule is recorded. For a doorbell that the LD may write
and whose object is the job's, each of the ten doorbells answers the next state with the pointer of its value; one of another
size is ignored and recorded. The model's own readings of log entries 34, 7 enter here. (spec/19_register_index.md,
spec/09_jobs_and_sharing.md, spec/08_sampling.md.) -/
def Obligations.DoorbellsMoveTheRingPointers : Prop :=
  -- DB_CQ_TAIL
  (∀ (s : State) (rq : Requester) (c j q : Nat) (v : DWord), dbObj v = q → s.seesDoorbell rq c (some j) = true →
     q < 1024 → s.rdB c Reg.JSC_Q_CFG 0 q = true → s.qJob c q = j →
     exec (.dbCqTail rq c j 8 v) s = .next (s.setQTail c q (dbPtr v))) ∧
  -- DB_CPL_HEAD
  (∀ (s : State) (rq : Requester) (c j q : Nat) (v : DWord), dbObj v = q → s.seesDoorbell rq c (some j) = true →
     q < 1024 → s.rdB c Reg.JSC_CQ_CFG 0 q = true → s.rdF c Reg.JSC_CQ_CFG 25 16 q = j →
     exec (.dbCplHead rq c j 8 v) s = .next (let t := (s.accrue c).wr c Reg.JSC_CQ_HEAD (lo32 (dbPtr v % s.cqSize c q)) q
       (t.flushCpl c q ((t.jsc c).waitCpl.length + 1)).settle c)) ∧
  -- DB_XR_PTR
  (∀ (s : State) (rq : Requester) (c j q : Nat) (v : DWord), dbObj v = q → s.seesDoorbell rq c (some j) = true →
     q < 256 → s.xrIs c q 0 = true → s.xrJob c q = j →
     exec (.dbXrPtr rq c j 8 v) s = .next (s.wr c Reg.ATN_XR_TAIL (lo32 (dbPtr v / 64 * 64 % s.xrSize c q)) q)) ∧
  -- DB_XR_PTR
  (∀ (s : State) (rq : Requester) (c j q : Nat) (v : DWord), dbObj v = q → s.seesDoorbell rq c (some j) = true →
     q < 256 → s.xrIs c q 0 = false → s.xrIs c q 1 = true → s.xrJob c q = j →
     exec (.dbXrPtr rq c j 8 v) s = .next (((((s.accrue c).updAtn c fun x =>
       { x with xrC := x.xrC.set q (dbPtr v / 64 * 64 % s.xrSize c q) }).ringRoom c j q).settle c))) ∧
  -- DB_CR_HEAD
  (∀ (s : State) (rq : Requester) (c j q : Nat) (v : DWord), dbObj v = q → s.seesDoorbell rq c (some j) = true →
     q < 256 → s.rdB c Reg.SMP_CR_CFG 0 q = true → s.rdF c Reg.SMP_CR_CFG 25 16 q = j →
     exec (.dbCrHead rq c j 8 v) s = .next (let t := s.wr c Reg.SMP_CR_HEAD (lo32 (dbPtr v % s.crSize c q)) q
       let u := t.flushCr c q ((t.smp c).waitCr.length + 1)
       u.each ((u.smp c).stalled.filter fun i => (u.req c i).cring == q) fun s i => s.stepCommit c i)) ∧
  -- DB_EVQ_HEAD
  (∀ (s : State) (rq : Requester) (c j : Nat) (v : DWord), s.seesDoorbell rq c (some j) = true →
     6 ≤ s.evqLog2 c j → s.evqLog2 c j ≤ 16 →
     exec (.dbEvqHead rq c j 8 v) s = .next (s.wr c Reg.JSC_EVQ_HEAD (lo32 (dbPtr v % 2 ^ s.evqLog2 c j)) j)) ∧
  -- DB_SQ_TAIL
  (∀ (s : State) (rq : Requester) (c j q : Nat) (v : DWord), dbObj v = q → s.seesDoorbell rq c (some j) = true →
     (s.conn c q).cstate ≠ 0 → (s.conn c q).job = j →
     exec (.dbSqTail rq c j 8 v) s = .next (s.updConn c q fun x => { x with sqTail := dbPtr v % 2 ^ x.sqLog2 })) ∧
  -- DB_RXQ_HEAD
  (∀ (s : State) (rq : Requester) (c j q : Nat) (v : DWord), dbObj v = q → s.seesDoorbell rq c (some j) = true →
     q < 256 → s.rdB c Reg.SLP_RXQ_CFG 0 q = true → s.rdF c Reg.SLP_RXQ_CFG 25 16 q = j →
     exec (.dbRxqHead rq c j 8 v) s = .next (s.wr c Reg.SLP_RXQ_HEAD (lo32 (dbPtr v % 2 ^ s.rdF c Reg.SLP_RXQ_CFG 5 1 q)) q)) ∧
  -- DB_PEVQ_HEAD
  (∀ (s : State) (rq : Requester) (c : Nat) (v : DWord), s.seesDoorbell rq c none = true → s.rdB c Reg.JSC_PEVQ_CFG 0 = true → dbObj v = 0 →
     exec (.dbPevqHead rq c 8 v) s = .next (s.wr c Reg.JSC_PEVQ_HEAD (lo32 (dbPtr v % 2 ^ s.rdF c Reg.JSC_PEVQ_CFG 5 1)))) ∧
  -- DB_FQ_HEAD
  (∀ (s : State) (rq : Requester) (c : Nat) (v : DWord), s.seesDoorbell rq c none = true → s.rdB c Reg.ATU_FQ_CFG 0 = true → dbObj v = 0 →
     exec (.dbFqHead rq c 8 v) s = .next ((s.wr c Reg.ATU_FQ_HEAD (lo32 (dbPtr v % 2 ^ s.rdF c Reg.ATU_FQ_CFG 5 1))).flushFaults c)) ∧
  -- DB_SMP_HEAD
  (∀ (s : State) (rq : Requester) (c : Nat) (v : DWord), s.seesDoorbell rq c none = true → s.rdB c Reg.TRC_SMP_CFG 0 = true → dbObj v = 0 →
     exec (.dbSmpHead rq c 8 v) s = .next (s.wr c Reg.TRC_SMP_HEAD (lo32 (dbPtr v % 2 ^ s.rdF c Reg.TRC_SMP_CFG 5 1)))) ∧
  -- DB_CQ_TAIL, DB_CPL_HEAD, DB_XR_PTR, DB_CR_HEAD, DB_EVQ_HEAD, DB_SQ_TAIL, DB_RXQ_HEAD
  (∀ (s : State) (rq : Requester) (c j size : Nat) (v : DWord), s.seesDoorbell rq c (some j) = true → size ≠ 8 →
     exec (.dbCqTail rq c j size v) s = .next (s.logDoorbell ⟨.jsc, c⟩ ((c * 1024 + j) * 0x1000 + 0x0) (v.toNat % 2 ^ 32)) ∧
     exec (.dbCplHead rq c j size v) s = .next (s.logDoorbell ⟨.jsc, c⟩ ((c * 1024 + j) * 0x1000 + 0x8) (v.toNat % 2 ^ 32)) ∧
     exec (.dbXrPtr rq c j size v) s = .next (s.logDoorbell ⟨.atn, c⟩ ((c * 1024 + j) * 0x1000 + 0x10) (v.toNat % 2 ^ 32)) ∧
     exec (.dbCrHead rq c j size v) s = .next (s.logDoorbell ⟨.smp, c⟩ ((c * 1024 + j) * 0x1000 + 0x18) (v.toNat % 2 ^ 32)) ∧
     exec (.dbEvqHead rq c j size v) s = .next (s.logDoorbell ⟨.jsc, c⟩ ((c * 1024 + j) * 0x1000 + 0x20) (v.toNat % 2 ^ 32)) ∧
     exec (.dbSqTail rq c j size v) s = .next (s.logDoorbell ⟨.kwp, c⟩ ((c * 1024 + j) * 0x1000 + 0x28) (v.toNat % 2 ^ 32)) ∧
     exec (.dbRxqHead rq c j size v) s = .next (s.logDoorbell ⟨.slp, c⟩ ((c * 1024 + j) * 0x1000 + 0x30) (v.toNat % 2 ^ 32))) ∧
  -- DB_PEVQ_HEAD, DB_FQ_HEAD, DB_SMP_HEAD
  (∀ (s : State) (rq : Requester) (c size : Nat) (v : DWord), s.seesDoorbell rq c none = true → size ≠ 8 →
     exec (.dbPevqHead rq c size v) s = .next (s.logDoorbell ⟨.jsc, c⟩ (0x4000000 + c * 0x1000 + 0x0) (v.toNat % 2 ^ 32)) ∧
     exec (.dbFqHead rq c size v) s = .next (s.logDoorbell ⟨.atu, c⟩ (0x4000000 + c * 0x1000 + 0x8) (v.toNat % 2 ^ 32)) ∧
     exec (.dbSmpHead rq c size v) s = .next (s.logDoorbell ⟨.trc, c⟩ (0x4000000 + c * 0x1000 + 0x10) (v.toNat % 2 ^ 32)))

/-- Engines are given to jobs by their deficits, and CONTROL commands complete. JSC_DISPATCH, ENGINE_START, DEFICIT_UPDATE,
BARRIER, TOKEN_SET, COUNTER_READ and TOKEN_ASSIGN answer the next state written out, with the status of the check where one
fails; a command of the CONTROL engine that does not hold it waits. The model's own readings of log entries 11, 55 enter here.
(spec/09_jobs_and_sharing.md.) -/
def Obligations.EnginesAreGivenToJobsAndBarriersPass : Prop :=
  -- JSC_DISPATCH
  (∀ (s : State) (c n : Nat), s.enabledCh c = true → s.snoopClear (s.headUnits c) = true → (s.accrue c).dispPick c = some n → n < 1024 →
     exec (.jscDispatch c) s = .next ((((s.accrue c).updJsc c fun x => { x with ptr := x.ptr.set 8 ((n + 1) % 2048) }).takeHead c n).settle c)) ∧
  -- JSC_DISPATCH
  (∀ (s : State) (c n : Nat), s.enabledCh c = true → s.snoopClear (s.headUnits c) = true → (s.accrue c).dispPick c = some n → 1024 ≤ n →
     exec (.jscDispatch c) s =
       .next ((((s.accrue c).updJsc c fun x => { x with ptr := x.ptr.set 8 ((n + 1) % 2048) }).takePlan c (n - 1024)).settle c)) ∧
  -- BARRIER
  (∀ (s : State) (c q : Nat), s.enabledCh c = true → (s.qHeadCmd c q).op = 0x0F0 → (s.accrue c).dispPick c = some q →
     exec (.barrier c q) s = .next (s.dispatch c)) ∧
  -- BARRIER
  (∀ (s : State) (c q : Nat), s.enabledCh c = true → (s.qHeadCmd c q).op = 0x0F0 → (s.accrue c).dispPick c = some q → q < 1024 →
     let t := (s.accrue c).updJsc c fun x => { x with ptr := x.ptr.set 8 ((q + 1) % 2048) }
     let cmd := t.qHeadCmd c q
     cmd.op = 0x0F0 → t.mem.poisoned (t.qHeadAddr c q) (64 * (cmd.sizeM1 + 1)) = false → t.refusal c q cmd = none →
     exec (.barrier c q) s =
       .next (((((t.popQueue c q cmd).bump c Reg.JSC_DISPATCH_CNT).countOut c cmd).complete c cmd 0).settle c)) ∧
  -- BARRIER
  (∀ (s : State) (c q : Nat), (s.accrue c).dispPick c ≠ some q → exec (.barrier c q) s = .next s) ∧
  -- ENGINE_START
  (∀ (s : State) (c e j : Nat), s.enabledCh c = true → (e = 0 ∨ e = 4) → ((s.accrue c).engine c e).holder = none →
     (s.accrue c).bestTaker c e = some j → exec (.engineStart c e) s = .next (((s.accrue c).takeEngine c e j).settle c)) ∧
  -- ENGINE_START
  (∀ (s : State) (c j : Nat), s.enabledCh c = true → (s.engine c 1).holder = none → ((s.accrue c).engine c 1).holder = none →
     (s.accrue c).bestTaker c 1 = some j → (s.accrue c).domSt c = .on →
     exec (.engineStart c 1) s = .next (((((s.accrue c).takeEngine c 1 j).settle c).sweepTaken c).vseTaken c 1)) ∧
  -- ENGINE_START
  (∀ (s : State) (c j : Nat), s.enabledCh c = true → (s.engine c 2).holder = none → ((s.accrue c).engine c 2).holder = none →
     (s.accrue c).bestTaker c 2 = some j → exec (.engineStart c 2) s = .next ((((s.accrue c).takeEngine c 2 j).settle c).dmvArm c)) ∧
  -- ENGINE_START
  (∀ (s : State) (c j : Nat), s.enabledCh c = true → (s.engine c 3).holder = none → ((s.accrue c).engine c 3).holder = none →
     (s.accrue c).bestTaker c 3 = some j → exec (.engineStart c 3) s = .next ((((s.accrue c).takeEngine c 3 j).settle c).vseTaken c 3)) ∧
  -- DEFICIT_UPDATE
  (∀ (s : State) (c : Nat), s.enabledCh c = true →
     exec (.deficitUpdate c) s = .next (((((s.passToNow (s.nextTick c)).accrue c).roundD c).updJsc c fun x =>
       { x with tick := s.nextTick c }).each [1, 2, 3] fun s e => s.askPreempt c e)) ∧
  -- TOKEN_SET
  (∀ (s0 s : State) (c : Nat) (cmd : Cmd), s0.occupy c 0 cmd = s → s.holdsCmd c 0 cmd = true → s.tokOk c (recNat cmd.payload 0 1) cmd.job = true →
     exec (.tokenSet c cmd) s0 = .next (((s.accrue c).wr c Reg.JSC_TOK_VALUE (lo32 (recNat cmd.payload 4 4)) (recNat cmd.payload 0 1)).complete c cmd 0)) ∧
  -- TOKEN_SET
  (∀ (s0 s : State) (c : Nat) (cmd : Cmd), s0.occupy c 0 cmd = s → s.holdsCmd c 0 cmd = true → s.tokOk c (recNat cmd.payload 0 1) cmd.job = false →
     exec (.tokenSet c cmd) s0 = .next (s.complete c cmd 0x72 (quiet := true))) ∧
  -- COUNTER_READ
  (∀ (s0 s : State) (c k : Nat) (cmd : Cmd), s0.occupy c 0 cmd = s → s.holdsCmd c 0 cmd = true → k = c * 64 + nfld (recNat cmd.payload 0 1) 5 0 →
     fld (s.rd 0 Reg.DBG_SET_MATCH k) 9 0 = cmd.job → wbit (s.rd 0 Reg.DBG_SET_MATCH k) 10 = false →
     exec (.counterRead c cmd) s0 = .next (s.complete c cmd 0 (leBytes 8 (s.dbg.sets.at k).cmds ++ leBytes 8 (s.dbg.sets.at k).engineNs ++
       leBytes 8 (s.dbg.sets.at k).dramRd ++ leBytes 8 (s.dbg.sets.at k).dramWr ++ leBytes 8 (s.dbg.sets.at k).stallNs ++
       leBytes 8 (s.dbg.sets.at k).waitNs))) ∧
  -- COUNTER_READ
  (∀ (s0 s : State) (c k : Nat) (cmd : Cmd), s0.occupy c 0 cmd = s → s.holdsCmd c 0 cmd = true → k = c * 64 + nfld (recNat cmd.payload 0 1) 5 0 →
     (fld (s.rd 0 Reg.DBG_SET_MATCH k) 9 0 ≠ cmd.job ∨ wbit (s.rd 0 Reg.DBG_SET_MATCH k) 10 = true) →
     exec (.counterRead c cmd) s0 = .next (s.complete c cmd 0x71 (quiet := true))) ∧
  -- ADMIT, ACCEPT, CANCEL, PARK, RESUME, MOVE_ABORT, QUERY, SMP_CFG_SET, SMP_CFG_RELEASE, BEAM_BIND, PREFIX_ALLOC, PREFIX_FREE,
  -- PREFIX_QUERY, TOKEN_SET, COUNTER_READ, SHARE_SET, SHARE_QUERY, PUBLISH
  (∀ (s : State) (c : Nat) (cmd : Cmd),
     (let k : Cmd := { cmd with op := 0x010 }
      (s.occupy c 0 k).holdsCmd c 0 k = false → exec (.admitReq c cmd) s = .next (s.occupy c 0 k)) ∧
     (let k : Cmd := { cmd with op := 0x012 }
      (s.occupy c 0 k).holdsCmd c 0 k = false → exec (.accept c cmd) s = .next (s.occupy c 0 k)) ∧
     ((s.occupy c 0 cmd).holdsCmd c 0 cmd = false →
      let e : Host.Outcome State Fault Refusal := .next (s.occupy c 0 cmd)
      exec (.cancel c cmd) s = e ∧ exec (.park c cmd) s = e ∧ exec (.resume c cmd) s = e ∧ exec (.moveAbort c cmd) s = e ∧
      exec (.query c cmd) s = e ∧ exec (.smpCfgSet c cmd) s = e ∧ exec (.smpCfgRelease c cmd) s = e ∧ exec (.beamBind c cmd) s = e ∧
      exec (.prefixAlloc c cmd) s = e ∧ exec (.prefixFree c cmd) s = e ∧ exec (.prefixQuery c cmd) s = e ∧
      exec (.tokenSet c cmd) s = e ∧ exec (.counterRead c cmd) s = e ∧ exec (.shareSet c cmd) s = e ∧
      exec (.shareQuery c cmd) s = e ∧ exec (.publish c cmd) s = e)) ∧
  -- a command at its engine
  (∀ (s : State) (c e : Nat) (cmd : Cmd),
     (s.enabledCh c = false ∨ (s.engine c e).holder = some cmd → s.occupy c e cmd = s) ∧
     (s.comesNext c e cmd = true → s.occupy c e cmd = s.taken c e cmd) ∧
     (∀ x, s.enabledCh c = true → (s.engine c e).holder = some x → x ≠ cmd →
       s.occupy c e cmd = ((s.accrue c).arrive c e cmd).settle c)) ∧
  -- TOKEN_ASSIGN
  (∀ (s : State) (rq : Requester) (c : Nat) (v : Word), s.reachesReg rq c Reg.JSC_TOK_CTRL = true →
     exec (.tokenAssign rq c v) s = .next ((((s.accrue c).store c Reg.JSC_TOK_CTRL v).wr c Reg.JSC_TOK_VALUE 0 (s.rdN c Reg.JSC_TOK_SEL)).settle c))

/-- Job contexts are written, and jobs are killed, cleared and torn down. JOB_CONTEXT_WRITE, KILL, CLEAR and JOB_TEARDOWN that
reach JSC answer the next state written out. The model's own readings of log entry 33 enter here.
(spec/09_jobs_and_sharing.md.) -/
def Obligations.JobsAreEnabledTornDownAndCleared : Prop :=
  -- JOB_CONTEXT_WRITE
  (∀ (s : State) (rq : Requester) (c off : Nat) (v : Word), s.reaches rq (jscPage c) (0x200 + off) = true → off < 0x40 → off % 4 = 0 →
     exec (.jobContextWrite rq c off v) s = .next (((s.accrue c).ctxWrite c (s.rdN c Reg.JSC_JOB_SEL) off v).settle c)) ∧
  -- JOB_CONTEXT_WRITE
  (∀ (s : State) (c j : Nat) (v : Word), wbit v 0 = true → s.jobEnabled c j = false → s.jobFaulted c j = false → s.jobTearing c j = false →
     s.boundOn c j = true →
     s.ctxWrite c j 0 v = (s.ctxStore c j 0 v).wrAt (jscPage c) 0x200 (setBit ((s.ctxStore c j 0 v).jobWord c j 0) 0 true) j) ∧
  -- KILL
  (∀ (s : State) (rq : Requester) (c : Nat), s.reachesReg rq c Reg.JSC_JOB_CMD = true →
     exec (.kill rq c false) s = .next (s.tearDown (s.rdN c Reg.JSC_JOB_SEL) 3)) ∧
  -- KILL
  (∀ (s : State) (rq : Requester) (c j : Nat), s.reachesReg rq c Reg.JSC_JOB_CMD = true → s.rdN c Reg.JSC_JOB_SEL = j →
     s.jobFaulted c j = true → s.holdsAny c j = false → exec (.kill rq c true) s = .next (((s.clearJob c j).clearBox j).tearDown j 3)) ∧
  -- CLEAR
  (∀ (s : State) (rq : Requester) (c j : Nat), s.reachesReg rq c Reg.JSC_JOB_CMD = true → s.rdN c Reg.JSC_JOB_SEL = j →
     s.jobFaulted c j = true → s.holdsAny c j = false →
     exec (.clear rq c) s = .next (((s.wrAt (jscPage c) 0x200 (setBit (s.jobWord c j 0) 1 false) j).updJsc c fun x =>
       { x with deficits := [0, 1, 2, 3, 4].foldl (fun m e => m.set (laneKey j e) 0) x.deficits,
                shown := [0, 1, 2, 3, 4].foldl (fun m e => m.set (laneKey j e) 0) x.shown }).clearBox j)) ∧
  -- CLEAR
  (∀ (s : State) (rq : Requester) (c j : Nat), s.reachesReg rq c Reg.JSC_JOB_CMD = true → s.rdN c Reg.JSC_JOB_SEL = j →
     (s.jobFaulted c j = false ∨ s.holdsAny c j = true) → exec (.clear rq c) s = .next (s.logIgnored (jscPage c) 0x10C 2)) ∧
  -- JOB_TEARDOWN
  (∀ (s : State) (c j : Nat), s.enabledCh c = true → s.jobTearing c j = true →
     exec (.jobTeardown c j) s = .next ((((((s.discardCmds c j).stopQueues c j).stopRings c j).stopWindows c j).endJobState c j).tornDown c j
       (s.jobCmds c j + (s.jsc c).torn.at j)))

/-- Translation faults are retried, failed or time out, and invalidations run to their end. FAULT_RETRY, FAULT_FAIL,
FAULT_TIMEOUT, TLB_INVALIDATE and INVALIDATE_DONE answer the next state written out; a response for a fault that is not open
is ignored and recorded. The model's own readings of log entry 12 enter here. (spec/09_jobs_and_sharing.md.) -/
def Obligations.TranslationFaultsAndInvalidations : Prop :=
  -- FAULT_RETRY
  (∀ (s : State) (rq : Requester) (c id : Nat) (x : AtuFault), s.reachesReg rq c Reg.ATU_FAULT_RESP = true → id < 64 →
     s.servable c id = some x →
     let t := s.accrue c
     let u := ((t.setLane c x.job x.engine (laneRetry id (t.lane c x.job x.engine))).freeFault c id).settle c
     exec (.faultRetry rq c id) s = .next (if x.engine = 1 ∨ x.engine = 3 then u.vseTaken c x.engine else u)) ∧
  -- FAULT_FAIL
  (∀ (s : State) (rq : Requester) (c id : Nat) (x : AtuFault), s.reachesReg rq c Reg.ATU_FAULT_RESP = true → id < 64 →
     s.servable c id = some x → exec (.faultFail rq c id) s = .next (s.tearDown x.job 1)) ∧
  -- FAULT_RETRY, FAULT_FAIL
  (∀ (s : State) (rq : Requester) (c id : Nat), s.reachesReg rq c Reg.ATU_FAULT_RESP = true → id < 64 → s.servable c id = none →
     exec (.faultRetry rq c id) s = .next (s.respIgnored c) ∧ exec (.faultFail rq c id) s = .next (s.respIgnored c)) ∧
  -- FAULT_TIMEOUT
  (∀ (s : State) (c id : Nat) (x : AtuFault), s.servable c id = some x → s.enabledCh c = true → x.posted = true → s.faultTimeoutNs c ≠ 0 →
     exec (.faultTimeout c id) s = .next ((s.passToNow (x.postedAt + s.faultTimeoutNs c)).tearDown x.job 2)) ∧
  -- TLB_INVALIDATE
  (∀ (s : State) (rq : Requester) (c : Nat) (v : Word), s.reachesReg rq c Reg.ATU_INV_CTRL = true → wbit v 31 = true →
     exec (.tlbInvalidate rq c v) s = .next (s.updAtu c fun a =>
       { a with
         inv := some (fld (s.rd c Reg.ATU_INV_JOB) 9 0, wbit (s.rd c Reg.ATU_INV_JOB) 31, s.rd64 c Reg.ATU_INV_VA_LO, fld v 19 0)
         tlb := match a.inv with
           | some i => a.tlb.filter fun x => !invCovers i x
           | none => a.tlb })) ∧
  -- TLB_INVALIDATE
  (∀ (s : State) (rq : Requester) (c : Nat) (v : Word), s.reachesReg rq c Reg.ATU_INV_CTRL = true → wbit v 31 = false →
     exec (.tlbInvalidate rq c v) s = .next s) ∧
  -- INVALIDATE_DONE
  (∀ (s : State) (c : Nat) (i : Nat × Bool × Nat × Nat), (s.atu c).inv = some i →
     exec (.invalidateDone c) s = .next (s.updAtu c fun a => { a with inv := none, tlb := a.tlb.filter fun x => !invCovers i x }))

/-- A Kweuz packet is checked and processed by its kind. Each of the ten Kweuz packets that passes the checks of its frame meets
the context of its connection: one whose seal opens is processed in order of its PSN, answered as a duplicate or counted outside
the window, by its kind, and one whose seal does not open is counted alone; BUSY carries no payload of its connection's and is
taken without it. The model's own readings of log entry 24 enter here. (spec/10_kweuz_transport.md.) -/
def Obligations.KweuzPacketsAreCheckedAndProcessed : Prop :=
  -- WRITE, READ_REQ, READ_RESP, FLUSH, FLUSH_RESP, ATOMIC, ATOMIC_RESP, STATUS, ACK, BUSY
  (∀ (s : State) (c i : Nat) (p : KPkt), s.ethMode c = true → s.serves c = true → s.kwEn c = true →
     p.len ≤ s.rdF c Reg.KWP_MTU 13 0 → p.dstUdp = s.rdF c Reg.KWP_UDP_PORT 15 0 → s.localEntry c p.peer.v6 p.dstIp = some (i, c) →
     s.classify c i p = (s, true) →
     let go : Nat → Host.Outcome State Fault Refusal := fun op =>
       .next ((s.rxContext c op c { p with peer := { p.peer with port := c }, dstConn := p.dstConn % 2 ^ 18 }).tagsBack c)
     exec (.write c p) s = go 1 ∧
     exec (.readReq c p) s = go 2 ∧
     exec (.readResp c p) s = go 3 ∧
     exec (.flush c p) s = go 4 ∧
     exec (.flushResp c p) s = go 5 ∧
     exec (.atomic c p) s = go 6 ∧
     exec (.atomicResp c p) s = go 7 ∧
     exec (.status c p) s = go 8 ∧
     exec (.ack c p) s = go 9 ∧
     exec (.busy c p) s = go 10) ∧
  -- WRITE, READ_REQ, READ_RESP, FLUSH, FLUSH_RESP, ATOMIC, ATOMIC_RESP, STATUS, ACK, BUSY
  (∀ (s : State) (c op f : Nat) (p : KPkt), (s.kwp c).bad.contains p.dstConn = false → s.cachedConn c p.dstConn = true →
     s.rxContext c op f p = s.rxPacket c op f p) ∧
  -- WRITE, READ_REQ, READ_RESP, FLUSH, FLUSH_RESP, ATOMIC, ATOMIC_RESP, STATUS, ACK
  (∀ (s : State) (c op f : Nat) (p : KPkt) (pay : List Byte), let v := s.conn c p.dstConn
     op ≠ 10 → v.cstate = 1 → kweuzOpen v.rxKey v.rxSalt p.iv (pktHeaders op p) p.pay p.tag = some pay →
     s.rxPacket c op f p = (s.countRx c f).rxTrue c op { p with pay := pay }) ∧
  -- WRITE, READ_REQ, READ_RESP, FLUSH, FLUSH_RESP, ATOMIC, ATOMIC_RESP, STATUS, ACK
  (∀ (s : State) (c op f : Nat) (p : KPkt), let v := s.conn c p.dstConn
     op ≠ 10 → v.cstate = 1 → kweuzOpen v.rxKey v.rxSalt p.iv (pktHeaders op p) p.pay p.tag = none →
     s.rxPacket c op f p = s.bump c Reg.KWP_AUTH_FAIL_CNT) ∧
  -- BUSY
  (∀ (s : State) (c f : Nat) (p : KPkt), s.rxPacket c 10 f p = (s.countRx c f).rxBusy c p.dstConn p) ∧
  -- WRITE, READ_REQ, READ_RESP, FLUSH, FLUSH_RESP, ATOMIC, ATOMIC_RESP, STATUS, ACK
  (∀ (s : State) (c op : Nat) (p : KPkt), p.gen = (s.conn c p.dstConn).gen → s.tooOld c p = false →
     (op < 9 → s.rxTrue c op p = s.acceptReliable c p.dstConn op p) ∧ s.rxTrue c 9 p = s.rxAck c p.dstConn p) ∧
  -- WRITE, READ_REQ, READ_RESP, FLUSH, FLUSH_RESP, ATOMIC, ATOMIC_RESP, STATUS
  (∀ (s : State) (c k op : Nat) (p : KPkt), let d := (p.psn + 2 ^ 32 - (s.conn c k).rxEpsn % 2 ^ 32) % 2 ^ 32
     (d < 256 → (s.conn c k).bitmap.testBit d = false →
       s.acceptReliable c k op p = (((s.acceptPsn c k p).process c k op p).answerFlushes c k).ackIfDue c k p.ackReq p.peer) ∧
     ((2 ^ 31 ≤ d ∨ d < 256 ∧ (s.conn c k).bitmap.testBit d = true) →
       s.acceptReliable c k op p = (s.bump c Reg.KWP_DUP_CNT).sendAck c k p.peer) ∧
     (256 ≤ d → d < 2 ^ 31 → s.acceptReliable c k op p = s.bump c Reg.KWP_SEQ_DROP_CNT))

/-- Work requests are posted, and windows are opened and revoked. WR_WRITE, WR_READ, WR_FLUSH and WR_ATOMIC are taken where no
check refuses them, complete with the status of the first check that does, and with 0x97 where no route leads to the node;
WIN_OPEN, WIN_OPEN_GAP_END and WIN_REVOKE answer the next state written out. The model's own readings of log entry 24 enter
here. (spec/10_kweuz_transport.md.) -/
def Obligations.WorkRequestsAndWindowsAreTaken : Prop :=
  -- WR_WRITE
  (∀ (s : State) (c k : Nat), s.sqReady c k = true → s.cachedConn c k = true → recNat (s.sqHeadWr c k) 0 1 = 1 →
     s.wrRefusal c k (reqOf (s.sqHeadWr c k)) = none →
     exec (.wrWrite c k) s = .next (((s.sqPop c k).addReq c k (reqOf (s.sqHeadWr c k))).tagsBack c)) ∧
  -- WR_READ
  (∀ (s : State) (c k : Nat), s.sqReady c k = true → s.cachedConn c k = true → recNat (s.sqHeadWr c k) 0 1 = 2 →
     s.wrRefusal c k (reqOf (s.sqHeadWr c k)) = none →
     exec (.wrRead c k) s = .next (((s.sqPop c k).addReq c k (reqOf (s.sqHeadWr c k))).tagsBack c)) ∧
  -- WR_FLUSH
  (∀ (s : State) (c k : Nat), s.sqReady c k = true → s.cachedConn c k = true → recNat (s.sqHeadWr c k) 0 1 = 3 →
     s.wrRefusal c k (reqOf (s.sqHeadWr c k)) = none →
     exec (.wrFlush c k) s = .next (((s.sqPop c k).addReq c k (reqOf (s.sqHeadWr c k))).tagsBack c)) ∧
  -- WR_ATOMIC
  (∀ (s : State) (c k : Nat), s.sqReady c k = true → s.cachedConn c k = true → recNat (s.sqHeadWr c k) 0 1 = 4 →
     s.wrRefusal c k (reqOf (s.sqHeadWr c k)) = none →
     exec (.wrAtomic c k) s = .next (((s.sqPop c k).addReq c k (reqOf (s.sqHeadWr c k))).tagsBack c)) ∧
  -- WR_WRITE, WR_READ, WR_FLUSH, WR_ATOMIC
  (∀ (s : State) (c k st : Nat) (r : KReq), s.wrRefusal c k r = some st → (r.noCpl = false ∨ st ≠ 0) →
     s.takeTransfer c k r = (s.sqPop c k).kwpCpl c k r.op r.tag st 0 0) ∧
  -- WR_WRITE, WR_READ, WR_FLUSH, WR_ATOMIC
  (∀ (s : State) (c k n : Nat) (r : KReq), s.maySend c k = true → (s.conn c k).outq = [] → (s.conn c k).reads = [] →
     ((s.conn c k).reqs.find? fun x => !x.formedAll) = some r → r.dev = 0 → r.formed = 0 →
     s.route c (s.epochFor r) (s.conn c k).peerNode = none →
     s.pump c k (n + 1) = ((s.updConn c k fun v => { v with reqs := v.reqs.filter fun x => x.id != r.id }).kwpCpl c k r.op r.tag
       0x97 0 0).pump c k n) ∧
  -- WIN_OPEN
  (∀ (s : State) (c k : Nat), s.sqReady c k = true → s.cachedConn c k = true → recNat (s.sqHeadWr c k) 0 1 = 0x10 →
     s.winRefusal c k (s.sqHeadWr c k) = none → (s.win c (nfld (recNat (s.sqHeadWr c k) 0x10 8) 23 0)).closed = 0 →
     exec (.winOpen c k) s = .next (((s.sqPop c k).winOpen c k (s.sqHeadWr c k)).tagsBack c)) ∧
  -- WIN_OPEN_GAP_END
  (∀ (s : State) (c k : Nat), s.sqReady c k = true → s.cachedConn c k = true → recNat (s.sqHeadWr c k) 0 1 = 0x10 →
     s.winRefusal c k (s.sqHeadWr c k) = none → (s.win c (nfld (recNat (s.sqHeadWr c k) 0x10 8) 23 0)).closed ≠ 0 →
     exec (.winOpenGapEnd c k) s = .next (((s.passToNow ((s.win c (nfld (recNat (s.sqHeadWr c k) 0x10 8) 23 0)).closed - 1 +
       1000)).takeOpen c k (s.sqHeadWr c k)).tagsBack c)) ∧
  -- WIN_REVOKE
  (∀ (s : State) (c k : Nat), let i := nfld (recNat (s.sqHeadWr c k) 0x10 8) 23 0
     s.sqReady c k = true → s.cachedConn c k = true → recNat (s.sqHeadWr c k) 0 1 = 0x11 → i < 65536 → (s.win c i).job = (s.conn c k).job →
     (s.win c i).isOpen = true → s.winInUse c i = 0 → (recNat (s.sqHeadWr c k) 0 4).testBit 9 = false →
     exec (.winRevoke c k) s =
       .next (((((s.sqPop c k).closeWin c i).cutReads c i).kwpCpl c k 0x11 (recNat (s.sqHeadWr c k) 0x20 8) 0 0 0).tagsBack c))

/-- Connections are set, reset, destroyed, read and timed. CONN_SET, CONN_RESET, CONN_DESTROY, CONN_SNAP, CTX_FETCH_DONE and
RATE_ADJUST, and RTO_EXPIRY, ACK_DELAY_EXPIRY and BUSY_BACKOFF_END where the send path is on, answer the next state written out.
The model's own readings of log entries 24, 1, 61 enter here. (spec/10_kweuz_transport.md.) -/
def Obligations.ConnectionsAreSetResetAndTimed : Prop :=
  -- CONN_SET
  (∀ (s : State) (rq : Requester) (c : Nat) (k : Bool), s.reachesReg rq c Reg.KWP_CONN_CMD = true →
     ((s.conn c (s.connSel c)).reqs.any fun r => !r.ended) = false →
     exec (.connSet rq c k) s = .next (((s.clearBad c (s.connSel c)).updConn c (s.connSel c) fun v =>
       if k then s.stageKeys c (s.stagedConn c v) else s.stagedConn c v).putRate c (s.connSel c))) ∧
  -- CONN_RESET
  (∀ (s : State) (rq : Requester) (c : Nat), s.reachesReg rq c Reg.KWP_CONN_CMD = true →
     exec (.connReset rq c false) s = .next (((s.endAll c (s.connSel c) 0x94 0x94).tagsBack c).updConn c (s.connSel c) fun v => { v with
       cstate := 1, gen := (v.gen + 1) % 2 ^ 16, txPsn := s.stageNat c 0x20 4, unaPsn := s.stageNat c 0x20 4,
       rxEpsn := s.stageNat c 0x28 4, bitmap := 0, retries := 0, flushErr := 0, busyRun := 0, accepted := 0, ce := false })) ∧
  -- CONN_RESET
  (∀ (s : State) (rq : Requester) (c : Nat), s.reachesReg rq c Reg.KWP_CONN_CMD = true →
     exec (.connReset rq c true) s = .next (s.connReset c (s.connSel c) true)) ∧
  -- CONN_DESTROY
  (∀ (s : State) (rq : Requester) (c : Nat), s.reachesReg rq c Reg.KWP_CONN_CMD = true →
     exec (.connDestroy rq c) s = .next ((((s.endAll c (s.connSel c) 0x94 0x94).tagsBack c).clearBad c (s.connSel c)).updConn c (s.connSel c) fun v =>
       { v with cstate := 0 })) ∧
  -- CONN_SNAP
  (∀ (s : State) (rq : Requester) (c : Nat), s.reachesReg rq c Reg.KWP_CONN_CMD = true →
     exec (.connSnap rq c) s = .next (s.each ((wordsOf (padTo 256 (connBytes (s.conn c (s.connSel c))))).zipIdx) fun s w =>
       s.wrAt (kwpPage c) (0x200 + 4 * w.2) w.1)) ∧
  -- CTX_FETCH_DONE
  (∀ (s : State) (c k i : Nat), (s.kwp c).fetching.contains k = true → s.cachePlace c = some i →
     exec (.ctxFetchDone c k false) s = .next ((((s.updKwp c fun x =>
       { x with fetching := x.fetching.erase k, miss := x.miss.filter fun m => m.2.2.dstConn != k }).updKwp c fun x =>
       { x with cache := x.cache.set i (k + 1), cachePtr := (i + 1) % 8192 }).each
         ((s.kwp c).miss.filter fun m => m.2.2.dstConn == k) fun s m => s.rxPacket c m.1 m.2.1 m.2.2).tagsBack c)) ∧
  -- CTX_FETCH_DONE
  (∀ (s : State) (c k : Nat), (s.kwp c).fetching.contains k = true →
     exec (.ctxFetchDone c k true) s = .next (((((s.updKwp c fun x =>
       { x with fetching := x.fetching.erase k, miss := x.miss.filter fun m => m.2.2.dstConn != k }).updKwp c fun x =>
       { x with bad := x.bad ++ [k] }).loseConn c k).evtPriv (kwpPage c) 5 0x85 0 k).tagsBack c)) ∧
  -- RTO_EXPIRY
  (∀ (s : State) (c k : Nat), s.txOn c = true → (s.conn c k).cstate = 1 → (s.conn c k).sent.isEmpty = false → (s.conn c k).pause = none →
     (s.conn c k).retries ≠ s.rdF c Reg.KWP_RETRY 3 0 → let t := s.passToNow ((s.conn c k).timerAt + s.rto c k)
     exec (.rtoExpiry c k) s = .next ((t.updConn c k fun v =>
       { v with retries := v.retries + 1, timerAt := t.tim.now }).resendFrom c k (s.conn c k).unaPsn)) ∧
  -- RTO_EXPIRY
  (∀ (s : State) (c k : Nat), s.txOn c = true → (s.conn c k).cstate = 1 → (s.conn c k).sent.isEmpty = false → (s.conn c k).pause = none →
     (s.conn c k).retries = s.rdF c Reg.KWP_RETRY 3 0 →
     exec (.rtoExpiry c k) s = .next ((((s.passToNow ((s.conn c k).timerAt + s.rto c k)).connError c k).cutMoves c fun _ e =>
       !e.moveNode.testBit 31 && e.moveNode == (s.conn c k).peerNode && e.job == (s.conn c k).job && (s.conn c k).dflt).tagsBack c)) ∧
  -- ACK_DELAY_EXPIRY
  (∀ (s : State) (c k : Nat), s.txOn c = true → (s.conn c k).cstate = 1 → (s.conn c k).accepted ≠ 0 →
     exec (.ackDelayExpiry c k) s = .next ((s.passToNow ((s.conn c k).oldest + s.rdF c Reg.KWP_RETRY 31 16)).sendAck c k
       ((s.conn c k).echoTo.getD default))) ∧
  -- BUSY_BACKOFF_END
  (∀ (s : State) (c k t psn : Nat), s.txOn c = true → (s.conn c k).pause = some (t, psn) →
     exec (.busyBackoffEnd c k) s = .next ((((s.passToNow t).updConn c k fun v => { v with pause := none }).resendFrom c k psn).pumpAll c k)) ∧
  -- RATE_ADJUST
  (∀ (s : State) (c k : Nat), (s.conn c k).cstate = 1 → (s.conn c k).srtt ≠ 0 →
     let t := s.passToNow ((s.conn c k).adjustAt + (s.conn c k).srtt)
     exec (.rateAdjust c k) s = .next ((t.updConn c k fun v =>
       { v with rate := t.nextRate c v, congested := false, adjustAt := t.tim.now }).putRate c k))

/-- Ethernet ports receive, stamp, count and transmit, and follow their link. ETHERNET_FRAME, PTP_MESSAGE, LINK_CHANGE,
FEC_INTERVAL and EGRESS_TRANSMIT answer the next state written out; with KW_EN 0 PTP messages alone leave. The model's own
readings of log entries 25, 54 enter here. (spec/11_traffic_control.md, spec/01_cadence.md.) -/
def Obligations.EthernetPortsCountStampAndTransmit : Prop :=
  -- ETHERNET_FRAME
  (∀ (s : State) (c : Nat) (why : FrameFault), s.ethMode c = true → exec (.ethernetFrame c why) s = .next (s.bump c (frameCnt why))) ∧
  -- PTP_MESSAGE
  (∀ (s : State) (c : Nat) (d : List Byte), s.ptpOn c = true →
     exec (.ptpMessage c false d) s = .next (s.emit (.msg "PTP_TIMESTAMP" [c, 0, s.tim.tod] (s.oneStep false d))) ∧
     exec (.ptpMessage c true d) s = .next (s.sendControl (ptpPkt c d))) ∧
  -- PTP_MESSAGE
  (∀ (s : State) (d : List Byte), 44 ≤ d.length → recNat d 0 1 % 16 = 0 → s.rdB 0 Reg.PTP_CFG 11 = true →
     s.oneStep true d = d.take 34 ++ (leBytes 6 (s.tim.tod / 1000000000)).reverse ++ (leBytes 4 (s.tim.tod % 1000000000)).reverse ++
       d.drop 44) ∧
  -- PTP_MESSAGE
  (∀ (s : State) (e : Bool) (d : List Byte), e = false ∨ s.rdB 0 Reg.PTP_CFG 11 = false → s.oneStep e d = d) ∧
  -- PTP_MESSAGE
  (∀ (s : State) (c : Nat) (d : List Byte), s.ptpOn c = false → s.ethMode c = true →
     exec (.ptpMessage c false d) s = .next (s.bump c Reg.KWP_OTHER_CNT)) ∧
  -- LINK_CHANGE
  (∀ (s : State) (c sub cause : Nat), s.ethMode c = true →
     exec (.linkChange c sub cause) s = .next ((s.updKwp c fun x =>
       { x with up := if cause = 1 then insNat sub x.up else x.up.filter fun i => i != sub }).evtPriv (kwpPage c) 0 0x80 cause (c + 16 * sub))) ∧
  -- FEC_INTERVAL
  (∀ (s : State) (c sub corr : Nat), s.ethMode c = true → s.rdN c Reg.KWP_FEC_THRESH < corr →
     exec (.fecInterval c sub corr) s = .next (((s.bump c Reg.KWP_FEC_CORR_CNT corr).updKwp c fun x =>
       { x with fecBad := insNat sub x.fecBad }).evtPriv (kwpPage c) 1 0x81 0 (c + 16 * sub + fieldAt 32 32 corr))) ∧
  -- FEC_INTERVAL
  (∀ (s : State) (c sub corr : Nat), s.ethMode c = true → corr ≤ s.rdN c Reg.KWP_FEC_THRESH →
     exec (.fecInterval c sub corr) s = .next ((s.bump c Reg.KWP_FEC_CORR_CNT corr).updKwp c fun x =>
       { x with fecBad := x.fecBad.filter fun i => i != sub })) ∧
  -- EGRESS_TRANSMIT
  (∀ (s t : State) (c sub : Nat) (p : EPkt), s.ethMode c = true →
     (if s.kwEn c then s.takeFrame c sub else s.takePtp c sub) = (t, some p) →
     (p.ptp = false → exec (.egressTransmit c sub) s = .next (((t.bump c Reg.KWP_TX_PKT_CNT).emitFrame c sub p).writeLeft c p)) ∧
     (p.ptp = true → (t.kwp c).up.contains sub = true → exec (.egressTransmit c sub) s =
       .next (t.emit (.msg "PTP_TIMESTAMP" [c, 1, t.tim.tod] (t.oneStep true p.bytes)))) ∧
     (p.ptp = true → (t.kwp c).up.contains sub = false → exec (.egressTransmit c sub) s = .next t)) ∧
  -- EGRESS_TRANSMIT
  (∀ (s t : State) (c sub : Nat), s.ethMode c = true →
     (if s.kwEn c then s.takeFrame c sub else s.takePtp c sub) = (t, none) → exec (.egressTransmit c sub) s = .next t)

/-- Shapers and policers are configured and released, and traffic is sampled. SHAPER_RATE_WRITE, SHAPER_CONFIG_WRITE and
POLICER_CONFIG_WRITE that reach TRC, and SAMPLE_INSTANT, WHEEL_SLOT_DUE and COARSE_SLOT_DUE, answer the next state written
out. The model's own readings of log entries 25, 1 enter here. (spec/11_traffic_control.md.) -/
def Obligations.ShapersPolicersAndSamplesOfTheTrafficBlock : Prop :=
  -- SHAPER_RATE_WRITE
  (∀ (s : State) (rq : Requester) (c k : Nat) (v : Word), s.reachesReg rq c Reg.TRC_SHP_RATE = true → s.rdN c Reg.TRC_SHP_SEL = k →
     exec (.shaperRateWrite rq c v) s = .next (((s.shpFill c k).store c Reg.TRC_SHP_RATE v).evalShp c k)) ∧
  -- SHAPER_CONFIG_WRITE
  (∀ (s : State) (rq : Requester) (c k : Nat) (b : Bool) (v : Word),
     s.reachesReg rq c (if b then Reg.TRC_SHP_BURST else Reg.TRC_SHP_QUEUE) = true → s.rdN c Reg.TRC_SHP_SEL = k →
     exec (.shaperConfigWrite rq c b v) s =
       .next (((s.shpFill c k).store c (if b then Reg.TRC_SHP_BURST else Reg.TRC_SHP_QUEUE) v).evalShp c k)) ∧
  -- POLICER_CONFIG_WRITE
  (∀ (s : State) (rq : Requester) (c off n : Nat) (v : Word) (r : RegId), polReg off = some r → s.reachesReg rq c r = true →
     s.rdN c Reg.TRC_POL_SEL = n →
     exec (.policerConfigWrite rq c off v) s = .next ((s.store c r v).updTrc c fun t => { t with policers := t.policers.set n { s.polFill c n with
       tc := min ((s.store c r v).rdN c Reg.TRC_POL_CBS n * 65536) (s.polFill c n).tc
       te := min ((s.store c r v).rdN c Reg.TRC_POL_EXC n * 65536) (s.polFill c n).te } })) ∧
  -- SAMPLE_INSTANT
  (∀ (s : State) (c : Nat), s.ethMode c = true → s.rdB c Reg.TRC_SMP_CFG 0 = true → 0 < s.sampleNs c →
     let t := if s.tim.tod % s.sampleNs c = 0 ∧ (s.trc c).smpLast ≠ s.tim.tod + 1 then s.tim.tod
       else (s.tim.tod / s.sampleNs c + 1) * s.sampleNs c
     exec (.sampleInstant c) s = .next ((s.passToTod t).sampleNow c)) ∧
  -- WHEEL_SLOT_DUE
  (∀ (s : State) (c t : Nat), s.nextFine c = some t →
     exec (.wheelSlotDue c) s = .next ((s.passToNow t).each (((s.passToNow t).trc c).shapers.keysWhere fun _ x => x.wait == .fine t)
       fun s k => s.evalShp c k)) ∧
  -- COARSE_SLOT_DUE
  (∀ (s : State) (c t : Nat), s.nextCoarse c = some t →
     exec (.coarseSlotDue c) s = .next ((s.passToNow t).each (((s.passToNow t).trc c).shapers.keysWhere fun _ x => match x.wait with
       | .coarse u _ => u == t
       | _ => false) fun s k => s.toFine c k))

/-- Solrov mode is entered, and flits are checked, acknowledged and replayed. SOLROV_MODE_ENTER, FLIT, REPLAY_REQ and
SOLROV_LINK answer the next state written out: a flit that fails its check, one in sequence and one out of it, an idle one, the
replay, and the link state. The model's own readings of log entry 26 enter here. (spec/12_solrov_fabric.md.) -/
def Obligations.FlitsAreCheckedAndReplayed : Prop :=
  -- SOLROV_MODE_ENTER
  (∀ (s : State) (rq : Requester) (c : Nat) (v : Word), s.reachesReg rq c Reg.SLP_CFG = true →
     let t := s.store c Reg.SLP_CFG v
     t.rdB c Reg.SLP_CFG 0 = true → (t.ch c).slp.mode = false → t.rdB c Reg.KWP_CFG 0 = false → (t.blkSt ⟨.kwp, c⟩).quiesced = true →
     exec (.solrovModeEnter rq c v) s = .next (t.updCh c fun x => { x with slp := { x.slp with mode := true, link := freshLink } })) ∧
  -- SOLROV_MODE_ENTER
  (∀ (s : State) (rq : Requester) (c : Nat) (v : Word), s.reachesReg rq c Reg.SLP_CFG = true →
     let t := s.store c Reg.SLP_CFG v
     t.rdB c Reg.SLP_CFG 0 = false → (t.ch c).slp.mode = true →
     exec (.solrovModeEnter rq c v) s = .next (t.updCh c fun x => { x with slp := { x.slp with mode := false, link := default } })) ∧
  -- FLIT
  (∀ (s : State) (c : Nat) (data b : List Byte), s.solMode c = true → (s.link c).up = true → flitCheck data = some (b, 0) →
     (nfld (recNat b 0 8) 1 0 = 1 → nfld (recNat b 0 8) 11 2 = (s.link c).rxNext →
       exec (.flit c data) s = .next (s.dataFlit c (recNat b 0 8) b)) ∧
     (nfld (recNat b 0 8) 1 0 = 1 → nfld (recNat b 0 8) 11 2 ≠ (s.link c).rxNext → exec (.flit c data) s = .next s) ∧
     (nfld (recNat b 0 8) 1 0 = 0 → exec (.flit c data) s = .next ((s.updLink c fun l => l.took (recNat b 0 8)).pumpLink c))) ∧
  -- FLIT
  (∀ (s : State) (c : Nat) (data : List Byte), s.solMode c = true → (s.link c).up = true → flitCheck data = none →
     exec (.flit c data) s = .next (s.badFlit c) ∧ exec (.replayReq c data) s = .next (s.badFlit c)) ∧
  -- REPLAY_REQ
  (∀ (s : State) (c : Nat) (data b : List Byte), s.solMode c = true → (s.link c).up = true → flitCheck data = some (b, 0) →
     nfld (recNat b 0 8) 1 0 = 2 →
     exec (.replayReq c data) s = .next (((s.updLink c fun l => l.took (recNat b 0 8)).replayFlits c).pumpLink c)) ∧
  -- SOLROV_LINK
  (∀ (s : State) (c : Nat), s.solMode c = true →
     ((s.link c).up = false → exec (.solrovLink c true) s = .next ((((s.updLink c SlpLink.comeUp).evtPriv (slpPage c) 2 0xA2 1 c).replayFlits c).pumpLink c)) ∧
     ((s.link c).up = true → exec (.solrovLink c false) s = .next ((s.updLink c fun l =>
       { l with up := false, retraining := true }).evtPriv (slpPage c) 2 0xA2 0 c)))

/-- Loads, stores, atomics, near-memory operations and messages are served at the target. While the channel takes requests,
LOAD, STORE and RACK_ATOMIC are served, or refused as the first check that fails says; NMO starts or waits, NMO_START and
NMO_DONE run and answer it, and MSG and DEV_MSG are stored and acknowledged where their checks pass. The model's own readings of
log entries 26, 27, 61 enter here. (spec/12_solrov_fabric.md.) -/
def Obligations.RackAccessesAreServedAtTheTarget : Prop :=
  -- LOAD
  (∀ (s : State) (c : Nat) (x : Nat × SMsg), ((s.slp c).inbox.find? fun y => y.2.mtype == 1) = some x →
     s.slpTakes c = true →
     (let t := (s.updSlp c fun y => { y with inbox := y.inbox.erase x }).freeSlots x.1 x.2
     s.rackCheck c x.2 x.2.span [16] = none → s.snoopClear [(rackT1 x.2.addr, x.2.span, false)] = true →
     t.rackCheck c x.2 x.2.span [16] = none → exec (.load c) s = .next (t.homeServe c x.2))) ∧
  -- LOAD
  (∀ (s : State) (c st : Nat) (b : Bool) (x : Nat × SMsg), ((s.slp c).inbox.find? fun y => y.2.mtype == 1) = some x →
     s.slpTakes c = true →
     (let t := (s.updSlp c fun y => { y with inbox := y.inbox.erase x }).freeSlots x.1 x.2
     (s.rackCheck c x.2 x.2.span [16]).isSome = true → t.rackCheck c x.2 x.2.span [16] = some (st, b) →
     exec (.load c) s = .next (t.refuseRack c x.2 (st, b)))) ∧
  -- STORE
  (∀ (s : State) (c : Nat) (x : Nat × SMsg), ((s.slp c).inbox.find? fun y => y.2.mtype == 2) = some x →
     s.slpTakes c = true →
     (let t := (s.updSlp c fun y => { y with inbox := y.inbox.erase x }).freeSlots x.1 x.2
     s.rackCheck c x.2 x.2.span [17] = none → s.snoopClear [(rackT1 x.2.addr, x.2.span, true)] = true →
     t.rackCheck c x.2 x.2.span [17] = none → exec (.store c) s = .next (t.homeServe c x.2))) ∧
  -- STORE
  (∀ (s : State) (c st : Nat) (b : Bool) (x : Nat × SMsg), ((s.slp c).inbox.find? fun y => y.2.mtype == 2) = some x →
     s.slpTakes c = true →
     (let t := (s.updSlp c fun y => { y with inbox := y.inbox.erase x }).freeSlots x.1 x.2
     (s.rackCheck c x.2 x.2.span [17]).isSome = true → t.rackCheck c x.2 x.2.span [17] = some (st, b) →
     exec (.store c) s = .next (t.refuseRack c x.2 (st, b)))) ∧
  -- RACK_ATOMIC
  (∀ (s : State) (c : Nat) (x : Nat × SMsg), ((s.slp c).inbox.find? fun y => y.2.mtype == 3) = some x →
     s.slpTakes c = true →
     (let t := (s.updSlp c fun y => { y with inbox := y.inbox.erase x }).freeSlots x.1 x.2
     s.rackCheck c x.2 x.2.span [18] = none → s.snoopClear [(rackT1 x.2.addr, x.2.span, true)] = true →
     t.rackCheck c x.2 x.2.span [18] = none → exec (.rackAtomic c) s = .next (t.homeServe c x.2))) ∧
  -- RACK_ATOMIC
  (∀ (s : State) (c st : Nat) (b : Bool) (x : Nat × SMsg), ((s.slp c).inbox.find? fun y => y.2.mtype == 3) = some x →
     s.slpTakes c = true →
     (let t := (s.updSlp c fun y => { y with inbox := y.inbox.erase x }).freeSlots x.1 x.2
     (s.rackCheck c x.2 x.2.span [18]).isSome = true → t.rackCheck c x.2 x.2.span [18] = some (st, b) →
     exec (.rackAtomic c) s = .next (t.refuseRack c x.2 (st, b)))) ∧
  -- NMO
  (∀ (s : State) (c : Nat) (x : Nat × SMsg), ((s.slp c).inbox.find? fun y => y.2.mtype == 4) = some x →
     let t := (s.updSlp c fun y => { y with inbox := y.inbox.erase x }).freeSlots x.1 x.2
     t.nmoRefusal c x.2 = none →
     s.ready ⟨.nmo, c⟩ = true → s.slpTakes c = true → ((t.nmo c).running.length < 8 → (t.nmo c).waiting = [] → exec (.nmo c) s = .next (t.startOp c x.2)) ∧
     (8 ≤ (t.nmo c).running.length → exec (.nmo c) s = .next (t.updNmo c fun y => { y with waiting := y.waiting ++ [x.2] }))) ∧
  -- NMO_START
  (∀ (s : State) (c : Nat) (m : SMsg) (l : List SMsg), (s.nmo c).waiting = m :: l → (s.nmo c).running.length < 8 →
     exec (.nmoStart c) s = .next ((s.updNmo c fun x => { x with waiting := l }).startOp c m)) ∧
  -- NMO_DONE
  (∀ (s : State) (c k : Nat) (o : NmoOp), (s.nmo c).running[k]? = some o → s.snoopClear o.touches = true →
     (s.rgnCoherent c o.msg = false ∨ (s.ccx c).dstate = 3 ∨ o.isOver = true) →
     exec (.nmoDone c k) s = .next (let r := s.nmoRun c o (nmoSteps o.msg)
       (r.1.updNmo c fun x => { x with running := x.running.filter fun y => y.id != o.id }).nmoAnswer c r.2)) ∧
  -- MSG
  (∀ (s : State) (c q : Nat) (x : Nat × SMsg), ((s.slp c).inbox.find? fun y => y.2.mtype == 5) = some x → x.2.addr % 256 = q →
     let t := (s.updSlp c fun y => { y with inbox := y.inbox.erase x }).freeSlots x.1 x.2
     let n := t.rdN c Reg.SLP_RXQ_TAIL q
     s.slpTakes c = true → t.serves c = true → t.enabledCh c = true → t.rdB c Reg.SLP_RXQ_CFG 0 q = true → x.2.key = t.rdN c Reg.SLP_RXQ_KEY q →
     ringFull (2 ^ t.rdF c Reg.SLP_RXQ_CFG 5 1 q) (t.rdN c Reg.SLP_RXQ_HEAD q) n = false →
     exec (.msg c) s = .next (((t.vwrite (t.rd64 c Reg.SLP_RXQ_BASE_LO q + 256 * n) (rxqEntry x.2 t.stamp) (t.rdF c Reg.SLP_RXQ_CFG 25 16 q)).wr
       c Reg.SLP_RXQ_TAIL (lo32 ((n + 1) % 2 ^ t.rdF c Reg.SLP_RXQ_CFG 5 1 q)) q).replyTo c x.2 (x.2.reply 0x15 0))) ∧
  -- DEV_MSG
  (∀ (s : State) (c : Nat) (x : Nat × SMsg), ((s.slp c).inbox.find? fun y => y.2.mtype == 6) = some x →
     let t := (s.updSlp c fun y => { y with inbox := y.inbox.erase x }).freeSlots x.1 x.2
     s.slpTakes c = true → t.serves c = true → t.rdB c Reg.SLP_CFG 1 = true → (t.slotWord c x.2.srcSlot).testBit 5 = true →
     exec (.devMsg c) s = .next (((t.addPart c x.2).sendMsg c (x.2.reply 0x15 0)).recsGo c))

/-- Solrov responses free their tags, Solrov commands take tags, and stalls are reported and abandoned. LOAD_RSP, STORE_ACK,
ATOMIC_RSP, NMO_RSP, MSG_ACK, NAK, ORDERED_STORE_SEND, SOLROV_STORE, SOLROV_ATOMIC, SOLROV_NMO, SOLROV_MSG, SOLROV_STALL,
ABANDON and SLP_REVIVE answer the next state written out. The model's own readings of log entries 26, 12 enter here.
(spec/12_solrov_fabric.md.) -/
def Obligations.ResponsesStallsAndSolrovCommands : Prop :=
  -- LOAD_RSP, STORE_ACK, ATOMIC_RSP, NMO_RSP, MSG_ACK
  (∀ (s : State) (c k : Nat) (x : Nat × SMsg), ((s.slp c).inbox.find? fun y => y.2.mtype == k) = some x →
     let t := (s.updSlp c fun y => { y with inbox := y.inbox.erase x }).freeSlots x.1 x.2
     (k = 0x10 → exec (.loadRsp c) s = .next (((t.gotResponse c x.2 x.2.status x.2.poison).retryHeld c).cutOpens c)) ∧
     (k = 0x11 → exec (.storeAck c) s = .next (((t.gotResponse c x.2 x.2.status x.2.poison).retryHeld c).cutOpens c)) ∧
     (k = 0x12 → exec (.atomicRsp c) s = .next (((t.gotResponse c x.2 x.2.status x.2.poison).retryHeld c).cutOpens c)) ∧
     (k = 0x13 → exec (.nmoRsp c) s = .next (((t.gotResponse c x.2 x.2.status x.2.poison).retryHeld c).cutOpens c)) ∧
     (k = 0x15 → exec (.msgAck c) s = .next (((t.gotResponse c x.2 x.2.status x.2.poison).retryHeld c).cutOpens c))) ∧
  -- NAK
  (∀ (s : State) (c : Nat) (x : Nat × SMsg), ((s.slp c).inbox.find? fun y => y.2.mtype == 0x14) = some x →
     let t := (s.updSlp c fun y => { y with inbox := y.inbox.erase x }).freeSlots x.1 x.2
     exec (.nak c) s =
       .next ((((t.bump c Reg.SLP_NAK_RX_CNT).gotResponse c x.2 x.2.status x.2.poison).retryHeld c).cutOpens c)) ∧
  -- LOAD_RSP, STORE_ACK, ATOMIC_RSP, NMO_RSP, NAK, MSG_ACK
  (∀ (s : State) (c status : Nat) (m : SMsg) (p : Bool), let t := (s.slp c).tags.at m.tag
     (s.slotDead c m.srcSlot = true → t.slot < 128 → s.gotResponse c m status p = s.bump c Reg.SLP_LATE_RSP_CNT) ∧
     ((s.slotDead c m.srcSlot = false ∨ 128 ≤ t.slot) → t.live = true → t.quar = false → t.slot % 128 = m.srcSlot → answerTo t.mtype m.mtype = true →
       s.gotResponse c m status p = s.finishTag c m.tag status m.data p)) ∧
  -- ORDERED_STORE_SEND
  (∀ (s : State) (c : Nat), (s.ordNext c).cohOn c = false → exec (.orderedStoreSend c) s = .next ((s.ordNext c).retryHeld c)) ∧
  -- SOLROV_STORE
  (∀ (s : State) (c : Nat) (cmd : Cmd), let k : Cmd := { cmd with op := 0xa0 }
     let t := s.taken c 2 k
     let u := (t.updSlp c fun x => { x with held := false }).actStore c k
     s.comesNext c 2 k = true → (t.engine c 2).holder = some k → t.enabledCh c = true → t.cmdsOut c < 256 →
     exec (.solrovStore c cmd) s = .next (if u.cohOn c then u.agentGo (u.ownAgent c) else u)) ∧
  -- SOLROV_ATOMIC
  (∀ (s : State) (c : Nat) (cmd : Cmd), let k : Cmd := { cmd with op := 0xa1 }
     let t := s.taken c 2 k
     let u := (t.updSlp c fun x => { x with held := false }).actAtomic c k
     s.comesNext c 2 k = true → (t.engine c 2).holder = some k → t.enabledCh c = true → t.cmdsOut c < 256 →
     exec (.solrovAtomic c cmd) s = .next (if u.cohOn c then u.agentGo (u.ownAgent c) else u)) ∧
  -- SOLROV_NMO
  (∀ (s : State) (c : Nat) (cmd : Cmd), let k : Cmd := { cmd with op := 0xa2 }
     let t := s.taken c 2 k
     let u := (t.updSlp c fun x => { x with held := false }).actNmo c k
     s.comesNext c 2 k = true → (t.engine c 2).holder = some k → t.enabledCh c = true → t.cmdsOut c < 256 →
     exec (.solrovNmo c cmd) s = .next (if u.cohOn c then u.agentGo (u.ownAgent c) else u)) ∧
  -- SOLROV_MSG
  (∀ (s : State) (c : Nat) (cmd : Cmd), let k : Cmd := { cmd with op := 0xa3 }
     let t := s.taken c 2 k
     let u := (t.updSlp c fun x => { x with held := false }).actMsg c k
     s.comesNext c 2 k = true → (t.engine c 2).holder = some k → t.enabledCh c = true → t.cmdsOut c < 256 →
     exec (.solrovMsg c cmd) s = .next (if u.cohOn c then u.agentGo (u.ownAgent c) else u)) ∧
  -- SOLROV_STORE, SOLROV_ATOMIC, SOLROV_NMO, SOLROV_MSG
  (∀ (s : State) (c : Nat) (cmd : Cmd), 256 ≤ s.cmdsOut c → s.solAct c cmd = s.updSlp c fun x => { x with held := true }) ∧
  -- SOLROV_STALL
  (∀ (s : State) (c slot t : Nat), s.stallDue c slot = some t → let u := s.passToNow t
     exec (.solrovStall c slot) s = .next ((u.updSlp c fun x => { x with stallAt := x.stallAt.set slot (u.tim.now + 1) }).evtPriv (slpPage c) 1
       0xA1 0 (fieldAt 0 7 slot + fieldAt 16 14 (u.slotTags c slot).length +
         fieldAt 32 32 ((u.tim.now - (oldestAt (u.slotTags c slot)).getD u.tim.now) / 1000)))) ∧
  -- ABANDON
  (∀ (s : State) (rq : Requester) (c slot : Nat), s.reachesReg rq c Reg.SLP_ABANDON = true →
     exec (.abandon rq c slot false) s = .next (((((s.abandonSlot c (slot % 128)).homeGone c (slot % 128)).retryHeld c).cutOpens
       c).losesShards c fun m => s.memberSlot c m == slot % 128)) ∧
  -- ABANDON
  (∀ (s : State) (rq : Requester) (c slot : Nat), s.reachesReg rq c Reg.SLP_ABANDON = true →
     exec (.abandon rq c slot true) s =
       .next (s.each s.channels fun s k => ((((s.abandonSlot k (slot % 128)).homeGone k (slot % 128)).retryHeld k).cutOpens
         k).losesShards k fun m => s.memberSlot k m == slot % 128)) ∧
  -- SLP_REVIVE
  (∀ (s : State) (rq : Requester) (c slot : Nat), s.reachesReg rq c Reg.SLP_ABANDON = true → slot < 128 → s.slotDead c slot = true →
     exec (.slpRevive rq c slot false) s = .next ((s.updSlp c fun x => { x with dead := x.dead.filter fun d => d != slot }).each
       (((s.slp c).tags.filter fun t => t.2.quar && t.2.slot == slot).map Prod.fst) fun s k => s.dropTag c k)) ∧
  -- SLP_REVIVE
  (∀ (s : State) (rq : Requester) (c slot : Nat), s.reachesReg rq c Reg.SLP_ABANDON = true → slot < 128 → s.slotDead c slot = false →
     exec (.slpRevive rq c slot false) s = .next (s.logIgnored (slpPage c) 0x110 (abandonWord slot 9 false)))

/-- The arbiter takes requests, responses and write-backs of the coherence domain. RDS, RDX, UPG, WB, EVC, CLEAN, SRSP, CMP,
MWR_ACK and PSN_ACK at the arbiter of the line answer the next state written out: RETRY, NAK or the entry with its snoops and
grants. The model's own readings of log entry 28 enter here. (spec/13_domain_coherence.md.) -/
def Obligations.CoherenceRequestsReachTheArbiter : Prop :=
  -- RD_S
  (∀ (s : State) (c : Nat) (x : Nat × SMsg), ((s.slp c).inbox.find? fun y => y.2.mtype == 0x40) = some x →
     let t := (s.updSlp c fun y => { y with inbox := y.inbox.erase x }).freeSlots x.1 x.2
     t.cohOn c = true → x.2.domain = t.domainId c → t.isArb c = true → 
     exec (.rdS c) s = .next (t.arbRequest c 0 x.2)) ∧
  -- RD_X
  (∀ (s : State) (c : Nat) (x : Nat × SMsg), ((s.slp c).inbox.find? fun y => y.2.mtype == 0x41) = some x →
     let t := (s.updSlp c fun y => { y with inbox := y.inbox.erase x }).freeSlots x.1 x.2
     t.cohOn c = true → x.2.domain = t.domainId c → t.isArb c = true → 
     exec (.rdX c) s = .next (t.arbRequest c 1 x.2)) ∧
  -- UPG
  (∀ (s : State) (c : Nat) (x : Nat × SMsg), ((s.slp c).inbox.find? fun y => y.2.mtype == 0x42) = some x →
     let t := (s.updSlp c fun y => { y with inbox := y.inbox.erase x }).freeSlots x.1 x.2
     t.cohOn c = true → x.2.domain = t.domainId c → t.isArb c = true → 
     exec (.upg c) s = .next (t.arbRequest c 2 x.2)) ∧
  -- WB
  (∀ (s : State) (c : Nat) (x : Nat × SMsg), ((s.slp c).inbox.find? fun y => y.2.mtype == 0x43) = some x →
     let t := (s.updSlp c fun y => { y with inbox := y.inbox.erase x }).freeSlots x.1 x.2
     t.cohOn c = true → x.2.domain = t.domainId c → t.isArb c = true → 
     exec (.wb c) s = .next (t.arbRequest c 3 x.2)) ∧
  -- EVC
  (∀ (s : State) (c : Nat) (x : Nat × SMsg), ((s.slp c).inbox.find? fun y => y.2.mtype == 0x44) = some x →
     let t := (s.updSlp c fun y => { y with inbox := y.inbox.erase x }).freeSlots x.1 x.2
     t.cohOn c = true → x.2.domain = t.domainId c → t.isArb c = true → 
     exec (.evc c) s = .next (t.arbRequest c 4 x.2)) ∧
  -- CLEAN
  (∀ (s : State) (c : Nat) (x : Nat × SMsg), ((s.slp c).inbox.find? fun y => y.2.mtype == 0x45) = some x →
     let t := (s.updSlp c fun y => { y with inbox := y.inbox.erase x }).freeSlots x.1 x.2
     t.cohOn c = true → x.2.domain = t.domainId c → t.isArb c = true → 
     exec (.clean c) s = .next (t.arbRequest c 5 x.2)) ∧
  -- SRSP
  (∀ (s : State) (c : Nat) (x : Nat × SMsg), ((s.slp c).inbox.find? fun y => y.2.mtype == 0x48) = some x →
     let t := (s.updSlp c fun y => { y with inbox := y.inbox.erase x }).freeSlots x.1 x.2
     t.cohOn c = true → x.2.domain = t.domainId c → t.slotDead c x.2.srcSlot = false → t.isArb c = true → 
     exec (.srsp c) s = .next (t.arbSrsp c x.2)) ∧
  -- CMP
  (∀ (s : State) (c : Nat) (x : Nat × SMsg), ((s.slp c).inbox.find? fun y => y.2.mtype == 0x49) = some x →
     let t := (s.updSlp c fun y => { y with inbox := y.inbox.erase x }).freeSlots x.1 x.2
     t.cohOn c = true → x.2.domain = t.domainId c → t.slotDead c x.2.srcSlot = false → t.isArb c = true → 
     exec (.cmp c) s = .next (t.arbCmp c x.2)) ∧
  -- MWR_ACK
  (∀ (s : State) (c : Nat) (x : Nat × SMsg), ((s.slp c).inbox.find? fun y => y.2.mtype == 0x5c) = some x →
     let t := (s.updSlp c fun y => { y with inbox := y.inbox.erase x }).freeSlots x.1 x.2
     t.cohOn c = true → x.2.domain = t.domainId c → t.slotDead c x.2.srcSlot = false → t.isArb c = true → 
     exec (.mwrAck c) s = .next (t.arbMwrAck c x.2)) ∧
  -- PSN_ACK
  (∀ (s : State) (c : Nat) (x : Nat × SMsg), ((s.slp c).inbox.find? fun y => y.2.mtype == 0x5d) = some x →
     let t := (s.updSlp c fun y => { y with inbox := y.inbox.erase x }).freeSlots x.1 x.2
     t.cohOn c = true → x.2.domain = t.domainId c → t.slotDead c x.2.srcSlot = false → t.isArb c = true → 
     exec (.psnAck c) s = .next (t.arbPsnAck c x.2)) ∧
  -- RD_S, RD_X, UPG, WB, EVC
  (∀ (s : State) (a kind k : Nat) (m : SMsg), kind < 5 → s.memberOf a m.srcSlot = some k →
     ((s.fent a m.gran).trans.isSome = true ∨ (s.ccx a).resv.any (fun r => r.gran == m.gran && r.who != k) = true) →
     s.arbRequest a kind m = s.arbRefuse a k m) ∧
  -- RD_S, RD_X, UPG, WB, EVC, CLEAN
  (∀ (s : State) (a kind k : Nat) (m : SMsg), s.memberOf a m.srcSlot = some k →
     (s.fent a m.gran).trans = none → (s.ccx a).resv.any (fun r => r.gran == m.gran) = false → s.rivals a m.gran ≠ [] →
     let who := requesterOf kind k
     let w := s.firstOf a ((who, s.aged a m) :: (s.rivals a m.gran).map fun x => (x.1, s.aged a x.2.2))
     let t := s.updCcx a fun x => { x with tiePtr := (w + 1) % 16 }
     (w = who → s.arbRequest a kind m = t.arbServe a kind m) ∧
     (w ≠ who → ∀ x, (s.rivals a m.gran).find? (fun y => y.1 == w) = some x →
       s.arbRequest a kind m = (((t.updSlp a fun y => { y with inbox := y.inbox.erase x.2 }).freeSlots x.2.1 x.2.2).arbServe a
         (x.2.2.mtype - 0x40) x.2.2).arbServe a kind m)) ∧
  -- RD_S, RD_X, UPG
  (∀ (s : State) (a kind k : Nat) (m : SMsg), kind < 3 → s.memberOf a m.srcSlot = some k →
     (s.fent a m.gran).trans = none → (s.ccx a).resv.any (fun r => r.gran == m.gran && r.who != k) = false →
     (s.rivals a m.gran = [] ∨ (s.ccx a).resv.any (fun r => r.gran == m.gran) = true) → (s.fent a m.gran).there = true → s.crgnRefusal a m kind = none →
     s.arbRequest a kind m = ((s.arbServed a m.gran).beginTrans a m.gran (newTrans kind k m)).transGo a m.gran chainFuel)

/-- Agents answer snoops and take grants, and the home reads, writes and poisons lines. SNPS, SNPX, SNPINV, GNT, RETRY, EV_ACK,
MRD, MWR, PSN, DATA and COH_BACKOFF_END answer the next state written out, snoops in every state of the line at the agent;
COH_FLUSH that takes the MOVER answers the next state in every state, and for a range of whole granules of coherent rack space
that the job holds a key for it hands the lines that the agent holds of it to the flush. The model's own readings of log entry
28 enter here. (spec/13_domain_coherence.md.) -/
def Obligations.CoherenceAgentsAnswerAndTakeData : Prop :=
  -- SNP_S
  (∀ (s : State) (c : Nat) (x : Nat × SMsg), ((s.slp c).inbox.find? fun y => y.2.mtype == 0x50) = some x →
     let t := (s.updSlp c fun y => { y with inbox := y.inbox.erase x }).freeSlots x.1 x.2
     t.cohOn c = true → x.2.domain = t.domainId c → t.isAgent c = true → 
     exec (.snpS c) s = .next ((t.agentSnoop c x.2).agentGo c)) ∧
  -- SNP_X
  (∀ (s : State) (c : Nat) (x : Nat × SMsg), ((s.slp c).inbox.find? fun y => y.2.mtype == 0x51) = some x →
     let t := (s.updSlp c fun y => { y with inbox := y.inbox.erase x }).freeSlots x.1 x.2
     t.cohOn c = true → x.2.domain = t.domainId c → t.isAgent c = true → 
     exec (.snpX c) s = .next ((t.agentSnoop c x.2).agentGo c)) ∧
  -- SNP_INV
  (∀ (s : State) (c : Nat) (x : Nat × SMsg), ((s.slp c).inbox.find? fun y => y.2.mtype == 0x52) = some x →
     let t := (s.updSlp c fun y => { y with inbox := y.inbox.erase x }).freeSlots x.1 x.2
     t.cohOn c = true → x.2.domain = t.domainId c → t.isAgent c = true → 
     exec (.snpInv c) s = .next ((t.agentSnoop c x.2).agentGo c)) ∧
  -- SNP_S, SNP_X, SNP_INV
  (∀ (s : State) (a : Nat) (m : SMsg) (ex dirty : Bool) (st : LineState), snoopOf m.mtype (s.cline a m.gran).st = some (ex, dirty, st) →
     s.agentSnoop a m = (((if ex then s.sendData a m (s.cline a m.gran).data dirty false else s).setLine a m.gran
       (if st = .i then default else { s.cline a m.gran with st := st })).sendSrsp a m st.code ex dirty)) ∧
  -- SNP_S, SNP_X, SNP_INV
  (∀ (s : State) (a : Nat) (m : SMsg), snoopOf m.mtype (s.cline a m.gran).st = none →
     s.agentSnoop a m = (s.protoErr a m).sendSrsp a m (s.cline a m.gran).st.code false false) ∧
  -- GNT
  (∀ (s : State) (c : Nat) (x : Nat × SMsg), ((s.slp c).inbox.find? fun y => y.2.mtype == 0x53) = some x →
     let t := (s.updSlp c fun y => { y with inbox := y.inbox.erase x }).freeSlots x.1 x.2
     t.cohOn c = true → x.2.domain = t.domainId c → t.slotDead c x.2.srcSlot = false → ∀ g, t.agentTag c x.2.tag = some g →
     exec (.gnt c) s = .next ((t.agentGnt c g x.2).agentGo c)) ∧
  -- GNT
  (∀ (s : State) (c : Nat) (x : Nat × SMsg), ((s.slp c).inbox.find? fun y => y.2.mtype == 0x53) = some x →
     let t := (s.updSlp c fun y => { y with inbox := y.inbox.erase x }).freeSlots x.1 x.2
     t.cohOn c = true → x.2.domain = t.domainId c → t.slotDead c x.2.srcSlot = false → ∀ g, t.agentTag c x.2.tag = none → t.homeTag c x.2.tag = some g →
     exec (.gnt c) s = .next (t.homeGnt c g x.2)) ∧
  -- RETRY
  (∀ (s : State) (c : Nat) (x : Nat × SMsg), ((s.slp c).inbox.find? fun y => y.2.mtype == 0x54) = some x →
     let t := (s.updSlp c fun y => { y with inbox := y.inbox.erase x }).freeSlots x.1 x.2
     t.cohOn c = true → x.2.domain = t.domainId c → t.slotDead c x.2.srcSlot = false → ∀ g, t.agentTag c x.2.tag = some g →
     exec (.retry c) s = .next (t.agentRetry c g x.2)) ∧
  -- RETRY
  (∀ (s : State) (c : Nat) (x : Nat × SMsg), ((s.slp c).inbox.find? fun y => y.2.mtype == 0x54) = some x →
     let t := (s.updSlp c fun y => { y with inbox := y.inbox.erase x }).freeSlots x.1 x.2
     t.cohOn c = true → x.2.domain = t.domainId c → t.slotDead c x.2.srcSlot = false → ∀ g, t.agentTag c x.2.tag = none → t.homeTag c x.2.tag = some g →
     exec (.retry c) s = .next (t.homeRetry c g)) ∧
  -- EV_ACK
  (∀ (s : State) (c : Nat) (x : Nat × SMsg), ((s.slp c).inbox.find? fun y => y.2.mtype == 0x55) = some x →
     let t := (s.updSlp c fun y => { y with inbox := y.inbox.erase x }).freeSlots x.1 x.2
     t.cohOn c = true → x.2.domain = t.domainId c → t.slotDead c x.2.srcSlot = false → ∀ g, t.agentTag c x.2.tag = some g →
     exec (.evAck c) s = .next ((t.agentEvAck c g x.2).agentGo c)) ∧
  -- MRD
  (∀ (s : State) (c : Nat) (x : Nat × SMsg), ((s.slp c).inbox.find? fun y => y.2.mtype == 0x58) = some x →
     let t := (s.updSlp c fun y => { y with inbox := y.inbox.erase x }).freeSlots x.1 x.2
     t.cohOn c = true → x.2.domain = t.domainId c → t.vpoison (rackT1 x.2.addr) 128 = false →
     exec (.mrd c) s = .next ((t.touch 0 (rackT1 x.2.addr) 128).sendData c x.2 (t.vread (rackT1 x.2.addr) 128) false false)) ∧
  -- MWR
  (∀ (s : State) (c : Nat) (x : Nat × SMsg), ((s.slp c).inbox.find? fun y => y.2.mtype == 0x59) = some x →
     let t := (s.updSlp c fun y => { y with inbox := y.inbox.erase x }).freeSlots x.1 x.2
     t.cohOn c = true → x.2.domain = t.domainId c → 
     exec (.mwr c) s = .next ((t.vwrite (rackT1 x.2.addr) (padTo 128 x.2.data)).cohReply c x.2 0x5C 0)) ∧
  -- PSN
  (∀ (s : State) (c : Nat) (x : Nat × SMsg), ((s.slp c).inbox.find? fun y => y.2.mtype == 0x5a) = some x →
     let t := (s.updSlp c fun y => { y with inbox := y.inbox.erase x }).freeSlots x.1 x.2
     t.cohOn c = true → x.2.domain = t.domainId c → 
     exec (.psn c) s = .next ((((t.vmark (rackT1 x.2.addr) 128).bump c Reg.CCX_POISON_CNT).postPoisoned c x.2.gran 0).cohReply c x.2 0x5D 0)) ∧
  -- DATA
  (∀ (s : State) (c : Nat) (x : Nat × SMsg), ((s.slp c).inbox.find? fun y => y.2.mtype == 0x60) = some x →
     let t := (s.updSlp c fun y => { y with inbox := y.inbox.erase x }).freeSlots x.1 x.2
     t.cohOn c = true → x.2.domain = t.domainId c → t.slotDead c x.2.srcSlot = false → ∀ g, t.agentTag c x.2.reqTag = some g →
     exec (.data c) s = .next ((t.agentData c g x.2).agentGo c)) ∧
  -- DATA
  (∀ (s : State) (c : Nat) (x : Nat × SMsg), ((s.slp c).inbox.find? fun y => y.2.mtype == 0x60) = some x →
     let t := (s.updSlp c fun y => { y with inbox := y.inbox.erase x }).freeSlots x.1 x.2
     t.cohOn c = true → x.2.domain = t.domainId c → t.slotDead c x.2.srcSlot = false → ∀ g, t.agentTag c x.2.reqTag = none → t.homeTag c x.2.reqTag = some g →
     exec (.data c) s = .next (t.homeData c g x.2)) ∧
  -- DATA
  (∀ (s : State) (c : Nat) (x : Nat × SMsg), ((s.slp c).inbox.find? fun y => y.2.mtype == 0x60) = some x →
     let t := (s.updSlp c fun y => { y with inbox := y.inbox.erase x }).freeSlots x.1 x.2
     t.cohOn c = true → x.2.domain = t.domainId c → t.slotDead c x.2.srcSlot = false → ∀ r, t.agentTag c x.2.reqTag = none → t.homeTag c x.2.reqTag = none → t.arbTag c x.2.reqTag = some r →
     exec (.data c) s = .next (t.arbData c r.1 x.2)) ∧
  -- COH_BACKOFF_END
  (∀ (s : State) (c : Nat) (x : Nat × Bool × Nat) (l : List (Nat × Bool × Nat)), s.resends c = x :: l →
     let t := s.passToNow (l.foldl (fun m y => min m y.1) x.1)
     exec (.cohBackoffEnd c) s = .next (t.each ((t.resends c).filter fun y => decide (y.1 ≤ t.tim.now)) fun s y =>
       if y.2.1 then s.lineResend c y.2.2 else s.homeResend c y.2.2)) ∧
  -- COH_FLUSH
  (∀ (s : State) (c : Nat) (cmd : Cmd), let k : Cmd := { cmd with op := 0x0A4 }
     let t := s.taken c 2 k
     let u := (t.updSlp c fun x => { x with held := false }).actFlush c k
     s.comesNext c 2 k = true → (t.engine c 2).holder = some k → t.enabledCh c = true → t.cmdsOut c < 256 →
     exec (.cohFlush c cmd) s = .next (if u.cohOn c then u.agentGo (u.ownAgent c) else u)) ∧
  -- COH_FLUSH
  (∀ (s u : State) (c : Nat) (cmd : Cmd) (ps : List (Nat × Nat)), let k : Cmd := { cmd with op := 0x0A4 }
     let t := s.taken c 2 k
     let v := t.updSlp c fun x => { x with held := false }
     let va := recNat cmd.payload 0 8
     let n := recNat cmd.payload 8 8
     s.comesNext c 2 k = true → (t.engine c 2).holder = some k → t.enabledCh c = true → t.cmdsOut c < 256 →
     va % 128 = 0 → n % 128 = 0 → v.translateRange c cmd.job va n false (n / 4096 + 2) = (u, .ok ps) →
     (ps.all fun p => inRack p.1 && (v.cohEntry c p.1 p.2).isSome) = true →
     (ps.all fun p => (v.remoteKey c cmd.job p.1 p.2).isSome) = true →
     let a := u.ownAgent c
     let gs := ((u.ccx a).lines.filter fun l => l.2.st != .i && l.2.st != .isD && l.2.st != .imD &&
       ps.any fun p => decide (p.1 ≤ 128 * l.1) && decide (128 * l.1 < p.1 + p.2)).map Prod.fst
     let w := ((u.handOver c k).updCcx a fun x => { x with flushes := x.flushes ++ [⟨k, c, gs⟩] }).agentGo a
     exec (.cohFlush c cmd) s = .next (if w.cohOn c then w.agentGo (w.ownAgent c) else w))

/-- A device joins a domain, beats, and finds members dead or the domain lost. CCX_JOIN, CCX_LEAVE, CCX_REVIVE, HB_SEND, HB,
HB_ECHO, MEMBER_DEAD, DOMAIN_LOST, JOIN, JOIN_ACK and DEAD_NOTE answer the next state written out. The model's own readings of
log entries 28, 1 enter here. (spec/13_domain_coherence.md.) -/
def Obligations.CoherenceDomainsJoinBeatAndDie : Prop :=
  -- CCX_JOIN
  (∀ (s : State) (rq : Requester) (c : Nat), s.reachesReg rq c Reg.CCX_CMD = true → s.isAgent c = true →
     ((s.ccx c).dstate = 0 ∨ (s.ccx c).dstate = 3) →
     exec (.ccxJoin rq c) s = .next ((s.eachCcx fun x => { x with dstate := 1 }).toMember c 0 0x74 0)) ∧
  -- CCX_LEAVE
  (∀ (s : State) (rq : Requester) (c : Nat), s.reachesReg rq c Reg.CCX_CMD = true → s.isAgent c = true → (s.ccx c).dstate = 2 →
     s.memberSlot c 0 ≠ s.selfSlot c →
     exec (.ccxLeave rq c) s = .next ((s.eachCcx fun x => { x with dstate := 0, up := [] }).emit
       (.msg "LEAVE" [c, s.memberSlot c 0, s.member c] []))) ∧
  -- CCX_LEAVE
  (∀ (s : State) (rq : Requester) (c : Nat), s.reachesReg rq c Reg.CCX_CMD = true → s.isAgent c = true → (s.ccx c).dstate = 2 →
     s.memberSlot c 0 = s.selfSlot c →
     let t := s.eachCcx fun x => { x with dstate := 0, up := [] }
     let k := s.agentChOf c 0
     exec (.ccxLeave rq c) s = .next ((t.wr k Reg.CCX_MEMBER_MASK (setBit (t.rd k Reg.CCX_MEMBER_MASK) (s.member c) false)).updCcx k fun x =>
       { x with joined := x.joined.filter fun m => m != s.member c })) ∧
  -- CCX_REVIVE
  (∀ (s : State) (rq : Requester) (c m : Nat), s.reachesReg rq c Reg.CCX_CMD = true → s.isController c = true → m < 8 →
     exec (.ccxRevive rq c m) s = .next ((s.updCcx c fun x => { x with deadM := x.deadM.filter fun y => y != m }).each
       (s.channels.filter s.isArb) fun s a => s.reviveSlot a (s.memberSlot c m))) ∧
  -- HB_SEND
  (∀ (s : State) (c : Nat), s.isAgent c = true → s.serves c = true → (s.ccx c).dstate = 2 →
     let t := s.passToNow ((s.ccx c).hbSent - 1 + s.hbNs c)
     let u := (t.bump c Reg.CCX_HB_LATE_CNT (if (t.ccx c).echo < (t.ccx c).hbSent then 1 else 0)).toMember c 0 0x70 0
     u.isController c = false → exec (.hbSend c) s = .next (u.updCcx c fun x => { x with hbSent := u.tim.now + 1 })) ∧
  -- MEMBER_DEAD
  (∀ (s : State) (c m : Nat), s.isController c = true → (s.ccx c).dstate = 2 → (s.ccx c).up.contains m = true →
     exec (.memberDead c m) s = .next ((s.passToNow ((s.ccx c).hb.at m - 1 + s.hbLimit c)).declareDead c m)) ∧
  -- DOMAIN_LOST
  (∀ (s : State) (c : Nat), s.isAgent c = true → (s.ccx c).dstate = 2 →
     exec (.domainLost c) s = .next ((s.passToNow ((s.ccx c).echo - 1 + s.hbLimit c)).loseDomain c)) ∧
  -- HB
  (∀ (s : State) (c : Nat) (x : Nat × SMsg), ((s.slp c).inbox.find? fun y => y.2.mtype == 0x70) = some x →
     let t := (s.updSlp c fun y => { y with inbox := y.inbox.erase x }).freeSlots x.1 x.2
     t.cohOn c = true → x.2.domain = t.domainId c → t.isAgent c = true → ∀ k, t.memberOf c x.2.srcSlot = some k → t.isController c = true →
     exec (.hb c) s = .next (t.updCcx c fun y => { y with hb := y.hb.set k (t.tim.now + 1) })) ∧
  -- HB_ECHO
  (∀ (s : State) (c : Nat) (x : Nat × SMsg), ((s.slp c).inbox.find? fun y => y.2.mtype == 0x71) = some x →
     let t := (s.updSlp c fun y => { y with inbox := y.inbox.erase x }).freeSlots x.1 x.2
     t.cohOn c = true → x.2.domain = t.domainId c → t.isAgent c = true → 
     exec (.hbEcho c) s = .next (t.updCcx c fun y => { y with echo := t.tim.now + 1 })) ∧
  -- JOIN
  (∀ (s : State) (c : Nat) (x : Nat × SMsg), ((s.slp c).inbox.find? fun y => y.2.mtype == 0x74) = some x →
     let t := (s.updSlp c fun y => { y with inbox := y.inbox.erase x }).freeSlots x.1 x.2
     t.cohOn c = true → x.2.domain = t.domainId c → t.isAgent c = true → ∀ k, t.memberOf c x.2.srcSlot = some k → t.isController c = true →
     exec (.join c) s = .next (t.joinMember c k)) ∧
  -- JOIN_ACK
  (∀ (s : State) (c : Nat) (x : Nat × SMsg), ((s.slp c).inbox.find? fun y => y.2.mtype == 0x75) = some x →
     let t := (s.updSlp c fun y => { y with inbox := y.inbox.erase x }).freeSlots x.1 x.2
     t.cohOn c = true → x.2.domain = t.domainId c → t.isAgent c = true → (t.ccx c).dstate = 1 →
     exec (.joinAck c) s = .next (t.domainUp c)) ∧
  -- DEAD_NOTE
  (∀ (s : State) (c : Nat) (x : Nat × SMsg), ((s.slp c).inbox.find? fun y => y.2.mtype == 0x76) = some x →
     let t := (s.updSlp c fun y => { y with inbox := y.inbox.erase x }).freeSlots x.1 x.2
     t.cohOn c = true → x.2.domain = t.domainId c → t.isAgent c = true → 
     exec (.deadNote c) s = .next (((t.eachCcx fun z => { z with up := z.up.filter fun y => y != x.2.addr % 8 }).evtPriv (ccxPage c) 0 0xB0
       (x.2.addr % 8) (t.memberSlot c (x.2.addr % 8))).shardsLost (x.2.addr % 8)))

/-- Channels are bound and unbound, and dynamic capacity is offered, accepted and released. The seven fabric-manager and
composition commands answer the next state written out, with the answer of the rule where they are refused. The model's own
readings of log entry 29 enter here. (spec/14_host_port.md.) -/
def Obligations.ChannelsAndCapacityAreComposed : Prop :=
  -- BIND_CHANNEL
  (∀ (s : State) (ld mask : Nat), s.released = true → ld < 32 → s.maskOk mask = true → s.cmp.retiring = none →
     exec (.bindChannel ld mask) s = .next (s.setMask ld (s.ldChans ld ||| mask))) ∧
  -- UNBIND_CHANNEL
  (∀ (s : State) (ld mask : Nat), s.released = true → ld < 32 → s.maskOk mask = true → s.boundHere ld mask = false → s.cmp.retiring = none →
     exec (.unbindChannel ld mask) s = .next (s.setMask ld ((List.range 16).foldl (fun a c =>
       if (s.ldChans ld).testBit c && !mask.testBit c then a + 2 ^ c else a) 0))) ∧
  -- BIND_CHANNEL, UNBIND_CHANNEL
  (∀ (s : State) (ld mask : Nat), s.released = true → ld < 32 →
     (s.maskOk mask = false → exec (.bindChannel ld mask) s = .next (s.fmAnswer "FM_INVALID_INPUT" ld) ∧
       exec (.unbindChannel ld mask) s = .next (s.fmAnswer "FM_INVALID_INPUT" ld)) ∧
     (s.maskOk mask = true → s.boundHere ld mask = true → exec (.unbindChannel ld mask) s = .next (s.fmAnswer "FM_BUSY" ld))) ∧
  -- BIND_CHANNEL, UNBIND_CHANNEL, ADD_DYNAMIC_CAPACITY_RESPONSE
  (∀ (s : State) (ld mask ep : Nat) (ok : List Nat), s.released = true → ld < 32 → s.cmp.retiring = some ep → s.compInflight ep ≠ 0 →
     let busy : Host.Outcome State Fault Refusal := .next
       (((s.bump 0 Reg.CMP_MAP_BUSY_CNT).evtPriv cmpPage 2 0xC4 0 ep).fmAnswer "FM_BUSY" ld)
     (s.maskOk mask = true → exec (.bindChannel ld mask) s = busy) ∧
     (s.maskOk mask = true → s.boundHere ld mask = false → exec (.unbindChannel ld mask) s = busy) ∧
     ((s.cmp.entries.any fun e => e.2.pending && e.2.num == ld && ok.contains e.2.dpaBase) = true →
       exec (.addDynamicCapacityResponse ld ok) s = busy)) ∧
  -- INITIATE_DYNAMIC_CAPACITY_ADD
  (∀ (s : State) (ld : Nat) (xs : List DcExtent), s.released = true → ld < 32 → s.cmp.retiring = none →
     s.extentsOk ld ((s.cmp.entries.filter fun e => e.2.used).map Prod.snd) xs = true → xs.length ≤ s.freeEntries.length →
     exec (.initiateDynamicCapacityAdd ld xs) s = .next (((s.setCmp fun x => { x with
         entries := (s.freeEntries.zip xs).foldl (fun m y => m.set y.1 (extentEntry y.2 ld 0)) x.entries }).emit
       (.msg "ADD_CAPACITY" (ld :: xs.map DcExtent.dpaBase) [])).fmAnswer "FM_SUCCESS" ld)) ∧
  -- ADD_DYNAMIC_CAPACITY_RESPONSE
  (∀ (s : State) (ld : Nat) (ok : List Nat), s.released = true → ld < 32 → s.cmp.retiring = none →
     (let mine := s.cmp.entries.filter fun e => e.2.pending && e.2.num == ld
     let yes := mine.filter fun e => ok.contains e.2.dpaBase
     let put := fun (m : SMap CompEntry) (e : Nat × CompEntry) =>
       m.set e.1 (if ok.contains e.2.dpaBase then { e.2 with valid := true, pending := false, epoch := s.compEpoch.cmp.epoch } else default)
     mine.isEmpty = false → yes.isEmpty = false →
     exec (.addDynamicCapacityResponse ld ok) s =
       .next ((s.compEpoch.setCmp fun x => { x with entries := mine.foldl put x.entries }).evtPriv cmpPage 0 0xC2 0 (ld + fieldAt 32 12 yes.length)))) ∧
  -- INITIATE_DYNAMIC_CAPACITY_RELEASE
  (∀ (s : State) (ld : Nat) (dpas : List Nat), s.released = true → ld < 32 → s.cmp.retiring = none →
     (let es := s.cmp.entries.filter fun e => e.2.valid && e.2.num == ld && dpas.contains e.2.dpaBase
     let put := fun k => s.setCmp fun x => { x with entries := es.foldl (fun m e => m.set e.1 { e.2 with relStep := k }) x.entries }
     es.length = dpas.length →
     exec (.initiateDynamicCapacityRelease ld dpas false) s =
       .next ((((put 1).emit (.msg "RELEASE_CAPACITY" (ld :: dpas) [])).fmAnswer "FM_SUCCESS" ld).releaseGo) ∧
     exec (.initiateDynamicCapacityRelease ld dpas true) s = .next (((put 2).fmAnswer "FM_SUCCESS" ld).releaseGo))) ∧
  -- RELEASE_DYNAMIC_CAPACITY
  (∀ (s : State) (ld : Nat) (dpas : List Nat), s.released = true → ld < 32 →
     let es := s.cmp.entries.filter fun e => e.2.valid && e.2.relStep == 1 && e.2.num == ld && dpas.contains e.2.dpaBase
     exec (.releaseDynamicCapacity ld dpas) s =
       .next ((s.setCmp fun x => { x with entries := es.foldl (fun m e => m.set e.1 { e.2 with relStep := 2 }) x.entries }).releaseGo)) ∧
  -- COMPOSITION_EPOCH_RETIRE
  (∀ (s : State) (ep : Nat), s.cmp.retiring = some ep → s.compInflight ep ≠ 0 → exec .compositionEpochRetire s = .next s.releaseGo) ∧
  -- COMPOSITION_EPOCH_RETIRE
  (∀ (s : State) (ep : Nat), s.cmp.retiring = some ep → s.compInflight ep = 0 →
     (let es := s.cmp.entries.filter fun x => x.2.releasing
     exec .compositionEpochRetire s = .next ((((s.setCmp fun x =>
       { x with retiring := none, entries := es.foldl (fun m e => m.set e.1 default) x.entries }).each (freedOf es) fun s x =>
         s.evtPriv cmpPage 1 0xC3 0 (fieldAt 0 5 x.1 + fieldAt 32 12 x.2)).evt cmpPage 3).releaseGo)))

/-- Hosts read and write device memory, answer back-invalidate snoops, and are contained when a port fails. CXL_MEM_READ and
CXL_MEM_WRITE wait for their snoops, answer poison or are discarded where the memory is withheld or unmapped, stand aside while
CMP accepts no work, write back what a snooped LD holds, and end unsupported for an LD that is not enabled; BIRSP, BI_TIMEOUT,
LD_RESET, HOST_PORT_FAULT and LINK_UP answer the next state written out. The model's own readings of log entries 29, 61 enter
here. (spec/14_host_port.md.) -/
def Obligations.HostsReadWriteAndAreSnooped : Prop :=
  -- CXL_MEM_READ
  (∀ (s : State) (ld dpa want : Nat), s.released = true → ld < 32 → s.portCarries (ld / 16) = true → s.ldEnabled ld = true →
     s.ready cmpPage = true → s.ras.fatal = none →
     ((∀ a, s.compMap ld (dpa / 64 * 64) = some a → s.withheld a = false → exec (.cxlMemRead ld dpa want) s = .next ((s.setCmp fun x =>
       { x with waiting := x.waiting ++ [⟨ld, dpa / 64 * 64, a, false, want, [], x.epoch, noJob, 0⟩] }).hostGo)) ∧
     (s.compMap ld (dpa / 64 * 64) = none → exec (.cxlMemRead ld dpa want) s =
       .next ((s.bump (ld / 16) Reg.CXH_UNMAPPED_CNT).memData ld (dpa / 64 * 64) true [])) ∧
     (∀ a, s.compMap ld (dpa / 64 * 64) = some a → s.withheld a = true → exec (.cxlMemRead ld dpa want) s =
       .next (s.memData ld (dpa / 64 * 64) true [])))) ∧
  -- CXL_MEM_WRITE
  (∀ (s : State) (ld dpa : Nat) (data : List Byte), s.released = true → ld < 32 → s.portCarries (ld / 16) = true → s.ldEnabled ld = true →
     s.ready cmpPage = true →
     ((∀ a, s.compMap ld dpa = some a → s.withheld a = false →
       s.writesBack ld a = false →
       exec (.cxlMemWrite ld dpa data) s = .next ((s.setCmp fun y =>
         { y with waiting := y.waiting ++ [⟨ld, dpa, a, true, 0, data.take (64 - dpa % 64), s.cmp.epoch, noJob, 0⟩] }).hostGo)) ∧
     (s.compMap ld dpa = none → exec (.cxlMemWrite ld dpa data) s = .next ((s.bump (ld / 16) Reg.CXH_UNMAPPED_CNT).memCmp ld dpa)) ∧
     (∀ a, s.compMap ld dpa = some a → s.withheld a = true → exec (.cxlMemWrite ld dpa data) s =
       .next ((s.bump (ld / 16) Reg.CXH_DISCARD_WR_CNT).memCmp ld dpa)))) ∧
  -- CXL_MEM_READ, CXL_MEM_WRITE
  (∀ (s : State) (ld dpa want : Nat) (data : List Byte), s.released = true → ld < 32 → s.portCarries (ld / 16) = true →
     s.ldEnabled ld = true → s.ready cmpPage = false →
     let d := dpa / 64 * 64
     exec (.cxlMemRead ld dpa want) s =
       .next (s.setCmp fun y => { y with later := y.later ++ [⟨ld, d, 0, false, want, [], 0, noJob, 0⟩] }) ∧
     ((s.compMap ld dpa).any (s.writesBack ld) = false → exec (.cxlMemWrite ld dpa data) s = .next (s.setCmp fun y =>
       { y with later := y.later ++ [⟨ld, dpa, 0, true, 0, data.take (64 - dpa % 64), 0, noJob, 0⟩] }))) ∧
  -- CXL_MEM_WRITE
  (∀ (s : State) (ld dpa a : Nat) (data : List Byte), s.released = true → ld < 32 → s.portCarries (ld / 16) = true →
     s.ldEnabled ld = true → s.compMap ld dpa = some a → s.withheld a = false → s.writesBack ld a = true →
     let x : HostAccess := ⟨ld, dpa, a, true, 0, data.take (64 - dpa % 64), s.cmp.epoch, noJob, 0⟩
     exec (.cxlMemWrite ld dpa data) s =
       .next ((s.setCmp fun y => { y with waiting := y.waiting ++ [x] }).hostServe x (s.cmp.filter.at (a / 64)))) ∧
  -- CXL_MEM_READ, CXL_MEM_WRITE
  (∀ (s : State) (ld dpa want : Nat) (data : List Byte), s.released = true → ld < 32 → s.portCarries (ld / 16) = true →
     s.ldEnabled ld = false → exec (.cxlMemRead ld dpa want) s = .next (s.emit (.msg "MEM_UR" [ld, dpa / 64 * 64] [])) ∧
     exec (.cxlMemWrite ld dpa data) s = .next (s.emit (.msg "MEM_UR" [ld, dpa] []))) ∧
  -- BIRSP
  (∀ (s : State) (ld line : Nat) (x : BiSnp), (s.cmp.snoops.find? fun x => x.ld == ld && x.line == line) = some x →
     exec (.birsp ld line 0) s = .next ((s.setCmp fun y =>
       { y with snoops := y.snoops.erase x, filter := y.filter.set line ((s.cmp.filter.at line).without ld) }).snoopsDone)) ∧
  -- BIRSP
  (∀ (s : State) (ld line keeps : Nat) (x : BiSnp), (s.cmp.snoops.find? fun x => x.ld == ld && x.line == line) = some x →
     x.inv = false → keeps ≠ 0 → (s.cmp.filter.at line).holdA = some ld →
     let e : BifEntry := { s.cmp.filter.at line with holdA := none, holdS := (s.cmp.filter.at line).holdS ++ [ld] }
     exec (.birsp ld line keeps) s =
       .next ((s.setCmp fun y => { y with snoops := y.snoops.erase x, filter := y.filter.set line e }).snoopsDone)) ∧
  -- BI_TIMEOUT
  (∀ (s : State) (ld t : Nat), s.biDue ld = some t →
     exec (.biTimeout ld) s = .next (((s.passToNow t).bump (ld / 16) Reg.CXH_BI_TIMEOUT_CNT).contain ld 1)) ∧
  -- LD_RESET
  (∀ (s : State) (ld : Nat), ld < 32 → exec (.ldReset ld) s = .next ((s.contain ld 2).updLd ld fun x => { x with msix := false })) ∧
  -- HOST_PORT_FAULT
  (∀ (s : State) (p : Nat), p < 2 →
     (let t := (s.setCmp fun x => { x with
       waiting := x.waiting.filter fun y => y.ld / 16 != p, later := x.later.filter fun y => y.ld / 16 != p }).updPort p fun x =>
       { x with linkUp := false, speed := 0, width := 0, ideIo := false, ideCm := false }
     let go := fun (k : Nat) => (((t.each (((List.range 16).map fun k => 16 * p + k).filter s.ldAtWork) fun s n =>
       (s.contain n 3).updLd n fun x => { x with msix := false }).cutT2 p).bump p Reg.CXH_PORT_RESET_CNT).evtPriv (cxhPage p) 1 0xC1 k p
     exec (.hostPortFault p .linkLoss) s = .next (go 1) ∧ exec (.hostPortFault p .linkError) s = .next (go 2) ∧
     exec (.hostPortFault p .ideFailure) s = .next (go 3))) ∧
  -- LINK_UP
  (∀ (s : State) (p v w : Nat), p < 2 → v < 4 → (w = 8 ∨ w = 16) →
     exec (.linkUp p v w) s = .next (s.updPort p fun x => { x with linkUp := true, speed := v, width := w }))

/-- Shared regions are set, queried and published, and configuration and DOE requests are answered. SHARE_SET, SHARE_QUERY,
PUBLISH, CONFIGURATION_REQUEST, DOE_DISCOVERY and CDAT_READ answer the next state written out. The model's own readings of log
entry 29 enter here. (spec/14_host_port.md.) -/
def Obligations.SharesAndConfigurationAnswerHosts : Prop :=
  -- SHARE_SET
  (∀ (s0 s : State) (c n : Nat) (cmd : Cmd), nfld (recNat cmd.payload 0 2) 9 0 = n → (s.share n).valid = false →
     s0.occupy c 0 cmd = s → s.holdsCmd c 0 cmd = true →
     exec (.shareSet c cmd) s0 = .next ((s.setCmp fun x =>
       { x with shares := x.shares.set n ⟨true, s.tenant c cmd.job, 0, 0, 0, recNat cmd.payload 8 8⟩ }).complete c cmd 0)) ∧
  -- SHARE_SET
  (∀ (s0 s : State) (c n : Nat) (cmd : Cmd), nfld (recNat cmd.payload 0 2) 9 0 = n → (s.share n).valid = true →
     s0.occupy c 0 cmd = s → s.holdsCmd c 0 cmd = true → exec (.shareSet c cmd) s0 = .next (s.complete c cmd 0x0A)) ∧
  -- SHARE_QUERY
  (∀ (s0 s : State) (c n : Nat) (cmd : Cmd), nfld (recNat cmd.payload 0 2) 9 0 = n → s0.occupy c 0 cmd = s → s.holdsCmd c 0 cmd = true →
     (s.shareOk c cmd n = true → exec (.shareQuery c cmd) s0 = .next (s.complete c cmd 0
       (leBytes 8 (s.share n).version ++ leBytes 8 (s.share n).liveAddr ++ leBytes 8 (s.share n).liveLen))) ∧
     (s.shareOk c cmd n = false → exec (.shareQuery c cmd) s0 = .next (s.complete c cmd 0xC1))) ∧
  -- PUBLISH
  (∀ (s0 s : State) (c n : Nat) (cmd : Cmd), nfld (recNat cmd.payload 0 2) 9 0 = n →
     (let p : PendingPublish :=
       { ch := c, cmd := cmd, share := n, expect := recNat cmd.payload 8 8, new := recNat cmd.payload 0x10 8,
         addr := recNat cmd.payload 0x18 8, len := recNat cmd.payload 0x20 8 }
     s0.occupy c 0 cmd = s → s.holdsCmd c 0 cmd = true → s.shareOk c cmd n = true → p.new ≠ p.expect → s.rangeInRegion c cmd.job p.addr p.len false = true →
     exec (.publish c cmd) s0 = .next (((s.handOver c cmd).setCmp fun x => { x with publishes := x.publishes ++ [p] }).publishGo))) ∧
  -- PUBLISH
  (∀ (s0 s : State) (c n : Nat) (cmd : Cmd), nfld (recNat cmd.payload 0 2) 9 0 = n → s0.occupy c 0 cmd = s → s.holdsCmd c 0 cmd = true →
     s.shareOk c cmd n = false → exec (.publish c cmd) s0 = .next (s.complete c cmd 0xC1)) ∧
  -- CONFIGURATION_REQUEST
  (∀ (s : State) (ld : Nat), ld < 32 →
     (s.released = false → ∀ m, exec (.configurationRequest ld m) s = .next (s.emit (.msg "CFG_RETRY" [ld] []))) ∧
     (s.released = true → s.ldEnabled ld = false → ∀ m, exec (.configurationRequest ld m) s = .next (s.emit (.msg "CFG_UR" [ld] []))) ∧
     (s.released = true → s.ldEnabled ld = true → exec (.configurationRequest ld none) s = .next (s.emit (.msg "CFG_CPL" [ld] [])) ∧
       ∀ b, exec (.configurationRequest ld (some b)) s = .next ((s.updLd ld fun x =>
         { x with msix := b, contained := x.contained && !b }).emit (.msg "CFG_CPL" [ld] [])))) ∧
  -- DOE_DISCOVERY
  (∀ (s : State) (ld i : Nat), s.doeUp ld = true → i < 4 →
     exec (.doeDiscovery ld i) s = .next (s.emit (.msg "DOE_PROTOCOL" [ld, i, (i + 1) % 4] []))) ∧
  -- CDAT_READ
  (∀ (s : State) (ld : Nat), s.doeUp ld = true →
     exec (.cdatRead ld) s = .next (s.emit (.msg "CDAT" (ld :: (List.range 8).flatMap cdatOf) [])))

/-- Attestation requests are answered in their order, and an unexpected one by an error. GET_VERSION, GET_CAPABILITIES,
NEGOTIATE_ALGORITHMS, GET_DIGESTS, GET_CERTIFICATE, CHALLENGE, GET_MEASUREMENTS and KEY_EXCHANGE answer the response written
out when they come in order, and otherwise the error. The model's own readings of log entry 31 enter here.
(spec/14_host_port.md, spec/16_boot_and_trust.md.) -/
def Obligations.AttestationRequestsAreAnsweredInOrder : Prop :=
  -- GET_VERSION
  (∀ (s : State) (t : Nat), s.spdmUp t = true → exec (.getVersion t) s = .next ((s.updSpdm t fun x =>
     { x with gotVersion := true, gotCaps := false, negotiated := false, version := 0 }).spdmSay "SPDM_VERSION" t [0x12, 0x13] [])) ∧
  -- GET_CAPABILITIES
  (∀ (s : State) (t v : Nat), s.spdmUp t = true → (s.spdm t).gotVersion = true → (v = 0x12 ∨ v = 0x13) →
     exec (.getCapabilities t v) s = .next ((s.updSpdm t fun x => { x with gotCaps := true, version := v }).spdmSay "SPDM_CAPABILITIES" t [v] [])) ∧
  -- NEGOTIATE_ALGORITHMS
  (∀ (s : State) (t : Nat) (o : List Bool), s.spdmUp t = true → (s.spdm t).gotCaps = true → 4 ≤ o.length → (o.take 4).contains false = false →
     exec (.negotiateAlgorithms t o) s = .next ((s.updSpdm t fun x => { x with negotiated := true }).spdmSay "SPDM_ALGORITHMS" t [1, 1, 1, 1] [])) ∧
  -- GET_CAPABILITIES, NEGOTIATE_ALGORITHMS
  (∀ (s : State) (t v : Nat) (o : List Bool), s.spdmUp t = true →
     ((s.spdm t).gotVersion = false → exec (.getCapabilities t v) s = .next (s.spdmError t "SPDM_UNEXPECTED_REQUEST")) ∧
     ((s.spdm t).gotCaps = false → exec (.negotiateAlgorithms t o) s = .next (s.spdmError t "SPDM_UNEXPECTED_REQUEST"))) ∧
  -- GET_DIGESTS, GET_CERTIFICATE, CHALLENGE
  (∀ (s : State) (t off len : Nat), s.spdmUp t = true → (s.spdm t).negotiated = true →
     exec (.getDigests t 0) s = .next (s.spdmSay "SPDM_DIGESTS" t [0] (sha256 s.certChain)) ∧
     (let d := (s.certChain.drop off).take len
     exec (.getCertificate t 0 off len) s =
       .next (s.spdmSay "SPDM_CERTIFICATE" t [0, off, d.length, s.certChain.length - off - d.length] d)) ∧
     exec (.challenge t 0) s = .next (s.signed.2.spdmSay "SPDM_CHALLENGE_AUTH" t [0] (sha256 s.certChain ++ s.signed.1))) ∧
  -- GET_MEASUREMENTS
  (∀ (s : State) (t : Nat), s.spdmUp t = true → (s.spdm t).negotiated = true →
     exec (.getMeasurements t 0 false) s = .next (s.spdmSay "SPDM_MEASUREMENTS" t [s.measured.length]
       (((s.measured.filter fun i => i == 0)).flatMap (fun i => s.sec.meas.at i) ++ [])) ∧
     exec (.getMeasurements t 0xFF true) s = .next (if s.measured = [] then s.spdmError t "SPDM_INVALID_REQUEST" else
       s.signed.2.spdmSay "SPDM_MEASUREMENTS" t s.measured (s.measured.flatMap (fun i => s.sec.meas.at i) ++ s.signed.1)) ∧
     ∀ i, i ≠ 0 → i ≠ 0xFF → (s.measured.filter fun k => k == i) ≠ [] →
       exec (.getMeasurements t i false) s = .next (s.spdmSay "SPDM_MEASUREMENTS" t (s.measured.filter fun k => k == i)
         ((s.measured.filter fun k => k == i).flatMap (fun i => s.sec.meas.at i) ++ []))) ∧
  -- GET_DIGESTS, GET_CERTIFICATE, CHALLENGE, GET_MEASUREMENTS, KEY_EXCHANGE
  (∀ (s : State) (t a off len r : Nat) (b : Bool), s.spdmUp t = true → (s.spdm t).negotiated = false →
     let e : Host.Outcome State Fault Refusal := .next (s.spdmError t "SPDM_UNEXPECTED_REQUEST")
     exec (.getDigests t a) s = e ∧ exec (.getCertificate t a off len) s = e ∧ exec (.challenge t a) s = e ∧
     exec (.getMeasurements t a b) s = e ∧ exec (.keyExchange t a r) s = e)

/-- Secure sessions are opened, finished, keyed and ended, and carry the stream keys. KEY_EXCHANGE, FINISH, END_SESSION and
KEY_UPDATE answer the next state of the session, and IDE_KM of the stream whose keys it programs, starts, starts in skid mode or
stops, written out. The model's own readings of log entries 29, 31 enter here. (spec/14_host_port.md,
spec/16_boot_and_trust.md.) -/
def Obligations.SessionsAreOpenedKeyedAndEnded : Prop :=
  -- KEY_EXCHANGE
  (∀ (s : State) (t r : Nat), s.spdmUp t = true → (s.spdm t).negotiated = true →
     (s.placeSessions (spdmPlace t)).length < placeLimit (spdmPlace t) →
     (let id := r % 65536 + 65536 * s.freeSession (spdmPlace t)
     exec (.keyExchange t 0 r) s = .next ((s.signed.2.updSpdm t fun x =>
       { x with sessions := x.sessions ++ [⟨id, false, 0⟩] }).spdmSay "SPDM_KEY_EXCHANGE_RSP" t [id] s.signed.1))) ∧
  -- KEY_EXCHANGE
  (∀ (s : State) (t r : Nat), s.spdmUp t = true → (s.spdm t).negotiated = true →
     placeLimit (spdmPlace t) ≤ (s.placeSessions (spdmPlace t)).length → exec (.keyExchange t 0 r) s = .next (s.spdmError t "SPDM_BUSY")) ∧
  -- FINISH
  (∀ (s : State) (t k : Nat), s.spdmUp t = true → (s.spdm t).negotiated = true →
     ((s.spdm t).sessions.any fun x => x.id == k && x.established == false) = true →
     exec (.finish t k) s = .next ((s.updSession t k fun x => { x with established := true }).spdmSay "SPDM_FINISH_RSP" t [k] [])) ∧
  -- END_SESSION, KEY_UPDATE
  (∀ (s : State) (t k : Nat), s.spdmUp t = true → (s.spdm t).negotiated = true →
     ((s.spdm t).sessions.any fun x => x.id == k && x.established == true) = true →
     exec (.endSession t k) s = .next ((s.updSpdm t fun x => { x with sessions := x.sessions.filter fun y => y.id != k }).spdmSay
       "SPDM_END_SESSION_ACK" t [k] []) ∧
     exec (.keyUpdate t k) s = .next ((s.updSession t k fun x => { x with keyGen := x.keyGen + 1 }).spdmSay "SPDM_KEY_UPDATE_ACK" t [k] [])) ∧
  -- IDE_KM
  (∀ (s : State) (ld k : Nat), ld < 32 → s.spdmUp ld = true → (s.spdm ld).negotiated = true →
     ((s.spdm ld).sessions.any fun x => x.id == k && x.established == true) = true →
     (let say := fun (s : State) (b : Bool) => (s.spdmSay "IDE_KM_ACK" ld [k, b2n b] []).hostGo
     exec (.ideKm ld k .program true) s = .next (say (s.updPort (ld / 16) fun x => { x with ioKeys := true }) true) ∧
     exec (.ideKm ld k .program false) s = .next (say (s.updPort (ld / 16) fun x => { x with cmKeys := true }) false) ∧
     exec (.ideKm ld k .start true) s = .next (say (s.updPort (ld / 16) fun x => { x with ideIo := x.ioKeys && x.linkUp }) true) ∧
     exec (.ideKm ld k .startSkid true) s = .next (say (s.updPort (ld / 16) fun x => { x with ideIo := x.ioKeys && x.linkUp }) true) ∧
     exec (.ideKm ld k .start false) s =
       .next (say (s.updPort (ld / 16) fun x => { x with ideCm := x.cmKeys && x.linkUp, skid := false }) false) ∧
     exec (.ideKm ld k .startSkid false) s =
       .next (say (s.updPort (ld / 16) fun x => { x with ideCm := x.cmKeys && x.linkUp, skid := true }) false) ∧
     exec (.ideKm ld k .stop true) s = .next (say (s.updPort (ld / 16) fun x => { x with ideIo := false }) true) ∧
     exec (.ideKm ld k .stop false) s = .next (say (s.updPort (ld / 16) fun x => { x with ideCm := false }) false))) ∧
  -- FINISH, END_SESSION, KEY_UPDATE, IDE_KM
  (∀ (s : State) (t k : Nat) (step : IdeStep) (io : Bool), t < 32 → s.spdmUp t = true → (s.spdm t).negotiated = true →
     ((s.spdm t).sessions.any fun x => x.id == k) = false →
     let e : Host.Outcome State Fault Refusal := .next (s.spdmError t "SPDM_SESSION_REQUIRED")
     exec (.finish t k) s = e ∧ exec (.endSession t k) s = e ∧ exec (.keyUpdate t k) s = e ∧ exec (.ideKm t k step io) s = e)

/-- Mailboxes take message words, hand them over, and are emptied, acknowledged and routed. MB_DATA_WRITE, MB_GO, MBX_RX_SEQ_READ,
EMPTY, CLR_COLLISION, MBX_RX_ACK and MBX_ROUTE_WRITE answer the next state written out. The model's own readings of log entry
30 enter here. (spec/15_mailboxes.md.) -/
def Obligations.MailboxesHoldMessagesAndAnswerThem : Prop :=
  -- MB_DATA_WRITE
  (∀ (s : State) (rq : Requester) (box off : Nat) (v : Word), s.seesBox rq box = true → off % 4 = 0 → off / 4 < boxWords box →
     (s.box box).full = false →
     exec (.mbDataWrite rq box off v) s = .next (s.updBox box fun b => { b with data := b.data.set (off / 4) v })) ∧
  -- MB_DATA_WRITE
  (∀ (s : State) (rq : Requester) (box off : Nat) (v : Word), s.seesBox rq box = true → off % 4 = 0 → off / 4 < boxWords box →
     (s.box box).full = true →
     exec (.mbDataWrite rq box off v) s = .next ((s.updBox box fun b => { b with data := b.data.set (off / 4) v }).collide box)) ∧
  -- MB_GO
  (∀ (s : State) (rq : Requester) (n : Nat) (p : Option Nat), s.seesBox rq n = true → s.rdB 0 Reg.MBX_CFG 0 = true → s.ready mbxPage = true →
     (s.box n).full = false →
     exec (.mbGo rq n p) s = .next ((((s.senderOf rq n p).2.updBox n fun b =>
       { b with seq := (b.seq + 1) % 2 ^ 16, sender := (s.senderOf rq n p).1, full := true, ackValid := false }).bump 0
         Reg.MBX_MSG_CNT).wakeCore (s.routeOf n))) ∧
  -- MBX_RX_SEQ_READ
  (∀ (s : State) (rq : Requester) (n : Nat), s.canRead rq mbxPage = true → s.rdF 0 Reg.MBX_RX_SEL 10 0 = n → n < 1088 →
     exec (.mbxRxSeqRead rq) s = .next ((s.latchBox n).emit (.readData ((s.latchBox n).rd 0 Reg.MBX_RX_SEQ)))) ∧
  -- EMPTY
  (∀ (s : State) (rq : Requester) (n seq sender : Nat), s.reachesReg rq 0 Reg.MBX_RX_CTRL = true → s.mbx.latch = some (n, seq, sender) →
     n < 1024 → (s.box n).seq = seq → (s.box n).full = true →
     exec (.empty rq) s = .next (((s.setMbx fun x => { x with latch := none }).emptyBox n).boxIrq n sender)) ∧
  -- EMPTY
  (∀ (s : State) (rq : Requester), s.reachesReg rq 0 Reg.MBX_RX_CTRL = true → s.mbx.latch = none →
     exec (.empty rq) s = .next (s.logIgnored mbxPage 0x10C 1)) ∧
  -- CLR_COLLISION
  (∀ (s : State) (rq : Requester) (n : Nat), s.reachesReg rq 0 Reg.MBX_RX_CTRL = true → s.rdF 0 Reg.MBX_RX_SEL 10 0 = n → n < 1088 →
     exec (.clrCollision rq) s = .next (s.updBox n fun b => { b with collision := false })) ∧
  -- MBX_RX_ACK
  (∀ (s : State) (rq : Requester) (v : Word) (n seq sender : Nat), s.reachesReg rq 0 Reg.MBX_RX_ACK = true →
     s.mbx.latch = some (n, seq, sender) → 1024 ≤ n → (s.box n).seq = seq → (s.box n).full = true →
     exec (.mbxRxAck rq v) s = .next (((((s.setMbx fun x => { x with latch := none }).updBox n fun b =>
       { b with ack := lo32 (fld v 15 0 + fieldAt 16 16 seq), ackValid := true }).emptyBox n)).boxIrq n sender)) ∧
  -- MBX_ROUTE_WRITE
  (∀ (s : State) (rq : Requester) (v : Word) (n : Nat), s.reachesReg rq 0 Reg.MBX_ROUTE = true → s.rdF 0 Reg.MBX_ROUTE_SEL 10 0 = n → n < 1088 →
     s.routable (fld v 4 0) = true → exec (.mbxRouteWrite rq v) s = .next (s.setRoute n (fld v 4 0)))

/-- From power-good to release: fuses, image, signature, memory training. POWER_GOOD, POWER_LOSS, FUSES_LOADED, LOAD_BOOT_IMAGE,
BOOT_IMAGE_DONE, BOOT_IMAGE_TIMEOUT, IMAGE_RECEIVED, LOAD_PHASE_DONE and TRAINING_DONE answer the next state written out for
the boot phase each is for. The model's own readings of log entries 5, 40 enter here. (spec/16_boot_and_trust.md,
spec/17_module_power_clocks.md.) -/
def Obligations.PowerRisesFusesLoadAndImagesAreChecked : Prop :=
  -- POWER_GOOD
  (∀ (s : State) (sel : Bool), s.boot.pwrGood = false → s.psq.tripped = false →
     (let t := s.setBoot fun b => { b with pwrGood := true, goodAt := s.tim.now, phase := .fuses }
     exec (.powerGood sel) s = .next { t with psq := { t.psq with regsOff := false }, clk := { t.clk with sysrefSel := sel } })) ∧
  -- POWER_LOSS
  (∀ (s : State), exec .powerLoss s = .next (State.alertEdge s s.cold)) ∧
  -- FUSES_LOADED
  (∀ (s : State) (f : Fuses) (cxl : Bool), s.boot.pwrGood = true → s.boot.phase = .fuses →
     (let g := if s.boot.fused then s.boot.fuses else f
     exec (.fusesLoaded f cxl) s = .next ((((((s.setBoot fun b =>
       { b with fuses := g, fused := true, chanMask := g.chanMask % 65536 }).fuseRegs.setSec fun x =>
       { x with idReady := true }).measure 1 (sha256 Config.bootRom)).measureHw).romStart cxl)))) ∧
  -- LOAD_BOOT_IMAGE
  (∀ (s : State) (off : Nat) (d : List Byte), s.boot.phase = .image → s.boot.srcCxl = true →
     (d.length ≤ 4096 → overlaps s.boot.chunks off d.length = false →
       exec (.loadBootImage off d) s = .next ((s.setBoot fun b => { b with chunks := b.chunks.set off d }).emit (.msg "FM_SUCCESS" [off] []))) ∧
     (4096 < d.length ∨ overlaps s.boot.chunks off d.length = true →
       exec (.loadBootImage off d) s = .next (s.emit (.msg "FM_INVALID_INPUT" [off] [])))) ∧
  -- BOOT_IMAGE_DONE
  (∀ (s : State), s.boot.phase = .image → s.boot.srcCxl = true → exec .bootImageDone s = .next (s.setBoot fun b => { b with phase := .verify })) ∧
  -- BOOT_IMAGE_TIMEOUT
  (∀ (s : State), s.boot.phase = .image → s.boot.srcCxl = true →
     exec .bootImageTimeout s = .next ((s.passToNow (s.boot.goodAt + 10000000000)).bootFail 6)) ∧
  -- IMAGE_RECEIVED
  (∀ (s : State), s.boot.phase = (if s.boot.srcCxl then .verify else .image) →
     exec (.imageReceived true) s = .next (s.bootFail 6) ∧
     (bootCheck s.boot.fuses s.gotImage = 0 →
       exec (.imageReceived false) s = .next (s.bootPass (s.gotImage.take (imgLen s.gotImage)))) ∧
     (∀ e, bootCheck s.boot.fuses s.gotImage = e + 1 → exec (.imageReceived false) s = .next (s.bootFail (e + 1)))) ∧
  -- LOAD_PHASE_DONE
  (∀ (s : State), s.boot.phase = .load →
     (let img := s.boot.image
     let recs := (imgOf img 2).flatMap fun e => (chunksOf 8 (e.len / 8) (imgSection img e)).filter fun r => r.length == 8
     let t := (s.each recs State.blkcfg).each (enabledCores s.boot.chanMask) fun s k =>
       (s.updCore k fun x => { x with st := .running, svn := imgSvn img }).measure (8 + k) (sha256 (imgFirmware img k))
     exec .loadPhaseDone s = .next ((t.each t.channels fun s c => (s.setDom (54 + c) .off).wake (54 + c)).setBoot fun b =>
       { b with phase := .train }))) ∧
  -- TRAINING_DONE
  (∀ (s : State) (bad : List Nat), s.boot.phase = .train → exec (.trainingDone bad) s = .next (s.releaseAll bad))

/-- The device is reset, its boot retried, and its firmware updated and swapped. WARM_RESET, MOD_RESET, BOOT_RETRY, SWAP_NOW,
FW_UPDATE, UPDATE_DRAINED, UPDATE_IMAGE_READ and FW_SELF_TEST_DONE answer the next state written out. The model's own readings
of log entry 40 enter here. (spec/16_boot_and_trust.md.) -/
def Obligations.ResetsAndUpdatesOfTheFirmware : Prop :=
  -- WARM_RESET
  (∀ (s : State) (rq : Requester), s.reachesReg rq 0 Reg.BOOT_CTRL = true → exec (.warmReset rq) s = .next s.warm) ∧
  -- MOD_RESET
  (∀ (s : State), s.boot.pwrGood = true → exec .modReset s = .next s.warm) ∧
  -- BOOT_RETRY
  (∀ (s : State) (rq : Requester) (cxl : Bool), s.reachesReg rq 0 Reg.BOOT_CTRL = true → (rq = .mgmt ∨ rq = .fm) → s.boot.phase = .failed →
     exec (.bootRetry rq cxl) s = .next (State.alertEdge s (s.romStart cxl))) ∧
  -- SWAP_NOW
  (∀ (s : State) (rq : Requester), s.reachesReg rq 0 Reg.BOOT_CTRL = true →
     ((s.tim.cad = .stopped ∨ s.tim.cad = .waiting) → exec (.swapNow rq) s = .next s.swapAll) ∧
     (s.tim.cad ≠ .stopped → s.tim.cad ≠ .waiting → exec (.swapNow rq) s = .next (s.logIgnored bootPage 0x104 4))) ∧
  -- FW_UPDATE
  (∀ (s : State) (rq : Requester) (k n x : Nat), s.reachesReg rq 0 Reg.BOOT_UPD_CMD = true → k < 20 → n < 32 →
     (s.updateOn (coreDie k)).isSome = false → (s.core k).st = .running → s.standinOf k n = .ok x →
     exec (.fwUpdate rq k n) s = .next (s.beginUpdate k x 1)) ∧
  -- FW_UPDATE
  (∀ (s : State) (rq : Requester) (k n : Nat), s.reachesReg rq 0 Reg.BOOT_UPD_CMD = true → k < 32 → n < 32 →
     (s.updateOn (coreDie k)).isSome = true → exec (.fwUpdate rq k n) s = .next (s.updResult 1 0)) ∧
  -- UPDATE_DRAINED
  (∀ (s : State) (k : Nat) (u : CoreUpdate), s.updateOn (coreDie k) = some u → u.core = k → u.step = 1 →
     (u.standin ≠ k → exec (.updateDrained k) s = .next (((s.takeDuties k u.standin).updCore k fun x => { x with st := .drained }).setUpdate
       (coreDie k) (some { u with step := 2 }))) ∧
     (u.standin = k → exec (.updateDrained k) s = .next ((s.updCore k fun x => { x with st := .drained }).setUpdate
       (coreDie k) (some { u with step := 2 })))) ∧
  -- UPDATE_IMAGE_READ
  (∀ (s : State) (k : Nat) (u : CoreUpdate), s.updateOn (coreDie k) = some u → u.core = k → u.step = 2 →
     let t := s.touch noJob u.addr u.len
     exec (.updateImageRead k true) s = .next (t.updateFail k 6) ∧
     (t.vpoison u.addr u.len = false → updateCheck t.boot.fuses k (t.vread u.addr u.len) = 0 →
       exec (.updateImageRead k false) s = .next ((t.updCore k fun x => { x with st := .updating }).setUpdate (coreDie k)
         (some { u with step := 3, svn := imgSvn (t.vread u.addr u.len), hash := sha256 (imgFirmware (t.vread u.addr u.len) k) }))) ∧
     (∀ e, t.vpoison u.addr u.len = false → updateCheck t.boot.fuses k (t.vread u.addr u.len) = e + 1 →
       exec (.updateImageRead k false) s = .next (t.updateFail k (e + 1)))) ∧
  -- FW_SELF_TEST_DONE
  (∀ (s : State) (k : Nat) (u : CoreUpdate), s.updateOn (coreDie k) = some u → u.core = k → u.step = 3 →
     exec (.fwSelfTestDone k) s = .next ((((((s.setUpdate (coreDie k) none).updCore k fun x =>
       { x with st := .running, svn := u.svn }).giveBack k u.standin).measure (8 + k) u.hash).updResult 0 0).evtPriv bootPage 0 0xD0 0
         (fieldAt 0 5 k + fieldAt 32 7 u.svn)))

/-- Channels leave service, retrain and return; flash and fuses are written. OUT, RETRAIN, RETRAIN_DONE, IN, NOR_READ,
NOR_PROGRAM, NOR_ERASE, SVN_BURN and KEY_REVOKE answer the next state written out, or record why they are refused. The model's
own readings of log entries 32, 40 enter here. (spec/16_boot_and_trust.md.) -/
def Obligations.ChannelsLeaveAndReturnAndFlashIsKept : Prop :=
  -- OUT
  (∀ (s : State) (rq : Requester) (c : Nat), s.reachesReg rq 0 Reg.BOOT_CH_CMD = true → c < 16 → s.enabledCh c = true → s.chSvc c = .inService →
     (s.canGoOut c = true → exec (.chOut rq c) s = .next (s.startOut c)) ∧
     (s.canGoOut c = false → exec (.chOut rq c) s = .next (s.chResult 1))) ∧
  -- RETRAIN
  (∀ (s : State) (rq : Requester) (c : Nat), s.reachesReg rq 0 Reg.BOOT_CH_CMD = true → c < 16 → s.enabledCh c = true → s.chSvc c = .out →
     exec (.retrain rq c) s = .next (((((s.chResult 0).setChSvc c .retraining).setDom (54 + c) .off).wake (54 + c)).loseT1 c)) ∧
  -- RETRAIN_DONE
  (∀ (s : State) (c : Nat), s.chSvc c = .retraining →
     exec (.retrainDone c true) s = .next ((s.setChSvc c .out).setDom (54 + c) .on) ∧
     exec (.retrainDone c false) s = .next (((s.setChSvc c .out).setDom (54 + c) .off).evtPriv bootPage 2 0xD2 2 c)) ∧
  -- IN
  (∀ (s : State) (rq : Requester) (c : Nat), s.reachesReg rq 0 Reg.BOOT_CH_CMD = true → c < 16 → s.enabledCh c = true → s.chSvc c = .out →
     exec (.chIn rq c) s = .next (s.startIn c)) ∧
  -- OUT, RETRAIN, IN
  (∀ (s : State) (rq : Requester) (c : Nat), s.reachesReg rq 0 Reg.BOOT_CH_CMD = true → c < 16 → s.enabledCh c = false →
     exec (.chOut rq c) s = .next (s.chResult 2) ∧ exec (.retrain rq c) s = .next (s.chResult 2) ∧ exec (.chIn rq c) s = .next (s.chResult 2)) ∧
  -- NOR_READ
  (∀ (s : State) (rq : Requester), s.reachesReg rq 0 Reg.BOOT_NOR_CMD = true →
     exec (.norRead rq) s = .next ((s.norRefuse false).each ((wordsOf (s.norRead s.norAddr 256)).zipIdx) fun s w =>
       s.wrAt bootPage (0x200 + 4 * w.2) w.1)) ∧
  -- NOR_PROGRAM
  (∀ (s : State) (rq : Requester), s.reachesReg rq 0 Reg.BOOT_NOR_CMD = true →
     (inChain s.norAddr 256 = false → exec (.norProgram rq) s = .next ((s.norRefuse false).norWrite s.norAddr s.norWindow)) ∧
     (inChain s.norAddr 256 = true → exec (.norProgram rq) s = .next (s.norRefuse true))) ∧
  -- NOR_ERASE
  (∀ (s : State) (rq : Requester), s.reachesReg rq 0 Reg.BOOT_NOR_CMD = true →
     (65536 * (s.norAddr / 65536) < chainBase → exec (.norErase rq) s = .next ((s.norRefuse false).setBoot fun x =>
       { x with nor := x.nor.filter fun e => e.1 / 65536 != s.norAddr / 65536 })) ∧
     (chainBase ≤ 65536 * (s.norAddr / 65536) → exec (.norErase rq) s = .next (s.norRefuse true))) ∧
  -- SVN_BURN
  (∀ (s : State) (rq : Requester) (v : Nat), s.reachesReg rq 0 Reg.SEC_SVN_BURN = true → mayBurn rq = true → v < 128 →
     s.boot.fuses.svn < v → (s.runningCores.all fun k => decide ((s.core k).svn < v)) = false →
     exec (.svnBurn rq v) s = .next (((s.setFuses fun f => { f with svn := v }).measureHw).evt secPage 1)) ∧
  -- KEY_REVOKE
  (∀ (s : State) (rq : Requester) (m : Nat), s.reachesReg rq 0 Reg.SEC_KEY_REVOKE = true → mayBurn rq = true → m < 16 →
     (m.testBit s.sec.keySlot = false → exec (.keyRevoke rq m) s =
       .next ((s.setFuses fun f => { f with keyRevoke := f.keyRevoke ||| m }).evt secPage 2)) ∧
     (m.testBit s.sec.keySlot = true → exec (.keyRevoke rq m) s = .next s))

/-- The power sequencer samples, throttles, trips and gives domains their power. TOKEN_TICK, DOMAIN_RAMP_DONE, ARRAY_IDLE_EXPIRY,
CORE_WAIT_FOR_INTERRUPT, SENSOR_SAMPLE, POWER_AVERAGE, THROTTLE_STEP_DOWN, THROT_FORCE_WRITE, THERMTRIP, VIN_WARN and
VIN_FAULT answer the next state written out. The model's own readings of log entries 1, 10 enter here.
(spec/17_module_power_clocks.md.) -/
def Obligations.PowerSequencerSamplesAndThrottles : Prop :=
  -- TOKEN_TICK
  (∀ (s : State), let t := s.passToNow (s.psq.lastToken + 5000)
     exec .tokenTick s = .next (t.setPsq fun p => { p with lastToken := t.tim.now, spent := p.spent - 1 }).grantQueued) ∧
  -- DOMAIN_RAMP_DONE
  (∀ (s : State) (d : Nat), s.domSt d = .ramping → let t := (s.passToNow ((s.psq.doms.at d).since + 2000)).setDom d .on
     (domCore d = none → exec (.domainRampDone d) s = .next t) ∧
     (∀ k, domCore d = some k → exec (.domainRampDone d) s = .next (t.emit (.coreNotice k "woken")))) ∧
  -- ARRAY_IDLE_EXPIRY
  (∀ (s : State) (c : Nat), s.enabledCh c = true → s.pdEn = true → s.domSt c = .on → ((s.ch c).jsc.engines.at 1).holder = none →
     exec (.arrayIdleExpiry c) s = .next ((s.passToNow (max ((s.ch c).jsc.engines.at 1).since (s.psq.doms.at c).since +
       s.rdF 0 Reg.PSQ_CFG 31 16 * 1000)).idleDown c)) ∧
  -- CORE_WAIT_FOR_INTERRUPT
  (∀ (s : State) (k : Nat), k < 22 → s.pdEn = true → s.domSt (coreDom k) = .on →
     exec (.coreWaitForInterrupt k) s = .next (s.idleDown (coreDom k))) ∧
  -- SENSOR_SAMPLE
  (∀ (s : State) (temps : List Nat) (mw mv ma : Nat), let t := s.passToNow (s.psq.lastSample + 10000)
     let u := (t.setPsq fun p => { p with lastSample := t.tim.now, temps := (temps.take 36).zipIdx.foldl (fun m x => m.set x.2 (x.1 % 4096)) p.temps }).accountThrot
     let v := ((u.wr 0 Reg.PSQ_VIN (lo32 mv)).wr 0 Reg.PSQ_IIN (lo32 ma)).wr 0 Reg.PSQ_TJ (lo32 u.tj)
     exec (.sensorSample temps mw mv ma) s = .next ((v.updateTj.updateStack.samplePower mw).raiseLevel.setPsq fun p =>
       { p with hotSince := if 880 ≤ v.tj then some (p.hotSince.getD v.tim.now) else none })) ∧
  -- POWER_AVERAGE
  (∀ (s : State), s.psq.samples ≠ 0 →
     (let a := s.psq.sampleSum / s.psq.samples
     let t := s.passToNow (s.psq.lastAverage + 1000000)
     let u := (t.setPsq fun p => { p with lastAverage := t.tim.now, samples := 0, sampleSum := 0 }).wr 0 Reg.PSQ_PIN (lo32 a)
     (s.pwrLimit * s.psq.samples < s.psq.sampleSum →
       exec .powerAverage s = .next ((u.setPowerDemand (min 3 (s.psq.powerDemand + 1))).raiseLevel)) ∧
     (s.psq.sampleSum ≤ s.pwrLimit * s.psq.samples → s.psq.sampleSum * 100 < s.pwrLimit * 95 * s.psq.samples →
       exec .powerAverage s = .next (u.setPowerDemand (s.psq.powerDemand - 1))) ∧
     (s.psq.sampleSum ≤ s.pwrLimit * s.psq.samples → s.pwrLimit * 95 * s.psq.samples ≤ s.psq.sampleSum * 100 →
       exec .powerAverage s = .next u))) ∧
  -- THROTTLE_STEP_DOWN
  (∀ (s : State), let t := s.passToNow (s.psq.lastFall + 100000)
     let u := t.setPsq fun p => { p with lastFall := t.tim.now }
     (u.wantedLevel < u.psq.level → exec .throttleStepDown s = .next (u.setLevel (u.psq.level - 1))) ∧
     (u.psq.level ≤ u.wantedLevel → exec .throttleStepDown s = .next u)) ∧
  -- THROT_FORCE_WRITE
  (∀ (s : State) (rq : Requester) (v : Word), s.reachesReg rq 0 Reg.PSQ_THROT_FORCE = true →
     exec (.throtForceWrite rq v) s = .next ((s.store 0 Reg.PSQ_THROT_FORCE v).raiseLevel)) ∧
  -- THERMTRIP
  (∀ (s : State) (t : Nat), s.tripAt = some t → let u := (s.passToNow t).emit (.pin "THERMTRIP_N" false)
     exec .thermtrip s = .next (State.alertEdge u (u.setPsq fun p => { p with tripped := true })).regsDown) ∧
  -- VIN_WARN
  (∀ (s : State) (mv : Nat), s.boot.pwrGood = true → (42000 ≤ mv ∧ mv < 44000 ∨ 58000 < mv ∧ mv ≤ 60000) →
     exec (.vinWarn mv) s = .next ((s.wr 0 Reg.PSQ_VIN (lo32 mv)).evt psqPage 5)) ∧
  -- VIN_FAULT
  (∀ (s : State) (mv : Nat), (mv < 42000 → exec (.vinFault mv) s = .next s.regsDown.endTrip) ∧
     (60000 < mv → exec (.vinFault mv) s = .next s.regsDown))

/-- Reference clocks are lost and restored, and clock domains unlock and relock. REF_LOST, REF_RESTORED, PLL_UNLOCK and PLL_RELOCK
answer the next state written out, with the fault each raises. The model's own readings of log entry 1 enter here.
(spec/17_module_power_clocks.md.) -/
def Obligations.ReferencesAndClockDomainsAreWatched : Prop :=
  -- REF_LOST
  (∀ (s : State) (r : Nat), r < 7 → s.clk.lost.at r = false →
     (let t := ((s.setClk fun x => { x with lost := x.lost.set r true }).bump 0 Reg.CLK_LOSS_CNT).evt clkPage 0
     (r = 0 → exec (.refLost r) s = .next (t.deviceFatal clkPage 0x50 0 0)) ∧
     (r = 1 → exec (.refLost r) s = .next ((t.row (execHostPortFault 0 .linkLoss)).row (execHostPortFault 1 .linkLoss))) ∧
     (r = 6 → exec (.refLost r) s = .next (t.setTim fun t => { t with ref10m := false })) ∧
     (2 ≤ r → r < 6 → exec (.refLost r) s = .next (t.each ((List.range 4).map fun i => 4 * (r - 2) + i) fun s c =>
       s.when (s.enabledCh c) fun s => s.portDown c)))) ∧
  -- REF_RESTORED
  (∀ (s : State) (r : Nat), r < 7 → s.clk.lost.at r = true →
     (let t := (s.setClk fun x => { x with lost := x.lost.set r false }).evt clkPage 1
     (r ≠ 6 → exec (.refRestored r) s = .next t) ∧ (r = 6 → exec (.refRestored r) s = .next (t.setTim fun t => { t with ref10m := true })))) ∧
  -- PLL_UNLOCK
  (∀ (s : State) (d : Nat), s.clkDom d = true → s.clk.unlocked.at d = false →
     (let t := ((s.setClk fun x => { x with unlocked := x.unlocked.set d true }).bump 0 Reg.CLK_UNLOCK_CNT).evt clkPage 2
     (d < 96 → exec (.pllUnlock d) s = .next (t.chFatals [⟨.clk, d / 6, 0x42, 0, d, 0, 0, 0⟩])) ∧
     (96 ≤ d → exec (.pllUnlock d) s = .next (t.deviceFatal clkPage 0x50 0 d)))) ∧
  -- PLL_RELOCK
  (∀ (s : State) (d : Nat), s.clkDom d = true →
     exec (.pllRelock d) s = .next (s.setClk fun x => { x with unlocked := x.unlocked.set d false }))

/-- Faults are logged, counted and contained by their class. CORRECTED_ERROR, CHANNEL_FATAL_FAULT, DEVICE_FATAL_FAULT,
CORE_FAULT and RAS_INJECT answer the next state written out; a fault of a Kweuz unit posts what the unit lost, and a corrected
error of memory in the image of a page is counted on its channel as well. A fault on a channel that is OUT is logged and has no
further effect, and a deferred error is logged under its source and job with CLASS 2. The model's own readings of log entries 13,
24, 36 enter here. (spec/18_faults_and_debug.md, spec/05_kv_pages.md.) -/
def Obligations.FaultsAreLoggedByClass : Prop :=
  -- CORRECTED_ERROR
  (∀ (s : State) (p : Page) (k a d : Nat), sourceClass k = 1 → s.pageExists p = true → (p.blk.perChannel && s.isOut p.idx) = false →
     let t := ((s.logErr p k 0 1 a d).bump 0 Reg.RAS_CE_CNT).countImageCe k a
     (p.blk.perChannel = true → exec (.correctedError p k a d) s = .next (t.countCe p.idx)) ∧
     (p.blk.perChannel = false → exec (.correctedError p k a d) s = .next t)) ∧
  -- CORRECTED_ERROR
  (∀ (s : State) (p : Page) (k a d : Nat), sourceClass k = 1 → s.pageExists p = true → p.blk.perChannel = true → s.isOut p.idx = true →
     exec (.correctedError p k a d) s = .next (s.logErr p k 0 1 a d)) ∧
  -- CORRECTED_ERROR
  (∀ (s : State) (k a : Nat), k ≠ 0x10 ∨ (∀ c, s.inImage c a = false) → s.countImageCe k a = s) ∧
  -- CORRECTED_ERROR
  (∀ (s : State) (a c : Nat), s.enabledCh c = true → s.inImage c a = true → s.countImageCe 0x10 a = s.bump c Reg.PGM_CE_CNT) ∧
  -- CHANNEL_FATAL_FAULT
  (∀ (s : State) (l : List ChFault), exec (.channelFatalFault l) s =
     .next (s.chFatals (l.filter fun x => sourceClass x.source == 4 && decide (x.ch < 16)))) ∧
  -- CHANNEL_FATAL_FAULT
  (∀ (s : State) (x : ChFault), let p : Page := ⟨x.blk, if x.blk.perChannel then x.ch else 0⟩
     let t := ((s.logErr p x.source 0 4 x.addr x.detail).bump 0 Reg.RAS_CHFATAL_CNT).updRas x.ch fun y => { y with source := x.source, faultDay := s.curDay }
     s.enabledCh x.ch = true → s.ras.fatal = none → x.source ≠ 0x40 → (x.blk = .kwp → x.kwpUnit = 0) → (s.logErr p x.source 0 4 x.addr x.detail).boot.chOut.at x.ch = .inService →
     ((s.rasCh x.ch).svc = .recovering → s.chFatal x = (t.evtPriv rasPage 0 0xE0 x.source x.ch).quarantine x.ch 1 .held) ∧
     ((s.rasCh x.ch).svc = .held → s.chFatal x = t) ∧
     ((s.rasCh x.ch).svc = .inService → t.slotFree = true → s.chFatal x = (((((t.abandonAll x.ch 6).discardRunning x.ch).recover x.ch
       false).rerouteFrom x.ch).evtPriv rasPage 0 0xE0 x.source (x.ch + 16))) ∧
     ((s.rasCh x.ch).svc = .inService → t.slotFree = false → s.chFatal x = ((t.evtPriv rasPage 0 0xE0 x.source x.ch).quarantine x.ch 2 .waiting))) ∧
  -- CHANNEL_FATAL_FAULT
  (∀ (s : State) (x : ChFault), x.blk = .kwp → x.source = 0x44 → x.kwpUnit ≠ 0 → s.enabledCh x.ch = true → s.ras.fatal = none →
     let t := s.logErr (kwpPage x.ch) 0x44 0 4 x.addr x.detail
     let u := if x.kwpUnit = 3 then t.kwpError x.ch 3 (t.conn x.ch x.conn).job (kDetail x.conn 0 0) else t.kwpError x.ch 1 0 0
     let v := (u.bump 0 Reg.RAS_CHFATAL_CNT).updRas x.ch fun y => { y with source := 0x44, faultDay := s.curDay }
     u.boot.chOut.at x.ch = .inService → (s.rasCh x.ch).svc = .inService → v.slotFree = true →
     s.chFatal x = (((((v.abandonAll x.ch 6).discardRunning x.ch).recover x.ch false).rerouteFrom x.ch).evtPriv rasPage 0 0xE0 0x44
       (x.ch + 16))) ∧
  -- DEVICE_FATAL_FAULT
  (∀ (s : State) (p : Page) (k a d : Nat), sourceClass k = 5 → s.pageExists p = true →
     exec (.deviceFatalFault p k a d) s = .next (s.deviceFatal p k a d)) ∧
  -- DEVICE_FATAL_FAULT
  (∀ (s : State) (p : Page) (k a d : Nat), s.ras.fatal = none → let t := ((s.logErr p k 0 5 a d).setRas fun x =>
       { x with fatalAt := if x.fatalAt.contains p then x.fatalAt else x.fatalAt ++ [p] }).evtPriv rasPage 3 0xE3 k 0
     let u := (t.each t.channels fun s c => s.discardRunning c).setRas fun x => { x with fatal := some k, slot0 := none, slot1 := none }
     (s.logErr p k 0 5 a d).ras.fatal = none ∧ s.deviceFatal p k a d = (State.alertEdge s (u.each [0, 1] fun s k =>
       s.when (s.rdB k Reg.CXH_CFG 0) fun s => (s.updPort k fun x => { x with viral := true }).evt ⟨.cxh, k⟩ 2)).emit (.mgmtNotice "DEVICE_FATAL")) ∧
  -- CORE_FAULT
  (∀ (s : State) (k : Nat), ((s.dropUpdates k).core k).st ≠ .off →
     (k < 4 → exec (.coreFault k) s = .next ((s.dropUpdates k).devCoreFault k)) ∧
     (4 ≤ k → k < 20 → (s.dropUpdates k).enabledCh (k - 4) = true → exec (.coreFault k) s = .next ((s.dropUpdates k).chCoreFault k)) ∧
     (20 ≤ k → k < 22 → exec (.coreFault k) s = .next ((s.dropUpdates k).spareFault k))) ∧
  -- RAS_INJECT
  (∀ (s : State) (rq : Requester) (v : Word), s.reachesReg rq 0 Reg.RAS_INJECT = true → wbit v 31 = true → s.enabledCh (fld v 3 0) = true →
     s.isOut (fld v 3 0) = false → let c := fld v 3 0
     let k := fld v 15 8
     (k = 0x12 → exec (.rasInject rq v) s = .next (s.coreFault (4 + c))) ∧
     ((k = 0x10 ∨ k = 0x11) → exec (.rasInject rq v) s = .next (((s.logErr rasPage k 0 1 0 c).bump 0 Reg.RAS_CE_CNT).countCe c)) ∧
     (sourceClass k = 2 → exec (.rasInject rq v) s = .next (s.injectDeferred c k)) ∧
     (sourceClass k = 3 → exec (.rasInject rq v) s = .next (s.injectJob k)) ∧
     (sourceClass k = 4 → exec (.rasInject rq v) s = .next (s.chFatals [⟨.ras, c, k, 0, 0, 0, 0, 0⟩])) ∧
     (sourceClass k = 5 → exec (.rasInject rq v) s = .next (s.deviceFatal rasPage k 0 c)) ∧
     (sourceClass k = 0 → exec (.rasInject rq v) s = .next s)) ∧
  -- RAS_INJECT
  (∀ (s : State) (rq : Requester) (v : Word), s.reachesReg rq 0 Reg.RAS_INJECT = true → wbit v 31 = true → s.enabledCh (fld v 3 0) = true →
     s.isOut (fld v 3 0) = true → 1 ≤ sourceClass (fld v 15 8) → sourceClass (fld v 15 8) ≤ 3 →
     exec (.rasInject rq v) s = .next (s.logErr rasPage (fld v 15 8) 0 (sourceClass (fld v 15 8)) 0 (fld v 3 0))) ∧
  -- deferred errors
  (∀ (s : State) (p : Page) (k j a : Nat), wbit (s.rdAt p 0x020) 31 = false → k < 256 → j < 1024 → p.idx < 16 →
     let t := s.deferred p k j a
     fld (t.rdAt p 0x020) 7 0 = k ∧ fld (t.rdAt p 0x020) 30 28 = 2 ∧ fld (t.rdAt p 0x020) 17 8 = j ∧ t.rdAt p 0x030 = lo32 a ∧
     t.mem = s.mem ∧ t.chan = s.chan)

/-- Spares are committed or declined, snapshots taken, watchpoints armed, and a channel check ends. SPARE_COMMIT, SPARE_DECLINE,
SNAP, ARM, DBG_MEM_READ and CHANNEL_CHECK_DONE answer the next state written out; CONTROL_CORE_ACCESS sends the parts of its
range that are plain and passes the coherent ones to the agent, granule by granule. The model's own readings of log entries 36,
38 enter here. (spec/18_faults_and_debug.md.) -/
def Obligations.SparesSnapshotsAndWatchpoints : Prop :=
  -- SPARE_COMMIT
  (∀ (s : State) (rq : Requester) (id : Nat), s.reachesReg rq 0 Reg.SPR_CMD = true → id < 256 → (s.spr.offers.at id).pending = true →
     exec (.spareCommit rq id) s = .next (s.setSpr fun x => { x with offers := x.offers.upd id fun o => { o with committed := true } })) ∧
  -- SPARE_COMMIT
  (∀ (s : State) (rq : Requester) (id : Nat), s.reachesReg rq 0 Reg.SPR_CMD = true → id < 256 → (s.spr.offers.at id).pending = false →
     exec (.spareCommit rq id) s = .next s) ∧
  -- SPARE_DECLINE
  (∀ (s : State) (rq : Requester) (id : Nat), s.reachesReg rq 0 Reg.SPR_CMD = true → id < 256 →
     exec (.spareDecline rq id) s = .next (s.setSpr fun x => { x with offers := x.offers.set id default })) ∧
  -- SNAP
  (∀ (s : State) (rq : Requester), s.reachesReg rq 0 Reg.DBG_SNAP_CMD = true →
     exec (.snap rq) s = .next ((s.each s.channels fun s c => s.snapCh c).evt dbgPage 0)) ∧
  -- SNAP
  (∀ (s : State) (c : Nat), let l := ⟨0, 0, 0, c, s.stamp⟩ :: (s.snapQueues c ++ s.snapWaits c ++ s.snapRings c)
     (s.snapCh c).dbg = { s.dbg with snapshot := s.dbg.snapshot.set c (l.take 16384), truncated := s.dbg.truncated.set c (decide (16384 < l.length)) }) ∧
  -- ARM
  (∀ (s : State) (rq : Requester) (v : Word), s.reachesReg rq 0 Reg.DBG_WP_CTRL = true → let t := s.store 0 Reg.DBG_WP_CTRL v
     (wbit v 0 = true → exec (.arm rq v) s = .next (t.armWatch (t.selOf dbgPage Reg.DBG_WP_CTRL.off))) ∧
     (wbit v 0 = false → exec (.arm rq v) s = .next t)) ∧
  -- DBG_MEM_READ
  (∀ (s : State) (rq : Requester), s.reachesReg rq 0 Reg.DBG_MEM_CMD = true →
     (s.debugLock = true → exec (.dbgMemRead rq) s = .next (s.evt dbgPage 2)) ∧
     (s.debugLock = false → exec (.dbgMemRead rq) s = .next (s.drawNat.2.wr 0 Reg.DBG_MEM_DATA (lo32 s.drawNat.1)))) ∧
  -- CHANNEL_CHECK_DONE
  (∀ (s : State) (c : Nat) (l : List Nat), s.recovering c = true → (s.rasCh c).check = 1 → s.ras.fatal = none →
     exec (.channelCheckDone c (.passed l)) s = .next ((s.updRas c fun x => { x with check := 2 }).each l fun s x => s.failColumn c (x % 128)) ∧
     exec (.channelCheckDone c .readBackFailed) s = .next (s.quarantine c 1 .held).nextWaiting ∧
     exec (.channelCheckDone c .coreFailed) s = .next (s.quarantine c 1 .held).nextWaiting ∧
     ((s.rasCh c).source = 0x43 → exec (.channelCheckDone c .retrainFailed) s = .next (s.quarantine c 1 .held).nextWaiting)) ∧
  -- CONTROL_CORE_ACCESS
  (∀ (s : State) (c k j a n : Nat), s.enabledCh c = true → inRack a = true → a + n ≤ rackEnd →
     (s.coreParts c a n).all (fun p => !p.2.2) = true →
     exec (.controlCoreAccess c k j a n false []) s = .next (s.each (s.coreParts c a n) fun s p =>
       State.coreSent (s.issue c j p.1 p.2.1 (loadMsg p.1 p.2.1) (.core k (p.1 - a) (p.1 % 32))) k (p.1 - a) p.2.1)) ∧
  -- CONTROL_CORE_ACCESS
  (∀ (s : State) (c k j a n : Nat) (d : List Byte), s.enabledCh c = true → inRack a = true → a + d.length ≤ rackEnd →
     (s.coreParts c a d.length).all (fun p => !p.2.2) = true →
     exec (.controlCoreAccess c k j a n true d) s = .next (s.each (s.coreParts c a d.length) fun s p =>
       State.coreSent (s.issue c j p.1 p.2.1 (storeMsg p.1 ((d.drop (p.1 - a)).take p.2.1) false false)
         (.core k (p.1 - a) (p.1 % 32))) k (p.1 - a) p.2.1)) ∧
  -- CONTROL_CORE_ACCESS
  (∀ (s : State) (c k j a n : Nat) (w : Bool) (d : List Byte), let m := if w then d.length else n
     s.enabledCh c = true → inRack a = true → a + m ≤ rackEnd → (s.coreParts c a m).any (fun p => p.2.2) = true →
     let t := s.each (s.coreParts c a m) fun s p => s.corePart c k j a w d p
     exec (.controlCoreAccess c k j a n w d) s = .next (t.agentGo (t.ownAgent c))) ∧
  -- CONTROL_CORE_ACCESS
  (∀ (s : State) (c a n : Nat) (x : Nat × Nat × Bool), x ∈ s.coreParts c a n → x.2.2 = true →
     ∃ p ∈ cutAt 4096 a n (n / 4096 + 2), s.coherentAt c p.1 p.2 = true ∧ (x.1, x.2.1) ∈ cutAt 128 p.1 p.2 (p.2 / 128 + 2))

/-- A step runs exec of the command at the front of the queue; with none, one nanosecond passes. For every state whose queue is c
followed by cs, step is exec of c at the state with the queue cs. For every state with an empty queue, step answers the state
one nanosecond later, which is the model's choice of log entry 1. The model's own readings of log entry 1 enter here.
(spec/00_scope.md.) -/
def Obligations.StepRunsTheFrontCommand : Prop :=
  (∀ (s : State) (c : Instr) (cs : List Instr), s.pending = c :: cs → step s = exec c { s with pending := cs }) ∧
  (∀ (s : State), s.pending = [] → step s = .next (s.pass 1))

/-- Reset: tables canonical, nothing waiting or stored, time 0, cadence STOPPED, power not good, fuses not read. State.reset meets
the invariant of the next statement; its queue is empty; memory lists nothing; the time of day is 0, the cadence is STOPPED,
PWR_GOOD has not risen and no fuse has been read. That unlisted memory reads as 0 is the model's choice of log entry 2. The
model's own readings of log entry 2 enter here. (spec/00_scope.md, spec/16_boot_and_trust.md, spec/17_module_power_clocks.md.) -/
def Obligations.ResetStartsCanonicalIdleAndUnfused : Prop :=
  State.reset.canon = true ∧ State.reset.pending = [] ∧ State.reset.mem.cells = [] ∧ State.reset.boot.fused = false ∧ State.reset.tim.now = 0 ∧
    State.reset.tim.tod = 0 ∧ State.reset.tim.cad = .stopped ∧ State.reset.boot.pwrGood = false

/-- Every step keeps memory, registers, blocks and channels in their canonical form. For every state in the canonical form
(memory, the active and the shadow register bank, the block table and the channel table each strictly rising and free of
entries that equal what an unlisted key reads as), a next state of step is in the canonical form. (spec/00_scope.md,
spec/19_register_index.md.) -/
def Obligations.EveryStepKeepsTheCanonicalForm : Prop :=
  ∀ (s t : State), s.canon = true → step s = .next t → t.canon = true

/-- Every step answers a next state, takes the front command, and unsays nothing that was sent or elapsed. For every state, step
answers a next state; its queue is the tail of the old queue; elapsed time is not less; and what was sent before stands at the
front of what has been sent. The model's own readings of log entries 1, 41 enter here. (spec/00_scope.md.) -/
def Obligations.EveryStepAnswersAndNothingIsUnsaid : Prop :=
  ∀ (s : State), ∃ t, step s = .next t ∧ t.pending = s.pending.tail ∧ s.tim.now ≤ t.tim.now ∧ s.out <+: t.out

/-- Once the fuses are read, no step lowers the SVN, clears a KEY_REVOKE bit or changes another fuse. For every state whose fuse
bank has been read, and every next state of step: the bank counts as read, SVN is not lower, no KEY_REVOKE bit is cleared, and
the options, the channel mask, the seed and the key hashes are the same. The model's own readings of log entry 5 enter here.
(spec/16_boot_and_trust.md.) -/
def Obligations.BurnedFusesStayBurned : Prop :=
  ∀ (s t : State), s.boot.fused = true → step s = .next t → t.boot.fused = true ∧ s.boot.fuses.grows t.boot.fuses

/-- RESET_BLOCK acts only while QUIESCED reads 1, and is else ignored and recorded with SOURCE 0x01. For a write that reaches
BLK_CTRL: while QUIESCED, RESET_BLOCK runs the block reset, and with QUIESCE cleared in the same write the reset runs before
the block resumes. Otherwise nothing is reset, the error is recorded, and a log that held no error then holds SOURCE 0x01. The
model's own readings of log entry 35 enter here. (R9.) -/
def Obligations.ResetBlockActsOnlyWhileQuiesced : Prop :=
  -- RESET_BLOCK
  ∀ (s : State) (rq : Requester) (p : Page), s.reaches rq p 0x008 = true →
    ((s.blkSt p).quiesced = true →
      exec (.resetBlock rq p false) s = .next ((latchRegs p.blk).foldl (fun s o => s.wrAt p o 0) (s.resetInner p)) ∧
      exec (.resetBlock rq p true) s =
        .next (((latchRegs p.blk).foldl (fun s o => s.wrAt p o 0) (s.resetInner p)).mayReady p fun s => s.setQuiesce p false)) ∧
    ((s.blkSt p).quiesced = false → exec (.resetBlock rq p false) s = .next (s.logErr p 0x01 0 0 (p.bar0 + 0x008) 6) ∧
      exec (.resetBlock rq p true) s =
        .next ((s.logErr p 0x01 0 0 (p.bar0 + 0x008) 4).mayReady p fun s => s.setQuiesce p false) ∧
      (wbit (s.rdAt p 0x020) 31 = false → (fld ((s.logErr p 0x01 0 0 (p.bar0 + 0x008) 6).rdAt p 0x020) 7 0 = 1 ∧
        wbit ((s.logErr p 0x01 0 0 (p.bar0 + 0x008) 6).rdAt p 0x020) 31 = true)))

/-- A read of TOD_NS latches the seconds, and a read of CAD_PHASE the day number. For a reader that reaches TIM: a read of TOD_NS
answers the nanoseconds of the time of day, and TOD_SEC_LO and TOD_SEC_HI then hold its seconds; a read of CAD_PHASE answers
the phase, and CAD_DAY then holds the day number. (spec/01_cadence.md.) -/
def Obligations.ReadsOfTheTimeLatchTheRest : Prop :=
  -- TOD_NS_READ, CAD_PHASE_READ
  ∀ (s : State) (rq : Requester), s.canRead rq timPage = true →
    (∃ t : State, exec (.todNsRead rq) s = .next (t.emit (.readData (lo32 (s.tim.tod % 1000000000)))) ∧
      t.rd 0 Reg.TOD_SEC_LO = lo32 (s.tim.tod / 1000000000) ∧
      t.rd 0 Reg.TOD_SEC_HI = BitVec.ofNat 32 (s.tim.tod / 1000000000 / 2 ^ 32 % 2 ^ 16)) ∧
    (∃ t : State, exec (.cadPhaseRead rq) s = .next (t.emit (.readData s.cadPhase)) ∧ t.rd64 0 Reg.CAD_DAY_LO = s.curDay % 2 ^ 64)

/-- REVIVE clears DEAD and returns the slot's quarantined tags to the pool. For a REVIVE of one slot that reaches SLP_ABANDON:
if the slot is DEAD, it is no longer DEAD in the next state, and where no page move runs every tag quarantined for it is free
(what waits takes it at once, log entry 12); if it is not DEAD, the command is ignored. That the ignored command is recorded in
BLK_ERR_LOG is R558. (R426.) -/
def Obligations.ReviveFreesTheQuarantinedTags : Prop :=
  -- SLP_REVIVE
  ∀ (s : State) (rq : Requester) (c slot : Nat), s.reachesReg rq c Reg.SLP_ABANDON = true → slot < 128 →
    (s.slotDead c slot = true → (∀ x ∈ (s.slp c).tags, x.1 < 2 ^ 34) →
      ((s.pgm c).moves.keysWhere fun _ m => m.any fun m => !m.paused) = [] →
      ∃ t : State, exec (.slpRevive rq c slot false) s = .next t ∧ t.slotDead c slot = false ∧
        ∀ k, ((s.slp c).tags.at k).quar = true → ((s.slp c).tags.at k).slot = slot → (t.slp c).tags.at k = default) ∧
    (s.slotDead c slot = true → ∃ t : State, exec (.slpRevive rq c slot false) s = .next t ∧ t.slotDead c slot = false) ∧
    (s.slotDead c slot = false → exec (.slpRevive rq c slot false) s = .next (s.logIgnored (slpPage c) 0x110 (abandonWord slot 9 false)))

/-- COUNTER_READ is a CONTROL command and completes with its set's six counts or with WRONG_JOB. OP 0x0F3 belongs to engine 0,
CONTROL. When COUNTER_READ holds its engine, with payload [5:0] naming set k of the channel, it completes with status 0 and the
six counts as 48 bytes when the set's JOB equals the command's job and JOB_ANY is 0, and otherwise with 0x71, WRONG_JOB. (R574.) -/
def Obligations.CounterReadAnswersItsSet : Prop :=
  -- COUNTER_READ
  engineOf 0x0F3 = some 0 ∧ ∀ (s0 s : State) (c k : Nat) (cmd : Cmd), s0.occupy c 0 cmd = s → s.holdsCmd c 0 cmd = true →
    k = c * 64 + nfld (recNat cmd.payload 0 1) 5 0 →
    let x := s.dbg.sets.at k
    let pay := leBytes 8 x.cmds ++ leBytes 8 x.engineNs ++ leBytes 8 x.dramRd ++ leBytes 8 x.dramWr ++ leBytes 8 x.stallNs ++ leBytes 8 x.waitNs
    pay.length = 48 ∧
    (fld (s.rd 0 Reg.DBG_SET_MATCH k) 9 0 = cmd.job ∧ wbit (s.rd 0 Reg.DBG_SET_MATCH k) 10 = false →
      exec (.counterRead c cmd) s0 = .next (s.complete c cmd 0 pay)) ∧
    (¬ (fld (s.rd 0 Reg.DBG_SET_MATCH k) 9 0 = cmd.job ∧ wbit (s.rd 0 Reg.DBG_SET_MATCH k) 10 = false) →
      exec (.counterRead c cmd) s0 = .next (s.complete c cmd 0x71 (quiet := true)))

/-- The poison marking of memory is held by whole lines and cleared by whole lines. A mark covers every line its range touches and
changes no byte; a range reads as poisoned exactly when it touches a marked line; a write changes the bytes of unmarked lines,
replaces and unmarks a marked line it covers whole, and leaves a marked line it covers in part as it was; no other byte
changes. The model's own readings of log entry 2 enter here. (spec/19_register_index.md.) -/
def Obligations.PoisonedLinesKeepTheirBytes : Prop :=
  (∀ (m : Memory) (a n x : Nat), a ≤ x → x < a + n → (m.mark a n).poison.contains (x / 64) = true ∧ (m.mark a n).byte x = m.byte x) ∧
  (∀ (m : Memory) (a n : Nat), m.poisoned a n = true ↔ ∃ x, a ≤ x ∧ x < a + n ∧ m.poison.contains (x / 64) = true) ∧
  (∀ (m : Memory) (a : Nat) (bs : List Byte) (x : Nat), a ≤ x → x < a + bs.length →
     (m.poison.contains (x / 64) = false → (m.write a bs).byte x = bs.getD (x - a) 0) ∧
     (m.poison.contains (x / 64) = true → a ≤ 64 * (x / 64) → 64 * (x / 64) + 64 ≤ a + bs.length →
       (m.write a bs).byte x = bs.getD (x - a) 0 ∧ (m.write a bs).poison.contains (x / 64) = false) ∧
     (m.poison.contains (x / 64) = true → (64 * (x / 64) < a ∨ a + bs.length < 64 * (x / 64) + 64) →
       (m.write a bs).byte x = m.byte x ∧ (m.write a bs).poison.contains (x / 64) = true)) ∧
  (∀ (m : Memory) (a : Nat) (bs : List Byte) (x : Nat), (x < a ∨ a + bs.length ≤ x) → (m.write a bs).byte x = m.byte x)

/-- An accumulator rescales to a higher reference, saturates, and then keeps its value. A live accumulator that is not saturated
and meets a higher reference is rescaled with its rounding, or to 0 from a distance of 32; a sum beyond 2^31 - 1 takes the
limit of its sign and saturates; a saturated accumulator keeps its value and reference. (spec/03_log_numbers.md.) -/
def Obligations.AccumulatorsRescaleAndSaturate : Prop :=
  (∀ (x : Acc) (t : Int), x.live = true → x.sat = false → x.ref < t →
     let d := (t - x.ref).toNat
     x.meet (some t) = { x with a := (if 32 ≤ d then 0 else x.a.sign * (((x.a.natAbs + 2 ^ (d - 1)) / 2 ^ d : Nat) : Int)), ref := t }) ∧
  (∀ (x : Acc) (v : Int), x.sat = false →
     ((x.a + v).natAbs ≤ 2 ^ 31 - 1 → x.add v = { x with a := x.a + v }) ∧
     (2 ^ 31 - 1 < x.a + v → x.add v = { x with a := 2 ^ 31 - 1, sat := true }) ∧
     (x.a + v < -(2 ^ 31 - 1) → x.add v = { x with a := -(2 ^ 31 - 1), sat := true })) ∧
  (∀ (x : Acc) (v t : Int) (u : Nat), x.live = true → x.sat = true → x.add v = x ∧ x.meet (some t) = x ∧ x.rescale u = x)

/-- BLK_ERR_LOG holds the first error since it was cleared and counts them all. A recorded error fills SOURCE, JOB, CLASS, the
time, the address and the detail of an empty log and sets VALID; a log that holds an error keeps every word but COUNT; COUNT
rises by one and saturates; memory, channels, time and the log of what was sent are unchanged. (spec/18_faults_and_debug.md.) -/
def Obligations.TheErrorLogKeepsTheFirstError : Prop :=
  (∀ (s : State) (p : Page) (k j cl a d : Nat), k < 256 → j < 1024 → cl < 8 → wbit (s.rdAt p 0x020) 31 = false →
     let t := s.logErr p k j cl a d
     fld (t.rdAt p 0x020) 7 0 = k ∧ fld (t.rdAt p 0x020) 17 8 = j ∧ fld (t.rdAt p 0x020) 30 28 = cl ∧ wbit (t.rdAt p 0x020) 31 = true ∧
     t.rdAt p 0x028 = lo32 s.stamp ∧ t.rdAt p 0x02C = hi32 s.stamp ∧ t.rdAt p 0x030 = lo32 a ∧ t.rdAt p 0x034 = hi32 a ∧
     t.rdAt p 0x038 = lo32 d ∧ (t.rdAt p 0x024).toNat = min ((s.rdAt p 0x024).toNat + 1) (2 ^ 32 - 1)) ∧
  (∀ (s : State) (p : Page) (k j cl a d o : Nat), wbit (s.rdAt p 0x020) 31 = true →
     let t := s.logErr p k j cl a d
     ((t.rdAt p 0x024).toNat = min ((s.rdAt p 0x024).toNat + 1) (2 ^ 32 - 1)) ∧ (o / 4 ≠ 0x024 / 4 → o < 0x1000 → t.rdAt p o = s.rdAt p o)) ∧
  (∀ (s : State) (p : Page) (k j cl a d : Nat), (s.logErr p k j cl a d).mem = s.mem ∧ (s.logErr p k j cl a d).chan = s.chan ∧
     (s.logErr p k j cl a d).out = s.out ∧ (s.logErr p k j cl a d).tim = s.tim)

/-- A register write that does not reach its register changes nothing, or is recorded where the rules say so. A write to a page
its sender does not reach answers the same state, with an unsupported request sent where the sender's function is not enabled;
one by an LD without PRIV to its channel's page, and one to an RWL register under LOCK, answer the state with the error
recorded; one to a reserved offset answers the same state. The model's own readings of log entries 29, 39 enter here.
(spec/00_scope.md, spec/19_register_index.md.) -/
def Obligations.WritesThatDoNotReachChangeNothing : Prop :=
  -- REGISTER_WRITE
  (∀ (s : State) (rq : Requester) (p : Page) (off : Nat) (v : Word), s.gate rq p = .ignore →
     exec (.registerWrite rq p off v) s = .next (s.ioUr rq) ∧ (s.ldOff rq = none → s.ioUr rq = s)) ∧
  -- REGISTER_WRITE
  (∀ (s : State) (rq : Requester) (p : Page) (off : Nat) (v : Word), s.gate rq p = .ignoreLog → off % 4 = 0 →
     exec (.registerWrite rq p off v) s = .next (s.logErr p 0x01 0 0 (p.bar0 + off) v.toNat)) ∧
  -- REGISTER_WRITE
  (∀ (s : State) (rq : Requester) (p : Page) (off : Nat) (v : Word) (r : RegRow), s.gate rq p = .pass → off % 4 = 0 → findRow p.blk off = some r →
     r.acc = .rwl → s.locked p = true → exec (.registerWrite rq p off v) s = .next (s.logErr p 0x01 0 0 (p.bar0 + off) v.toNat)) ∧
  -- REGISTER_WRITE
  (∀ (s : State) (rq : Requester) (p : Page) (off : Nat) (v : Word), s.gate rq p = .pass → off % 4 = 0 → 0x100 ≤ off →
     findRow p.blk off = none → ¬ (p.blk = .jsc ∧ 0x200 ≤ off ∧ off < 0x240) → exec (.registerWrite rq p off v) s = .next s)

/-- Frames: commands that write no memory leave every byte, and pointer doorbells every other register. For every command that the
model names as writing no memory, a next state reads every byte of memory as before. Six doorbells change one ring-pointer
register and no other register, time or sent message. The commands named in the last two clauses leave every register, every
byte of memory and the time. (spec/09_jobs_and_sharing.md, spec/14_host_port.md, spec/18_faults_and_debug.md,
spec/19_register_index.md.) -/
def Obligations.FramesOfCommands : Prop :=
  (∀ (i : Instr) (s t : State), i.writesMemory = false → exec i s = .next t → ∀ a, t.mem.byte a = s.mem.byte a) ∧
  -- DB_CQ_TAIL, DB_XR_PTR, DB_RXQ_HEAD
  (∀ (s t : State) (rq : Requester) (c j q : Nat) (v : DWord), dbObj v = q → s.seesDoorbell rq c (some j) = true →
     (∀ (r : RegId), (r = Reg.JSC_Q_TAIL ∧ q < 1024 ∧ s.rdB c Reg.JSC_Q_CFG 0 q = true ∧ s.qJob c q = j ∧ exec (.dbCqTail rq c j 8 v) s = .next t) ∨
         (r = Reg.ATN_XR_TAIL ∧ q < 256 ∧ s.xrIs c q 0 = true ∧ s.xrJob c q = j ∧ exec (.dbXrPtr rq c j 8 v) s = .next t) ∨
         (r = Reg.SLP_RXQ_HEAD ∧ q < 256 ∧ s.rdB c Reg.SLP_RXQ_CFG 0 q = true ∧ s.rdF c Reg.SLP_RXQ_CFG 25 16 q = j ∧
           exec (.dbRxqHead rq c j 8 v) s = .next t) →
       (∀ a, t.mem.byte a = s.mem.byte a) ∧ t.tim = s.tim ∧ t.out = s.out ∧
       ∀ (p : Page) (o k : Nat), regKey p.blk p.idx o k ≠ regKey r.blk c r.off q → t.rdAt p o k = s.rdAt p o k)) ∧
  -- DB_EVQ_HEAD
  (∀ (s t : State) (rq : Requester) (c j : Nat) (v : DWord), s.seesDoorbell rq c (some j) = true → s.evqOn c j = true →
     exec (.dbEvqHead rq c j 8 v) s = .next t → (∀ a, t.mem.byte a = s.mem.byte a) ∧ t.chan = s.chan ∧ t.tim = s.tim ∧ t.out = s.out ∧
       ∀ (p : Page) (o k : Nat), regKey p.blk p.idx o k ≠ regKey .jsc c Reg.JSC_EVQ_HEAD.off j → t.rdAt p o k = s.rdAt p o k) ∧
  -- DB_PEVQ_HEAD, DB_SMP_HEAD
  (∀ (s t : State) (rq : Requester) (c : Nat) (v : DWord) (r : RegId), s.seesDoorbell rq c none = true → dbObj v = 0 →
     (r = Reg.JSC_PEVQ_HEAD ∧ s.rdB c Reg.JSC_PEVQ_CFG 0 = true ∧ exec (.dbPevqHead rq c 8 v) s = .next t) ∨
         (r = Reg.TRC_SMP_HEAD ∧ s.rdB c Reg.TRC_SMP_CFG 0 = true ∧ exec (.dbSmpHead rq c 8 v) s = .next t) →
       (∀ a, t.mem.byte a = s.mem.byte a) ∧ t.chan = s.chan ∧ t.tim = s.tim ∧ t.out = s.out ∧
       ∀ (p : Page) (o k : Nat), regKey p.blk p.idx o k ≠ regKey r.blk c r.off 0 → t.rdAt p o k = s.rdAt p o k) ∧
  -- SPARE_COMMIT, SPARE_DECLINE, TLB_INVALIDATE, CLR_COLLISION
  (∀ (s t : State) (rq : Requester) (i : Nat) (v : Word),
     (s.reachesReg rq 0 Reg.SPR_CMD = true ∧ (exec (.spareCommit rq i) s = .next t ∨ exec (.spareDecline rq i) s = .next t)) ∨
     (s.reachesReg rq i Reg.ATU_INV_CTRL = true ∧ exec (.tlbInvalidate rq i v) s = .next t) ∨
     (s.reachesReg rq 0 Reg.MBX_RX_CTRL = true ∧ exec (.clrCollision rq) s = .next t) →
     (∀ a, t.mem.byte a = s.mem.byte a) ∧ (∀ (p : Page) (o k : Nat), t.rdAt p o k = s.rdAt p o k) ∧ t.tim = s.tim ∧ t.out = s.out) ∧
  -- LINK_UP, BOOT_IMAGE_DONE, INVALIDATE_DONE, PLL_RELOCK, CORE_WAIT_FOR_INTERRUPT, DOE_DISCOVERY, CDAT_READ,
  -- CONFIGURATION_REQUEST
  (∀ (s t : State) (c i j k : Nat) (m : Option Bool), exec (.linkUp c i j) s = .next t ∨ exec .bootImageDone s = .next t ∨
     exec (.invalidateDone c) s = .next t ∨ exec (.pllRelock i) s = .next t ∨ exec (.coreWaitForInterrupt k) s = .next t ∨
     exec (.doeDiscovery c i) s = .next t ∨ exec (.cdatRead c) s = .next t ∨ exec (.configurationRequest c m) s = .next t →
     (∀ a, t.mem.byte a = s.mem.byte a) ∧ (∀ (p : Page) (o k : Nat), t.rdAt p o k = s.rdAt p o k) ∧ t.tim = s.tim)
end

