-- ==== Sys2Proof/Laws/Store.lean ====
section
/-! SUPPORT. The laws of sparse tables: a read after a write, and that every operation keeps the canonical form. -/
namespace Sys2Proof.Machine

variable {α : Type}

@[simp] theorem SMap.get_nil (d : Nat → α) (k : Nat) : SMap.get d [] k = d k := rfl

theorem SMap.get_cons (d : Nat → α) (e : Nat × α) (m : SMap α) (k : Nat) :
    SMap.get d (e :: m) k = if k = e.1 then e.2 else SMap.get d m k := rfl

theorem SMap.get_place (d : Nat → α) (k : Nat) (v : α) (m : SMap α) (j : Nat) :
    SMap.get d (SMap.place k v m) j = if j = k then v else SMap.get d m j := by
  induction m with
  | nil => rfl
  | cons e m ih =>
    unfold SMap.place
    split
    · simp [SMap.get_cons]
    · split
      · rename_i h
        simp only [SMap.get_cons, ← h]
        by_cases hj : j = k <;> simp [hj]
      · rename_i h1 h2
        simp only [SMap.get_cons, ih]
        by_cases hj : j = k
        · simp [hj, h2]
        · simp [hj]

theorem SMap.get_drop (d : Nat → α) (k : Nat) (m : SMap α) (j : Nat) :
    SMap.get d (SMap.drop k m) j = if j = k then d j else SMap.get d m j := by
  induction m with
  | nil => simp [SMap.drop]
  | cons e m ih =>
    unfold SMap.drop at ih ⊢
    rw [List.filter_cons]
    by_cases he : e.1 = k
    · simp only [he, bne_self_eq_false, Bool.false_eq_true, if_false, ih, SMap.get_cons]
      by_cases hj : j = k <;> simp [hj]
    · have hb : (e.1 != k) = true := by simp [he]
      simp only [hb, if_true, SMap.get_cons, ih]
      by_cases hj : j = e.1
      · simp [hj, he]
      · simp [hj]

/-- A read after a write gives the value written at the key, and what was there before at every other key. -/
theorem SMap.get_put [DecidableEq α] (d : Nat → α) (k : Nat) (v : α) (m : SMap α) (j : Nat) :
    SMap.get d (SMap.put d k v m) j = if j = k then v else SMap.get d m j := by
  unfold SMap.put
  split
  · rename_i h
    rw [SMap.get_drop]
    by_cases hj : j = k <;> simp [hj, h]
  · exact SMap.get_place d k v m j

@[simp] theorem SMap.get_put_same [DecidableEq α] (d : Nat → α) (k : Nat) (v : α) (m : SMap α) :
    SMap.get d (SMap.put d k v m) k = v := by simp [SMap.get_put]

theorem SMap.get_put_other [DecidableEq α] (d : Nat → α) {k j : Nat} (v : α) (m : SMap α) (h : j ≠ k) :
    SMap.get d (SMap.put d k v m) j = SMap.get d m j := by simp [SMap.get_put, h]

theorem SMap.at_set [DecidableEq α] [Inhabited α] (m : SMap α) (k : Nat) (v : α) (j : Nat) :
    (m.set k v).at j = if j = k then v else m.at j := SMap.get_put _ k v m j

@[simp] theorem SMap.at_set_same [DecidableEq α] [Inhabited α] (m : SMap α) (k : Nat) (v : α) :
    (m.set k v).at k = v := by simp [SMap.at_set]

theorem SMap.at_upd [DecidableEq α] [Inhabited α] (m : SMap α) (k : Nat) (f : α → α) (j : Nat) :
    (m.upd k f).at j = if j = k then f (m.at k) else m.at j := SMap.at_set m k _ j

@[simp] theorem SMap.at_upd_same [DecidableEq α] [Inhabited α] (m : SMap α) (k : Nat) (f : α → α) :
    (m.upd k f).at k = f (m.at k) := by simp [SMap.at_upd]

/-! ### The canonical form -/

/-- Every key of a table lies above a bound. -/
def SMap.above (b : Nat) (m : SMap α) : Prop := ∀ e ∈ m, b < e.1

theorem SMap.rising_cons {e : Nat × α} {m : SMap α} :
    SMap.rising (e :: m) = true ↔ SMap.above e.1 m ∧ SMap.rising m = true := by
  induction m generalizing e with
  | nil => simp [SMap.rising, SMap.above]
  | cons e' m ih =>
    have hs : SMap.rising (e :: e' :: m) = (decide (e.1 < e'.1) && SMap.rising (e' :: m)) := rfl
    rw [hs, Bool.and_eq_true, decide_eq_true_eq]
    constructor
    · rintro ⟨h, hr⟩
      refine ⟨?_, hr⟩
      intro x hx
      rcases List.mem_cons.1 hx with rfl | hx
      · exact h
      · exact Nat.lt_trans h ((ih.1 hr).1 x hx)
    · rintro ⟨ha, hr⟩
      exact ⟨ha e' (List.mem_cons_self ..), hr⟩

theorem SMap.rising_filter (p : Nat × α → Bool) {m : SMap α} (h : SMap.rising m = true) :
    SMap.rising (m.filter p) = true := by
  induction m with
  | nil => rfl
  | cons e m ih =>
    obtain ⟨ha, hr⟩ := SMap.rising_cons.1 h
    rw [List.filter_cons]
    split
    · exact SMap.rising_cons.2 ⟨fun x hx => ha x (List.mem_filter.1 hx).1, ih hr⟩
    · exact ih hr

theorem SMap.mem_place {k : Nat} {v : α} {m : SMap α} {x : Nat × α} (h : x ∈ SMap.place k v m) : x = (k, v) ∨ x ∈ m := by
  induction m with
  | nil => exact Or.inl (by simpa [SMap.place] using h)
  | cons e m ih =>
    unfold SMap.place at h
    split at h
    · rcases List.mem_cons.1 h with h | h
      · exact Or.inl h
      · exact Or.inr h
    · split at h
      · rcases List.mem_cons.1 h with h | h
        · exact Or.inl h
        · exact Or.inr (List.mem_cons_of_mem _ h)
      · rcases List.mem_cons.1 h with h | h
        · exact Or.inr (h ▸ List.mem_cons_self ..)
        · rcases ih h with h | h
          · exact Or.inl h
          · exact Or.inr (List.mem_cons_of_mem _ h)

theorem SMap.rising_place (k : Nat) (v : α) {m : SMap α} (h : SMap.rising m = true) :
    SMap.rising (SMap.place k v m) = true := by
  induction m with
  | nil => rfl
  | cons e m ih =>
    obtain ⟨ha, hr⟩ := SMap.rising_cons.1 h
    unfold SMap.place
    split
    · rename_i hk
      refine SMap.rising_cons.2 ⟨?_, h⟩
      intro x hx
      rcases List.mem_cons.1 hx with rfl | hx
      · exact hk
      · exact Nat.lt_trans hk (ha x hx)
    · split
      · rename_i hk
        subst hk
        exact SMap.rising_cons.2 ⟨ha, hr⟩
      · rename_i h1 h2
        refine SMap.rising_cons.2 ⟨?_, ih hr⟩
        intro x hx
        rcases SMap.mem_place hx with rfl | hx
        · exact Nat.lt_of_le_of_ne (Nat.le_of_not_lt h1) (fun h => h2 h.symm)
        · exact ha x hx

theorem SMap.wf_nil [DecidableEq α] (d : Nat → α) : SMap.wf d [] = true := rfl

theorem SMap.wf_iff [DecidableEq α] (d : Nat → α) (m : SMap α) :
    SMap.wf d m = true ↔ SMap.rising m = true ∧ ∀ e ∈ m, e.2 ≠ d e.1 := by
  simp [SMap.wf]

/-- A filter keeps the canonical form. -/
theorem SMap.wf_filter [DecidableEq α] {d : Nat → α} (p : Nat × α → Bool) {m : SMap α} (h : SMap.wf d m = true) :
    SMap.wf d (m.filter p) = true := by
  obtain ⟨hr, hv⟩ := (SMap.wf_iff d m).1 h
  exact (SMap.wf_iff d _).2 ⟨SMap.rising_filter p hr, fun e he => hv e (List.mem_filter.1 he).1⟩

/-- A write keeps the canonical form. -/
theorem SMap.wf_put [DecidableEq α] {d : Nat → α} (k : Nat) (v : α) {m : SMap α} (h : SMap.wf d m = true) :
    SMap.wf d (SMap.put d k v m) = true := by
  unfold SMap.put
  split
  · exact SMap.wf_filter _ h
  · rename_i hv
    obtain ⟨hr, ha⟩ := (SMap.wf_iff d m).1 h
    refine (SMap.wf_iff d _).2 ⟨SMap.rising_place k v hr, ?_⟩
    intro e he
    rcases SMap.mem_place he with rfl | he
    · exact hv
    · exact ha e he

theorem SMap.wf_upd [DecidableEq α] [Inhabited α] (k : Nat) (f : α → α) {m : SMap α}
    (h : SMap.wf (fun _ => default) m = true) : SMap.wf (fun _ => default) (m.upd k f) = true :=
  SMap.wf_put k _ h

/-- Tables in canonical form that read alike at every key are equal. -/
theorem SMap.ext_of_wf [DecidableEq α] {d : Nat → α} {m n : SMap α} (hm : SMap.wf d m = true) (hn : SMap.wf d n = true)
    (h : ∀ k, SMap.get d m k = SMap.get d n k) : m = n := by
  have nol : ∀ {l : SMap α} {b : Nat}, SMap.above b l → ∀ k, k ≤ b → SMap.get d l k = d k := by
    intro l b hl k hk
    induction l with
    | nil => rfl
    | cons e l ih =>
      have he := hl e (List.mem_cons_self ..)
      rw [SMap.get_cons, if_neg (by omega)]
      exact ih fun x hx => hl x (List.mem_cons_of_mem _ hx)
  induction m generalizing n with
  | nil =>
    cases n with
    | nil => rfl
    | cons e n =>
      have hv := ((SMap.wf_iff d _).1 hn).2 e (List.mem_cons_self ..)
      have := h e.1
      simp [SMap.get_cons] at this
      exact absurd this.symm hv
  | cons e m ih =>
    obtain ⟨hr, hv⟩ := (SMap.wf_iff d _).1 hm
    obtain ⟨hra, hrr⟩ := SMap.rising_cons.1 hr
    cases n with
    | nil =>
      have hv := hv e (List.mem_cons_self ..)
      have := h e.1
      simp [SMap.get_cons] at this
      exact absurd this hv
    | cons f n =>
      obtain ⟨hs, hw⟩ := (SMap.wf_iff d _).1 hn
      obtain ⟨hsa, hss⟩ := SMap.rising_cons.1 hs
      have hve := hv e (List.mem_cons_self ..)
      have hwf := hw f (List.mem_cons_self ..)
      have hk : e.1 = f.1 := by
        rcases Nat.lt_trichotomy e.1 f.1 with hl | hl | hl
        · have := h e.1
          rw [SMap.get_cons, if_pos rfl, SMap.get_cons, if_neg (by omega), nol hsa e.1 (by omega)] at this
          exact absurd this hve
        · exact hl
        · have := h f.1
          rw [SMap.get_cons, if_neg (by omega), nol hra f.1 (by omega), SMap.get_cons, if_pos rfl] at this
          exact absurd this.symm hwf
      have h2 : e.2 = f.2 := by
        have := h e.1
        rwa [SMap.get_cons, if_pos rfl, SMap.get_cons, if_pos hk] at this
      have hef : e = f := Prod.ext hk h2
      subst hef
      congr 1
      refine ih ((SMap.wf_iff d _).2 ⟨hrr, fun x hx => hv x (List.mem_cons_of_mem _ hx)⟩)
        ((SMap.wf_iff d _).2 ⟨hss, fun x hx => hw x (List.mem_cons_of_mem _ hx)⟩) ?_
      intro k
      have := h k
      rw [SMap.get_cons, SMap.get_cons] at this
      by_cases hke : k = e.1
      · subst hke
        rw [nol hra _ (Nat.le_refl _), nol hsa _ (Nat.le_refl _)]
      · rwa [if_neg hke, if_neg hke] at this

end Sys2Proof.Machine
end

