-- ==== Sys2Proof/Laws/State.lean ====
section
/-! SUPPORT. What each plain operation does to each field of State, so that no proof unfolds a record update: one lemma for a field
and an operation, then what reading a register, a block or a channel gives after each. -/
namespace Sys2Proof.Machine

variable (s : State)

/-! ### The fields of a record of fields -/

variable {tim : Tim} {pln : Pln} {regs shadow : SMap Word} {blk : SMap BlkSt} {mem : Memory} {chan : SMap Chan} {cxh : Cxh}
  {cmp : Cmp} {mbx : Mbx} {boot : Boot} {sec : Sec} {ras : Ras} {dbg : Dbg} {spr : Spr} {psq : Psq} {clk : Clk} {out : List OutMsg}
  {free : Nat} {pending : List Instr}

theorem State.tim_mk : (State.mk tim pln regs shadow blk mem chan cxh cmp mbx boot sec ras dbg spr psq clk out free pending).tim = tim := rfl
theorem State.pln_mk : (State.mk tim pln regs shadow blk mem chan cxh cmp mbx boot sec ras dbg spr psq clk out free pending).pln = pln := rfl
theorem State.regs_mk : (State.mk tim pln regs shadow blk mem chan cxh cmp mbx boot sec ras dbg spr psq clk out free pending).regs = regs := rfl
theorem State.shadow_mk : (State.mk tim pln regs shadow blk mem chan cxh cmp mbx boot sec ras dbg spr psq clk out free pending).shadow = shadow := rfl
theorem State.blk_mk : (State.mk tim pln regs shadow blk mem chan cxh cmp mbx boot sec ras dbg spr psq clk out free pending).blk = blk := rfl
theorem State.mem_mk : (State.mk tim pln regs shadow blk mem chan cxh cmp mbx boot sec ras dbg spr psq clk out free pending).mem = mem := rfl
theorem State.chan_mk : (State.mk tim pln regs shadow blk mem chan cxh cmp mbx boot sec ras dbg spr psq clk out free pending).chan = chan := rfl
theorem State.cxh_mk : (State.mk tim pln regs shadow blk mem chan cxh cmp mbx boot sec ras dbg spr psq clk out free pending).cxh = cxh := rfl
theorem State.cmp_mk : (State.mk tim pln regs shadow blk mem chan cxh cmp mbx boot sec ras dbg spr psq clk out free pending).cmp = cmp := rfl
theorem State.mbx_mk : (State.mk tim pln regs shadow blk mem chan cxh cmp mbx boot sec ras dbg spr psq clk out free pending).mbx = mbx := rfl
theorem State.boot_mk : (State.mk tim pln regs shadow blk mem chan cxh cmp mbx boot sec ras dbg spr psq clk out free pending).boot = boot := rfl
theorem State.sec_mk : (State.mk tim pln regs shadow blk mem chan cxh cmp mbx boot sec ras dbg spr psq clk out free pending).sec = sec := rfl
theorem State.ras_mk : (State.mk tim pln regs shadow blk mem chan cxh cmp mbx boot sec ras dbg spr psq clk out free pending).ras = ras := rfl
theorem State.dbg_mk : (State.mk tim pln regs shadow blk mem chan cxh cmp mbx boot sec ras dbg spr psq clk out free pending).dbg = dbg := rfl
theorem State.spr_mk : (State.mk tim pln regs shadow blk mem chan cxh cmp mbx boot sec ras dbg spr psq clk out free pending).spr = spr := rfl
theorem State.psq_mk : (State.mk tim pln regs shadow blk mem chan cxh cmp mbx boot sec ras dbg spr psq clk out free pending).psq = psq := rfl
theorem State.clk_mk : (State.mk tim pln regs shadow blk mem chan cxh cmp mbx boot sec ras dbg spr psq clk out free pending).clk = clk := rfl
theorem State.out_mk : (State.mk tim pln regs shadow blk mem chan cxh cmp mbx boot sec ras dbg spr psq clk out free pending).out = out := rfl
theorem State.free_mk : (State.mk tim pln regs shadow blk mem chan cxh cmp mbx boot sec ras dbg spr psq clk out free pending).free = free := rfl
theorem State.pending_mk : (State.mk tim pln regs shadow blk mem chan cxh cmp mbx boot sec ras dbg spr psq clk out free pending).pending = pending := rfl

/-! ### wrAt -/

@[simp] theorem State.wrAt_tim (p : Page) (off : Nat) (v : Word) (sel : Nat) : (s.wrAt p off v sel).tim = s.tim := by
  unfold State.wrAt; exact State.tim_mk
@[simp] theorem State.wrAt_pln (p : Page) (off : Nat) (v : Word) (sel : Nat) : (s.wrAt p off v sel).pln = s.pln := by
  unfold State.wrAt; exact State.pln_mk
@[simp] theorem State.wrAt_regs (p : Page) (off : Nat) (v : Word) (sel : Nat) : (s.wrAt p off v sel).regs = SMap.put regReset (regKey p.blk p.idx off sel) v s.regs := by
  unfold State.wrAt; exact State.regs_mk
@[simp] theorem State.wrAt_shadow (p : Page) (off : Nat) (v : Word) (sel : Nat) : (s.wrAt p off v sel).shadow = s.shadow := by
  unfold State.wrAt; exact State.shadow_mk
@[simp] theorem State.wrAt_blk (p : Page) (off : Nat) (v : Word) (sel : Nat) : (s.wrAt p off v sel).blk = s.blk := by
  unfold State.wrAt; exact State.blk_mk
@[simp] theorem State.wrAt_mem (p : Page) (off : Nat) (v : Word) (sel : Nat) : (s.wrAt p off v sel).mem = s.mem := by
  unfold State.wrAt; exact State.mem_mk
@[simp] theorem State.wrAt_chan (p : Page) (off : Nat) (v : Word) (sel : Nat) : (s.wrAt p off v sel).chan = s.chan := by
  unfold State.wrAt; exact State.chan_mk
@[simp] theorem State.wrAt_cxh (p : Page) (off : Nat) (v : Word) (sel : Nat) : (s.wrAt p off v sel).cxh = s.cxh := by
  unfold State.wrAt; exact State.cxh_mk
@[simp] theorem State.wrAt_cmp (p : Page) (off : Nat) (v : Word) (sel : Nat) : (s.wrAt p off v sel).cmp = s.cmp := by
  unfold State.wrAt; exact State.cmp_mk
@[simp] theorem State.wrAt_mbx (p : Page) (off : Nat) (v : Word) (sel : Nat) : (s.wrAt p off v sel).mbx = s.mbx := by
  unfold State.wrAt; exact State.mbx_mk
@[simp] theorem State.wrAt_boot (p : Page) (off : Nat) (v : Word) (sel : Nat) : (s.wrAt p off v sel).boot = s.boot := by
  unfold State.wrAt; exact State.boot_mk
@[simp] theorem State.wrAt_sec (p : Page) (off : Nat) (v : Word) (sel : Nat) : (s.wrAt p off v sel).sec = s.sec := by
  unfold State.wrAt; exact State.sec_mk
@[simp] theorem State.wrAt_ras (p : Page) (off : Nat) (v : Word) (sel : Nat) : (s.wrAt p off v sel).ras = s.ras := by
  unfold State.wrAt; exact State.ras_mk
@[simp] theorem State.wrAt_dbg (p : Page) (off : Nat) (v : Word) (sel : Nat) : (s.wrAt p off v sel).dbg = s.dbg := by
  unfold State.wrAt; exact State.dbg_mk
@[simp] theorem State.wrAt_spr (p : Page) (off : Nat) (v : Word) (sel : Nat) : (s.wrAt p off v sel).spr = s.spr := by
  unfold State.wrAt; exact State.spr_mk
@[simp] theorem State.wrAt_psq (p : Page) (off : Nat) (v : Word) (sel : Nat) : (s.wrAt p off v sel).psq = s.psq := by
  unfold State.wrAt; exact State.psq_mk
@[simp] theorem State.wrAt_clk (p : Page) (off : Nat) (v : Word) (sel : Nat) : (s.wrAt p off v sel).clk = s.clk := by
  unfold State.wrAt; exact State.clk_mk
@[simp] theorem State.wrAt_out (p : Page) (off : Nat) (v : Word) (sel : Nat) : (s.wrAt p off v sel).out = s.out := by
  unfold State.wrAt; exact State.out_mk
@[simp] theorem State.wrAt_free (p : Page) (off : Nat) (v : Word) (sel : Nat) : (s.wrAt p off v sel).free = s.free := by
  unfold State.wrAt; exact State.free_mk
@[simp] theorem State.wrAt_pending (p : Page) (off : Nat) (v : Word) (sel : Nat) : (s.wrAt p off v sel).pending = s.pending := by
  unfold State.wrAt; exact State.pending_mk

/-! ### wr -/

@[simp] theorem State.wr_tim (i : Nat) (r : RegId) (v : Word) (sel : Nat) : (s.wr i r v sel).tim = s.tim := by
  unfold State.wr; exact State.wrAt_tim _ _ _ _ _
@[simp] theorem State.wr_pln (i : Nat) (r : RegId) (v : Word) (sel : Nat) : (s.wr i r v sel).pln = s.pln := by
  unfold State.wr; exact State.wrAt_pln _ _ _ _ _
@[simp] theorem State.wr_regs (i : Nat) (r : RegId) (v : Word) (sel : Nat) :
    (s.wr i r v sel).regs = SMap.put regReset (regKey r.blk i r.off sel) v s.regs := by
  unfold State.wr; exact State.wrAt_regs _ _ _ _ _
@[simp] theorem State.wr_shadow (i : Nat) (r : RegId) (v : Word) (sel : Nat) : (s.wr i r v sel).shadow = s.shadow := by
  unfold State.wr; exact State.wrAt_shadow _ _ _ _ _
@[simp] theorem State.wr_blk (i : Nat) (r : RegId) (v : Word) (sel : Nat) : (s.wr i r v sel).blk = s.blk := by
  unfold State.wr; exact State.wrAt_blk _ _ _ _ _
@[simp] theorem State.wr_mem (i : Nat) (r : RegId) (v : Word) (sel : Nat) : (s.wr i r v sel).mem = s.mem := by
  unfold State.wr; exact State.wrAt_mem _ _ _ _ _
@[simp] theorem State.wr_chan (i : Nat) (r : RegId) (v : Word) (sel : Nat) : (s.wr i r v sel).chan = s.chan := by
  unfold State.wr; exact State.wrAt_chan _ _ _ _ _
@[simp] theorem State.wr_cxh (i : Nat) (r : RegId) (v : Word) (sel : Nat) : (s.wr i r v sel).cxh = s.cxh := by
  unfold State.wr; exact State.wrAt_cxh _ _ _ _ _
@[simp] theorem State.wr_cmp (i : Nat) (r : RegId) (v : Word) (sel : Nat) : (s.wr i r v sel).cmp = s.cmp := by
  unfold State.wr; exact State.wrAt_cmp _ _ _ _ _
@[simp] theorem State.wr_mbx (i : Nat) (r : RegId) (v : Word) (sel : Nat) : (s.wr i r v sel).mbx = s.mbx := by
  unfold State.wr; exact State.wrAt_mbx _ _ _ _ _
@[simp] theorem State.wr_boot (i : Nat) (r : RegId) (v : Word) (sel : Nat) : (s.wr i r v sel).boot = s.boot := by
  unfold State.wr; exact State.wrAt_boot _ _ _ _ _
@[simp] theorem State.wr_sec (i : Nat) (r : RegId) (v : Word) (sel : Nat) : (s.wr i r v sel).sec = s.sec := by
  unfold State.wr; exact State.wrAt_sec _ _ _ _ _
@[simp] theorem State.wr_ras (i : Nat) (r : RegId) (v : Word) (sel : Nat) : (s.wr i r v sel).ras = s.ras := by
  unfold State.wr; exact State.wrAt_ras _ _ _ _ _
@[simp] theorem State.wr_dbg (i : Nat) (r : RegId) (v : Word) (sel : Nat) : (s.wr i r v sel).dbg = s.dbg := by
  unfold State.wr; exact State.wrAt_dbg _ _ _ _ _
@[simp] theorem State.wr_spr (i : Nat) (r : RegId) (v : Word) (sel : Nat) : (s.wr i r v sel).spr = s.spr := by
  unfold State.wr; exact State.wrAt_spr _ _ _ _ _
@[simp] theorem State.wr_psq (i : Nat) (r : RegId) (v : Word) (sel : Nat) : (s.wr i r v sel).psq = s.psq := by
  unfold State.wr; exact State.wrAt_psq _ _ _ _ _
@[simp] theorem State.wr_clk (i : Nat) (r : RegId) (v : Word) (sel : Nat) : (s.wr i r v sel).clk = s.clk := by
  unfold State.wr; exact State.wrAt_clk _ _ _ _ _
@[simp] theorem State.wr_out (i : Nat) (r : RegId) (v : Word) (sel : Nat) : (s.wr i r v sel).out = s.out := by
  unfold State.wr; exact State.wrAt_out _ _ _ _ _
@[simp] theorem State.wr_free (i : Nat) (r : RegId) (v : Word) (sel : Nat) : (s.wr i r v sel).free = s.free := by
  unfold State.wr; exact State.wrAt_free _ _ _ _ _
@[simp] theorem State.wr_pending (i : Nat) (r : RegId) (v : Word) (sel : Nat) : (s.wr i r v sel).pending = s.pending := by
  unfold State.wr; exact State.wrAt_pending _ _ _ _ _

/-! ### wr64 -/

@[simp] theorem State.wr64_tim (i : Nat) (r : RegId) (v : Nat) (sel : Nat) : (s.wr64 i r v sel).tim = s.tim := by
  unfold State.wr64; exact (State.wrAt_tim _ _ _ _ _).trans (State.wr_tim _ _ _ _ _)
@[simp] theorem State.wr64_pln (i : Nat) (r : RegId) (v : Nat) (sel : Nat) : (s.wr64 i r v sel).pln = s.pln := by
  unfold State.wr64; exact (State.wrAt_pln _ _ _ _ _).trans (State.wr_pln _ _ _ _ _)
@[simp] theorem State.wr64_shadow (i : Nat) (r : RegId) (v : Nat) (sel : Nat) : (s.wr64 i r v sel).shadow = s.shadow := by
  unfold State.wr64; exact (State.wrAt_shadow _ _ _ _ _).trans (State.wr_shadow _ _ _ _ _)
@[simp] theorem State.wr64_blk (i : Nat) (r : RegId) (v : Nat) (sel : Nat) : (s.wr64 i r v sel).blk = s.blk := by
  unfold State.wr64; exact (State.wrAt_blk _ _ _ _ _).trans (State.wr_blk _ _ _ _ _)
@[simp] theorem State.wr64_mem (i : Nat) (r : RegId) (v : Nat) (sel : Nat) : (s.wr64 i r v sel).mem = s.mem := by
  unfold State.wr64; exact (State.wrAt_mem _ _ _ _ _).trans (State.wr_mem _ _ _ _ _)
@[simp] theorem State.wr64_chan (i : Nat) (r : RegId) (v : Nat) (sel : Nat) : (s.wr64 i r v sel).chan = s.chan := by
  unfold State.wr64; exact (State.wrAt_chan _ _ _ _ _).trans (State.wr_chan _ _ _ _ _)
@[simp] theorem State.wr64_cxh (i : Nat) (r : RegId) (v : Nat) (sel : Nat) : (s.wr64 i r v sel).cxh = s.cxh := by
  unfold State.wr64; exact (State.wrAt_cxh _ _ _ _ _).trans (State.wr_cxh _ _ _ _ _)
@[simp] theorem State.wr64_cmp (i : Nat) (r : RegId) (v : Nat) (sel : Nat) : (s.wr64 i r v sel).cmp = s.cmp := by
  unfold State.wr64; exact (State.wrAt_cmp _ _ _ _ _).trans (State.wr_cmp _ _ _ _ _)
@[simp] theorem State.wr64_mbx (i : Nat) (r : RegId) (v : Nat) (sel : Nat) : (s.wr64 i r v sel).mbx = s.mbx := by
  unfold State.wr64; exact (State.wrAt_mbx _ _ _ _ _).trans (State.wr_mbx _ _ _ _ _)
@[simp] theorem State.wr64_boot (i : Nat) (r : RegId) (v : Nat) (sel : Nat) : (s.wr64 i r v sel).boot = s.boot := by
  unfold State.wr64; exact (State.wrAt_boot _ _ _ _ _).trans (State.wr_boot _ _ _ _ _)
@[simp] theorem State.wr64_sec (i : Nat) (r : RegId) (v : Nat) (sel : Nat) : (s.wr64 i r v sel).sec = s.sec := by
  unfold State.wr64; exact (State.wrAt_sec _ _ _ _ _).trans (State.wr_sec _ _ _ _ _)
@[simp] theorem State.wr64_ras (i : Nat) (r : RegId) (v : Nat) (sel : Nat) : (s.wr64 i r v sel).ras = s.ras := by
  unfold State.wr64; exact (State.wrAt_ras _ _ _ _ _).trans (State.wr_ras _ _ _ _ _)
@[simp] theorem State.wr64_dbg (i : Nat) (r : RegId) (v : Nat) (sel : Nat) : (s.wr64 i r v sel).dbg = s.dbg := by
  unfold State.wr64; exact (State.wrAt_dbg _ _ _ _ _).trans (State.wr_dbg _ _ _ _ _)
@[simp] theorem State.wr64_spr (i : Nat) (r : RegId) (v : Nat) (sel : Nat) : (s.wr64 i r v sel).spr = s.spr := by
  unfold State.wr64; exact (State.wrAt_spr _ _ _ _ _).trans (State.wr_spr _ _ _ _ _)
@[simp] theorem State.wr64_psq (i : Nat) (r : RegId) (v : Nat) (sel : Nat) : (s.wr64 i r v sel).psq = s.psq := by
  unfold State.wr64; exact (State.wrAt_psq _ _ _ _ _).trans (State.wr_psq _ _ _ _ _)
@[simp] theorem State.wr64_clk (i : Nat) (r : RegId) (v : Nat) (sel : Nat) : (s.wr64 i r v sel).clk = s.clk := by
  unfold State.wr64; exact (State.wrAt_clk _ _ _ _ _).trans (State.wr_clk _ _ _ _ _)
@[simp] theorem State.wr64_out (i : Nat) (r : RegId) (v : Nat) (sel : Nat) : (s.wr64 i r v sel).out = s.out := by
  unfold State.wr64; exact (State.wrAt_out _ _ _ _ _).trans (State.wr_out _ _ _ _ _)
@[simp] theorem State.wr64_free (i : Nat) (r : RegId) (v : Nat) (sel : Nat) : (s.wr64 i r v sel).free = s.free := by
  unfold State.wr64; exact (State.wrAt_free _ _ _ _ _).trans (State.wr_free _ _ _ _ _)
@[simp] theorem State.wr64_pending (i : Nat) (r : RegId) (v : Nat) (sel : Nat) : (s.wr64 i r v sel).pending = s.pending := by
  unfold State.wr64; exact (State.wrAt_pending _ _ _ _ _).trans (State.wr_pending _ _ _ _ _)

/-! ### bump -/

@[simp] theorem State.bump_tim (i : Nat) (r : RegId) (n sel : Nat) : (s.bump i r n sel).tim = s.tim := by
  unfold State.bump; exact State.wr_tim _ _ _ _ _
@[simp] theorem State.bump_pln (i : Nat) (r : RegId) (n sel : Nat) : (s.bump i r n sel).pln = s.pln := by
  unfold State.bump; exact State.wr_pln _ _ _ _ _
@[simp] theorem State.bump_shadow (i : Nat) (r : RegId) (n sel : Nat) : (s.bump i r n sel).shadow = s.shadow := by
  unfold State.bump; exact State.wr_shadow _ _ _ _ _
@[simp] theorem State.bump_blk (i : Nat) (r : RegId) (n sel : Nat) : (s.bump i r n sel).blk = s.blk := by
  unfold State.bump; exact State.wr_blk _ _ _ _ _
@[simp] theorem State.bump_mem (i : Nat) (r : RegId) (n sel : Nat) : (s.bump i r n sel).mem = s.mem := by
  unfold State.bump; exact State.wr_mem _ _ _ _ _
@[simp] theorem State.bump_chan (i : Nat) (r : RegId) (n sel : Nat) : (s.bump i r n sel).chan = s.chan := by
  unfold State.bump; exact State.wr_chan _ _ _ _ _
@[simp] theorem State.bump_cxh (i : Nat) (r : RegId) (n sel : Nat) : (s.bump i r n sel).cxh = s.cxh := by
  unfold State.bump; exact State.wr_cxh _ _ _ _ _
@[simp] theorem State.bump_cmp (i : Nat) (r : RegId) (n sel : Nat) : (s.bump i r n sel).cmp = s.cmp := by
  unfold State.bump; exact State.wr_cmp _ _ _ _ _
@[simp] theorem State.bump_mbx (i : Nat) (r : RegId) (n sel : Nat) : (s.bump i r n sel).mbx = s.mbx := by
  unfold State.bump; exact State.wr_mbx _ _ _ _ _
@[simp] theorem State.bump_boot (i : Nat) (r : RegId) (n sel : Nat) : (s.bump i r n sel).boot = s.boot := by
  unfold State.bump; exact State.wr_boot _ _ _ _ _
@[simp] theorem State.bump_sec (i : Nat) (r : RegId) (n sel : Nat) : (s.bump i r n sel).sec = s.sec := by
  unfold State.bump; exact State.wr_sec _ _ _ _ _
@[simp] theorem State.bump_ras (i : Nat) (r : RegId) (n sel : Nat) : (s.bump i r n sel).ras = s.ras := by
  unfold State.bump; exact State.wr_ras _ _ _ _ _
@[simp] theorem State.bump_dbg (i : Nat) (r : RegId) (n sel : Nat) : (s.bump i r n sel).dbg = s.dbg := by
  unfold State.bump; exact State.wr_dbg _ _ _ _ _
@[simp] theorem State.bump_spr (i : Nat) (r : RegId) (n sel : Nat) : (s.bump i r n sel).spr = s.spr := by
  unfold State.bump; exact State.wr_spr _ _ _ _ _
@[simp] theorem State.bump_psq (i : Nat) (r : RegId) (n sel : Nat) : (s.bump i r n sel).psq = s.psq := by
  unfold State.bump; exact State.wr_psq _ _ _ _ _
@[simp] theorem State.bump_clk (i : Nat) (r : RegId) (n sel : Nat) : (s.bump i r n sel).clk = s.clk := by
  unfold State.bump; exact State.wr_clk _ _ _ _ _
@[simp] theorem State.bump_out (i : Nat) (r : RegId) (n sel : Nat) : (s.bump i r n sel).out = s.out := by
  unfold State.bump; exact State.wr_out _ _ _ _ _
@[simp] theorem State.bump_free (i : Nat) (r : RegId) (n sel : Nat) : (s.bump i r n sel).free = s.free := by
  unfold State.bump; exact State.wr_free _ _ _ _ _
@[simp] theorem State.bump_pending (i : Nat) (r : RegId) (n sel : Nat) : (s.bump i r n sel).pending = s.pending := by
  unfold State.bump; exact State.wr_pending _ _ _ _ _

/-! ### bumpF -/

@[simp] theorem State.bumpF_tim (i : Nat) (r : RegId) (hi lo n sel : Nat) : (s.bumpF i r hi lo n sel).tim = s.tim := by
  unfold State.bumpF; exact State.wr_tim _ _ _ _ _
@[simp] theorem State.bumpF_pln (i : Nat) (r : RegId) (hi lo n sel : Nat) : (s.bumpF i r hi lo n sel).pln = s.pln := by
  unfold State.bumpF; exact State.wr_pln _ _ _ _ _
@[simp] theorem State.bumpF_shadow (i : Nat) (r : RegId) (hi lo n sel : Nat) : (s.bumpF i r hi lo n sel).shadow = s.shadow := by
  unfold State.bumpF; exact State.wr_shadow _ _ _ _ _
@[simp] theorem State.bumpF_blk (i : Nat) (r : RegId) (hi lo n sel : Nat) : (s.bumpF i r hi lo n sel).blk = s.blk := by
  unfold State.bumpF; exact State.wr_blk _ _ _ _ _
@[simp] theorem State.bumpF_mem (i : Nat) (r : RegId) (hi lo n sel : Nat) : (s.bumpF i r hi lo n sel).mem = s.mem := by
  unfold State.bumpF; exact State.wr_mem _ _ _ _ _
@[simp] theorem State.bumpF_chan (i : Nat) (r : RegId) (hi lo n sel : Nat) : (s.bumpF i r hi lo n sel).chan = s.chan := by
  unfold State.bumpF; exact State.wr_chan _ _ _ _ _
@[simp] theorem State.bumpF_cxh (i : Nat) (r : RegId) (hi lo n sel : Nat) : (s.bumpF i r hi lo n sel).cxh = s.cxh := by
  unfold State.bumpF; exact State.wr_cxh _ _ _ _ _
@[simp] theorem State.bumpF_cmp (i : Nat) (r : RegId) (hi lo n sel : Nat) : (s.bumpF i r hi lo n sel).cmp = s.cmp := by
  unfold State.bumpF; exact State.wr_cmp _ _ _ _ _
@[simp] theorem State.bumpF_mbx (i : Nat) (r : RegId) (hi lo n sel : Nat) : (s.bumpF i r hi lo n sel).mbx = s.mbx := by
  unfold State.bumpF; exact State.wr_mbx _ _ _ _ _
@[simp] theorem State.bumpF_boot (i : Nat) (r : RegId) (hi lo n sel : Nat) : (s.bumpF i r hi lo n sel).boot = s.boot := by
  unfold State.bumpF; exact State.wr_boot _ _ _ _ _
@[simp] theorem State.bumpF_sec (i : Nat) (r : RegId) (hi lo n sel : Nat) : (s.bumpF i r hi lo n sel).sec = s.sec := by
  unfold State.bumpF; exact State.wr_sec _ _ _ _ _
@[simp] theorem State.bumpF_ras (i : Nat) (r : RegId) (hi lo n sel : Nat) : (s.bumpF i r hi lo n sel).ras = s.ras := by
  unfold State.bumpF; exact State.wr_ras _ _ _ _ _
@[simp] theorem State.bumpF_dbg (i : Nat) (r : RegId) (hi lo n sel : Nat) : (s.bumpF i r hi lo n sel).dbg = s.dbg := by
  unfold State.bumpF; exact State.wr_dbg _ _ _ _ _
@[simp] theorem State.bumpF_spr (i : Nat) (r : RegId) (hi lo n sel : Nat) : (s.bumpF i r hi lo n sel).spr = s.spr := by
  unfold State.bumpF; exact State.wr_spr _ _ _ _ _
@[simp] theorem State.bumpF_psq (i : Nat) (r : RegId) (hi lo n sel : Nat) : (s.bumpF i r hi lo n sel).psq = s.psq := by
  unfold State.bumpF; exact State.wr_psq _ _ _ _ _
@[simp] theorem State.bumpF_clk (i : Nat) (r : RegId) (hi lo n sel : Nat) : (s.bumpF i r hi lo n sel).clk = s.clk := by
  unfold State.bumpF; exact State.wr_clk _ _ _ _ _
@[simp] theorem State.bumpF_out (i : Nat) (r : RegId) (hi lo n sel : Nat) : (s.bumpF i r hi lo n sel).out = s.out := by
  unfold State.bumpF; exact State.wr_out _ _ _ _ _
@[simp] theorem State.bumpF_free (i : Nat) (r : RegId) (hi lo n sel : Nat) : (s.bumpF i r hi lo n sel).free = s.free := by
  unfold State.bumpF; exact State.wr_free _ _ _ _ _
@[simp] theorem State.bumpF_pending (i : Nat) (r : RegId) (hi lo n sel : Nat) : (s.bumpF i r hi lo n sel).pending = s.pending := by
  unfold State.bumpF; exact State.wr_pending _ _ _ _ _

/-! ### bump64 -/

@[simp] theorem State.bump64_tim (i : Nat) (r : RegId) (n sel : Nat) : (s.bump64 i r n sel).tim = s.tim := by
  unfold State.bump64; exact State.wr64_tim _ _ _ _ _
@[simp] theorem State.bump64_pln (i : Nat) (r : RegId) (n sel : Nat) : (s.bump64 i r n sel).pln = s.pln := by
  unfold State.bump64; exact State.wr64_pln _ _ _ _ _
@[simp] theorem State.bump64_shadow (i : Nat) (r : RegId) (n sel : Nat) : (s.bump64 i r n sel).shadow = s.shadow := by
  unfold State.bump64; exact State.wr64_shadow _ _ _ _ _
@[simp] theorem State.bump64_blk (i : Nat) (r : RegId) (n sel : Nat) : (s.bump64 i r n sel).blk = s.blk := by
  unfold State.bump64; exact State.wr64_blk _ _ _ _ _
@[simp] theorem State.bump64_mem (i : Nat) (r : RegId) (n sel : Nat) : (s.bump64 i r n sel).mem = s.mem := by
  unfold State.bump64; exact State.wr64_mem _ _ _ _ _
@[simp] theorem State.bump64_chan (i : Nat) (r : RegId) (n sel : Nat) : (s.bump64 i r n sel).chan = s.chan := by
  unfold State.bump64; exact State.wr64_chan _ _ _ _ _
@[simp] theorem State.bump64_cxh (i : Nat) (r : RegId) (n sel : Nat) : (s.bump64 i r n sel).cxh = s.cxh := by
  unfold State.bump64; exact State.wr64_cxh _ _ _ _ _
@[simp] theorem State.bump64_cmp (i : Nat) (r : RegId) (n sel : Nat) : (s.bump64 i r n sel).cmp = s.cmp := by
  unfold State.bump64; exact State.wr64_cmp _ _ _ _ _
@[simp] theorem State.bump64_mbx (i : Nat) (r : RegId) (n sel : Nat) : (s.bump64 i r n sel).mbx = s.mbx := by
  unfold State.bump64; exact State.wr64_mbx _ _ _ _ _
@[simp] theorem State.bump64_boot (i : Nat) (r : RegId) (n sel : Nat) : (s.bump64 i r n sel).boot = s.boot := by
  unfold State.bump64; exact State.wr64_boot _ _ _ _ _
@[simp] theorem State.bump64_sec (i : Nat) (r : RegId) (n sel : Nat) : (s.bump64 i r n sel).sec = s.sec := by
  unfold State.bump64; exact State.wr64_sec _ _ _ _ _
@[simp] theorem State.bump64_ras (i : Nat) (r : RegId) (n sel : Nat) : (s.bump64 i r n sel).ras = s.ras := by
  unfold State.bump64; exact State.wr64_ras _ _ _ _ _
@[simp] theorem State.bump64_dbg (i : Nat) (r : RegId) (n sel : Nat) : (s.bump64 i r n sel).dbg = s.dbg := by
  unfold State.bump64; exact State.wr64_dbg _ _ _ _ _
@[simp] theorem State.bump64_spr (i : Nat) (r : RegId) (n sel : Nat) : (s.bump64 i r n sel).spr = s.spr := by
  unfold State.bump64; exact State.wr64_spr _ _ _ _ _
@[simp] theorem State.bump64_psq (i : Nat) (r : RegId) (n sel : Nat) : (s.bump64 i r n sel).psq = s.psq := by
  unfold State.bump64; exact State.wr64_psq _ _ _ _ _
@[simp] theorem State.bump64_clk (i : Nat) (r : RegId) (n sel : Nat) : (s.bump64 i r n sel).clk = s.clk := by
  unfold State.bump64; exact State.wr64_clk _ _ _ _ _
@[simp] theorem State.bump64_out (i : Nat) (r : RegId) (n sel : Nat) : (s.bump64 i r n sel).out = s.out := by
  unfold State.bump64; exact State.wr64_out _ _ _ _ _
@[simp] theorem State.bump64_free (i : Nat) (r : RegId) (n sel : Nat) : (s.bump64 i r n sel).free = s.free := by
  unfold State.bump64; exact State.wr64_free _ _ _ _ _
@[simp] theorem State.bump64_pending (i : Nat) (r : RegId) (n sel : Nat) : (s.bump64 i r n sel).pending = s.pending := by
  unfold State.bump64; exact State.wr64_pending _ _ _ _ _

/-! ### updCh -/

@[simp] theorem State.updCh_tim (c : Nat) (f : Chan → Chan) : (s.updCh c f).tim = s.tim := by
  unfold State.updCh; exact State.tim_mk
@[simp] theorem State.updCh_pln (c : Nat) (f : Chan → Chan) : (s.updCh c f).pln = s.pln := by
  unfold State.updCh; exact State.pln_mk
@[simp] theorem State.updCh_regs (c : Nat) (f : Chan → Chan) : (s.updCh c f).regs = s.regs := by
  unfold State.updCh; exact State.regs_mk
@[simp] theorem State.updCh_shadow (c : Nat) (f : Chan → Chan) : (s.updCh c f).shadow = s.shadow := by
  unfold State.updCh; exact State.shadow_mk
@[simp] theorem State.updCh_blk (c : Nat) (f : Chan → Chan) : (s.updCh c f).blk = s.blk := by
  unfold State.updCh; exact State.blk_mk
@[simp] theorem State.updCh_mem (c : Nat) (f : Chan → Chan) : (s.updCh c f).mem = s.mem := by
  unfold State.updCh; exact State.mem_mk
@[simp] theorem State.updCh_chan (c : Nat) (f : Chan → Chan) : (s.updCh c f).chan = s.chan.upd c f := by
  unfold State.updCh; exact State.chan_mk
@[simp] theorem State.updCh_cxh (c : Nat) (f : Chan → Chan) : (s.updCh c f).cxh = s.cxh := by
  unfold State.updCh; exact State.cxh_mk
@[simp] theorem State.updCh_cmp (c : Nat) (f : Chan → Chan) : (s.updCh c f).cmp = s.cmp := by
  unfold State.updCh; exact State.cmp_mk
@[simp] theorem State.updCh_mbx (c : Nat) (f : Chan → Chan) : (s.updCh c f).mbx = s.mbx := by
  unfold State.updCh; exact State.mbx_mk
@[simp] theorem State.updCh_boot (c : Nat) (f : Chan → Chan) : (s.updCh c f).boot = s.boot := by
  unfold State.updCh; exact State.boot_mk
@[simp] theorem State.updCh_sec (c : Nat) (f : Chan → Chan) : (s.updCh c f).sec = s.sec := by
  unfold State.updCh; exact State.sec_mk
@[simp] theorem State.updCh_ras (c : Nat) (f : Chan → Chan) : (s.updCh c f).ras = s.ras := by
  unfold State.updCh; exact State.ras_mk
@[simp] theorem State.updCh_dbg (c : Nat) (f : Chan → Chan) : (s.updCh c f).dbg = s.dbg := by
  unfold State.updCh; exact State.dbg_mk
@[simp] theorem State.updCh_spr (c : Nat) (f : Chan → Chan) : (s.updCh c f).spr = s.spr := by
  unfold State.updCh; exact State.spr_mk
@[simp] theorem State.updCh_psq (c : Nat) (f : Chan → Chan) : (s.updCh c f).psq = s.psq := by
  unfold State.updCh; exact State.psq_mk
@[simp] theorem State.updCh_clk (c : Nat) (f : Chan → Chan) : (s.updCh c f).clk = s.clk := by
  unfold State.updCh; exact State.clk_mk
@[simp] theorem State.updCh_out (c : Nat) (f : Chan → Chan) : (s.updCh c f).out = s.out := by
  unfold State.updCh; exact State.out_mk
@[simp] theorem State.updCh_free (c : Nat) (f : Chan → Chan) : (s.updCh c f).free = s.free := by
  unfold State.updCh; exact State.free_mk
@[simp] theorem State.updCh_pending (c : Nat) (f : Chan → Chan) : (s.updCh c f).pending = s.pending := by
  unfold State.updCh; exact State.pending_mk

/-! ### updBlk -/

@[simp] theorem State.updBlk_tim (p : Page) (f : BlkSt → BlkSt) : (s.updBlk p f).tim = s.tim := by
  unfold State.updBlk; exact State.tim_mk
@[simp] theorem State.updBlk_pln (p : Page) (f : BlkSt → BlkSt) : (s.updBlk p f).pln = s.pln := by
  unfold State.updBlk; exact State.pln_mk
@[simp] theorem State.updBlk_regs (p : Page) (f : BlkSt → BlkSt) : (s.updBlk p f).regs = s.regs := by
  unfold State.updBlk; exact State.regs_mk
@[simp] theorem State.updBlk_shadow (p : Page) (f : BlkSt → BlkSt) : (s.updBlk p f).shadow = s.shadow := by
  unfold State.updBlk; exact State.shadow_mk
@[simp] theorem State.updBlk_blk (p : Page) (f : BlkSt → BlkSt) : (s.updBlk p f).blk = s.blk.upd p.key f := by
  unfold State.updBlk; exact State.blk_mk
@[simp] theorem State.updBlk_mem (p : Page) (f : BlkSt → BlkSt) : (s.updBlk p f).mem = s.mem := by
  unfold State.updBlk; exact State.mem_mk
@[simp] theorem State.updBlk_chan (p : Page) (f : BlkSt → BlkSt) : (s.updBlk p f).chan = s.chan := by
  unfold State.updBlk; exact State.chan_mk
@[simp] theorem State.updBlk_cxh (p : Page) (f : BlkSt → BlkSt) : (s.updBlk p f).cxh = s.cxh := by
  unfold State.updBlk; exact State.cxh_mk
@[simp] theorem State.updBlk_cmp (p : Page) (f : BlkSt → BlkSt) : (s.updBlk p f).cmp = s.cmp := by
  unfold State.updBlk; exact State.cmp_mk
@[simp] theorem State.updBlk_mbx (p : Page) (f : BlkSt → BlkSt) : (s.updBlk p f).mbx = s.mbx := by
  unfold State.updBlk; exact State.mbx_mk
@[simp] theorem State.updBlk_boot (p : Page) (f : BlkSt → BlkSt) : (s.updBlk p f).boot = s.boot := by
  unfold State.updBlk; exact State.boot_mk
@[simp] theorem State.updBlk_sec (p : Page) (f : BlkSt → BlkSt) : (s.updBlk p f).sec = s.sec := by
  unfold State.updBlk; exact State.sec_mk
@[simp] theorem State.updBlk_ras (p : Page) (f : BlkSt → BlkSt) : (s.updBlk p f).ras = s.ras := by
  unfold State.updBlk; exact State.ras_mk
@[simp] theorem State.updBlk_dbg (p : Page) (f : BlkSt → BlkSt) : (s.updBlk p f).dbg = s.dbg := by
  unfold State.updBlk; exact State.dbg_mk
@[simp] theorem State.updBlk_spr (p : Page) (f : BlkSt → BlkSt) : (s.updBlk p f).spr = s.spr := by
  unfold State.updBlk; exact State.spr_mk
@[simp] theorem State.updBlk_psq (p : Page) (f : BlkSt → BlkSt) : (s.updBlk p f).psq = s.psq := by
  unfold State.updBlk; exact State.psq_mk
@[simp] theorem State.updBlk_clk (p : Page) (f : BlkSt → BlkSt) : (s.updBlk p f).clk = s.clk := by
  unfold State.updBlk; exact State.clk_mk
@[simp] theorem State.updBlk_out (p : Page) (f : BlkSt → BlkSt) : (s.updBlk p f).out = s.out := by
  unfold State.updBlk; exact State.out_mk
@[simp] theorem State.updBlk_free (p : Page) (f : BlkSt → BlkSt) : (s.updBlk p f).free = s.free := by
  unfold State.updBlk; exact State.free_mk
@[simp] theorem State.updBlk_pending (p : Page) (f : BlkSt → BlkSt) : (s.updBlk p f).pending = s.pending := by
  unfold State.updBlk; exact State.pending_mk

/-! ### emit -/

@[simp] theorem State.emit_tim (m : OutMsg) : (s.emit m).tim = s.tim := by
  unfold State.emit; exact State.tim_mk
@[simp] theorem State.emit_pln (m : OutMsg) : (s.emit m).pln = s.pln := by
  unfold State.emit; exact State.pln_mk
@[simp] theorem State.emit_regs (m : OutMsg) : (s.emit m).regs = s.regs := by
  unfold State.emit; exact State.regs_mk
@[simp] theorem State.emit_shadow (m : OutMsg) : (s.emit m).shadow = s.shadow := by
  unfold State.emit; exact State.shadow_mk
@[simp] theorem State.emit_blk (m : OutMsg) : (s.emit m).blk = s.blk := by
  unfold State.emit; exact State.blk_mk
@[simp] theorem State.emit_mem (m : OutMsg) : (s.emit m).mem = s.mem := by
  unfold State.emit; exact State.mem_mk
@[simp] theorem State.emit_chan (m : OutMsg) : (s.emit m).chan = s.chan := by
  unfold State.emit; exact State.chan_mk
@[simp] theorem State.emit_cxh (m : OutMsg) : (s.emit m).cxh = s.cxh := by
  unfold State.emit; exact State.cxh_mk
@[simp] theorem State.emit_cmp (m : OutMsg) : (s.emit m).cmp = s.cmp := by
  unfold State.emit; exact State.cmp_mk
@[simp] theorem State.emit_mbx (m : OutMsg) : (s.emit m).mbx = s.mbx := by
  unfold State.emit; exact State.mbx_mk
@[simp] theorem State.emit_boot (m : OutMsg) : (s.emit m).boot = s.boot := by
  unfold State.emit; exact State.boot_mk
@[simp] theorem State.emit_sec (m : OutMsg) : (s.emit m).sec = s.sec := by
  unfold State.emit; exact State.sec_mk
@[simp] theorem State.emit_ras (m : OutMsg) : (s.emit m).ras = s.ras := by
  unfold State.emit; exact State.ras_mk
@[simp] theorem State.emit_dbg (m : OutMsg) : (s.emit m).dbg = s.dbg := by
  unfold State.emit; exact State.dbg_mk
@[simp] theorem State.emit_spr (m : OutMsg) : (s.emit m).spr = s.spr := by
  unfold State.emit; exact State.spr_mk
@[simp] theorem State.emit_psq (m : OutMsg) : (s.emit m).psq = s.psq := by
  unfold State.emit; exact State.psq_mk
@[simp] theorem State.emit_clk (m : OutMsg) : (s.emit m).clk = s.clk := by
  unfold State.emit; exact State.clk_mk
@[simp] theorem State.emit_out (m : OutMsg) : (s.emit m).out = s.out ++ [m] := by
  unfold State.emit; exact State.out_mk
@[simp] theorem State.emit_free (m : OutMsg) : (s.emit m).free = s.free := by
  unfold State.emit; exact State.free_mk
@[simp] theorem State.emit_pending (m : OutMsg) : (s.emit m).pending = s.pending := by
  unfold State.emit; exact State.pending_mk

/-! ### mwrite -/

@[simp] theorem State.mwrite_tim (a : Nat) (bs : List Byte) : (s.mwrite a bs).tim = s.tim := by
  unfold State.mwrite; exact State.tim_mk
@[simp] theorem State.mwrite_pln (a : Nat) (bs : List Byte) : (s.mwrite a bs).pln = s.pln := by
  unfold State.mwrite; exact State.pln_mk
@[simp] theorem State.mwrite_regs (a : Nat) (bs : List Byte) : (s.mwrite a bs).regs = s.regs := by
  unfold State.mwrite; exact State.regs_mk
@[simp] theorem State.mwrite_shadow (a : Nat) (bs : List Byte) : (s.mwrite a bs).shadow = s.shadow := by
  unfold State.mwrite; exact State.shadow_mk
@[simp] theorem State.mwrite_blk (a : Nat) (bs : List Byte) : (s.mwrite a bs).blk = s.blk := by
  unfold State.mwrite; exact State.blk_mk
@[simp] theorem State.mwrite_mem (a : Nat) (bs : List Byte) : (s.mwrite a bs).mem = s.memWith a bs := by
  unfold State.mwrite; exact State.mem_mk
@[simp] theorem State.mwrite_chan (a : Nat) (bs : List Byte) : (s.mwrite a bs).chan = s.chan := by
  unfold State.mwrite; exact State.chan_mk
@[simp] theorem State.mwrite_cxh (a : Nat) (bs : List Byte) : (s.mwrite a bs).cxh = s.cxh := by
  unfold State.mwrite; exact State.cxh_mk
@[simp] theorem State.mwrite_cmp (a : Nat) (bs : List Byte) : (s.mwrite a bs).cmp = s.cmp := by
  unfold State.mwrite; exact State.cmp_mk
@[simp] theorem State.mwrite_mbx (a : Nat) (bs : List Byte) : (s.mwrite a bs).mbx = s.mbx := by
  unfold State.mwrite; exact State.mbx_mk
@[simp] theorem State.mwrite_boot (a : Nat) (bs : List Byte) : (s.mwrite a bs).boot = s.boot := by
  unfold State.mwrite; exact State.boot_mk
@[simp] theorem State.mwrite_sec (a : Nat) (bs : List Byte) : (s.mwrite a bs).sec = s.sec := by
  unfold State.mwrite; exact State.sec_mk
@[simp] theorem State.mwrite_ras (a : Nat) (bs : List Byte) : (s.mwrite a bs).ras = s.ras := by
  unfold State.mwrite; exact State.ras_mk
@[simp] theorem State.mwrite_dbg (a : Nat) (bs : List Byte) : (s.mwrite a bs).dbg = s.dbg := by
  unfold State.mwrite; exact State.dbg_mk
@[simp] theorem State.mwrite_spr (a : Nat) (bs : List Byte) : (s.mwrite a bs).spr = s.spr := by
  unfold State.mwrite; exact State.spr_mk
@[simp] theorem State.mwrite_psq (a : Nat) (bs : List Byte) : (s.mwrite a bs).psq = s.psq := by
  unfold State.mwrite; exact State.psq_mk
@[simp] theorem State.mwrite_clk (a : Nat) (bs : List Byte) : (s.mwrite a bs).clk = s.clk := by
  unfold State.mwrite; exact State.clk_mk
@[simp] theorem State.mwrite_out (a : Nat) (bs : List Byte) : (s.mwrite a bs).out = s.out := by
  unfold State.mwrite; exact State.out_mk
@[simp] theorem State.mwrite_free (a : Nat) (bs : List Byte) : (s.mwrite a bs).free = s.free := by
  unfold State.mwrite; exact State.free_mk
@[simp] theorem State.mwrite_pending (a : Nat) (bs : List Byte) : (s.mwrite a bs).pending = s.pending := by
  unfold State.mwrite; exact State.pending_mk

/-! ### mpoison -/

@[simp] theorem State.mpoison_tim (a n : Nat) : (s.mpoison a n).tim = s.tim := by
  unfold State.mpoison; exact State.tim_mk
@[simp] theorem State.mpoison_pln (a n : Nat) : (s.mpoison a n).pln = s.pln := by
  unfold State.mpoison; exact State.pln_mk
@[simp] theorem State.mpoison_regs (a n : Nat) : (s.mpoison a n).regs = s.regs := by
  unfold State.mpoison; exact State.regs_mk
@[simp] theorem State.mpoison_shadow (a n : Nat) : (s.mpoison a n).shadow = s.shadow := by
  unfold State.mpoison; exact State.shadow_mk
@[simp] theorem State.mpoison_blk (a n : Nat) : (s.mpoison a n).blk = s.blk := by
  unfold State.mpoison; exact State.blk_mk
@[simp] theorem State.mpoison_mem (a n : Nat) :
    (s.mpoison a n).mem = if s.hasSpan a n then s.mem.mark a n else s.mem := by
  unfold State.mpoison; exact State.mem_mk
@[simp] theorem State.mpoison_chan (a n : Nat) : (s.mpoison a n).chan = s.chan := by
  unfold State.mpoison; exact State.chan_mk
@[simp] theorem State.mpoison_cxh (a n : Nat) : (s.mpoison a n).cxh = s.cxh := by
  unfold State.mpoison; exact State.cxh_mk
@[simp] theorem State.mpoison_cmp (a n : Nat) : (s.mpoison a n).cmp = s.cmp := by
  unfold State.mpoison; exact State.cmp_mk
@[simp] theorem State.mpoison_mbx (a n : Nat) : (s.mpoison a n).mbx = s.mbx := by
  unfold State.mpoison; exact State.mbx_mk
@[simp] theorem State.mpoison_boot (a n : Nat) : (s.mpoison a n).boot = s.boot := by
  unfold State.mpoison; exact State.boot_mk
@[simp] theorem State.mpoison_sec (a n : Nat) : (s.mpoison a n).sec = s.sec := by
  unfold State.mpoison; exact State.sec_mk
@[simp] theorem State.mpoison_ras (a n : Nat) : (s.mpoison a n).ras = s.ras := by
  unfold State.mpoison; exact State.ras_mk
@[simp] theorem State.mpoison_dbg (a n : Nat) : (s.mpoison a n).dbg = s.dbg := by
  unfold State.mpoison; exact State.dbg_mk
@[simp] theorem State.mpoison_spr (a n : Nat) : (s.mpoison a n).spr = s.spr := by
  unfold State.mpoison; exact State.spr_mk
@[simp] theorem State.mpoison_psq (a n : Nat) : (s.mpoison a n).psq = s.psq := by
  unfold State.mpoison; exact State.psq_mk
@[simp] theorem State.mpoison_clk (a n : Nat) : (s.mpoison a n).clk = s.clk := by
  unfold State.mpoison; exact State.clk_mk
@[simp] theorem State.mpoison_out (a n : Nat) : (s.mpoison a n).out = s.out := by
  unfold State.mpoison; exact State.out_mk
@[simp] theorem State.mpoison_free (a n : Nat) : (s.mpoison a n).free = s.free := by
  unfold State.mpoison; exact State.free_mk
@[simp] theorem State.mpoison_pending (a n : Nat) : (s.mpoison a n).pending = s.pending := by
  unfold State.mpoison; exact State.pending_mk

/-! ### pass -/

@[simp] theorem State.pass_pln (n : Nat) : (s.pass n).pln = s.pln := by
  unfold State.pass; exact State.pln_mk
@[simp] theorem State.pass_regs (n : Nat) : (s.pass n).regs = s.regs := by
  unfold State.pass; exact State.regs_mk
@[simp] theorem State.pass_shadow (n : Nat) : (s.pass n).shadow = s.shadow := by
  unfold State.pass; exact State.shadow_mk
@[simp] theorem State.pass_blk (n : Nat) : (s.pass n).blk = s.blk := by
  unfold State.pass; exact State.blk_mk
@[simp] theorem State.pass_mem (n : Nat) : (s.pass n).mem = s.mem := by
  unfold State.pass; exact State.mem_mk
@[simp] theorem State.pass_chan (n : Nat) : (s.pass n).chan = s.chan := by
  unfold State.pass; exact State.chan_mk
@[simp] theorem State.pass_cxh (n : Nat) : (s.pass n).cxh = s.cxh := by
  unfold State.pass; exact State.cxh_mk
@[simp] theorem State.pass_cmp (n : Nat) : (s.pass n).cmp = s.cmp := by
  unfold State.pass; exact State.cmp_mk
@[simp] theorem State.pass_mbx (n : Nat) : (s.pass n).mbx = s.mbx := by
  unfold State.pass; exact State.mbx_mk
@[simp] theorem State.pass_boot (n : Nat) : (s.pass n).boot = s.boot := by
  unfold State.pass; exact State.boot_mk
@[simp] theorem State.pass_sec (n : Nat) : (s.pass n).sec = s.sec := by
  unfold State.pass; exact State.sec_mk
@[simp] theorem State.pass_ras (n : Nat) : (s.pass n).ras = s.ras := by
  unfold State.pass; exact State.ras_mk
@[simp] theorem State.pass_dbg (n : Nat) : (s.pass n).dbg = s.dbg := by
  unfold State.pass; exact State.dbg_mk
@[simp] theorem State.pass_spr (n : Nat) : (s.pass n).spr = s.spr := by
  unfold State.pass; exact State.spr_mk
@[simp] theorem State.pass_psq (n : Nat) : (s.pass n).psq = s.psq := by
  unfold State.pass; exact State.psq_mk
@[simp] theorem State.pass_clk (n : Nat) : (s.pass n).clk = s.clk := by
  unfold State.pass; exact State.clk_mk
@[simp] theorem State.pass_out (n : Nat) : (s.pass n).out = s.out := by
  unfold State.pass; exact State.out_mk
@[simp] theorem State.pass_free (n : Nat) : (s.pass n).free = s.free := by
  unfold State.pass; exact State.free_mk
@[simp] theorem State.pass_pending (n : Nat) : (s.pass n).pending = s.pending := by
  unfold State.pass; exact State.pending_mk

/-! ### setTim -/

@[simp] theorem State.setTim_tim (f : Tim → Tim) : (s.setTim f).tim = f s.tim := by
  unfold State.setTim; exact State.tim_mk
@[simp] theorem State.setTim_pln (f : Tim → Tim) : (s.setTim f).pln = s.pln := by
  unfold State.setTim; exact State.pln_mk
@[simp] theorem State.setTim_regs (f : Tim → Tim) : (s.setTim f).regs = s.regs := by
  unfold State.setTim; exact State.regs_mk
@[simp] theorem State.setTim_shadow (f : Tim → Tim) : (s.setTim f).shadow = s.shadow := by
  unfold State.setTim; exact State.shadow_mk
@[simp] theorem State.setTim_blk (f : Tim → Tim) : (s.setTim f).blk = s.blk := by
  unfold State.setTim; exact State.blk_mk
@[simp] theorem State.setTim_mem (f : Tim → Tim) : (s.setTim f).mem = s.mem := by
  unfold State.setTim; exact State.mem_mk
@[simp] theorem State.setTim_chan (f : Tim → Tim) : (s.setTim f).chan = s.chan := by
  unfold State.setTim; exact State.chan_mk
@[simp] theorem State.setTim_cxh (f : Tim → Tim) : (s.setTim f).cxh = s.cxh := by
  unfold State.setTim; exact State.cxh_mk
@[simp] theorem State.setTim_cmp (f : Tim → Tim) : (s.setTim f).cmp = s.cmp := by
  unfold State.setTim; exact State.cmp_mk
@[simp] theorem State.setTim_mbx (f : Tim → Tim) : (s.setTim f).mbx = s.mbx := by
  unfold State.setTim; exact State.mbx_mk
@[simp] theorem State.setTim_boot (f : Tim → Tim) : (s.setTim f).boot = s.boot := by
  unfold State.setTim; exact State.boot_mk
@[simp] theorem State.setTim_sec (f : Tim → Tim) : (s.setTim f).sec = s.sec := by
  unfold State.setTim; exact State.sec_mk
@[simp] theorem State.setTim_ras (f : Tim → Tim) : (s.setTim f).ras = s.ras := by
  unfold State.setTim; exact State.ras_mk
@[simp] theorem State.setTim_dbg (f : Tim → Tim) : (s.setTim f).dbg = s.dbg := by
  unfold State.setTim; exact State.dbg_mk
@[simp] theorem State.setTim_spr (f : Tim → Tim) : (s.setTim f).spr = s.spr := by
  unfold State.setTim; exact State.spr_mk
@[simp] theorem State.setTim_psq (f : Tim → Tim) : (s.setTim f).psq = s.psq := by
  unfold State.setTim; exact State.psq_mk
@[simp] theorem State.setTim_clk (f : Tim → Tim) : (s.setTim f).clk = s.clk := by
  unfold State.setTim; exact State.clk_mk
@[simp] theorem State.setTim_out (f : Tim → Tim) : (s.setTim f).out = s.out := by
  unfold State.setTim; exact State.out_mk
@[simp] theorem State.setTim_free (f : Tim → Tim) : (s.setTim f).free = s.free := by
  unfold State.setTim; exact State.free_mk
@[simp] theorem State.setTim_pending (f : Tim → Tim) : (s.setTim f).pending = s.pending := by
  unfold State.setTim; exact State.pending_mk

/-! ### setBoot -/

@[simp] theorem State.setBoot_tim (f : Boot → Boot) : (s.setBoot f).tim = s.tim := by
  unfold State.setBoot; exact State.tim_mk
@[simp] theorem State.setBoot_pln (f : Boot → Boot) : (s.setBoot f).pln = s.pln := by
  unfold State.setBoot; exact State.pln_mk
@[simp] theorem State.setBoot_regs (f : Boot → Boot) : (s.setBoot f).regs = s.regs := by
  unfold State.setBoot; exact State.regs_mk
@[simp] theorem State.setBoot_shadow (f : Boot → Boot) : (s.setBoot f).shadow = s.shadow := by
  unfold State.setBoot; exact State.shadow_mk
@[simp] theorem State.setBoot_blk (f : Boot → Boot) : (s.setBoot f).blk = s.blk := by
  unfold State.setBoot; exact State.blk_mk
@[simp] theorem State.setBoot_mem (f : Boot → Boot) : (s.setBoot f).mem = s.mem := by
  unfold State.setBoot; exact State.mem_mk
@[simp] theorem State.setBoot_chan (f : Boot → Boot) : (s.setBoot f).chan = s.chan := by
  unfold State.setBoot; exact State.chan_mk
@[simp] theorem State.setBoot_cxh (f : Boot → Boot) : (s.setBoot f).cxh = s.cxh := by
  unfold State.setBoot; exact State.cxh_mk
@[simp] theorem State.setBoot_cmp (f : Boot → Boot) : (s.setBoot f).cmp = s.cmp := by
  unfold State.setBoot; exact State.cmp_mk
@[simp] theorem State.setBoot_mbx (f : Boot → Boot) : (s.setBoot f).mbx = s.mbx := by
  unfold State.setBoot; exact State.mbx_mk
@[simp] theorem State.setBoot_boot (f : Boot → Boot) : (s.setBoot f).boot = f s.boot := by
  unfold State.setBoot; exact State.boot_mk
@[simp] theorem State.setBoot_sec (f : Boot → Boot) : (s.setBoot f).sec = s.sec := by
  unfold State.setBoot; exact State.sec_mk
@[simp] theorem State.setBoot_ras (f : Boot → Boot) : (s.setBoot f).ras = s.ras := by
  unfold State.setBoot; exact State.ras_mk
@[simp] theorem State.setBoot_dbg (f : Boot → Boot) : (s.setBoot f).dbg = s.dbg := by
  unfold State.setBoot; exact State.dbg_mk
@[simp] theorem State.setBoot_spr (f : Boot → Boot) : (s.setBoot f).spr = s.spr := by
  unfold State.setBoot; exact State.spr_mk
@[simp] theorem State.setBoot_psq (f : Boot → Boot) : (s.setBoot f).psq = s.psq := by
  unfold State.setBoot; exact State.psq_mk
@[simp] theorem State.setBoot_clk (f : Boot → Boot) : (s.setBoot f).clk = s.clk := by
  unfold State.setBoot; exact State.clk_mk
@[simp] theorem State.setBoot_out (f : Boot → Boot) : (s.setBoot f).out = s.out := by
  unfold State.setBoot; exact State.out_mk
@[simp] theorem State.setBoot_free (f : Boot → Boot) : (s.setBoot f).free = s.free := by
  unfold State.setBoot; exact State.free_mk
@[simp] theorem State.setBoot_pending (f : Boot → Boot) : (s.setBoot f).pending = s.pending := by
  unfold State.setBoot; exact State.pending_mk

/-! ### setCmp -/

@[simp] theorem State.setCmp_tim (f : Cmp → Cmp) : (s.setCmp f).tim = s.tim := by
  unfold State.setCmp; exact State.tim_mk
@[simp] theorem State.setCmp_pln (f : Cmp → Cmp) : (s.setCmp f).pln = s.pln := by
  unfold State.setCmp; exact State.pln_mk
@[simp] theorem State.setCmp_regs (f : Cmp → Cmp) : (s.setCmp f).regs = s.regs := by
  unfold State.setCmp; exact State.regs_mk
@[simp] theorem State.setCmp_shadow (f : Cmp → Cmp) : (s.setCmp f).shadow = s.shadow := by
  unfold State.setCmp; exact State.shadow_mk
@[simp] theorem State.setCmp_blk (f : Cmp → Cmp) : (s.setCmp f).blk = s.blk := by
  unfold State.setCmp; exact State.blk_mk
@[simp] theorem State.setCmp_mem (f : Cmp → Cmp) : (s.setCmp f).mem = s.mem := by
  unfold State.setCmp; exact State.mem_mk
@[simp] theorem State.setCmp_chan (f : Cmp → Cmp) : (s.setCmp f).chan = s.chan := by
  unfold State.setCmp; exact State.chan_mk
@[simp] theorem State.setCmp_cxh (f : Cmp → Cmp) : (s.setCmp f).cxh = s.cxh := by
  unfold State.setCmp; exact State.cxh_mk
@[simp] theorem State.setCmp_cmp (f : Cmp → Cmp) : (s.setCmp f).cmp = f s.cmp := by
  unfold State.setCmp; exact State.cmp_mk
@[simp] theorem State.setCmp_mbx (f : Cmp → Cmp) : (s.setCmp f).mbx = s.mbx := by
  unfold State.setCmp; exact State.mbx_mk
@[simp] theorem State.setCmp_boot (f : Cmp → Cmp) : (s.setCmp f).boot = s.boot := by
  unfold State.setCmp; exact State.boot_mk
@[simp] theorem State.setCmp_sec (f : Cmp → Cmp) : (s.setCmp f).sec = s.sec := by
  unfold State.setCmp; exact State.sec_mk
@[simp] theorem State.setCmp_ras (f : Cmp → Cmp) : (s.setCmp f).ras = s.ras := by
  unfold State.setCmp; exact State.ras_mk
@[simp] theorem State.setCmp_dbg (f : Cmp → Cmp) : (s.setCmp f).dbg = s.dbg := by
  unfold State.setCmp; exact State.dbg_mk
@[simp] theorem State.setCmp_spr (f : Cmp → Cmp) : (s.setCmp f).spr = s.spr := by
  unfold State.setCmp; exact State.spr_mk
@[simp] theorem State.setCmp_psq (f : Cmp → Cmp) : (s.setCmp f).psq = s.psq := by
  unfold State.setCmp; exact State.psq_mk
@[simp] theorem State.setCmp_clk (f : Cmp → Cmp) : (s.setCmp f).clk = s.clk := by
  unfold State.setCmp; exact State.clk_mk
@[simp] theorem State.setCmp_out (f : Cmp → Cmp) : (s.setCmp f).out = s.out := by
  unfold State.setCmp; exact State.out_mk
@[simp] theorem State.setCmp_free (f : Cmp → Cmp) : (s.setCmp f).free = s.free := by
  unfold State.setCmp; exact State.free_mk
@[simp] theorem State.setCmp_pending (f : Cmp → Cmp) : (s.setCmp f).pending = s.pending := by
  unfold State.setCmp; exact State.pending_mk

/-! ### setPln -/

@[simp] theorem State.setPln_tim (f : Pln → Pln) : (s.setPln f).tim = s.tim := by
  unfold State.setPln; exact State.tim_mk
@[simp] theorem State.setPln_pln (f : Pln → Pln) : (s.setPln f).pln = f s.pln := by
  unfold State.setPln; exact State.pln_mk
@[simp] theorem State.setPln_regs (f : Pln → Pln) : (s.setPln f).regs = s.regs := by
  unfold State.setPln; exact State.regs_mk
@[simp] theorem State.setPln_shadow (f : Pln → Pln) : (s.setPln f).shadow = s.shadow := by
  unfold State.setPln; exact State.shadow_mk
@[simp] theorem State.setPln_blk (f : Pln → Pln) : (s.setPln f).blk = s.blk := by
  unfold State.setPln; exact State.blk_mk
@[simp] theorem State.setPln_mem (f : Pln → Pln) : (s.setPln f).mem = s.mem := by
  unfold State.setPln; exact State.mem_mk
@[simp] theorem State.setPln_chan (f : Pln → Pln) : (s.setPln f).chan = s.chan := by
  unfold State.setPln; exact State.chan_mk
@[simp] theorem State.setPln_cxh (f : Pln → Pln) : (s.setPln f).cxh = s.cxh := by
  unfold State.setPln; exact State.cxh_mk
@[simp] theorem State.setPln_cmp (f : Pln → Pln) : (s.setPln f).cmp = s.cmp := by
  unfold State.setPln; exact State.cmp_mk
@[simp] theorem State.setPln_mbx (f : Pln → Pln) : (s.setPln f).mbx = s.mbx := by
  unfold State.setPln; exact State.mbx_mk
@[simp] theorem State.setPln_boot (f : Pln → Pln) : (s.setPln f).boot = s.boot := by
  unfold State.setPln; exact State.boot_mk
@[simp] theorem State.setPln_sec (f : Pln → Pln) : (s.setPln f).sec = s.sec := by
  unfold State.setPln; exact State.sec_mk
@[simp] theorem State.setPln_ras (f : Pln → Pln) : (s.setPln f).ras = s.ras := by
  unfold State.setPln; exact State.ras_mk
@[simp] theorem State.setPln_dbg (f : Pln → Pln) : (s.setPln f).dbg = s.dbg := by
  unfold State.setPln; exact State.dbg_mk
@[simp] theorem State.setPln_spr (f : Pln → Pln) : (s.setPln f).spr = s.spr := by
  unfold State.setPln; exact State.spr_mk
@[simp] theorem State.setPln_psq (f : Pln → Pln) : (s.setPln f).psq = s.psq := by
  unfold State.setPln; exact State.psq_mk
@[simp] theorem State.setPln_clk (f : Pln → Pln) : (s.setPln f).clk = s.clk := by
  unfold State.setPln; exact State.clk_mk
@[simp] theorem State.setPln_out (f : Pln → Pln) : (s.setPln f).out = s.out := by
  unfold State.setPln; exact State.out_mk
@[simp] theorem State.setPln_free (f : Pln → Pln) : (s.setPln f).free = s.free := by
  unfold State.setPln; exact State.free_mk
@[simp] theorem State.setPln_pending (f : Pln → Pln) : (s.setPln f).pending = s.pending := by
  unfold State.setPln; exact State.pending_mk

/-! ### setPsq -/

@[simp] theorem State.setPsq_tim (f : Psq → Psq) : (s.setPsq f).tim = s.tim := by
  unfold State.setPsq; exact State.tim_mk
@[simp] theorem State.setPsq_pln (f : Psq → Psq) : (s.setPsq f).pln = s.pln := by
  unfold State.setPsq; exact State.pln_mk
@[simp] theorem State.setPsq_regs (f : Psq → Psq) : (s.setPsq f).regs = s.regs := by
  unfold State.setPsq; exact State.regs_mk
@[simp] theorem State.setPsq_shadow (f : Psq → Psq) : (s.setPsq f).shadow = s.shadow := by
  unfold State.setPsq; exact State.shadow_mk
@[simp] theorem State.setPsq_blk (f : Psq → Psq) : (s.setPsq f).blk = s.blk := by
  unfold State.setPsq; exact State.blk_mk
@[simp] theorem State.setPsq_mem (f : Psq → Psq) : (s.setPsq f).mem = s.mem := by
  unfold State.setPsq; exact State.mem_mk
@[simp] theorem State.setPsq_chan (f : Psq → Psq) : (s.setPsq f).chan = s.chan := by
  unfold State.setPsq; exact State.chan_mk
@[simp] theorem State.setPsq_cxh (f : Psq → Psq) : (s.setPsq f).cxh = s.cxh := by
  unfold State.setPsq; exact State.cxh_mk
@[simp] theorem State.setPsq_cmp (f : Psq → Psq) : (s.setPsq f).cmp = s.cmp := by
  unfold State.setPsq; exact State.cmp_mk
@[simp] theorem State.setPsq_mbx (f : Psq → Psq) : (s.setPsq f).mbx = s.mbx := by
  unfold State.setPsq; exact State.mbx_mk
@[simp] theorem State.setPsq_boot (f : Psq → Psq) : (s.setPsq f).boot = s.boot := by
  unfold State.setPsq; exact State.boot_mk
@[simp] theorem State.setPsq_sec (f : Psq → Psq) : (s.setPsq f).sec = s.sec := by
  unfold State.setPsq; exact State.sec_mk
@[simp] theorem State.setPsq_ras (f : Psq → Psq) : (s.setPsq f).ras = s.ras := by
  unfold State.setPsq; exact State.ras_mk
@[simp] theorem State.setPsq_dbg (f : Psq → Psq) : (s.setPsq f).dbg = s.dbg := by
  unfold State.setPsq; exact State.dbg_mk
@[simp] theorem State.setPsq_spr (f : Psq → Psq) : (s.setPsq f).spr = s.spr := by
  unfold State.setPsq; exact State.spr_mk
@[simp] theorem State.setPsq_psq (f : Psq → Psq) : (s.setPsq f).psq = f s.psq := by
  unfold State.setPsq; exact State.psq_mk
@[simp] theorem State.setPsq_clk (f : Psq → Psq) : (s.setPsq f).clk = s.clk := by
  unfold State.setPsq; exact State.clk_mk
@[simp] theorem State.setPsq_out (f : Psq → Psq) : (s.setPsq f).out = s.out := by
  unfold State.setPsq; exact State.out_mk
@[simp] theorem State.setPsq_free (f : Psq → Psq) : (s.setPsq f).free = s.free := by
  unfold State.setPsq; exact State.free_mk
@[simp] theorem State.setPsq_pending (f : Psq → Psq) : (s.setPsq f).pending = s.pending := by
  unfold State.setPsq; exact State.pending_mk

/-! ### setClk -/

@[simp] theorem State.setClk_tim (f : Clk → Clk) : (s.setClk f).tim = s.tim := by
  unfold State.setClk; exact State.tim_mk
@[simp] theorem State.setClk_pln (f : Clk → Clk) : (s.setClk f).pln = s.pln := by
  unfold State.setClk; exact State.pln_mk
@[simp] theorem State.setClk_regs (f : Clk → Clk) : (s.setClk f).regs = s.regs := by
  unfold State.setClk; exact State.regs_mk
@[simp] theorem State.setClk_shadow (f : Clk → Clk) : (s.setClk f).shadow = s.shadow := by
  unfold State.setClk; exact State.shadow_mk
@[simp] theorem State.setClk_blk (f : Clk → Clk) : (s.setClk f).blk = s.blk := by
  unfold State.setClk; exact State.blk_mk
@[simp] theorem State.setClk_mem (f : Clk → Clk) : (s.setClk f).mem = s.mem := by
  unfold State.setClk; exact State.mem_mk
@[simp] theorem State.setClk_chan (f : Clk → Clk) : (s.setClk f).chan = s.chan := by
  unfold State.setClk; exact State.chan_mk
@[simp] theorem State.setClk_cxh (f : Clk → Clk) : (s.setClk f).cxh = s.cxh := by
  unfold State.setClk; exact State.cxh_mk
@[simp] theorem State.setClk_cmp (f : Clk → Clk) : (s.setClk f).cmp = s.cmp := by
  unfold State.setClk; exact State.cmp_mk
@[simp] theorem State.setClk_mbx (f : Clk → Clk) : (s.setClk f).mbx = s.mbx := by
  unfold State.setClk; exact State.mbx_mk
@[simp] theorem State.setClk_boot (f : Clk → Clk) : (s.setClk f).boot = s.boot := by
  unfold State.setClk; exact State.boot_mk
@[simp] theorem State.setClk_sec (f : Clk → Clk) : (s.setClk f).sec = s.sec := by
  unfold State.setClk; exact State.sec_mk
@[simp] theorem State.setClk_ras (f : Clk → Clk) : (s.setClk f).ras = s.ras := by
  unfold State.setClk; exact State.ras_mk
@[simp] theorem State.setClk_dbg (f : Clk → Clk) : (s.setClk f).dbg = s.dbg := by
  unfold State.setClk; exact State.dbg_mk
@[simp] theorem State.setClk_spr (f : Clk → Clk) : (s.setClk f).spr = s.spr := by
  unfold State.setClk; exact State.spr_mk
@[simp] theorem State.setClk_psq (f : Clk → Clk) : (s.setClk f).psq = s.psq := by
  unfold State.setClk; exact State.psq_mk
@[simp] theorem State.setClk_clk (f : Clk → Clk) : (s.setClk f).clk = f s.clk := by
  unfold State.setClk; exact State.clk_mk
@[simp] theorem State.setClk_out (f : Clk → Clk) : (s.setClk f).out = s.out := by
  unfold State.setClk; exact State.out_mk
@[simp] theorem State.setClk_free (f : Clk → Clk) : (s.setClk f).free = s.free := by
  unfold State.setClk; exact State.free_mk
@[simp] theorem State.setClk_pending (f : Clk → Clk) : (s.setClk f).pending = s.pending := by
  unfold State.setClk; exact State.pending_mk

/-! ### setRas -/

@[simp] theorem State.setRas_tim (f : Ras → Ras) : (s.setRas f).tim = s.tim := by
  unfold State.setRas; exact State.tim_mk
@[simp] theorem State.setRas_pln (f : Ras → Ras) : (s.setRas f).pln = s.pln := by
  unfold State.setRas; exact State.pln_mk
@[simp] theorem State.setRas_regs (f : Ras → Ras) : (s.setRas f).regs = s.regs := by
  unfold State.setRas; exact State.regs_mk
@[simp] theorem State.setRas_shadow (f : Ras → Ras) : (s.setRas f).shadow = s.shadow := by
  unfold State.setRas; exact State.shadow_mk
@[simp] theorem State.setRas_blk (f : Ras → Ras) : (s.setRas f).blk = s.blk := by
  unfold State.setRas; exact State.blk_mk
@[simp] theorem State.setRas_mem (f : Ras → Ras) : (s.setRas f).mem = s.mem := by
  unfold State.setRas; exact State.mem_mk
@[simp] theorem State.setRas_chan (f : Ras → Ras) : (s.setRas f).chan = s.chan := by
  unfold State.setRas; exact State.chan_mk
@[simp] theorem State.setRas_cxh (f : Ras → Ras) : (s.setRas f).cxh = s.cxh := by
  unfold State.setRas; exact State.cxh_mk
@[simp] theorem State.setRas_cmp (f : Ras → Ras) : (s.setRas f).cmp = s.cmp := by
  unfold State.setRas; exact State.cmp_mk
@[simp] theorem State.setRas_mbx (f : Ras → Ras) : (s.setRas f).mbx = s.mbx := by
  unfold State.setRas; exact State.mbx_mk
@[simp] theorem State.setRas_boot (f : Ras → Ras) : (s.setRas f).boot = s.boot := by
  unfold State.setRas; exact State.boot_mk
@[simp] theorem State.setRas_sec (f : Ras → Ras) : (s.setRas f).sec = s.sec := by
  unfold State.setRas; exact State.sec_mk
@[simp] theorem State.setRas_ras (f : Ras → Ras) : (s.setRas f).ras = f s.ras := by
  unfold State.setRas; exact State.ras_mk
@[simp] theorem State.setRas_dbg (f : Ras → Ras) : (s.setRas f).dbg = s.dbg := by
  unfold State.setRas; exact State.dbg_mk
@[simp] theorem State.setRas_spr (f : Ras → Ras) : (s.setRas f).spr = s.spr := by
  unfold State.setRas; exact State.spr_mk
@[simp] theorem State.setRas_psq (f : Ras → Ras) : (s.setRas f).psq = s.psq := by
  unfold State.setRas; exact State.psq_mk
@[simp] theorem State.setRas_clk (f : Ras → Ras) : (s.setRas f).clk = s.clk := by
  unfold State.setRas; exact State.clk_mk
@[simp] theorem State.setRas_out (f : Ras → Ras) : (s.setRas f).out = s.out := by
  unfold State.setRas; exact State.out_mk
@[simp] theorem State.setRas_free (f : Ras → Ras) : (s.setRas f).free = s.free := by
  unfold State.setRas; exact State.free_mk
@[simp] theorem State.setRas_pending (f : Ras → Ras) : (s.setRas f).pending = s.pending := by
  unfold State.setRas; exact State.pending_mk

/-! ### setSec -/

@[simp] theorem State.setSec_tim (f : Sec → Sec) : (s.setSec f).tim = s.tim := by
  unfold State.setSec; exact State.tim_mk
@[simp] theorem State.setSec_pln (f : Sec → Sec) : (s.setSec f).pln = s.pln := by
  unfold State.setSec; exact State.pln_mk
@[simp] theorem State.setSec_regs (f : Sec → Sec) : (s.setSec f).regs = s.regs := by
  unfold State.setSec; exact State.regs_mk
@[simp] theorem State.setSec_shadow (f : Sec → Sec) : (s.setSec f).shadow = s.shadow := by
  unfold State.setSec; exact State.shadow_mk
@[simp] theorem State.setSec_blk (f : Sec → Sec) : (s.setSec f).blk = s.blk := by
  unfold State.setSec; exact State.blk_mk
@[simp] theorem State.setSec_mem (f : Sec → Sec) : (s.setSec f).mem = s.mem := by
  unfold State.setSec; exact State.mem_mk
@[simp] theorem State.setSec_chan (f : Sec → Sec) : (s.setSec f).chan = s.chan := by
  unfold State.setSec; exact State.chan_mk
@[simp] theorem State.setSec_cxh (f : Sec → Sec) : (s.setSec f).cxh = s.cxh := by
  unfold State.setSec; exact State.cxh_mk
@[simp] theorem State.setSec_cmp (f : Sec → Sec) : (s.setSec f).cmp = s.cmp := by
  unfold State.setSec; exact State.cmp_mk
@[simp] theorem State.setSec_mbx (f : Sec → Sec) : (s.setSec f).mbx = s.mbx := by
  unfold State.setSec; exact State.mbx_mk
@[simp] theorem State.setSec_boot (f : Sec → Sec) : (s.setSec f).boot = s.boot := by
  unfold State.setSec; exact State.boot_mk
@[simp] theorem State.setSec_sec (f : Sec → Sec) : (s.setSec f).sec = f s.sec := by
  unfold State.setSec; exact State.sec_mk
@[simp] theorem State.setSec_ras (f : Sec → Sec) : (s.setSec f).ras = s.ras := by
  unfold State.setSec; exact State.ras_mk
@[simp] theorem State.setSec_dbg (f : Sec → Sec) : (s.setSec f).dbg = s.dbg := by
  unfold State.setSec; exact State.dbg_mk
@[simp] theorem State.setSec_spr (f : Sec → Sec) : (s.setSec f).spr = s.spr := by
  unfold State.setSec; exact State.spr_mk
@[simp] theorem State.setSec_psq (f : Sec → Sec) : (s.setSec f).psq = s.psq := by
  unfold State.setSec; exact State.psq_mk
@[simp] theorem State.setSec_clk (f : Sec → Sec) : (s.setSec f).clk = s.clk := by
  unfold State.setSec; exact State.clk_mk
@[simp] theorem State.setSec_out (f : Sec → Sec) : (s.setSec f).out = s.out := by
  unfold State.setSec; exact State.out_mk
@[simp] theorem State.setSec_free (f : Sec → Sec) : (s.setSec f).free = s.free := by
  unfold State.setSec; exact State.free_mk
@[simp] theorem State.setSec_pending (f : Sec → Sec) : (s.setSec f).pending = s.pending := by
  unfold State.setSec; exact State.pending_mk

/-! ### setMbx -/

@[simp] theorem State.setMbx_tim (f : Mbx → Mbx) : (s.setMbx f).tim = s.tim := by
  unfold State.setMbx; exact State.tim_mk
@[simp] theorem State.setMbx_pln (f : Mbx → Mbx) : (s.setMbx f).pln = s.pln := by
  unfold State.setMbx; exact State.pln_mk
@[simp] theorem State.setMbx_regs (f : Mbx → Mbx) : (s.setMbx f).regs = s.regs := by
  unfold State.setMbx; exact State.regs_mk
@[simp] theorem State.setMbx_shadow (f : Mbx → Mbx) : (s.setMbx f).shadow = s.shadow := by
  unfold State.setMbx; exact State.shadow_mk
@[simp] theorem State.setMbx_blk (f : Mbx → Mbx) : (s.setMbx f).blk = s.blk := by
  unfold State.setMbx; exact State.blk_mk
@[simp] theorem State.setMbx_mem (f : Mbx → Mbx) : (s.setMbx f).mem = s.mem := by
  unfold State.setMbx; exact State.mem_mk
@[simp] theorem State.setMbx_chan (f : Mbx → Mbx) : (s.setMbx f).chan = s.chan := by
  unfold State.setMbx; exact State.chan_mk
@[simp] theorem State.setMbx_cxh (f : Mbx → Mbx) : (s.setMbx f).cxh = s.cxh := by
  unfold State.setMbx; exact State.cxh_mk
@[simp] theorem State.setMbx_cmp (f : Mbx → Mbx) : (s.setMbx f).cmp = s.cmp := by
  unfold State.setMbx; exact State.cmp_mk
@[simp] theorem State.setMbx_mbx (f : Mbx → Mbx) : (s.setMbx f).mbx = f s.mbx := by
  unfold State.setMbx; exact State.mbx_mk
@[simp] theorem State.setMbx_boot (f : Mbx → Mbx) : (s.setMbx f).boot = s.boot := by
  unfold State.setMbx; exact State.boot_mk
@[simp] theorem State.setMbx_sec (f : Mbx → Mbx) : (s.setMbx f).sec = s.sec := by
  unfold State.setMbx; exact State.sec_mk
@[simp] theorem State.setMbx_ras (f : Mbx → Mbx) : (s.setMbx f).ras = s.ras := by
  unfold State.setMbx; exact State.ras_mk
@[simp] theorem State.setMbx_dbg (f : Mbx → Mbx) : (s.setMbx f).dbg = s.dbg := by
  unfold State.setMbx; exact State.dbg_mk
@[simp] theorem State.setMbx_spr (f : Mbx → Mbx) : (s.setMbx f).spr = s.spr := by
  unfold State.setMbx; exact State.spr_mk
@[simp] theorem State.setMbx_psq (f : Mbx → Mbx) : (s.setMbx f).psq = s.psq := by
  unfold State.setMbx; exact State.psq_mk
@[simp] theorem State.setMbx_clk (f : Mbx → Mbx) : (s.setMbx f).clk = s.clk := by
  unfold State.setMbx; exact State.clk_mk
@[simp] theorem State.setMbx_out (f : Mbx → Mbx) : (s.setMbx f).out = s.out := by
  unfold State.setMbx; exact State.out_mk
@[simp] theorem State.setMbx_free (f : Mbx → Mbx) : (s.setMbx f).free = s.free := by
  unfold State.setMbx; exact State.free_mk
@[simp] theorem State.setMbx_pending (f : Mbx → Mbx) : (s.setMbx f).pending = s.pending := by
  unfold State.setMbx; exact State.pending_mk

/-! ### setSpr -/

@[simp] theorem State.setSpr_tim (f : Spr → Spr) : (s.setSpr f).tim = s.tim := by
  unfold State.setSpr; exact State.tim_mk
@[simp] theorem State.setSpr_pln (f : Spr → Spr) : (s.setSpr f).pln = s.pln := by
  unfold State.setSpr; exact State.pln_mk
@[simp] theorem State.setSpr_regs (f : Spr → Spr) : (s.setSpr f).regs = s.regs := by
  unfold State.setSpr; exact State.regs_mk
@[simp] theorem State.setSpr_shadow (f : Spr → Spr) : (s.setSpr f).shadow = s.shadow := by
  unfold State.setSpr; exact State.shadow_mk
@[simp] theorem State.setSpr_blk (f : Spr → Spr) : (s.setSpr f).blk = s.blk := by
  unfold State.setSpr; exact State.blk_mk
@[simp] theorem State.setSpr_mem (f : Spr → Spr) : (s.setSpr f).mem = s.mem := by
  unfold State.setSpr; exact State.mem_mk
@[simp] theorem State.setSpr_chan (f : Spr → Spr) : (s.setSpr f).chan = s.chan := by
  unfold State.setSpr; exact State.chan_mk
@[simp] theorem State.setSpr_cxh (f : Spr → Spr) : (s.setSpr f).cxh = s.cxh := by
  unfold State.setSpr; exact State.cxh_mk
@[simp] theorem State.setSpr_cmp (f : Spr → Spr) : (s.setSpr f).cmp = s.cmp := by
  unfold State.setSpr; exact State.cmp_mk
@[simp] theorem State.setSpr_mbx (f : Spr → Spr) : (s.setSpr f).mbx = s.mbx := by
  unfold State.setSpr; exact State.mbx_mk
@[simp] theorem State.setSpr_boot (f : Spr → Spr) : (s.setSpr f).boot = s.boot := by
  unfold State.setSpr; exact State.boot_mk
@[simp] theorem State.setSpr_sec (f : Spr → Spr) : (s.setSpr f).sec = s.sec := by
  unfold State.setSpr; exact State.sec_mk
@[simp] theorem State.setSpr_ras (f : Spr → Spr) : (s.setSpr f).ras = s.ras := by
  unfold State.setSpr; exact State.ras_mk
@[simp] theorem State.setSpr_dbg (f : Spr → Spr) : (s.setSpr f).dbg = s.dbg := by
  unfold State.setSpr; exact State.dbg_mk
@[simp] theorem State.setSpr_spr (f : Spr → Spr) : (s.setSpr f).spr = f s.spr := by
  unfold State.setSpr; exact State.spr_mk
@[simp] theorem State.setSpr_psq (f : Spr → Spr) : (s.setSpr f).psq = s.psq := by
  unfold State.setSpr; exact State.psq_mk
@[simp] theorem State.setSpr_clk (f : Spr → Spr) : (s.setSpr f).clk = s.clk := by
  unfold State.setSpr; exact State.clk_mk
@[simp] theorem State.setSpr_out (f : Spr → Spr) : (s.setSpr f).out = s.out := by
  unfold State.setSpr; exact State.out_mk
@[simp] theorem State.setSpr_free (f : Spr → Spr) : (s.setSpr f).free = s.free := by
  unfold State.setSpr; exact State.free_mk
@[simp] theorem State.setSpr_pending (f : Spr → Spr) : (s.setSpr f).pending = s.pending := by
  unfold State.setSpr; exact State.pending_mk

/-! ### Registers, blocks and channels -/

/-- A register word after a store: the stored word at its own place, the old one everywhere else. -/
theorem State.rdAt_wrAt (p q : Page) (off off' : Nat) (v : Word) (sel sel' : Nat) :
    (s.wrAt p off v sel).rdAt q off' sel' =
      if regKey q.blk q.idx off' sel' = regKey p.blk p.idx off sel then v else s.rdAt q off' sel' := by
  unfold State.rdAt State.wrAt
  exact SMap.get_put _ _ _ _ _

/-- The word stored is the word read. -/
@[simp] theorem State.rdAt_wrAt_same (p : Page) (off : Nat) (v : Word) (sel : Nat) :
    (s.wrAt p off v sel).rdAt p off sel = v := by
  rw [State.rdAt_wrAt, if_pos rfl]

/-- The word stored in a named register is the word read. -/
@[simp] theorem State.rd_wr_same (i : Nat) (r : RegId) (v : Word) (sel : Nat) : (s.wr i r v sel).rd i r sel = v := by
  unfold State.rd State.wr
  exact State.rdAt_wrAt_same s _ _ _ _

/-- A named register at another place keeps its word. -/
theorem State.rd_wr_other (i j : Nat) (r q : RegId) (v : Word) (sel sel' : Nat)
    (h : regKey q.blk j q.off sel' ≠ regKey r.blk i r.off sel) : (s.wr i r v sel).rd j q sel' = s.rd j q sel' := by
  unfold State.rd State.wr
  rw [State.rdAt_wrAt, if_neg h]

/-- A counter after a count. -/
@[simp] theorem State.rd_bump_same (i : Nat) (r : RegId) (n sel : Nat) :
    (s.bump i r n sel).rd i r sel = s.rd i r sel + BitVec.ofNat 32 n := by
  unfold State.bump
  exact State.rd_wr_same s _ _ _ _

/-- A register is a matter of the register table alone. -/
theorem State.rd_congr {s t : State} (h : t.regs = s.regs) (i : Nat) (r : RegId) (sel : Nat) : t.rd i r sel = s.rd i r sel := by
  unfold State.rd State.rdAt
  rw [h]

/-- A channel's blocks after a change of one channel. -/
theorem State.ch_updCh (c k : Nat) (f : Chan → Chan) : (s.updCh c f).ch k = if k = c then f (s.ch c) else s.ch k := by
  unfold State.ch State.updCh
  exact SMap.at_upd _ _ _ _

/-- The changed channel. -/
@[simp] theorem State.ch_updCh_same (c : Nat) (f : Chan → Chan) : (s.updCh c f).ch c = f (s.ch c) := by
  rw [State.ch_updCh, if_pos rfl]

/-- The changed block page. -/
@[simp] theorem State.blkSt_updBlk_same (p : Page) (f : BlkSt → BlkSt) : (s.updBlk p f).blkSt p = f (s.blkSt p) := by
  unfold State.blkSt State.updBlk
  exact SMap.at_upd_same _ _ _

/-- The other block pages. -/
theorem State.blkSt_updBlk (p q : Page) (f : BlkSt → BlkSt) :
    (s.updBlk p f).blkSt q = if q.key = p.key then f (s.blkSt p) else s.blkSt q := by
  unfold State.blkSt State.updBlk
  exact SMap.at_upd _ _ _ _

@[simp] theorem State.rqt_updRqt_same (c : Nat) (f : RqtCh → RqtCh) : (s.updRqt c f).rqt c = f (s.rqt c) := by
  unfold State.rqt State.updRqt
  rw [State.ch_updCh_same]

theorem State.rqt_updRqt (c k : Nat) (f : RqtCh → RqtCh) :
    (s.updRqt c f).rqt k = if k = c then f (s.rqt c) else s.rqt k := by
  unfold State.rqt State.updRqt
  rw [State.ch_updCh]
  split <;> rfl

@[simp] theorem State.pgm_updRqt (c k : Nat) (f : RqtCh → RqtCh) : (s.updRqt c f).pgm k = s.pgm k := by
  unfold State.pgm State.updRqt
  rw [State.ch_updCh]
  split
  · next h => rw [h]
  · rfl

@[simp] theorem State.atn_updRqt (c k : Nat) (f : RqtCh → RqtCh) : (s.updRqt c f).atn k = s.atn k := by
  unfold State.atn State.updRqt
  rw [State.ch_updCh]
  split
  · next h => rw [h]
  · rfl

@[simp] theorem State.smp_updRqt (c k : Nat) (f : RqtCh → RqtCh) : (s.updRqt c f).smp k = s.smp k := by
  unfold State.smp State.updRqt
  rw [State.ch_updCh]
  split
  · next h => rw [h]
  · rfl

@[simp] theorem State.jsc_updRqt (c k : Nat) (f : RqtCh → RqtCh) : (s.updRqt c f).jsc k = s.jsc k := by
  unfold State.jsc State.updRqt
  rw [State.ch_updCh]
  split
  · next h => rw [h]
  · rfl

@[simp] theorem State.atu_updRqt (c k : Nat) (f : RqtCh → RqtCh) : (s.updRqt c f).atu k = s.atu k := by
  unfold State.atu State.updRqt
  rw [State.ch_updCh]
  split
  · next h => rw [h]
  · rfl

@[simp] theorem State.vse_updRqt (c k : Nat) (f : RqtCh → RqtCh) : (s.updRqt c f).vse k = s.vse k := by
  unfold State.vse State.updRqt
  rw [State.ch_updCh]
  split
  · next h => rw [h]
  · rfl

@[simp] theorem State.kwp_updRqt (c k : Nat) (f : RqtCh → RqtCh) : (s.updRqt c f).kwp k = s.kwp k := by
  unfold State.kwp State.updRqt
  rw [State.ch_updCh]
  split
  · next h => rw [h]
  · rfl

@[simp] theorem State.trc_updRqt (c k : Nat) (f : RqtCh → RqtCh) : (s.updRqt c f).trc k = s.trc k := by
  unfold State.trc State.updRqt
  rw [State.ch_updCh]
  split
  · next h => rw [h]
  · rfl

@[simp] theorem State.slp_updRqt (c k : Nat) (f : RqtCh → RqtCh) : (s.updRqt c f).slp k = s.slp k := by
  unfold State.slp State.updRqt
  rw [State.ch_updCh]
  split
  · next h => rw [h]
  · rfl

@[simp] theorem State.nmo_updRqt (c k : Nat) (f : RqtCh → RqtCh) : (s.updRqt c f).nmo k = s.nmo k := by
  unfold State.nmo State.updRqt
  rw [State.ch_updCh]
  split
  · next h => rw [h]
  · rfl

@[simp] theorem State.ccx_updRqt (c k : Nat) (f : RqtCh → RqtCh) : (s.updRqt c f).ccx k = s.ccx k := by
  unfold State.ccx State.updRqt
  rw [State.ch_updCh]
  split
  · next h => rw [h]
  · rfl

@[simp] theorem State.pgm_updPgm_same (c : Nat) (f : PgmCh → PgmCh) : (s.updPgm c f).pgm c = f (s.pgm c) := by
  unfold State.pgm State.updPgm
  rw [State.ch_updCh_same]

theorem State.pgm_updPgm (c k : Nat) (f : PgmCh → PgmCh) :
    (s.updPgm c f).pgm k = if k = c then f (s.pgm c) else s.pgm k := by
  unfold State.pgm State.updPgm
  rw [State.ch_updCh]
  split <;> rfl

@[simp] theorem State.rqt_updPgm (c k : Nat) (f : PgmCh → PgmCh) : (s.updPgm c f).rqt k = s.rqt k := by
  unfold State.rqt State.updPgm
  rw [State.ch_updCh]
  split
  · next h => rw [h]
  · rfl

@[simp] theorem State.atn_updPgm (c k : Nat) (f : PgmCh → PgmCh) : (s.updPgm c f).atn k = s.atn k := by
  unfold State.atn State.updPgm
  rw [State.ch_updCh]
  split
  · next h => rw [h]
  · rfl

@[simp] theorem State.smp_updPgm (c k : Nat) (f : PgmCh → PgmCh) : (s.updPgm c f).smp k = s.smp k := by
  unfold State.smp State.updPgm
  rw [State.ch_updCh]
  split
  · next h => rw [h]
  · rfl

@[simp] theorem State.jsc_updPgm (c k : Nat) (f : PgmCh → PgmCh) : (s.updPgm c f).jsc k = s.jsc k := by
  unfold State.jsc State.updPgm
  rw [State.ch_updCh]
  split
  · next h => rw [h]
  · rfl

@[simp] theorem State.atu_updPgm (c k : Nat) (f : PgmCh → PgmCh) : (s.updPgm c f).atu k = s.atu k := by
  unfold State.atu State.updPgm
  rw [State.ch_updCh]
  split
  · next h => rw [h]
  · rfl

@[simp] theorem State.vse_updPgm (c k : Nat) (f : PgmCh → PgmCh) : (s.updPgm c f).vse k = s.vse k := by
  unfold State.vse State.updPgm
  rw [State.ch_updCh]
  split
  · next h => rw [h]
  · rfl

@[simp] theorem State.kwp_updPgm (c k : Nat) (f : PgmCh → PgmCh) : (s.updPgm c f).kwp k = s.kwp k := by
  unfold State.kwp State.updPgm
  rw [State.ch_updCh]
  split
  · next h => rw [h]
  · rfl

@[simp] theorem State.trc_updPgm (c k : Nat) (f : PgmCh → PgmCh) : (s.updPgm c f).trc k = s.trc k := by
  unfold State.trc State.updPgm
  rw [State.ch_updCh]
  split
  · next h => rw [h]
  · rfl

@[simp] theorem State.slp_updPgm (c k : Nat) (f : PgmCh → PgmCh) : (s.updPgm c f).slp k = s.slp k := by
  unfold State.slp State.updPgm
  rw [State.ch_updCh]
  split
  · next h => rw [h]
  · rfl

@[simp] theorem State.nmo_updPgm (c k : Nat) (f : PgmCh → PgmCh) : (s.updPgm c f).nmo k = s.nmo k := by
  unfold State.nmo State.updPgm
  rw [State.ch_updCh]
  split
  · next h => rw [h]
  · rfl

@[simp] theorem State.ccx_updPgm (c k : Nat) (f : PgmCh → PgmCh) : (s.updPgm c f).ccx k = s.ccx k := by
  unfold State.ccx State.updPgm
  rw [State.ch_updCh]
  split
  · next h => rw [h]
  · rfl

@[simp] theorem State.atn_updAtn_same (c : Nat) (f : AtnCh → AtnCh) : (s.updAtn c f).atn c = f (s.atn c) := by
  unfold State.atn State.updAtn
  rw [State.ch_updCh_same]

theorem State.atn_updAtn (c k : Nat) (f : AtnCh → AtnCh) :
    (s.updAtn c f).atn k = if k = c then f (s.atn c) else s.atn k := by
  unfold State.atn State.updAtn
  rw [State.ch_updCh]
  split <;> rfl

@[simp] theorem State.rqt_updAtn (c k : Nat) (f : AtnCh → AtnCh) : (s.updAtn c f).rqt k = s.rqt k := by
  unfold State.rqt State.updAtn
  rw [State.ch_updCh]
  split
  · next h => rw [h]
  · rfl

@[simp] theorem State.pgm_updAtn (c k : Nat) (f : AtnCh → AtnCh) : (s.updAtn c f).pgm k = s.pgm k := by
  unfold State.pgm State.updAtn
  rw [State.ch_updCh]
  split
  · next h => rw [h]
  · rfl

@[simp] theorem State.smp_updAtn (c k : Nat) (f : AtnCh → AtnCh) : (s.updAtn c f).smp k = s.smp k := by
  unfold State.smp State.updAtn
  rw [State.ch_updCh]
  split
  · next h => rw [h]
  · rfl

@[simp] theorem State.jsc_updAtn (c k : Nat) (f : AtnCh → AtnCh) : (s.updAtn c f).jsc k = s.jsc k := by
  unfold State.jsc State.updAtn
  rw [State.ch_updCh]
  split
  · next h => rw [h]
  · rfl

@[simp] theorem State.atu_updAtn (c k : Nat) (f : AtnCh → AtnCh) : (s.updAtn c f).atu k = s.atu k := by
  unfold State.atu State.updAtn
  rw [State.ch_updCh]
  split
  · next h => rw [h]
  · rfl

@[simp] theorem State.vse_updAtn (c k : Nat) (f : AtnCh → AtnCh) : (s.updAtn c f).vse k = s.vse k := by
  unfold State.vse State.updAtn
  rw [State.ch_updCh]
  split
  · next h => rw [h]
  · rfl

@[simp] theorem State.kwp_updAtn (c k : Nat) (f : AtnCh → AtnCh) : (s.updAtn c f).kwp k = s.kwp k := by
  unfold State.kwp State.updAtn
  rw [State.ch_updCh]
  split
  · next h => rw [h]
  · rfl

@[simp] theorem State.trc_updAtn (c k : Nat) (f : AtnCh → AtnCh) : (s.updAtn c f).trc k = s.trc k := by
  unfold State.trc State.updAtn
  rw [State.ch_updCh]
  split
  · next h => rw [h]
  · rfl

@[simp] theorem State.slp_updAtn (c k : Nat) (f : AtnCh → AtnCh) : (s.updAtn c f).slp k = s.slp k := by
  unfold State.slp State.updAtn
  rw [State.ch_updCh]
  split
  · next h => rw [h]
  · rfl

@[simp] theorem State.nmo_updAtn (c k : Nat) (f : AtnCh → AtnCh) : (s.updAtn c f).nmo k = s.nmo k := by
  unfold State.nmo State.updAtn
  rw [State.ch_updCh]
  split
  · next h => rw [h]
  · rfl

@[simp] theorem State.ccx_updAtn (c k : Nat) (f : AtnCh → AtnCh) : (s.updAtn c f).ccx k = s.ccx k := by
  unfold State.ccx State.updAtn
  rw [State.ch_updCh]
  split
  · next h => rw [h]
  · rfl

@[simp] theorem State.smp_updSmp_same (c : Nat) (f : SmpCh → SmpCh) : (s.updSmp c f).smp c = f (s.smp c) := by
  unfold State.smp State.updSmp
  rw [State.ch_updCh_same]

theorem State.smp_updSmp (c k : Nat) (f : SmpCh → SmpCh) :
    (s.updSmp c f).smp k = if k = c then f (s.smp c) else s.smp k := by
  unfold State.smp State.updSmp
  rw [State.ch_updCh]
  split <;> rfl

@[simp] theorem State.rqt_updSmp (c k : Nat) (f : SmpCh → SmpCh) : (s.updSmp c f).rqt k = s.rqt k := by
  unfold State.rqt State.updSmp
  rw [State.ch_updCh]
  split
  · next h => rw [h]
  · rfl

@[simp] theorem State.pgm_updSmp (c k : Nat) (f : SmpCh → SmpCh) : (s.updSmp c f).pgm k = s.pgm k := by
  unfold State.pgm State.updSmp
  rw [State.ch_updCh]
  split
  · next h => rw [h]
  · rfl

@[simp] theorem State.atn_updSmp (c k : Nat) (f : SmpCh → SmpCh) : (s.updSmp c f).atn k = s.atn k := by
  unfold State.atn State.updSmp
  rw [State.ch_updCh]
  split
  · next h => rw [h]
  · rfl

@[simp] theorem State.jsc_updSmp (c k : Nat) (f : SmpCh → SmpCh) : (s.updSmp c f).jsc k = s.jsc k := by
  unfold State.jsc State.updSmp
  rw [State.ch_updCh]
  split
  · next h => rw [h]
  · rfl

@[simp] theorem State.atu_updSmp (c k : Nat) (f : SmpCh → SmpCh) : (s.updSmp c f).atu k = s.atu k := by
  unfold State.atu State.updSmp
  rw [State.ch_updCh]
  split
  · next h => rw [h]
  · rfl

@[simp] theorem State.vse_updSmp (c k : Nat) (f : SmpCh → SmpCh) : (s.updSmp c f).vse k = s.vse k := by
  unfold State.vse State.updSmp
  rw [State.ch_updCh]
  split
  · next h => rw [h]
  · rfl

@[simp] theorem State.kwp_updSmp (c k : Nat) (f : SmpCh → SmpCh) : (s.updSmp c f).kwp k = s.kwp k := by
  unfold State.kwp State.updSmp
  rw [State.ch_updCh]
  split
  · next h => rw [h]
  · rfl

@[simp] theorem State.trc_updSmp (c k : Nat) (f : SmpCh → SmpCh) : (s.updSmp c f).trc k = s.trc k := by
  unfold State.trc State.updSmp
  rw [State.ch_updCh]
  split
  · next h => rw [h]
  · rfl

@[simp] theorem State.slp_updSmp (c k : Nat) (f : SmpCh → SmpCh) : (s.updSmp c f).slp k = s.slp k := by
  unfold State.slp State.updSmp
  rw [State.ch_updCh]
  split
  · next h => rw [h]
  · rfl

@[simp] theorem State.nmo_updSmp (c k : Nat) (f : SmpCh → SmpCh) : (s.updSmp c f).nmo k = s.nmo k := by
  unfold State.nmo State.updSmp
  rw [State.ch_updCh]
  split
  · next h => rw [h]
  · rfl

@[simp] theorem State.ccx_updSmp (c k : Nat) (f : SmpCh → SmpCh) : (s.updSmp c f).ccx k = s.ccx k := by
  unfold State.ccx State.updSmp
  rw [State.ch_updCh]
  split
  · next h => rw [h]
  · rfl

@[simp] theorem State.jsc_updJsc_same (c : Nat) (f : JscCh → JscCh) : (s.updJsc c f).jsc c = f (s.jsc c) := by
  unfold State.jsc State.updJsc
  rw [State.ch_updCh_same]

theorem State.jsc_updJsc (c k : Nat) (f : JscCh → JscCh) :
    (s.updJsc c f).jsc k = if k = c then f (s.jsc c) else s.jsc k := by
  unfold State.jsc State.updJsc
  rw [State.ch_updCh]
  split <;> rfl

@[simp] theorem State.rqt_updJsc (c k : Nat) (f : JscCh → JscCh) : (s.updJsc c f).rqt k = s.rqt k := by
  unfold State.rqt State.updJsc
  rw [State.ch_updCh]
  split
  · next h => rw [h]
  · rfl

@[simp] theorem State.pgm_updJsc (c k : Nat) (f : JscCh → JscCh) : (s.updJsc c f).pgm k = s.pgm k := by
  unfold State.pgm State.updJsc
  rw [State.ch_updCh]
  split
  · next h => rw [h]
  · rfl

@[simp] theorem State.atn_updJsc (c k : Nat) (f : JscCh → JscCh) : (s.updJsc c f).atn k = s.atn k := by
  unfold State.atn State.updJsc
  rw [State.ch_updCh]
  split
  · next h => rw [h]
  · rfl

@[simp] theorem State.smp_updJsc (c k : Nat) (f : JscCh → JscCh) : (s.updJsc c f).smp k = s.smp k := by
  unfold State.smp State.updJsc
  rw [State.ch_updCh]
  split
  · next h => rw [h]
  · rfl

@[simp] theorem State.atu_updJsc (c k : Nat) (f : JscCh → JscCh) : (s.updJsc c f).atu k = s.atu k := by
  unfold State.atu State.updJsc
  rw [State.ch_updCh]
  split
  · next h => rw [h]
  · rfl

@[simp] theorem State.vse_updJsc (c k : Nat) (f : JscCh → JscCh) : (s.updJsc c f).vse k = s.vse k := by
  unfold State.vse State.updJsc
  rw [State.ch_updCh]
  split
  · next h => rw [h]
  · rfl

@[simp] theorem State.kwp_updJsc (c k : Nat) (f : JscCh → JscCh) : (s.updJsc c f).kwp k = s.kwp k := by
  unfold State.kwp State.updJsc
  rw [State.ch_updCh]
  split
  · next h => rw [h]
  · rfl

@[simp] theorem State.trc_updJsc (c k : Nat) (f : JscCh → JscCh) : (s.updJsc c f).trc k = s.trc k := by
  unfold State.trc State.updJsc
  rw [State.ch_updCh]
  split
  · next h => rw [h]
  · rfl

@[simp] theorem State.slp_updJsc (c k : Nat) (f : JscCh → JscCh) : (s.updJsc c f).slp k = s.slp k := by
  unfold State.slp State.updJsc
  rw [State.ch_updCh]
  split
  · next h => rw [h]
  · rfl

@[simp] theorem State.nmo_updJsc (c k : Nat) (f : JscCh → JscCh) : (s.updJsc c f).nmo k = s.nmo k := by
  unfold State.nmo State.updJsc
  rw [State.ch_updCh]
  split
  · next h => rw [h]
  · rfl

@[simp] theorem State.ccx_updJsc (c k : Nat) (f : JscCh → JscCh) : (s.updJsc c f).ccx k = s.ccx k := by
  unfold State.ccx State.updJsc
  rw [State.ch_updCh]
  split
  · next h => rw [h]
  · rfl

@[simp] theorem State.atu_updAtu_same (c : Nat) (f : AtuCh → AtuCh) : (s.updAtu c f).atu c = f (s.atu c) := by
  unfold State.atu State.updAtu
  rw [State.ch_updCh_same]

theorem State.atu_updAtu (c k : Nat) (f : AtuCh → AtuCh) :
    (s.updAtu c f).atu k = if k = c then f (s.atu c) else s.atu k := by
  unfold State.atu State.updAtu
  rw [State.ch_updCh]
  split <;> rfl

@[simp] theorem State.rqt_updAtu (c k : Nat) (f : AtuCh → AtuCh) : (s.updAtu c f).rqt k = s.rqt k := by
  unfold State.rqt State.updAtu
  rw [State.ch_updCh]
  split
  · next h => rw [h]
  · rfl

@[simp] theorem State.pgm_updAtu (c k : Nat) (f : AtuCh → AtuCh) : (s.updAtu c f).pgm k = s.pgm k := by
  unfold State.pgm State.updAtu
  rw [State.ch_updCh]
  split
  · next h => rw [h]
  · rfl

@[simp] theorem State.atn_updAtu (c k : Nat) (f : AtuCh → AtuCh) : (s.updAtu c f).atn k = s.atn k := by
  unfold State.atn State.updAtu
  rw [State.ch_updCh]
  split
  · next h => rw [h]
  · rfl

@[simp] theorem State.smp_updAtu (c k : Nat) (f : AtuCh → AtuCh) : (s.updAtu c f).smp k = s.smp k := by
  unfold State.smp State.updAtu
  rw [State.ch_updCh]
  split
  · next h => rw [h]
  · rfl

@[simp] theorem State.jsc_updAtu (c k : Nat) (f : AtuCh → AtuCh) : (s.updAtu c f).jsc k = s.jsc k := by
  unfold State.jsc State.updAtu
  rw [State.ch_updCh]
  split
  · next h => rw [h]
  · rfl

@[simp] theorem State.vse_updAtu (c k : Nat) (f : AtuCh → AtuCh) : (s.updAtu c f).vse k = s.vse k := by
  unfold State.vse State.updAtu
  rw [State.ch_updCh]
  split
  · next h => rw [h]
  · rfl

@[simp] theorem State.kwp_updAtu (c k : Nat) (f : AtuCh → AtuCh) : (s.updAtu c f).kwp k = s.kwp k := by
  unfold State.kwp State.updAtu
  rw [State.ch_updCh]
  split
  · next h => rw [h]
  · rfl

@[simp] theorem State.trc_updAtu (c k : Nat) (f : AtuCh → AtuCh) : (s.updAtu c f).trc k = s.trc k := by
  unfold State.trc State.updAtu
  rw [State.ch_updCh]
  split
  · next h => rw [h]
  · rfl

@[simp] theorem State.slp_updAtu (c k : Nat) (f : AtuCh → AtuCh) : (s.updAtu c f).slp k = s.slp k := by
  unfold State.slp State.updAtu
  rw [State.ch_updCh]
  split
  · next h => rw [h]
  · rfl

@[simp] theorem State.nmo_updAtu (c k : Nat) (f : AtuCh → AtuCh) : (s.updAtu c f).nmo k = s.nmo k := by
  unfold State.nmo State.updAtu
  rw [State.ch_updCh]
  split
  · next h => rw [h]
  · rfl

@[simp] theorem State.ccx_updAtu (c k : Nat) (f : AtuCh → AtuCh) : (s.updAtu c f).ccx k = s.ccx k := by
  unfold State.ccx State.updAtu
  rw [State.ch_updCh]
  split
  · next h => rw [h]
  · rfl

@[simp] theorem State.vse_updVse_same (c : Nat) (f : VseCh → VseCh) : (s.updVse c f).vse c = f (s.vse c) := by
  unfold State.vse State.updVse
  rw [State.ch_updCh_same]

theorem State.vse_updVse (c k : Nat) (f : VseCh → VseCh) :
    (s.updVse c f).vse k = if k = c then f (s.vse c) else s.vse k := by
  unfold State.vse State.updVse
  rw [State.ch_updCh]
  split <;> rfl

@[simp] theorem State.rqt_updVse (c k : Nat) (f : VseCh → VseCh) : (s.updVse c f).rqt k = s.rqt k := by
  unfold State.rqt State.updVse
  rw [State.ch_updCh]
  split
  · next h => rw [h]
  · rfl

@[simp] theorem State.pgm_updVse (c k : Nat) (f : VseCh → VseCh) : (s.updVse c f).pgm k = s.pgm k := by
  unfold State.pgm State.updVse
  rw [State.ch_updCh]
  split
  · next h => rw [h]
  · rfl

@[simp] theorem State.atn_updVse (c k : Nat) (f : VseCh → VseCh) : (s.updVse c f).atn k = s.atn k := by
  unfold State.atn State.updVse
  rw [State.ch_updCh]
  split
  · next h => rw [h]
  · rfl

@[simp] theorem State.smp_updVse (c k : Nat) (f : VseCh → VseCh) : (s.updVse c f).smp k = s.smp k := by
  unfold State.smp State.updVse
  rw [State.ch_updCh]
  split
  · next h => rw [h]
  · rfl

@[simp] theorem State.jsc_updVse (c k : Nat) (f : VseCh → VseCh) : (s.updVse c f).jsc k = s.jsc k := by
  unfold State.jsc State.updVse
  rw [State.ch_updCh]
  split
  · next h => rw [h]
  · rfl

@[simp] theorem State.atu_updVse (c k : Nat) (f : VseCh → VseCh) : (s.updVse c f).atu k = s.atu k := by
  unfold State.atu State.updVse
  rw [State.ch_updCh]
  split
  · next h => rw [h]
  · rfl

@[simp] theorem State.kwp_updVse (c k : Nat) (f : VseCh → VseCh) : (s.updVse c f).kwp k = s.kwp k := by
  unfold State.kwp State.updVse
  rw [State.ch_updCh]
  split
  · next h => rw [h]
  · rfl

@[simp] theorem State.trc_updVse (c k : Nat) (f : VseCh → VseCh) : (s.updVse c f).trc k = s.trc k := by
  unfold State.trc State.updVse
  rw [State.ch_updCh]
  split
  · next h => rw [h]
  · rfl

@[simp] theorem State.slp_updVse (c k : Nat) (f : VseCh → VseCh) : (s.updVse c f).slp k = s.slp k := by
  unfold State.slp State.updVse
  rw [State.ch_updCh]
  split
  · next h => rw [h]
  · rfl

@[simp] theorem State.nmo_updVse (c k : Nat) (f : VseCh → VseCh) : (s.updVse c f).nmo k = s.nmo k := by
  unfold State.nmo State.updVse
  rw [State.ch_updCh]
  split
  · next h => rw [h]
  · rfl

@[simp] theorem State.ccx_updVse (c k : Nat) (f : VseCh → VseCh) : (s.updVse c f).ccx k = s.ccx k := by
  unfold State.ccx State.updVse
  rw [State.ch_updCh]
  split
  · next h => rw [h]
  · rfl

@[simp] theorem State.kwp_updKwp_same (c : Nat) (f : KwpCh → KwpCh) : (s.updKwp c f).kwp c = f (s.kwp c) := by
  unfold State.kwp State.updKwp
  rw [State.ch_updCh_same]

theorem State.kwp_updKwp (c k : Nat) (f : KwpCh → KwpCh) :
    (s.updKwp c f).kwp k = if k = c then f (s.kwp c) else s.kwp k := by
  unfold State.kwp State.updKwp
  rw [State.ch_updCh]
  split <;> rfl

@[simp] theorem State.rqt_updKwp (c k : Nat) (f : KwpCh → KwpCh) : (s.updKwp c f).rqt k = s.rqt k := by
  unfold State.rqt State.updKwp
  rw [State.ch_updCh]
  split
  · next h => rw [h]
  · rfl

@[simp] theorem State.pgm_updKwp (c k : Nat) (f : KwpCh → KwpCh) : (s.updKwp c f).pgm k = s.pgm k := by
  unfold State.pgm State.updKwp
  rw [State.ch_updCh]
  split
  · next h => rw [h]
  · rfl

@[simp] theorem State.atn_updKwp (c k : Nat) (f : KwpCh → KwpCh) : (s.updKwp c f).atn k = s.atn k := by
  unfold State.atn State.updKwp
  rw [State.ch_updCh]
  split
  · next h => rw [h]
  · rfl

@[simp] theorem State.smp_updKwp (c k : Nat) (f : KwpCh → KwpCh) : (s.updKwp c f).smp k = s.smp k := by
  unfold State.smp State.updKwp
  rw [State.ch_updCh]
  split
  · next h => rw [h]
  · rfl

@[simp] theorem State.jsc_updKwp (c k : Nat) (f : KwpCh → KwpCh) : (s.updKwp c f).jsc k = s.jsc k := by
  unfold State.jsc State.updKwp
  rw [State.ch_updCh]
  split
  · next h => rw [h]
  · rfl

@[simp] theorem State.atu_updKwp (c k : Nat) (f : KwpCh → KwpCh) : (s.updKwp c f).atu k = s.atu k := by
  unfold State.atu State.updKwp
  rw [State.ch_updCh]
  split
  · next h => rw [h]
  · rfl

@[simp] theorem State.vse_updKwp (c k : Nat) (f : KwpCh → KwpCh) : (s.updKwp c f).vse k = s.vse k := by
  unfold State.vse State.updKwp
  rw [State.ch_updCh]
  split
  · next h => rw [h]
  · rfl

@[simp] theorem State.trc_updKwp (c k : Nat) (f : KwpCh → KwpCh) : (s.updKwp c f).trc k = s.trc k := by
  unfold State.trc State.updKwp
  rw [State.ch_updCh]
  split
  · next h => rw [h]
  · rfl

@[simp] theorem State.slp_updKwp (c k : Nat) (f : KwpCh → KwpCh) : (s.updKwp c f).slp k = s.slp k := by
  unfold State.slp State.updKwp
  rw [State.ch_updCh]
  split
  · next h => rw [h]
  · rfl

@[simp] theorem State.nmo_updKwp (c k : Nat) (f : KwpCh → KwpCh) : (s.updKwp c f).nmo k = s.nmo k := by
  unfold State.nmo State.updKwp
  rw [State.ch_updCh]
  split
  · next h => rw [h]
  · rfl

@[simp] theorem State.ccx_updKwp (c k : Nat) (f : KwpCh → KwpCh) : (s.updKwp c f).ccx k = s.ccx k := by
  unfold State.ccx State.updKwp
  rw [State.ch_updCh]
  split
  · next h => rw [h]
  · rfl

@[simp] theorem State.trc_updTrc_same (c : Nat) (f : TrcCh → TrcCh) : (s.updTrc c f).trc c = f (s.trc c) := by
  unfold State.trc State.updTrc
  rw [State.ch_updCh_same]

theorem State.trc_updTrc (c k : Nat) (f : TrcCh → TrcCh) :
    (s.updTrc c f).trc k = if k = c then f (s.trc c) else s.trc k := by
  unfold State.trc State.updTrc
  rw [State.ch_updCh]
  split <;> rfl

@[simp] theorem State.rqt_updTrc (c k : Nat) (f : TrcCh → TrcCh) : (s.updTrc c f).rqt k = s.rqt k := by
  unfold State.rqt State.updTrc
  rw [State.ch_updCh]
  split
  · next h => rw [h]
  · rfl

@[simp] theorem State.pgm_updTrc (c k : Nat) (f : TrcCh → TrcCh) : (s.updTrc c f).pgm k = s.pgm k := by
  unfold State.pgm State.updTrc
  rw [State.ch_updCh]
  split
  · next h => rw [h]
  · rfl

@[simp] theorem State.atn_updTrc (c k : Nat) (f : TrcCh → TrcCh) : (s.updTrc c f).atn k = s.atn k := by
  unfold State.atn State.updTrc
  rw [State.ch_updCh]
  split
  · next h => rw [h]
  · rfl

@[simp] theorem State.smp_updTrc (c k : Nat) (f : TrcCh → TrcCh) : (s.updTrc c f).smp k = s.smp k := by
  unfold State.smp State.updTrc
  rw [State.ch_updCh]
  split
  · next h => rw [h]
  · rfl

@[simp] theorem State.jsc_updTrc (c k : Nat) (f : TrcCh → TrcCh) : (s.updTrc c f).jsc k = s.jsc k := by
  unfold State.jsc State.updTrc
  rw [State.ch_updCh]
  split
  · next h => rw [h]
  · rfl

@[simp] theorem State.atu_updTrc (c k : Nat) (f : TrcCh → TrcCh) : (s.updTrc c f).atu k = s.atu k := by
  unfold State.atu State.updTrc
  rw [State.ch_updCh]
  split
  · next h => rw [h]
  · rfl

@[simp] theorem State.vse_updTrc (c k : Nat) (f : TrcCh → TrcCh) : (s.updTrc c f).vse k = s.vse k := by
  unfold State.vse State.updTrc
  rw [State.ch_updCh]
  split
  · next h => rw [h]
  · rfl

@[simp] theorem State.kwp_updTrc (c k : Nat) (f : TrcCh → TrcCh) : (s.updTrc c f).kwp k = s.kwp k := by
  unfold State.kwp State.updTrc
  rw [State.ch_updCh]
  split
  · next h => rw [h]
  · rfl

@[simp] theorem State.slp_updTrc (c k : Nat) (f : TrcCh → TrcCh) : (s.updTrc c f).slp k = s.slp k := by
  unfold State.slp State.updTrc
  rw [State.ch_updCh]
  split
  · next h => rw [h]
  · rfl

@[simp] theorem State.nmo_updTrc (c k : Nat) (f : TrcCh → TrcCh) : (s.updTrc c f).nmo k = s.nmo k := by
  unfold State.nmo State.updTrc
  rw [State.ch_updCh]
  split
  · next h => rw [h]
  · rfl

@[simp] theorem State.ccx_updTrc (c k : Nat) (f : TrcCh → TrcCh) : (s.updTrc c f).ccx k = s.ccx k := by
  unfold State.ccx State.updTrc
  rw [State.ch_updCh]
  split
  · next h => rw [h]
  · rfl

@[simp] theorem State.slp_updSlp_same (c : Nat) (f : SlpCh → SlpCh) : (s.updSlp c f).slp c = f (s.slp c) := by
  unfold State.slp State.updSlp
  rw [State.ch_updCh_same]

theorem State.slp_updSlp (c k : Nat) (f : SlpCh → SlpCh) :
    (s.updSlp c f).slp k = if k = c then f (s.slp c) else s.slp k := by
  unfold State.slp State.updSlp
  rw [State.ch_updCh]
  split <;> rfl

@[simp] theorem State.rqt_updSlp (c k : Nat) (f : SlpCh → SlpCh) : (s.updSlp c f).rqt k = s.rqt k := by
  unfold State.rqt State.updSlp
  rw [State.ch_updCh]
  split
  · next h => rw [h]
  · rfl

@[simp] theorem State.pgm_updSlp (c k : Nat) (f : SlpCh → SlpCh) : (s.updSlp c f).pgm k = s.pgm k := by
  unfold State.pgm State.updSlp
  rw [State.ch_updCh]
  split
  · next h => rw [h]
  · rfl

@[simp] theorem State.atn_updSlp (c k : Nat) (f : SlpCh → SlpCh) : (s.updSlp c f).atn k = s.atn k := by
  unfold State.atn State.updSlp
  rw [State.ch_updCh]
  split
  · next h => rw [h]
  · rfl

@[simp] theorem State.smp_updSlp (c k : Nat) (f : SlpCh → SlpCh) : (s.updSlp c f).smp k = s.smp k := by
  unfold State.smp State.updSlp
  rw [State.ch_updCh]
  split
  · next h => rw [h]
  · rfl

@[simp] theorem State.jsc_updSlp (c k : Nat) (f : SlpCh → SlpCh) : (s.updSlp c f).jsc k = s.jsc k := by
  unfold State.jsc State.updSlp
  rw [State.ch_updCh]
  split
  · next h => rw [h]
  · rfl

@[simp] theorem State.atu_updSlp (c k : Nat) (f : SlpCh → SlpCh) : (s.updSlp c f).atu k = s.atu k := by
  unfold State.atu State.updSlp
  rw [State.ch_updCh]
  split
  · next h => rw [h]
  · rfl

@[simp] theorem State.vse_updSlp (c k : Nat) (f : SlpCh → SlpCh) : (s.updSlp c f).vse k = s.vse k := by
  unfold State.vse State.updSlp
  rw [State.ch_updCh]
  split
  · next h => rw [h]
  · rfl

@[simp] theorem State.kwp_updSlp (c k : Nat) (f : SlpCh → SlpCh) : (s.updSlp c f).kwp k = s.kwp k := by
  unfold State.kwp State.updSlp
  rw [State.ch_updCh]
  split
  · next h => rw [h]
  · rfl

@[simp] theorem State.trc_updSlp (c k : Nat) (f : SlpCh → SlpCh) : (s.updSlp c f).trc k = s.trc k := by
  unfold State.trc State.updSlp
  rw [State.ch_updCh]
  split
  · next h => rw [h]
  · rfl

@[simp] theorem State.nmo_updSlp (c k : Nat) (f : SlpCh → SlpCh) : (s.updSlp c f).nmo k = s.nmo k := by
  unfold State.nmo State.updSlp
  rw [State.ch_updCh]
  split
  · next h => rw [h]
  · rfl

@[simp] theorem State.ccx_updSlp (c k : Nat) (f : SlpCh → SlpCh) : (s.updSlp c f).ccx k = s.ccx k := by
  unfold State.ccx State.updSlp
  rw [State.ch_updCh]
  split
  · next h => rw [h]
  · rfl

@[simp] theorem State.nmo_updNmo_same (c : Nat) (f : NmoCh → NmoCh) : (s.updNmo c f).nmo c = f (s.nmo c) := by
  unfold State.nmo State.updNmo
  rw [State.ch_updCh_same]

theorem State.nmo_updNmo (c k : Nat) (f : NmoCh → NmoCh) :
    (s.updNmo c f).nmo k = if k = c then f (s.nmo c) else s.nmo k := by
  unfold State.nmo State.updNmo
  rw [State.ch_updCh]
  split <;> rfl

@[simp] theorem State.rqt_updNmo (c k : Nat) (f : NmoCh → NmoCh) : (s.updNmo c f).rqt k = s.rqt k := by
  unfold State.rqt State.updNmo
  rw [State.ch_updCh]
  split
  · next h => rw [h]
  · rfl

@[simp] theorem State.pgm_updNmo (c k : Nat) (f : NmoCh → NmoCh) : (s.updNmo c f).pgm k = s.pgm k := by
  unfold State.pgm State.updNmo
  rw [State.ch_updCh]
  split
  · next h => rw [h]
  · rfl

@[simp] theorem State.atn_updNmo (c k : Nat) (f : NmoCh → NmoCh) : (s.updNmo c f).atn k = s.atn k := by
  unfold State.atn State.updNmo
  rw [State.ch_updCh]
  split
  · next h => rw [h]
  · rfl

@[simp] theorem State.smp_updNmo (c k : Nat) (f : NmoCh → NmoCh) : (s.updNmo c f).smp k = s.smp k := by
  unfold State.smp State.updNmo
  rw [State.ch_updCh]
  split
  · next h => rw [h]
  · rfl

@[simp] theorem State.jsc_updNmo (c k : Nat) (f : NmoCh → NmoCh) : (s.updNmo c f).jsc k = s.jsc k := by
  unfold State.jsc State.updNmo
  rw [State.ch_updCh]
  split
  · next h => rw [h]
  · rfl

@[simp] theorem State.atu_updNmo (c k : Nat) (f : NmoCh → NmoCh) : (s.updNmo c f).atu k = s.atu k := by
  unfold State.atu State.updNmo
  rw [State.ch_updCh]
  split
  · next h => rw [h]
  · rfl

@[simp] theorem State.vse_updNmo (c k : Nat) (f : NmoCh → NmoCh) : (s.updNmo c f).vse k = s.vse k := by
  unfold State.vse State.updNmo
  rw [State.ch_updCh]
  split
  · next h => rw [h]
  · rfl

@[simp] theorem State.kwp_updNmo (c k : Nat) (f : NmoCh → NmoCh) : (s.updNmo c f).kwp k = s.kwp k := by
  unfold State.kwp State.updNmo
  rw [State.ch_updCh]
  split
  · next h => rw [h]
  · rfl

@[simp] theorem State.trc_updNmo (c k : Nat) (f : NmoCh → NmoCh) : (s.updNmo c f).trc k = s.trc k := by
  unfold State.trc State.updNmo
  rw [State.ch_updCh]
  split
  · next h => rw [h]
  · rfl

@[simp] theorem State.slp_updNmo (c k : Nat) (f : NmoCh → NmoCh) : (s.updNmo c f).slp k = s.slp k := by
  unfold State.slp State.updNmo
  rw [State.ch_updCh]
  split
  · next h => rw [h]
  · rfl

@[simp] theorem State.ccx_updNmo (c k : Nat) (f : NmoCh → NmoCh) : (s.updNmo c f).ccx k = s.ccx k := by
  unfold State.ccx State.updNmo
  rw [State.ch_updCh]
  split
  · next h => rw [h]
  · rfl

@[simp] theorem State.ccx_updCcx_same (c : Nat) (f : CcxCh → CcxCh) : (s.updCcx c f).ccx c = f (s.ccx c) := by
  unfold State.ccx State.updCcx
  rw [State.ch_updCh_same]

theorem State.ccx_updCcx (c k : Nat) (f : CcxCh → CcxCh) :
    (s.updCcx c f).ccx k = if k = c then f (s.ccx c) else s.ccx k := by
  unfold State.ccx State.updCcx
  rw [State.ch_updCh]
  split <;> rfl

@[simp] theorem State.rqt_updCcx (c k : Nat) (f : CcxCh → CcxCh) : (s.updCcx c f).rqt k = s.rqt k := by
  unfold State.rqt State.updCcx
  rw [State.ch_updCh]
  split
  · next h => rw [h]
  · rfl

@[simp] theorem State.pgm_updCcx (c k : Nat) (f : CcxCh → CcxCh) : (s.updCcx c f).pgm k = s.pgm k := by
  unfold State.pgm State.updCcx
  rw [State.ch_updCh]
  split
  · next h => rw [h]
  · rfl

@[simp] theorem State.atn_updCcx (c k : Nat) (f : CcxCh → CcxCh) : (s.updCcx c f).atn k = s.atn k := by
  unfold State.atn State.updCcx
  rw [State.ch_updCh]
  split
  · next h => rw [h]
  · rfl

@[simp] theorem State.smp_updCcx (c k : Nat) (f : CcxCh → CcxCh) : (s.updCcx c f).smp k = s.smp k := by
  unfold State.smp State.updCcx
  rw [State.ch_updCh]
  split
  · next h => rw [h]
  · rfl

@[simp] theorem State.jsc_updCcx (c k : Nat) (f : CcxCh → CcxCh) : (s.updCcx c f).jsc k = s.jsc k := by
  unfold State.jsc State.updCcx
  rw [State.ch_updCh]
  split
  · next h => rw [h]
  · rfl

@[simp] theorem State.atu_updCcx (c k : Nat) (f : CcxCh → CcxCh) : (s.updCcx c f).atu k = s.atu k := by
  unfold State.atu State.updCcx
  rw [State.ch_updCh]
  split
  · next h => rw [h]
  · rfl

@[simp] theorem State.vse_updCcx (c k : Nat) (f : CcxCh → CcxCh) : (s.updCcx c f).vse k = s.vse k := by
  unfold State.vse State.updCcx
  rw [State.ch_updCh]
  split
  · next h => rw [h]
  · rfl

@[simp] theorem State.kwp_updCcx (c k : Nat) (f : CcxCh → CcxCh) : (s.updCcx c f).kwp k = s.kwp k := by
  unfold State.kwp State.updCcx
  rw [State.ch_updCh]
  split
  · next h => rw [h]
  · rfl

@[simp] theorem State.trc_updCcx (c k : Nat) (f : CcxCh → CcxCh) : (s.updCcx c f).trc k = s.trc k := by
  unfold State.trc State.updCcx
  rw [State.ch_updCh]
  split
  · next h => rw [h]
  · rfl

@[simp] theorem State.slp_updCcx (c k : Nat) (f : CcxCh → CcxCh) : (s.updCcx c f).slp k = s.slp k := by
  unfold State.slp State.updCcx
  rw [State.ch_updCh]
  split
  · next h => rw [h]
  · rfl

@[simp] theorem State.nmo_updCcx (c k : Nat) (f : CcxCh → CcxCh) : (s.updCcx c f).nmo k = s.nmo k := by
  unfold State.nmo State.updCcx
  rw [State.ch_updCh]
  split
  · next h => rw [h]
  · rfl

/-! ### Time that passes changes ToD, its fraction, elapsed time, and the cadence error with its slew; nothing else of TIM -/

theorem Tim.cad_mk {tod : Nat} {frac : Nat} {now : Nat} {err : Int} {slew : Nat} {cad : CadState} {realign : Bool} {day : Nat} {ran : Bool} {win : Window} {guard : Bool} {runSet : Nat} {sync : SyncState} {goodCount : Nat} {lastReport : Nat} {lastOffset : Int} {holdSince : Nat} {degraded : Bool} {ppsPresent : Bool} {ppsStamp : Nat} {ppsAt : Nat} {ref10m : Bool} {ppsOut : Bool} {ppsOutAt : Nat} {overPosted : List Window} :
    (Tim.mk tod frac now err slew cad realign day ran win guard runSet sync goodCount lastReport lastOffset holdSince degraded ppsPresent ppsStamp ppsAt ref10m ppsOut ppsOutAt overPosted).cad = cad := rfl
@[simp] theorem State.pass_tim_cad (n : Nat) : (s.pass n).tim.cad = s.tim.cad := by
  unfold State.pass; exact Tim.cad_mk
@[simp] theorem State.passToTod_tim_cad (n : Nat) : (s.passToTod n).tim.cad = s.tim.cad := by
  unfold State.passToTod; exact State.pass_tim_cad ..
@[simp] theorem State.passToNow_tim_cad (n : Nat) : (s.passToNow n).tim.cad = s.tim.cad := by
  unfold State.passToNow; exact State.pass_tim_cad ..
@[simp] theorem State.passToCad_tim_cad (c : Int) : (s.passToCad c).tim.cad = s.tim.cad := by
  unfold State.passToCad; exact State.pass_tim_cad ..
theorem Tim.realign_mk {tod : Nat} {frac : Nat} {now : Nat} {err : Int} {slew : Nat} {cad : CadState} {realign : Bool} {day : Nat} {ran : Bool} {win : Window} {guard : Bool} {runSet : Nat} {sync : SyncState} {goodCount : Nat} {lastReport : Nat} {lastOffset : Int} {holdSince : Nat} {degraded : Bool} {ppsPresent : Bool} {ppsStamp : Nat} {ppsAt : Nat} {ref10m : Bool} {ppsOut : Bool} {ppsOutAt : Nat} {overPosted : List Window} :
    (Tim.mk tod frac now err slew cad realign day ran win guard runSet sync goodCount lastReport lastOffset holdSince degraded ppsPresent ppsStamp ppsAt ref10m ppsOut ppsOutAt overPosted).realign = realign := rfl
@[simp] theorem State.pass_tim_realign (n : Nat) : (s.pass n).tim.realign = s.tim.realign := by
  unfold State.pass; exact Tim.realign_mk
@[simp] theorem State.passToTod_tim_realign (n : Nat) : (s.passToTod n).tim.realign = s.tim.realign := by
  unfold State.passToTod; exact State.pass_tim_realign ..
@[simp] theorem State.passToNow_tim_realign (n : Nat) : (s.passToNow n).tim.realign = s.tim.realign := by
  unfold State.passToNow; exact State.pass_tim_realign ..
@[simp] theorem State.passToCad_tim_realign (c : Int) : (s.passToCad c).tim.realign = s.tim.realign := by
  unfold State.passToCad; exact State.pass_tim_realign ..
theorem Tim.day_mk {tod : Nat} {frac : Nat} {now : Nat} {err : Int} {slew : Nat} {cad : CadState} {realign : Bool} {day : Nat} {ran : Bool} {win : Window} {guard : Bool} {runSet : Nat} {sync : SyncState} {goodCount : Nat} {lastReport : Nat} {lastOffset : Int} {holdSince : Nat} {degraded : Bool} {ppsPresent : Bool} {ppsStamp : Nat} {ppsAt : Nat} {ref10m : Bool} {ppsOut : Bool} {ppsOutAt : Nat} {overPosted : List Window} :
    (Tim.mk tod frac now err slew cad realign day ran win guard runSet sync goodCount lastReport lastOffset holdSince degraded ppsPresent ppsStamp ppsAt ref10m ppsOut ppsOutAt overPosted).day = day := rfl
@[simp] theorem State.pass_tim_day (n : Nat) : (s.pass n).tim.day = s.tim.day := by
  unfold State.pass; exact Tim.day_mk
@[simp] theorem State.passToTod_tim_day (n : Nat) : (s.passToTod n).tim.day = s.tim.day := by
  unfold State.passToTod; exact State.pass_tim_day ..
@[simp] theorem State.passToNow_tim_day (n : Nat) : (s.passToNow n).tim.day = s.tim.day := by
  unfold State.passToNow; exact State.pass_tim_day ..
@[simp] theorem State.passToCad_tim_day (c : Int) : (s.passToCad c).tim.day = s.tim.day := by
  unfold State.passToCad; exact State.pass_tim_day ..
theorem Tim.ran_mk {tod : Nat} {frac : Nat} {now : Nat} {err : Int} {slew : Nat} {cad : CadState} {realign : Bool} {day : Nat} {ran : Bool} {win : Window} {guard : Bool} {runSet : Nat} {sync : SyncState} {goodCount : Nat} {lastReport : Nat} {lastOffset : Int} {holdSince : Nat} {degraded : Bool} {ppsPresent : Bool} {ppsStamp : Nat} {ppsAt : Nat} {ref10m : Bool} {ppsOut : Bool} {ppsOutAt : Nat} {overPosted : List Window} :
    (Tim.mk tod frac now err slew cad realign day ran win guard runSet sync goodCount lastReport lastOffset holdSince degraded ppsPresent ppsStamp ppsAt ref10m ppsOut ppsOutAt overPosted).ran = ran := rfl
@[simp] theorem State.pass_tim_ran (n : Nat) : (s.pass n).tim.ran = s.tim.ran := by
  unfold State.pass; exact Tim.ran_mk
@[simp] theorem State.passToTod_tim_ran (n : Nat) : (s.passToTod n).tim.ran = s.tim.ran := by
  unfold State.passToTod; exact State.pass_tim_ran ..
@[simp] theorem State.passToNow_tim_ran (n : Nat) : (s.passToNow n).tim.ran = s.tim.ran := by
  unfold State.passToNow; exact State.pass_tim_ran ..
@[simp] theorem State.passToCad_tim_ran (c : Int) : (s.passToCad c).tim.ran = s.tim.ran := by
  unfold State.passToCad; exact State.pass_tim_ran ..
theorem Tim.win_mk {tod : Nat} {frac : Nat} {now : Nat} {err : Int} {slew : Nat} {cad : CadState} {realign : Bool} {day : Nat} {ran : Bool} {win : Window} {guard : Bool} {runSet : Nat} {sync : SyncState} {goodCount : Nat} {lastReport : Nat} {lastOffset : Int} {holdSince : Nat} {degraded : Bool} {ppsPresent : Bool} {ppsStamp : Nat} {ppsAt : Nat} {ref10m : Bool} {ppsOut : Bool} {ppsOutAt : Nat} {overPosted : List Window} :
    (Tim.mk tod frac now err slew cad realign day ran win guard runSet sync goodCount lastReport lastOffset holdSince degraded ppsPresent ppsStamp ppsAt ref10m ppsOut ppsOutAt overPosted).win = win := rfl
@[simp] theorem State.pass_tim_win (n : Nat) : (s.pass n).tim.win = s.tim.win := by
  unfold State.pass; exact Tim.win_mk
@[simp] theorem State.passToTod_tim_win (n : Nat) : (s.passToTod n).tim.win = s.tim.win := by
  unfold State.passToTod; exact State.pass_tim_win ..
@[simp] theorem State.passToNow_tim_win (n : Nat) : (s.passToNow n).tim.win = s.tim.win := by
  unfold State.passToNow; exact State.pass_tim_win ..
@[simp] theorem State.passToCad_tim_win (c : Int) : (s.passToCad c).tim.win = s.tim.win := by
  unfold State.passToCad; exact State.pass_tim_win ..
theorem Tim.guard_mk {tod : Nat} {frac : Nat} {now : Nat} {err : Int} {slew : Nat} {cad : CadState} {realign : Bool} {day : Nat} {ran : Bool} {win : Window} {guard : Bool} {runSet : Nat} {sync : SyncState} {goodCount : Nat} {lastReport : Nat} {lastOffset : Int} {holdSince : Nat} {degraded : Bool} {ppsPresent : Bool} {ppsStamp : Nat} {ppsAt : Nat} {ref10m : Bool} {ppsOut : Bool} {ppsOutAt : Nat} {overPosted : List Window} :
    (Tim.mk tod frac now err slew cad realign day ran win guard runSet sync goodCount lastReport lastOffset holdSince degraded ppsPresent ppsStamp ppsAt ref10m ppsOut ppsOutAt overPosted).guard = guard := rfl
@[simp] theorem State.pass_tim_guard (n : Nat) : (s.pass n).tim.guard = s.tim.guard := by
  unfold State.pass; exact Tim.guard_mk
@[simp] theorem State.passToTod_tim_guard (n : Nat) : (s.passToTod n).tim.guard = s.tim.guard := by
  unfold State.passToTod; exact State.pass_tim_guard ..
@[simp] theorem State.passToNow_tim_guard (n : Nat) : (s.passToNow n).tim.guard = s.tim.guard := by
  unfold State.passToNow; exact State.pass_tim_guard ..
@[simp] theorem State.passToCad_tim_guard (c : Int) : (s.passToCad c).tim.guard = s.tim.guard := by
  unfold State.passToCad; exact State.pass_tim_guard ..
theorem Tim.runSet_mk {tod : Nat} {frac : Nat} {now : Nat} {err : Int} {slew : Nat} {cad : CadState} {realign : Bool} {day : Nat} {ran : Bool} {win : Window} {guard : Bool} {runSet : Nat} {sync : SyncState} {goodCount : Nat} {lastReport : Nat} {lastOffset : Int} {holdSince : Nat} {degraded : Bool} {ppsPresent : Bool} {ppsStamp : Nat} {ppsAt : Nat} {ref10m : Bool} {ppsOut : Bool} {ppsOutAt : Nat} {overPosted : List Window} :
    (Tim.mk tod frac now err slew cad realign day ran win guard runSet sync goodCount lastReport lastOffset holdSince degraded ppsPresent ppsStamp ppsAt ref10m ppsOut ppsOutAt overPosted).runSet = runSet := rfl
@[simp] theorem State.pass_tim_runSet (n : Nat) : (s.pass n).tim.runSet = s.tim.runSet := by
  unfold State.pass; exact Tim.runSet_mk
@[simp] theorem State.passToTod_tim_runSet (n : Nat) : (s.passToTod n).tim.runSet = s.tim.runSet := by
  unfold State.passToTod; exact State.pass_tim_runSet ..
@[simp] theorem State.passToNow_tim_runSet (n : Nat) : (s.passToNow n).tim.runSet = s.tim.runSet := by
  unfold State.passToNow; exact State.pass_tim_runSet ..
@[simp] theorem State.passToCad_tim_runSet (c : Int) : (s.passToCad c).tim.runSet = s.tim.runSet := by
  unfold State.passToCad; exact State.pass_tim_runSet ..
theorem Tim.sync_mk {tod : Nat} {frac : Nat} {now : Nat} {err : Int} {slew : Nat} {cad : CadState} {realign : Bool} {day : Nat} {ran : Bool} {win : Window} {guard : Bool} {runSet : Nat} {sync : SyncState} {goodCount : Nat} {lastReport : Nat} {lastOffset : Int} {holdSince : Nat} {degraded : Bool} {ppsPresent : Bool} {ppsStamp : Nat} {ppsAt : Nat} {ref10m : Bool} {ppsOut : Bool} {ppsOutAt : Nat} {overPosted : List Window} :
    (Tim.mk tod frac now err slew cad realign day ran win guard runSet sync goodCount lastReport lastOffset holdSince degraded ppsPresent ppsStamp ppsAt ref10m ppsOut ppsOutAt overPosted).sync = sync := rfl
@[simp] theorem State.pass_tim_sync (n : Nat) : (s.pass n).tim.sync = s.tim.sync := by
  unfold State.pass; exact Tim.sync_mk
@[simp] theorem State.passToTod_tim_sync (n : Nat) : (s.passToTod n).tim.sync = s.tim.sync := by
  unfold State.passToTod; exact State.pass_tim_sync ..
@[simp] theorem State.passToNow_tim_sync (n : Nat) : (s.passToNow n).tim.sync = s.tim.sync := by
  unfold State.passToNow; exact State.pass_tim_sync ..
@[simp] theorem State.passToCad_tim_sync (c : Int) : (s.passToCad c).tim.sync = s.tim.sync := by
  unfold State.passToCad; exact State.pass_tim_sync ..
theorem Tim.goodCount_mk {tod : Nat} {frac : Nat} {now : Nat} {err : Int} {slew : Nat} {cad : CadState} {realign : Bool} {day : Nat} {ran : Bool} {win : Window} {guard : Bool} {runSet : Nat} {sync : SyncState} {goodCount : Nat} {lastReport : Nat} {lastOffset : Int} {holdSince : Nat} {degraded : Bool} {ppsPresent : Bool} {ppsStamp : Nat} {ppsAt : Nat} {ref10m : Bool} {ppsOut : Bool} {ppsOutAt : Nat} {overPosted : List Window} :
    (Tim.mk tod frac now err slew cad realign day ran win guard runSet sync goodCount lastReport lastOffset holdSince degraded ppsPresent ppsStamp ppsAt ref10m ppsOut ppsOutAt overPosted).goodCount = goodCount := rfl
@[simp] theorem State.pass_tim_goodCount (n : Nat) : (s.pass n).tim.goodCount = s.tim.goodCount := by
  unfold State.pass; exact Tim.goodCount_mk
@[simp] theorem State.passToTod_tim_goodCount (n : Nat) : (s.passToTod n).tim.goodCount = s.tim.goodCount := by
  unfold State.passToTod; exact State.pass_tim_goodCount ..
@[simp] theorem State.passToNow_tim_goodCount (n : Nat) : (s.passToNow n).tim.goodCount = s.tim.goodCount := by
  unfold State.passToNow; exact State.pass_tim_goodCount ..
@[simp] theorem State.passToCad_tim_goodCount (c : Int) : (s.passToCad c).tim.goodCount = s.tim.goodCount := by
  unfold State.passToCad; exact State.pass_tim_goodCount ..
theorem Tim.lastReport_mk {tod : Nat} {frac : Nat} {now : Nat} {err : Int} {slew : Nat} {cad : CadState} {realign : Bool} {day : Nat} {ran : Bool} {win : Window} {guard : Bool} {runSet : Nat} {sync : SyncState} {goodCount : Nat} {lastReport : Nat} {lastOffset : Int} {holdSince : Nat} {degraded : Bool} {ppsPresent : Bool} {ppsStamp : Nat} {ppsAt : Nat} {ref10m : Bool} {ppsOut : Bool} {ppsOutAt : Nat} {overPosted : List Window} :
    (Tim.mk tod frac now err slew cad realign day ran win guard runSet sync goodCount lastReport lastOffset holdSince degraded ppsPresent ppsStamp ppsAt ref10m ppsOut ppsOutAt overPosted).lastReport = lastReport := rfl
@[simp] theorem State.pass_tim_lastReport (n : Nat) : (s.pass n).tim.lastReport = s.tim.lastReport := by
  unfold State.pass; exact Tim.lastReport_mk
@[simp] theorem State.passToTod_tim_lastReport (n : Nat) : (s.passToTod n).tim.lastReport = s.tim.lastReport := by
  unfold State.passToTod; exact State.pass_tim_lastReport ..
@[simp] theorem State.passToNow_tim_lastReport (n : Nat) : (s.passToNow n).tim.lastReport = s.tim.lastReport := by
  unfold State.passToNow; exact State.pass_tim_lastReport ..
@[simp] theorem State.passToCad_tim_lastReport (c : Int) : (s.passToCad c).tim.lastReport = s.tim.lastReport := by
  unfold State.passToCad; exact State.pass_tim_lastReport ..
theorem Tim.lastOffset_mk {tod : Nat} {frac : Nat} {now : Nat} {err : Int} {slew : Nat} {cad : CadState} {realign : Bool} {day : Nat} {ran : Bool} {win : Window} {guard : Bool} {runSet : Nat} {sync : SyncState} {goodCount : Nat} {lastReport : Nat} {lastOffset : Int} {holdSince : Nat} {degraded : Bool} {ppsPresent : Bool} {ppsStamp : Nat} {ppsAt : Nat} {ref10m : Bool} {ppsOut : Bool} {ppsOutAt : Nat} {overPosted : List Window} :
    (Tim.mk tod frac now err slew cad realign day ran win guard runSet sync goodCount lastReport lastOffset holdSince degraded ppsPresent ppsStamp ppsAt ref10m ppsOut ppsOutAt overPosted).lastOffset = lastOffset := rfl
@[simp] theorem State.pass_tim_lastOffset (n : Nat) : (s.pass n).tim.lastOffset = s.tim.lastOffset := by
  unfold State.pass; exact Tim.lastOffset_mk
@[simp] theorem State.passToTod_tim_lastOffset (n : Nat) : (s.passToTod n).tim.lastOffset = s.tim.lastOffset := by
  unfold State.passToTod; exact State.pass_tim_lastOffset ..
@[simp] theorem State.passToNow_tim_lastOffset (n : Nat) : (s.passToNow n).tim.lastOffset = s.tim.lastOffset := by
  unfold State.passToNow; exact State.pass_tim_lastOffset ..
@[simp] theorem State.passToCad_tim_lastOffset (c : Int) : (s.passToCad c).tim.lastOffset = s.tim.lastOffset := by
  unfold State.passToCad; exact State.pass_tim_lastOffset ..
theorem Tim.holdSince_mk {tod : Nat} {frac : Nat} {now : Nat} {err : Int} {slew : Nat} {cad : CadState} {realign : Bool} {day : Nat} {ran : Bool} {win : Window} {guard : Bool} {runSet : Nat} {sync : SyncState} {goodCount : Nat} {lastReport : Nat} {lastOffset : Int} {holdSince : Nat} {degraded : Bool} {ppsPresent : Bool} {ppsStamp : Nat} {ppsAt : Nat} {ref10m : Bool} {ppsOut : Bool} {ppsOutAt : Nat} {overPosted : List Window} :
    (Tim.mk tod frac now err slew cad realign day ran win guard runSet sync goodCount lastReport lastOffset holdSince degraded ppsPresent ppsStamp ppsAt ref10m ppsOut ppsOutAt overPosted).holdSince = holdSince := rfl
@[simp] theorem State.pass_tim_holdSince (n : Nat) : (s.pass n).tim.holdSince = s.tim.holdSince := by
  unfold State.pass; exact Tim.holdSince_mk
@[simp] theorem State.passToTod_tim_holdSince (n : Nat) : (s.passToTod n).tim.holdSince = s.tim.holdSince := by
  unfold State.passToTod; exact State.pass_tim_holdSince ..
@[simp] theorem State.passToNow_tim_holdSince (n : Nat) : (s.passToNow n).tim.holdSince = s.tim.holdSince := by
  unfold State.passToNow; exact State.pass_tim_holdSince ..
@[simp] theorem State.passToCad_tim_holdSince (c : Int) : (s.passToCad c).tim.holdSince = s.tim.holdSince := by
  unfold State.passToCad; exact State.pass_tim_holdSince ..
theorem Tim.degraded_mk {tod : Nat} {frac : Nat} {now : Nat} {err : Int} {slew : Nat} {cad : CadState} {realign : Bool} {day : Nat} {ran : Bool} {win : Window} {guard : Bool} {runSet : Nat} {sync : SyncState} {goodCount : Nat} {lastReport : Nat} {lastOffset : Int} {holdSince : Nat} {degraded : Bool} {ppsPresent : Bool} {ppsStamp : Nat} {ppsAt : Nat} {ref10m : Bool} {ppsOut : Bool} {ppsOutAt : Nat} {overPosted : List Window} :
    (Tim.mk tod frac now err slew cad realign day ran win guard runSet sync goodCount lastReport lastOffset holdSince degraded ppsPresent ppsStamp ppsAt ref10m ppsOut ppsOutAt overPosted).degraded = degraded := rfl
@[simp] theorem State.pass_tim_degraded (n : Nat) : (s.pass n).tim.degraded = s.tim.degraded := by
  unfold State.pass; exact Tim.degraded_mk
@[simp] theorem State.passToTod_tim_degraded (n : Nat) : (s.passToTod n).tim.degraded = s.tim.degraded := by
  unfold State.passToTod; exact State.pass_tim_degraded ..
@[simp] theorem State.passToNow_tim_degraded (n : Nat) : (s.passToNow n).tim.degraded = s.tim.degraded := by
  unfold State.passToNow; exact State.pass_tim_degraded ..
@[simp] theorem State.passToCad_tim_degraded (c : Int) : (s.passToCad c).tim.degraded = s.tim.degraded := by
  unfold State.passToCad; exact State.pass_tim_degraded ..
theorem Tim.ppsPresent_mk {tod : Nat} {frac : Nat} {now : Nat} {err : Int} {slew : Nat} {cad : CadState} {realign : Bool} {day : Nat} {ran : Bool} {win : Window} {guard : Bool} {runSet : Nat} {sync : SyncState} {goodCount : Nat} {lastReport : Nat} {lastOffset : Int} {holdSince : Nat} {degraded : Bool} {ppsPresent : Bool} {ppsStamp : Nat} {ppsAt : Nat} {ref10m : Bool} {ppsOut : Bool} {ppsOutAt : Nat} {overPosted : List Window} :
    (Tim.mk tod frac now err slew cad realign day ran win guard runSet sync goodCount lastReport lastOffset holdSince degraded ppsPresent ppsStamp ppsAt ref10m ppsOut ppsOutAt overPosted).ppsPresent = ppsPresent := rfl
@[simp] theorem State.pass_tim_ppsPresent (n : Nat) : (s.pass n).tim.ppsPresent = s.tim.ppsPresent := by
  unfold State.pass; exact Tim.ppsPresent_mk
@[simp] theorem State.passToTod_tim_ppsPresent (n : Nat) : (s.passToTod n).tim.ppsPresent = s.tim.ppsPresent := by
  unfold State.passToTod; exact State.pass_tim_ppsPresent ..
@[simp] theorem State.passToNow_tim_ppsPresent (n : Nat) : (s.passToNow n).tim.ppsPresent = s.tim.ppsPresent := by
  unfold State.passToNow; exact State.pass_tim_ppsPresent ..
@[simp] theorem State.passToCad_tim_ppsPresent (c : Int) : (s.passToCad c).tim.ppsPresent = s.tim.ppsPresent := by
  unfold State.passToCad; exact State.pass_tim_ppsPresent ..
theorem Tim.ppsStamp_mk {tod : Nat} {frac : Nat} {now : Nat} {err : Int} {slew : Nat} {cad : CadState} {realign : Bool} {day : Nat} {ran : Bool} {win : Window} {guard : Bool} {runSet : Nat} {sync : SyncState} {goodCount : Nat} {lastReport : Nat} {lastOffset : Int} {holdSince : Nat} {degraded : Bool} {ppsPresent : Bool} {ppsStamp : Nat} {ppsAt : Nat} {ref10m : Bool} {ppsOut : Bool} {ppsOutAt : Nat} {overPosted : List Window} :
    (Tim.mk tod frac now err slew cad realign day ran win guard runSet sync goodCount lastReport lastOffset holdSince degraded ppsPresent ppsStamp ppsAt ref10m ppsOut ppsOutAt overPosted).ppsStamp = ppsStamp := rfl
@[simp] theorem State.pass_tim_ppsStamp (n : Nat) : (s.pass n).tim.ppsStamp = s.tim.ppsStamp := by
  unfold State.pass; exact Tim.ppsStamp_mk
@[simp] theorem State.passToTod_tim_ppsStamp (n : Nat) : (s.passToTod n).tim.ppsStamp = s.tim.ppsStamp := by
  unfold State.passToTod; exact State.pass_tim_ppsStamp ..
@[simp] theorem State.passToNow_tim_ppsStamp (n : Nat) : (s.passToNow n).tim.ppsStamp = s.tim.ppsStamp := by
  unfold State.passToNow; exact State.pass_tim_ppsStamp ..
@[simp] theorem State.passToCad_tim_ppsStamp (c : Int) : (s.passToCad c).tim.ppsStamp = s.tim.ppsStamp := by
  unfold State.passToCad; exact State.pass_tim_ppsStamp ..
theorem Tim.ppsAt_mk {tod : Nat} {frac : Nat} {now : Nat} {err : Int} {slew : Nat} {cad : CadState} {realign : Bool} {day : Nat} {ran : Bool} {win : Window} {guard : Bool} {runSet : Nat} {sync : SyncState} {goodCount : Nat} {lastReport : Nat} {lastOffset : Int} {holdSince : Nat} {degraded : Bool} {ppsPresent : Bool} {ppsStamp : Nat} {ppsAt : Nat} {ref10m : Bool} {ppsOut : Bool} {ppsOutAt : Nat} {overPosted : List Window} :
    (Tim.mk tod frac now err slew cad realign day ran win guard runSet sync goodCount lastReport lastOffset holdSince degraded ppsPresent ppsStamp ppsAt ref10m ppsOut ppsOutAt overPosted).ppsAt = ppsAt := rfl
@[simp] theorem State.pass_tim_ppsAt (n : Nat) : (s.pass n).tim.ppsAt = s.tim.ppsAt := by
  unfold State.pass; exact Tim.ppsAt_mk
@[simp] theorem State.passToTod_tim_ppsAt (n : Nat) : (s.passToTod n).tim.ppsAt = s.tim.ppsAt := by
  unfold State.passToTod; exact State.pass_tim_ppsAt ..
@[simp] theorem State.passToNow_tim_ppsAt (n : Nat) : (s.passToNow n).tim.ppsAt = s.tim.ppsAt := by
  unfold State.passToNow; exact State.pass_tim_ppsAt ..
@[simp] theorem State.passToCad_tim_ppsAt (c : Int) : (s.passToCad c).tim.ppsAt = s.tim.ppsAt := by
  unfold State.passToCad; exact State.pass_tim_ppsAt ..
theorem Tim.ref10m_mk {tod : Nat} {frac : Nat} {now : Nat} {err : Int} {slew : Nat} {cad : CadState} {realign : Bool} {day : Nat} {ran : Bool} {win : Window} {guard : Bool} {runSet : Nat} {sync : SyncState} {goodCount : Nat} {lastReport : Nat} {lastOffset : Int} {holdSince : Nat} {degraded : Bool} {ppsPresent : Bool} {ppsStamp : Nat} {ppsAt : Nat} {ref10m : Bool} {ppsOut : Bool} {ppsOutAt : Nat} {overPosted : List Window} :
    (Tim.mk tod frac now err slew cad realign day ran win guard runSet sync goodCount lastReport lastOffset holdSince degraded ppsPresent ppsStamp ppsAt ref10m ppsOut ppsOutAt overPosted).ref10m = ref10m := rfl
@[simp] theorem State.pass_tim_ref10m (n : Nat) : (s.pass n).tim.ref10m = s.tim.ref10m := by
  unfold State.pass; exact Tim.ref10m_mk
@[simp] theorem State.passToTod_tim_ref10m (n : Nat) : (s.passToTod n).tim.ref10m = s.tim.ref10m := by
  unfold State.passToTod; exact State.pass_tim_ref10m ..
@[simp] theorem State.passToNow_tim_ref10m (n : Nat) : (s.passToNow n).tim.ref10m = s.tim.ref10m := by
  unfold State.passToNow; exact State.pass_tim_ref10m ..
@[simp] theorem State.passToCad_tim_ref10m (c : Int) : (s.passToCad c).tim.ref10m = s.tim.ref10m := by
  unfold State.passToCad; exact State.pass_tim_ref10m ..
theorem Tim.ppsOut_mk {tod : Nat} {frac : Nat} {now : Nat} {err : Int} {slew : Nat} {cad : CadState} {realign : Bool} {day : Nat} {ran : Bool} {win : Window} {guard : Bool} {runSet : Nat} {sync : SyncState} {goodCount : Nat} {lastReport : Nat} {lastOffset : Int} {holdSince : Nat} {degraded : Bool} {ppsPresent : Bool} {ppsStamp : Nat} {ppsAt : Nat} {ref10m : Bool} {ppsOut : Bool} {ppsOutAt : Nat} {overPosted : List Window} :
    (Tim.mk tod frac now err slew cad realign day ran win guard runSet sync goodCount lastReport lastOffset holdSince degraded ppsPresent ppsStamp ppsAt ref10m ppsOut ppsOutAt overPosted).ppsOut = ppsOut := rfl
@[simp] theorem State.pass_tim_ppsOut (n : Nat) : (s.pass n).tim.ppsOut = s.tim.ppsOut := by
  unfold State.pass; exact Tim.ppsOut_mk
@[simp] theorem State.passToTod_tim_ppsOut (n : Nat) : (s.passToTod n).tim.ppsOut = s.tim.ppsOut := by
  unfold State.passToTod; exact State.pass_tim_ppsOut ..
@[simp] theorem State.passToNow_tim_ppsOut (n : Nat) : (s.passToNow n).tim.ppsOut = s.tim.ppsOut := by
  unfold State.passToNow; exact State.pass_tim_ppsOut ..
@[simp] theorem State.passToCad_tim_ppsOut (c : Int) : (s.passToCad c).tim.ppsOut = s.tim.ppsOut := by
  unfold State.passToCad; exact State.pass_tim_ppsOut ..
theorem Tim.ppsOutAt_mk {tod : Nat} {frac : Nat} {now : Nat} {err : Int} {slew : Nat} {cad : CadState} {realign : Bool} {day : Nat} {ran : Bool} {win : Window} {guard : Bool} {runSet : Nat} {sync : SyncState} {goodCount : Nat} {lastReport : Nat} {lastOffset : Int} {holdSince : Nat} {degraded : Bool} {ppsPresent : Bool} {ppsStamp : Nat} {ppsAt : Nat} {ref10m : Bool} {ppsOut : Bool} {ppsOutAt : Nat} {overPosted : List Window} :
    (Tim.mk tod frac now err slew cad realign day ran win guard runSet sync goodCount lastReport lastOffset holdSince degraded ppsPresent ppsStamp ppsAt ref10m ppsOut ppsOutAt overPosted).ppsOutAt = ppsOutAt := rfl
@[simp] theorem State.pass_tim_ppsOutAt (n : Nat) : (s.pass n).tim.ppsOutAt = s.tim.ppsOutAt := by
  unfold State.pass; exact Tim.ppsOutAt_mk
@[simp] theorem State.passToTod_tim_ppsOutAt (n : Nat) : (s.passToTod n).tim.ppsOutAt = s.tim.ppsOutAt := by
  unfold State.passToTod; exact State.pass_tim_ppsOutAt ..
@[simp] theorem State.passToNow_tim_ppsOutAt (n : Nat) : (s.passToNow n).tim.ppsOutAt = s.tim.ppsOutAt := by
  unfold State.passToNow; exact State.pass_tim_ppsOutAt ..
@[simp] theorem State.passToCad_tim_ppsOutAt (c : Int) : (s.passToCad c).tim.ppsOutAt = s.tim.ppsOutAt := by
  unfold State.passToCad; exact State.pass_tim_ppsOutAt ..
theorem Tim.overPosted_mk {tod : Nat} {frac : Nat} {now : Nat} {err : Int} {slew : Nat} {cad : CadState} {realign : Bool} {day : Nat} {ran : Bool} {win : Window} {guard : Bool} {runSet : Nat} {sync : SyncState} {goodCount : Nat} {lastReport : Nat} {lastOffset : Int} {holdSince : Nat} {degraded : Bool} {ppsPresent : Bool} {ppsStamp : Nat} {ppsAt : Nat} {ref10m : Bool} {ppsOut : Bool} {ppsOutAt : Nat} {overPosted : List Window} :
    (Tim.mk tod frac now err slew cad realign day ran win guard runSet sync goodCount lastReport lastOffset holdSince degraded ppsPresent ppsStamp ppsAt ref10m ppsOut ppsOutAt overPosted).overPosted = overPosted := rfl
@[simp] theorem State.pass_tim_overPosted (n : Nat) : (s.pass n).tim.overPosted = s.tim.overPosted := by
  unfold State.pass; exact Tim.overPosted_mk
@[simp] theorem State.passToTod_tim_overPosted (n : Nat) : (s.passToTod n).tim.overPosted = s.tim.overPosted := by
  unfold State.passToTod; exact State.pass_tim_overPosted ..
@[simp] theorem State.passToNow_tim_overPosted (n : Nat) : (s.passToNow n).tim.overPosted = s.tim.overPosted := by
  unfold State.passToNow; exact State.pass_tim_overPosted ..
@[simp] theorem State.passToCad_tim_overPosted (c : Int) : (s.passToCad c).tim.overPosted = s.tim.overPosted := by
  unfold State.passToCad; exact State.pass_tim_overPosted ..
@[simp] theorem State.passToTod_pln (n : Nat) : (s.passToTod n).pln = s.pln := by
  unfold State.passToTod; exact State.pass_pln ..
@[simp] theorem State.passToTod_regs (n : Nat) : (s.passToTod n).regs = s.regs := by
  unfold State.passToTod; exact State.pass_regs ..
@[simp] theorem State.passToTod_shadow (n : Nat) : (s.passToTod n).shadow = s.shadow := by
  unfold State.passToTod; exact State.pass_shadow ..
@[simp] theorem State.passToTod_blk (n : Nat) : (s.passToTod n).blk = s.blk := by
  unfold State.passToTod; exact State.pass_blk ..
@[simp] theorem State.passToTod_mem (n : Nat) : (s.passToTod n).mem = s.mem := by
  unfold State.passToTod; exact State.pass_mem ..
@[simp] theorem State.passToTod_chan (n : Nat) : (s.passToTod n).chan = s.chan := by
  unfold State.passToTod; exact State.pass_chan ..
@[simp] theorem State.passToTod_cxh (n : Nat) : (s.passToTod n).cxh = s.cxh := by
  unfold State.passToTod; exact State.pass_cxh ..
@[simp] theorem State.passToTod_cmp (n : Nat) : (s.passToTod n).cmp = s.cmp := by
  unfold State.passToTod; exact State.pass_cmp ..
@[simp] theorem State.passToTod_mbx (n : Nat) : (s.passToTod n).mbx = s.mbx := by
  unfold State.passToTod; exact State.pass_mbx ..
@[simp] theorem State.passToTod_boot (n : Nat) : (s.passToTod n).boot = s.boot := by
  unfold State.passToTod; exact State.pass_boot ..
@[simp] theorem State.passToTod_sec (n : Nat) : (s.passToTod n).sec = s.sec := by
  unfold State.passToTod; exact State.pass_sec ..
@[simp] theorem State.passToTod_ras (n : Nat) : (s.passToTod n).ras = s.ras := by
  unfold State.passToTod; exact State.pass_ras ..
@[simp] theorem State.passToTod_dbg (n : Nat) : (s.passToTod n).dbg = s.dbg := by
  unfold State.passToTod; exact State.pass_dbg ..
@[simp] theorem State.passToTod_spr (n : Nat) : (s.passToTod n).spr = s.spr := by
  unfold State.passToTod; exact State.pass_spr ..
@[simp] theorem State.passToTod_psq (n : Nat) : (s.passToTod n).psq = s.psq := by
  unfold State.passToTod; exact State.pass_psq ..
@[simp] theorem State.passToTod_clk (n : Nat) : (s.passToTod n).clk = s.clk := by
  unfold State.passToTod; exact State.pass_clk ..
@[simp] theorem State.passToTod_out (n : Nat) : (s.passToTod n).out = s.out := by
  unfold State.passToTod; exact State.pass_out ..
@[simp] theorem State.passToTod_free (n : Nat) : (s.passToTod n).free = s.free := by
  unfold State.passToTod; exact State.pass_free ..
@[simp] theorem State.passToTod_pending (n : Nat) : (s.passToTod n).pending = s.pending := by
  unfold State.passToTod; exact State.pass_pending ..
@[simp] theorem State.passToNow_pln (n : Nat) : (s.passToNow n).pln = s.pln := by
  unfold State.passToNow; exact State.pass_pln ..
@[simp] theorem State.passToNow_regs (n : Nat) : (s.passToNow n).regs = s.regs := by
  unfold State.passToNow; exact State.pass_regs ..
@[simp] theorem State.passToNow_shadow (n : Nat) : (s.passToNow n).shadow = s.shadow := by
  unfold State.passToNow; exact State.pass_shadow ..
@[simp] theorem State.passToNow_blk (n : Nat) : (s.passToNow n).blk = s.blk := by
  unfold State.passToNow; exact State.pass_blk ..
@[simp] theorem State.passToNow_mem (n : Nat) : (s.passToNow n).mem = s.mem := by
  unfold State.passToNow; exact State.pass_mem ..
@[simp] theorem State.passToNow_chan (n : Nat) : (s.passToNow n).chan = s.chan := by
  unfold State.passToNow; exact State.pass_chan ..
@[simp] theorem State.passToNow_cxh (n : Nat) : (s.passToNow n).cxh = s.cxh := by
  unfold State.passToNow; exact State.pass_cxh ..
@[simp] theorem State.passToNow_cmp (n : Nat) : (s.passToNow n).cmp = s.cmp := by
  unfold State.passToNow; exact State.pass_cmp ..
@[simp] theorem State.passToNow_mbx (n : Nat) : (s.passToNow n).mbx = s.mbx := by
  unfold State.passToNow; exact State.pass_mbx ..
@[simp] theorem State.passToNow_boot (n : Nat) : (s.passToNow n).boot = s.boot := by
  unfold State.passToNow; exact State.pass_boot ..
@[simp] theorem State.passToNow_sec (n : Nat) : (s.passToNow n).sec = s.sec := by
  unfold State.passToNow; exact State.pass_sec ..
@[simp] theorem State.passToNow_ras (n : Nat) : (s.passToNow n).ras = s.ras := by
  unfold State.passToNow; exact State.pass_ras ..
@[simp] theorem State.passToNow_dbg (n : Nat) : (s.passToNow n).dbg = s.dbg := by
  unfold State.passToNow; exact State.pass_dbg ..
@[simp] theorem State.passToNow_spr (n : Nat) : (s.passToNow n).spr = s.spr := by
  unfold State.passToNow; exact State.pass_spr ..
@[simp] theorem State.passToNow_psq (n : Nat) : (s.passToNow n).psq = s.psq := by
  unfold State.passToNow; exact State.pass_psq ..
@[simp] theorem State.passToNow_clk (n : Nat) : (s.passToNow n).clk = s.clk := by
  unfold State.passToNow; exact State.pass_clk ..
@[simp] theorem State.passToNow_out (n : Nat) : (s.passToNow n).out = s.out := by
  unfold State.passToNow; exact State.pass_out ..
@[simp] theorem State.passToNow_free (n : Nat) : (s.passToNow n).free = s.free := by
  unfold State.passToNow; exact State.pass_free ..
@[simp] theorem State.passToNow_pending (n : Nat) : (s.passToNow n).pending = s.pending := by
  unfold State.passToNow; exact State.pass_pending ..
@[simp] theorem State.passToCad_pln (c : Int) : (s.passToCad c).pln = s.pln := by
  unfold State.passToCad; exact State.pass_pln ..
@[simp] theorem State.passToCad_regs (c : Int) : (s.passToCad c).regs = s.regs := by
  unfold State.passToCad; exact State.pass_regs ..
@[simp] theorem State.passToCad_shadow (c : Int) : (s.passToCad c).shadow = s.shadow := by
  unfold State.passToCad; exact State.pass_shadow ..
@[simp] theorem State.passToCad_blk (c : Int) : (s.passToCad c).blk = s.blk := by
  unfold State.passToCad; exact State.pass_blk ..
@[simp] theorem State.passToCad_mem (c : Int) : (s.passToCad c).mem = s.mem := by
  unfold State.passToCad; exact State.pass_mem ..
@[simp] theorem State.passToCad_chan (c : Int) : (s.passToCad c).chan = s.chan := by
  unfold State.passToCad; exact State.pass_chan ..
@[simp] theorem State.passToCad_cxh (c : Int) : (s.passToCad c).cxh = s.cxh := by
  unfold State.passToCad; exact State.pass_cxh ..
@[simp] theorem State.passToCad_cmp (c : Int) : (s.passToCad c).cmp = s.cmp := by
  unfold State.passToCad; exact State.pass_cmp ..
@[simp] theorem State.passToCad_mbx (c : Int) : (s.passToCad c).mbx = s.mbx := by
  unfold State.passToCad; exact State.pass_mbx ..
@[simp] theorem State.passToCad_boot (c : Int) : (s.passToCad c).boot = s.boot := by
  unfold State.passToCad; exact State.pass_boot ..
@[simp] theorem State.passToCad_sec (c : Int) : (s.passToCad c).sec = s.sec := by
  unfold State.passToCad; exact State.pass_sec ..
@[simp] theorem State.passToCad_ras (c : Int) : (s.passToCad c).ras = s.ras := by
  unfold State.passToCad; exact State.pass_ras ..
@[simp] theorem State.passToCad_dbg (c : Int) : (s.passToCad c).dbg = s.dbg := by
  unfold State.passToCad; exact State.pass_dbg ..
@[simp] theorem State.passToCad_spr (c : Int) : (s.passToCad c).spr = s.spr := by
  unfold State.passToCad; exact State.pass_spr ..
@[simp] theorem State.passToCad_psq (c : Int) : (s.passToCad c).psq = s.psq := by
  unfold State.passToCad; exact State.pass_psq ..
@[simp] theorem State.passToCad_clk (c : Int) : (s.passToCad c).clk = s.clk := by
  unfold State.passToCad; exact State.pass_clk ..
@[simp] theorem State.passToCad_out (c : Int) : (s.passToCad c).out = s.out := by
  unfold State.passToCad; exact State.pass_out ..
@[simp] theorem State.passToCad_free (c : Int) : (s.passToCad c).free = s.free := by
  unfold State.passToCad; exact State.pass_free ..
@[simp] theorem State.passToCad_pending (c : Int) : (s.passToCad c).pending = s.pending := by
  unfold State.passToCad; exact State.pass_pending ..

end Sys2Proof.Machine
end

