-- ==== Sys2Proof/Laws/Events.lean ====
section
/-! SUPPORT. What sending an event can change: registers, memory with the lines that hosts hold, and the log of what was sent. Every
other field of State is as before; one lemma per operation, and one per field for each. -/
namespace Sys2Proof.Machine

/-- The fields that no event, interrupt or error record touches. -/
structure SameRest (s t : State) : Prop where
  tim : t.tim = s.tim
  pln : t.pln = s.pln
  shadow : t.shadow = s.shadow
  blk : t.blk = s.blk
  chan : t.chan = s.chan
  cxh : t.cxh = s.cxh
  mbx : t.mbx = s.mbx
  boot : t.boot = s.boot
  sec : t.sec = s.sec
  ras : t.ras = s.ras
  dbg : t.dbg = s.dbg
  spr : t.spr = s.spr
  psq : t.psq = s.psq
  clk : t.clk = s.clk
  free : t.free = s.free
  pending : t.pending = s.pending

theorem SameRest.refl (s : State) : SameRest s s :=
  ⟨rfl, rfl, rfl, rfl, rfl, rfl, rfl, rfl, rfl, rfl, rfl, rfl, rfl, rfl, rfl, rfl⟩

theorem SameRest.trans {a b c : State} (h : SameRest a b) (k : SameRest b c) : SameRest a c :=
  ⟨k.tim.trans h.tim, k.pln.trans h.pln, k.shadow.trans h.shadow, k.blk.trans h.blk, k.chan.trans h.chan, k.cxh.trans h.cxh, k.mbx.trans h.mbx, k.boot.trans h.boot, k.sec.trans h.sec, k.ras.trans h.ras, k.dbg.trans h.dbg, k.spr.trans h.spr, k.psq.trans h.psq, k.clk.trans h.clk, k.free.trans h.free, k.pending.trans h.pending⟩

variable (s : State)

theorem State.wrAt_rest (p : Page) (off : Nat) (v : Word) (sel : Nat) : SameRest s (s.wrAt p off v sel) :=
  ⟨State.wrAt_tim _ _ _ _ _, State.wrAt_pln _ _ _ _ _, State.wrAt_shadow _ _ _ _ _, State.wrAt_blk _ _ _ _ _, State.wrAt_chan _ _ _ _ _, State.wrAt_cxh _ _ _ _ _, State.wrAt_mbx _ _ _ _ _, State.wrAt_boot _ _ _ _ _, State.wrAt_sec _ _ _ _ _, State.wrAt_ras _ _ _ _ _, State.wrAt_dbg _ _ _ _ _, State.wrAt_spr _ _ _ _ _, State.wrAt_psq _ _ _ _ _, State.wrAt_clk _ _ _ _ _, State.wrAt_free _ _ _ _ _, State.wrAt_pending _ _ _ _ _⟩

theorem State.wr_rest (i : Nat) (r : RegId) (v : Word) (sel : Nat) : SameRest s (s.wr i r v sel) :=
  ⟨State.wr_tim _ _ _ _ _, State.wr_pln _ _ _ _ _, State.wr_shadow _ _ _ _ _, State.wr_blk _ _ _ _ _, State.wr_chan _ _ _ _ _, State.wr_cxh _ _ _ _ _, State.wr_mbx _ _ _ _ _, State.wr_boot _ _ _ _ _, State.wr_sec _ _ _ _ _, State.wr_ras _ _ _ _ _, State.wr_dbg _ _ _ _ _, State.wr_spr _ _ _ _ _, State.wr_psq _ _ _ _ _, State.wr_clk _ _ _ _ _, State.wr_free _ _ _ _ _, State.wr_pending _ _ _ _ _⟩

theorem State.bump_rest (i : Nat) (r : RegId) (n sel : Nat) : SameRest s (s.bump i r n sel) :=
  ⟨State.bump_tim _ _ _ _ _, State.bump_pln _ _ _ _ _, State.bump_shadow _ _ _ _ _, State.bump_blk _ _ _ _ _, State.bump_chan _ _ _ _ _, State.bump_cxh _ _ _ _ _, State.bump_mbx _ _ _ _ _, State.bump_boot _ _ _ _ _, State.bump_sec _ _ _ _ _, State.bump_ras _ _ _ _ _, State.bump_dbg _ _ _ _ _, State.bump_spr _ _ _ _ _, State.bump_psq _ _ _ _ _, State.bump_clk _ _ _ _ _, State.bump_free _ _ _ _ _, State.bump_pending _ _ _ _ _⟩

theorem State.emit_rest (m : OutMsg) : SameRest s (s.emit m) :=
  ⟨State.emit_tim _ _, State.emit_pln _ _, State.emit_shadow _ _, State.emit_blk _ _, State.emit_chan _ _, State.emit_cxh _ _, State.emit_mbx _ _, State.emit_boot _ _, State.emit_sec _ _, State.emit_ras _ _, State.emit_dbg _ _, State.emit_spr _ _, State.emit_psq _ _, State.emit_clk _ _, State.emit_free _ _, State.emit_pending _ _⟩

theorem State.mwrite_rest (a : Nat) (bs : List Byte) : SameRest s (s.mwrite a bs) :=
  ⟨State.mwrite_tim _ _ _, State.mwrite_pln _ _ _, State.mwrite_shadow _ _ _, State.mwrite_blk _ _ _, State.mwrite_chan _ _ _, State.mwrite_cxh _ _ _, State.mwrite_mbx _ _ _, State.mwrite_boot _ _ _, State.mwrite_sec _ _ _, State.mwrite_ras _ _ _, State.mwrite_dbg _ _ _, State.mwrite_spr _ _ _, State.mwrite_psq _ _ _, State.mwrite_clk _ _ _, State.mwrite_free _ _ _, State.mwrite_pending _ _ _⟩

theorem State.setCmp_rest (f : Cmp → Cmp) : SameRest s (s.setCmp f) :=
  ⟨State.setCmp_tim _ _, State.setCmp_pln _ _, State.setCmp_shadow _ _, State.setCmp_blk _ _, State.setCmp_chan _ _, State.setCmp_cxh _ _, State.setCmp_mbx _ _, State.setCmp_boot _ _, State.setCmp_sec _ _, State.setCmp_ras _ _, State.setCmp_dbg _ _, State.setCmp_spr _ _, State.setCmp_psq _ _, State.setCmp_clk _ _, State.setCmp_free _ _, State.setCmp_pending _ _⟩

theorem State.when_rest (c : Bool) (f : State → State) (h : ∀ t, SameRest t (f t)) : SameRest s (s.when c f) := by
  cases c
  · exact SameRest.refl s
  · exact h s

theorem State.each_rest {α : Type} (l : List α) (f : State → α → State) (h : ∀ t a, SameRest t (f t a)) :
    SameRest s (s.each l f) := by
  induction l generalizing s with
  | nil => exact SameRest.refl s
  | cons a l ih => exact (h s a).trans (ih (f s a))

theorem State.bisnp_rest (ld line : Nat) (inv : Bool) : SameRest s (s.bisnp ld line inv) := by
  unfold State.bisnp
  split
  · exact SameRest.refl s
  · exact ((State.setCmp_rest _ _).trans (State.bump_rest _ _ _ _ _)).trans (State.emit_rest _ _)

theorem State.bump64_rest (i : Nat) (r : RegId) (n : Nat) (sel : Nat) : SameRest s (s.bump64 i r n sel) :=
  ⟨State.bump64_tim _ _ _ _ _, State.bump64_pln _ _ _ _ _, State.bump64_shadow _ _ _ _ _, State.bump64_blk _ _ _ _ _, State.bump64_chan _ _ _ _ _, State.bump64_cxh _ _ _ _ _, State.bump64_mbx _ _ _ _ _, State.bump64_boot _ _ _ _ _, State.bump64_sec _ _ _ _ _, State.bump64_ras _ _ _ _ _, State.bump64_dbg _ _ _ _ _, State.bump64_spr _ _ _ _ _, State.bump64_psq _ _ _ _ _, State.bump64_clk _ _ _ _ _, State.bump64_free _ _ _ _ _, State.bump64_pending _ _ _ _ _⟩

theorem State.putSectors_rest (a : Nat) (bs : List Byte) : SameRest s (s.putSectors a bs) := by
  unfold State.putSectors
  exact ⟨rfl, rfl, rfl, rfl, rfl, rfl, rfl, rfl, rfl, rfl, rfl, rfl, rfl, rfl, rfl, rfl⟩

theorem State.setZHdr_rest (z : ZRegion) (a : Nat) (h : ZHdr) : SameRest s (s.setZHdr z a h) := by
  unfold State.setZHdr
  extract_lets side
  split
  · exact State.mwrite_rest _ _ _
  · split
    · exact ⟨rfl, rfl, rfl, rfl, rfl, rfl, rfl, rfl, rfl, rfl, rfl, rfl, rfl, rfl, rfl, rfl⟩
    · exact State.putSectors_rest _ _ _

theorem State.zReady_rest (z : ZRegion) : SameRest s (s.zReady z).1 := by
  unfold State.zReady
  split
  · exact State.wr_rest _ _ _ _ _
  · exact SameRest.refl s

theorem State.zCheck_rest (z : ZRegion) (a : Nat) : SameRest s (s.zCheck z a).1 := by
  unfold State.zCheck
  have h := State.zReady_rest s z
  generalize s.zReady z = x at h ⊢
  obtain ⟨s0, l⟩ := x
  show SameRest s (_ : State × List ZNote).1
  simp -zeta only
  extract_lets hd sectors s1
  have h1 : SameRest s s1 := h.trans ((State.bump64_rest _ _ _ _ _).trans (State.when_rest _ _ _ fun t => State.bump_rest _ _ _ _ _))
  split
  · exact h1.trans (State.bump64_rest _ _ _ _ _)
  · exact h1.trans (State.bump_rest _ _ _ _ _)
  · exact h1.trans ((State.setZHdr_rest _ _ _ _).trans (State.bump_rest _ _ _ _ _))

theorem State.zWriteBlock_rest (z : ZRegion) (b : Nat) (raw : List Byte) (noLane : Bool) :
    SameRest s (s.zWriteBlock z b raw noLane) := by
  unfold State.zWriteBlock
  extract_lets cfg tok
  generalize (if noLane = true then _ else _ : ZHdr × List Byte) = y
  obtain ⟨h, bs⟩ := y
  have h1 : SameRest s (((s.putSectors b bs).setZHdr z b h).when noLane fun s => s.bump z.c Reg.ZRB_BUSY_RAW_CNT) :=
    ((State.putSectors_rest _ _ _).trans (State.setZHdr_rest _ _ _ _)).trans (State.when_rest _ _ _ fun t => State.bump_rest _ _ _ _ _)
  show SameRest s (match h.tag with
    | 0 => _
    | 1 => _
    | _ => _)
  split <;> exact h1.trans (State.bump_rest _ _ _ _ _)

theorem State.zWrite_rest (z : ZRegion) (a : Nat) (bs : List Byte) (noLane : Bool) : SameRest s (s.zWrite z a bs noLane).1 := by
  unfold State.zWrite
  split
  · exact (State.zReady_rest s z).trans (State.zWriteBlock_rest _ _ _ _ _)
  · have h := State.zCheck_rest s z a
    generalize s.zCheck z a = x at h ⊢
    obtain ⟨s1, l⟩ := x
    dsimp only at h ⊢
    split
    · exact h.trans (State.bump_rest _ _ _ _ _)
    · exact h.trans ((State.zWriteBlock_rest _ _ _ _ _).trans (State.bump_rest _ _ _ _ _))

theorem State.cwritePieces_rest (ps : List (Nat × Nat)) (bs : List Byte) : SameRest s (s.cwritePieces ps bs).1 := by
  induction ps generalizing s bs with
  | nil => exact SameRest.refl s
  | cons p l ih =>
    unfold State.cwritePieces
    extract_lets r
    have h : SameRest s r.1 := by
      show SameRest s (match s.zrbRegion p.1 with
        | some z => s.zWrite z p.1 (bs.take p.2)
        | none => (s.mwrite p.1 (bs.take p.2), [])).1
      split
      · exact State.zWrite_rest _ _ _ _ _
      · exact State.mwrite_rest _ _ _
    exact h.trans (ih _ _)

theorem State.cwrite_rest (a : Nat) (bs : List Byte) : SameRest s (s.cwrite a bs).1 := by
  unfold State.cwrite
  split
  · exact State.bump_rest _ _ _ _ _
  · split
    · exact State.cwritePieces_rest _ _ _
    · exact State.mwrite_rest _ _ _

theorem State.t2Send_rest (job a n : Nat) (write : Bool) : SameRest s (s.t2Send job a n write) := by
  unfold State.t2Send
  split
  · exact SameRest.refl s
  · split
    · exact SameRest.refl s
    · extract_lets; exact State.emit_rest _ _

theorem State.holdWrite_rest (x : HostAccess) : SameRest s (s.holdWrite x) := by
  unfold State.holdWrite
  exact (State.setCmp_rest _ _).trans (State.each_rest _ _ _ fun t y => State.bisnp_rest t _ _ _)

theorem State.dcode_rest (a : Nat) (bs : List Byte) (job : Nat) : SameRest s (s.dcode a bs job).1 := by
  unfold State.dcode
  split
  · exact State.holdWrite_rest _ _
  · exact (State.t2Send_rest _ _ _ _ _).trans (State.cwrite_rest _ _ _)

theorem State.logErr_rest (p : Page) (source job cls addr detail : Nat) :
    SameRest s (s.logErr p source job cls addr detail) := by
  unfold State.logErr
  extract_lets cnt t
  have h : SameRest s t := State.wrAt_rest _ _ _ _ _
  split
  · exact h
  · exact h.trans (((((State.wrAt_rest _ _ _ _ _).trans (State.wrAt_rest _ _ _ _ _)).trans (State.wrAt_rest _ _ _ _ _)).trans
      (State.wrAt_rest _ _ _ _ _)).trans (State.wrAt_rest _ _ _ _ _) |>.trans (State.wrAt_rest _ _ _ _ _))

theorem State.logIgnored_rest (p : Page) (off : Nat) (v : Word) : SameRest s (s.logIgnored p off v) := by
  unfold State.logIgnored
  exact State.logErr_rest _ _ _ _ _ _ _

theorem State.logDoorbell_rest (p : Page) (off v : Nat) : SameRest s (s.logDoorbell p off v) := by
  unfold State.logDoorbell
  exact State.logErr_rest _ _ _ _ _ _ _

theorem State.pevqPush_rest (c : Nat) (r : List Byte) : SameRest s (s.pevqPush c r).1 := by
  unfold State.pevqPush
  extract_lets size tail
  split
  · exact State.bump_rest _ _ _ _ _
  · exact (State.dcode_rest _ _ _ _).trans (State.wr_rest _ _ _ _ _)

theorem State.sendIrq_rest (ld vec : Nat) : SameRest s (s.sendIrq ld vec) := by
  unfold State.sendIrq
  exact State.when_rest s _ _ fun t => State.emit_rest _ _

theorem State.pageIrq_rest (p : Page) : SameRest s (s.pageIrq p) := by
  unfold State.pageIrq
  exact State.when_rest s _ _ fun t => State.sendIrq_rest _ _ _

theorem State.alertEdge_rest (old : State) : SameRest s (State.alertEdge old s) := by
  unfold State.alertEdge
  split
  · exact SameRest.refl s
  · exact State.emit_rest _ _

theorem State.evtVia_rest (push : State → Nat → List Byte → State) (h : ∀ t c r, SameRest t (push t c r)) (p : Page) (n : Nat) :
    SameRest s (State.evtVia push s p n) := by
  unfold State.evtVia
  split
  · exact SameRest.refl s
  · extract_lets t
    have k : SameRest s t :=
      (State.wrAt_rest _ _ _ _ _).trans (State.when_rest _ _ _ fun u => State.alertEdge_rest _ _)
    split
    · exact k.trans ((State.pageIrq_rest _ _).trans (State.when_rest _ _ _ fun u => h _ _ _))
    · exact k

theorem State.postPriv_rest (c : Nat) (r : List Byte) : SameRest s (s.postPriv c r) := by
  unfold State.postPriv
  have h := State.pevqPush_rest s c r
  split
  · next e => rw [e] at h; exact h
  · next e => rw [e] at h; exact h.trans (State.evtVia_rest _ _ (fun t c r => State.pevqPush_rest t c r) _ _)

theorem State.evt_rest (p : Page) (n : Nat) : SameRest s (s.evt p n) := by
  unfold State.evt
  exact State.evtVia_rest _ _ (fun t c r => State.postPriv_rest t c r) _ _

theorem State.evtPriv_rest (p : Page) (bit code cause detail : Nat) : SameRest s (s.evtPriv p bit code cause detail) := by
  unfold State.evtPriv
  exact (State.evt_rest _ _ _).trans (State.postPriv_rest _ _ _)

/-! ### By field -/

@[simp] theorem State.logErr_tim (p : Page) (source job cls addr detail : Nat) : (s.logErr p source job cls addr detail).tim = s.tim := (State.logErr_rest s p source job cls addr detail).tim
@[simp] theorem State.logErr_pln (p : Page) (source job cls addr detail : Nat) : (s.logErr p source job cls addr detail).pln = s.pln := (State.logErr_rest s p source job cls addr detail).pln
@[simp] theorem State.logErr_shadow (p : Page) (source job cls addr detail : Nat) : (s.logErr p source job cls addr detail).shadow = s.shadow := (State.logErr_rest s p source job cls addr detail).shadow
@[simp] theorem State.logErr_blk (p : Page) (source job cls addr detail : Nat) : (s.logErr p source job cls addr detail).blk = s.blk := (State.logErr_rest s p source job cls addr detail).blk
@[simp] theorem State.logErr_chan (p : Page) (source job cls addr detail : Nat) : (s.logErr p source job cls addr detail).chan = s.chan := (State.logErr_rest s p source job cls addr detail).chan
@[simp] theorem State.logErr_cxh (p : Page) (source job cls addr detail : Nat) : (s.logErr p source job cls addr detail).cxh = s.cxh := (State.logErr_rest s p source job cls addr detail).cxh
@[simp] theorem State.logErr_mbx (p : Page) (source job cls addr detail : Nat) : (s.logErr p source job cls addr detail).mbx = s.mbx := (State.logErr_rest s p source job cls addr detail).mbx
@[simp] theorem State.logErr_boot (p : Page) (source job cls addr detail : Nat) : (s.logErr p source job cls addr detail).boot = s.boot := (State.logErr_rest s p source job cls addr detail).boot
@[simp] theorem State.logErr_sec (p : Page) (source job cls addr detail : Nat) : (s.logErr p source job cls addr detail).sec = s.sec := (State.logErr_rest s p source job cls addr detail).sec
@[simp] theorem State.logErr_ras (p : Page) (source job cls addr detail : Nat) : (s.logErr p source job cls addr detail).ras = s.ras := (State.logErr_rest s p source job cls addr detail).ras
@[simp] theorem State.logErr_dbg (p : Page) (source job cls addr detail : Nat) : (s.logErr p source job cls addr detail).dbg = s.dbg := (State.logErr_rest s p source job cls addr detail).dbg
@[simp] theorem State.logErr_spr (p : Page) (source job cls addr detail : Nat) : (s.logErr p source job cls addr detail).spr = s.spr := (State.logErr_rest s p source job cls addr detail).spr
@[simp] theorem State.logErr_psq (p : Page) (source job cls addr detail : Nat) : (s.logErr p source job cls addr detail).psq = s.psq := (State.logErr_rest s p source job cls addr detail).psq
@[simp] theorem State.logErr_clk (p : Page) (source job cls addr detail : Nat) : (s.logErr p source job cls addr detail).clk = s.clk := (State.logErr_rest s p source job cls addr detail).clk
@[simp] theorem State.logErr_free (p : Page) (source job cls addr detail : Nat) : (s.logErr p source job cls addr detail).free = s.free := (State.logErr_rest s p source job cls addr detail).free
@[simp] theorem State.logErr_pending (p : Page) (source job cls addr detail : Nat) : (s.logErr p source job cls addr detail).pending = s.pending := (State.logErr_rest s p source job cls addr detail).pending
@[simp] theorem State.logIgnored_tim (p : Page) (off : Nat) (v : Word) : (s.logIgnored p off v).tim = s.tim := (State.logIgnored_rest s p off v).tim
@[simp] theorem State.logIgnored_pln (p : Page) (off : Nat) (v : Word) : (s.logIgnored p off v).pln = s.pln := (State.logIgnored_rest s p off v).pln
@[simp] theorem State.logIgnored_shadow (p : Page) (off : Nat) (v : Word) : (s.logIgnored p off v).shadow = s.shadow := (State.logIgnored_rest s p off v).shadow
@[simp] theorem State.logIgnored_blk (p : Page) (off : Nat) (v : Word) : (s.logIgnored p off v).blk = s.blk := (State.logIgnored_rest s p off v).blk
@[simp] theorem State.logIgnored_chan (p : Page) (off : Nat) (v : Word) : (s.logIgnored p off v).chan = s.chan := (State.logIgnored_rest s p off v).chan
@[simp] theorem State.logIgnored_cxh (p : Page) (off : Nat) (v : Word) : (s.logIgnored p off v).cxh = s.cxh := (State.logIgnored_rest s p off v).cxh
@[simp] theorem State.logIgnored_mbx (p : Page) (off : Nat) (v : Word) : (s.logIgnored p off v).mbx = s.mbx := (State.logIgnored_rest s p off v).mbx
@[simp] theorem State.logIgnored_boot (p : Page) (off : Nat) (v : Word) : (s.logIgnored p off v).boot = s.boot := (State.logIgnored_rest s p off v).boot
@[simp] theorem State.logIgnored_sec (p : Page) (off : Nat) (v : Word) : (s.logIgnored p off v).sec = s.sec := (State.logIgnored_rest s p off v).sec
@[simp] theorem State.logIgnored_ras (p : Page) (off : Nat) (v : Word) : (s.logIgnored p off v).ras = s.ras := (State.logIgnored_rest s p off v).ras
@[simp] theorem State.logIgnored_dbg (p : Page) (off : Nat) (v : Word) : (s.logIgnored p off v).dbg = s.dbg := (State.logIgnored_rest s p off v).dbg
@[simp] theorem State.logIgnored_spr (p : Page) (off : Nat) (v : Word) : (s.logIgnored p off v).spr = s.spr := (State.logIgnored_rest s p off v).spr
@[simp] theorem State.logIgnored_psq (p : Page) (off : Nat) (v : Word) : (s.logIgnored p off v).psq = s.psq := (State.logIgnored_rest s p off v).psq
@[simp] theorem State.logIgnored_clk (p : Page) (off : Nat) (v : Word) : (s.logIgnored p off v).clk = s.clk := (State.logIgnored_rest s p off v).clk
@[simp] theorem State.logIgnored_free (p : Page) (off : Nat) (v : Word) : (s.logIgnored p off v).free = s.free := (State.logIgnored_rest s p off v).free
@[simp] theorem State.logIgnored_pending (p : Page) (off : Nat) (v : Word) : (s.logIgnored p off v).pending = s.pending := (State.logIgnored_rest s p off v).pending
@[simp] theorem State.logDoorbell_tim (p : Page) (off v : Nat) : (s.logDoorbell p off v).tim = s.tim := (State.logDoorbell_rest s p off v).tim
@[simp] theorem State.logDoorbell_pln (p : Page) (off v : Nat) : (s.logDoorbell p off v).pln = s.pln := (State.logDoorbell_rest s p off v).pln
@[simp] theorem State.logDoorbell_shadow (p : Page) (off v : Nat) : (s.logDoorbell p off v).shadow = s.shadow := (State.logDoorbell_rest s p off v).shadow
@[simp] theorem State.logDoorbell_blk (p : Page) (off v : Nat) : (s.logDoorbell p off v).blk = s.blk := (State.logDoorbell_rest s p off v).blk
@[simp] theorem State.logDoorbell_chan (p : Page) (off v : Nat) : (s.logDoorbell p off v).chan = s.chan := (State.logDoorbell_rest s p off v).chan
@[simp] theorem State.logDoorbell_cxh (p : Page) (off v : Nat) : (s.logDoorbell p off v).cxh = s.cxh := (State.logDoorbell_rest s p off v).cxh
@[simp] theorem State.logDoorbell_mbx (p : Page) (off v : Nat) : (s.logDoorbell p off v).mbx = s.mbx := (State.logDoorbell_rest s p off v).mbx
@[simp] theorem State.logDoorbell_boot (p : Page) (off v : Nat) : (s.logDoorbell p off v).boot = s.boot := (State.logDoorbell_rest s p off v).boot
@[simp] theorem State.logDoorbell_sec (p : Page) (off v : Nat) : (s.logDoorbell p off v).sec = s.sec := (State.logDoorbell_rest s p off v).sec
@[simp] theorem State.logDoorbell_ras (p : Page) (off v : Nat) : (s.logDoorbell p off v).ras = s.ras := (State.logDoorbell_rest s p off v).ras
@[simp] theorem State.logDoorbell_dbg (p : Page) (off v : Nat) : (s.logDoorbell p off v).dbg = s.dbg := (State.logDoorbell_rest s p off v).dbg
@[simp] theorem State.logDoorbell_spr (p : Page) (off v : Nat) : (s.logDoorbell p off v).spr = s.spr := (State.logDoorbell_rest s p off v).spr
@[simp] theorem State.logDoorbell_psq (p : Page) (off v : Nat) : (s.logDoorbell p off v).psq = s.psq := (State.logDoorbell_rest s p off v).psq
@[simp] theorem State.logDoorbell_clk (p : Page) (off v : Nat) : (s.logDoorbell p off v).clk = s.clk := (State.logDoorbell_rest s p off v).clk
@[simp] theorem State.logDoorbell_free (p : Page) (off v : Nat) : (s.logDoorbell p off v).free = s.free := (State.logDoorbell_rest s p off v).free
@[simp] theorem State.logDoorbell_pending (p : Page) (off v : Nat) : (s.logDoorbell p off v).pending = s.pending := (State.logDoorbell_rest s p off v).pending
@[simp] theorem State.sendIrq_tim (ld vec : Nat) : (s.sendIrq ld vec).tim = s.tim := (State.sendIrq_rest s ld vec).tim
@[simp] theorem State.sendIrq_pln (ld vec : Nat) : (s.sendIrq ld vec).pln = s.pln := (State.sendIrq_rest s ld vec).pln
@[simp] theorem State.sendIrq_shadow (ld vec : Nat) : (s.sendIrq ld vec).shadow = s.shadow := (State.sendIrq_rest s ld vec).shadow
@[simp] theorem State.sendIrq_blk (ld vec : Nat) : (s.sendIrq ld vec).blk = s.blk := (State.sendIrq_rest s ld vec).blk
@[simp] theorem State.sendIrq_chan (ld vec : Nat) : (s.sendIrq ld vec).chan = s.chan := (State.sendIrq_rest s ld vec).chan
@[simp] theorem State.sendIrq_cxh (ld vec : Nat) : (s.sendIrq ld vec).cxh = s.cxh := (State.sendIrq_rest s ld vec).cxh
@[simp] theorem State.sendIrq_mbx (ld vec : Nat) : (s.sendIrq ld vec).mbx = s.mbx := (State.sendIrq_rest s ld vec).mbx
@[simp] theorem State.sendIrq_boot (ld vec : Nat) : (s.sendIrq ld vec).boot = s.boot := (State.sendIrq_rest s ld vec).boot
@[simp] theorem State.sendIrq_sec (ld vec : Nat) : (s.sendIrq ld vec).sec = s.sec := (State.sendIrq_rest s ld vec).sec
@[simp] theorem State.sendIrq_ras (ld vec : Nat) : (s.sendIrq ld vec).ras = s.ras := (State.sendIrq_rest s ld vec).ras
@[simp] theorem State.sendIrq_dbg (ld vec : Nat) : (s.sendIrq ld vec).dbg = s.dbg := (State.sendIrq_rest s ld vec).dbg
@[simp] theorem State.sendIrq_spr (ld vec : Nat) : (s.sendIrq ld vec).spr = s.spr := (State.sendIrq_rest s ld vec).spr
@[simp] theorem State.sendIrq_psq (ld vec : Nat) : (s.sendIrq ld vec).psq = s.psq := (State.sendIrq_rest s ld vec).psq
@[simp] theorem State.sendIrq_clk (ld vec : Nat) : (s.sendIrq ld vec).clk = s.clk := (State.sendIrq_rest s ld vec).clk
@[simp] theorem State.sendIrq_free (ld vec : Nat) : (s.sendIrq ld vec).free = s.free := (State.sendIrq_rest s ld vec).free
@[simp] theorem State.sendIrq_pending (ld vec : Nat) : (s.sendIrq ld vec).pending = s.pending := (State.sendIrq_rest s ld vec).pending
@[simp] theorem State.pageIrq_tim (p : Page) : (s.pageIrq p).tim = s.tim := (State.pageIrq_rest s p).tim
@[simp] theorem State.pageIrq_pln (p : Page) : (s.pageIrq p).pln = s.pln := (State.pageIrq_rest s p).pln
@[simp] theorem State.pageIrq_shadow (p : Page) : (s.pageIrq p).shadow = s.shadow := (State.pageIrq_rest s p).shadow
@[simp] theorem State.pageIrq_blk (p : Page) : (s.pageIrq p).blk = s.blk := (State.pageIrq_rest s p).blk
@[simp] theorem State.pageIrq_chan (p : Page) : (s.pageIrq p).chan = s.chan := (State.pageIrq_rest s p).chan
@[simp] theorem State.pageIrq_cxh (p : Page) : (s.pageIrq p).cxh = s.cxh := (State.pageIrq_rest s p).cxh
@[simp] theorem State.pageIrq_mbx (p : Page) : (s.pageIrq p).mbx = s.mbx := (State.pageIrq_rest s p).mbx
@[simp] theorem State.pageIrq_boot (p : Page) : (s.pageIrq p).boot = s.boot := (State.pageIrq_rest s p).boot
@[simp] theorem State.pageIrq_sec (p : Page) : (s.pageIrq p).sec = s.sec := (State.pageIrq_rest s p).sec
@[simp] theorem State.pageIrq_ras (p : Page) : (s.pageIrq p).ras = s.ras := (State.pageIrq_rest s p).ras
@[simp] theorem State.pageIrq_dbg (p : Page) : (s.pageIrq p).dbg = s.dbg := (State.pageIrq_rest s p).dbg
@[simp] theorem State.pageIrq_spr (p : Page) : (s.pageIrq p).spr = s.spr := (State.pageIrq_rest s p).spr
@[simp] theorem State.pageIrq_psq (p : Page) : (s.pageIrq p).psq = s.psq := (State.pageIrq_rest s p).psq
@[simp] theorem State.pageIrq_clk (p : Page) : (s.pageIrq p).clk = s.clk := (State.pageIrq_rest s p).clk
@[simp] theorem State.pageIrq_free (p : Page) : (s.pageIrq p).free = s.free := (State.pageIrq_rest s p).free
@[simp] theorem State.pageIrq_pending (p : Page) : (s.pageIrq p).pending = s.pending := (State.pageIrq_rest s p).pending
@[simp] theorem State.postPriv_tim (c : Nat) (r : List Byte) : (s.postPriv c r).tim = s.tim := (State.postPriv_rest s c r).tim
@[simp] theorem State.postPriv_pln (c : Nat) (r : List Byte) : (s.postPriv c r).pln = s.pln := (State.postPriv_rest s c r).pln
@[simp] theorem State.postPriv_shadow (c : Nat) (r : List Byte) : (s.postPriv c r).shadow = s.shadow := (State.postPriv_rest s c r).shadow
@[simp] theorem State.postPriv_blk (c : Nat) (r : List Byte) : (s.postPriv c r).blk = s.blk := (State.postPriv_rest s c r).blk
@[simp] theorem State.postPriv_chan (c : Nat) (r : List Byte) : (s.postPriv c r).chan = s.chan := (State.postPriv_rest s c r).chan
@[simp] theorem State.postPriv_cxh (c : Nat) (r : List Byte) : (s.postPriv c r).cxh = s.cxh := (State.postPriv_rest s c r).cxh
@[simp] theorem State.postPriv_mbx (c : Nat) (r : List Byte) : (s.postPriv c r).mbx = s.mbx := (State.postPriv_rest s c r).mbx
@[simp] theorem State.postPriv_boot (c : Nat) (r : List Byte) : (s.postPriv c r).boot = s.boot := (State.postPriv_rest s c r).boot
@[simp] theorem State.postPriv_sec (c : Nat) (r : List Byte) : (s.postPriv c r).sec = s.sec := (State.postPriv_rest s c r).sec
@[simp] theorem State.postPriv_ras (c : Nat) (r : List Byte) : (s.postPriv c r).ras = s.ras := (State.postPriv_rest s c r).ras
@[simp] theorem State.postPriv_dbg (c : Nat) (r : List Byte) : (s.postPriv c r).dbg = s.dbg := (State.postPriv_rest s c r).dbg
@[simp] theorem State.postPriv_spr (c : Nat) (r : List Byte) : (s.postPriv c r).spr = s.spr := (State.postPriv_rest s c r).spr
@[simp] theorem State.postPriv_psq (c : Nat) (r : List Byte) : (s.postPriv c r).psq = s.psq := (State.postPriv_rest s c r).psq
@[simp] theorem State.postPriv_clk (c : Nat) (r : List Byte) : (s.postPriv c r).clk = s.clk := (State.postPriv_rest s c r).clk
@[simp] theorem State.postPriv_free (c : Nat) (r : List Byte) : (s.postPriv c r).free = s.free := (State.postPriv_rest s c r).free
@[simp] theorem State.postPriv_pending (c : Nat) (r : List Byte) : (s.postPriv c r).pending = s.pending := (State.postPriv_rest s c r).pending
@[simp] theorem State.evt_tim (p : Page) (n : Nat) : (s.evt p n).tim = s.tim := (State.evt_rest s p n).tim
@[simp] theorem State.evt_pln (p : Page) (n : Nat) : (s.evt p n).pln = s.pln := (State.evt_rest s p n).pln
@[simp] theorem State.evt_shadow (p : Page) (n : Nat) : (s.evt p n).shadow = s.shadow := (State.evt_rest s p n).shadow
@[simp] theorem State.evt_blk (p : Page) (n : Nat) : (s.evt p n).blk = s.blk := (State.evt_rest s p n).blk
@[simp] theorem State.evt_chan (p : Page) (n : Nat) : (s.evt p n).chan = s.chan := (State.evt_rest s p n).chan
@[simp] theorem State.evt_cxh (p : Page) (n : Nat) : (s.evt p n).cxh = s.cxh := (State.evt_rest s p n).cxh
@[simp] theorem State.evt_mbx (p : Page) (n : Nat) : (s.evt p n).mbx = s.mbx := (State.evt_rest s p n).mbx
@[simp] theorem State.evt_boot (p : Page) (n : Nat) : (s.evt p n).boot = s.boot := (State.evt_rest s p n).boot
@[simp] theorem State.evt_sec (p : Page) (n : Nat) : (s.evt p n).sec = s.sec := (State.evt_rest s p n).sec
@[simp] theorem State.evt_ras (p : Page) (n : Nat) : (s.evt p n).ras = s.ras := (State.evt_rest s p n).ras
@[simp] theorem State.evt_dbg (p : Page) (n : Nat) : (s.evt p n).dbg = s.dbg := (State.evt_rest s p n).dbg
@[simp] theorem State.evt_spr (p : Page) (n : Nat) : (s.evt p n).spr = s.spr := (State.evt_rest s p n).spr
@[simp] theorem State.evt_psq (p : Page) (n : Nat) : (s.evt p n).psq = s.psq := (State.evt_rest s p n).psq
@[simp] theorem State.evt_clk (p : Page) (n : Nat) : (s.evt p n).clk = s.clk := (State.evt_rest s p n).clk
@[simp] theorem State.evt_free (p : Page) (n : Nat) : (s.evt p n).free = s.free := (State.evt_rest s p n).free
@[simp] theorem State.evt_pending (p : Page) (n : Nat) : (s.evt p n).pending = s.pending := (State.evt_rest s p n).pending
@[simp] theorem State.evtPriv_tim (p : Page) (bit code cause detail : Nat) : (s.evtPriv p bit code cause detail).tim = s.tim := (State.evtPriv_rest s p bit code cause detail).tim
@[simp] theorem State.evtPriv_pln (p : Page) (bit code cause detail : Nat) : (s.evtPriv p bit code cause detail).pln = s.pln := (State.evtPriv_rest s p bit code cause detail).pln
@[simp] theorem State.evtPriv_shadow (p : Page) (bit code cause detail : Nat) : (s.evtPriv p bit code cause detail).shadow = s.shadow := (State.evtPriv_rest s p bit code cause detail).shadow
@[simp] theorem State.evtPriv_blk (p : Page) (bit code cause detail : Nat) : (s.evtPriv p bit code cause detail).blk = s.blk := (State.evtPriv_rest s p bit code cause detail).blk
@[simp] theorem State.evtPriv_chan (p : Page) (bit code cause detail : Nat) : (s.evtPriv p bit code cause detail).chan = s.chan := (State.evtPriv_rest s p bit code cause detail).chan
@[simp] theorem State.evtPriv_cxh (p : Page) (bit code cause detail : Nat) : (s.evtPriv p bit code cause detail).cxh = s.cxh := (State.evtPriv_rest s p bit code cause detail).cxh
@[simp] theorem State.evtPriv_mbx (p : Page) (bit code cause detail : Nat) : (s.evtPriv p bit code cause detail).mbx = s.mbx := (State.evtPriv_rest s p bit code cause detail).mbx
@[simp] theorem State.evtPriv_boot (p : Page) (bit code cause detail : Nat) : (s.evtPriv p bit code cause detail).boot = s.boot := (State.evtPriv_rest s p bit code cause detail).boot
@[simp] theorem State.evtPriv_sec (p : Page) (bit code cause detail : Nat) : (s.evtPriv p bit code cause detail).sec = s.sec := (State.evtPriv_rest s p bit code cause detail).sec
@[simp] theorem State.evtPriv_ras (p : Page) (bit code cause detail : Nat) : (s.evtPriv p bit code cause detail).ras = s.ras := (State.evtPriv_rest s p bit code cause detail).ras
@[simp] theorem State.evtPriv_dbg (p : Page) (bit code cause detail : Nat) : (s.evtPriv p bit code cause detail).dbg = s.dbg := (State.evtPriv_rest s p bit code cause detail).dbg
@[simp] theorem State.evtPriv_spr (p : Page) (bit code cause detail : Nat) : (s.evtPriv p bit code cause detail).spr = s.spr := (State.evtPriv_rest s p bit code cause detail).spr
@[simp] theorem State.evtPriv_psq (p : Page) (bit code cause detail : Nat) : (s.evtPriv p bit code cause detail).psq = s.psq := (State.evtPriv_rest s p bit code cause detail).psq
@[simp] theorem State.evtPriv_clk (p : Page) (bit code cause detail : Nat) : (s.evtPriv p bit code cause detail).clk = s.clk := (State.evtPriv_rest s p bit code cause detail).clk
@[simp] theorem State.evtPriv_free (p : Page) (bit code cause detail : Nat) : (s.evtPriv p bit code cause detail).free = s.free := (State.evtPriv_rest s p bit code cause detail).free
@[simp] theorem State.evtPriv_pending (p : Page) (bit code cause detail : Nat) : (s.evtPriv p bit code cause detail).pending = s.pending := (State.evtPriv_rest s p bit code cause detail).pending

/-! ### An error record is written in registers alone -/

@[simp] theorem State.logErr_mem (p : Page) (source job cls addr detail : Nat) : (s.logErr p source job cls addr detail).mem = s.mem := by
  unfold State.logErr
  extract_lets cnt t
  split <;> simp [t]
@[simp] theorem State.logIgnored_mem (p : Page) (off : Nat) (v : Word) : (s.logIgnored p off v).mem = s.mem := by
  unfold State.logIgnored; simp
@[simp] theorem State.logErr_out (p : Page) (source job cls addr detail : Nat) : (s.logErr p source job cls addr detail).out = s.out := by
  unfold State.logErr
  extract_lets cnt t
  split <;> simp [t]
@[simp] theorem State.logIgnored_out (p : Page) (off : Nat) (v : Word) : (s.logIgnored p off v).out = s.out := by
  unfold State.logIgnored; simp
@[simp] theorem State.logErr_cmp (p : Page) (source job cls addr detail : Nat) : (s.logErr p source job cls addr detail).cmp = s.cmp := by
  unfold State.logErr
  extract_lets cnt t
  split <;> simp [t]
@[simp] theorem State.logIgnored_cmp (p : Page) (off : Nat) (v : Word) : (s.logIgnored p off v).cmp = s.cmp := by
  unfold State.logIgnored; simp

end Sys2Proof.Machine
end

