-- ==== Sys2Proof/Laws/Access.lean ====
section
/-! SUPPORT. What a register write does once it reaches the register's own behaviour, and where it does not. -/
namespace Sys2Proof.Machine

variable {s : State}

/-- A write that reaches a register runs the register's own behaviour and nothing else. -/
theorem State.withWrite_of_reaches {rq : Requester} {p : Page} {off : Nat} (h : s.reaches rq p off = true) (v : Word)
    (f : State → State) : s.withWrite rq p off v f = f s := by
  unfold State.reaches at h
  unfold State.withWrite
  simp only [Bool.and_eq_true, beq_iff_eq] at h
  obtain ⟨g, h⟩ := h
  rw [g]
  cases e : findRow p.blk off with
  | none => rfl
  | some r =>
    rw [e] at h
    simp only [Bool.and_eq_true, Bool.not_eq_true'] at h
    simp [h.1, h.2]

/-- A register write that reaches the register is not turned away. -/
theorem State.writeTurnedAway_of_reaches {rq : Requester} {p : Page} {off : Nat} (h : s.reaches rq p off = true) (v : Word) :
    s.writeTurnedAway rq p off v = none := by
  unfold State.reaches at h
  unfold State.writeTurnedAway
  simp only [Bool.and_eq_true, beq_iff_eq] at h
  obtain ⟨g, h⟩ := h
  rw [g]
  cases e : findRow p.blk off with
  | none => simp
  | some r =>
    rw [e] at h
    simp only [Bool.and_eq_true, Bool.not_eq_true', Bool.and_eq_false_iff] at h
    simp only [Option.any_some]
    rcases h.1 with k | k <;> simp [k]

/-- The same for a named register. -/
theorem State.onWrite_of_reaches {rq : Requester} {i : Nat} {r : RegId} (h : s.reachesReg rq i r = true) (v : Word)
    (f : State → State) : s.onWrite rq i r v f = f s := State.withWrite_of_reaches h v f

/-- A page that the requester does not reach is not written; an LD that is not enabled is answered UR. -/
theorem State.withWrite_ignored {rq : Requester} {p : Page} (h : s.gate rq p = .ignore) (off : Nat) (v : Word)
    (f : State → State) : s.withWrite rq p off v f = s.ioUr rq := by
  unfold State.withWrite
  rw [h]

/-- A write that is ignored by rule leaves its trace in the page's error log. -/
theorem State.withWrite_logged {rq : Requester} {p : Page} (h : s.gate rq p = .ignoreLog) (off : Nat) (v : Word)
    (f : State → State) : s.withWrite rq p off v f = s.logIgnored p off v := by
  unfold State.withWrite
  rw [h]

/-- A change of a block page depends on what the page holds alone. -/
theorem State.updBlk_const (p : Page) (f : BlkSt → BlkSt) : s.updBlk p f = s.updBlk p fun _ => f (s.blkSt p) := rfl

/-- A change of a channel depends on what the channel holds alone. -/
theorem State.updCh_const (c : Nat) (f : Chan → Chan) : s.updCh c f = s.updCh c fun _ => f (s.ch c) := rfl

/-- A change under a condition that holds. -/
@[simp] theorem State.when_true (f : State → State) : s.when true f = f s := by
  unfold State.when; exact if_pos rfl

/-- A change under a condition that does not hold. -/
@[simp] theorem State.when_false (f : State → State) : s.when false f = s := by
  unfold State.when; exact if_neg Bool.false_ne_true

/-- Nothing to go through. -/
@[simp] theorem State.each_nil {α : Type} (f : State → α → State) : s.each [] f = s := by
  unfold State.each; exact List.foldl_nil

/-- The first element, then the rest. -/
@[simp] theorem State.each_cons {α : Type} (a : α) (l : List α) (f : State → α → State) :
    s.each (a :: l) f = (f s a).each l f := by
  unfold State.each; exact List.foldl_cons ..

end Sys2Proof.Machine
end

