-- ==== Sys2Proof/Laws/Memory.lean ====
section
/-! SUPPORT. The laws of memory: what a byte reads as after a write (R606), and that every memory operation keeps the canonical
form. -/
namespace Sys2Proof.Machine

/-! ### Lines -/

theorem linesRising_cons {a : Nat} {l : List Nat} :
    linesRising (a :: l) = true ↔ (∀ x ∈ l, a < x) ∧ linesRising l = true := by
  induction l generalizing a with
  | nil => simp [linesRising]
  | cons b l ih =>
    have hs : linesRising (a :: b :: l) = (decide (a < b) && linesRising (b :: l)) := rfl
    rw [hs, Bool.and_eq_true, decide_eq_true_eq]
    constructor
    · rintro ⟨h, hr⟩
      refine ⟨?_, hr⟩
      intro x hx
      rcases List.mem_cons.1 hx with rfl | hx
      · exact h
      · exact Nat.lt_trans h ((ih.1 hr).1 x hx)
    · rintro ⟨ha, hr⟩
      exact ⟨ha b (List.mem_cons_self ..), hr⟩

theorem linesRising_filter (p : Nat → Bool) {l : List Nat} (h : linesRising l = true) :
    linesRising (l.filter p) = true := by
  induction l with
  | nil => rfl
  | cons a l ih =>
    obtain ⟨ha, hr⟩ := linesRising_cons.1 h
    rw [List.filter_cons]
    split
    · exact linesRising_cons.2 ⟨fun x hx => ha x (List.mem_filter.1 hx).1, ih hr⟩
    · exact ih hr

theorem mem_insertLine {l x : Nat} {ks : List Nat} : x ∈ insertLine l ks ↔ x = l ∨ x ∈ ks := by
  induction ks with
  | nil => simp [insertLine]
  | cons k ks ih =>
    unfold insertLine
    split
    · simp
    · split
      · rename_i h
        subst h
        simp
      · simp only [List.mem_cons, ih]
        constructor
        · rintro (h | h | h) <;> simp [h]
        · rintro (h | h | h) <;> simp [h]

theorem linesRising_insertLine (l : Nat) {ks : List Nat} (h : linesRising ks = true) :
    linesRising (insertLine l ks) = true := by
  induction ks with
  | nil => rfl
  | cons k ks ih =>
    obtain ⟨ha, hr⟩ := linesRising_cons.1 h
    unfold insertLine
    split
    · rename_i hk
      refine linesRising_cons.2 ⟨?_, h⟩
      intro x hx
      rcases List.mem_cons.1 hx with rfl | hx
      · exact hk
      · exact Nat.lt_trans hk (ha x hx)
    · split
      · rename_i hk
        exact linesRising_cons.2 ⟨ha, hr⟩
      · rename_i h1 h2
        refine linesRising_cons.2 ⟨?_, ih hr⟩
        intro x hx
        rcases mem_insertLine.1 hx with rfl | hx
        · exact Nat.lt_of_le_of_ne (Nat.le_of_not_lt h1) (fun h => h2 h.symm)
        · exact ha x hx

theorem linesRising_foldl_insertLine (ls : List Nat) {ks : List Nat} (h : linesRising ks = true) :
    linesRising (ls.foldl (fun ps l => insertLine l ps) ks) = true := by
  induction ls generalizing ks with
  | nil => exact h
  | cons l ls ih => exact ih (linesRising_insertLine l h)

/-! ### Bytes -/

theorem wf_putBytes (bs : List Byte) {cells : SMap Byte} {a : Nat} (h : SMap.wf (fun _ => (0 : Byte)) cells = true) :
    SMap.wf (fun _ => (0 : Byte)) (putBytes cells a bs) = true := by
  induction bs generalizing cells a with
  | nil => exact h
  | cons b bs ih => exact ih (SMap.wf_put a b h)

theorem wf_putBytesExcept (keep : Nat → Bool) (bs : List Byte) {cells : SMap Byte} {a : Nat}
    (h : SMap.wf (fun _ => (0 : Byte)) cells = true) :
    SMap.wf (fun _ => (0 : Byte)) (putBytesExcept keep cells a bs) = true := by
  induction bs generalizing cells a with
  | nil => exact h
  | cons b bs ih =>
    refine ih ?_
    split
    · exact h
    · exact SMap.wf_put a b h

/-- A byte after `putBytes`: the byte written, or what was there before. -/
theorem get_putBytes (cells : SMap Byte) (a : Nat) (bs : List Byte) (x : Nat) :
    SMap.get (fun _ => (0 : Byte)) (putBytes cells a bs) x =
      if a ≤ x ∧ x < a + bs.length then bs.getD (x - a) 0 else SMap.get (fun _ => (0 : Byte)) cells x := by
  induction bs generalizing cells a with
  | nil => rw [putBytes, if_neg (fun h => by simp only [List.length_nil] at h; omega)]
  | cons b bs ih =>
    rw [putBytes, ih, SMap.get_put]
    by_cases h1 : x = a
    · subst h1
      rw [if_neg (by omega), if_pos rfl, if_pos (by simp)]
      simp
    · by_cases h2 : a + 1 ≤ x ∧ x < a + 1 + bs.length
      · rw [if_pos h2, if_pos (by simp only [List.length_cons]; omega)]
        obtain ⟨n, hn⟩ : ∃ n, x = a + 1 + n := ⟨x - (a + 1), by omega⟩
        subst hn
        rw [show a + 1 + n - (a + 1) = n by omega, show a + 1 + n - a = n + 1 by omega]
        simp
      · rw [if_neg h2, if_neg h1, if_neg (by simp only [List.length_cons]; omega)]

/-- A byte after `putBytesExcept`: unchanged in a kept line, and else as after `putBytes`. -/
theorem get_putBytesExcept (keep : Nat → Bool) (cells : SMap Byte) (a : Nat) (bs : List Byte) (x : Nat) :
    SMap.get (fun _ => (0 : Byte)) (putBytesExcept keep cells a bs) x =
      if a ≤ x ∧ x < a + bs.length ∧ keep (x / 64) = false then bs.getD (x - a) 0
      else SMap.get (fun _ => (0 : Byte)) cells x := by
  induction bs generalizing cells a with
  | nil => rw [putBytesExcept, if_neg (fun h => by simp only [List.length_nil] at h; omega)]
  | cons b bs ih =>
    rw [putBytesExcept, ih]
    by_cases h1 : x = a
    · subst h1
      rw [if_neg (by omega)]
      cases hk : keep (x / 64)
      · simp
      · simp
    · have hc : SMap.get (fun _ => (0 : Byte)) (if keep (a / 64) = true then cells else SMap.put (fun _ => 0) a b cells) x =
          SMap.get (fun _ => (0 : Byte)) cells x := by
        split
        · rfl
        · exact SMap.get_put_other _ _ _ h1
      rw [hc]
      by_cases h2 : a + 1 ≤ x ∧ x < a + 1 + bs.length ∧ keep (x / 64) = false
      · obtain ⟨u, w, hk⟩ := h2
        rw [if_pos ⟨u, w, hk⟩, if_pos ⟨by omega, by simp only [List.length_cons]; omega, hk⟩]
        obtain ⟨n, hn⟩ : ∃ n, x = a + 1 + n := ⟨x - (a + 1), by omega⟩
        subst hn
        rw [show a + 1 + n - (a + 1) = n by omega, show a + 1 + n - a = n + 1 by omega]
        simp
      · rw [if_neg h2, if_neg]
        rintro ⟨u, w, hk⟩
        simp only [List.length_cons] at w
        exact h2 ⟨by omega, by omega, hk⟩

/-! ### The operations -/

/-- What a byte reads as after a write: the byte written, unless its line is marked and only partly covered (R606); every byte
outside the range reads as before. -/
theorem Memory.byte_write (m : Memory) (a : Nat) (bs : List Byte) (x : Nat) :
    (m.write a bs).byte x =
      if a ≤ x ∧ x < a + bs.length ∧ (m.poison.contains (x / 64) && !coversLine a bs.length (x / 64)) = false then
        bs.getD (x - a) 0
      else m.byte x := get_putBytesExcept _ _ _ _ _

/-- A write leaves every byte outside its range alone. -/
theorem Memory.byte_write_outside (m : Memory) (a : Nat) (bs : List Byte) (x : Nat) (h : x < a ∨ a + bs.length ≤ x) :
    (m.write a bs).byte x = m.byte x := by
  rw [Memory.byte_write, if_neg (by omega)]

@[simp] theorem Memory.byte_mark (m : Memory) (a n x : Nat) : (m.mark a n).byte x = m.byte x := rfl

theorem Memory.wf_iff (m : Memory) :
    m.wf = true ↔ SMap.wf (fun _ => (0 : Byte)) m.cells = true ∧ linesRising m.poison = true := by
  simp [Memory.wf]

/-- A write keeps the canonical form. -/
theorem Memory.wf_write (a : Nat) (bs : List Byte) {m : Memory} (h : m.wf = true) : (m.write a bs).wf = true := by
  obtain ⟨hc, hp⟩ := (Memory.wf_iff m).1 h
  exact (Memory.wf_iff _).2 ⟨wf_putBytesExcept _ _ hc, linesRising_filter _ hp⟩

/-- Marking keeps the canonical form. -/
theorem Memory.wf_mark (a n : Nat) {m : Memory} (h : m.wf = true) : (m.mark a n).wf = true := by
  obtain ⟨hc, hp⟩ := (Memory.wf_iff m).1 h
  refine (Memory.wf_iff _).2 ⟨hc, ?_⟩
  show linesRising (if n = 0 then m.poison else _) = true
  split
  · exact hp
  · exact linesRising_foldl_insertLine _ hp

/-- Dropping cells and marks by a test keeps the canonical form. -/
theorem Memory.wf_filter (p : Host.Cell → Bool) (q : Nat → Bool) {m : Memory} (h : m.wf = true) :
    Memory.wf { cells := m.cells.filter p, poison := m.poison.filter q } = true := by
  obtain ⟨hc, hp⟩ := (Memory.wf_iff m).1 h
  exact (Memory.wf_iff _).2 ⟨SMap.wf_filter _ hc, linesRising_filter _ hp⟩

/-- A reset keeps the canonical form of what it leaves. -/
theorem Memory.wf_afterReset {m : Memory} (h : m.wf = true) : m.afterReset.wf = true := Memory.wf_filter _ _ h

/-- Writing sectors whatever their marking keeps the canonical form. -/
theorem Memory.wf_putSectors (a : Nat) (bs : List Byte) (q : Nat → Bool) {m : Memory} (h : m.wf = true) :
    Memory.wf { cells := putBytes m.cells a bs, poison := m.poison.filter q } = true := by
  obtain ⟨hc, hp⟩ := (Memory.wf_iff m).1 h
  exact (Memory.wf_iff _).2 ⟨wf_putBytes _ hc, linesRising_filter _ hp⟩

/-- Bytes written under their marking keep the canonical form. -/
theorem Memory.wf_cells (a : Nat) (bs : List Byte) {m : Memory} (h : m.wf = true) :
    Memory.wf { m with cells := putBytes m.cells a bs } = true := by
  obtain ⟨hc, hp⟩ := (Memory.wf_iff m).1 h
  exact (Memory.wf_iff _).2 ⟨wf_putBytes _ hc, hp⟩

theorem Memory.wf_zero (a n : Nat) {m : Memory} (h : m.wf = true) : (m.zero a n).wf = true := Memory.wf_filter _ _ h

theorem Memory.wf_if (b : Bool) {m n : Memory} (hm : m.wf = true) (hn : n.wf = true) : (if b then m else n).wf = true := by
  cases b <;> assumption

/-- A run of writes keeps the canonical form. -/
theorem Memory.wf_foldl_write {α : Type} (l : List α) (at_ : α → Nat) (bs : α → List Byte) {m : Memory} (h : m.wf = true) :
    (l.foldl (fun m x => m.write (at_ x) (bs x)) m).wf = true := by
  induction l generalizing m with
  | nil => exact h
  | cons x l ih => exact ih (Memory.wf_write _ _ h)

/-- What a write leaves of memory keeps the canonical form. -/
theorem State.memWith_wf {s : State} (a : Nat) (bs : List Byte) (h : s.mem.wf = true) : (s.memWith a bs).wf = true := by
  unfold State.memWith
  split
  · exact Memory.wf_write a bs h
  · exact Memory.wf_foldl_write _ _ _ h

end Sys2Proof.Machine
end

