-- ==== Sys2Proof/Laws/Keeps.lean ====
section
/-! SUPPORT. What no operation of the device undoes: the canonical form of its tables, the burned fuses, the waiting queue, elapsed
time, and what was already sent. One lemma per operation says that it keeps them. -/
namespace Sys2Proof.Machine

/-- From `s`, the device comes to `t` with its tables still in canonical form, its fuses only grown, its queue as it was, no less
elapsed time, no fewer draws, and its log only longer. -/
structure Keeps (s t : State) : Prop where
  mem : s.mem.wf = true → t.mem.wf = true
  regs : SMap.wf regReset s.regs = true → SMap.wf regReset t.regs = true
  shadow : SMap.wf regReset s.shadow = true → SMap.wf regReset t.shadow = true
  blk : SMap.wf (fun _ => default) s.blk = true → SMap.wf (fun _ => default) t.blk = true
  chan : SMap.wf (fun _ => default) s.chan = true → SMap.wf (fun _ => default) t.chan = true
  pending : t.pending = s.pending
  now : s.tim.now ≤ t.tim.now
  free : s.free ≤ t.free
  out : s.out <+: t.out
  fused : s.boot.fused = true → t.boot.fused = true ∧ s.boot.fuses.grows t.boot.fuses

theorem grows_refl (f : Fuses) : f.grows f :=
  ⟨Nat.le_refl _, fun _ h => h, rfl, rfl, rfl, rfl, rfl, rfl, rfl⟩

theorem grows_trans {f g h : Fuses} (a : f.grows g) (b : g.grows h) : f.grows h := by
  obtain ⟨a1, a2, a3, a4, a5, a6, a7, a8, a9⟩ := a
  obtain ⟨b1, b2, b3, b4, b5, b6, b7, b8, b9⟩ := b
  exact ⟨Nat.le_trans a1 b1, fun n h => b2 n (a2 n h), b3.trans a3, b4.trans a4, b5.trans a5, b6.trans a6, b7.trans a7,
    b8.trans a8, b9.trans a9⟩

theorem Keeps.refl (s : State) : Keeps s s :=
  ⟨id, id, id, id, id, rfl, Nat.le_refl _, Nat.le_refl _, List.prefix_refl _, fun h => ⟨h, grows_refl _⟩⟩

theorem Keeps.trans {a b c : State} (h : Keeps a b) (k : Keeps b c) : Keeps a c :=
  ⟨k.mem ∘ h.mem, k.regs ∘ h.regs, k.shadow ∘ h.shadow, k.blk ∘ h.blk, k.chan ∘ h.chan, k.pending.trans h.pending,
    Nat.le_trans h.now k.now, Nat.le_trans h.free k.free, List.IsPrefix.trans h.out k.out,
    fun f => ⟨(k.fused (h.fused f).1).1, grows_trans (h.fused f).2 (k.fused (h.fused f).1).2⟩⟩

variable {s0 s : State}

/-- A change of other fields. -/
theorem Keeps.fields (tim : Tim) (pln : Pln) (cxh : Cxh) (cmp : Cmp) (mbx : Mbx) (boot : Boot) (sec : Sec) (ras : Ras) (dbg : Dbg)
    (spr : Spr) (psq : Psq) (clk : Clk) (h : Keeps s0 s) (now : tim.now = s.tim.now) (fused : boot.fused = s.boot.fused)
    (fuse : boot.fuses = s.boot.fuses) :
    Keeps s0 { tim := tim, pln := pln, regs := s.regs, shadow := s.shadow, blk := s.blk, mem := s.mem, chan := s.chan,
               cxh := cxh, cmp := cmp, mbx := mbx, boot := boot, sec := sec, ras := ras, dbg := dbg, spr := spr, psq := psq,
               clk := clk, out := s.out, free := s.free, pending := s.pending } :=
  h.trans { Keeps.refl s with
    now := Nat.le_of_eq now.symm,
    fused := fun w => by
      show boot.fused = true ∧ s.boot.fuses.grows boot.fuses
      rw [fused, fuse]
      exact ⟨w, grows_refl _⟩ }

theorem Keeps.fst_of {α : Type} {p : State × α} {t : State} {x : α} (e : p = (t, x)) (h : Keeps s0 p.1) : Keeps s0 t := by
  rw [e] at h; exact h

theorem Keeps.fst_fst_of {α β : Type} {p : (State × α) × β} {t : State} {x : α} {y : β} (e : p = ((t, x), y))
    (h : Keeps s0 p.1.1) : Keeps s0 t := by
  rw [e] at h; exact h

theorem Keeps.fst_at {α β : Type} {p : (State × α) × β} {x : State × α} {y : β} (e : p = (x, y)) (h : Keeps s0 p.1.1) :
    Keeps s0 x.1 := by
  rw [e] at h; exact h

theorem Keeps.snd_of {α : Type} {p : α × State} {t : State} {x : α} (e : p = (x, t)) (h : Keeps s0 p.2) : Keeps s0 t := by
  rw [e] at h; exact h

/-- What an operation that can fail keeps when it does not. -/
def KeepsSome (s : State) (o : Option State) : Prop := ∀ t, o = some t → Keeps s t

theorem Keeps.some_of {o : Option State} {t : State} (e : o = some t) (h : KeepsSome s0 o) : Keeps s0 t := h t e

theorem KeepsSome.none : KeepsSome s0 none := fun _ h => by cases h

theorem KeepsSome.some {t : State} (h : Keeps s0 t) : KeepsSome s0 (some t) := fun _ e => by cases e; exact h

theorem KeepsSome.bind {o : Option State} {f : State → Option State} (h : KeepsSome s0 o)
    (k : ∀ t, Keeps s0 t → KeepsSome s0 (f t)) : KeepsSome s0 (o.bind f) := by
  cases o with
  | none => exact KeepsSome.none
  | some t => exact k t (h t rfl)

theorem KeepsSome.map {o : Option State} {f : State → State} (h : KeepsSome s0 o)
    (k : ∀ t, Keeps s0 t → Keeps s0 (f t)) : KeepsSome s0 (o.map f) := by
  cases o with
  | none => exact KeepsSome.none
  | some t => exact KeepsSome.some (k t (h t rfl))

/-- What a command's meaning keeps in its next state. -/
def KeepsNext (s : State) (o : Host.Outcome State Fault Refusal) : Prop := ∀ t, o = .next t → Keeps s t

theorem KeepsNext.next {t : State} (h : Keeps s0 t) : KeepsNext s0 (.next t) := fun _ e => by cases e; exact h

/-! ### The plain operations -/

theorem State.wrAt_keeps (p : Page) (off : Nat) (v : Word) (sel : Nat) (h : Keeps s0 s) : Keeps s0 (s.wrAt p off v sel) := by
  unfold State.wrAt
  exact h.trans { Keeps.refl s with regs := fun w => SMap.wf_put _ _ w }

theorem State.updCh_keeps (c : Nat) (f : Chan → Chan) (h : Keeps s0 s) : Keeps s0 (s.updCh c f) := by
  unfold State.updCh
  exact h.trans { Keeps.refl s with chan := fun w => SMap.wf_upd _ _ w }

theorem State.updBlk_keeps (p : Page) (f : BlkSt → BlkSt) (h : Keeps s0 s) : Keeps s0 (s.updBlk p f) := by
  unfold State.updBlk
  exact h.trans { Keeps.refl s with blk := fun w => SMap.wf_upd _ _ w }

theorem State.setShadow_keeps (p : Page) (off : Nat) (v : Word) (h : Keeps s0 s) : Keeps s0 (s.setShadow p off v) := by
  unfold State.setShadow
  exact h.trans { Keeps.refl s with shadow := fun w => SMap.wf_put _ _ w }

theorem State.emit_keeps (m : OutMsg) (h : Keeps s0 s) : Keeps s0 (s.emit m) := by
  unfold State.emit
  exact h.trans { Keeps.refl s with out := List.prefix_append _ _ }

theorem State.each_keeps {α : Type} (l : List α) (f : State → α → State)
    (hf : ∀ t a, Keeps s0 t → Keeps s0 (f t a)) (h : Keeps s0 s) : Keeps s0 (s.each l f) := by
  unfold State.each
  induction l generalizing s with
  | nil => exact h
  | cons a l ih => exact ih (hf s a h)

theorem foldl_keeps {α : Type} (l : List α) (f : State → α → State)
    (hf : ∀ t a, Keeps s0 t → Keeps s0 (f t a)) (h : Keeps s0 s) : Keeps s0 (l.foldl f s) :=
  State.each_keeps l f hf h

theorem foldl_fst_keeps {α β : Type} (l : List α) (f : State × β → α → State × β)
    (hf : ∀ x a, Keeps s0 x.1 → Keeps s0 (f x a).1) (p : State × β) (h : Keeps s0 p.1) : Keeps s0 (l.foldl f p).1 := by
  induction l generalizing p with
  | nil => exact h
  | cons a l ih => exact ih (f p a) (hf p a h)

theorem State.when_keeps (c : Bool) (f : State → State) (hf : ∀ t, Keeps s0 t → Keeps s0 (f t)) (h : Keeps s0 s) :
    Keeps s0 (s.when c f) := by
  unfold State.when
  split
  · exact hf s h
  · exact h

theorem State.mwrite_keeps (a : Nat) (bs : List Byte) (h : Keeps s0 s) : Keeps s0 (s.mwrite a bs) := by
  unfold State.mwrite
  exact h.trans { Keeps.refl s with mem := fun w => State.memWith_wf a bs w }

theorem State.mpoison_keeps (a n : Nat) (h : Keeps s0 s) : Keeps s0 (s.mpoison a n) := by
  unfold State.mpoison
  exact h.trans { Keeps.refl s with mem := fun w => Memory.wf_if _ (Memory.wf_mark a n w) w }

theorem State.putSectors_keeps (a : Nat) (bs : List Byte) (h : Keeps s0 s) : Keeps s0 (s.putSectors a bs) := by
  unfold State.putSectors
  exact h.trans { Keeps.refl s with mem := fun w => Memory.wf_putSectors a bs _ w }

theorem State.drawNat_keeps (h : Keeps s0 s) : Keeps s0 s.drawNat.2 :=
  h.trans { Keeps.refl s with free := Nat.le_succ _ }

theorem State.drawBool_keeps (h : Keeps s0 s) : Keeps s0 s.drawBool.2 :=
  h.trans { Keeps.refl s with free := Nat.le_succ _ }

theorem State.drawBytes_keeps (n : Nat) (h : Keeps s0 s) : Keeps s0 (s.drawBytes n).2 :=
  h.trans { Keeps.refl s with free := Nat.le_add_right _ _ }

theorem State.pass_keeps (n : Nat) (h : Keeps s0 s) : Keeps s0 (s.pass n) := by
  unfold State.pass
  exact h.trans { Keeps.refl s with now := Nat.le_add_right _ _ }

theorem State.setTim_keeps (f : Tim → Tim) (hf : (f s.tim).now = s.tim.now) (h : Keeps s0 s) : Keeps s0 (s.setTim f) := by
  unfold State.setTim
  exact h.trans { Keeps.refl s with now := Nat.le_of_eq hf.symm }

theorem State.setBoot_keeps (f : Boot → Boot) (hd : (f s.boot).fused = s.boot.fused) (hf : (f s.boot).fuses = s.boot.fuses)
    (h : Keeps s0 s) : Keeps s0 (s.setBoot f) := by
  unfold State.setBoot
  exact h.trans { Keeps.refl s with
    fused := fun w => by
      show (f s.boot).fused = true ∧ s.boot.fuses.grows (f s.boot).fuses
      rw [hd, hf]
      exact ⟨w, grows_refl _⟩ }

/-- A change of BOOT's state that burns fuses, or loads the bank the first time. -/
theorem State.setBoot_keeps_fuses (f : Boot → Boot)
    (hf : s.boot.fused = true → (f s.boot).fused = true ∧ s.boot.fuses.grows (f s.boot).fuses) (h : Keeps s0 s) :
    Keeps s0 (s.setBoot f) := by
  unfold State.setBoot
  exact h.trans { Keeps.refl s with fused := hf }

theorem State.cold_keeps (h : Keeps s0 s) : Keeps s0 s.cold := by
  unfold State.cold
  exact h.trans { Keeps.refl s with
    mem := Memory.wf_afterReset, regs := fun _ => rfl, shadow := fun _ => rfl, blk := fun _ => rfl, chan := fun _ => rfl,
    fused := fun w => ⟨w, grows_refl _⟩ }

end Sys2Proof.Machine
end

