-- ==== Sys2Proof/Laws/KeepsOps.lean ====
section
/-! SUPPORT. Every operation of Machine/Ops.lean keeps what `Keeps` says. -/
namespace Sys2Proof.Machine

theorem State.wr_keeps {σ : State} {s : State} (i : Nat) (r : RegId) (v : Word) (sel : Nat) (hs : Keeps σ s) :
    Keeps σ (State.wr s i r v sel) := by
  unfold State.wr
  repeat' (with_reducible
    first
    | assumption | apply State.wrAt_keeps | (intro _) | exact rfl | apply Keeps.fields)

theorem State.wr64_keeps {σ : State} {s : State} (i : Nat) (r : RegId) (v : Nat) (sel : Nat) (hs : Keeps σ s) :
    Keeps σ (State.wr64 s i r v sel) := by
  unfold State.wr64
  repeat' (with_reducible
    first
    | assumption | apply State.wr_keeps | apply State.wrAt_keeps | (intro _) | exact rfl | apply Keeps.fields)

theorem State.bump_keeps {σ : State} {s : State} (i : Nat) (r : RegId) (n : Nat) (sel : Nat) (hs : Keeps σ s) :
    Keeps σ (State.bump s i r n sel) := by
  unfold State.bump
  repeat' (with_reducible
    first
    | assumption | apply State.wr_keeps | (intro _) | exact rfl | apply Keeps.fields)

theorem State.bumpF_keeps {σ : State} {s : State} (i : Nat) (r : RegId) (hi lo : Nat) (n : Nat) (sel : Nat) (hs : Keeps σ s) :
    Keeps σ (State.bumpF s i r hi lo n sel) := by
  unfold State.bumpF
  repeat' (with_reducible
    first
    | assumption | apply State.wr_keeps | (intro _) | exact rfl | apply Keeps.fields)

theorem State.bump64_keeps {σ : State} {s : State} (i : Nat) (r : RegId) (n : Nat) (sel : Nat) (hs : Keeps σ s) :
    Keeps σ (State.bump64 s i r n sel) := by
  unfold State.bump64
  repeat' (with_reducible
    first
    | assumption | apply State.wr64_keeps | (intro _) | exact rfl | apply Keeps.fields)

theorem State.setCmp_keeps {σ : State} {s : State} (f : Cmp → Cmp) (hs : Keeps σ s) : Keeps σ (State.setCmp s f) := by
  unfold State.setCmp
  repeat' (with_reducible
    first
    | assumption | (intro _) | exact rfl | apply Keeps.fields)

theorem State.bisnp_keeps {σ : State} {s : State} (ld line : Nat) (inv : Bool) (hs : Keeps σ s) :
    Keeps σ (State.bisnp s ld line inv) := by
  unfold State.bisnp
  repeat' (with_reducible
    first
    | assumption | apply State.setCmp_keeps | apply State.bump_keeps | apply State.emit_keeps | split | (intro _) | exact rfl
    | apply Keeps.fields)

theorem State.passToTod_keeps {σ : State} {s : State} (t : Nat) (hs : Keeps σ s) : Keeps σ (State.passToTod s t) := by
  unfold State.passToTod
  repeat' (with_reducible
    first
    | assumption | apply State.pass_keeps | (intro _) | exact rfl | apply Keeps.fields)

theorem State.passToNow_keeps {σ : State} {s : State} (t : Nat) (hs : Keeps σ s) : Keeps σ (State.passToNow s t) := by
  unfold State.passToNow
  repeat' (with_reducible
    first
    | assumption | apply State.pass_keeps | (intro _) | exact rfl | apply Keeps.fields)

theorem State.passToCad_keeps {σ : State} {s : State} (c : Int) (hs : Keeps σ s) : Keeps σ (State.passToCad s c) := by
  unfold State.passToCad
  repeat' (with_reducible
    first
    | assumption | apply State.pass_keeps | (intro _) | exact rfl | apply Keeps.fields)

end Sys2Proof.Machine
end

