-- ==== Sys2Proof/Laws/KeepsCodec.lean ====
section
/-! SUPPORT. Every operation of Machine/Codec.lean keeps what `Keeps` says. -/
namespace Sys2Proof.Machine

theorem State.setZHdr_keeps {σ : State} {s : State} (z : ZRegion) (a : Nat) (h : ZHdr) (hs : Keeps σ s) :
    Keeps σ (State.setZHdr s z a h) := by
  unfold State.setZHdr
  extract_lets side
  split
  · exact State.mwrite_keeps _ _ hs
  · split
    · exact hs.trans { Keeps.refl s with mem := fun w => Memory.wf_cells _ _ w }
    · exact State.putSectors_keeps _ _ hs

theorem State.t2Send_keeps {σ : State} {s : State} (job a n : Nat) (write : Bool) (hs : Keeps σ s) :
    Keeps σ (State.t2Send s job a n write) := by
  unfold State.t2Send
  repeat' (with_reducible
    first
    | assumption | apply State.emit_keeps | extract_lets | split | (intro _) | (apply Keeps.fst_of; assumption)
    | (apply Keeps.snd_of; assumption) | (apply Keeps.some_of; assumption) | exact rfl | apply Keeps.fields)

theorem State.zReady_keeps {σ : State} {s : State} (z : ZRegion) (hs : Keeps σ s) : Keeps σ (State.zReady s z).1 := by
  unfold State.zReady
  repeat' (with_reducible
    first
    | assumption | apply State.wr_keeps | split | (intro _) | exact rfl | apply Keeps.fields)

theorem State.zCheck_keeps {σ : State} {s : State} (z : ZRegion) (a : Nat) (hs : Keeps σ s) :
    Keeps σ (State.zCheck s z a).1 := by
  unfold State.zCheck
  repeat' (with_reducible
    first
    | assumption | apply State.zReady_keeps | apply State.bump64_keeps | apply State.when_keeps | apply State.bump_keeps
    | apply State.setZHdr_keeps | extract_lets | split | (intro _) | (apply Keeps.fst_of; assumption)
    | (apply Keeps.snd_of; assumption) | (apply Keeps.some_of; assumption) | exact rfl | apply Keeps.fields)

theorem State.zWriteBlock_keeps {σ : State} {s : State} (z : ZRegion) (b : Nat) (raw : List Byte) (noLane : Bool)
    (hs : Keeps σ s) :
    Keeps σ (State.zWriteBlock s z b raw noLane) := by
  unfold State.zWriteBlock
  repeat' (with_reducible
    first
    | assumption | apply State.putSectors_keeps | apply State.setZHdr_keeps | apply State.when_keeps | apply State.bump_keeps
    | extract_lets | split | (intro _) | (apply Keeps.fst_of; assumption) | (apply Keeps.snd_of; assumption)
    | (apply Keeps.some_of; assumption) | exact rfl | apply Keeps.fields)

theorem State.zWrite_keeps {σ : State} {s : State} (z : ZRegion) (a : Nat) (bs : List Byte) (noLane : Bool) (hs : Keeps σ s) :
    Keeps σ (State.zWrite s z a bs noLane).1 := by
  unfold State.zWrite
  repeat' (with_reducible
    first
    | assumption | apply State.zReady_keeps | apply State.zWriteBlock_keeps | apply State.zCheck_keeps | apply State.bump_keeps
    | extract_lets | split | (intro _) | (apply Keeps.fst_of; assumption) | (apply Keeps.snd_of; assumption)
    | (apply Keeps.some_of; assumption) | exact rfl | apply Keeps.fields)

theorem State.cwritePieces_keeps {σ : State} {s : State} (x0 : List (Nat × Nat)) (x1 : List Byte) (hs : Keeps σ s) :
    Keeps σ (State.cwritePieces s x0 x1).1 := by
  induction x0 generalizing s x1 with
  | nil =>
    unfold State.cwritePieces
    repeat' (with_reducible
      first
      | assumption | apply State.zWrite_keeps | apply State.mwrite_keeps | extract_lets | split | (intro _)
      | (apply Keeps.fst_of; assumption) | (apply Keeps.snd_of; assumption) | (apply Keeps.some_of; assumption) | exact rfl
      | apply Keeps.fields)
  | cons a l ih =>
    unfold State.cwritePieces
    repeat' (with_reducible
      first
      | assumption | apply ih | apply State.zWrite_keeps | apply State.mwrite_keeps | extract_lets | split | (intro _)
      | (apply Keeps.fst_of; assumption) | (apply Keeps.snd_of; assumption) | (apply Keeps.some_of; assumption) | exact rfl
      | apply Keeps.fields)

theorem State.cwrite_keeps {σ : State} {s : State} (a : Nat) (bs : List Byte) (hs : Keeps σ s) :
    Keeps σ (State.cwrite s a bs).1 := by
  unfold State.cwrite
  repeat' (with_reducible
    first
    | assumption | apply State.bump_keeps | apply State.cwritePieces_keeps | apply State.mwrite_keeps | split | (intro _)
    | exact rfl | apply Keeps.fields)

theorem State.holdWrite_keeps {σ : State} {s : State} (x : HostAccess) (hs : Keeps σ s) : Keeps σ (State.holdWrite s x) := by
  unfold State.holdWrite
  repeat' (with_reducible
    first
    | assumption | apply State.setCmp_keeps | apply State.each_keeps | apply State.bisnp_keeps | (intro _) | exact rfl
    | apply Keeps.fields)

theorem State.dcode_keeps {σ : State} {s : State} (a : Nat) (bs : List Byte) (job : Nat) (hs : Keeps σ s) :
    Keeps σ (State.dcode s a bs job).1 := by
  unfold State.dcode
  repeat' (with_reducible
    first
    | assumption | apply State.holdWrite_keeps | apply State.t2Send_keeps | apply State.cwrite_keeps | split | (intro _)
    | exact rfl | apply Keeps.fields)

end Sys2Proof.Machine
end

