-- ==== Sys2Proof/Laws/KeepsFlags.lean ====
section
/-! SUPPORT. Every operation of Machine/Flags.lean keeps what `Keeps` says. -/
namespace Sys2Proof.Machine

theorem State.logErr_keeps {σ : State} {s : State} (p : Page) (source job cls addr detail : Nat) (hs : Keeps σ s) :
    Keeps σ (State.logErr s p source job cls addr detail) := by
  unfold State.logErr
  repeat' (with_reducible
    first
    | assumption | apply State.wrAt_keeps | extract_lets | split | (intro _) | exact rfl | apply Keeps.fields)

theorem State.deferred_keeps {σ : State} {s : State} (p : Page) (source job addr : Nat) (hs : Keeps σ s) :
    Keeps σ (State.deferred s p source job addr) := by
  unfold State.deferred
  repeat' (with_reducible
    first
    | assumption | apply State.logErr_keeps | apply State.bump_keeps | (intro _) | exact rfl | apply Keeps.fields)

theorem State.logIgnored_keeps {σ : State} {s : State} (p : Page) (off : Nat) (v : Word) (hs : Keeps σ s) :
    Keeps σ (State.logIgnored s p off v) := by
  unfold State.logIgnored
  repeat' (with_reducible
    first
    | assumption | apply State.logErr_keeps | (intro _) | exact rfl | apply Keeps.fields)

theorem State.logDoorbell_keeps {σ : State} {s : State} (p : Page) (off : Nat) (v : Nat) (hs : Keeps σ s) :
    Keeps σ (State.logDoorbell s p off v) := by
  unfold State.logDoorbell
  repeat' (with_reducible
    first
    | assumption | apply State.logErr_keeps | (intro _) | exact rfl | apply Keeps.fields)

theorem State.pevqPush_keeps {σ : State} {s : State} (c : Nat) (rec : List Byte) (hs : Keeps σ s) :
    Keeps σ (State.pevqPush s c rec).1 := by
  unfold State.pevqPush
  repeat' (with_reducible
    first
    | assumption | apply State.bump_keeps | apply State.dcode_keeps | apply State.wr_keeps | extract_lets | split | (intro _)
    | exact rfl | apply Keeps.fields)

theorem State.sendIrq_keeps {σ : State} {s : State} (ld vec : Nat) (hs : Keeps σ s) : Keeps σ (State.sendIrq s ld vec) := by
  unfold State.sendIrq
  repeat' (with_reducible
    first
    | assumption | apply State.when_keeps | apply State.emit_keeps | (intro _) | exact rfl | apply Keeps.fields)

theorem State.pageIrq_keeps {σ : State} {s : State} (p : Page) (hs : Keeps σ s) : Keeps σ (State.pageIrq s p) := by
  unfold State.pageIrq
  repeat' (with_reducible
    first
    | assumption | apply State.when_keeps | apply State.sendIrq_keeps | extract_lets | (intro _) | exact rfl
    | apply Keeps.fields)

theorem State.alertEdge_keeps {σ : State} {s : State} (old : State) (hs : Keeps σ s) : Keeps σ (State.alertEdge old s) := by
  unfold State.alertEdge
  repeat' (with_reducible
    first
    | assumption | apply State.emit_keeps | split | (intro _) | exact rfl | apply Keeps.fields)

theorem State.evtVia_keeps {σ : State} {s : State} (push : State → Nat → List Byte → State) (p : Page) (n : Nat) (hpush : ∀
    (a0 : State) (a1 : Nat) (a2 : List Byte), Keeps σ a0 → Keeps σ (push a0 a1 a2)) (hs : Keeps σ s) :
    Keeps σ (State.evtVia push s p n) := by
  unfold State.evtVia
  repeat' (with_reducible
    first
    | assumption | apply hpush | apply State.wrAt_keeps | apply State.when_keeps | apply State.alertEdge_keeps
    | apply State.pageIrq_keeps | extract_lets | split | (intro _) | exact rfl | apply Keeps.fields)

theorem State.postPriv_keeps {σ : State} {s : State} (c : Nat) (rec : List Byte) (hs : Keeps σ s) :
    Keeps σ (State.postPriv s c rec) := by
  unfold State.postPriv
  repeat' (with_reducible
    first
    | assumption | apply State.pevqPush_keeps | apply State.evtVia_keeps | split | (intro _) | (apply Keeps.fst_of; assumption)
    | (apply Keeps.snd_of; assumption) | (apply Keeps.some_of; assumption) | exact rfl | apply Keeps.fields)

theorem State.evt_keeps {σ : State} {s : State} (p : Page) (n : Nat) (hs : Keeps σ s) : Keeps σ (State.evt s p n) := by
  unfold State.evt
  repeat' (with_reducible
    first
    | assumption | apply State.evtVia_keeps | apply State.postPriv_keeps | (intro _) | exact rfl | apply Keeps.fields)

theorem State.putEvent_keeps {σ : State} {s : State} (c j : Nat) (rec : List Byte) (hs : Keeps σ s) :
    Keeps σ (State.putEvent s c j rec).1 := by
  unfold State.putEvent
  repeat' (with_reducible
    first
    | assumption | apply State.bump_keeps | apply State.updCh_keeps | apply State.when_keeps | apply State.evt_keeps
    | apply State.postPriv_keeps | apply State.dcode_keeps | apply State.wr_keeps | extract_lets | split | (intro _) | exact rfl
    | apply Keeps.fields)

theorem State.postJobs_keeps {σ : State} {x1 : State} (x0 : Nat) (x2 : Nat) (x3 : Nat) (x4 : List Byte) (hx1 : Keeps σ x1) :
    Keeps σ (State.postJobs x0 x1 x2 x3 x4) := by
  induction x0 generalizing x1 x2 x3 x4 with
  | zero =>
    unfold State.postJobs
    repeat' (with_reducible
      first
      | assumption | apply State.putEvent_keeps | apply State.evt_keeps | apply foldl_keeps | apply foldl_fst_keeps | split
      | (intro _) | (apply Keeps.fst_of; assumption) | (apply Keeps.snd_of; assumption) | (apply Keeps.some_of; assumption)
      | exact rfl | apply Keeps.fields)
  | succ n ih =>
    unfold State.postJobs
    repeat' (with_reducible
      first
      | assumption | apply ih | apply State.putEvent_keeps | apply State.evt_keeps | apply State.deferred_keeps | apply foldl_keeps
      | apply foldl_fst_keeps | split | (intro _) | (apply Keeps.fst_of; assumption) | (apply Keeps.snd_of; assumption)
      | (apply Keeps.some_of; assumption) | exact rfl | apply Keeps.fields)

theorem State.postJob_keeps {σ : State} {s : State} (c j : Nat) (rec : List Byte) (hs : Keeps σ s) :
    Keeps σ (State.postJob s c j rec) := by
  unfold State.postJob
  repeat' (with_reducible
    first
    | assumption | apply State.postJobs_keeps | (intro _) | exact rfl | apply Keeps.fields)

theorem State.evtPriv_keeps {σ : State} {s : State} (p : Page) (bit code cause detail : Nat) (hs : Keeps σ s) :
    Keeps σ (State.evtPriv s p bit code cause detail) := by
  unfold State.evtPriv
  repeat' (with_reducible
    first
    | assumption | apply State.evt_keeps | apply State.postPriv_keeps | (intro _) | exact rfl | apply Keeps.fields)

theorem State.evtJob_keeps {σ : State} {s : State} (c : Nat) (b : Blk) (bit code cause gen req job detail : Nat)
    (hs : Keeps σ s) :
    Keeps σ (State.evtJob s c b bit code cause gen req job detail) := by
  unfold State.evtJob
  repeat' (with_reducible
    first
    | assumption | apply State.evt_keeps | apply State.postJob_keeps | (intro _) | exact rfl | apply Keeps.fields)

end Sys2Proof.Machine
end

