-- ==== Sys2Proof/Laws/KeepsAccess.lean ====
section
/-! SUPPORT. Every operation of Machine/Access.lean keeps what `Keeps` says. -/
namespace Sys2Proof.Machine

theorem State.storeActive_keeps {σ : State} {s : State} (p : Page) (off sel mask : Nat) (v : Word) (hs : Keeps σ s) :
    Keeps σ (State.storeActive s p off sel mask v) := by
  unfold State.storeActive
  repeat' (with_reducible
    first
    | assumption | apply State.wrAt_keeps | extract_lets | (intro _) | exact rfl | apply Keeps.fields)

theorem State.storeShadow_keeps {σ : State} {s : State} (p : Page) (off mask : Nat) (v : Word) (hs : Keeps σ s) :
    Keeps σ (State.storeShadow s p off mask v) := by
  unfold State.storeShadow
  repeat' (with_reducible
    first
    | assumption | apply State.logIgnored_keeps | apply State.setShadow_keeps | apply State.updBlk_keeps
    | apply State.when_keeps | extract_lets | split | (intro _) | exact rfl | apply Keeps.fields)

theorem State.ioUr_keeps {σ : State} {s : State} (rq : Requester) (hs : Keeps σ s) : Keeps σ (State.ioUr s rq) := by
  unfold State.ioUr
  repeat' (with_reducible
    first
    | assumption | apply State.emit_keeps | split | (intro _) | (apply Keeps.fst_of; assumption)
    | (apply Keeps.snd_of; assumption) | (apply Keeps.some_of; assumption) | exact rfl | apply Keeps.fields)

theorem State.withWrite_keeps {σ : State} {s : State} (rq : Requester) (p : Page) (off : Nat) (v : Word) (f : State → State)
    (hf : ∀ (a0 : State), Keeps σ a0 → Keeps σ (f a0)) (hs : Keeps σ s) :
    Keeps σ (State.withWrite s rq p off v f) := by
  unfold State.withWrite
  repeat' (with_reducible
    first
    | assumption | apply hf | apply State.ioUr_keeps | apply State.logIgnored_keeps | apply State.pass_keeps
    | apply State.storeShadow_keeps | split | (intro _) | (apply Keeps.fst_of; assumption) | (apply Keeps.snd_of; assumption)
    | (apply Keeps.some_of; assumption) | exact rfl | apply Keeps.fields)

theorem State.onWrite_keeps {σ : State} {s : State} (rq : Requester) (i : Nat) (r : RegId) (v : Word) (f : State → State)
    (hf : ∀ (a0 : State), Keeps σ a0 → Keeps σ (f a0)) (hs : Keeps σ s) :
    Keeps σ (State.onWrite s rq i r v f) := by
  unfold State.onWrite
  repeat' (with_reducible
    first
    | assumption | apply hf | apply State.withWrite_keeps | (intro _) | exact rfl | apply Keeps.fields)

theorem State.store_keeps {σ : State} {s : State} (i : Nat) (r : RegId) (v : Word) (hs : Keeps σ s) :
    Keeps σ (State.store s i r v) := by
  unfold State.store
  repeat' (with_reducible
    first
    | assumption | apply State.storeActive_keeps | split | (intro _) | (apply Keeps.fst_of; assumption)
    | (apply Keeps.snd_of; assumption) | (apply Keeps.some_of; assumption) | exact rfl | apply Keeps.fields)

end Sys2Proof.Machine
end

