-- ==== Sys2Proof/Laws/KeepsPower.lean ====
section
/-! SUPPORT. Every operation of Machine/Power.lean keeps what `Keeps` says. -/
namespace Sys2Proof.Machine

theorem State.setPsq_keeps {σ : State} {s : State} (f : Psq → Psq) (hs : Keeps σ s) : Keeps σ (State.setPsq s f) := by
  unfold State.setPsq
  repeat' (with_reducible
    first
    | assumption | (intro _) | exact rfl | apply Keeps.fields)

theorem State.setDom_keeps {σ : State} {s : State} (d : Nat) (st : DomState) (hs : Keeps σ s) :
    Keeps σ (State.setDom s d st) := by
  unfold State.setDom
  repeat' (with_reducible
    first
    | assumption | apply State.setPsq_keeps | (intro _) | exact rfl | apply Keeps.fields)

theorem State.keepTokens_keeps {σ : State} {s : State} (old : State) (hs : Keeps σ s) : Keeps σ (State.keepTokens old s) := by
  unfold State.keepTokens
  repeat' (with_reducible
    first
    | assumption | apply State.setPsq_keeps | (intro _) | exact rfl | apply Keeps.fields)

theorem State.grantWake_keeps {σ : State} {s : State} (d : Nat) (hs : Keeps σ s) : Keeps σ (State.grantWake s d) := by
  unfold State.grantWake
  repeat' (with_reducible
    first
    | assumption | apply State.setDom_keeps | apply State.setPsq_keeps | apply State.bump_keeps | (intro _) | exact rfl
    | apply Keeps.fields)

theorem State.idleDown_keeps {σ : State} {s : State} (d : Nat) (hs : Keeps σ s) : Keeps σ (State.idleDown s d) := by
  unfold State.idleDown
  repeat' (with_reducible
    first
    | assumption | apply State.setPsq_keeps | (intro _) | exact rfl | apply Keeps.fields)

theorem State.wake_keeps {σ : State} {s : State} (d : Nat) (hs : Keeps σ s) : Keeps σ (State.wake s d) := by
  unfold State.wake
  repeat' (with_reducible
    first
    | assumption | apply State.setDom_keeps | apply State.grantWake_keeps | apply State.bump_keeps | split | (intro _)
    | (apply Keeps.fst_of; assumption) | (apply Keeps.snd_of; assumption) | (apply Keeps.some_of; assumption) | exact rfl
    | apply Keeps.fields)

theorem State.grantQueued_keeps {σ : State} {s : State} (hs : Keeps σ s) : Keeps σ (State.grantQueued s) := by
  unfold State.grantQueued
  repeat' (with_reducible
    first
    | assumption | apply State.grantWake_keeps | split | (intro _) | (apply Keeps.fst_of; assumption)
    | (apply Keeps.snd_of; assumption) | (apply Keeps.some_of; assumption) | exact rfl | apply Keeps.fields)

theorem execTokenTick_keeps {σ : State} {s : State} (hs : Keeps σ s) : KeepsNext σ (execTokenTick s) := by
  unfold execTokenTick
  repeat' (with_reducible
    first
    | assumption | apply State.passToNow_keeps | apply State.setPsq_keeps | apply State.grantQueued_keeps | apply KeepsNext.next
    | extract_lets | (intro _) | exact rfl | apply Keeps.fields)

theorem execDomainRampDone_keeps {σ : State} {s : State} (d : Nat) (hs : Keeps σ s) : KeepsNext σ (execDomainRampDone d s) := by
  unfold execDomainRampDone
  repeat' (with_reducible
    first
    | assumption | apply State.when_keeps | apply State.passToNow_keeps | apply State.setDom_keeps | apply State.emit_keeps
    | apply KeepsNext.next | extract_lets | split | (intro _) | (apply Keeps.fst_of; assumption)
    | (apply Keeps.snd_of; assumption) | (apply Keeps.some_of; assumption) | exact rfl | apply Keeps.fields)

theorem execArrayIdleExpiry_keeps {σ : State} {s : State} (c : Nat) (hs : Keeps σ s) :
    KeepsNext σ (execArrayIdleExpiry c s) := by
  unfold execArrayIdleExpiry
  repeat' (with_reducible
    first
    | assumption | apply State.when_keeps | apply State.passToNow_keeps | apply State.idleDown_keeps | apply KeepsNext.next
    | extract_lets | (intro _) | exact rfl | apply Keeps.fields)

theorem execCoreWaitForInterrupt_keeps {σ : State} {s : State} (core : Nat) (hs : Keeps σ s) :
    KeepsNext σ (execCoreWaitForInterrupt core s) := by
  unfold execCoreWaitForInterrupt
  repeat' (with_reducible
    first
    | assumption | apply State.when_keeps | apply State.idleDown_keeps | apply KeepsNext.next | (intro _) | exact rfl
    | apply Keeps.fields)

theorem State.accountThrot_keeps {σ : State} {s : State} (hs : Keeps σ s) : Keeps σ (State.accountThrot s) := by
  unfold State.accountThrot
  repeat' (with_reducible
    first
    | assumption | apply State.setPsq_keeps | apply State.when_keeps | apply State.bump_keeps | extract_lets | split | (intro _)
    | exact rfl | apply Keeps.fields)

theorem State.setLevel_keeps {σ : State} {s : State} (l : Nat) (hs : Keeps σ s) : Keeps σ (State.setLevel s l) := by
  unfold State.setLevel
  repeat' (with_reducible
    first
    | assumption | apply State.accountThrot_keeps | apply State.setPsq_keeps | apply State.bump_keeps | apply State.evt_keeps
    | extract_lets | split | (intro _) | exact rfl | apply Keeps.fields)

theorem State.raiseLevel_keeps {σ : State} {s : State} (hs : Keeps σ s) : Keeps σ (State.raiseLevel s) := by
  unfold State.raiseLevel
  repeat' (with_reducible
    first
    | assumption | apply State.when_keeps | apply State.setLevel_keeps | (intro _) | exact rfl | apply Keeps.fields)

theorem State.updateTj_keeps {σ : State} {s : State} (hs : Keeps σ s) : Keeps σ (State.updateTj s) := by
  unfold State.updateTj
  repeat' (with_reducible
    first
    | assumption | apply State.setPsq_keeps | apply State.evt_keeps | apply State.when_keeps | extract_lets | split | (intro _)
    | (apply Keeps.fst_of; assumption) | (apply Keeps.snd_of; assumption) | (apply Keeps.some_of; assumption) | exact rfl
    | apply Keeps.fields)

theorem State.updateStack_keeps {σ : State} {s : State} (hs : Keeps σ s) : Keeps σ (State.updateStack s) := by
  unfold State.updateStack
  repeat' (with_reducible
    first
    | assumption | apply State.setPsq_keeps | apply State.when_keeps | apply State.evt_keeps | apply foldl_keeps
    | apply foldl_fst_keeps | extract_lets | split | (intro _) | (apply Keeps.fst_of; assumption)
    | (apply Keeps.snd_of; assumption) | (apply Keeps.some_of; assumption) | exact rfl | apply Keeps.fields)

theorem State.setPowerDemand_keeps {σ : State} {s : State} (d : Nat) (hs : Keeps σ s) : Keeps σ (State.setPowerDemand s d) := by
  unfold State.setPowerDemand
  repeat' (with_reducible
    first
    | assumption | apply State.setPsq_keeps | apply State.when_keeps | apply State.evt_keeps | (intro _) | exact rfl
    | apply Keeps.fields)

theorem State.samplePower_keeps {σ : State} {s : State} (mw : Nat) (hs : Keeps σ s) : Keeps σ (State.samplePower s mw) := by
  unfold State.samplePower
  repeat' (with_reducible
    first
    | assumption | apply State.setPsq_keeps | apply State.when_keeps | apply State.setPowerDemand_keeps | extract_lets | split
    | (intro _) | exact rfl | apply Keeps.fields)

theorem execSensorSample_keeps {σ : State} {s : State} (temps : List Nat) (mw mv ma : Nat) (hs : Keeps σ s) :
    KeepsNext σ (execSensorSample temps mw mv ma s) := by
  unfold execSensorSample
  repeat' (with_reducible
    first
    | assumption | apply State.passToNow_keeps | apply State.setPsq_keeps | apply State.accountThrot_keeps
    | apply State.wr_keeps | apply State.updateTj_keeps | apply State.updateStack_keeps | apply State.samplePower_keeps
    | apply State.raiseLevel_keeps | apply foldl_keeps | apply foldl_fst_keeps | apply KeepsNext.next | extract_lets | split
    | (intro _) | exact rfl | apply Keeps.fields)

theorem execPowerAverage_keeps {σ : State} {s : State} (hs : Keeps σ s) : KeepsNext σ (execPowerAverage s) := by
  unfold execPowerAverage
  repeat' (with_reducible
    first
    | assumption | apply State.passToNow_keeps | apply State.setPsq_keeps | apply State.wr_keeps
    | apply State.setPowerDemand_keeps | apply State.raiseLevel_keeps | apply KeepsNext.next | extract_lets | split | (intro _)
    | exact rfl | apply Keeps.fields)

theorem execThrottleStepDown_keeps {σ : State} {s : State} (hs : Keeps σ s) : KeepsNext σ (execThrottleStepDown s) := by
  unfold execThrottleStepDown
  repeat' (with_reducible
    first
    | assumption | apply State.passToNow_keeps | apply State.setPsq_keeps | apply State.when_keeps | apply State.setLevel_keeps
    | apply KeepsNext.next | extract_lets | (intro _) | exact rfl | apply Keeps.fields)

theorem execThrotForceWrite_keeps {σ : State} {s : State} (rq : Requester) (v : Word) (hs : Keeps σ s) :
    KeepsNext σ (execThrotForceWrite rq v s) := by
  unfold execThrotForceWrite
  repeat' (with_reducible
    first
    | assumption | apply State.onWrite_keeps | apply State.store_keeps | apply State.raiseLevel_keeps | apply KeepsNext.next
    | (intro _) | exact rfl | apply Keeps.fields)

end Sys2Proof.Machine
end

