-- ==== Sys2Proof/Laws/KeepsSnoop.lean ====
section
/-! SUPPORT. Every operation of Machine/Snoop.lean keeps what `Keeps` says. -/
namespace Sys2Proof.Machine

theorem State.afterSnoops_keeps {σ : State} {s : State} (l : List Touch) (f : State → State) (hf : ∀
    (a0 : State), Keeps σ a0 → Keeps σ (f a0)) (hs : Keeps σ s) :
    Keeps σ (State.afterSnoops s l f) := by
  unfold State.afterSnoops
  repeat' (with_reducible
    first
    | assumption | apply hf | apply State.each_keeps | apply State.bisnp_keeps | split | (intro _) | exact rfl
    | apply Keeps.fields)

end Sys2Proof.Machine
end

