-- ==== Sys2Proof/Laws/KeepsWatch.lean ====
section
/-! SUPPORT. Every operation of Machine/Watch.lean keeps what `Keeps` says. -/
namespace Sys2Proof.Machine

theorem State.watchBytes_keeps {σ : State} {s : State} (c job layer op : Nat) (fp32 : Bool) (bs : List Byte) (hs : Keeps σ s) :
    Keeps σ (State.watchBytes s c job layer op fp32 bs) := by
  unfold State.watchBytes
  repeat' (with_reducible
    first
    | assumption | apply State.each_keeps | apply foldl_keeps | apply foldl_fst_keeps | extract_lets | split | (intro _)
    | exact rfl | apply Keeps.fields)

theorem State.watchHit_keeps {σ : State} {s : State} (c job layer op : Nat) (hs : Keeps σ s) :
    Keeps σ (State.watchHit s c job layer op) := by
  unfold State.watchHit
  repeat' (with_reducible
    first
    | assumption | apply State.each_keeps | apply State.when_keeps | apply State.evt_keeps | extract_lets | (intro _)
    | exact rfl | apply Keeps.fields)

theorem State.armWatch_keeps {σ : State} {s : State} (k : Nat) (hs : Keeps σ s) : Keeps σ (State.armWatch s k) := by
  unfold State.armWatch
  repeat' (with_reducible
    first
    | assumption | (intro _) | exact rfl | apply Keeps.fields)

end Sys2Proof.Machine
end

