-- ==== Sys2Proof/Laws/KeepsZrb.lean ====
section
/-! SUPPORT. Every operation of Machine/Zrb.lean keeps what `Keeps` says. -/
namespace Sys2Proof.Machine

theorem State.zPost_keeps {σ : State} {s : State} (job : Nat) (l : List ZNote) (hs : Keeps σ s) :
    Keeps σ (State.zPost s job l) := by
  unfold State.zPost
  repeat' (with_reducible
    first
    | assumption | apply State.each_keeps | apply State.evt_keeps | apply State.deferred_keeps | apply State.evtJob_keeps
    | split | (intro _) | (apply Keeps.fst_of; assumption) | (apply Keeps.snd_of; assumption)
    | (apply Keeps.some_of; assumption) | exact rfl | apply Keeps.fields)

theorem State.zTouch_keeps {σ : State} {s : State} (job : Nat) (z : ZRegion) (a : Nat) (hs : Keeps σ s) :
    Keeps σ (State.zTouch s job z a) := by
  unfold State.zTouch
  repeat' (with_reducible
    first
    | assumption | apply State.zCheck_keeps | apply State.zPost_keeps | extract_lets | (intro _) | exact rfl
    | apply Keeps.fields)

theorem State.t2Poison_keeps {σ : State} {s : State} (job a n : Nat) (hs : Keeps σ s) : Keeps σ (State.t2Poison s job a n) := by
  unfold State.t2Poison
  repeat' (with_reducible
    first
    | assumption | apply State.when_keeps | apply State.deferred_keeps | (intro _) | exact rfl | apply Keeps.fields)

theorem State.touch_keeps {σ : State} {s : State} (job a n : Nat) (hs : Keeps σ s) : Keeps σ (State.touch s job a n) := by
  unfold State.touch
  repeat' (with_reducible
    first
    | assumption | apply State.t2Send_keeps | apply State.t2Poison_keeps | apply State.each_keeps | apply State.zTouch_keeps
    | split | (intro _) | (apply Keeps.fst_of; assumption) | (apply Keeps.snd_of; assumption)
    | (apply Keeps.some_of; assumption) | exact rfl | apply Keeps.fields)

theorem State.hwrite_keeps {σ : State} {s : State} (a : Nat) (bs : List Byte) (job : Nat) (hs : Keeps σ s) :
    Keeps σ (State.hwrite s a bs job) := by
  unfold State.hwrite
  repeat' (with_reducible
    first
    | assumption | apply State.cwrite_keeps | apply State.zPost_keeps | extract_lets | (intro _) | exact rfl
    | apply Keeps.fields)

theorem State.vwrite_keeps {σ : State} {s : State} (a : Nat) (bs : List Byte) (job : Nat) (hs : Keeps σ s) :
    Keeps σ (State.vwrite s a bs job) := by
  unfold State.vwrite
  repeat' (with_reducible
    first
    | assumption | apply State.dcode_keeps | apply State.zPost_keeps | extract_lets | (intro _) | exact rfl
    | apply Keeps.fields)

theorem State.hmark_keeps {σ : State} {s : State} (a n : Nat) (hs : Keeps σ s) : Keeps σ (State.hmark s a n) := by
  unfold State.hmark
  repeat' (with_reducible
    first
    | assumption | apply State.each_keeps | apply State.zReady_keeps | apply State.setZHdr_keeps | apply State.zPost_keeps
    | apply State.mpoison_keeps | extract_lets | split | (intro _) | (apply Keeps.fst_of; assumption)
    | (apply Keeps.snd_of; assumption) | (apply Keeps.some_of; assumption) | exact rfl | apply Keeps.fields)

theorem State.vmark_keeps {σ : State} {s : State} (a n : Nat) (hs : Keeps σ s) : Keeps σ (State.vmark s a n) := by
  unfold State.vmark
  repeat' (with_reducible
    first
    | assumption | apply State.holdWrite_keeps | apply State.hmark_keeps | split | (intro _) | exact rfl | apply Keeps.fields)

theorem State.dzero_keeps {σ : State} {s : State} (a n : Nat) (hs : Keeps σ s) : Keeps σ (State.dzero s a n) := by
  unfold State.dzero
  split
  · exact State.vwrite_keeps _ _ _ hs
  · exact hs.trans { Keeps.refl s with mem := fun w => Memory.wf_zero a n w }

theorem State.countStored_keeps {σ : State} {s : State} (c tag : Nat) (hs : Keeps σ s) :
    Keeps σ (State.countStored s c tag) := by
  unfold State.countStored
  repeat' (with_reducible
    first
    | assumption | apply State.bump_keeps | split | (intro _) | (apply Keeps.fst_of; assumption)
    | (apply Keeps.snd_of; assumption) | (apply Keeps.some_of; assumption) | exact rfl | apply Keeps.fields)

theorem State.placeUnit_keeps {σ : State} {s : State} (c job a : Nat) (u : ZUnit) (hs : Keeps σ s) :
    Keeps σ (State.placeUnit s c job a u) := by
  unfold State.placeUnit
  repeat' (with_reducible
    first
    | assumption | apply State.when_keeps | apply State.bump_keeps | apply State.deferred_keeps | apply State.zReady_keeps
    | apply State.setZHdr_keeps | apply State.zPost_keeps | apply State.vmark_keeps | apply State.evtJob_keeps
    | apply State.putSectors_keeps | apply State.countStored_keeps | apply State.vwrite_keeps | extract_lets | split | (intro _)
    | (apply Keeps.fst_of; assumption) | (apply Keeps.snd_of; assumption) | (apply Keeps.some_of; assumption) | exact rfl
    | apply Keeps.fields)

theorem State.placeOver_keeps {σ : State} {s : State} (c job off : Nat) (l : List (Nat × Nat)) (us : List ZUnit)
    (hs : Keeps σ s) :
    Keeps σ (State.placeOver s c job off l us) := by
  unfold State.placeOver
  repeat' (with_reducible
    first
    | assumption | apply State.each_keeps | apply State.placeUnit_keeps | (intro _) | exact rfl | apply Keeps.fields)

theorem State.zrbEnable_keeps {σ : State} {s : State} (c : Nat) (v : Word) (hs : Keeps σ s) :
    Keeps σ (State.zrbEnable s c v) := by
  unfold State.zrbEnable
  repeat' (with_reducible
    first
    | assumption | apply State.when_keeps | apply State.logIgnored_keeps | apply State.store_keeps | apply State.wr_keeps
    | apply State.mwrite_keeps | extract_lets | split | (intro _) | exact rfl | apply Keeps.fields)

theorem execRegionEnable_keeps {σ : State} {s : State} (rq : Requester) (c : Nat) (v : Word) (hs : Keeps σ s) :
    KeepsNext σ (execRegionEnable rq c v s) := by
  unfold execRegionEnable
  repeat' (with_reducible
    first
    | assumption | apply State.onWrite_keeps | apply State.zrbEnable_keeps | apply KeepsNext.next | (intro _) | exact rfl
    | apply Keeps.fields)

theorem execRegionReady_keeps {σ : State} {s : State} (c r : Nat) (hs : Keeps σ s) : KeepsNext σ (execRegionReady c r s) := by
  unfold execRegionReady
  repeat' (with_reducible
    first
    | assumption | apply State.when_keeps | apply State.wr_keeps | apply State.evt_keeps | apply KeepsNext.next | (intro _)
    | exact rfl | apply Keeps.fields)

theorem execWrWaitExpiry_keeps {σ : State} {s : State} (c a : Nat) (data : List Byte) (hs : Keeps σ s) :
    KeepsNext σ (execWrWaitExpiry c a data s) := by
  unfold execWrWaitExpiry
  repeat' (with_reducible
    first
    | assumption | apply State.when_keeps | apply State.zWrite_keeps | apply State.zPost_keeps | apply KeepsNext.next
    | extract_lets | split | (intro _) | (apply Keeps.fst_of; assumption) | (apply Keeps.snd_of; assumption)
    | (apply Keeps.some_of; assumption) | exact rfl | apply Keeps.fields)

end Sys2Proof.Machine
end

