-- ==== Sys2Proof/Laws/KeepsJobs.lean ====
section
/-! SUPPORT. Every operation of Machine/Jobs.lean keeps what `Keeps` says. -/
namespace Sys2Proof.Machine

theorem State.updJsc_keeps {σ : State} {s : State} (c : Nat) (f : JscCh → JscCh) (hs : Keeps σ s) :
    Keeps σ (State.updJsc s c f) := by
  unfold State.updJsc
  repeat' (with_reducible
    first
    | assumption | apply State.updCh_keeps | (intro _) | exact rfl | apply Keeps.fields)

theorem State.setLane_keeps {σ : State} {s : State} (c j e : Nat) (l : List LaneCmd) (hs : Keeps σ s) :
    Keeps σ (State.setLane s c j e l) := by
  unfold State.setLane
  repeat' (with_reducible
    first
    | assumption | apply State.updJsc_keeps | (intro _) | exact rfl | apply Keeps.fields)

theorem State.setEngine_keeps {σ : State} {s : State} (c e : Nat) (x : Engine) (hs : Keeps σ s) :
    Keeps σ (State.setEngine s c e x) := by
  unfold State.setEngine
  repeat' (with_reducible
    first
    | assumption | apply State.updJsc_keeps | (intro _) | exact rfl | apply Keeps.fields)

theorem State.signalTok_keeps {σ : State} {s : State} (c : Nat) (cmd : Cmd) (hs : Keeps σ s) :
    Keeps σ (State.signalTok s c cmd) := by
  unfold State.signalTok
  repeat' (with_reducible
    first
    | assumption | apply State.when_keeps | apply State.bump_keeps | (intro _) | exact rfl | apply Keeps.fields)

theorem State.addUse_keeps {σ : State} {s : State} (c j e : Nat) (f : Usage → Usage) (hs : Keeps σ s) :
    Keeps σ (State.addUse s c j e f) := by
  unfold State.addUse
  repeat' (with_reducible
    first
    | assumption | apply State.updJsc_keeps | (intro _) | exact rfl | apply Keeps.fields)

theorem State.accrueJob_keeps {σ : State} {s : State} (c e dt total j : Nat) (hs : Keeps σ s) :
    Keeps σ (State.accrueJob s c e dt total j) := by
  unfold State.accrueJob
  repeat' (with_reducible
    first
    | assumption | apply State.updJsc_keeps | apply State.addUse_keeps | apply State.setLane_keeps | extract_lets | split
    | (intro _) | (apply Keeps.fst_of; assumption) | (apply Keeps.snd_of; assumption) | (apply Keeps.some_of; assumption)
    | exact rfl | apply Keeps.fields)

theorem State.accrueEngine_keeps {σ : State} {s : State} (c dt e : Nat) (hs : Keeps σ s) :
    Keeps σ (State.accrueEngine s c dt e) := by
  unfold State.accrueEngine
  repeat' (with_reducible
    first
    | assumption | apply State.each_keeps | apply State.accrueJob_keeps | extract_lets | (intro _) | exact rfl
    | apply Keeps.fields)

theorem State.accrue_keeps {σ : State} {s : State} (c : Nat) (hs : Keeps σ s) : Keeps σ (State.accrue s c) := by
  unfold State.accrue
  repeat' (with_reducible
    first
    | assumption | apply State.each_keeps | apply State.accrueEngine_keeps | apply State.updJsc_keeps | extract_lets | split
    | (intro _) | exact rfl | apply Keeps.fields)

theorem State.settle_keeps {σ : State} {s : State} (c : Nat) (hs : Keeps σ s) : Keeps σ (State.settle s c) := by
  unfold State.settle
  repeat' (with_reducible
    first
    | assumption | apply State.updJsc_keeps | apply foldl_keeps | apply foldl_fst_keeps | extract_lets | split | (intro _)
    | exact rfl | apply Keeps.fields)

theorem State.accrueAll_keeps {σ : State} {s : State} (hs : Keeps σ s) : Keeps σ (State.accrueAll s) := by
  unfold State.accrueAll
  repeat' (with_reducible
    first
    | assumption | apply State.each_keeps | apply State.accrue_keeps | (intro _) | exact rfl | apply Keeps.fields)

theorem State.settleAll_keeps {σ : State} {s : State} (hs : Keeps σ s) : Keeps σ (State.settleAll s) := by
  unfold State.settleAll
  repeat' (with_reducible
    first
    | assumption | apply State.each_keeps | apply State.settle_keeps | (intro _) | exact rfl | apply Keeps.fields)

theorem State.roundD_keeps {σ : State} {s : State} (c : Nat) (hs : Keeps σ s) : Keeps σ (State.roundD s c) := by
  unfold State.roundD
  repeat' (with_reducible
    first
    | assumption | apply State.updJsc_keeps | apply foldl_keeps | apply foldl_fst_keeps | extract_lets | split | (intro _)
    | exact rfl | apply Keeps.fields)

theorem State.countCmd_keeps {σ : State} {s : State} (c job layer op e ns waited done : Nat) (hs : Keeps σ s) :
    Keeps σ (State.countCmd s c job layer op e ns waited done) := by
  unfold State.countCmd
  repeat' (with_reducible
    first
    | assumption | apply State.each_keeps | apply State.drawNat_keeps | apply State.wr_keeps | extract_lets | split | (intro _)
    | (apply Keeps.fst_of; assumption) | (apply Keeps.snd_of; assumption) | (apply Keeps.some_of; assumption) | exact rfl
    | apply Keeps.fields)

theorem State.writeCpl_keeps {σ : State} {s : State} (c q : Nat) (r : List Byte) (hs : Keeps σ s) :
    Keeps σ (State.writeCpl s c q r) := by
  unfold State.writeCpl
  repeat' (with_reducible
    first
    | assumption | apply State.vwrite_keeps | apply State.wr_keeps | apply State.updJsc_keeps | extract_lets | split | (intro _)
    | exact rfl | apply Keeps.fields)

theorem State.deliver_keeps {σ : State} {s : State} (c : Nat) (cmd : Cmd) (e : Nat) (rec : List Byte) (hs : Keeps σ s) :
    Keeps σ (State.deliver s c cmd e rec) := by
  unfold State.deliver
  repeat' (with_reducible
    first
    | assumption | apply State.logErr_keeps | apply State.signalTok_keeps | apply State.updJsc_keeps | apply State.when_keeps
    | apply State.evtJob_keeps | apply State.writeCpl_keeps | extract_lets | split | (intro _) | exact rfl | apply Keeps.fields)

theorem State.flushCpl_keeps {σ : State} {s : State} (c q : Nat) (x0 : Nat) (hs : Keeps σ s) :
    Keeps σ (State.flushCpl s c q x0) := by
  induction x0 generalizing s c q with
  | zero =>
    unfold State.flushCpl
    repeat' (with_reducible
      first
      | assumption | apply State.logErr_keeps | apply State.signalTok_keeps | apply State.updJsc_keeps
      | apply State.writeCpl_keeps | extract_lets | split | (intro _) | (apply Keeps.fst_of; assumption) | exact rfl
      | apply Keeps.fields)
  | succ n ih =>
    unfold State.flushCpl
    repeat' (with_reducible
      first
      | assumption | apply ih | apply State.logErr_keeps | apply State.signalTok_keeps | apply State.updJsc_keeps
      | apply State.writeCpl_keeps | extract_lets | split | (intro _) | (apply Keeps.fst_of; assumption) | exact rfl
      | apply Keeps.fields)

theorem State.accountEngine_keeps {σ : State} {s : State} (c e : Nat) (hs : Keeps σ s) :
    Keeps σ (State.accountEngine s c e) := by
  unfold State.accountEngine
  repeat' (with_reducible
    first
    | assumption | apply State.addUse_keeps | apply State.setEngine_keeps | extract_lets | split | (intro _)
    | (apply Keeps.fst_of; assumption) | (apply Keeps.snd_of; assumption) | (apply Keeps.some_of; assumption) | exact rfl
    | apply Keeps.fields)

theorem State.freeEngine_keeps {σ : State} {s : State} (c e : Nat) (hs : Keeps σ s) : Keeps σ (State.freeEngine s c e) := by
  unfold State.freeEngine
  repeat' (with_reducible
    first
    | assumption | apply State.setEngine_keeps | (intro _) | exact rfl | apply Keeps.fields)

theorem State.leaveEngine_keeps {σ : State} {s : State} (c e : Nat) (cmd : Cmd) (hs : Keeps σ s) :
    Keeps σ (State.leaveEngine s c e cmd) := by
  unfold State.leaveEngine
  repeat' (with_reducible
    first
    | assumption | apply State.accountEngine_keeps | apply State.addUse_keeps | apply State.freeEngine_keeps
    | apply State.countCmd_keeps | extract_lets | (intro _) | exact rfl | apply Keeps.fields)

theorem State.countLate_keeps {σ : State} {s : State} (c : Nat) (cmd : Cmd) (hs : Keeps σ s) :
    Keeps σ (State.countLate s c cmd) := by
  unfold State.countLate
  repeat' (with_reducible
    first
    | assumption | apply State.addUse_keeps | apply State.updJsc_keeps | apply State.countCmd_keeps | extract_lets | (intro _)
    | exact rfl | apply Keeps.fields)

theorem State.retireCmd_keeps {σ : State} {s : State} (c : Nat) (cmd : Cmd) (hs : Keeps σ s) :
    Keeps σ (State.retireCmd s c cmd) := by
  unfold State.retireCmd
  repeat' (with_reducible
    first
    | assumption | apply State.updJsc_keeps | split | (intro _) | exact rfl | apply Keeps.fields)

theorem State.complete_keeps {σ : State} {s : State} (c : Nat) (cmd : Cmd) (status : Nat) (payload : List Byte)
    (quiet : Bool) (hs : Keeps σ s) :
    Keeps σ (State.complete s c cmd status payload quiet) := by
  unfold State.complete
  repeat' (with_reducible
    first
    | assumption | apply State.accrue_keeps | apply State.leaveEngine_keeps | apply State.countLate_keeps
    | apply State.retireCmd_keeps | apply State.watchHit_keeps | apply State.signalTok_keeps | apply State.deliver_keeps
    | apply State.settle_keeps | extract_lets | split | (intro _) | (apply Keeps.fst_of; assumption)
    | (apply Keeps.snd_of; assumption) | (apply Keeps.some_of; assumption) | exact rfl | apply Keeps.fields)

theorem State.handOver_keeps {σ : State} {s : State} (c : Nat) (cmd : Cmd) (hs : Keeps σ s) :
    Keeps σ (State.handOver s c cmd) := by
  unfold State.handOver
  repeat' (with_reducible
    first
    | assumption | apply State.accrue_keeps | apply State.accountEngine_keeps | apply State.freeEngine_keeps
    | apply State.updJsc_keeps | apply State.countCmd_keeps | apply State.settle_keeps | extract_lets | split | (intro _)
    | (apply Keeps.fst_of; assumption) | (apply Keeps.snd_of; assumption) | (apply Keeps.some_of; assumption) | exact rfl
    | apply Keeps.fields)

theorem State.setAside_keeps {σ : State} {s : State} (c e : Nat) (st : LaneState) (saved : Bool) (hs : Keeps σ s) :
    Keeps σ (State.setAside s c e st saved) := by
  unfold State.setAside
  repeat' (with_reducible
    first
    | assumption | apply State.accrue_keeps | apply State.accountEngine_keeps | apply State.setLane_keeps
    | apply State.freeEngine_keeps | apply State.settle_keeps | extract_lets | split | (intro _)
    | (apply Keeps.fst_of; assumption) | (apply Keeps.snd_of; assumption) | (apply Keeps.some_of; assumption) | exact rfl
    | apply Keeps.fields)

theorem State.setHead_keeps {σ : State} {s : State} (c j e : Nat) (f : LaneCmd → LaneCmd) (hs : Keeps σ s) :
    Keeps σ (State.setHead s c j e f) := by
  unfold State.setHead
  repeat' (with_reducible
    first
    | assumption | apply State.setLane_keeps | split | (intro _) | (apply Keeps.fst_of; assumption)
    | (apply Keeps.snd_of; assumption) | (apply Keeps.some_of; assumption) | exact rfl | apply Keeps.fields)

theorem State.popQueue_keeps {σ : State} {s : State} (c q : Nat) (cmd : Cmd) (hs : Keeps σ s) :
    Keeps σ (State.popQueue s c q cmd) := by
  unfold State.popQueue
  repeat' (with_reducible
    first
    | assumption | apply State.touch_keeps | apply State.wr_keeps | (intro _) | exact rfl | apply Keeps.fields)

theorem State.enterLane_keeps {σ : State} {s : State} (c e : Nat) (cmd : Cmd) (hs : Keeps σ s) :
    Keeps σ (State.enterLane s c e cmd) := by
  unfold State.enterLane
  repeat' (with_reducible
    first
    | assumption | apply State.setLane_keeps | (intro _) | exact rfl | apply Keeps.fields)

theorem State.countOut_keeps {σ : State} {s : State} (c : Nat) (cmd : Cmd) (hs : Keeps σ s) :
    Keeps σ (State.countOut s c cmd) := by
  unfold State.countOut
  repeat' (with_reducible
    first
    | assumption | apply State.updJsc_keeps | split | (intro _) | exact rfl | apply Keeps.fields)

theorem State.refuse_keeps {σ : State} {s : State} (c : Nat) (cmd : Cmd) (job status : Nat) (hs : Keeps σ s) :
    Keeps σ (State.refuse s c cmd job status) := by
  unfold State.refuse
  repeat' (with_reducible
    first
    | assumption | apply State.deliver_keeps | extract_lets | (intro _) | exact rfl | apply Keeps.fields)

theorem State.tearDown_keeps {σ : State} {s : State} (job cause : Nat) (hs : Keeps σ s) :
    Keeps σ (State.tearDown s job cause) := by
  unfold State.tearDown
  repeat' (with_reducible
    first
    | assumption | apply State.each_keeps | apply State.accrue_keeps | apply State.wrAt_keeps | apply State.updJsc_keeps | split
    | (intro _) | exact rfl | apply Keeps.fields)

theorem State.takeHead_keeps {σ : State} {s : State} (c q : Nat) (hs : Keeps σ s) : Keeps σ (State.takeHead s c q) := by
  unfold State.takeHead
  repeat' (with_reducible
    first
    | assumption | apply State.popQueue_keeps | apply State.bump_keeps | apply State.logErr_keeps | apply State.tearDown_keeps
    | apply State.refuse_keeps | apply State.countOut_keeps | apply State.complete_keeps | apply State.enterLane_keeps
    | extract_lets | split | (intro _) | (apply Keeps.fst_of; assumption) | (apply Keeps.snd_of; assumption)
    | (apply Keeps.some_of; assumption) | exact rfl | apply Keeps.fields)

theorem State.takePlan_keeps {σ : State} {s : State} (c j : Nat) (hs : Keeps σ s) : Keeps σ (State.takePlan s c j) := by
  unfold State.takePlan
  repeat' (with_reducible
    first
    | assumption | apply State.updJsc_keeps | apply State.bump_keeps | apply State.enterLane_keeps | split | (intro _)
    | (apply Keeps.fst_of; assumption) | (apply Keeps.snd_of; assumption) | (apply Keeps.some_of; assumption) | exact rfl
    | apply Keeps.fields)

theorem State.dispatch_keeps {σ : State} {s : State} (c : Nat) (hs : Keeps σ s) : Keeps σ (State.dispatch s c) := by
  unfold State.dispatch
  repeat' (with_reducible
    first
    | assumption | apply State.accrue_keeps | apply State.updJsc_keeps | apply State.takeHead_keeps | apply State.takePlan_keeps
    | apply State.settle_keeps | extract_lets | split | (intro _) | (apply Keeps.fst_of; assumption)
    | (apply Keeps.snd_of; assumption) | (apply Keeps.some_of; assumption) | exact rfl | apply Keeps.fields)

theorem execJscDispatch_keeps {σ : State} {s : State} (c : Nat) (hs : Keeps σ s) : KeepsNext σ (execJscDispatch c s) := by
  unfold execJscDispatch
  repeat' (with_reducible
    first
    | assumption | apply State.when_keeps | apply State.afterSnoops_keeps | apply State.dispatch_keeps | apply KeepsNext.next
    | (intro _) | exact rfl | apply Keeps.fields)

theorem execBarrier_keeps {σ : State} {s : State} (c q : Nat) (hs : Keeps σ s) : KeepsNext σ (execBarrier c q s) := by
  unfold execBarrier
  repeat' (with_reducible
    first
    | assumption | apply State.when_keeps | apply State.accrue_keeps | apply State.dispatch_keeps | apply KeepsNext.next
    | (intro _) | exact rfl | apply Keeps.fields)

theorem State.takeEngine_keeps {σ : State} {s : State} (c e j : Nat) (hs : Keeps σ s) : Keeps σ (State.takeEngine s c e j) := by
  unfold State.takeEngine
  repeat' (with_reducible
    first
    | assumption | apply State.setLane_keeps | apply State.setEngine_keeps | apply State.updJsc_keeps | extract_lets | split
    | (intro _) | (apply Keeps.fst_of; assumption) | (apply Keeps.snd_of; assumption) | (apply Keeps.some_of; assumption)
    | exact rfl | apply Keeps.fields)

theorem State.arrive_keeps {σ : State} {s : State} (c e : Nat) (cmd : Cmd) (hs : Keeps σ s) :
    Keeps σ (State.arrive s c e cmd) := by
  unfold State.arrive
  repeat' (with_reducible
    first
    | assumption | apply State.when_keeps | apply State.countOut_keeps | apply State.enterLane_keeps | (intro _) | exact rfl
    | apply Keeps.fields)

theorem State.occupy_keeps {σ : State} {s : State} (c e : Nat) (cmd : Cmd) (hs : Keeps σ s) :
    Keeps σ (State.occupy s c e cmd) := by
  unfold State.occupy
  repeat' (with_reducible
    first
    | assumption | apply State.accrue_keeps | apply State.arrive_keeps | apply State.when_keeps | apply State.takeEngine_keeps
    | apply State.settle_keeps | extract_lets | split | (intro _) | exact rfl | apply Keeps.fields)

theorem State.control_keeps {σ : State} {s : State} (c : Nat) (cmd : Cmd) (f : State → State) (hf : ∀
    (a0 : State), Keeps σ a0 → Keeps σ (f a0)) (hs : Keeps σ s) :
    Keeps σ (State.control s c cmd f) := by
  unfold State.control
  repeat' (with_reducible
    first
    | assumption | apply hf | apply State.occupy_keeps | apply State.when_keeps | extract_lets | (intro _) | exact rfl
    | apply Keeps.fields)

theorem State.engineStart_keeps {σ : State} {s : State} (c e : Nat) (hs : Keeps σ s) : Keeps σ (State.engineStart s c e) := by
  unfold State.engineStart
  repeat' (with_reducible
    first
    | assumption | apply State.accrue_keeps | apply State.wake_keeps | apply State.takeEngine_keeps | apply State.settle_keeps
    | extract_lets | split | (intro _) | (apply Keeps.fst_of; assumption) | (apply Keeps.snd_of; assumption)
    | (apply Keeps.some_of; assumption) | exact rfl | apply Keeps.fields)

theorem State.askPreempt_keeps {σ : State} {s : State} (c e : Nat) (hs : Keeps σ s) : Keeps σ (State.askPreempt s c e) := by
  unfold State.askPreempt
  repeat' (with_reducible
    first
    | assumption | apply State.when_keeps | apply State.setEngine_keeps | apply State.bump_keeps | (intro _) | exact rfl
    | apply Keeps.fields)

theorem execDeficitUpdate_keeps {σ : State} {s : State} (c : Nat) (hs : Keeps σ s) : KeepsNext σ (execDeficitUpdate c s) := by
  unfold execDeficitUpdate
  repeat' (with_reducible
    first
    | assumption | apply State.when_keeps | apply State.passToNow_keeps | apply State.accrue_keeps | apply State.roundD_keeps
    | apply State.updJsc_keeps | apply State.each_keeps | apply State.askPreempt_keeps | apply KeepsNext.next | extract_lets
    | (intro _) | exact rfl | apply Keeps.fields)

theorem execTokenSet_keeps {σ : State} {s : State} (c : Nat) (cmd : Cmd) (hs : Keeps σ s) :
    KeepsNext σ (execTokenSet c cmd s) := by
  unfold execTokenSet
  repeat' (with_reducible
    first
    | assumption | apply State.control_keeps | apply State.accrue_keeps | apply State.wr_keeps | apply State.complete_keeps
    | apply KeepsNext.next | extract_lets | split | (intro _) | exact rfl | apply Keeps.fields)

theorem execCounterRead_keeps {σ : State} {s : State} (c : Nat) (cmd : Cmd) (hs : Keeps σ s) :
    KeepsNext σ (execCounterRead c cmd s) := by
  unfold execCounterRead
  repeat' (with_reducible
    first
    | assumption | apply State.control_keeps | apply State.complete_keeps | apply KeepsNext.next | extract_lets | split
    | (intro _) | exact rfl | apply Keeps.fields)

theorem execTokenAssign_keeps {σ : State} {s : State} (rq : Requester) (c : Nat) (v : Word) (hs : Keeps σ s) :
    KeepsNext σ (execTokenAssign rq c v s) := by
  unfold execTokenAssign
  repeat' (with_reducible
    first
    | assumption | apply State.onWrite_keeps | apply State.accrue_keeps | apply State.store_keeps | apply State.wr_keeps
    | apply State.settle_keeps | apply KeepsNext.next | extract_lets | (intro _) | exact rfl | apply Keeps.fields)

theorem State.ctxStore_keeps {σ : State} {s : State} (c j off : Nat) (v : Word) (hs : Keeps σ s) :
    Keeps σ (State.ctxStore s c j off v) := by
  unfold State.ctxStore
  repeat' (with_reducible
    first
    | assumption | apply State.storeActive_keeps | (intro _) | exact rfl | apply Keeps.fields)

theorem State.evqRestart_keeps {σ : State} {s : State} (old : State) (c j : Nat) (hs : Keeps σ s) :
    Keeps σ (State.evqRestart s old c j) := by
  unfold State.evqRestart
  repeat' (with_reducible
    first
    | assumption | apply State.wr_keeps | split | (intro _) | exact rfl | apply Keeps.fields)

theorem State.jobEnable_keeps {σ : State} {s : State} (c j : Nat) (v : Word) (hs : Keeps σ s) :
    Keeps σ (State.jobEnable s c j v) := by
  unfold State.jobEnable
  repeat' (with_reducible
    first
    | assumption | apply State.logIgnored_keeps | apply State.ctxStore_keeps | apply State.wrAt_keeps | extract_lets | split
    | (intro _) | exact rfl | apply Keeps.fields)

theorem State.jobDisable_keeps {σ : State} {s : State} (c j : Nat) (v : Word) (hs : Keeps σ s) :
    Keeps σ (State.jobDisable s c j v) := by
  unfold State.jobDisable
  repeat' (with_reducible
    first
    | assumption | apply State.logIgnored_keeps | apply State.wrAt_keeps | apply State.ctxStore_keeps | split | (intro _)
    | exact rfl | apply Keeps.fields)

theorem State.ctxWrite_keeps {σ : State} {s : State} (c j off : Nat) (v : Word) (hs : Keeps σ s) :
    Keeps σ (State.ctxWrite s c j off v) := by
  unfold State.ctxWrite
  repeat' (with_reducible
    first
    | assumption | apply State.jobEnable_keeps | apply State.jobDisable_keeps | apply State.logIgnored_keeps
    | apply State.ctxStore_keeps | apply State.evqRestart_keeps | split | (intro _) | exact rfl | apply Keeps.fields)

theorem execJobContextWrite_keeps {σ : State} {s : State} (rq : Requester) (c off : Nat) (v : Word) (hs : Keeps σ s) :
    KeepsNext σ (execJobContextWrite rq c off v s) := by
  unfold execJobContextWrite
  repeat' (with_reducible
    first
    | assumption | apply State.withWrite_keeps | apply State.accrue_keeps | apply State.ctxWrite_keeps
    | apply State.settle_keeps | apply KeepsNext.next | split | (intro _) | exact rfl | apply Keeps.fields)

theorem State.clearJob_keeps {σ : State} {s : State} (c j : Nat) (hs : Keeps σ s) : Keeps σ (State.clearJob s c j) := by
  unfold State.clearJob
  repeat' (with_reducible
    first
    | assumption | apply State.logIgnored_keeps | apply State.wrAt_keeps | apply State.updJsc_keeps | apply foldl_keeps
    | apply foldl_fst_keeps | split | (intro _) | exact rfl | apply Keeps.fields)

end Sys2Proof.Machine
end

