-- ==== Sys2Proof/Laws/KeepsPages.lean ====
section
/-! SUPPORT. Every operation of Machine/Pages.lean keeps what `Keeps` says. -/
namespace Sys2Proof.Machine

theorem State.updPgm_keeps {σ : State} {s : State} (c : Nat) (f : PgmCh → PgmCh) (hs : Keeps σ s) :
    Keeps σ (State.updPgm s c f) := by
  unfold State.updPgm
  repeat' (with_reducible
    first
    | assumption | apply State.updCh_keeps | (intro _) | exact rfl | apply Keeps.fields)

theorem State.writeRanges_keeps {σ : State} {s : State} (job : Nat) (x0 : List (Nat × Nat)) (x1 : List Byte) (hs : Keeps σ s) :
    Keeps σ (State.writeRanges s job x0 x1) := by
  induction x0 generalizing s job x1 with
  | nil =>
    unfold State.writeRanges
    repeat' (with_reducible
      first
      | assumption | apply State.vwrite_keeps)
  | cons a l ih =>
    unfold State.writeRanges
    repeat' (with_reducible
      first
      | assumption | apply ih | apply State.vwrite_keeps)

theorem State.imgWrite_keeps {σ : State} {s : State} (p : Place) (off : Nat) (bs : List Byte) (job : Nat) (hs : Keeps σ s) :
    Keeps σ (State.imgWrite s p off bs job) := by
  unfold State.imgWrite
  repeat' (with_reducible
    first
    | assumption | apply State.writeRanges_keeps | (intro _) | exact rfl | apply Keeps.fields)

theorem State.pgmLayout_keeps {σ : State} {s : State} (c : Nat) (hs : Keeps σ s) : Keeps σ (State.pgmLayout s c) := by
  unfold State.pgmLayout
  repeat' (with_reducible
    first
    | assumption | apply State.updPgm_keeps | apply State.wr_keeps | extract_lets | (intro _) | exact rfl | apply Keeps.fields)

theorem State.freeAdd_keeps {σ : State} {s : State} (c n : Nat) (hs : Keeps σ s) : Keeps σ (State.freeAdd s c n) := by
  unfold State.freeAdd
  repeat' (with_reducible
    first
    | assumption | apply State.wr_keeps | (intro _) | exact rfl | apply Keeps.fields)

theorem State.freeSub_keeps {σ : State} {s : State} (c n : Nat) (hs : Keeps σ s) : Keeps σ (State.freeSub s c n) := by
  unfold State.freeSub
  repeat' (with_reducible
    first
    | assumption | apply State.wr_keeps | apply State.when_keeps | apply State.evt_keeps | extract_lets | (intro _) | exact rfl
    | apply Keeps.fields)

theorem State.charge_keeps {σ : State} {s : State} (c t n : Nat) (hs : Keeps σ s) : Keeps σ (State.charge s c t n) := by
  unfold State.charge
  repeat' (with_reducible
    first
    | assumption | apply State.wr_keeps | (intro _) | exact rfl | apply Keeps.fields)

theorem State.uncharge_keeps {σ : State} {s : State} (c t n : Nat) (hs : Keeps σ s) : Keeps σ (State.uncharge s c t n) := by
  unfold State.uncharge
  repeat' (with_reducible
    first
    | assumption | apply State.wr_keeps | (intro _) | exact rfl | apply Keeps.fields)

theorem State.pagesFreeReg_keeps {σ : State} {s : State} (c : Nat) (hs : Keeps σ s) : Keeps σ (State.pagesFreeReg s c) := by
  unfold State.pagesFreeReg
  repeat' (with_reducible
    first
    | assumption | apply State.wr_keeps | (intro _) | exact rfl | apply Keeps.fields)

theorem State.takeSlot_keeps {σ : State} {s : State} (c : Nat) (hs : Keeps σ s) : Keeps σ (State.takeSlot s c).1 := by
  unfold State.takeSlot
  repeat' (with_reducible
    first
    | assumption | apply State.drawNat_keeps | apply State.updPgm_keeps | apply State.pagesFreeReg_keeps | extract_lets | split
    | (intro _) | (apply Keeps.fst_of; assumption) | (apply Keeps.snd_of; assumption) | (apply Keeps.some_of; assumption)
    | exact rfl | apply Keeps.fields)

theorem State.giveSlot_keeps {σ : State} {s : State} (c i : Nat) (hs : Keeps σ s) : Keeps σ (State.giveSlot s c i) := by
  unfold State.giveSlot
  repeat' (with_reducible
    first
    | assumption | apply State.updPgm_keeps | apply State.pagesFreeReg_keeps | apply State.freeAdd_keeps | (intro _) | exact rfl
    | apply Keeps.fields)

theorem State.tblFreeReg_keeps {σ : State} {s : State} (c : Nat) (hs : Keeps σ s) : Keeps σ (State.tblFreeReg s c) := by
  unfold State.tblFreeReg
  repeat' (with_reducible
    first
    | assumption | apply State.wr_keeps | (intro _) | exact rfl | apply Keeps.fields)

theorem State.borrowSlot_keeps {σ : State} {s : State} (c : Nat) (use : List Nat) (hs : Keeps σ s) :
    Keeps σ (State.borrowSlot s c use).1 := by
  unfold State.borrowSlot
  repeat' (with_reducible
    first
    | assumption | apply State.takeSlot_keeps | apply State.updPgm_keeps | apply State.freeSub_keeps | split | (intro _)
    | (apply Keeps.fst_of; assumption) | (apply Keeps.snd_of; assumption) | (apply Keeps.some_of; assumption) | exact rfl
    | apply Keeps.fields)

theorem State.takeUnit_keeps {σ : State} {s : State} (c t : Nat) (hs : Keeps σ s) : Keeps σ (State.takeUnit s c t).1 := by
  unfold State.takeUnit
  repeat' (with_reducible
    first
    | assumption | apply State.drawNat_keeps | apply State.updPgm_keeps | apply State.tblFreeReg_keeps
    | apply State.borrowSlot_keeps | apply State.evtPriv_keeps | extract_lets | split | (intro _)
    | (apply Keeps.fst_of; assumption) | (apply Keeps.snd_of; assumption) | (apply Keeps.some_of; assumption) | exact rfl
    | apply Keeps.fields)

theorem State.takeRoot_keeps {σ : State} {s : State} (c t : Nat) (hs : Keeps σ s) : Keeps σ (State.takeRoot s c t).1 := by
  unfold State.takeRoot
  repeat' (with_reducible
    first
    | assumption | apply State.drawNat_keeps | apply State.updPgm_keeps | apply State.tblFreeReg_keeps
    | apply State.borrowSlot_keeps | apply foldl_keeps | apply foldl_fst_keeps | extract_lets | split | (intro _)
    | (apply Keeps.fst_of; assumption) | (apply Keeps.snd_of; assumption) | (apply Keeps.some_of; assumption) | exact rfl
    | apply Keeps.fields)

theorem State.returnBorrowed_keeps {σ : State} {s : State} (c : Nat) (hs : Keeps σ s) : Keeps σ (State.returnBorrowed s c) := by
  unfold State.returnBorrowed
  repeat' (with_reducible
    first
    | assumption | apply State.each_keeps | apply State.updPgm_keeps | apply State.giveSlot_keeps | extract_lets | (intro _)
    | exact rfl | apply Keeps.fields)

theorem State.setPte_keeps {σ : State} {s : State} (c k : Nat) (p : Pte) (hs : Keeps σ s) : Keeps σ (State.setPte s c k p) := by
  unfold State.setPte
  repeat' (with_reducible
    first
    | assumption | apply State.updPgm_keeps | apply State.when_keeps | apply State.vwrite_keeps | extract_lets | (intro _)
    | exact rfl | apply Keeps.fields)

theorem State.writeL1_keeps {σ : State} {s : State} (c t i unit : Nat) (hs : Keeps σ s) :
    Keeps σ (State.writeL1 s c t i unit) := by
  unfold State.writeL1
  repeat' (with_reducible
    first
    | assumption | apply State.vwrite_keeps | extract_lets | split | (intro _) | exact rfl | apply Keeps.fields)

theorem State.ensureL2_keeps {σ : State} {s : State} (c k : Nat) (hs : Keeps σ s) : Keeps σ (State.ensureL2 s c k).1 := by
  unfold State.ensureL2
  repeat' (with_reducible
    first
    | assumption | apply State.takeUnit_keeps | apply State.dzero_keeps | apply State.updPgm_keeps | apply State.writeL1_keeps
    | extract_lets | split | (intro _) | (apply Keeps.fst_of; assumption) | (apply Keeps.snd_of; assumption)
    | (apply Keeps.some_of; assumption) | exact rfl | apply Keeps.fields)

theorem State.newTable_keeps {σ : State} {s : State} (c : Nat) (owner : TblOwner) (job layers stride userTag : Nat)
    (hs : Keeps σ s) :
    Keeps σ (State.newTable s c owner job layers stride userTag).1 := by
  unfold State.newTable
  repeat' (with_reducible
    first
    | assumption | apply State.takeRoot_keeps | apply State.updPgm_keeps | apply State.dzero_keeps | apply State.vwrite_keeps
    | extract_lets | split | (intro _) | (apply Keeps.fst_of; assumption) | (apply Keeps.snd_of; assumption)
    | (apply Keeps.some_of; assumption) | exact rfl | apply Keeps.fields)

theorem State.reclaimTable_keeps {σ : State} {s : State} (c t : Nat) (hs : Keeps σ s) : Keeps σ (State.reclaimTable s c t) := by
  unfold State.reclaimTable
  repeat' (with_reducible
    first
    | assumption | apply State.updPgm_keeps | apply State.tblFreeReg_keeps | apply State.returnBorrowed_keeps | extract_lets
    | split | (intro _) | exact rfl | apply Keeps.fields)

theorem State.placeFree_keeps {σ : State} {s : State} (c : Nat) (p : Place) (poisoned : Bool) (hs : Keeps σ s) :
    Keeps σ (State.placeFree s c p poisoned) := by
  unfold State.placeFree
  repeat' (with_reducible
    first
    | assumption | apply State.updPgm_keeps | apply State.giveSlot_keeps | extract_lets | split | (intro _)
    | (apply Keeps.fst_of; assumption) | (apply Keeps.snd_of; assumption) | (apply Keeps.some_of; assumption) | exact rfl
    | apply Keeps.fields)

theorem State.freeImage_keeps {σ : State} {s : State} (c : Nat) (p : Place) (poisoned : Bool) (hs : Keeps σ s) :
    Keeps σ (State.freeImage s c p poisoned) := by
  unfold State.freeImage
  repeat' (with_reducible
    first
    | assumption | apply State.placeFree_keeps | apply State.updPgm_keeps | extract_lets | split | (intro _) | exact rfl
    | apply Keeps.fields)

theorem State.drainRelease_keeps {σ : State} {s : State} (c a : Nat) (hs : Keeps σ s) : Keeps σ (State.drainRelease s c a) := by
  unfold State.drainRelease
  repeat' (with_reducible
    first
    | assumption | apply State.updPgm_keeps | apply State.placeFree_keeps | split | (intro _) | (apply Keeps.fst_of; assumption)
    | (apply Keeps.snd_of; assumption) | (apply Keeps.some_of; assumption) | exact rfl | apply Keeps.fields)

theorem State.incRef_keeps {σ : State} {s : State} (c k : Nat) (hs : Keeps σ s) : Keeps σ (State.incRef s c k) := by
  unfold State.incRef
  repeat' (with_reducible
    first
    | assumption | apply State.setPte_keeps | (intro _) | exact rfl | apply Keeps.fields)

theorem State.decRef_keeps {σ : State} {s : State} (c k : Nat) (hs : Keeps σ s) : Keeps σ (State.decRef s c k) := by
  unfold State.decRef
  repeat' (with_reducible
    first
    | assumption | apply State.setPte_keeps | apply State.freeImage_keeps | extract_lets | split | (intro _) | exact rfl
    | apply Keeps.fields)

theorem State.dropPte_keeps {σ : State} {s : State} (c k : Nat) (hs : Keeps σ s) : Keeps σ (State.dropPte s c k) := by
  unfold State.dropPte
  repeat' (with_reducible
    first
    | assumption | apply State.setPte_keeps | apply State.decRef_keeps | extract_lets | split | (intro _) | exact rfl
    | apply Keeps.fields)

theorem State.releaseTable_keeps {σ : State} {s : State} (c t : Nat) (hs : Keeps σ s) : Keeps σ (State.releaseTable s c t) := by
  unfold State.releaseTable
  repeat' (with_reducible
    first
    | assumption | apply State.each_keeps | apply State.dropPte_keeps | apply State.updPgm_keeps
    | apply State.reclaimTable_keeps | split | (intro _) | exact rfl | apply Keeps.fields)

theorem State.updReq_keeps {σ : State} {s : State} (c i : Nat) (f : ReqEntry → ReqEntry) (hs : Keeps σ s) :
    Keeps σ (State.updReq s c i f) := by
  unfold State.updReq
  repeat' (with_reducible
    first
    | assumption | apply State.updCh_keeps | (intro _) | exact rfl | apply Keeps.fields)

theorem State.allocPage_keeps {σ : State} {s : State} (c i : Nat) (beyond : Bool) (hs : Keeps σ s) :
    Keeps σ (State.allocPage s c i beyond).1 := by
  unfold State.allocPage
  repeat' (with_reducible
    first
    | assumption | apply State.takeSlot_keeps | apply State.updReq_keeps | apply State.freeSub_keeps | apply State.charge_keeps
    | extract_lets | split | (intro _) | (apply Keeps.fst_of; assumption) | (apply Keeps.snd_of; assumption)
    | (apply Keeps.some_of; assumption) | exact rfl | apply Keeps.fields)

theorem State.spoilImage_keeps {σ : State} {s : State} (c k : Nat) (hs : Keeps σ s) : Keeps σ (State.spoilImage s c k) := by
  unfold State.spoilImage
  repeat' (with_reducible
    first
    | assumption | apply State.when_keeps | apply State.each_keeps | apply State.vmark_keeps | extract_lets | split | (intro _)
    | (apply Keeps.fst_of; assumption) | (apply Keeps.snd_of; assumption) | (apply Keeps.some_of; assumption) | exact rfl
    | apply Keeps.fields)

theorem State.poisonPage_keeps {σ : State} {s : State} (c k : Nat) (hs : Keeps σ s) : Keeps σ (State.poisonPage s c k) := by
  unfold State.poisonPage
  repeat' (with_reducible
    first
    | assumption | apply State.setPte_keeps | apply State.spoilImage_keeps | apply State.bump_keeps | apply State.evtJob_keeps
    | extract_lets | split | (intro _) | (apply Keeps.fst_of; assumption) | (apply Keeps.snd_of; assumption)
    | (apply Keeps.some_of; assumption) | exact rfl | apply Keeps.fields)

theorem State.setHandle_keeps {σ : State} {s : State} (c i : Nat) (h : Handle) (hs : Keeps σ s) :
    Keeps σ (State.setHandle s c i h) := by
  unfold State.setHandle
  repeat' (with_reducible
    first
    | assumption | apply State.updPgm_keeps | apply State.wr_keeps | extract_lets | (intro _) | exact rfl | apply Keeps.fields)

theorem State.unhold_keeps {σ : State} {s : State} (c i : Nat) (hs : Keeps σ s) : Keeps σ (State.unhold s c i) := by
  unfold State.unhold
  repeat' (with_reducible
    first
    | assumption | apply State.updReq_keeps | apply State.uncharge_keeps | split | (intro _) | exact rfl | apply Keeps.fields)

theorem State.slotLeft_keeps {σ : State} {s : State} (c k : Nat) (hs : Keeps σ s) : Keeps σ (State.slotLeft s c k) := by
  unfold State.slotLeft
  repeat' (with_reducible
    first
    | assumption | apply State.unhold_keeps | apply State.setHandle_keeps | apply State.uncharge_keeps | extract_lets | split
    | (intro _) | (apply Keeps.fst_of; assumption) | (apply Keeps.snd_of; assumption) | (apply Keeps.some_of; assumption)
    | exact rfl | apply Keeps.fields)

theorem State.slotCame_keeps {σ : State} {s : State} (c k : Nat) (hs : Keeps σ s) : Keeps σ (State.slotCame s c k) := by
  unfold State.slotCame
  repeat' (with_reducible
    first
    | assumption | apply State.updReq_keeps | apply State.charge_keeps | apply State.setHandle_keeps | extract_lets | split
    | (intro _) | (apply Keeps.fst_of; assumption) | (apply Keeps.snd_of; assumption) | (apply Keeps.some_of; assumption)
    | exact rfl | apply Keeps.fields)

theorem State.passHome_keeps {σ : State} {s : State} (c k : Nat) (hs : Keeps σ s) : Keeps σ (State.passHome s c k) := by
  unfold State.passHome
  repeat' (with_reducible
    first
    | assumption | apply State.setPte_keeps | apply State.updPgm_keeps | apply State.each_keeps | apply State.when_keeps
    | apply State.slotLeft_keeps | apply State.slotCame_keeps | extract_lets | split | (intro _)
    | (apply Keeps.fst_of; assumption) | (apply Keeps.snd_of; assumption) | (apply Keeps.some_of; assumption) | exact rfl
    | apply Keeps.fields)

theorem execPrefixAlloc_keeps {σ : State} {s : State} (c : Nat) (cmd : Cmd) (hs : Keeps σ s) :
    KeepsNext σ (execPrefixAlloc c cmd s) := by
  unfold execPrefixAlloc
  repeat' (with_reducible
    first
    | assumption | apply State.control_keeps | apply State.complete_keeps | apply State.setHandle_keeps | apply KeepsNext.next
    | extract_lets | split | (intro _) | (apply Keeps.fst_of; assumption) | (apply Keeps.snd_of; assumption)
    | (apply Keeps.some_of; assumption) | exact rfl | apply Keeps.fields)

theorem execPrefixFree_keeps {σ : State} {s : State} (c : Nat) (cmd : Cmd) (hs : Keeps σ s) :
    KeepsNext σ (execPrefixFree c cmd s) := by
  unfold execPrefixFree
  repeat' (with_reducible
    first
    | assumption | apply State.control_keeps | apply State.setHandle_keeps | apply State.complete_keeps | apply KeepsNext.next
    | extract_lets | split | (intro _) | exact rfl | apply Keeps.fields)

theorem execPrefixQuery_keeps {σ : State} {s : State} (c : Nat) (cmd : Cmd) (hs : Keeps σ s) :
    KeepsNext σ (execPrefixQuery c cmd s) := by
  unfold execPrefixQuery
  repeat' (with_reducible
    first
    | assumption | apply State.control_keeps | apply State.complete_keeps | apply KeepsNext.next | extract_lets | split
    | (intro _) | exact rfl | apply Keeps.fields)

theorem State.linkPage_keeps {σ : State} {s : State} (c t ht n layer j : Nat) (hs : Keeps σ s) :
    Keeps σ (State.linkPage s c t ht n layer j) := by
  unfold State.linkPage
  repeat' (with_reducible
    first
    | assumption | apply State.ensureL2_keeps | apply State.setPte_keeps | apply State.incRef_keeps | extract_lets | split
    | (intro _) | (apply Keeps.fst_of; assumption) | (apply Keeps.snd_of; assumption) | (apply Keeps.some_of; assumption)
    | exact rfl | apply Keeps.fields)

theorem State.linkPrefix_keeps {σ : State} {s : State} (c t h n layers : Nat) (hs : Keeps σ s) :
    Keeps σ (State.linkPrefix s c t h n layers) := by
  unfold State.linkPrefix
  repeat' (with_reducible
    first
    | assumption | apply State.each_keeps | apply State.linkPage_keeps | extract_lets | split | (intro _) | exact rfl
    | apply Keeps.fields)

theorem State.releaseHandleTable_keeps {σ : State} {s : State} (c i : Nat) (hs : Keeps σ s) :
    Keeps σ (State.releaseHandleTable s c i) := by
  unfold State.releaseHandleTable
  repeat' (with_reducible
    first
    | assumption | apply State.releaseTable_keeps | apply State.uncharge_keeps | extract_lets | (intro _) | exact rfl
    | apply Keeps.fields)

theorem State.adopt_keeps {σ : State} {s : State} (c i h : Nat) (hs : Keeps σ s) : Keeps σ (State.adopt s c i h) := by
  unfold State.adopt
  repeat' (with_reducible
    first
    | assumption | apply State.releaseHandleTable_keeps | apply State.setHandle_keeps | apply State.updPgm_keeps
    | apply State.uncharge_keeps | apply State.freeAdd_keeps | extract_lets | (intro _) | exact rfl | apply Keeps.fields)

theorem State.releaseReq_keeps {σ : State} {s : State} (c i : Nat) (hs : Keeps σ s) : Keeps σ (State.releaseReq s c i) := by
  unfold State.releaseReq
  repeat' (with_reducible
    first
    | assumption | apply State.adopt_keeps | apply State.releaseTable_keeps | apply State.uncharge_keeps
    | apply State.freeAdd_keeps | apply State.updReq_keeps | extract_lets | split | (intro _) | exact rfl | apply Keeps.fields)

theorem State.releaseHandle_keeps {σ : State} {s : State} (c i : Nat) (hs : Keeps σ s) :
    Keeps σ (State.releaseHandle s c i) := by
  unfold State.releaseHandle
  repeat' (with_reducible
    first
    | assumption | apply State.releaseHandleTable_keeps | apply State.setHandle_keeps | extract_lets | (intro _) | exact rfl
    | apply Keeps.fields)

theorem State.freeHandles_keeps {σ : State} {s : State} (c : Nat) (hs : Keeps σ s) : Keeps σ (State.freeHandles s c) := by
  unfold State.freeHandles
  repeat' (with_reducible
    first
    | assumption | apply State.each_keeps | apply State.setHandle_keeps | extract_lets | (intro _) | exact rfl
    | apply Keeps.fields)

theorem State.evictPage_keeps {σ : State} {s : State} (c i k : Nat) (hs : Keeps σ s) : Keeps σ (State.evictPage s c i k) := by
  unfold State.evictPage
  repeat' (with_reducible
    first
    | assumption | apply State.dropPte_keeps | apply State.bump_keeps | apply State.updReq_keeps | apply State.uncharge_keeps
    | extract_lets | split | (intro _) | exact rfl | apply Keeps.fields)

theorem State.evictReq_keeps {σ : State} {s : State} (c i : Nat) (hs : Keeps σ s) : Keeps σ (State.evictReq s c i) := by
  unfold State.evictReq
  repeat' (with_reducible
    first
    | assumption | apply State.each_keeps | apply State.evictPage_keeps | extract_lets | split | (intro _) | exact rfl
    | apply Keeps.fields)

theorem State.scrubSlot_keeps {σ : State} {s : State} (c i : Nat) (hs : Keeps σ s) : Keeps σ (State.scrubSlot s c i) := by
  unfold State.scrubSlot
  repeat' (with_reducible
    first
    | assumption | apply State.drawBool_keeps | apply State.updPgm_keeps | apply State.bump_keeps | apply State.evtPriv_keeps
    | apply State.vwrite_keeps | apply State.giveSlot_keeps | extract_lets | split | (intro _)
    | (apply Keeps.fst_of; assumption) | (apply Keeps.snd_of; assumption) | (apply Keeps.some_of; assumption) | exact rfl
    | apply Keeps.fields)

theorem State.scrubAll_keeps {σ : State} {s : State} (c : Nat) (hs : Keeps σ s) : Keeps σ (State.scrubAll s c) := by
  unfold State.scrubAll
  repeat' (with_reducible
    first
    | assumption | apply State.each_keeps | apply State.scrubSlot_keeps | split | (intro _) | exact rfl | apply Keeps.fields)

theorem State.reclaimAll_keeps {σ : State} {s : State} (c : Nat) (hs : Keeps σ s) : Keeps σ (State.reclaimAll s c) := by
  unfold State.reclaimAll
  repeat' (with_reducible
    first
    | assumption | apply State.each_keeps | apply State.reclaimTable_keeps | (intro _) | exact rfl | apply Keeps.fields)

end Sys2Proof.Machine
end

