-- ==== Sys2Proof/Laws/KeepsClock.lean ====
section
/-! SUPPORT. Every operation of Machine/Clock.lean keeps what `Keeps` says. -/
namespace Sys2Proof.Machine

theorem State.checkRealign_keeps {σ : State} {s : State} (hs : Keeps σ s) : Keeps σ (State.checkRealign s) := by
  unfold State.checkRealign
  repeat' (with_reducible
    first
    | assumption | apply State.when_keeps | apply State.setTim_keeps | (intro _) | exact rfl | apply Keeps.fields)

theorem State.stepTod_keeps {σ : State} {s : State} (d : Int) (hs : Keeps σ s) : Keeps σ (State.stepTod s d) := by
  unfold State.stepTod
  repeat' (with_reducible
    first
    | assumption | apply State.setTim_keeps | apply State.checkRealign_keeps | extract_lets | split | (intro _) | exact rfl
    | apply Keeps.fields)

theorem State.doTodSet_keeps {σ : State} {s : State} (alsoStep : Bool) (hs : Keeps σ s) :
    Keeps σ (State.doTodSet s alsoStep) := by
  unfold State.doTodSet
  repeat' (with_reducible
    first
    | assumption | apply State.stepTod_keeps | apply State.evt_keeps | split | (intro _) | exact rfl | apply Keeps.fields)

theorem execTodSet_keeps {σ : State} {s : State} (rq : Requester) (alsoStep : Bool) (hs : Keeps σ s) :
    KeepsNext σ (execTodSet rq alsoStep s) := by
  unfold execTodSet
  repeat' (with_reducible
    first
    | assumption | apply State.onWrite_keeps | apply State.doTodSet_keeps | apply KeepsNext.next | split | (intro _) | exact rfl
    | apply Keeps.fields)

theorem execTodStep_keeps {σ : State} {s : State} (rq : Requester) (hs : Keeps σ s) : KeepsNext σ (execTodStep rq s) := by
  unfold execTodStep
  repeat' (with_reducible
    first
    | assumption | apply State.onWrite_keeps | apply State.stepTod_keeps | apply State.evt_keeps | apply KeepsNext.next
    | (intro _) | exact rfl | apply Keeps.fields)

theorem State.sideRead_keeps {σ : State} {s : State} (rq : Requester) (p : Page) (v : State → Word) (latch : State → State)
    (hlatch : ∀ (a0 : State), Keeps σ a0 → Keeps σ (latch a0)) (hs : Keeps σ s) :
    Keeps σ (State.sideRead s rq p v latch) := by
  unfold State.sideRead
  repeat' (with_reducible
    first
    | assumption | apply hlatch | apply State.emit_keeps | apply State.ioUr_keeps | split | (intro _) | exact rfl
    | apply Keeps.fields)

theorem State.latchSec_keeps {σ : State} {s : State} (r : RegId) (t : Nat) (hs : Keeps σ s) :
    Keeps σ (State.latchSec s r t) := by
  unfold State.latchSec
  repeat' (with_reducible
    first
    | assumption | apply State.wr_keeps | apply State.wrAt_keeps | (intro _) | exact rfl | apply Keeps.fields)

theorem execTodNsRead_keeps {σ : State} {s : State} (rq : Requester) (hs : Keeps σ s) : KeepsNext σ (execTodNsRead rq s) := by
  unfold execTodNsRead
  repeat' (with_reducible
    first
    | assumption | apply State.sideRead_keeps | apply State.latchSec_keeps | apply KeepsNext.next | (intro _) | exact rfl
    | apply Keeps.fields)

theorem execCadPhaseRead_keeps {σ : State} {s : State} (rq : Requester) (hs : Keeps σ s) :
    KeepsNext σ (execCadPhaseRead rq s) := by
  unfold execCadPhaseRead
  repeat' (with_reducible
    first
    | assumption | apply State.sideRead_keeps | apply State.wr64_keeps | apply KeepsNext.next | (intro _) | exact rfl
    | apply Keeps.fields)

theorem execPpsInNsRead_keeps {σ : State} {s : State} (rq : Requester) (hs : Keeps σ s) :
    KeepsNext σ (execPpsInNsRead rq s) := by
  unfold execPpsInNsRead
  repeat' (with_reducible
    first
    | assumption | apply State.sideRead_keeps | apply State.latchSec_keeps | apply KeepsNext.next | (intro _) | exact rfl
    | apply Keeps.fields)

theorem State.checkDrift_keeps {σ : State} {s : State} (hs : Keeps σ s) : Keeps σ (State.checkDrift s) := by
  unfold State.checkDrift
  repeat' (with_reducible
    first
    | assumption | apply State.when_keeps | apply State.setTim_keeps | apply State.evt_keeps | (intro _) | exact rfl
    | apply Keeps.fields)

theorem State.enterLocked_keeps {σ : State} {s : State} (hs : Keeps σ s) : Keeps σ (State.enterLocked s) := by
  unfold State.enterLocked
  repeat' (with_reducible
    first
    | assumption | apply State.setTim_keeps | apply State.evt_keeps | (intro _) | exact rfl | apply Keeps.fields)

theorem State.enterHoldover_keeps {σ : State} {s : State} (hs : Keeps σ s) : Keeps σ (State.enterHoldover s) := by
  unfold State.enterHoldover
  repeat' (with_reducible
    first
    | assumption | apply State.setTim_keeps | apply State.evt_keeps | (intro _) | exact rfl | apply Keeps.fields)

theorem State.servoReport_keeps {σ : State} {s : State} (off : Int) (hs : Keeps σ s) : Keeps σ (State.servoReport s off) := by
  unfold State.servoReport
  repeat' (with_reducible
    first
    | assumption | apply State.setTim_keeps | apply State.enterLocked_keeps | apply State.checkDrift_keeps
    | apply State.enterHoldover_keeps | extract_lets | split | (intro _) | exact rfl | apply Keeps.fields)

theorem execServoOffset_keeps {σ : State} {s : State} (rq : Requester) (v : Word) (hs : Keeps σ s) :
    KeepsNext σ (execServoOffset rq v s) := by
  unfold execServoOffset
  repeat' (with_reducible
    first
    | assumption | apply State.onWrite_keeps | apply State.servoReport_keeps | apply KeepsNext.next | (intro _) | exact rfl
    | apply Keeps.fields)

theorem execLossTimeout_keeps {σ : State} {s : State} (hs : Keeps σ s) : KeepsNext σ (execLossTimeout s) := by
  unfold execLossTimeout
  repeat' (with_reducible
    first
    | assumption | apply State.when_keeps | apply State.passToNow_keeps | apply State.enterHoldover_keeps | apply KeepsNext.next
    | extract_lets | (intro _) | exact rfl | apply Keeps.fields)

theorem execHoldoverTimeout_keeps {σ : State} {s : State} (hs : Keeps σ s) : KeepsNext σ (execHoldoverTimeout s) := by
  unfold execHoldoverTimeout
  repeat' (with_reducible
    first
    | assumption | apply State.when_keeps | apply State.passToNow_keeps | apply State.setTim_keeps | apply State.evt_keeps
    | apply KeepsNext.next | (intro _) | exact rfl | apply Keeps.fields)

theorem execTimeDegraded_keeps {σ : State} {s : State} (hs : Keeps σ s) : KeepsNext σ (execTimeDegraded s) := by
  unfold execTimeDegraded
  repeat' (with_reducible
    first
    | assumption | apply State.when_keeps | apply State.passToNow_keeps | apply State.checkDrift_keeps | apply KeepsNext.next
    | split | (intro _) | (apply Keeps.fst_of; assumption) | (apply Keeps.snd_of; assumption)
    | (apply Keeps.some_of; assumption) | exact rfl | apply Keeps.fields)

theorem execPpsInEdge_keeps {σ : State} {s : State} (hs : Keeps σ s) : KeepsNext σ (execPpsInEdge s) := by
  unfold execPpsInEdge
  repeat' (with_reducible
    first
    | assumption | apply State.setTim_keeps | apply State.when_keeps | apply State.wr_keeps | apply KeepsNext.next
    | extract_lets | (intro _) | exact rfl | apply Keeps.fields)

theorem execPpsMissing_keeps {σ : State} {s : State} (hs : Keeps σ s) : KeepsNext σ (execPpsMissing s) := by
  unfold execPpsMissing
  repeat' (with_reducible
    first
    | assumption | apply State.when_keeps | apply State.passToNow_keeps | apply State.setTim_keeps | apply State.evt_keeps
    | apply KeepsNext.next | extract_lets | (intro _) | exact rfl | apply Keeps.fields)

theorem State.passToDayStart_keeps {σ : State} {s : State} (hs : Keeps σ s) : Keeps σ (State.passToDayStart s) := by
  unfold State.passToDayStart
  repeat' (with_reducible
    first
    | assumption | apply State.passToTod_keeps | apply State.passToCad_keeps | extract_lets | split | (intro _) | exact rfl
    | apply Keeps.fields)

theorem execPpsOutPulse_keeps {σ : State} {s : State} (hs : Keeps σ s) : KeepsNext σ (execPpsOutPulse s) := by
  unfold execPpsOutPulse
  repeat' (with_reducible
    first
    | assumption | apply State.when_keeps | apply State.passToDayStart_keeps | apply State.passToTod_keeps
    | apply State.setTim_keeps | apply State.emit_keeps | apply KeepsNext.next | extract_lets | split | (intro _) | exact rfl
    | apply Keeps.fields)

theorem execPpsPulseEnd_keeps {σ : State} {s : State} (hs : Keeps σ s) : KeepsNext σ (execPpsPulseEnd s) := by
  unfold execPpsPulseEnd
  repeat' (with_reducible
    first
    | assumption | apply State.when_keeps | apply State.passToNow_keeps | apply State.setTim_keeps | apply State.emit_keeps
    | apply KeepsNext.next | (intro _) | exact rfl | apply Keeps.fields)

theorem State.cadRunSet_keeps {σ : State} {s : State} (hs : Keeps σ s) : Keeps σ (State.cadRunSet s) := by
  unfold State.cadRunSet
  repeat' (with_reducible
    first
    | assumption | apply State.wr_keeps | apply State.when_keeps | apply State.setTim_keeps | extract_lets | (intro _)
    | exact rfl | apply Keeps.fields)

theorem execCadRunSet_keeps {σ : State} {s : State} (rq : Requester) (hs : Keeps σ s) : KeepsNext σ (execCadRunSet rq s) := by
  unfold execCadRunSet
  repeat' (with_reducible
    first
    | assumption | apply State.onWrite_keeps | apply State.cadRunSet_keeps | apply KeepsNext.next | (intro _) | exact rfl
    | apply Keeps.fields)

theorem State.cadRunClear_keeps {σ : State} {s : State} (hs : Keeps σ s) : Keeps σ (State.cadRunClear s) := by
  unfold State.cadRunClear
  repeat' (with_reducible
    first
    | assumption | apply State.wr_keeps | apply State.when_keeps | apply State.setTim_keeps | extract_lets | (intro _)
    | exact rfl | apply Keeps.fields)

theorem execCadRunClear_keeps {σ : State} {s : State} (rq : Requester) (hs : Keeps σ s) :
    KeepsNext σ (execCadRunClear rq s) := by
  unfold execCadRunClear
  repeat' (with_reducible
    first
    | assumption | apply State.onWrite_keeps | apply State.cadRunClear_keeps | apply KeepsNext.next | (intro _) | exact rfl
    | apply Keeps.fields)

end Sys2Proof.Machine
end

