-- ==== Sys2Proof/Laws/KeepsPlan.lean ====
section
/-! SUPPORT. Every operation of Machine/Plan.lean keeps what `Keeps` says. -/
namespace Sys2Proof.Machine

theorem State.setPln_keeps {σ : State} {s : State} (f : Pln → Pln) (hs : Keeps σ s) : Keeps σ (State.setPln s f) := by
  unfold State.setPln
  repeat' (with_reducible
    first
    | assumption | (intro _) | exact rfl | apply Keeps.fields)

theorem State.stagedIdReg_keeps {σ : State} {s : State} (hs : Keeps σ s) : Keeps σ (State.stagedIdReg s) := by
  unfold State.stagedIdReg
  repeat' (with_reducible
    first
    | assumption | apply State.wr_keeps | split | (intro _) | (apply Keeps.fst_of; assumption)
    | (apply Keeps.snd_of; assumption) | (apply Keeps.some_of; assumption) | exact rfl | apply Keeps.fields)

theorem State.epochRegs_keeps {σ : State} {s : State} (hs : Keeps σ s) : Keeps σ (State.epochRegs s) := by
  unfold State.epochRegs
  repeat' (with_reducible
    first
    | assumption | apply State.wr_keeps | split | (intro _) | (apply Keeps.fst_of; assumption)
    | (apply Keeps.snd_of; assumption) | (apply Keeps.some_of; assumption) | exact rfl | apply Keeps.fields)

theorem State.cadRegs_keeps {σ : State} {s : State} (hs : Keeps σ s) : Keeps σ (State.cadRegs s) := by
  unfold State.cadRegs
  repeat' (with_reducible
    first
    | assumption | apply State.wr_keeps | extract_lets | (intro _) | exact rfl | apply Keeps.fields)

theorem State.retirePlan_keeps {σ : State} {s : State} (hs : Keeps σ s) : Keeps σ (State.retirePlan s) := by
  unfold State.retirePlan
  repeat' (with_reducible
    first
    | assumption | apply State.when_keeps | apply State.setPln_keeps | apply State.epochRegs_keeps | apply State.evt_keeps
    | split | (intro _) | (apply Keeps.fst_of; assumption) | (apply Keeps.snd_of; assumption)
    | (apply Keeps.some_of; assumption) | exact rfl | apply Keeps.fields)

theorem State.planDiscard_keeps {σ : State} {s : State} (hs : Keeps σ s) : Keeps σ (State.planDiscard s) := by
  unfold State.planDiscard
  repeat' (with_reducible
    first
    | assumption | apply State.setPln_keeps | apply State.wr_keeps | apply State.stagedIdReg_keeps | (intro _) | exact rfl
    | apply Keeps.fields)

theorem State.planLoad_keeps {σ : State} {s : State} (hs : Keeps σ s) : Keeps σ (State.planLoad s) := by
  unfold State.planLoad
  repeat' (with_reducible
    first
    | assumption | apply State.logIgnored_keeps | apply State.setPln_keeps | apply State.wr_keeps
    | apply State.stagedIdReg_keeps | split | (intro _) | exact rfl | apply Keeps.fields)

theorem execPlanLoad_keeps {σ : State} {s : State} (rq : Requester) (discard : Bool) (hs : Keeps σ s) :
    KeepsNext σ (execPlanLoad rq discard s) := by
  unfold execPlanLoad
  repeat' (with_reducible
    first
    | assumption | apply State.onWrite_keeps | apply State.planDiscard_keeps | apply State.planLoad_keeps | apply KeepsNext.next
    | split | (intro _) | exact rfl | apply Keeps.fields)

theorem execPlanDiscard_keeps {σ : State} {s : State} (rq : Requester) (hs : Keeps σ s) :
    KeepsNext σ (execPlanDiscard rq s) := by
  unfold execPlanDiscard
  repeat' (with_reducible
    first
    | assumption | apply State.onWrite_keeps | apply State.planDiscard_keeps | apply KeepsNext.next | (intro _) | exact rfl
    | apply Keeps.fields)

theorem execPlanLoadDone_keeps {σ : State} {s : State} (hs : Keeps σ s) : KeepsNext σ (execPlanLoadDone s) := by
  unfold execPlanLoadDone
  repeat' (with_reducible
    first
    | assumption | apply State.when_keeps | apply State.touch_keeps | apply State.setPln_keeps | apply State.wr_keeps
    | apply State.evt_keeps | apply State.stagedIdReg_keeps | apply KeepsNext.next | extract_lets | split | (intro _)
    | (apply Keeps.fst_of; assumption) | (apply Keeps.snd_of; assumption) | (apply Keeps.some_of; assumption) | exact rfl
    | apply Keeps.fields)

theorem State.activatePlan_keeps {σ : State} {s : State} (d : Nat) (hs : Keeps σ s) : Keeps σ (State.activatePlan s d) := by
  unfold State.activatePlan
  repeat' (with_reducible
    first
    | assumption | apply State.setPln_keeps | apply State.retirePlan_keeps | apply State.evt_keeps | apply State.wr_keeps
    | apply State.wr64_keeps | apply State.stagedIdReg_keeps | apply State.epochRegs_keeps | apply State.cadRegs_keeps
    | apply State.checkRealign_keeps | extract_lets | split | (intro _) | (apply Keeps.fst_of; assumption)
    | (apply Keeps.snd_of; assumption) | (apply Keeps.some_of; assumption) | exact rfl | apply Keeps.fields)

theorem execPlanRetire_keeps {σ : State} {s : State} (hs : Keeps σ s) : KeepsNext σ (execPlanRetire s) := by
  unfold execPlanRetire
  repeat' (with_reducible
    first
    | assumption | apply State.retirePlan_keeps | apply KeepsNext.next | (intro _) | exact rfl | apply Keeps.fields)

end Sys2Proof.Machine
end

