-- ==== Sys2Proof/Laws/KeepsTraffic.lean ====
section
/-! SUPPORT. Every operation of Machine/Traffic.lean keeps what `Keeps` says. -/
namespace Sys2Proof.Machine

theorem State.updTrc_keeps {σ : State} {s : State} (c : Nat) (f : TrcCh → TrcCh) (hs : Keeps σ s) :
    Keeps σ (State.updTrc s c f) := by
  unfold State.updTrc
  repeat' (with_reducible
    first
    | assumption | apply State.updCh_keeps | (intro _) | exact rfl | apply Keeps.fields)

theorem State.setShaper_keeps {σ : State} {s : State} (c k : Nat) (x : Shaper) (hs : Keeps σ s) :
    Keeps σ (State.setShaper s c k x) := by
  unfold State.setShaper
  repeat' (with_reducible
    first
    | assumption | apply State.updTrc_keeps | (intro _) | exact rfl | apply Keeps.fields)

theorem State.shpFill_keeps {σ : State} {s : State} (c k : Nat) (hs : Keeps σ s) : Keeps σ (State.shpFill s c k) := by
  unfold State.shpFill
  repeat' (with_reducible
    first
    | assumption | apply State.setShaper_keeps | extract_lets | (intro _) | exact rfl | apply Keeps.fields)

theorem State.setQueue_keeps {σ : State} {s : State} (c q : Nat) (x : EQueue) (hs : Keeps σ s) :
    Keeps σ (State.setQueue s c q x) := by
  unfold State.setQueue
  repeat' (with_reducible
    first
    | assumption | apply State.updTrc_keeps | (intro _) | exact rfl | apply Keeps.fields)

theorem State.enqueue_keeps {σ : State} {s : State} (c q : Nat) (p : EPkt) (hs : Keeps σ s) :
    Keeps σ (State.enqueue s c q p) := by
  unfold State.enqueue
  repeat' (with_reducible
    first
    | assumption | apply State.setQueue_keeps | extract_lets | (intro _) | exact rfl | apply Keeps.fields)

theorem State.sendControl_keeps {σ : State} {s : State} (p : EPkt) (hs : Keeps σ s) : Keeps σ (State.sendControl s p) := by
  unfold State.sendControl
  repeat' (with_reducible
    first
    | assumption | apply State.enqueue_keeps | apply State.bump_keeps | apply State.when_keeps | apply State.updTrc_keeps
    | apply State.evt_keeps | extract_lets | split | (intro _) | exact rfl | apply Keeps.fields)

theorem State.releaseHead_keeps {σ : State} {s : State} (c k : Nat) (p : EPkt) (cost : Nat) (hs : Keeps σ s) :
    Keeps σ (State.releaseHead s c k p cost) := by
  unfold State.releaseHead
  repeat' (with_reducible
    first
    | assumption | apply State.setShaper_keeps | apply State.enqueue_keeps | extract_lets | (intro _) | exact rfl
    | apply Keeps.fields)

theorem State.evalShaper_keeps {σ : State} {s : State} (c k : Nat) (x0 : Nat) (hs : Keeps σ s) :
    Keeps σ (State.evalShaper s c k x0) := by
  induction x0 generalizing s c k with
  | zero =>
    unfold State.evalShaper
    repeat' (with_reducible
      first
      | assumption | apply State.bump_keeps | apply State.releaseHead_keeps | apply State.setShaper_keeps
      | apply State.shpFill_keeps | apply State.when_keeps | extract_lets | split | (intro _) | (apply Keeps.fst_of; assumption)
      | exact rfl | apply Keeps.fields)
  | succ n ih =>
    unfold State.evalShaper
    repeat' (with_reducible
      first
      | assumption | apply ih | apply State.bump_keeps | apply State.releaseHead_keeps | apply State.setShaper_keeps
      | apply State.shpFill_keeps | apply State.when_keeps | extract_lets | split | (intro _) | (apply Keeps.fst_of; assumption)
      | exact rfl | apply Keeps.fields)

theorem State.evalShp_keeps {σ : State} {s : State} (c k : Nat) (hs : Keeps σ s) : Keeps σ (State.evalShp s c k) := by
  unfold State.evalShp
  repeat' (with_reducible
    first
    | assumption | apply State.evalShaper_keeps | (intro _) | exact rfl | apply Keeps.fields)

theorem State.shape_keeps {σ : State} {s : State} (c k : Nat) (p : EPkt) (hs : Keeps σ s) : Keeps σ (State.shape s c k p) := by
  unfold State.shape
  repeat' (with_reducible
    first
    | assumption | apply State.shpFill_keeps | apply State.setShaper_keeps | apply State.evalShp_keeps | extract_lets | split
    | (intro _) | exact rfl | apply Keeps.fields)

theorem State.reshape_keeps {σ : State} {s : State} (c k : Nat) (f : State → State) (hf : ∀
    (a0 : State), Keeps σ a0 → Keeps σ (f a0)) (hs : Keeps σ s) :
    Keeps σ (State.reshape s c k f) := by
  unfold State.reshape
  repeat' (with_reducible
    first
    | assumption | apply hf | apply State.shpFill_keeps | apply State.evalShp_keeps | (intro _) | exact rfl
    | apply Keeps.fields)

theorem State.fillShapers_keeps {σ : State} {s : State} (hs : Keeps σ s) : Keeps σ (State.fillShapers s) := by
  unfold State.fillShapers
  repeat' (with_reducible
    first
    | assumption | apply State.each_keeps | apply State.shpFill_keeps | (intro _) | exact rfl | apply Keeps.fields)

theorem State.openGates_keeps {σ : State} {s : State} (c : Nat) (hs : Keeps σ s) : Keeps σ (State.openGates s c) := by
  unfold State.openGates
  repeat' (with_reducible
    first
    | assumption | apply State.each_keeps | apply State.evalShp_keeps | (intro _) | exact rfl | apply Keeps.fields)

theorem State.calActivate_keeps {σ : State} {s : State} (c : Nat) (hs : Keeps σ s) : Keeps σ (State.calActivate s c) := by
  unfold State.calActivate
  repeat' (with_reducible
    first
    | assumption | apply State.each_keeps | apply State.shpFill_keeps | apply State.wr_keeps | apply State.evalShp_keeps
    | extract_lets | split | (intro _) | exact rfl | apply Keeps.fields)

theorem execWheelSlotDue_keeps {σ : State} {s : State} (c : Nat) (hs : Keeps σ s) : KeepsNext σ (execWheelSlotDue c s) := by
  unfold execWheelSlotDue
  repeat' (with_reducible
    first
    | assumption | apply State.passToNow_keeps | apply State.each_keeps | apply State.evalShp_keeps | apply KeepsNext.next
    | extract_lets | split | (intro _) | (apply Keeps.fst_of; assumption) | (apply Keeps.snd_of; assumption)
    | (apply Keeps.some_of; assumption) | exact rfl | apply Keeps.fields)

theorem State.toFine_keeps {σ : State} {s : State} (c k : Nat) (hs : Keeps σ s) : Keeps σ (State.toFine s c k) := by
  unfold State.toFine
  repeat' (with_reducible
    first
    | assumption | apply State.setShaper_keeps | apply State.evalShp_keeps | extract_lets | split | (intro _)
    | (apply Keeps.fst_of; assumption) | (apply Keeps.snd_of; assumption) | (apply Keeps.some_of; assumption) | exact rfl
    | apply Keeps.fields)

theorem execCoarseSlotDue_keeps {σ : State} {s : State} (c : Nat) (hs : Keeps σ s) : KeepsNext σ (execCoarseSlotDue c s) := by
  unfold execCoarseSlotDue
  repeat' (with_reducible
    first
    | assumption | apply State.passToNow_keeps | apply State.each_keeps | apply State.toFine_keeps | apply KeepsNext.next
    | extract_lets | split | (intro _) | (apply Keeps.fst_of; assumption) | (apply Keeps.snd_of; assumption)
    | (apply Keeps.some_of; assumption) | exact rfl | apply Keeps.fields)

theorem State.robin_keeps {σ : State} {s : State} (c : Nat) (l : List Nat) (x0 : Nat) (x1 : Nat) (hs : Keeps σ s) :
    Keeps σ (State.robin s c l x0 x1).1 := by
  induction x0 generalizing s c l x1 with
  | zero =>
    unfold State.robin
    repeat' (with_reducible
      first
      | assumption | apply State.setQueue_keeps | extract_lets | split | (apply Keeps.fst_of; assumption) | exact rfl
      | apply Keeps.fields)
  | succ n ih =>
    unfold State.robin
    repeat' (with_reducible
      first
      | assumption | apply ih | apply State.setQueue_keeps | extract_lets | split | (apply Keeps.fst_of; assumption) | exact rfl
      | apply Keeps.fields)

theorem State.queueDrained_keeps {σ : State} {s : State} (hs : Keeps σ s) : Keeps σ (State.queueDrained s) := by
  unfold State.queueDrained
  repeat' (with_reducible
    first
    | assumption | apply State.each_keeps | apply State.evalShp_keeps | (intro _) | exact rfl | apply Keeps.fields)

theorem State.takeFrame_keeps {σ : State} {s : State} (c sub : Nat) (hs : Keeps σ s) :
    Keeps σ (State.takeFrame s c sub).1 := by
  unfold State.takeFrame
  extract_lets l
  clear_value l
  generalize (16384 : Nat) = fuel
  repeat' (first
    | with_reducible assumption
    | with_reducible apply State.robin_keeps
    | with_reducible apply State.queueDrained_keeps
    | with_reducible apply State.each_keeps
    | with_reducible apply State.evalShp_keeps
    | with_reducible apply State.setQueue_keeps
    | with_reducible apply State.updTrc_keeps
    | intro _
    | (extract_lets)
    | split
    | (with_reducible apply Keeps.fst_of; with_reducible assumption))

theorem State.takePtp_keeps {σ : State} {s : State} (c sub : Nat) (hs : Keeps σ s) : Keeps σ (State.takePtp s c sub).1 := by
  unfold State.takePtp
  repeat' (with_reducible
    first
    | assumption | apply State.setQueue_keeps | apply State.queueDrained_keeps | extract_lets | split | (intro _)
    | (apply Keeps.fst_of; assumption) | (apply Keeps.snd_of; assumption) | (apply Keeps.some_of; assumption) | exact rfl
    | apply Keeps.fields)

theorem execShaperRateWrite_keeps {σ : State} {s : State} (rq : Requester) (c : Nat) (v : Word) (hs : Keeps σ s) :
    KeepsNext σ (execShaperRateWrite rq c v s) := by
  unfold execShaperRateWrite
  repeat' (with_reducible
    first
    | assumption | apply State.onWrite_keeps | apply State.reshape_keeps | apply State.store_keeps | apply KeepsNext.next
    | (intro _) | exact rfl | apply Keeps.fields)

theorem execShaperConfigWrite_keeps {σ : State} {s : State} (rq : Requester) (c : Nat) (burst : Bool) (v : Word)
    (hs : Keeps σ s) :
    KeepsNext σ (execShaperConfigWrite rq c burst v s) := by
  unfold execShaperConfigWrite
  repeat' (with_reducible
    first
    | assumption | apply State.onWrite_keeps | apply State.reshape_keeps | apply State.store_keeps | apply KeepsNext.next
    | extract_lets | split | (intro _) | exact rfl | apply Keeps.fields)

theorem State.police_keeps {σ : State} {s : State} (c n : Nat) (p : KPkt) (hs : Keeps σ s) :
    Keeps σ (State.police s c n p).1 := by
  unfold State.police
  repeat' (with_reducible
    first
    | assumption | apply State.updTrc_keeps | apply State.bump_keeps | extract_lets | split | (intro _)
    | (apply Keeps.fst_of; assumption) | (apply Keeps.snd_of; assumption) | (apply Keeps.some_of; assumption) | exact rfl
    | apply Keeps.fields)

theorem State.classify_keeps {σ : State} {s : State} (c loc : Nat) (p : KPkt) (hs : Keeps σ s) :
    Keeps σ (State.classify s c loc p).1 := by
  unfold State.classify
  repeat' (with_reducible
    first
    | assumption | apply State.police_keeps | extract_lets | split | (intro _) | exact rfl | apply Keeps.fields)

theorem State.polChange_keeps {σ : State} {s : State} (c : Nat) (r : RegId) (v : Word) (hs : Keeps σ s) :
    Keeps σ (State.polChange s c r v) := by
  unfold State.polChange
  repeat' (with_reducible
    first
    | assumption | apply State.store_keeps | apply State.updTrc_keeps | extract_lets | (intro _) | exact rfl
    | apply Keeps.fields)

theorem execPolicerConfigWrite_keeps {σ : State} {s : State} (rq : Requester) (c off : Nat) (v : Word) (hs : Keeps σ s) :
    KeepsNext σ (execPolicerConfigWrite rq c off v s) := by
  unfold execPolicerConfigWrite
  repeat' (with_reducible
    first
    | assumption | apply State.onWrite_keeps | apply State.polChange_keeps | apply KeepsNext.next | split | (intro _)
    | (apply Keeps.fst_of; assumption) | (apply Keeps.snd_of; assumption) | (apply Keeps.some_of; assumption) | exact rfl
    | apply Keeps.fields)

theorem State.putSample_keeps {σ : State} {s : State} (c : Nat) (r : List Byte) (hs : Keeps σ s) :
    Keeps σ (State.putSample s c r) := by
  unfold State.putSample
  repeat' (with_reducible
    first
    | assumption | apply State.bump_keeps | apply State.when_keeps | apply State.updTrc_keeps | apply State.evt_keeps
    | apply State.vwrite_keeps | apply State.wr_keeps | extract_lets | split | (intro _) | exact rfl | apply Keeps.fields)

theorem State.sampleNow_keeps {σ : State} {s : State} (c : Nat) (hs : Keeps σ s) : Keeps σ (State.sampleNow s c) := by
  unfold State.sampleNow
  repeat' (with_reducible
    first
    | assumption | apply State.each_keeps | apply State.putSample_keeps | apply State.updTrc_keeps | extract_lets | (intro _)
    | exact rfl | apply Keeps.fields)

theorem execSampleInstant_keeps {σ : State} {s : State} (c : Nat) (hs : Keeps σ s) : KeepsNext σ (execSampleInstant c s) := by
  unfold execSampleInstant
  repeat' (with_reducible
    first
    | assumption | apply State.when_keeps | apply State.passToTod_keeps | apply State.sampleNow_keeps | apply KeepsNext.next
    | (intro _) | exact rfl | apply Keeps.fields)

theorem State.smpCfgWrite_keeps {σ : State} {s : State} (c : Nat) (v : Word) (hs : Keeps σ s) :
    Keeps σ (State.smpCfgWrite s c v) := by
  unfold State.smpCfgWrite
  repeat' (with_reducible
    first
    | assumption | apply State.store_keeps | apply State.when_keeps | apply State.wr_keeps | apply State.updTrc_keeps
    | extract_lets | split | (intro _) | exact rfl | apply Keeps.fields)

end Sys2Proof.Machine
end

