-- ==== Sys2Proof/Laws/KeepsKweuz.lean ====
section
/-! SUPPORT. Every operation of Machine/Kweuz.lean keeps what `Keeps` says. -/
namespace Sys2Proof.Machine

theorem State.updKwp_keeps {σ : State} {s : State} (c : Nat) (f : KwpCh → KwpCh) (hs : Keeps σ s) :
    Keeps σ (State.updKwp s c f) := by
  unfold State.updKwp
  repeat' (with_reducible
    first
    | assumption | apply State.updCh_keeps | (intro _) | exact rfl | apply Keeps.fields)

theorem State.updConn_keeps {σ : State} {s : State} (c k : Nat) (f : KConn → KConn) (hs : Keeps σ s) :
    Keeps σ (State.updConn s c k f) := by
  unfold State.updConn
  repeat' (with_reducible
    first
    | assumption | apply State.updKwp_keeps | (intro _) | exact rfl | apply Keeps.fields)

theorem State.sealPkt_keeps {σ : State} {s : State} (c k op flags psn : Nat) (ext pay : List Byte) (path : KPath)
    (hs : Keeps σ s) :
    Keeps σ (State.sealPkt s c k op flags psn ext pay path).1 := by
  unfold State.sealPkt
  repeat' (with_reducible
    first
    | assumption | apply State.updConn_keeps | extract_lets | (intro _) | exact rfl | apply Keeps.fields)

theorem State.rangesRead_keeps {σ : State} {s : State} (l : List (Nat × Nat)) (hs : Keeps σ s) :
    Keeps σ (State.rangesRead s l).1 := by
  unfold State.rangesRead
  repeat' (with_reducible
    first
    | assumption | apply State.drawBytes_keeps | extract_lets | split | (intro _) | (apply Keeps.fst_of; assumption)
    | (apply Keeps.snd_of; assumption) | (apply Keeps.some_of; assumption) | exact rfl | apply Keeps.fields)

theorem State.placeAt_keeps {σ : State} {s : State} (c job : Nat) (l : List (Nat × Nat)) (off : Nat) (us : List ZUnit)
    (hs : Keeps σ s) :
    Keeps σ (State.placeAt s c job l off us) := by
  unfold State.placeAt
  repeat' (with_reducible
    first
    | assumption | apply State.each_keeps | apply State.placeUnit_keeps | split | (intro _) | (apply Keeps.fst_of; assumption)
    | (apply Keeps.snd_of; assumption) | (apply Keeps.some_of; assumption) | exact rfl | apply Keeps.fields)

theorem State.rangesWrite_keeps {σ : State} {s : State} (job : Nat) (l : List (Nat × Nat)) (off : Nat) (bs : List Byte)
    (hs : Keeps σ s) :
    Keeps σ (State.rangesWrite s job l off bs) := by
  unfold State.rangesWrite
  repeat' (with_reducible
    first
    | assumption | apply State.writeRanges_keeps | (intro _) | exact rfl | apply Keeps.fields)

theorem State.writePay_keeps {σ : State} {s : State} (c k : Nat) (x : KSent) (hs : Keeps σ s) :
    Keeps σ (State.writePay s c k x).1 := by
  unfold State.writePay
  repeat' (with_reducible
    first
    | assumption | apply State.drawBytes_keeps | apply State.each_keeps | apply State.touch_keeps | apply State.rangesRead_keeps
    | extract_lets | split | (intro _) | (apply Keeps.fst_of; assumption) | (apply Keeps.snd_of; assumption)
    | (apply Keeps.some_of; assumption) | exact rfl | apply Keeps.fields)

theorem State.sendPsn_keeps {σ : State} {s : State} (c k : Nat) (x : KSent) (retx last : Bool) (hs : Keeps σ s) :
    Keeps σ (State.sendPsn s c k x retx last) := by
  unfold State.sendPsn
  repeat' (with_reducible
    first
    | assumption | apply State.writePay_keeps | apply State.sealPkt_keeps | apply State.updConn_keeps | apply State.when_keeps
    | apply State.bump_keeps | apply State.sendControl_keeps | apply State.shape_keeps | extract_lets | split | (intro _)
    | (apply Keeps.fst_of; assumption) | (apply Keeps.snd_of; assumption) | (apply Keeps.some_of; assumption) | exact rfl
    | apply Keeps.fields)

theorem State.sendNew_keeps {σ : State} {s : State} (c k : Nat) (x : KSent) (last : Bool) (hs : Keeps σ s) :
    Keeps σ (State.sendNew s c k x last) := by
  unfold State.sendNew
  repeat' (with_reducible
    first
    | assumption | apply State.updConn_keeps | apply State.sendPsn_keeps | extract_lets | split | (intro _) | exact rfl
    | apply Keeps.fields)

theorem State.formWrite_keeps {σ : State} {s : State} (c k : Nat) (r : KReq) (n : Nat) (hs : Keeps σ s) :
    Keeps σ (State.formWrite s c k r n) := by
  unfold State.formWrite
  repeat' (with_reducible
    first
    | assumption | apply State.sendNew_keeps | extract_lets | split | (intro _) | exact rfl | apply Keeps.fields)

theorem State.formOther_keeps {σ : State} {s : State} (c k : Nat) (r : KReq) (hs : Keeps σ s) :
    Keeps σ (State.formOther s c k r) := by
  unfold State.formOther
  repeat' (with_reducible
    first
    | assumption | apply State.sendNew_keeps | extract_lets | split | (intro _) | exact rfl | apply Keeps.fields)

theorem State.updKReq_keeps {σ : State} {s : State} (c k id : Nat) (f : KReq → KReq) (hs : Keeps σ s) :
    Keeps σ (State.updKReq s c k id f) := by
  unfold State.updKReq
  repeat' (with_reducible
    first
    | assumption | apply State.updConn_keeps | split | (intro _) | exact rfl | apply Keeps.fields)

theorem State.formReq_keeps {σ : State} {s : State} (c k : Nat) (r : KReq) (hs : Keeps σ s) :
    KeepsSome σ (State.formReq s c k r) := by
  unfold State.formReq
  repeat' (with_reducible
    first
    | assumption | apply State.updKReq_keeps | apply State.formWrite_keeps | apply State.formOther_keeps | exact KeepsSome.none
    | apply KeepsSome.some | apply KeepsSome.map | apply KeepsSome.bind | (apply Keeps.some_of; assumption) | extract_lets
    | split | (intro _) | exact rfl | apply Keeps.fields)

theorem State.formResp_keeps {σ : State} {s : State} (c k : Nat) (r : KRead) (hs : Keeps σ s) :
    KeepsSome σ (State.formResp s c k r) := by
  unfold State.formResp
  repeat' (with_reducible
    first
    | assumption | apply State.updConn_keeps | apply State.touch_keeps | apply State.sendNew_keeps | exact KeepsSome.none
    | apply KeepsSome.some | apply KeepsSome.map | apply KeepsSome.bind | (apply Keeps.some_of; assumption) | extract_lets
    | split | (intro _) | exact rfl | apply Keeps.fields)

theorem State.kwpCpl_keeps {σ : State} {s : State} (c k op tag status bytes extra : Nat) (hs : Keeps σ s) :
    Keeps σ (State.kwpCpl s c k op tag status bytes extra) := by
  unfold State.kwpCpl
  repeat' (with_reducible
    first
    | assumption | apply State.logErr_keeps | apply State.updJsc_keeps | apply State.when_keeps | apply State.evtJob_keeps
    | apply State.writeCpl_keeps | extract_lets | split | (intro _) | exact rfl | apply Keeps.fields)

theorem State.formNext_keeps {σ : State} {s : State} (c k node : Nat) (r : KReq) (hs : Keeps σ s) :
    KeepsSome σ (State.formNext s c k node r) := by
  unfold State.formNext
  repeat' (with_reducible
    first
    | assumption | apply State.updConn_keeps | apply State.kwpCpl_keeps | apply State.updKReq_keeps | apply State.formReq_keeps
    | exact KeepsSome.none | apply KeepsSome.some | apply KeepsSome.map | apply KeepsSome.bind
    | (apply Keeps.some_of; assumption) | extract_lets | split | (intro _) | exact rfl | apply Keeps.fields)

theorem State.formOne_keeps {σ : State} {s : State} (c k : Nat) (hs : Keeps σ s) : KeepsSome σ (State.formOne s c k) := by
  unfold State.formOne
  extract_lets v
  split
  · exact KeepsSome.some (State.sendNew_keeps _ _ _ _ (State.updConn_keeps _ _ _ hs))
  · exact State.formResp_keeps _ _ _ hs
  · cases v.reqs.find? fun r => !r.formedAll with
    | none => exact KeepsSome.none
    | some r => exact State.formNext_keeps _ _ _ _ hs

theorem State.pump_keeps {σ : State} {s : State} (c k : Nat) (x0 : Nat) (hs : Keeps σ s) :
    Keeps σ (State.pump s c k x0) := by
  induction x0 generalizing s c k with
  | zero => exact hs
  | succ n ih =>
    unfold State.pump
    split
    · exact hs
    · split
      · exact hs
      · next h => exact ih _ _ (Keeps.some_of h (State.formOne_keeps _ _ hs))

theorem State.pumpAll_keeps {σ : State} {s : State} (c k : Nat) (hs : Keeps σ s) : Keeps σ (State.pumpAll s c k) := by
  unfold State.pumpAll
  repeat' (with_reducible
    first
    | assumption | apply State.pump_keeps | (intro _) | exact rfl | apply Keeps.fields)

theorem State.answer_keeps {σ : State} {s : State} (c k : Nat) (x : KSent) (hs : Keeps σ s) :
    Keeps σ (State.answer s c k x) := by
  unfold State.answer
  repeat' (with_reducible
    first
    | assumption | apply State.updConn_keeps | apply State.pumpAll_keeps | (intro _) | exact rfl | apply Keeps.fields)

theorem State.addReqAt_keeps {σ : State} {s : State} (c k ep : Nat) (r : KReq) (hs : Keeps σ s) :
    Keeps σ (State.addReqAt s c k ep r) := by
  unfold State.addReqAt
  repeat' (with_reducible
    first
    | assumption | apply State.updConn_keeps | apply State.pumpAll_keeps | extract_lets | (intro _) | exact rfl
    | apply Keeps.fields)

theorem State.addReq_keeps {σ : State} {s : State} (c k : Nat) (r : KReq) (hs : Keeps σ s) :
    Keeps σ (State.addReq s c k r) := by
  unfold State.addReq
  repeat' (with_reducible
    first
    | assumption | apply State.addReqAt_keeps | (intro _) | exact rfl | apply Keeps.fields)

theorem State.updMove_keeps {σ : State} {s : State} (c id : Nat) (f : PageMove → PageMove) (hs : Keeps σ s) :
    Keeps σ (State.updMove s c id f) := by
  unfold State.updMove
  repeat' (with_reducible
    first
    | assumption | apply State.updPgm_keeps | (intro _) | exact rfl | apply Keeps.fields)

theorem State.kwpPiece_keeps {σ : State} {s : State} (c id : Nat) (hs : Keeps σ s) : Keeps σ (State.kwpPiece s c id) := by
  unfold State.kwpPiece
  repeat' (with_reducible
    first
    | assumption | apply State.updMove_keeps | apply State.when_keeps | apply State.addReqAt_keeps | extract_lets | split
    | (intro _) | (apply Keeps.fst_of; assumption) | (apply Keeps.snd_of; assumption) | (apply Keeps.some_of; assumption)
    | exact rfl | apply Keeps.fields)

theorem State.kwpTransfer_keeps {σ : State} {s : State} (c id : Nat) (m : PageMove) (hs : Keeps σ s) :
    Keeps σ (State.kwpTransfer s c id m) := by
  unfold State.kwpTransfer
  repeat' (with_reducible
    first
    | assumption | apply State.kwpPiece_keeps | split | (intro _) | exact rfl | apply Keeps.fields)

theorem State.devEnd_keeps {σ : State} {s : State} (c : Nat) (r : KReq) (status : Nat) (hs : Keeps σ s) :
    Keeps σ (State.devEnd s c r status) := by
  unfold State.devEnd
  repeat' (with_reducible
    first
    | assumption | apply State.updMove_keeps | apply State.when_keeps | apply State.kwpPiece_keeps | extract_lets | split
    | (intro _) | (apply Keeps.fst_of; assumption) | (apply Keeps.snd_of; assumption) | (apply Keeps.some_of; assumption)
    | exact rfl | apply Keeps.fields)

theorem State.endReq_keeps {σ : State} {s : State} (c k : Nat) (r : KReq) (status bytes extra : Nat) (hs : Keeps σ s) :
    Keeps σ (State.endReq s c k r status bytes extra) := by
  unfold State.endReq
  repeat' (with_reducible
    first
    | assumption | apply State.updKReq_keeps | apply State.updConn_keeps | apply State.devEnd_keeps | apply State.kwpCpl_keeps
    | apply State.retirePlan_keeps | extract_lets | split | (intro _) | exact rfl | apply Keeps.fields)

theorem State.endAll_keeps {σ : State} {s : State} (c k first rest : Nat) (hs : Keeps σ s) :
    Keeps σ (State.endAll s c k first rest) := by
  unfold State.endAll
  repeat' (with_reducible
    first
    | assumption | apply State.each_keeps | apply State.endReq_keeps | apply State.updConn_keeps | extract_lets | split
    | (intro _) | exact rfl | apply Keeps.fields)

theorem State.sqPop_keeps {σ : State} {s : State} (c k : Nat) (hs : Keeps σ s) : Keeps σ (State.sqPop s c k) := by
  unfold State.sqPop
  repeat' (with_reducible
    first
    | assumption | apply State.touch_keeps | apply State.updConn_keeps | (intro _) | exact rfl | apply Keeps.fields)

theorem State.takeTransfer_keeps {σ : State} {s : State} (c k : Nat) (r : KReq) (hs : Keeps σ s) :
    Keeps σ (State.takeTransfer s c k r) := by
  unfold State.takeTransfer
  repeat' (with_reducible
    first
    | assumption | apply State.sqPop_keeps | apply State.kwpCpl_keeps | apply State.addReq_keeps | extract_lets | split
    | (intro _) | (apply Keeps.fst_of; assumption) | (apply Keeps.snd_of; assumption) | (apply Keeps.some_of; assumption)
    | exact rfl | apply Keeps.fields)

theorem State.updWin_keeps {σ : State} {s : State} (c i : Nat) (f : KWin → KWin) (hs : Keeps σ s) :
    Keeps σ (State.updWin s c i f) := by
  unfold State.updWin
  repeat' (with_reducible
    first
    | assumption | apply State.updKwp_keeps | (intro _) | exact rfl | apply Keeps.fields)

theorem State.winOpen_keeps {σ : State} {s : State} (c k : Nat) (wr : List Byte) (hs : Keeps σ s) :
    Keeps σ (State.winOpen s c k wr) := by
  unfold State.winOpen
  repeat' (with_reducible
    first
    | assumption | apply State.wr_keeps | apply State.drawNat_keeps | apply State.updWin_keeps | apply State.when_keeps
    | apply State.kwpCpl_keeps | extract_lets | split | (intro _) | (apply Keeps.fst_of; assumption)
    | (apply Keeps.snd_of; assumption) | (apply Keeps.some_of; assumption) | exact rfl | apply Keeps.fields)

theorem State.takeOpen_keeps {σ : State} {s : State} (c k : Nat) (wr : List Byte) (hs : Keeps σ s) :
    Keeps σ (State.takeOpen s c k wr) := by
  unfold State.takeOpen
  repeat' (with_reducible
    first
    | assumption | apply State.wr_keeps | apply State.sqPop_keeps | apply State.kwpCpl_keeps | apply State.winOpen_keeps
    | extract_lets | split | (intro _) | (apply Keeps.fst_of; assumption) | (apply Keeps.snd_of; assumption)
    | (apply Keeps.some_of; assumption) | exact rfl | apply Keeps.fields)

theorem State.cutReads_keeps {σ : State} {s : State} (c i : Nat) (hs : Keeps σ s) : Keeps σ (State.cutReads s c i) := by
  unfold State.cutReads
  repeat' (with_reducible
    first
    | assumption | apply State.each_keeps | apply State.updConn_keeps | apply State.answer_keeps | extract_lets | split
    | (intro _) | (apply Keeps.fst_of; assumption) | (apply Keeps.snd_of; assumption) | (apply Keeps.some_of; assumption)
    | exact rfl | apply Keeps.fields)

theorem State.closeWin_keeps {σ : State} {s : State} (c i : Nat) (hs : Keeps σ s) : Keeps σ (State.closeWin s c i) := by
  unfold State.closeWin
  repeat' (with_reducible
    first
    | assumption | apply State.updWin_keeps | (intro _) | exact rfl | apply Keeps.fields)

theorem State.takeRevoke_keeps {σ : State} {s : State} (c k : Nat) (wr : List Byte) (hs : Keeps σ s) :
    Keeps σ (State.takeRevoke s c k wr) := by
  unfold State.takeRevoke
  repeat' (with_reducible
    first
    | assumption | apply State.wr_keeps | apply State.sqPop_keeps | apply State.when_keeps | apply State.kwpCpl_keeps
    | apply State.closeWin_keeps | apply State.cutReads_keeps | apply State.evtJob_keeps | extract_lets | split | (intro _)
    | exact rfl | apply Keeps.fields)

theorem State.ringAdvance_keeps {σ : State} {s : State} (c r : Nat) (x0 : Nat) (hs : Keeps σ s) :
    Keeps σ (State.ringAdvance s c r x0) := by
  induction x0 generalizing s c r with
  | zero =>
    unfold State.ringAdvance
    repeat' (with_reducible
      first
      | assumption | apply State.updKwp_keeps | apply State.wr_keeps | extract_lets | split | (intro _)
      | (apply Keeps.fst_of; assumption) | exact rfl | apply Keeps.fields)
  | succ n ih =>
    unfold State.ringAdvance
    repeat' (with_reducible
      first
      | assumption | apply ih | apply State.updKwp_keeps | apply State.wr_keeps | extract_lets | split | (intro _)
      | (apply Keeps.fst_of; assumption) | exact rfl | apply Keeps.fields)

theorem State.ringPlaced_keeps {σ : State} {s : State} (c : Nat) (w : KWin) (start len : Nat) (hs : Keeps σ s) :
    Keeps σ (State.ringPlaced s c w start len) := by
  unfold State.ringPlaced
  repeat' (with_reducible
    first
    | assumption | apply State.updKwp_keeps | apply State.ringAdvance_keeps | extract_lets | split | (intro _) | exact rfl
    | apply Keeps.fields)

theorem State.msgCame_keeps {σ : State} {s : State} (c k key start len n : Nat) (placed : Bool) (hs : Keeps σ s) :
    Keeps σ (State.msgCame s c k key start len n placed) := by
  unfold State.msgCame
  repeat' (with_reducible
    first
    | assumption | apply State.updConn_keeps | apply State.when_keeps | apply State.ringPlaced_keeps | extract_lets | split
    | (intro _) | exact rfl | apply Keeps.fields)

theorem State.ackEcho_keeps {σ : State} {s : State} (c k : Nat) (hs : Keeps σ s) : Keeps σ (State.ackEcho s c k).1 := by
  unfold State.ackEcho
  repeat' (with_reducible
    first
    | assumption | apply State.drawNat_keeps | extract_lets | split | (intro _) | (apply Keeps.fst_of; assumption)
    | (apply Keeps.snd_of; assumption) | (apply Keeps.some_of; assumption) | exact rfl | apply Keeps.fields)

theorem State.sendAck_keeps {σ : State} {s : State} (c k : Nat) (dest : KPeer) (hs : Keeps σ s) :
    Keeps σ (State.sendAck s c k dest) := by
  unfold State.sendAck
  repeat' (with_reducible
    first
    | assumption | apply State.when_keeps | apply State.ackEcho_keeps | apply State.sealPkt_keeps | apply State.updConn_keeps
    | apply State.sendControl_keeps | extract_lets | split | (intro _) | (apply Keeps.fst_of; assumption)
    | (apply Keeps.snd_of; assumption) | (apply Keeps.some_of; assumption) | exact rfl | apply Keeps.fields)

theorem State.acceptPsn_keeps {σ : State} {s : State} (c k : Nat) (p : KPkt) (hs : Keeps σ s) :
    Keeps σ (State.acceptPsn s c k p) := by
  unfold State.acceptPsn
  repeat' (with_reducible
    first
    | assumption | apply State.when_keeps | apply State.bump_keeps | apply State.updConn_keeps | extract_lets | split
    | (intro _) | (apply Keeps.fst_of; assumption) | (apply Keeps.snd_of; assumption) | (apply Keeps.some_of; assumption)
    | exact rfl | apply Keeps.fields)

theorem State.ackIfDue_keeps {σ : State} {s : State} (c k : Nat) (req : Bool) (dest : KPeer) (hs : Keeps σ s) :
    Keeps σ (State.ackIfDue s c k req dest) := by
  unfold State.ackIfDue
  repeat' (with_reducible
    first
    | assumption | apply State.when_keeps | apply State.sendAck_keeps | extract_lets | (intro _) | exact rfl
    | apply Keeps.fields)

theorem State.answerFlushes_keeps {σ : State} {s : State} (c k : Nat) (hs : Keeps σ s) :
    Keeps σ (State.answerFlushes s c k) := by
  unfold State.answerFlushes
  repeat' (with_reducible
    first
    | assumption | apply State.updConn_keeps | apply State.each_keeps | apply State.answer_keeps | extract_lets | split
    | (intro _) | (apply Keeps.fst_of; assumption) | (apply Keeps.snd_of; assumption) | (apply Keeps.some_of; assumption)
    | exact rfl | apply Keeps.fields)

theorem State.fastRetx_keeps {σ : State} {s : State} (c k : Nat) (hs : Keeps σ s) : Keeps σ (State.fastRetx s c k) := by
  unfold State.fastRetx
  repeat' (with_reducible
    first
    | assumption | apply State.updConn_keeps | apply State.each_keeps | apply State.sendPsn_keeps | extract_lets | split
    | (intro _) | exact rfl | apply Keeps.fields)

theorem State.resendFrom_keeps {σ : State} {s : State} (c k : Nat) (a : Nat) (hs : Keeps σ s) :
    Keeps σ (State.resendFrom s c k a) := by
  unfold State.resendFrom
  repeat' (with_reducible
    first
    | assumption | apply State.each_keeps | apply State.sendPsn_keeps | (intro _) | exact rfl | apply Keeps.fields)

theorem State.connError_keeps {σ : State} {s : State} (c k : Nat) (hs : Keeps σ s) : Keeps σ (State.connError s c k) := by
  unfold State.connError
  repeat' (with_reducible
    first
    | assumption | apply State.updConn_keeps | apply State.endAll_keeps | apply State.evtJob_keeps | apply State.postPriv_keeps
    | extract_lets | (intro _) | exact rfl | apply Keeps.fields)

theorem State.kwpGoOn_keeps {σ : State} {s : State} (c id : Nat) (m : PageMove) (hs : Keeps σ s) :
    Keeps σ (State.kwpGoOn s c id m) := by
  unfold State.kwpGoOn
  repeat' (with_reducible
    first
    | assumption | apply State.when_keeps | apply State.kwpPiece_keeps | (intro _) | exact rfl | apply Keeps.fields)

theorem State.kwpResume_keeps {σ : State} {s : State} (c : Nat) (hs : Keeps σ s) : Keeps σ (State.kwpResume s c) := by
  unfold State.kwpResume
  repeat' (with_reducible
    first
    | assumption | apply State.each_keeps | apply State.pumpAll_keeps | (intro _) | exact rfl | apply Keeps.fields)

theorem State.kwpTearDown_keeps {σ : State} {s : State} (c job : Nat) (hs : Keeps σ s) :
    Keeps σ (State.kwpTearDown s c job) := by
  unfold State.kwpTearDown
  repeat' (with_reducible
    first
    | assumption | apply State.each_keeps | apply State.closeWin_keeps | apply State.devEnd_keeps | apply State.updConn_keeps
    | extract_lets | (intro _) | exact rfl | apply Keeps.fields)

end Sys2Proof.Machine
end

