-- ==== Sys2Proof/Laws/KeepsSlp.lean ====
section
/-! SUPPORT. Every operation of Machine/Slp.lean keeps what `Keeps` says. -/
namespace Sys2Proof.Machine

theorem State.updSlp_keeps {σ : State} {s : State} (c : Nat) (f : SlpCh → SlpCh) (hs : Keeps σ s) :
    Keeps σ (State.updSlp s c f) := by
  unfold State.updSlp
  repeat' (with_reducible
    first
    | assumption | apply State.updCh_keeps | (intro _) | exact rfl | apply Keeps.fields)

theorem State.updLink_keeps {σ : State} {s : State} (p : Nat) (f : SlpLink → SlpLink) (hs : Keeps σ s) :
    Keeps σ (State.updLink s p f) := by
  unfold State.updLink
  repeat' (with_reducible
    first
    | assumption | apply State.updSlp_keeps | (intro _) | exact rfl | apply Keeps.fields)

theorem State.sendFlit_keeps {σ : State} {s : State} (p : Nat) (f : List Byte) (hs : Keeps σ s) :
    Keeps σ (State.sendFlit s p f) := by
  unfold State.sendFlit
  repeat' (with_reducible
    first
    | assumption | apply State.emit_keeps | (intro _) | exact rfl | apply Keeps.fields)

theorem State.pumpFlits_keeps {σ : State} {s : State} (p : Nat) (x0 : Nat) (hs : Keeps σ s) :
    Keeps σ (State.pumpFlits s p x0) := by
  induction x0 generalizing s p with
  | zero =>
    unfold State.pumpFlits
    repeat' (with_reducible
      first
      | assumption | apply State.bump_keeps | apply State.sendFlit_keeps | apply State.updLink_keeps | extract_lets | split
      | (intro _) | exact rfl | apply Keeps.fields)
  | succ n ih =>
    unfold State.pumpFlits
    repeat' (with_reducible
      first
      | assumption | apply ih | apply State.bump_keeps | apply State.sendFlit_keeps | apply State.updLink_keeps | extract_lets
      | split | (intro _) | exact rfl | apply Keeps.fields)

theorem State.pumpLink_keeps {σ : State} {s : State} (p : Nat) (hs : Keeps σ s) : Keeps σ (State.pumpLink s p) := by
  unfold State.pumpLink
  repeat' (with_reducible
    first
    | assumption | apply State.updLink_keeps | apply State.pumpFlits_keeps | extract_lets | split | (intro _)
    | (apply Keeps.fst_of; assumption) | (apply Keeps.snd_of; assumption) | (apply Keeps.some_of; assumption) | exact rfl
    | apply Keeps.fields)

theorem State.idleFlit_keeps {σ : State} {s : State} (p : Nat) (hs : Keeps σ s) : Keeps σ (State.idleFlit s p) := by
  unfold State.idleFlit
  repeat' (with_reducible
    first
    | assumption | apply State.when_keeps | apply State.sendFlit_keeps | apply State.updLink_keeps | extract_lets | (intro _)
    | exact rfl | apply Keeps.fields)

theorem State.freeSlots_keeps {σ : State} {s : State} (p : Nat) (m : SMsg) (hs : Keeps σ s) :
    Keeps σ (State.freeSlots s p m) := by
  unfold State.freeSlots
  repeat' (with_reducible
    first
    | assumption | apply State.updLink_keeps | apply State.idleFlit_keeps | extract_lets | split | (intro _) | exact rfl
    | apply Keeps.fields)

theorem State.toInbox_keeps {σ : State} {s : State} (p : Nat) (m : SMsg) (hs : Keeps σ s) : Keeps σ (State.toInbox s p m) := by
  unfold State.toInbox
  repeat' (with_reducible
    first
    | assumption | apply State.updSlp_keeps | (intro _) | exact rfl | apply Keeps.fields)

theorem State.sendBy_keeps {σ : State} {s : State} (c p : Nat) (m : SMsg) (hs : Keeps σ s) :
    Keeps σ (State.sendBy s c p m) := by
  unfold State.sendBy
  repeat' (with_reducible
    first
    | assumption | apply State.toInbox_keeps | apply State.bump_keeps | apply State.updLink_keeps | apply State.when_keeps
    | apply State.pumpLink_keeps | split | (intro _) | (apply Keeps.fst_of; assumption) | (apply Keeps.snd_of; assumption)
    | (apply Keeps.some_of; assumption) | exact rfl | apply Keeps.fields)

theorem State.sendMsg_keeps {σ : State} {s : State} (c : Nat) (m : SMsg) (hs : Keeps σ s) : Keeps σ (State.sendMsg s c m) := by
  unfold State.sendMsg
  repeat' (with_reducible
    first
    | assumption | apply State.sendBy_keeps | split | (intro _) | (apply Keeps.fst_of; assumption)
    | (apply Keeps.snd_of; assumption) | (apply Keeps.some_of; assumption) | exact rfl | apply Keeps.fields)

theorem State.replayFlits_keeps {σ : State} {s : State} (p : Nat) (hs : Keeps σ s) : Keeps σ (State.replayFlits s p) := by
  unfold State.replayFlits
  repeat' (with_reducible
    first
    | assumption | apply State.each_keeps | apply State.sendFlit_keeps | apply State.bump_keeps | (intro _) | exact rfl
    | apply Keeps.fields)

theorem State.tookMsg_keeps {σ : State} {s0 : State} (p : Nat) (m : SMsg) (hs0 : Keeps σ s0) :
    Keeps σ (State.tookMsg s0 p m) := by
  unfold State.tookMsg
  repeat' (with_reducible
    first
    | assumption | apply State.when_keeps | apply State.deferred_keeps | apply State.bump_keeps | apply State.freeSlots_keeps
    | apply State.toInbox_keeps | apply State.sendBy_keeps | extract_lets | split | (intro _) | (apply Keeps.fst_of; assumption)
    | (apply Keeps.snd_of; assumption) | (apply Keeps.some_of; assumption) | exact rfl | apply Keeps.fields)

theorem State.takeSlots_keeps {σ : State} {s : State} (p : Nat) (x0 : List (List Byte)) (hs : Keeps σ s) :
    Keeps σ (State.takeSlots s p x0) := by
  induction x0 generalizing s p with
  | nil => exact hs
  | cons a l ih =>
    unfold State.takeSlots
    dsimp only
    split
    · exact ih _ (State.tookMsg_keeps _ _ (State.updLink_keeps _ _ hs))
    · exact ih _ (State.updLink_keeps _ _ hs)

theorem State.fecCorrected_keeps {σ : State} {s : State} (p n : Nat) (hs : Keeps σ s) : Keeps σ (State.fecCorrected s p n) := by
  unfold State.fecCorrected
  repeat' (with_reducible
    first
    | assumption | apply State.bump_keeps | apply State.updLink_keeps | apply State.when_keeps | apply State.evtPriv_keeps
    | extract_lets | split | (intro _) | exact rfl | apply Keeps.fields)

theorem State.badFlit_keeps {σ : State} {s : State} (p : Nat) (hs : Keeps σ s) : Keeps σ (State.badFlit s p) := by
  unfold State.badFlit
  repeat' (with_reducible
    first
    | assumption | apply State.sendFlit_keeps | apply State.updLink_keeps | (intro _) | exact rfl | apply Keeps.fields)

theorem State.gotReplayReq_keeps {σ : State} {s : State} (p hdr : Nat) (hs : Keeps σ s) :
    Keeps σ (State.gotReplayReq s p hdr) := by
  unfold State.gotReplayReq
  repeat' (with_reducible
    first
    | assumption | apply State.updLink_keeps | apply State.replayFlits_keeps | apply State.pumpLink_keeps | (intro _)
    | exact rfl | apply Keeps.fields)

theorem State.dataFlit_keeps {σ : State} {s : State} (p hdr : Nat) (b : List Byte) (hs : Keeps σ s) :
    Keeps σ (State.dataFlit s p hdr b) := by
  unfold State.dataFlit
  repeat' (with_reducible
    first
    | assumption | apply State.updLink_keeps | apply State.bump_keeps | apply State.when_keeps | apply State.takeSlots_keeps
    | apply State.pumpLink_keeps | apply State.idleFlit_keeps | extract_lets | (intro _) | exact rfl | apply Keeps.fields)

theorem State.goodFlit_keeps {σ : State} {s : State} (p : Nat) (b : List Byte) (hs : Keeps σ s) :
    Keeps σ (State.goodFlit s p b) := by
  unfold State.goodFlit
  repeat' (with_reducible
    first
    | assumption | apply State.dataFlit_keeps | apply State.gotReplayReq_keeps | apply State.updLink_keeps
    | apply State.pumpLink_keeps | extract_lets | split | (intro _) | (apply Keeps.fst_of; assumption)
    | (apply Keeps.snd_of; assumption) | (apply Keeps.some_of; assumption) | exact rfl | apply Keeps.fields)

theorem State.rxFlit_keeps {σ : State} {s : State} (p : Nat) (bs : List Byte) (hs : Keeps σ s) :
    Keeps σ (State.rxFlit s p bs) := by
  unfold State.rxFlit
  repeat' (with_reducible
    first
    | assumption | apply State.badFlit_keeps | apply State.when_keeps | apply State.fecCorrected_keeps
    | apply State.goodFlit_keeps | split | (intro _) | (apply Keeps.fst_of; assumption) | (apply Keeps.snd_of; assumption)
    | (apply Keeps.some_of; assumption) | exact rfl | apply Keeps.fields)

theorem State.takeTag_keeps {σ : State} {s : State} (c : Nat) (t : STag) (hs : Keeps σ s) :
    Keeps σ (State.takeTag s c t).1 := by
  unfold State.takeTag
  repeat' (with_reducible
    first
    | assumption | apply State.updSlp_keeps | extract_lets | split | (intro _) | exact rfl | apply Keeps.fields)

theorem State.sendUnder_keeps {σ : State} {s : State} (c k p : Nat) (m : SMsg) (hs : Keeps σ s) :
    Keeps σ (State.sendUnder s c k p m) := by
  unfold State.sendUnder
  repeat' (with_reducible
    first
    | assumption | apply State.sendBy_keeps | apply State.updSlp_keeps | split | (intro _) | exact rfl | apply Keeps.fields)

theorem State.renumber_keeps {σ : State} {s : State} (c k t : Nat) (hs : Keeps σ s) : Keeps σ (State.renumber s c k t) := by
  unfold State.renumber
  repeat' (with_reducible
    first
    | assumption | apply State.updSlp_keeps | apply State.updCh_keeps | extract_lets | split | (intro _) | exact rfl
    | apply Keeps.fields)

theorem State.promoteTag_keeps {σ : State} {s : State} (c t : Nat) (hs : Keeps σ s) : Keeps σ (State.promoteTag s c t) := by
  unfold State.promoteTag
  repeat' (with_reducible
    first
    | assumption | apply State.updSlp_keeps | apply State.renumber_keeps | apply State.sendBy_keeps | extract_lets | split
    | (intro _) | (apply Keeps.fst_of; assumption) | (apply Keeps.snd_of; assumption) | (apply Keeps.some_of; assumption)
    | exact rfl | apply Keeps.fields)

theorem State.tagsBack_keeps {σ : State} {s : State} (c : Nat) (hs : Keeps σ s) : Keeps σ (State.tagsBack s c) := by
  unfold State.tagsBack
  repeat' (with_reducible
    first
    | assumption | apply State.each_keeps | apply State.when_keeps | apply State.promoteTag_keeps | apply State.kwpGoOn_keeps
    | split | (intro _) | (apply Keeps.fst_of; assumption) | (apply Keeps.snd_of; assumption)
    | (apply Keeps.some_of; assumption) | exact rfl | apply Keeps.fields)

theorem State.dropTag_keeps {σ : State} {s : State} (c t : Nat) (hs : Keeps σ s) : Keeps σ (State.dropTag s c t) := by
  unfold State.dropTag
  repeat' (with_reducible
    first
    | assumption | apply State.updSlp_keeps | apply State.when_keeps | apply State.tagsBack_keeps | (intro _) | exact rfl
    | apply Keeps.fields)

theorem State.sendTagged_keeps {σ : State} {s : State} (c p : Nat) (m : SMsg) (use : TagUse) (job len : Nat) (hs : Keeps σ s) :
    Keeps σ (State.sendTagged s c p m use job len) := by
  unfold State.sendTagged
  repeat' (with_reducible
    first
    | assumption | apply State.takeTag_keeps | apply State.sendUnder_keeps | extract_lets | split | (intro _)
    | (apply Keeps.fst_of; assumption) | (apply Keeps.snd_of; assumption) | (apply Keeps.some_of; assumption) | exact rfl
    | apply Keeps.fields)

theorem State.sendRequest_keeps {σ : State} {s : State} (c : Nat) (m : SMsg) (use : TagUse) (job len : Nat) (hs : Keeps σ s) :
    Keeps σ (State.sendRequest s c m use job len).1 := by
  unfold State.sendRequest
  repeat' (with_reducible
    first
    | assumption | apply State.sendTagged_keeps | split | (intro _) | (apply Keeps.fst_of; assumption)
    | (apply Keeps.snd_of; assumption) | (apply Keeps.some_of; assumption) | exact rfl | apply Keeps.fields)

theorem State.issue_keeps {σ : State} {s : State} (c job a n : Nat) (m : SMsg) (use : TagUse) (hs : Keeps σ s) :
    Keeps σ (State.issue s c job a n m use).1 := by
  unfold State.issue
  repeat' (with_reducible
    first
    | assumption | apply State.sendRequest_keeps | split | (intro _) | (apply Keeps.fst_of; assumption)
    | (apply Keeps.snd_of; assumption) | (apply Keeps.some_of; assumption) | exact rfl | apply Keeps.fields)

theorem State.movePiece_keeps {σ : State} {s : State} (c id off n : Nat) (bs : List Byte) (poison : Bool) (hs : Keeps σ s) :
    Keeps σ (State.movePiece s c id off n bs poison) := by
  unfold State.movePiece
  repeat' (with_reducible
    first
    | assumption | apply State.each_keeps | apply State.vmark_keeps | apply State.updMove_keeps | apply State.imgWrite_keeps
    | split | (intro _) | (apply Keeps.fst_of; assumption) | (apply Keeps.snd_of; assumption)
    | (apply Keeps.some_of; assumption) | exact rfl | apply Keeps.fields)

theorem State.moveSent_keeps {σ : State} {x : State × Sent} (c id off n : Nat) (hs : Keeps σ x.1) :
    Keeps σ (State.moveSent x c id off n) := by
  unfold State.moveSent
  repeat' (with_reducible
    first
    | assumption | apply State.movePiece_keeps | apply State.updMove_keeps | split | (intro _)
    | (apply Keeps.fst_of; assumption) | exact rfl | apply Keeps.fields)

theorem State.slpPieces_keeps {σ : State} {s : State} (c id : Nat) (m : PageMove) (n : Nat) (hs : Keeps σ s) :
    Keeps σ (State.slpPieces s c id m n) := by
  unfold State.slpPieces
  repeat' (with_reducible
    first
    | assumption | apply State.updMove_keeps | apply State.each_keeps | apply State.moveSent_keeps | apply State.issue_keeps
    | apply State.when_keeps | extract_lets | split | (intro _) | exact rfl | apply Keeps.fields)

theorem State.moveNext_keeps {σ : State} {s : State} (c id : Nat) (x0 : Nat) (hs : Keeps σ s) :
    Keeps σ (State.moveNext s c id x0) := by
  induction x0 generalizing s with
  | zero =>
    unfold State.moveNext
    repeat' (with_reducible
      first
      | assumption | apply State.updMove_keeps | apply State.slpPieces_keeps | split | (intro _)
      | (apply Keeps.fst_of; assumption) | (apply Keeps.snd_of; assumption) | (apply Keeps.some_of; assumption) | exact rfl
      | apply Keeps.fields)
  | succ n ih =>
    unfold State.moveNext
    repeat' (with_reducible
      first
      | assumption | apply ih | apply State.updMove_keeps | apply State.slpPieces_keeps | split | (intro _)
      | (apply Keeps.fst_of; assumption) | (apply Keeps.snd_of; assumption) | (apply Keeps.some_of; assumption) | exact rfl
      | apply Keeps.fields)

theorem State.moveSettle_keeps {σ : State} {s : State} (c id : Nat) (hs : Keeps σ s) : Keeps σ (State.moveSettle s c id) := by
  unfold State.moveSettle
  repeat' (with_reducible
    first
    | assumption | apply State.moveNext_keeps | (intro _) | exact rfl | apply Keeps.fields)

theorem State.slpTransfer_keeps {σ : State} {s : State} (c id : Nat) (m : PageMove) (hs : Keeps σ s) :
    Keeps σ (State.slpTransfer s c id m) := by
  unfold State.slpTransfer
  repeat' (with_reducible
    first
    | assumption | apply State.moveSettle_keeps | split | (intro _) | exact rfl | apply Keeps.fields)

theorem State.keyNakSource_keeps {σ : State} {s : State} (c : Nat) (t : STag) (st : Nat) (hs : Keeps σ s) :
    Keeps σ (State.keyNakSource s c t st) := by
  unfold State.keyNakSource
  repeat' (with_reducible
    first
    | assumption | apply State.evtJob_keeps | (intro _) | exact rfl | apply Keeps.fields)

theorem State.storeDone_keeps {σ : State} {s : State} (c job num : Nat) (failed : Bool) (hs : Keeps σ s) :
    Keeps σ (State.storeDone s c job num failed) := by
  unfold State.storeDone
  repeat' (with_reducible
    first
    | assumption | apply State.updSlp_keeps | extract_lets | split | (intro _) | exact rfl | apply Keeps.fields)

theorem State.dmvPiece_keeps {σ : State} {s : State} (c j : Nat) (f : DmvRun → DmvRun) (hs : Keeps σ s) :
    Keeps σ (State.dmvPiece s c j f) := by
  unfold State.dmvPiece
  repeat' (with_reducible
    first
    | assumption | apply State.updCh_keeps | (intro _) | exact rfl | apply Keeps.fields)

theorem State.answerUse_keeps {σ : State} {s : State} (c : Nat) (t : STag) (status : Nat) (data : List Byte) (poison : Bool)
    (hs : Keeps σ s) :
    Keeps σ (State.answerUse s c t status data poison) := by
  unfold State.answerUse
  repeat' (with_reducible
    first
    | assumption | apply State.when_keeps | apply State.updSlp_keeps | apply State.complete_keeps | apply State.dmvPiece_keeps
    | apply State.updMove_keeps | apply State.movePiece_keeps | apply State.moveSettle_keeps | apply State.emit_keeps | split
    | (intro _) | (apply Keeps.fst_of; assumption) | (apply Keeps.snd_of; assumption) | (apply Keeps.some_of; assumption)
    | exact rfl | apply Keeps.fields)

theorem State.finishTag_keeps {σ : State} {s : State} (c tag status : Nat) (data : List Byte) (poison : Bool) (hs : Keeps σ s) :
    Keeps σ (State.finishTag s c tag status data poison) := by
  unfold State.finishTag
  repeat' (with_reducible
    first
    | assumption | apply State.when_keeps | apply State.keyNakSource_keeps | apply State.dropTag_keeps
    | apply State.storeDone_keeps | apply State.answerUse_keeps | apply State.retirePlan_keeps | extract_lets | (intro _)
    | exact rfl | apply Keeps.fields)

theorem State.gotResponse_keeps {σ : State} {s : State} (c : Nat) (m : SMsg) (status : Nat) (poison : Bool) (hs : Keeps σ s) :
    Keeps σ (State.gotResponse s c m status poison) := by
  unfold State.gotResponse
  repeat' (with_reducible
    first
    | assumption | apply State.bump_keeps | apply State.finishTag_keeps | extract_lets | split | (intro _) | exact rfl
    | apply Keeps.fields)

theorem State.replyTo_keeps {σ : State} {s : State} (c : Nat) (m r : SMsg) (hs : Keeps σ s) :
    Keeps σ (State.replyTo s c m r) := by
  unfold State.replyTo
  repeat' (with_reducible
    first
    | assumption | apply State.sendBy_keeps | apply State.sendMsg_keeps | split | (intro _) | (apply Keeps.fst_of; assumption)
    | (apply Keeps.snd_of; assumption) | (apply Keeps.some_of; assumption) | exact rfl | apply Keeps.fields)

theorem State.sendNak_keeps {σ : State} {s : State} (c : Nat) (m : SMsg) (st : Nat) (hs : Keeps σ s) :
    Keeps σ (State.sendNak s c m st) := by
  unfold State.sendNak
  repeat' (with_reducible
    first
    | assumption | apply State.bump_keeps | apply State.replyTo_keeps | (intro _) | exact rfl | apply Keeps.fields)

theorem State.keyNakTarget_keeps {σ : State} {s : State} (c : Nat) (m : SMsg) (st : Nat) (hs : Keeps σ s) :
    Keeps σ (State.keyNakTarget s c m st) := by
  unfold State.keyNakTarget
  repeat' (with_reducible
    first
    | assumption | apply State.updSlp_keeps | apply State.evtJob_keeps | apply State.evtPriv_keeps | extract_lets | split
    | (intro _) | exact rfl | apply Keeps.fields)

theorem State.refuseRack_keeps {σ : State} {s : State} (c : Nat) (m : SMsg) (x : Nat × Bool) (hs : Keeps σ s) :
    Keeps σ (State.refuseRack s c m x) := by
  unfold State.refuseRack
  repeat' (with_reducible
    first
    | assumption | apply State.when_keeps | apply State.keyNakTarget_keeps | apply State.sendNak_keeps | (intro _) | exact rfl
    | apply Keeps.fields)

theorem State.performStore_keeps {σ : State} {s : State} (c a : Nat) (m : SMsg) (hs : Keeps σ s) :
    Keeps σ (State.performStore s c a m) := by
  unfold State.performStore
  repeat' (with_reducible
    first
    | assumption | apply State.each_keeps | apply State.vmark_keeps | apply State.vwrite_keeps | extract_lets | split
    | (intro _) | exact rfl | apply Keeps.fields)

theorem State.performLoad_keeps {σ : State} {s : State} (c a : Nat) (m : SMsg) (hs : Keeps σ s) :
    Keeps σ (State.performLoad s c a m) := by
  unfold State.performLoad
  repeat' (with_reducible
    first
    | assumption | apply State.touch_keeps | apply State.sendMsg_keeps | extract_lets | split | (intro _) | exact rfl
    | apply Keeps.fields)

theorem State.performAtomic_keeps {σ : State} {s : State} (c a : Nat) (m : SMsg) (hs : Keeps σ s) :
    Keeps σ (State.performAtomic s c a m) := by
  unfold State.performAtomic
  repeat' (with_reducible
    first
    | assumption | apply State.sendNak_keeps | apply State.sendMsg_keeps | apply State.vwrite_keeps | extract_lets | split
    | (intro _) | exact rfl | apply Keeps.fields)

theorem State.performRack_keeps {σ : State} {s : State} (c : Nat) (m : SMsg) (hs : Keeps σ s) :
    Keeps σ (State.performRack s c m) := by
  unfold State.performRack
  repeat' (with_reducible
    first
    | assumption | apply State.performLoad_keeps | apply State.performStore_keeps | apply State.sendMsg_keeps
    | apply State.performAtomic_keeps | extract_lets | split | (intro _) | (apply Keeps.fst_of; assumption)
    | (apply Keeps.snd_of; assumption) | (apply Keeps.some_of; assumption) | exact rfl | apply Keeps.fields)

theorem State.devSendAs_keeps {σ : State} {s : State} (c slot ch ring : Nat) (use : TagUse) (r : List Byte) (hs : Keeps σ s) :
    Keeps σ (State.devSendAs s c slot ch ring use r).1 := by
  unfold State.devSendAs
  repeat' (with_reducible
    first
    | assumption | apply State.updSlp_keeps | apply State.sendRequest_keeps | apply foldl_keeps | apply foldl_fst_keeps
    | extract_lets | (intro _) | exact rfl | apply Keeps.fields)

theorem State.devSend_keeps {σ : State} {s : State} (c slot ch ring : Nat) (r : List Byte) (hs : Keeps σ s) :
    Keeps σ (State.devSend s c slot ch ring r) := by
  unfold State.devSend
  repeat' (with_reducible
    first
    | assumption | apply State.devSendAs_keeps | (intro _) | exact rfl | apply Keeps.fields)

theorem State.reportStall_keeps {σ : State} {s : State} (c slot : Nat) (hs : Keeps σ s) :
    Keeps σ (State.reportStall s c slot) := by
  unfold State.reportStall
  repeat' (with_reducible
    first
    | assumption | apply State.passToNow_keeps | apply State.updSlp_keeps | apply State.evtPriv_keeps | extract_lets | split
    | (intro _) | (apply Keeps.fst_of; assumption) | (apply Keeps.snd_of; assumption) | (apply Keeps.some_of; assumption)
    | exact rfl | apply Keeps.fields)

theorem State.abandonTag_keeps {σ : State} {s : State} (c tag : Nat) (hs : Keeps σ s) : Keeps σ (State.abandonTag s c tag) := by
  unfold State.abandonTag
  repeat' (with_reducible
    first
    | assumption | apply State.updSlp_keeps | apply State.when_keeps | apply State.storeDone_keeps | apply State.answerUse_keeps
    | extract_lets | split | (intro _) | exact rfl | apply Keeps.fields)

theorem State.abandonSlot_keeps {σ : State} {s : State} (c slot : Nat) (hs : Keeps σ s) :
    Keeps σ (State.abandonSlot s c slot) := by
  unfold State.abandonSlot
  repeat' (with_reducible
    first
    | assumption | apply State.updSlp_keeps | apply State.each_keeps | apply State.abandonTag_keeps
    | apply State.retirePlan_keeps | apply State.evtPriv_keeps | extract_lets | (intro _) | exact rfl | apply Keeps.fields)

theorem State.reviveSlot_keeps {σ : State} {s : State} (c slot : Nat) (hs : Keeps σ s) :
    Keeps σ (State.reviveSlot s c slot) := by
  unfold State.reviveSlot
  repeat' (with_reducible
    first
    | assumption | apply State.when_keeps | apply State.updSlp_keeps | apply State.each_keeps | apply State.dropTag_keeps
    | extract_lets | (intro _) | exact rfl | apply Keeps.fields)

theorem State.slpTearDown_keeps {σ : State} {s : State} (c job : Nat) (hs : Keeps σ s) :
    Keeps σ (State.slpTearDown s c job) := by
  unfold State.slpTearDown
  repeat' (with_reducible
    first
    | assumption | apply State.each_keeps | apply State.wr_keeps | apply State.updSlp_keeps | extract_lets | split | (intro _)
    | exact rfl | apply Keeps.fields)

end Sys2Proof.Machine
end

