-- ==== Sys2Proof/Laws/KeepsAgent.lean ====
section
/-! SUPPORT. Every operation of Machine/Agent.lean keeps what `Keeps` says. -/
namespace Sys2Proof.Machine

theorem State.updCcx_keeps {σ : State} {s : State} (c : Nat) (f : CcxCh → CcxCh) (hs : Keeps σ s) :
    Keeps σ (State.updCcx s c f) := by
  unfold State.updCcx
  repeat' (with_reducible
    first
    | assumption | apply State.updCh_keeps | (intro _) | exact rfl | apply Keeps.fields)

theorem State.cohReply_keeps {σ : State} {s : State} (c : Nat) (m : SMsg) (mtype w18 : Nat) (hs : Keeps σ s) :
    Keeps σ (State.cohReply s c m mtype w18) := by
  unfold State.cohReply
  repeat' (with_reducible
    first
    | assumption | apply State.sendMsg_keeps | (intro _) | exact rfl | apply Keeps.fields)

theorem State.takeMsg_keeps {σ : State} {s : State} (c mtype : Nat) (hs : Keeps σ s) : Keeps σ (State.takeMsg s c mtype).1 := by
  unfold State.takeMsg
  repeat' (with_reducible
    first
    | assumption | apply State.updSlp_keeps | apply State.freeSlots_keeps | split | (intro _) | (apply Keeps.fst_of; assumption)
    | (apply Keeps.snd_of; assumption) | (apply Keeps.some_of; assumption) | exact rfl | apply Keeps.fields)

theorem State.cohTake_keeps {σ : State} {s : State} (c mtype : Nat) (f : State → SMsg → State) (hf : ∀ (a0 : State)
    (a1 : SMsg), Keeps σ a0 → Keeps σ (f a0 a1)) (hs : Keeps σ s) :
    Keeps σ (State.cohTake s c mtype f) := by
  unfold State.cohTake
  repeat' (with_reducible
    first
    | assumption | apply hf | apply State.takeMsg_keeps | apply State.bump_keeps | split | (intro _)
    | (apply Keeps.fst_of; assumption) | (apply Keeps.snd_of; assumption) | (apply Keeps.some_of; assumption) | exact rfl
    | apply Keeps.fields)

theorem State.protoErr_keeps {σ : State} {s : State} (c : Nat) (m : SMsg) (hs : Keeps σ s) :
    Keeps σ (State.protoErr s c m) := by
  unfold State.protoErr
  repeat' (with_reducible
    first
    | assumption | apply State.bump_keeps | apply State.updCcx_keeps | apply State.evtPriv_keeps | extract_lets | split
    | (intro _) | exact rfl | apply Keeps.fields)

theorem State.setLine_keeps {σ : State} {s : State} (a g : Nat) (l : CLine) (hs : Keeps σ s) :
    Keeps σ (State.setLine s a g l) := by
  unfold State.setLine
  repeat' (with_reducible
    first
    | assumption | apply State.updCcx_keeps | (intro _) | exact rfl | apply Keeps.fields)

theorem State.agentSend_keeps {σ : State} {s : State} (a g : Nat) (l : CLine) (st : LineState) (hs : Keeps σ s) :
    Keeps σ (State.agentSend s a g l st).1 := by
  unfold State.agentSend
  repeat' (with_reducible
    first
    | assumption | apply State.sendRequest_keeps | apply State.setLine_keeps | extract_lets | split | (intro _)
    | (apply Keeps.fst_of; assumption) | (apply Keeps.snd_of; assumption) | (apply Keeps.some_of; assumption) | exact rfl
    | apply Keeps.fields)

theorem State.evictLine_keeps {σ : State} {s : State} (a g : Nat) (hs : Keeps σ s) : Keeps σ (State.evictLine s a g).1 := by
  unfold State.evictLine
  repeat' (with_reducible
    first
    | assumption | apply State.agentSend_keeps | (intro _) | exact rfl | apply Keeps.fields)

theorem State.accEnd_keeps {σ : State} {s : State} (a : Nat) (x : CAcc) (status : Nat) (data : List Byte) (poison : Bool)
    (hs : Keeps σ s) :
    Keeps σ (State.accEnd s a x status data poison) := by
  unfold State.accEnd
  repeat' (with_reducible
    first
    | assumption | apply State.updCcx_keeps | apply State.when_keeps | apply State.storeDone_keeps | apply State.answerUse_keeps
    | extract_lets | (intro _) | exact rfl | apply Keeps.fields)

theorem State.accLoad_keeps {σ : State} {s : State} (a : Nat) (x : CAcc) (l : CLine) (hs : Keeps σ s) :
    Keeps σ (State.accLoad s a x l) := by
  unfold State.accLoad
  repeat' (with_reducible
    first
    | assumption | apply State.accEnd_keeps | (intro _) | exact rfl | apply Keeps.fields)

theorem State.accStore_keeps {σ : State} {s : State} (a : Nat) (x : CAcc) (l : CLine) (hs : Keeps σ s) :
    Keeps σ (State.accStore s a x l) := by
  unfold State.accStore
  repeat' (with_reducible
    first
    | assumption | apply State.setLine_keeps | apply State.accEnd_keeps | extract_lets | split | (intro _) | exact rfl
    | apply Keeps.fields)

theorem State.accMiss_keeps {σ : State} {s : State} (a : Nat) (x : CAcc) (hs : Keeps σ s) : Keeps σ (State.accMiss s a x) := by
  unfold State.accMiss
  repeat' (with_reducible
    first
    | assumption | apply State.agentSend_keeps | apply State.accEnd_keeps | apply State.updCcx_keeps
    | apply State.evictLine_keeps | extract_lets | split | (intro _) | (apply Keeps.fst_of; assumption)
    | (apply Keeps.snd_of; assumption) | (apply Keeps.some_of; assumption) | exact rfl | apply Keeps.fields)

theorem State.accTry_keeps {σ : State} {s : State} (a : Nat) (x : CAcc) (hs : Keeps σ s) : Keeps σ (State.accTry s a x) := by
  unfold State.accTry
  repeat' (with_reducible
    first
    | assumption | apply State.agentSend_keeps | apply State.accEnd_keeps | apply State.accMiss_keeps
    | apply State.accLoad_keeps | apply State.accStore_keeps | extract_lets | split | (intro _)
    | (apply Keeps.fst_of; assumption) | (apply Keeps.snd_of; assumption) | (apply Keeps.some_of; assumption) | exact rfl
    | apply Keeps.fields)

theorem State.flushLines_keeps {σ : State} {s : State} (a : Nat) (hs : Keeps σ s) : Keeps σ (State.flushLines s a) := by
  unfold State.flushLines
  repeat' (with_reducible
    first
    | assumption | apply State.each_keeps | apply State.evictLine_keeps | extract_lets | split | (intro _) | exact rfl
    | apply Keeps.fields)

theorem State.flushDone_keeps {σ : State} {s : State} (a : Nat) (hs : Keeps σ s) : Keeps σ (State.flushDone s a) := by
  unfold State.flushDone
  repeat' (with_reducible
    first
    | assumption | apply State.updCcx_keeps | apply State.each_keeps | apply State.complete_keeps | extract_lets | (intro _)
    | exact rfl | apply Keeps.fields)

theorem State.agentTry_keeps {σ : State} {s : State} (a : Nat) (hs : Keeps σ s) : Keeps σ (State.agentTry s a) := by
  unfold State.agentTry
  repeat' (with_reducible
    first
    | assumption | apply State.flushLines_keeps | apply State.flushDone_keeps | apply State.each_keeps
    | apply State.accTry_keeps | extract_lets | split | (intro _) | exact rfl | apply Keeps.fields)

theorem State.accsEnd_keeps {σ : State} {s : State} (a g status : Nat) (all : Bool) (num : Option Nat) (hs : Keeps σ s) :
    Keeps σ (State.accsEnd s a g status all num) := by
  unfold State.accsEnd
  repeat' (with_reducible
    first
    | assumption | apply State.each_keeps | apply State.accEnd_keeps | split | (intro _) | exact rfl | apply Keeps.fields)

theorem State.sendCmp_keeps {σ : State} {s : State} (a g tag state : Nat) (hs : Keeps σ s) :
    Keeps σ (State.sendCmp s a g tag state) := by
  unfold State.sendCmp
  repeat' (with_reducible
    first
    | assumption | apply State.sendMsg_keeps | (intro _) | exact rfl | apply Keeps.fields)

theorem State.grantDone_keeps {σ : State} {s : State} (a g : Nat) (hs : Keeps σ s) : Keeps σ (State.grantDone s a g) := by
  unfold State.grantDone
  repeat' (with_reducible
    first
    | assumption | apply State.dropTag_keeps | apply State.setLine_keeps | apply State.sendCmp_keeps | apply State.accsEnd_keeps
    | apply State.accEnd_keeps | extract_lets | split | (intro _) | (apply Keeps.fst_of; assumption)
    | (apply Keeps.snd_of; assumption) | (apply Keeps.some_of; assumption) | exact rfl | apply Keeps.fields)

theorem State.agentNak_keeps {σ : State} {s : State} (a g : Nat) (m : SMsg) (hs : Keeps σ s) :
    Keeps σ (State.agentNak s a g m) := by
  unfold State.agentNak
  repeat' (with_reducible
    first
    | assumption | apply State.each_keeps | apply State.keyNakSource_keeps | (intro _) | exact rfl | apply Keeps.fields)

theorem State.agentGnt_keeps {σ : State} {s : State} (a g : Nat) (m : SMsg) (hs : Keeps σ s) :
    Keeps σ (State.agentGnt s a g m) := by
  unfold State.agentGnt
  repeat' (with_reducible
    first
    | assumption | apply State.protoErr_keeps | apply State.when_keeps | apply State.agentNak_keeps | apply State.dropTag_keeps
    | apply State.setLine_keeps | apply State.accsEnd_keeps | apply State.grantDone_keeps | extract_lets | split | (intro _)
    | exact rfl | apply Keeps.fields)

theorem State.agentData_keeps {σ : State} {s : State} (a g : Nat) (m : SMsg) (hs : Keeps σ s) :
    Keeps σ (State.agentData s a g m) := by
  unfold State.agentData
  repeat' (with_reducible
    first
    | assumption | apply State.protoErr_keeps | apply State.setLine_keeps | apply State.grantDone_keeps | extract_lets | split
    | (intro _) | exact rfl | apply Keeps.fields)

theorem State.agentRetry_keeps {σ : State} {s : State} (a g : Nat) (m : SMsg) (hs : Keeps σ s) :
    Keeps σ (State.agentRetry s a g m) := by
  unfold State.agentRetry
  repeat' (with_reducible
    first
    | assumption | apply State.protoErr_keeps | apply State.setLine_keeps | extract_lets | split | (intro _) | exact rfl
    | apply Keeps.fields)

theorem State.agentEvAck_keeps {σ : State} {s : State} (a g : Nat) (m : SMsg) (hs : Keeps σ s) :
    Keeps σ (State.agentEvAck s a g m) := by
  unfold State.agentEvAck
  repeat' (with_reducible
    first
    | assumption | apply State.protoErr_keeps | apply State.dropTag_keeps | apply State.setLine_keeps | split | (intro _)
    | exact rfl | apply Keeps.fields)

theorem State.lineResend_keeps {σ : State} {s : State} (a g : Nat) (hs : Keeps σ s) : Keeps σ (State.lineResend s a g) := by
  unfold State.lineResend
  repeat' (with_reducible
    first
    | assumption | apply State.setLine_keeps | apply State.sendMsg_keeps | extract_lets | (intro _) | exact rfl
    | apply Keeps.fields)

theorem State.sendSrsp_keeps {σ : State} {s : State} (a : Nat) (m : SMsg) (st : Nat) (ex dirty : Bool) (hs : Keeps σ s) :
    Keeps σ (State.sendSrsp s a m st ex dirty) := by
  unfold State.sendSrsp
  repeat' (with_reducible
    first
    | assumption | apply State.cohReply_keeps | (intro _) | exact rfl | apply Keeps.fields)

theorem State.sendData_keeps {σ : State} {s : State} (a : Nat) (m : SMsg) (bs : List Byte) (dirty poison : Bool)
    (hs : Keeps σ s) :
    Keeps σ (State.sendData s a m bs dirty poison) := by
  unfold State.sendData
  repeat' (with_reducible
    first
    | assumption | apply State.sendMsg_keeps | (intro _) | exact rfl | apply Keeps.fields)

theorem State.agentSnoop_keeps {σ : State} {s : State} (a : Nat) (m : SMsg) (hs : Keeps σ s) :
    Keeps σ (State.agentSnoop s a m) := by
  unfold State.agentSnoop
  repeat' (with_reducible
    first
    | assumption | apply State.protoErr_keeps | apply State.sendSrsp_keeps | apply State.when_keeps | apply State.sendData_keeps
    | apply State.setLine_keeps | extract_lets | split | (intro _) | (apply Keeps.fst_of; assumption)
    | (apply Keeps.snd_of; assumption) | (apply Keeps.some_of; assumption) | exact rfl | apply Keeps.fields)

theorem State.cacheIssue_keeps {σ : State} {s : State} (c job kind a : Nat) (d : List Byte) (n aop op0 op1 : Nat)
    (use : TagUse) (hs : Keeps σ s) :
    Keeps σ (State.cacheIssue s c job kind a d n aop op0 op1 use).1 := by
  unfold State.cacheIssue
  repeat' (with_reducible
    first
    | assumption | apply State.updCcx_keeps | extract_lets | split | (intro _) | (apply Keeps.fst_of; assumption)
    | (apply Keeps.snd_of; assumption) | (apply Keeps.some_of; assumption) | exact rfl | apply Keeps.fields)

theorem State.ccxTearDown_keeps {σ : State} {s : State} (c job : Nat) (hs : Keeps σ s) :
    Keeps σ (State.ccxTearDown s c job) := by
  unfold State.ccxTearDown
  repeat' (with_reducible
    first
    | assumption | apply State.updCcx_keeps | (intro _) | exact rfl | apply Keeps.fields)

end Sys2Proof.Machine
end

