-- ==== Sys2Proof/Laws/KeepsArbiter.lean ====
section
/-! SUPPORT. Every operation of Machine/Arbiter.lean keeps what `Keeps` says. -/
namespace Sys2Proof.Machine

theorem State.setFent_keeps {σ : State} {s : State} (a g : Nat) (e : FEntry) (hs : Keeps σ s) :
    Keeps σ (State.setFent s a g e) := by
  unfold State.setFent
  repeat' (with_reducible
    first
    | assumption | apply State.updCcx_keeps | (intro _) | exact rfl | apply Keeps.fields)

theorem State.updTrans_keeps {σ : State} {s : State} (a g : Nat) (f : Trans → Trans) (hs : Keeps σ s) :
    Keeps σ (State.updTrans s a g f) := by
  unfold State.updTrans
  repeat' (with_reducible
    first
    | assumption | apply State.setFent_keeps | extract_lets | (intro _) | exact rfl | apply Keeps.fields)

theorem State.sendSnoop_keeps {σ : State} {s : State} (a g : Nat) (t : Trans) (x : Nat × Nat) (hs : Keeps σ s) :
    Keeps σ (State.sendSnoop s a g t x) := by
  unfold State.sendSnoop
  repeat' (with_reducible
    first
    | assumption | apply State.bump_keeps | apply State.sendMsg_keeps | (intro _) | exact rfl | apply Keeps.fields)

theorem State.sendHome_keeps {σ : State} {s : State} (a g mtype : Nat) (t : Trans) (d : List Byte) (hs : Keeps σ s) :
    Keeps σ (State.sendHome s a g mtype t d).1 := by
  unfold State.sendHome
  repeat' (with_reducible
    first
    | assumption | apply State.sendRequest_keeps | apply State.updTrans_keeps | extract_lets | split | (intro _)
    | (apply Keeps.fst_of; assumption) | (apply Keeps.snd_of; assumption) | (apply Keeps.some_of; assumption) | exact rfl
    | apply Keeps.fields)

theorem State.sendMrd_keeps {σ : State} {s : State} (a g : Nat) (t : Trans) (hs : Keeps σ s) :
    Keeps σ (State.sendMrd s a g t) := by
  unfold State.sendMrd
  repeat' (with_reducible
    first
    | assumption | apply State.sendHome_keeps | apply State.updTrans_keeps | split | (intro _)
    | (apply Keeps.fst_of; assumption) | (apply Keeps.snd_of; assumption) | (apply Keeps.some_of; assumption) | exact rfl
    | apply Keeps.fields)

theorem State.sendGnt_keeps {σ : State} {s : State} (a g : Nat) (t : Trans) (hs : Keeps σ s) :
    Keeps σ (State.sendGnt s a g t) := by
  unfold State.sendGnt
  repeat' (with_reducible
    first
    | assumption | apply State.sendMsg_keeps | (intro _) | exact rfl | apply Keeps.fields)

theorem State.sendEvAck_keeps {σ : State} {s : State} (a g : Nat) (t : Trans) (hs : Keeps σ s) :
    Keeps σ (State.sendEvAck s a g t) := by
  unfold State.sendEvAck
  repeat' (with_reducible
    first
    | assumption | apply State.sendMsg_keeps | (intro _) | exact rfl | apply Keeps.fields)

theorem State.freeHome_keeps {σ : State} {s : State} (a g : Nat) (t : Trans) (hs : Keeps σ s) :
    Keeps σ (State.freeHome s a g t) := by
  unfold State.freeHome
  repeat' (with_reducible
    first
    | assumption | apply State.when_keeps | apply State.dropTag_keeps | apply State.updTrans_keeps | (intro _) | exact rfl
    | apply Keeps.fields)

theorem State.beginTrans_keeps {σ : State} {s : State} (a g : Nat) (t : Trans) (hs : Keeps σ s) :
    Keeps σ (State.beginTrans s a g t) := by
  unfold State.beginTrans
  repeat' (with_reducible
    first
    | assumption | apply State.setFent_keeps | apply State.when_keeps | apply State.sendMrd_keeps | apply State.each_keeps
    | apply State.sendSnoop_keeps | extract_lets | (intro _) | exact rfl | apply Keeps.fields)

theorem State.transGo_keeps {σ : State} {s : State} (a g : Nat) (x0 : Nat) (hs : Keeps σ s) :
    Keeps σ (State.transGo s a g x0) := by
  induction x0 generalizing s a g with
  | zero =>
    unfold State.transGo
    repeat' (with_reducible
      first
      | assumption | apply State.beginTrans_keeps | apply State.freeHome_keeps | apply State.sendGnt_keeps
      | apply State.sendHome_keeps | apply State.setFent_keeps | apply State.updTrans_keeps | extract_lets | split | (intro _)
      | (apply Keeps.fst_of; assumption) | (apply Keeps.some_of; assumption) | exact rfl | apply Keeps.fields)
  | succ n ih =>
    unfold State.transGo
    repeat' (with_reducible
      first
      | assumption | apply ih | apply State.beginTrans_keeps | apply State.freeHome_keeps | apply State.sendGnt_keeps
      | apply State.sendHome_keeps | apply State.setFent_keeps | apply State.updTrans_keeps | extract_lets | split | (intro _)
      | (apply Keeps.fst_of; assumption) | (apply Keeps.some_of; assumption) | exact rfl | apply Keeps.fields)

theorem State.endTrans_keeps {σ : State} {s : State} (a g : Nat) (t : Trans) (e : FEntry) (hs : Keeps σ s) :
    Keeps σ (State.endTrans s a g t e) := by
  unfold State.endTrans
  repeat' (with_reducible
    first
    | assumption | apply State.freeHome_keeps | apply State.setFent_keeps | apply State.retirePlan_keeps | (intro _) | exact rfl
    | apply Keeps.fields)

theorem State.arbNak_keeps {σ : State} {s : State} (a : Nat) (m : SMsg) (st : Nat) (hs : Keeps σ s) :
    Keeps σ (State.arbNak s a m st) := by
  unfold State.arbNak
  repeat' (with_reducible
    first
    | assumption | apply State.updSlp_keeps | apply State.evtPriv_keeps | extract_lets | split | (intro _) | exact rfl
    | apply Keeps.fields)

theorem State.unreserve_keeps {σ : State} {s : State} (a g : Nat) (hs : Keeps σ s) : Keeps σ (State.unreserve s a g) := by
  unfold State.unreserve
  repeat' (with_reducible
    first
    | assumption | apply State.updCcx_keeps | (intro _) | exact rfl | apply Keeps.fields)

theorem State.arbRefuse_keeps {σ : State} {s : State} (a who : Nat) (m : SMsg) (hs : Keeps σ s) :
    Keeps σ (State.arbRefuse s a who m) := by
  unfold State.arbRefuse
  repeat' (with_reducible
    first
    | assumption | apply State.cohReply_keeps | apply State.bump_keeps | apply State.unreserve_keeps | apply State.updCcx_keeps
    | extract_lets | split | (intro _) | (apply Keeps.fst_of; assumption) | (apply Keeps.snd_of; assumption)
    | (apply Keeps.some_of; assumption) | exact rfl | apply Keeps.fields)

theorem State.arbServed_keeps {σ : State} {s : State} (a g : Nat) (hs : Keeps σ s) : Keeps σ (State.arbServed s a g) := by
  unfold State.arbServed
  repeat' (with_reducible
    first
    | assumption | apply State.bump_keeps | apply State.when_keeps | apply State.unreserve_keeps | (intro _) | exact rfl
    | apply Keeps.fields)

theorem State.evictEntry_keeps {σ : State} {s : State} (a g : Nat) (hs : Keeps σ s) : Keeps σ (State.evictEntry s a g) := by
  unfold State.evictEntry
  repeat' (with_reducible
    first
    | assumption | apply State.takeTag_keeps | apply State.bump_keeps | apply State.beginTrans_keeps | apply State.transGo_keeps
    | extract_lets | split | (intro _) | (apply Keeps.fst_of; assumption) | (apply Keeps.snd_of; assumption)
    | (apply Keeps.some_of; assumption) | exact rfl | apply Keeps.fields)

theorem State.placeReq_keeps {σ : State} {s : State} (a g : Nat) (t : Trans) (hs : Keeps σ s) :
    KeepsSome σ (State.placeReq s a g t) := by
  unfold State.placeReq
  repeat' (with_reducible
    first
    | assumption | apply State.setFent_keeps | apply State.beginTrans_keeps | apply State.transGo_keeps
    | apply State.updCcx_keeps | apply State.evictEntry_keeps | exact KeepsSome.none | apply KeepsSome.some
    | apply KeepsSome.map | apply KeepsSome.bind | (apply Keeps.some_of; assumption) | extract_lets | split | (intro _)
    | (apply Keeps.fst_of; assumption) | (apply Keeps.snd_of; assumption) | exact rfl | apply Keeps.fields)

theorem State.arbStale_keeps {σ : State} {s : State} (a : Nat) (m : SMsg) (hs : Keeps σ s) :
    Keeps σ (State.arbStale s a m) := by
  unfold State.arbStale
  repeat' (with_reducible
    first
    | assumption | apply State.cohReply_keeps | apply State.bump_keeps | (intro _) | exact rfl | apply Keeps.fields)

theorem State.arbEvict_keeps {σ : State} {s : State} (a kind who : Nat) (m : SMsg) (hs : Keeps σ s) :
    Keeps σ (State.arbEvict s a kind who m) := by
  unfold State.arbEvict
  repeat' (with_reducible
    first
    | assumption | apply State.arbServed_keeps | apply State.setFent_keeps | apply State.sendHome_keeps
    | apply State.sendEvAck_keeps | apply State.endTrans_keeps | apply State.arbStale_keeps | extract_lets | split | (intro _)
    | (apply Keeps.fst_of; assumption) | (apply Keeps.snd_of; assumption) | (apply Keeps.some_of; assumption) | exact rfl
    | apply Keeps.fields)

theorem State.arbServe_keeps {σ : State} {s : State} (a kind : Nat) (m : SMsg) (hs : Keeps σ s) :
    Keeps σ (State.arbServe s a kind m) := by
  unfold State.arbServe
  repeat' (with_reducible
    first
    | assumption | apply State.protoErr_keeps | apply State.arbRefuse_keeps | apply State.arbEvict_keeps
    | apply State.arbServed_keeps | apply State.cohReply_keeps | apply State.arbNak_keeps | apply State.beginTrans_keeps
    | apply State.transGo_keeps | apply State.placeReq_keeps | exact KeepsSome.none | apply KeepsSome.some | apply KeepsSome.map
    | apply KeepsSome.bind | (apply Keeps.some_of; assumption) | extract_lets | split | (intro _)
    | (apply Keeps.fst_of; assumption) | (apply Keeps.snd_of; assumption) | exact rfl | apply Keeps.fields)

theorem State.arbRequest_keeps {σ : State} {s : State} (a kind : Nat) (m : SMsg) (hs : Keeps σ s) :
    Keeps σ (State.arbRequest s a kind m) := by
  unfold State.arbRequest
  repeat' (with_reducible
    first
    | assumption | apply State.arbServe_keeps | apply State.updCcx_keeps | apply State.updSlp_keeps
    | apply State.freeSlots_keeps | extract_lets | split | (intro _) | (apply Keeps.fst_of; assumption)
    | (apply Keeps.snd_of; assumption) | (apply Keeps.some_of; assumption) | exact rfl | apply Keeps.fields)

theorem State.arbSrsp_keeps {σ : State} {s : State} (a : Nat) (m : SMsg) (hs : Keeps σ s) : Keeps σ (State.arbSrsp s a m) := by
  unfold State.arbSrsp
  repeat' (with_reducible
    first
    | assumption | apply State.protoErr_keeps | apply State.setFent_keeps | apply State.when_keeps | apply State.sendMrd_keeps
    | apply State.transGo_keeps | extract_lets | split | (intro _) | (apply Keeps.fst_of; assumption)
    | (apply Keeps.snd_of; assumption) | (apply Keeps.some_of; assumption) | exact rfl | apply Keeps.fields)

theorem State.arbCmp_keeps {σ : State} {s : State} (a : Nat) (m : SMsg) (hs : Keeps σ s) : Keeps σ (State.arbCmp s a m) := by
  unfold State.arbCmp
  repeat' (with_reducible
    first
    | assumption | apply State.protoErr_keeps | apply State.endTrans_keeps | extract_lets | split | (intro _)
    | (apply Keeps.fst_of; assumption) | (apply Keeps.snd_of; assumption) | (apply Keeps.some_of; assumption) | exact rfl
    | apply Keeps.fields)

theorem State.arbData_keeps {σ : State} {s : State} (a g : Nat) (m : SMsg) (hs : Keeps σ s) :
    Keeps σ (State.arbData s a g m) := by
  unfold State.arbData
  repeat' (with_reducible
    first
    | assumption | apply State.dropTag_keeps | apply State.updTrans_keeps | apply State.transGo_keeps | extract_lets | split
    | (intro _) | (apply Keeps.fst_of; assumption) | (apply Keeps.snd_of; assumption) | (apply Keeps.some_of; assumption)
    | exact rfl | apply Keeps.fields)

theorem State.mwrDone_keeps {σ : State} {s : State} (a g : Nat) (t : Trans) (hs : Keeps σ s) :
    Keeps σ (State.mwrDone s a g t) := by
  unfold State.mwrDone
  repeat' (with_reducible
    first
    | assumption | apply State.sendEvAck_keeps | apply State.endTrans_keeps | apply State.when_keeps | apply State.dropTag_keeps
    | apply State.updTrans_keeps | apply State.transGo_keeps | extract_lets | split | (intro _) | exact rfl
    | apply Keeps.fields)

theorem State.arbMwrAck_keeps {σ : State} {s : State} (a : Nat) (m : SMsg) (hs : Keeps σ s) :
    Keeps σ (State.arbMwrAck s a m) := by
  unfold State.arbMwrAck
  repeat' (with_reducible
    first
    | assumption | apply State.bump_keeps | apply State.mwrDone_keeps | apply State.protoErr_keeps | split | (intro _)
    | (apply Keeps.fst_of; assumption) | (apply Keeps.snd_of; assumption) | (apply Keeps.some_of; assumption) | exact rfl
    | apply Keeps.fields)

theorem State.psnDone_keeps {σ : State} {s : State} (a g : Nat) (t : Trans) (hs : Keeps σ s) :
    Keeps σ (State.psnDone s a g t) := by
  unfold State.psnDone
  repeat' (with_reducible
    first
    | assumption | apply State.when_keeps | apply State.dropTag_keeps | apply State.setFent_keeps | apply State.each_keeps
    | apply State.sendSnoop_keeps | apply State.sendMrd_keeps | apply State.transGo_keeps | extract_lets | (intro _) | exact rfl
    | apply Keeps.fields)

theorem State.arbPsnAck_keeps {σ : State} {s : State} (a : Nat) (m : SMsg) (hs : Keeps σ s) :
    Keeps σ (State.arbPsnAck s a m) := by
  unfold State.arbPsnAck
  repeat' (with_reducible
    first
    | assumption | apply State.psnDone_keeps | apply State.protoErr_keeps | split | (intro _) | (apply Keeps.fst_of; assumption)
    | (apply Keeps.snd_of; assumption) | (apply Keeps.some_of; assumption) | exact rfl | apply Keeps.fields)

theorem State.deadRequester_keeps {σ : State} {s : State} (a k : Nat) (hs : Keeps σ s) :
    Keeps σ (State.deadRequester s a k) := by
  unfold State.deadRequester
  repeat' (with_reducible
    first
    | assumption | apply State.each_keeps | apply State.setFent_keeps | apply State.endTrans_keeps | split | (intro _)
    | (apply Keeps.fst_of; assumption) | (apply Keeps.snd_of; assumption) | (apply Keeps.some_of; assumption) | exact rfl
    | apply Keeps.fields)

theorem State.poisonEntry_keeps {σ : State} {s : State} (a k g : Nat) (hs : Keeps σ s) :
    Keeps σ (State.poisonEntry s a k g) := by
  unfold State.poisonEntry
  repeat' (with_reducible
    first
    | assumption | apply State.setFent_keeps | apply State.sendHome_keeps | apply State.psnDone_keeps | extract_lets | split
    | (intro _) | (apply Keeps.fst_of; assumption) | (apply Keeps.snd_of; assumption) | (apply Keeps.some_of; assumption)
    | exact rfl | apply Keeps.fields)

theorem State.deadOwner_keeps {σ : State} {s : State} (a k : Nat) (hs : Keeps σ s) : Keeps σ (State.deadOwner s a k) := by
  unfold State.deadOwner
  repeat' (with_reducible
    first
    | assumption | apply State.each_keeps | apply State.poisonEntry_keeps | (intro _) | exact rfl | apply Keeps.fields)

theorem State.deadSharer_keeps {σ : State} {s : State} (a k : Nat) (hs : Keeps σ s) : Keeps σ (State.deadSharer s a k) := by
  unfold State.deadSharer
  repeat' (with_reducible
    first
    | assumption | apply State.each_keeps | apply State.setFent_keeps | apply State.transGo_keeps | extract_lets | split
    | (intro _) | exact rfl | apply Keeps.fields)

theorem State.homeGone_keeps {σ : State} {s : State} (a slot : Nat) (hs : Keeps σ s) : Keeps σ (State.homeGone s a slot) := by
  unfold State.homeGone
  repeat' (with_reducible
    first
    | assumption | apply State.each_keeps | apply State.updSlp_keeps | apply State.updTrans_keeps | apply State.sendGnt_keeps
    | apply State.transGo_keeps | apply State.mwrDone_keeps | apply State.psnDone_keeps | extract_lets | split | (intro _)
    | (apply Keeps.fst_of; assumption) | (apply Keeps.snd_of; assumption) | (apply Keeps.some_of; assumption) | exact rfl
    | apply Keeps.fields)

end Sys2Proof.Machine
end

