-- ==== Sys2Proof/Laws/KeepsMailbox.lean ====
section
/-! SUPPORT. Every operation of Machine/Mailbox.lean keeps what `Keeps` says. -/
namespace Sys2Proof.Machine

theorem State.setMbx_keeps {σ : State} {s : State} (f : Mbx → Mbx) (hs : Keeps σ s) : Keeps σ (State.setMbx s f) := by
  unfold State.setMbx
  repeat' (with_reducible
    first
    | assumption | (intro _) | exact rfl | apply Keeps.fields)

theorem State.updBox_keeps {σ : State} {s : State} (n : Nat) (f : Mailbox → Mailbox) (hs : Keeps σ s) :
    Keeps σ (State.updBox s n f) := by
  unfold State.updBox
  repeat' (with_reducible
    first
    | assumption | apply State.setMbx_keeps | (intro _) | exact rfl | apply Keeps.fields)

theorem State.wakeCore_keeps {σ : State} {s : State} (k : Nat) (hs : Keeps σ s) : Keeps σ (State.wakeCore s k) := by
  unfold State.wakeCore
  repeat' (with_reducible
    first
    | assumption | apply State.emit_keeps | apply State.bump_keeps | apply State.wake_keeps | extract_lets | split | (intro _)
    | (apply Keeps.fst_of; assumption) | (apply Keeps.snd_of; assumption) | (apply Keeps.some_of; assumption) | exact rfl
    | apply Keeps.fields)

theorem State.setRoute_keeps {σ : State} {s : State} (n k : Nat) (hs : Keeps σ s) : Keeps σ (State.setRoute s n k) := by
  unfold State.setRoute
  repeat' (with_reducible
    first
    | assumption | apply State.wr_keeps | apply State.when_keeps | apply State.wakeCore_keeps | (intro _) | exact rfl
    | apply Keeps.fields)

theorem State.rerouteFrom_keeps {σ : State} {s : State} (c : Nat) (hs : Keeps σ s) : Keeps σ (State.rerouteFrom s c) := by
  unfold State.rerouteFrom
  repeat' (with_reducible
    first
    | assumption | apply State.each_keeps | apply State.setRoute_keeps | split | (intro _) | exact rfl | apply Keeps.fields)

theorem execMbxRouteWrite_keeps {σ : State} {s : State} (rq : Requester) (v : Word) (hs : Keeps σ s) :
    KeepsNext σ (execMbxRouteWrite rq v s) := by
  unfold execMbxRouteWrite
  repeat' (with_reducible
    first
    | assumption | apply State.onWrite_keeps | apply State.setRoute_keeps | apply State.logIgnored_keeps | apply KeepsNext.next
    | extract_lets | split | (intro _) | exact rfl | apply Keeps.fields)

theorem State.collide_keeps {σ : State} {s : State} (n : Nat) (hs : Keeps σ s) : Keeps σ (State.collide s n) := by
  unfold State.collide
  repeat' (with_reducible
    first
    | assumption | apply State.updBox_keeps | apply State.bump_keeps | apply State.when_keeps | apply State.evt_keeps
    | extract_lets | (intro _) | exact rfl | apply Keeps.fields)

theorem execMbDataWrite_keeps {σ : State} {s : State} (rq : Requester) (box off : Nat) (v : Word) (hs : Keeps σ s) :
    KeepsNext σ (execMbDataWrite rq box off v s) := by
  unfold execMbDataWrite
  repeat' (with_reducible
    first
    | assumption | apply State.ioUr_keeps | apply State.updBox_keeps | apply State.when_keeps | apply State.collide_keeps
    | apply KeepsNext.next | split | (intro _) | exact rfl | apply Keeps.fields)

theorem State.senderOf_keeps {σ : State} {s : State} (rq : Requester) (n : Nat) (pasid : Option Nat) (hs : Keeps σ s) :
    Keeps σ (State.senderOf s rq n pasid).2 := by
  unfold State.senderOf
  repeat' (with_reducible
    first
    | assumption | apply State.drawNat_keeps | extract_lets | split | (intro _) | (apply Keeps.fst_of; assumption)
    | (apply Keeps.snd_of; assumption) | (apply Keeps.some_of; assumption) | exact rfl | apply Keeps.fields)

theorem State.go_keeps {σ : State} {s : State} (rq : Requester) (n : Nat) (pasid : Option Nat) (hs : Keeps σ s) :
    Keeps σ (State.go s rq n pasid) := by
  unfold State.go
  repeat' (with_reducible
    first
    | assumption | apply State.when_keeps | apply State.collide_keeps | apply State.senderOf_keeps | apply State.updBox_keeps
    | apply State.bump_keeps | apply State.wakeCore_keeps | extract_lets | split | (intro _) | (apply Keeps.fst_of; assumption)
    | (apply Keeps.snd_of; assumption) | (apply Keeps.some_of; assumption) | exact rfl | apply Keeps.fields)

theorem execMbGo_keeps {σ : State} {s : State} (rq : Requester) (box : Nat) (pasid : Option Nat) (hs : Keeps σ s) :
    KeepsNext σ (execMbGo rq box pasid s) := by
  unfold execMbGo
  repeat' (with_reducible
    first
    | assumption | apply State.ioUr_keeps | apply State.when_keeps | apply State.go_keeps | apply KeepsNext.next | split
    | (intro _) | exact rfl | apply Keeps.fields)

theorem State.latchBox_keeps {σ : State} {s : State} (n : Nat) (hs : Keeps σ s) : Keeps σ (State.latchBox s n) := by
  unfold State.latchBox
  repeat' (with_reducible
    first
    | assumption | apply State.setMbx_keeps | apply State.wr_keeps | apply State.wr64_keeps | apply State.each_keeps
    | apply State.wrAt_keeps | extract_lets | split | (intro _) | exact rfl | apply Keeps.fields)

theorem execMbxRxSeqRead_keeps {σ : State} {s : State} (rq : Requester) (hs : Keeps σ s) :
    KeepsNext σ (execMbxRxSeqRead rq s) := by
  unfold execMbxRxSeqRead
  repeat' (with_reducible
    first
    | assumption | apply State.ioUr_keeps | apply State.when_keeps | apply State.latchBox_keeps | apply State.emit_keeps
    | apply KeepsNext.next | extract_lets | split | (intro _) | exact rfl | apply Keeps.fields)

theorem State.boxIrq_keeps {σ : State} {s : State} (n sender : Nat) (hs : Keeps σ s) : Keeps σ (State.boxIrq s n sender) := by
  unfold State.boxIrq
  repeat' (with_reducible
    first
    | assumption | apply State.sendIrq_keeps | apply State.emit_keeps | extract_lets | split | (intro _)
    | (apply Keeps.fst_of; assumption) | (apply Keeps.snd_of; assumption) | (apply Keeps.some_of; assumption) | exact rfl
    | apply Keeps.fields)

theorem State.emptyBox_keeps {σ : State} {s : State} (n : Nat) (hs : Keeps σ s) : Keeps σ (State.emptyBox s n) := by
  unfold State.emptyBox
  repeat' (with_reducible
    first
    | assumption | apply State.updBox_keeps | apply State.setMbx_keeps | (intro _) | exact rfl | apply Keeps.fields)

theorem State.staleEmpty_keeps {σ : State} {s : State} (n : Nat) (hs : Keeps σ s) : Keeps σ (State.staleEmpty s n) := by
  unfold State.staleEmpty
  repeat' (with_reducible
    first
    | assumption | apply State.bump_keeps | apply State.when_keeps | apply State.setMbx_keeps | apply State.evt_keeps
    | apply State.wakeCore_keeps | extract_lets | (intro _) | exact rfl | apply Keeps.fields)

theorem execEmpty_keeps {σ : State} {s : State} (rq : Requester) (hs : Keeps σ s) : KeepsNext σ (execEmpty rq s) := by
  unfold execEmpty
  repeat' (with_reducible
    first
    | assumption | apply State.onWrite_keeps | apply State.logIgnored_keeps | apply State.setMbx_keeps
    | apply State.staleEmpty_keeps | apply State.when_keeps | apply State.emptyBox_keeps | apply State.boxIrq_keeps
    | apply KeepsNext.next | extract_lets | split | (intro _) | (apply Keeps.fst_of; assumption)
    | (apply Keeps.snd_of; assumption) | (apply Keeps.some_of; assumption) | exact rfl | apply Keeps.fields)

theorem execClrCollision_keeps {σ : State} {s : State} (rq : Requester) (hs : Keeps σ s) :
    KeepsNext σ (execClrCollision rq s) := by
  unfold execClrCollision
  repeat' (with_reducible
    first
    | assumption | apply State.onWrite_keeps | apply State.when_keeps | apply State.updBox_keeps | apply KeepsNext.next
    | extract_lets | (intro _) | exact rfl | apply Keeps.fields)

theorem execMbxRxAck_keeps {σ : State} {s : State} (rq : Requester) (v : Word) (hs : Keeps σ s) :
    KeepsNext σ (execMbxRxAck rq v s) := by
  unfold execMbxRxAck
  repeat' (with_reducible
    first
    | assumption | apply State.onWrite_keeps | apply State.logIgnored_keeps | apply State.setMbx_keeps
    | apply State.updBox_keeps | apply State.when_keeps | apply State.emptyBox_keeps | apply State.staleEmpty_keeps
    | apply State.boxIrq_keeps | apply KeepsNext.next | extract_lets | split | (intro _) | (apply Keeps.fst_of; assumption)
    | (apply Keeps.snd_of; assumption) | (apply Keeps.some_of; assumption) | exact rfl | apply Keeps.fields)

theorem State.clearBox_keeps {σ : State} {s : State} (j : Nat) (hs : Keeps σ s) : Keeps σ (State.clearBox s j) := by
  unfold State.clearBox
  repeat' (with_reducible
    first
    | assumption | apply State.when_keeps | apply State.emptyBox_keeps | apply State.updBox_keeps | (intro _) | exact rfl
    | apply Keeps.fields)

theorem State.mbxDay_keeps {σ : State} {s : State} (hs : Keeps σ s) : Keeps σ (State.mbxDay s) := by
  unfold State.mbxDay
  repeat' (with_reducible
    first
    | assumption | apply State.setMbx_keeps | apply foldl_keeps | apply foldl_fst_keeps | (intro _) | exact rfl
    | apply Keeps.fields)

end Sys2Proof.Machine
end

