-- ==== Sys2Proof/Laws/KeepsBlocks.lean ====
section
/-! SUPPORT. Every operation of Machine/Blocks.lean keeps what `Keeps` says. -/
namespace Sys2Proof.Machine

theorem State.setLock_keeps {σ : State} {s : State} (p : Page) (hs : Keeps σ s) : Keeps σ (State.setLock s p) := by
  unfold State.setLock
  repeat' (with_reducible
    first
    | assumption | apply State.wrAt_keeps | (intro _) | exact rfl | apply Keeps.fields)

theorem execLock_keeps {σ : State} {s : State} (rq : Requester) (p : Page) (hs : Keeps σ s) :
    KeepsNext σ (execLock rq p s) := by
  unfold execLock
  repeat' (with_reducible
    first
    | assumption | apply State.withWrite_keeps | apply State.setLock_keeps | apply KeepsNext.next | (intro _) | exact rfl
    | apply Keeps.fields)

theorem State.setQuiesce_keeps {σ : State} {s : State} (p : Page) (on : Bool) (hs : Keeps σ s) :
    Keeps σ (State.setQuiesce s p on) := by
  unfold State.setQuiesce
  repeat' (with_reducible
    first
    | assumption | apply State.wrAt_keeps | apply State.updBlk_keeps | split | (intro _) | (apply Keeps.fst_of; assumption)
    | (apply Keeps.snd_of; assumption) | (apply Keeps.some_of; assumption) | exact rfl | apply Keeps.fields)

theorem State.setEnable_keeps {σ : State} {s : State} (p : Page) (on : Bool) (hs : Keeps σ s) :
    Keeps σ (State.setEnable s p on) := by
  unfold State.setEnable
  repeat' (with_reducible
    first
    | assumption | apply State.wrAt_keeps | apply State.updBlk_keeps | apply State.logIgnored_keeps | extract_lets | split
    | (intro _) | (apply Keeps.fst_of; assumption) | (apply Keeps.snd_of; assumption) | (apply Keeps.some_of; assumption)
    | exact rfl | apply Keeps.fields)

theorem execBlockEnable_keeps {σ : State} {s : State} (rq : Requester) (p : Page) (on : Bool) (hs : Keeps σ s) :
    KeepsNext σ (execBlockEnable rq p on s) := by
  unfold execBlockEnable
  repeat' (with_reducible
    first
    | assumption | apply State.withWrite_keeps | apply State.setEnable_keeps | apply KeepsNext.next | split | (intro _)
    | exact rfl | apply Keeps.fields)

theorem State.initDone_keeps {σ : State} {s : State} (p : Page) (hs : Keeps σ s) : Keeps σ (State.initDone s p) := by
  unfold State.initDone
  repeat' (with_reducible
    first
    | assumption | apply State.updBlk_keeps | split | (intro _) | exact rfl | apply Keeps.fields)

theorem State.syncRerank_keeps {σ : State} {s : State} (c : Nat) (hs : Keeps σ s) : Keeps σ (State.syncRerank s c) := by
  unfold State.syncRerank
  repeat' (with_reducible
    first
    | assumption | apply State.when_keeps | apply State.updCh_keeps | extract_lets | (intro _) | exact rfl | apply Keeps.fields)

theorem State.syncSplit_keeps {σ : State} {s : State} (c : Nat) (hs : Keeps σ s) : Keeps σ (State.syncSplit s c) := by
  unfold State.syncSplit
  repeat' (with_reducible
    first
    | assumption | apply State.when_keeps | apply State.updCh_keeps | extract_lets | (intro _) | exact rfl | apply Keeps.fields)

theorem State.syncSolrov_keeps {σ : State} {s : State} (c : Nat) (hs : Keeps σ s) : Keeps σ (State.syncSolrov s c) := by
  unfold State.syncSolrov
  repeat' (with_reducible
    first
    | assumption | apply State.updCh_keeps | extract_lets | split | (intro _) | exact rfl | apply Keeps.fields)

theorem State.setQuiesced_keeps {σ : State} {s : State} (p : Page) (hs : Keeps σ s) : Keeps σ (State.setQuiesced s p) := by
  unfold State.setQuiesced
  repeat' (with_reducible
    first
    | assumption | apply State.updBlk_keeps | apply State.when_keeps | apply State.syncRerank_keeps
    | apply State.syncSplit_keeps | apply State.syncSolrov_keeps | split | (intro _) | exact rfl | apply Keeps.fields)

theorem State.chanDown_keeps {σ : State} {s : State} (c : Nat) (hs : Keeps σ s) : Keeps σ (State.chanDown s c) := by
  unfold State.chanDown
  repeat' (with_reducible
    first
    | assumption | apply State.setDom_keeps | apply State.updCh_keeps | (intro _) | exact rfl | apply Keeps.fields)

theorem State.finishOut_keeps {σ : State} {s : State} (c : Nat) (hs : Keeps σ s) : Keeps σ (State.finishOut s c) := by
  unfold State.finishOut
  repeat' (with_reducible
    first
    | assumption | apply State.each_keeps | apply State.wrAt_keeps | apply State.updBlk_keeps | apply State.chanDown_keeps
    | apply State.rerouteFrom_keeps | apply State.evtPriv_keeps | extract_lets | (intro _) | exact rfl | apply Keeps.fields)

theorem execBlockQuiesced_keeps {σ : State} {s : State} (p : Page) (hs : Keeps σ s) : KeepsNext σ (execBlockQuiesced p s) := by
  unfold execBlockQuiesced
  repeat' (with_reducible
    first
    | assumption | apply State.setQuiesced_keeps | apply State.when_keeps | apply State.finishOut_keeps | apply KeepsNext.next
    | extract_lets | (intro _) | exact rfl | apply Keeps.fields)

theorem State.setOverClear_keeps {σ : State} {s : State} (p : Page) (old : Word) (n : Nat) (hs : Keeps σ s) :
    Keeps σ (State.setOverClear s p old n) := by
  unfold State.setOverClear
  repeat' (with_reducible
    first
    | assumption | apply State.wrAt_keeps | apply State.when_keeps | apply State.pageIrq_keeps | apply State.evt_keeps
    | extract_lets | split | (intro _) | exact rfl | apply Keeps.fields)

theorem State.clearEvts_keeps {σ : State} {s : State} (p : Page) (v setNow : Word) (hs : Keeps σ s) :
    Keeps σ (State.clearEvts s p v setNow) := by
  unfold State.clearEvts
  repeat' (with_reducible
    first
    | assumption | apply State.wrAt_keeps | apply State.when_keeps | apply State.alertEdge_keeps | apply State.each_keeps
    | apply State.setOverClear_keeps | extract_lets | (intro _) | exact rfl | apply Keeps.fields)

theorem execBlkEvtClear_keeps {σ : State} {s : State} (rq : Requester) (p : Page) (v : Word) (setNow : Word) (hs : Keeps σ s) :
    KeepsNext σ (execBlkEvtClear rq p v setNow s) := by
  unfold execBlkEvtClear
  repeat' (with_reducible
    first
    | assumption | apply State.withWrite_keeps | apply State.clearEvts_keeps | apply KeepsNext.next | (intro _) | exact rfl
    | apply Keeps.fields)

theorem execBlkEvtSet_keeps {σ : State} {s : State} (rq : Requester) (p : Page) (v : Word) (hs : Keeps σ s) :
    KeepsNext σ (execBlkEvtSet rq p v s) := by
  unfold execBlkEvtSet
  repeat' (with_reducible
    first
    | assumption | apply State.withWrite_keeps | apply State.each_keeps | apply State.evt_keeps | apply KeepsNext.next
    | (intro _) | exact rfl | apply Keeps.fields)

theorem State.clearErrLog_keeps {σ : State} {s : State} (p : Page) (v : Word) (errorNow : Bool) (hs : Keeps σ s) :
    Keeps σ (State.clearErrLog s p v errorNow) := by
  unfold State.clearErrLog
  repeat' (with_reducible
    first
    | assumption | apply State.wrAt_keeps | split | (intro _) | exact rfl | apply Keeps.fields)

theorem execErrLogClear_keeps {σ : State} {s : State} (rq : Requester) (p : Page) (v : Word) (errorNow : Bool)
    (hs : Keeps σ s) :
    KeepsNext σ (execErrLogClear rq p v errorNow s) := by
  unfold execErrLogClear
  repeat' (with_reducible
    first
    | assumption | apply State.withWrite_keeps | apply State.clearErrLog_keeps | apply KeepsNext.next | (intro _) | exact rfl
    | apply Keeps.fields)

theorem State.swapBlock_keeps {σ : State} {s : State} (p : Page) (hs : Keeps σ s) : Keeps σ (State.swapBlock s p) := by
  unfold State.swapBlock
  repeat' (with_reducible
    first
    | assumption | apply State.each_keeps | apply State.wrAt_keeps | apply State.setShadow_keeps | apply State.updBlk_keeps
    | extract_lets | (intro _) | exact rfl | apply Keeps.fields)

theorem State.swapBanks_keeps {σ : State} {s : State} (hs : Keeps σ s) : Keeps σ (State.swapBanks s) := by
  unfold State.swapBanks
  repeat' (with_reducible
    first
    | assumption | apply State.each_keeps | apply State.swapBlock_keeps | apply State.evtPriv_keeps | extract_lets | split
    | (intro _) | exact rfl | apply Keeps.fields)

end Sys2Proof.Machine
end

