-- ==== Sys2Proof/Laws/KeepsTranslate.lean ====
section
/-! SUPPORT. Every operation of Machine/Translate.lean keeps what `Keeps` says. -/
namespace Sys2Proof.Machine

theorem State.updAtu_keeps {σ : State} {s : State} (c : Nat) (f : AtuCh → AtuCh) (hs : Keeps σ s) :
    Keeps σ (State.updAtu s c f) := by
  unfold State.updAtu
  repeat' (with_reducible
    first
    | assumption | apply State.updCh_keeps | (intro _) | exact rfl | apply Keeps.fields)

theorem State.tlbFill_keeps {σ : State} {s : State} (c : Nat) (x : TlbEntry) (hs : Keeps σ s) :
    Keeps σ (State.tlbFill s c x) := by
  unfold State.tlbFill
  repeat' (with_reducible
    first
    | assumption | apply State.updAtu_keeps | apply State.drawNat_keeps | extract_lets | split | (intro _)
    | (apply Keeps.fst_of; assumption) | (apply Keeps.snd_of; assumption) | (apply Keeps.some_of; assumption) | exact rfl
    | apply Keeps.fields)

theorem State.missWalk_keeps {σ : State} {s : State} (c j va : Nat) (write : Bool) (hs : Keeps σ s) :
    Keeps σ (State.missWalk s c j va write).1 := by
  unfold State.missWalk
  repeat' (with_reducible
    first
    | assumption | apply State.bump_keeps | apply State.when_keeps | apply State.tlbFill_keeps | extract_lets | split
    | (intro _) | (apply Keeps.fst_of; assumption) | (apply Keeps.snd_of; assumption) | (apply Keeps.some_of; assumption)
    | exact rfl | apply Keeps.fields)

theorem State.translate_keeps {σ : State} {s : State} (c j va : Nat) (write : Bool) (hs : Keeps σ s) :
    Keeps σ (State.translate s c j va write).1 := by
  unfold State.translate
  repeat' (with_reducible
    first
    | assumption | apply State.missWalk_keeps | split | (intro _) | (apply Keeps.fst_of; assumption)
    | (apply Keeps.snd_of; assumption) | (apply Keeps.some_of; assumption) | exact rfl | apply Keeps.fields)

theorem State.translateRange_keeps {σ : State} {s : State} (c j va n : Nat) (write : Bool) (x0 : Nat) (hs : Keeps σ s) :
    Keeps σ (State.translateRange s c j va n write x0).1 := by
  induction x0 generalizing s c j va n write with
  | zero =>
    unfold State.translateRange
    repeat' (with_reducible
      first
      | assumption | apply State.translate_keeps | extract_lets | split | (apply Keeps.fst_of; assumption) | exact rfl
      | apply Keeps.fields)
  | succ n ih =>
    unfold State.translateRange
    repeat' (with_reducible
      first
      | assumption | apply ih | apply State.translate_keeps | extract_lets | split | (apply Keeps.fst_of; assumption)
      | exact rfl | apply Keeps.fields)

theorem State.touchParts_keeps {σ : State} {s : State} (job : Nat) (l : List (Nat × Nat)) (hs : Keeps σ s) :
    Keeps σ (State.touchParts s job l) := by
  unfold State.touchParts
  repeat' (with_reducible
    first
    | assumption | apply State.each_keeps | apply State.touch_keeps | (intro _) | exact rfl | apply Keeps.fields)

theorem State.writeParts_keeps {σ : State} {s : State} (x0 : List (Nat × Nat)) (x1 : List Byte) (x2 : Nat) (hs : Keeps σ s) :
    Keeps σ (State.writeParts s x0 x1 x2) := by
  induction x0 generalizing s x1 with
  | nil => exact hs
  | cons a l ih => exact ih _ (State.vwrite_keeps _ _ _ hs)

theorem State.postFault_keeps {σ : State} {s : State} (c id : Nat) (hs : Keeps σ s) : Keeps σ (State.postFault s c id) := by
  unfold State.postFault
  repeat' (with_reducible
    first
    | assumption | apply State.vwrite_keeps | apply State.wr_keeps | apply State.bump_keeps | apply State.updAtu_keeps
    | apply State.evt_keeps | extract_lets | split | (intro _) | (apply Keeps.fst_of; assumption)
    | (apply Keeps.snd_of; assumption) | (apply Keeps.some_of; assumption) | exact rfl | apply Keeps.fields)

theorem State.flushFaults_keeps {σ : State} {s : State} (c : Nat) (hs : Keeps σ s) : Keeps σ (State.flushFaults s c) := by
  unfold State.flushFaults
  repeat' (with_reducible
    first
    | assumption | apply State.each_keeps | apply State.postFault_keeps | (intro _) | exact rfl | apply Keeps.fields)

theorem State.newFault_keeps {σ : State} {s : State} (c : Nat) (x : AtuFault) (hs : Keeps σ s) :
    Keeps σ (State.newFault s c x).1 := by
  unfold State.newFault
  repeat' (with_reducible
    first
    | assumption | apply State.updAtu_keeps | apply State.postFault_keeps | apply State.bump_keeps | apply State.evt_keeps
    | split | (intro _) | (apply Keeps.fst_of; assumption) | (apply Keeps.snd_of; assumption)
    | (apply Keeps.some_of; assumption) | exact rfl | apply Keeps.fields)

theorem State.faultHolder_keeps {σ : State} {s : State} (c e : Nat) (cmd : Cmd) (x : AtuErr) (write saved : Bool)
    (hs : Keeps σ s) :
    Keeps σ (State.faultHolder s c e cmd x write saved) := by
  unfold State.faultHolder
  repeat' (with_reducible
    first
    | assumption | apply State.accrue_keeps | apply State.accountEngine_keeps | apply State.freeEngine_keeps
    | apply State.updJsc_keeps | apply State.settle_keeps | apply State.newFault_keeps | apply State.setAside_keeps
    | extract_lets | split | (intro _) | (apply Keeps.fst_of; assumption) | (apply Keeps.snd_of; assumption)
    | (apply Keeps.some_of; assumption) | exact rfl | apply Keeps.fields)

theorem State.freeFault_keeps {σ : State} {s : State} (c id : Nat) (hs : Keeps σ s) : Keeps σ (State.freeFault s c id) := by
  unfold State.freeFault
  repeat' (with_reducible
    first
    | assumption | apply State.updAtu_keeps | apply State.newFault_keeps | apply State.setLane_keeps | extract_lets | split
    | (intro _) | (apply Keeps.fst_of; assumption) | (apply Keeps.snd_of; assumption) | (apply Keeps.some_of; assumption)
    | exact rfl | apply Keeps.fields)

theorem State.withdrawFaults_keeps {σ : State} {s : State} (c : Nat) (p : AtuFault → Bool) (hs : Keeps σ s) :
    Keeps σ (State.withdrawFaults s c p) := by
  unfold State.withdrawFaults
  repeat' (with_reducible
    first
    | assumption | apply State.updAtu_keeps | apply State.each_keeps | apply State.freeFault_keeps | extract_lets | split
    | (intro _) | (apply Keeps.fst_of; assumption) | (apply Keeps.snd_of; assumption) | (apply Keeps.some_of; assumption)
    | exact rfl | apply Keeps.fields)

theorem State.respIgnored_keeps {σ : State} {s : State} (c : Nat) (hs : Keeps σ s) : Keeps σ (State.respIgnored s c) := by
  unfold State.respIgnored
  repeat' (with_reducible
    first
    | assumption | apply State.bump_keeps | (intro _) | exact rfl | apply Keeps.fields)

theorem State.faultRetry_keeps {σ : State} {s : State} (c id : Nat) (hs : Keeps σ s) : Keeps σ (State.faultRetry s c id) := by
  unfold State.faultRetry
  repeat' (with_reducible
    first
    | assumption | apply State.respIgnored_keeps | apply State.accrue_keeps | apply State.setLane_keeps
    | apply State.freeFault_keeps | apply State.settle_keeps | extract_lets | split | (intro _)
    | (apply Keeps.fst_of; assumption) | (apply Keeps.snd_of; assumption) | (apply Keeps.some_of; assumption) | exact rfl
    | apply Keeps.fields)

theorem State.faultFail_keeps {σ : State} {s : State} (c id : Nat) (hs : Keeps σ s) : Keeps σ (State.faultFail s c id) := by
  unfold State.faultFail
  repeat' (with_reducible
    first
    | assumption | apply State.respIgnored_keeps | apply State.tearDown_keeps | split | (intro _)
    | (apply Keeps.fst_of; assumption) | (apply Keeps.snd_of; assumption) | (apply Keeps.some_of; assumption) | exact rfl
    | apply Keeps.fields)

theorem execFaultFail_keeps {σ : State} {s : State} (rq : Requester) (c id : Nat) (hs : Keeps σ s) :
    KeepsNext σ (execFaultFail rq c id s) := by
  unfold execFaultFail
  repeat' (with_reducible
    first
    | assumption | apply State.onWrite_keeps | apply State.faultFail_keeps | apply KeepsNext.next | (intro _) | exact rfl
    | apply Keeps.fields)

theorem execFaultTimeout_keeps {σ : State} {s : State} (c id : Nat) (hs : Keeps σ s) :
    KeepsNext σ (execFaultTimeout c id s) := by
  unfold execFaultTimeout
  repeat' (with_reducible
    first
    | assumption | apply State.when_keeps | apply State.passToNow_keeps | apply State.tearDown_keeps | apply KeepsNext.next
    | split | (intro _) | (apply Keeps.fst_of; assumption) | (apply Keeps.snd_of; assumption)
    | (apply Keeps.some_of; assumption) | exact rfl | apply Keeps.fields)

theorem State.startInv_keeps {σ : State} {s : State} (c : Nat) (v : Word) (hs : Keeps σ s) :
    Keeps σ (State.startInv s c v) := by
  unfold State.startInv
  repeat' (with_reducible
    first
    | assumption | apply State.updAtu_keeps | extract_lets | split | (intro _) | (apply Keeps.fst_of; assumption)
    | (apply Keeps.snd_of; assumption) | (apply Keeps.some_of; assumption) | exact rfl | apply Keeps.fields)

theorem execTlbInvalidate_keeps {σ : State} {s : State} (rq : Requester) (c : Nat) (v : Word) (hs : Keeps σ s) :
    KeepsNext σ (execTlbInvalidate rq c v s) := by
  unfold execTlbInvalidate
  repeat' (with_reducible
    first
    | assumption | apply State.onWrite_keeps | apply State.when_keeps | apply State.startInv_keeps | apply KeepsNext.next
    | (intro _) | exact rfl | apply Keeps.fields)

theorem execInvalidateDone_keeps {σ : State} {s : State} (c : Nat) (hs : Keeps σ s) : KeepsNext σ (execInvalidateDone c s) := by
  unfold execInvalidateDone
  repeat' (with_reducible
    first
    | assumption | apply State.updAtu_keeps | apply KeepsNext.next | split | (intro _) | (apply Keeps.fst_of; assumption)
    | (apply Keeps.snd_of; assumption) | (apply Keeps.some_of; assumption) | exact rfl | apply Keeps.fields)

end Sys2Proof.Machine
end

