-- ==== Sys2Proof/Laws/KeepsSampler.lean ====
section
/-! SUPPORT. Every operation of Machine/Sampler.lean keeps what `Keeps` says. -/
namespace Sys2Proof.Machine

theorem State.updSmp_keeps {σ : State} {s : State} (c : Nat) (f : SmpCh → SmpCh) (hs : Keeps σ s) :
    Keeps σ (State.updSmp s c f) := by
  unfold State.updSmp
  repeat' (with_reducible
    first
    | assumption | apply State.updCh_keeps | (intro _) | exact rfl | apply Keeps.fields)

theorem State.setCfg_keeps {σ : State} {s : State} (c i : Nat) (r : List Byte) (hs : Keeps σ s) :
    Keeps σ (State.setCfg s c i r) := by
  unfold State.setCfg
  repeat' (with_reducible
    first
    | assumption | apply State.updSmp_keeps | extract_lets | split | (intro _) | exact rfl | apply Keeps.fields)

theorem execSmpCfgSet_keeps {σ : State} {s : State} (c : Nat) (cmd : Cmd) (hs : Keeps σ s) :
    KeepsNext σ (execSmpCfgSet c cmd s) := by
  unfold execSmpCfgSet
  repeat' (with_reducible
    first
    | assumption | apply State.control_keeps | apply State.complete_keeps | apply State.setCfg_keeps | apply KeepsNext.next
    | extract_lets | split | (intro _) | exact rfl | apply Keeps.fields)

theorem execSmpCfgRelease_keeps {σ : State} {s : State} (c : Nat) (cmd : Cmd) (hs : Keeps σ s) :
    KeepsNext σ (execSmpCfgRelease c cmd s) := by
  unfold execSmpCfgRelease
  repeat' (with_reducible
    first
    | assumption | apply State.control_keeps | apply State.complete_keeps | apply State.setCfg_keeps | apply KeepsNext.next
    | split | (intro _) | exact rfl | apply Keeps.fields)

theorem State.stepFlags_keeps {σ : State} {s : State} (c i f : Nat) (hs : Keeps σ s) : Keeps σ (State.stepFlags s c i f) := by
  unfold State.stepFlags
  repeat' (with_reducible
    first
    | assumption | apply State.updCh_keeps | (intro _) | exact rfl | apply Keeps.fields)

theorem State.updSmpStep_keeps {σ : State} {s : State} (c i : Nat) (f : SmpStep → SmpStep) (hs : Keeps σ s) :
    Keeps σ (State.updSmpStep s c i f) := by
  unfold State.updSmpStep
  repeat' (with_reducible
    first
    | assumption | apply State.updSmp_keeps | (intro _) | exact rfl | apply Keeps.fields)

theorem State.deriveStep_keeps {σ : State} {s : State} (c i : Nat) (hs : Keeps σ s) : Keeps σ (State.deriveStep s c i) := by
  unfold State.deriveStep
  repeat' (with_reducible
    first
    | assumption | apply State.updSmpStep_keeps | apply State.stepFlags_keeps | apply State.bump_keeps | extract_lets | split
    | (intro _) | (apply Keeps.fst_of; assumption) | (apply Keeps.snd_of; assumption) | (apply Keeps.some_of; assumption)
    | exact rfl | apply Keeps.fields)

theorem execBeamBind_keeps {σ : State} {s : State} (c : Nat) (cmd : Cmd) (hs : Keeps σ s) :
    KeepsNext σ (execBeamBind c cmd s) := by
  unfold execBeamBind
  repeat' (with_reducible
    first
    | assumption | apply State.control_keeps | apply State.complete_keeps | apply State.updSmp_keeps | apply KeepsNext.next
    | extract_lets | split | (intro _) | exact rfl | apply Keeps.fields)

theorem State.takeChild_keeps {σ : State} {s : State} (c : Nat) (all : List BeamMember) (plays : Bool) (m : BeamMember)
    (x : Option BeamCand) (hs : Keeps σ s) :
    Keeps σ (State.takeChild s c all plays m x) := by
  unfold State.takeChild
  repeat' (with_reducible
    first
    | assumption | apply State.updSmpStep_keeps | apply State.stepFlags_keeps | extract_lets | split | (intro _)
    | (apply Keeps.fst_of; assumption) | (apply Keeps.snd_of; assumption) | (apply Keeps.some_of; assumption) | exact rfl
    | apply Keeps.fields)

theorem State.deriveBeam_keeps {σ : State} {s : State} (c : Nat) (g : BeamGroup) (hs : Keeps σ s) :
    Keeps σ (State.deriveBeam s c g) := by
  unfold State.deriveBeam
  repeat' (with_reducible
    first
    | assumption | apply State.takeChild_keeps | apply foldl_keeps | apply foldl_fst_keeps | extract_lets | split | (intro _)
    | (apply Keeps.fst_of; assumption) | (apply Keeps.snd_of; assumption) | (apply Keeps.some_of; assumption) | exact rfl
    | apply Keeps.fields)

theorem State.deriveIfReady_keeps {σ : State} {s : State} (c i : Nat) (hs : Keeps σ s) :
    Keeps σ (State.deriveIfReady s c i) := by
  unfold State.deriveIfReady
  repeat' (with_reducible
    first
    | assumption | apply State.when_keeps | apply State.deriveBeam_keeps | apply State.deriveStep_keeps | extract_lets | split
    | (intro _) | (apply Keeps.fst_of; assumption) | (apply Keeps.snd_of; assumption) | (apply Keeps.some_of; assumption)
    | exact rfl | apply Keeps.fields)

theorem State.finishRow_keeps {σ : State} {s : State} (c i j : Nat) (cmd : Cmd) (cfg : List Byte) (hs : Keeps σ s) :
    Keeps σ (State.finishRow s c i j cmd cfg) := by
  unfold State.finishRow
  repeat' (with_reducible
    first
    | assumption | apply State.touch_keeps | apply State.passToNow_keeps | apply State.updSmpStep_keeps
    | apply State.updSmp_keeps | apply State.bump_keeps | apply State.when_keeps | apply State.complete_keeps
    | apply State.deriveIfReady_keeps | extract_lets | split | (intro _) | (apply Keeps.fst_of; assumption)
    | (apply Keeps.snd_of; assumption) | (apply Keeps.some_of; assumption) | exact rfl | apply Keeps.fields)

theorem State.rowDone_keeps {σ : State} {s : State} (c : Nat) (cmd : Cmd) (hs : Keeps σ s) :
    Keeps σ (State.rowDone s c cmd) := by
  unfold State.rowDone
  repeat' (with_reducible
    first
    | assumption | apply State.updSmp_keeps | apply State.complete_keeps | apply State.translateRange_keeps
    | apply State.faultHolder_keeps | apply State.touchParts_keeps | apply State.updSmpStep_keeps | apply State.finishRow_keeps
    | extract_lets | split | (intro _) | (apply Keeps.fst_of; assumption) | (apply Keeps.snd_of; assumption)
    | (apply Keeps.some_of; assumption) | exact rfl | apply Keeps.fields)

theorem execSamplerRowDone_keeps {σ : State} {s : State} (c : Nat) (hs : Keeps σ s) : KeepsNext σ (execSamplerRowDone c s) := by
  unfold execSamplerRowDone
  repeat' (with_reducible
    first
    | assumption | apply State.rowDone_keeps | apply KeepsNext.next | split | (intro _) | (apply Keeps.fst_of; assumption)
    | (apply Keeps.snd_of; assumption) | (apply Keeps.some_of; assumption) | exact rfl | apply Keeps.fields)

theorem State.queueRows_keeps {σ : State} {s : State} (c i : Nat) (hs : Keeps σ s) : Keeps σ (State.queueRows s c i) := by
  unfold State.queueRows
  repeat' (with_reducible
    first
    | assumption | apply State.each_keeps | apply State.enterLane_keeps | extract_lets | split | (intro _) | exact rfl
    | apply Keeps.fields)

theorem State.updCounts_keeps {σ : State} {s : State} (c i : Nat) (toks : List Nat) (hs : Keeps σ s) :
    Keeps σ (State.updCounts s c i toks) := by
  unfold State.updCounts
  repeat' (with_reducible
    first
    | assumption | apply State.when_keeps | apply State.writeParts_keeps | extract_lets | (intro _) | exact rfl
    | apply Keeps.fields)

theorem State.smpEvt_keeps {σ : State} {s : State} (c bit code i : Nat) (hs : Keeps σ s) :
    Keeps σ (State.smpEvt s c bit code i) := by
  unfold State.smpEvt
  repeat' (with_reducible
    first
    | assumption | apply State.evtJob_keeps | extract_lets | (intro _) | exact rfl | apply Keeps.fields)

theorem State.postCrFull_keeps {σ : State} {s : State} (c r i : Nat) (hs : Keeps σ s) : Keeps σ (State.postCrFull s c r i) := by
  unfold State.postCrFull
  repeat' (with_reducible
    first
    | assumption | apply State.updSmp_keeps | apply State.smpEvt_keeps | split | (intro _) | exact rfl | apply Keeps.fields)

theorem State.putCr_keeps {σ : State} {s : State} (c r : Nat) (rec : List Byte) (hs : Keeps σ s) :
    Keeps σ (State.putCr s c r rec) := by
  unfold State.putCr
  repeat' (with_reducible
    first
    | assumption | apply State.vwrite_keeps | apply State.wr_keeps | extract_lets | (intro _) | exact rfl | apply Keeps.fields)

theorem State.postCr_keeps {σ : State} {s : State} (c i : Nat) (rec : List Byte) (hs : Keeps σ s) :
    Keeps σ (State.postCr s c i rec) := by
  unfold State.postCr
  repeat' (with_reducible
    first
    | assumption | apply State.smpEvt_keeps | apply State.postCrFull_keeps | apply State.updSmp_keeps | apply State.putCr_keeps
    | extract_lets | split | (intro _) | exact rfl | apply Keeps.fields)

theorem State.flushCr_keeps {σ : State} {s : State} (c r : Nat) (x0 : Nat) (hs : Keeps σ s) :
    Keeps σ (State.flushCr s c r x0) := by
  induction x0 generalizing s c r with
  | zero =>
    unfold State.flushCr
    repeat' (with_reducible
      first
      | assumption | apply State.putCr_keeps | apply State.smpEvt_keeps | apply State.updSmp_keeps | extract_lets | split
      | (intro _) | (apply Keeps.fst_of; assumption) | exact rfl | apply Keeps.fields)
  | succ n ih =>
    unfold State.flushCr
    repeat' (with_reducible
      first
      | assumption | apply ih | apply State.putCr_keeps | apply State.smpEvt_keeps | apply State.updSmp_keeps | extract_lets
      | split | (intro _) | (apply Keeps.fst_of; assumption) | exact rfl | apply Keeps.fields)

end Sys2Proof.Machine
end

