-- ==== Sys2Proof/Laws/KeepsEnds.lean ====
section
/-! SUPPORT. Every operation of Machine/Ends.lean keeps what `Keeps` says. -/
namespace Sys2Proof.Machine

theorem State.updAtn_keeps {σ : State} {s : State} (c : Nat) (f : AtnCh → AtnCh) (hs : Keeps σ s) :
    Keeps σ (State.updAtn s c f) := by
  unfold State.updAtn
  repeat' (with_reducible
    first
    | assumption | apply State.updCh_keeps | (intro _) | exact rfl | apply Keeps.fields)

theorem State.reqEvt_keeps {σ : State} {s : State} (c : Nat) (b : Blk) (bit code cause i detail : Nat) (hs : Keeps σ s) :
    Keeps σ (State.reqEvt s c b bit code cause i detail) := by
  unfold State.reqEvt
  repeat' (with_reducible
    first
    | assumption | apply State.evtJob_keeps | extract_lets | (intro _) | exact rfl | apply Keeps.fields)

theorem State.setDamaged_keeps {σ : State} {s : State} (c i : Nat) (hs : Keeps σ s) : Keeps σ (State.setDamaged s c i) := by
  unfold State.setDamaged
  repeat' (with_reducible
    first
    | assumption | apply State.updReq_keeps | apply State.postJob_keeps | extract_lets | split | (intro _) | exact rfl
    | apply Keeps.fields)

theorem State.updStep_keeps {σ : State} {s : State} (c i : Nat) (f : StepRun → StepRun) (hs : Keeps σ s) :
    Keeps σ (State.updStep s c i f) := by
  unfold State.updStep
  repeat' (with_reducible
    first
    | assumption | apply State.updAtn_keeps | (intro _) | exact rfl | apply Keeps.fields)

theorem State.leaveRuns_keeps {σ : State} {s : State} (c i : Nat) (ab : Bool) (hs : Keeps σ s) :
    Keeps σ (State.leaveRuns s c i ab) := by
  unfold State.leaveRuns
  repeat' (with_reducible
    first
    | assumption | apply State.updAtn_keeps | (intro _) | exact rfl | apply Keeps.fields)

theorem State.clearStep_keeps {σ : State} {s : State} (c i : Nat) (hs : Keeps σ s) : Keeps σ (State.clearStep s c i) := by
  unfold State.clearStep
  repeat' (with_reducible
    first
    | assumption | apply State.leaveRuns_keeps | apply State.updAtn_keeps | apply State.updSmp_keeps | (intro _) | exact rfl
    | apply Keeps.fields)

theorem State.dropStep_keeps {σ : State} {s : State} (c i : Nat) (hs : Keeps σ s) : Keeps σ (State.dropStep s c i) := by
  unfold State.dropStep
  repeat' (with_reducible
    first
    | assumption | apply State.when_keeps | apply State.bump_keeps | apply State.clearStep_keeps | (intro _) | exact rfl
    | apply Keeps.fields)

theorem State.toShards_keeps {σ : State} {s : State} (c i : Nat) (k : DevKind) (payload : List Byte) (hs : Keeps σ s) :
    Keeps σ (State.toShards s c i k payload) := by
  unfold State.toShards
  repeat' (with_reducible
    first
    | assumption | apply State.when_keeps | apply State.each_keeps | apply State.devSend_keeps | extract_lets | (intro _)
    | exact rfl | apply Keeps.fields)

theorem State.shardEnd_keeps {σ : State} {s : State} (c i : Nat) (lost : Bool) (code : Nat) (hs : Keeps σ s) :
    Keeps σ (State.shardEnd s c i lost code) := by
  unfold State.shardEnd
  repeat' (with_reducible
    first
    | assumption | apply State.toShards_keeps | apply State.when_keeps | apply State.devSend_keeps | extract_lets | split
    | (intro _) | exact rfl | apply Keeps.fields)

theorem State.setEnd_keeps {σ : State} {s : State} (c i : Nat) (st : ReqState) (code : Nat) (hs : Keeps σ s) :
    Keeps σ (State.setEnd s c i st code) := by
  unfold State.setEnd
  repeat' (with_reducible
    first
    | assumption | apply State.updReq_keeps | (intro _) | exact rfl | apply Keeps.fields)

theorem State.finish_keeps {σ : State} {s : State} (c i : Nat) (st : ReqState) (code : Nat) (hs : Keeps σ s) :
    Keeps σ (State.finish s c i st code) := by
  unfold State.finish
  repeat' (with_reducible
    first
    | assumption | apply State.setEnd_keeps | apply State.postCr_keeps | apply State.shardEnd_keeps | extract_lets | (intro _)
    | exact rfl | apply Keeps.fields)

theorem State.lose_keeps {σ : State} {s : State} (c i code : Nat) (hs : Keeps σ s) : Keeps σ (State.lose s c i code) := by
  unfold State.lose
  repeat' (with_reducible
    first
    | assumption | apply State.dropStep_keeps | apply State.bump_keeps | apply State.finish_keeps | apply State.reqEvt_keeps
    | extract_lets | split | (intro _) | exact rfl | apply Keeps.fields)

theorem State.cutMoves_keeps {σ : State} {s : State} (c : Nat) (p : Nat → ReqEntry → Bool) (hs : Keeps σ s) :
    Keeps σ (State.cutMoves s c p) := by
  unfold State.cutMoves
  repeat' (with_reducible
    first
    | assumption | apply State.each_keeps | apply State.lose_keeps | (intro _) | exact rfl | apply Keeps.fields)

theorem State.cutOpens_keeps {σ : State} {s : State} (c : Nat) (hs : Keeps σ s) : Keeps σ (State.cutOpens s c) := by
  unfold State.cutOpens
  repeat' (with_reducible
    first
    | assumption | apply State.updSlp_keeps | apply State.cutMoves_keeps | extract_lets | (intro _) | exact rfl
    | apply Keeps.fields)

theorem State.losesShards_keeps {σ : State} {s : State} (c : Nat) (failed : Nat → Bool) (hs : Keeps σ s) :
    Keeps σ (State.losesShards s c failed) := by
  unfold State.losesShards
  repeat' (with_reducible
    first
    | assumption | apply State.each_keeps | apply State.lose_keeps | (intro _) | exact rfl | apply Keeps.fields)

theorem State.shardsLost_keeps {σ : State} {s : State} (m : Nat) (hs : Keeps σ s) : Keeps σ (State.shardsLost s m) := by
  unfold State.shardsLost
  repeat' (with_reducible
    first
    | assumption | apply State.each_keeps | apply State.losesShards_keeps | (intro _) | exact rfl | apply Keeps.fields)

end Sys2Proof.Machine
end

