-- ==== Sys2Proof/Laws/KeepsNearMem.lean ====
section
/-! SUPPORT. Every operation of Machine/NearMem.lean keeps what `Keeps` says. -/
namespace Sys2Proof.Machine

theorem State.updNmo_keeps {σ : State} {s : State} (c : Nat) (f : NmoCh → NmoCh) (hs : Keeps σ s) :
    Keeps σ (State.updNmo s c f) := by
  unfold State.updNmo
  repeat' (with_reducible
    first
    | assumption | apply State.updCh_keeps | (intro _) | exact rfl | apply Keeps.fields)

theorem State.nmoRead_keeps {σ : State} {s : State} (c : Nat) (o : NmoOp) (l : List (Nat × Nat)) (hs : Keeps σ s) :
    Keeps σ (State.nmoRead s c o l).1 := by
  unfold State.nmoRead
  repeat' (with_reducible
    first
    | assumption | apply State.each_keeps | apply State.touch_keeps | apply State.bump64_keeps | extract_lets | split
    | (intro _) | exact rfl | apply Keeps.fields)

theorem State.nmoWrite_keeps {σ : State} {s : State} (c : Nat) (o : NmoOp) (a : Nat) (bs : List Byte) (hs : Keeps σ s) :
    Keeps σ (State.nmoWrite s c o a bs) := by
  unfold State.nmoWrite
  repeat' (with_reducible
    first
    | assumption | apply State.vwrite_keeps | apply State.bump64_keeps | (intro _) | exact rfl | apply Keeps.fields)

theorem State.nmoAct_keeps {σ : State} {s : State} (o : NmoOp) (bs : List (List Byte)) (hs : Keeps σ s) :
    Keeps σ (State.nmoAct s o bs).1 := by
  unfold State.nmoAct
  repeat' (with_reducible
    first
    | assumption | extract_lets | split | (intro _) | (apply Keeps.fst_of; assumption) | (apply Keeps.snd_of; assumption)
    | (apply Keeps.some_of; assumption) | exact rfl | apply Keeps.fields)

theorem State.nmoStep_keeps {σ : State} {s : State} (c : Nat) (o : NmoOp) (hs : Keeps σ s) :
    Keeps σ (State.nmoStep s c o).1 := by
  unfold State.nmoStep
  repeat' (with_reducible
    first
    | assumption | apply State.nmoWrite_keeps | apply State.nmoRead_keeps | apply State.bump_keeps | apply State.nmoAct_keeps
    | extract_lets | split | (intro _) | (apply Keeps.fst_of; assumption) | (apply Keeps.snd_of; assumption)
    | (apply Keeps.some_of; assumption) | exact rfl | apply Keeps.fields)

theorem State.nmoRun_keeps {σ : State} {s : State} (c : Nat) (o : NmoOp) (x0 : Nat) (hs : Keeps σ s) :
    Keeps σ (State.nmoRun s c o x0).1 := by
  induction x0 generalizing s c o with
  | zero =>
    unfold State.nmoRun
    repeat' (with_reducible
      first
      | assumption | apply State.nmoStep_keeps | split | (apply Keeps.fst_of; assumption) | exact rfl | apply Keeps.fields)
  | succ n ih =>
    unfold State.nmoRun
    repeat' (with_reducible
      first
      | assumption | apply ih | apply State.nmoStep_keeps | split | (apply Keeps.fst_of; assumption) | exact rfl
      | apply Keeps.fields)

theorem State.nmoAnswer_keeps {σ : State} {s : State} (c : Nat) (o : NmoOp) (hs : Keeps σ s) :
    Keeps σ (State.nmoAnswer s c o) := by
  unfold State.nmoAnswer
  repeat' (with_reducible
    first
    | assumption | apply State.drawBytes_keeps | apply State.bump_keeps | apply State.when_keeps | apply State.sendMsg_keeps
    | extract_lets | split | (intro _) | (apply Keeps.fst_of; assumption) | (apply Keeps.snd_of; assumption)
    | (apply Keeps.some_of; assumption) | exact rfl | apply Keeps.fields)

end Sys2Proof.Machine
end

