-- ==== Sys2Proof/Laws/KeepsHome.lean ====
section
/-! SUPPORT. Every operation of Machine/Home.lean keeps what `Keeps` says. -/
namespace Sys2Proof.Machine

theorem State.postPoisoned_keeps {σ : State} {s : State} (c g cause : Nat) (hs : Keeps σ s) :
    Keeps σ (State.postPoisoned s c g cause) := by
  unfold State.postPoisoned
  repeat' (with_reducible
    first
    | assumption | apply State.evtJob_keeps | split | (intro _) | (apply Keeps.fst_of; assumption)
    | (apply Keeps.snd_of; assumption) | (apply Keeps.some_of; assumption) | exact rfl | apply Keeps.fields)

theorem State.homePerform_keeps {σ : State} {s : State} (c : Nat) (m : SMsg) (hs : Keeps σ s) :
    Keeps σ (State.homePerform s c m) := by
  unfold State.homePerform
  repeat' (with_reducible
    first
    | assumption | apply State.when_keeps | apply State.each_keeps | apply State.postPoisoned_keeps
    | apply State.performRack_keeps | extract_lets | (intro _) | exact rfl | apply Keeps.fields)

theorem State.setHgran_keeps {σ : State} {s : State} (c g : Nat) (h : HGran) (hs : Keeps σ s) :
    Keeps σ (State.setHgran s c g h) := by
  unfold State.setHgran
  repeat' (with_reducible
    first
    | assumption | apply State.updCcx_keeps | (intro _) | exact rfl | apply Keeps.fields)

theorem State.sendClean_keeps {σ : State} {s : State} (c g who : Nat) (hs : Keeps σ s) :
    Keeps σ (State.sendClean s c g who) := by
  unfold State.sendClean
  repeat' (with_reducible
    first
    | assumption | apply State.sendRequest_keeps | apply State.setHgran_keeps | apply State.bump_keeps | extract_lets | split
    | (intro _) | (apply Keeps.fst_of; assumption) | (apply Keeps.snd_of; assumption) | (apply Keeps.some_of; assumption)
    | exact rfl | apply Keeps.fields)

theorem State.claim_keeps {σ : State} {s : State} (c who : Nat) (gs : List Nat) (hs : Keeps σ s) :
    Keeps σ (State.claim s c who gs) := by
  unfold State.claim
  repeat' (with_reducible
    first
    | assumption | apply State.each_keeps | apply State.sendClean_keeps | split | (intro _) | exact rfl | apply Keeps.fields)

theorem State.release_keeps {σ : State} {s : State} (c : Nat) (gs : List Nat) (hs : Keeps σ s) :
    Keeps σ (State.release s c gs) := by
  unfold State.release
  repeat' (with_reducible
    first
    | assumption | apply State.each_keeps | apply State.sendCmp_keeps | apply State.dropTag_keeps | apply State.setHgran_keeps
    | extract_lets | (intro _) | exact rfl | apply Keeps.fields)

theorem State.setOp_keeps {σ : State} {s : State} (c : Nat) (o : NmoOp) (hs : Keeps σ s) : Keeps σ (State.setOp s c o) := by
  unfold State.setOp
  repeat' (with_reducible
    first
    | assumption | apply State.updNmo_keeps | split | (intro _) | exact rfl | apply Keeps.fields)

theorem State.armOp_keeps {σ : State} {s : State} (c : Nat) (o : NmoOp) (hs : Keeps σ s) : Keeps σ (State.armOp s c o) := by
  unfold State.armOp
  repeat' (with_reducible
    first
    | assumption | apply State.setOp_keeps | split | (intro _) | exact rfl | apply Keeps.fields)

theorem State.homeTry_keeps {σ : State} {s : State} (c : Nat) (x : Nat × SMsg) (hs : Keeps σ s) :
    Keeps σ (State.homeTry s c x) := by
  unfold State.homeTry
  repeat' (with_reducible
    first
    | assumption | apply State.homePerform_keeps | apply State.release_keeps | apply State.updCcx_keeps
    | apply State.claim_keeps | extract_lets | split | (intro _) | exact rfl | apply Keeps.fields)

theorem State.opTry_keeps {σ : State} {s : State} (c : Nat) (o : NmoOp) (hs : Keeps σ s) : Keeps σ (State.opTry s c o) := by
  unfold State.opTry
  repeat' (with_reducible
    first
    | assumption | apply State.nmoStep_keeps | apply State.release_keeps | apply State.armOp_keeps | apply State.claim_keeps
    | split | (intro _) | (apply Keeps.fst_of; assumption) | (apply Keeps.snd_of; assumption)
    | (apply Keeps.some_of; assumption) | exact rfl | apply Keeps.fields)

theorem State.homeGo_keeps {σ : State} {s : State} (c : Nat) (x0 : Nat) (hs : Keeps σ s) :
    Keeps σ (State.homeGo s c x0) := by
  induction x0 generalizing s c with
  | zero =>
    unfold State.homeGo
    repeat' (with_reducible
      first
      | assumption | apply State.homeTry_keeps | apply State.opTry_keeps | apply State.each_keeps | extract_lets | split
      | (intro _))
  | succ n ih =>
    unfold State.homeGo
    repeat' (with_reducible
      first
      | assumption | apply ih | apply State.homeTry_keeps | apply State.opTry_keeps | apply State.each_keeps | extract_lets
      | split | (intro _))

theorem State.homeServe_keeps {σ : State} {s : State} (c : Nat) (m : SMsg) (hs : Keeps σ s) :
    Keeps σ (State.homeServe s c m) := by
  unfold State.homeServe
  repeat' (with_reducible
    first
    | assumption | apply State.homePerform_keeps | apply State.updCcx_keeps | apply State.homeGo_keeps | split | (intro _)
    | exact rfl | apply Keeps.fields)

theorem State.homeStart_keeps {σ : State} {s : State} (c : Nat) (hs : Keeps σ s) : Keeps σ (State.homeStart s c) := by
  unfold State.homeStart
  repeat' (with_reducible
    first
    | assumption | apply State.updCcx_keeps | apply State.each_keeps | apply State.homeServe_keeps | apply State.homeGo_keeps
    | (intro _) | exact rfl | apply Keeps.fields)

theorem State.homeGranted_keeps {σ : State} {s : State} (c g : Nat) (hs : Keeps σ s) : Keeps σ (State.homeGranted s c g) := by
  unfold State.homeGranted
  repeat' (with_reducible
    first
    | assumption | apply State.vwrite_keeps | apply State.vmark_keeps | apply State.setHgran_keeps | apply State.homeGo_keeps
    | extract_lets | split | (intro _) | (apply Keeps.fst_of; assumption) | (apply Keeps.snd_of; assumption)
    | (apply Keeps.some_of; assumption) | exact rfl | apply Keeps.fields)

theorem State.homeGnt_keeps {σ : State} {s : State} (c g : Nat) (m : SMsg) (hs : Keeps σ s) :
    Keeps σ (State.homeGnt s c g m) := by
  unfold State.homeGnt
  repeat' (with_reducible
    first
    | assumption | apply State.protoErr_keeps | apply State.setHgran_keeps | apply State.homeGranted_keeps | extract_lets
    | split | (intro _) | exact rfl | apply Keeps.fields)

theorem State.homeData_keeps {σ : State} {s : State} (c g : Nat) (m : SMsg) (hs : Keeps σ s) :
    Keeps σ (State.homeData s c g m) := by
  unfold State.homeData
  repeat' (with_reducible
    first
    | assumption | apply State.protoErr_keeps | apply State.setHgran_keeps | apply State.homeGranted_keeps | extract_lets
    | split | (intro _) | exact rfl | apply Keeps.fields)

theorem State.homeRetry_keeps {σ : State} {s : State} (c g : Nat) (hs : Keeps σ s) : Keeps σ (State.homeRetry s c g) := by
  unfold State.homeRetry
  repeat' (with_reducible
    first
    | assumption | apply State.setHgran_keeps | extract_lets | (intro _) | exact rfl | apply Keeps.fields)

theorem State.homeResend_keeps {σ : State} {s : State} (c g : Nat) (hs : Keeps σ s) : Keeps σ (State.homeResend s c g) := by
  unfold State.homeResend
  repeat' (with_reducible
    first
    | assumption | apply State.setHgran_keeps | apply State.sendMsg_keeps | apply State.bump_keeps | extract_lets | (intro _)
    | exact rfl | apply Keeps.fields)

theorem State.homeMrd_keeps {σ : State} {s : State} (c : Nat) (m : SMsg) (hs : Keeps σ s) : Keeps σ (State.homeMrd s c m) := by
  unfold State.homeMrd
  repeat' (with_reducible
    first
    | assumption | apply State.touch_keeps | apply State.sendData_keeps | extract_lets | split | (intro _) | exact rfl
    | apply Keeps.fields)

theorem State.homeMwr_keeps {σ : State} {s : State} (c : Nat) (m : SMsg) (hs : Keeps σ s) : Keeps σ (State.homeMwr s c m) := by
  unfold State.homeMwr
  repeat' (with_reducible
    first
    | assumption | apply State.vwrite_keeps | apply State.cohReply_keeps | (intro _) | exact rfl | apply Keeps.fields)

theorem State.homePsn_keeps {σ : State} {s : State} (c : Nat) (m : SMsg) (hs : Keeps σ s) : Keeps σ (State.homePsn s c m) := by
  unfold State.homePsn
  repeat' (with_reducible
    first
    | assumption | apply State.vmark_keeps | apply State.bump_keeps | apply State.postPoisoned_keeps
    | apply State.cohReply_keeps | (intro _) | exact rfl | apply Keeps.fields)

theorem State.homeLost_keeps {σ : State} {s : State} (c : Nat) (hs : Keeps σ s) : Keeps σ (State.homeLost s c) := by
  unfold State.homeLost
  repeat' (with_reducible
    first
    | assumption | apply State.each_keeps | apply State.dropTag_keeps | apply State.updCcx_keeps | apply State.homePerform_keeps
    | apply State.updNmo_keeps | extract_lets | (intro _) | exact rfl | apply Keeps.fields)

theorem State.startOp_keeps {σ : State} {s : State} (c : Nat) (m : SMsg) (hs : Keeps σ s) : Keeps σ (State.startOp s c m) := by
  unfold State.startOp
  repeat' (with_reducible
    first
    | assumption | apply State.updCcx_keeps | apply State.updNmo_keeps | apply State.armOp_keeps | apply State.homeGo_keeps
    | extract_lets | split | (intro _) | exact rfl | apply Keeps.fields)

theorem State.nmoArrives_keeps {σ : State} {s : State} (c : Nat) (m : SMsg) (hs : Keeps σ s) :
    Keeps σ (State.nmoArrives s c m) := by
  unfold State.nmoArrives
  repeat' (with_reducible
    first
    | assumption | apply State.refuseRack_keeps | apply State.startOp_keeps | apply State.updNmo_keeps | split | (intro _)
    | (apply Keeps.fst_of; assumption) | (apply Keeps.snd_of; assumption) | (apply Keeps.some_of; assumption) | exact rfl
    | apply Keeps.fields)

theorem State.nmoNext_keeps {σ : State} {s : State} (c : Nat) (hs : Keeps σ s) : Keeps σ (State.nmoNext s c) := by
  unfold State.nmoNext
  repeat' (with_reducible
    first
    | assumption | apply State.updNmo_keeps | apply State.startOp_keeps | split | (intro _) | (apply Keeps.fst_of; assumption)
    | (apply Keeps.snd_of; assumption) | (apply Keeps.some_of; assumption) | exact rfl | apply Keeps.fields)

theorem State.nmoEnd_keeps {σ : State} {s : State} (c k : Nat) (hs : Keeps σ s) : Keeps σ (State.nmoEnd s c k) := by
  unfold State.nmoEnd
  repeat' (with_reducible
    first
    | assumption | apply State.nmoRun_keeps | apply State.updNmo_keeps | apply State.nmoAnswer_keeps | split | (intro _)
    | (apply Keeps.fst_of; assumption) | (apply Keeps.snd_of; assumption) | (apply Keeps.some_of; assumption) | exact rfl
    | apply Keeps.fields)

end Sys2Proof.Machine
end

