-- ==== Sys2Proof/Laws/KeepsMover.lean ====
section
/-! SUPPORT. Every operation of Machine/Mover.lean keeps what `Keeps` says. -/
namespace Sys2Proof.Machine

theorem State.setDmvRun_keeps {σ : State} {s : State} (c j : Nat) (r : Option DmvRun) (hs : Keeps σ s) :
    Keeps σ (State.setDmvRun s c j r) := by
  unfold State.setDmvRun
  repeat' (with_reducible
    first
    | assumption | apply State.updCh_keeps | (intro _) | exact rfl | apply Keeps.fields)

theorem State.crossed_keeps {σ : State} {s : State} (c : Nat) (l : List (Nat × Nat)) (hs : Keeps σ s) :
    Keeps σ (State.crossed s c l) := by
  unfold State.crossed
  repeat' (with_reducible
    first
    | assumption | apply State.updCh_keeps | apply State.bump_keeps | extract_lets | split | (intro _) | exact rfl
    | apply Keeps.fields)

theorem State.jobRead_keeps {σ : State} {s : State} (c j va n : Nat) (got : Loaded) (hs : Keeps σ s) :
    Keeps σ (State.jobRead s c j va n got).1 := by
  unfold State.jobRead
  repeat' (with_reducible
    first
    | assumption | apply State.translateRange_keeps | apply State.touchParts_keeps | apply State.crossed_keeps | extract_lets
    | split | (intro _) | (apply Keeps.fst_of; assumption) | (apply Keeps.snd_of; assumption)
    | (apply Keeps.some_of; assumption) | exact rfl | apply Keeps.fields)

theorem State.dmvSent_keeps {σ : State} {x : State × Sent} (c j a : Nat) (hs : Keeps σ x.1) :
    Keeps σ (State.dmvSent x c j a) := by
  unfold State.dmvSent
  repeat' (with_reducible
    first
    | assumption | apply State.dmvPiece_keeps | split | (intro _) | (apply Keeps.fst_of; assumption) | exact rfl
    | apply Keeps.fields)

theorem State.rackWrite_keeps {σ : State} {s : State} (c j a : Nat) (bs : List Byte) (hs : Keeps σ s) :
    Keeps σ (State.rackWrite s c j a bs) := by
  unfold State.rackWrite
  repeat' (with_reducible
    first
    | assumption | apply State.each_keeps | apply State.dmvSent_keeps | apply State.issue_keeps | (intro _) | exact rfl
    | apply Keeps.fields)

theorem State.writeSpan_keeps {σ : State} {s : State} (c j : Nat) (x0 : List (Nat × Nat)) (x1 : List Byte) (hs : Keeps σ s) :
    Keeps σ (State.writeSpan s c j x0 x1) := by
  induction x0 generalizing s c j x1 with
  | nil =>
    unfold State.writeSpan
    repeat' (with_reducible
      first
      | assumption | apply State.rackWrite_keeps | apply State.vwrite_keeps | split)
  | cons a l ih =>
    unfold State.writeSpan
    repeat' (with_reducible
      first
      | assumption | apply ih | apply State.rackWrite_keeps | apply State.vwrite_keeps | split)

theorem State.jobWrites_keeps {σ : State} {s : State} (c j : Nat) (x0 : List (Nat × List Byte)) (hs : Keeps σ s) :
    Keeps σ (State.jobWrites s c j x0).1 := by
  induction x0 generalizing s c j with
  | nil => exact hs
  | cons a l ih =>
    unfold State.jobWrites
    split
    · next e => exact Keeps.fst_of e (State.translateRange_keeps _ _ _ _ _ _ hs)
    · next e =>
      exact ih _ _ (State.when_keeps _ _ (fun t ht => State.dmvPiece_keeps _ _ _ ht)
        (State.crossed_keeps _ _ (State.writeSpan_keeps _ _ _ _ (Keeps.fst_of e (State.translateRange_keeps _ _ _ _ _ _ hs)))))

theorem State.jobReads_keeps {σ : State} {s : State} (c j : Nat) (got : Loaded) (x0 : List (Nat × Nat)) (hs : Keeps σ s) :
    Keeps σ (State.jobReads s c j got x0).1 := by
  induction x0 generalizing s c j got with
  | nil =>
    unfold State.jobReads
    repeat' (with_reducible
      first
      | assumption | apply State.jobRead_keeps | split | (apply Keeps.fst_of; assumption) | (apply Keeps.snd_of; assumption)
      | exact rfl | apply Keeps.fields)
  | cons a l ih =>
    unfold State.jobReads
    repeat' (with_reducible
      first
      | assumption | apply ih | apply State.jobRead_keeps | split | (apply Keeps.fst_of; assumption)
      | (apply Keeps.snd_of; assumption) | exact rfl | apply Keeps.fields)

theorem State.endChunk_keeps {σ : State} {s : State} (c : Nat) (r : DmvRun) (ws : List (Nat × List Byte)) (hs : Keeps σ s) :
    Keeps σ (State.endChunk s c r ws).1 := by
  unfold State.endChunk
  repeat' (with_reducible
    first
    | assumption | apply State.jobWrites_keeps | apply State.bump64_keeps | split | (intro _) | (apply Keeps.fst_of; assumption)
    | (apply Keeps.snd_of; assumption) | (apply Keeps.some_of; assumption) | exact rfl | apply Keeps.fields)

theorem State.copyChunk_keeps {σ : State} {s : State} (c : Nat) (r : DmvRun) (got : Loaded) (hs : Keeps σ s) :
    Keeps σ (State.copyChunk s c r got).1 := by
  unfold State.copyChunk
  repeat' (with_reducible
    first
    | assumption | apply State.jobRead_keeps | apply State.endChunk_keeps | extract_lets | split | (intro _)
    | (apply Keeps.fst_of; assumption) | (apply Keeps.snd_of; assumption) | (apply Keeps.some_of; assumption) | exact rfl
    | apply Keeps.fields)

theorem State.convertChunk_keeps {σ : State} {s : State} (c : Nat) (r : DmvRun) (got : Loaded) (hs : Keeps σ s) :
    Keeps σ (State.convertChunk s c r got).1 := by
  unfold State.convertChunk
  repeat' (with_reducible
    first
    | assumption | apply State.jobReads_keeps | apply State.endChunk_keeps | apply State.when_keeps
    | apply State.watchBytes_keeps | extract_lets | split | (intro _) | (apply Keeps.fst_of; assumption)
    | (apply Keeps.snd_of; assumption) | (apply Keeps.some_of; assumption) | exact rfl | apply Keeps.fields)

theorem State.dmvComplete_keeps {σ : State} {s : State} (c : Nat) (r : DmvRun) (status : Nat) (hs : Keeps σ s) :
    Keeps σ (State.dmvComplete s c r status) := by
  unfold State.dmvComplete
  repeat' (with_reducible
    first
    | assumption | apply State.setDmvRun_keeps | apply State.bump_keeps | apply State.complete_keeps | (intro _) | exact rfl
    | apply Keeps.fields)

theorem State.dmvSuspend_keeps {σ : State} {s : State} (c : Nat) (r : DmvRun) (hs : Keeps σ s) :
    Keeps σ (State.dmvSuspend s c r) := by
  unfold State.dmvSuspend
  repeat' (with_reducible
    first
    | assumption | apply State.setDmvRun_keeps | apply State.bump_keeps | apply State.setAside_keeps | (intro _) | exact rfl
    | apply Keeps.fields)

theorem State.afterChunk_keeps {σ : State} {s : State} (c : Nat) (r : DmvRun) (hs : Keeps σ s) :
    Keeps σ (State.afterChunk s c r) := by
  unfold State.afterChunk
  repeat' (with_reducible
    first
    | assumption | apply State.dmvComplete_keeps | apply State.dmvSuspend_keeps | apply State.setDmvRun_keeps | split
    | (intro _) | exact rfl | apply Keeps.fields)

theorem State.dmvArm_keeps {σ : State} {s : State} (c : Nat) (hs : Keeps σ s) : Keeps σ (State.dmvArm s c) := by
  unfold State.dmvArm
  repeat' (with_reducible
    first
    | assumption | apply State.setDmvRun_keeps | apply State.each_keeps | apply State.dmvSent_keeps | apply State.issue_keeps
    | extract_lets | split | (intro _) | (apply Keeps.fst_of; assumption) | (apply Keeps.snd_of; assumption)
    | (apply Keeps.some_of; assumption) | exact rfl | apply Keeps.fields)

theorem State.chunkOver_keeps {σ : State} {s : State} (c : Nat) (r r1 : DmvRun) (hs : Keeps σ s) :
    Keeps σ (State.chunkOver s c r r1) := by
  unfold State.chunkOver
  repeat' (with_reducible
    first
    | assumption | apply State.setDmvRun_keeps | apply State.afterChunk_keeps | extract_lets | split | (intro _) | exact rfl
    | apply Keeps.fields)

theorem State.dmvFault_keeps {σ : State} {s : State} (c : Nat) (cmd : Cmd) (x : AtuErr) (write : Bool) (hs : Keeps σ s) :
    Keeps σ (State.dmvFault s c cmd x write) := by
  unfold State.dmvFault
  repeat' (with_reducible
    first
    | assumption | apply State.faultHolder_keeps | apply State.bump_keeps | apply State.newFault_keeps | split | (intro _)
    | exact rfl | apply Keeps.fields)

theorem State.dmvChunk_keeps {σ : State} {s : State} (c : Nat) (cmd : Cmd) (hs : Keeps σ s) :
    Keeps σ (State.dmvChunk s c cmd) := by
  unfold State.dmvChunk
  repeat' (with_reducible
    first
    | assumption | apply State.dmvComplete_keeps | apply State.afterChunk_keeps | apply State.setDmvRun_keeps
    | apply State.copyChunk_keeps | apply State.convertChunk_keeps | apply State.chunkOver_keeps | apply State.bump_keeps
    | apply State.dmvFault_keeps | extract_lets | split | (intro _) | (apply Keeps.fst_of; assumption)
    | (apply Keeps.snd_of; assumption) | (apply Keeps.some_of; assumption) | exact rfl | apply Keeps.fields)

theorem execDmvChunkDone_keeps {σ : State} {s : State} (c : Nat) (hs : Keeps σ s) : KeepsNext σ (execDmvChunkDone c s) := by
  unfold execDmvChunkDone
  repeat' (with_reducible
    first
    | assumption | apply State.afterSnoops_keeps | apply State.dmvChunk_keeps | apply State.dmvArm_keeps | apply KeepsNext.next
    | split | (intro _) | (apply Keeps.fst_of; assumption) | (apply Keeps.snd_of; assumption)
    | (apply Keeps.some_of; assumption) | exact rfl | apply Keeps.fields)

theorem execCopy_keeps {σ : State} {s : State} (c : Nat) (cmd : Cmd) (hs : Keeps σ s) : KeepsNext σ (execCopy c cmd s) := by
  unfold execCopy
  repeat' (with_reducible
    first
    | assumption | apply State.occupy_keeps | apply State.when_keeps | apply State.dmvArm_keeps | apply KeepsNext.next
    | (intro _) | exact rfl | apply Keeps.fields)

theorem execConvert_keeps {σ : State} {s : State} (c : Nat) (cmd : Cmd) (hs : Keeps σ s) :
    KeepsNext σ (execConvert c cmd s) := by
  unfold execConvert
  repeat' (with_reducible
    first
    | assumption | apply State.occupy_keeps | apply State.when_keeps | apply State.dmvArm_keeps | apply KeepsNext.next
    | (intro _) | exact rfl | apply Keeps.fields)

end Sys2Proof.Machine
end

