-- ==== Sys2Proof/Laws/KeepsMoves.lean ====
section
/-! SUPPORT. Every operation of Machine/Moves.lean keeps what `Keeps` says. -/
namespace Sys2Proof.Machine

theorem State.parkPlace_keeps {σ : State} {s : State} (c j : Nat) (hs : Keeps σ s) : Keeps σ (State.parkPlace s c j).1 := by
  unfold State.parkPlace
  repeat' (with_reducible
    first
    | assumption | apply State.takeSlot_keeps | apply State.freeSub_keeps | apply State.updPgm_keeps | split | (intro _)
    | (apply Keeps.fst_of; assumption) | (apply Keeps.snd_of; assumption) | (apply Keeps.some_of; assumption) | exact rfl
    | apply Keeps.fields)

theorem State.t0Place_keeps {σ : State} {s : State} (c : Nat) (hs : Keeps σ s) : Keeps σ (State.t0Place s c).1 := by
  unfold State.t0Place
  repeat' (with_reducible
    first
    | assumption | apply State.updPgm_keeps | extract_lets | split | (intro _) | exact rfl | apply Keeps.fields)

theorem State.backPlace_keeps {σ : State} {s : State} (c : Nat) (hs : Keeps σ s) : Keeps σ (State.backPlace s c).1 := by
  unfold State.backPlace
  repeat' (with_reducible
    first
    | assumption | apply State.takeSlot_keeps | apply State.freeSub_keeps | split | (intro _) | (apply Keeps.fst_of; assumption)
    | (apply Keeps.snd_of; assumption) | (apply Keeps.some_of; assumption) | exact rfl | apply Keeps.fields)

theorem State.movePlace_keeps {σ : State} {s : State} (c : Nat) (m : PageMove) (hs : Keeps σ s) :
    Keeps σ (State.movePlace s c m).1 := by
  unfold State.movePlace
  repeat' (with_reducible
    first
    | assumption | apply State.allocPage_keeps | apply State.parkPlace_keeps | apply State.backPlace_keeps
    | apply State.t0Place_keeps | split | (intro _) | (apply Keeps.fst_of; assumption) | (apply Keeps.snd_of; assumption)
    | (apply Keeps.some_of; assumption) | exact rfl | apply Keeps.fields)

theorem State.waitMove_keeps {σ : State} {s : State} (c : Nat) (m : PageMove) (hs : Keeps σ s) :
    Keeps σ (State.waitMove s c m) := by
  unfold State.waitMove
  repeat' (with_reducible
    first
    | assumption | apply State.updPgm_keeps | split | (intro _) | exact rfl | apply Keeps.fields)

theorem State.startMove_keeps {σ : State} {s : State} (c : Nat) (m : PageMove) (hs : Keeps σ s) :
    Keeps σ (State.startMove s c m) := by
  unfold State.startMove
  repeat' (with_reducible
    first
    | assumption | apply State.waitMove_keeps | apply State.movePlace_keeps | apply State.updPgm_keeps
    | apply State.setPte_keeps | apply State.kwpTransfer_keeps | apply State.slpTransfer_keeps | extract_lets | split
    | (intro _) | (apply Keeps.fst_of; assumption) | (apply Keeps.snd_of; assumption) | (apply Keeps.some_of; assumption)
    | exact rfl | apply Keeps.fields)

theorem State.reqMove_keeps {σ : State} {s : State} (c : Nat) (m : PageMove) (hs : Keeps σ s) :
    Keeps σ (State.reqMove s c m) := by
  unfold State.reqMove
  repeat' (with_reducible
    first
    | assumption | apply State.startMove_keeps | apply State.updPgm_keeps | split | (intro _) | exact rfl | apply Keeps.fields)

theorem State.laterMoves_keeps {σ : State} {s : State} (c : Nat) (hs : Keeps σ s) : Keeps σ (State.laterMoves s c) := by
  unfold State.laterMoves
  repeat' (with_reducible
    first
    | assumption | apply State.updPgm_keeps | apply State.each_keeps | apply State.startMove_keeps | (intro _) | exact rfl
    | apply Keeps.fields)

theorem State.kickMoves_keeps {σ : State} {s : State} (c : Nat) (retries : Bool) (hs : Keeps σ s) :
    Keeps σ (State.kickMoves s c retries) := by
  unfold State.kickMoves
  repeat' (with_reducible
    first
    | assumption | apply State.updPgm_keeps | apply State.each_keeps | apply State.startMove_keeps | extract_lets | (intro _)
    | exact rfl | apply Keeps.fields)

theorem execDrainRelease_keeps {σ : State} {s : State} (c a : Nat) (hs : Keeps σ s) : KeepsNext σ (execDrainRelease c a s) := by
  unfold execDrainRelease
  repeat' (with_reducible
    first
    | assumption | apply State.drainRelease_keeps | apply State.kickMoves_keeps | apply KeepsNext.next | (intro _) | exact rfl
    | apply Keeps.fields)

theorem State.touchImage_keeps {σ : State} {s : State} (job : Nat) (p : Place) (hs : Keeps σ s) :
    Keeps σ (State.touchImage s job p) := by
  unfold State.touchImage
  repeat' (with_reducible
    first
    | assumption | apply State.each_keeps | apply State.touch_keeps | (intro _) | exact rfl | apply Keeps.fields)

theorem State.moveSend_keeps {σ : State} {s : State} (c i : Nat) (k : DevKind) (what : String) (node req gen : Nat)
    (payload : List Byte) (hs : Keeps σ s) :
    Keeps σ (State.moveSend s c i k what node req gen payload) := by
  unfold State.moveSend
  repeat' (with_reducible
    first
    | assumption | apply State.devSend_keeps | apply State.emit_keeps | split | (intro _) | exact rfl | apply Keeps.fields)

theorem State.sendClose_keeps {σ : State} {s : State} (c i : Nat) (hs : Keeps σ s) : Keeps σ (State.sendClose s c i) := by
  unfold State.sendClose
  repeat' (with_reducible
    first
    | assumption | apply State.moveSend_keeps | extract_lets | (intro _) | exact rfl | apply Keeps.fields)

theorem State.moveComplete_keeps {σ : State} {s : State} (c i : Nat) (hs : Keeps σ s) : Keeps σ (State.moveComplete s c i) := by
  unfold State.moveComplete
  repeat' (with_reducible
    first
    | assumption | apply State.updReq_keeps | apply State.sendClose_keeps | split | (intro _) | exact rfl | apply Keeps.fields)

theorem State.switchedHome_keeps {σ : State} {s : State} (c k : Nat) (hs : Keeps σ s) : Keeps σ (State.switchedHome s c k) := by
  unfold State.switchedHome
  repeat' (with_reducible
    first
    | assumption | apply State.updPgm_keeps | apply State.moveSend_keeps | apply State.when_keeps
    | apply State.moveComplete_keeps | extract_lets | split | (intro _) | (apply Keeps.fst_of; assumption)
    | (apply Keeps.snd_of; assumption) | (apply Keeps.some_of; assumption) | exact rfl | apply Keeps.fields)

theorem State.dropMove_keeps {σ : State} {s : State} (c id : Nat) (hs : Keeps σ s) : Keeps σ (State.dropMove s c id) := by
  unfold State.dropMove
  repeat' (with_reducible
    first
    | assumption | apply State.updPgm_keeps | (intro _) | exact rfl | apply Keeps.fields)

theorem State.switchHome_keeps {σ : State} {s : State} (c id : Nat) (m : PageMove) (poison : Bool) (hs : Keeps σ s) :
    Keeps σ (State.switchHome s c id m poison) := by
  unfold State.switchHome
  repeat' (with_reducible
    first
    | assumption | apply State.setPte_keeps | apply State.dropMove_keeps | apply State.poisonPage_keeps | apply State.bump_keeps
    | apply State.evt_keeps | apply State.freeImage_keeps | extract_lets | split | (intro _) | exact rfl | apply Keeps.fields)

theorem State.countMove_keeps {σ : State} {s : State} (c : Nat) (m : PageMove) (hs : Keeps σ s) :
    Keeps σ (State.countMove s c m) := by
  unfold State.countMove
  repeat' (with_reducible
    first
    | assumption | apply State.bump_keeps | apply State.bump64_keeps | apply State.when_keeps | extract_lets | (intro _)
    | exact rfl | apply Keeps.fields)

theorem State.moveSlots_keeps {σ : State} {s : State} (c : Nat) (m : PageMove) (hs : Keeps σ s) :
    Keeps σ (State.moveSlots s c m) := by
  unfold State.moveSlots
  repeat' (with_reducible
    first
    | assumption | apply State.when_keeps | apply State.slotLeft_keeps | apply State.slotCame_keeps | extract_lets | (intro _)
    | exact rfl | apply Keeps.fields)

theorem State.copyImage_keeps {σ : State} {s : State} (c job : Nat) (m : PageMove) (hs : Keeps σ s) :
    Keeps σ (State.copyImage s c job m) := by
  unfold State.copyImage
  repeat' (with_reducible
    first
    | assumption | apply State.touchImage_keeps | apply State.placeAt_keeps | apply State.imgWrite_keeps | extract_lets | split
    | (intro _) | exact rfl | apply Keeps.fields)

theorem State.finishMove_keeps {σ : State} {s : State} (c id : Nat) (m : PageMove) (hs : Keeps σ s) :
    Keeps σ (State.finishMove s c id m) := by
  unfold State.finishMove
  repeat' (with_reducible
    first
    | assumption | apply State.dropMove_keeps | apply State.placeFree_keeps | apply State.copyImage_keeps
    | apply State.countMove_keeps | apply State.switchHome_keeps | apply State.moveSlots_keeps | apply State.switchedHome_keeps
    | extract_lets | split | (intro _) | exact rfl | apply Keeps.fields)

theorem State.undoMove_keeps {σ : State} {s : State} (c id : Nat) (m : PageMove) (hs : Keeps σ s) :
    Keeps σ (State.undoMove s c id m) := by
  unfold State.undoMove
  repeat' (with_reducible
    first
    | assumption | apply State.dropMove_keeps | apply State.placeFree_keeps | apply State.when_keeps | apply State.setPte_keeps
    | extract_lets | split | (intro _) | exact rfl | apply Keeps.fields)

theorem State.parkFailed_keeps {σ : State} {s : State} (c k : Nat) (hs : Keeps σ s) : Keeps σ (State.parkFailed s c k) := by
  unfold State.parkFailed
  repeat' (with_reducible
    first
    | assumption | apply State.updPgm_keeps | apply State.evtJob_keeps | extract_lets | split | (intro _)
    | (apply Keeps.fst_of; assumption) | (apply Keeps.snd_of; assumption) | (apply Keeps.some_of; assumption) | exact rfl
    | apply Keeps.fields)

theorem State.retryPark_keeps {σ : State} {s : State} (c : Nat) (m : PageMove) (hs : Keeps σ s) :
    Keeps σ (State.retryPark s c m) := by
  unfold State.retryPark
  repeat' (with_reducible
    first
    | assumption | apply State.parkFailed_keeps | apply State.updPgm_keeps | apply State.waitMove_keeps | extract_lets | split
    | (intro _) | exact rfl | apply Keeps.fields)

theorem State.pullFailed_keeps {σ : State} {s : State} (c i : Nat) (hs : Keeps σ s) : Keeps σ (State.pullFailed s c i) := by
  unfold State.pullFailed
  repeat' (with_reducible
    first
    | assumption | apply State.unhold_keeps | apply State.evt_keeps | apply State.when_keeps | apply State.lose_keeps
    | extract_lets | (intro _) | exact rfl | apply Keeps.fields)

theorem State.failMove_keeps {σ : State} {s : State} (c id : Nat) (m : PageMove) (hs : Keeps σ s) :
    Keeps σ (State.failMove s c id m) := by
  unfold State.failMove
  repeat' (with_reducible
    first
    | assumption | apply State.undoMove_keeps | apply State.bump_keeps | apply State.pullFailed_keeps
    | apply State.retryPark_keeps | extract_lets | split | (intro _) | (apply Keeps.fst_of; assumption)
    | (apply Keeps.snd_of; assumption) | (apply Keeps.some_of; assumption) | exact rfl | apply Keeps.fields)

theorem execPageMoveDone_keeps {σ : State} {s : State} (c id : Nat) (hs : Keeps σ s) :
    KeepsNext σ (execPageMoveDone c id s) := by
  unfold execPageMoveDone
  repeat' (with_reducible
    first
    | assumption | apply State.when_keeps | apply State.bump_keeps | apply State.failMove_keeps | apply State.finishMove_keeps
    | apply State.kickMoves_keeps | apply State.retirePlan_keeps | apply KeepsNext.next | split | (intro _)
    | (apply Keeps.fst_of; assumption) | (apply Keeps.snd_of; assumption) | (apply Keeps.some_of; assumption) | exact rfl
    | apply Keeps.fields)

theorem State.failMovesOf_keeps {σ : State} {s : State} (c : Nat) (hs : Keeps σ s) : Keeps σ (State.failMovesOf s c) := by
  unfold State.failMovesOf
  repeat' (with_reducible
    first
    | assumption | apply State.each_keeps | apply State.failMove_keeps | apply State.kickMoves_keeps | split | (intro _)
    | (apply Keeps.fst_of; assumption) | (apply Keeps.snd_of; assumption) | (apply Keeps.some_of; assumption) | exact rfl
    | apply Keeps.fields)

theorem execPageMoveFailed_keeps {σ : State} {s : State} (c id : Nat) (hs : Keeps σ s) :
    KeepsNext σ (execPageMoveFailed c id s) := by
  unfold execPageMoveFailed
  repeat' (with_reducible
    first
    | assumption | apply State.when_keeps | apply State.failMove_keeps | apply State.kickMoves_keeps
    | apply State.retirePlan_keeps | apply KeepsNext.next | split | (intro _) | (apply Keeps.fst_of; assumption)
    | (apply Keeps.snd_of; assumption) | (apply Keeps.some_of; assumption) | exact rfl | apply Keeps.fields)

theorem State.pullPage_keeps {σ : State} {s : State} (c k i : Nat) (kind : MoveKind) (hs : Keeps σ s) :
    Keeps σ (State.pullPage s c k i kind) := by
  unfold State.pullPage
  repeat' (with_reducible
    first
    | assumption | apply State.bump_keeps | apply State.evt_keeps | apply State.when_keeps | apply State.lose_keeps
    | apply State.reqMove_keeps | split | (intro _) | exact rfl | apply Keeps.fields)

theorem State.schedMoves_keeps {σ : State} {s : State} (c : Nat) (hs : Keeps σ s) : Keeps σ (State.schedMoves s c) := by
  unfold State.schedMoves
  repeat' (with_reducible
    first
    | assumption | apply State.each_keeps | apply State.when_keeps | apply State.pullPage_keeps | split | (intro _)
    | (apply Keeps.fst_of; assumption) | (apply Keeps.snd_of; assumption) | (apply Keeps.some_of; assumption) | exact rfl
    | apply Keeps.fields)

theorem State.parkPages_keeps {σ : State} {s : State} (c i : Nat) (hs : Keeps σ s) : Keeps σ (State.parkPages s c i) := by
  unfold State.parkPages
  repeat' (with_reducible
    first
    | assumption | apply State.each_keeps | apply State.reqMove_keeps | (intro _) | exact rfl | apply Keeps.fields)

theorem State.t0Moves_keeps {σ : State} {s : State} (c : Nat) (hs : Keeps σ s) : Keeps σ (State.t0Moves s c) := by
  unfold State.t0Moves
  repeat' (with_reducible
    first
    | assumption | apply State.updPgm_keeps | apply State.each_keeps | apply State.reqMove_keeps | extract_lets | (intro _)
    | exact rfl | apply Keeps.fields)

end Sys2Proof.Machine
end

