-- ==== Sys2Proof/Laws/KeepsSketch.lean ====
section
/-! SUPPORT. Every operation of Machine/Sketch.lean keeps what `Keeps` says. -/
namespace Sys2Proof.Machine

theorem State.farKey_keeps {σ : State} {s : State} (c i : Nat) (d : Desc) (page h : Nat) (hs : Keeps σ s) :
    Keeps σ (State.farKey s c i d page h).1 := by
  unfold State.farKey
  repeat' (with_reducible
    first
    | assumption | apply State.translateRange_keeps | apply State.touchParts_keeps | extract_lets | split | (intro _)
    | (apply Keeps.fst_of; assumption) | (apply Keeps.snd_of; assumption) | (apply Keeps.some_of; assumption) | exact rfl
    | apply Keeps.fields)

theorem State.buildFar_keeps {σ : State} {s : State} (c i : Nat) (d : Desc) (page p0 : Nat) (bs : List LBlock)
    (hs : Keeps σ s) :
    Keeps σ (State.buildFar s c i d page p0 bs) := by
  unfold State.buildFar
  repeat' (with_reducible
    first
    | assumption | apply State.translateRange_keeps | apply State.when_keeps | apply State.newFault_keeps
    | apply State.writeParts_keeps | apply State.bump_keeps | apply State.updStep_keeps | extract_lets | split | (intro _)
    | (apply Keeps.fst_of; assumption) | (apply Keeps.snd_of; assumption) | (apply Keeps.some_of; assumption) | exact rfl
    | apply Keeps.fields)

theorem State.refineOne_keeps {σ : State} {s : State} (c i h : Nat) (d : Desc) (rows : List (List Rat)) (k : Nat)
    (l : FarRanks) (hs : Keeps σ s) :
    Keeps σ (State.refineOne s c i h d rows k l).1 := by
  unfold State.refineOne
  repeat' (with_reducible
    first
    | assumption | apply State.farKey_keeps | apply State.bump_keeps | apply State.updStep_keeps | split | (intro _)
    | (apply Keeps.fst_of; assumption) | (apply Keeps.snd_of; assumption) | (apply Keeps.some_of; assumption) | exact rfl
    | apply Keeps.fields)

theorem State.refineStage_keeps {σ : State} {s : State} (c i h : Nat) (d : Desc) (rows : List (List Rat)) (ks : List Nat)
    (hs : Keeps σ s) :
    Keeps σ (State.refineStage s c i h d rows ks).1 := by
  unfold State.refineStage
  repeat' (with_reducible
    first
    | assumption | apply State.refineOne_keeps | apply foldl_keeps | apply foldl_fst_keeps | extract_lets | split | (intro _)
    | (apply Keeps.fst_of; assumption) | (apply Keeps.snd_of; assumption) | (apply Keeps.some_of; assumption) | exact rfl
    | apply Keeps.fields)

theorem State.rankPages_keeps {σ : State} {s : State} (c i h : Nat) (d : Desc) (rows : List (List Rat)) (held : Nat)
    (cands : List Nat) (hs : Keeps σ s) :
    Keeps σ (State.rankPages s c i h d rows held cands).1 := by
  unfold State.rankPages
  repeat' (with_reducible
    first
    | assumption | apply State.bump_keeps | apply State.refineStage_keeps | extract_lets | split | (intro _) | exact rfl
    | apply Keeps.fields)

theorem State.selectPages_keeps {σ : State} {s : State} (c i p n : Nat) (d : Desc) (q : StagedRec) (hs : Keeps σ s) :
    Keeps σ (State.selectPages s c i p n d q).1 := by
  unfold State.selectPages
  repeat' (with_reducible
    first
    | assumption | apply State.bump_keeps | apply State.rankPages_keeps | apply foldl_keeps | apply foldl_fst_keeps
    | extract_lets | split | (intro _) | (apply Keeps.fst_of; assumption) | (apply Keeps.snd_of; assumption)
    | (apply Keeps.some_of; assumption) | exact rfl | apply Keeps.fields)

theorem State.pullLayer_keeps {σ : State} {s : State} (c i : Nat) (keys : List Nat) (hs : Keeps σ s) :
    Keeps σ (State.pullLayer s c i keys) := by
  unfold State.pullLayer
  repeat' (with_reducible
    first
    | assumption | apply State.each_keeps | apply State.when_keeps | apply State.pullPage_keeps | (intro _) | exact rfl
    | apply Keeps.fields)

theorem State.meetSketches_keeps {σ : State} {s : State} (c i p n : Nat) (d : Desc) (hs : Keeps σ s) :
    Keeps σ (State.meetSketches s c i p n d) := by
  unfold State.meetSketches
  repeat' (with_reducible
    first
    | assumption | apply State.each_keeps | apply State.touch_keeps | apply State.when_keeps | apply State.poisonPage_keeps
    | extract_lets | split | (intro _) | exact rfl | apply Keeps.fields)

theorem State.sparseSelect_keeps {σ : State} {s : State} (c i p n : Nat) (d : Desc) (q : StagedRec) (hs : Keeps σ s) :
    Keeps σ (State.sparseSelect s c i p n d q) := by
  unfold State.sparseSelect
  repeat' (with_reducible
    first
    | assumption | apply State.meetSketches_keeps | apply State.selectPages_keeps | apply State.updStep_keeps
    | apply State.pullLayer_keeps | split | (intro _) | (apply Keeps.fst_of; assumption) | (apply Keeps.snd_of; assumption)
    | (apply Keeps.some_of; assumption) | exact rfl | apply Keeps.fields)

end Sys2Proof.Machine
end

