-- ==== Sys2Proof/Laws/KeepsSpares.lean ====
section
/-! SUPPORT. Every operation of Machine/Spares.lean keeps what `Keeps` says. -/
namespace Sys2Proof.Machine

theorem State.setSpr_keeps {σ : State} {s : State} (f : Spr → Spr) (hs : Keeps σ s) : Keeps σ (State.setSpr s f) := by
  unfold State.setSpr
  repeat' (with_reducible
    first
    | assumption | (intro _) | exact rfl | apply Keeps.fields)

theorem State.offerSpare_keeps {σ : State} {s : State} (isCore : Bool) (unit item : Nat) (hs : Keeps σ s) :
    Keeps σ (State.offerSpare s isCore unit item) := by
  unfold State.offerSpare
  repeat' (with_reducible
    first
    | assumption | apply State.setSpr_keeps | apply State.evtPriv_keeps | extract_lets | split | (intro _) | exact rfl
    | apply Keeps.fields)

theorem State.failColumn_keeps {σ : State} {s : State} (c x : Nat) (hs : Keeps σ s) : Keeps σ (State.failColumn s c x) := by
  unfold State.failColumn
  repeat' (with_reducible
    first
    | assumption | apply State.logErr_keeps | apply State.bump_keeps | apply State.setSpr_keeps | apply State.evtPriv_keeps
    | apply State.offerSpare_keeps | extract_lets | split | (intro _) | exact rfl | apply Keeps.fields)

theorem execSpareCommit_keeps {σ : State} {s : State} (rq : Requester) (id : Nat) (hs : Keeps σ s) :
    KeepsNext σ (execSpareCommit rq id s) := by
  unfold execSpareCommit
  repeat' (with_reducible
    first
    | assumption | apply State.onWrite_keeps | apply State.when_keeps | apply State.setSpr_keeps | apply KeepsNext.next
    | (intro _) | exact rfl | apply Keeps.fields)

theorem execSpareDecline_keeps {σ : State} {s : State} (rq : Requester) (id : Nat) (hs : Keeps σ s) :
    KeepsNext σ (execSpareDecline rq id s) := by
  unfold execSpareDecline
  repeat' (with_reducible
    first
    | assumption | apply State.onWrite_keeps | apply State.setSpr_keeps | apply KeepsNext.next | (intro _) | exact rfl
    | apply Keeps.fields)

theorem State.updCore_keeps {σ : State} {s : State} (k : Nat) (f : CoreSt → CoreSt) (hs : Keeps σ s) :
    Keeps σ (State.updCore s k f) := by
  unfold State.updCore
  repeat' (with_reducible
    first
    | assumption | (intro _) | exact rfl | apply Keeps.fields)

theorem State.spareAnswers_keeps {σ : State} {s : State} (die item : Nat) (hs : Keeps σ s) :
    Keeps σ (State.spareAnswers s die item) := by
  unfold State.spareAnswers
  repeat' (with_reducible
    first
    | assumption | apply State.each_keeps | apply State.setRoute_keeps | apply State.updCore_keeps | extract_lets | (intro _)
    | exact rfl | apply Keeps.fields)

theorem State.remapSpares_keeps {σ : State} {s : State} (hs : Keeps σ s) : Keeps σ (State.remapSpares s) := by
  unfold State.remapSpares
  repeat' (with_reducible
    first
    | assumption | apply State.each_keeps | apply State.setSpr_keeps | apply State.evtPriv_keeps | apply State.when_keeps
    | apply State.spareAnswers_keeps | apply State.bump_keeps | extract_lets | split | (intro _) | exact rfl
    | apply Keeps.fields)

end Sys2Proof.Machine
end

