-- ==== Sys2Proof/Laws/KeepsSweep.lean ====
section
/-! SUPPORT. Every operation of Machine/Sweep.lean keeps what `Keeps` says. -/
namespace Sys2Proof.Machine

theorem State.xrWrite_keeps {σ : State} {s : State} (c r : Nat) (bs : List Byte) (hs : Keeps σ s) :
    Keeps σ (State.xrWrite s c r bs) := by
  unfold State.xrWrite
  repeat' (with_reducible
    first
    | assumption | apply State.vwrite_keeps | apply State.wr_keeps | extract_lets | (intro _) | exact rfl | apply Keeps.fields)

theorem State.xrPut_keeps {σ : State} {s : State} (c r : Nat) (bs : List Byte) (hs : Keeps σ s) :
    Keeps σ (State.xrPut s c r bs) := by
  unfold State.xrPut
  repeat' (with_reducible
    first
    | assumption | apply State.vwrite_keeps | apply State.wr_keeps | apply State.xrWrite_keeps | extract_lets | split
    | (intro _) | exact rfl | apply Keeps.fields)

theorem State.xrFull_keeps {σ : State} {s : State} (c r job : Nat) (hs : Keeps σ s) : Keeps σ (State.xrFull s c r job) := by
  unfold State.xrFull
  repeat' (with_reducible
    first
    | assumption | apply State.updAtn_keeps | apply State.evtJob_keeps | split | (intro _) | exact rfl | apply Keeps.fields)

theorem State.loseUnit_keeps {σ : State} {s : State} (c k : Nat) (hs : Keeps σ s) : Keeps σ (State.loseUnit s c k) := by
  unfold State.loseUnit
  repeat' (with_reducible
    first
    | assumption | apply State.each_keeps | apply State.updPgm_keeps | apply State.bump_keeps | extract_lets | split | (intro _)
    | exact rfl | apply Keeps.fields)

theorem State.beginStep_keeps {σ : State} {s : State} (c i : Nat) (hs : Keeps σ s) : Keeps σ (State.beginStep s c i) := by
  unfold State.beginStep
  repeat' (with_reducible
    first
    | assumption | apply State.updStep_keeps | extract_lets | split | (intro _) | exact rfl | apply Keeps.fields)

theorem State.abandon_keeps {σ : State} {s : State} (c i cause : Nat) (hs : Keeps σ s) :
    Keeps σ (State.abandon s c i cause) := by
  unfold State.abandon
  repeat' (with_reducible
    first
    | assumption | apply State.beginStep_keeps | apply State.leaveRuns_keeps | apply State.updStep_keeps
    | apply State.bump_keeps | apply State.reqEvt_keeps | apply State.xrPut_keeps | extract_lets | split | (intro _)
    | (apply Keeps.fst_of; assumption) | (apply Keeps.snd_of; assumption) | (apply Keeps.some_of; assumption) | exact rfl
    | apply Keeps.fields)

end Sys2Proof.Machine
end

