-- ==== Sys2Proof/Laws/KeepsSweeps.lean ====
section
/-! SUPPORT. Every operation of Machine/Sweeps.lean keeps what `Keeps` says. -/
namespace Sys2Proof.Machine

theorem State.setRun_keeps {σ : State} {s : State} (c j : Nat) (r : Option SweepRun) (hs : Keeps σ s) :
    Keeps σ (State.setRun s c j r) := by
  unfold State.setRun
  repeat' (with_reducible
    first
    | assumption | apply State.updAtn_keeps | (intro _) | exact rfl | apply Keeps.fields)

theorem State.updRun_keeps {σ : State} {s : State} (c j : Nat) (f : SweepRun → SweepRun) (hs : Keeps σ s) :
    Keeps σ (State.updRun s c j f) := by
  unfold State.updRun
  repeat' (with_reducible
    first
    | assumption | apply State.updAtn_keeps | (intro _) | exact rfl | apply Keeps.fields)

theorem State.asOld_keeps {σ : State} {s : State} (c : Nat) (o : Option OldBank) (hs : Keeps σ s) : Keeps σ (State.asOld s c o) := by
  cases o with
  | none => exact hs
  | some b =>
    exact State.wr_keeps _ _ _ _ (State.wr_keeps _ _ _ _ (State.wr_keeps _ _ _ _ (State.setPln_keeps _ hs)))

theorem State.under_keeps {σ : State} {s : State} (c : Nat) (o : Option OldBank) (f : State → State) (hf : ∀
    (a0 : State), Keeps σ a0 → Keeps σ (f a0)) (hs : Keeps σ s) :
    Keeps σ (State.under s c o f) := by
  unfold State.under
  repeat' (with_reducible
    first
    | assumption | apply hf | apply State.asOld_keeps | apply State.setPln_keeps | apply State.wr_keeps
    | apply State.retirePlan_keeps | extract_lets | split | (intro _) | (apply Keeps.fst_of; assumption)
    | (apply Keeps.snd_of; assumption) | (apply Keeps.some_of; assumption) | exact rfl | apply Keeps.fields)

theorem State.underRun_keeps {σ : State} {s : State} (c j : Nat) (f : State → State) (hf : ∀
    (a0 : State), Keeps σ a0 → Keeps σ (f a0)) (hs : Keeps σ s) :
    Keeps σ (State.underRun s c j f) := by
  unfold State.underRun
  repeat' (with_reducible
    first
    | assumption | apply hf | apply State.under_keeps | (intro _) | exact rfl | apply Keeps.fields)

theorem State.keepBanks_keeps {σ : State} {s : State} (hs : Keeps σ s) : Keeps σ (State.keepBanks s) := by
  unfold State.keepBanks
  repeat' (with_reducible
    first
    | assumption | apply State.each_keeps | apply State.updRun_keeps | (intro _) | exact rfl | apply Keeps.fields)

theorem State.badDesc_keeps {σ : State} {s : State} (c : Nat) (cmd : Cmd) (hs : Keeps σ s) :
    Keeps σ (State.badDesc s c cmd) := by
  unfold State.badDesc
  repeat' (with_reducible
    first
    | assumption | apply State.evt_keeps | apply State.complete_keeps | (intro _) | exact rfl | apply Keeps.fields)

theorem State.joinSweep_keeps {σ : State} {s : State} (c i : Nat) (d : Desc) (hs : Keeps σ s) :
    Keeps σ (State.joinSweep s c i d) := by
  unfold State.joinSweep
  repeat' (with_reducible
    first
    | assumption | apply State.beginStep_keeps | apply State.updStep_keeps | apply State.updReq_keeps | extract_lets | split
    | (intro _) | exact rfl | apply Keeps.fields)

theorem State.settleSweep_keeps {σ : State} {s : State} (c j : Nat) (hs : Keeps σ s) : Keeps σ (State.settleSweep s c j) := by
  unfold State.settleSweep
  repeat' (with_reducible
    first
    | assumption | apply State.setRun_keeps | apply State.bump_keeps | apply State.complete_keeps | apply State.accrue_keeps
    | apply State.setLane_keeps | apply State.withdrawFaults_keeps | extract_lets | split | (intro _)
    | (apply Keeps.fst_of; assumption) | (apply Keeps.snd_of; assumption) | (apply Keeps.some_of; assumption) | exact rfl
    | apply Keeps.fields)

theorem State.startSweep_keeps {σ : State} {s : State} (c : Nat) (cmd : Cmd) (hs : Keeps σ s) :
    Keeps σ (State.startSweep s c cmd) := by
  unfold State.startSweep
  repeat' (with_reducible
    first
    | assumption | apply State.badDesc_keeps | apply State.each_keeps | apply State.joinSweep_keeps | apply State.setRun_keeps
    | apply State.settleSweep_keeps | apply foldl_keeps | apply foldl_fst_keeps | extract_lets | split | (intro _) | exact rfl
    | apply Keeps.fields)

theorem State.sweepTaken_keeps {σ : State} {s : State} (c : Nat) (hs : Keeps σ s) : Keeps σ (State.sweepTaken s c) := by
  unfold State.sweepTaken
  repeat' (with_reducible
    first
    | assumption | apply State.updRun_keeps | apply State.startSweep_keeps | split | (intro _)
    | (apply Keeps.fst_of; assumption) | (apply Keeps.snd_of; assumption) | (apply Keeps.some_of; assumption) | exact rfl
    | apply Keeps.fields)

theorem State.sweepCmd_keeps {σ : State} {s : State} (c : Nat) (cmd : Cmd) (hs : Keeps σ s) :
    Keeps σ (State.sweepCmd s c cmd) := by
  unfold State.sweepCmd
  repeat' (with_reducible
    first
    | assumption | apply State.occupy_keeps | apply State.when_keeps | apply State.sweepTaken_keeps | apply State.accrue_keeps
    | apply State.arrive_keeps | apply State.settle_keeps | apply State.wake_keeps | split | (intro _) | exact rfl
    | apply Keeps.fields)

theorem execQk_keeps {σ : State} {s : State} (c : Nat) (cmd : Cmd) (hs : Keeps σ s) : KeepsNext σ (execQk c cmd s) := by
  unfold execQk
  repeat' (with_reducible
    first
    | assumption | apply State.sweepCmd_keeps | apply KeepsNext.next | (intro _) | exact rfl | apply Keeps.fields)

theorem execSoftmax_keeps {σ : State} {s : State} (c : Nat) (cmd : Cmd) (hs : Keeps σ s) :
    KeepsNext σ (execSoftmax c cmd s) := by
  unfold execSoftmax
  repeat' (with_reducible
    first
    | assumption | apply State.sweepCmd_keeps | apply KeepsNext.next | (intro _) | exact rfl | apply Keeps.fields)

theorem execPv_keeps {σ : State} {s : State} (c : Nat) (cmd : Cmd) (hs : Keeps σ s) : KeepsNext σ (execPv c cmd s) := by
  unfold execPv
  repeat' (with_reducible
    first
    | assumption | apply State.sweepCmd_keeps | apply KeepsNext.next | (intro _) | exact rfl | apply Keeps.fields)

theorem execFused_keeps {σ : State} {s : State} (c : Nat) (cmd : Cmd) (hs : Keeps σ s) : KeepsNext σ (execFused c cmd s) := by
  unfold execFused
  repeat' (with_reducible
    first
    | assumption | apply State.sweepCmd_keeps | apply KeepsNext.next | (intro _) | exact rfl | apply Keeps.fields)

theorem execPartialSweep_keeps {σ : State} {s : State} (c : Nat) (cmd : Cmd) (hs : Keeps σ s) :
    KeepsNext σ (execPartialSweep c cmd s) := by
  unfold execPartialSweep
  repeat' (with_reducible
    first
    | assumption | apply State.sweepCmd_keeps | apply KeepsNext.next | (intro _) | exact rfl | apply Keeps.fields)

theorem execStateUpdate_keeps {σ : State} {s : State} (c : Nat) (cmd : Cmd) (hs : Keeps σ s) :
    KeepsNext σ (execStateUpdate c cmd s) := by
  unfold execStateUpdate
  repeat' (with_reducible
    first
    | assumption | apply State.sweepCmd_keeps | apply KeepsNext.next | (intro _) | exact rfl | apply Keeps.fields)

theorem execCross_keeps {σ : State} {s : State} (c : Nat) (cmd : Cmd) (hs : Keeps σ s) : KeepsNext σ (execCross c cmd s) := by
  unfold execCross
  repeat' (with_reducible
    first
    | assumption | apply State.sweepCmd_keeps | apply KeepsNext.next | (intro _) | exact rfl | apply Keeps.fields)

theorem State.coverPoison_keeps {σ : State} {s : State} (c j i : Nat) (hs : Keeps σ s) :
    Keeps σ (State.coverPoison s c j i) := by
  unfold State.coverPoison
  repeat' (with_reducible
    first
    | assumption | apply State.updRun_keeps | apply State.setDamaged_keeps | (intro _) | exact rfl | apply Keeps.fields)

theorem State.coverStruck_keeps {σ : State} {s : State} (c j : Nat) (hs : Keeps σ s) : Keeps σ (State.coverStruck s c j) := by
  unfold State.coverStruck
  repeat' (with_reducible
    first
    | assumption | apply State.each_keeps | apply State.coverPoison_keeps | split | (intro _) | (apply Keeps.fst_of; assumption)
    | (apply Keeps.snd_of; assumption) | (apply Keeps.some_of; assumption) | exact rfl | apply Keeps.fields)

theorem State.writeMember_keeps {σ : State} {s : State} (c j i : Nat) (hs : Keeps σ s) :
    Keeps σ (State.writeMember s c j i) := by
  unfold State.writeMember
  repeat' (with_reducible
    first
    | assumption | apply State.updRun_keeps | apply State.updStep_keeps | extract_lets | (intro _) | exact rfl
    | apply Keeps.fields)

theorem State.checkUnits_keeps {σ : State} {s : State} (c i : Nat) (keys : List Nat) (hs : Keeps σ s) :
    Keeps σ (State.checkUnits s c i keys) := by
  unfold State.checkUnits
  repeat' (with_reducible
    first
    | assumption | apply State.each_keeps | apply State.when_keeps | apply State.loseUnit_keeps | apply State.setDamaged_keeps
    | (intro _) | exact rfl | apply Keeps.fields)

theorem State.putStreams_keeps {σ : State} {s : State} (c j i : Nat) (d : Desc) (lpad : Nat) (q : StagedRec) (pages : List
    (List Nat)) (hs : Keeps σ s) :
    Keeps σ (State.putStreams s c j i d lpad q pages) := by
  unfold State.putStreams
  repeat' (with_reducible
    first
    | assumption | apply State.checkUnits_keeps | apply State.updRun_keeps | apply State.bump_keeps
    | apply State.coverStruck_keeps | extract_lets | (intro _) | exact rfl | apply Keeps.fields)

theorem State.layMember_keeps {σ : State} {s : State} (c j i : Nat) (d : Desc) (lpad : Nat) (hs : Keeps σ s) :
    Keeps σ (State.layMember s c j i d lpad) := by
  unfold State.layMember
  repeat' (with_reducible
    first
    | assumption | apply State.updRun_keeps | apply State.updStep_keeps | apply State.sparseSelect_keeps
    | apply State.putStreams_keeps | apply State.when_keeps | apply State.coverPoison_keeps | apply State.pullLayer_keeps
    | extract_lets | split | (intro _) | (apply Keeps.fst_of; assumption) | (apply Keeps.snd_of; assumption)
    | (apply Keeps.some_of; assumption) | exact rfl | apply Keeps.fields)

theorem State.layAll_keeps {σ : State} {s : State} (c j : Nat) (hs : Keeps σ s) : Keeps σ (State.layAll s c j) := by
  unfold State.layAll
  repeat' (with_reducible
    first
    | assumption | apply State.each_keeps | apply State.layMember_keeps | apply State.updRun_keeps | extract_lets | split
    | (intro _) | (apply Keeps.fst_of; assumption) | (apply Keeps.snd_of; assumption) | (apply Keeps.some_of; assumption)
    | exact rfl | apply Keeps.fields)

theorem State.touchTile_keeps {σ : State} {s : State} (c j : Nat) (r : SweepRun) (set : List TilePart) (hs : Keeps σ s) :
    Keeps σ (State.touchTile s c j r set) := by
  unfold State.touchTile
  repeat' (with_reducible
    first
    | assumption | apply State.asOld_keeps | apply State.each_keeps | apply State.touchImage_keeps | apply State.touch_keeps
    | extract_lets | split | (intro _) | (apply Keeps.fst_of; assumption) | (apply Keeps.snd_of; assumption)
    | (apply Keeps.some_of; assumption) | exact rfl | apply Keeps.fields)

theorem State.meetPoison_keeps {σ : State} {s : State} (c j : Nat) (r : SweepRun) (set : List TilePart) (hs : Keeps σ s) :
    Keeps σ (State.meetPoison s c j r set) := by
  unfold State.meetPoison
  repeat' (with_reducible
    first
    | assumption | apply State.each_keeps | apply State.poisonPage_keeps | apply State.updRun_keeps
    | apply State.coverStruck_keeps | extract_lets | split | (intro _) | exact rfl | apply Keeps.fields)

theorem State.projTile_keeps {σ : State} {s : State} (c j : Nat) (r : SweepRun) (i : Nat) (out : Bool) (hs : Keeps σ s) :
    Keeps σ (State.projTile s c j r i out) := by
  unfold State.projTile
  repeat' (with_reducible
    first
    | assumption | apply State.touch_keeps | apply State.drawNat_keeps | apply State.passToNow_keeps | apply State.updRun_keeps
    | apply State.bump_keeps | extract_lets | split | (intro _) | (apply Keeps.fst_of; assumption)
    | (apply Keeps.snd_of; assumption) | (apply Keeps.some_of; assumption) | exact rfl | apply Keeps.fields)

theorem State.stageStates_keeps {σ : State} {s : State} (c : Nat) (r : SweepRun) (set : List TilePart) (outs : List PartOut)
    (hs : Keeps σ s) :
    Keeps σ (State.stageStates s c r set outs) := by
  unfold State.stageStates
  repeat' (with_reducible
    first
    | assumption | apply State.updStep_keeps | apply foldl_keeps | apply foldl_fst_keeps | extract_lets | split | (intro _)
    | (apply Keeps.fst_of; assumption) | (apply Keeps.snd_of; assumption) | (apply Keeps.some_of; assumption) | exact rfl
    | apply Keeps.fields)

theorem State.tileStall_keeps {σ : State} {s : State} (d : Desc) (outs : List PartOut) (hs : Keeps σ s) :
    Keeps σ (State.tileStall s d outs).2 := by
  unfold State.tileStall
  repeat' (with_reducible
    first
    | assumption | apply State.drawNat_keeps | split | (intro _) | exact rfl | apply Keeps.fields)

theorem State.runTile_keeps {σ : State} {s : State} (c j : Nat) (r : SweepRun) (set : List TilePart) (hs : Keeps σ s) :
    Keeps σ (State.runTile s c j r set) := by
  unfold State.runTile
  repeat' (with_reducible
    first
    | assumption | apply State.tileStall_keeps | apply State.drawNat_keeps | apply State.passToNow_keeps
    | apply State.each_keeps | apply State.vwrite_keeps | apply State.when_keeps | apply State.watchBytes_keeps
    | apply State.stageStates_keeps | apply State.updRun_keeps | apply State.bump_keeps | apply foldl_keeps
    | apply foldl_fst_keeps | extract_lets | split | (intro _) | (apply Keeps.fst_of; assumption)
    | (apply Keeps.snd_of; assumption) | (apply Keeps.some_of; assumption) | exact rfl | apply Keeps.fields)

theorem State.deliverMass_keeps {σ : State} {s : State} (c i : Nat) (d : Desc) (r : SweepRun) (hs : Keeps σ s) :
    Keeps σ (State.deliverMass s c i d r) := by
  unfold State.deliverMass
  repeat' (with_reducible
    first
    | assumption | apply State.each_keeps | apply State.updStep_keeps | extract_lets | split | (intro _) | exact rfl
    | apply Keeps.fields)

theorem State.sendRecord_keeps {σ : State} {s : State} (c j : Nat) (d : Desc) (bs : List Byte) (hs : Keeps σ s) :
    Keeps σ (State.sendRecord s c j d bs) := by
  unfold State.sendRecord
  repeat' (with_reducible
    first
    | assumption | apply State.bump_keeps | apply State.updRun_keeps | apply State.xrFull_keeps | apply State.xrPut_keeps
    | extract_lets | split | (intro _) | (apply Keeps.fst_of; assumption) | (apply Keeps.snd_of; assumption)
    | (apply Keeps.some_of; assumption) | exact rfl | apply Keeps.fields)

theorem State.putOutput_keeps {σ : State} {s : State} (c j i : Nat) (d : Desc) (q : StagedRec) (vals : List
    (List Rat × Nat)) (hs : Keeps σ s) :
    Keeps σ (State.putOutput s c j i d q vals) := by
  unfold State.putOutput
  repeat' (with_reducible
    first
    | assumption | apply State.updRun_keeps | apply State.writeMember_keeps | apply State.watchBytes_keeps
    | apply State.sendRecord_keeps | extract_lets | (intro _) | exact rfl | apply Keeps.fields)

theorem State.mergeMember_keeps {σ : State} {s : State} (c j i : Nat) (d : Desc) (hs : Keeps σ s) :
    Keeps σ (State.mergeMember s c j i d) := by
  unfold State.mergeMember
  repeat' (with_reducible
    first
    | assumption | apply State.bump_keeps | apply State.putOutput_keeps | extract_lets | split | (intro _)
    | (apply Keeps.fst_of; assumption) | (apply Keeps.snd_of; assumption) | (apply Keeps.some_of; assumption) | exact rfl
    | apply Keeps.fields)

theorem State.endMember_keeps {σ : State} {s : State} (c j i : Nat) (d : Desc) (q : StagedRec) (r : SweepRun) (hs : Keeps σ s) :
    Keeps σ (State.endMember s c j i d q r) := by
  unfold State.endMember
  repeat' (with_reducible
    first
    | assumption | apply State.deliverMass_keeps | apply State.writeMember_keeps | apply State.updRun_keeps
    | apply State.watchBytes_keeps | apply State.updStep_keeps | apply State.mergeMember_keeps | apply State.devSend_keeps
    | apply State.putOutput_keeps | extract_lets | split | (intro _) | exact rfl | apply Keeps.fields)

theorem State.endMembers_keeps {σ : State} {s : State} (c j : Nat) (hs : Keeps σ s) : Keeps σ (State.endMembers s c j) := by
  unfold State.endMembers
  repeat' (with_reducible
    first
    | assumption | apply State.each_keeps | apply State.endMember_keeps | extract_lets | split | (intro _)
    | (apply Keeps.fst_of; assumption) | (apply Keeps.snd_of; assumption) | (apply Keeps.some_of; assumption) | exact rfl
    | apply Keeps.fields)

theorem State.clockRun_keeps {σ : State} {s : State} (c j : Nat) (hs : Keeps σ s) : Keeps σ (State.clockRun s c j) := by
  unfold State.clockRun
  repeat' (with_reducible
    first
    | assumption | apply State.updRun_keeps | (intro _) | exact rfl | apply Keeps.fields)

theorem State.sweepFault_keeps {σ : State} {s : State} (c : Nat) (cmd : Cmd) (x : AtuErr) (write : Bool) (hs : Keeps σ s) :
    Keeps σ (State.sweepFault s c cmd x write) := by
  unfold State.sweepFault
  repeat' (with_reducible
    first
    | assumption | apply State.setRun_keeps | apply State.faultHolder_keeps | apply State.clockRun_keeps
    | apply State.bump_keeps | apply State.newFault_keeps | apply State.evt_keeps | split | (intro _) | exact rfl
    | apply Keeps.fields)

theorem State.flushHeld_keeps {σ : State} {s : State} (c j : Nat) (x0 : Nat) (hs : Keeps σ s) :
    Keeps σ (State.flushHeld s c j x0) := by
  induction x0 generalizing s c j with
  | zero =>
    unfold State.flushHeld
    repeat' (with_reducible
      first
      | assumption | apply State.bump_keeps | apply State.updRun_keeps | apply State.xrPut_keeps | extract_lets | split
      | (intro _) | (apply Keeps.fst_of; assumption) | exact rfl | apply Keeps.fields)
  | succ n ih =>
    unfold State.flushHeld
    repeat' (with_reducible
      first
      | assumption | apply ih | apply State.bump_keeps | apply State.updRun_keeps | apply State.xrPut_keeps | extract_lets
      | split | (intro _) | (apply Keeps.fst_of; assumption) | exact rfl | apply Keeps.fields)

theorem State.afterTile_keeps {σ : State} {s : State} (c : Nat) (cmd : Cmd) (hs : Keeps σ s) :
    Keeps σ (State.afterTile s c cmd) := by
  unfold State.afterTile
  repeat' (with_reducible
    first
    | assumption | apply State.settleSweep_keeps | apply State.clockRun_keeps | apply State.setAside_keeps
    | apply State.evt_keeps | apply State.bump_keeps | extract_lets | split | (intro _) | (apply Keeps.fst_of; assumption)
    | (apply Keeps.snd_of; assumption) | (apply Keeps.some_of; assumption) | exact rfl | apply Keeps.fields)

theorem State.abandonGroups_keeps {σ : State} {s : State} (c : Nat) (hs : Keeps σ s) : Keeps σ (State.abandonGroups s c) := by
  unfold State.abandonGroups
  repeat' (with_reducible
    first
    | assumption | apply State.each_keeps | apply State.when_keeps | apply State.abandon_keeps | extract_lets | (intro _)
    | exact rfl | apply Keeps.fields)

theorem State.residueCheck_keeps {σ : State} {s : State} (c : Nat) (carried : List Nat) (bad : Option Nat) (hs : Keeps σ s) :
    Keeps σ (State.residueCheck s c carried bad) := by
  unfold State.residueCheck
  repeat' (with_reducible
    first
    | assumption | apply State.each_keeps | apply State.abandon_keeps | apply State.abandonGroups_keeps
    | apply State.failColumn_keeps | split | (intro _) | (apply Keeps.fst_of; assumption) | (apply Keeps.snd_of; assumption)
    | (apply Keeps.some_of; assumption) | exact rfl | apply Keeps.fields)

theorem State.setTile_keeps {σ : State} {s : State} (c : Nat) (cmd : Cmd) (r0 : SweepRun) (set : List TilePart)
    (bad : Option Nat) (hs : Keeps σ s) :
    Keeps σ (State.setTile s c cmd r0 set bad) := by
  unfold State.setTile
  repeat' (with_reducible
    first
    | assumption | apply State.asOld_keeps | apply State.sweepFault_keeps | apply State.touchTile_keeps
    | apply State.meetPoison_keeps | apply State.underRun_keeps | apply State.runTile_keeps | apply State.residueCheck_keeps
    | apply State.endMembers_keeps | apply State.afterTile_keeps | extract_lets | split | (intro _)
    | (apply Keeps.fst_of; assumption) | (apply Keeps.snd_of; assumption) | (apply Keeps.some_of; assumption) | exact rfl
    | apply Keeps.fields)

theorem State.tile_keeps {σ : State} {s : State} (c : Nat) (cmd : Cmd) (bad : Option Nat) (hs : Keeps σ s) :
    Keeps σ (State.tile s c cmd bad) := by
  unfold State.tile
  repeat' (with_reducible
    first
    | assumption | apply State.underRun_keeps | apply State.flushHeld_keeps | apply State.layAll_keeps
    | apply State.setRun_keeps | apply State.coverStruck_keeps | apply State.endMembers_keeps | apply State.afterTile_keeps
    | apply State.asOld_keeps | apply State.sweepFault_keeps | apply State.projTile_keeps | apply State.residueCheck_keeps
    | apply State.setTile_keeps | extract_lets | split | (intro _) | (apply Keeps.fst_of; assumption)
    | (apply Keeps.snd_of; assumption) | (apply Keeps.some_of; assumption) | exact rfl | apply Keeps.fields)

theorem execTileEnd_keeps {σ : State} {s : State} (c : Nat) (bad : Option Nat) (hs : Keeps σ s) :
    KeepsNext σ (execTileEnd c bad s) := by
  unfold execTileEnd
  repeat' (with_reducible
    first
    | assumption | apply State.startSweep_keeps | apply State.tile_keeps | apply KeepsNext.next | split | (intro _)
    | (apply Keeps.fst_of; assumption) | (apply Keeps.snd_of; assumption) | (apply Keeps.some_of; assumption) | exact rfl
    | apply Keeps.fields)

theorem State.dropHeld_keeps {σ : State} {s : State} (c j : Nat) (hs : Keeps σ s) : Keeps σ (State.dropHeld s c j) := by
  unfold State.dropHeld
  repeat' (with_reducible
    first
    | assumption | apply State.each_keeps | apply State.updRun_keeps | extract_lets | split | (intro _)
    | (apply Keeps.fst_of; assumption) | (apply Keeps.snd_of; assumption) | (apply Keeps.some_of; assumption) | exact rfl
    | apply Keeps.fields)

theorem State.noonCutoff_keeps {σ : State} {s : State} (c : Nat) (hs : Keeps σ s) : Keeps σ (State.noonCutoff s c) := by
  unfold State.noonCutoff
  repeat' (with_reducible
    first
    | assumption | apply State.updAtn_keeps | apply State.each_keeps | apply State.abandon_keeps | apply State.when_keeps
    | apply State.abandonGroups_keeps | apply State.dropHeld_keeps | apply State.settleSweep_keeps | extract_lets | split
    | (intro _) | exact rfl | apply Keeps.fields)

end Sys2Proof.Machine
end

