-- ==== Sys2Proof/Laws/KeepsVse.lean ====
section
/-! SUPPORT. Every operation of Machine/Vse.lean keeps what `Keeps` says. -/
namespace Sys2Proof.Machine

theorem State.updVse_keeps {σ : State} {s : State} (c : Nat) (f : VseCh → VseCh) (hs : Keeps σ s) :
    Keeps σ (State.updVse s c f) := by
  unfold State.updVse
  repeat' (with_reducible
    first
    | assumption | apply State.updCh_keeps | (intro _) | exact rfl | apply Keeps.fields)

/-- A computation of reads keeps what `Keeps` says, whatever it ends with. -/
structure RdKeeps {α : Type} (m : Rd α) : Prop where
  run : ∀ σ s : State, Keeps σ s → Keeps σ (s.rdRun m).2

theorem State.rdRun_keeps {σ : State} {α : Type} {s : State} (m : Rd α) (hm : RdKeeps m) (hs : Keeps σ s) :
    Keeps σ (State.rdRun s m).2 := hm.run σ s hs

theorem State.openRead_keeps {σ : State} {s : State} (c j va n : Nat) (hs : Keeps σ s) :
    Keeps σ (State.openRead s c j va n).2 := by
  unfold State.openRead
  repeat' (with_reducible
    first
    | assumption | apply State.translateRange_keeps | apply State.touchParts_keeps | apply State.drawBytes_keeps | extract_lets
    | split | (intro _) | (apply Keeps.fst_of; assumption) | (apply Keeps.snd_of; assumption)
    | (apply Keeps.some_of; assumption) | exact rfl | apply Keeps.fields)

theorem RdKeeps.pure {α : Type} (a : α) : RdKeeps (pure a : Rd α) := ⟨fun _ _ h => h⟩

theorem RdKeeps.bind {α β : Type} {m : Rd α} {f : α → Rd β} (h : RdKeeps m) (k : ∀ a, RdKeeps (f a)) :
    RdKeeps (m >>= f) := by
  refine ⟨fun σ s hs => ?_⟩
  have e : s.rdRun (m >>= f) = match s.rdRun m with
      | (.ok a, t) => t.rdRun (f a)
      | (.error x, t) => (.error x, t) := by
    show (match m s with | (a, t) => ExceptT.bindCont f a t) = match m s with
      | (.ok a, t) => t.rdRun (f a)
      | (.error x, t) => (.error x, t)
    generalize m s = p
    obtain ⟨x, t⟩ := p
    cases x <;> rfl
  rw [e]
  have hk := h.run σ s hs
  generalize s.rdRun m = p at hk
  obtain ⟨x, t⟩ := p
  cases x with
  | error => exact hk
  | ok a => exact (k a).run σ t hk

theorem RdKeeps.get : RdKeeps (get : Rd State) := ⟨fun _ _ h => h⟩

theorem RdKeeps.read {α : Type} {f : State → Except AtuErr α × State} (h : ∀ {σ s : State}, Keeps σ s → Keeps σ (f s).2) :
    RdKeeps (ExceptT.mk f : Rd α) := ⟨fun _ _ hs => h hs⟩

theorem rdJob_keeps (c j va n : Nat) : RdKeeps (rdJob c j va n) := RdKeeps.read fun h => State.openRead_keeps c j va n h

theorem rdCanWrite_keeps (c j va n : Nat) : RdKeeps (rdCanWrite c j va n) := by
  refine ⟨fun σ s h => ?_⟩
  show Keeps σ (match s.translateRange c j va n true (n / 4096 + 2) with
    | (s1, .error x) => ((.error x : Except AtuErr (List (Nat × Nat))), s1)
    | (s1, .ok l) => (.ok l, s1)).2
  have hk := State.translateRange_keeps c j va n true (n / 4096 + 2) h
  generalize s.translateRange c j va n true (n / 4096 + 2) = p at hk
  obtain ⟨t, x⟩ := p
  cases x <;> exact hk

theorem rdMap_keeps {α β : Type} (f : α → Rd β) (hf : ∀ a, RdKeeps (f a)) (l : List α) : RdKeeps (rdMap f l) := by
  induction l with
  | nil => exact RdKeeps.pure _
  | cons a l ih => exact RdKeeps.bind (hf a) fun _ => RdKeeps.bind ih fun _ => RdKeeps.pure _

theorem State.setStore_keeps {σ : State} {s : State} (c n : Nat) (v : VStore) (hs : Keeps σ s) :
    Keeps σ (State.setStore s c n v) := by
  unfold State.setStore
  repeat' (with_reducible
    first
    | assumption | apply State.updVse_keeps | (intro _) | exact rfl | apply Keeps.fields)

theorem State.vseGroupsReg_keeps {σ : State} {s : State} (c : Nat) (hs : Keeps σ s) : Keeps σ (State.vseGroupsReg s c) := by
  unfold State.vseGroupsReg
  repeat' (with_reducible
    first
    | assumption | apply State.wr_keeps | (intro _) | exact rfl | apply Keeps.fields)

theorem State.groupRead_keeps {σ : State} {s : State} (c g off n : Nat) (hs : Keeps σ s) :
    Keeps σ (State.groupRead s c g off n).2 := by
  unfold State.groupRead
  repeat' (with_reducible
    first
    | assumption | apply State.drawBytes_keeps | extract_lets | split | (intro _) | exact rfl | apply Keeps.fields)

theorem rdGroup_keeps (c g off n : Nat) : RdKeeps (rdGroup c g off n) := RdKeeps.read fun h => State.groupRead_keeps c g off n h

theorem State.groupWrite_keeps {σ : State} {s : State} (c g off : Nat) (bs : List Byte) (hs : Keeps σ s) :
    Keeps σ (State.groupWrite s c g off bs) := by
  unfold State.groupWrite
  repeat' (with_reducible
    first
    | assumption | apply State.writeRanges_keeps | (intro _) | exact rfl | apply Keeps.fields)

theorem State.takeGroup_keeps {σ : State} {s : State} (c j : Nat) (hs : Keeps σ s) : Keeps σ (State.takeGroup s c j).1 := by
  unfold State.takeGroup
  repeat' (with_reducible
    first
    | assumption | apply State.drawNat_keeps | apply State.updPgm_keeps | apply State.pagesFreeReg_keeps
    | apply State.freeSub_keeps | apply State.charge_keeps | apply foldl_keeps | apply foldl_fst_keeps | extract_lets | split
    | (intro _) | (apply Keeps.fst_of; assumption) | (apply Keeps.snd_of; assumption) | (apply Keeps.some_of; assumption)
    | exact rfl | apply Keeps.fields)

theorem State.giveGroup_keeps {σ : State} {s : State} (c g t : Nat) (hs : Keeps σ s) : Keeps σ (State.giveGroup s c g t) := by
  unfold State.giveGroup
  repeat' (with_reducible
    first
    | assumption | apply State.each_keeps | apply State.giveSlot_keeps | apply State.freeAdd_keeps | apply State.uncharge_keeps
    | (intro _) | exact rfl | apply Keeps.fields)

theorem State.freeDropped_keeps {σ : State} {s : State} (c : Nat) (hs : Keeps σ s) : Keeps σ (State.freeDropped s c) := by
  unfold State.freeDropped
  repeat' (with_reducible
    first
    | assumption | apply State.each_keeps | apply State.giveGroup_keeps | apply State.updVse_keeps
    | apply State.vseGroupsReg_keeps | (intro _) | exact rfl | apply Keeps.fields)

theorem State.dropStores_keeps {σ : State} {s : State} (c j : Nat) (hs : Keeps σ s) : Keeps σ (State.dropStores s c j) := by
  unfold State.dropStores
  repeat' (with_reducible
    first
    | assumption | apply State.each_keeps | apply State.wr_keeps | apply State.updVse_keeps | extract_lets | (intro _)
    | exact rfl | apply Keeps.fields)

theorem State.vseFault_keeps {σ : State} {s : State} (c e : Nat) (cmd : Cmd) (x : AtuErr) (write : Bool) (hs : Keeps σ s) :
    Keeps σ (State.vseFault s c e cmd x write) := by
  unfold State.vseFault
  repeat' (with_reducible
    first
    | assumption | apply State.when_keeps | apply State.bump_keeps | apply State.faultHolder_keeps | apply State.newFault_keeps
    | apply State.evt_keeps | split | (intro _) | exact rfl | apply Keeps.fields)

theorem State.storeSet_keeps {σ : State} {s : State} (c : Nat) (cmd : Cmd) (hs : Keeps σ s) :
    Keeps σ (State.storeSet s c cmd).1 := by
  unfold State.storeSet
  repeat' (with_reducible
    first
    | assumption | apply State.setStore_keeps | apply State.each_keeps | apply State.wr_keeps | extract_lets | split | (intro _)
    | exact rfl | apply Keeps.fields)

theorem State.appendVec_keeps {σ : State} {s : State} (c n l : Nat) (mask code : List Byte) (hs : Keeps σ s) :
    KeepsSome σ (State.appendVec s c n l mask code) := by
  unfold State.appendVec
  repeat' (with_reducible
    first
    | assumption | apply State.groupWrite_keeps | apply State.takeGroup_keeps | apply State.setStore_keeps
    | apply State.vseGroupsReg_keeps | exact KeepsSome.none | apply KeepsSome.some | apply KeepsSome.map | apply KeepsSome.bind
    | (apply Keeps.some_of; assumption) | extract_lets | split | (intro _) | (apply Keeps.fst_of; assumption)
    | (apply Keeps.snd_of; assumption) | exact rfl | apply Keeps.fields)

theorem State.appendAll_keeps {σ : State} {s : State} (c n l : Nat) (x0 : List (List Byte × List Byte)) (hs : Keeps σ s) :
    Keeps σ (State.appendAll s c n l x0).1 := by
  induction x0 generalizing s c n l with
  | nil =>
    unfold State.appendAll
    repeat' (with_reducible
      first
      | assumption | apply State.appendVec_keeps | split | (apply Keeps.fst_of; assumption) | (apply Keeps.some_of; assumption)
      | exact rfl | apply Keeps.fields)
  | cons a l ih =>
    unfold State.appendAll
    repeat' (with_reducible
      first
      | assumption | apply ih | apply State.appendVec_keeps | split | (apply Keeps.fst_of; assumption)
      | (apply Keeps.some_of; assumption) | exact rfl | apply Keeps.fields)

theorem insertReads_keeps (c j : Nat) (v : VStore) (l count src : Nat) : RdKeeps (insertReads c j v l count src) :=
  RdKeeps.bind (rdJob_keeps ..) fun _ => RdKeeps.bind (rdCanWrite_keeps ..) fun _ => RdKeeps.bind (rdJob_keeps ..) fun _ =>
    RdKeeps.bind (rdJob_keeps ..) fun _ => RdKeeps.pure _

theorem State.vseInsert_keeps {σ : State} {s : State} (c e : Nat) (cmd : Cmd) (hs : Keeps σ s) :
    Keeps σ (State.vseInsert s c e cmd) := by
  unfold State.vseInsert
  repeat' (with_reducible
    first
    | assumption | apply State.complete_keeps | apply State.rdRun_keeps | apply insertReads_keeps | apply State.vseFault_keeps
    | apply State.appendAll_keeps | apply State.writeParts_keeps | extract_lets | split | (intro _)
    | (apply Keeps.fst_of; assumption) | (apply Keeps.snd_of; assumption) | (apply Keeps.some_of; assumption) | exact rfl
    | apply Keeps.fields)

theorem listReads_keeps (c j : Nat) (v : VStore) (l : Nat) : RdKeeps (listReads c j v l) :=
  RdKeeps.bind (rdJob_keeps ..) fun _ => RdKeeps.bind (rdCanWrite_keeps ..) fun _ => RdKeeps.pure _

theorem State.vseDelete_keeps {σ : State} {s : State} (c e : Nat) (cmd : Cmd) (hs : Keeps σ s) :
    Keeps σ (State.vseDelete s c e cmd) := by
  unfold State.vseDelete
  repeat' (with_reducible
    first
    | assumption | apply State.complete_keeps | apply State.rdRun_keeps | apply listReads_keeps | apply State.vseFault_keeps
    | apply State.groupRead_keeps | apply State.groupWrite_keeps | apply State.writeParts_keeps | extract_lets | split
    | (intro _) | (apply Keeps.fst_of; assumption) | (apply Keeps.snd_of; assumption) | (apply Keeps.some_of; assumption)
    | exact rfl | apply Keeps.fields)

theorem State.setSearch_keeps {σ : State} {s : State} (c e j : Nat) (r : Option SearchRun) (hs : Keeps σ s) :
    Keeps σ (State.setSearch s c e j r) := by
  unfold State.setSearch
  repeat' (with_reducible
    first
    | assumption | apply State.updVse_keeps | (intro _) | exact rfl | apply Keeps.fields)

theorem searchReads_keeps (c j : Nat) (v : VStore) (addr n : Nat) : RdKeeps (searchReads c j v addr n) :=
  RdKeeps.bind (rdMap_keeps _ (fun _ => rdJob_keeps ..) _) fun _ =>
    RdKeeps.bind (rdMap_keeps _ (fun _ => rdJob_keeps ..) _) fun _ => RdKeeps.bind (rdJob_keeps ..) fun _ => RdKeeps.pure _

theorem State.beginSearch_keeps {σ : State} {s : State} (c e : Nat) (cmd : Cmd) (hs : Keeps σ s) :
    Keeps σ (State.beginSearch s c e cmd) := by
  unfold State.beginSearch
  repeat' (with_reducible
    first
    | assumption | apply State.complete_keeps | apply State.rdRun_keeps | apply searchReads_keeps | apply State.vseFault_keeps
    | apply State.setSearch_keeps | extract_lets | split | (intro _) | (apply Keeps.fst_of; assumption)
    | (apply Keeps.snd_of; assumption) | (apply Keeps.some_of; assumption) | exact rfl | apply Keeps.fields)

theorem rdVec_keeps (c g : Nat) (v : VStore) (k : Nat) : RdKeeps (rdVec c g v k) :=
  RdKeeps.bind (rdGroup_keeps ..) fun _ => RdKeeps.bind (rdGroup_keeps ..) fun _ => RdKeeps.bind (rdGroup_keeps ..) fun _ =>
    RdKeeps.pure _

theorem rdEdge_keeps (c n : Nat) (v : VStore) (q : VQuery) (src tgt : Nat) (x : Expand) :
    RdKeeps (rdEdge c n v q src tgt x) := by
  refine RdKeeps.bind RdKeeps.get fun s => ?_
  split
  · exact RdKeeps.pure _
  · split
    refine RdKeeps.bind (rdVec_keeps ..) fun y => ?_
    split
    · exact RdKeeps.pure _
    · split <;> exact RdKeeps.pure _

theorem rdFold_keeps {α β : Type} (f : α → β → Rd β) (hf : ∀ a b, RdKeeps (f a b)) (l : List α) (b : β) :
    RdKeeps (rdFold f l b) := by
  induction l generalizing b with
  | nil => exact RdKeeps.pure _
  | cons a l ih => exact RdKeeps.bind (hf a b) fun _ => ih _

theorem rdEdges_keeps (c j n : Nat) (v : VStore) (q : VQuery) (src : Nat) (x : Expand) :
    RdKeeps (rdEdges c j n v q src x) :=
  RdKeeps.bind (rdJob_keeps ..) fun _ => RdKeeps.bind (rdJob_keeps ..) fun _ => rdFold_keeps _ (fun _ _ => rdEdge_keeps ..) _ _

theorem rdHops_keeps (c j n : Nat) (v : VStore) (q : VQuery) (h : Nat) (x : Expand) : RdKeeps (rdHops c j n v q h x) := by
  induction h generalizing x with
  | zero => exact RdKeeps.pure _
  | succ h ih => exact RdKeeps.bind (rdFold_keeps _ (fun _ _ => rdEdges_keeps ..) _ _) fun _ => ih _

theorem rdExact_keeps (c j : Nat) (v : VStore) (q : VQuery) (a : VCand) : RdKeeps (rdExact c j v q a) := by
  unfold rdExact
  split
  refine RdKeeps.bind (rdGroup_keeps ..) fun t => ?_
  split
  · exact RdKeeps.pure _
  · exact RdKeeps.bind (rdJob_keeps ..) fun _ => RdKeeps.bind (rdJob_keeps ..) fun _ => RdKeeps.pure _

theorem rdAnswer_keeps (c j n : Nat) (v : VStore) (q : VQuery) : RdKeeps (rdAnswer c j n v q) := by
  unfold rdAnswer
  split
  · exact RdKeeps.bind (rdCanWrite_keeps ..) fun _ => RdKeeps.pure _
  · refine RdKeeps.bind (rdHops_keeps ..) fun x => ?_
    split
    · refine RdKeeps.bind (rdMap_keeps _ (fun _ => rdExact_keeps ..) _) fun ys => ?_
      exact RdKeeps.bind (RdKeeps.pure _) fun _ => RdKeeps.bind (rdCanWrite_keeps ..) fun _ => RdKeeps.pure _
    · exact RdKeeps.bind (RdKeeps.pure _) fun _ => RdKeeps.bind (rdCanWrite_keeps ..) fun _ => RdKeeps.pure _

theorem State.repairRegs_keeps {σ : State} {s : State} (c : Nat) (hs : Keeps σ s) : Keeps σ (State.repairRegs s c) := by
  unfold State.repairRegs
  repeat' (with_reducible
    first
    | assumption | apply State.wr_keeps | apply State.wr64_keeps | extract_lets | (intro _) | exact rfl | apply Keeps.fields)

theorem State.addRepair_keeps {σ : State} {s : State} (c : Nat) (p : Nat × Nat) (hs : Keeps σ s) :
    Keeps σ (State.addRepair s c p) := by
  unfold State.addRepair
  repeat' (with_reducible
    first
    | assumption | apply State.bump_keeps | apply State.evt_keeps | apply State.updVse_keeps | apply State.repairRegs_keeps
    | extract_lets | split | (intro _) | exact rfl | apply Keeps.fields)

theorem State.putAnswer_keeps {σ : State} {s : State} (c job : Nat) (q : VQuery) (a : Answer) (hs : Keeps σ s) :
    Keeps σ (State.putAnswer s c job q a) := by
  unfold State.putAnswer
  repeat' (with_reducible
    first
    | assumption | apply State.writeParts_keeps | apply State.each_keeps | apply State.addRepair_keeps | apply State.bump_keeps
    | extract_lets | split | (intro _) | exact rfl | apply Keeps.fields)

theorem State.endSearch_keeps {σ : State} {s : State} (c e : Nat) (r : SearchRun) (hs : Keeps σ s) :
    Keeps σ (State.endSearch s c e r) := by
  unfold State.endSearch
  repeat' (with_reducible
    first
    | assumption | apply State.store_keeps | apply State.rdRun_keeps | apply rdMap_keeps | apply rdAnswer_keeps
    | apply State.setSearch_keeps | apply State.vseFault_keeps | apply State.each_keeps | apply State.putAnswer_keeps
    | apply State.complete_keeps | extract_lets | split | (intro _) | (apply Keeps.fst_of; assumption)
    | (apply Keeps.snd_of; assumption) | (apply Keeps.some_of; assumption) | exact rfl | apply Keeps.fields)

theorem State.yieldAt_keeps {σ : State} {s : State} (c e : Nat) (hs : Keeps σ s) : Keeps σ (State.yieldAt s c e) := by
  unfold State.yieldAt
  repeat' (with_reducible
    first
    | assumption | apply State.when_keeps | apply State.bump_keeps | apply State.setAside_keeps | split | (intro _) | exact rfl
    | apply Keeps.fields)

theorem State.endRound_keeps {σ : State} {s : State} (c e : Nat) (r : SearchRun) (hs : Keeps σ s) :
    Keeps σ (State.endRound s c e r) := by
  unfold State.endRound
  repeat' (with_reducible
    first
    | assumption | apply State.store_keeps | apply State.endSearch_keeps | apply State.bump_keeps | apply State.setSearch_keeps
    | apply State.yieldAt_keeps | extract_lets | split | (intro _) | exact rfl | apply Keeps.fields)

theorem scannedGroup_keeps {σ : State} (c : Nat) (r : SearchRun) (l : Nat) (rest : List Nat) (v : VStore) (stall n : Nat) {x : Except AtuErr (List (Nat × Bool × Nat × List Byte)) × State} (hs : Keeps σ x.2) :
    Keeps σ (scannedGroup c r l rest v stall n x).1 := by
  unfold scannedGroup
  repeat' (with_reducible
    first
    | assumption | apply State.bump_keeps | apply State.passToNow_keeps | apply State.store_keeps | extract_lets | split
    | (intro _) | (apply Keeps.fst_of; assumption) | (apply Keeps.snd_of; assumption) | exact rfl | apply Keeps.fields)

theorem State.scanGroup_keeps {σ : State} {s : State} (c : Nat) (r : SearchRun) (l : Nat) (rest : List Nat) (hs : Keeps σ s) :
    Keeps σ (State.scanGroup s c r l rest).1 := by
  unfold State.scanGroup
  repeat' (with_reducible
    first
    | assumption | apply State.store_keeps | apply State.bump_keeps | apply scannedGroup_keeps | apply State.drawNat_keeps
    | apply State.rdRun_keeps | apply rdMap_keeps | apply rdVec_keeps | extract_lets | split | (intro _)
    | (apply Keeps.fst_of; assumption) | (apply Keeps.snd_of; assumption) | (apply Keeps.some_of; assumption) | exact rfl
    | apply Keeps.fields)

theorem State.searchStep_keeps {σ : State} {s : State} (c e : Nat) (r : SearchRun) (hs : Keeps σ s) :
    Keeps σ (State.searchStep s c e r) := by
  unfold State.searchStep
  repeat' (with_reducible
    first
    | assumption | apply State.endRound_keeps | apply State.scanGroup_keeps | apply State.setSearch_keeps
    | apply State.yieldAt_keeps | extract_lets | split | (intro _) | (apply Keeps.fst_of; assumption)
    | (apply Keeps.snd_of; assumption) | (apply Keeps.some_of; assumption) | exact rfl | apply Keeps.fields)

theorem State.vseTaken_keeps {σ : State} {s : State} (c e : Nat) (hs : Keeps σ s) : Keeps σ (State.vseTaken s c e) := by
  unfold State.vseTaken
  repeat' (with_reducible
    first
    | assumption | apply State.storeSet_keeps | apply State.complete_keeps | apply State.vseInsert_keeps
    | apply State.vseDelete_keeps | apply State.beginSearch_keeps | extract_lets | split | (intro _)
    | (apply Keeps.fst_of; assumption) | (apply Keeps.snd_of; assumption) | (apply Keeps.some_of; assumption) | exact rfl
    | apply Keeps.fields)

theorem State.vseCmd_keeps {σ : State} {s : State} (c e : Nat) (cmd : Cmd) (hs : Keeps σ s) :
    Keeps σ (State.vseCmd s c e cmd) := by
  unfold State.vseCmd
  repeat' (with_reducible
    first
    | assumption | apply State.when_keeps | apply State.accrue_keeps | apply State.arrive_keeps | apply State.settle_keeps
    | apply State.wake_keeps | apply State.occupy_keeps | apply State.vseTaken_keeps | split | (intro _) | exact rfl
    | apply Keeps.fields)

theorem execVseStoreSet_keeps {σ : State} {s : State} (c : Nat) (cmd : Cmd) (hs : Keeps σ s) :
    KeepsNext σ (execVseStoreSet c cmd s) := by
  unfold execVseStoreSet
  repeat' (with_reducible
    first
    | assumption | apply State.vseCmd_keeps | apply KeepsNext.next | (intro _) | exact rfl | apply Keeps.fields)

theorem execVseInsert_keeps {σ : State} {s : State} (c : Nat) (cmd : Cmd) (hs : Keeps σ s) :
    KeepsNext σ (execVseInsert c cmd s) := by
  unfold execVseInsert
  repeat' (with_reducible
    first
    | assumption | apply State.vseCmd_keeps | apply KeepsNext.next | (intro _) | exact rfl | apply Keeps.fields)

theorem execVseDelete_keeps {σ : State} {s : State} (c : Nat) (cmd : Cmd) (hs : Keeps σ s) :
    KeepsNext σ (execVseDelete c cmd s) := by
  unfold execVseDelete
  repeat' (with_reducible
    first
    | assumption | apply State.vseCmd_keeps | apply KeepsNext.next | (intro _) | exact rfl | apply Keeps.fields)

theorem execVseSearch_keeps {σ : State} {s : State} (c : Nat) (cmd : Cmd) (hs : Keeps σ s) :
    KeepsNext σ (execVseSearch c cmd s) := by
  unfold execVseSearch
  repeat' (with_reducible
    first
    | assumption | apply State.vseCmd_keeps | apply KeepsNext.next | extract_lets | (intro _) | exact rfl | apply Keeps.fields)

theorem State.scanGroupEnd_keeps {σ : State} {s : State} (c e : Nat) (hs : Keeps σ s) : Keeps σ (State.scanGroupEnd s c e) := by
  unfold State.scanGroupEnd
  repeat' (with_reducible
    first
    | assumption | apply State.beginSearch_keeps | apply State.searchStep_keeps | apply State.vseTaken_keeps | split | (intro _)
    | (apply Keeps.fst_of; assumption) | (apply Keeps.snd_of; assumption) | (apply Keeps.some_of; assumption) | exact rfl
    | apply Keeps.fields)

theorem execScanGroupEnd_keeps {σ : State} {s : State} (c e : Nat) (hs : Keeps σ s) : KeepsNext σ (execScanGroupEnd c e s) := by
  unfold execScanGroupEnd
  repeat' (with_reducible
    first
    | assumption | apply State.when_keeps | apply State.scanGroupEnd_keeps | apply KeepsNext.next | (intro _) | exact rfl
    | apply Keeps.fields)

theorem execEngineStart_keeps {σ : State} {s : State} (c e : Nat) (hs : Keeps σ s) : KeepsNext σ (execEngineStart c e s) := by
  unfold execEngineStart
  repeat' (with_reducible
    first
    | assumption | apply State.when_keeps | apply State.engineStart_keeps | apply State.sweepTaken_keeps
    | apply State.dmvArm_keeps | apply State.vseTaken_keeps | apply KeepsNext.next | extract_lets | (intro _) | exact rfl
    | apply Keeps.fields)

theorem State.retryGo_keeps {σ : State} {s : State} (c id : Nat) (hs : Keeps σ s) : Keeps σ (State.retryGo s c id) := by
  unfold State.retryGo
  repeat' (with_reducible
    first
    | assumption | apply State.respIgnored_keeps | apply State.faultRetry_keeps | apply State.when_keeps
    | apply State.vseTaken_keeps | split | (intro _) | (apply Keeps.fst_of; assumption) | (apply Keeps.snd_of; assumption)
    | (apply Keeps.some_of; assumption) | exact rfl | apply Keeps.fields)

theorem execFaultRetry_keeps {σ : State} {s : State} (rq : Requester) (c id : Nat) (hs : Keeps σ s) :
    KeepsNext σ (execFaultRetry rq c id s) := by
  unfold execFaultRetry
  repeat' (with_reducible
    first
    | assumption | apply State.onWrite_keeps | apply State.retryGo_keeps | apply KeepsNext.next | (intro _) | exact rfl
    | apply Keeps.fields)

theorem execVseRepairPop_keeps {σ : State} {s : State} (rq : Requester) (c : Nat) (v : Word) (hs : Keeps σ s) :
    KeepsNext σ (execVseRepairPop rq c v s) := by
  unfold execVseRepairPop
  repeat' (with_reducible
    first
    | assumption | apply State.onWrite_keeps | apply State.when_keeps | apply State.updVse_keeps | apply State.repairRegs_keeps
    | apply KeepsNext.next | (intro _) | exact rfl | apply Keeps.fields)

theorem State.rerankWrite_keeps {σ : State} {s : State} (c : Nat) (v : Word) (hs : Keeps σ s) :
    Keeps σ (State.rerankWrite s c v) := by
  unfold State.rerankWrite
  repeat' (with_reducible
    first
    | assumption | apply State.evt_keeps | apply State.store_keeps | apply State.syncRerank_keeps | split | (intro _)
    | exact rfl | apply Keeps.fields)

theorem State.repairPending_keeps {σ : State} {s : State} (c : Nat) (hs : Keeps σ s) : Keeps σ (State.repairPending s c) := by
  unfold State.repairPending
  repeat' (with_reducible
    first
    | assumption | apply State.when_keeps | apply State.evt_keeps | (intro _) | exact rfl | apply Keeps.fields)

end Sys2Proof.Machine
end

