-- ==== Sys2Proof/Laws/KeepsDomain.lean ====
section
/-! SUPPORT. Every operation of Machine/Domain.lean keeps what `Keeps` says. -/
namespace Sys2Proof.Machine

theorem State.agentGo_keeps {σ : State} {s : State} (a : Nat) (hs : Keeps σ s) : Keeps σ (State.agentGo s a) := by
  unfold State.agentGo
  repeat' (with_reducible
    first
    | assumption | apply State.agentTry_keeps | apply State.updCcx_keeps | apply State.rerankWrite_keeps | extract_lets | split
    | (intro _) | (apply Keeps.fst_of; assumption) | (apply Keeps.snd_of; assumption) | (apply Keeps.some_of; assumption)
    | exact rfl | apply Keeps.fields)

theorem State.vseCfg_keeps {σ : State} {s : State} (c : Nat) (v : Word) (hs : Keeps σ s) : Keeps σ (State.vseCfg s c v) := by
  unfold State.vseCfg
  repeat' (with_reducible
    first
    | assumption | apply State.updCcx_keeps | apply State.agentGo_keeps | apply State.rerankWrite_keeps | split | (intro _)
    | exact rfl | apply Keeps.fields)

theorem execRerankEnWrite_keeps {σ : State} {s : State} (rq : Requester) (c : Nat) (v : Word) (hs : Keeps σ s) :
    KeepsNext σ (execRerankEnWrite rq c v s) := by
  unfold execRerankEnWrite
  repeat' (with_reducible
    first
    | assumption | apply State.onWrite_keeps | apply State.vseCfg_keeps | apply KeepsNext.next | (intro _) | exact rfl
    | apply Keeps.fields)

theorem State.atArb_keeps {σ : State} {s : State} (c mtype : Nat) (f : State → SMsg → State) (hf : ∀ (a0 : State)
    (a1 : SMsg), Keeps σ a0 → Keeps σ (f a0 a1)) (hs : Keeps σ s) :
    Keeps σ (State.atArb s c mtype f) := by
  unfold State.atArb
  repeat' (with_reducible
    first
    | assumption | apply hf | apply State.cohTake_keeps | apply State.protoErr_keeps | split | (intro _) | exact rfl
    | apply Keeps.fields)

theorem State.atAgent_keeps {σ : State} {s : State} (c mtype : Nat) (f : State → SMsg → State) (hf : ∀ (a0 : State)
    (a1 : SMsg), Keeps σ a0 → Keeps σ (f a0 a1)) (hs : Keeps σ s) :
    Keeps σ (State.atAgent s c mtype f) := by
  unfold State.atAgent
  repeat' (with_reducible
    first
    | assumption | apply hf | apply State.cohTake_keeps | apply State.protoErr_keeps | split | (intro _) | exact rfl
    | apply Keeps.fields)

theorem execRdS_keeps {σ : State} {s : State} (c : Nat) (hs : Keeps σ s) : KeepsNext σ (execRdS c s) := by
  unfold execRdS
  repeat' (with_reducible
    first
    | assumption | apply State.atArb_keeps | apply State.arbRequest_keeps | apply KeepsNext.next | (intro _) | exact rfl
    | apply Keeps.fields)

theorem execRdX_keeps {σ : State} {s : State} (c : Nat) (hs : Keeps σ s) : KeepsNext σ (execRdX c s) := by
  unfold execRdX
  repeat' (with_reducible
    first
    | assumption | apply State.atArb_keeps | apply State.arbRequest_keeps | apply KeepsNext.next | (intro _) | exact rfl
    | apply Keeps.fields)

theorem execUpg_keeps {σ : State} {s : State} (c : Nat) (hs : Keeps σ s) : KeepsNext σ (execUpg c s) := by
  unfold execUpg
  repeat' (with_reducible
    first
    | assumption | apply State.atArb_keeps | apply State.arbRequest_keeps | apply KeepsNext.next | (intro _) | exact rfl
    | apply Keeps.fields)

theorem execWb_keeps {σ : State} {s : State} (c : Nat) (hs : Keeps σ s) : KeepsNext σ (execWb c s) := by
  unfold execWb
  repeat' (with_reducible
    first
    | assumption | apply State.atArb_keeps | apply State.arbRequest_keeps | apply KeepsNext.next | (intro _) | exact rfl
    | apply Keeps.fields)

theorem execEvc_keeps {σ : State} {s : State} (c : Nat) (hs : Keeps σ s) : KeepsNext σ (execEvc c s) := by
  unfold execEvc
  repeat' (with_reducible
    first
    | assumption | apply State.atArb_keeps | apply State.arbRequest_keeps | apply KeepsNext.next | (intro _) | exact rfl
    | apply Keeps.fields)

theorem execClean_keeps {σ : State} {s : State} (c : Nat) (hs : Keeps σ s) : KeepsNext σ (execClean c s) := by
  unfold execClean
  repeat' (with_reducible
    first
    | assumption | apply State.atArb_keeps | apply State.arbRequest_keeps | apply KeepsNext.next | (intro _) | exact rfl
    | apply Keeps.fields)

theorem execSrsp_keeps {σ : State} {s : State} (c : Nat) (hs : Keeps σ s) : KeepsNext σ (execSrsp c s) := by
  unfold execSrsp
  repeat' (with_reducible
    first
    | assumption | apply State.atArb_keeps | apply State.arbSrsp_keeps | apply KeepsNext.next | (intro _) | exact rfl
    | apply Keeps.fields)

theorem execCmp_keeps {σ : State} {s : State} (c : Nat) (hs : Keeps σ s) : KeepsNext σ (execCmp c s) := by
  unfold execCmp
  repeat' (with_reducible
    first
    | assumption | apply State.atArb_keeps | apply State.arbCmp_keeps | apply KeepsNext.next | (intro _) | exact rfl
    | apply Keeps.fields)

theorem execMwrAck_keeps {σ : State} {s : State} (c : Nat) (hs : Keeps σ s) : KeepsNext σ (execMwrAck c s) := by
  unfold execMwrAck
  repeat' (with_reducible
    first
    | assumption | apply State.atArb_keeps | apply State.arbMwrAck_keeps | apply KeepsNext.next | (intro _) | exact rfl
    | apply Keeps.fields)

theorem execPsnAck_keeps {σ : State} {s : State} (c : Nat) (hs : Keeps σ s) : KeepsNext σ (execPsnAck c s) := by
  unfold execPsnAck
  repeat' (with_reducible
    first
    | assumption | apply State.atArb_keeps | apply State.arbPsnAck_keeps | apply KeepsNext.next | (intro _) | exact rfl
    | apply Keeps.fields)

theorem execSnpS_keeps {σ : State} {s : State} (c : Nat) (hs : Keeps σ s) : KeepsNext σ (execSnpS c s) := by
  unfold execSnpS
  repeat' (with_reducible
    first
    | assumption | apply State.atAgent_keeps | apply State.agentSnoop_keeps | apply State.agentGo_keeps | apply KeepsNext.next
    | (intro _) | exact rfl | apply Keeps.fields)

theorem execSnpX_keeps {σ : State} {s : State} (c : Nat) (hs : Keeps σ s) : KeepsNext σ (execSnpX c s) := by
  unfold execSnpX
  repeat' (with_reducible
    first
    | assumption | apply State.atAgent_keeps | apply State.agentSnoop_keeps | apply State.agentGo_keeps | apply KeepsNext.next
    | (intro _) | exact rfl | apply Keeps.fields)

theorem execSnpInv_keeps {σ : State} {s : State} (c : Nat) (hs : Keeps σ s) : KeepsNext σ (execSnpInv c s) := by
  unfold execSnpInv
  repeat' (with_reducible
    first
    | assumption | apply State.atAgent_keeps | apply State.agentSnoop_keeps | apply State.agentGo_keeps | apply KeepsNext.next
    | (intro _) | exact rfl | apply Keeps.fields)

theorem execGnt_keeps {σ : State} {s : State} (c : Nat) (hs : Keeps σ s) : KeepsNext σ (execGnt c s) := by
  unfold execGnt
  repeat' (with_reducible
    first
    | assumption | apply State.cohTake_keeps | apply State.agentGnt_keeps | apply State.agentGo_keeps
    | apply State.homeGnt_keeps | apply State.protoErr_keeps | apply KeepsNext.next | split | (intro _)
    | (apply Keeps.fst_of; assumption) | (apply Keeps.snd_of; assumption) | (apply Keeps.some_of; assumption) | exact rfl
    | apply Keeps.fields)

theorem execRetry_keeps {σ : State} {s : State} (c : Nat) (hs : Keeps σ s) : KeepsNext σ (execRetry c s) := by
  unfold execRetry
  repeat' (with_reducible
    first
    | assumption | apply State.cohTake_keeps | apply State.agentRetry_keeps | apply State.homeRetry_keeps
    | apply State.protoErr_keeps | apply KeepsNext.next | split | (intro _) | (apply Keeps.fst_of; assumption)
    | (apply Keeps.snd_of; assumption) | (apply Keeps.some_of; assumption) | exact rfl | apply Keeps.fields)

theorem execEvAck_keeps {σ : State} {s : State} (c : Nat) (hs : Keeps σ s) : KeepsNext σ (execEvAck c s) := by
  unfold execEvAck
  repeat' (with_reducible
    first
    | assumption | apply State.cohTake_keeps | apply State.agentEvAck_keeps | apply State.agentGo_keeps
    | apply State.protoErr_keeps | apply KeepsNext.next | split | (intro _) | (apply Keeps.fst_of; assumption)
    | (apply Keeps.snd_of; assumption) | (apply Keeps.some_of; assumption) | exact rfl | apply Keeps.fields)

theorem execMrd_keeps {σ : State} {s : State} (c : Nat) (hs : Keeps σ s) : KeepsNext σ (execMrd c s) := by
  unfold execMrd
  repeat' (with_reducible
    first
    | assumption | apply State.cohTake_keeps | apply State.homeMrd_keeps | apply KeepsNext.next | (intro _) | exact rfl
    | apply Keeps.fields)

theorem execMwr_keeps {σ : State} {s : State} (c : Nat) (hs : Keeps σ s) : KeepsNext σ (execMwr c s) := by
  unfold execMwr
  repeat' (with_reducible
    first
    | assumption | apply State.cohTake_keeps | apply State.homeMwr_keeps | apply KeepsNext.next | (intro _) | exact rfl
    | apply Keeps.fields)

theorem execPsn_keeps {σ : State} {s : State} (c : Nat) (hs : Keeps σ s) : KeepsNext σ (execPsn c s) := by
  unfold execPsn
  repeat' (with_reducible
    first
    | assumption | apply State.cohTake_keeps | apply State.homePsn_keeps | apply KeepsNext.next | (intro _) | exact rfl
    | apply Keeps.fields)

theorem execData_keeps {σ : State} {s : State} (c : Nat) (hs : Keeps σ s) : KeepsNext σ (execData c s) := by
  unfold execData
  repeat' (with_reducible
    first
    | assumption | apply State.cohTake_keeps | apply State.agentData_keeps | apply State.agentGo_keeps
    | apply State.homeData_keeps | apply State.arbData_keeps | apply State.protoErr_keeps | apply KeepsNext.next | split
    | (intro _) | (apply Keeps.fst_of; assumption) | (apply Keeps.snd_of; assumption) | (apply Keeps.some_of; assumption)
    | exact rfl | apply Keeps.fields)

theorem execCohBackoffEnd_keeps {σ : State} {s : State} (c : Nat) (hs : Keeps σ s) : KeepsNext σ (execCohBackoffEnd c s) := by
  unfold execCohBackoffEnd
  repeat' (with_reducible
    first
    | assumption | apply State.passToNow_keeps | apply State.each_keeps | apply State.lineResend_keeps
    | apply State.homeResend_keeps | apply foldl_keeps | apply foldl_fst_keeps | apply KeepsNext.next | extract_lets | split
    | (intro _) | (apply Keeps.fst_of; assumption) | (apply Keeps.snd_of; assumption) | (apply Keeps.some_of; assumption)
    | exact rfl | apply Keeps.fields)

theorem State.eachCcx_keeps {σ : State} {s : State} (f : CcxCh → CcxCh) (hs : Keeps σ s) : Keeps σ (State.eachCcx s f) := by
  unfold State.eachCcx
  repeat' (with_reducible
    first
    | assumption | apply State.each_keeps | apply State.updCcx_keeps | (intro _) | exact rfl | apply Keeps.fields)

theorem State.toMember_keeps {σ : State} {s : State} (c m mtype addr : Nat) (hs : Keeps σ s) :
    Keeps σ (State.toMember s c m mtype addr) := by
  unfold State.toMember
  repeat' (with_reducible
    first
    | assumption | apply State.sendMsg_keeps | (intro _) | exact rfl | apply Keeps.fields)

theorem execCcxJoin_keeps {σ : State} {s : State} (rq : Requester) (c : Nat) (hs : Keeps σ s) :
    KeepsNext σ (execCcxJoin rq c s) := by
  unfold execCcxJoin
  repeat' (with_reducible
    first
    | assumption | apply State.onWrite_keeps | apply State.eachCcx_keeps | apply State.toMember_keeps | apply KeepsNext.next
    | split | (intro _) | exact rfl | apply Keeps.fields)

theorem State.joinMember_keeps {σ : State} {s : State} (c k : Nat) (hs : Keeps σ s) : Keeps σ (State.joinMember s c k) := by
  unfold State.joinMember
  repeat' (with_reducible
    first
    | assumption | apply State.updCcx_keeps | apply State.toMember_keeps | apply State.each_keeps | apply foldl_keeps
    | apply foldl_fst_keeps | extract_lets | split | (intro _) | exact rfl | apply Keeps.fields)

theorem execJoin_keeps {σ : State} {s : State} (c : Nat) (hs : Keeps σ s) : KeepsNext σ (execJoin c s) := by
  unfold execJoin
  repeat' (with_reducible
    first
    | assumption | apply State.atAgent_keeps | apply State.joinMember_keeps | apply State.protoErr_keeps | apply KeepsNext.next
    | split | (intro _) | (apply Keeps.fst_of; assumption) | (apply Keeps.snd_of; assumption)
    | (apply Keeps.some_of; assumption) | exact rfl | apply Keeps.fields)

theorem State.domainUp_keeps {σ : State} {s : State} (c : Nat) (hs : Keeps σ s) : Keeps σ (State.domainUp s c) := by
  unfold State.domainUp
  repeat' (with_reducible
    first
    | assumption | apply State.each_keeps | apply State.updCcx_keeps | apply State.evtPriv_keeps | apply State.agentGo_keeps
    | apply State.homeStart_keeps | extract_lets | split | (intro _) | exact rfl | apply Keeps.fields)

theorem execJoinAck_keeps {σ : State} {s : State} (c : Nat) (hs : Keeps σ s) : KeepsNext σ (execJoinAck c s) := by
  unfold execJoinAck
  repeat' (with_reducible
    first
    | assumption | apply State.atAgent_keeps | apply State.domainUp_keeps | apply State.protoErr_keeps | apply KeepsNext.next
    | split | (intro _) | exact rfl | apply Keeps.fields)

theorem execCcxLeave_keeps {σ : State} {s : State} (rq : Requester) (c : Nat) (hs : Keeps σ s) :
    KeepsNext σ (execCcxLeave rq c s) := by
  unfold execCcxLeave
  repeat' (with_reducible
    first
    | assumption | apply State.onWrite_keeps | apply State.eachCcx_keeps | apply State.wr_keeps | apply State.updCcx_keeps
    | apply State.emit_keeps | apply KeepsNext.next | extract_lets | split | (intro _) | exact rfl | apply Keeps.fields)

theorem State.echoAll_keeps {σ : State} {s : State} (c : Nat) (hs : Keeps σ s) : Keeps σ (State.echoAll s c) := by
  unfold State.echoAll
  repeat' (with_reducible
    first
    | assumption | apply State.bump_keeps | apply State.each_keeps | apply State.toMember_keeps | extract_lets | (intro _)
    | exact rfl | apply Keeps.fields)

theorem execHbSend_keeps {σ : State} {s : State} (c : Nat) (hs : Keeps σ s) : KeepsNext σ (execHbSend c s) := by
  unfold execHbSend
  repeat' (with_reducible
    first
    | assumption | apply State.passToNow_keeps | apply State.bump_keeps | apply State.toMember_keeps | apply State.when_keeps
    | apply State.echoAll_keeps | apply State.updCcx_keeps | apply KeepsNext.next | extract_lets | split | (intro _) | exact rfl
    | apply Keeps.fields)

theorem execHb_keeps {σ : State} {s : State} (c : Nat) (hs : Keeps σ s) : KeepsNext σ (execHb c s) := by
  unfold execHb
  repeat' (with_reducible
    first
    | assumption | apply State.atAgent_keeps | apply State.updCcx_keeps | apply State.protoErr_keeps | apply KeepsNext.next
    | split | (intro _) | (apply Keeps.fst_of; assumption) | (apply Keeps.snd_of; assumption)
    | (apply Keeps.some_of; assumption) | exact rfl | apply Keeps.fields)

theorem execHbEcho_keeps {σ : State} {s : State} (c : Nat) (hs : Keeps σ s) : KeepsNext σ (execHbEcho c s) := by
  unfold execHbEcho
  repeat' (with_reducible
    first
    | assumption | apply State.atAgent_keeps | apply State.updCcx_keeps | apply KeepsNext.next | (intro _) | exact rfl
    | apply Keeps.fields)

theorem State.deadAtArb_keeps {σ : State} {s : State} (a k slot : Nat) (hs : Keeps σ s) :
    Keeps σ (State.deadAtArb s a k slot) := by
  unfold State.deadAtArb
  repeat' (with_reducible
    first
    | assumption | apply State.abandonSlot_keeps | apply State.homeGone_keeps | apply State.deadRequester_keeps
    | apply State.deadOwner_keeps | apply State.deadSharer_keeps | apply State.updCcx_keeps | extract_lets | (intro _)
    | exact rfl | apply Keeps.fields)

theorem State.declareDead_keeps {σ : State} {s : State} (c k : Nat) (hs : Keeps σ s) : Keeps σ (State.declareDead s c k) := by
  unfold State.declareDead
  repeat' (with_reducible
    first
    | assumption | apply State.each_keeps | apply State.deadAtArb_keeps | apply State.eachCcx_keeps | apply State.updCcx_keeps
    | apply State.toMember_keeps | apply State.evtPriv_keeps | apply State.cutOpens_keeps | apply State.shardsLost_keeps
    | extract_lets | (intro _) | exact rfl | apply Keeps.fields)

theorem execMemberDead_keeps {σ : State} {s : State} (c m : Nat) (hs : Keeps σ s) : KeepsNext σ (execMemberDead c m s) := by
  unfold execMemberDead
  repeat' (with_reducible
    first
    | assumption | apply State.passToNow_keeps | apply State.declareDead_keeps | apply KeepsNext.next | split | (intro _)
    | exact rfl | apply Keeps.fields)

theorem execDeadNote_keeps {σ : State} {s : State} (c : Nat) (hs : Keeps σ s) : KeepsNext σ (execDeadNote c s) := by
  unfold execDeadNote
  repeat' (with_reducible
    first
    | assumption | apply State.atAgent_keeps | apply State.eachCcx_keeps | apply State.evtPriv_keeps
    | apply State.shardsLost_keeps | apply KeepsNext.next | extract_lets | (intro _) | exact rfl | apply Keeps.fields)

theorem execCcxRevive_keeps {σ : State} {s : State} (rq : Requester) (c m : Nat) (hs : Keeps σ s) :
    KeepsNext σ (execCcxRevive rq c m s) := by
  unfold execCcxRevive
  repeat' (with_reducible
    first
    | assumption | apply State.onWrite_keeps | apply State.updCcx_keeps | apply State.each_keeps | apply State.reviveSlot_keeps
    | apply KeepsNext.next | split | (intro _) | exact rfl | apply Keeps.fields)

theorem State.saveLine_keeps {σ : State} {s : State} (a : Nat) (x : Nat × CLine) (hs : Keeps σ s) :
    Keeps σ (State.saveLine s a x) := by
  unfold State.saveLine
  repeat' (with_reducible
    first
    | assumption | apply State.sendRequest_keeps | extract_lets | split | (intro _) | (apply Keeps.fst_of; assumption)
    | (apply Keeps.snd_of; assumption) | (apply Keeps.some_of; assumption) | exact rfl | apply Keeps.fields)

theorem State.agentLost_keeps {σ : State} {s : State} (a : Nat) (hs : Keeps σ s) : Keeps σ (State.agentLost s a) := by
  unfold State.agentLost
  repeat' (with_reducible
    first
    | assumption | apply State.each_keeps | apply State.accEnd_keeps | apply State.when_keeps | apply State.dropTag_keeps
    | apply State.updCcx_keeps | apply State.saveLine_keeps | apply State.complete_keeps | apply State.agentGo_keeps
    | extract_lets | split | (intro _) | exact rfl | apply Keeps.fields)

theorem State.loseDomain_keeps {σ : State} {s : State} (c : Nat) (hs : Keeps σ s) : Keeps σ (State.loseDomain s c) := by
  unfold State.loseDomain
  repeat' (with_reducible
    first
    | assumption | apply State.each_keeps | apply State.updCcx_keeps | apply State.evtPriv_keeps | apply State.agentLost_keeps
    | apply State.homeLost_keeps | apply State.shardsLost_keeps | extract_lets | (intro _) | exact rfl | apply Keeps.fields)

theorem execDomainLost_keeps {σ : State} {s : State} (c : Nat) (hs : Keeps σ s) : KeepsNext σ (execDomainLost c s) := by
  unfold execDomainLost
  repeat' (with_reducible
    first
    | assumption | apply State.passToNow_keeps | apply State.loseDomain_keeps | apply KeepsNext.next | split | (intro _)
    | exact rfl | apply Keeps.fields)

end Sys2Proof.Machine
end

