-- ==== Sys2Proof/Laws/KeepsRequests.lean ====
section
/-! SUPPORT. Every operation of Machine/Requests.lean keeps what `Keeps` says. -/
namespace Sys2Proof.Machine

theorem State.updRqt_keeps {σ : State} {s : State} (c : Nat) (f : RqtCh → RqtCh) (hs : Keeps σ s) :
    Keeps σ (State.updRqt s c f) := by
  unfold State.updRqt
  repeat' (with_reducible
    first
    | assumption | apply State.updCh_keeps | (intro _) | exact rfl | apply Keeps.fields)

theorem State.placeShards_keeps {σ : State} {s : State} (c i stride phase : Nat) (hs : Keeps σ s) :
    Keeps σ (State.placeShards s c i stride phase) := by
  unfold State.placeShards
  repeat' (with_reducible
    first
    | assumption | apply State.when_keeps | apply State.toShards_keeps | (intro _) | exact rfl | apply Keeps.fields)

theorem State.takeBin_keeps {σ : State} {s : State} (c i ix : Nat) (b : Bin) (hs : Keeps σ s) :
    Keeps σ (State.takeBin s c i ix b) := by
  unfold State.takeBin
  repeat' (with_reducible
    first
    | assumption | apply State.updReq_keeps | apply State.updRqt_keeps | apply State.placeShards_keeps | split | (intro _)
    | exact rfl | apply Keeps.fields)

theorem State.noBin_keeps {σ : State} {s : State} (c i : Nat) (hs : Keeps σ s) : Keeps σ (State.noBin s c i) := by
  unfold State.noBin
  repeat' (with_reducible
    first
    | assumption | apply State.updReq_keeps | apply State.placeShards_keeps | apply State.reqEvt_keeps | extract_lets | split
    | (intro _) | exact rfl | apply Keeps.fields)

theorem State.placeGroup_keeps {σ : State} {s : State} (c ix : Nat) (old : Nat → Nat) (l : Nat) (slots : List Nat)
    (hs : Keeps σ s) :
    Keeps σ (State.placeGroup s c ix old l slots) := by
  unfold State.placeGroup
  repeat' (with_reducible
    first
    | assumption | apply State.each_keeps | apply State.updReq_keeps | apply State.takeBin_keeps | apply State.noBin_keeps
    | extract_lets | split | (intro _) | (apply Keeps.fst_of; assumption) | (apply Keeps.snd_of; assumption)
    | (apply Keeps.some_of; assumption) | exact rfl | apply Keeps.fields)

theorem State.placeOne_keeps {σ : State} {s : State} (c ix : Nat) (old : Nat → Nat) (i : Nat) (hs : Keeps σ s) :
    Keeps σ (State.placeOne s c ix old i) := by
  unfold State.placeOne
  repeat' (with_reducible
    first
    | assumption | apply State.placeGroup_keeps | apply State.takeBin_keeps | apply State.noBin_keeps | extract_lets | split
    | (intro _) | (apply Keeps.fst_of; assumption) | (apply Keeps.snd_of; assumption) | (apply Keeps.some_of; assumption)
    | exact rfl | apply Keeps.fields)

theorem State.placeAll_keeps {σ : State} {s : State} (c : Nat) (hs : Keeps σ s) : Keeps σ (State.placeAll s c) := by
  unfold State.placeAll
  repeat' (with_reducible
    first
    | assumption | apply State.each_keeps | apply State.updReq_keeps | apply State.updRqt_keeps | apply State.placeOne_keeps
    | apply foldl_keeps | apply foldl_fst_keeps | extract_lets | split | (intro _) | (apply Keeps.fst_of; assumption)
    | (apply Keeps.snd_of; assumption) | (apply Keeps.some_of; assumption) | exact rfl | apply Keeps.fields)

theorem State.placeNow_keeps {σ : State} {s : State} (c i : Nat) (hs : Keeps σ s) : Keeps σ (State.placeNow s c i) := by
  unfold State.placeNow
  repeat' (with_reducible
    first
    | assumption | apply State.placeGroup_keeps | apply State.placeOne_keeps | extract_lets | split | (intro _)
    | (apply Keeps.fst_of; assumption) | (apply Keeps.snd_of; assumption) | (apply Keeps.some_of; assumption) | exact rfl
    | apply Keeps.fields)

theorem State.countReject_keeps {σ : State} {s : State} (c st : Nat) (hs : Keeps σ s) : Keeps σ (State.countReject s c st) := by
  unfold State.countReject
  repeat' (with_reducible
    first
    | assumption | apply State.bumpF_keeps | apply State.when_keeps | apply State.evt_keeps | extract_lets | split | (intro _)
    | (apply Keeps.fst_of; assumption) | (apply Keeps.snd_of; assumption) | (apply Keeps.some_of; assumption) | exact rfl
    | apply Keeps.fields)

theorem State.reserve_keeps {σ : State} {s : State} (c : Nat) (cmd : Cmd) (hs : Keeps σ s) :
    Keeps σ (State.reserve s c cmd) := by
  unfold State.reserve
  repeat' (with_reducible
    first
    | assumption | apply State.charge_keeps | apply State.freeSub_keeps | (intro _) | exact rfl | apply Keeps.fields)

theorem State.makeEntry_keeps {σ : State} {s : State} (c : Nat) (cmd : Cmd) (i : Nat) (hs : Keeps σ s) :
    KeepsSome σ (State.makeEntry s c cmd i) := by
  unfold State.makeEntry
  repeat' (with_reducible
    first
    | assumption | apply State.drawNat_keeps | apply State.newTable_keeps | apply State.updReq_keeps | apply State.reserve_keeps
    | apply State.linkPrefix_keeps | exact KeepsSome.none | apply KeepsSome.some | apply KeepsSome.map | apply KeepsSome.bind
    | (apply Keeps.some_of; assumption) | extract_lets | split | (intro _) | (apply Keeps.fst_of; assumption)
    | (apply Keeps.snd_of; assumption) | exact rfl | apply Keeps.fields)

theorem State.sendOpen_keeps {σ : State} {s : State} (c i : Nat) (hs : Keeps σ s) : Keeps σ (State.sendOpen s c i) := by
  unfold State.sendOpen
  repeat' (with_reducible
    first
    | assumption | apply State.lose_keeps | apply State.devSendAs_keeps | apply State.when_keeps | apply State.emit_keeps
    | extract_lets | split | (intro _) | (apply Keeps.fst_of; assumption) | (apply Keeps.snd_of; assumption)
    | (apply Keeps.some_of; assumption) | exact rfl | apply Keeps.fields)

theorem State.admitNow_keeps {σ : State} {s : State} (c : Nat) (cmd : Cmd) (start : Bool) (hs : Keeps σ s) :
    Keeps σ (State.admitNow s c cmd start).1 := by
  unfold State.admitNow
  repeat' (with_reducible
    first
    | assumption | apply State.countReject_keeps | apply State.complete_keeps | apply State.makeEntry_keeps
    | apply State.when_keeps | apply State.sendOpen_keeps | exact KeepsSome.none | apply KeepsSome.some | apply KeepsSome.map
    | apply KeepsSome.bind | (apply Keeps.some_of; assumption) | extract_lets | split | (intro _)
    | (apply Keeps.fst_of; assumption) | (apply Keeps.snd_of; assumption) | exact rfl | apply Keeps.fields)

theorem State.defer_keeps {σ : State} {s : State} (c : Nat) (k : PendKind) (cmd : Cmd) (hs : Keeps σ s) :
    Keeps σ (State.defer s c k cmd) := by
  unfold State.defer
  repeat' (with_reducible
    first
    | assumption | apply State.handOver_keeps | apply State.updRqt_keeps | extract_lets | (intro _) | exact rfl
    | apply Keeps.fields)

theorem State.admitEarly_keeps {σ : State} {s : State} (c : Nat) (cmd : Cmd) (hs : Keeps σ s) :
    Keeps σ (State.admitEarly s c cmd) := by
  unfold State.admitEarly
  repeat' (with_reducible
    first
    | assumption | apply State.admitNow_keeps | apply State.placeNow_keeps | split | (intro _)
    | (apply Keeps.fst_of; assumption) | (apply Keeps.snd_of; assumption) | (apply Keeps.some_of; assumption) | exact rfl
    | apply Keeps.fields)

theorem execAdmitReq_keeps {σ : State} {s : State} (c : Nat) (cmd : Cmd) (hs : Keeps σ s) :
    KeepsNext σ (execAdmitReq c cmd s) := by
  unfold execAdmitReq
  repeat' (with_reducible
    first
    | assumption | apply State.control_keeps | apply State.admitEarly_keeps | apply State.defer_keeps | apply KeepsNext.next
    | extract_lets | split | (intro _) | exact rfl | apply Keeps.fields)

theorem execAccept_keeps {σ : State} {s : State} (c : Nat) (cmd : Cmd) (hs : Keeps σ s) : KeepsNext σ (execAccept c cmd s) := by
  unfold execAccept
  repeat' (with_reducible
    first
    | assumption | apply State.control_keeps | apply State.admitEarly_keeps | apply State.defer_keeps | apply KeepsNext.next
    | extract_lets | split | (intro _) | exact rfl | apply Keeps.fields)

theorem State.forward_keeps {σ : State} {s : State} (c i : Nat) (k : DevKind) (hs : Keeps σ s) :
    Keeps σ (State.forward s c i k) := by
  unfold State.forward
  repeat' (with_reducible
    first
    | assumption | apply State.toShards_keeps | (intro _) | exact rfl | apply Keeps.fields)

theorem State.clearCancel_keeps {σ : State} {s : State} (c i : Nat) (hs : Keeps σ s) : Keeps σ (State.clearCancel s c i) := by
  unfold State.clearCancel
  repeat' (with_reducible
    first
    | assumption | apply State.updReq_keeps | (intro _) | exact rfl | apply Keeps.fields)

theorem State.cancelling_keeps {σ : State} {s : State} (c i : Nat) (hs : Keeps σ s) : Keeps σ (State.cancelling s c i) := by
  unfold State.cancelling
  repeat' (with_reducible
    first
    | assumption | apply State.dropStep_keeps | apply State.updReq_keeps | apply State.clearCancel_keeps
    | apply State.bump_keeps | apply State.forward_keeps | (intro _) | exact rfl | apply Keeps.fields)

theorem State.applyCancel_keeps {σ : State} {s : State} (c : Nat) (p : Pend) (hs : Keeps σ s) :
    Keeps σ (State.applyCancel s c p).1 := by
  unfold State.applyCancel
  repeat' (with_reducible
    first
    | assumption | apply State.complete_keeps | apply State.cancelling_keeps | apply State.clearCancel_keeps | extract_lets
    | split | (intro _) | exact rfl | apply Keeps.fields)

theorem State.cancel_keeps {σ : State} {s : State} (c : Nat) (cmd : Cmd) (hs : Keeps σ s) : Keeps σ (State.cancel s c cmd) := by
  unfold State.cancel
  repeat' (with_reducible
    first
    | assumption | apply State.complete_keeps | apply State.updReq_keeps | apply State.applyCancel_keeps
    | apply State.defer_keeps | extract_lets | split | (intro _) | (apply Keeps.fst_of; assumption)
    | (apply Keeps.snd_of; assumption) | (apply Keeps.some_of; assumption) | exact rfl | apply Keeps.fields)

theorem execCancel_keeps {σ : State} {s : State} (c : Nat) (cmd : Cmd) (hs : Keeps σ s) : KeepsNext σ (execCancel c cmd s) := by
  unfold execCancel
  repeat' (with_reducible
    first
    | assumption | apply State.control_keeps | apply State.cancel_keeps | apply KeepsNext.next | (intro _) | exact rfl
    | apply Keeps.fields)

theorem State.applyPark_keeps {σ : State} {s : State} (c : Nat) (p : Pend) (hs : Keeps σ s) :
    Keeps σ (State.applyPark s c p) := by
  unfold State.applyPark
  repeat' (with_reducible
    first
    | assumption | apply State.complete_keeps | apply State.dropStep_keeps | apply State.updReq_keeps
    | apply State.parkPages_keeps | apply State.forward_keeps | extract_lets | split | (intro _) | exact rfl
    | apply Keeps.fields)

theorem State.applyResume_keeps {σ : State} {s : State} (c : Nat) (p : Pend) (hs : Keeps σ s) :
    Keeps σ (State.applyResume s c p) := by
  unfold State.applyResume
  repeat' (with_reducible
    first
    | assumption | apply State.complete_keeps | apply State.updReq_keeps | apply State.forward_keeps | extract_lets | split
    | (intro _) | exact rfl | apply Keeps.fields)

theorem State.homesMoving_keeps {σ : State} {s : State} (c i : Nat) (hs : Keeps σ s) : Keeps σ (State.homesMoving s c i) := by
  unfold State.homesMoving
  repeat' (with_reducible
    first
    | assumption | apply State.each_keeps | apply State.when_keeps | apply State.setPte_keeps | apply State.spoilImage_keeps
    | extract_lets | (intro _) | exact rfl | apply Keeps.fields)

theorem State.sendTable_keeps {σ : State} {s : State} (c i : Nat) (hs : Keeps σ s) : Keeps σ (State.sendTable s c i) := by
  unfold State.sendTable
  repeat' (with_reducible
    first
    | assumption | apply State.moveSend_keeps | extract_lets | (intro _) | exact rfl | apply Keeps.fields)

theorem State.refuseOpen_keeps {σ : State} {s : State} (c node peer : Nat) (hs : Keeps σ s) :
    Keeps σ (State.refuseOpen s c node peer) := by
  unfold State.refuseOpen
  repeat' (with_reducible
    first
    | assumption | apply State.devSend_keeps | apply State.emit_keeps | split | (intro _) | exact rfl | apply Keeps.fields)

theorem State.applyOpen_keeps {σ : State} {s : State} (c : Nat) (p : Pend) (hs : Keeps σ s) :
    Keeps σ (State.applyOpen s c p) := by
  unfold State.applyOpen
  repeat' (with_reducible
    first
    | assumption | apply State.refuseOpen_keeps | apply State.dropStep_keeps | apply State.updReq_keeps
    | apply State.sendTable_keeps | apply State.homesMoving_keeps | extract_lets | split | (intro _) | exact rfl
    | apply Keeps.fields)

theorem State.homesBack_keeps {σ : State} {s : State} (c i : Nat) (hs : Keeps σ s) : Keeps σ (State.homesBack s c i) := by
  unfold State.homesBack
  repeat' (with_reducible
    first
    | assumption | apply State.each_keeps | apply State.when_keeps | apply State.setPte_keeps | extract_lets | (intro _)
    | exact rfl | apply Keeps.fields)

theorem State.moveFailed_keeps {σ : State} {s : State} (c i code : Nat) (hs : Keeps σ s) :
    Keeps σ (State.moveFailed s c i code) := by
  unfold State.moveFailed
  repeat' (with_reducible
    first
    | assumption | apply State.reqEvt_keeps | (intro _) | exact rfl | apply Keeps.fields)

theorem State.applyAbort_keeps {σ : State} {s : State} (c : Nat) (p : Pend) (hs : Keeps σ s) :
    Keeps σ (State.applyAbort s c p) := by
  unfold State.applyAbort
  repeat' (with_reducible
    first
    | assumption | apply State.complete_keeps | apply State.homesBack_keeps | apply State.lose_keeps
    | apply State.moveFailed_keeps | apply State.updReq_keeps | extract_lets | split | (intro _) | exact rfl
    | apply Keeps.fields)

theorem State.applyShard_keeps {σ : State} {s : State} (c : Nat) (p : Pend) (hs : Keeps σ s) :
    Keeps σ (State.applyShard s c p) := by
  unfold State.applyShard
  repeat' (with_reducible
    first
    | assumption | apply State.when_keeps | apply State.cancelling_keeps | apply State.dropStep_keeps | apply State.updReq_keeps
    | apply State.parkPages_keeps | apply State.bump_keeps | extract_lets | split | (intro _) | (apply Keeps.fst_of; assumption)
    | (apply Keeps.snd_of; assumption) | (apply Keeps.some_of; assumption) | exact rfl | apply Keeps.fields)

theorem State.applyFour_keeps {σ : State} {s : State} (c : Nat) (p : Pend) (hs : Keeps σ s) :
    Keeps σ (State.applyFour s c p) := by
  unfold State.applyFour
  repeat' (with_reducible
    first
    | assumption | apply State.applyPark_keeps | apply State.applyResume_keeps | apply State.applyOpen_keeps
    | apply State.applyAbort_keeps | apply State.applyShard_keeps | apply State.cancel_keeps | split | (intro _)
    | (apply Keeps.fst_of; assumption) | (apply Keeps.snd_of; assumption) | (apply Keeps.some_of; assumption) | exact rfl
    | apply Keeps.fields)

theorem State.reqCommand_keeps {σ : State} {s : State} (c : Nat) (k : PendKind) (cmd : Cmd) (hs : Keeps σ s) :
    Keeps σ (State.reqCommand s c k cmd) := by
  unfold State.reqCommand
  repeat' (with_reducible
    first
    | assumption | apply State.complete_keeps | apply State.applyFour_keeps | apply State.when_keeps
    | apply State.placeNow_keeps | apply State.defer_keeps | extract_lets | split | (intro _) | exact rfl | apply Keeps.fields)

theorem execPark_keeps {σ : State} {s : State} (c : Nat) (cmd : Cmd) (hs : Keeps σ s) : KeepsNext σ (execPark c cmd s) := by
  unfold execPark
  repeat' (with_reducible
    first
    | assumption | apply State.control_keeps | apply State.reqCommand_keeps | apply KeepsNext.next | (intro _) | exact rfl
    | apply Keeps.fields)

theorem execResume_keeps {σ : State} {s : State} (c : Nat) (cmd : Cmd) (hs : Keeps σ s) : KeepsNext σ (execResume c cmd s) := by
  unfold execResume
  repeat' (with_reducible
    first
    | assumption | apply State.control_keeps | apply State.reqCommand_keeps | apply KeepsNext.next | (intro _) | exact rfl
    | apply Keeps.fields)

theorem execMoveAbort_keeps {σ : State} {s : State} (c : Nat) (cmd : Cmd) (hs : Keeps σ s) :
    KeepsNext σ (execMoveAbort c cmd s) := by
  unfold execMoveAbort
  repeat' (with_reducible
    first
    | assumption | apply State.control_keeps | apply State.reqCommand_keeps | apply KeepsNext.next | (intro _) | exact rfl
    | apply Keeps.fields)

theorem execQuery_keeps {σ : State} {s : State} (c : Nat) (cmd : Cmd) (hs : Keeps σ s) : KeepsNext σ (execQuery c cmd s) := by
  unfold execQuery
  repeat' (with_reducible
    first
    | assumption | apply State.control_keeps | apply State.complete_keeps | apply KeepsNext.next | extract_lets | split
    | (intro _) | exact rfl | apply Keeps.fields)

theorem State.moveOpened_keeps {σ : State} {s : State} (c slot gen node peer : Nat) (hs : Keeps σ s) :
    Keeps σ (State.moveOpened s c slot gen node peer) := by
  unfold State.moveOpened
  repeat' (with_reducible
    first
    | assumption | apply State.when_keeps | apply State.applyOpen_keeps | apply State.updRqt_keeps | extract_lets | split
    | (intro _) | exact rfl | apply Keeps.fields)

theorem execMoveOpen_keeps {σ : State} {s : State} (c slot gen node peer : Nat) (hs : Keeps σ s) :
    KeepsNext σ (execMoveOpen c slot gen node peer s) := by
  unfold execMoveOpen
  repeat' (with_reducible
    first
    | assumption | apply State.moveOpened_keeps | apply KeepsNext.next | (intro _) | exact rfl | apply Keeps.fields)

theorem State.importPage_keeps {σ : State} {s : State} (c i : Nat) (x : MovePage) (hs : Keeps σ s) :
    Keeps σ (State.importPage s c i x) := by
  unfold State.importPage
  repeat' (with_reducible
    first
    | assumption | apply State.ensureL2_keeps | apply State.setPte_keeps | apply State.updPgm_keeps | extract_lets | split
    | (intro _) | (apply Keeps.fst_of; assumption) | (apply Keeps.snd_of; assumption) | (apply Keeps.some_of; assumption)
    | exact rfl | apply Keeps.fields)

theorem State.importEntry_keeps {σ : State} {s : State} (c i : Nat) (m : MoveReply) (hs : Keeps σ s) :
    Keeps σ (State.importEntry s c i m) := by
  unfold State.importEntry
  repeat' (with_reducible
    first
    | assumption | apply State.updReq_keeps | (intro _) | exact rfl | apply Keeps.fields)

theorem State.tableReturned_keeps {σ : State} {s : State} (c slot gen : Nat) (m : MoveReply) (hs : Keeps σ s) :
    Keeps σ (State.tableReturned s c slot gen m) := by
  unfold State.tableReturned
  repeat' (with_reducible
    first
    | assumption | apply State.lose_keeps | apply State.importEntry_keeps | apply State.each_keeps
    | apply State.importPage_keeps | apply State.moveComplete_keeps | extract_lets | split | (intro _) | exact rfl
    | apply Keeps.fields)

theorem execPageTableReturn_keeps {σ : State} {s : State} (c slot gen : Nat) (m : MoveReply) (hs : Keeps σ s) :
    KeepsNext σ (execPageTableReturn c slot gen m s) := by
  unfold execPageTableReturn
  repeat' (with_reducible
    first
    | assumption | apply State.tableReturned_keeps | apply KeepsNext.next | (intro _) | exact rfl | apply Keeps.fields)

theorem State.leaveHome_keeps {σ : State} {s : State} (c k : Nat) (hs : Keeps σ s) : Keeps σ (State.leaveHome s c k) := by
  unfold State.leaveHome
  repeat' (with_reducible
    first
    | assumption | apply State.setPte_keeps | apply State.passHome_keeps | apply State.decRef_keeps | extract_lets | split
    | (intro _) | exact rfl | apply Keeps.fields)

theorem State.homeSwitched_keeps {σ : State} {s : State} (c slot gen layer page : Nat) (hs : Keeps σ s) :
    Keeps σ (State.homeSwitched s c slot gen layer page) := by
  unfold State.homeSwitched
  repeat' (with_reducible
    first
    | assumption | apply State.updReq_keeps | apply State.when_keeps | apply State.unhold_keeps | apply State.leaveHome_keeps
    | extract_lets | split | (intro _) | exact rfl | apply Keeps.fields)

theorem execHomeSwitchNotice_keeps {σ : State} {s : State} (c slot gen layer page : Nat) (hs : Keeps σ s) :
    KeepsNext σ (execHomeSwitchNotice c slot gen layer page s) := by
  unfold execHomeSwitchNotice
  repeat' (with_reducible
    first
    | assumption | apply State.homeSwitched_keeps | apply KeepsNext.next | (intro _) | exact rfl | apply Keeps.fields)

theorem State.moveClosed_keeps {σ : State} {s : State} (c slot gen : Nat) (hs : Keeps σ s) :
    Keeps σ (State.moveClosed s c slot gen) := by
  unfold State.moveClosed
  repeat' (with_reducible
    first
    | assumption | apply State.each_keeps | apply State.dropPte_keeps | apply State.setEnd_keeps | apply State.shardEnd_keeps
    | apply State.postJob_keeps | extract_lets | split | (intro _) | exact rfl | apply Keeps.fields)

theorem execMoveClose_keeps {σ : State} {s : State} (c slot gen : Nat) (hs : Keeps σ s) :
    KeepsNext σ (execMoveClose c slot gen s) := by
  unfold execMoveClose
  repeat' (with_reducible
    first
    | assumption | apply State.moveClosed_keeps | apply KeepsNext.next | (intro _) | exact rfl | apply Keeps.fields)

theorem State.shardWaits_keeps {σ : State} {s : State} (c i : Nat) (k : PendKind) (hs : Keeps σ s) :
    Keeps σ (State.shardWaits s c i k) := by
  unfold State.shardWaits
  repeat' (with_reducible
    first
    | assumption | apply State.updRqt_keeps | (intro _) | exact rfl | apply Keeps.fields)

theorem State.shardPlaced_keeps {σ : State} {s : State} (c i stride phase : Nat) (hs : Keeps σ s) :
    Keeps σ (State.shardPlaced s c i stride phase) := by
  unfold State.shardPlaced
  repeat' (with_reducible
    first
    | assumption | apply State.updReq_keeps | apply State.when_keeps | apply State.placeNow_keeps | split | (intro _)
    | exact rfl | apply Keeps.fields)

theorem State.shardEnded_keeps {σ : State} {s : State} (c i code : Nat) (lost : Bool) (hs : Keeps σ s) :
    Keeps σ (State.shardEnded s c i code lost) := by
  unfold State.shardEnded
  repeat' (with_reducible
    first
    | assumption | apply State.lose_keeps | apply State.dropStep_keeps | apply State.setEnd_keeps | apply State.finish_keeps
    | split | (intro _) | exact rfl | apply Keeps.fields)

theorem State.devRecord_keeps {σ : State} {s : State} (c srcSlot : Nat) (bs : List Byte) (hs : Keeps σ s) :
    Keeps σ (State.devRecord s c srcSlot bs) := by
  unfold State.devRecord
  repeat' (with_reducible
    first
    | assumption | apply State.shardWaits_keeps | apply State.shardPlaced_keeps | apply State.shardEnded_keeps
    | apply State.when_keeps | apply State.lose_keeps | apply State.moveOpened_keeps | apply State.tableReturned_keeps
    | apply State.homeSwitched_keeps | apply State.moveClosed_keeps | extract_lets | split | (intro _)
    | (apply Keeps.fst_of; assumption) | (apply Keeps.snd_of; assumption) | (apply Keeps.some_of; assumption) | exact rfl
    | apply Keeps.fields)

theorem State.noteHome_keeps {σ : State} {s : State} (c srcSlot : Nat) (bs : List Byte) (hs : Keeps σ s) :
    Keeps σ (State.noteHome s c srcSlot bs) := by
  unfold State.noteHome
  repeat' (with_reducible
    first
    | assumption | apply State.when_keeps | apply State.updReq_keeps | split | (intro _) | (apply Keeps.fst_of; assumption)
    | (apply Keeps.snd_of; assumption) | (apply Keeps.some_of; assumption) | exact rfl | apply Keeps.fields)

theorem State.dawnCancels_keeps {σ : State} {s : State} (c : Nat) (hs : Keeps σ s) : Keeps σ (State.dawnCancels s c) := by
  unfold State.dawnCancels
  repeat' (with_reducible
    first
    | assumption | apply State.cancel_keeps | apply State.updRqt_keeps | apply State.each_keeps | apply State.applyCancel_keeps
    | extract_lets | split | (intro _) | (apply Keeps.fst_of; assumption) | (apply Keeps.snd_of; assumption)
    | (apply Keeps.some_of; assumption) | exact rfl | apply Keeps.fields)

theorem State.dawnFree_keeps {σ : State} {s : State} (c : Nat) (hs : Keeps σ s) : Keeps σ (State.dawnFree s c) := by
  unfold State.dawnFree
  repeat' (with_reducible
    first
    | assumption | apply State.each_keeps | apply State.updReq_keeps | (intro _) | exact rfl | apply Keeps.fields)

theorem State.dawnRole_keeps {σ : State} {s : State} (c : Nat) (hs : Keeps σ s) : Keeps σ (State.dawnRole s c) := by
  unfold State.dawnRole
  repeat' (with_reducible
    first
    | assumption | apply State.updRqt_keeps | apply State.wr_keeps | apply State.evtPriv_keeps | extract_lets | split
    | (intro _) | exact rfl | apply Keeps.fields)

theorem State.dawnFour_keeps {σ : State} {s : State} (c : Nat) (hs : Keeps σ s) : Keeps σ (State.dawnFour s c) := by
  unfold State.dawnFour
  repeat' (with_reducible
    first
    | assumption | apply State.updRqt_keeps | apply State.each_keeps | apply State.applyFour_keeps | extract_lets | (intro _)
    | exact rfl | apply Keeps.fields)

theorem State.dawnAdmit_keeps {σ : State} {s : State} (c : Nat) (hs : Keeps σ s) : Keeps σ (State.dawnAdmit s c) := by
  unfold State.dawnAdmit
  repeat' (with_reducible
    first
    | assumption | apply State.updRqt_keeps | apply State.each_keeps | apply State.admitNow_keeps | extract_lets | split
    | (intro _) | (apply Keeps.fst_of; assumption) | (apply Keeps.snd_of; assumption) | (apply Keeps.some_of; assumption)
    | exact rfl | apply Keeps.fields)

theorem State.dawnStart_keeps {σ : State} {s : State} (c : Nat) (hs : Keeps σ s) : Keeps σ (State.dawnStart s c) := by
  unfold State.dawnStart
  repeat' (with_reducible
    first
    | assumption | apply State.dawnCancels_keeps | apply State.dawnFree_keeps | apply State.freeHandles_keeps
    | apply State.dawnRole_keeps | apply State.dawnFour_keeps | apply State.dawnAdmit_keeps | apply State.placeAll_keeps
    | (intro _) | exact rfl | apply Keeps.fields)

theorem State.onCommit_keeps {σ : State} {s : State} (c i tokens : Nat) (hs : Keeps σ s) :
    Keeps σ (State.onCommit s c i tokens) := by
  unfold State.onCommit
  repeat' (with_reducible
    first
    | assumption | apply State.updReq_keeps | extract_lets | split | (intro _) | exact rfl | apply Keeps.fields)

theorem State.applyFallback_keeps {σ : State} {s : State} (c i pred : Nat) (hs : Keeps σ s) :
    Keeps σ (State.applyFallback s c i pred) := by
  unfold State.applyFallback
  repeat' (with_reducible
    first
    | assumption | apply State.updReq_keeps | apply State.bump_keeps | apply State.reqEvt_keeps | apply State.forward_keeps
    | (intro _) | exact rfl | apply Keeps.fields)

theorem State.postMiss_keeps {σ : State} {s : State} (c i cause pred : Nat) (hs : Keeps σ s) :
    Keeps σ (State.postMiss s c i cause pred) := by
  unfold State.postMiss
  repeat' (with_reducible
    first
    | assumption | apply State.updReq_keeps | apply State.bump_keeps | apply State.reqEvt_keeps | extract_lets | split
    | (intro _) | exact rfl | apply Keeps.fields)

theorem State.monitor_keeps {σ : State} {s : State} (c i now : Nat) (hs : Keeps σ s) : Keeps σ (State.monitor s c i now) := by
  unfold State.monitor
  repeat' (with_reducible
    first
    | assumption | apply State.applyFallback_keeps | apply State.postMiss_keeps | extract_lets | split | (intro _)
    | (apply Keeps.fst_of; assumption) | (apply Keeps.snd_of; assumption) | (apply Keeps.some_of; assumption) | exact rfl
    | apply Keeps.fields)

theorem State.monitorOnce_keeps {σ : State} {s : State} (c i now : Nat) (hs : Keeps σ s) :
    Keeps σ (State.monitorOnce s c i now) := by
  unfold State.monitorOnce
  repeat' (with_reducible
    first
    | assumption | apply State.when_keeps | apply State.monitor_keeps | apply State.updReq_keeps | (intro _) | exact rfl
    | apply Keeps.fields)

theorem State.duskMonitor_keeps {σ : State} {s : State} (c : Nat) (hs : Keeps σ s) : Keeps σ (State.duskMonitor s c) := by
  unfold State.duskMonitor
  repeat' (with_reducible
    first
    | assumption | apply State.each_keeps | apply State.updReq_keeps | apply State.updRqt_keeps | apply State.when_keeps
    | apply State.monitorOnce_keeps | extract_lets | (intro _) | exact rfl | apply Keeps.fields)

theorem State.monitorLate_keeps {σ : State} {s : State} (c i : Nat) (hs : Keeps σ s) : Keeps σ (State.monitorLate s c i) := by
  unfold State.monitorLate
  repeat' (with_reducible
    first
    | assumption | apply State.monitorOnce_keeps | split | (intro _) | (apply Keeps.fst_of; assumption)
    | (apply Keeps.snd_of; assumption) | (apply Keeps.some_of; assumption) | exact rfl | apply Keeps.fields)

theorem State.lateMonitor_keeps {σ : State} {s : State} (c : Nat) (hs : Keeps σ s) : Keeps σ (State.lateMonitor s c) := by
  unfold State.lateMonitor
  repeat' (with_reducible
    first
    | assumption | apply State.when_keeps | apply State.each_keeps | apply State.monitorLate_keeps | apply State.updRqt_keeps
    | (intro _) | exact rfl | apply Keeps.fields)

theorem State.monitorFirst_keeps {σ : State} {s : State} (c i : Nat) (hs : Keeps σ s) : Keeps σ (State.monitorFirst s c i) := by
  unfold State.monitorFirst
  repeat' (with_reducible
    first
    | assumption | apply State.when_keeps | apply State.postMiss_keeps | extract_lets | split | (intro _)
    | (apply Keeps.fst_of; assumption) | (apply Keeps.snd_of; assumption) | (apply Keeps.some_of; assumption) | exact rfl
    | apply Keeps.fields)

theorem State.duskFirst_keeps {σ : State} {s : State} (c : Nat) (hs : Keeps σ s) : Keeps σ (State.duskFirst s c) := by
  unfold State.duskFirst
  repeat' (with_reducible
    first
    | assumption | apply State.each_keeps | apply State.monitorFirst_keeps | split | (intro _) | exact rfl | apply Keeps.fields)

theorem State.duskCancelled_keeps {σ : State} {s : State} (c : Nat) (hs : Keeps σ s) : Keeps σ (State.duskCancelled s c) := by
  unfold State.duskCancelled
  repeat' (with_reducible
    first
    | assumption | apply State.each_keeps | apply State.cancelling_keeps | apply State.finish_keeps | (intro _) | exact rfl
    | apply Keeps.fields)

theorem State.snapEntry_keeps {σ : State} {s : State} (c : Nat) (hs : Keeps σ s) : Keeps σ (State.snapEntry s c) := by
  unfold State.snapEntry
  repeat' (with_reducible
    first
    | assumption | apply State.wrAt_keeps | apply foldl_keeps | apply foldl_fst_keeps | extract_lets | (intro _) | exact rfl
    | apply Keeps.fields)

theorem execRqtEntryRead_keeps {σ : State} {s : State} (rq : Requester) (c : Nat) (hs : Keeps σ s) :
    KeepsNext σ (execRqtEntryRead rq c s) := by
  unfold execRqtEntryRead
  repeat' (with_reducible
    first
    | assumption | apply State.sideRead_keeps | apply State.snapEntry_keeps | apply KeepsNext.next | extract_lets | (intro _)
    | exact rfl | apply Keeps.fields)

end Sys2Proof.Machine
end

