-- ==== Sys2Proof/Laws/KeepsBanks.lean ====
section
/-! SUPPORT. Every operation of Machine/Banks.lean keeps what `Keeps` says. -/
namespace Sys2Proof.Machine

theorem State.ringFresh_keeps {σ : State} {s : State} (c i : Nat) (r : RegId) (hs : Keeps σ s) :
    Keeps σ (State.ringFresh s c i r) := by
  unfold State.ringFresh
  repeat' (with_reducible
    first
    | assumption | apply State.updAtn_keeps | apply State.updJsc_keeps | apply State.updTrc_keeps
    | apply State.flushFaults_keeps | split | (intro _) | exact rfl | apply Keeps.fields)

theorem State.ringStart_keeps {σ : State} {s : State} (c i : Nat) (r : RingRegs) (hs : Keeps σ s) :
    Keeps σ (State.ringStart s c i r) := by
  unfold State.ringStart
  repeat' (with_reducible
    first
    | assumption | apply State.wr_keeps | apply State.ringFresh_keeps | (intro _) | exact rfl | apply Keeps.fields)

theorem State.swapRings_keeps {σ : State} {s : State} (old : State) (p : Page) (hs : Keeps σ s) :
    Keeps σ (State.swapRings s old p) := by
  unfold State.swapRings
  repeat' (with_reducible
    first
    | assumption | apply State.each_keeps | apply State.ringStart_keeps | (intro _) | exact rfl | apply Keeps.fields)

theorem State.swapRerank_keeps {σ : State} {s : State} (c : Nat) (v : Word) (hs : Keeps σ s) :
    Keeps σ (State.swapRerank s c v) := by
  unfold State.swapRerank
  repeat' (with_reducible
    first
    | assumption | apply State.vseCfg_keeps | apply State.setShadow_keeps | extract_lets | split | (intro _) | exact rfl
    | apply Keeps.fields)

theorem State.swapEffect_keeps {σ : State} {s : State} (old : State) (p : Page) (hs : Keeps σ s) :
    Keeps σ (State.swapEffect old s p) := by
  unfold State.swapEffect
  repeat' (with_reducible
    first
    | assumption | apply State.cadRunSet_keeps | apply State.cadRunClear_keeps | apply State.wr_keeps | apply State.when_keeps
    | apply State.setPln_keeps | apply State.updRqt_keeps | apply State.swapRerank_keeps | apply State.syncRerank_keeps
    | apply State.syncSplit_keeps | apply State.syncSolrov_keeps | apply State.keepTokens_keeps | apply State.alertEdge_keeps
    | apply State.raiseLevel_keeps | apply State.swapRings_keeps | extract_lets | split | (intro _)
    | (apply Keeps.fst_of; assumption) | (apply Keeps.snd_of; assumption) | (apply Keeps.some_of; assumption) | exact rfl
    | apply Keeps.fields)

theorem State.swapAll_keeps {σ : State} {s : State} (hs : Keeps σ s) : Keeps σ (State.swapAll s) := by
  unfold State.swapAll
  repeat' (with_reducible
    first
    | assumption | apply State.swapBanks_keeps | apply State.each_keeps | apply State.swapEffect_keeps | extract_lets | split
    | (intro _) | exact rfl | apply Keeps.fields)

end Sys2Proof.Machine
end

