-- ==== Sys2Proof/Laws/KeepsHosts.lean ====
section
/-! SUPPORT. Every operation of Machine/Hosts.lean keeps what `Keeps` says. -/
namespace Sys2Proof.Machine

theorem State.updPort_keeps {σ : State} {s : State} (p : Nat) (f : CxhPort → CxhPort) (hs : Keeps σ s) :
    Keeps σ (State.updPort s p f) := by
  unfold State.updPort
  repeat' (with_reducible
    first
    | assumption | (intro _) | exact rfl | apply Keeps.fields)

theorem State.updLd_keeps {σ : State} {s : State} (n : Nat) (f : LdSt → LdSt) (hs : Keeps σ s) :
    Keeps σ (State.updLd s n f) := by
  unfold State.updLd
  repeat' (with_reducible
    first
    | assumption | (intro _) | exact rfl | apply Keeps.fields)

theorem State.compRetire_keeps {σ : State} {s : State} (hs : Keeps σ s) : Keeps σ (State.compRetire s) := by
  unfold State.compRetire
  repeat' (with_reducible
    first
    | assumption | apply State.setCmp_keeps | apply State.each_keeps | apply State.evtPriv_keeps | apply State.evt_keeps
    | apply foldl_keeps | apply foldl_fst_keeps | extract_lets | split | (intro _) | (apply Keeps.fst_of; assumption)
    | (apply Keeps.snd_of; assumption) | (apply Keeps.some_of; assumption) | exact rfl | apply Keeps.fields)

theorem State.compEpoch_keeps {σ : State} {s : State} (hs : Keeps σ s) : Keeps σ (State.compEpoch s) := by
  unfold State.compEpoch
  repeat' (with_reducible
    first
    | assumption | apply State.setCmp_keeps | split | (intro _) | exact rfl | apply Keeps.fields)

theorem State.fmAnswer_keeps {σ : State} {s : State} (code : String) (ld : Nat) (hs : Keeps σ s) :
    Keeps σ (State.fmAnswer s code ld) := by
  unfold State.fmAnswer
  repeat' (with_reducible
    first
    | assumption | apply State.emit_keeps | (intro _) | exact rfl | apply Keeps.fields)

theorem State.mapBusy_keeps {σ : State} {s : State} (ep : Nat) (hs : Keeps σ s) : Keeps σ (State.mapBusy s ep) := by
  unfold State.mapBusy
  repeat' (with_reducible
    first
    | assumption | apply State.bump_keeps | apply State.evtPriv_keeps | (intro _) | exact rfl | apply Keeps.fields)

theorem State.withEpoch_keeps {σ : State} {s : State} (ld : Nat) (f : State → State) (hf : ∀
    (a0 : State), Keeps σ a0 → Keeps σ (f a0)) (hs : Keeps σ s) :
    Keeps σ (State.withEpoch s ld f) := by
  unfold State.withEpoch
  repeat' (with_reducible
    first
    | assumption | apply hf | apply State.compRetire_keeps | apply State.mapBusy_keeps | apply State.fmAnswer_keeps
    | extract_lets | split | (intro _) | (apply Keeps.fst_of; assumption) | (apply Keeps.snd_of; assumption)
    | (apply Keeps.some_of; assumption) | exact rfl | apply Keeps.fields)

theorem State.setMask_keeps {σ : State} {s : State} (ld mask : Nat) (hs : Keeps σ s) : Keeps σ (State.setMask s ld mask) := by
  unfold State.setMask
  repeat' (with_reducible
    first
    | assumption | apply State.wr_keeps | apply State.compEpoch_keeps | apply State.fmAnswer_keeps | (intro _) | exact rfl
    | apply Keeps.fields)

theorem State.onFm_keeps {σ : State} {s : State} (ld : Nat) (f : State → State) (hf : ∀ (a0 : State), Keeps σ a0 → Keeps σ
    (f a0)) (hs : Keeps σ s) :
    Keeps σ (State.onFm s ld f) := by
  unfold State.onFm
  repeat' (with_reducible
    first
    | assumption | apply hf | split | (intro _) | exact rfl | apply Keeps.fields)

theorem execBindChannel_keeps {σ : State} {s : State} (ld mask : Nat) (hs : Keeps σ s) :
    KeepsNext σ (execBindChannel ld mask s) := by
  unfold execBindChannel
  repeat' (with_reducible
    first
    | assumption | apply State.onFm_keeps | apply State.fmAnswer_keeps | apply State.withEpoch_keeps | apply State.setMask_keeps
    | apply KeepsNext.next | split | (intro _) | exact rfl | apply Keeps.fields)

theorem execUnbindChannel_keeps {σ : State} {s : State} (ld mask : Nat) (hs : Keeps σ s) :
    KeepsNext σ (execUnbindChannel ld mask s) := by
  unfold execUnbindChannel
  repeat' (with_reducible
    first
    | assumption | apply State.onFm_keeps | apply State.fmAnswer_keeps | apply State.withEpoch_keeps | apply State.setMask_keeps
    | apply foldl_keeps | apply foldl_fst_keeps | apply KeepsNext.next | split | (intro _) | exact rfl | apply Keeps.fields)

theorem execInitiateDynamicCapacityAdd_keeps {σ : State} {s : State} (ld : Nat) (extents : List DcExtent) (hs : Keeps σ s) :
    KeepsNext σ (execInitiateDynamicCapacityAdd ld extents s) := by
  unfold execInitiateDynamicCapacityAdd
  repeat' (with_reducible
    first
    | assumption | apply State.onFm_keeps | apply State.fmAnswer_keeps | apply State.withEpoch_keeps | apply State.setCmp_keeps
    | apply State.emit_keeps | apply foldl_keeps | apply foldl_fst_keeps | apply KeepsNext.next | extract_lets | split
    | (intro _) | exact rfl | apply Keeps.fields)

theorem execAddDynamicCapacityResponse_keeps {σ : State} {s : State} (ld : Nat) (accepted : List Nat) (hs : Keeps σ s) :
    KeepsNext σ (execAddDynamicCapacityResponse ld accepted s) := by
  unfold execAddDynamicCapacityResponse
  repeat' (with_reducible
    first
    | assumption | apply State.onFm_keeps | apply State.compRetire_keeps | apply State.setCmp_keeps | apply State.evtPriv_keeps
    | apply State.withEpoch_keeps | apply State.compEpoch_keeps | apply foldl_keeps | apply foldl_fst_keeps
    | apply KeepsNext.next | extract_lets | split | (intro _) | exact rfl | apply Keeps.fields)

theorem State.releaseGo_keeps {σ : State} {s : State} (hs : Keeps σ s) : Keeps σ (State.releaseGo s) := by
  unfold State.releaseGo
  repeat' (with_reducible
    first
    | assumption | apply State.each_keeps | apply State.bisnp_keeps | apply State.compRetire_keeps | apply State.setCmp_keeps
    | apply State.mapBusy_keeps | apply State.compEpoch_keeps | apply foldl_keeps | apply foldl_fst_keeps | extract_lets | split
    | (intro _) | (apply Keeps.fst_of; assumption) | (apply Keeps.snd_of; assumption) | (apply Keeps.some_of; assumption)
    | exact rfl | apply Keeps.fields)

theorem execInitiateDynamicCapacityRelease_keeps {σ : State} {s : State} (ld : Nat) (dpas : List Nat) (forced : Bool)
    (hs : Keeps σ s) :
    KeepsNext σ (execInitiateDynamicCapacityRelease ld dpas forced s) := by
  unfold execInitiateDynamicCapacityRelease
  repeat' (with_reducible
    first
    | assumption | apply State.onFm_keeps | apply State.fmAnswer_keeps | apply State.withEpoch_keeps | apply State.setCmp_keeps
    | apply State.when_keeps | apply State.emit_keeps | apply State.releaseGo_keeps | apply foldl_keeps | apply foldl_fst_keeps
    | apply KeepsNext.next | extract_lets | split | (intro _) | exact rfl | apply Keeps.fields)

theorem execReleaseDynamicCapacity_keeps {σ : State} {s : State} (ld : Nat) (dpas : List Nat) (hs : Keeps σ s) :
    KeepsNext σ (execReleaseDynamicCapacity ld dpas s) := by
  unfold execReleaseDynamicCapacity
  repeat' (with_reducible
    first
    | assumption | apply State.onFm_keeps | apply State.setCmp_keeps | apply State.releaseGo_keeps | apply foldl_keeps
    | apply foldl_fst_keeps | apply KeepsNext.next | extract_lets | (intro _) | exact rfl | apply Keeps.fields)

theorem execCompositionEpochRetire_keeps {σ : State} {s : State} (hs : Keeps σ s) :
    KeepsNext σ (execCompositionEpochRetire s) := by
  unfold execCompositionEpochRetire
  repeat' (with_reducible
    first
    | assumption | apply State.compRetire_keeps | apply State.releaseGo_keeps | apply KeepsNext.next | (intro _) | exact rfl
    | apply Keeps.fields)

theorem State.memData_keeps {σ : State} {s : State} (ld dpa : Nat) (bad : Bool) (bs : List Byte) (hs : Keeps σ s) :
    Keeps σ (State.memData s ld dpa bad bs) := by
  unfold State.memData
  repeat' (with_reducible
    first
    | assumption | apply State.when_keeps | apply State.bump_keeps | apply State.emit_keeps | split | (intro _) | exact rfl
    | apply Keeps.fields)

theorem State.memCmp_keeps {σ : State} {s : State} (ld dpa : Nat) (hs : Keeps σ s) : Keeps σ (State.memCmp s ld dpa) := by
  unfold State.memCmp
  repeat' (with_reducible
    first
    | assumption | apply State.emit_keeps | (intro _) | exact rfl | apply Keeps.fields)

theorem State.hostServe_keeps {σ : State} {s : State} (x : HostAccess) (e : BifEntry) (hs : Keeps σ s) :
    Keeps σ (State.hostServe s x e) := by
  unfold State.hostServe
  repeat' (with_reducible
    first
    | assumption | apply State.setCmp_keeps | apply State.t2Send_keeps | apply State.hwrite_keeps | apply State.hmark_keeps
    | apply State.bump_keeps | apply State.memCmp_keeps | apply State.memData_keeps | apply State.touch_keeps | extract_lets
    | split | (intro _) | exact rfl | apply Keeps.fields)

theorem State.bifEvict_keeps {σ : State} {s : State} (k : Nat) (es : List (Nat × BifEntry)) (hs : Keeps σ s) :
    Keeps σ (State.bifEvict s k es) := by
  unfold State.bifEvict
  repeat' (with_reducible
    first
    | assumption | apply State.setCmp_keeps | apply State.bump_keeps | apply State.each_keeps | apply State.bisnp_keeps
    | extract_lets | split | (intro _) | (apply Keeps.fst_of; assumption) | (apply Keeps.snd_of; assumption)
    | (apply Keeps.some_of; assumption) | exact rfl | apply Keeps.fields)

theorem State.hostTry_keeps {σ : State} {s : State} (x : HostAccess) (hs : Keeps σ s) : Keeps σ (State.hostTry s x) := by
  unfold State.hostTry
  repeat' (with_reducible
    first
    | assumption | apply State.each_keeps | apply State.bisnp_keeps | apply State.hostServe_keeps | apply State.bifEvict_keeps
    | extract_lets | split | (intro _) | (apply Keeps.fst_of; assumption) | (apply Keeps.snd_of; assumption)
    | (apply Keeps.some_of; assumption) | exact rfl | apply Keeps.fields)

theorem State.hostGo_keeps {σ : State} {s : State} (hs : Keeps σ s) : Keeps σ (State.hostGo s) := by
  unfold State.hostGo
  repeat' (with_reducible
    first
    | assumption | apply State.each_keeps | apply State.hostTry_keeps | (intro _) | exact rfl | apply Keeps.fields)

theorem State.onMem_keeps {σ : State} {s : State} (ld dpa : Nat) (f : State → State) (hf : ∀
    (a0 : State), Keeps σ a0 → Keeps σ (f a0)) (hs : Keeps σ s) :
    Keeps σ (State.onMem s ld dpa f) := by
  unfold State.onMem
  repeat' (with_reducible
    first
    | assumption | apply hf | apply State.emit_keeps | split | (intro _) | exact rfl | apply Keeps.fields)

theorem State.memRead_keeps {σ : State} {s : State} (ld d want : Nat) (hs : Keeps σ s) :
    Keeps σ (State.memRead s ld d want) := by
  unfold State.memRead
  repeat' (with_reducible
    first
    | assumption | apply State.memData_keeps | apply State.bump_keeps | apply State.setCmp_keeps | apply State.hostGo_keeps
    | split | (intro _) | (apply Keeps.fst_of; assumption) | (apply Keeps.snd_of; assumption)
    | (apply Keeps.some_of; assumption) | exact rfl | apply Keeps.fields)

theorem State.memWrite_keeps {σ : State} {s : State} (ld dpa : Nat) (bs : List Byte) (hs : Keeps σ s) :
    Keeps σ (State.memWrite s ld dpa bs) := by
  unfold State.memWrite
  repeat' (with_reducible
    first
    | assumption | apply State.bump_keeps | apply State.memCmp_keeps | apply State.setCmp_keeps | apply State.hostServe_keeps
    | apply State.hostGo_keeps | extract_lets | split | (intro _) | (apply Keeps.fst_of; assumption)
    | (apply Keeps.snd_of; assumption) | (apply Keeps.some_of; assumption) | exact rfl | apply Keeps.fields)

theorem State.cmpWait_keeps {σ : State} {s : State} (x : HostAccess) (hs : Keeps σ s) : Keeps σ (State.cmpWait s x) := by
  unfold State.cmpWait
  repeat' (with_reducible
    first
    | assumption | apply State.setCmp_keeps | (intro _) | exact rfl | apply Keeps.fields)

theorem State.cmpLater_keeps {σ : State} {s : State} (hs : Keeps σ s) : Keeps σ (State.cmpLater s) := by
  unfold State.cmpLater
  repeat' (with_reducible
    first
    | assumption | apply State.setCmp_keeps | apply State.each_keeps | apply State.memWrite_keeps | apply State.memRead_keeps
    | split | (intro _) | exact rfl | apply Keeps.fields)

theorem execCxlMemRead_keeps {σ : State} {s : State} (ld dpa want : Nat) (hs : Keeps σ s) :
    KeepsNext σ (execCxlMemRead ld dpa want s) := by
  unfold execCxlMemRead
  repeat' (with_reducible
    first
    | assumption | apply State.onMem_keeps | apply State.memRead_keeps | apply State.cmpWait_keeps | apply KeepsNext.next
    | extract_lets | split | (intro _) | exact rfl | apply Keeps.fields)

theorem execCxlMemWrite_keeps {σ : State} {s : State} (ld dpa : Nat) (data : List Byte) (hs : Keeps σ s) :
    KeepsNext σ (execCxlMemWrite ld dpa data s) := by
  unfold execCxlMemWrite
  repeat' (with_reducible
    first
    | assumption | apply State.onMem_keeps | apply State.memWrite_keeps | apply State.cmpWait_keeps | apply KeepsNext.next
    | extract_lets | split | (intro _) | exact rfl | apply Keeps.fields)

theorem execShareSet_keeps {σ : State} {s : State} (c : Nat) (cmd : Cmd) (hs : Keeps σ s) :
    KeepsNext σ (execShareSet c cmd s) := by
  unfold execShareSet
  repeat' (with_reducible
    first
    | assumption | apply State.control_keeps | apply State.complete_keeps | apply State.setCmp_keeps | apply KeepsNext.next
    | extract_lets | split | (intro _) | exact rfl | apply Keeps.fields)

theorem execShareQuery_keeps {σ : State} {s : State} (c : Nat) (cmd : Cmd) (hs : Keeps σ s) :
    KeepsNext σ (execShareQuery c cmd s) := by
  unfold execShareQuery
  repeat' (with_reducible
    first
    | assumption | apply State.control_keeps | apply State.complete_keeps | apply KeepsNext.next | extract_lets | split
    | (intro _) | exact rfl | apply Keeps.fields)

theorem State.publishEnd_keeps {σ : State} {s : State} (p : PendingPublish) (hs : Keeps σ s) :
    Keeps σ (State.publishEnd s p) := by
  unfold State.publishEnd
  repeat' (with_reducible
    first
    | assumption | apply State.setCmp_keeps | apply State.bump_keeps | apply State.complete_keeps | apply State.when_keeps
    | apply State.vwrite_keeps | extract_lets | split | (intro _) | exact rfl | apply Keeps.fields)

theorem State.publishGo_keeps {σ : State} {s : State} (hs : Keeps σ s) : Keeps σ (State.publishGo s) := by
  unfold State.publishGo
  repeat' (with_reducible
    first
    | assumption | apply State.each_keeps | apply State.publishEnd_keeps | apply State.afterSnoops_keeps | split | (intro _)
    | exact rfl | apply Keeps.fields)

theorem execPublish_keeps {σ : State} {s : State} (c : Nat) (cmd : Cmd) (hs : Keeps σ s) :
    KeepsNext σ (execPublish c cmd s) := by
  unfold execPublish
  repeat' (with_reducible
    first
    | assumption | apply State.control_keeps | apply State.complete_keeps | apply State.faultHolder_keeps
    | apply State.handOver_keeps | apply State.setCmp_keeps | apply State.publishGo_keeps | apply KeepsNext.next | extract_lets
    | split | (intro _) | exact rfl | apply Keeps.fields)

theorem State.snoopsDone_keeps {σ : State} {s : State} (hs : Keeps σ s) : Keeps σ (State.snoopsDone s) := by
  unfold State.snoopsDone
  repeat' (with_reducible
    first
    | assumption | apply State.hostGo_keeps | apply State.publishGo_keeps | apply State.releaseGo_keeps | (intro _) | exact rfl
    | apply Keeps.fields)

theorem execBirsp_keeps {σ : State} {s : State} (ld line keeps : Nat) (hs : Keeps σ s) :
    KeepsNext σ (execBirsp ld line keeps s) := by
  unfold execBirsp
  repeat' (with_reducible
    first
    | assumption | apply State.setCmp_keeps | apply State.snoopsDone_keeps | apply KeepsNext.next | extract_lets | split
    | (intro _) | (apply Keeps.fst_of; assumption) | (apply Keeps.snd_of; assumption) | (apply Keeps.some_of; assumption)
    | exact rfl | apply Keeps.fields)

theorem State.contain_keeps {σ : State} {s : State} (ld cause : Nat) (hs : Keeps σ s) : Keeps σ (State.contain s ld cause) := by
  unfold State.contain
  repeat' (with_reducible
    first
    | assumption | apply State.setCmp_keeps | apply State.each_keeps | apply State.hmark_keeps | apply State.updLd_keeps
    | apply State.bump_keeps | apply State.evtPriv_keeps | apply State.snoopsDone_keeps | apply foldl_keeps
    | apply foldl_fst_keeps | extract_lets | (intro _) | exact rfl | apply Keeps.fields)

theorem execBiTimeout_keeps {σ : State} {s : State} (ld : Nat) (hs : Keeps σ s) : KeepsNext σ (execBiTimeout ld s) := by
  unfold execBiTimeout
  repeat' (with_reducible
    first
    | assumption | apply State.passToNow_keeps | apply State.bump_keeps | apply State.contain_keeps | apply KeepsNext.next
    | split | (intro _) | (apply Keeps.fst_of; assumption) | (apply Keeps.snd_of; assumption)
    | (apply Keeps.some_of; assumption) | exact rfl | apply Keeps.fields)

theorem execLdReset_keeps {σ : State} {s : State} (ld : Nat) (hs : Keeps σ s) : KeepsNext σ (execLdReset ld s) := by
  unfold execLdReset
  repeat' (with_reducible
    first
    | assumption | apply State.contain_keeps | apply State.updLd_keeps | apply KeepsNext.next | split | (intro _) | exact rfl
    | apply Keeps.fields)

theorem State.cutT2_keeps {σ : State} {s : State} (p : Nat) (hs : Keeps σ s) : Keeps σ (State.cutT2 s p) := by
  unfold State.cutT2
  repeat' (with_reducible
    first
    | assumption | apply State.each_keeps | apply State.updMove_keeps | apply State.bump_keeps
    | apply State.translateRange_keeps | apply State.when_keeps | apply State.setDmvRun_keeps | extract_lets | split | (intro _)
    | (apply Keeps.fst_of; assumption) | (apply Keeps.snd_of; assumption) | (apply Keeps.some_of; assumption) | exact rfl
    | apply Keeps.fields)

theorem execHostPortFault_keeps {σ : State} {s : State} (port : Nat) (why : PortFault) (hs : Keeps σ s) :
    KeepsNext σ (execHostPortFault port why s) := by
  unfold execHostPortFault
  repeat' (with_reducible
    first
    | assumption | apply State.setCmp_keeps | apply State.updPort_keeps | apply State.each_keeps | apply State.contain_keeps
    | apply State.updLd_keeps | apply State.cutT2_keeps | apply State.bump_keeps | apply State.evtPriv_keeps
    | apply KeepsNext.next | extract_lets | split | (intro _) | (apply Keeps.fst_of; assumption)
    | (apply Keeps.snd_of; assumption) | (apply Keeps.some_of; assumption) | exact rfl | apply Keeps.fields)

theorem execLinkUp_keeps {σ : State} {s : State} (port speed width : Nat) (hs : Keeps σ s) :
    KeepsNext σ (execLinkUp port speed width s) := by
  unfold execLinkUp
  repeat' (with_reducible
    first
    | assumption | apply State.updPort_keeps | apply KeepsNext.next | split | (intro _) | exact rfl | apply Keeps.fields)

theorem execConfigurationRequest_keeps {σ : State} {s : State} (ld : Nat) (msix : Option Bool) (hs : Keeps σ s) :
    KeepsNext σ (execConfigurationRequest ld msix s) := by
  unfold execConfigurationRequest
  repeat' (with_reducible
    first
    | assumption | apply State.emit_keeps | apply State.updLd_keeps | apply KeepsNext.next | split | (intro _)
    | (apply Keeps.fst_of; assumption) | (apply Keeps.snd_of; assumption) | (apply Keeps.some_of; assumption) | exact rfl
    | apply Keeps.fields)

end Sys2Proof.Machine
end

