-- ==== Sys2Proof/Laws/KeepsIdentity.lean ====
section
/-! SUPPORT. Every operation of Machine/Identity.lean keeps what `Keeps` says. -/
namespace Sys2Proof.Machine

theorem State.setSec_keeps {σ : State} {s : State} (f : Sec → Sec) (hs : Keeps σ s) : Keeps σ (State.setSec s f) := by
  unfold State.setSec
  repeat' (with_reducible
    first
    | assumption | (intro _) | exact rfl | apply Keeps.fields)

theorem State.updSpdm_keeps {σ : State} {s : State} (t : Nat) (f : SpdmPort → SpdmPort) (hs : Keeps σ s) :
    Keeps σ (State.updSpdm s t f) := by
  unfold State.updSpdm
  repeat' (with_reducible
    first
    | assumption | apply State.setSec_keeps | (intro _) | exact rfl | apply Keeps.fields)

theorem State.spdmSay_keeps {σ : State} {s : State} (name : String) (t : Nat) (args : List Nat) (data : List Byte)
    (hs : Keeps σ s) :
    Keeps σ (State.spdmSay s name t args data) := by
  unfold State.spdmSay
  repeat' (with_reducible
    first
    | assumption | apply State.bump_keeps | apply State.emit_keeps | (intro _) | exact rfl | apply Keeps.fields)

theorem State.spdmError_keeps {σ : State} {s : State} (t : Nat) (why : String) (hs : Keeps σ s) :
    Keeps σ (State.spdmError s t why) := by
  unfold State.spdmError
  repeat' (with_reducible
    first
    | assumption | apply State.spdmSay_keeps | (intro _) | exact rfl | apply Keeps.fields)

theorem State.onSpdm_keeps {σ : State} {s : State} (t : Nat) (f : State → State) (hf : ∀ (a0 : State), Keeps σ a0 → Keeps σ
    (f a0)) (hs : Keeps σ s) :
    Keeps σ (State.onSpdm s t f) := by
  unfold State.onSpdm
  repeat' (with_reducible
    first
    | assumption | apply hf | apply State.spdmError_keeps | split | (intro _) | exact rfl | apply Keeps.fields)

theorem execGetVersion_keeps {σ : State} {s : State} (t : Nat) (hs : Keeps σ s) : KeepsNext σ (execGetVersion t s) := by
  unfold execGetVersion
  repeat' (with_reducible
    first
    | assumption | apply State.when_keeps | apply State.updSpdm_keeps | apply State.spdmSay_keeps | apply KeepsNext.next
    | (intro _) | exact rfl | apply Keeps.fields)

theorem execGetCapabilities_keeps {σ : State} {s : State} (t version : Nat) (hs : Keeps σ s) :
    KeepsNext σ (execGetCapabilities t version s) := by
  unfold execGetCapabilities
  repeat' (with_reducible
    first
    | assumption | apply State.when_keeps | apply State.spdmError_keeps | apply State.updSpdm_keeps | apply State.spdmSay_keeps
    | apply KeepsNext.next | split | (intro _) | exact rfl | apply Keeps.fields)

theorem execNegotiateAlgorithms_keeps {σ : State} {s : State} (t : Nat) (offers : List Bool) (hs : Keeps σ s) :
    KeepsNext σ (execNegotiateAlgorithms t offers s) := by
  unfold execNegotiateAlgorithms
  repeat' (with_reducible
    first
    | assumption | apply State.when_keeps | apply State.spdmError_keeps | apply State.updSpdm_keeps | apply State.spdmSay_keeps
    | apply KeepsNext.next | split | (intro _) | exact rfl | apply Keeps.fields)

theorem execGetDigests_keeps {σ : State} {s : State} (t slot : Nat) (hs : Keeps σ s) :
    KeepsNext σ (execGetDigests t slot s) := by
  unfold execGetDigests
  repeat' (with_reducible
    first
    | assumption | apply State.onSpdm_keeps | apply State.spdmError_keeps | apply State.spdmSay_keeps | apply KeepsNext.next
    | split | (intro _) | exact rfl | apply Keeps.fields)

theorem execGetCertificate_keeps {σ : State} {s : State} (t slot off len : Nat) (hs : Keeps σ s) :
    KeepsNext σ (execGetCertificate t slot off len s) := by
  unfold execGetCertificate
  repeat' (with_reducible
    first
    | assumption | apply State.onSpdm_keeps | apply State.spdmError_keeps | apply State.spdmSay_keeps | apply KeepsNext.next
    | extract_lets | split | (intro _) | exact rfl | apply Keeps.fields)

theorem State.signed_keeps {σ : State} {s : State} (hs : Keeps σ s) : Keeps σ (State.signed s).2 := by
  unfold State.signed
  repeat' (with_reducible
    first
    | assumption | apply State.drawBytes_keeps | (intro _) | exact rfl | apply Keeps.fields)

theorem execChallenge_keeps {σ : State} {s : State} (t slot : Nat) (hs : Keeps σ s) : KeepsNext σ (execChallenge t slot s) := by
  unfold execChallenge
  repeat' (with_reducible
    first
    | assumption | apply State.onSpdm_keeps | apply State.spdmError_keeps | apply State.signed_keeps | apply State.spdmSay_keeps
    | apply KeepsNext.next | extract_lets | split | (intro _) | (apply Keeps.fst_of; assumption)
    | (apply Keeps.snd_of; assumption) | (apply Keeps.some_of; assumption) | exact rfl | apply Keeps.fields)

theorem execGetMeasurements_keeps {σ : State} {s : State} (t index : Nat) (signed : Bool) (hs : Keeps σ s) :
    KeepsNext σ (execGetMeasurements t index signed s) := by
  unfold execGetMeasurements
  repeat' (with_reducible
    first
    | assumption | apply State.onSpdm_keeps | apply State.spdmError_keeps | apply State.signed_keeps | apply State.spdmSay_keeps
    | apply KeepsNext.next | extract_lets | split | (intro _) | (apply Keeps.fst_of; assumption)
    | (apply Keeps.snd_of; assumption) | (apply Keeps.some_of; assumption) | exact rfl | apply Keeps.fields)

theorem execKeyExchange_keeps {σ : State} {s : State} (t slot reqId : Nat) (hs : Keeps σ s) :
    KeepsNext σ (execKeyExchange t slot reqId s) := by
  unfold execKeyExchange
  repeat' (with_reducible
    first
    | assumption | apply State.onSpdm_keeps | apply State.spdmError_keeps | apply State.signed_keeps | apply State.updSpdm_keeps
    | apply State.spdmSay_keeps | apply KeepsNext.next | extract_lets | split | (intro _) | (apply Keeps.fst_of; assumption)
    | (apply Keeps.snd_of; assumption) | (apply Keeps.some_of; assumption) | exact rfl | apply Keeps.fields)

theorem State.onSession_keeps {σ : State} {s : State} (t id : Nat) (established : Bool) (f : State → State) (hf : ∀
    (a0 : State), Keeps σ a0 → Keeps σ (f a0)) (hs : Keeps σ s) :
    Keeps σ (State.onSession s t id established f) := by
  unfold State.onSession
  repeat' (with_reducible
    first
    | assumption | apply hf | apply State.onSpdm_keeps | apply State.spdmError_keeps | split | (intro _) | exact rfl
    | apply Keeps.fields)

theorem State.updSession_keeps {σ : State} {s : State} (t id : Nat) (f : SpdmSession → SpdmSession) (hs : Keeps σ s) :
    Keeps σ (State.updSession s t id f) := by
  unfold State.updSession
  repeat' (with_reducible
    first
    | assumption | apply State.updSpdm_keeps | split | (intro _) | exact rfl | apply Keeps.fields)

theorem execFinish_keeps {σ : State} {s : State} (t session : Nat) (hs : Keeps σ s) : KeepsNext σ (execFinish t session s) := by
  unfold execFinish
  repeat' (with_reducible
    first
    | assumption | apply State.onSession_keeps | apply State.updSession_keeps | apply State.spdmSay_keeps | apply KeepsNext.next
    | (intro _) | exact rfl | apply Keeps.fields)

theorem execEndSession_keeps {σ : State} {s : State} (t session : Nat) (hs : Keeps σ s) :
    KeepsNext σ (execEndSession t session s) := by
  unfold execEndSession
  repeat' (with_reducible
    first
    | assumption | apply State.onSession_keeps | apply State.updSpdm_keeps | apply State.spdmSay_keeps | apply KeepsNext.next
    | (intro _) | exact rfl | apply Keeps.fields)

theorem execKeyUpdate_keeps {σ : State} {s : State} (t session : Nat) (hs : Keeps σ s) :
    KeepsNext σ (execKeyUpdate t session s) := by
  unfold execKeyUpdate
  repeat' (with_reducible
    first
    | assumption | apply State.onSession_keeps | apply State.updSession_keeps | apply State.spdmSay_keeps | apply KeepsNext.next
    | (intro _) | exact rfl | apply Keeps.fields)

theorem execDoeDiscovery_keeps {σ : State} {s : State} (ld index : Nat) (hs : Keeps σ s) :
    KeepsNext σ (execDoeDiscovery ld index s) := by
  unfold execDoeDiscovery
  repeat' (with_reducible
    first
    | assumption | apply State.when_keeps | apply State.emit_keeps | apply KeepsNext.next | extract_lets | (intro _) | exact rfl
    | apply Keeps.fields)

theorem execCdatRead_keeps {σ : State} {s : State} (ld : Nat) (hs : Keeps σ s) : KeepsNext σ (execCdatRead ld s) := by
  unfold execCdatRead
  repeat' (with_reducible
    first
    | assumption | apply State.when_keeps | apply State.emit_keeps | apply KeepsNext.next | (intro _) | exact rfl
    | apply Keeps.fields)

theorem State.ideStart_keeps {σ : State} {s : State} (p : Nat) (io skid : Bool) (hs : Keeps σ s) :
    Keeps σ (State.ideStart s p io skid) := by
  unfold State.ideStart
  repeat' (with_reducible
    first
    | assumption | apply State.updPort_keeps | split | (intro _) | exact rfl | apply Keeps.fields)

theorem execIdeKm_keeps {σ : State} {s : State} (ld session : Nat) (step : IdeStep) (io : Bool) (hs : Keeps σ s) :
    KeepsNext σ (execIdeKm ld session step io s) := by
  unfold execIdeKm
  repeat' (with_reducible
    first
    | assumption | apply State.when_keeps | apply State.onSession_keeps | apply State.updPort_keeps | apply State.ideStart_keeps
    | apply State.spdmSay_keeps | apply State.hostGo_keeps | apply KeepsNext.next | extract_lets | split | (intro _)
    | (apply Keeps.fst_of; assumption) | (apply Keeps.snd_of; assumption) | (apply Keeps.some_of; assumption) | exact rfl
    | apply Keeps.fields)

end Sys2Proof.Machine
end

