-- ==== Sys2Proof/Laws/KeepsReset.lean ====
section
/-! SUPPORT. Every operation of Machine/Reset.lean keeps what `Keeps` says. -/
namespace Sys2Proof.Machine

theorem State.resetInner_keeps {σ : State} {s : State} (p : Page) (hs : Keeps σ s) : Keeps σ (State.resetInner s p) := by
  unfold State.resetInner
  repeat' (with_reducible
    first
    | assumption | apply State.setTim_keeps | apply State.setPln_keeps | apply State.updCh_keeps | apply State.syncRerank_keeps
    | apply State.setCmp_keeps | apply State.setMbx_keeps | apply State.setSec_keeps | apply State.accountThrot_keeps
    | apply State.setPsq_keeps | split | (intro _) | (apply Keeps.fst_of; assumption) | (apply Keeps.snd_of; assumption)
    | (apply Keeps.some_of; assumption) | exact rfl | apply Keeps.fields)

theorem State.resetWork_keeps {σ : State} {s : State} (p : Page) (hs : Keeps σ s) : Keeps σ (State.resetWork s p) := by
  unfold State.resetWork
  repeat' (with_reducible
    first
    | assumption | apply State.resetInner_keeps | apply State.each_keeps | apply State.wrAt_keeps | (intro _) | exact rfl
    | apply Keeps.fields)

theorem State.readyAgain_keeps {σ : State} {s : State} (p : Page) (hs : Keeps σ s) : Keeps σ (State.readyAgain s p) := by
  unfold State.readyAgain
  repeat' (with_reducible
    first
    | assumption | apply State.laterMoves_keeps | apply State.kickMoves_keeps | apply State.kwpResume_keeps
    | apply State.cmpLater_keeps | split | (intro _) | (apply Keeps.fst_of; assumption) | (apply Keeps.snd_of; assumption)
    | (apply Keeps.some_of; assumption) | exact rfl | apply Keeps.fields)

theorem State.mayReady_keeps {σ : State} {s : State} (p : Page) (f : State → State) (hf : ∀
    (a0 : State), Keeps σ a0 → Keeps σ (f a0)) (hs : Keeps σ s) :
    Keeps σ (State.mayReady s p f) := by
  unfold State.mayReady
  repeat' (with_reducible
    first
    | assumption | apply hf | apply State.readyAgain_keeps | split | (intro _) | exact rfl | apply Keeps.fields)

theorem execQuiesce_keeps {σ : State} {s : State} (rq : Requester) (p : Page) (on : Bool) (hs : Keeps σ s) :
    KeepsNext σ (execQuiesce rq p on s) := by
  unfold execQuiesce
  repeat' (with_reducible
    first
    | assumption | apply State.withWrite_keeps | apply State.mayReady_keeps | apply State.setQuiesce_keeps
    | apply KeepsNext.next | split | (intro _) | exact rfl | apply Keeps.fields)

theorem execBlockInitDone_keeps {σ : State} {s : State} (p : Page) (hs : Keeps σ s) : KeepsNext σ (execBlockInitDone p s) := by
  unfold execBlockInitDone
  repeat' (with_reducible
    first
    | assumption | apply State.mayReady_keeps | apply State.initDone_keeps | apply KeepsNext.next | (intro _) | exact rfl
    | apply Keeps.fields)

theorem State.resetBlock_keeps {σ : State} {s : State} (p : Page) (clearQuiesce : Bool) (hs : Keeps σ s) :
    Keeps σ (State.resetBlock s p clearQuiesce) := by
  unfold State.resetBlock
  repeat' (with_reducible
    first
    | assumption | apply State.resetWork_keeps | apply State.logIgnored_keeps | apply State.when_keeps
    | apply State.mayReady_keeps | apply State.setQuiesce_keeps | extract_lets | split | (intro _) | exact rfl
    | apply Keeps.fields)

theorem execResetBlock_keeps {σ : State} {s : State} (rq : Requester) (p : Page) (clearQuiesce : Bool) (hs : Keeps σ s) :
    KeepsNext σ (execResetBlock rq p clearQuiesce s) := by
  unfold execResetBlock
  repeat' (with_reducible
    first
    | assumption | apply State.withWrite_keeps | apply State.resetBlock_keeps | apply KeepsNext.next | split | (intro _)
    | exact rfl | apply Keeps.fields)

end Sys2Proof.Machine
end

