-- ==== Sys2Proof/Laws/KeepsRecover.lean ====
section
/-! SUPPORT. Every operation of Machine/Recover.lean keeps what `Keeps` says. -/
namespace Sys2Proof.Machine

theorem State.setRas_keeps {σ : State} {s : State} (f : Ras → Ras) (hs : Keeps σ s) : Keeps σ (State.setRas s f) := by
  unfold State.setRas
  repeat' (with_reducible
    first
    | assumption | (intro _) | exact rfl | apply Keeps.fields)

theorem State.updRas_keeps {σ : State} {s : State} (c : Nat) (f : RasCh → RasCh) (hs : Keeps σ s) :
    Keeps σ (State.updRas s c f) := by
  unfold State.updRas
  repeat' (with_reducible
    first
    | assumption | apply State.setRas_keeps | (intro _) | exact rfl | apply Keeps.fields)

theorem State.countCe_keeps {σ : State} {s : State} (c : Nat) (hs : Keeps σ s) : Keeps σ (State.countCe s c) := by
  unfold State.countCe
  repeat' (with_reducible
    first
    | assumption | apply State.updRas_keeps | apply State.when_keeps | apply State.evtPriv_keeps | extract_lets | (intro _)
    | exact rfl | apply Keeps.fields)

theorem State.countImageCe_keeps {σ : State} {s : State} (source a : Nat) (hs : Keeps σ s) :
    Keeps σ (State.countImageCe s source a) := by
  unfold State.countImageCe
  repeat' (with_reducible
    first
    | assumption | apply State.each_keeps | apply State.bump_keeps | (intro _) | exact rfl | apply Keeps.fields)

theorem State.corrected_keeps {σ : State} {s : State} (p : Page) (source addr detail : Nat) (hs : Keeps σ s) :
    Keeps σ (State.corrected s p source addr detail) := by
  unfold State.corrected
  repeat' (with_reducible
    first
    | assumption | apply State.logErr_keeps | apply State.bump_keeps | apply State.countImageCe_keeps | apply State.when_keeps
    | apply State.countCe_keeps | split | (intro _) | exact rfl | apply Keeps.fields)

theorem execCorrectedError_keeps {σ : State} {s : State} (p : Page) (source addr detail : Nat) (hs : Keeps σ s) :
    KeepsNext σ (execCorrectedError p source addr detail s) := by
  unfold execCorrectedError
  repeat' (with_reducible
    first
    | assumption | apply State.when_keeps | apply State.corrected_keeps | apply KeepsNext.next | (intro _) | exact rfl
    | apply Keeps.fields)

theorem State.discardRunning_keeps {σ : State} {s : State} (c : Nat) (hs : Keeps σ s) : Keeps σ (State.discardRunning s c) := by
  unfold State.discardRunning
  repeat' (with_reducible
    first
    | assumption | apply State.accrue_keeps | apply State.each_keeps | apply State.when_keeps | apply State.accountEngine_keeps
    | apply State.freeEngine_keeps | apply State.updJsc_keeps | apply State.withdrawFaults_keeps | apply State.updCh_keeps
    | apply State.setCmp_keeps | extract_lets | (intro _) | exact rfl | apply Keeps.fields)

theorem State.abandonAll_keeps {σ : State} {s : State} (c cause : Nat) (hs : Keeps σ s) :
    Keeps σ (State.abandonAll s c cause) := by
  unfold State.abandonAll
  repeat' (with_reducible
    first
    | assumption | apply State.each_keeps | apply State.abandon_keeps | (intro _) | exact rfl | apply Keeps.fields)

theorem State.chanBlkState_keeps {σ : State} {s : State} (c : Nat) (st : BlkState) (hs : Keeps σ s) :
    Keeps σ (State.chanBlkState s c st) := by
  unfold State.chanBlkState
  repeat' (with_reducible
    first
    | assumption | apply State.each_keeps | apply State.updBlk_keeps | split | (intro _) | exact rfl | apply Keeps.fields)

theorem State.chanBlksBack_keeps {σ : State} {s : State} (c : Nat) (hs : Keeps σ s) : Keeps σ (State.chanBlksBack s c) := by
  unfold State.chanBlksBack
  repeat' (with_reducible
    first
    | assumption | apply State.each_keeps | apply State.updBlk_keeps | apply State.readyAgain_keeps | split | (intro _)
    | exact rfl | apply Keeps.fields)

theorem State.giveSlot__keeps {σ : State} {s : State} (c : Nat) (hs : Keeps σ s) : Keeps σ (State.giveSlot_ s c) := by
  unfold State.giveSlot_
  repeat' (with_reducible
    first
    | assumption | apply State.setRas_keeps | split | (intro _) | exact rfl | apply Keeps.fields)

theorem State.dropSlot_keeps {σ : State} {s : State} (c : Nat) (hs : Keeps σ s) : Keeps σ (State.dropSlot s c) := by
  unfold State.dropSlot
  repeat' (with_reducible
    first
    | assumption | apply State.setRas_keeps | split | (intro _) | exact rfl | apply Keeps.fields)

theorem State.recover_keeps {σ : State} {s : State} (c : Nat) (waited : Bool) (hs : Keeps σ s) :
    Keeps σ (State.recover s c waited) := by
  unfold State.recover
  repeat' (with_reducible
    first
    | assumption | apply State.giveSlot__keeps | apply State.updRas_keeps | apply State.chanBlkState_keeps | (intro _)
    | exact rfl | apply Keeps.fields)

theorem State.nextWaiting_keeps {σ : State} {s : State} (hs : Keeps σ s) : Keeps σ (State.nextWaiting s) := by
  unfold State.nextWaiting
  repeat' (with_reducible
    first
    | assumption | apply State.recover_keeps | split | (intro _) | (apply Keeps.fst_of; assumption)
    | (apply Keeps.snd_of; assumption) | (apply Keeps.some_of; assumption) | exact rfl | apply Keeps.fields)

theorem State.endLanes_keeps {σ : State} {s : State} (c : Nat) (hs : Keeps σ s) : Keeps σ (State.endLanes s c) := by
  unfold State.endLanes
  repeat' (with_reducible
    first
    | assumption | apply State.updJsc_keeps | apply State.each_keeps | apply State.complete_keeps | extract_lets | (intro _)
    | exact rfl | apply Keeps.fields)

theorem State.endPend_keeps {σ : State} {s : State} (c : Nat) (hs : Keeps σ s) : Keeps σ (State.endPend s c) := by
  unfold State.endPend
  repeat' (with_reducible
    first
    | assumption | apply State.updRqt_keeps | apply State.updJsc_keeps | apply State.each_keeps | apply State.cancel_keeps
    | apply State.applyCancel_keeps | apply State.complete_keeps | extract_lets | split | (intro _)
    | (apply Keeps.fst_of; assumption) | (apply Keeps.snd_of; assumption) | (apply Keeps.some_of; assumption) | exact rfl
    | apply Keeps.fields)

theorem State.loseAll_keeps {σ : State} {s : State} (c : Nat) (hs : Keeps σ s) : Keeps σ (State.loseAll s c) := by
  unfold State.loseAll
  repeat' (with_reducible
    first
    | assumption | apply State.each_keeps | apply State.lose_keeps | (intro _) | exact rfl | apply Keeps.fields)

theorem State.endDiscarded_keeps {σ : State} {s : State} (c status : Nat) (hs : Keeps σ s) :
    Keeps σ (State.endDiscarded s c status) := by
  unfold State.endDiscarded
  repeat' (with_reducible
    first
    | assumption | apply State.updJsc_keeps | apply State.each_keeps | apply State.complete_keeps | extract_lets | (intro _)
    | exact rfl | apply Keeps.fields)

theorem State.quarantine_keeps {σ : State} {s : State} (c cause : Nat) (svc : ChService) (hs : Keeps σ s) :
    Keeps σ (State.quarantine s c cause svc) := by
  unfold State.quarantine
  repeat' (with_reducible
    first
    | assumption | apply State.discardRunning_keeps | apply State.chanBlkState_keeps | apply State.updRas_keeps
    | apply State.rerouteFrom_keeps | apply State.loseAll_keeps | apply State.endDiscarded_keeps | apply State.endLanes_keeps
    | apply State.endPend_keeps | apply State.failMovesOf_keeps | apply State.dropSlot_keeps | apply State.bump_keeps
    | apply State.evtPriv_keeps | extract_lets | (intro _) | exact rfl | apply Keeps.fields)

theorem State.kwpError_keeps {σ : State} {s : State} (c unit job det : Nat) (hs : Keeps σ s) :
    Keeps σ (State.kwpError s c unit job det) := by
  unfold State.kwpError
  repeat' (with_reducible
    first
    | assumption | apply State.evt_keeps | apply State.postPriv_keeps | (intro _) | exact rfl | apply Keeps.fields)

theorem State.chFatal_keeps {σ : State} {s : State} (x : ChFault) (hs : Keeps σ s) : Keeps σ (State.chFatal s x) := by
  unfold State.chFatal
  repeat' (with_reducible
    first
    | assumption | apply State.logErr_keeps | apply State.when_keeps | apply State.closeWin_keeps | apply State.kwpError_keeps
    | apply State.bump_keeps | apply State.updRas_keeps | apply State.evtPriv_keeps | apply State.quarantine_keeps
    | apply State.abandonAll_keeps | apply State.discardRunning_keeps | apply State.recover_keeps
    | apply State.rerouteFrom_keeps | extract_lets | split | (intro _) | (apply Keeps.fst_of; assumption)
    | (apply Keeps.snd_of; assumption) | (apply Keeps.some_of; assumption) | exact rfl | apply Keeps.fields)

theorem State.chFatals_keeps {σ : State} {s : State} (l : List ChFault) (hs : Keeps σ s) : Keeps σ (State.chFatals s l) := by
  unfold State.chFatals
  repeat' (with_reducible
    first
    | assumption | apply State.each_keeps | apply State.chFatal_keeps | apply State.nextWaiting_keeps | extract_lets | (intro _)
    | exact rfl | apply Keeps.fields)

theorem execChannelFatalFault_keeps {σ : State} {s : State} (faults : List ChFault) (hs : Keeps σ s) :
    KeepsNext σ (execChannelFatalFault faults s) := by
  unfold execChannelFatalFault
  repeat' (with_reducible
    first
    | assumption | apply State.chFatals_keeps | apply KeepsNext.next | (intro _) | exact rfl | apply Keeps.fields)

theorem State.startChecks_keeps {σ : State} {s : State} (hs : Keeps σ s) : Keeps σ (State.startChecks s) := by
  unfold State.startChecks
  repeat' (with_reducible
    first
    | assumption | apply State.each_keeps | apply State.updRas_keeps | apply State.resetWork_keeps | (intro _) | exact rfl
    | apply Keeps.fields)

theorem execChannelCheckDone_keeps {σ : State} {s : State} (c : Nat) (result : CheckResult) (hs : Keeps σ s) :
    KeepsNext σ (execChannelCheckDone c result s) := by
  unfold execChannelCheckDone
  repeat' (with_reducible
    first
    | assumption | apply State.when_keeps | apply State.updRas_keeps | apply State.each_keeps | apply State.failColumn_keeps
    | apply State.quarantine_keeps | apply State.nextWaiting_keeps | apply KeepsNext.next | split | (intro _)
    | (apply Keeps.fst_of; assumption) | (apply Keeps.snd_of; assumption) | (apply Keeps.some_of; assumption) | exact rfl
    | apply Keeps.fields)

theorem State.scrubRetired_keeps {σ : State} {s : State} (c : Nat) (hs : Keeps σ s) : Keeps σ (State.scrubRetired s c).1 := by
  unfold State.scrubRetired
  repeat' (with_reducible
    first
    | assumption | apply State.drawBool_keeps | apply foldl_keeps | apply foldl_fst_keeps | extract_lets | split | (intro _)
    | (apply Keeps.fst_of; assumption) | (apply Keeps.snd_of; assumption) | (apply Keeps.some_of; assumption) | exact rfl
    | apply Keeps.fields)

theorem State.rebuildPool_keeps {σ : State} {s : State} (c : Nat) (hs : Keeps σ s) : Keeps σ (State.rebuildPool s c) := by
  unfold State.rebuildPool
  repeat' (with_reducible
    first
    | assumption | apply State.scrubRetired_keeps | apply State.updPgm_keeps | apply State.pgmLayout_keeps
    | apply State.wr_keeps | apply State.updVse_keeps | apply State.each_keeps | apply foldl_keeps | apply foldl_fst_keeps
    | extract_lets | split | (intro _) | (apply Keeps.fst_of; assumption) | (apply Keeps.snd_of; assumption)
    | (apply Keeps.some_of; assumption) | exact rfl | apply Keeps.fields)

theorem State.freeLost_keeps {σ : State} {s : State} (c : Nat) (hs : Keeps σ s) : Keeps σ (State.freeLost s c) := by
  unfold State.freeLost
  repeat' (with_reducible
    first
    | assumption | apply State.each_keeps | apply State.updReq_keeps | (intro _) | exact rfl | apply Keeps.fields)

theorem State.returnCh_keeps {σ : State} {s : State} (c : Nat) (hs : Keeps σ s) : Keeps σ (State.returnCh s c) := by
  unfold State.returnCh
  repeat' (with_reducible
    first
    | assumption | apply State.when_keeps | apply State.freeLost_keeps | apply State.rebuildPool_keeps
    | apply State.chanBlksBack_keeps | apply State.updCore_keeps | apply State.updRas_keeps | apply State.dropSlot_keeps
    | apply State.endDiscarded_keeps | apply State.bump_keeps | apply State.evtPriv_keeps | extract_lets | split | (intro _)
    | exact rfl | apply Keeps.fields)

theorem State.dawnRecovery_keeps {σ : State} {s : State} (hs : Keeps σ s) : Keeps σ (State.dawnRecovery s) := by
  unfold State.dawnRecovery
  repeat' (with_reducible
    first
    | assumption | apply State.each_keeps | apply State.returnCh_keeps | apply State.updRas_keeps | apply State.quarantine_keeps
    | apply State.nextWaiting_keeps | extract_lets | split | (intro _) | exact rfl | apply Keeps.fields)

theorem State.deviceFatal_keeps {σ : State} {s : State} (p : Page) (source addr detail : Nat) (hs : Keeps σ s) :
    Keeps σ (State.deviceFatal s p source addr detail) := by
  unfold State.deviceFatal
  repeat' (with_reducible
    first
    | assumption | apply State.logErr_keeps | apply State.setRas_keeps | apply State.evtPriv_keeps | apply State.each_keeps
    | apply State.discardRunning_keeps | apply State.when_keeps | apply State.updPort_keeps | apply State.evt_keeps
    | apply State.alertEdge_keeps | apply State.emit_keeps | extract_lets | split | (intro _) | exact rfl | apply Keeps.fields)

theorem execDeviceFatalFault_keeps {σ : State} {s : State} (p : Page) (source addr detail : Nat) (hs : Keeps σ s) :
    KeepsNext σ (execDeviceFatalFault p source addr detail s) := by
  unfold execDeviceFatalFault
  repeat' (with_reducible
    first
    | assumption | apply State.when_keeps | apply State.deviceFatal_keeps | apply KeepsNext.next | (intro _) | exact rfl
    | apply Keeps.fields)

end Sys2Proof.Machine
end

