-- ==== Sys2Proof/Laws/KeepsFabric.lean ====
section
/-! SUPPORT. Every operation of Machine/Fabric.lean keeps what `Keeps` says. -/
namespace Sys2Proof.Machine

theorem execSolrovModeEnter_keeps {σ : State} {s : State} (rq : Requester) (c : Nat) (v : Word) (hs : Keeps σ s) :
    KeepsNext σ (execSolrovModeEnter rq c v s) := by
  unfold execSolrovModeEnter
  repeat' (with_reducible
    first
    | assumption | apply State.onWrite_keeps | apply State.store_keeps | apply State.syncSolrov_keeps | apply KeepsNext.next
    | (intro _) | exact rfl | apply Keeps.fields)

theorem execFlit_keeps {σ : State} {s : State} (c : Nat) (data : List Byte) (hs : Keeps σ s) :
    KeepsNext σ (execFlit c data s) := by
  unfold execFlit
  repeat' (with_reducible
    first
    | assumption | apply State.rxFlit_keeps | apply KeepsNext.next | (intro _) | exact rfl | apply Keeps.fields)

theorem execReplayReq_keeps {σ : State} {s : State} (c : Nat) (data : List Byte) (hs : Keeps σ s) :
    KeepsNext σ (execReplayReq c data s) := by
  unfold execReplayReq
  repeat' (with_reducible
    first
    | assumption | apply State.badFlit_keeps | apply State.when_keeps | apply State.fecCorrected_keeps
    | apply State.gotReplayReq_keeps | apply KeepsNext.next | extract_lets | split | (intro _)
    | (apply Keeps.fst_of; assumption) | (apply Keeps.snd_of; assumption) | (apply Keeps.some_of; assumption) | exact rfl
    | apply Keeps.fields)

theorem execSolrovLink_keeps {σ : State} {s : State} (c : Nat) (up : Bool) (hs : Keeps σ s) :
    KeepsNext σ (execSolrovLink c up s) := by
  unfold execSolrovLink
  repeat' (with_reducible
    first
    | assumption | apply State.updLink_keeps | apply State.evtPriv_keeps | apply State.replayFlits_keeps
    | apply State.pumpLink_keeps | apply KeepsNext.next | split | (intro _) | exact rfl | apply Keeps.fields)

theorem State.onMsg_keeps {σ : State} {s : State} (c mtype : Nat) (f : State → SMsg → State) (hf : ∀ (a0 : State)
    (a1 : SMsg), Keeps σ a0 → Keeps σ (f a0 a1)) (hs : Keeps σ s) :
    Keeps σ (State.onMsg s c mtype f) := by
  unfold State.onMsg
  repeat' (with_reducible
    first
    | assumption | apply hf | apply State.takeMsg_keeps | split | (intro _) | (apply Keeps.fst_of; assumption)
    | (apply Keeps.snd_of; assumption) | (apply Keeps.some_of; assumption) | exact rfl | apply Keeps.fields)

theorem State.targetAccess_keeps {σ : State} {s : State} (c right : Nat) (m : SMsg) (hs : Keeps σ s) :
    Keeps σ (State.targetAccess s c right m) := by
  unfold State.targetAccess
  repeat' (with_reducible
    first
    | assumption | apply State.refuseRack_keeps | apply State.homeServe_keeps | split | (intro _)
    | (apply Keeps.fst_of; assumption) | (apply Keeps.snd_of; assumption) | (apply Keeps.some_of; assumption) | exact rfl
    | apply Keeps.fields)

theorem State.accessRow_keeps {σ : State} {s : State} (c mtype right : Nat) (hs : Keeps σ s) :
    Keeps σ (State.accessRow s c mtype right) := by
  unfold State.accessRow
  repeat' (with_reducible
    first
    | assumption | apply State.when_keeps | apply State.touch_keeps | apply State.afterSnoops_keeps | apply State.onMsg_keeps
    | apply State.targetAccess_keeps | extract_lets | split | (intro _) | (apply Keeps.fst_of; assumption)
    | (apply Keeps.snd_of; assumption) | (apply Keeps.some_of; assumption) | exact rfl | apply Keeps.fields)

theorem execLoad_keeps {σ : State} {s : State} (c : Nat) (hs : Keeps σ s) : KeepsNext σ (execLoad c s) := by
  unfold execLoad
  repeat' (with_reducible
    first
    | assumption | apply State.accessRow_keeps | apply KeepsNext.next | (intro _) | exact rfl | apply Keeps.fields)

theorem execStore_keeps {σ : State} {s : State} (c : Nat) (hs : Keeps σ s) : KeepsNext σ (execStore c s) := by
  unfold execStore
  repeat' (with_reducible
    first
    | assumption | apply State.accessRow_keeps | apply KeepsNext.next | (intro _) | exact rfl | apply Keeps.fields)

theorem execRackAtomic_keeps {σ : State} {s : State} (c : Nat) (hs : Keeps σ s) : KeepsNext σ (execRackAtomic c s) := by
  unfold execRackAtomic
  repeat' (with_reducible
    first
    | assumption | apply State.accessRow_keeps | apply KeepsNext.next | (intro _) | exact rfl | apply Keeps.fields)

theorem execNmo_keeps {σ : State} {s : State} (c : Nat) (hs : Keeps σ s) : KeepsNext σ (execNmo c s) := by
  unfold execNmo
  repeat' (with_reducible
    first
    | assumption | apply State.when_keeps | apply State.onMsg_keeps | apply State.nmoArrives_keeps | apply KeepsNext.next
    | (intro _) | exact rfl | apply Keeps.fields)

theorem execNmoStart_keeps {σ : State} {s : State} (c : Nat) (hs : Keeps σ s) : KeepsNext σ (execNmoStart c s) := by
  unfold execNmoStart
  repeat' (with_reducible
    first
    | assumption | apply State.nmoNext_keeps | apply KeepsNext.next | (intro _) | exact rfl | apply Keeps.fields)

theorem execNmoDone_keeps {σ : State} {s : State} (c k : Nat) (hs : Keeps σ s) : KeepsNext σ (execNmoDone c k s) := by
  unfold execNmoDone
  repeat' (with_reducible
    first
    | assumption | apply State.afterSnoops_keeps | apply State.nmoEnd_keeps | apply KeepsNext.next | split | (intro _)
    | (apply Keeps.fst_of; assumption) | (apply Keeps.snd_of; assumption) | (apply Keeps.some_of; assumption) | exact rfl
    | apply Keeps.fields)

theorem State.msgArrives_keeps {σ : State} {s : State} (c : Nat) (m : SMsg) (hs : Keeps σ s) :
    Keeps σ (State.msgArrives s c m) := by
  unfold State.msgArrives
  repeat' (with_reducible
    first
    | assumption | apply State.sendNak_keeps | apply State.vwrite_keeps | apply State.wr_keeps | apply State.replyTo_keeps
    | extract_lets | split | (intro _) | exact rfl | apply Keeps.fields)

theorem execMsg_keeps {σ : State} {s : State} (c : Nat) (hs : Keeps σ s) : KeepsNext σ (execMsg c s) := by
  unfold execMsg
  repeat' (with_reducible
    first
    | assumption | apply State.when_keeps | apply State.onMsg_keeps | apply State.msgArrives_keeps | apply KeepsNext.next
    | (intro _) | exact rfl | apply Keeps.fields)

theorem State.xrInPut_keeps {σ : State} {s : State} (c r : Nat) (bs : List Byte) (hs : Keeps σ s) :
    Keeps σ (State.xrInPut s c r bs) := by
  unfold State.xrInPut
  repeat' (with_reducible
    first
    | assumption | apply State.when_keeps | apply State.vwrite_keeps | apply State.wr_keeps | extract_lets | split | (intro _)
    | exact rfl | apply Keeps.fields)

theorem State.recsGo_keeps {σ : State} {s : State} (c : Nat) (hs : Keeps σ s) : Keeps σ (State.recsGo s c) := by
  unfold State.recsGo
  repeat' (with_reducible
    first
    | assumption | apply State.each_keeps | apply State.updSlp_keeps | apply State.devRecord_keeps | apply State.noteHome_keeps
    | apply State.xrInPut_keeps | extract_lets | split | (intro _) | (apply Keeps.fst_of; assumption)
    | (apply Keeps.snd_of; assumption) | (apply Keeps.some_of; assumption) | exact rfl | apply Keeps.fields)

theorem State.addPart_keeps {σ : State} {s : State} (c : Nat) (m : SMsg) (hs : Keeps σ s) : Keeps σ (State.addPart s c m) := by
  unfold State.addPart
  repeat' (with_reducible
    first
    | assumption | apply State.updSlp_keeps | extract_lets | split | (intro _) | exact rfl | apply Keeps.fields)

theorem State.devDropped_keeps {σ : State} {s : State} (c slot : Nat) (hs : Keeps σ s) :
    Keeps σ (State.devDropped s c slot) := by
  unfold State.devDropped
  repeat' (with_reducible
    first
    | assumption | apply State.bump_keeps | apply State.updSlp_keeps | apply State.evtPriv_keeps | extract_lets | split
    | (intro _) | exact rfl | apply Keeps.fields)

theorem execDevMsg_keeps {σ : State} {s : State} (c : Nat) (hs : Keeps σ s) : KeepsNext σ (execDevMsg c s) := by
  unfold execDevMsg
  repeat' (with_reducible
    first
    | assumption | apply State.when_keeps | apply State.onMsg_keeps | apply State.sendNak_keeps | apply State.addPart_keeps
    | apply State.sendMsg_keeps | apply State.recsGo_keeps | apply State.devDropped_keeps | apply KeepsNext.next | split
    | (intro _) | exact rfl | apply Keeps.fields)

theorem State.storeOut_keeps {σ : State} {s : State} (c job : Nat) (m : SMsg) (use : TagUse) (hs : Keeps σ s) :
    Keeps σ (State.storeOut s c job m use).1.1 := by
  unfold State.storeOut
  repeat' (with_reducible
    first
    | assumption | apply State.cacheIssue_keeps | apply State.issue_keeps | extract_lets | split | (intro _) | exact rfl
    | apply Keeps.fields)

theorem State.solEnd_keeps {σ : State} {s : State} (c : Nat) (cmd : Cmd) (st : Nat) (hs : Keeps σ s) :
    Keeps σ (State.solEnd s c cmd st) := by
  unfold State.solEnd
  repeat' (with_reducible
    first
    | assumption | apply State.complete_keeps | (intro _) | exact rfl | apply Keeps.fields)

theorem State.solSent_keeps {σ : State} {x : State × Sent} (c : Nat) (cmd : Cmd) (hs : Keeps σ x.1) :
    Keeps σ (State.solSent x c cmd) := by
  unfold State.solSent
  repeat' (with_reducible
    first
    | assumption | apply State.handOver_keeps | apply State.solEnd_keeps | split | (apply Keeps.fst_of; assumption) | exact rfl
    | apply Keeps.fields)

theorem State.solStore_keeps {σ : State} {s : State} (c : Nat) (cmd : Cmd) (m : SMsg) (hs : Keeps σ s) :
    Keeps σ (State.solStore s c cmd m) := by
  unfold State.solStore
  repeat' (first
    | with_reducible assumption
    | with_reducible exact Keeps.refl _
    | with_reducible apply State.bump_keeps
    | with_reducible apply State.handOver_keeps
    | with_reducible apply State.solEnd_keeps
    | with_reducible apply State.solSent_keeps
    | with_reducible apply State.storeDone_keeps
    | with_reducible apply State.storeOut_keeps
    | with_reducible apply State.updSlp_keeps
    | (with_reducible apply Keeps.fst_fst_of; with_reducible assumption)
    | (with_reducible apply Keeps.fst_at; with_reducible assumption)
    | with_reducible apply KeepsNext.next
    | (with_reducible exact KeepsSome.none)
    | (with_reducible apply KeepsSome.some)
    | (with_reducible apply KeepsSome.bind)
    | (with_reducible apply KeepsSome.map)
    | (extract_lets)
    | split
    | intro _
    | (with_reducible contradiction)
    | (dsimp +zetaDelta only)
    | (with_reducible apply Keeps.fst_of; with_reducible assumption)
    | (with_reducible apply Keeps.snd_of; with_reducible assumption)
    | (with_reducible apply Keeps.some_of; with_reducible assumption)
    | exact rfl
    | with_reducible apply Keeps.fields)

theorem State.withRack_keeps {σ : State} {s : State} (c : Nat) (cmd : Cmd) (va : Nat) (write : Bool)
    (f : State → Nat → State) (hf : ∀ (a0 : State) (a1 : Nat), Keeps σ a0 → Keeps σ (f a0 a1)) (hs : Keeps σ s) :
    Keeps σ (State.withRack s c cmd va write f) := by
  unfold State.withRack
  repeat' (with_reducible
    first
    | assumption | apply hf | apply State.translate_keeps | apply State.faultHolder_keeps | apply State.solEnd_keeps | split
    | (intro _) | (apply Keeps.fst_of; assumption) | (apply Keeps.snd_of; assumption) | (apply Keeps.some_of; assumption)
    | exact rfl | apply Keeps.fields)

theorem State.withRacks_keeps {σ : State} {s : State} (c : Nat) (cmd : Cmd) (va n : Nat) (write : Bool)
    (f : State → Nat → State) (hf : ∀ (a0 : State) (a1 : Nat), Keeps σ a0 → Keeps σ (f a0 a1)) (hs : Keeps σ s) :
    Keeps σ (State.withRacks s c cmd va n write f) := by
  unfold State.withRacks
  repeat' (with_reducible
    first
    | assumption | apply hf | apply State.translateRange_keeps | apply State.faultHolder_keeps | apply State.withRack_keeps
    | apply State.solEnd_keeps | split | (intro _) | (apply Keeps.fst_of; assumption) | (apply Keeps.snd_of; assumption)
    | (apply Keeps.some_of; assumption) | exact rfl | apply Keeps.fields)

theorem State.actStore_keeps {σ : State} {s : State} (c : Nat) (cmd : Cmd) (hs : Keeps σ s) :
    Keeps σ (State.actStore s c cmd) := by
  unfold State.actStore
  repeat' (first
    | with_reducible assumption
    | with_reducible exact Keeps.refl _
    | with_reducible apply State.solEnd_keeps
    | with_reducible apply State.solStore_keeps
    | with_reducible apply State.withRack_keeps
    | with_reducible apply KeepsNext.next
    | (with_reducible exact KeepsSome.none)
    | (with_reducible apply KeepsSome.some)
    | (with_reducible apply KeepsSome.bind)
    | (with_reducible apply KeepsSome.map)
    | (extract_lets)
    | split
    | intro _
    | (with_reducible contradiction)
    | (dsimp +zetaDelta only)
    | (with_reducible apply Keeps.fst_of; with_reducible assumption)
    | (with_reducible apply Keeps.snd_of; with_reducible assumption)
    | (with_reducible apply Keeps.some_of; with_reducible assumption)
    | exact rfl
    | with_reducible apply Keeps.fields)

theorem State.actAtomic_keeps {σ : State} {s : State} (c : Nat) (cmd : Cmd) (hs : Keeps σ s) :
    Keeps σ (State.actAtomic s c cmd) := by
  unfold State.actAtomic
  repeat' (with_reducible
    first
    | assumption | apply State.withRack_keeps | apply State.solEnd_keeps | apply State.solSent_keeps
    | apply State.cacheIssue_keeps | apply State.issue_keeps | extract_lets | split | (intro _) | exact rfl
    | apply Keeps.fields)

theorem State.actNmo_keeps {σ : State} {s : State} (c : Nat) (cmd : Cmd) (hs : Keeps σ s) : Keeps σ (State.actNmo s c cmd) := by
  unfold State.actNmo
  repeat' (with_reducible
    first
    | assumption | apply State.solSent_keeps | apply State.issue_keeps | apply State.withRacks_keeps | extract_lets | split
    | (intro _) | exact rfl | apply Keeps.fields)

theorem State.actMsg_keeps {σ : State} {s : State} (c : Nat) (cmd : Cmd) (hs : Keeps σ s) : Keeps σ (State.actMsg s c cmd) := by
  unfold State.actMsg
  repeat' (with_reducible
    first
    | assumption | apply State.solEnd_keeps | apply State.solSent_keeps | apply State.sendRequest_keeps
    | apply State.takeTag_keeps | apply State.sendUnder_keeps | apply State.handOver_keeps | extract_lets | split | (intro _)
    | (apply Keeps.fst_of; assumption) | (apply Keeps.snd_of; assumption) | (apply Keeps.some_of; assumption) | exact rfl
    | apply Keeps.fields)

theorem State.actFlush_keeps {σ : State} {s : State} (c : Nat) (cmd : Cmd) (hs : Keeps σ s) :
    Keeps σ (State.actFlush s c cmd) := by
  unfold State.actFlush
  repeat' (with_reducible
    first
    | assumption | apply State.solEnd_keeps | apply State.translateRange_keeps | apply State.faultHolder_keeps
    | apply State.handOver_keeps | apply State.updCcx_keeps | apply State.agentGo_keeps | extract_lets | split | (intro _)
    | (apply Keeps.fst_of; assumption) | (apply Keeps.snd_of; assumption) | (apply Keeps.some_of; assumption) | exact rfl
    | apply Keeps.fields)

theorem State.solAct_keeps {σ : State} {s : State} (c : Nat) (cmd : Cmd) (hs : Keeps σ s) : Keeps σ (State.solAct s c cmd) := by
  unfold State.solAct
  repeat' (with_reducible
    first
    | assumption | apply State.updSlp_keeps | apply State.actStore_keeps | apply State.actAtomic_keeps
    | apply State.actNmo_keeps | apply State.actMsg_keeps | apply State.actFlush_keeps | apply State.when_keeps
    | apply State.agentGo_keeps | extract_lets | split | (intro _) | (apply Keeps.fst_of; assumption)
    | (apply Keeps.snd_of; assumption) | (apply Keeps.some_of; assumption) | exact rfl | apply Keeps.fields)

theorem State.onMover_keeps {σ : State} {s : State} (c : Nat) (cmd : Cmd) (hs : Keeps σ s) :
    Keeps σ (State.onMover s c cmd) := by
  unfold State.onMover
  repeat' (with_reducible
    first
    | assumption | apply State.occupy_keeps | apply State.when_keeps | apply State.solAct_keeps | extract_lets | (intro _)
    | exact rfl | apply Keeps.fields)

theorem State.retryHeld_keeps {σ : State} {s : State} (c : Nat) (hs : Keeps σ s) : Keeps σ (State.retryHeld s c) := by
  unfold State.retryHeld
  repeat' (with_reducible
    first
    | assumption | apply State.solAct_keeps | apply State.updSlp_keeps | split | (intro _) | (apply Keeps.fst_of; assumption)
    | (apply Keeps.snd_of; assumption) | (apply Keeps.some_of; assumption) | exact rfl | apply Keeps.fields)

theorem execSolrovStore_keeps {σ : State} {s : State} (c : Nat) (cmd : Cmd) (hs : Keeps σ s) :
    KeepsNext σ (execSolrovStore c cmd s) := by
  unfold execSolrovStore
  repeat' (with_reducible
    first
    | assumption | apply State.onMover_keeps | apply KeepsNext.next | (intro _) | exact rfl | apply Keeps.fields)

theorem execSolrovAtomic_keeps {σ : State} {s : State} (c : Nat) (cmd : Cmd) (hs : Keeps σ s) :
    KeepsNext σ (execSolrovAtomic c cmd s) := by
  unfold execSolrovAtomic
  repeat' (with_reducible
    first
    | assumption | apply State.onMover_keeps | apply KeepsNext.next | (intro _) | exact rfl | apply Keeps.fields)

theorem execSolrovNmo_keeps {σ : State} {s : State} (c : Nat) (cmd : Cmd) (hs : Keeps σ s) :
    KeepsNext σ (execSolrovNmo c cmd s) := by
  unfold execSolrovNmo
  repeat' (with_reducible
    first
    | assumption | apply State.onMover_keeps | apply KeepsNext.next | (intro _) | exact rfl | apply Keeps.fields)

theorem execSolrovMsg_keeps {σ : State} {s : State} (c : Nat) (cmd : Cmd) (hs : Keeps σ s) :
    KeepsNext σ (execSolrovMsg c cmd s) := by
  unfold execSolrovMsg
  repeat' (with_reducible
    first
    | assumption | apply State.onMover_keeps | apply KeepsNext.next | (intro _) | exact rfl | apply Keeps.fields)

theorem execCohFlush_keeps {σ : State} {s : State} (c : Nat) (cmd : Cmd) (hs : Keeps σ s) :
    KeepsNext σ (execCohFlush c cmd s) := by
  unfold execCohFlush
  repeat' (with_reducible
    first
    | assumption | apply State.onMover_keeps | apply KeepsNext.next | (intro _) | exact rfl | apply Keeps.fields)

theorem State.ordNext_keeps {σ : State} {s : State} (c : Nat) (hs : Keeps σ s) :
    Keeps σ (State.ordNext s c) := by
  unfold State.ordNext
  repeat' (first
    | with_reducible assumption
    | with_reducible exact Keeps.refl _
    | with_reducible apply State.answerUse_keeps
    | with_reducible apply State.bump_keeps
    | with_reducible apply State.storeDone_keeps
    | with_reducible apply State.storeOut_keeps
    | with_reducible apply State.updSlp_keeps
    | (with_reducible apply Keeps.fst_fst_of; with_reducible assumption)
    | (with_reducible apply Keeps.fst_at; with_reducible assumption)
    | with_reducible apply KeepsNext.next
    | (with_reducible exact KeepsSome.none)
    | (with_reducible apply KeepsSome.some)
    | (with_reducible apply KeepsSome.bind)
    | (with_reducible apply KeepsSome.map)
    | (extract_lets)
    | split
    | intro _
    | (with_reducible contradiction)
    | (dsimp +zetaDelta only)
    | (with_reducible apply Keeps.fst_of; with_reducible assumption)
    | (with_reducible apply Keeps.snd_of; with_reducible assumption)
    | (with_reducible apply Keeps.some_of; with_reducible assumption)
    | exact rfl
    | with_reducible apply Keeps.fields)

theorem execOrderedStoreSend_keeps {σ : State} (c : Nat) {s : State} (hs : Keeps σ s) :
    KeepsNext σ (execOrderedStoreSend c s) := by
  unfold execOrderedStoreSend
  repeat' (first
    | with_reducible assumption
    | with_reducible exact Keeps.refl _
    | with_reducible apply State.agentGo_keeps
    | with_reducible apply State.ordNext_keeps
    | with_reducible apply State.retryHeld_keeps
    | with_reducible apply State.when_keeps
    | with_reducible apply KeepsNext.next
    | (with_reducible exact KeepsSome.none)
    | (with_reducible apply KeepsSome.some)
    | (with_reducible apply KeepsSome.bind)
    | (with_reducible apply KeepsSome.map)
    | (extract_lets)
    | split
    | intro _
    | (with_reducible contradiction)
    | (dsimp +zetaDelta only)
    | (with_reducible apply Keeps.fst_of; with_reducible assumption)
    | (with_reducible apply Keeps.snd_of; with_reducible assumption)
    | (with_reducible apply Keeps.some_of; with_reducible assumption)
    | exact rfl
    | with_reducible apply Keeps.fields)

theorem State.onRsp_keeps {σ : State} {s : State} (c mtype : Nat) (hs : Keeps σ s) : Keeps σ (State.onRsp s c mtype) := by
  unfold State.onRsp
  repeat' (with_reducible
    first
    | assumption | apply State.onMsg_keeps | apply State.when_keeps | apply State.bump_keeps | apply State.gotResponse_keeps
    | apply State.retryHeld_keeps | apply State.cutOpens_keeps | (intro _) | exact rfl | apply Keeps.fields)

theorem execLoadRsp_keeps {σ : State} {s : State} (c : Nat) (hs : Keeps σ s) : KeepsNext σ (execLoadRsp c s) := by
  unfold execLoadRsp
  repeat' (with_reducible
    first
    | assumption | apply State.onRsp_keeps | apply KeepsNext.next | (intro _) | exact rfl | apply Keeps.fields)

theorem execStoreAck_keeps {σ : State} {s : State} (c : Nat) (hs : Keeps σ s) : KeepsNext σ (execStoreAck c s) := by
  unfold execStoreAck
  repeat' (with_reducible
    first
    | assumption | apply State.onRsp_keeps | apply KeepsNext.next | (intro _) | exact rfl | apply Keeps.fields)

theorem execAtomicRsp_keeps {σ : State} {s : State} (c : Nat) (hs : Keeps σ s) : KeepsNext σ (execAtomicRsp c s) := by
  unfold execAtomicRsp
  repeat' (with_reducible
    first
    | assumption | apply State.onRsp_keeps | apply KeepsNext.next | (intro _) | exact rfl | apply Keeps.fields)

theorem execNmoRsp_keeps {σ : State} {s : State} (c : Nat) (hs : Keeps σ s) : KeepsNext σ (execNmoRsp c s) := by
  unfold execNmoRsp
  repeat' (with_reducible
    first
    | assumption | apply State.onRsp_keeps | apply KeepsNext.next | (intro _) | exact rfl | apply Keeps.fields)

theorem execNak_keeps {σ : State} {s : State} (c : Nat) (hs : Keeps σ s) : KeepsNext σ (execNak c s) := by
  unfold execNak
  repeat' (with_reducible
    first
    | assumption | apply State.onRsp_keeps | apply KeepsNext.next | (intro _) | exact rfl | apply Keeps.fields)

theorem execMsgAck_keeps {σ : State} {s : State} (c : Nat) (hs : Keeps σ s) : KeepsNext σ (execMsgAck c s) := by
  unfold execMsgAck
  repeat' (with_reducible
    first
    | assumption | apply State.onRsp_keeps | apply KeepsNext.next | (intro _) | exact rfl | apply Keeps.fields)

theorem execSolrovStall_keeps {σ : State} {s : State} (c slot : Nat) (hs : Keeps σ s) :
    KeepsNext σ (execSolrovStall c slot s) := by
  unfold execSolrovStall
  repeat' (with_reducible
    first
    | assumption | apply State.reportStall_keeps | apply KeepsNext.next | (intro _) | exact rfl | apply Keeps.fields)

theorem execAbandon_keeps {σ : State} {s : State} (rq : Requester) (c slot : Nat) (all : Bool) (hs : Keeps σ s) :
    KeepsNext σ (execAbandon rq c slot all s) := by
  unfold execAbandon
  repeat' (with_reducible
    first
    | assumption | apply State.onWrite_keeps | apply State.each_keeps | apply State.abandonSlot_keeps
    | apply State.homeGone_keeps | apply State.retryHeld_keeps | apply State.cutOpens_keeps | apply State.losesShards_keeps
    | apply KeepsNext.next | (intro _) | exact rfl | apply Keeps.fields)

theorem execSlpRevive_keeps {σ : State} {s : State} (rq : Requester) (c slot : Nat) (all : Bool) (hs : Keeps σ s) :
    KeepsNext σ (execSlpRevive rq c slot all s) := by
  unfold execSlpRevive
  repeat' (with_reducible
    first
    | assumption | apply State.onWrite_keeps | apply State.each_keeps | apply State.reviveSlot_keeps
    | apply State.logIgnored_keeps | apply KeepsNext.next | split | (intro _) | exact rfl | apply Keeps.fields)

theorem State.coreSent_keeps {σ : State} {x : State × Sent} (core off n : Nat) (hs : Keeps σ x.1) :
    Keeps σ (State.coreSent x core off n) := by
  unfold State.coreSent
  repeat' (with_reducible
    first
    | assumption | apply State.emit_keeps | split | (apply Keeps.fst_of; assumption) | exact rfl | apply Keeps.fields)

theorem State.corePart_keeps {σ : State} {s : State} (c core job addr : Nat) (write : Bool) (data : List Byte)
    (p : Nat × Nat × Bool) (hs : Keeps σ s) :
    Keeps σ (State.corePart s c core job addr write data p) := by
  unfold State.corePart
  repeat' (with_reducible
    first
    | assumption | apply State.coreSent_keeps | apply State.cacheIssue_keeps | apply State.issue_keeps | extract_lets | split
    | (intro _) | exact rfl | apply Keeps.fields)

theorem execControlCoreAccess_keeps {σ : State} {s : State} (c core job addr n : Nat) (write : Bool) (data : List Byte)
    (hs : Keeps σ s) :
    KeepsNext σ (execControlCoreAccess c core job addr n write data s) := by
  unfold execControlCoreAccess
  repeat' (with_reducible
    first
    | assumption | apply State.each_keeps | apply State.corePart_keeps | apply State.when_keeps | apply State.agentGo_keeps
    | apply KeepsNext.next | extract_lets | split | (intro _) | exact rfl | apply Keeps.fields)

end Sys2Proof.Machine
end

