-- ==== Sys2Proof/Laws/KeepsFaults.lean ====
section
/-! SUPPORT. Every operation of Machine/Faults.lean keeps what `Keeps` says. -/
namespace Sys2Proof.Machine

theorem State.setSpare_keeps {σ : State} {s : State} (d : Nat) (st : SpareCore) (k : Nat) (hs : Keeps σ s) :
    Keeps σ (State.setSpare s d st k) := by
  unfold State.setSpare
  repeat' (with_reducible
    first
    | assumption | apply State.setSpr_keeps | split | (intro _) | exact rfl | apply Keeps.fields)

theorem State.takeDuties_keeps {σ : State} {s : State} (old new : Nat) (hs : Keeps σ s) :
    Keeps σ (State.takeDuties s old new) := by
  unfold State.takeDuties
  repeat' (with_reducible
    first
    | assumption | apply State.each_keeps | apply State.setRoute_keeps | apply State.updCore_keeps | extract_lets | (intro _)
    | exact rfl | apply Keeps.fields)

theorem State.markFailed_keeps {σ : State} {s : State} (k : Nat) (hs : Keeps σ s) : Keeps σ (State.markFailed s k) := by
  unfold State.markFailed
  repeat' (with_reducible
    first
    | assumption | apply State.updCore_keeps | (intro _) | exact rfl | apply Keeps.fields)

theorem State.coreCarried_keeps {σ : State} {s : State} (k : Nat) (hs : Keeps σ s) : Keeps σ (State.coreCarried s k) := by
  unfold State.coreCarried
  repeat' (with_reducible
    first
    | assumption | apply State.logErr_keeps | apply State.bump_keeps | apply State.when_keeps | apply State.countCe_keeps
    | (intro _) | exact rfl | apply Keeps.fields)

theorem State.coreLost_keeps {σ : State} {s : State} (k : Nat) (hs : Keeps σ s) : Keeps σ (State.coreLost s k) := by
  unfold State.coreLost
  repeat' (with_reducible
    first
    | assumption | apply State.chFatals_keeps | (intro _) | exact rfl | apply Keeps.fields)

theorem State.chCoreFault_keeps {σ : State} {s : State} (k : Nat) (hs : Keeps σ s) : Keeps σ (State.chCoreFault s k) := by
  unfold State.chCoreFault
  repeat' (with_reducible
    first
    | assumption | apply State.markFailed_keeps | apply State.takeDuties_keeps | apply State.setSpare_keeps
    | apply State.coreCarried_keeps | apply State.offerSpare_keeps | apply State.coreLost_keeps | extract_lets | split
    | (intro _) | exact rfl | apply Keeps.fields)

theorem State.devCoreFault_keeps {σ : State} {s : State} (k : Nat) (hs : Keeps σ s) : Keeps σ (State.devCoreFault s k) := by
  unfold State.devCoreFault
  repeat' (with_reducible
    first
    | assumption | apply State.markFailed_keeps | apply State.takeDuties_keeps | apply State.coreCarried_keeps
    | apply State.when_keeps | apply State.deviceFatal_keeps | extract_lets | split | (intro _)
    | (apply Keeps.fst_of; assumption) | (apply Keeps.snd_of; assumption) | (apply Keeps.some_of; assumption) | exact rfl
    | apply Keeps.fields)

theorem State.spareFault_keeps {σ : State} {s : State} (k : Nat) (hs : Keeps σ s) : Keeps σ (State.spareFault s k) := by
  unfold State.spareFault
  repeat' (with_reducible
    first
    | assumption | apply State.markFailed_keeps | apply State.setSpare_keeps | apply State.coreLost_keeps
    | apply State.coreCarried_keeps | extract_lets | split | (intro _) | (apply Keeps.fst_of; assumption)
    | (apply Keeps.snd_of; assumption) | (apply Keeps.some_of; assumption) | exact rfl | apply Keeps.fields)

theorem State.dropUpdates_keeps {σ : State} {s : State} (k : Nat) (hs : Keeps σ s) : Keeps σ (State.dropUpdates s k) := by
  unfold State.dropUpdates
  repeat' (with_reducible
    first
    | assumption | split | (intro _) | (apply Keeps.fst_of; assumption) | (apply Keeps.snd_of; assumption)
    | (apply Keeps.some_of; assumption) | exact rfl | apply Keeps.fields)

theorem State.coreFault_keeps {σ : State} {s0 : State} (k : Nat) (hs0 : Keeps σ s0) : Keeps σ (State.coreFault s0 k) := by
  unfold State.coreFault
  repeat' (with_reducible
    first
    | assumption | apply State.dropUpdates_keeps | apply State.devCoreFault_keeps | apply State.chCoreFault_keeps
    | apply State.spareFault_keeps | extract_lets | split | (intro _) | exact rfl | apply Keeps.fields)

theorem execCoreFault_keeps {σ : State} {s : State} (core : Nat) (hs : Keeps σ s) : KeepsNext σ (execCoreFault core s) := by
  unfold execCoreFault
  repeat' (with_reducible
    first
    | assumption | apply State.coreFault_keeps | apply KeepsNext.next | (intro _) | exact rfl | apply Keeps.fields)

theorem State.lineError_keeps {σ : State} {s : State} (a n : Nat) (hs : Keeps σ s) : Keeps σ (State.lineError s a n) := by
  unfold State.lineError
  repeat' (with_reducible
    first
    | assumption | apply State.mpoison_keeps | apply State.each_keeps | apply State.poisonPage_keeps | extract_lets | (intro _)
    | exact rfl | apply Keeps.fields)

theorem State.injectDeferred_keeps {σ : State} {s : State} (c source : Nat) (hs : Keeps σ s) :
    Keeps σ (State.injectDeferred s c source) := by
  unfold State.injectDeferred
  repeat' (with_reducible
    first
    | assumption | apply State.drawNat_keeps | apply State.failColumn_keeps | apply State.logErr_keeps | apply State.bump_keeps
    | apply State.loseUnit_keeps | apply State.lineError_keeps | extract_lets | split | (intro _)
    | (apply Keeps.fst_of; assumption) | (apply Keeps.snd_of; assumption) | (apply Keeps.some_of; assumption) | exact rfl
    | apply Keeps.fields)

theorem State.injectJob_keeps {σ : State} {s : State} (source : Nat) (hs : Keeps σ s) : Keeps σ (State.injectJob s source) := by
  unfold State.injectJob
  repeat' (with_reducible
    first
    | assumption | apply State.drawNat_keeps | apply State.logErr_keeps | apply State.bump_keeps | apply State.tearDown_keeps
    | extract_lets | split | (intro _) | (apply Keeps.fst_of; assumption) | (apply Keeps.snd_of; assumption)
    | (apply Keeps.some_of; assumption) | exact rfl | apply Keeps.fields)

theorem State.inject_keeps {σ : State} {s : State} (v : Word) (hs : Keeps σ s) : Keeps σ (State.inject s v) := by
  unfold State.inject
  repeat' (with_reducible
    first
    | assumption | apply State.logErr_keeps | apply State.coreFault_keeps | apply State.bump_keeps | apply State.countCe_keeps
    | apply State.injectDeferred_keeps | apply State.injectJob_keeps | apply State.chFatals_keeps
    | apply State.deviceFatal_keeps | extract_lets | split | (intro _) | (apply Keeps.fst_of; assumption)
    | (apply Keeps.snd_of; assumption) | (apply Keeps.some_of; assumption) | exact rfl | apply Keeps.fields)

theorem execRasInject_keeps {σ : State} {s : State} (rq : Requester) (v : Word) (hs : Keeps σ s) :
    KeepsNext σ (execRasInject rq v s) := by
  unfold execRasInject
  repeat' (with_reducible
    first
    | assumption | apply State.onWrite_keeps | apply State.when_keeps | apply State.inject_keeps | apply KeepsNext.next
    | (intro _) | exact rfl | apply Keeps.fields)

theorem State.wpCtrl_keeps {σ : State} {s : State} (v : Word) (hs : Keeps σ s) : Keeps σ (State.wpCtrl s v) := by
  unfold State.wpCtrl
  repeat' (with_reducible
    first
    | assumption | apply State.store_keeps | apply State.when_keeps | apply State.armWatch_keeps | (intro _) | exact rfl
    | apply Keeps.fields)

theorem execArm_keeps {σ : State} {s : State} (rq : Requester) (v : Word) (hs : Keeps σ s) : KeepsNext σ (execArm rq v s) := by
  unfold execArm
  repeat' (with_reducible
    first
    | assumption | apply State.onWrite_keeps | apply State.wpCtrl_keeps | apply KeepsNext.next | (intro _) | exact rfl
    | apply Keeps.fields)

theorem State.snapCh_keeps {σ : State} {s : State} (c : Nat) (hs : Keeps σ s) : Keeps σ (State.snapCh s c) := by
  unfold State.snapCh
  repeat' (with_reducible
    first
    | assumption | extract_lets | (intro _) | exact rfl | apply Keeps.fields)

theorem execSnap_keeps {σ : State} {s : State} (rq : Requester) (hs : Keeps σ s) : KeepsNext σ (execSnap rq s) := by
  unfold execSnap
  repeat' (with_reducible
    first
    | assumption | apply State.onWrite_keeps | apply State.each_keeps | apply State.snapCh_keeps | apply State.evt_keeps
    | apply KeepsNext.next | (intro _) | exact rfl | apply Keeps.fields)

theorem execDbgMemRead_keeps {σ : State} {s : State} (rq : Requester) (hs : Keeps σ s) : KeepsNext σ (execDbgMemRead rq s) := by
  unfold execDbgMemRead
  repeat' (with_reducible
    first
    | assumption | apply State.onWrite_keeps | apply State.evt_keeps | apply State.drawNat_keeps | apply State.wr_keeps
    | apply KeepsNext.next | extract_lets | split | (intro _) | (apply Keeps.fst_of; assumption)
    | (apply Keeps.snd_of; assumption) | (apply Keeps.some_of; assumption) | exact rfl | apply Keeps.fields)

end Sys2Proof.Machine
end

