-- ==== Sys2Proof/Laws/KeepsFrames.lean ====
section
/-! SUPPORT. Every operation of Machine/Frames.lean keeps what `Keeps` says. -/
namespace Sys2Proof.Machine

theorem execEthernetFrame_keeps {σ : State} {s : State} (c : Nat) (why : FrameFault) (hs : Keeps σ s) :
    KeepsNext σ (execEthernetFrame c why s) := by
  unfold execEthernetFrame
  repeat' (with_reducible
    first
    | assumption | apply State.when_keeps | apply State.bump_keeps | apply KeepsNext.next | (intro _) | exact rfl
    | apply Keeps.fields)

theorem State.ptpStamp_keeps {σ : State} {s : State} (c : Nat) (egress : Bool) (data : List Byte) (hs : Keeps σ s) :
    Keeps σ (State.ptpStamp s c egress data) := by
  unfold State.ptpStamp
  repeat' (with_reducible
    first
    | assumption | apply State.emit_keeps | (intro _) | exact rfl | apply Keeps.fields)

theorem execPtpMessage_keeps {σ : State} {s : State} (c : Nat) (egress : Bool) (data : List Byte) (hs : Keeps σ s) :
    KeepsNext σ (execPtpMessage c egress data s) := by
  unfold execPtpMessage
  repeat' (with_reducible
    first
    | assumption | apply State.sendControl_keeps | apply State.ptpStamp_keeps | apply State.when_keeps | apply State.bump_keeps
    | apply KeepsNext.next | split | (intro _) | exact rfl | apply Keeps.fields)

theorem State.startFetch_keeps {σ : State} {s : State} (c k : Nat) (hs : Keeps σ s) : Keeps σ (State.startFetch s c k) := by
  unfold State.startFetch
  repeat' (with_reducible
    first
    | assumption | apply State.updKwp_keeps | apply State.bump_keeps | split | (intro _) | exact rfl | apply Keeps.fields)

theorem State.missFull_keeps {σ : State} {s : State} (c op : Nat) (p : KPkt) (hs : Keeps σ s) :
    Keeps σ (State.missFull s c op p) := by
  unfold State.missFull
  repeat' (with_reducible
    first
    | assumption | apply State.bump_keeps | apply State.updKwp_keeps | apply State.sendControl_keeps | extract_lets | split
    | (intro _) | exact rfl | apply Keeps.fields)

theorem State.sendStatus_keeps {σ : State} {s : State} (c k : Nat) (p : KPkt) (st : Nat) (hs : Keeps σ s) :
    Keeps σ (State.sendStatus s c k p st) := by
  unfold State.sendStatus
  repeat' (with_reducible
    first
    | assumption | apply State.answer_keeps | (intro _) | exact rfl | apply Keeps.fields)

theorem State.staleWrite_keeps {σ : State} {s : State} (c k job key cause : Nat) (hs : Keeps σ s) :
    Keeps σ (State.staleWrite s c k job key cause) := by
  unfold State.staleWrite
  repeat' (with_reducible
    first
    | assumption | apply State.evtJob_keeps | (intro _) | exact rfl | apply Keeps.fields)

theorem State.noteRefusal_keeps {σ : State} {s : State} (c k st : Nat) (hs : Keeps σ s) :
    Keeps σ (State.noteRefusal s c k st) := by
  unfold State.noteRefusal
  repeat' (with_reducible
    first
    | assumption | apply State.updConn_keeps | split | (intro _) | exact rfl | apply Keeps.fields)

theorem State.placeWrite_keeps {σ : State} {s : State} (c k : Nat) (p : KPkt) (n : Nat) (hs : Keeps σ s) :
    Keeps σ (State.placeWrite s c k p n) := by
  unfold State.placeWrite
  repeat' (with_reducible
    first
    | assumption | apply State.when_keeps | apply State.deferred_keeps | apply State.placeAt_keeps
    | apply State.rangesWrite_keeps | apply State.msgCame_keeps | extract_lets | split | (intro _) | exact rfl
    | apply Keeps.fields)

theorem State.rxWrite_keeps {σ : State} {s : State} (c k : Nat) (p : KPkt) (hs : Keeps σ s) :
    Keeps σ (State.rxWrite s c k p) := by
  unfold State.rxWrite
  repeat' (with_reducible
    first
    | assumption | apply State.placeWrite_keeps | apply State.bump_keeps | apply State.noteRefusal_keeps
    | apply State.msgCame_keeps | apply State.when_keeps | apply State.staleWrite_keeps | apply State.sendStatus_keeps
    | extract_lets | split | (intro _) | (apply Keeps.fst_of; assumption) | (apply Keeps.snd_of; assumption)
    | (apply Keeps.some_of; assumption) | exact rfl | apply Keeps.fields)

theorem State.rxReadReq_keeps {σ : State} {s : State} (c k : Nat) (p : KPkt) (hs : Keeps σ s) :
    Keeps σ (State.rxReadReq s c k p) := by
  unfold State.rxReadReq
  repeat' (with_reducible
    first
    | assumption | apply State.bump_keeps | apply State.sendStatus_keeps | apply State.updConn_keeps | apply State.pumpAll_keeps
    | extract_lets | split | (intro _) | (apply Keeps.fst_of; assumption) | (apply Keeps.snd_of; assumption)
    | (apply Keeps.some_of; assumption) | exact rfl | apply Keeps.fields)

theorem State.answerAtomic_keeps {σ : State} {s : State} (c k : Nat) (p : KPkt) (st old : Nat) (hs : Keeps σ s) :
    Keeps σ (State.answerAtomic s c k p st old) := by
  unfold State.answerAtomic
  repeat' (with_reducible
    first
    | assumption | apply State.answer_keeps | (intro _) | exact rfl | apply Keeps.fields)

theorem State.rxAtomic_keeps {σ : State} {s : State} (c k : Nat) (p : KPkt) (hs : Keeps σ s) :
    Keeps σ (State.rxAtomic s c k p) := by
  unfold State.rxAtomic
  repeat' (with_reducible
    first
    | assumption | apply State.bump_keeps | apply State.answerAtomic_keeps | apply State.touch_keeps
    | apply State.rangesWrite_keeps | extract_lets | split | (intro _) | (apply Keeps.fst_of; assumption)
    | (apply Keeps.snd_of; assumption) | (apply Keeps.some_of; assumption) | exact rfl | apply Keeps.fields)

theorem State.placeResp_keeps {σ : State} {s0 : State} (c k : Nat) (r : KReq) (p : KPkt) (hs0 : Keeps σ s0) :
    Keeps σ (State.placeResp s0 c k r p) := by
  unfold State.placeResp
  repeat' (with_reducible
    first
    | assumption | apply State.when_keeps | apply State.deferred_keeps | apply State.each_keeps | apply State.vmark_keeps
    | apply State.placeAt_keeps | apply State.rangesWrite_keeps | apply State.updKReq_keeps | apply State.endReq_keeps
    | extract_lets | split | (intro _) | (apply Keeps.fst_of; assumption) | (apply Keeps.snd_of; assumption)
    | (apply Keeps.some_of; assumption) | exact rfl | apply Keeps.fields)

theorem State.rxReadResp_keeps {σ : State} {s : State} (c k : Nat) (p : KPkt) (hs : Keeps σ s) :
    Keeps σ (State.rxReadResp s c k p) := by
  unfold State.rxReadResp
  repeat' (with_reducible
    first
    | assumption | apply State.placeResp_keeps | split | (intro _) | (apply Keeps.fst_of; assumption)
    | (apply Keeps.snd_of; assumption) | (apply Keeps.some_of; assumption) | exact rfl | apply Keeps.fields)

theorem State.rxOneResp_keeps {σ : State} {s : State} (c k op : Nat) (p : KPkt) (hs : Keeps σ s) :
    Keeps σ (State.rxOneResp s c k op p) := by
  unfold State.rxOneResp
  repeat' (with_reducible
    first
    | assumption | apply State.endReq_keeps | extract_lets | split | (intro _) | (apply Keeps.fst_of; assumption)
    | (apply Keeps.snd_of; assumption) | (apply Keeps.some_of; assumption) | exact rfl | apply Keeps.fields)

theorem State.rxStatus_keeps {σ : State} {s : State} (c k : Nat) (p : KPkt) (hs : Keeps σ s) :
    Keeps σ (State.rxStatus s c k p) := by
  unfold State.rxStatus
  repeat' (with_reducible
    first
    | assumption | apply State.when_keeps | apply State.updKReq_keeps | apply State.staleWrite_keeps | apply State.endReq_keeps
    | extract_lets | split | (intro _) | (apply Keeps.fst_of; assumption) | (apply Keeps.snd_of; assumption)
    | (apply Keeps.some_of; assumption) | exact rfl | apply Keeps.fields)

theorem State.rxAck_keeps {σ : State} {s : State} (c k : Nat) (p : KPkt) (hs : Keeps σ s) : Keeps σ (State.rxAck s c k p) := by
  unfold State.rxAck
  repeat' (with_reducible
    first
    | assumption | apply State.updConn_keeps | apply State.when_keeps | apply State.fastRetx_keeps | apply State.pumpAll_keeps
    | extract_lets | split | (intro _) | exact rfl | apply Keeps.fields)

theorem State.rxBusy_keeps {σ : State} {s : State} (c k : Nat) (p : KPkt) (hs : Keeps σ s) :
    Keeps σ (State.rxBusy s c k p) := by
  unfold State.rxBusy
  repeat' (with_reducible
    first
    | assumption | apply State.updConn_keeps | apply State.bump_keeps | extract_lets | split | (intro _) | exact rfl
    | apply Keeps.fields)

theorem State.process_keeps {σ : State} {s : State} (c k op : Nat) (p : KPkt) (hs : Keeps σ s) :
    Keeps σ (State.process s c k op p) := by
  unfold State.process
  repeat' (with_reducible
    first
    | assumption | apply State.rxWrite_keeps | apply State.rxReadReq_keeps | apply State.rxReadResp_keeps
    | apply State.updConn_keeps | apply State.rxOneResp_keeps | apply State.rxAtomic_keeps | apply State.rxStatus_keeps | split
    | (intro _) | (apply Keeps.fst_of; assumption) | (apply Keeps.snd_of; assumption) | (apply Keeps.some_of; assumption)
    | exact rfl | apply Keeps.fields)

theorem State.acceptReliable_keeps {σ : State} {s : State} (c k op : Nat) (p : KPkt) (hs : Keeps σ s) :
    Keeps σ (State.acceptReliable s c k op p) := by
  unfold State.acceptReliable
  repeat' (with_reducible
    first
    | assumption | apply State.bump_keeps | apply State.sendAck_keeps | apply State.acceptPsn_keeps | apply State.process_keeps
    | apply State.answerFlushes_keeps | apply State.ackIfDue_keeps | extract_lets | split | (intro _) | exact rfl
    | apply Keeps.fields)

theorem State.countRx_keeps {σ : State} {s : State} (c from_ : Nat) (hs : Keeps σ s) : Keeps σ (State.countRx s c from_) := by
  unfold State.countRx
  repeat' (with_reducible
    first
    | assumption | apply State.bump_keeps | apply State.when_keeps | (intro _) | exact rfl | apply Keeps.fields)

theorem State.rxTrue_keeps {σ : State} {s : State} (c op : Nat) (p : KPkt) (hs : Keeps σ s) :
    Keeps σ (State.rxTrue s c op p) := by
  unfold State.rxTrue
  repeat' (with_reducible
    first
    | assumption | apply State.bump_keeps | apply State.rxAck_keeps | apply State.acceptReliable_keeps | extract_lets | split
    | (intro _) | exact rfl | apply Keeps.fields)

theorem State.rxPacket_keeps {σ : State} {s : State} (c op from_ : Nat) (p : KPkt) (hs : Keeps σ s) :
    Keeps σ (State.rxPacket s c op from_ p) := by
  unfold State.rxPacket
  repeat' (with_reducible
    first
    | assumption | apply State.countRx_keeps | apply State.rxBusy_keeps | apply State.bump_keeps | apply State.rxTrue_keeps
    | extract_lets | split | (intro _) | (apply Keeps.fst_of; assumption) | (apply Keeps.snd_of; assumption)
    | (apply Keeps.some_of; assumption) | exact rfl | apply Keeps.fields)

theorem State.rxContext_keeps {σ : State} {s : State} (c op from_ : Nat) (p : KPkt) (hs : Keeps σ s) :
    Keeps σ (State.rxContext s c op from_ p) := by
  unfold State.rxContext
  repeat' (with_reducible
    first
    | assumption | apply State.countRx_keeps | apply State.bump_keeps | apply State.rxPacket_keeps | apply State.updKwp_keeps
    | apply State.startFetch_keeps | apply State.missFull_keeps | extract_lets | split | (intro _) | exact rfl
    | apply Keeps.fields)

theorem State.rxLocal_keeps {σ : State} {s : State} (c d loc op : Nat) (p : KPkt) (hs : Keeps σ s) :
    Keeps σ (State.rxLocal s c d loc op p) := by
  unfold State.rxLocal
  repeat' (with_reducible
    first
    | assumption | apply State.classify_keeps | apply State.bump_keeps | apply State.rxContext_keeps
    | apply State.tagsBack_keeps | split | (intro _) | (apply Keeps.fst_of; assumption) | (apply Keeps.snd_of; assumption)
    | (apply Keeps.some_of; assumption) | exact rfl | apply Keeps.fields)

theorem State.rxFrame_keeps {σ : State} {s : State} (c op : Nat) (p : KPkt) (hs : Keeps σ s) :
    Keeps σ (State.rxFrame s c op p) := by
  unfold State.rxFrame
  repeat' (with_reducible
    first
    | assumption | apply State.bump_keeps | apply State.rxLocal_keeps | split | (intro _) | (apply Keeps.fst_of; assumption)
    | (apply Keeps.snd_of; assumption) | (apply Keeps.some_of; assumption) | exact rfl | apply Keeps.fields)

theorem execWrite_keeps {σ : State} {s : State} (c : Nat) (pkt : KPkt) (hs : Keeps σ s) : KeepsNext σ (execWrite c pkt s) := by
  unfold execWrite
  repeat' (with_reducible
    first
    | assumption | apply State.rxFrame_keeps | apply KeepsNext.next | (intro _) | exact rfl | apply Keeps.fields)

theorem execReadReq_keeps {σ : State} {s : State} (c : Nat) (pkt : KPkt) (hs : Keeps σ s) :
    KeepsNext σ (execReadReq c pkt s) := by
  unfold execReadReq
  repeat' (with_reducible
    first
    | assumption | apply State.rxFrame_keeps | apply KeepsNext.next | (intro _) | exact rfl | apply Keeps.fields)

theorem execReadResp_keeps {σ : State} {s : State} (c : Nat) (pkt : KPkt) (hs : Keeps σ s) :
    KeepsNext σ (execReadResp c pkt s) := by
  unfold execReadResp
  repeat' (with_reducible
    first
    | assumption | apply State.rxFrame_keeps | apply KeepsNext.next | (intro _) | exact rfl | apply Keeps.fields)

theorem execFlush_keeps {σ : State} {s : State} (c : Nat) (pkt : KPkt) (hs : Keeps σ s) : KeepsNext σ (execFlush c pkt s) := by
  unfold execFlush
  repeat' (with_reducible
    first
    | assumption | apply State.rxFrame_keeps | apply KeepsNext.next | (intro _) | exact rfl | apply Keeps.fields)

theorem execFlushResp_keeps {σ : State} {s : State} (c : Nat) (pkt : KPkt) (hs : Keeps σ s) :
    KeepsNext σ (execFlushResp c pkt s) := by
  unfold execFlushResp
  repeat' (with_reducible
    first
    | assumption | apply State.rxFrame_keeps | apply KeepsNext.next | (intro _) | exact rfl | apply Keeps.fields)

theorem execAtomic_keeps {σ : State} {s : State} (c : Nat) (pkt : KPkt) (hs : Keeps σ s) :
    KeepsNext σ (execAtomic c pkt s) := by
  unfold execAtomic
  repeat' (with_reducible
    first
    | assumption | apply State.rxFrame_keeps | apply KeepsNext.next | (intro _) | exact rfl | apply Keeps.fields)

theorem execAtomicResp_keeps {σ : State} {s : State} (c : Nat) (pkt : KPkt) (hs : Keeps σ s) :
    KeepsNext σ (execAtomicResp c pkt s) := by
  unfold execAtomicResp
  repeat' (with_reducible
    first
    | assumption | apply State.rxFrame_keeps | apply KeepsNext.next | (intro _) | exact rfl | apply Keeps.fields)

theorem execStatus_keeps {σ : State} {s : State} (c : Nat) (pkt : KPkt) (hs : Keeps σ s) :
    KeepsNext σ (execStatus c pkt s) := by
  unfold execStatus
  repeat' (with_reducible
    first
    | assumption | apply State.rxFrame_keeps | apply KeepsNext.next | (intro _) | exact rfl | apply Keeps.fields)

theorem execAck_keeps {σ : State} {s : State} (c : Nat) (pkt : KPkt) (hs : Keeps σ s) : KeepsNext σ (execAck c pkt s) := by
  unfold execAck
  repeat' (with_reducible
    first
    | assumption | apply State.rxFrame_keeps | apply KeepsNext.next | (intro _) | exact rfl | apply Keeps.fields)

theorem execBusy_keeps {σ : State} {s : State} (c : Nat) (pkt : KPkt) (hs : Keeps σ s) : KeepsNext σ (execBusy c pkt s) := by
  unfold execBusy
  repeat' (with_reducible
    first
    | assumption | apply State.rxFrame_keeps | apply KeepsNext.next | (intro _) | exact rfl | apply Keeps.fields)

theorem State.loseConn_keeps {σ : State} {s : State} (c k : Nat) (hs : Keeps σ s) : Keeps σ (State.loseConn s c k) := by
  unfold State.loseConn
  repeat' (with_reducible
    first
    | assumption | apply State.each_keeps | apply State.devEnd_keeps | apply State.updConn_keeps | extract_lets | (intro _)
    | exact rfl | apply Keeps.fields)

theorem execCtxFetchDone_keeps {σ : State} {s : State} (c conn : Nat) (bad : Bool) (hs : Keeps σ s) :
    KeepsNext σ (execCtxFetchDone c conn bad s) := by
  unfold execCtxFetchDone
  repeat' (with_reducible
    first
    | assumption | apply State.updKwp_keeps | apply State.when_keeps | apply State.loseConn_keeps | apply State.evtPriv_keeps
    | apply State.tagsBack_keeps | apply State.each_keeps | apply State.rxPacket_keeps | apply KeepsNext.next | extract_lets
    | split | (intro _) | (apply Keeps.fst_of; assumption) | (apply Keeps.snd_of; assumption)
    | (apply Keeps.some_of; assumption) | exact rfl | apply Keeps.fields)

theorem State.takeWr_keeps {σ : State} {s : State} (c k op : Nat) (f : State → List Byte → State) (hf : ∀ (a0 : State)
    (a1 : List Byte), Keeps σ a0 → Keeps σ (f a0 a1)) (hs : Keeps σ s) :
    Keeps σ (State.takeWr s c k op f) := by
  unfold State.takeWr
  repeat' (with_reducible
    first
    | assumption | apply hf | apply State.wr_keeps | apply State.startFetch_keeps | apply State.tagsBack_keeps
    | apply State.sqPop_keeps | apply State.kwpCpl_keeps | extract_lets | split | (intro _) | exact rfl | apply Keeps.fields)

theorem execWrWrite_keeps {σ : State} {s : State} (c conn : Nat) (hs : Keeps σ s) : KeepsNext σ (execWrWrite c conn s) := by
  unfold execWrWrite
  repeat' (with_reducible
    first
    | assumption | apply State.takeWr_keeps | apply State.wr_keeps | apply State.takeTransfer_keeps | apply KeepsNext.next
    | (intro _) | exact rfl | apply Keeps.fields)

theorem execWrRead_keeps {σ : State} {s : State} (c conn : Nat) (hs : Keeps σ s) : KeepsNext σ (execWrRead c conn s) := by
  unfold execWrRead
  repeat' (with_reducible
    first
    | assumption | apply State.takeWr_keeps | apply State.wr_keeps | apply State.takeTransfer_keeps | apply KeepsNext.next
    | (intro _) | exact rfl | apply Keeps.fields)

theorem execWrFlush_keeps {σ : State} {s : State} (c conn : Nat) (hs : Keeps σ s) : KeepsNext σ (execWrFlush c conn s) := by
  unfold execWrFlush
  repeat' (with_reducible
    first
    | assumption | apply State.takeWr_keeps | apply State.wr_keeps | apply State.takeTransfer_keeps | apply KeepsNext.next
    | (intro _) | exact rfl | apply Keeps.fields)

theorem execWrAtomic_keeps {σ : State} {s : State} (c conn : Nat) (hs : Keeps σ s) : KeepsNext σ (execWrAtomic c conn s) := by
  unfold execWrAtomic
  repeat' (with_reducible
    first
    | assumption | apply State.takeWr_keeps | apply State.wr_keeps | apply State.takeTransfer_keeps | apply KeepsNext.next
    | (intro _) | exact rfl | apply Keeps.fields)

theorem execWinOpen_keeps {σ : State} {s : State} (c conn : Nat) (hs : Keeps σ s) : KeepsNext σ (execWinOpen c conn s) := by
  unfold execWinOpen
  repeat' (with_reducible
    first
    | assumption | apply State.takeWr_keeps | apply State.wr_keeps | apply State.takeOpen_keeps | apply KeepsNext.next
    | (intro _) | exact rfl | apply Keeps.fields)

theorem execWinOpenGapEnd_keeps {σ : State} {s : State} (c conn : Nat) (hs : Keeps σ s) :
    KeepsNext σ (execWinOpenGapEnd c conn s) := by
  unfold execWinOpenGapEnd
  repeat' (with_reducible
    first
    | assumption | apply State.takeWr_keeps | apply State.wr_keeps | apply State.passToNow_keeps | apply State.takeOpen_keeps
    | apply KeepsNext.next | extract_lets | split | (intro _) | exact rfl | apply Keeps.fields)

theorem execWinRevoke_keeps {σ : State} {s : State} (c conn : Nat) (hs : Keeps σ s) : KeepsNext σ (execWinRevoke c conn s) := by
  unfold execWinRevoke
  repeat' (with_reducible
    first
    | assumption | apply State.takeWr_keeps | apply State.wr_keeps | apply State.takeRevoke_keeps | apply KeepsNext.next
    | (intro _) | exact rfl | apply Keeps.fields)

theorem State.clearBad_keeps {σ : State} {s : State} (c k : Nat) (hs : Keeps σ s) : Keeps σ (State.clearBad s c k) := by
  unfold State.clearBad
  repeat' (with_reducible
    first
    | assumption | apply State.updKwp_keeps | (intro _) | exact rfl | apply Keeps.fields)

theorem State.putRate_keeps {σ : State} {s : State} (c k : Nat) (hs : Keeps σ s) : Keeps σ (State.putRate s c k) := by
  unfold State.putRate
  repeat' (with_reducible
    first
    | assumption | apply State.reshape_keeps | apply State.wr_keeps | extract_lets | (intro _) | exact rfl | apply Keeps.fields)

theorem State.connSet_keeps {σ : State} {s : State} (c k : Nat) (keyWr : Bool) (hs : Keeps σ s) :
    Keeps σ (State.connSet s c k keyWr) := by
  unfold State.connSet
  repeat' (with_reducible
    first
    | assumption | apply State.logIgnored_keeps | apply State.clearBad_keeps | apply State.updConn_keeps
    | apply State.putRate_keeps | extract_lets | split | (intro _) | exact rfl | apply Keeps.fields)

theorem State.connReset_keeps {σ : State} {s : State} (c k : Nat) (keyWr : Bool) (hs : Keeps σ s) :
    Keeps σ (State.connReset s c k keyWr) := by
  unfold State.connReset
  repeat' (with_reducible
    first
    | assumption | apply State.endAll_keeps | apply State.tagsBack_keeps | apply State.updConn_keeps | extract_lets | split
    | (intro _) | exact rfl | apply Keeps.fields)

theorem State.connDestroy_keeps {σ : State} {s : State} (c k : Nat) (hs : Keeps σ s) : Keeps σ (State.connDestroy s c k) := by
  unfold State.connDestroy
  repeat' (with_reducible
    first
    | assumption | apply State.endAll_keeps | apply State.tagsBack_keeps | apply State.clearBad_keeps
    | apply State.updConn_keeps | (intro _) | exact rfl | apply Keeps.fields)

theorem State.connSnap_keeps {σ : State} {s : State} (c k : Nat) (hs : Keeps σ s) : Keeps σ (State.connSnap s c k) := by
  unfold State.connSnap
  repeat' (with_reducible
    first
    | assumption | apply State.each_keeps | apply State.wrAt_keeps | (intro _) | exact rfl | apply Keeps.fields)

theorem State.connCmd_keeps {σ : State} {s : State} (rq : Requester) (c bit : Nat) (keyWr : Bool) (f : State → Nat → State)
    (hf : ∀ (a0 : State) (a1 : Nat), Keeps σ a0 → Keeps σ (f a0 a1)) (hs : Keeps σ s) :
    Keeps σ (State.connCmd s rq c bit keyWr f) := by
  unfold State.connCmd
  repeat' (with_reducible
    first
    | assumption | apply hf | apply State.onWrite_keeps | split | (intro _) | exact rfl | apply Keeps.fields)

theorem execConnSet_keeps {σ : State} {s : State} (rq : Requester) (c : Nat) (keyWr : Bool) (hs : Keeps σ s) :
    KeepsNext σ (execConnSet rq c keyWr s) := by
  unfold execConnSet
  repeat' (with_reducible
    first
    | assumption | apply State.connCmd_keeps | apply State.connSet_keeps | apply KeepsNext.next | (intro _) | exact rfl
    | apply Keeps.fields)

theorem execConnReset_keeps {σ : State} {s : State} (rq : Requester) (c : Nat) (keyWr : Bool) (hs : Keeps σ s) :
    KeepsNext σ (execConnReset rq c keyWr s) := by
  unfold execConnReset
  repeat' (with_reducible
    first
    | assumption | apply State.connCmd_keeps | apply State.connReset_keeps | apply KeepsNext.next | (intro _) | exact rfl
    | apply Keeps.fields)

theorem execConnDestroy_keeps {σ : State} {s : State} (rq : Requester) (c : Nat) (hs : Keeps σ s) :
    KeepsNext σ (execConnDestroy rq c s) := by
  unfold execConnDestroy
  repeat' (with_reducible
    first
    | assumption | apply State.connCmd_keeps | apply State.connDestroy_keeps | apply KeepsNext.next | (intro _) | exact rfl
    | apply Keeps.fields)

theorem execConnSnap_keeps {σ : State} {s : State} (rq : Requester) (c : Nat) (hs : Keeps σ s) :
    KeepsNext σ (execConnSnap rq c s) := by
  unfold execConnSnap
  repeat' (with_reducible
    first
    | assumption | apply State.connCmd_keeps | apply State.connSnap_keeps | apply KeepsNext.next | (intro _) | exact rfl
    | apply Keeps.fields)

theorem execRtoExpiry_keeps {σ : State} {s : State} (c conn : Nat) (hs : Keeps σ s) : KeepsNext σ (execRtoExpiry c conn s) := by
  unfold execRtoExpiry
  repeat' (with_reducible
    first
    | assumption | apply State.when_keeps | apply State.passToNow_keeps | apply State.connError_keeps
    | apply State.cutMoves_keeps | apply State.tagsBack_keeps | apply State.updConn_keeps | apply State.resendFrom_keeps
    | apply KeepsNext.next | extract_lets | split | (intro _) | exact rfl | apply Keeps.fields)

theorem execAckDelayExpiry_keeps {σ : State} {s : State} (c conn : Nat) (hs : Keeps σ s) :
    KeepsNext σ (execAckDelayExpiry c conn s) := by
  unfold execAckDelayExpiry
  repeat' (with_reducible
    first
    | assumption | apply State.when_keeps | apply State.passToNow_keeps | apply State.sendAck_keeps | apply KeepsNext.next
    | extract_lets | (intro _) | exact rfl | apply Keeps.fields)

theorem execBusyBackoffEnd_keeps {σ : State} {s : State} (c conn : Nat) (hs : Keeps σ s) :
    KeepsNext σ (execBusyBackoffEnd c conn s) := by
  unfold execBusyBackoffEnd
  repeat' (with_reducible
    first
    | assumption | apply State.when_keeps | apply State.passToNow_keeps | apply State.updConn_keeps
    | apply State.resendFrom_keeps | apply State.pumpAll_keeps | apply KeepsNext.next | split | (intro _)
    | (apply Keeps.fst_of; assumption) | (apply Keeps.snd_of; assumption) | (apply Keeps.some_of; assumption) | exact rfl
    | apply Keeps.fields)

theorem execRateAdjust_keeps {σ : State} {s : State} (c conn : Nat) (hs : Keeps σ s) :
    KeepsNext σ (execRateAdjust c conn s) := by
  unfold execRateAdjust
  repeat' (with_reducible
    first
    | assumption | apply State.when_keeps | apply State.passToNow_keeps | apply State.updConn_keeps | apply State.putRate_keeps
    | apply KeepsNext.next | extract_lets | (intro _) | exact rfl | apply Keeps.fields)

theorem execLinkChange_keeps {σ : State} {s : State} (c sub cause : Nat) (hs : Keeps σ s) :
    KeepsNext σ (execLinkChange c sub cause s) := by
  unfold execLinkChange
  repeat' (with_reducible
    first
    | assumption | apply State.when_keeps | apply State.updKwp_keeps | apply State.evtPriv_keeps | apply KeepsNext.next | split
    | (intro _) | exact rfl | apply Keeps.fields)

theorem execFecInterval_keeps {σ : State} {s : State} (c sub corr : Nat) (hs : Keeps σ s) :
    KeepsNext σ (execFecInterval c sub corr s) := by
  unfold execFecInterval
  repeat' (with_reducible
    first
    | assumption | apply State.when_keeps | apply State.bump_keeps | apply State.updKwp_keeps | apply State.evtPriv_keeps
    | apply KeepsNext.next | extract_lets | split | (intro _) | exact rfl | apply Keeps.fields)

theorem State.writeLeft_keeps {σ : State} {s : State} (c : Nat) (p : EPkt) (hs : Keeps σ s) :
    Keeps σ (State.writeLeft s c p) := by
  unfold State.writeLeft
  repeat' (with_reducible
    first
    | assumption | apply State.when_keeps | apply State.endReq_keeps | apply State.tagsBack_keeps | split | (intro _)
    | (apply Keeps.fst_of; assumption) | (apply Keeps.snd_of; assumption) | (apply Keeps.some_of; assumption) | exact rfl
    | apply Keeps.fields)

theorem State.emitFrame_keeps {σ : State} {s : State} (c sub : Nat) (p : EPkt) (hs : Keeps σ s) :
    Keeps σ (State.emitFrame s c sub p) := by
  unfold State.emitFrame
  repeat' (with_reducible
    first
    | assumption | apply State.when_keeps | apply State.emit_keeps | extract_lets | (intro _) | exact rfl | apply Keeps.fields)

theorem State.frameLeaves_keeps {σ : State} {s : State} (c sub : Nat) (p : EPkt) (hs : Keeps σ s) :
    Keeps σ (State.frameLeaves s c sub p) := by
  unfold State.frameLeaves
  repeat' (with_reducible
    first
    | assumption | apply State.when_keeps | apply State.ptpStamp_keeps | apply State.bump_keeps | apply State.emitFrame_keeps
    | apply State.writeLeft_keeps | split | (intro _) | exact rfl | apply Keeps.fields)

theorem execEgressTransmit_keeps {σ : State} {s : State} (c sub : Nat) (hs : Keeps σ s) :
    KeepsNext σ (execEgressTransmit c sub s) := by
  unfold execEgressTransmit
  repeat' (with_reducible
    first
    | assumption | apply State.when_keeps | apply State.takeFrame_keeps | apply State.takePtp_keeps
    | apply State.frameLeaves_keeps | apply KeepsNext.next | split | (intro _) | (apply Keeps.fst_of; assumption)
    | (apply Keeps.snd_of; assumption) | (apply Keeps.some_of; assumption) | exact rfl | apply Keeps.fields)

theorem State.winAssign_keeps {σ : State} {s : State} (c : Nat) (v : Word) (hs : Keeps σ s) :
    Keeps σ (State.winAssign s c v) := by
  unfold State.winAssign
  repeat' (with_reducible
    first
    | assumption | apply State.logIgnored_keeps | apply State.store_keeps | apply State.updWin_keeps | extract_lets | split
    | (intro _) | exact rfl | apply Keeps.fields)

end Sys2Proof.Machine
end

