-- ==== Sys2Proof/Laws/KeepsTeardown.lean ====
section
/-! SUPPORT. Every operation of Machine/Teardown.lean keeps what `Keeps` says. -/
namespace Sys2Proof.Machine

theorem State.killJob_keeps {σ : State} {s : State} (c j : Nat) (alsoClear : Bool) (hs : Keeps σ s) :
    Keeps σ (State.killJob s c j alsoClear) := by
  unfold State.killJob
  repeat' (with_reducible
    first
    | assumption | apply State.when_keeps | apply State.clearJob_keeps | apply State.clearBox_keeps | apply State.tearDown_keeps
    | (intro _) | exact rfl | apply Keeps.fields)

theorem execKill_keeps {σ : State} {s : State} (rq : Requester) (c : Nat) (alsoClear : Bool) (hs : Keeps σ s) :
    KeepsNext σ (execKill rq c alsoClear s) := by
  unfold execKill
  repeat' (with_reducible
    first
    | assumption | apply State.onWrite_keeps | apply State.killJob_keeps | apply KeepsNext.next | split | (intro _) | exact rfl
    | apply Keeps.fields)

theorem execClear_keeps {σ : State} {s : State} (rq : Requester) (c : Nat) (hs : Keeps σ s) :
    KeepsNext σ (execClear rq c s) := by
  unfold execClear
  repeat' (with_reducible
    first
    | assumption | apply State.onWrite_keeps | apply State.clearJob_keeps | apply State.when_keeps | apply State.clearBox_keeps
    | apply KeepsNext.next | extract_lets | (intro _) | exact rfl | apply Keeps.fields)

theorem State.discardCmds_keeps {σ : State} {s : State} (c j : Nat) (hs : Keeps σ s) : Keeps σ (State.discardCmds s c j) := by
  unfold State.discardCmds
  repeat' (with_reducible
    first
    | assumption | apply State.accrue_keeps | apply State.each_keeps | apply State.accountEngine_keeps
    | apply State.freeEngine_keeps | apply State.setLane_keeps | apply State.withdrawFaults_keeps | apply State.updCh_keeps
    | apply State.setCmp_keeps | extract_lets | split | (intro _) | exact rfl | apply Keeps.fields)

theorem State.stopQueues_keeps {σ : State} {s : State} (c j : Nat) (hs : Keeps σ s) : Keeps σ (State.stopQueues s c j) := by
  unfold State.stopQueues
  repeat' (with_reducible
    first
    | assumption | apply State.each_keeps | apply State.wr_keeps | apply State.updJsc_keeps | apply State.flushCpl_keeps
    | extract_lets | (intro _) | exact rfl | apply Keeps.fields)

theorem State.stopRings_keeps {σ : State} {s : State} (c j : Nat) (hs : Keeps σ s) : Keeps σ (State.stopRings s c j) := by
  unfold State.stopRings
  repeat' (with_reducible
    first
    | assumption | apply State.each_keeps | apply State.wr_keeps | apply State.setCfg_keeps | apply State.updSmp_keeps
    | extract_lets | (intro _) | exact rfl | apply Keeps.fields)

theorem State.stopWindows_keeps {σ : State} {s : State} (c j : Nat) (hs : Keeps σ s) : Keeps σ (State.stopWindows s c j) := by
  unfold State.stopWindows
  repeat' (with_reducible
    first
    | assumption | apply State.kwpTearDown_keeps | apply State.slpTearDown_keeps | apply State.ccxTearDown_keeps
    | apply State.tagsBack_keeps | (intro _) | exact rfl | apply Keeps.fields)

theorem State.endJobState_keeps {σ : State} {s : State} (c j : Nat) (hs : Keeps σ s) : Keeps σ (State.endJobState s c j) := by
  unfold State.endJobState
  repeat' (with_reducible
    first
    | assumption | apply State.each_keeps | apply State.lose_keeps | apply State.setHandle_keeps | apply State.dropStores_keeps
    | extract_lets | (intro _) | exact rfl | apply Keeps.fields)

theorem State.tornDown_keeps {σ : State} {s : State} (c j n : Nat) (hs : Keeps σ s) : Keeps σ (State.tornDown s c j n) := by
  unfold State.tornDown
  repeat' (with_reducible
    first
    | assumption | apply State.wrAt_keeps | apply State.updJsc_keeps | apply State.bump_keeps | apply State.evt_keeps
    | apply State.postJob_keeps | apply State.postPriv_keeps | apply State.settle_keeps | extract_lets | (intro _) | exact rfl
    | apply Keeps.fields)

theorem State.tearJob_keeps {σ : State} {s : State} (c j : Nat) (hs : Keeps σ s) : Keeps σ (State.tearJob s c j) := by
  unfold State.tearJob
  repeat' (with_reducible
    first
    | assumption | apply State.discardCmds_keeps | apply State.stopQueues_keeps | apply State.stopRings_keeps
    | apply State.stopWindows_keeps | apply State.endJobState_keeps | apply State.tornDown_keeps | extract_lets | (intro _)
    | exact rfl | apply Keeps.fields)

theorem execJobTeardown_keeps {σ : State} {s : State} (c j : Nat) (hs : Keeps σ s) : KeepsNext σ (execJobTeardown c j s) := by
  unfold execJobTeardown
  repeat' (with_reducible
    first
    | assumption | apply State.when_keeps | apply State.tearJob_keeps | apply KeepsNext.next | (intro _) | exact rfl
    | apply Keeps.fields)

end Sys2Proof.Machine
end

