-- ==== Sys2Proof/Laws/KeepsRegWrite.lean ====
section
/-! SUPPORT. Every operation of Machine/RegWrite.lean keeps what `Keeps` says. -/
namespace Sys2Proof.Machine

theorem State.row_keeps {σ s : State} (f : State → Host.Outcome State Fault Refusal) (hf : KeepsNext σ (f s)) (hs : Keeps σ s) :
    Keeps σ (s.row f) := by
  unfold State.row
  split
  · rename_i t e
    exact hf t e
  · exact hs

theorem State.actsNil_keeps {σ s : State} (hs : Keeps σ s) : Keeps σ (s.acts []) := hs

theorem State.actsCons_keeps {σ s : State} (b : Bool) (f : State → State) (l : List (Bool × (State → State)))
    (hf : ∀ t, Keeps σ t → Keeps σ (f t)) (hl : ∀ t, Keeps σ t → Keeps σ (t.acts l)) (hs : Keeps σ s) :
    Keeps σ (s.acts ((b, f) :: l)) := hl _ (State.when_keeps b f hf hs)

theorem State.ctrlWrite_keeps {σ : State} {s : State} (p : Page) (v : Word) (hs : Keeps σ s) :
    Keeps σ (State.ctrlWrite s p v) := by
  unfold State.ctrlWrite
  repeat' (with_reducible
    first
    | assumption | apply State.when_keeps | apply State.resetWork_keeps | apply State.logIgnored_keeps
    | apply State.setEnable_keeps | apply State.setQuiesce_keeps | apply State.mayReady_keeps | apply State.setLock_keeps
    | extract_lets | split | (intro _) | exact rfl | apply Keeps.fields)

theorem State.headerWrite_keeps {σ : State} {s : State} (p : Page) (off : Nat) (v : Word) (hs : Keeps σ s) :
    Keeps σ (State.headerWrite s p off v) := by
  unfold State.headerWrite
  repeat' (with_reducible
    first
    | assumption | apply State.ctrlWrite_keeps | apply State.clearEvts_keeps | apply State.storeActive_keeps
    | apply State.each_keeps | apply State.evt_keeps | apply State.logIgnored_keeps | apply State.clearErrLog_keeps | split
    | (intro _) | exact rfl | apply Keeps.fields)

theorem State.ringWrite_keeps {σ : State} {s : State} (c : Nat) (r : RingRegs) (v : Word) (hs : Keeps σ s) :
    Keeps σ (State.ringWrite s c r v) := by
  unfold State.ringWrite
  repeat' (with_reducible
    first
    | assumption | apply State.when_keeps | apply State.accrue_keeps | apply State.store_keeps | apply State.logIgnored_keeps
    | apply State.flushCpl_keeps | apply State.settle_keeps | apply State.ringStart_keeps | extract_lets | split | (intro _)
    | exact rfl | apply Keeps.fields)

theorem State.seedWrite_keeps {σ : State} {s : State} (p : Page) (off : Nat) (v : Word) (hs : Keeps σ s) :
    Keeps σ (State.seedWrite s p off v) := by
  unfold State.seedWrite
  repeat' (with_reducible
    first
    | assumption | apply State.logIgnored_keeps | apply State.evt_keeps | apply State.storeActive_keeps | split | (intro _)
    | exact rfl | apply Keeps.fields)

theorem State.t2Ctrl_keeps {σ : State} {s : State} (v : Word) (hs : Keeps σ s) : Keeps σ (State.t2Ctrl s v) := by
  unfold State.t2Ctrl
  repeat' (with_reducible
    first
    | assumption | apply State.store_keeps | apply State.when_keeps | apply State.logIgnored_keeps | extract_lets | split
    | (intro _) | exact rfl | apply Keeps.fields)

theorem State.rgnDisable_keeps {σ : State} {s : State} (c : Nat) (v : Word) (hs : Keeps σ s) :
    Keeps σ (State.rgnDisable s c v) := by
  unfold State.rgnDisable
  repeat' (with_reducible
    first
    | assumption | apply State.store_keeps | apply State.wr_keeps | apply State.when_keeps | apply State.logIgnored_keeps
    | extract_lets | split | (intro _) | exact rfl | apply Keeps.fields)

theorem State.kwpCfg_keeps {σ : State} {s : State} (c : Nat) (v : Word) (hs : Keeps σ s) : Keeps σ (State.kwpCfg s c v) := by
  unfold State.kwpCfg
  repeat' (with_reducible
    first
    | assumption | apply State.store_keeps | apply State.syncSplit_keeps | apply State.syncSolrov_keeps | apply State.when_keeps
    | apply State.kwpResume_keeps | (intro _) | exact rfl | apply Keeps.fields)

theorem State.bankWrite_keeps {σ : State} {s : State} (p : Page) (off : Nat) (v : Word) (hs : Keeps σ s) :
    Keeps σ (State.bankWrite s p off v) := by
  unfold State.bankWrite
  repeat' (with_reducible
    first
    | assumption | apply State.storeActive_keeps | apply State.logIgnored_keeps | apply State.ringWrite_keeps
    | apply State.when_keeps | apply State.setPln_keeps | apply State.updRqt_keeps | apply State.seedWrite_keeps
    | apply State.kwpCfg_keeps | apply State.winAssign_keeps | apply State.t2Ctrl_keeps | apply State.rgnDisable_keeps
    | apply State.keepTokens_keeps | apply State.alertEdge_keeps | extract_lets | split | (intro _)
    | (apply Keeps.fst_of; assumption) | (apply Keeps.snd_of; assumption) | (apply Keeps.some_of; assumption) | exact rfl
    | apply Keeps.fields)

theorem State.jobCmd_keeps {σ : State} {s : State} (rq : Requester) (c : Nat) (v : Word) (hs : Keeps σ s) :
    Keeps σ (State.jobCmd s rq c v) := by
  unfold State.jobCmd
  split
  · exact State.row_keeps _ (execKill_keeps _ _ _ hs) hs
  · exact State.when_keeps _ _ (fun t ht => State.row_keeps _ (execClear_keeps _ _ ht) ht) hs

theorem State.faultResp_keeps {σ : State} {s : State} (rq : Requester) (c : Nat) (v : Word) (hs : Keeps σ s) :
    Keeps σ (State.faultResp s rq c v) := by
  unfold State.faultResp
  repeat' (with_reducible
    first
    | assumption | apply State.row_keeps | apply execFaultRetry_keeps | apply execFaultFail_keeps | apply State.onWrite_keeps
    | apply State.respIgnored_keeps | apply State.logIgnored_keeps | split | (intro _) | exact rfl | apply Keeps.fields)

/-- Every entry of a list of register writes keeps what `Keeps` says. -/
def RowsKeep (σ : State) (l : List (RegId × (State → State))) : Prop := ∀ x ∈ l, ∀ t, Keeps σ t → Keeps σ (x.2 t)

theorem RowsKeep.nil {σ : State} : RowsKeep σ [] := fun _ h => by cases h

theorem RowsKeep.cons {σ : State} {r : RegId} {f : State → State} {l : List (RegId × (State → State))}
    (h : ∀ t, Keeps σ t → Keeps σ (f t)) (k : RowsKeep σ l) : RowsKeep σ ((r, f) :: l) := by
  intro x hx
  rcases List.mem_cons.1 hx with rfl | hx
  · exact h
  · exact k x hx

theorem rowWrites_keeps {σ : State} (rq : Requester) (c : Nat) (v : Word) (b : Blk) : RowsKeep σ (rowWrites rq c v b) := by
  unfold rowWrites
  repeat' (first
    | with_reducible assumption
    | with_reducible exact RowsKeep.nil
    | with_reducible apply RowsKeep.cons
    | (with_reducible intro (_ : State) _)
    | with_reducible apply State.row_keeps
    | with_reducible apply State.actsNil_keeps
    | with_reducible apply State.actsCons_keeps
    | with_reducible apply State.jobCmd_keeps
    | with_reducible apply State.faultResp_keeps
    | with_reducible apply State.when_keeps
    | with_reducible apply execTodSet_keeps
    | with_reducible apply execTodStep_keeps
    | with_reducible apply execServoOffset_keeps
    | with_reducible apply execCadRunSet_keeps
    | with_reducible apply execCadRunClear_keeps
    | with_reducible apply execPlanLoad_keeps
    | with_reducible apply execPlanDiscard_keeps
    | with_reducible apply execRerankEnWrite_keeps
    | with_reducible apply execVseRepairPop_keeps
    | with_reducible apply execTokenAssign_keeps
    | with_reducible apply execTlbInvalidate_keeps
    | with_reducible apply execConnSet_keeps
    | with_reducible apply execConnReset_keeps
    | with_reducible apply execConnDestroy_keeps
    | with_reducible apply execConnSnap_keeps
    | with_reducible apply execShaperRateWrite_keeps
    | with_reducible apply execShaperConfigWrite_keeps
    | with_reducible apply execPolicerConfigWrite_keeps
    | with_reducible apply execSolrovModeEnter_keeps
    | with_reducible apply execAbandon_keeps
    | with_reducible apply execSlpRevive_keeps
    | with_reducible apply execCcxJoin_keeps
    | with_reducible apply execCcxLeave_keeps
    | with_reducible apply execCcxRevive_keeps
    | with_reducible apply execMbxRouteWrite_keeps
    | with_reducible apply execEmpty_keeps
    | with_reducible apply execClrCollision_keeps
    | with_reducible apply execMbxRxAck_keeps
    | with_reducible apply execThrotForceWrite_keeps
    | with_reducible apply execRasInject_keeps
    | with_reducible apply execArm_keeps
    | with_reducible apply execSnap_keeps
    | with_reducible apply execDbgMemRead_keeps
    | with_reducible apply execSpareCommit_keeps
    | with_reducible apply execSpareDecline_keeps
    | with_reducible apply execRegionEnable_keeps
    | split)

theorem State.regWrite_keeps {σ : State} {s : State} (rq : Requester) (p : Page) (off : Nat) (w : Word) (hs : Keeps σ s) :
    Keeps σ (State.regWrite s rq p off w) := by
  unfold State.regWrite
  extract_lets v
  split
  · exact hs
  · split
    · exact State.row_keeps _ (execJobContextWrite_keeps _ _ _ _ hs) hs
    · split
      · rename_i r e
        exact rowWrites_keeps rq p.idx v p.blk r (List.mem_of_find?_eq_some e) s hs
      · refine State.withWrite_keeps _ _ _ _ _ (fun t ht => ?_) hs
        split
        · exact State.headerWrite_keeps _ _ _ ht
        · exact State.bankWrite_keeps _ _ _ ht

end Sys2Proof.Machine
end

