-- ==== Sys2Proof/Laws/KeepsBoot.lean ====
section
/-! SUPPORT. Every operation of Machine/Boot.lean keeps what `Keeps` says. -/
namespace Sys2Proof.Machine

theorem State.warm_keeps {σ : State} {s : State} (hs : Keeps σ s) :
    Keeps σ (State.warm s) := by
  unfold State.warm
  refine State.alertEdge_keeps _ ?_
  have hc : Keeps s s.cold := State.cold_keeps (Keeps.refl s)
  exact hs.trans { hc with regs := fun w => SMap.wf_filter _ w }

theorem State.powerLoss_keeps {σ : State} {s : State} (hs : Keeps σ s) : Keeps σ (State.powerLoss s) := by
  unfold State.powerLoss
  repeat' (with_reducible
    first
    | assumption | apply State.alertEdge_keeps | apply State.cold_keeps | (intro _) | exact rfl | apply Keeps.fields)

theorem execPowerLoss_keeps {σ : State} {s : State} (hs : Keeps σ s) : KeepsNext σ (execPowerLoss s) := by
  unfold execPowerLoss
  repeat' (with_reducible
    first
    | assumption | apply State.powerLoss_keeps | apply KeepsNext.next | (intro _) | exact rfl | apply Keeps.fields)

theorem execPowerGood_keeps {σ : State} {s : State} (sysrefSel : Bool) (hs : Keeps σ s) :
    KeepsNext σ (execPowerGood sysrefSel s) := by
  unfold execPowerGood
  repeat' (with_reducible
    first
    | assumption | apply State.when_keeps | apply State.setBoot_keeps | apply KeepsNext.next | extract_lets | (intro _)
    | exact rfl | apply Keeps.fields)

theorem execModReset_keeps {σ : State} {s : State} (hs : Keeps σ s) : KeepsNext σ (execModReset s) := by
  unfold execModReset
  repeat' (with_reducible
    first
    | assumption | apply State.when_keeps | apply State.warm_keeps | apply KeepsNext.next | (intro _) | exact rfl
    | apply Keeps.fields)

theorem execWarmReset_keeps {σ : State} {s : State} (rq : Requester) (hs : Keeps σ s) : KeepsNext σ (execWarmReset rq s) := by
  unfold execWarmReset
  repeat' (with_reducible
    first
    | assumption | apply State.onWrite_keeps | apply State.warm_keeps | apply KeepsNext.next | (intro _) | exact rfl
    | apply Keeps.fields)

theorem State.measure_keeps {σ : State} {s : State} (i : Nat) (h : List Byte) (hs : Keeps σ s) :
    Keeps σ (State.measure s i h) := by
  unfold State.measure
  repeat' (with_reducible
    first
    | assumption | apply State.setSec_keeps | (intro _) | exact rfl | apply Keeps.fields)

theorem State.measureHw_keeps {σ : State} {s : State} (hs : Keeps σ s) : Keeps σ (State.measureHw s) := by
  unfold State.measureHw
  repeat' (with_reducible
    first
    | assumption | apply State.measure_keeps | extract_lets | (intro _) | exact rfl | apply Keeps.fields)

theorem State.fuseRegs_keeps {σ : State} {s : State} (hs : Keeps σ s) : Keeps σ (State.fuseRegs s) := by
  unfold State.fuseRegs
  repeat' (with_reducible
    first
    | assumption | apply State.wr_keeps | apply State.each_keeps | apply State.wrAt_keeps | extract_lets | (intro _) | exact rfl
    | apply Keeps.fields)

theorem State.romStart_keeps {σ : State} {s : State} (srcCxl : Bool) (hs : Keeps σ s) : Keeps σ (State.romStart s srcCxl) := by
  unfold State.romStart
  repeat' (with_reducible
    first
    | assumption | apply State.setBoot_keeps | apply State.updCore_keeps | apply State.each_keeps | apply State.setDom_keeps
    | extract_lets | (intro _) | exact rfl | apply Keeps.fields)

theorem execFusesLoaded_keeps {σ : State} (f : Fuses) (srcCxl : Bool) {s : State} (hs : Keeps σ s) :
    KeepsNext σ (execFusesLoaded f srcCxl s) := by
  unfold execFusesLoaded
  refine KeepsNext.next (State.when_keeps _ _ (fun t ht => ?_) hs)
  refine State.romStart_keeps _ (State.measureHw_keeps (State.measure_keeps _ _ (State.setSec_keeps _ (State.fuseRegs_keeps ?_))))
  refine State.setBoot_keeps_fuses _ (fun w => ⟨rfl, ?_⟩) ht
  show t.boot.fuses.grows (if t.boot.fused = true then t.boot.fuses else f)
  rw [if_pos w]
  exact grows_refl _

theorem execLoadBootImage_keeps {σ : State} {s : State} (off : Nat) (data : List Byte) (hs : Keeps σ s) :
    KeepsNext σ (execLoadBootImage off data s) := by
  unfold execLoadBootImage
  repeat' (with_reducible
    first
    | assumption | apply State.when_keeps | apply State.emit_keeps | apply State.setBoot_keeps | apply KeepsNext.next | split
    | (intro _) | exact rfl | apply Keeps.fields)

theorem execBootImageDone_keeps {σ : State} {s : State} (hs : Keeps σ s) : KeepsNext σ (execBootImageDone s) := by
  unfold execBootImageDone
  repeat' (with_reducible
    first
    | assumption | apply State.when_keeps | apply State.setBoot_keeps | apply KeepsNext.next | (intro _) | exact rfl
    | apply Keeps.fields)

theorem State.bootFail_keeps {σ : State} {s : State} (code : Nat) (hs : Keeps σ s) : Keeps σ (State.bootFail s code) := by
  unfold State.bootFail
  repeat' (with_reducible
    first
    | assumption | apply State.setBoot_keeps | apply State.updCore_keeps | apply State.when_keeps | apply State.bump_keeps
    | apply State.evt_keeps | apply State.alertEdge_keeps | extract_lets | (intro _) | exact rfl | apply Keeps.fields)

theorem execBootImageTimeout_keeps {σ : State} {s : State} (hs : Keeps σ s) : KeepsNext σ (execBootImageTimeout s) := by
  unfold execBootImageTimeout
  repeat' (with_reducible
    first
    | assumption | apply State.when_keeps | apply State.passToNow_keeps | apply State.bootFail_keeps | apply KeepsNext.next
    | (intro _) | exact rfl | apply Keeps.fields)

theorem State.bootPass_keeps {σ : State} {s : State} (img : List Byte) (hs : Keeps σ s) : Keeps σ (State.bootPass s img) := by
  unfold State.bootPass
  repeat' (with_reducible
    first
    | assumption | apply State.setBoot_keeps | apply State.setSec_keeps | apply State.measureHw_keeps
    | apply State.measure_keeps | extract_lets | (intro _) | exact rfl | apply Keeps.fields)

theorem execImageReceived_keeps {σ : State} {s : State} (readError : Bool) (hs : Keeps σ s) :
    KeepsNext σ (execImageReceived readError s) := by
  unfold execImageReceived
  repeat' (with_reducible
    first
    | assumption | apply State.when_keeps | apply State.bootFail_keeps | apply State.bootPass_keeps | apply KeepsNext.next
    | split | (intro _) | (apply Keeps.fst_of; assumption) | (apply Keeps.snd_of; assumption)
    | (apply Keeps.some_of; assumption) | exact rfl | apply Keeps.fields)

theorem State.bootRetry_keeps {σ : State} {s : State} (rq : Requester) (srcCxl : Bool) (hs : Keeps σ s) :
    Keeps σ (State.bootRetry s rq srcCxl) := by
  unfold State.bootRetry
  repeat' (with_reducible
    first
    | assumption | apply State.when_keeps | apply State.alertEdge_keeps | apply State.romStart_keeps | (intro _) | exact rfl
    | apply Keeps.fields)

theorem execBootRetry_keeps {σ : State} {s : State} (rq : Requester) (srcCxl : Bool) (hs : Keeps σ s) :
    KeepsNext σ (execBootRetry rq srcCxl s) := by
  unfold execBootRetry
  repeat' (with_reducible
    first
    | assumption | apply State.onWrite_keeps | apply State.bootRetry_keeps | apply KeepsNext.next | (intro _) | exact rfl
    | apply Keeps.fields)

theorem State.blkcfg_keeps {σ : State} {s : State} (r : List Byte) (hs : Keeps σ s) : Keeps σ (State.blkcfg s r) := by
  unfold State.blkcfg
  repeat' (with_reducible
    first
    | assumption | apply State.regWrite_keeps | extract_lets | split | (intro _) | (apply Keeps.fst_of; assumption)
    | (apply Keeps.snd_of; assumption) | (apply Keeps.some_of; assumption) | exact rfl | apply Keeps.fields)

theorem execLoadPhaseDone_keeps {σ : State} {s : State} (hs : Keeps σ s) : KeepsNext σ (execLoadPhaseDone s) := by
  unfold execLoadPhaseDone
  repeat' (with_reducible
    first
    | assumption | apply State.when_keeps | apply State.each_keeps | apply State.blkcfg_keeps | apply State.updCore_keeps
    | apply State.measure_keeps | apply State.setDom_keeps | apply State.wake_keeps | apply State.setBoot_keeps
    | apply KeepsNext.next | extract_lets | (intro _) | exact rfl | apply Keeps.fields)

theorem State.bootPlan_keeps {σ : State} {s : State} (hs : Keeps σ s) : Keeps σ (State.bootPlan s) := by
  unfold State.bootPlan
  repeat' (with_reducible
    first
    | assumption | apply State.setPln_keeps | apply State.epochRegs_keeps | apply State.cadRegs_keeps | split | (intro _)
    | (apply Keeps.fst_of; assumption) | (apply Keeps.snd_of; assumption) | (apply Keeps.some_of; assumption) | exact rfl
    | apply Keeps.fields)

theorem State.initCh_keeps {σ : State} {s : State} (c : Nat) (hs : Keeps σ s) : Keeps σ (State.initCh s c) := by
  unfold State.initCh
  repeat' (with_reducible
    first
    | assumption | apply State.rebuildPool_keeps | apply State.calActivate_keeps | (intro _) | exact rfl | apply Keeps.fields)

theorem State.releasePage_keeps {σ : State} {s : State} (p : Page) (hs : Keeps σ s) : Keeps σ (State.releasePage s p) := by
  unfold State.releasePage
  repeat' (with_reducible
    first
    | assumption | apply State.setEnable_keeps | (intro _) | exact rfl | apply Keeps.fields)

theorem State.releaseAll_keeps {σ : State} {s : State} (failed : List Nat) (hs : Keeps σ s) :
    Keeps σ (State.releaseAll s failed) := by
  unfold State.releaseAll
  repeat' (with_reducible
    first
    | assumption | apply State.bootPlan_keeps | apply State.setBoot_keeps | apply State.each_keeps | apply State.setDom_keeps
    | apply State.initCh_keeps | apply State.when_keeps | apply State.releasePage_keeps | apply State.chanDown_keeps
    | apply State.rerouteFrom_keeps | apply State.evtPriv_keeps | apply foldl_keeps | apply foldl_fst_keeps | extract_lets
    | (intro _) | exact rfl | apply Keeps.fields)

theorem execTrainingDone_keeps {σ : State} {s : State} (failed : List Nat) (hs : Keeps σ s) :
    KeepsNext σ (execTrainingDone failed s) := by
  unfold execTrainingDone
  repeat' (with_reducible
    first
    | assumption | apply State.when_keeps | apply State.releaseAll_keeps | apply KeepsNext.next | (intro _) | exact rfl
    | apply Keeps.fields)

end Sys2Proof.Machine
end

