-- ==== Sys2Proof/Laws/KeepsCommit.lean ====
section
/-! SUPPORT. Every operation of Machine/Commit.lean keeps what `Keeps` says. -/
namespace Sys2Proof.Machine

theorem State.copyPage_keeps {σ : State} {s : State} (c i k : Nat) (d : Desc) (hs : Keeps σ s) :
    KeepsSome σ (State.copyPage s c i k d) := by
  unfold State.copyPage
  repeat' (with_reducible
    first
    | assumption | apply State.allocPage_keeps | apply State.touchImage_keeps | apply State.when_keeps
    | apply State.poisonPage_keeps | apply State.imgWrite_keeps | apply State.passHome_keeps | apply State.setPte_keeps
    | apply State.decRef_keeps | apply State.bump_keeps | exact KeepsSome.none | apply KeepsSome.some | apply KeepsSome.map
    | apply KeepsSome.bind | (apply Keeps.some_of; assumption) | extract_lets | split | (intro _)
    | (apply Keeps.fst_of; assumption) | (apply Keeps.snd_of; assumption) | exact rfl | apply Keeps.fields)

theorem State.freshPage_keeps {σ : State} {s : State} (c i k : Nat) (hs : Keeps σ s) :
    KeepsSome σ (State.freshPage s c i k) := by
  unfold State.freshPage
  repeat' (with_reducible
    first
    | assumption | apply State.allocPage_keeps | apply State.ensureL2_keeps | apply State.setPte_keeps | exact KeepsSome.none
    | apply KeepsSome.some | apply KeepsSome.map | apply KeepsSome.bind | (apply Keeps.some_of; assumption) | split | (intro _)
    | (apply Keeps.fst_of; assumption) | (apply Keeps.snd_of; assumption) | exact rfl | apply Keeps.fields)

theorem State.editWrite_keeps {σ : State} {s : State} (job : Nat) (pl : Place) (x : PageEdit) (hs : Keeps σ s) :
    Keeps σ (State.editWrite s job pl x) := by
  unfold State.editWrite
  repeat' (with_reducible
    first
    | assumption | apply State.each_keeps | apply State.imgWrite_keeps | (intro _) | exact rfl | apply Keeps.fields)

theorem State.fillPage_keeps {σ : State} {s : State} (c i k : Nat) (d : Desc) (toks : List (Nat × Nat × List LBlock))
    (hs : Keeps σ s) :
    Keeps σ (State.fillPage s c i k d toks) := by
  unfold State.fillPage
  repeat' (with_reducible
    first
    | assumption | apply State.touchImage_keeps | apply State.poisonPage_keeps | apply State.editWrite_keeps
    | apply State.setPte_keeps | apply State.bump_keeps | apply State.updStep_keeps | apply State.buildFar_keeps
    | apply foldl_keeps | apply foldl_fst_keeps | extract_lets | split | (intro _) | exact rfl | apply Keeps.fields)

theorem State.commitPage_keeps {σ : State} {s : State} (c i k : Nat) (d : Desc) (toks : List (Nat × Nat × List LBlock))
    (hs : Keeps σ s) :
    KeepsSome σ (State.commitPage s c i k d toks) := by
  unfold State.commitPage
  repeat' (with_reducible
    first
    | assumption | apply State.fillPage_keeps | apply State.copyPage_keeps | apply State.freshPage_keeps | exact KeepsSome.none
    | apply KeepsSome.some | apply KeepsSome.map | apply KeepsSome.bind | (apply Keeps.some_of; assumption) | split | (intro _)
    | (apply Keeps.fst_of; assumption) | (apply Keeps.snd_of; assumption) | exact rfl | apply Keeps.fields)

theorem State.tryEach_keeps {σ : State} {α : Type} {s : State} (x0 : List α) (x1 : (State → α → Option State)) (hx1 : ∀ (a0 : State) (a1 : α), Keeps σ a0 → KeepsSome σ (x1 a0 a1)) (hs : Keeps σ s) :
    KeepsSome σ (State.tryEach s x0 x1) := by
  induction x0 generalizing s with
  | nil =>
    unfold State.tryEach
    repeat' (with_reducible
      first
      | assumption | exact KeepsSome.none | apply hx1 | apply KeepsSome.some | apply KeepsSome.bind | (intro _))
  | cons a l ih =>
    unfold State.tryEach
    repeat' (with_reducible
      first
      | assumption | apply ih | exact KeepsSome.none | apply hx1 | apply KeepsSome.some | apply KeepsSome.bind | (intro _))

theorem State.writeStates_keeps {σ : State} {s : State} (c i src : Nat) (hs : Keeps σ s) :
    Keeps σ (State.writeStates s c i src) := by
  unfold State.writeStates
  repeat' (with_reducible
    first
    | assumption | apply State.each_keeps | apply State.vwrite_keeps | extract_lets | split | (intro _)
    | (apply Keeps.fst_of; assumption) | (apply Keeps.snd_of; assumption) | (apply Keeps.some_of; assumption) | exact rfl
    | apply Keeps.fields)

theorem State.buildMet_keeps {σ : State} {s : State} (c i : Nat) (hs : Keeps σ s) : Keeps σ (State.buildMet s c i) := by
  unfold State.buildMet
  repeat' (with_reducible
    first
    | assumption | apply State.each_keeps | apply State.touchImage_keeps | apply State.poisonPage_keeps
    | apply State.buildFar_keeps | apply State.updStep_keeps | extract_lets | split | (intro _)
    | (apply Keeps.fst_of; assumption) | (apply Keeps.snd_of; assumption) | (apply Keeps.some_of; assumption) | exact rfl
    | apply Keeps.fields)

theorem State.buildLeft_keeps {σ : State} {s : State} (c : Nat) (hs : Keeps σ s) : Keeps σ (State.buildLeft s c) := by
  unfold State.buildLeft
  repeat' (with_reducible
    first
    | assumption | apply State.each_keeps | apply State.buildMet_keeps | (intro _) | exact rfl | apply Keeps.fields)

theorem State.updateScores_keeps {σ : State} {s : State} (c i : Nat) (hs : Keeps σ s) : Keeps σ (State.updateScores s c i) := by
  unfold State.updateScores
  repeat' (with_reducible
    first
    | assumption | apply State.each_keeps | apply State.setPte_keeps | apply State.stepFlags_keeps | extract_lets | split
    | (intro _) | exact rfl | apply Keeps.fields)

theorem State.advanceEntry_keeps {σ : State} {s : State} (c i : Nat) (hs : Keeps σ s) : Keeps σ (State.advanceEntry s c i) := by
  unfold State.advanceEntry
  repeat' (with_reducible
    first
    | assumption | apply State.updReq_keeps | extract_lets | split | (intro _) | exact rfl | apply Keeps.fields)

theorem State.stallCommit_keeps {σ : State} {s : State} (c i : Nat) (hs : Keeps σ s) : Keeps σ (State.stallCommit s c i) := by
  unfold State.stallCommit
  repeat' (with_reducible
    first
    | assumption | apply State.postCrFull_keeps | apply State.bump_keeps | apply State.updSmp_keeps | extract_lets | split
    | (intro _) | exact rfl | apply Keeps.fields)

theorem State.commitRecord_keeps {σ : State} {s : State} (c i : Nat) (flags : Nat) (hs : Keeps σ s) :
    Keeps σ (State.commitRecord s c i flags) := by
  unfold State.commitRecord
  repeat' (with_reducible
    first
    | assumption | apply State.smpEvt_keeps | apply State.putCr_keeps | extract_lets | split | (intro _) | exact rfl
    | apply Keeps.fields)

theorem State.finishCommit_keeps {σ : State} {s : State} (c i : Nat) (hs : Keeps σ s) : Keeps σ (State.finishCommit s c i) := by
  unfold State.finishCommit
  repeat' (with_reducible
    first
    | assumption | apply State.when_keeps | apply State.onCommit_keeps | apply State.updCounts_keeps
    | apply State.advanceEntry_keeps | apply State.setEnd_keeps | apply State.bump_keeps | apply State.commitRecord_keeps
    | apply State.shardEnd_keeps | apply State.monitorOnce_keeps | apply State.updStep_keeps | apply State.updSmp_keeps
    | extract_lets | split | (intro _) | exact rfl | apply Keeps.fields)

theorem State.poolDrop_keeps {σ : State} {s : State} (c i : Nat) (hs : Keeps σ s) : Keeps σ (State.poolDrop s c i) := by
  unfold State.poolDrop
  repeat' (with_reducible
    first
    | assumption | apply State.buildMet_keeps | apply State.dropStep_keeps | apply State.evtJob_keeps
    | apply State.monitorLate_keeps | extract_lets | (intro _) | exact rfl | apply Keeps.fields)

theorem State.commitState_keeps {σ : State} {s : State} (c i src : Nat) (hs : Keeps σ s) :
    KeepsSome σ (State.commitState s c i src) := by
  unfold State.commitState
  repeat' (with_reducible
    first
    | assumption | apply State.tryEach_keeps | apply State.commitPage_keeps | apply State.writeStates_keeps
    | apply State.buildMet_keeps | apply State.when_keeps | apply State.updateScores_keeps | exact KeepsSome.none
    | apply KeepsSome.some | apply KeepsSome.map | apply KeepsSome.bind | (apply Keeps.some_of; assumption) | extract_lets
    | (intro _) | exact rfl | apply Keeps.fields)

theorem State.commitOne_keeps {σ : State} {s : State} (c i src : Nat) (hs : Keeps σ s) :
    Keeps σ (State.commitOne s c i src) := by
  unfold State.commitOne
  repeat' (with_reducible
    first
    | assumption | apply State.buildMet_keeps | apply State.dropStep_keeps | apply State.monitorLate_keeps
    | apply State.commitState_keeps | apply State.poolDrop_keeps | apply State.finishCommit_keeps | exact KeepsSome.none
    | apply KeepsSome.some | apply KeepsSome.map | apply KeepsSome.bind | (apply Keeps.some_of; assumption) | split | (intro _)
    | (apply Keeps.fst_of; assumption) | (apply Keeps.snd_of; assumption) | exact rfl | apply Keeps.fields)

theorem State.adoptPages_keeps {σ : State} {s : State} (s0 : State) (c i p : Nat) (hs : Keeps σ s) :
    KeepsSome σ (State.adoptPages s s0 c i p) := by
  unfold State.adoptPages
  repeat' (with_reducible
    first
    | assumption | apply State.newTable_keeps | apply State.tryEach_keeps | apply State.ensureL2_keeps
    | apply State.setPte_keeps | apply State.incRef_keeps | apply State.updReq_keeps | exact KeepsSome.none
    | apply KeepsSome.some | apply KeepsSome.map | apply KeepsSome.bind | (apply Keeps.some_of; assumption) | extract_lets
    | split | (intro _) | (apply Keeps.fst_of; assumption) | (apply Keeps.snd_of; assumption) | exact rfl | apply Keeps.fields)

theorem State.dropOldTable_keeps {σ : State} {s : State} (s0 : State) (c i : Nat) (hs : Keeps σ s) :
    Keeps σ (State.dropOldTable s s0 c i) := by
  unfold State.dropOldTable
  repeat' (with_reducible
    first
    | assumption | apply State.releaseTable_keeps | apply State.updReq_keeps | apply State.uncharge_keeps | extract_lets
    | (intro _) | exact rfl | apply Keeps.fields)

theorem State.reparent_keeps {σ : State} {s : State} (c : Nat) (ms : List (Nat × Nat)) (hs : Keeps σ s) :
    KeepsSome σ (State.reparent s c ms) := by
  unfold State.reparent
  repeat' (with_reducible
    first
    | assumption | apply State.tryEach_keeps | apply State.adoptPages_keeps | apply State.each_keeps
    | apply State.dropOldTable_keeps | apply State.when_keeps | apply State.writeParts_keeps | exact KeepsSome.none
    | apply KeepsSome.some | apply KeepsSome.map | apply KeepsSome.bind | (apply Keeps.some_of; assumption) | extract_lets
    | (intro _) | exact rfl | apply Keeps.fields)

theorem State.carryScores_keeps {σ : State} {s : State} (c : Nat) (live : List BeamMember) (hs : Keeps σ s) :
    Keeps σ (State.carryScores s c live) := by
  unfold State.carryScores
  repeat' (with_reducible
    first
    | assumption | apply State.updSmp_keeps | extract_lets | split | (intro _) | exact rfl | apply Keeps.fields)

theorem State.commitGroup_keeps {σ : State} {s : State} (c : Nat) (live : List BeamMember) (hs : Keeps σ s) :
    Keeps σ (State.commitGroup s c live) := by
  unfold State.commitGroup
  repeat' (with_reducible
    first
    | assumption | apply State.reparent_keeps | apply State.each_keeps | apply State.poolDrop_keeps
    | apply State.carryScores_keeps | apply State.updStep_keeps | apply State.commitOne_keeps | apply State.when_keeps
    | exact KeepsSome.none | apply KeepsSome.some | apply KeepsSome.map | apply KeepsSome.bind
    | (apply Keeps.some_of; assumption) | extract_lets | split | (intro _) | (apply Keeps.fst_of; assumption)
    | (apply Keeps.snd_of; assumption) | exact rfl | apply Keeps.fields)

theorem State.beginCommit_keeps {σ : State} {s : State} (c : Nat) (slots : List Nat) (hs : Keeps σ s) :
    Keeps σ (State.beginCommit s c slots) := by
  unfold State.beginCommit
  repeat' (with_reducible
    first
    | assumption | apply State.updSmp_keeps | split | (intro _) | exact rfl | apply Keeps.fields)

theorem State.underBegun_keeps {σ : State} {s : State} (c i : Nat) (f : State → State) (hf : ∀
    (a0 : State), Keeps σ a0 → Keeps σ (f a0)) (hs : Keeps σ s) :
    Keeps σ (State.underBegun s c i f) := by
  unfold State.underBegun
  repeat' (with_reducible
    first
    | assumption | apply hf | apply State.under_keeps | (intro _) | exact rfl | apply Keeps.fields)

theorem State.tryCommit_keeps {σ : State} {s : State} (c i : Nat) (live : List BeamMember) (slots : List Nat) (hs : Keeps σ s) :
    Keeps σ (State.tryCommit s c i live slots) := by
  unfold State.tryCommit
  repeat' (with_reducible
    first
    | assumption | apply State.beginCommit_keeps | apply State.stallCommit_keeps | apply State.commitOne_keeps
    | apply State.commitGroup_keeps | extract_lets | split | (intro _) | (apply Keeps.fst_of; assumption)
    | (apply Keeps.snd_of; assumption) | (apply Keeps.some_of; assumption) | exact rfl | apply Keeps.fields)

theorem State.stepCommit_keeps {σ : State} {s : State} (c i : Nat) (hs : Keeps σ s) : Keeps σ (State.stepCommit s c i) := by
  unfold State.stepCommit
  repeat' (with_reducible
    first
    | assumption | apply State.underBegun_keeps | apply State.tryCommit_keeps | extract_lets | split | (intro _) | exact rfl
    | apply Keeps.fields)

theorem execStepCommit_keeps {σ : State} {s : State} (c slot : Nat) (hs : Keeps σ s) :
    KeepsNext σ (execStepCommit c slot s) := by
  unfold execStepCommit
  repeat' (with_reducible
    first
    | assumption | apply State.when_keeps | apply State.stepCommit_keeps | apply KeepsNext.next | (intro _) | exact rfl
    | apply Keeps.fields)

end Sys2Proof.Machine
end

