-- ==== Sys2Proof/Laws/KeepsCadence.lean ====
section
/-! SUPPORT. Every operation of Machine/Cadence.lean keeps what `Keeps` says. -/
namespace Sys2Proof.Machine

theorem State.bumpOvr_keeps {σ : State} {s : State} (n : Nat) (x0 : Window) (hs : Keeps σ s) :
    Keeps σ (State.bumpOvr s n x0) := by
  cases x0
  all_goals unfold State.bumpOvr
  all_goals
    repeat' (with_reducible
      first
      | assumption | apply State.bumpF_keeps)

theorem State.endWindow_keeps {σ : State} {s : State} (w : Window) (hs : Keeps σ s) : Keeps σ (State.endWindow s w) := by
  unfold State.endWindow
  repeat' (with_reducible
    first
    | assumption | apply State.bumpOvr_keeps | apply State.when_keeps | apply State.setTim_keeps | apply State.evt_keeps
    | extract_lets | split | (intro _) | exact rfl | apply Keeps.fields)

theorem State.pauseMoves_keeps {σ : State} {s : State} (next : Option Window) (hs : Keeps σ s) :
    Keeps σ (State.pauseMoves s next) := by
  unfold State.pauseMoves
  repeat' (with_reducible
    first
    | assumption | apply State.each_keeps | apply State.when_keeps | apply State.updMove_keeps | apply State.bump_keeps
    | extract_lets | split | (intro _) | (apply Keeps.fst_of; assumption) | (apply Keeps.snd_of; assumption)
    | (apply Keeps.some_of; assumption) | exact rfl | apply Keeps.fields)

theorem State.resumeMoves_keeps {σ : State} {s : State} (c : Nat) (hs : Keeps σ s) : Keeps σ (State.resumeMoves s c) := by
  unfold State.resumeMoves
  repeat' (with_reducible
    first
    | assumption | apply State.each_keeps | apply State.when_keeps | apply State.updMove_keeps | apply State.kwpGoOn_keeps
    | apply State.moveSettle_keeps | extract_lets | split | (intro _) | (apply Keeps.fst_of; assumption)
    | (apply Keeps.snd_of; assumption) | (apply Keeps.some_of; assumption) | exact rfl | apply Keeps.fields)

theorem State.openCh_keeps {σ : State} {s : State} (c : Nat) (hs : Keeps σ s) : Keeps σ (State.openCh s c) := by
  unfold State.openCh
  repeat' (with_reducible
    first
    | assumption | apply State.resumeMoves_keeps | apply State.openGates_keeps | apply State.kickMoves_keeps
    | apply State.schedMoves_keeps | apply State.kwpResume_keeps | (intro _) | exact rfl | apply Keeps.fields)

theorem State.openWindow_keeps {σ : State} {s : State} (w : Window) (hs : Keeps σ s) : Keeps σ (State.openWindow s w) := by
  unfold State.openWindow
  repeat' (with_reducible
    first
    | assumption | apply State.setTim_keeps | apply State.each_keeps | apply State.openCh_keeps | extract_lets | (intro _)
    | exact rfl | apply Keeps.fields)

theorem State.turnWindow_keeps {σ : State} {s : State} (old new : Window) (hs : Keeps σ s) :
    Keeps σ (State.turnWindow s old new) := by
  unfold State.turnWindow
  repeat' (with_reducible
    first
    | assumption | apply State.passToCad_keeps | apply State.fillShapers_keeps | apply State.accrueAll_keeps
    | apply State.endWindow_keeps | apply State.pauseMoves_keeps | apply State.openWindow_keeps | apply State.settleAll_keeps
    | extract_lets | (intro _) | exact rfl | apply Keeps.fields)

theorem State.dailyMarks_keeps {σ : State} {s : State} (hs : Keeps σ s) : Keeps σ (State.dailyMarks s) := by
  unfold State.dailyMarks
  repeat' (with_reducible
    first
    | assumption | apply State.each_keeps | apply State.updCh_keeps | apply State.updRas_keeps | apply State.setTim_keeps
    | apply State.mbxDay_keeps | extract_lets | (intro _) | exact rfl | apply Keeps.fields)

theorem State.boundaryPlan_keeps {σ : State} {s : State} (d : Nat) (hs : Keeps σ s) : Keeps σ (State.boundaryPlan s d) := by
  unfold State.boundaryPlan
  repeat' (with_reducible
    first
    | assumption | apply State.fillShapers_keeps | apply State.activatePlan_keeps | apply State.each_keeps
    | apply State.calActivate_keeps | extract_lets | split | (intro _) | exact rfl | apply Keeps.fields)

theorem State.beginDay_keeps {σ : State} {s : State} (d : Nat) (hs : Keeps σ s) : Keeps σ (State.beginDay s d) := by
  unfold State.beginDay
  repeat' (with_reducible
    first
    | assumption | apply State.each_keeps | apply State.lateMonitor_keeps | apply State.keepBanks_keeps
    | apply State.boundaryPlan_keeps | apply State.swapAll_keeps | apply State.remapSpares_keeps | apply State.setTim_keeps
    | apply State.dailyMarks_keeps | apply State.when_keeps | apply State.dawnRecovery_keeps | apply State.dawnStart_keeps
    | apply State.openWindow_keeps | extract_lets | (intro _) | exact rfl | apply Keeps.fields)

theorem State.stopCadence_keeps {σ : State} {s : State} (hs : Keeps σ s) : Keeps σ (State.stopCadence s) := by
  unfold State.stopCadence
  repeat' (with_reducible
    first
    | assumption | apply State.each_keeps | apply State.lateMonitor_keeps | apply State.setTim_keeps
    | apply State.pauseMoves_keeps | (intro _) | exact rfl | apply Keeps.fields)

theorem execCadenceStart_keeps {σ : State} {s : State} (hs : Keeps σ s) : KeepsNext σ (execCadenceStart s) := by
  unfold execCadenceStart
  repeat' (with_reducible
    first
    | assumption | apply State.when_keeps | apply State.passToTod_keeps | apply State.setTim_keeps | apply State.beginDay_keeps
    | apply KeepsNext.next | extract_lets | (intro _) | exact rfl | apply Keeps.fields)

theorem execDayBoundary_keeps {σ : State} {s : State} (hs : Keeps σ s) : KeepsNext σ (execDayBoundary s) := by
  unfold execDayBoundary
  repeat' (with_reducible
    first
    | assumption | apply State.when_keeps | apply State.passToCad_keeps | apply State.endWindow_keeps
    | apply State.stopCadence_keeps | apply State.setTim_keeps | apply State.pauseMoves_keeps | apply State.beginDay_keeps
    | apply KeepsNext.next | extract_lets | split | (intro _) | exact rfl | apply Keeps.fields)

theorem execRealignEnd_keeps {σ : State} {s : State} (hs : Keeps σ s) : KeepsNext σ (execRealignEnd s) := by
  unfold execRealignEnd
  repeat' (with_reducible
    first
    | assumption | apply State.when_keeps | apply State.passToTod_keeps | apply State.stopCadence_keeps
    | apply State.setTim_keeps | apply State.bump_keeps | apply State.evt_keeps | apply State.pauseMoves_keeps
    | apply State.beginDay_keeps | apply KeepsNext.next | extract_lets | split | (intro _) | exact rfl | apply Keeps.fields)

theorem State.enqueuePlan_keeps {σ : State} {s : State} (c : Nat) (hs : Keeps σ s) : Keeps σ (State.enqueuePlan s c) := by
  unfold State.enqueuePlan
  repeat' (with_reducible
    first
    | assumption | apply State.updJsc_keeps | extract_lets | (intro _) | exact rfl | apply Keeps.fields)

theorem execNoonStart_keeps {σ : State} {s : State} (hs : Keeps σ s) : KeepsNext σ (execNoonStart s) := by
  unfold execNoonStart
  repeat' (with_reducible
    first
    | assumption | apply State.when_keeps | apply State.turnWindow_keeps | apply State.each_keeps
    | apply State.enqueuePlan_keeps | apply KeepsNext.next | extract_lets | (intro _) | exact rfl | apply Keeps.fields)

theorem State.cutoffAll_keeps {σ : State} {s : State} (hs : Keeps σ s) : Keeps σ (State.cutoffAll s) := by
  unfold State.cutoffAll
  repeat' (with_reducible
    first
    | assumption | apply State.each_keeps | apply State.noonCutoff_keeps | (intro _) | exact rfl | apply Keeps.fields)

theorem execGuardStart_keeps {σ : State} {s : State} (hs : Keeps σ s) : KeepsNext σ (execGuardStart s) := by
  unfold execGuardStart
  repeat' (with_reducible
    first
    | assumption | apply State.when_keeps | apply State.passToCad_keeps | apply State.accrueAll_keeps | apply State.setTim_keeps
    | apply State.cutoffAll_keeps | apply State.settleAll_keeps | apply KeepsNext.next | extract_lets | (intro _) | exact rfl
    | apply Keeps.fields)

theorem execDuskStart_keeps {σ : State} {s : State} (hs : Keeps σ s) : KeepsNext σ (execDuskStart s) := by
  unfold execDuskStart
  repeat' (with_reducible
    first
    | assumption | apply State.when_keeps | apply State.passToCad_keeps | apply State.cutoffAll_keeps
    | apply State.turnWindow_keeps | apply State.each_keeps | apply State.buildLeft_keeps | apply State.duskCancelled_keeps
    | apply State.duskMonitor_keeps | apply State.duskFirst_keeps | apply KeepsNext.next | extract_lets | (intro _) | exact rfl
    | apply Keeps.fields)

theorem State.pgmMidnight_keeps {σ : State} {s : State} (c : Nat) (hs : Keeps σ s) : Keeps σ (State.pgmMidnight s c) := by
  unfold State.pgmMidnight
  repeat' (with_reducible
    first
    | assumption | apply State.each_keeps | apply State.releaseReq_keeps | apply State.releaseHandle_keeps
    | apply State.evictReq_keeps | apply State.reclaimAll_keeps | apply State.scrubAll_keeps | apply State.t0Moves_keeps
    | extract_lets | (intro _) | exact rfl | apply Keeps.fields)

theorem State.reportJob_keeps {σ : State} {s : State} (c j : Nat) (hs : Keeps σ s) : Keeps σ (State.reportJob s c j) := by
  unfold State.reportJob
  repeat' (with_reducible
    first
    | assumption | apply State.wrAt_keeps | apply State.translateRange_keeps | apply State.bump_keeps
    | apply State.writeSpan_keeps | apply foldl_keeps | apply foldl_fst_keeps | extract_lets | split | (intro _)
    | (apply Keeps.fst_of; assumption) | (apply Keeps.snd_of; assumption) | (apply Keeps.some_of; assumption) | exact rfl
    | apply Keeps.fields)

theorem State.closeInterval_keeps {σ : State} {s : State} (c : Nat) (hs : Keeps σ s) : Keeps σ (State.closeInterval s c) := by
  unfold State.closeInterval
  repeat' (with_reducible
    first
    | assumption | apply State.accrue_keeps | apply State.each_keeps | apply State.accountEngine_keeps
    | apply State.reportJob_keeps | apply State.updJsc_keeps | apply State.settle_keeps | extract_lets | (intro _) | exact rfl
    | apply Keeps.fields)

theorem execMidnightStart_keeps {σ : State} {s : State} (hs : Keeps σ s) : KeepsNext σ (execMidnightStart s) := by
  unfold execMidnightStart
  repeat' (with_reducible
    first
    | assumption | apply State.when_keeps | apply State.turnWindow_keeps | apply State.each_keeps
    | apply State.pgmMidnight_keeps | apply State.freeDropped_keeps | apply State.repairPending_keeps
    | apply State.closeInterval_keeps | apply State.startChecks_keeps | apply KeepsNext.next | extract_lets | (intro _)
    | exact rfl | apply Keeps.fields)

end Sys2Proof.Machine
end

