-- ==== Sys2Proof/Laws/KeepsDoorbells.lean ====
section
/-! SUPPORT. Every operation of Machine/Doorbells.lean keeps what `Keeps` says. -/
namespace Sys2Proof.Machine

theorem State.jobBell_keeps {σ : State} {s : State} (rq : Requester) (c j size off : Nat) (owner : Blk) (v : DWord)
    (ok : Bool) (f : State → State) (hf : ∀ (a0 : State), Keeps σ a0 → Keeps σ (f a0)) (hs : Keeps σ s) :
    Keeps σ (State.jobBell s rq c j size off owner v ok f) := by
  unfold State.jobBell
  repeat' (with_reducible
    first
    | assumption | apply hf | apply State.ioUr_keeps | apply State.logDoorbell_keeps | split | (intro _) | exact rfl
    | apply Keeps.fields)

theorem State.privBell_keeps {σ : State} {s : State} (rq : Requester) (c size off : Nat) (owner : Blk) (v : DWord)
    (ok : Bool) (f : State → State) (hf : ∀ (a0 : State), Keeps σ a0 → Keeps σ (f a0)) (hs : Keeps σ s) :
    Keeps σ (State.privBell s rq c size off owner v ok f) := by
  unfold State.privBell
  repeat' (with_reducible
    first
    | assumption | apply hf | apply State.ioUr_keeps | apply State.logDoorbell_keeps | split | (intro _) | exact rfl
    | apply Keeps.fields)

theorem State.setQTail_keeps {σ : State} {s : State} (c q p : Nat) (hs : Keeps σ s) : Keeps σ (State.setQTail s c q p) := by
  unfold State.setQTail
  repeat' (with_reducible
    first
    | assumption | apply State.updJsc_keeps | apply State.wr_keeps | apply foldl_keeps | apply foldl_fst_keeps | extract_lets
    | (intro _) | exact rfl | apply Keeps.fields)

theorem execDbCqTail_keeps {σ : State} {s : State} (rq : Requester) (c j size : Nat) (v : DWord) (hs : Keeps σ s) :
    KeepsNext σ (execDbCqTail rq c j size v s) := by
  unfold execDbCqTail
  repeat' (with_reducible
    first
    | assumption | apply State.jobBell_keeps | apply State.setQTail_keeps | apply KeepsNext.next | extract_lets | (intro _)
    | exact rfl | apply Keeps.fields)

theorem execDbCplHead_keeps {σ : State} {s : State} (rq : Requester) (c j size : Nat) (v : DWord) (hs : Keeps σ s) :
    KeepsNext σ (execDbCplHead rq c j size v s) := by
  unfold execDbCplHead
  repeat' (with_reducible
    first
    | assumption | apply State.jobBell_keeps | apply State.accrue_keeps | apply State.wr_keeps | apply State.flushCpl_keeps
    | apply State.settle_keeps | apply KeepsNext.next | extract_lets | (intro _) | exact rfl | apply Keeps.fields)

theorem State.ringRoom_keeps {σ : State} {s : State} (c j r : Nat) (hs : Keeps σ s) : Keeps σ (State.ringRoom s c j r) := by
  unfold State.ringRoom
  repeat' (with_reducible
    first
    | assumption | apply State.setHead_keeps | split | (intro _) | (apply Keeps.fst_of; assumption)
    | (apply Keeps.snd_of; assumption) | (apply Keeps.some_of; assumption) | exact rfl | apply Keeps.fields)

theorem execDbXrPtr_keeps {σ : State} {s : State} (rq : Requester) (c j size : Nat) (v : DWord) (hs : Keeps σ s) :
    KeepsNext σ (execDbXrPtr rq c j size v s) := by
  unfold execDbXrPtr
  repeat' (with_reducible
    first
    | assumption | apply State.jobBell_keeps | apply State.wr_keeps | apply State.accrue_keeps | apply State.updAtn_keeps
    | apply State.ringRoom_keeps | apply State.settle_keeps | apply KeepsNext.next | extract_lets | split | (intro _)
    | exact rfl | apply Keeps.fields)

theorem execDbCrHead_keeps {σ : State} {s : State} (rq : Requester) (c j size : Nat) (v : DWord) (hs : Keeps σ s) :
    KeepsNext σ (execDbCrHead rq c j size v s) := by
  unfold execDbCrHead
  repeat' (with_reducible
    first
    | assumption | apply State.jobBell_keeps | apply State.wr_keeps | apply State.flushCr_keeps | apply State.each_keeps
    | apply State.stepCommit_keeps | apply KeepsNext.next | extract_lets | (intro _) | exact rfl | apply Keeps.fields)

theorem execDbEvqHead_keeps {σ : State} {s : State} (rq : Requester) (c j size : Nat) (v : DWord) (hs : Keeps σ s) :
    KeepsNext σ (execDbEvqHead rq c j size v s) := by
  unfold execDbEvqHead
  repeat' (with_reducible
    first
    | assumption | apply State.jobBell_keeps | apply State.wr_keeps | apply KeepsNext.next | (intro _) | exact rfl
    | apply Keeps.fields)

theorem execDbSqTail_keeps {σ : State} {s : State} (rq : Requester) (c j size : Nat) (v : DWord) (hs : Keeps σ s) :
    KeepsNext σ (execDbSqTail rq c j size v s) := by
  unfold execDbSqTail
  repeat' (with_reducible
    first
    | assumption | apply State.jobBell_keeps | apply State.updConn_keeps | apply KeepsNext.next | extract_lets | (intro _)
    | exact rfl | apply Keeps.fields)

theorem execDbRxqHead_keeps {σ : State} {s : State} (rq : Requester) (c j size : Nat) (v : DWord) (hs : Keeps σ s) :
    KeepsNext σ (execDbRxqHead rq c j size v s) := by
  unfold execDbRxqHead
  repeat' (with_reducible
    first
    | assumption | apply State.jobBell_keeps | apply State.wr_keeps | apply KeepsNext.next | extract_lets | (intro _)
    | exact rfl | apply Keeps.fields)

theorem execDbPevqHead_keeps {σ : State} {s : State} (rq : Requester) (c size : Nat) (v : DWord) (hs : Keeps σ s) :
    KeepsNext σ (execDbPevqHead rq c size v s) := by
  unfold execDbPevqHead
  repeat' (with_reducible
    first
    | assumption | apply State.privBell_keeps | apply State.wr_keeps | apply KeepsNext.next | (intro _) | exact rfl
    | apply Keeps.fields)

theorem execDbFqHead_keeps {σ : State} {s : State} (rq : Requester) (c size : Nat) (v : DWord) (hs : Keeps σ s) :
    KeepsNext σ (execDbFqHead rq c size v s) := by
  unfold execDbFqHead
  repeat' (with_reducible
    first
    | assumption | apply State.privBell_keeps | apply State.wr_keeps | apply State.flushFaults_keeps | apply KeepsNext.next
    | (intro _) | exact rfl | apply Keeps.fields)

theorem execDbSmpHead_keeps {σ : State} {s : State} (rq : Requester) (c size : Nat) (v : DWord) (hs : Keeps σ s) :
    KeepsNext σ (execDbSmpHead rq c size v s) := by
  unfold execDbSmpHead
  repeat' (with_reducible
    first
    | assumption | apply State.privBell_keeps | apply State.wr_keeps | apply KeepsNext.next | (intro _) | exact rfl
    | apply Keeps.fields)

end Sys2Proof.Machine
end

