-- ==== Sys2Proof/Laws/KeepsRecords.lean ====
section
/-! SUPPORT. Every operation of Machine/Records.lean keeps what `Keeps` says. -/
namespace Sys2Proof.Machine

theorem State.xrPop_keeps {σ : State} {s : State} (c r len : Nat) (hs : Keeps σ s) : Keeps σ (State.xrPop s c r len) := by
  unfold State.xrPop
  repeat' (with_reducible
    first
    | assumption | apply State.wr_keeps | (intro _) | exact rfl | apply Keeps.fields)

theorem State.skipPads_keeps {σ : State} {s : State} (c r : Nat) (x0 : Nat) (hs : Keeps σ s) :
    Keeps σ (State.skipPads s c r x0) := by
  induction x0 generalizing s c r with
  | zero =>
    unfold State.skipPads
    repeat' (with_reducible
      first
      | assumption | apply State.xrPop_keeps | extract_lets | split)
  | succ n ih =>
    unfold State.skipPads
    repeat' (with_reducible
      first
      | assumption | apply ih | apply State.xrPop_keeps | extract_lets | split)

theorem State.xrNext_keeps {σ : State} {s : State} (c r type : Nat) (hs : Keeps σ s) : Keeps σ (State.xrNext s c r type).1 := by
  unfold State.xrNext
  repeat' (with_reducible
    first
    | assumption | apply State.skipPads_keeps | extract_lets | split | (intro _) | exact rfl | apply Keeps.fields)

theorem State.onRing_keeps {σ : State} {s : State} (c r : Nat) (f : State → State) (hf : ∀
    (a0 : State), Keeps σ a0 → Keeps σ (f a0)) (hs : Keeps σ s) :
    Keeps σ (State.onRing s c r f) := by
  unfold State.onRing
  repeat' (with_reducible
    first
    | assumption | apply hf | apply State.when_keeps | apply State.afterSnoops_keeps | (intro _) | exact rfl
    | apply Keeps.fields)

theorem State.dropRecord_keeps {σ : State} {s : State} (c r cause : Nat) (h : XrHead) (hs : Keeps σ s) :
    Keeps σ (State.dropRecord s c r cause h) := by
  unfold State.dropRecord
  repeat' (with_reducible
    first
    | assumption | apply State.xrPop_keeps | apply State.bump_keeps | apply State.updAtn_keeps | apply State.evtJob_keeps
    | extract_lets | split | (intro _) | exact rfl | apply Keeps.fields)

theorem State.xrTake_keeps {σ : State} {s : State} (c r : Nat) (h : XrHead) (job n : Nat) (hs : Keeps σ s) :
    Keeps σ (State.xrTake s c r h job n) := by
  unfold State.xrTake
  repeat' (with_reducible
    first
    | assumption | apply State.touch_keeps | apply State.xrPop_keeps | extract_lets | split | (intro _) | exact rfl
    | apply Keeps.fields)

theorem State.forwardQuery_keeps {σ : State} {s : State} (c r : Nat) (d : Desc) (h : XrHead) (pay : List Byte)
    (hs : Keeps σ s) :
    Keeps σ (State.forwardQuery s c r d h pay) := by
  unfold State.forwardQuery
  repeat' (with_reducible
    first
    | assumption | apply State.each_keeps | apply State.devSend_keeps | extract_lets | split | (intro _) | exact rfl
    | apply Keeps.fields)

theorem State.takeQuery_keeps {σ : State} {s : State} (c r : Nat) (h : XrHead) (d : Desc) (hs : Keeps σ s) :
    Keeps σ (State.takeQuery s c r h d) := by
  unfold State.takeQuery
  repeat' (with_reducible
    first
    | assumption | apply State.xrPop_keeps | apply State.bump_keeps | apply State.xrTake_keeps | apply State.beginStep_keeps
    | apply State.updStep_keeps | apply State.updAtn_keeps | apply State.forwardQuery_keeps | apply State.sparseSelect_keeps
    | apply State.when_keeps | extract_lets | split | (intro _) | (apply Keeps.fst_of; assumption)
    | (apply Keeps.snd_of; assumption) | (apply Keeps.some_of; assumption) | exact rfl | apply Keeps.fields)

theorem execQueryRecord_keeps {σ : State} {s : State} (c r : Nat) (hs : Keeps σ s) : KeepsNext σ (execQueryRecord c r s) := by
  unfold execQueryRecord
  repeat' (with_reducible
    first
    | assumption | apply State.onRing_keeps | apply State.xrNext_keeps | apply State.takeQuery_keeps
    | apply State.dropRecord_keeps | apply KeepsNext.next | split | (intro _) | (apply Keeps.fst_of; assumption)
    | (apply Keeps.snd_of; assumption) | (apply Keeps.some_of; assumption) | exact rfl | apply Keeps.fields)

theorem execPartialRecord_keeps {σ : State} {s : State} (c r : Nat) (hs : Keeps σ s) :
    KeepsNext σ (execPartialRecord c r s) := by
  unfold execPartialRecord
  repeat' (with_reducible
    first
    | assumption | apply State.onRing_keeps | apply State.xrNext_keeps | apply State.xrPop_keeps | apply State.bump_keeps
    | apply State.xrTake_keeps | apply State.beginStep_keeps | apply State.updStep_keeps | apply State.mergeMember_keeps
    | apply State.settleSweep_keeps | apply State.dropRecord_keeps | apply KeepsNext.next | extract_lets | split | (intro _)
    | (apply Keeps.fst_of; assumption) | (apply Keeps.snd_of; assumption) | (apply Keeps.some_of; assumption) | exact rfl
    | apply Keeps.fields)

theorem State.takeLogits_keeps {σ : State} {s : State} (c r : Nat) (h : XrHead) (hs : Keeps σ s) :
    Keeps σ (State.takeLogits s c r h) := by
  unfold State.takeLogits
  repeat' (with_reducible
    first
    | assumption | apply State.xrPop_keeps | apply State.bump_keeps | apply State.xrTake_keeps | apply State.beginStep_keeps
    | apply State.updSmp_keeps | apply State.accrue_keeps | apply State.queueRows_keeps | apply State.settle_keeps
    | extract_lets | split | (intro _) | (apply Keeps.fst_of; assumption) | (apply Keeps.snd_of; assumption)
    | (apply Keeps.some_of; assumption) | exact rfl | apply Keeps.fields)

theorem execLogitsRecord_keeps {σ : State} {s : State} (c r : Nat) (hs : Keeps σ s) : KeepsNext σ (execLogitsRecord c r s) := by
  unfold execLogitsRecord
  repeat' (with_reducible
    first
    | assumption | apply State.onRing_keeps | apply State.xrNext_keeps | apply State.takeLogits_keeps
    | apply State.dropRecord_keeps | apply KeepsNext.next | split | (intro _) | (apply Keeps.fst_of; assumption)
    | (apply Keeps.snd_of; assumption) | (apply Keeps.some_of; assumption) | exact rfl | apply Keeps.fields)

end Sys2Proof.Machine
end

