-- ==== Sys2Proof/Laws/KeepsUpdate.lean ====
section
/-! SUPPORT. Every operation of Machine/Update.lean keeps what `Keeps` says. -/
namespace Sys2Proof.Machine

theorem State.setUpdate_keeps {σ : State} {s : State} (d : Nat) (u : Option CoreUpdate) (hs : Keeps σ s) :
    Keeps σ (State.setUpdate s d u) := by
  unfold State.setUpdate
  repeat' (with_reducible
    first
    | assumption | apply State.setBoot_keeps | (intro _) | exact rfl | apply Keeps.fields)

theorem State.updResult_keeps {σ : State} {s : State} (result code : Nat) (hs : Keeps σ s) :
    Keeps σ (State.updResult s result code) := by
  unfold State.updResult
  repeat' (with_reducible
    first
    | assumption | apply State.wr_keeps | (intro _) | exact rfl | apply Keeps.fields)

theorem State.beginUpdate_keeps {σ : State} {s : State} (k standin step : Nat) (hs : Keeps σ s) :
    Keeps σ (State.beginUpdate s k standin step) := by
  unfold State.beginUpdate
  repeat' (with_reducible
    first
    | assumption | apply State.setUpdate_keeps | apply State.updResult_keeps | apply State.emit_keeps | (intro _) | exact rfl
    | apply Keeps.fields)

theorem State.updateGo_keeps {σ : State} {s : State} (k named : Nat) (hs : Keeps σ s) : Keeps σ (State.updateGo s k named) := by
  unfold State.updateGo
  repeat' (with_reducible
    first
    | assumption | apply State.updResult_keeps | apply State.beginUpdate_keeps | split | (intro _)
    | (apply Keeps.fst_of; assumption) | (apply Keeps.snd_of; assumption) | (apply Keeps.some_of; assumption) | exact rfl
    | apply Keeps.fields)

theorem execFwUpdate_keeps {σ : State} {s : State} (rq : Requester) (core standin : Nat) (hs : Keeps σ s) :
    KeepsNext σ (execFwUpdate rq core standin s) := by
  unfold execFwUpdate
  repeat' (with_reducible
    first
    | assumption | apply State.onWrite_keeps | apply State.updateGo_keeps | apply KeepsNext.next | (intro _) | exact rfl
    | apply Keeps.fields)

theorem State.onUpdate_keeps {σ : State} {s : State} (k step : Nat) (f : State → CoreUpdate → State) (hf : ∀ (a0 : State)
    (a1 : CoreUpdate), Keeps σ a0 → Keeps σ (f a0 a1)) (hs : Keeps σ s) :
    Keeps σ (State.onUpdate s k step f) := by
  unfold State.onUpdate
  repeat' (with_reducible
    first
    | assumption | apply hf | split | (intro _) | (apply Keeps.fst_of; assumption) | (apply Keeps.snd_of; assumption)
    | (apply Keeps.some_of; assumption) | exact rfl | apply Keeps.fields)

theorem execUpdateDrained_keeps {σ : State} {s : State} (core : Nat) (hs : Keeps σ s) :
    KeepsNext σ (execUpdateDrained core s) := by
  unfold execUpdateDrained
  repeat' (with_reducible
    first
    | assumption | apply State.onUpdate_keeps | apply State.when_keeps | apply State.takeDuties_keeps
    | apply State.updCore_keeps | apply State.setUpdate_keeps | apply KeepsNext.next | (intro _) | exact rfl
    | apply Keeps.fields)

theorem State.updateFail_keeps {σ : State} {s : State} (k code : Nat) (hs : Keeps σ s) :
    Keeps σ (State.updateFail s k code) := by
  unfold State.updateFail
  repeat' (with_reducible
    first
    | assumption | apply State.setUpdate_keeps | apply State.updCore_keeps | apply State.updResult_keeps
    | apply State.when_keeps | apply State.bump_keeps | apply State.evt_keeps | apply State.evtPriv_keeps | extract_lets
    | (intro _) | exact rfl | apply Keeps.fields)

theorem execUpdateImageRead_keeps {σ : State} {s : State} (core : Nat) (readError : Bool) (hs : Keeps σ s) :
    KeepsNext σ (execUpdateImageRead core readError s) := by
  unfold execUpdateImageRead
  repeat' (with_reducible
    first
    | assumption | apply State.onUpdate_keeps | apply State.touch_keeps | apply State.updateFail_keeps
    | apply State.updCore_keeps | apply State.setUpdate_keeps | apply KeepsNext.next | extract_lets | split | (intro _)
    | (apply Keeps.fst_of; assumption) | (apply Keeps.snd_of; assumption) | (apply Keeps.some_of; assumption) | exact rfl
    | apply Keeps.fields)

theorem State.giveBack_keeps {σ : State} {s : State} (k standin : Nat) (hs : Keeps σ s) :
    Keeps σ (State.giveBack s k standin) := by
  unfold State.giveBack
  repeat' (with_reducible
    first
    | assumption | apply State.each_keeps | apply State.setRoute_keeps | apply State.updCore_keeps | extract_lets | split
    | (intro _) | exact rfl | apply Keeps.fields)

theorem execFwSelfTestDone_keeps {σ : State} {s : State} (core : Nat) (hs : Keeps σ s) :
    KeepsNext σ (execFwSelfTestDone core s) := by
  unfold execFwSelfTestDone
  repeat' (with_reducible
    first
    | assumption | apply State.onUpdate_keeps | apply State.setUpdate_keeps | apply State.updCore_keeps
    | apply State.giveBack_keeps | apply State.measure_keeps | apply State.updResult_keeps | apply State.evtPriv_keeps
    | apply KeepsNext.next | extract_lets | (intro _) | exact rfl | apply Keeps.fields)

theorem State.norRefuse_keeps {σ : State} {s : State} (b : Bool) (hs : Keeps σ s) : Keeps σ (State.norRefuse s b) := by
  unfold State.norRefuse
  repeat' (with_reducible
    first
    | assumption | apply State.setBoot_keeps | (intro _) | exact rfl | apply Keeps.fields)

theorem State.norWrite_keeps {σ : State} {s : State} (a : Nat) (bs : List Byte) (hs : Keeps σ s) :
    Keeps σ (State.norWrite s a bs) := by
  unfold State.norWrite
  repeat' (with_reducible
    first
    | assumption | apply State.setBoot_keeps | apply foldl_keeps | apply foldl_fst_keeps | (intro _) | exact rfl
    | apply Keeps.fields)

theorem execNorRead_keeps {σ : State} {s : State} (rq : Requester) (hs : Keeps σ s) : KeepsNext σ (execNorRead rq s) := by
  unfold execNorRead
  repeat' (with_reducible
    first
    | assumption | apply State.onWrite_keeps | apply State.norRefuse_keeps | apply State.each_keeps | apply State.wrAt_keeps
    | apply KeepsNext.next | (intro _) | exact rfl | apply Keeps.fields)

theorem execNorProgram_keeps {σ : State} {s : State} (rq : Requester) (hs : Keeps σ s) : KeepsNext σ (execNorProgram rq s) := by
  unfold execNorProgram
  repeat' (with_reducible
    first
    | assumption | apply State.onWrite_keeps | apply State.norRefuse_keeps | apply State.norWrite_keeps | apply KeepsNext.next
    | split | (intro _) | exact rfl | apply Keeps.fields)

theorem execNorErase_keeps {σ : State} {s : State} (rq : Requester) (hs : Keeps σ s) : KeepsNext σ (execNorErase rq s) := by
  unfold execNorErase
  repeat' (with_reducible
    first
    | assumption | apply State.onWrite_keeps | apply State.norRefuse_keeps | apply State.setBoot_keeps | apply KeepsNext.next
    | extract_lets | split | (intro _) | exact rfl | apply Keeps.fields)

theorem State.setFuses_keeps {σ s : State} (f : Fuses → Fuses) (hf : s.boot.fuses.grows (f s.boot.fuses)) (hs : Keeps σ s) :
    Keeps σ (s.setFuses f) := by
  unfold State.setFuses
  exact State.setBoot_keeps_fuses _ (fun w => ⟨w, hf⟩) hs

theorem State.svnBurn_keeps {σ : State} {s : State} (v : Nat) (hs : Keeps σ s) :
    Keeps σ (State.svnBurn s v) := by
  unfold State.svnBurn
  split
  · exact hs
  · rename_i h
    refine State.evt_keeps _ _ (State.measureHw_keeps (State.setFuses_keeps _ ?_ hs))
    simp only [Bool.or_eq_true, decide_eq_true_eq, not_or, Nat.not_le] at h
    exact ⟨Nat.le_of_lt h.2, fun _ k => k, rfl, rfl, rfl, rfl, rfl, rfl, rfl⟩

theorem execSvnBurn_keeps {σ : State} {s : State} (rq : Requester) (v : Nat) (hs : Keeps σ s) :
    KeepsNext σ (execSvnBurn rq v s) := by
  unfold execSvnBurn
  repeat' (with_reducible
    first
    | assumption | apply State.onWrite_keeps | apply State.when_keeps | apply State.svnBurn_keeps | apply KeepsNext.next
    | (intro _) | exact rfl | apply Keeps.fields)

theorem State.keyBurn_keeps {σ : State} {s : State} (slots : Nat) (hs : Keeps σ s) :
    Keeps σ (State.keyBurn s slots) := by
  unfold State.keyBurn
  split
  · exact hs
  · refine State.evt_keeps _ _ (State.setFuses_keeps _ ?_ hs)
    exact ⟨Nat.le_refl _, fun n k => by rw [Nat.testBit_or, k, Bool.true_or], rfl, rfl, rfl, rfl, rfl, rfl, rfl⟩

theorem execKeyRevoke_keeps {σ : State} {s : State} (rq : Requester) (slots : Nat) (hs : Keeps σ s) :
    KeepsNext σ (execKeyRevoke rq slots s) := by
  unfold execKeyRevoke
  repeat' (with_reducible
    first
    | assumption | apply State.onWrite_keeps | apply State.when_keeps | apply State.keyBurn_keeps | apply KeepsNext.next
    | (intro _) | exact rfl | apply Keeps.fields)

end Sys2Proof.Machine
end

