-- ==== Sys2Proof/Laws/KeepsService.lean ====
section
/-! SUPPORT. Every operation of Machine/Service.lean keeps what `Keeps` says. -/
namespace Sys2Proof.Machine

theorem State.setChSvc_keeps {σ : State} {s : State} (c : Nat) (x : ChSvc) (hs : Keeps σ s) :
    Keeps σ (State.setChSvc s c x) := by
  unfold State.setChSvc
  repeat' (with_reducible
    first
    | assumption | apply State.setBoot_keeps | (intro _) | exact rfl | apply Keeps.fields)

theorem State.chResult_keeps {σ : State} {s : State} (r : Nat) (hs : Keeps σ s) : Keeps σ (State.chResult s r) := by
  unfold State.chResult
  repeat' (with_reducible
    first
    | assumption | apply State.wr_keeps | (intro _) | exact rfl | apply Keeps.fields)

theorem State.outQuarantined_keeps {σ : State} {s : State} (c : Nat) (hs : Keeps σ s) : Keeps σ (State.outQuarantined s c) := by
  unfold State.outQuarantined
  repeat' (with_reducible
    first
    | assumption | apply State.when_keeps | apply State.updRas_keeps | apply State.freeLost_keeps | (intro _) | exact rfl
    | apply Keeps.fields)

theorem State.startOut_keeps {σ : State} {s : State} (c : Nat) (hs : Keeps σ s) : Keeps σ (State.startOut s c) := by
  unfold State.startOut
  repeat' (with_reducible
    first
    | assumption | apply State.chResult_keeps | apply State.setChSvc_keeps | apply State.outQuarantined_keeps
    | apply State.each_keeps | apply State.setQuiesce_keeps | apply State.when_keeps | apply State.finishOut_keeps
    | extract_lets | (intro _) | exact rfl | apply Keeps.fields)

theorem execChOut_keeps {σ : State} {s : State} (rq : Requester) (c : Nat) (hs : Keeps σ s) :
    KeepsNext σ (execChOut rq c s) := by
  unfold execChOut
  repeat' (with_reducible
    first
    | assumption | apply State.onWrite_keeps | apply State.chResult_keeps | apply State.startOut_keeps | apply KeepsNext.next
    | extract_lets | split | (intro _) | exact rfl | apply Keeps.fields)

theorem State.loseT1_keeps {σ : State} {s : State} (c : Nat) (hs : Keeps σ s) :
    Keeps σ (State.loseT1 s c) := by
  unfold State.loseT1
  exact hs.trans { Keeps.refl s with mem := Memory.wf_filter _ _ }

theorem execRetrain_keeps {σ : State} {s : State} (rq : Requester) (c : Nat) (hs : Keeps σ s) :
    KeepsNext σ (execRetrain rq c s) := by
  unfold execRetrain
  repeat' (with_reducible
    first
    | assumption | apply State.onWrite_keeps | apply State.chResult_keeps | apply State.setChSvc_keeps
    | apply State.setDom_keeps | apply State.wake_keeps | apply State.loseT1_keeps | apply KeepsNext.next | extract_lets | split
    | (intro _) | exact rfl | apply Keeps.fields)

theorem execRetrainDone_keeps {σ : State} {s : State} (c : Nat) (ok : Bool) (hs : Keeps σ s) :
    KeepsNext σ (execRetrainDone c ok s) := by
  unfold execRetrainDone
  repeat' (with_reducible
    first
    | assumption | apply State.when_keeps | apply State.setChSvc_keeps | apply State.setDom_keeps | apply State.evtPriv_keeps
    | apply KeepsNext.next | extract_lets | split | (intro _) | exact rfl | apply Keeps.fields)

theorem State.coreBack_keeps {σ : State} {s : State} (c : Nat) (hs : Keeps σ s) : Keeps σ (State.coreBack s c) := by
  unfold State.coreBack
  repeat' (with_reducible
    first
    | assumption | apply State.when_keeps | apply State.updCore_keeps | split | (intro _) | exact rfl | apply Keeps.fields)

theorem State.blockIn_keeps {σ : State} {s : State} (p : Page) (hs : Keeps σ s) : Keeps σ (State.blockIn s p) := by
  unfold State.blockIn
  repeat' (with_reducible
    first
    | assumption | apply State.resetWork_keeps | apply State.setQuiesce_keeps | apply State.setEnable_keeps | (intro _)
    | exact rfl | apply Keeps.fields)

theorem State.startIn_keeps {σ : State} {s : State} (c : Nat) (hs : Keeps σ s) : Keeps σ (State.startIn s c) := by
  unfold State.startIn
  repeat' (with_reducible
    first
    | assumption | apply State.chResult_keeps | apply State.setChSvc_keeps | apply State.freeLost_keeps
    | apply State.initCh_keeps | apply State.updCh_keeps | apply State.updRas_keeps | apply State.each_keeps
    | apply State.blockIn_keeps | apply State.coreBack_keeps | apply State.wake_keeps | apply State.evtPriv_keeps | extract_lets
    | (intro _) | exact rfl | apply Keeps.fields)

theorem execChIn_keeps {σ : State} {s : State} (rq : Requester) (c : Nat) (hs : Keeps σ s) : KeepsNext σ (execChIn rq c s) := by
  unfold execChIn
  repeat' (with_reducible
    first
    | assumption | apply State.onWrite_keeps | apply State.startIn_keeps | apply State.chResult_keeps | apply KeepsNext.next
    | split | (intro _) | exact rfl | apply Keeps.fields)

theorem State.swapNow_keeps {σ : State} {s : State} (hs : Keeps σ s) : Keeps σ (State.swapNow s) := by
  unfold State.swapNow
  repeat' (with_reducible
    first
    | assumption | apply State.keepBanks_keeps | apply State.swapAll_keeps | apply State.logIgnored_keeps | split | (intro _)
    | exact rfl | apply Keeps.fields)

theorem execSwapNow_keeps {σ : State} {s : State} (rq : Requester) (hs : Keeps σ s) : KeepsNext σ (execSwapNow rq s) := by
  unfold execSwapNow
  repeat' (with_reducible
    first
    | assumption | apply State.onWrite_keeps | apply State.swapNow_keeps | apply KeepsNext.next | (intro _) | exact rfl
    | apply Keeps.fields)

theorem State.bootCmd_keeps {σ : State} {s : State} (rq : Requester) (p : Page) (off : Nat) (v : Word) (hs : Keeps σ s) :
    KeepsSome σ (State.bootCmd s rq p off v) := by
  unfold State.bootCmd
  split
  · refine KeepsSome.some (State.actsCons_keeps _ _ _ (fun t ht => State.row_keeps _ (execSwapNow_keeps _ ht) ht) (fun t ht => ?_) hs)
    refine State.actsCons_keeps _ _ _ (fun t ht => State.row_keeps _ (execBootRetry_keeps _ _ ht) ht) (fun t ht => ?_) ht
    exact State.actsCons_keeps _ _ _ (fun t ht => State.row_keeps _ (execWarmReset_keeps _ ht) ht) (fun t ht => ht) ht
  · exact KeepsSome.some (State.when_keeps _ _ (fun t ht => State.row_keeps _ (execFwUpdate_keeps _ _ _ ht) ht) hs)
  · refine KeepsSome.some (State.actsCons_keeps _ _ _ (fun t ht => State.row_keeps _ (execChOut_keeps _ _ ht) ht) (fun t ht => ?_) hs)
    refine State.actsCons_keeps _ _ _ (fun t ht => State.row_keeps _ (execRetrain_keeps _ _ ht) ht) (fun t ht => ?_) ht
    exact State.actsCons_keeps _ _ _ (fun t ht => State.row_keeps _ (execChIn_keeps _ _ ht) ht) (fun t ht => ht) ht
  · refine KeepsSome.some (State.actsCons_keeps _ _ _ (fun t ht => State.row_keeps _ (execNorRead_keeps _ ht) ht) (fun t ht => ?_) hs)
    refine State.actsCons_keeps _ _ _ (fun t ht => State.row_keeps _ (execNorProgram_keeps _ ht) ht) (fun t ht => ?_) ht
    exact State.actsCons_keeps _ _ _ (fun t ht => State.row_keeps _ (execNorErase_keeps _ ht) ht) (fun t ht => ht) ht
  · exact KeepsSome.some (State.when_keeps _ _ (fun t ht => State.row_keeps _ (execSvnBurn_keeps _ _ ht) ht) hs)
  · exact KeepsSome.some (State.when_keeps _ _ (fun t ht => State.row_keeps _ (execKeyRevoke_keeps _ _ ht) ht) hs)
  · exact KeepsSome.none

theorem State.writeTurnedAway_keeps {σ : State} {s : State} (rq : Requester) (p : Page) (off : Nat) (v : Word)
    (hs : Keeps σ s) :
    KeepsSome σ (State.writeTurnedAway s rq p off v) := by
  unfold State.writeTurnedAway
  repeat' (with_reducible
    first
    | assumption | apply State.ioUr_keeps | apply State.when_keeps | apply State.logIgnored_keeps | apply State.pass_keeps
    | exact KeepsSome.none | apply KeepsSome.some | apply KeepsSome.map | apply KeepsSome.bind
    | (apply Keeps.some_of; assumption) | split | (intro _) | (apply Keeps.fst_of; assumption)
    | (apply Keeps.snd_of; assumption) | exact rfl | apply Keeps.fields)

theorem execRegisterWrite_keeps {σ : State} (rq : Requester) (p : Page) (off : Nat) (v : Word) {s : State} (hs : Keeps σ s) :
    KeepsNext σ (execRegisterWrite rq p off v s) := by
  unfold execRegisterWrite
  refine KeepsNext.next ?_
  have ha := State.writeTurnedAway_keeps rq p off v hs
  cases g : s.writeTurnedAway rq p off v with
  | some t => exact ha t g
  | none =>
  simp only [Option.getD_none]
  have hb := State.bootCmd_keeps rq p off v hs
  cases h : s.bootCmd rq p off v with
  | none => exact State.regWrite_keeps _ _ _ _ hs
  | some t => exact hb t h

end Sys2Proof.Machine
end

