-- ==== Sys2Proof/Laws/KeepsSupply.lean ====
section
/-! SUPPORT. Every operation of Machine/Supply.lean keeps what `Keeps` says. -/
namespace Sys2Proof.Machine

theorem State.regsDown_keeps {σ : State} {s : State} (hs : Keeps σ s) : Keeps σ (State.regsDown s) := by
  unfold State.regsDown
  repeat' (with_reducible
    first
    | assumption | apply State.cold_keeps | apply State.alertEdge_keeps | extract_lets | (intro _) | exact rfl
    | apply Keeps.fields)

theorem execThermtrip_keeps {σ : State} {s : State} (hs : Keeps σ s) : KeepsNext σ (execThermtrip s) := by
  unfold execThermtrip
  repeat' (with_reducible
    first
    | assumption | apply State.passToNow_keeps | apply State.emit_keeps | apply State.alertEdge_keeps | apply State.setPsq_keeps
    | apply State.regsDown_keeps | apply KeepsNext.next | extract_lets | split | (intro _) | (apply Keeps.fst_of; assumption)
    | (apply Keeps.snd_of; assumption) | (apply Keeps.some_of; assumption) | exact rfl | apply Keeps.fields)

theorem execVinWarn_keeps {σ : State} {s : State} (mv : Nat) (hs : Keeps σ s) : KeepsNext σ (execVinWarn mv s) := by
  unfold execVinWarn
  repeat' (with_reducible
    first
    | assumption | apply State.when_keeps | apply State.wr_keeps | apply State.evt_keeps | apply KeepsNext.next | (intro _)
    | exact rfl | apply Keeps.fields)

theorem State.endTrip_keeps {σ : State} {s : State} (hs : Keeps σ s) : Keeps σ (State.endTrip s) := by
  unfold State.endTrip
  repeat' (with_reducible
    first
    | assumption | apply State.alertEdge_keeps | apply State.setPsq_keeps | apply State.emit_keeps | split | (intro _)
    | exact rfl | apply Keeps.fields)

theorem execVinFault_keeps {σ : State} {s : State} (mv : Nat) (hs : Keeps σ s) : KeepsNext σ (execVinFault mv s) := by
  unfold execVinFault
  repeat' (with_reducible
    first
    | assumption | apply State.when_keeps | apply State.regsDown_keeps | apply State.endTrip_keeps | apply KeepsNext.next
    | (intro _) | exact rfl | apply Keeps.fields)

theorem State.setClk_keeps {σ : State} {s : State} (f : Clk → Clk) (hs : Keeps σ s) : Keeps σ (State.setClk s f) := by
  unfold State.setClk
  repeat' (with_reducible
    first
    | assumption | (intro _) | exact rfl | apply Keeps.fields)

theorem State.portDown_keeps {σ : State} {s : State} (c : Nat) (hs : Keeps σ s) :
    Keeps σ (State.portDown s c) := by
  unfold State.portDown
  split
  · exact State.each_keeps _ _ (fun t a ht => State.row_keeps _ (execLinkChange_keeps _ _ _ ht) ht) hs
  · exact State.row_keeps _ (execSolrovLink_keeps _ _ hs) hs

theorem State.refEffect_keeps {σ : State} {s : State} (ref : Nat) (hs : Keeps σ s) : Keeps σ (State.refEffect s ref) := by
  unfold State.refEffect
  repeat' (with_reducible
    first
    | assumption | apply State.deviceFatal_keeps | apply State.row_keeps | apply execHostPortFault_keeps
    | apply State.each_keeps | apply State.when_keeps | apply State.portDown_keeps | apply State.setTim_keeps | split
    | (intro _) | exact rfl | apply Keeps.fields)

theorem execRefLost_keeps {σ : State} {s : State} (ref : Nat) (hs : Keeps σ s) : KeepsNext σ (execRefLost ref s) := by
  unfold execRefLost
  repeat' (with_reducible
    first
    | assumption | apply State.when_keeps | apply State.setClk_keeps | apply State.bump_keeps | apply State.evt_keeps
    | apply State.refEffect_keeps | apply KeepsNext.next | (intro _) | exact rfl | apply Keeps.fields)

theorem execRefRestored_keeps {σ : State} {s : State} (ref : Nat) (hs : Keeps σ s) : KeepsNext σ (execRefRestored ref s) := by
  unfold execRefRestored
  repeat' (with_reducible
    first
    | assumption | apply State.when_keeps | apply State.setClk_keeps | apply State.evt_keeps | apply State.setTim_keeps
    | apply KeepsNext.next | (intro _) | exact rfl | apply Keeps.fields)

theorem execPllUnlock_keeps {σ : State} {s : State} (dom : Nat) (hs : Keeps σ s) : KeepsNext σ (execPllUnlock dom s) := by
  unfold execPllUnlock
  repeat' (with_reducible
    first
    | assumption | apply State.when_keeps | apply State.setClk_keeps | apply State.bump_keeps | apply State.evt_keeps
    | apply State.deviceFatal_keeps | apply State.chFatals_keeps | apply KeepsNext.next | extract_lets | split | (intro _)
    | exact rfl | apply Keeps.fields)

theorem execPllRelock_keeps {σ : State} {s : State} (dom : Nat) (hs : Keeps σ s) : KeepsNext σ (execPllRelock dom s) := by
  unfold execPllRelock
  repeat' (with_reducible
    first
    | assumption | apply State.when_keeps | apply State.setClk_keeps | apply KeepsNext.next | (intro _) | exact rfl
    | apply Keeps.fields)

end Sys2Proof.Machine
end

