-- ==== Sys2Proof/Laws/Exec.lean ====
section
/-! SUPPORT. What every command keeps: the lemma of each meaning, put together over the commands. -/
namespace Sys2Proof.Machine

/-- Whatever the command, its next state keeps what `Keeps` names. -/
theorem exec_keeps (i : Instr) (s : State) : KeepsNext s (exec i s) := by
  cases i with
  | registerWrite _ _ _ _ => unfold exec; exact execRegisterWrite_keeps _ _ _ _ (Keeps.refl s)
  | lock _ _ => unfold exec; exact execLock_keeps _ _ (Keeps.refl s)
  | resetBlock _ _ _ => unfold exec; exact execResetBlock_keeps _ _ _ (Keeps.refl s)
  | quiesce _ _ _ => unfold exec; exact execQuiesce_keeps _ _ _ (Keeps.refl s)
  | blockEnable _ _ _ => unfold exec; exact execBlockEnable_keeps _ _ _ (Keeps.refl s)
  | blockInitDone _ => unfold exec; exact execBlockInitDone_keeps _ (Keeps.refl s)
  | blockQuiesced _ => unfold exec; exact execBlockQuiesced_keeps _ (Keeps.refl s)
  | blkEvtClear _ _ _ _ => unfold exec; exact execBlkEvtClear_keeps _ _ _ _ (Keeps.refl s)
  | blkEvtSet _ _ _ => unfold exec; exact execBlkEvtSet_keeps _ _ _ (Keeps.refl s)
  | errLogClear _ _ _ _ => unfold exec; exact execErrLogClear_keeps _ _ _ _ (Keeps.refl s)
  | todNsRead _ => unfold exec; exact execTodNsRead_keeps _ (Keeps.refl s)
  | cadPhaseRead _ => unfold exec; exact execCadPhaseRead_keeps _ (Keeps.refl s)
  | ppsInNsRead _ => unfold exec; exact execPpsInNsRead_keeps _ (Keeps.refl s)
  | todSet _ _ => unfold exec; exact execTodSet_keeps _ _ (Keeps.refl s)
  | todStep _ => unfold exec; exact execTodStep_keeps _ (Keeps.refl s)
  | servoOffset _ _ => unfold exec; exact execServoOffset_keeps _ _ (Keeps.refl s)
  | lossTimeout => unfold exec; exact execLossTimeout_keeps (Keeps.refl s)
  | holdoverTimeout => unfold exec; exact execHoldoverTimeout_keeps (Keeps.refl s)
  | timeDegraded => unfold exec; exact execTimeDegraded_keeps (Keeps.refl s)
  | ppsInEdge => unfold exec; exact execPpsInEdge_keeps (Keeps.refl s)
  | ppsOutPulse => unfold exec; exact execPpsOutPulse_keeps (Keeps.refl s)
  | ppsPulseEnd => unfold exec; exact execPpsPulseEnd_keeps (Keeps.refl s)
  | ppsMissing => unfold exec; exact execPpsMissing_keeps (Keeps.refl s)
  | cadRunSet _ => unfold exec; exact execCadRunSet_keeps _ (Keeps.refl s)
  | cadRunClear _ => unfold exec; exact execCadRunClear_keeps _ (Keeps.refl s)
  | cadenceStart => unfold exec; exact execCadenceStart_keeps (Keeps.refl s)
  | dayBoundary => unfold exec; exact execDayBoundary_keeps (Keeps.refl s)
  | realignEnd => unfold exec; exact execRealignEnd_keeps (Keeps.refl s)
  | noonStart => unfold exec; exact execNoonStart_keeps (Keeps.refl s)
  | duskStart => unfold exec; exact execDuskStart_keeps (Keeps.refl s)
  | midnightStart => unfold exec; exact execMidnightStart_keeps (Keeps.refl s)
  | guardStart => unfold exec; exact execGuardStart_keeps (Keeps.refl s)
  | planLoad _ _ => unfold exec; exact execPlanLoad_keeps _ _ (Keeps.refl s)
  | planDiscard _ => unfold exec; exact execPlanDiscard_keeps _ (Keeps.refl s)
  | planLoadDone => unfold exec; exact execPlanLoadDone_keeps (Keeps.refl s)
  | planRetire => unfold exec; exact execPlanRetire_keeps (Keeps.refl s)
  | admitReq _ _ => unfold exec; exact execAdmitReq_keeps _ _ (Keeps.refl s)
  | cancel _ _ => unfold exec; exact execCancel_keeps _ _ (Keeps.refl s)
  | accept _ _ => unfold exec; exact execAccept_keeps _ _ (Keeps.refl s)
  | park _ _ => unfold exec; exact execPark_keeps _ _ (Keeps.refl s)
  | resume _ _ => unfold exec; exact execResume_keeps _ _ (Keeps.refl s)
  | moveAbort _ _ => unfold exec; exact execMoveAbort_keeps _ _ (Keeps.refl s)
  | query _ _ => unfold exec; exact execQuery_keeps _ _ (Keeps.refl s)
  | rqtEntryRead _ _ => unfold exec; exact execRqtEntryRead_keeps _ _ (Keeps.refl s)
  | moveOpen _ _ _ _ _ => unfold exec; exact execMoveOpen_keeps _ _ _ _ _ (Keeps.refl s)
  | pageTableReturn _ _ _ _ => unfold exec; exact execPageTableReturn_keeps _ _ _ _ (Keeps.refl s)
  | homeSwitchNotice _ _ _ _ _ => unfold exec; exact execHomeSwitchNotice_keeps _ _ _ _ _ (Keeps.refl s)
  | moveClose _ _ _ => unfold exec; exact execMoveClose_keeps _ _ _ (Keeps.refl s)
  | stepCommit _ _ => unfold exec; exact execStepCommit_keeps _ _ (Keeps.refl s)
  | qk _ _ => unfold exec; exact execQk_keeps _ _ (Keeps.refl s)
  | softmax _ _ => unfold exec; exact execSoftmax_keeps _ _ (Keeps.refl s)
  | pv _ _ => unfold exec; exact execPv_keeps _ _ (Keeps.refl s)
  | fused _ _ => unfold exec; exact execFused_keeps _ _ (Keeps.refl s)
  | partialSweep _ _ => unfold exec; exact execPartialSweep_keeps _ _ (Keeps.refl s)
  | stateUpdate _ _ => unfold exec; exact execStateUpdate_keeps _ _ (Keeps.refl s)
  | cross _ _ => unfold exec; exact execCross_keeps _ _ (Keeps.refl s)
  | tileEnd _ _ => unfold exec; exact execTileEnd_keeps _ _ (Keeps.refl s)
  | queryRecord _ _ => unfold exec; exact execQueryRecord_keeps _ _ (Keeps.refl s)
  | partialRecord _ _ => unfold exec; exact execPartialRecord_keeps _ _ (Keeps.refl s)
  | logitsRecord _ _ => unfold exec; exact execLogitsRecord_keeps _ _ (Keeps.refl s)
  | samplerRowDone _ => unfold exec; exact execSamplerRowDone_keeps _ (Keeps.refl s)
  | smpCfgSet _ _ => unfold exec; exact execSmpCfgSet_keeps _ _ (Keeps.refl s)
  | smpCfgRelease _ _ => unfold exec; exact execSmpCfgRelease_keeps _ _ (Keeps.refl s)
  | beamBind _ _ => unfold exec; exact execBeamBind_keeps _ _ (Keeps.refl s)
  | dbCqTail _ _ _ _ _ => unfold exec; exact execDbCqTail_keeps _ _ _ _ _ (Keeps.refl s)
  | dbCplHead _ _ _ _ _ => unfold exec; exact execDbCplHead_keeps _ _ _ _ _ (Keeps.refl s)
  | dbXrPtr _ _ _ _ _ => unfold exec; exact execDbXrPtr_keeps _ _ _ _ _ (Keeps.refl s)
  | dbCrHead _ _ _ _ _ => unfold exec; exact execDbCrHead_keeps _ _ _ _ _ (Keeps.refl s)
  | dbEvqHead _ _ _ _ _ => unfold exec; exact execDbEvqHead_keeps _ _ _ _ _ (Keeps.refl s)
  | dbSqTail _ _ _ _ _ => unfold exec; exact execDbSqTail_keeps _ _ _ _ _ (Keeps.refl s)
  | dbRxqHead _ _ _ _ _ => unfold exec; exact execDbRxqHead_keeps _ _ _ _ _ (Keeps.refl s)
  | dbPevqHead _ _ _ _ => unfold exec; exact execDbPevqHead_keeps _ _ _ _ (Keeps.refl s)
  | dbFqHead _ _ _ _ => unfold exec; exact execDbFqHead_keeps _ _ _ _ (Keeps.refl s)
  | dbSmpHead _ _ _ _ => unfold exec; exact execDbSmpHead_keeps _ _ _ _ (Keeps.refl s)
  | prefixAlloc _ _ => unfold exec; exact execPrefixAlloc_keeps _ _ (Keeps.refl s)
  | prefixFree _ _ => unfold exec; exact execPrefixFree_keeps _ _ (Keeps.refl s)
  | prefixQuery _ _ => unfold exec; exact execPrefixQuery_keeps _ _ (Keeps.refl s)
  | copy _ _ => unfold exec; exact execCopy_keeps _ _ (Keeps.refl s)
  | convert _ _ => unfold exec; exact execConvert_keeps _ _ (Keeps.refl s)
  | dmvChunkDone _ => unfold exec; exact execDmvChunkDone_keeps _ (Keeps.refl s)
  | pageMoveDone _ _ => unfold exec; exact execPageMoveDone_keeps _ _ (Keeps.refl s)
  | pageMoveFailed _ _ => unfold exec; exact execPageMoveFailed_keeps _ _ (Keeps.refl s)
  | drainRelease _ _ => unfold exec; exact execDrainRelease_keeps _ _ (Keeps.refl s)
  | vseStoreSet _ _ => unfold exec; exact execVseStoreSet_keeps _ _ (Keeps.refl s)
  | vseInsert _ _ => unfold exec; exact execVseInsert_keeps _ _ (Keeps.refl s)
  | vseDelete _ _ => unfold exec; exact execVseDelete_keeps _ _ (Keeps.refl s)
  | vseSearch _ _ => unfold exec; exact execVseSearch_keeps _ _ (Keeps.refl s)
  | scanGroupEnd _ _ => unfold exec; exact execScanGroupEnd_keeps _ _ (Keeps.refl s)
  | vseRepairPop _ _ _ => unfold exec; exact execVseRepairPop_keeps _ _ _ (Keeps.refl s)
  | rerankEnWrite _ _ _ => unfold exec; exact execRerankEnWrite_keeps _ _ _ (Keeps.refl s)
  | regionEnable _ _ _ => unfold exec; exact execRegionEnable_keeps _ _ _ (Keeps.refl s)
  | regionReady _ _ => unfold exec; exact execRegionReady_keeps _ _ (Keeps.refl s)
  | wrWaitExpiry _ _ _ => unfold exec; exact execWrWaitExpiry_keeps _ _ _ (Keeps.refl s)
  | jscDispatch _ => unfold exec; exact execJscDispatch_keeps _ (Keeps.refl s)
  | engineStart _ _ => unfold exec; exact execEngineStart_keeps _ _ (Keeps.refl s)
  | deficitUpdate _ => unfold exec; exact execDeficitUpdate_keeps _ (Keeps.refl s)
  | barrier _ _ => unfold exec; exact execBarrier_keeps _ _ (Keeps.refl s)
  | tokenSet _ _ => unfold exec; exact execTokenSet_keeps _ _ (Keeps.refl s)
  | counterRead _ _ => unfold exec; exact execCounterRead_keeps _ _ (Keeps.refl s)
  | tokenAssign _ _ _ => unfold exec; exact execTokenAssign_keeps _ _ _ (Keeps.refl s)
  | jobContextWrite _ _ _ _ => unfold exec; exact execJobContextWrite_keeps _ _ _ _ (Keeps.refl s)
  | kill _ _ _ => unfold exec; exact execKill_keeps _ _ _ (Keeps.refl s)
  | clear _ _ => unfold exec; exact execClear_keeps _ _ (Keeps.refl s)
  | jobTeardown _ _ => unfold exec; exact execJobTeardown_keeps _ _ (Keeps.refl s)
  | faultRetry _ _ _ => unfold exec; exact execFaultRetry_keeps _ _ _ (Keeps.refl s)
  | faultFail _ _ _ => unfold exec; exact execFaultFail_keeps _ _ _ (Keeps.refl s)
  | faultTimeout _ _ => unfold exec; exact execFaultTimeout_keeps _ _ (Keeps.refl s)
  | tlbInvalidate _ _ _ => unfold exec; exact execTlbInvalidate_keeps _ _ _ (Keeps.refl s)
  | invalidateDone _ => unfold exec; exact execInvalidateDone_keeps _ (Keeps.refl s)
  | ethernetFrame _ _ => unfold exec; exact execEthernetFrame_keeps _ _ (Keeps.refl s)
  | ptpMessage _ _ _ => unfold exec; exact execPtpMessage_keeps _ _ _ (Keeps.refl s)
  | write _ _ => unfold exec; exact execWrite_keeps _ _ (Keeps.refl s)
  | readReq _ _ => unfold exec; exact execReadReq_keeps _ _ (Keeps.refl s)
  | readResp _ _ => unfold exec; exact execReadResp_keeps _ _ (Keeps.refl s)
  | flush _ _ => unfold exec; exact execFlush_keeps _ _ (Keeps.refl s)
  | flushResp _ _ => unfold exec; exact execFlushResp_keeps _ _ (Keeps.refl s)
  | atomic _ _ => unfold exec; exact execAtomic_keeps _ _ (Keeps.refl s)
  | atomicResp _ _ => unfold exec; exact execAtomicResp_keeps _ _ (Keeps.refl s)
  | status _ _ => unfold exec; exact execStatus_keeps _ _ (Keeps.refl s)
  | ack _ _ => unfold exec; exact execAck_keeps _ _ (Keeps.refl s)
  | busy _ _ => unfold exec; exact execBusy_keeps _ _ (Keeps.refl s)
  | wrWrite _ _ => unfold exec; exact execWrWrite_keeps _ _ (Keeps.refl s)
  | wrRead _ _ => unfold exec; exact execWrRead_keeps _ _ (Keeps.refl s)
  | wrFlush _ _ => unfold exec; exact execWrFlush_keeps _ _ (Keeps.refl s)
  | wrAtomic _ _ => unfold exec; exact execWrAtomic_keeps _ _ (Keeps.refl s)
  | winOpen _ _ => unfold exec; exact execWinOpen_keeps _ _ (Keeps.refl s)
  | winOpenGapEnd _ _ => unfold exec; exact execWinOpenGapEnd_keeps _ _ (Keeps.refl s)
  | winRevoke _ _ => unfold exec; exact execWinRevoke_keeps _ _ (Keeps.refl s)
  | connSet _ _ _ => unfold exec; exact execConnSet_keeps _ _ _ (Keeps.refl s)
  | connReset _ _ _ => unfold exec; exact execConnReset_keeps _ _ _ (Keeps.refl s)
  | connDestroy _ _ => unfold exec; exact execConnDestroy_keeps _ _ (Keeps.refl s)
  | connSnap _ _ => unfold exec; exact execConnSnap_keeps _ _ (Keeps.refl s)
  | ctxFetchDone _ _ _ => unfold exec; exact execCtxFetchDone_keeps _ _ _ (Keeps.refl s)
  | rtoExpiry _ _ => unfold exec; exact execRtoExpiry_keeps _ _ (Keeps.refl s)
  | ackDelayExpiry _ _ => unfold exec; exact execAckDelayExpiry_keeps _ _ (Keeps.refl s)
  | busyBackoffEnd _ _ => unfold exec; exact execBusyBackoffEnd_keeps _ _ (Keeps.refl s)
  | rateAdjust _ _ => unfold exec; exact execRateAdjust_keeps _ _ (Keeps.refl s)
  | linkChange _ _ _ => unfold exec; exact execLinkChange_keeps _ _ _ (Keeps.refl s)
  | fecInterval _ _ _ => unfold exec; exact execFecInterval_keeps _ _ _ (Keeps.refl s)
  | wheelSlotDue _ => unfold exec; exact execWheelSlotDue_keeps _ (Keeps.refl s)
  | coarseSlotDue _ => unfold exec; exact execCoarseSlotDue_keeps _ (Keeps.refl s)
  | egressTransmit _ _ => unfold exec; exact execEgressTransmit_keeps _ _ (Keeps.refl s)
  | shaperRateWrite _ _ _ => unfold exec; exact execShaperRateWrite_keeps _ _ _ (Keeps.refl s)
  | shaperConfigWrite _ _ _ _ => unfold exec; exact execShaperConfigWrite_keeps _ _ _ _ (Keeps.refl s)
  | policerConfigWrite _ _ _ _ => unfold exec; exact execPolicerConfigWrite_keeps _ _ _ _ (Keeps.refl s)
  | sampleInstant _ => unfold exec; exact execSampleInstant_keeps _ (Keeps.refl s)
  | solrovModeEnter _ _ _ => unfold exec; exact execSolrovModeEnter_keeps _ _ _ (Keeps.refl s)
  | flit _ _ => unfold exec; exact execFlit_keeps _ _ (Keeps.refl s)
  | replayReq _ _ => unfold exec; exact execReplayReq_keeps _ _ (Keeps.refl s)
  | solrovLink _ _ => unfold exec; exact execSolrovLink_keeps _ _ (Keeps.refl s)
  | load _ => unfold exec; exact execLoad_keeps _ (Keeps.refl s)
  | store _ => unfold exec; exact execStore_keeps _ (Keeps.refl s)
  | rackAtomic _ => unfold exec; exact execRackAtomic_keeps _ (Keeps.refl s)
  | nmo _ => unfold exec; exact execNmo_keeps _ (Keeps.refl s)
  | nmoStart _ => unfold exec; exact execNmoStart_keeps _ (Keeps.refl s)
  | nmoDone _ _ => unfold exec; exact execNmoDone_keeps _ _ (Keeps.refl s)
  | msg _ => unfold exec; exact execMsg_keeps _ (Keeps.refl s)
  | devMsg _ => unfold exec; exact execDevMsg_keeps _ (Keeps.refl s)
  | loadRsp _ => unfold exec; exact execLoadRsp_keeps _ (Keeps.refl s)
  | storeAck _ => unfold exec; exact execStoreAck_keeps _ (Keeps.refl s)
  | atomicRsp _ => unfold exec; exact execAtomicRsp_keeps _ (Keeps.refl s)
  | nmoRsp _ => unfold exec; exact execNmoRsp_keeps _ (Keeps.refl s)
  | nak _ => unfold exec; exact execNak_keeps _ (Keeps.refl s)
  | msgAck _ => unfold exec; exact execMsgAck_keeps _ (Keeps.refl s)
  | orderedStoreSend _ => unfold exec; exact execOrderedStoreSend_keeps _ (Keeps.refl s)
  | solrovStore _ _ => unfold exec; exact execSolrovStore_keeps _ _ (Keeps.refl s)
  | solrovAtomic _ _ => unfold exec; exact execSolrovAtomic_keeps _ _ (Keeps.refl s)
  | solrovNmo _ _ => unfold exec; exact execSolrovNmo_keeps _ _ (Keeps.refl s)
  | solrovMsg _ _ => unfold exec; exact execSolrovMsg_keeps _ _ (Keeps.refl s)
  | solrovStall _ _ => unfold exec; exact execSolrovStall_keeps _ _ (Keeps.refl s)
  | abandon _ _ _ _ => unfold exec; exact execAbandon_keeps _ _ _ _ (Keeps.refl s)
  | slpRevive _ _ _ _ => unfold exec; exact execSlpRevive_keeps _ _ _ _ (Keeps.refl s)
  | ccxJoin _ _ => unfold exec; exact execCcxJoin_keeps _ _ (Keeps.refl s)
  | ccxLeave _ _ => unfold exec; exact execCcxLeave_keeps _ _ (Keeps.refl s)
  | ccxRevive _ _ _ => unfold exec; exact execCcxRevive_keeps _ _ _ (Keeps.refl s)
  | cohFlush _ _ => unfold exec; exact execCohFlush_keeps _ _ (Keeps.refl s)
  | rdS _ => unfold exec; exact execRdS_keeps _ (Keeps.refl s)
  | rdX _ => unfold exec; exact execRdX_keeps _ (Keeps.refl s)
  | upg _ => unfold exec; exact execUpg_keeps _ (Keeps.refl s)
  | wb _ => unfold exec; exact execWb_keeps _ (Keeps.refl s)
  | evc _ => unfold exec; exact execEvc_keeps _ (Keeps.refl s)
  | clean _ => unfold exec; exact execClean_keeps _ (Keeps.refl s)
  | srsp _ => unfold exec; exact execSrsp_keeps _ (Keeps.refl s)
  | cmp _ => unfold exec; exact execCmp_keeps _ (Keeps.refl s)
  | snpS _ => unfold exec; exact execSnpS_keeps _ (Keeps.refl s)
  | snpX _ => unfold exec; exact execSnpX_keeps _ (Keeps.refl s)
  | snpInv _ => unfold exec; exact execSnpInv_keeps _ (Keeps.refl s)
  | gnt _ => unfold exec; exact execGnt_keeps _ (Keeps.refl s)
  | retry _ => unfold exec; exact execRetry_keeps _ (Keeps.refl s)
  | evAck _ => unfold exec; exact execEvAck_keeps _ (Keeps.refl s)
  | mrd _ => unfold exec; exact execMrd_keeps _ (Keeps.refl s)
  | mwr _ => unfold exec; exact execMwr_keeps _ (Keeps.refl s)
  | psn _ => unfold exec; exact execPsn_keeps _ (Keeps.refl s)
  | mwrAck _ => unfold exec; exact execMwrAck_keeps _ (Keeps.refl s)
  | psnAck _ => unfold exec; exact execPsnAck_keeps _ (Keeps.refl s)
  | data _ => unfold exec; exact execData_keeps _ (Keeps.refl s)
  | cohBackoffEnd _ => unfold exec; exact execCohBackoffEnd_keeps _ (Keeps.refl s)
  | hbSend _ => unfold exec; exact execHbSend_keeps _ (Keeps.refl s)
  | hb _ => unfold exec; exact execHb_keeps _ (Keeps.refl s)
  | hbEcho _ => unfold exec; exact execHbEcho_keeps _ (Keeps.refl s)
  | memberDead _ _ => unfold exec; exact execMemberDead_keeps _ _ (Keeps.refl s)
  | domainLost _ => unfold exec; exact execDomainLost_keeps _ (Keeps.refl s)
  | join _ => unfold exec; exact execJoin_keeps _ (Keeps.refl s)
  | joinAck _ => unfold exec; exact execJoinAck_keeps _ (Keeps.refl s)
  | deadNote _ => unfold exec; exact execDeadNote_keeps _ (Keeps.refl s)
  | bindChannel _ _ => unfold exec; exact execBindChannel_keeps _ _ (Keeps.refl s)
  | unbindChannel _ _ => unfold exec; exact execUnbindChannel_keeps _ _ (Keeps.refl s)
  | initiateDynamicCapacityAdd _ _ => unfold exec; exact execInitiateDynamicCapacityAdd_keeps _ _ (Keeps.refl s)
  | addDynamicCapacityResponse _ _ => unfold exec; exact execAddDynamicCapacityResponse_keeps _ _ (Keeps.refl s)
  | initiateDynamicCapacityRelease _ _ _ => unfold exec; exact execInitiateDynamicCapacityRelease_keeps _ _ _ (Keeps.refl s)
  | releaseDynamicCapacity _ _ => unfold exec; exact execReleaseDynamicCapacity_keeps _ _ (Keeps.refl s)
  | compositionEpochRetire => unfold exec; exact execCompositionEpochRetire_keeps (Keeps.refl s)
  | cxlMemRead _ _ _ => unfold exec; exact execCxlMemRead_keeps _ _ _ (Keeps.refl s)
  | cxlMemWrite _ _ _ => unfold exec; exact execCxlMemWrite_keeps _ _ _ (Keeps.refl s)
  | birsp _ _ _ => unfold exec; exact execBirsp_keeps _ _ _ (Keeps.refl s)
  | biTimeout _ => unfold exec; exact execBiTimeout_keeps _ (Keeps.refl s)
  | ldReset _ => unfold exec; exact execLdReset_keeps _ (Keeps.refl s)
  | hostPortFault _ _ => unfold exec; exact execHostPortFault_keeps _ _ (Keeps.refl s)
  | publish _ _ => unfold exec; exact execPublish_keeps _ _ (Keeps.refl s)
  | shareSet _ _ => unfold exec; exact execShareSet_keeps _ _ (Keeps.refl s)
  | shareQuery _ _ => unfold exec; exact execShareQuery_keeps _ _ (Keeps.refl s)
  | configurationRequest _ _ => unfold exec; exact execConfigurationRequest_keeps _ _ (Keeps.refl s)
  | doeDiscovery _ _ => unfold exec; exact execDoeDiscovery_keeps _ _ (Keeps.refl s)
  | cdatRead _ => unfold exec; exact execCdatRead_keeps _ (Keeps.refl s)
  | ideKm _ _ _ _ => unfold exec; exact execIdeKm_keeps _ _ _ _ (Keeps.refl s)
  | getVersion _ => unfold exec; exact execGetVersion_keeps _ (Keeps.refl s)
  | getCapabilities _ _ => unfold exec; exact execGetCapabilities_keeps _ _ (Keeps.refl s)
  | negotiateAlgorithms _ _ => unfold exec; exact execNegotiateAlgorithms_keeps _ _ (Keeps.refl s)
  | getDigests _ _ => unfold exec; exact execGetDigests_keeps _ _ (Keeps.refl s)
  | getCertificate _ _ _ _ => unfold exec; exact execGetCertificate_keeps _ _ _ _ (Keeps.refl s)
  | challenge _ _ => unfold exec; exact execChallenge_keeps _ _ (Keeps.refl s)
  | getMeasurements _ _ _ => unfold exec; exact execGetMeasurements_keeps _ _ _ (Keeps.refl s)
  | keyExchange _ _ _ => unfold exec; exact execKeyExchange_keeps _ _ _ (Keeps.refl s)
  | finish _ _ => unfold exec; exact execFinish_keeps _ _ (Keeps.refl s)
  | endSession _ _ => unfold exec; exact execEndSession_keeps _ _ (Keeps.refl s)
  | keyUpdate _ _ => unfold exec; exact execKeyUpdate_keeps _ _ (Keeps.refl s)
  | mbDataWrite _ _ _ _ => unfold exec; exact execMbDataWrite_keeps _ _ _ _ (Keeps.refl s)
  | mbGo _ _ _ => unfold exec; exact execMbGo_keeps _ _ _ (Keeps.refl s)
  | mbxRxSeqRead _ => unfold exec; exact execMbxRxSeqRead_keeps _ (Keeps.refl s)
  | empty _ => unfold exec; exact execEmpty_keeps _ (Keeps.refl s)
  | clrCollision _ => unfold exec; exact execClrCollision_keeps _ (Keeps.refl s)
  | mbxRxAck _ _ => unfold exec; exact execMbxRxAck_keeps _ _ (Keeps.refl s)
  | mbxRouteWrite _ _ => unfold exec; exact execMbxRouteWrite_keeps _ _ (Keeps.refl s)
  | powerGood _ => unfold exec; exact execPowerGood_keeps _ (Keeps.refl s)
  | powerLoss => unfold exec; exact execPowerLoss_keeps (Keeps.refl s)
  | fusesLoaded _ _ => unfold exec; exact execFusesLoaded_keeps _ _ (Keeps.refl s)
  | loadBootImage _ _ => unfold exec; exact execLoadBootImage_keeps _ _ (Keeps.refl s)
  | bootImageDone => unfold exec; exact execBootImageDone_keeps (Keeps.refl s)
  | bootImageTimeout => unfold exec; exact execBootImageTimeout_keeps (Keeps.refl s)
  | imageReceived _ => unfold exec; exact execImageReceived_keeps _ (Keeps.refl s)
  | loadPhaseDone => unfold exec; exact execLoadPhaseDone_keeps (Keeps.refl s)
  | trainingDone _ => unfold exec; exact execTrainingDone_keeps _ (Keeps.refl s)
  | warmReset _ => unfold exec; exact execWarmReset_keeps _ (Keeps.refl s)
  | modReset => unfold exec; exact execModReset_keeps (Keeps.refl s)
  | bootRetry _ _ => unfold exec; exact execBootRetry_keeps _ _ (Keeps.refl s)
  | swapNow _ => unfold exec; exact execSwapNow_keeps _ (Keeps.refl s)
  | fwUpdate _ _ _ => unfold exec; exact execFwUpdate_keeps _ _ _ (Keeps.refl s)
  | updateDrained _ => unfold exec; exact execUpdateDrained_keeps _ (Keeps.refl s)
  | updateImageRead _ _ => unfold exec; exact execUpdateImageRead_keeps _ _ (Keeps.refl s)
  | fwSelfTestDone _ => unfold exec; exact execFwSelfTestDone_keeps _ (Keeps.refl s)
  | chOut _ _ => unfold exec; exact execChOut_keeps _ _ (Keeps.refl s)
  | retrain _ _ => unfold exec; exact execRetrain_keeps _ _ (Keeps.refl s)
  | retrainDone _ _ => unfold exec; exact execRetrainDone_keeps _ _ (Keeps.refl s)
  | chIn _ _ => unfold exec; exact execChIn_keeps _ _ (Keeps.refl s)
  | norRead _ => unfold exec; exact execNorRead_keeps _ (Keeps.refl s)
  | norProgram _ => unfold exec; exact execNorProgram_keeps _ (Keeps.refl s)
  | norErase _ => unfold exec; exact execNorErase_keeps _ (Keeps.refl s)
  | svnBurn _ _ => unfold exec; exact execSvnBurn_keeps _ _ (Keeps.refl s)
  | keyRevoke _ _ => unfold exec; exact execKeyRevoke_keeps _ _ (Keeps.refl s)
  | tokenTick => unfold exec; exact execTokenTick_keeps (Keeps.refl s)
  | domainRampDone _ => unfold exec; exact execDomainRampDone_keeps _ (Keeps.refl s)
  | arrayIdleExpiry _ => unfold exec; exact execArrayIdleExpiry_keeps _ (Keeps.refl s)
  | coreWaitForInterrupt _ => unfold exec; exact execCoreWaitForInterrupt_keeps _ (Keeps.refl s)
  | sensorSample _ _ _ _ => unfold exec; exact execSensorSample_keeps _ _ _ _ (Keeps.refl s)
  | powerAverage => unfold exec; exact execPowerAverage_keeps (Keeps.refl s)
  | throttleStepDown => unfold exec; exact execThrottleStepDown_keeps (Keeps.refl s)
  | throtForceWrite _ _ => unfold exec; exact execThrotForceWrite_keeps _ _ (Keeps.refl s)
  | thermtrip => unfold exec; exact execThermtrip_keeps (Keeps.refl s)
  | vinWarn _ => unfold exec; exact execVinWarn_keeps _ (Keeps.refl s)
  | vinFault _ => unfold exec; exact execVinFault_keeps _ (Keeps.refl s)
  | refLost _ => unfold exec; exact execRefLost_keeps _ (Keeps.refl s)
  | refRestored _ => unfold exec; exact execRefRestored_keeps _ (Keeps.refl s)
  | pllUnlock _ => unfold exec; exact execPllUnlock_keeps _ (Keeps.refl s)
  | pllRelock _ => unfold exec; exact execPllRelock_keeps _ (Keeps.refl s)
  | correctedError _ _ _ _ => unfold exec; exact execCorrectedError_keeps _ _ _ _ (Keeps.refl s)
  | channelFatalFault _ => unfold exec; exact execChannelFatalFault_keeps _ (Keeps.refl s)
  | deviceFatalFault _ _ _ _ => unfold exec; exact execDeviceFatalFault_keeps _ _ _ _ (Keeps.refl s)
  | coreFault _ => unfold exec; exact execCoreFault_keeps _ (Keeps.refl s)
  | spareCommit _ _ => unfold exec; exact execSpareCommit_keeps _ _ (Keeps.refl s)
  | spareDecline _ _ => unfold exec; exact execSpareDecline_keeps _ _ (Keeps.refl s)
  | rasInject _ _ => unfold exec; exact execRasInject_keeps _ _ (Keeps.refl s)
  | snap _ => unfold exec; exact execSnap_keeps _ (Keeps.refl s)
  | arm _ _ => unfold exec; exact execArm_keeps _ _ (Keeps.refl s)
  | dbgMemRead _ => unfold exec; exact execDbgMemRead_keeps _ (Keeps.refl s)
  | channelCheckDone _ _ => unfold exec; exact execChannelCheckDone_keeps _ _ (Keeps.refl s)
  | linkUp _ _ _ => unfold exec; exact execLinkUp_keeps _ _ _ (Keeps.refl s)
  | controlCoreAccess _ _ _ _ _ _ _ => unfold exec; exact execControlCoreAccess_keeps _ _ _ _ _ _ _ (Keeps.refl s)

end Sys2Proof.Machine
end

