-- ==== Sys2Proof/Laws/SameMem.lean ====
section
/-! SUPPORT. Memory after the commands that write none: one lemma per operation they use. -/
namespace Sys2Proof.Machine

/-- From `s`, the device comes to `t` with memory as it was. -/
structure SameMem (s t : State) : Prop where
  mem : t.mem = s.mem

theorem SameMem.refl (s : State) : SameMem s s := ⟨rfl⟩

variable {s0 s : State}

/-- A change of other fields. -/
theorem SameMem.fields (tim : Tim) (pln : Pln) (regs shadow : SMap Word) (blk : SMap BlkSt) (chan : SMap Chan) (cxh : Cxh) (cmp : Cmp)
    (mbx : Mbx) (boot : Boot) (sec : Sec) (ras : Ras) (dbg : Dbg) (spr : Spr) (psq : Psq) (clk : Clk) (out : List OutMsg) (free : Nat)
    (pending : List Instr) (h : SameMem s0 s) :
    SameMem s0 { tim := tim, pln := pln, regs := regs, shadow := shadow, blk := blk, mem := s.mem, chan := chan,
                 cxh := cxh, cmp := cmp, mbx := mbx, boot := boot, sec := sec, ras := ras, dbg := dbg, spr := spr, psq := psq,
                 clk := clk, out := out, free := free, pending := pending } := ⟨(State.mem_mk ..).trans h.mem⟩

theorem SameMem.fst_of {α : Type} {p : State × α} {t : State} {x : α} (e : p = (t, x)) (h : SameMem s0 p.1) : SameMem s0 t := by
  rw [e] at h; exact h

theorem SameMem.snd_of {α : Type} {p : α × State} {t : State} {x : α} (e : p = (x, t)) (h : SameMem s0 p.2) : SameMem s0 t := by
  rw [e] at h; exact h

/-- What an operation that can fail leaves of memory when it does not. -/
def SameMemSome (s : State) (o : Option State) : Prop := ∀ t, o = some t → SameMem s t

theorem SameMem.some_of {o : Option State} {t : State} (e : o = some t) (h : SameMemSome s0 o) : SameMem s0 t := h t e

theorem SameMemSome.none : SameMemSome s0 none := fun _ h => by cases h

theorem SameMemSome.some {t : State} (h : SameMem s0 t) : SameMemSome s0 (some t) := fun _ e => by cases e; exact h

/-- What a command's meaning leaves of memory in its next state. -/
def SameMemNext (s : State) (o : Host.Outcome State Fault Refusal) : Prop := ∀ t, o = .next t → SameMem s t

theorem SameMemNext.next {t : State} (h : SameMem s0 t) : SameMemNext s0 (.next t) := fun _ e => by cases e; exact h

/-! ### The plain operations -/

theorem State.wrAt_sameMem (p : Page) (off : Nat) (v : Word) (sel : Nat) (h : SameMem s0 s) : SameMem s0 (s.wrAt p off v sel) := ⟨(State.wrAt_mem ..).trans h.mem⟩

theorem State.updCh_sameMem (c : Nat) (f : Chan → Chan) (h : SameMem s0 s) : SameMem s0 (s.updCh c f) := ⟨(State.updCh_mem ..).trans h.mem⟩

theorem State.updBlk_sameMem (p : Page) (f : BlkSt → BlkSt) (h : SameMem s0 s) : SameMem s0 (s.updBlk p f) := ⟨(State.updBlk_mem ..).trans h.mem⟩

theorem State.setShadow_sameMem (p : Page) (off : Nat) (v : Word) (h : SameMem s0 s) : SameMem s0 (s.setShadow p off v) := by
  unfold State.setShadow
  exact ⟨(State.mem_mk ..).trans h.mem⟩

theorem State.emit_sameMem (m : OutMsg) (h : SameMem s0 s) : SameMem s0 (s.emit m) := ⟨(State.emit_mem ..).trans h.mem⟩

theorem State.each_sameMem {α : Type} (l : List α) (f : State → α → State)
    (hf : ∀ t a, SameMem s0 t → SameMem s0 (f t a)) (h : SameMem s0 s) : SameMem s0 (s.each l f) := by
  unfold State.each
  induction l generalizing s with
  | nil => exact h
  | cons a l ih => exact ih (hf s a h)

theorem foldl_sameMem {α : Type} (l : List α) (f : State → α → State)
    (hf : ∀ t a, SameMem s0 t → SameMem s0 (f t a)) (h : SameMem s0 s) : SameMem s0 (l.foldl f s) :=
  State.each_sameMem l f hf h

theorem foldl_fst_sameMem {α β : Type} (l : List α) (f : State × β → α → State × β)
    (hf : ∀ x a, SameMem s0 x.1 → SameMem s0 (f x a).1) (p : State × β) (h : SameMem s0 p.1) : SameMem s0 (l.foldl f p).1 := by
  induction l generalizing p with
  | nil => exact h
  | cons a l ih => exact ih (f p a) (hf p a h)

theorem State.when_sameMem (c : Bool) (f : State → State) (hf : ∀ t, SameMem s0 t → SameMem s0 (f t)) (h : SameMem s0 s) :
    SameMem s0 (s.when c f) := by
  unfold State.when
  split
  · exact hf s h
  · exact h

theorem State.drawNat_sameMem (h : SameMem s0 s) : SameMem s0 s.drawNat.2 := by
  unfold State.drawNat; exact ⟨(State.mem_mk ..).trans h.mem⟩

theorem State.drawBool_sameMem (h : SameMem s0 s) : SameMem s0 s.drawBool.2 := by
  unfold State.drawBool; exact ⟨(State.mem_mk ..).trans h.mem⟩

theorem State.drawBytes_sameMem (n : Nat) (h : SameMem s0 s) : SameMem s0 (s.drawBytes n).2 := by
  unfold State.drawBytes; exact ⟨(State.mem_mk ..).trans h.mem⟩

theorem State.wr_sameMem {σ : State} {s : State} (i : Nat) (r : RegId) (v : Word) (sel : Nat) (hs : SameMem σ s) :
    SameMem σ (State.wr s i r v sel) := by
  unfold State.wr
  repeat' (with_reducible
    first
    | assumption | apply State.wrAt_sameMem | (intro _) | exact rfl | apply SameMem.fields)

theorem State.wr64_sameMem {σ : State} {s : State} (i : Nat) (r : RegId) (v : Nat) (sel : Nat) (hs : SameMem σ s) :
    SameMem σ (State.wr64 s i r v sel) := by
  unfold State.wr64
  repeat' (with_reducible
    first
    | assumption | apply State.wr_sameMem | apply State.wrAt_sameMem | (intro _) | exact rfl | apply SameMem.fields)

theorem State.bump_sameMem {σ : State} {s : State} (i : Nat) (r : RegId) (n : Nat) (sel : Nat) (hs : SameMem σ s) :
    SameMem σ (State.bump s i r n sel) := by
  unfold State.bump
  repeat' (with_reducible
    first
    | assumption | apply State.wr_sameMem | (intro _) | exact rfl | apply SameMem.fields)

theorem State.pass_sameMem (n : Nat) (h : SameMem s0 s) : SameMem s0 (s.pass n) := ⟨(State.pass_mem ..).trans h.mem⟩

theorem State.passToTod_sameMem {σ : State} {s : State} (t : Nat) (hs : SameMem σ s) : SameMem σ (State.passToTod s t) := by
  unfold State.passToTod
  repeat' (with_reducible
    first
    | assumption | apply State.pass_sameMem | (intro _) | exact rfl | apply SameMem.fields)

theorem State.passToNow_sameMem {σ : State} {s : State} (t : Nat) (hs : SameMem σ s) : SameMem σ (State.passToNow s t) := by
  unfold State.passToNow
  repeat' (with_reducible
    first
    | assumption | apply State.pass_sameMem | (intro _) | exact rfl | apply SameMem.fields)

theorem State.passToCad_sameMem {σ : State} {s : State} (c : Int) (hs : SameMem σ s) : SameMem σ (State.passToCad s c) := by
  unfold State.passToCad
  repeat' (with_reducible
    first
    | assumption | apply State.pass_sameMem | (intro _) | exact rfl | apply SameMem.fields)

theorem State.logErr_sameMem {σ : State} {s : State} (p : Page) (source job cls addr detail : Nat) (hs : SameMem σ s) :
    SameMem σ (State.logErr s p source job cls addr detail) := by
  unfold State.logErr
  repeat' (with_reducible
    first
    | assumption | apply State.wrAt_sameMem | extract_lets | split | (intro _) | exact rfl | apply SameMem.fields)

theorem State.logIgnored_sameMem {σ : State} {s : State} (p : Page) (off : Nat) (v : Word) (hs : SameMem σ s) :
    SameMem σ (State.logIgnored s p off v) := by
  unfold State.logIgnored
  repeat' (with_reducible
    first
    | assumption | apply State.logErr_sameMem | (intro _) | exact rfl | apply SameMem.fields)

theorem State.logDoorbell_sameMem {σ : State} {s : State} (p : Page) (off : Nat) (v : Nat) (hs : SameMem σ s) :
    SameMem σ (State.logDoorbell s p off v) := by
  unfold State.logDoorbell
  repeat' (with_reducible
    first
    | assumption | apply State.logErr_sameMem | (intro _) | exact rfl | apply SameMem.fields)

theorem State.alertEdge_sameMem {σ : State} {s : State} (old : State) (hs : SameMem σ s) : SameMem σ (State.alertEdge old s) := by
  unfold State.alertEdge
  repeat' (with_reducible
    first
    | assumption | apply State.emit_sameMem | split | (intro _) | exact rfl | apply SameMem.fields)

theorem State.storeActive_sameMem {σ : State} {s : State} (p : Page) (off sel mask : Nat) (v : Word) (hs : SameMem σ s) :
    SameMem σ (State.storeActive s p off sel mask v) := by
  unfold State.storeActive
  repeat' (with_reducible
    first
    | assumption | apply State.wrAt_sameMem | extract_lets | (intro _) | exact rfl | apply SameMem.fields)

theorem State.storeShadow_sameMem {σ : State} {s : State} (p : Page) (off mask : Nat) (v : Word) (hs : SameMem σ s) :
    SameMem σ (State.storeShadow s p off mask v) := by
  unfold State.storeShadow
  repeat' (with_reducible
    first
    | assumption | apply State.logIgnored_sameMem | apply State.setShadow_sameMem | apply State.updBlk_sameMem
    | apply State.when_sameMem | extract_lets | split | (intro _) | exact rfl | apply SameMem.fields)

theorem State.ioUr_sameMem {σ : State} {s : State} (rq : Requester) (hs : SameMem σ s) : SameMem σ (State.ioUr s rq) := by
  unfold State.ioUr
  repeat' (with_reducible
    first
    | assumption | apply State.emit_sameMem | split | (intro _) | (apply SameMem.fst_of; assumption)
    | (apply SameMem.snd_of; assumption) | (apply SameMem.some_of; assumption) | exact rfl | apply SameMem.fields)

theorem State.withWrite_sameMem {σ : State} {s : State} (rq : Requester) (p : Page) (off : Nat) (v : Word) (f : State → State)
    (hf : ∀ (a0 : State), SameMem σ a0 → SameMem σ (f a0)) (hs : SameMem σ s) :
    SameMem σ (State.withWrite s rq p off v f) := by
  unfold State.withWrite
  repeat' (with_reducible
    first
    | assumption | apply hf | apply State.ioUr_sameMem | apply State.logIgnored_sameMem | apply State.pass_sameMem
    | apply State.storeShadow_sameMem | split | (intro _) | (apply SameMem.fst_of; assumption) | (apply SameMem.snd_of; assumption)
    | (apply SameMem.some_of; assumption) | exact rfl | apply SameMem.fields)

theorem State.onWrite_sameMem {σ : State} {s : State} (rq : Requester) (i : Nat) (r : RegId) (v : Word) (f : State → State)
    (hf : ∀ (a0 : State), SameMem σ a0 → SameMem σ (f a0)) (hs : SameMem σ s) :
    SameMem σ (State.onWrite s rq i r v f) := by
  unfold State.onWrite
  repeat' (with_reducible
    first
    | assumption | apply hf | apply State.withWrite_sameMem | (intro _) | exact rfl | apply SameMem.fields)

theorem State.store_sameMem {σ : State} {s : State} (i : Nat) (r : RegId) (v : Word) (hs : SameMem σ s) :
    SameMem σ (State.store s i r v) := by
  unfold State.store
  repeat' (with_reducible
    first
    | assumption | apply State.storeActive_sameMem | split | (intro _) | (apply SameMem.fst_of; assumption)
    | (apply SameMem.snd_of; assumption) | (apply SameMem.some_of; assumption) | exact rfl | apply SameMem.fields)

theorem State.setPsq_sameMem {σ : State} {s : State} (f : Psq → Psq) (hs : SameMem σ s) : SameMem σ (State.setPsq s f) := by
  unfold State.setPsq
  repeat' (with_reducible
    first
    | assumption | (intro _) | exact rfl | apply SameMem.fields)

theorem State.setDom_sameMem {σ : State} {s : State} (d : Nat) (st : DomState) (hs : SameMem σ s) :
    SameMem σ (State.setDom s d st) := by
  unfold State.setDom
  repeat' (with_reducible
    first
    | assumption | apply State.setPsq_sameMem | (intro _) | exact rfl | apply SameMem.fields)

theorem State.grantWake_sameMem {σ : State} {s : State} (d : Nat) (hs : SameMem σ s) : SameMem σ (State.grantWake s d) := by
  unfold State.grantWake
  repeat' (with_reducible
    first
    | assumption | apply State.setDom_sameMem | apply State.setPsq_sameMem | apply State.bump_sameMem | (intro _) | exact rfl
    | apply SameMem.fields)

theorem State.idleDown_sameMem {σ : State} {s : State} (d : Nat) (hs : SameMem σ s) : SameMem σ (State.idleDown s d) := by
  unfold State.idleDown
  repeat' (with_reducible
    first
    | assumption | apply State.setPsq_sameMem | (intro _) | exact rfl | apply SameMem.fields)

theorem State.wake_sameMem {σ : State} {s : State} (d : Nat) (hs : SameMem σ s) : SameMem σ (State.wake s d) := by
  unfold State.wake
  repeat' (with_reducible
    first
    | assumption | apply State.setDom_sameMem | apply State.grantWake_sameMem | apply State.bump_sameMem | split | (intro _)
    | (apply SameMem.fst_of; assumption) | (apply SameMem.snd_of; assumption) | (apply SameMem.some_of; assumption) | exact rfl
    | apply SameMem.fields)

theorem State.grantQueued_sameMem {σ : State} {s : State} (hs : SameMem σ s) : SameMem σ (State.grantQueued s) := by
  unfold State.grantQueued
  repeat' (with_reducible
    first
    | assumption | apply State.grantWake_sameMem | split | (intro _) | (apply SameMem.fst_of; assumption)
    | (apply SameMem.snd_of; assumption) | (apply SameMem.some_of; assumption) | exact rfl | apply SameMem.fields)

theorem execTokenTick_sameMem {σ : State} {s : State} (hs : SameMem σ s) : SameMemNext σ (execTokenTick s) := by
  unfold execTokenTick
  repeat' (with_reducible
    first
    | assumption | apply State.passToNow_sameMem | apply State.setPsq_sameMem | apply State.grantQueued_sameMem | apply SameMemNext.next
    | extract_lets | (intro _) | exact rfl | apply SameMem.fields)

theorem execDomainRampDone_sameMem {σ : State} {s : State} (d : Nat) (hs : SameMem σ s) : SameMemNext σ (execDomainRampDone d s) := by
  unfold execDomainRampDone
  repeat' (with_reducible
    first
    | assumption | apply State.when_sameMem | apply State.passToNow_sameMem | apply State.setDom_sameMem | apply State.emit_sameMem
    | apply SameMemNext.next | extract_lets | split | (intro _) | (apply SameMem.fst_of; assumption)
    | (apply SameMem.snd_of; assumption) | (apply SameMem.some_of; assumption) | exact rfl | apply SameMem.fields)

theorem execArrayIdleExpiry_sameMem {σ : State} {s : State} (c : Nat) (hs : SameMem σ s) :
    SameMemNext σ (execArrayIdleExpiry c s) := by
  unfold execArrayIdleExpiry
  repeat' (with_reducible
    first
    | assumption | apply State.when_sameMem | apply State.passToNow_sameMem | apply State.idleDown_sameMem | apply SameMemNext.next
    | extract_lets | (intro _) | exact rfl | apply SameMem.fields)

theorem execCoreWaitForInterrupt_sameMem {σ : State} {s : State} (core : Nat) (hs : SameMem σ s) :
    SameMemNext σ (execCoreWaitForInterrupt core s) := by
  unfold execCoreWaitForInterrupt
  repeat' (with_reducible
    first
    | assumption | apply State.when_sameMem | apply State.idleDown_sameMem | apply SameMemNext.next | (intro _) | exact rfl
    | apply SameMem.fields)

theorem State.setTim_sameMem (f : Tim → Tim) (h : SameMem s0 s) : SameMem s0 (s.setTim f) := ⟨(State.setTim_mem ..).trans h.mem⟩

theorem State.sideRead_sameMem {σ : State} {s : State} (rq : Requester) (p : Page) (v : State → Word) (latch : State → State)
    (hlatch : ∀ (a0 : State), SameMem σ a0 → SameMem σ (latch a0)) (hs : SameMem σ s) :
    SameMem σ (State.sideRead s rq p v latch) := by
  unfold State.sideRead
  repeat' (with_reducible
    first
    | assumption | apply hlatch | apply State.emit_sameMem | apply State.ioUr_sameMem | split | (intro _) | exact rfl
    | apply SameMem.fields)

theorem State.latchSec_sameMem {σ : State} {s : State} (r : RegId) (t : Nat) (hs : SameMem σ s) :
    SameMem σ (State.latchSec s r t) := by
  unfold State.latchSec
  repeat' (with_reducible
    first
    | assumption | apply State.wr_sameMem | apply State.wrAt_sameMem | (intro _) | exact rfl | apply SameMem.fields)

theorem execTodNsRead_sameMem {σ : State} {s : State} (rq : Requester) (hs : SameMem σ s) : SameMemNext σ (execTodNsRead rq s) := by
  unfold execTodNsRead
  repeat' (with_reducible
    first
    | assumption | apply State.sideRead_sameMem | apply State.latchSec_sameMem | apply SameMemNext.next | (intro _) | exact rfl
    | apply SameMem.fields)

theorem execCadPhaseRead_sameMem {σ : State} {s : State} (rq : Requester) (hs : SameMem σ s) :
    SameMemNext σ (execCadPhaseRead rq s) := by
  unfold execCadPhaseRead
  repeat' (with_reducible
    first
    | assumption | apply State.sideRead_sameMem | apply State.wr64_sameMem | apply SameMemNext.next | (intro _) | exact rfl
    | apply SameMem.fields)

theorem execPpsInNsRead_sameMem {σ : State} {s : State} (rq : Requester) (hs : SameMem σ s) :
    SameMemNext σ (execPpsInNsRead rq s) := by
  unfold execPpsInNsRead
  repeat' (with_reducible
    first
    | assumption | apply State.sideRead_sameMem | apply State.latchSec_sameMem | apply SameMemNext.next | (intro _) | exact rfl
    | apply SameMem.fields)

theorem execPpsInEdge_sameMem {σ : State} {s : State} (hs : SameMem σ s) : SameMemNext σ (execPpsInEdge s) := by
  unfold execPpsInEdge
  repeat' (with_reducible
    first
    | assumption | apply State.setTim_sameMem | apply State.when_sameMem | apply State.wr_sameMem | apply SameMemNext.next
    | extract_lets | (intro _) | exact rfl | apply SameMem.fields)

theorem State.passToDayStart_sameMem {σ : State} {s : State} (hs : SameMem σ s) : SameMem σ (State.passToDayStart s) := by
  unfold State.passToDayStart
  repeat' (with_reducible
    first
    | assumption | apply State.passToTod_sameMem | apply State.passToCad_sameMem | extract_lets | split | (intro _) | exact rfl
    | apply SameMem.fields)

theorem execPpsOutPulse_sameMem {σ : State} {s : State} (hs : SameMem σ s) : SameMemNext σ (execPpsOutPulse s) := by
  unfold execPpsOutPulse
  repeat' (with_reducible
    first
    | assumption | apply State.when_sameMem | apply State.passToDayStart_sameMem | apply State.passToTod_sameMem
    | apply State.setTim_sameMem | apply State.emit_sameMem | apply SameMemNext.next | extract_lets | split | (intro _) | exact rfl
    | apply SameMem.fields)

theorem execPpsPulseEnd_sameMem {σ : State} {s : State} (hs : SameMem σ s) : SameMemNext σ (execPpsPulseEnd s) := by
  unfold execPpsPulseEnd
  repeat' (with_reducible
    first
    | assumption | apply State.when_sameMem | apply State.passToNow_sameMem | apply State.setTim_sameMem | apply State.emit_sameMem
    | apply SameMemNext.next | (intro _) | exact rfl | apply SameMem.fields)

theorem State.cadRunSet_sameMem {σ : State} {s : State} (hs : SameMem σ s) : SameMem σ (State.cadRunSet s) := by
  unfold State.cadRunSet
  repeat' (with_reducible
    first
    | assumption | apply State.wr_sameMem | apply State.when_sameMem | apply State.setTim_sameMem | extract_lets | (intro _)
    | exact rfl | apply SameMem.fields)

theorem execCadRunSet_sameMem {σ : State} {s : State} (rq : Requester) (hs : SameMem σ s) : SameMemNext σ (execCadRunSet rq s) := by
  unfold execCadRunSet
  repeat' (with_reducible
    first
    | assumption | apply State.onWrite_sameMem | apply State.cadRunSet_sameMem | apply SameMemNext.next | (intro _) | exact rfl
    | apply SameMem.fields)

theorem State.cadRunClear_sameMem {σ : State} {s : State} (hs : SameMem σ s) : SameMem σ (State.cadRunClear s) := by
  unfold State.cadRunClear
  repeat' (with_reducible
    first
    | assumption | apply State.wr_sameMem | apply State.when_sameMem | apply State.setTim_sameMem | extract_lets | (intro _)
    | exact rfl | apply SameMem.fields)

theorem execCadRunClear_sameMem {σ : State} {s : State} (rq : Requester) (hs : SameMem σ s) :
    SameMemNext σ (execCadRunClear rq s) := by
  unfold execCadRunClear
  repeat' (with_reducible
    first
    | assumption | apply State.onWrite_sameMem | apply State.cadRunClear_sameMem | apply SameMemNext.next | (intro _) | exact rfl
    | apply SameMem.fields)

theorem State.setPln_sameMem {σ : State} {s : State} (f : Pln → Pln) (hs : SameMem σ s) : SameMem σ (State.setPln s f) := by
  unfold State.setPln
  repeat' (with_reducible
    first
    | assumption | (intro _) | exact rfl | apply SameMem.fields)

theorem State.stagedIdReg_sameMem {σ : State} {s : State} (hs : SameMem σ s) : SameMem σ (State.stagedIdReg s) := by
  unfold State.stagedIdReg
  repeat' (with_reducible
    first
    | assumption | apply State.wr_sameMem | split | (intro _) | (apply SameMem.fst_of; assumption)
    | (apply SameMem.snd_of; assumption) | (apply SameMem.some_of; assumption) | exact rfl | apply SameMem.fields)

theorem State.planDiscard_sameMem {σ : State} {s : State} (hs : SameMem σ s) : SameMem σ (State.planDiscard s) := by
  unfold State.planDiscard
  repeat' (with_reducible
    first
    | assumption | apply State.setPln_sameMem | apply State.wr_sameMem | apply State.stagedIdReg_sameMem | (intro _) | exact rfl
    | apply SameMem.fields)

theorem State.planLoad_sameMem {σ : State} {s : State} (hs : SameMem σ s) : SameMem σ (State.planLoad s) := by
  unfold State.planLoad
  repeat' (with_reducible
    first
    | assumption | apply State.logIgnored_sameMem | apply State.setPln_sameMem | apply State.wr_sameMem
    | apply State.stagedIdReg_sameMem | split | (intro _) | exact rfl | apply SameMem.fields)

theorem execPlanLoad_sameMem {σ : State} {s : State} (rq : Requester) (discard : Bool) (hs : SameMem σ s) :
    SameMemNext σ (execPlanLoad rq discard s) := by
  unfold execPlanLoad
  repeat' (with_reducible
    first
    | assumption | apply State.onWrite_sameMem | apply State.planDiscard_sameMem | apply State.planLoad_sameMem | apply SameMemNext.next
    | split | (intro _) | exact rfl | apply SameMem.fields)

theorem execPlanDiscard_sameMem {σ : State} {s : State} (rq : Requester) (hs : SameMem σ s) :
    SameMemNext σ (execPlanDiscard rq s) := by
  unfold execPlanDiscard
  repeat' (with_reducible
    first
    | assumption | apply State.onWrite_sameMem | apply State.planDiscard_sameMem | apply SameMemNext.next | (intro _) | exact rfl
    | apply SameMem.fields)

theorem State.armWatch_sameMem {σ : State} {s : State} (k : Nat) (hs : SameMem σ s) : SameMem σ (State.armWatch s k) := by
  unfold State.armWatch
  repeat' (with_reducible
    first
    | assumption | (intro _) | exact rfl | apply SameMem.fields)

theorem State.updJsc_sameMem {σ : State} {s : State} (c : Nat) (f : JscCh → JscCh) (hs : SameMem σ s) :
    SameMem σ (State.updJsc s c f) := by
  unfold State.updJsc
  repeat' (with_reducible
    first
    | assumption | apply State.updCh_sameMem | (intro _) | exact rfl | apply SameMem.fields)

theorem State.setLane_sameMem {σ : State} {s : State} (c j e : Nat) (l : List LaneCmd) (hs : SameMem σ s) :
    SameMem σ (State.setLane s c j e l) := by
  unfold State.setLane
  repeat' (with_reducible
    first
    | assumption | apply State.updJsc_sameMem | (intro _) | exact rfl | apply SameMem.fields)

theorem State.setEngine_sameMem {σ : State} {s : State} (c e : Nat) (x : Engine) (hs : SameMem σ s) :
    SameMem σ (State.setEngine s c e x) := by
  unfold State.setEngine
  repeat' (with_reducible
    first
    | assumption | apply State.updJsc_sameMem | (intro _) | exact rfl | apply SameMem.fields)

theorem State.addUse_sameMem {σ : State} {s : State} (c j e : Nat) (f : Usage → Usage) (hs : SameMem σ s) :
    SameMem σ (State.addUse s c j e f) := by
  unfold State.addUse
  repeat' (with_reducible
    first
    | assumption | apply State.updJsc_sameMem | (intro _) | exact rfl | apply SameMem.fields)

theorem State.accrueJob_sameMem {σ : State} {s : State} (c e dt total j : Nat) (hs : SameMem σ s) :
    SameMem σ (State.accrueJob s c e dt total j) := by
  unfold State.accrueJob
  repeat' (with_reducible
    first
    | assumption | apply State.updJsc_sameMem | apply State.addUse_sameMem | apply State.setLane_sameMem | extract_lets | split
    | (intro _) | (apply SameMem.fst_of; assumption) | (apply SameMem.snd_of; assumption) | (apply SameMem.some_of; assumption)
    | exact rfl | apply SameMem.fields)

theorem State.accrueEngine_sameMem {σ : State} {s : State} (c dt e : Nat) (hs : SameMem σ s) :
    SameMem σ (State.accrueEngine s c dt e) := by
  unfold State.accrueEngine
  repeat' (with_reducible
    first
    | assumption | apply State.each_sameMem | apply State.accrueJob_sameMem | extract_lets | (intro _) | exact rfl
    | apply SameMem.fields)

theorem State.accrue_sameMem {σ : State} {s : State} (c : Nat) (hs : SameMem σ s) : SameMem σ (State.accrue s c) := by
  unfold State.accrue
  repeat' (with_reducible
    first
    | assumption | apply State.each_sameMem | apply State.accrueEngine_sameMem | apply State.updJsc_sameMem | extract_lets | split
    | (intro _) | exact rfl | apply SameMem.fields)

theorem State.settle_sameMem {σ : State} {s : State} (c : Nat) (hs : SameMem σ s) : SameMem σ (State.settle s c) := by
  unfold State.settle
  repeat' (with_reducible
    first
    | assumption | apply State.updJsc_sameMem | apply foldl_sameMem | apply foldl_fst_sameMem | extract_lets | split | (intro _)
    | exact rfl | apply SameMem.fields)

theorem State.roundD_sameMem {σ : State} {s : State} (c : Nat) (hs : SameMem σ s) : SameMem σ (State.roundD s c) := by
  unfold State.roundD
  repeat' (with_reducible
    first
    | assumption | apply State.updJsc_sameMem | apply foldl_sameMem | apply foldl_fst_sameMem | extract_lets | split | (intro _)
    | exact rfl | apply SameMem.fields)

theorem State.setHead_sameMem {σ : State} {s : State} (c j e : Nat) (f : LaneCmd → LaneCmd) (hs : SameMem σ s) :
    SameMem σ (State.setHead s c j e f) := by
  unfold State.setHead
  repeat' (with_reducible
    first
    | assumption | apply State.setLane_sameMem | split | (intro _) | (apply SameMem.fst_of; assumption)
    | (apply SameMem.snd_of; assumption) | (apply SameMem.some_of; assumption) | exact rfl | apply SameMem.fields)

theorem State.enterLane_sameMem {σ : State} {s : State} (c e : Nat) (cmd : Cmd) (hs : SameMem σ s) :
    SameMem σ (State.enterLane s c e cmd) := by
  unfold State.enterLane
  repeat' (with_reducible
    first
    | assumption | apply State.setLane_sameMem | (intro _) | exact rfl | apply SameMem.fields)

theorem State.countOut_sameMem {σ : State} {s : State} (c : Nat) (cmd : Cmd) (hs : SameMem σ s) :
    SameMem σ (State.countOut s c cmd) := by
  unfold State.countOut
  repeat' (with_reducible
    first
    | assumption | apply State.updJsc_sameMem | split | (intro _) | exact rfl | apply SameMem.fields)

theorem State.tearDown_sameMem {σ : State} {s : State} (job cause : Nat) (hs : SameMem σ s) :
    SameMem σ (State.tearDown s job cause) := by
  unfold State.tearDown
  repeat' (with_reducible
    first
    | assumption | apply State.each_sameMem | apply State.accrue_sameMem | apply State.wrAt_sameMem | apply State.updJsc_sameMem | split
    | (intro _) | exact rfl | apply SameMem.fields)

theorem State.takeEngine_sameMem {σ : State} {s : State} (c e j : Nat) (hs : SameMem σ s) : SameMem σ (State.takeEngine s c e j) := by
  unfold State.takeEngine
  repeat' (with_reducible
    first
    | assumption | apply State.setLane_sameMem | apply State.setEngine_sameMem | apply State.updJsc_sameMem | extract_lets | split
    | (intro _) | (apply SameMem.fst_of; assumption) | (apply SameMem.snd_of; assumption) | (apply SameMem.some_of; assumption)
    | exact rfl | apply SameMem.fields)

theorem State.arrive_sameMem {σ : State} {s : State} (c e : Nat) (cmd : Cmd) (hs : SameMem σ s) :
    SameMem σ (State.arrive s c e cmd) := by
  unfold State.arrive
  repeat' (with_reducible
    first
    | assumption | apply State.when_sameMem | apply State.countOut_sameMem | apply State.enterLane_sameMem | (intro _) | exact rfl
    | apply SameMem.fields)

theorem State.occupy_sameMem {σ : State} {s : State} (c e : Nat) (cmd : Cmd) (hs : SameMem σ s) :
    SameMem σ (State.occupy s c e cmd) := by
  unfold State.occupy
  repeat' (with_reducible
    first
    | assumption | apply State.accrue_sameMem | apply State.arrive_sameMem | apply State.when_sameMem | apply State.takeEngine_sameMem
    | apply State.settle_sameMem | extract_lets | split | (intro _) | exact rfl | apply SameMem.fields)

theorem State.askPreempt_sameMem {σ : State} {s : State} (c e : Nat) (hs : SameMem σ s) : SameMem σ (State.askPreempt s c e) := by
  unfold State.askPreempt
  repeat' (with_reducible
    first
    | assumption | apply State.when_sameMem | apply State.setEngine_sameMem | apply State.bump_sameMem | (intro _) | exact rfl
    | apply SameMem.fields)

theorem execDeficitUpdate_sameMem {σ : State} {s : State} (c : Nat) (hs : SameMem σ s) : SameMemNext σ (execDeficitUpdate c s) := by
  unfold execDeficitUpdate
  repeat' (with_reducible
    first
    | assumption | apply State.when_sameMem | apply State.passToNow_sameMem | apply State.accrue_sameMem | apply State.roundD_sameMem
    | apply State.updJsc_sameMem | apply State.each_sameMem | apply State.askPreempt_sameMem | apply SameMemNext.next | extract_lets
    | (intro _) | exact rfl | apply SameMem.fields)

theorem execTokenAssign_sameMem {σ : State} {s : State} (rq : Requester) (c : Nat) (v : Word) (hs : SameMem σ s) :
    SameMemNext σ (execTokenAssign rq c v s) := by
  unfold execTokenAssign
  repeat' (with_reducible
    first
    | assumption | apply State.onWrite_sameMem | apply State.accrue_sameMem | apply State.store_sameMem | apply State.wr_sameMem
    | apply State.settle_sameMem | apply SameMemNext.next | extract_lets | (intro _) | exact rfl | apply SameMem.fields)

theorem State.ctxStore_sameMem {σ : State} {s : State} (c j off : Nat) (v : Word) (hs : SameMem σ s) :
    SameMem σ (State.ctxStore s c j off v) := by
  unfold State.ctxStore
  repeat' (with_reducible
    first
    | assumption | apply State.storeActive_sameMem | (intro _) | exact rfl | apply SameMem.fields)

theorem State.evqRestart_sameMem {σ : State} {s : State} (old : State) (c j : Nat) (hs : SameMem σ s) :
    SameMem σ (State.evqRestart s old c j) := by
  unfold State.evqRestart
  repeat' (with_reducible
    first
    | assumption | apply State.wr_sameMem | split | (intro _) | exact rfl | apply SameMem.fields)

theorem State.jobEnable_sameMem {σ : State} {s : State} (c j : Nat) (v : Word) (hs : SameMem σ s) :
    SameMem σ (State.jobEnable s c j v) := by
  unfold State.jobEnable
  repeat' (with_reducible
    first
    | assumption | apply State.logIgnored_sameMem | apply State.ctxStore_sameMem | apply State.wrAt_sameMem | extract_lets | split
    | (intro _) | exact rfl | apply SameMem.fields)

theorem State.jobDisable_sameMem {σ : State} {s : State} (c j : Nat) (v : Word) (hs : SameMem σ s) :
    SameMem σ (State.jobDisable s c j v) := by
  unfold State.jobDisable
  repeat' (with_reducible
    first
    | assumption | apply State.logIgnored_sameMem | apply State.wrAt_sameMem | apply State.ctxStore_sameMem | split | (intro _)
    | exact rfl | apply SameMem.fields)

theorem State.ctxWrite_sameMem {σ : State} {s : State} (c j off : Nat) (v : Word) (hs : SameMem σ s) :
    SameMem σ (State.ctxWrite s c j off v) := by
  unfold State.ctxWrite
  repeat' (with_reducible
    first
    | assumption | apply State.jobEnable_sameMem | apply State.jobDisable_sameMem | apply State.logIgnored_sameMem
    | apply State.ctxStore_sameMem | apply State.evqRestart_sameMem | split | (intro _) | exact rfl | apply SameMem.fields)

theorem execJobContextWrite_sameMem {σ : State} {s : State} (rq : Requester) (c off : Nat) (v : Word) (hs : SameMem σ s) :
    SameMemNext σ (execJobContextWrite rq c off v s) := by
  unfold execJobContextWrite
  repeat' (with_reducible
    first
    | assumption | apply State.withWrite_sameMem | apply State.accrue_sameMem | apply State.ctxWrite_sameMem
    | apply State.settle_sameMem | apply SameMemNext.next | split | (intro _) | exact rfl | apply SameMem.fields)

theorem State.clearJob_sameMem {σ : State} {s : State} (c j : Nat) (hs : SameMem σ s) : SameMem σ (State.clearJob s c j) := by
  unfold State.clearJob
  repeat' (with_reducible
    first
    | assumption | apply State.logIgnored_sameMem | apply State.wrAt_sameMem | apply State.updJsc_sameMem | apply foldl_sameMem
    | apply foldl_fst_sameMem | split | (intro _) | exact rfl | apply SameMem.fields)

theorem State.updAtu_sameMem {σ : State} {s : State} (c : Nat) (f : AtuCh → AtuCh) (hs : SameMem σ s) :
    SameMem σ (State.updAtu s c f) := by
  unfold State.updAtu
  repeat' (with_reducible
    first
    | assumption | apply State.updCh_sameMem | (intro _) | exact rfl | apply SameMem.fields)

theorem State.respIgnored_sameMem {σ : State} {s : State} (c : Nat) (hs : SameMem σ s) : SameMem σ (State.respIgnored s c) := by
  unfold State.respIgnored
  repeat' (with_reducible
    first
    | assumption | apply State.bump_sameMem | (intro _) | exact rfl | apply SameMem.fields)

theorem State.faultFail_sameMem {σ : State} {s : State} (c id : Nat) (hs : SameMem σ s) : SameMem σ (State.faultFail s c id) := by
  unfold State.faultFail
  repeat' (with_reducible
    first
    | assumption | apply State.respIgnored_sameMem | apply State.tearDown_sameMem | split | (intro _)
    | (apply SameMem.fst_of; assumption) | (apply SameMem.snd_of; assumption) | (apply SameMem.some_of; assumption) | exact rfl
    | apply SameMem.fields)

theorem execFaultFail_sameMem {σ : State} {s : State} (rq : Requester) (c id : Nat) (hs : SameMem σ s) :
    SameMemNext σ (execFaultFail rq c id s) := by
  unfold execFaultFail
  repeat' (with_reducible
    first
    | assumption | apply State.onWrite_sameMem | apply State.faultFail_sameMem | apply SameMemNext.next | (intro _) | exact rfl
    | apply SameMem.fields)

theorem execFaultTimeout_sameMem {σ : State} {s : State} (c id : Nat) (hs : SameMem σ s) :
    SameMemNext σ (execFaultTimeout c id s) := by
  unfold execFaultTimeout
  repeat' (with_reducible
    first
    | assumption | apply State.when_sameMem | apply State.passToNow_sameMem | apply State.tearDown_sameMem | apply SameMemNext.next
    | split | (intro _) | (apply SameMem.fst_of; assumption) | (apply SameMem.snd_of; assumption)
    | (apply SameMem.some_of; assumption) | exact rfl | apply SameMem.fields)

theorem State.startInv_sameMem {σ : State} {s : State} (c : Nat) (v : Word) (hs : SameMem σ s) :
    SameMem σ (State.startInv s c v) := by
  unfold State.startInv
  repeat' (with_reducible
    first
    | assumption | apply State.updAtu_sameMem | extract_lets | split | (intro _) | (apply SameMem.fst_of; assumption)
    | (apply SameMem.snd_of; assumption) | (apply SameMem.some_of; assumption) | exact rfl | apply SameMem.fields)

theorem execTlbInvalidate_sameMem {σ : State} {s : State} (rq : Requester) (c : Nat) (v : Word) (hs : SameMem σ s) :
    SameMemNext σ (execTlbInvalidate rq c v s) := by
  unfold execTlbInvalidate
  repeat' (with_reducible
    first
    | assumption | apply State.onWrite_sameMem | apply State.when_sameMem | apply State.startInv_sameMem | apply SameMemNext.next
    | (intro _) | exact rfl | apply SameMem.fields)

theorem execInvalidateDone_sameMem {σ : State} {s : State} (c : Nat) (hs : SameMem σ s) : SameMemNext σ (execInvalidateDone c s) := by
  unfold execInvalidateDone
  repeat' (with_reducible
    first
    | assumption | apply State.updAtu_sameMem | apply SameMemNext.next | split | (intro _) | (apply SameMem.fst_of; assumption)
    | (apply SameMem.snd_of; assumption) | (apply SameMem.some_of; assumption) | exact rfl | apply SameMem.fields)

theorem State.updTrc_sameMem {σ : State} {s : State} (c : Nat) (f : TrcCh → TrcCh) (hs : SameMem σ s) :
    SameMem σ (State.updTrc s c f) := by
  unfold State.updTrc
  repeat' (with_reducible
    first
    | assumption | apply State.updCh_sameMem | (intro _) | exact rfl | apply SameMem.fields)

theorem State.setShaper_sameMem {σ : State} {s : State} (c k : Nat) (x : Shaper) (hs : SameMem σ s) :
    SameMem σ (State.setShaper s c k x) := by
  unfold State.setShaper
  repeat' (with_reducible
    first
    | assumption | apply State.updTrc_sameMem | (intro _) | exact rfl | apply SameMem.fields)

theorem State.shpFill_sameMem {σ : State} {s : State} (c k : Nat) (hs : SameMem σ s) : SameMem σ (State.shpFill s c k) := by
  unfold State.shpFill
  repeat' (with_reducible
    first
    | assumption | apply State.setShaper_sameMem | extract_lets | (intro _) | exact rfl | apply SameMem.fields)

theorem State.setQueue_sameMem {σ : State} {s : State} (c q : Nat) (x : EQueue) (hs : SameMem σ s) :
    SameMem σ (State.setQueue s c q x) := by
  unfold State.setQueue
  repeat' (with_reducible
    first
    | assumption | apply State.updTrc_sameMem | (intro _) | exact rfl | apply SameMem.fields)

theorem State.enqueue_sameMem {σ : State} {s : State} (c q : Nat) (p : EPkt) (hs : SameMem σ s) :
    SameMem σ (State.enqueue s c q p) := by
  unfold State.enqueue
  repeat' (with_reducible
    first
    | assumption | apply State.setQueue_sameMem | extract_lets | (intro _) | exact rfl | apply SameMem.fields)

theorem State.releaseHead_sameMem {σ : State} {s : State} (c k : Nat) (p : EPkt) (cost : Nat) (hs : SameMem σ s) :
    SameMem σ (State.releaseHead s c k p cost) := by
  unfold State.releaseHead
  repeat' (with_reducible
    first
    | assumption | apply State.setShaper_sameMem | apply State.enqueue_sameMem | extract_lets | (intro _) | exact rfl
    | apply SameMem.fields)

theorem State.evalShaper_sameMem {σ : State} {s : State} (c k : Nat) (x0 : Nat) (hs : SameMem σ s) :
    SameMem σ (State.evalShaper s c k x0) := by
  induction x0 generalizing s c k with
  | zero =>
    unfold State.evalShaper
    repeat' (with_reducible
      first
      | assumption | apply State.bump_sameMem | apply State.releaseHead_sameMem | apply State.setShaper_sameMem
      | apply State.shpFill_sameMem | apply State.when_sameMem | extract_lets | split | (intro _) | (apply SameMem.fst_of; assumption)
      | exact rfl | apply SameMem.fields)
  | succ n ih =>
    unfold State.evalShaper
    repeat' (with_reducible
      first
      | assumption | apply ih | apply State.bump_sameMem | apply State.releaseHead_sameMem | apply State.setShaper_sameMem
      | apply State.shpFill_sameMem | apply State.when_sameMem | extract_lets | split | (intro _) | (apply SameMem.fst_of; assumption)
      | exact rfl | apply SameMem.fields)

theorem State.evalShp_sameMem {σ : State} {s : State} (c k : Nat) (hs : SameMem σ s) : SameMem σ (State.evalShp s c k) := by
  unfold State.evalShp
  repeat' (with_reducible
    first
    | assumption | apply State.evalShaper_sameMem | (intro _) | exact rfl | apply SameMem.fields)

theorem State.reshape_sameMem {σ : State} {s : State} (c k : Nat) (f : State → State) (hf : ∀
    (a0 : State), SameMem σ a0 → SameMem σ (f a0)) (hs : SameMem σ s) :
    SameMem σ (State.reshape s c k f) := by
  unfold State.reshape
  repeat' (with_reducible
    first
    | assumption | apply hf | apply State.shpFill_sameMem | apply State.evalShp_sameMem | (intro _) | exact rfl
    | apply SameMem.fields)

theorem execWheelSlotDue_sameMem {σ : State} {s : State} (c : Nat) (hs : SameMem σ s) : SameMemNext σ (execWheelSlotDue c s) := by
  unfold execWheelSlotDue
  repeat' (with_reducible
    first
    | assumption | apply State.passToNow_sameMem | apply State.each_sameMem | apply State.evalShp_sameMem | apply SameMemNext.next
    | extract_lets | split | (intro _) | (apply SameMem.fst_of; assumption) | (apply SameMem.snd_of; assumption)
    | (apply SameMem.some_of; assumption) | exact rfl | apply SameMem.fields)

theorem State.toFine_sameMem {σ : State} {s : State} (c k : Nat) (hs : SameMem σ s) : SameMem σ (State.toFine s c k) := by
  unfold State.toFine
  repeat' (with_reducible
    first
    | assumption | apply State.setShaper_sameMem | apply State.evalShp_sameMem | extract_lets | split | (intro _)
    | (apply SameMem.fst_of; assumption) | (apply SameMem.snd_of; assumption) | (apply SameMem.some_of; assumption) | exact rfl
    | apply SameMem.fields)

theorem execCoarseSlotDue_sameMem {σ : State} {s : State} (c : Nat) (hs : SameMem σ s) : SameMemNext σ (execCoarseSlotDue c s) := by
  unfold execCoarseSlotDue
  repeat' (with_reducible
    first
    | assumption | apply State.passToNow_sameMem | apply State.each_sameMem | apply State.toFine_sameMem | apply SameMemNext.next
    | extract_lets | split | (intro _) | (apply SameMem.fst_of; assumption) | (apply SameMem.snd_of; assumption)
    | (apply SameMem.some_of; assumption) | exact rfl | apply SameMem.fields)

theorem execShaperRateWrite_sameMem {σ : State} {s : State} (rq : Requester) (c : Nat) (v : Word) (hs : SameMem σ s) :
    SameMemNext σ (execShaperRateWrite rq c v s) := by
  unfold execShaperRateWrite
  repeat' (with_reducible
    first
    | assumption | apply State.onWrite_sameMem | apply State.reshape_sameMem | apply State.store_sameMem | apply SameMemNext.next
    | (intro _) | exact rfl | apply SameMem.fields)

theorem execShaperConfigWrite_sameMem {σ : State} {s : State} (rq : Requester) (c : Nat) (burst : Bool) (v : Word)
    (hs : SameMem σ s) :
    SameMemNext σ (execShaperConfigWrite rq c burst v s) := by
  unfold execShaperConfigWrite
  repeat' (with_reducible
    first
    | assumption | apply State.onWrite_sameMem | apply State.reshape_sameMem | apply State.store_sameMem | apply SameMemNext.next
    | extract_lets | split | (intro _) | exact rfl | apply SameMem.fields)

theorem State.polChange_sameMem {σ : State} {s : State} (c : Nat) (r : RegId) (v : Word) (hs : SameMem σ s) :
    SameMem σ (State.polChange s c r v) := by
  unfold State.polChange
  repeat' (with_reducible
    first
    | assumption | apply State.store_sameMem | apply State.updTrc_sameMem | extract_lets | (intro _) | exact rfl
    | apply SameMem.fields)

theorem execPolicerConfigWrite_sameMem {σ : State} {s : State} (rq : Requester) (c off : Nat) (v : Word) (hs : SameMem σ s) :
    SameMemNext σ (execPolicerConfigWrite rq c off v s) := by
  unfold execPolicerConfigWrite
  repeat' (with_reducible
    first
    | assumption | apply State.onWrite_sameMem | apply State.polChange_sameMem | apply SameMemNext.next | split | (intro _)
    | (apply SameMem.fst_of; assumption) | (apply SameMem.snd_of; assumption) | (apply SameMem.some_of; assumption) | exact rfl
    | apply SameMem.fields)

theorem State.updKwp_sameMem {σ : State} {s : State} (c : Nat) (f : KwpCh → KwpCh) (hs : SameMem σ s) :
    SameMem σ (State.updKwp s c f) := by
  unfold State.updKwp
  repeat' (with_reducible
    first
    | assumption | apply State.updCh_sameMem | (intro _) | exact rfl | apply SameMem.fields)

theorem State.updConn_sameMem {σ : State} {s : State} (c k : Nat) (f : KConn → KConn) (hs : SameMem σ s) :
    SameMem σ (State.updConn s c k f) := by
  unfold State.updConn
  repeat' (with_reducible
    first
    | assumption | apply State.updKwp_sameMem | (intro _) | exact rfl | apply SameMem.fields)

theorem State.updSlp_sameMem {σ : State} {s : State} (c : Nat) (f : SlpCh → SlpCh) (hs : SameMem σ s) :
    SameMem σ (State.updSlp s c f) := by
  unfold State.updSlp
  repeat' (with_reducible
    first
    | assumption | apply State.updCh_sameMem | (intro _) | exact rfl | apply SameMem.fields)

theorem State.updLink_sameMem {σ : State} {s : State} (p : Nat) (f : SlpLink → SlpLink) (hs : SameMem σ s) :
    SameMem σ (State.updLink s p f) := by
  unfold State.updLink
  repeat' (with_reducible
    first
    | assumption | apply State.updSlp_sameMem | (intro _) | exact rfl | apply SameMem.fields)

theorem State.sendFlit_sameMem {σ : State} {s : State} (p : Nat) (f : List Byte) (hs : SameMem σ s) :
    SameMem σ (State.sendFlit s p f) := by
  unfold State.sendFlit
  repeat' (with_reducible
    first
    | assumption | apply State.emit_sameMem | (intro _) | exact rfl | apply SameMem.fields)

theorem State.pumpFlits_sameMem {σ : State} {s : State} (p : Nat) (x0 : Nat) (hs : SameMem σ s) :
    SameMem σ (State.pumpFlits s p x0) := by
  induction x0 generalizing s p with
  | zero =>
    unfold State.pumpFlits
    repeat' (with_reducible
      first
      | assumption | apply State.bump_sameMem | apply State.sendFlit_sameMem | apply State.updLink_sameMem | extract_lets | split
      | (intro _) | exact rfl | apply SameMem.fields)
  | succ n ih =>
    unfold State.pumpFlits
    repeat' (with_reducible
      first
      | assumption | apply ih | apply State.bump_sameMem | apply State.sendFlit_sameMem | apply State.updLink_sameMem | extract_lets
      | split | (intro _) | exact rfl | apply SameMem.fields)

theorem State.pumpLink_sameMem {σ : State} {s : State} (p : Nat) (hs : SameMem σ s) : SameMem σ (State.pumpLink s p) := by
  unfold State.pumpLink
  repeat' (with_reducible
    first
    | assumption | apply State.updLink_sameMem | apply State.pumpFlits_sameMem | extract_lets | split | (intro _)
    | (apply SameMem.fst_of; assumption) | (apply SameMem.snd_of; assumption) | (apply SameMem.some_of; assumption) | exact rfl
    | apply SameMem.fields)

theorem State.toInbox_sameMem {σ : State} {s : State} (p : Nat) (m : SMsg) (hs : SameMem σ s) : SameMem σ (State.toInbox s p m) := by
  unfold State.toInbox
  repeat' (with_reducible
    first
    | assumption | apply State.updSlp_sameMem | (intro _) | exact rfl | apply SameMem.fields)

theorem State.sendBy_sameMem {σ : State} {s : State} (c p : Nat) (m : SMsg) (hs : SameMem σ s) :
    SameMem σ (State.sendBy s c p m) := by
  unfold State.sendBy
  repeat' (with_reducible
    first
    | assumption | apply State.toInbox_sameMem | apply State.bump_sameMem | apply State.updLink_sameMem | apply State.when_sameMem
    | apply State.pumpLink_sameMem | split | (intro _) | (apply SameMem.fst_of; assumption) | (apply SameMem.snd_of; assumption)
    | (apply SameMem.some_of; assumption) | exact rfl | apply SameMem.fields)

theorem State.sendMsg_sameMem {σ : State} {s : State} (c : Nat) (m : SMsg) (hs : SameMem σ s) : SameMem σ (State.sendMsg s c m) := by
  unfold State.sendMsg
  repeat' (with_reducible
    first
    | assumption | apply State.sendBy_sameMem | split | (intro _) | (apply SameMem.fst_of; assumption)
    | (apply SameMem.snd_of; assumption) | (apply SameMem.some_of; assumption) | exact rfl | apply SameMem.fields)

theorem State.takeTag_sameMem {σ : State} {s : State} (c : Nat) (t : STag) (hs : SameMem σ s) :
    SameMem σ (State.takeTag s c t).1 := by
  unfold State.takeTag
  repeat' (with_reducible
    first
    | assumption | apply State.updSlp_sameMem | extract_lets | split | (intro _) | exact rfl | apply SameMem.fields)

theorem State.sendUnder_sameMem {σ : State} {s : State} (c k p : Nat) (m : SMsg) (hs : SameMem σ s) :
    SameMem σ (State.sendUnder s c k p m) := by
  unfold State.sendUnder
  repeat' (with_reducible
    first
    | assumption | apply State.sendBy_sameMem | apply State.updSlp_sameMem | split | (intro _) | exact rfl | apply SameMem.fields)

theorem State.sendTagged_sameMem {σ : State} {s : State} (c p : Nat) (m : SMsg) (use : TagUse) (job len : Nat) (hs : SameMem σ s) :
    SameMem σ (State.sendTagged s c p m use job len) := by
  unfold State.sendTagged
  repeat' (with_reducible
    first
    | assumption | apply State.takeTag_sameMem | apply State.sendUnder_sameMem | extract_lets | split | (intro _)
    | (apply SameMem.fst_of; assumption) | (apply SameMem.snd_of; assumption) | (apply SameMem.some_of; assumption) | exact rfl
    | apply SameMem.fields)

theorem State.sendRequest_sameMem {σ : State} {s : State} (c : Nat) (m : SMsg) (use : TagUse) (job len : Nat) (hs : SameMem σ s) :
    SameMem σ (State.sendRequest s c m use job len).1 := by
  unfold State.sendRequest
  repeat' (with_reducible
    first
    | assumption | apply State.sendTagged_sameMem | split | (intro _) | (apply SameMem.fst_of; assumption)
    | (apply SameMem.snd_of; assumption) | (apply SameMem.some_of; assumption) | exact rfl | apply SameMem.fields)

theorem State.issue_sameMem {σ : State} {s : State} (c job a n : Nat) (m : SMsg) (use : TagUse) (hs : SameMem σ s) :
    SameMem σ (State.issue s c job a n m use).1 := by
  unfold State.issue
  repeat' (with_reducible
    first
    | assumption | apply State.sendRequest_sameMem | split | (intro _) | (apply SameMem.fst_of; assumption)
    | (apply SameMem.snd_of; assumption) | (apply SameMem.some_of; assumption) | exact rfl | apply SameMem.fields)

theorem State.dmvPiece_sameMem {σ : State} {s : State} (c j : Nat) (f : DmvRun → DmvRun) (hs : SameMem σ s) :
    SameMem σ (State.dmvPiece s c j f) := by
  unfold State.dmvPiece
  repeat' (with_reducible
    first
    | assumption | apply State.updCh_sameMem | (intro _) | exact rfl | apply SameMem.fields)

theorem State.updAtn_sameMem {σ : State} {s : State} (c : Nat) (f : AtnCh → AtnCh) (hs : SameMem σ s) :
    SameMem σ (State.updAtn s c f) := by
  unfold State.updAtn
  repeat' (with_reducible
    first
    | assumption | apply State.updCh_sameMem | (intro _) | exact rfl | apply SameMem.fields)

theorem State.setDmvRun_sameMem {σ : State} {s : State} (c j : Nat) (r : Option DmvRun) (hs : SameMem σ s) :
    SameMem σ (State.setDmvRun s c j r) := by
  unfold State.setDmvRun
  repeat' (with_reducible
    first
    | assumption | apply State.updCh_sameMem | (intro _) | exact rfl | apply SameMem.fields)

theorem State.dmvSent_sameMem {σ : State} {x : State × Sent} (c j a : Nat) (hs : SameMem σ x.1) :
    SameMem σ (State.dmvSent x c j a) := by
  unfold State.dmvSent
  repeat' (with_reducible
    first
    | assumption | apply State.dmvPiece_sameMem | split | (intro _) | (apply SameMem.fst_of; assumption) | exact rfl
    | apply SameMem.fields)

theorem State.dmvArm_sameMem {σ : State} {s : State} (c : Nat) (hs : SameMem σ s) : SameMem σ (State.dmvArm s c) := by
  unfold State.dmvArm
  repeat' (with_reducible
    first
    | assumption | apply State.setDmvRun_sameMem | apply State.each_sameMem | apply State.dmvSent_sameMem | apply State.issue_sameMem
    | extract_lets | split | (intro _) | (apply SameMem.fst_of; assumption) | (apply SameMem.snd_of; assumption)
    | (apply SameMem.some_of; assumption) | exact rfl | apply SameMem.fields)

theorem execCopy_sameMem {σ : State} {s : State} (c : Nat) (cmd : Cmd) (hs : SameMem σ s) : SameMemNext σ (execCopy c cmd s) := by
  unfold execCopy
  repeat' (with_reducible
    first
    | assumption | apply State.occupy_sameMem | apply State.when_sameMem | apply State.dmvArm_sameMem | apply SameMemNext.next
    | (intro _) | exact rfl | apply SameMem.fields)

theorem execConvert_sameMem {σ : State} {s : State} (c : Nat) (cmd : Cmd) (hs : SameMem σ s) :
    SameMemNext σ (execConvert c cmd s) := by
  unfold execConvert
  repeat' (with_reducible
    first
    | assumption | apply State.occupy_sameMem | apply State.when_sameMem | apply State.dmvArm_sameMem | apply SameMemNext.next
    | (intro _) | exact rfl | apply SameMem.fields)

theorem State.updCcx_sameMem {σ : State} {s : State} (c : Nat) (f : CcxCh → CcxCh) (hs : SameMem σ s) :
    SameMem σ (State.updCcx s c f) := by
  unfold State.updCcx
  repeat' (with_reducible
    first
    | assumption | apply State.updCh_sameMem | (intro _) | exact rfl | apply SameMem.fields)

theorem State.setLine_sameMem {σ : State} {s : State} (a g : Nat) (l : CLine) (hs : SameMem σ s) :
    SameMem σ (State.setLine s a g l) := by
  unfold State.setLine
  repeat' (with_reducible
    first
    | assumption | apply State.updCcx_sameMem | (intro _) | exact rfl | apply SameMem.fields)

theorem State.lineResend_sameMem {σ : State} {s : State} (a g : Nat) (hs : SameMem σ s) : SameMem σ (State.lineResend s a g) := by
  unfold State.lineResend
  repeat' (with_reducible
    first
    | assumption | apply State.setLine_sameMem | apply State.sendMsg_sameMem | extract_lets | (intro _) | exact rfl
    | apply SameMem.fields)

theorem State.setHgran_sameMem {σ : State} {s : State} (c g : Nat) (h : HGran) (hs : SameMem σ s) :
    SameMem σ (State.setHgran s c g h) := by
  unfold State.setHgran
  repeat' (with_reducible
    first
    | assumption | apply State.updCcx_sameMem | (intro _) | exact rfl | apply SameMem.fields)

theorem State.homeResend_sameMem {σ : State} {s : State} (c g : Nat) (hs : SameMem σ s) : SameMem σ (State.homeResend s c g) := by
  unfold State.homeResend
  repeat' (with_reducible
    first
    | assumption | apply State.setHgran_sameMem | apply State.sendMsg_sameMem | apply State.bump_sameMem | extract_lets | (intro _)
    | exact rfl | apply SameMem.fields)

theorem State.snapEntry_sameMem {σ : State} {s : State} (c : Nat) (hs : SameMem σ s) : SameMem σ (State.snapEntry s c) := by
  unfold State.snapEntry
  repeat' (with_reducible
    first
    | assumption | apply State.wrAt_sameMem | apply foldl_sameMem | apply foldl_fst_sameMem | extract_lets | (intro _) | exact rfl
    | apply SameMem.fields)

theorem execRqtEntryRead_sameMem {σ : State} {s : State} (rq : Requester) (c : Nat) (hs : SameMem σ s) :
    SameMemNext σ (execRqtEntryRead rq c s) := by
  unfold execRqtEntryRead
  repeat' (with_reducible
    first
    | assumption | apply State.sideRead_sameMem | apply State.snapEntry_sameMem | apply SameMemNext.next | extract_lets | (intro _)
    | exact rfl | apply SameMem.fields)

theorem State.setMbx_sameMem {σ : State} {s : State} (f : Mbx → Mbx) (hs : SameMem σ s) : SameMem σ (State.setMbx s f) := by
  unfold State.setMbx
  repeat' (with_reducible
    first
    | assumption | (intro _) | exact rfl | apply SameMem.fields)

theorem State.updBox_sameMem {σ : State} {s : State} (n : Nat) (f : Mailbox → Mailbox) (hs : SameMem σ s) :
    SameMem σ (State.updBox s n f) := by
  unfold State.updBox
  repeat' (with_reducible
    first
    | assumption | apply State.setMbx_sameMem | (intro _) | exact rfl | apply SameMem.fields)

theorem State.wakeCore_sameMem {σ : State} {s : State} (k : Nat) (hs : SameMem σ s) : SameMem σ (State.wakeCore s k) := by
  unfold State.wakeCore
  repeat' (with_reducible
    first
    | assumption | apply State.emit_sameMem | apply State.bump_sameMem | apply State.wake_sameMem | extract_lets | split | (intro _)
    | (apply SameMem.fst_of; assumption) | (apply SameMem.snd_of; assumption) | (apply SameMem.some_of; assumption) | exact rfl
    | apply SameMem.fields)

theorem State.setRoute_sameMem {σ : State} {s : State} (n k : Nat) (hs : SameMem σ s) : SameMem σ (State.setRoute s n k) := by
  unfold State.setRoute
  repeat' (with_reducible
    first
    | assumption | apply State.wr_sameMem | apply State.when_sameMem | apply State.wakeCore_sameMem | (intro _) | exact rfl
    | apply SameMem.fields)

theorem execMbxRouteWrite_sameMem {σ : State} {s : State} (rq : Requester) (v : Word) (hs : SameMem σ s) :
    SameMemNext σ (execMbxRouteWrite rq v s) := by
  unfold execMbxRouteWrite
  repeat' (with_reducible
    first
    | assumption | apply State.onWrite_sameMem | apply State.setRoute_sameMem | apply State.logIgnored_sameMem | apply SameMemNext.next
    | extract_lets | split | (intro _) | exact rfl | apply SameMem.fields)

theorem State.latchBox_sameMem {σ : State} {s : State} (n : Nat) (hs : SameMem σ s) : SameMem σ (State.latchBox s n) := by
  unfold State.latchBox
  repeat' (with_reducible
    first
    | assumption | apply State.setMbx_sameMem | apply State.wr_sameMem | apply State.wr64_sameMem | apply State.each_sameMem
    | apply State.wrAt_sameMem | extract_lets | split | (intro _) | exact rfl | apply SameMem.fields)

theorem execMbxRxSeqRead_sameMem {σ : State} {s : State} (rq : Requester) (hs : SameMem σ s) :
    SameMemNext σ (execMbxRxSeqRead rq s) := by
  unfold execMbxRxSeqRead
  repeat' (with_reducible
    first
    | assumption | apply State.ioUr_sameMem | apply State.when_sameMem | apply State.latchBox_sameMem | apply State.emit_sameMem
    | apply SameMemNext.next | extract_lets | split | (intro _) | exact rfl | apply SameMem.fields)

theorem State.emptyBox_sameMem {σ : State} {s : State} (n : Nat) (hs : SameMem σ s) : SameMem σ (State.emptyBox s n) := by
  unfold State.emptyBox
  repeat' (with_reducible
    first
    | assumption | apply State.updBox_sameMem | apply State.setMbx_sameMem | (intro _) | exact rfl | apply SameMem.fields)

theorem execClrCollision_sameMem {σ : State} {s : State} (rq : Requester) (hs : SameMem σ s) :
    SameMemNext σ (execClrCollision rq s) := by
  unfold execClrCollision
  repeat' (with_reducible
    first
    | assumption | apply State.onWrite_sameMem | apply State.when_sameMem | apply State.updBox_sameMem | apply SameMemNext.next
    | extract_lets | (intro _) | exact rfl | apply SameMem.fields)

theorem State.clearBox_sameMem {σ : State} {s : State} (j : Nat) (hs : SameMem σ s) : SameMem σ (State.clearBox s j) := by
  unfold State.clearBox
  repeat' (with_reducible
    first
    | assumption | apply State.when_sameMem | apply State.emptyBox_sameMem | apply State.updBox_sameMem | (intro _) | exact rfl
    | apply SameMem.fields)

theorem State.setLock_sameMem {σ : State} {s : State} (p : Page) (hs : SameMem σ s) : SameMem σ (State.setLock s p) := by
  unfold State.setLock
  repeat' (with_reducible
    first
    | assumption | apply State.wrAt_sameMem | (intro _) | exact rfl | apply SameMem.fields)

theorem execLock_sameMem {σ : State} {s : State} (rq : Requester) (p : Page) (hs : SameMem σ s) :
    SameMemNext σ (execLock rq p s) := by
  unfold execLock
  repeat' (with_reducible
    first
    | assumption | apply State.withWrite_sameMem | apply State.setLock_sameMem | apply SameMemNext.next | (intro _) | exact rfl
    | apply SameMem.fields)

theorem State.setEnable_sameMem {σ : State} {s : State} (p : Page) (on : Bool) (hs : SameMem σ s) :
    SameMem σ (State.setEnable s p on) := by
  unfold State.setEnable
  repeat' (with_reducible
    first
    | assumption | apply State.wrAt_sameMem | apply State.updBlk_sameMem | apply State.logIgnored_sameMem | extract_lets | split
    | (intro _) | (apply SameMem.fst_of; assumption) | (apply SameMem.snd_of; assumption) | (apply SameMem.some_of; assumption)
    | exact rfl | apply SameMem.fields)

theorem execBlockEnable_sameMem {σ : State} {s : State} (rq : Requester) (p : Page) (on : Bool) (hs : SameMem σ s) :
    SameMemNext σ (execBlockEnable rq p on s) := by
  unfold execBlockEnable
  repeat' (with_reducible
    first
    | assumption | apply State.withWrite_sameMem | apply State.setEnable_sameMem | apply SameMemNext.next | split | (intro _)
    | exact rfl | apply SameMem.fields)

theorem State.syncSolrov_sameMem {σ : State} {s : State} (c : Nat) (hs : SameMem σ s) : SameMem σ (State.syncSolrov s c) := by
  unfold State.syncSolrov
  repeat' (with_reducible
    first
    | assumption | apply State.updCh_sameMem | extract_lets | split | (intro _) | exact rfl | apply SameMem.fields)

theorem State.clearErrLog_sameMem {σ : State} {s : State} (p : Page) (v : Word) (errorNow : Bool) (hs : SameMem σ s) :
    SameMem σ (State.clearErrLog s p v errorNow) := by
  unfold State.clearErrLog
  repeat' (with_reducible
    first
    | assumption | apply State.wrAt_sameMem | split | (intro _) | exact rfl | apply SameMem.fields)

theorem execErrLogClear_sameMem {σ : State} {s : State} (rq : Requester) (p : Page) (v : Word) (errorNow : Bool)
    (hs : SameMem σ s) :
    SameMemNext σ (execErrLogClear rq p v errorNow s) := by
  unfold execErrLogClear
  repeat' (with_reducible
    first
    | assumption | apply State.withWrite_sameMem | apply State.clearErrLog_sameMem | apply SameMemNext.next | (intro _) | exact rfl
    | apply SameMem.fields)

theorem State.setSpr_sameMem {σ : State} {s : State} (f : Spr → Spr) (hs : SameMem σ s) : SameMem σ (State.setSpr s f) := by
  unfold State.setSpr
  repeat' (with_reducible
    first
    | assumption | (intro _) | exact rfl | apply SameMem.fields)

theorem execSpareCommit_sameMem {σ : State} {s : State} (rq : Requester) (id : Nat) (hs : SameMem σ s) :
    SameMemNext σ (execSpareCommit rq id s) := by
  unfold execSpareCommit
  repeat' (with_reducible
    first
    | assumption | apply State.onWrite_sameMem | apply State.when_sameMem | apply State.setSpr_sameMem | apply SameMemNext.next
    | (intro _) | exact rfl | apply SameMem.fields)

theorem execSpareDecline_sameMem {σ : State} {s : State} (rq : Requester) (id : Nat) (hs : SameMem σ s) :
    SameMemNext σ (execSpareDecline rq id s) := by
  unfold execSpareDecline
  repeat' (with_reducible
    first
    | assumption | apply State.onWrite_sameMem | apply State.setSpr_sameMem | apply SameMemNext.next | (intro _) | exact rfl
    | apply SameMem.fields)

theorem State.updCore_sameMem {σ : State} {s : State} (k : Nat) (f : CoreSt → CoreSt) (hs : SameMem σ s) :
    SameMem σ (State.updCore s k f) := by
  unfold State.updCore
  repeat' (with_reducible
    first
    | assumption | (intro _) | exact rfl | apply SameMem.fields)

theorem State.updVse_sameMem {σ : State} {s : State} (c : Nat) (f : VseCh → VseCh) (hs : SameMem σ s) :
    SameMem σ (State.updVse s c f) := by
  unfold State.updVse
  repeat' (with_reducible
    first
    | assumption | apply State.updCh_sameMem | (intro _) | exact rfl | apply SameMem.fields)

theorem State.repairRegs_sameMem {σ : State} {s : State} (c : Nat) (hs : SameMem σ s) : SameMem σ (State.repairRegs s c) := by
  unfold State.repairRegs
  repeat' (with_reducible
    first
    | assumption | apply State.wr_sameMem | apply State.wr64_sameMem | extract_lets | (intro _) | exact rfl | apply SameMem.fields)

theorem execVseRepairPop_sameMem {σ : State} {s : State} (rq : Requester) (c : Nat) (v : Word) (hs : SameMem σ s) :
    SameMemNext σ (execVseRepairPop rq c v s) := by
  unfold execVseRepairPop
  repeat' (with_reducible
    first
    | assumption | apply State.onWrite_sameMem | apply State.when_sameMem | apply State.updVse_sameMem | apply State.repairRegs_sameMem
    | apply SameMemNext.next | (intro _) | exact rfl | apply SameMem.fields)

theorem execCohBackoffEnd_sameMem {σ : State} {s : State} (c : Nat) (hs : SameMem σ s) : SameMemNext σ (execCohBackoffEnd c s) := by
  unfold execCohBackoffEnd
  repeat' (with_reducible
    first
    | assumption | apply State.passToNow_sameMem | apply State.each_sameMem | apply State.lineResend_sameMem
    | apply State.homeResend_sameMem | apply foldl_sameMem | apply foldl_fst_sameMem | apply SameMemNext.next | extract_lets | split
    | (intro _) | (apply SameMem.fst_of; assumption) | (apply SameMem.snd_of; assumption) | (apply SameMem.some_of; assumption)
    | exact rfl | apply SameMem.fields)

theorem State.eachCcx_sameMem {σ : State} {s : State} (f : CcxCh → CcxCh) (hs : SameMem σ s) : SameMem σ (State.eachCcx s f) := by
  unfold State.eachCcx
  repeat' (with_reducible
    first
    | assumption | apply State.each_sameMem | apply State.updCcx_sameMem | (intro _) | exact rfl | apply SameMem.fields)

theorem State.toMember_sameMem {σ : State} {s : State} (c m mtype addr : Nat) (hs : SameMem σ s) :
    SameMem σ (State.toMember s c m mtype addr) := by
  unfold State.toMember
  repeat' (with_reducible
    first
    | assumption | apply State.sendMsg_sameMem | (intro _) | exact rfl | apply SameMem.fields)

theorem execCcxJoin_sameMem {σ : State} {s : State} (rq : Requester) (c : Nat) (hs : SameMem σ s) :
    SameMemNext σ (execCcxJoin rq c s) := by
  unfold execCcxJoin
  repeat' (with_reducible
    first
    | assumption | apply State.onWrite_sameMem | apply State.eachCcx_sameMem | apply State.toMember_sameMem | apply SameMemNext.next
    | split | (intro _) | exact rfl | apply SameMem.fields)

theorem execCcxLeave_sameMem {σ : State} {s : State} (rq : Requester) (c : Nat) (hs : SameMem σ s) :
    SameMemNext σ (execCcxLeave rq c s) := by
  unfold execCcxLeave
  repeat' (with_reducible
    first
    | assumption | apply State.onWrite_sameMem | apply State.eachCcx_sameMem | apply State.wr_sameMem | apply State.updCcx_sameMem
    | apply State.emit_sameMem | apply SameMemNext.next | extract_lets | split | (intro _) | exact rfl | apply SameMem.fields)

theorem State.echoAll_sameMem {σ : State} {s : State} (c : Nat) (hs : SameMem σ s) : SameMem σ (State.echoAll s c) := by
  unfold State.echoAll
  repeat' (with_reducible
    first
    | assumption | apply State.bump_sameMem | apply State.each_sameMem | apply State.toMember_sameMem | extract_lets | (intro _)
    | exact rfl | apply SameMem.fields)

theorem execHbSend_sameMem {σ : State} {s : State} (c : Nat) (hs : SameMem σ s) : SameMemNext σ (execHbSend c s) := by
  unfold execHbSend
  repeat' (with_reducible
    first
    | assumption | apply State.passToNow_sameMem | apply State.bump_sameMem | apply State.toMember_sameMem | apply State.when_sameMem
    | apply State.echoAll_sameMem | apply State.updCcx_sameMem | apply SameMemNext.next | extract_lets | split | (intro _) | exact rfl
    | apply SameMem.fields)

theorem execSolrovModeEnter_sameMem {σ : State} {s : State} (rq : Requester) (c : Nat) (v : Word) (hs : SameMem σ s) :
    SameMemNext σ (execSolrovModeEnter rq c v s) := by
  unfold execSolrovModeEnter
  repeat' (with_reducible
    first
    | assumption | apply State.onWrite_sameMem | apply State.store_sameMem | apply State.syncSolrov_sameMem | apply SameMemNext.next
    | (intro _) | exact rfl | apply SameMem.fields)

theorem State.updPort_sameMem {σ : State} {s : State} (p : Nat) (f : CxhPort → CxhPort) (hs : SameMem σ s) :
    SameMem σ (State.updPort s p f) := by
  unfold State.updPort
  repeat' (with_reducible
    first
    | assumption | (intro _) | exact rfl | apply SameMem.fields)

theorem State.updLd_sameMem {σ : State} {s : State} (n : Nat) (f : LdSt → LdSt) (hs : SameMem σ s) :
    SameMem σ (State.updLd s n f) := by
  unfold State.updLd
  repeat' (with_reducible
    first
    | assumption | (intro _) | exact rfl | apply SameMem.fields)

theorem execLinkUp_sameMem {σ : State} {s : State} (port speed width : Nat) (hs : SameMem σ s) :
    SameMemNext σ (execLinkUp port speed width s) := by
  unfold execLinkUp
  repeat' (with_reducible
    first
    | assumption | apply State.updPort_sameMem | apply SameMemNext.next | split | (intro _) | exact rfl | apply SameMem.fields)

theorem execConfigurationRequest_sameMem {σ : State} {s : State} (ld : Nat) (msix : Option Bool) (hs : SameMem σ s) :
    SameMemNext σ (execConfigurationRequest ld msix s) := by
  unfold execConfigurationRequest
  repeat' (with_reducible
    first
    | assumption | apply State.emit_sameMem | apply State.updLd_sameMem | apply SameMemNext.next | split | (intro _)
    | (apply SameMem.fst_of; assumption) | (apply SameMem.snd_of; assumption) | (apply SameMem.some_of; assumption) | exact rfl
    | apply SameMem.fields)

theorem execEthernetFrame_sameMem {σ : State} {s : State} (c : Nat) (why : FrameFault) (hs : SameMem σ s) :
    SameMemNext σ (execEthernetFrame c why s) := by
  unfold execEthernetFrame
  repeat' (with_reducible
    first
    | assumption | apply State.when_sameMem | apply State.bump_sameMem | apply SameMemNext.next | (intro _) | exact rfl
    | apply SameMem.fields)

theorem State.clearBad_sameMem {σ : State} {s : State} (c k : Nat) (hs : SameMem σ s) : SameMem σ (State.clearBad s c k) := by
  unfold State.clearBad
  repeat' (with_reducible
    first
    | assumption | apply State.updKwp_sameMem | (intro _) | exact rfl | apply SameMem.fields)

theorem State.putRate_sameMem {σ : State} {s : State} (c k : Nat) (hs : SameMem σ s) : SameMem σ (State.putRate s c k) := by
  unfold State.putRate
  repeat' (with_reducible
    first
    | assumption | apply State.reshape_sameMem | apply State.wr_sameMem | extract_lets | (intro _) | exact rfl | apply SameMem.fields)

theorem State.connSet_sameMem {σ : State} {s : State} (c k : Nat) (keyWr : Bool) (hs : SameMem σ s) :
    SameMem σ (State.connSet s c k keyWr) := by
  unfold State.connSet
  repeat' (with_reducible
    first
    | assumption | apply State.logIgnored_sameMem | apply State.clearBad_sameMem | apply State.updConn_sameMem
    | apply State.putRate_sameMem | extract_lets | split | (intro _) | exact rfl | apply SameMem.fields)

theorem State.connSnap_sameMem {σ : State} {s : State} (c k : Nat) (hs : SameMem σ s) : SameMem σ (State.connSnap s c k) := by
  unfold State.connSnap
  repeat' (with_reducible
    first
    | assumption | apply State.each_sameMem | apply State.wrAt_sameMem | (intro _) | exact rfl | apply SameMem.fields)

theorem State.connCmd_sameMem {σ : State} {s : State} (rq : Requester) (c bit : Nat) (keyWr : Bool) (f : State → Nat → State)
    (hf : ∀ (a0 : State) (a1 : Nat), SameMem σ a0 → SameMem σ (f a0 a1)) (hs : SameMem σ s) :
    SameMem σ (State.connCmd s rq c bit keyWr f) := by
  unfold State.connCmd
  repeat' (with_reducible
    first
    | assumption | apply hf | apply State.onWrite_sameMem | split | (intro _) | exact rfl | apply SameMem.fields)

theorem execConnSet_sameMem {σ : State} {s : State} (rq : Requester) (c : Nat) (keyWr : Bool) (hs : SameMem σ s) :
    SameMemNext σ (execConnSet rq c keyWr s) := by
  unfold execConnSet
  repeat' (with_reducible
    first
    | assumption | apply State.connCmd_sameMem | apply State.connSet_sameMem | apply SameMemNext.next | (intro _) | exact rfl
    | apply SameMem.fields)

theorem execConnSnap_sameMem {σ : State} {s : State} (rq : Requester) (c : Nat) (hs : SameMem σ s) :
    SameMemNext σ (execConnSnap rq c s) := by
  unfold execConnSnap
  repeat' (with_reducible
    first
    | assumption | apply State.connCmd_sameMem | apply State.connSnap_sameMem | apply SameMemNext.next | (intro _) | exact rfl
    | apply SameMem.fields)

theorem execRateAdjust_sameMem {σ : State} {s : State} (c conn : Nat) (hs : SameMem σ s) :
    SameMemNext σ (execRateAdjust c conn s) := by
  unfold execRateAdjust
  repeat' (with_reducible
    first
    | assumption | apply State.when_sameMem | apply State.passToNow_sameMem | apply State.updConn_sameMem | apply State.putRate_sameMem
    | apply SameMemNext.next | extract_lets | (intro _) | exact rfl | apply SameMem.fields)

theorem State.killJob_sameMem {σ : State} {s : State} (c j : Nat) (alsoClear : Bool) (hs : SameMem σ s) :
    SameMem σ (State.killJob s c j alsoClear) := by
  unfold State.killJob
  repeat' (with_reducible
    first
    | assumption | apply State.when_sameMem | apply State.clearJob_sameMem | apply State.clearBox_sameMem | apply State.tearDown_sameMem
    | (intro _) | exact rfl | apply SameMem.fields)

theorem execKill_sameMem {σ : State} {s : State} (rq : Requester) (c : Nat) (alsoClear : Bool) (hs : SameMem σ s) :
    SameMemNext σ (execKill rq c alsoClear s) := by
  unfold execKill
  repeat' (with_reducible
    first
    | assumption | apply State.onWrite_sameMem | apply State.killJob_sameMem | apply SameMemNext.next | split | (intro _) | exact rfl
    | apply SameMem.fields)

theorem execClear_sameMem {σ : State} {s : State} (rq : Requester) (c : Nat) (hs : SameMem σ s) :
    SameMemNext σ (execClear rq c s) := by
  unfold execClear
  repeat' (with_reducible
    first
    | assumption | apply State.onWrite_sameMem | apply State.clearJob_sameMem | apply State.when_sameMem | apply State.clearBox_sameMem
    | apply SameMemNext.next | extract_lets | (intro _) | exact rfl | apply SameMem.fields)

theorem State.setSec_sameMem {σ : State} {s : State} (f : Sec → Sec) (hs : SameMem σ s) : SameMem σ (State.setSec s f) := by
  unfold State.setSec
  repeat' (with_reducible
    first
    | assumption | (intro _) | exact rfl | apply SameMem.fields)

theorem State.updSpdm_sameMem {σ : State} {s : State} (t : Nat) (f : SpdmPort → SpdmPort) (hs : SameMem σ s) :
    SameMem σ (State.updSpdm s t f) := by
  unfold State.updSpdm
  repeat' (with_reducible
    first
    | assumption | apply State.setSec_sameMem | (intro _) | exact rfl | apply SameMem.fields)

theorem State.spdmSay_sameMem {σ : State} {s : State} (name : String) (t : Nat) (args : List Nat) (data : List Byte)
    (hs : SameMem σ s) :
    SameMem σ (State.spdmSay s name t args data) := by
  unfold State.spdmSay
  repeat' (with_reducible
    first
    | assumption | apply State.bump_sameMem | apply State.emit_sameMem | (intro _) | exact rfl | apply SameMem.fields)

theorem State.spdmError_sameMem {σ : State} {s : State} (t : Nat) (why : String) (hs : SameMem σ s) :
    SameMem σ (State.spdmError s t why) := by
  unfold State.spdmError
  repeat' (with_reducible
    first
    | assumption | apply State.spdmSay_sameMem | (intro _) | exact rfl | apply SameMem.fields)

theorem State.onSpdm_sameMem {σ : State} {s : State} (t : Nat) (f : State → State) (hf : ∀ (a0 : State), SameMem σ a0 → SameMem σ
    (f a0)) (hs : SameMem σ s) :
    SameMem σ (State.onSpdm s t f) := by
  unfold State.onSpdm
  repeat' (with_reducible
    first
    | assumption | apply hf | apply State.spdmError_sameMem | split | (intro _) | exact rfl | apply SameMem.fields)

theorem execGetVersion_sameMem {σ : State} {s : State} (t : Nat) (hs : SameMem σ s) : SameMemNext σ (execGetVersion t s) := by
  unfold execGetVersion
  repeat' (with_reducible
    first
    | assumption | apply State.when_sameMem | apply State.updSpdm_sameMem | apply State.spdmSay_sameMem | apply SameMemNext.next
    | (intro _) | exact rfl | apply SameMem.fields)

theorem execGetCapabilities_sameMem {σ : State} {s : State} (t version : Nat) (hs : SameMem σ s) :
    SameMemNext σ (execGetCapabilities t version s) := by
  unfold execGetCapabilities
  repeat' (with_reducible
    first
    | assumption | apply State.when_sameMem | apply State.spdmError_sameMem | apply State.updSpdm_sameMem | apply State.spdmSay_sameMem
    | apply SameMemNext.next | split | (intro _) | exact rfl | apply SameMem.fields)

theorem execNegotiateAlgorithms_sameMem {σ : State} {s : State} (t : Nat) (offers : List Bool) (hs : SameMem σ s) :
    SameMemNext σ (execNegotiateAlgorithms t offers s) := by
  unfold execNegotiateAlgorithms
  repeat' (with_reducible
    first
    | assumption | apply State.when_sameMem | apply State.spdmError_sameMem | apply State.updSpdm_sameMem | apply State.spdmSay_sameMem
    | apply SameMemNext.next | split | (intro _) | exact rfl | apply SameMem.fields)

theorem execGetDigests_sameMem {σ : State} {s : State} (t slot : Nat) (hs : SameMem σ s) :
    SameMemNext σ (execGetDigests t slot s) := by
  unfold execGetDigests
  repeat' (with_reducible
    first
    | assumption | apply State.onSpdm_sameMem | apply State.spdmError_sameMem | apply State.spdmSay_sameMem | apply SameMemNext.next
    | split | (intro _) | exact rfl | apply SameMem.fields)

theorem execGetCertificate_sameMem {σ : State} {s : State} (t slot off len : Nat) (hs : SameMem σ s) :
    SameMemNext σ (execGetCertificate t slot off len s) := by
  unfold execGetCertificate
  repeat' (with_reducible
    first
    | assumption | apply State.onSpdm_sameMem | apply State.spdmError_sameMem | apply State.spdmSay_sameMem | apply SameMemNext.next
    | extract_lets | split | (intro _) | exact rfl | apply SameMem.fields)

theorem State.signed_sameMem {σ : State} {s : State} (hs : SameMem σ s) : SameMem σ (State.signed s).2 := by
  unfold State.signed
  repeat' (with_reducible
    first
    | assumption | apply State.drawBytes_sameMem | (intro _) | exact rfl | apply SameMem.fields)

theorem execChallenge_sameMem {σ : State} {s : State} (t slot : Nat) (hs : SameMem σ s) : SameMemNext σ (execChallenge t slot s) := by
  unfold execChallenge
  repeat' (with_reducible
    first
    | assumption | apply State.onSpdm_sameMem | apply State.spdmError_sameMem | apply State.signed_sameMem | apply State.spdmSay_sameMem
    | apply SameMemNext.next | extract_lets | split | (intro _) | (apply SameMem.fst_of; assumption)
    | (apply SameMem.snd_of; assumption) | (apply SameMem.some_of; assumption) | exact rfl | apply SameMem.fields)

theorem execGetMeasurements_sameMem {σ : State} {s : State} (t index : Nat) (signed : Bool) (hs : SameMem σ s) :
    SameMemNext σ (execGetMeasurements t index signed s) := by
  unfold execGetMeasurements
  repeat' (with_reducible
    first
    | assumption | apply State.onSpdm_sameMem | apply State.spdmError_sameMem | apply State.signed_sameMem | apply State.spdmSay_sameMem
    | apply SameMemNext.next | extract_lets | split | (intro _) | (apply SameMem.fst_of; assumption)
    | (apply SameMem.snd_of; assumption) | (apply SameMem.some_of; assumption) | exact rfl | apply SameMem.fields)

theorem execKeyExchange_sameMem {σ : State} {s : State} (t slot reqId : Nat) (hs : SameMem σ s) :
    SameMemNext σ (execKeyExchange t slot reqId s) := by
  unfold execKeyExchange
  repeat' (with_reducible
    first
    | assumption | apply State.onSpdm_sameMem | apply State.spdmError_sameMem | apply State.signed_sameMem | apply State.updSpdm_sameMem
    | apply State.spdmSay_sameMem | apply SameMemNext.next | extract_lets | split | (intro _) | (apply SameMem.fst_of; assumption)
    | (apply SameMem.snd_of; assumption) | (apply SameMem.some_of; assumption) | exact rfl | apply SameMem.fields)

theorem State.onSession_sameMem {σ : State} {s : State} (t id : Nat) (established : Bool) (f : State → State) (hf : ∀
    (a0 : State), SameMem σ a0 → SameMem σ (f a0)) (hs : SameMem σ s) :
    SameMem σ (State.onSession s t id established f) := by
  unfold State.onSession
  repeat' (with_reducible
    first
    | assumption | apply hf | apply State.onSpdm_sameMem | apply State.spdmError_sameMem | split | (intro _) | exact rfl
    | apply SameMem.fields)

theorem State.updSession_sameMem {σ : State} {s : State} (t id : Nat) (f : SpdmSession → SpdmSession) (hs : SameMem σ s) :
    SameMem σ (State.updSession s t id f) := by
  unfold State.updSession
  repeat' (with_reducible
    first
    | assumption | apply State.updSpdm_sameMem | split | (intro _) | exact rfl | apply SameMem.fields)

theorem execFinish_sameMem {σ : State} {s : State} (t session : Nat) (hs : SameMem σ s) : SameMemNext σ (execFinish t session s) := by
  unfold execFinish
  repeat' (with_reducible
    first
    | assumption | apply State.onSession_sameMem | apply State.updSession_sameMem | apply State.spdmSay_sameMem | apply SameMemNext.next
    | (intro _) | exact rfl | apply SameMem.fields)

theorem execEndSession_sameMem {σ : State} {s : State} (t session : Nat) (hs : SameMem σ s) :
    SameMemNext σ (execEndSession t session s) := by
  unfold execEndSession
  repeat' (with_reducible
    first
    | assumption | apply State.onSession_sameMem | apply State.updSpdm_sameMem | apply State.spdmSay_sameMem | apply SameMemNext.next
    | (intro _) | exact rfl | apply SameMem.fields)

theorem execKeyUpdate_sameMem {σ : State} {s : State} (t session : Nat) (hs : SameMem σ s) :
    SameMemNext σ (execKeyUpdate t session s) := by
  unfold execKeyUpdate
  repeat' (with_reducible
    first
    | assumption | apply State.onSession_sameMem | apply State.updSession_sameMem | apply State.spdmSay_sameMem | apply SameMemNext.next
    | (intro _) | exact rfl | apply SameMem.fields)

theorem execDoeDiscovery_sameMem {σ : State} {s : State} (ld index : Nat) (hs : SameMem σ s) :
    SameMemNext σ (execDoeDiscovery ld index s) := by
  unfold execDoeDiscovery
  repeat' (with_reducible
    first
    | assumption | apply State.when_sameMem | apply State.emit_sameMem | apply SameMemNext.next | extract_lets | (intro _) | exact rfl
    | apply SameMem.fields)

theorem execCdatRead_sameMem {σ : State} {s : State} (ld : Nat) (hs : SameMem σ s) : SameMemNext σ (execCdatRead ld s) := by
  unfold execCdatRead
  repeat' (with_reducible
    first
    | assumption | apply State.when_sameMem | apply State.emit_sameMem | apply SameMemNext.next | (intro _) | exact rfl
    | apply SameMem.fields)

theorem State.wpCtrl_sameMem {σ : State} {s : State} (v : Word) (hs : SameMem σ s) : SameMem σ (State.wpCtrl s v) := by
  unfold State.wpCtrl
  repeat' (with_reducible
    first
    | assumption | apply State.store_sameMem | apply State.when_sameMem | apply State.armWatch_sameMem | (intro _) | exact rfl
    | apply SameMem.fields)

theorem execArm_sameMem {σ : State} {s : State} (rq : Requester) (v : Word) (hs : SameMem σ s) : SameMemNext σ (execArm rq v s) := by
  unfold execArm
  repeat' (with_reducible
    first
    | assumption | apply State.onWrite_sameMem | apply State.wpCtrl_sameMem | apply SameMemNext.next | (intro _) | exact rfl
    | apply SameMem.fields)

theorem State.jobBell_sameMem {σ : State} {s : State} (rq : Requester) (c j size off : Nat) (owner : Blk) (v : DWord)
    (ok : Bool) (f : State → State) (hf : ∀ (a0 : State), SameMem σ a0 → SameMem σ (f a0)) (hs : SameMem σ s) :
    SameMem σ (State.jobBell s rq c j size off owner v ok f) := by
  unfold State.jobBell
  repeat' (with_reducible
    first
    | assumption | apply hf | apply State.ioUr_sameMem | apply State.logDoorbell_sameMem | split | (intro _) | exact rfl
    | apply SameMem.fields)

theorem State.privBell_sameMem {σ : State} {s : State} (rq : Requester) (c size off : Nat) (owner : Blk) (v : DWord)
    (ok : Bool) (f : State → State) (hf : ∀ (a0 : State), SameMem σ a0 → SameMem σ (f a0)) (hs : SameMem σ s) :
    SameMem σ (State.privBell s rq c size off owner v ok f) := by
  unfold State.privBell
  repeat' (with_reducible
    first
    | assumption | apply hf | apply State.ioUr_sameMem | apply State.logDoorbell_sameMem | split | (intro _) | exact rfl
    | apply SameMem.fields)

theorem State.setQTail_sameMem {σ : State} {s : State} (c q p : Nat) (hs : SameMem σ s) : SameMem σ (State.setQTail s c q p) := by
  unfold State.setQTail
  repeat' (with_reducible
    first
    | assumption | apply State.updJsc_sameMem | apply State.wr_sameMem | apply foldl_sameMem | apply foldl_fst_sameMem | extract_lets
    | (intro _) | exact rfl | apply SameMem.fields)

theorem execDbCqTail_sameMem {σ : State} {s : State} (rq : Requester) (c j size : Nat) (v : DWord) (hs : SameMem σ s) :
    SameMemNext σ (execDbCqTail rq c j size v s) := by
  unfold execDbCqTail
  repeat' (with_reducible
    first
    | assumption | apply State.jobBell_sameMem | apply State.setQTail_sameMem | apply SameMemNext.next | extract_lets | (intro _)
    | exact rfl | apply SameMem.fields)

theorem State.ringRoom_sameMem {σ : State} {s : State} (c j r : Nat) (hs : SameMem σ s) : SameMem σ (State.ringRoom s c j r) := by
  unfold State.ringRoom
  repeat' (with_reducible
    first
    | assumption | apply State.setHead_sameMem | split | (intro _) | (apply SameMem.fst_of; assumption)
    | (apply SameMem.snd_of; assumption) | (apply SameMem.some_of; assumption) | exact rfl | apply SameMem.fields)

theorem execDbXrPtr_sameMem {σ : State} {s : State} (rq : Requester) (c j size : Nat) (v : DWord) (hs : SameMem σ s) :
    SameMemNext σ (execDbXrPtr rq c j size v s) := by
  unfold execDbXrPtr
  repeat' (with_reducible
    first
    | assumption | apply State.jobBell_sameMem | apply State.wr_sameMem | apply State.accrue_sameMem | apply State.updAtn_sameMem
    | apply State.ringRoom_sameMem | apply State.settle_sameMem | apply SameMemNext.next | extract_lets | split | (intro _)
    | exact rfl | apply SameMem.fields)

theorem execDbEvqHead_sameMem {σ : State} {s : State} (rq : Requester) (c j size : Nat) (v : DWord) (hs : SameMem σ s) :
    SameMemNext σ (execDbEvqHead rq c j size v s) := by
  unfold execDbEvqHead
  repeat' (with_reducible
    first
    | assumption | apply State.jobBell_sameMem | apply State.wr_sameMem | apply SameMemNext.next | (intro _) | exact rfl
    | apply SameMem.fields)

theorem execDbSqTail_sameMem {σ : State} {s : State} (rq : Requester) (c j size : Nat) (v : DWord) (hs : SameMem σ s) :
    SameMemNext σ (execDbSqTail rq c j size v s) := by
  unfold execDbSqTail
  repeat' (with_reducible
    first
    | assumption | apply State.jobBell_sameMem | apply State.updConn_sameMem | apply SameMemNext.next | extract_lets | (intro _)
    | exact rfl | apply SameMem.fields)

theorem execDbRxqHead_sameMem {σ : State} {s : State} (rq : Requester) (c j size : Nat) (v : DWord) (hs : SameMem σ s) :
    SameMemNext σ (execDbRxqHead rq c j size v s) := by
  unfold execDbRxqHead
  repeat' (with_reducible
    first
    | assumption | apply State.jobBell_sameMem | apply State.wr_sameMem | apply SameMemNext.next | extract_lets | (intro _)
    | exact rfl | apply SameMem.fields)

theorem execDbPevqHead_sameMem {σ : State} {s : State} (rq : Requester) (c size : Nat) (v : DWord) (hs : SameMem σ s) :
    SameMemNext σ (execDbPevqHead rq c size v s) := by
  unfold execDbPevqHead
  repeat' (with_reducible
    first
    | assumption | apply State.privBell_sameMem | apply State.wr_sameMem | apply SameMemNext.next | (intro _) | exact rfl
    | apply SameMem.fields)

theorem execDbSmpHead_sameMem {σ : State} {s : State} (rq : Requester) (c size : Nat) (v : DWord) (hs : SameMem σ s) :
    SameMemNext σ (execDbSmpHead rq c size v s) := by
  unfold execDbSmpHead
  repeat' (with_reducible
    first
    | assumption | apply State.privBell_sameMem | apply State.wr_sameMem | apply SameMemNext.next | (intro _) | exact rfl
    | apply SameMem.fields)

theorem State.setBoot_sameMem (f : Boot → Boot) (h : SameMem s0 s) : SameMem s0 (s.setBoot f) := ⟨(State.setBoot_mem ..).trans h.mem⟩

theorem execPowerGood_sameMem {σ : State} {s : State} (sysrefSel : Bool) (hs : SameMem σ s) :
    SameMemNext σ (execPowerGood sysrefSel s) := by
  unfold execPowerGood
  repeat' (with_reducible
    first
    | assumption | apply State.when_sameMem | apply State.setBoot_sameMem | apply SameMemNext.next | extract_lets | (intro _)
    | exact rfl | apply SameMem.fields)

theorem State.measure_sameMem {σ : State} {s : State} (i : Nat) (h : List Byte) (hs : SameMem σ s) :
    SameMem σ (State.measure s i h) := by
  unfold State.measure
  repeat' (with_reducible
    first
    | assumption | apply State.setSec_sameMem | (intro _) | exact rfl | apply SameMem.fields)

theorem State.measureHw_sameMem {σ : State} {s : State} (hs : SameMem σ s) : SameMem σ (State.measureHw s) := by
  unfold State.measureHw
  repeat' (with_reducible
    first
    | assumption | apply State.measure_sameMem | extract_lets | (intro _) | exact rfl | apply SameMem.fields)

theorem State.fuseRegs_sameMem {σ : State} {s : State} (hs : SameMem σ s) : SameMem σ (State.fuseRegs s) := by
  unfold State.fuseRegs
  repeat' (with_reducible
    first
    | assumption | apply State.wr_sameMem | apply State.each_sameMem | apply State.wrAt_sameMem | extract_lets | (intro _) | exact rfl
    | apply SameMem.fields)

theorem State.romStart_sameMem {σ : State} {s : State} (srcCxl : Bool) (hs : SameMem σ s) : SameMem σ (State.romStart s srcCxl) := by
  unfold State.romStart
  repeat' (with_reducible
    first
    | assumption | apply State.setBoot_sameMem | apply State.updCore_sameMem | apply State.each_sameMem | apply State.setDom_sameMem
    | extract_lets | (intro _) | exact rfl | apply SameMem.fields)

theorem execFusesLoaded_sameMem {σ : State} {s : State} (f : Fuses) (srcCxl : Bool) (hs : SameMem σ s) :
    SameMemNext σ (execFusesLoaded f srcCxl s) := by
  unfold execFusesLoaded
  repeat' (with_reducible
    first
    | assumption | apply State.when_sameMem | apply State.setBoot_sameMem | apply State.fuseRegs_sameMem | apply State.setSec_sameMem
    | apply State.measure_sameMem | apply State.measureHw_sameMem | apply State.romStart_sameMem | apply SameMemNext.next | extract_lets
    | split | (intro _) | exact rfl | apply SameMem.fields)

theorem execLoadBootImage_sameMem {σ : State} {s : State} (off : Nat) (data : List Byte) (hs : SameMem σ s) :
    SameMemNext σ (execLoadBootImage off data s) := by
  unfold execLoadBootImage
  repeat' (with_reducible
    first
    | assumption | apply State.when_sameMem | apply State.emit_sameMem | apply State.setBoot_sameMem | apply SameMemNext.next | split
    | (intro _) | exact rfl | apply SameMem.fields)

theorem execBootImageDone_sameMem {σ : State} {s : State} (hs : SameMem σ s) : SameMemNext σ (execBootImageDone s) := by
  unfold execBootImageDone
  repeat' (with_reducible
    first
    | assumption | apply State.when_sameMem | apply State.setBoot_sameMem | apply SameMemNext.next | (intro _) | exact rfl
    | apply SameMem.fields)

theorem State.bootRetry_sameMem {σ : State} {s : State} (rq : Requester) (srcCxl : Bool) (hs : SameMem σ s) :
    SameMem σ (State.bootRetry s rq srcCxl) := by
  unfold State.bootRetry
  repeat' (with_reducible
    first
    | assumption | apply State.when_sameMem | apply State.alertEdge_sameMem | apply State.romStart_sameMem | (intro _) | exact rfl
    | apply SameMem.fields)

theorem execBootRetry_sameMem {σ : State} {s : State} (rq : Requester) (srcCxl : Bool) (hs : SameMem σ s) :
    SameMemNext σ (execBootRetry rq srcCxl s) := by
  unfold execBootRetry
  repeat' (with_reducible
    first
    | assumption | apply State.onWrite_sameMem | apply State.bootRetry_sameMem | apply SameMemNext.next | (intro _) | exact rfl
    | apply SameMem.fields)

theorem State.norRefuse_sameMem {σ : State} {s : State} (b : Bool) (hs : SameMem σ s) : SameMem σ (State.norRefuse s b) := by
  unfold State.norRefuse
  repeat' (with_reducible
    first
    | assumption | apply State.setBoot_sameMem | (intro _) | exact rfl | apply SameMem.fields)

theorem State.norWrite_sameMem {σ : State} {s : State} (a : Nat) (bs : List Byte) (hs : SameMem σ s) :
    SameMem σ (State.norWrite s a bs) := by
  unfold State.norWrite
  repeat' (with_reducible
    first
    | assumption | apply State.setBoot_sameMem | apply foldl_sameMem | apply foldl_fst_sameMem | (intro _) | exact rfl
    | apply SameMem.fields)

theorem execNorRead_sameMem {σ : State} {s : State} (rq : Requester) (hs : SameMem σ s) : SameMemNext σ (execNorRead rq s) := by
  unfold execNorRead
  repeat' (with_reducible
    first
    | assumption | apply State.onWrite_sameMem | apply State.norRefuse_sameMem | apply State.each_sameMem | apply State.wrAt_sameMem
    | apply SameMemNext.next | (intro _) | exact rfl | apply SameMem.fields)

theorem execNorProgram_sameMem {σ : State} {s : State} (rq : Requester) (hs : SameMem σ s) : SameMemNext σ (execNorProgram rq s) := by
  unfold execNorProgram
  repeat' (with_reducible
    first
    | assumption | apply State.onWrite_sameMem | apply State.norRefuse_sameMem | apply State.norWrite_sameMem | apply SameMemNext.next
    | split | (intro _) | exact rfl | apply SameMem.fields)

theorem execNorErase_sameMem {σ : State} {s : State} (rq : Requester) (hs : SameMem σ s) : SameMemNext σ (execNorErase rq s) := by
  unfold execNorErase
  repeat' (with_reducible
    first
    | assumption | apply State.onWrite_sameMem | apply State.norRefuse_sameMem | apply State.setBoot_sameMem | apply SameMemNext.next
    | extract_lets | split | (intro _) | exact rfl | apply SameMem.fields)

theorem State.setClk_sameMem {σ : State} {s : State} (f : Clk → Clk) (hs : SameMem σ s) : SameMem σ (State.setClk s f) := by
  unfold State.setClk
  repeat' (with_reducible
    first
    | assumption | (intro _) | exact rfl | apply SameMem.fields)

theorem execPllRelock_sameMem {σ : State} {s : State} (dom : Nat) (hs : SameMem σ s) : SameMemNext σ (execPllRelock dom s) := by
  unfold execPllRelock
  repeat' (with_reducible
    first
    | assumption | apply State.when_sameMem | apply State.setClk_sameMem | apply SameMemNext.next | (intro _) | exact rfl
    | apply SameMem.fields)

theorem exec_sameMem (i : Instr) (s : State) (h : i.writesMemory = false) : SameMemNext s (exec i s) := by
  cases i with
  | registerWrite _ _ _ _ => cases h
  | lock _ _ => unfold exec; exact execLock_sameMem _ _ (SameMem.refl s)
  | resetBlock _ _ _ => cases h
  | quiesce _ _ _ => cases h
  | blockEnable _ _ _ => unfold exec; exact execBlockEnable_sameMem _ _ _ (SameMem.refl s)
  | blockInitDone _ => cases h
  | blockQuiesced _ => cases h
  | blkEvtClear _ _ _ _ => cases h
  | blkEvtSet _ _ _ => cases h
  | errLogClear _ _ _ _ => unfold exec; exact execErrLogClear_sameMem _ _ _ _ (SameMem.refl s)
  | todNsRead _ => unfold exec; exact execTodNsRead_sameMem _ (SameMem.refl s)
  | cadPhaseRead _ => unfold exec; exact execCadPhaseRead_sameMem _ (SameMem.refl s)
  | ppsInNsRead _ => unfold exec; exact execPpsInNsRead_sameMem _ (SameMem.refl s)
  | todSet _ _ => cases h
  | todStep _ => cases h
  | servoOffset _ _ => cases h
  | lossTimeout => cases h
  | holdoverTimeout => cases h
  | timeDegraded => cases h
  | ppsInEdge => unfold exec; exact execPpsInEdge_sameMem (SameMem.refl s)
  | ppsOutPulse => unfold exec; exact execPpsOutPulse_sameMem (SameMem.refl s)
  | ppsPulseEnd => unfold exec; exact execPpsPulseEnd_sameMem (SameMem.refl s)
  | ppsMissing => cases h
  | cadRunSet _ => unfold exec; exact execCadRunSet_sameMem _ (SameMem.refl s)
  | cadRunClear _ => unfold exec; exact execCadRunClear_sameMem _ (SameMem.refl s)
  | cadenceStart => cases h
  | dayBoundary => cases h
  | realignEnd => cases h
  | noonStart => cases h
  | duskStart => cases h
  | midnightStart => cases h
  | guardStart => cases h
  | planLoad _ _ => unfold exec; exact execPlanLoad_sameMem _ _ (SameMem.refl s)
  | planDiscard _ => unfold exec; exact execPlanDiscard_sameMem _ (SameMem.refl s)
  | planLoadDone => cases h
  | planRetire => cases h
  | admitReq _ _ => cases h
  | cancel _ _ => cases h
  | accept _ _ => cases h
  | park _ _ => cases h
  | resume _ _ => cases h
  | moveAbort _ _ => cases h
  | query _ _ => cases h
  | rqtEntryRead _ _ => unfold exec; exact execRqtEntryRead_sameMem _ _ (SameMem.refl s)
  | moveOpen _ _ _ _ _ => cases h
  | pageTableReturn _ _ _ _ => cases h
  | homeSwitchNotice _ _ _ _ _ => cases h
  | moveClose _ _ _ => cases h
  | stepCommit _ _ => cases h
  | qk _ _ => cases h
  | softmax _ _ => cases h
  | pv _ _ => cases h
  | fused _ _ => cases h
  | partialSweep _ _ => cases h
  | stateUpdate _ _ => cases h
  | cross _ _ => cases h
  | tileEnd _ _ => cases h
  | queryRecord _ _ => cases h
  | partialRecord _ _ => cases h
  | logitsRecord _ _ => cases h
  | samplerRowDone _ => cases h
  | smpCfgSet _ _ => cases h
  | smpCfgRelease _ _ => cases h
  | beamBind _ _ => cases h
  | dbCqTail _ _ _ _ _ => unfold exec; exact execDbCqTail_sameMem _ _ _ _ _ (SameMem.refl s)
  | dbCplHead _ _ _ _ _ => cases h
  | dbXrPtr _ _ _ _ _ => unfold exec; exact execDbXrPtr_sameMem _ _ _ _ _ (SameMem.refl s)
  | dbCrHead _ _ _ _ _ => cases h
  | dbEvqHead _ _ _ _ _ => unfold exec; exact execDbEvqHead_sameMem _ _ _ _ _ (SameMem.refl s)
  | dbSqTail _ _ _ _ _ => unfold exec; exact execDbSqTail_sameMem _ _ _ _ _ (SameMem.refl s)
  | dbRxqHead _ _ _ _ _ => unfold exec; exact execDbRxqHead_sameMem _ _ _ _ _ (SameMem.refl s)
  | dbPevqHead _ _ _ _ => unfold exec; exact execDbPevqHead_sameMem _ _ _ _ (SameMem.refl s)
  | dbFqHead _ _ _ _ => cases h
  | dbSmpHead _ _ _ _ => unfold exec; exact execDbSmpHead_sameMem _ _ _ _ (SameMem.refl s)
  | prefixAlloc _ _ => cases h
  | prefixFree _ _ => cases h
  | prefixQuery _ _ => cases h
  | copy _ _ => unfold exec; exact execCopy_sameMem _ _ (SameMem.refl s)
  | convert _ _ => unfold exec; exact execConvert_sameMem _ _ (SameMem.refl s)
  | dmvChunkDone _ => cases h
  | pageMoveDone _ _ => cases h
  | pageMoveFailed _ _ => cases h
  | drainRelease _ _ => cases h
  | vseStoreSet _ _ => cases h
  | vseInsert _ _ => cases h
  | vseDelete _ _ => cases h
  | vseSearch _ _ => cases h
  | scanGroupEnd _ _ => cases h
  | vseRepairPop _ _ _ => unfold exec; exact execVseRepairPop_sameMem _ _ _ (SameMem.refl s)
  | rerankEnWrite _ _ _ => cases h
  | regionEnable _ _ _ => cases h
  | regionReady _ _ => cases h
  | wrWaitExpiry _ _ _ => cases h
  | jscDispatch _ => cases h
  | engineStart _ _ => cases h
  | deficitUpdate _ => unfold exec; exact execDeficitUpdate_sameMem _ (SameMem.refl s)
  | barrier _ _ => cases h
  | tokenSet _ _ => cases h
  | counterRead _ _ => cases h
  | tokenAssign _ _ _ => unfold exec; exact execTokenAssign_sameMem _ _ _ (SameMem.refl s)
  | jobContextWrite _ _ _ _ => unfold exec; exact execJobContextWrite_sameMem _ _ _ _ (SameMem.refl s)
  | kill _ _ _ => unfold exec; exact execKill_sameMem _ _ _ (SameMem.refl s)
  | clear _ _ => unfold exec; exact execClear_sameMem _ _ (SameMem.refl s)
  | jobTeardown _ _ => cases h
  | faultRetry _ _ _ => cases h
  | faultFail _ _ _ => unfold exec; exact execFaultFail_sameMem _ _ _ (SameMem.refl s)
  | faultTimeout _ _ => unfold exec; exact execFaultTimeout_sameMem _ _ (SameMem.refl s)
  | tlbInvalidate _ _ _ => unfold exec; exact execTlbInvalidate_sameMem _ _ _ (SameMem.refl s)
  | invalidateDone _ => unfold exec; exact execInvalidateDone_sameMem _ (SameMem.refl s)
  | ethernetFrame _ _ => unfold exec; exact execEthernetFrame_sameMem _ _ (SameMem.refl s)
  | ptpMessage _ _ _ => cases h
  | write _ _ => cases h
  | readReq _ _ => cases h
  | readResp _ _ => cases h
  | flush _ _ => cases h
  | flushResp _ _ => cases h
  | atomic _ _ => cases h
  | atomicResp _ _ => cases h
  | status _ _ => cases h
  | ack _ _ => cases h
  | busy _ _ => cases h
  | wrWrite _ _ => cases h
  | wrRead _ _ => cases h
  | wrFlush _ _ => cases h
  | wrAtomic _ _ => cases h
  | winOpen _ _ => cases h
  | winOpenGapEnd _ _ => cases h
  | winRevoke _ _ => cases h
  | connSet _ _ _ => unfold exec; exact execConnSet_sameMem _ _ _ (SameMem.refl s)
  | connReset _ _ _ => cases h
  | connDestroy _ _ => cases h
  | connSnap _ _ => unfold exec; exact execConnSnap_sameMem _ _ (SameMem.refl s)
  | ctxFetchDone _ _ _ => cases h
  | rtoExpiry _ _ => cases h
  | ackDelayExpiry _ _ => cases h
  | busyBackoffEnd _ _ => cases h
  | rateAdjust _ _ => unfold exec; exact execRateAdjust_sameMem _ _ (SameMem.refl s)
  | linkChange _ _ _ => cases h
  | fecInterval _ _ _ => cases h
  | wheelSlotDue _ => unfold exec; exact execWheelSlotDue_sameMem _ (SameMem.refl s)
  | coarseSlotDue _ => unfold exec; exact execCoarseSlotDue_sameMem _ (SameMem.refl s)
  | egressTransmit _ _ => cases h
  | shaperRateWrite _ _ _ => unfold exec; exact execShaperRateWrite_sameMem _ _ _ (SameMem.refl s)
  | shaperConfigWrite _ _ _ _ => unfold exec; exact execShaperConfigWrite_sameMem _ _ _ _ (SameMem.refl s)
  | policerConfigWrite _ _ _ _ => unfold exec; exact execPolicerConfigWrite_sameMem _ _ _ _ (SameMem.refl s)
  | sampleInstant _ => cases h
  | solrovModeEnter _ _ _ => unfold exec; exact execSolrovModeEnter_sameMem _ _ _ (SameMem.refl s)
  | flit _ _ => cases h
  | replayReq _ _ => cases h
  | solrovLink _ _ => cases h
  | load _ => cases h
  | store _ => cases h
  | rackAtomic _ => cases h
  | nmo _ => cases h
  | nmoStart _ => cases h
  | nmoDone _ _ => cases h
  | msg _ => cases h
  | devMsg _ => cases h
  | loadRsp _ => cases h
  | storeAck _ => cases h
  | atomicRsp _ => cases h
  | nmoRsp _ => cases h
  | nak _ => cases h
  | msgAck _ => cases h
  | orderedStoreSend _ => cases h
  | solrovStore _ _ => cases h
  | solrovAtomic _ _ => cases h
  | solrovNmo _ _ => cases h
  | solrovMsg _ _ => cases h
  | solrovStall _ _ => cases h
  | abandon _ _ _ _ => cases h
  | slpRevive _ _ _ _ => cases h
  | ccxJoin _ _ => unfold exec; exact execCcxJoin_sameMem _ _ (SameMem.refl s)
  | ccxLeave _ _ => unfold exec; exact execCcxLeave_sameMem _ _ (SameMem.refl s)
  | ccxRevive _ _ _ => cases h
  | cohFlush _ _ => cases h
  | rdS _ => cases h
  | rdX _ => cases h
  | upg _ => cases h
  | wb _ => cases h
  | evc _ => cases h
  | clean _ => cases h
  | srsp _ => cases h
  | cmp _ => cases h
  | snpS _ => cases h
  | snpX _ => cases h
  | snpInv _ => cases h
  | gnt _ => cases h
  | retry _ => cases h
  | evAck _ => cases h
  | mrd _ => cases h
  | mwr _ => cases h
  | psn _ => cases h
  | mwrAck _ => cases h
  | psnAck _ => cases h
  | data _ => cases h
  | cohBackoffEnd _ => unfold exec; exact execCohBackoffEnd_sameMem _ (SameMem.refl s)
  | hbSend _ => unfold exec; exact execHbSend_sameMem _ (SameMem.refl s)
  | hb _ => cases h
  | hbEcho _ => cases h
  | memberDead _ _ => cases h
  | domainLost _ => cases h
  | join _ => cases h
  | joinAck _ => cases h
  | deadNote _ => cases h
  | bindChannel _ _ => cases h
  | unbindChannel _ _ => cases h
  | initiateDynamicCapacityAdd _ _ => cases h
  | addDynamicCapacityResponse _ _ => cases h
  | initiateDynamicCapacityRelease _ _ _ => cases h
  | releaseDynamicCapacity _ _ => cases h
  | compositionEpochRetire => cases h
  | cxlMemRead _ _ _ => cases h
  | cxlMemWrite _ _ _ => cases h
  | birsp _ _ _ => cases h
  | biTimeout _ => cases h
  | ldReset _ => cases h
  | hostPortFault _ _ => cases h
  | publish _ _ => cases h
  | shareSet _ _ => cases h
  | shareQuery _ _ => cases h
  | configurationRequest _ _ => unfold exec; exact execConfigurationRequest_sameMem _ _ (SameMem.refl s)
  | doeDiscovery _ _ => unfold exec; exact execDoeDiscovery_sameMem _ _ (SameMem.refl s)
  | cdatRead _ => unfold exec; exact execCdatRead_sameMem _ (SameMem.refl s)
  | ideKm _ _ _ _ => cases h
  | getVersion _ => unfold exec; exact execGetVersion_sameMem _ (SameMem.refl s)
  | getCapabilities _ _ => unfold exec; exact execGetCapabilities_sameMem _ _ (SameMem.refl s)
  | negotiateAlgorithms _ _ => unfold exec; exact execNegotiateAlgorithms_sameMem _ _ (SameMem.refl s)
  | getDigests _ _ => unfold exec; exact execGetDigests_sameMem _ _ (SameMem.refl s)
  | getCertificate _ _ _ _ => unfold exec; exact execGetCertificate_sameMem _ _ _ _ (SameMem.refl s)
  | challenge _ _ => unfold exec; exact execChallenge_sameMem _ _ (SameMem.refl s)
  | getMeasurements _ _ _ => unfold exec; exact execGetMeasurements_sameMem _ _ _ (SameMem.refl s)
  | keyExchange _ _ _ => unfold exec; exact execKeyExchange_sameMem _ _ _ (SameMem.refl s)
  | finish _ _ => unfold exec; exact execFinish_sameMem _ _ (SameMem.refl s)
  | endSession _ _ => unfold exec; exact execEndSession_sameMem _ _ (SameMem.refl s)
  | keyUpdate _ _ => unfold exec; exact execKeyUpdate_sameMem _ _ (SameMem.refl s)
  | mbDataWrite _ _ _ _ => cases h
  | mbGo _ _ _ => cases h
  | mbxRxSeqRead _ => unfold exec; exact execMbxRxSeqRead_sameMem _ (SameMem.refl s)
  | empty _ => cases h
  | clrCollision _ => unfold exec; exact execClrCollision_sameMem _ (SameMem.refl s)
  | mbxRxAck _ _ => cases h
  | mbxRouteWrite _ _ => unfold exec; exact execMbxRouteWrite_sameMem _ _ (SameMem.refl s)
  | powerGood _ => unfold exec; exact execPowerGood_sameMem _ (SameMem.refl s)
  | powerLoss => cases h
  | fusesLoaded _ _ => unfold exec; exact execFusesLoaded_sameMem _ _ (SameMem.refl s)
  | loadBootImage _ _ => unfold exec; exact execLoadBootImage_sameMem _ _ (SameMem.refl s)
  | bootImageDone => unfold exec; exact execBootImageDone_sameMem (SameMem.refl s)
  | bootImageTimeout => cases h
  | imageReceived _ => cases h
  | loadPhaseDone => cases h
  | trainingDone _ => cases h
  | warmReset _ => cases h
  | modReset => cases h
  | bootRetry _ _ => unfold exec; exact execBootRetry_sameMem _ _ (SameMem.refl s)
  | swapNow _ => cases h
  | fwUpdate _ _ _ => cases h
  | updateDrained _ => cases h
  | updateImageRead _ _ => cases h
  | fwSelfTestDone _ => cases h
  | chOut _ _ => cases h
  | retrain _ _ => cases h
  | retrainDone _ _ => cases h
  | chIn _ _ => cases h
  | norRead _ => unfold exec; exact execNorRead_sameMem _ (SameMem.refl s)
  | norProgram _ => unfold exec; exact execNorProgram_sameMem _ (SameMem.refl s)
  | norErase _ => unfold exec; exact execNorErase_sameMem _ (SameMem.refl s)
  | svnBurn _ _ => cases h
  | keyRevoke _ _ => cases h
  | tokenTick => unfold exec; exact execTokenTick_sameMem (SameMem.refl s)
  | domainRampDone _ => unfold exec; exact execDomainRampDone_sameMem _ (SameMem.refl s)
  | arrayIdleExpiry _ => unfold exec; exact execArrayIdleExpiry_sameMem _ (SameMem.refl s)
  | coreWaitForInterrupt _ => unfold exec; exact execCoreWaitForInterrupt_sameMem _ (SameMem.refl s)
  | sensorSample _ _ _ _ => cases h
  | powerAverage => cases h
  | throttleStepDown => cases h
  | throtForceWrite _ _ => cases h
  | thermtrip => cases h
  | vinWarn _ => cases h
  | vinFault _ => cases h
  | refLost _ => cases h
  | refRestored _ => cases h
  | pllUnlock _ => cases h
  | pllRelock _ => unfold exec; exact execPllRelock_sameMem _ (SameMem.refl s)
  | correctedError _ _ _ _ => cases h
  | channelFatalFault _ => cases h
  | deviceFatalFault _ _ _ _ => cases h
  | coreFault _ => cases h
  | spareCommit _ _ => unfold exec; exact execSpareCommit_sameMem _ _ (SameMem.refl s)
  | spareDecline _ _ => unfold exec; exact execSpareDecline_sameMem _ _ (SameMem.refl s)
  | rasInject _ _ => cases h
  | snap _ => cases h
  | arm _ _ => unfold exec; exact execArm_sameMem _ _ (SameMem.refl s)
  | dbgMemRead _ => cases h
  | channelCheckDone _ _ => cases h
  | linkUp _ _ _ => unfold exec; exact execLinkUp_sameMem _ _ _ (SameMem.refl s)
  | controlCoreAccess _ _ _ _ _ _ _ => cases h

end Sys2Proof.Machine
end

