-- ==== Sys2Proof/Laws/Tables.lean ====
section
/-! SUPPORT. Reads of the tables that a channel holds, after a change of one of their entries. -/
namespace Sys2Proof.Machine

variable (s : State)

/-- The changed request entry. -/
@[simp] theorem State.req_updReq_same (c i : Nat) (f : ReqEntry → ReqEntry) : (s.updReq c i f).req c i = f (s.req c i) := by
  unfold State.req State.updReq
  rw [State.ch_updCh_same]
  exact SMap.at_upd_same _ _ _

/-- The other request entries. -/
theorem State.req_updReq_other (c i j : Nat) (f : ReqEntry → ReqEntry) (h : j ≠ i) : (s.updReq c i f).req c j = s.req c j := by
  unfold State.req State.updReq
  rw [State.ch_updCh_same]
  show (SMap.upd _ _ _).at j = _
  rw [SMap.at_upd, if_neg h]

/-- A request change leaves the time and the registers. -/
@[simp] theorem State.updReq_tim (c i : Nat) (f : ReqEntry → ReqEntry) : (s.updReq c i f).tim = s.tim := by
  unfold State.updReq; exact State.updCh_tim ..

@[simp] theorem State.updReq_regs (c i : Nat) (f : ReqEntry → ReqEntry) : (s.updReq c i f).regs = s.regs := by
  unfold State.updReq; exact State.updCh_regs ..

/-- The replaced engine. -/
@[simp] theorem State.engine_setEngine_same (c e : Nat) (x : Engine) : (s.setEngine c e x).engine c e = x := by
  unfold State.engine State.setEngine
  rw [State.jsc_updJsc_same]
  exact SMap.at_set_same _ _ _

/-- A command that holds its engine goes on. -/
theorem State.occupy_holder (c e : Nat) (cmd : Cmd) (h : (s.engine c e).holder = some cmd) : s.occupy c e cmd = s := by
  unfold State.occupy
  rw [h, beq_self_eq_true, Bool.or_true]
  rfl

/-- A command for a disabled channel goes nowhere. -/
theorem State.occupy_disabled (c e : Nat) (cmd : Cmd) (h : s.enabledCh c = false) : s.occupy c e cmd = s := by
  unfold State.occupy
  rw [h]
  rfl

/-- A command of CONTROL that holds its engine is acted on. -/
theorem State.control_holder (c : Nat) (cmd : Cmd) (f : State → State) (on : s.enabledCh c = true)
    (h : (s.engine c 0).holder = some cmd) : s.control c cmd f = f s := by
  unfold State.control
  rw [State.occupy_holder s c 0 cmd h]
  show s.when (s.enabledCh c && (s.engine c 0).holder == some cmd) f = f s
  rw [on, h, beq_self_eq_true]
  rfl

/-- Accesses that no host's copy stands against are served at once. -/
theorem State.afterSnoops_clear (l : List Touch) (f : State → State) (h : s.snoopClear l = true) : s.afterSnoops l f = f s := by
  unfold State.afterSnoops
  exact if_pos h

end Sys2Proof.Machine
end

