-- ==== Sys2Proof/Machine/Reads.lean ====
section
/-! DEFINITION. What a read of a BAR0 register answers (R4, R5, R6, R592, R593): the common header, the counter window of R595,
the status registers that show the state of their block, the snapshot windows, and the stored registers. The table has no
command for a read without an effect; the reads that have one (TOD_NS, CAD_PHASE, PPS_IN_NS, RQT_ENTRY, MBX_RX_SEQ) are commands
of their own. -/
namespace Sys2Proof.Machine

/-! ### The header (R6, R8, R590, R594) -/

/-- BLK_ID (R6, R590): the type, the instance (the channel, CXH's port, else 0) and the version 0x01. -/
def blkId (p : Page) : Word := BitVec.ofNat 32 (fieldAt 16 16 p.blk.code + fieldAt 8 8 p.idx + 1)

/-- The 64-bit counter pairs (R595): the pairs that a register table calls wrapping counts (DEDUCED, log entry 50). -/
def counterPairs : Blk → List Nat
  | .dmv => [0x108]
  | .nmo => [0x10C]
  | .zrb => [0x150, 0x158]
  | _ => []

/-- The counter registers of a block in ascending offset order (R595): those whose names end in _CNT, and the 64-bit pairs, by
the offset of the word shown. DBG_SET_CNT is a window of six pairs. -/
def counterOffs (b : Blk) : List Nat :=
  (regRows b).flatMap fun r =>
    if r.cnt then (if r.words = 1 then [r.off] else (List.range (r.words / 2)).map fun k => r.off + 8 * k)
    else if (counterPairs b).contains r.off then [r.off] else []

/-- BLK_CAP (R594). -/
def blkCap (b : Blk) : Word :=
  BitVec.ofNat 32 (b2n ((regRows b).any fun r => r.banked) + 2 * b2n b.perChannel + 4 * b2n !(counterOffs b).isEmpty)

/-- BLK_STAT (R8). FAULT shows a block that recovers or is quarantined (R603), and one that detected a device-fatal fault, which stands
until a reset (R568). -/
def State.blkStat (s : State) (p : Page) : Word :=
  let b := s.blkSt p
  BitVec.ofNat 32 (b2n (s.ready p) + 2 * b2n b.quiesced + 4 * b2n (b.st == .recovering || b.st == .quarantined || s.ras.fatalAt.contains p) +
    fieldAt 4 4 b.st.code)

/-! ### Blocks' own registers -/

/-- A word of a window's bytes, by its offset in the window. -/
def winWord (bs : List Byte) (off : Nat) : Word := lo32 (recNat bs off 4)

/-- A count in a field of `w` bits that saturates. -/
def satField (lo w n : Nat) : Nat := fieldAt lo w (min (2 ^ w - 1) n)

/-- TIM (R49, R50). -/
def State.timView (s : State) (off : Nat) : Option Word :=
  match off with
  | 0x100 => some (lo32 (s.tim.tod % 1000000000))
  | 0x124 => some s.timStatus
  | 0x134 => some (lo32 s.driftEst)
  | 0x140 => some (lo32 (s.tim.ppsStamp % 1000000000))
  | 0x170 => some s.cadPhase
  | 0x174 => some (BitVec.ofInt 32 (max (-(2 ^ 31)) (min (2 ^ 31 - 1) s.tim.err)))
  | _ => none

/-- RQT and ADM (R96, R98). -/
def State.rqtView (s : State) (c off : Nat) : Option Word :=
  let i := s.rdF c Reg.RQT_SEL 11 0
  match off with
  | 0x110 => some (s.cntWord c .free .admitted)
  | 0x114 => some (s.cntWord c .prefilling .sealed)
  | 0x118 => some (s.cntWord c .moving .resident)
  | 0x11C => some (s.cntWord c .decoding .spilled)
  | 0x120 => some (s.cntWord c .cancelling .done)
  | 0x124 => some (lo32 (s.stateCount c .lost))
  | 0x200 => some (winWord (entryBytes c i (s.req c i)) 0)
  | _ => none

/-- ATN (R175). -/
def State.atnView (s : State) (c off : Nat) : Option Word :=
  match off with
  | 0x104 => some (s.atnStatus c)
  | 0x108 => some (s.atnCur c)
  | _ => none

/-- VSE (R255): its status and the selected store's descriptor. -/
def State.vseView (s : State) (c off : Nat) : Option Word :=
  if off = 0x104 then some (s.vseStatus c)
  else if 0x200 ≤ off then some (winWord ((s.vse c).stores.at (s.rdF c Reg.VSE_STORE_SEL 5 0)).desc (off - 0x200))
  else none

/-- SMP (R301): its status, the beam groups, and the selected configuration record. -/
def State.smpView (s : State) (c off : Nat) : Option Word :=
  if off = 0x104 then some (s.smpStatus c)
  else if off = 0x138 then some (lo32 (s.beamGroups c))
  else if 0x200 ≤ off then some (winWord ((s.smp c).cfgs.at (s.rdF c Reg.SMP_CFG_SEL 11 0)) (off - 0x200))
  else none

/-- JSC_STATUS (R334): the engines that are busy, and how many lanes hold a command, saturating (DESIGN CHOICE, log entry 50). -/
def State.jscStatus (s : State) (c : Nat) : Word :=
  BitVec.ofNat 32 (((List.range 5).map fun e => 2 ^ e * b2n (s.engine c e).holder.isSome).sum +
    satField 8 8 ((s.jsc c).lanes.filter fun l => !l.2.isEmpty).length)

/-- JSC_DEFICIT (R334): D of the selected job on the selected engine, in whole ns, as the last update left it (R313). -/
def State.jscDeficit (s : State) (c : Nat) : Word :=
  BitVec.ofInt 32 ((s.jsc c).shown.at (laneKey (s.rdF c Reg.JSC_JOB_SEL 9 0) (s.rdF c Reg.JSC_DEFICIT_SEL 2 0))).floor

/-- JSC (R334). -/
def State.jscView (s : State) (c off : Nat) : Option Word :=
  match off with
  | 0x104 => some (s.jscStatus c)
  | 0x170 => some (s.jscDeficit c)
  | _ => none

/-- KWP (R379): its status and the selected window record; the keys and salts of the staging window read as zero (R347). -/
def State.kwpView (s : State) (c off : Nat) : Option Word :=
  if off = 0x104 then some (s.kwpStatus c)
  else if (0x244 ≤ off ∧ off < 0x24C) ∨ (0x250 ≤ off ∧ off < 0x290) then some 0
  else if 0x300 ≤ off then some (winWord (s.kwpWinRec c) (off - 0x300))
  else none

/-- TRC (R396): its status, the selected shaper and the selected queue. -/
def State.trcView (s : State) (c off : Nat) : Option Word :=
  let k := s.rdF c Reg.TRC_SHP_SEL 11 0
  match off with
  | 0x104 => some (s.trcStatus c)
  | 0x118 => some (s.trcTokens c k)
  | 0x11C => some (lo32 (s.calCap c k s.pln.active.epoch))
  | 0x120 => some (s.trcShpState c k)
  | 0x12C => some (lo32 (s.equeue c (s.rdF c Reg.TRC_Q_SEL 5 0)).depth)
  | _ => none

/-- SLP (R430). -/
def State.slpView (s : State) (c off : Nat) : Option Word :=
  match off with
  | 0x104 => some (s.slpStatus c)
  | 0x108 => some (s.slpSelf c)
  | 0x114 => some (s.slpDead c 0)
  | 0x118 => some (s.slpDead c 1)
  | 0x11C => some (s.slpDead c 2)
  | 0x120 => some (s.slpDead c 3)
  | 0x128 => some (s.slpStallInfo c (s.rdF c Reg.SLP_STALL_SEL 6 0))
  | 0x12C => some (s.slpQuar c)
  | _ => none

/-- CCX (R463). -/
def State.ccxView (s : State) (c off : Nat) : Option Word :=
  match off with
  | 0x104 => some (s.ccxStatus c)
  | 0x148 => some (s.agLines c)
  | 0x14C => some (s.filterUsed c)
  | _ => none

/-- CMP (R494): its status, and the selected entry and share. -/
def State.cmpView (s : State) (off : Nat) : Option Word :=
  if off = 0x104 then some s.cmpEpochs
  else if off = 0x108 then some s.cmpInflight
  else if off = 0x110 then some s.cmpUsed
  else if off = 0x14C then some s.bifUsed
  else if 0x220 ≤ off then some (winWord (s.share (s.rdN 0 Reg.CMP_SHR_SEL)).bytesOf (off - 0x220))
  else if 0x200 ≤ off then some (winWord (s.cmp.entries.at (s.rdN 0 Reg.CMP_ENT_SEL)).bytesOf (off - 0x200))
  else none

/-- BOOT (R530). -/
def State.bootView (s : State) (off : Nat) : Option Word :=
  match off with
  | 0x100 => some s.bootStatus
  | 0x118 => some (s.coreStat (s.rdN 0 Reg.BOOT_CORE_SEL))
  | 0x12C => some s.updStatus
  | 0x134 => some s.bootChState
  | 0x144 => some s.norStat
  | _ => none

/-- SEC (R532): its status, the sessions, and the selected measurement. -/
def State.secView (s : State) (off : Nat) : Option Word :=
  if off = 0x100 then some s.secStatus
  else if off = 0x110 then some s.secSessions
  else if 0x240 ≤ off then some (winWord (s.sec.meas.at (s.rdF 0 Reg.SEC_MEAS_SEL 4 0)) (off - 0x240))
  else none

/-- PSQ (R554). -/
def State.psqView (s : State) (off : Nat) : Option Word :=
  match off with
  | 0x104 => some s.psqStatus
  | 0x124 => some (lo32 (s.psq.temps.at (s.rdN 0 Reg.PSQ_SNS_SEL) % 4096))
  | 0x12C => some (lo32 (s.domStat (s.rdN 0 Reg.PSQ_DOM_SEL)))
  | 0x13C => some (s.accountThrot.rd 0 Reg.PSQ_THROT_US_CNT)
  | _ => none

/-- CLK (R556). -/
def State.clkView (s : State) (off : Nat) : Option Word :=
  match off with
  | 0x100 => some s.clkStatus
  | 0x108 => some (s.clkDomStat (s.rdN 0 Reg.CLK_DOM_SEL))
  | _ => none

/-- RAS (R582). -/
def State.rasView (s : State) (off : Nat) : Option Word :=
  let c := s.rdF 0 Reg.RAS_CH_SEL 3 0
  match off with
  | 0x104 => some s.rasStatus
  | 0x10C => some (s.rasChState c)
  | 0x110 => some (lo32 (s.rasCh c).faultDay)
  | 0x114 => some (hi32 (s.rasCh c).faultDay)
  | 0x118 => some s.quarMask
  | _ => none

/-- The 48 bytes of a counter set (R573, R584). -/
def CntSet.bytes (x : CntSet) : List Byte :=
  leBytes 8 x.cmds ++ leBytes 8 x.engineNs ++ leBytes 8 x.dramRd ++ leBytes 8 x.dramWr ++ leBytes 8 x.stallNs ++ leBytes 8 x.waitNs

/-- The 48 bytes of a watch point's results (R576, R577, R584): MIN reads +Inf and MAX −Inf while no finite value was seen, and
DIGEST is the CRC so far, inverted. -/
def WatchRes.bytes (r : WatchRes) : List Byte :=
  leBytes 4 r.hits ++ leBytes 4 r.nonfinite ++ leBytes 4 (r.min.getD 0x7F800000).toNat ++ leBytes 4 (r.max.getD 0xFF800000).toNat ++
    leBytes 8 r.sum.toNat ++ leBytes 8 r.sumSq.toNat ++ leBytes 8 (~~~(r.digest.getD (BitVec.allOnes 64))).toNat ++ leBytes 8 r.values

/-- DBG (R584): the set, the watch point and the snapshot entry that are selected. -/
def State.dbgView (s : State) (off : Nat) : Option Word :=
  let c := s.rdF 0 Reg.DBG_CH_SEL 3 0
  let set := s.selOf dbgPage 0x200
  let wp := s.dbg.wps.at (s.selOf dbgPage 0x260)
  if off = 0x124 then some (setBit (s.rd 0 Reg.DBG_WP_CTRL (s.selOf dbgPage 0x124)) 2 wp.armed)
  else if off = 0x12C then some (s.snapStat c)
  else if off < 0x200 then none
  else if off < 0x230 then some (winWord (s.dbg.sets.at set).bytes (off - 0x200))
  else if off < 0x260 then some (winWord (s.dbg.snaps.at set).bytes (off - 0x230))
  else if off < 0x290 then some (winWord wp.bytes (off - 0x260))
  else some (match (s.dbg.snapshot.at c)[s.rdF 0 Reg.DBG_SNAP_SEL 13 0]? with
    | some e => winWord e.bytes (off - 0x290)
    | none => 0)

/-- SPR (R586). -/
def State.sprView (s : State) (off : Nat) : Option Word :=
  match off with
  | 0x104 => some (s.sprCol (s.rdF 0 Reg.SPR_CH_SEL 3 0))
  | 0x108 => some s.sprCore
  | 0x110 =>
    let o := s.spr.offers.at (s.rdF 0 Reg.SPR_OFFER_SEL 7 0)
    some (lo32 (b2n o.pending + 2 * b2n o.isCore + fieldAt 4 4 o.unit + fieldAt 8 8 o.item))
  | _ => none

/-- ZRB_STATUS (R278): BUSY while a region initialises; every lane is free between the commands. -/
def State.zrbStatus (s : State) (c : Nat) : Word := BitVec.ofNat 32 (2 ^ 15 * b2n (s.hasWork (zrbPage c)))

/-- The registers of a page that show the state of the block itself; none for a stored register. -/
def State.blockView (s : State) (p : Page) (off : Nat) : Option Word :=
  match p.blk with
  | .tim => s.timView off
  | .pln => if off = 0x104 then some s.plnStatus else none
  | .rqt => s.rqtView p.idx off
  | .adm => if off = 0x12C then some (s.admPending p.idx) else none
  | .atn => s.atnView p.idx off
  | .pgm => if off = 0x104 then some (s.pgmStatus p.idx) else none
  | .dmv => if off = 0x104 then some (s.dmvStatus p.idx) else none
  | .skt => none
  | .vse => s.vseView p.idx off
  | .zrb => if off = 0x104 then some (s.zrbStatus p.idx) else none
  | .smp => s.smpView p.idx off
  | .jsc => s.jscView p.idx off
  | .atu => if off = 0x104 then some (s.atuStatus p.idx) else none
  | .kwp => s.kwpView p.idx off
  | .trc => s.trcView p.idx off
  | .slp => s.slpView p.idx off
  | .nmo => if off = 0x104 then some (s.nmoStatus p.idx) else none
  | .ccx => s.ccxView p.idx off
  | .cxh => if off = 0x104 then some (s.cxhStatus p.idx) else none
  | .cmp => s.cmpView off
  | .mbx => if off = 0x12C then some (s.pendNext (s.rdN 0 Reg.MBX_PEND_CORE)) else none
  | .sec => s.secView off
  | .boot => s.bootView off
  | .psq => s.psqView off
  | .clk => s.clkView off
  | .ras => s.rasView off
  | .dbg => s.dbgView off
  | .spr => s.sprView off

/-! ### The read -/

/-- A register of the shadow bank (R524). -/
def State.rdShadow (s : State) (p : Page) (off : Nat) : Word := SMap.get regReset s.shadow (regKey p.blk p.idx off 0)

/-- A block-specific register (R5, R592): a reserved offset and a WO register read as zero; a banked register reads from the bank
that BLK_BANK_SEL names. -/
def State.blockReg (s : State) (p : Page) (off : Nat) : Word :=
  match findRow p.blk off with
  | none => 0
  | some r =>
    if r.acc = .wo then 0
    else match s.blockView p off with
      | some v => v
      | none => if r.banked && s.shadowSel p then s.rdShadow p off else s.rdAt p off (s.selOf p off)

/-- A word of the privileged counter window (R595). -/
def State.counterWord (s : State) (p : Page) (k : Nat) : Word :=
  match (counterOffs p.blk)[k]? with
  | some o => s.blockReg p o
  | none => 0

/-- A register of a page, for a reader with every right to it. RESET_BLOCK and BLK_EVT_SET are WO and read as zero. -/
def State.pageReg (s : State) (p : Page) (off : Nat) : Word :=
  if 0x100 ≤ off then s.blockReg p off
  else if 0x080 ≤ off then s.counterWord p ((off - 0x080) / 4)
  else if off = 0x000 then blkId p
  else if off = 0x004 then blkCap p.blk
  else if off = 0x008 then s.rdAt p 0x008 &&& 0xB#32
  else if off = 0x00C then s.blkStat p
  else if off = 0x018 then 0
  else if off < 0x048 then s.rdAt p off
  else 0

/-- The snapshot windows and the counter registers, which an LD without PRIV reads as zero (R593). -/
def hiddenFromJobs (b : Blk) (off : Nat) : Bool :=
  (decide (0x080 ≤ off) && decide (off < 0x100)) || ((findRow b off).any fun r => r.cnt) ||
    (decide (0x200 ≤ off) && (b == .rqt || b == .vse || b == .smp || b == .jsc || b == .kwp || b == .cmp))

/-- What a read of a word of a page answers a requester (R5, R593): zero from a page that it does not reach, and from the
counters and the snapshot windows without PRIV. -/
def State.regRead (s : State) (rq : Requester) (p : Page) (off : Nat) : Word :=
  match s.gate rq p with
  | .ignore => 0
  | .pass => s.pageReg p (off / 4 * 4)
  | .ignoreLog => if hiddenFromJobs p.blk off then 0 else s.pageReg p (off / 4 * 4)

/-- What a read at a BAR0 offset answers (R588, R590): zero where no page lies; none, an unsupported request, where the function is
not enabled (R467). -/
def State.bar0Read (s : State) (rq : Requester) (off : Nat) : Option Word :=
  if (s.ldOff rq).isSome then none
  else some (match pageAt off with
    | some p => s.regRead rq p (off % 0x1000)
    | none => 0)

end Sys2Proof.Machine
end

