-- ==== Sys2Proof/WellFormed.lean ====
section
/-! DEFINITION. Which commands the tables of the spec can spell: channels 0 to 15, jobs 0 to 1,023, LDs 0 to 31, pages that
R589 and R590 lay out, fields that fit their widths. The meanings are total: `exec` answers for every command, well formed or
not (log entry 41); the checks say what a sender can send. -/
namespace Sys2Proof

/-- A page of BAR0: a channel number for a per-channel block, a port for CXH, and 0 otherwise (R589, R590). -/
def Page.wf (p : Page) : Bool :=
  if p.blk.perChannel then decide (p.idx < 16) else if p.blk == .cxh then decide (p.idx < 2) else p.idx == 0

/-- A requester: LDs are numbered 0 to 31 (R467). -/
def Requester.wf : Requester → Bool
  | .core => true
  | .ld n => decide (n < 32)
  | .mgmt => true
  | .fm => true

/-- A command: each header field fits its width, and the payload its units (R306). -/
def Cmd.wf (c : Cmd) : Bool :=
  decide (c.op < 4096) && decide (c.sizeM1 < 4) && decide (c.job < 1024) && decide (c.layer < 4096) &&
    decide (c.waitTok < 256) && decide (c.signalTok < 256) && decide (c.waitValue < 2 ^ 32) && decide (c.tag < 2 ^ 64) &&
    decide (c.payload.length ≤ 64 * (c.sizeM1 + 1) - 32) && decide (c.queue < 1024)

/-- A fuse bank: each field fits its width (R516). -/
def Fuses.wf (f : Fuses) : Bool :=
  decide (f.options < 2 ^ 32) && decide (f.chanMask < 2 ^ 16) && f.idSeed.length == 32 && f.keyHash0.length == 32 &&
    f.keyHash1.length == 32 && f.keyHash2.length == 32 && f.keyHash3.length == 32 && decide (f.keyRevoke < 16) &&
    decide (f.svn ≤ 64)

/-- A page that a source lists: its layer, index, HELD and tier (R185, R187). -/
def MovePage.wf (x : MovePage) : Bool :=
  decide (x.layer < 4096) && decide (x.page < 65536) && decide (x.held ≤ 16) && decide (x.tier < 8) && decide (x.addr < 2 ^ 48) &&
    decide (x.side < 2 ^ 48)

/-- What a source returns for MOVE_OPEN (R86). -/
def MoveReply.wf (m : MoveReply) : Bool := decide (m.curLen < 2 ^ 32) && m.pages.all MovePage.wf

/-- A received packet: its connections, PSN and sub-port fit their fields (R344). -/
def KPkt.wf (k : KPkt) : Bool :=
  decide (k.peer.sub < 2) && decide (k.dstConn < 2 ^ 18) && decide (k.srcConn < 2 ^ 18) && decide (k.psn < 2 ^ 32) &&
    decide (k.pay.length ≤ 4096)

/-- An extent that is offered: its bases fit the state address space and the device physical address (R470, R471). -/
def DcExtent.wf (x : DcExtent) : Bool :=
  decide (x.region < 8) && decide (x.stateBase < 2 ^ 48) && decide (x.dpaBase < 2 ^ 48) && decide (x.length < 2 ^ 48)

/-- A channel-fatal fault: the channel, and a source code of one byte (R558). -/
def ChFault.wf (x : ChFault) : Bool :=
  decide (x.ch < 16) && decide (x.source < 256) && (x.kwpUnit == 0 || x.kwpUnit == 1 || x.kwpUnit == 3) && decide (x.conn < 2 ^ 18)

/-- Whether a command is well formed: every operand lies in the range that the spec gives it. -/
def Instr.wf : Instr → Bool
  | .registerWrite rq p off _ => rq.wf && p.wf && decide (off < 4096)
  | .lock rq p => rq.wf && p.wf
  | .resetBlock rq p _ => rq.wf && p.wf
  | .quiesce rq p _ => rq.wf && p.wf
  | .blockEnable rq p _ => rq.wf && p.wf
  | .blockInitDone p => p.wf
  | .blockQuiesced p => p.wf
  | .blkEvtClear rq p _ _ => rq.wf && p.wf
  | .blkEvtSet rq p _ => rq.wf && p.wf
  | .errLogClear rq p _ _ => rq.wf && p.wf
  | .todNsRead rq => rq.wf
  | .cadPhaseRead rq => rq.wf
  | .ppsInNsRead rq => rq.wf
  | .todSet rq _ => rq.wf
  | .todStep rq => rq.wf
  | .servoOffset rq _ => rq.wf
  | .lossTimeout => true
  | .holdoverTimeout => true
  | .timeDegraded => true
  | .ppsInEdge => true
  | .ppsOutPulse => true
  | .ppsPulseEnd => true
  | .ppsMissing => true
  | .cadRunSet rq => rq.wf
  | .cadRunClear rq => rq.wf
  | .cadenceStart => true
  | .dayBoundary => true
  | .realignEnd => true
  | .noonStart => true
  | .duskStart => true
  | .midnightStart => true
  | .guardStart => true
  | .planLoad rq _ => rq.wf
  | .planDiscard rq => rq.wf
  | .planLoadDone => true
  | .planRetire => true
  | .admitReq c cmd => decide (c < 16) && cmd.wf
  | .cancel c cmd => decide (c < 16) && cmd.wf
  | .accept c cmd => decide (c < 16) && cmd.wf
  | .park c cmd => decide (c < 16) && cmd.wf
  | .resume c cmd => decide (c < 16) && cmd.wf
  | .moveAbort c cmd => decide (c < 16) && cmd.wf
  | .query c cmd => decide (c < 16) && cmd.wf
  | .rqtEntryRead rq c => rq.wf && decide (c < 16)
  | .moveOpen c slot gen node peer => decide (c < 16) && decide (slot < 4096) && decide (gen < 65536) && decide (node < 65536) && decide (peer < 65536)
  | .pageTableReturn c slot gen m => decide (c < 16) && decide (slot < 4096) && decide (gen < 65536) && m.wf
  | .homeSwitchNotice c slot gen layer page => decide (c < 16) && decide (slot < 4096) && decide (gen < 65536) && decide (layer < 4096) && decide (page < 65536)
  | .moveClose c slot gen => decide (c < 16) && decide (slot < 4096) && decide (gen < 65536)
  | .stepCommit c slot => decide (c < 16) && decide (slot < 4096)
  | .qk c cmd => decide (c < 16) && cmd.wf
  | .softmax c cmd => decide (c < 16) && cmd.wf
  | .pv c cmd => decide (c < 16) && cmd.wf
  | .fused c cmd => decide (c < 16) && cmd.wf
  | .partialSweep c cmd => decide (c < 16) && cmd.wf
  | .stateUpdate c cmd => decide (c < 16) && cmd.wf
  | .cross c cmd => decide (c < 16) && cmd.wf
  | .tileEnd c bad => decide (c < 16) && (bad.all fun m => decide (m < 256))
  | .queryRecord c r => decide (c < 16) && decide (r < 256)
  | .partialRecord c r => decide (c < 16) && decide (r < 256)
  | .logitsRecord c r => decide (c < 16) && decide (r < 256)
  | .samplerRowDone c => decide (c < 16)
  | .smpCfgSet c cmd => decide (c < 16) && cmd.wf
  | .smpCfgRelease c cmd => decide (c < 16) && cmd.wf
  | .beamBind c cmd => decide (c < 16) && cmd.wf
  | .dbCqTail rq c j size _ => rq.wf && decide (c < 16) && decide (j < 1024) && (size == 4 || size == 8)
  | .dbCplHead rq c j size _ => rq.wf && decide (c < 16) && decide (j < 1024) && (size == 4 || size == 8)
  | .dbXrPtr rq c j size _ => rq.wf && decide (c < 16) && decide (j < 1024) && (size == 4 || size == 8)
  | .dbCrHead rq c j size _ => rq.wf && decide (c < 16) && decide (j < 1024) && (size == 4 || size == 8)
  | .dbEvqHead rq c j size _ => rq.wf && decide (c < 16) && decide (j < 1024) && (size == 4 || size == 8)
  | .dbSqTail rq c j size _ => rq.wf && decide (c < 16) && decide (j < 1024) && (size == 4 || size == 8)
  | .dbRxqHead rq c j size _ => rq.wf && decide (c < 16) && decide (j < 1024) && (size == 4 || size == 8)
  | .dbPevqHead rq c size _ => rq.wf && decide (c < 16) && (size == 4 || size == 8)
  | .dbFqHead rq c size _ => rq.wf && decide (c < 16) && (size == 4 || size == 8)
  | .dbSmpHead rq c size _ => rq.wf && decide (c < 16) && (size == 4 || size == 8)
  | .prefixAlloc c cmd => decide (c < 16) && cmd.wf
  | .prefixFree c cmd => decide (c < 16) && cmd.wf
  | .prefixQuery c cmd => decide (c < 16) && cmd.wf
  | .copy c cmd => decide (c < 16) && cmd.wf
  | .convert c cmd => decide (c < 16) && cmd.wf
  | .dmvChunkDone c => decide (c < 16)
  | .pageMoveDone c id => decide (c < 16) && decide (id < 64)
  | .pageMoveFailed c id => decide (c < 16) && decide (id < 64)
  | .drainRelease c a => decide (c < 16) && decide (a < 281474976710656)
  | .vseStoreSet c cmd => decide (c < 16) && cmd.wf
  | .vseInsert c cmd => decide (c < 16) && cmd.wf
  | .vseDelete c cmd => decide (c < 16) && cmd.wf
  | .vseSearch c cmd => decide (c < 16) && cmd.wf
  | .scanGroupEnd c e => decide (c < 16) && decide (e < 5)
  | .vseRepairPop rq c _ => rq.wf && decide (c < 16)
  | .rerankEnWrite rq c _ => rq.wf && decide (c < 16)
  | .regionEnable rq c _ => rq.wf && decide (c < 16)
  | .regionReady c r => decide (c < 16) && decide (r < 16)
  | .wrWaitExpiry c a bytes => decide (c < 16) && decide (a < 281474976710656) && decide (0 < bytes.length) && decide (a % 512 + bytes.length ≤ 512)
  | .jscDispatch c => decide (c < 16)
  | .engineStart c e => decide (c < 16) && decide (e < 5)
  | .deficitUpdate c => decide (c < 16)
  | .barrier c q => decide (c < 16) && decide (q < 1024)
  | .tokenSet c cmd => decide (c < 16) && cmd.wf
  | .counterRead c cmd => decide (c < 16) && cmd.wf
  | .tokenAssign rq c _ => rq.wf && decide (c < 16)
  | .jobContextWrite rq c off _ => rq.wf && decide (c < 16) && decide (off < 256)
  | .kill rq c _ => rq.wf && decide (c < 16)
  | .clear rq c => rq.wf && decide (c < 16)
  | .jobTeardown c j => decide (c < 16) && decide (j < 1024)
  | .faultRetry rq c id => rq.wf && decide (c < 16) && decide (id < 64)
  | .faultFail rq c id => rq.wf && decide (c < 16) && decide (id < 64)
  | .faultTimeout c id => decide (c < 16) && decide (id < 64)
  | .tlbInvalidate rq c _ => rq.wf && decide (c < 16)
  | .invalidateDone c => decide (c < 16)
  | .ethernetFrame c _ => decide (c < 16)
  | .ptpMessage c _ _ => decide (c < 16)
  | .write c pkt => decide (c < 16) && pkt.wf
  | .readReq c pkt => decide (c < 16) && pkt.wf
  | .readResp c pkt => decide (c < 16) && pkt.wf
  | .flush c pkt => decide (c < 16) && pkt.wf
  | .flushResp c pkt => decide (c < 16) && pkt.wf
  | .atomic c pkt => decide (c < 16) && pkt.wf
  | .atomicResp c pkt => decide (c < 16) && pkt.wf
  | .status c pkt => decide (c < 16) && pkt.wf
  | .ack c pkt => decide (c < 16) && pkt.wf
  | .busy c pkt => decide (c < 16) && pkt.wf
  | .wrWrite c conn => decide (c < 16) && decide (conn < 262144)
  | .wrRead c conn => decide (c < 16) && decide (conn < 262144)
  | .wrFlush c conn => decide (c < 16) && decide (conn < 262144)
  | .wrAtomic c conn => decide (c < 16) && decide (conn < 262144)
  | .winOpen c conn => decide (c < 16) && decide (conn < 262144)
  | .winOpenGapEnd c conn => decide (c < 16) && decide (conn < 262144)
  | .winRevoke c conn => decide (c < 16) && decide (conn < 262144)
  | .connSet rq c _ => rq.wf && decide (c < 16)
  | .connReset rq c _ => rq.wf && decide (c < 16)
  | .connDestroy rq c => rq.wf && decide (c < 16)
  | .connSnap rq c => rq.wf && decide (c < 16)
  | .ctxFetchDone c conn _ => decide (c < 16) && decide (conn < 262144)
  | .rtoExpiry c conn => decide (c < 16) && decide (conn < 262144)
  | .ackDelayExpiry c conn => decide (c < 16) && decide (conn < 262144)
  | .busyBackoffEnd c conn => decide (c < 16) && decide (conn < 262144)
  | .rateAdjust c conn => decide (c < 16) && decide (conn < 262144)
  | .linkChange c sub cause => decide (c < 16) && decide (sub < 2) && decide (cause < 4)
  | .fecInterval c sub corr => decide (c < 16) && decide (sub < 2) && decide (corr < 4294967296)
  | .wheelSlotDue c => decide (c < 16)
  | .coarseSlotDue c => decide (c < 16)
  | .egressTransmit c sub => decide (c < 16) && decide (sub < 2)
  | .shaperRateWrite rq c _ => rq.wf && decide (c < 16)
  | .shaperConfigWrite rq c _ _ => rq.wf && decide (c < 16)
  | .policerConfigWrite rq c off _ => rq.wf && decide (c < 16) && decide (off < 4096)
  | .sampleInstant c => decide (c < 16)
  | .solrovModeEnter rq c _ => rq.wf && decide (c < 16)
  | .flit c bytes => decide (c < 16) && (bytes.length == 256)
  | .replayReq c bytes => decide (c < 16) && (bytes.length == 256)
  | .solrovLink c _ => decide (c < 16)
  | .load c => decide (c < 16)
  | .store c => decide (c < 16)
  | .rackAtomic c => decide (c < 16)
  | .nmo c => decide (c < 16)
  | .nmoStart c => decide (c < 16)
  | .nmoDone c k => decide (c < 16) && decide (k < 8)
  | .msg c => decide (c < 16)
  | .devMsg c => decide (c < 16)
  | .loadRsp c => decide (c < 16)
  | .storeAck c => decide (c < 16)
  | .atomicRsp c => decide (c < 16)
  | .nmoRsp c => decide (c < 16)
  | .nak c => decide (c < 16)
  | .msgAck c => decide (c < 16)
  | .orderedStoreSend c => decide (c < 16)
  | .solrovStore c cmd => decide (c < 16) && cmd.wf
  | .solrovAtomic c cmd => decide (c < 16) && cmd.wf
  | .solrovNmo c cmd => decide (c < 16) && cmd.wf
  | .solrovMsg c cmd => decide (c < 16) && cmd.wf
  | .solrovStall c slot => decide (c < 16) && decide (slot < 128)
  | .abandon rq c slot _ => rq.wf && decide (c < 16) && decide (slot < 128)
  | .slpRevive rq c slot _ => rq.wf && decide (c < 16) && decide (slot < 128)
  | .ccxJoin rq c => rq.wf && decide (c < 16)
  | .ccxLeave rq c => rq.wf && decide (c < 16)
  | .ccxRevive rq c m => rq.wf && decide (c < 16) && decide (m < 8)
  | .cohFlush c cmd => decide (c < 16) && cmd.wf
  | .rdS c => decide (c < 16)
  | .rdX c => decide (c < 16)
  | .upg c => decide (c < 16)
  | .wb c => decide (c < 16)
  | .evc c => decide (c < 16)
  | .clean c => decide (c < 16)
  | .srsp c => decide (c < 16)
  | .cmp c => decide (c < 16)
  | .snpS c => decide (c < 16)
  | .snpX c => decide (c < 16)
  | .snpInv c => decide (c < 16)
  | .gnt c => decide (c < 16)
  | .retry c => decide (c < 16)
  | .evAck c => decide (c < 16)
  | .mrd c => decide (c < 16)
  | .mwr c => decide (c < 16)
  | .psn c => decide (c < 16)
  | .mwrAck c => decide (c < 16)
  | .psnAck c => decide (c < 16)
  | .data c => decide (c < 16)
  | .cohBackoffEnd c => decide (c < 16)
  | .hbSend c => decide (c < 16)
  | .hb c => decide (c < 16)
  | .hbEcho c => decide (c < 16)
  | .memberDead c m => decide (c < 16) && decide (m < 8)
  | .domainLost c => decide (c < 16)
  | .join c => decide (c < 16)
  | .joinAck c => decide (c < 16)
  | .deadNote c => decide (c < 16)
  | .bindChannel ld mask => decide (ld < 32) && decide (mask < 65536)
  | .unbindChannel ld mask => decide (ld < 32) && decide (mask < 65536)
  | .initiateDynamicCapacityAdd ld extents => decide (ld < 32) && extents.all DcExtent.wf
  | .addDynamicCapacityResponse ld _ => decide (ld < 32)
  | .initiateDynamicCapacityRelease ld dpas _ => decide (ld < 32) && (dpas.all fun a => decide (a < 281474976710656))
  | .releaseDynamicCapacity ld dpas => decide (ld < 32) && (dpas.all fun a => decide (a < 281474976710656))
  | .compositionEpochRetire => true
  | .cxlMemRead ld dpa want => decide (ld < 32) && decide (dpa < 281474976710656) && decide (want < 3)
  | .cxlMemWrite ld dpa bytes => decide (ld < 32) && decide (dpa < 281474976710656) && (bytes.length == 64)
  | .birsp ld line keeps => decide (ld < 32) && decide (line < 2 ^ 34) && decide (keeps < 3)
  | .biTimeout ld => decide (ld < 32)
  | .ldReset ld => decide (ld < 32)
  | .hostPortFault port _ => decide (port < 2)
  | .publish c cmd => decide (c < 16) && cmd.wf
  | .shareSet c cmd => decide (c < 16) && cmd.wf
  | .shareQuery c cmd => decide (c < 16) && cmd.wf
  | .configurationRequest ld _ => decide (ld < 32)
  | .doeDiscovery ld index => decide (ld < 32) && decide (index < 256)
  | .cdatRead ld => decide (ld < 32)
  | .ideKm ld session _ _ => decide (ld < 32) && decide (session < 65536)
  | .getVersion t => decide (t < 3)
  | .getCapabilities t version => decide (t < 3) && decide (version < 256)
  | .negotiateAlgorithms t offers => decide (t < 3) && (offers.length == 4)
  | .getDigests t slot => decide (t < 3) && decide (slot < 256)
  | .getCertificate t slot off len => decide (t < 3) && decide (slot < 256) && decide (off < 65536) && decide (len < 65536)
  | .challenge t slot => decide (t < 3) && decide (slot < 256)
  | .getMeasurements t index _ => decide (t < 3) && decide (index < 256)
  | .keyExchange t slot reqId => decide (t < 3) && decide (slot < 256) && decide (reqId < 65536)
  | .finish t session => decide (t < 3) && decide (session < 65536)
  | .endSession t session => decide (t < 3) && decide (session < 65536)
  | .keyUpdate t session => decide (t < 3) && decide (session < 65536)
  | .mbDataWrite rq box off _ => rq.wf && decide (box < 1088) && decide (off < 128)
  | .mbGo rq box pasid => rq.wf && decide (box < 1088) && (pasid.all fun n => decide (n < 1048576))
  | .mbxRxSeqRead rq => rq.wf
  | .empty rq => rq.wf
  | .clrCollision rq => rq.wf
  | .mbxRxAck rq _ => rq.wf
  | .mbxRouteWrite rq _ => rq.wf
  | .powerGood _ => true
  | .powerLoss => true
  | .fusesLoaded f _ => f.wf
  | .loadBootImage off _ => decide (off < 4294967296)
  | .bootImageDone => true
  | .bootImageTimeout => true
  | .imageReceived _ => true
  | .loadPhaseDone => true
  | .trainingDone failed => (failed.all fun c => decide (c < 16))
  | .warmReset rq => rq.wf
  | .modReset => true
  | .bootRetry rq _ => rq.wf
  | .swapNow rq => rq.wf
  | .fwUpdate rq core standin => rq.wf && decide (core < 22) && decide (standin < 22)
  | .updateDrained core => decide (core < 22)
  | .updateImageRead core _ => decide (core < 22)
  | .fwSelfTestDone core => decide (core < 22)
  | .chOut rq c => rq.wf && decide (c < 16)
  | .retrain rq c => rq.wf && decide (c < 16)
  | .retrainDone c _ => decide (c < 16)
  | .chIn rq c => rq.wf && decide (c < 16)
  | .norRead rq => rq.wf
  | .norProgram rq => rq.wf
  | .norErase rq => rq.wf
  | .svnBurn rq v => rq.wf && decide (v < 65)
  | .keyRevoke rq slots => rq.wf && decide (slots < 16)
  | .tokenTick => true
  | .domainRampDone d => decide (d < 70)
  | .arrayIdleExpiry c => decide (c < 16)
  | .coreWaitForInterrupt core => decide (core < 22)
  | .sensorSample temps mw mv ma => (temps.length == 36) && decide (mw < 4294967296) && decide (mv < 65536) && decide (ma < 4294967296)
  | .powerAverage => true
  | .throttleStepDown => true
  | .throtForceWrite rq _ => rq.wf
  | .thermtrip => true
  | .vinWarn mv => decide (mv < 65536)
  | .vinFault mv => decide (mv < 65536)
  | .refLost ref => decide (ref < 7)
  | .refRestored ref => decide (ref < 7)
  | .pllUnlock dom => decide (dom < 104)
  | .pllRelock dom => decide (dom < 104)
  | .correctedError p source addr detail => p.wf && decide (source < 256) && decide (addr < 18446744073709551616) && decide (detail < 18446744073709551616)
  | .channelFatalFault faults => faults.all ChFault.wf
  | .deviceFatalFault p source addr detail => p.wf && decide (source < 256) && decide (addr < 18446744073709551616) && decide (detail < 18446744073709551616)
  | .coreFault core => decide (core < 22)
  | .spareCommit rq id => rq.wf && decide (id < 256)
  | .spareDecline rq id => rq.wf && decide (id < 256)
  | .rasInject rq _ => rq.wf
  | .snap rq => rq.wf
  | .arm rq _ => rq.wf
  | .dbgMemRead rq => rq.wf
  | .channelCheckDone c _ => decide (c < 16)
  | .linkUp port speed width => decide (port < 2) && decide (speed < 4) && (width == 8 || width == 16)
  | .controlCoreAccess c core job addr n _ _ => decide (c < 16) && decide (core < 22) && decide (job < 1024) && decide (addr < 281474976710656) && decide (n < 65536)

end Sys2Proof
end

