-- ==== Sys2Proof/Tests/Slice0.lean ====
section
/-! SUPPORT. Tests: ill-formed commands that WellFormed refuses, worked examples of the spec, and for every statement with hypotheses a
state and operands that meet them. Each is about one state or one step. -/
open Sys2Proof.Machine

namespace Sys2Proof.Tests
set_option maxRecDepth 20000
set_option Elab.async false

/-- A decode bin: BIN_ID 1, job 3, lengths 0 to 1,048,575, CAPACITY 8, STRIDE 1 (R72). -/
def demoBin : List Byte := [1, 0, 3, 0, 0, 0, 0, 0, 0xFF, 0xFF, 0x0F, 0, 8, 0, 1, 0]

/-- A FUSED descriptor of bin 1, layer 0: one head, dimensions of 16, MASK 0, alpha 1.0 (R144). -/
def demoDesc : List Byte := padTo 128 ([4, 0, 1, 0, 0, 0, 0, 0, 16, 0, 16, 0] ++ List.replicate 8 0 ++ [0, 0, 0x80, 0x3F])

/-- A plan on channel 2 with that bin and that descriptor (R44, R145). -/
def demoPlan : Plan :=
  { Plan.dflt with sections := [⟨1, 2, demoBin⟩, ⟨2, 2, leBytes 4 1 ++ leBytes 8 (1 + 2 ^ 16) ++ demoDesc⟩] }

/-- Channel 2 in Noon of a running day under that plan, with request slot 5 of job 3 DECODING in the bin. -/
def demoNoon : State :=
  ((State.reset.setPln fun p => { p with active := demoPlan }).setTim fun t => { t with cad := .running, win := .noon, day := 4 }).updReq 2
    5 fun e => { e with st := .decoding, gen := 9, job := 3, bin := 1, curLen := 17, promptLen := 16, layers := 1, maxNew := 8 }

/-- A command of job 3 that carries that descriptor. -/
def demoSweep (op : Nat) : Cmd := { (default : Cmd) with op := op, job := 3, payload := demoDesc }

/-- A state in which a command holds the CONTROL engine of channel 2. -/
def demoHeld (k : Cmd) (s : State) : State := s.setEngine 2 0 { (default : Engine) with holder := some k }

/-- A state with the blocks of channel 2 RUNNING. -/
def demoReady (s : State) : State :=
  ([.jsc, .rqt, .adm, .pgm, .atn, .dmv, .vse, .smp, .slp, .ccx, .kwp, .nmo, .trc] : List Blk).foldl
    (fun s b => s.updBlk ⟨b, 2⟩ fun x => { x with st := .running }) s

/-- Every vector store of channel 2 is an IVF_PQ store of job 3, and the channel's array is powered down. -/
def demoStores : State :=
  ((List.range 64).foldl (fun s n => s.setStore 2 n { isSet := true, job := 3, desc := padTo 64 [], groups := [] }) State.reset).setDom 2
    .off

/-- A record of an IN ring for slot 5 of channel 2 on day 4: type, layer, NTOK, length, as R161 lays them out. -/
def demoRecord (type layer ntok len : Nat) : List Byte :=
  padTo len (leBytes 4 (type + 9 * 2 ^ 16) ++ leBytes 4 (0x2005 + layer * 2 ^ 16) ++ leBytes 8 4 ++ leBytes 4 16 ++ leBytes 4 ntok ++
    leBytes 4 len)

/-- The same channel with ring 6 an enabled IN ring of job 3 of 4,096 bytes at a T2 address, one record between HEAD and TAIL. -/
def demoRing (r : List Byte) : State :=
  ((((demoNoon.wr 2 Reg.ATN_XR_CFG (lo32 (1 + 4 * 12 + 3 * 2 ^ 16)) 6).wr64 2 Reg.ATN_XR_BASE_LO 0x100000000000 6).wr 2 Reg.ATN_XR_TAIL
    (lo32 r.length) 6).mwrite 0x100000000000 r)

/-- The device in service with LD 0 enabled and privileged, holding channel 2, and job 3 bound to it. -/
def demoHost : State :=
  { ((((State.reset.wr 0 Reg.CXH_LD_CFG 3 0).wr 0 Reg.CXH_LD_CHAN 4 0).wr 0 Reg.CMP_JOB_LD 0x80000000 3)) with
    boot := { State.reset.boot with phase := .released } }

/-- The same device with JSC of channel 2 RUNNING, job 3 enabled there, and a BARRIER of job 3 in its queue 5. -/
def demoQueue : State :=
  ((((((demoHost.updBlk (jscPage 2) fun b => { b with st := .running }).wrAt (jscPage 2) 0x200 1 3).wr 2 Reg.JSC_Q_CFG 0x0003000D 5).wr64 2
    Reg.JSC_Q_BASE_LO 0x100000000000 5).wr 2 Reg.JSC_Q_TAIL 1 5).mwrite 0x100000000000 (leBytes 4 0x000300F0))

/-- A section 5 of channel 2: a route to node 7, and the local address 9 (R58). -/
def demoRoutes : List Byte := leBytes 4 1 ++ leBytes 4 1 ++ padTo 48 [7] ++ padTo 16 [9] ++ padTo 16 (leBytes 4 0x20)

/-- Job 3 with one region of 64 KiB on channel 2 that it may read and write, KWP of the channel enabled, those routes active. -/
def demoKwpOn : State :=
  ((((State.reset.setPln fun p => { p with active := { Plan.dflt with sections := [⟨5, 2, demoRoutes⟩] } }).wr 2 Reg.ATU_RGN_CTRL
    0x80070003).wr64 2 Reg.ATU_RGN_BASE_LO 0x100000000000).wr64 2 Reg.ATU_RGN_LIMIT_LO 0x100000010000).wr 2 Reg.KWP_CFG 1

/-- There, connection 5 of job 3 to node 7 active and cached, one work request in its send queue, and window 9 assigned to the job. -/
def demoKweuz : State :=
  (((demoReady demoKwpOn).updConn 2 5 fun v =>
    { v with cstate := 1, job := 3, peerNode := 7, sqBase := 0x100000000000, sqLog2 := 6, sqTail := 1 }).updKwp 2 fun x =>
    { x with cache := x.cache.set 0 6 }).updWin 2 9 fun w => { w with assigned := true, job := 3 }

/-- A message of one type with one tag, from slot 0, in domain 0. -/
def demoMsg (mtype tag : Nat) : SMsg := { (default : SMsg) with mtype := mtype, tag := tag }

/-- Channel 2 as agent, arbiter and member 0 of domain 0, with such a message in its inbox. -/
def demoCoh (mtype tag : Nat) : State :=
  ((State.reset.wr 2 Reg.CCX_CFG 7).wr 2 Reg.CCX_MEMBER_MASK 1).updSlp 2 fun y => { y with inbox := [(0, demoMsg mtype tag)] }

/-- Channel 2 with a Solrov region 1 over the first 4 KiB of its T1, open for every access under key 77, and a message in its inbox. -/
def demoRack (m : SMsg) : State :=
  ((((((demoReady State.reset).wr 2 Reg.SLP_RGN_KEY 77 1).wr 2 Reg.SLP_RGN_CTRL 0x800F0000 1).wr64 2 Reg.SLP_RGN_BASE_LO (t1Base 2) 1).wr64 2
    Reg.SLP_RGN_LIMIT_LO (t1Base 2 + 4096) 1).wr 2 Reg.NMO_CFG 1).updSlp 2 fun y => { y with inbox := [(0, m)] }

/-- A message of one type to the start of that region, with what its data slots carry. -/
def demoAccess (mtype : Nat) (data : List Byte := []) : SMsg :=
  { (default : SMsg) with mtype := mtype, dstCh := 2, addr := rackBase + 2 * 2 ^ 35, w10 := 2049, key := 77, data := data }

/-- Channel 2 as member of a domain, with a coherent region of 64 KiB of rack space that job 3 holds a key for and may reach at job address
4,096. -/
def demoShared : State :=
  ((((((((((((demoReady State.reset).wr 2 Reg.ATU_RGN_CTRL 0x80070003).wr64 2 Reg.ATU_RGN_BASE_LO rackBase).wr64 2 Reg.ATU_RGN_LIMIT_LO
    (rackBase + 0x10000)).wr 2 Reg.CCX_CFG 7).wr 2 Reg.CCX_CRGN_CTRL 0x80000000).wr64 2 Reg.CCX_CRGN_BASE_LO rackBase).wr64 2
    Reg.CCX_CRGN_LIMIT_LO (rackBase + 0x10000)).wr 2 Reg.SLP_RK_CTRL 0x80030000).wr64 2 Reg.SLP_RK_BASE_LO rackBase).wr64 2
    Reg.SLP_RK_LIMIT_LO (rackBase + 0x10000)).wr 2 Reg.ATU_CFG 1).updAtu 2 fun a =>
    { a with tlb := [{ job := 3, page := 1, frame := rackBase / 4096, read := true, write := true }] }


/-! ### WellFormed -/

/-- A fuse bank whose fields fit. -/
def goodFuses : Fuses := ⟨0, 0xFFFF, List.replicate 32 0, List.replicate 32 0, List.replicate 32 0, List.replicate 32 0, List.replicate 32 0, 0, 0⟩

/-- Ill-formed commands are refused: pages of per-channel, port and single blocks, and LD numbers. -/
theorem test_wf_pages_and_requesters :
    ([
      .lock .core ⟨.jsc, 16⟩,
      .lock .core ⟨.cxh, 2⟩,
      .lock .core ⟨.tim, 1⟩,
      .lock (.ld 32) ⟨.tim, 0⟩,
      .registerWrite .core ⟨.tim, 0⟩ 4096 0] : List Instr).all (fun i => !i.wf) = true := by decide +kernel

/-- Ill-formed commands are refused: each header field of a command, and the channel it is queued on. -/
theorem test_wf_command_headers :
    ([
      .copy 16 default,
      .copy 0 { (default : Cmd) with op := 4096 },
      .copy 0 { (default : Cmd) with sizeM1 := 4 },
      .copy 0 { (default : Cmd) with job := 1024 },
      .copy 0 { (default : Cmd) with layer := 4096 },
      .copy 0 { (default : Cmd) with waitTok := 256 },
      .copy 0 { (default : Cmd) with signalTok := 256 },
      .copy 0 { (default : Cmd) with waitValue := 2 ^ 32 },
      .copy 0 { (default : Cmd) with tag := 2 ^ 64 },
      .copy 0 { (default : Cmd) with payload := List.replicate 33 0 },
      .copy 0 { (default : Cmd) with queue := 1024 }] : List Instr).all (fun i => !i.wf) = true := by decide +kernel

/-- Ill-formed commands are refused: each field of a fuse bank. -/
theorem test_wf_fuse_banks :
    ([
      .fusesLoaded { goodFuses with options := 2 ^ 32 } true,
      .fusesLoaded { goodFuses with chanMask := 2 ^ 16 } true,
      .fusesLoaded { goodFuses with idSeed := [] } true,
      .fusesLoaded { goodFuses with keyHash0 := [] } true,
      .fusesLoaded { goodFuses with keyHash1 := [] } true,
      .fusesLoaded { goodFuses with keyHash2 := [] } true,
      .fusesLoaded { goodFuses with keyHash3 := [] } true,
      .fusesLoaded { goodFuses with keyRevoke := 16 } true,
      .fusesLoaded { goodFuses with svn := 65 } true] : List Instr).all (fun i => !i.wf) = true := by decide +kernel

/-- Ill-formed commands are refused: the fields of a move and of the pages it lists. -/
theorem test_wf_moves_between_nodes :
    ([
      .moveOpen 0 4096 0 0 0,
      .moveOpen 0 0 65536 0 0,
      .moveOpen 0 0 0 65536 0,
      .moveOpen 0 0 0 0 65536,
      .homeSwitchNotice 0 0 0 4096 0,
      .homeSwitchNotice 0 0 0 0 65536,
      .pageTableReturn 0 0 0 { (default : MoveReply) with curLen := 2 ^ 32 },
      .pageTableReturn 0 0 0 { (default : MoveReply) with pages := [{ (default : MovePage) with layer := 4096 }] },
      .pageTableReturn 0 0 0 { (default : MoveReply) with pages := [{ (default : MovePage) with page := 65536 }] },
      .pageTableReturn 0 0 0 { (default : MoveReply) with pages := [{ (default : MovePage) with held := 17 }] },
      .pageTableReturn 0 0 0 { (default : MoveReply) with pages := [{ (default : MovePage) with tier := 8 }] },
      .pageTableReturn 0 0 0 { (default : MoveReply) with pages := [{ (default : MovePage) with addr := 2 ^ 48 }] },
      .pageTableReturn 0 0 0 { (default : MoveReply) with pages := [{ (default : MovePage) with side := 2 ^ 48 }] }] : List Instr).all (fun i => !i.wf) = true := by decide +kernel

/-- Ill-formed commands are refused: the fields of a packet, and connection and sub-port numbers. -/
theorem test_wf_packets_and_connections :
    ([
      .write 0 { (default : KPkt) with peer := { (default : KPkt).peer with sub := 2 } },
      .write 0 { (default : KPkt) with dstConn := 2 ^ 18 },
      .write 0 { (default : KPkt) with srcConn := 2 ^ 18 },
      .write 0 { (default : KPkt) with psn := 2 ^ 32 },
      .write 0 { (default : KPkt) with pay := List.replicate 4097 0 },
      .rtoExpiry 0 262144,
      .linkChange 0 2 0,
      .linkChange 0 0 4,
      .fecInterval 0 0 4294967296,
      .egressTransmit 0 2,
      .policerConfigWrite .core 0 4096 0] : List Instr).all (fun i => !i.wf) = true := by decide +kernel

/-- Ill-formed commands are refused: LDs, extents, addresses, lines and ports. -/
theorem test_wf_hosts_and_capacity :
    ([
      .initiateDynamicCapacityAdd 0 [{ (default : DcExtent) with region := 8 }],
      .initiateDynamicCapacityAdd 0 [{ (default : DcExtent) with stateBase := 2 ^ 48 }],
      .initiateDynamicCapacityAdd 0 [{ (default : DcExtent) with dpaBase := 2 ^ 48 }],
      .initiateDynamicCapacityAdd 0 [{ (default : DcExtent) with length := 2 ^ 48 }],
      .bindChannel 32 0,
      .bindChannel 0 65536,
      .releaseDynamicCapacity 0 [281474976710656],
      .cxlMemRead 0 281474976710656 0,
      .cxlMemRead 0 0 3,
      .cxlMemWrite 0 0 [],
      .birsp 0 17179869184 0,
      .birsp 0 0 3,
      .hostPortFault 2 default,
      .doeDiscovery 0 256,
      .ideKm 0 65536 default false,
      .linkUp 0 4 8,
      .linkUp 0 0 4] : List Instr).all (fun i => !i.wf) = true := by decide +kernel

/-- Ill-formed commands are refused: ring, slot, engine, queue, move, fault, block and member numbers. -/
theorem test_wf_rings_slots_and_units :
    ([
      .queryRecord 0 256,
      .tileEnd 0 (some 256),
      .stepCommit 0 4096,
      .dbCqTail .core 0 1024 8 0,
      .dbCqTail .core 0 0 2 0,
      .dbFqHead .core 0 2 0,
      .pageMoveDone 0 64,
      .drainRelease 0 281474976710656,
      .scanGroupEnd 0 5,
      .regionReady 0 16,
      .wrWaitExpiry 0 0 [],
      .wrWaitExpiry 0 511 [0, 0],
      .barrier 0 1024,
      .jobContextWrite .core 0 256 0,
      .jobTeardown 0 1024,
      .faultRetry .core 0 64,
      .flit 0 [],
      .nmoDone 0 8,
      .solrovStall 0 128,
      .ccxRevive .core 0 8,
      .memberDead 0 8] : List Instr).all (fun i => !i.wf) = true := by decide +kernel

/-- Ill-formed commands are refused: transports, sessions, indices and mailbox numbers. -/
theorem test_wf_attestation_and_mailboxes :
    ([
      .getVersion 3,
      .getCapabilities 0 256,
      .negotiateAlgorithms 0 [],
      .getDigests 0 256,
      .getCertificate 0 0 65536 0,
      .getCertificate 0 0 0 65536,
      .keyExchange 0 0 65536,
      .finish 0 65536,
      .getMeasurements 0 256 true,
      .mbDataWrite .core 1088 0 0,
      .mbDataWrite .core 0 128 0,
      .mbGo .core 0 (some 1048576)] : List Instr).all (fun i => !i.wf) = true := by decide +kernel

/-- Ill-formed commands are refused: boot, power, clock, fault and debug operands. -/
theorem test_wf_boot_power_and_faults :
    ([
      .loadBootImage 4294967296 [],
      .trainingDone [16],
      .fwUpdate .core 22 0,
      .fwUpdate .core 0 22,
      .svnBurn .core 65,
      .keyRevoke .core 16,
      .domainRampDone 70,
      .sensorSample [] 0 0 0,
      .sensorSample (List.replicate 36 0) 4294967296 0 0,
      .sensorSample (List.replicate 36 0) 0 65536 0,
      .sensorSample (List.replicate 36 0) 0 0 4294967296,
      .vinWarn 65536,
      .refLost 7,
      .pllUnlock 104,
      .correctedError ⟨.tim, 0⟩ 256 0 0,
      .correctedError ⟨.tim, 0⟩ 0 18446744073709551616 0,
      .correctedError ⟨.tim, 0⟩ 0 0 18446744073709551616,
      .channelFatalFault [⟨.jsc, 16, 0, 0, 0, 0, 0, 0⟩],
      .channelFatalFault [⟨.jsc, 0, 256, 0, 0, 0, 0, 0⟩],
      .channelFatalFault [⟨.kwp, 0, 0, 0, 0, 0, 2, 0⟩],
      .channelFatalFault [⟨.kwp, 0, 0, 0, 0, 0, 3, 262144⟩],
      .spareCommit .core 256,
      .controlCoreAccess 0 0 0 0 65536 true []] : List Instr).all (fun i => !i.wf) = true := by decide +kernel

/-! ### Worked examples of the spec -/

/-- R26's worked example: day and PU of an event at ToD 1,700,000,123.456789012 s. -/
theorem test_cadence_of_an_event :
    let s := State.reset.setTim fun t => { t with cad := .running, tod := 1700000123456789012 }
    s.curDay = 85000006172 ∧ s.curPu = 3438 ∧ s.winOfPu s.curPu = .dusk := by
  decide +kernel

/-- R36's worked example: the edge of Noon lies 2,001,954 ns into the day. -/
theorem test_edge_of_noon :
    let s := State.reset.setTim fun t => { t with cad := .running, tod := 2001953 }
    s.winOfPu s.curPu = .dawn ∧ (s.pass 1).winOfPu (s.pass 1).curPu = .noon := by
  decide +kernel

/-- R592's worked example: where the pages of ATN of CH5 and of CXH1 lie. -/
theorem test_pages_of_blocks : Page.bar0 ⟨.atn, 5⟩ = 0x1A05000 ∧ Page.bar0 ⟨.cxh, 1⟩ + 0x104 = 0x121104 := by
  decide


/-! ### States that meet the hypotheses of the statements -/

/-- A state and operands for BlockControlWritesAct. -/
theorem test_block_running_quiesces_or_stays :
    let s := State.reset.updBlk ⟨.jsc, 3⟩ fun b => { b with st := .running }
    s.reaches .core ⟨.jsc, 3⟩ 0x008 = true ∧ (s.blkSt ⟨.jsc, 3⟩).st = .running := by
  decide

/-- A state and operands for BlockControlWritesAct. -/
theorem test_block_draining_goes_back_or_off :
    let s := (State.reset.wrAt ⟨.vse, 3⟩ 0x008 3).updBlk ⟨.vse, 3⟩ fun b => { b with st := .draining, quiesced := true }
    s.reaches .core ⟨.vse, 3⟩ 0x008 = true ∧ (s.blkSt ⟨.vse, 3⟩).st = .draining ∧ (s.blkSt ⟨.vse, 3⟩).quiesced = true ∧
      wbit (s.rdAt ⟨.vse, 3⟩ 0x008) 1 = true ∧ s.hasWork ⟨.vse, 3⟩ = false ∧
      (Blk.vse.perChannel && s.boot.chOut.at 3 == .draining) = false := by
  decide

/-- A state and operands for BlockControlWritesAct. -/
theorem test_block_off_is_enabled :
    State.reset.reaches .core ⟨.jsc, 3⟩ 0x008 = true ∧ (State.reset.blkSt ⟨.jsc, 3⟩).st = .off ∧
      (State.reset.blkSt ⟨.jsc, 3⟩).quiesced = false ∧ wbit (State.reset.rdAt ⟨.jsc, 3⟩ 0x008) 1 = false ∧
      (Blk.jsc.perChannel && State.reset.boot.chOut.at 3 == .draining) = false := by
  decide

/-- A state and operands for BlockControlWritesAct. -/
theorem test_block_init_ends :
    ((State.reset.updBlk ⟨.tim, 0⟩ fun b => { b with st := .init }).blkSt ⟨.tim, 0⟩).st = .init := by
  decide

/-- A state and operands for BlockControlWritesAct. -/
theorem test_event_bits_clear_and_set :
    let s := State.reset.wrAt ⟨.tim, 0⟩ 0x010 0x84
    s.reaches .core ⟨.tim, 0⟩ 0x010 = true ∧ alerts .tim = false ∧ evtsOf .tim 0x80 = [7] ∧
      wbit (s.rdAt ⟨.tim, 0⟩ 0x010) 7 = true ∧ wbit (s.rdAt ⟨.tim, 0⟩ 0x014) 7 = false ∧
      s.reaches .core ⟨.tim, 0⟩ 0x018 = true ∧ s.reaches .core ⟨.tim, 0⟩ 0x020 = true ∧ (5 : Word) ≠ 0 := by
  decide

/-- A state and operands for BlockControlWritesAct. -/
theorem test_alert_event_bits_clear :
    State.reset.reaches .core ⟨.psq, 0⟩ 0x010 = true ∧ alerts .psq = true := by
  decide

/-- A state and operands for BlockControlWritesAct. -/
theorem test_register_write_stores :
    let s := State.reset
    s.reaches .core ⟨.adm, 2⟩ 0x10C = true ∧ (findRow .adm 0x10C).map RegRow.acc = some .rw ∧ s.heldBack ⟨.adm, 2⟩ 0x10C = false ∧
      (ringsOf .adm).length = 0 ∧ (rowWrites .core 2 7 .adm).length = 0 ∧ (s.bootCmd .core ⟨.adm, 2⟩ 0x10C 7).isNone = true := by
  decide

/-- A state and operands for TimeOfDayIsSetSteppedAndLatched. -/
theorem test_time_set_in_every_cadence_state :
    let s := State.reset
    let t := s.setTim fun t => { t with cad := .running }
    s.reachesReg .core 0 Reg.TOD_CTRL = true ∧ s.tim.cad = .stopped ∧ t.reachesReg .core 0 Reg.TOD_CTRL = true ∧
      t.tim.cad = .running ∧ s.canRead .core timPage = true := by
  decide

/-- A state and operands for TimeOfDayIsSetSteppedAndLatched: readers that do not reach TIM. -/
theorem test_time_unseen :
    State.reset.canRead (.ld 0) timPage = false ∧ State.reset.ldOff (.ld 0) = none ∧ demoHost.canRead (.ld 1) timPage = false ∧
      demoHost.ldOff (.ld 1) = some 1 := by
  decide

/-- A state and operands for SynchronisationStatesFollowTheServo. -/
theorem test_servo_locks :
    let s := State.reset.setTim fun t => { t with goodCount := 7 }
    s.reachesReg .core 0 Reg.SERVO_OFFSET_NS = true ∧ (signedOf 32 (100 : Word).toNat).natAbs ≤ s.rdF 0 Reg.LOCK_CFG 15 0 ∧
      s.rdF 0 Reg.LOCK_CFG 23 16 ≤ min 255 (s.tim.goodCount + 1) ∧ s.tim.sync ≠ .locked := by
  decide

/-- A state and operands for SynchronisationStatesFollowTheServo. -/
theorem test_servo_loses_lock :
    let s := State.reset.setTim fun t => { t with sync := .locked }
    s.reachesReg .core 0 Reg.SERVO_OFFSET_NS = true ∧ s.tim.sync = .locked ∧
      8 * s.rdF 0 Reg.LOCK_CFG 15 0 < (signedOf 32 (801 : Word).toNat).natAbs ∧ s.tim.degraded = true ∧
      s.rdF 0 Reg.LOCK_CFG 31 24 ≠ 0 := by
  decide

/-- A state and operands for SynchronisationStatesFollowTheServo. -/
theorem test_lock_holds :
    let s := State.reset.setTim fun t => { t with sync := .locked }
    s.reachesReg .core 0 Reg.SERVO_OFFSET_NS = true ∧ s.tim.sync = .locked ∧
      (signedOf 32 (100 : Word).toNat).natAbs ≤ s.rdF 0 Reg.LOCK_CFG 15 0 ∧ s.rdF 0 Reg.LOCK_CFG 15 0 < (signedOf 32 (800 : Word).toNat).natAbs ∧
      (signedOf 32 (800 : Word).toNat).natAbs ≤ 8 * s.rdF 0 Reg.LOCK_CFG 15 0 ∧ State.reset.tim.sync ≠ .locked ∧
      State.reset.tim.sync ≠ .holdover ∧ State.reset.tim.degraded = true := by
  decide

/-- A state and operands for SynchronisationStatesFollowTheServo. -/
theorem test_holdover_ends :
    (State.reset.setTim fun t => { t with sync := .holdover }).tim.sync = .holdover := by
  decide

/-- A state and operands for SynchronisationStatesFollowTheServo. -/
theorem test_drift_degrades :
    let s := State.reset.setTim fun t => { t with sync := .holdover, degraded := false, lastOffset := 6000, now := 5 }
    s.driftDue = some 0 ∧ s.tim.sync ≠ .locked ∧ s.tim.degraded = false ∧
      let t := s.pass (s.tim.lastReport + 0 - s.tim.now)
      t.driftOver (t.tim.now - t.tim.lastReport) = true := by
  decide

/-- A state and operands for TimingPinsAreStampedAndDriven. -/
theorem test_pins_driven_and_stamped :
    let s := (State.reset.wr 0 Reg.PPS_CFG 0x180064).setTim fun t => { t with ppsPresent := true }
    let u := (State.reset.wr 0 Reg.PPS_CFG 0x300064).setTim fun t => { t with ppsOut := true }
    s.rdB 0 Reg.PPS_CFG 19 = true ∧ s.tim.ppsPresent = true ∧ s.rdB 0 Reg.PPS_CFG 20 = true ∧ s.rdB 0 Reg.PPS_CFG 21 = false ∧
      s.tim.ppsOut = false ∧ u.rdB 0 Reg.PPS_CFG 19 = false ∧ u.tim.ppsOut = true := by
  decide

/-- A state and operands for TimingPinsAreStampedAndDriven. -/
theorem test_day_start_pulse :
    let s := State.reset.wr 0 Reg.PPS_CFG 0x300064
    s.rdB 0 Reg.PPS_CFG 20 = true ∧ s.rdB 0 Reg.PPS_CFG 21 = true ∧ s.tim.ppsOut = false ∧
      (s.setTim fun t => { t with cad := .extended }).tim.cad = .extended := by
  decide

/-- A state and operands for CadenceStartsTurnsAndStops. -/
theorem test_cadence_run_is_set_and_cleared :
    let s := State.reset
    s.reachesReg .core 0 Reg.CAD_CTRL = true ∧ s.tim.cad = .stopped ∧ (s.setTim fun t => { t with cad := .waiting }).tim.cad = .waiting := by
  decide

/-- A state and operands for CadenceStartsTurnsAndStops. -/
theorem test_day_ends_three_ways :
    let s := State.reset.setTim fun t => { t with cad := .running, win := .midnight }
    let r := (State.reset.wr 0 Reg.CAD_CTRL 1).setTim fun t => { t with cad := .running, win := .midnight }
    let m := r.setTim fun t => { t with realign := true }
    s.tim.cad = .running ∧ s.tim.win = .midnight ∧ ((s.passToCad s.dayEndCad).endWindow .midnight).cadRun = false ∧
      r.tim.cad = .running ∧ r.tim.win = .midnight ∧ ((r.passToCad r.dayEndCad).endWindow .midnight).cadRun = true ∧
      ((r.passToCad r.dayEndCad).endWindow .midnight).tim.realign = false ∧
      ((m.passToCad m.dayEndCad).endWindow .midnight).cadRun = true ∧
      ((m.passToCad m.dayEndCad).endWindow .midnight).tim.realign = true := by
  decide

/-- A state and operands for CadenceStartsTurnsAndStops. -/
theorem test_extension_ends_both_ways :
    let s := State.reset.setTim fun t => { t with cad := .extended }
    let r := s.wr 0 Reg.CAD_CTRL 1
    s.tim.cad = .extended ∧ r.tim.cad = .extended ∧
      (s.passToTod s.realignTod).cadRun = false ∧ (r.passToTod r.realignTod).cadRun = true := by
  decide

/-- A state and operands for WindowsOfTheDayOpenInOrder. -/
theorem test_windows_turn_and_guards_begin :
    let s := (State.reset.wr 0 Reg.CAD_GUARD 0x08080808).setTim fun t => { t with cad := .running }
    let n := s.setTim fun t => { t with win := .noon }
    let d := s.setTim fun t => { t with win := .dusk }
    s.tim.cad = .running ∧ s.tim.win = .dawn ∧ s.tim.guard = false ∧ s.guardPu s.tim.win ≠ 0 ∧ s.tim.win ≠ .noon ∧ n.tim.win = .noon ∧
      n.guardPu n.tim.win ≠ 0 ∧ d.tim.win = .dusk := by
  decide

/-- A state and operands for DayPlansLoadStageAndRetire. -/
theorem test_plan_loads_and_is_refused :
    let s := State.reset.updBlk plnPage fun b => { b with st := .running }
    let l := s.setPln fun p => { p with loading := true }
    s.reachesReg .core 0 Reg.PLN_CTRL = true ∧ s.pln.loading = false ∧ s.ready plnPage = true ∧ State.reset.ready plnPage = false ∧ l.reachesReg .core 0 Reg.PLN_CTRL = true ∧
      l.pln.loading = true ∧ l.loadedPlan = none := by
  decide

/-- A state and operands for DayPlansLoadStageAndRetire. -/
theorem test_plan_retires :
    let p : Plan := { Plan.dflt with epoch := 7 }
    (State.reset.setPln fun x => { x with retiring := some p }).pln.retiring = some p ∧
      (State.reset.setPln fun x => { x with retiring := some p }).planInflight p.epoch = 0 := by
  decide

/-- A state and operands for DayPlansLoadStageAndRetire. -/
theorem test_plan_stages_or_is_late :
    let img : List Byte := [1, 0, 0, 0, 7, 0, 1, 0, 0x88, 0x13, 1, 0, 0x9A, 0xC1, 0xCC, 0, 0x33, 0x0F, 0, 0, 0, 0, 0, 0, 0xFF, 0xFF] ++
    List.replicate 34 0 ++ [0xB0, 0x20, 0xF1, 0x99, 1, 0, 0, 0, 0x50, 0, 0, 0, 0, 0, 0, 0, 0, 0, 0, 0]
    let l := (State.reset.mwrite 0x100000000000 img).setPln fun p => { p with loading := true, loadAddr := 0x100000000000, loadLen := 80 }
    let s := l.wr64 0 Reg.PLN_ACT_DAY_LO 5
    s.pln.loading = true ∧ s.loadedPlan.isSome = true ∧ s.curDay < s.actDay ∧ l.loadedPlan.isSome = true ∧ l.actDay ≤ l.curDay := by
  decide +kernel

/-- A state and operands for AdmissionCommandsAdmitOrReject. -/
theorem test_admission_succeeds :
    let k : Cmd := { (default : Cmd) with op := 0x010, job := 3, stamp := some ⟨0, true⟩, payload := List.replicate 64 0 }
    let n := demoHeld k ((State.reset.wr 2 Reg.ADM_FREE_PAGES 40000).wr 2 Reg.ADM_CTRL 0)
    let s := n.updPgm 2 fun p => { p with tblUnits := 65536 }
    s.occupy 2 0 k = s ∧ s.holdsCmd 2 0 k = true ∧ (s.cmdStamp k).early = true ∧ s.admitCheck 2 k = 0 ∧ s.freeReq 2 = some 0 ∧
      (s.makeEntry 2 k 0).isSome = true ∧ n.holdsCmd 2 0 k = true ∧ n.admitCheck 2 k = 0 ∧ n.freeReq 2 = some 0 ∧
      (n.makeEntry 2 k 0).isNone = true := by
  decide +kernel

/-- A state and operands for AdmissionCommandsAdmitOrReject. -/
theorem test_acceptance_succeeds :
    let k : Cmd := { (default : Cmd) with op := 0x012, job := 3, stamp := some ⟨0, true⟩, payload := List.replicate 64 0 }
    let s := (demoHeld k ((State.reset.wr 2 Reg.ADM_FREE_PAGES 40000).wr 2 Reg.RQT_ROLE 1)).updPgm 2 fun p => { p with tblUnits := 65536 }
    s.occupy 2 0 k = s ∧ s.holdsCmd 2 0 k = true ∧ (s.cmdStamp k).early = true ∧ s.admitCheck 2 k = 0 ∧ s.freeReq 2 = some 0 ∧ (s.makeEntry 2 k 0).isSome = true := by
  decide +kernel

/-- A state and operands for AdmissionCommandsAdmitOrReject. -/
theorem test_admission_refused_or_deferred :
    let k : Cmd := { (default : Cmd) with op := 0x010, job := 3, stamp := some ⟨0, true⟩, payload := List.replicate 64 0 }
    let a : Cmd := { (default : Cmd) with op := 0x012, job := 3, stamp := some ⟨0, true⟩, payload := List.replicate 64 0 }
    let d : Cmd := { (default : Cmd) with op := 0x010, job := 3, stamp := some ⟨0, false⟩, payload := List.replicate 64 0 }
    let s := fun x => demoHeld x State.reset
    ((s k).cmdStamp k).early = true ∧ (s k).admitCheck 2 k ≠ 0 ∧ ((s a).cmdStamp a).early = true ∧ (s a).admitCheck 2 a = 5 ∧
      ((s d).cmdStamp d).early = false ∧ (∀ x ∈ [k, a, d], (s x).occupy 2 0 x = s x ∧ (s x).holdsCmd 2 0 x = true) ∧
      (s a).enabledCh 2 = true ∧ ((s a).engine 2 0).holder = some a ∧ a ≠ k := by
  decide +kernel

/-- A state and operands for RequestCommandsMoveTheStateMachine. -/
theorem test_live_request_is_commanded :
    let k : Cmd := { (default : Cmd) with job := 3, stamp := some ⟨0, true⟩, payload := [5, 0x20, 9, 0] }
    let h := demoHeld k State.reset
    let s := h.updReq 2 5 fun e => { e with st := .decoding, gen := 9, job := 3 }
    let p := h.updReq 2 5 fun e => { e with st := .spilled, gen := 9, job := 3 }
    let m := h.updReq 2 5 fun e => { e with st := .moving, gen := 9, job := 3, outbound := true }
    let a := s.updReq 2 5 fun e => { e with flags := { e.flags with cancelPending := true } }
    (∀ x ∈ [h, s, p, m, a], x.occupy 2 0 k = x ∧ x.holdsCmd 2 0 k = true) ∧ (s.req 2 5).flags.cancelPending = false ∧
      (a.req 2 5).flags.cancelPending = true ∧ a.handleLive 2 k = true ∧ (a.req 2 5).cancelHeld = false ∧ (a.req 2 5).gen = 9 ∧ (a.req 2 5).st ≠ .free ∧ s.handleLive 2 k = true ∧ (s.cmdStamp k).early = true ∧ cmdReq k % 4096 = 5 ∧ (s.req 2 5).cancelHeld = false ∧
      (s.req 2 5).cancelStatus = 0 ∧ (s.req 2 5).st = .decoding ∧ p.handleLive 2 k = true ∧ (p.req 2 5).st = .spilled ∧
      m.handleLive 2 k = true ∧ (m.req 2 5).st = .moving ∧ (m.req 2 5).outbound = true ∧ h.handleLive 2 k = false ∧
      s.canRead .core (rqtPage 2) = true := by
  decide +kernel

/-- A state and operands for MovingARequestBetweenNodes. -/
theorem test_source_opens_and_closes_a_move :
    let s := (State.reset.updReq 2 5 fun e => { e with st := .resident, gen := 9, job := 3 }).setTim fun t => { t with cad := .running }
    let m := State.reset.updReq 2 5 fun e => { e with st := .moving, gen := 9, job := 3, outbound := true }
    s.enabledCh 2 = true ∧ m.enabledCh 2 = true ∧ m.inWindow .dawn = false ∧ s.inWindow .dawn = true ∧ (s.req 2 (5 % 4096)).gen = 9 ∧
      (s.req 2 5).canMoveOut = true ∧ (s.req 2 6).canMoveOut = false ∧ (m.req 2 5).gen = 9 ∧ (m.req 2 5).st = .moving ∧ (m.req 2 5).outbound = true := by
  decide

/-- A state and operands for MovingARequestBetweenNodes. -/
theorem test_destination_takes_a_table :
    let s := State.reset.updReq 2 5 fun e => { e with st := .moving, gen := 9, flags := { e.flags with pulling := true } }
    s.enabledCh 2 = true ∧ (s.req 2 (5 % 4096)).gen = 9 ∧ (s.req 2 5).flags.pulling = true ∧ (s.req 2 5).outbound = false ∧ (s.req 2 5).tableIn = false := by
  decide

/-- A state and operands for MovingARequestBetweenNodes. -/
theorem test_source_hears_of_a_switched_home :
    let s := (State.reset.updReq 2 5 fun e => { e with st := .moving, gen := 9, outbound := true, table := 1 }).updPgm 2 fun p =>
      { p with ptes := SMap.set p.ptes (pteKey 1 3 7) { (default : Pte) with there := true, st := .moving } }
    let p := s.pte 2 (pteKey (s.req 2 5).table 3 7)
    s.enabledCh 2 = true ∧ (s.req 2 5).gen = 9 ∧ (s.req 2 5).outbound = true ∧ p.there = true ∧ p.link = false ∧ p.st ≠ .evicted := by
  decide

/-- A state and operands for SweepCommandsTakeTheArray. -/
theorem test_sweeps_start_in_noon :
    let s := demoReady demoNoon
    let k := demoSweep 0x104
    let h := s.setEngine 2 1 { (default : Engine) with holder := some k }
    (∀ op ∈ [0x101, 0x102, 0x103, 0x104, 0x105, 0x106, 0x107], s.comesNext 2 1 (demoSweep op) = true ∧
      ((s.taken 2 1 (demoSweep op)).engine 2 1).holder = some (demoSweep op) ∧ (s.taken 2 1 (demoSweep op)).run 2 3 = none) ∧
      s.domSt 2 = .on ∧ (descOf (cmdDesc k)).ok k.op k.job (s.binById 2 (descOf (cmdDesc k)).bin) = true ∧ s.enabledCh 2 = true ∧
      (s.setDom 2 .off).domSt 2 ≠ .on ∧ (s.setDom 2 .off).enabledCh 2 = true ∧ h.enabledCh 2 = true ∧ h.domSt 2 = .on ∧
      (h.engine 2 1).holder = some k ∧ k ≠ demoSweep 0x101 := by
  decide +kernel

/-- A state and operands for ArrayTilesAndRingRecordsAreWorkedOff. -/
theorem test_tile_ends_a_sweep_without_members :
    let k := demoSweep 0x104
    let r := newRun k [] [] 0 0
    let n := demoNoon.setEngine 2 1 { (default : Engine) with holder := some k }
    let s := n.setRun 2 3 (some r)
    let u := s.underRun 2 3 fun s => (s.flushHeld 2 3 4096).layAll 2 3
    let v := (u.setRun 2 3 (some { r with streams := r.streams.map (u.refresh 2) })).coverStruck 2 3
    (s.engine 2 1).holder = some k ∧ isSweep k.op = true ∧ s.run 2 k.job = some r ∧ r.cmd = k ∧ s.arrayStuck 2 k.job = false ∧
      u.run 2 k.job = some r ∧ v.run 2 k.job = some r ∧ r.held = [] ∧ (v.asOld 2 r.old).layFault 2 r = none ∧ r.projDue (v.nextSet 2 r) = none ∧
      (v.nextSet 2 r).length = 0 ∧ (n.engine 2 1).holder = some k ∧ n.run 2 k.job = none := by
  decide +kernel

/-- A state and operands for ArrayTilesAndRingRecordsAreWorkedOff. -/
theorem test_records_are_taken_or_dropped :
    let q := demoRing (demoRecord 1 0 1 128)
    let p := demoRing (demoRecord 3 0 1 192)
    let l := demoRing (demoRecord 5 0xFFF 1 128)
    let x := (q.xrNext 2 6 1).2.getD default
    let y := (p.xrNext 2 6 3).2.getD default
    let z := (l.xrNext 2 6 5).2.getD default
    q.serves 2 = true ∧ q.snoopClear (q.xrPublished 2 6) = true ∧ p.snoopClear (p.xrPublished 2 6) = true ∧ l.snoopClear (l.xrPublished 2 6) = true ∧ (q.xrNext 2 6 1).2 = some x ∧ (q.xrNext 2 6 1).1.queryCause 2 6 x = 0 ∧
      ((q.xrNext 2 6 1).1.layerDesc 2 x.slot x.layer).isSome = true ∧ (p.xrNext 2 6 3).2 = some y ∧
      (p.xrNext 2 6 3).1.partialCause 2 6 y = 0 ∧ ((p.xrNext 2 6 3).1.layerDesc 2 y.slot y.layer).isSome = true ∧
      ((p.xrNext 2 6 3).1.xrPayload 2 y ((p.xrNext 2 6 3).1.xrJob 2 6) (1 * 1 * (4 * 16 + 8))).isSome = true ∧
      (l.xrNext 2 6 5).2 = some z ∧ (l.xrNext 2 6 5).1.logitsCause 2 6 z = 0 := by
  decide +kernel

/-- A state and operands for ArrayTilesAndRingRecordsAreWorkedOff. -/
theorem test_stale_record_is_dropped :
    let q := (demoRing (demoRecord 1 0 1 128)).setTim fun t => { t with day := 5 }
    let x := (q.xrNext 2 6 1).2.getD default
    (q.xrNext 2 6 1).2 = some x ∧ (q.xrNext 2 6 1).1.queryCause 2 6 x = 2 := by
  decide +kernel

/-- A state and operands for StepsCommitAndTheSamplerRuns. -/
theorem test_step_commits_at_dusk :
    let s := (((demoNoon.setTim fun t => { t with win := .dusk }).updStep 2 5 fun x =>
      { x with started := true, day := 4, gen := 9, swept := [4] }).updSmp 2 fun x =>
      { x with steps := SMap.set x.steps 5 { (default : SmpStep) with derived := true, gen := 9, day := 4 } })
    let b := (s.beginCommit 2 [5]).setTim fun t => { t with win := .midnight }
    s.serves 2 = true ∧ (s.commitSet 2 5).length = 0 ∧ s.inWindow .dusk = true ∧ s.commitBegun 2 5 = false ∧ s.stepComplete 2 5 = true ∧
      s.commitStalls 2 5 5 = false ∧ (s.writesRecord 2 5 && !s.cancelDrops 2 5 && s.crStalls 2 5 1) = false ∧ b.serves 2 = true ∧
      (b.commitSet 2 5).length = 0 ∧ b.commitBegun 2 5 = true ∧ b.stepComplete 2 5 = true ∧ demoNoon.serves 2 = true ∧
      (demoNoon.commitSet 2 5).length = 0 ∧ demoNoon.inWindow .dusk = false ∧ demoNoon.commitBegun 2 5 = false := by
  decide +kernel

/-- A state and operands for StepsCommitAndTheSamplerRuns. -/
theorem test_commit_stalls_on_a_full_ring :
    let s := ((((demoNoon.setTim fun t => { t with win := .dusk }).updStep 2 5 fun x =>
      { x with started := true, day := 4, gen := 9, swept := [4] }).updSmp 2 fun x =>
      { x with steps := SMap.set x.steps 5 { (default : SmpStep) with derived := true, gen := 9, day := 4, endCode := 1 } }).wr 2
      Reg.SMP_CR_CFG (lo32 (1 + 3 * 2 ^ 16)) 0)
    s.serves 2 = true ∧ (s.commitSet 2 5).length = 0 ∧ s.inWindow .dusk = true ∧ s.commitBegun 2 5 = false ∧ s.stepComplete 2 5 = true ∧
      s.commitStalls 2 5 5 = false ∧ (s.writesRecord 2 5 && !s.cancelDrops 2 5 && s.crStalls 2 5 1) = true := by
  decide +kernel

/-- A state and operands for StepsCommitAndTheSamplerRuns. -/
theorem test_sampler_configuration_is_set :
    let k : Cmd := { (default : Cmd) with job := 3, payload := padTo 72 (List.replicate 8 0 ++ [0, 0, 0, 0, 1, 0, 0, 0]) }
    let s := demoHeld k State.reset
    let o := s.updSmp 2 fun x => { x with cfgs := SMap.set x.cfgs 0 (ownedCfg (padTo 64 []) 4) }
    s.occupy 2 0 k = s ∧ s.holdsCmd 2 0 k = true ∧ o.occupy 2 0 k = o ∧ o.holdsCmd 2 0 k = true ∧
      s.cfgOther 2 (cmdCfg k) k.job = false ∧ cfgOk (padTo 64 (k.payload.drop 8)) = true ∧ o.cfgOther 2 (cmdCfg k) k.job = true := by
  decide +kernel

/-- A state and operands for StepsCommitAndTheSamplerRuns. -/
theorem test_sampler_row_ends :
    let k : Cmd := { (default : Cmd) with job := 3, tag := 4, payload := [5, 0, 9, 0, 0, 0] }
    let s := (demoNoon.setEngine 2 4 { (default : Engine) with holder := some k }).updSmp 2 fun x =>
      { x with steps := SMap.set x.steps 5 { (default : SmpStep) with gen := 9, day := 4, ntok := 1, done := [none] } }
    (s.engine 2 4).holder = some k ∧ (s.smpStep 2 5).gen = recNat k.payload 2 2 ∧ (s.smpStep 2 5).day = k.tag ∧
      (s.smpStep 2 5).done.getD 0 (some []) = none ∧ s.needCounts 2 5 (s.rowCfg 2 (s.req 2 5)) = false := by
  decide +kernel

/-- A state and operands for StepsCommitAndTheSamplerRuns. -/
theorem test_beams_are_bound :
    let k : Cmd := { (default : Cmd) with job := 3, payload := [5, 0x20, 9, 0, 6, 0x20, 9, 0] }
    let r := ownedCfg (padTo 64 [6, 0, 0, 0, 1, 0, 0, 0]) 3
    let e : ReqEntry := { (default : ReqEntry) with st := .admitted, gen := 9, job := 3, bulk := true }
    let h := demoHeld k State.reset
    let s := ((h.updReq 2 5 fun _ => e).updReq 2 6 fun _ => e).updSmp 2 fun x => { x with cfgs := SMap.set x.cfgs 0 r }
    s.occupy 2 0 k = s ∧ s.holdsCmd 2 0 k = true ∧ ((bindHandles k.payload).any (s.bindStale 2)) = false ∧ h.occupy 2 0 k = h ∧
      h.holdsCmd 2 0 k = true ∧ ((bindHandles k.payload).any (h.bindStale 2)) = true ∧ 2 ≤ (bindHandles k.payload).length ∧ ((bindHandles k.payload).map Prod.fst).Nodup ∧
      ((bindHandles k.payload).all (s.bindable 2 k.job 2 (s.req 2 5))) = true := by
  decide +kernel

/-- A state and operands for PrefixHandlesAreAllocatedFreedAndQueried. -/
theorem test_handle_is_allocated :
    let s := demoHeld default State.reset
    s.occupy 2 0 default = s ∧ s.holdsCmd 2 0 default = true ∧ s.freeHandle 2 = some 1 := by
  decide +kernel

/-- A state and operands for PrefixHandlesAreAllocatedFreedAndQueried. -/
theorem test_handle_is_freed :
    let k : Cmd := { (default : Cmd) with job := 3, payload := [1, 0, 7, 0] }
    let h := demoHeld k State.reset
    let s := h.setHandle 2 1 { (default : Handle) with st := .held, gen := 7, job := 3 }
    s.occupy 2 0 k = s ∧ s.holdsCmd 2 0 k = true ∧ h.occupy 2 0 k = h ∧ h.holdsCmd 2 0 k = true ∧
      s.handleOk 2 3 (recNat k.payload 0 4) = true ∧ h.handleOk 2 3 (recNat k.payload 0 4) = false := by
  decide +kernel

/-- A state and operands for PagesMoveBetweenTiers. -/
theorem test_move_ends :
    let m : PageMove := { (default : PageMove) with pte := pteKey 1 3 7, kind := .pull }
    let e : Pte := { (default : Pte) with there := true, st := .moving, moveId := 4, tier := m.src.tier, addr := m.src.addr }
    let s := State.reset.updPgm 2 fun p => { p with moves := SMap.set p.moves 4 (some m), ptes := SMap.set p.ptes m.pte e }
    (s.pgm 2).moves.at 4 = some m ∧ m.canEnd = true ∧ m.far = false ∧ s.moveHolds 2 4 m = true ∧ crossesXbar 2 m = false ∧
      m.kind = .pull ∧ State.reset.moveHolds 2 4 m = false ∧ s.copyGoesOn 2 m = true ∧ s.copyWaits 2 m = false := by
  decide

/-- A state and operands for MoverRunsCopyAndConvertInChunks. -/
theorem test_mover_takes_a_copy :
    let k : Cmd := { (default : Cmd) with op := 0x040, job := 3, payload := leBytes 8 0x100000000000 ++ leBytes 8 0x100000001000 ++ leBytes 4 64 }
    let s := State.reset.setEngine 2 2 { (default : Engine) with holder := some k }
    (demoReady State.reset).comesNext 2 2 k = true ∧ (demoReady State.reset).comesNext 2 2 { k with op := 0x041 } = true ∧
      s.enabledCh 2 = true ∧ (s.engine 2 2).holder = some k ∧ s.engineStuck 2 2 k.job = false ∧ k ≠ { k with op := 0x041 } ∧ s.snoopClear (s.chunkTouches 2 (s.dmvRun 2 k)) = true ∧ s.dmvWaits 2 k.job = false ∧
      (s.dmvRun 2 k).fail = 0 ∧ (s.dmvRun 2 k).settling = false ∧ (s.dmvRun 2 k).chunk < dmvChunks k ∧ (s.rackSrc 2 (s.dmvRun 2 k)).length = 0 ∧
      (let t := ((((demoKwpOn.setEngine 2 2 { (default : Engine) with holder := some k }).wr 2 Reg.ATU_CFG 1).wr64 2 Reg.ATU_RGN_BASE_LO
         (t1Base 2)).wr64 2 Reg.ATU_RGN_LIMIT_LO (t1Base 2 + 0x10000)).updAtu 2 fun a =>
         { a with tlb := [⟨3, 0x100000000, t1Base 2 / 4096, true, true⟩, ⟨3, 0x100000001, t1Base 2 / 4096 + 1, true, true⟩] }
       (t.engine 2 2).holder = some k ∧ t.dmvWaits 2 k.job = false ∧ (t.dmvRun 2 k).fail = 0 ∧ (t.dmvRun 2 k).settling = false ∧
         (t.dmvRun 2 k).chunk < dmvChunks k ∧ t.engineStuck 2 2 k.job = false ∧ (t.rackSrc 2 (t.dmvRun 2 k)).length = 0 ∧
         (match ((t.setDmvRun 2 k.job (some (t.dmvRun 2 k))).copyChunk 2 (t.dmvRun 2 k) (t.dmvRun 2 k).got).2 with
           | .done _ => true
           | _ => false) = true) := by
  decide +kernel

/-- A state and operands for VectorCommandsStoreInsertDeleteAndSearch. -/
theorem test_a_store_is_set :
    let k : Cmd := { (default : Cmd) with op := 0x060, job := 3, payload := leBytes 4 5 ++ leBytes 4 (16 + 8 * 2 ^ 16) }
    let s := demoReady State.reset
    let t := s.taken 2 3 k
    let v : VStore := { isSet := true, job := 3, desc := padTo 64 k.payload, groups := [] }
    (∀ op ∈ [0x060, 0x061, 0x062, 0x063], s.comesNext 2 3 { k with op := op } = true ∧
      ((s.taken 2 3 { k with op := op }).engine 2 3).holder = some { k with op := op }) ∧ t.engineStuck 2 3 3 = false ∧
      (t.vstore 2 5).isSet = false ∧ (t.vstore 2 5).groupCount = 0 ∧ v.kind = 0 ∧ v.ok = true ∧ t.listScanned 2 5 0 = false ∧
      s.engineFor 2 { k with op := 0x063 } = some 3 ∧ t.search 2 3 3 = none := by
  decide +kernel

/-- A state and operands for VectorCommandsStoreInsertDeleteAndSearch. -/
theorem test_a_search_wakes_the_array :
    demoStores.enabledCh 2 = true ∧ demoStores.engineFor 2 { (default : Cmd) with op := 0x063, job := 3 } = some 1 ∧
      demoStores.domSt 2 ≠ .on := by
  refine ⟨by decide +kernel, ?_, by decide +kernel⟩
  have h : ∀ n < 64, demoStores.storeOf 2 n 3 = true ∧ (demoStores.vstore 2 n).kind = 0 := by decide +kernel
  have g := h (searchStoreOf { (default : Cmd) with op := 0x063, job := 3 }) (Nat.mod_lt _ (by decide))
  simp only [State.engineFor, g.1, g.2, and_self, if_true]

/-- A state and operands for VectorCommandsStoreInsertDeleteAndSearch. -/
theorem test_a_search_goes_on :
    let k : Cmd := { (default : Cmd) with op := 0x063, job := 3 }
    let r : SearchRun := { (default : SearchRun) with cmd := k }
    let s := (State.reset.setEngine 2 3 { (default : Engine) with holder := some k }).setSearch 2 3 3 (some r)
    s.enabledCh 2 = true ∧ (s.engine 2 3).holder = some k ∧ s.engineStuck 2 3 3 = false ∧ s.search 2 3 3 = some r := by
  decide +kernel

/-- A state and operands for VectorCommandsStoreInsertDeleteAndSearch. -/
theorem test_rerank_is_written :
    let s := State.reset.wr 2 Reg.VSE_CFG 1
    State.reset.reachesReg .core 2 Reg.VSE_REPAIR_POP = true ∧ wbit 1 0 = true ∧ State.reset.reachesReg .core 2 Reg.VSE_CFG = true ∧
      State.reset.isAgent 2 = false ∧ s.rdB 2 Reg.VSE_CFG 0 = true ∧ State.reset.rdB 2 Reg.VSE_CFG 0 = false ∧
      (let a := State.reset.wr 2 Reg.CCX_CFG 7
       a.reachesReg .core 2 Reg.VSE_CFG = true ∧ a.isAgent 2 = true ∧ a.rdB 2 Reg.VSE_CFG 0 = false ∧ a.rerankFull 2 = false) := by
  decide

/-- A state and operands for ResidueBlocksAndRegionsAreKept. -/
theorem test_a_region_is_used :
    let s := ((State.reset.wr 2 Reg.ZRB_RGN_CFG (setBit 0 0 true) 3).wr 2 Reg.ZRB_RGN_STAT 2 3)
    State.reset.reachesReg .core 2 Reg.ZRB_RGN_CFG = true ∧ State.reset.rdB 2 Reg.ZRB_RGN_CFG 0 (State.reset.rdN 2 Reg.ZRB_RGN_SEL) = false ∧
      s.rdB 2 Reg.ZRB_RGN_STAT 1 3 = true ∧ s.rdB 2 Reg.ZRB_RGN_CFG 0 3 = true ∧
      (s.wr 2 Reg.ZRB_RGN_SEL 3).rdB 2 Reg.ZRB_RGN_CFG 0 ((s.wr 2 Reg.ZRB_RGN_SEL 3).rdN 2 Reg.ZRB_RGN_SEL) = true ∧
      (s.wr 2 Reg.ZRB_RGN_SEL 3).reachesReg .core 2 Reg.ZRB_RGN_CFG = true ∧ State.reset.rdB 2 Reg.ZRB_RGN_STAT 1 3 = false := by
  decide

/-- A state and operands for ResidueBlocksAndRegionsAreKept. -/
theorem test_a_block_waits :
    let s := ((State.reset.wr 2 Reg.ZRB_RGN_CFG 1 3).wr 2 Reg.ZRB_RGN_SLOTS 1 3)
    s.zrbRegion (t1Base 2) = some ⟨2, 3, t1Base 2⟩ ∧ (List.replicate 512 (0 : Byte)).length = 512 ∧ s.rdB 2 Reg.ZRB_RGN_STAT 1 3 = false ∧
      t1Base 2 % 512 = 0 ∧ State.reset.zrbRegion (t1Base 2) = none ∧ ∃ t, exec (.wrWaitExpiry 2 (t1Base 2) (List.replicate 512 0)) s = .next t := by
  refine ⟨by decide +kernel, by decide, by decide +kernel, by decide, by decide +kernel, ?_⟩
  simp only [exec, execWrWaitExpiry]
  repeat (first | exact ⟨_, rfl⟩ | split)

/-- A state and operands for ResidueBlocksAndRegionsAreKept: a ZERO block that reads, and a RAW block of zeros whose CRC does not. -/
theorem test_a_part_of_a_block_waits :
    let z : ZRegion := ⟨2, 3, t1Base 2⟩
    let s := (((State.reset.wr 2 Reg.ZRB_RGN_CFG 1 3).wr 2 Reg.ZRB_RGN_SLOTS 1 3).wr64 2 Reg.ZRB_RGN_SIDE_LO (t1Base 2 + 0x100000) 3)
    let ok := (s.setZHdr z (t1Base 2) ⟨2, 0, 16, 0, 0⟩)
    s.zrbRegion (t1Base 2) = some z ∧ ok.zrbRegion (t1Base 2) = some z ∧ ((ok.zCheck z (t1Base 2)).1.zRead z (t1Base 2)).toOption = some (List.replicate 512 0) ∧
      ((s.zCheck z (t1Base 2)).1.zRead z (t1Base 2)).toOption = none ∧ t1Base 2 % 512 + (List.replicate 64 (0 : Byte)).length ≤ 512 := by
  decide +kernel

/-- A state and operands for DoorbellsMoveTheRingPointers. -/
theorem test_job_doorbells_are_seen :
    let s := (demoHost.wr 2 Reg.JSC_Q_CFG 0x00030001 5).wr 2 Reg.JSC_CQ_CFG 0x00030001 5
    s.seesDoorbell (.ld 0) 2 (some 3) = true ∧ dbObj 0x0000000500000040 = 5 ∧ s.rdB 2 Reg.JSC_Q_CFG 0 5 = true ∧ s.qJob 2 5 = 3 ∧
      s.rdB 2 Reg.JSC_CQ_CFG 0 5 = true ∧ s.rdF 2 Reg.JSC_CQ_CFG 25 16 5 = 3 := by
  decide +kernel

/-- A state and operands for DoorbellsMoveTheRingPointers. -/
theorem test_ring_doorbells_are_seen :
    let s := (((((demoHost.wr 2 Reg.ATN_XR_CFG 0x00030001 5).wr 2 Reg.ATN_XR_CFG 0x00030003 6).wr 2 Reg.SMP_CR_CFG 0x00030001 5).wr 2
      Reg.SLP_RXQ_CFG 0x00030001 5).wrAt (jscPage 2) 0x20C 0x00060000 3).updConn 2 5 fun x => { x with cstate := 2, job := 3 }
    s.seesDoorbell (.ld 0) 2 (some 3) = true ∧ s.xrIs 2 5 0 = true ∧ s.xrJob 2 5 = 3 ∧ s.xrIs 2 6 0 = false ∧ s.xrIs 2 6 1 = true ∧
      s.xrJob 2 6 = 3 ∧ s.rdB 2 Reg.SMP_CR_CFG 0 5 = true ∧ s.rdF 2 Reg.SMP_CR_CFG 25 16 5 = 3 ∧ s.evqLog2 2 3 = 6 ∧
      (s.conn 2 5).cstate ≠ 0 ∧ (s.conn 2 5).job = 3 ∧ s.rdB 2 Reg.SLP_RXQ_CFG 0 5 = true ∧ s.rdF 2 Reg.SLP_RXQ_CFG 25 16 5 = 3 := by
  decide +kernel

/-- A state and operands for DoorbellsMoveTheRingPointers. -/
theorem test_privileged_doorbells_are_seen :
    let s := ((demoHost.wr 2 Reg.JSC_PEVQ_CFG 1).wr 2 Reg.ATU_FQ_CFG 1).wr 2 Reg.TRC_SMP_CFG 1
    s.seesDoorbell (.ld 0) 2 none = true ∧ s.rdB 2 Reg.JSC_PEVQ_CFG 0 = true ∧ s.rdB 2 Reg.ATU_FQ_CFG 0 = true ∧
      s.rdB 2 Reg.TRC_SMP_CFG 0 = true ∧ dbObj 64 = 0 := by
  decide +kernel

/-- A state and operands for EnginesAreGivenToJobsAndBarriersPass. -/
theorem test_a_command_is_taken_from_a_queue_or_a_plan :
    ((((demoQueue.updJsc 2 fun x => { x with planQueue := [{ (default : Cmd) with job := 3 }] }).wr 2 Reg.JSC_Q_CFG 0 5).accrue 2).dispPick 2 = some 1027) ∧
      demoQueue.enabledCh 2 = true ∧ demoQueue.snoopClear (demoQueue.headUnits 2) = true ∧ (demoQueue.accrue 2).dispPick 2 = some 5 ∧
      (demoQueue.qHeadCmd 2 5).op = 0x0F0 ∧ (State.reset.accrue 2).dispPick 2 ≠ some 5 ∧
      let t := (demoQueue.accrue 2).updJsc 2 fun x => { x with ptr := x.ptr.set 8 6 }
      (t.qHeadCmd 2 5).op = 0x0F0 ∧ t.refusal 2 5 (t.qHeadCmd 2 5) = none ∧
      t.mem.poisoned (t.qHeadAddr 2 5) (64 * ((t.qHeadCmd 2 5).sizeM1 + 1)) = false := by
  decide +kernel

/-- A state and operands for EnginesAreGivenToJobsAndBarriersPass. -/
theorem test_a_lane_is_taken :
    let k : Cmd := { (default : Cmd) with job := 3 }
    let s := fun e => ((demoReady demoQueue).enterLane 2 e k)
    (∀ e ∈ [0, 1, 2, 3, 4], ((s e).engine 2 e).holder = none ∧ (((s e).accrue 2).engine 2 e).holder = none ∧
      ((s e).accrue 2).bestTaker 2 e = some 3) ∧ ((s 1).accrue 2).domSt 2 = .on := by
  decide +kernel

/-- A state and operands for EnginesAreGivenToJobsAndBarriersPass. -/
theorem test_tokens_and_counters :
    let s := demoHost.wr 2 Reg.JSC_TOK_CTRL 0x80000003 7
    s.tokOk 2 (recNat [7] 0 1) 3 = true ∧ s.tokOk 2 (recNat [8] 0 1) 3 = false ∧ fld ((demoHost.wr 0 Reg.DBG_SET_MATCH 3 129).rd 0 Reg.DBG_SET_MATCH 129) 9 0 = 3 ∧
      wbit ((demoHost.wr 0 Reg.DBG_SET_MATCH 3 129).rd 0 Reg.DBG_SET_MATCH 129) 10 = false ∧ fld (demoHost.rd 0 Reg.DBG_SET_MATCH 129) 9 0 ≠ 3 ∧
      129 = 2 * 64 + nfld (recNat [1] 0 1) 5 0 ∧ State.reset.reachesReg .core 2 Reg.JSC_TOK_CTRL = true ∧
      (demoHeld default s).occupy 2 0 default = demoHeld default s ∧ (demoHeld default s).holdsCmd 2 0 default = true ∧
      (demoHeld default s).tokOk 2 7 3 = true ∧
      (let k : Cmd := { (default : Cmd) with job := 3 }
       ((demoHeld default s).occupy 2 0 k).holdsCmd 2 0 k = false ∧ (demoReady s).comesNext 2 0 k = true) := by
  decide +kernel

/-- A state and operands for JobsAreEnabledTornDownAndCleared. -/
theorem test_a_job_is_cleared :
    let s := (demoHost.wr 2 Reg.JSC_JOB_SEL 3).wrAt (jscPage 2) 0x200 2 3
    let t := demoHost.wrAt (jscPage 2) 0x200 5 3
    s.reachesReg .core 2 Reg.JSC_JOB_CMD = true ∧ s.reaches .core (jscPage 2) 0x200 = true ∧ s.rdN 2 Reg.JSC_JOB_SEL = 3 ∧
      s.jobFaulted 2 3 = true ∧ s.holdsAny 2 3 = false ∧ t.enabledCh 2 = true ∧ t.jobTearing 2 3 = true ∧ demoHost.jobFaulted 2 3 = false ∧
      demoHost.jobEnabled 2 3 = false ∧ demoHost.jobTearing 2 3 = false ∧ demoHost.boundOn 2 3 = true := by
  decide +kernel

/-- A state and operands for TranslationFaultsAndInvalidations. -/
theorem test_a_fault_is_answered :
    let x : AtuFault := { (default : AtuFault) with job := 3, posted := true }
    let s := (State.reset.wr 2 Reg.JSC_CFG 0x10000).updAtu 2 fun a => { a with faults := a.faults.set 5 (some x), inv := some (3, true, 0, 0) }
    s.servable 2 5 = some x ∧ s.faultTimeoutNs 2 ≠ 0 ∧ s.enabledCh 2 = true ∧ (s.atu 2).inv = some (3, true, 0, 0) ∧ s.servable 2 6 = none ∧
      s.reachesReg .core 2 Reg.ATU_FAULT_RESP = true ∧ s.reachesReg .core 2 Reg.ATU_INV_CTRL = true ∧ wbit 0x80000000 31 = true ∧
      wbit 0 31 = false := by
  decide +kernel

/-- A state and operands for KweuzPacketsAreCheckedAndProcessed. -/
theorem test_a_packet_is_taken :
    let s := demoKweuz
    let q : KPkt := { (default : KPkt) with dstIp := 9, dstUdp := s.rdF 2 Reg.KWP_UDP_PORT 15 0, dstConn := 5, sendTime := s.stamp }
    let p : KPkt := { q with tag := (kweuzSeal 0 0 0 (pktHeaders 1 q) []).2 }
    s.ethMode 2 = true ∧ s.serves 2 = true ∧ s.kwEn 2 = true ∧ p.len ≤ s.rdF 2 Reg.KWP_MTU 13 0 ∧
      s.localEntry 2 p.peer.v6 p.dstIp = some (0, 2) ∧ s.classify 2 0 p = (s, true) ∧ (s.kwp 2).bad.contains 5 = false ∧
      s.cachedConn 2 5 = true ∧ (s.conn 2 5).cstate = 1 ∧
      kweuzOpen (s.conn 2 5).rxKey (s.conn 2 5).rxSalt p.iv (pktHeaders 1 p) p.pay p.tag = some [] ∧
      kweuzOpen (s.conn 2 5).rxKey (s.conn 2 5).rxSalt q.iv (pktHeaders 1 q) q.pay q.tag = none ∧
      p.gen = (s.conn 2 5).gen ∧ s.tooOld 2 p = false ∧ (s.conn 2 5).bitmap.testBit 0 = false := by
  decide +kernel

/-- A state and operands for WorkRequestsAndWindowsAreTaken. -/
theorem test_a_work_request_waits :
    let s := fun op => demoKweuz.mwrite 0x100000000000 (leBytes 8 op ++ leBytes 8 0x100000002000 ++ leBytes 8 9 ++ leBytes 8 64)
    let w := fun op => reqOf ((s op).sqHeadWr 2 5)
    (∀ op ∈ [1, 2, 3, 4, 0x10, 0x11], (s op).sqReady 2 5 = true ∧ (s op).cachedConn 2 5 = true ∧ recNat ((s op).sqHeadWr 2 5) 0 1 = op) ∧
      (s 1).wrRefusal 2 5 (w 1) = some 0x95 ∧ (s 4).wrRefusal 2 5 (w 4) = none ∧ (s 3).wrRefusal 2 5 (w 3) = none ∧
      (s (1 + 64 * 2 ^ 32)).wrRefusal 2 5 (w (1 + 64 * 2 ^ 32)) = none ∧ (s (2 + 64 * 2 ^ 32)).wrRefusal 2 5 (w (2 + 64 * 2 ^ 32)) = none ∧
      (s 0x10).winRefusal 2 5 ((s 0x10).sqHeadWr 2 5) = none ∧ ((s 0x10).win 2 9).closed = 0 := by
  decide +kernel

/-- A state and operands for WorkRequestsAndWindowsAreTaken. -/
theorem test_a_request_has_no_route :
    let r : KReq := { (default : KReq) with op := 3, id := 1 }
    let s := (demoKweuz.setPln fun p => { p with active := default }).updConn 2 5 fun v => { v with reqs := [r] }
    s.maySend 2 5 = true ∧ (s.conn 2 5).outq = [] ∧ (s.conn 2 5).reads = [] ∧
      ((s.conn 2 5).reqs.find? fun x => !x.formedAll) = some r ∧ r.dev = 0 ∧ r.formed = 0 ∧
      s.route 2 (s.epochFor r) (s.conn 2 5).peerNode = none := by
  decide +kernel

/-- A state and operands for WorkRequestsAndWindowsAreTaken. -/
theorem test_a_window_is_open :
    let s := demoKweuz.updWin 2 9 fun w => { w with isOpen := true }
    (s.win 2 9).job = (s.conn 2 5).job ∧ (s.win 2 9).isOpen = true ∧ s.winInUse 2 9 = 0 ∧
      ((demoKweuz.updWin 2 9 fun w => { w with closed := 1 }).win 2 9).closed ≠ 0 := by
  decide +kernel

/-- A state and operands for ConnectionsAreSetResetAndTimed. -/
theorem test_connections_are_timed :
    let s := demoKweuz.updConn 2 5 fun v => { v with sent := [default], retries := 1, accepted := 1, srtt := 2000 }
    let f := demoKweuz.updKwp 2 fun x => { x with fetching := [5] }
    State.reset.reachesReg .core 2 Reg.KWP_CONN_CMD = true ∧
      ((State.reset.conn 2 (State.reset.connSel 2)).reqs.any fun r => !r.ended) = false ∧ s.txOn 2 = true ∧ (s.conn 2 5).cstate = 1 ∧
      (s.conn 2 5).sent.isEmpty = false ∧ (s.conn 2 5).pause = none ∧ (s.conn 2 5).retries ≠ s.rdF 2 Reg.KWP_RETRY 3 0 ∧
      (s.conn 2 5).accepted ≠ 0 ∧ (s.conn 2 5).srtt ≠ 0 ∧ (f.kwp 2).fetching.contains 5 = true ∧ f.cachePlace 2 = some 0 ∧
      ((s.updConn 2 5 fun v => { v with pause := some (4000, 6) }).conn 2 5).pause = some (4000, 6) := by
  decide +kernel

/-- A state and operands for ConnectionsAreSetResetAndTimed. -/
theorem test_retries_end :
    let s := (demoKweuz.updConn 2 5 fun v => { v with sent := [default] })
    let t := s.wr 2 Reg.KWP_RETRY 0
    t.txOn 2 = true ∧ (t.conn 2 5).cstate = 1 ∧ (t.conn 2 5).sent.isEmpty = false ∧ (t.conn 2 5).pause = none ∧
      (t.conn 2 5).retries = t.rdF 2 Reg.KWP_RETRY 3 0 := by
  decide +kernel

/-- A state and operands for EthernetPortsCountStampAndTransmit. -/
theorem test_ports_are_in_ethernet_mode :
    let s := State.reset.wr 0 Reg.PTP_CFG 0x12
    44 ≤ (List.replicate 44 (0 : Byte)).length ∧ recNat (List.replicate 44 (0 : Byte)) 0 1 % 16 = 0 ∧
      (State.reset.wr 0 Reg.PTP_CFG 0x800).rdB 0 Reg.PTP_CFG 11 = true ∧ s.rdB 0 Reg.PTP_CFG 11 = false ∧ State.reset.ethMode 2 = true ∧ s.ptpOn 2 = true ∧ State.reset.ptpOn 2 = false ∧
      (State.reset.wr 2 Reg.KWP_FEC_THRESH 4).rdN 2 Reg.KWP_FEC_THRESH < 5 ∧ State.reset.kwEn 2 = false ∧
      State.reset.takePtp 2 0 = (State.reset, none) ∧ demoKwpOn.kwEn 2 = true ∧ (demoKwpOn.takeFrame 2 0).2 = none := by
  decide +kernel

/-- A state and operands for EthernetPortsCountStampAndTransmit. -/
theorem test_a_frame_is_taken :
    let p : EPkt := { (default : EPkt) with len := 64 }
    let q := ptpPkt 2 [1]
    let s := demoKwpOn.setQueue 2 9 { (default : EQueue) with pkts := [p], deficit := 64 }
    let t := State.reset.setQueue 2 0 { (default : EQueue) with pkts := [q] }
    let u := t.updKwp 2 fun x => { x with up := [0] }
    s.kwEn 2 = true ∧ s.ethMode 2 = true ∧ (s.takeFrame 2 0).2 = some p ∧ p.ptp = false ∧ t.kwEn 2 = false ∧ (t.takePtp 2 0).2 = some q ∧
      q.ptp = true ∧ ((t.takePtp 2 0).1.kwp 2).up.contains 0 = false ∧ u.kwEn 2 = false ∧ (u.takePtp 2 0).2 = some q ∧
      ((u.takePtp 2 0).1.kwp 2).up.contains 0 = true := by
  decide +kernel

/-- A state and operands for ShapersPolicersAndSamplesOfTheTrafficBlock. -/
theorem test_traffic_registers_are_written :
    let s := State.reset.wr 2 Reg.TRC_SMP_CFG 0x00010001
    let w := fun x => State.reset.updTrc 2 fun t => { t with shapers := t.shapers.set 5 { (default : Shaper) with wait := x } }
    s.reachesReg .core 2 Reg.TRC_SHP_RATE = true ∧ s.reachesReg .core 2 Reg.TRC_SHP_BURST = true ∧
      s.reachesReg .core 2 Reg.TRC_SHP_QUEUE = true ∧ polReg Reg.TRC_POL_CFG.off = some Reg.TRC_POL_CFG ∧
      s.reachesReg .core 2 Reg.TRC_POL_CFG = true ∧ s.rdB 2 Reg.TRC_SMP_CFG 0 = true ∧ 0 < s.sampleNs 2 ∧
      (w (.fine 640)).nextFine 2 = some 640 ∧ (w (.coarse 640 none)).nextCoarse 2 = some 640 := by
  decide +kernel

/-- A state and operands for FlitsAreCheckedAndReplayed. -/
theorem test_the_mode_is_entered :
    let s := (State.reset.updBlk ⟨.kwp, 2⟩ fun b => { b with quiesced := true })
    let t := s.store 2 Reg.SLP_CFG 1
    let u := t.updCh 2 fun x => { x with slp := { x.slp with mode := true, link := freshLink } }
    let d := u.store 2 Reg.SLP_CFG 0
    s.reachesReg .core 2 Reg.SLP_CFG = true ∧ t.rdB 2 Reg.SLP_CFG 0 = true ∧ (t.ch 2).slp.mode = false ∧ t.rdB 2 Reg.KWP_CFG 0 = false ∧
      (t.blkSt ⟨.kwp, 2⟩).quiesced = true ∧ u.reachesReg .core 2 Reg.SLP_CFG = true ∧ d.rdB 2 Reg.SLP_CFG 0 = false ∧
      (d.ch 2).slp.mode = true ∧ u.solMode 2 = true ∧ (u.link 2).up = false ∧ ((u.updLink 2 fun l => { l with up := true }).link 2).up = true := by
  decide +kernel

/-- A state and operands for FlitsAreCheckedAndReplayed. -/
theorem test_flits_are_checked :
    ([0, 1, 2].map fun ty => (flitCheck (flitOf (freshLink.hdr ty 0 0) [])).map fun x =>
      (x.2, nfld (recNat x.1 0 8) 1 0, nfld (recNat x.1 0 8) 11 2)) = [some (0, 0, 0), some (0, 1, 0), some (0, 2, 0)] ∧ flitCheck [1] = none := by
  decide +kernel

/-- A state and operands for RackAccessesAreServedAtTheTarget. -/
theorem test_an_access_arrives :
    let good := fun k => demoRack (demoAccess k)
    let bad := fun k => (good k).wr 2 Reg.SLP_RGN_KEY 78 1
    let taken := fun (s : State) k => (s.updSlp 2 fun y => { y with inbox := y.inbox.erase (0, demoAccess k) }).freeSlots 0 (demoAccess k)
    ∀ x ∈ [(1, 16), (2, 17), (3, 18)], (((good x.1).slp 2).inbox.find? fun y => y.2.mtype == x.1) = some (0, demoAccess x.1) ∧
      (good x.1).slpTakes 2 = true ∧ (good x.1).rackCheck 2 (demoAccess x.1) (demoAccess x.1).span [x.2] = none ∧
      (good x.1).snoopClear [(rackT1 (demoAccess x.1).addr, (demoAccess x.1).span, x.1 != 1)] = true ∧
      (taken (good x.1) x.1).rackCheck 2 (demoAccess x.1) (demoAccess x.1).span [x.2] = none ∧
      ((bad x.1).rackCheck 2 (demoAccess x.1) (demoAccess x.1).span [x.2]).isSome = true ∧ (bad x.1).slpTakes 2 = true ∧
      (taken (bad x.1) x.1).rackCheck 2 (demoAccess x.1) (demoAccess x.1).span [x.2] = some (0xA0, true) := by
  decide +kernel

/-- A state and operands for RackAccessesAreServedAtTheTarget: an NMO that fills 8 bytes, a message to an open receive queue, and a
device's own message. -/
theorem test_an_operation_and_messages_arrive :
    let n := demoAccess 4 (padTo 32 ([1, 0, 0, 0] ++ leBytes 4 8))
    let t := ((demoRack n).updSlp 2 fun y => { y with inbox := y.inbox.erase (0, n) }).freeSlots 0 n
    let f := t.updNmo 2 fun x => { x with running := List.replicate 8 default }
    let m : SMsg := { (default : SMsg) with mtype := 5, dstCh := 2, addr := 6, key := 77 }
    let q := ((demoRack m).wr 2 Reg.SLP_RXQ_CFG 0x0003000D 6).wr 2 Reg.SLP_RXQ_KEY 77 6
    let d : SMsg := { (default : SMsg) with mtype := 6, dstCh := 2 }
    let v := ((demoRack d).wr 2 Reg.SLP_CFG 2).setPln fun p => { p with active := { Plan.dflt with sections := [⟨6, 2, padTo 520 (List.replicate 8 0 ++ [0x20])⟩] } }
    (((demoRack n).slp 2).inbox.find? fun y => y.2.mtype == 4) = some (0, n) ∧ (demoRack n).ready ⟨.nmo, 2⟩ = true ∧ (demoRack n).slpTakes 2 = true ∧
      t.nmoRefusal 2 n = none ∧ (t.nmo 2).running.length < 8 ∧ (t.nmo 2).waiting = [] ∧ f.nmoRefusal 2 n = none ∧ 8 ≤ (f.nmo 2).running.length ∧
      ((q.slp 2).inbox.find? fun y => y.2.mtype == 5) = some (0, m) ∧ m.addr % 256 = 6 ∧ q.slpTakes 2 = true ∧ q.serves 2 = true ∧ q.enabledCh 2 = true ∧
      q.rdB 2 Reg.SLP_RXQ_CFG 0 6 = true ∧ m.key = q.rdN 2 Reg.SLP_RXQ_KEY 6 ∧
      ringFull (2 ^ q.rdF 2 Reg.SLP_RXQ_CFG 5 1 6) (q.rdN 2 Reg.SLP_RXQ_HEAD 6) (q.rdN 2 Reg.SLP_RXQ_TAIL 6) = false ∧
      ((v.slp 2).inbox.find? fun y => y.2.mtype == 6) = some (0, d) ∧ v.slpTakes 2 = true ∧ v.serves 2 = true ∧ v.rdB 2 Reg.SLP_CFG 1 = true ∧
      (v.slotWord 2 d.srcSlot).testBit 5 = true := by
  decide +kernel

/-- A state and operands for RackAccessesAreServedAtTheTarget. -/
theorem test_operations_run :
    let o : NmoOp := { (default : NmoOp) with id := 1 }
    let s := State.reset.updNmo 2 fun x => { x with running := [o], waiting := [default] }
    (s.nmo 2).running[0]? = some o ∧ s.snoopClear o.touches = true ∧ s.rgnCoherent 2 o.msg = false ∧ (s.nmo 2).waiting = [default] ∧
      (s.nmo 2).running.length < 8 ∧ (demoReady s).ready ⟨.nmo, 2⟩ = true := by
  decide +kernel

/-- A state and operands for ResponsesStallsAndSolrovCommands. -/
theorem test_a_response_arrives :
    let m : SMsg := { (default : SMsg) with mtype := 0x10, tag := 5, srcSlot := 9 }
    let t : STag := { (default : STag) with live := true, slot := 9, mtype := 1 }
    let s := State.reset.updSlp 2 fun y => { y with inbox := [(0, m)], tags := y.tags.set 5 t, dead := [8] }
    ((s.slp 2).inbox.find? fun y => y.2.mtype == 0x10) = some (0, m) ∧ s.slotDead 2 9 = false ∧ s.slotDead 2 8 = true ∧
      ((s.slp 2).tags.at 5).live = true ∧ answerTo 1 0x10 = true ∧ (s.ordNext 2).cohOn 2 = false ∧ (s.stallDue 2 9).isSome = true ∧
      s.reachesReg .core 2 Reg.SLP_ABANDON = true := by
  decide +kernel

/-- A state and operands for ResponsesStallsAndSolrovCommands. -/
theorem test_solrov_commands_act :
    let c := fun op => ({ (default : Cmd) with op := op, job := 3 } : Cmd)
    let s := demoReady State.reset
    let t := fun op => s.taken 2 2 (c op)
    (∀ op ∈ [0xA0, 0xA1, 0xA2, 0xA3], s.comesNext 2 2 (c op) = true ∧ ((t op).engine 2 2).holder = some (c op) ∧
      (t op).enabledCh 2 = true ∧ (t op).cmdsOut 2 < 256) := by
  decide +kernel

/-- A state and operands for CoherenceRequestsReachTheArbiter. -/
theorem test_messages_reach_the_arbiter :
    let s := fun k => demoCoh k 0
    let t := fun k => ((s k).updSlp 2 fun y => { y with inbox := y.inbox.erase (0, demoMsg k 0) }).freeSlots 0 (demoMsg k 0)
    (∀ k ∈ [0x40, 0x45, 0x48], (((s k).slp 2).inbox.find? fun y => y.2.mtype == k) = some (0, demoMsg k 0)) ∧ (t 0x40).cohOn 2 = true ∧
      (demoMsg 0x40 0).domain = (t 0x40).domainId 2 ∧ (t 0x40).isArb 2 = true ∧ (t 0x48).slotDead 2 0 = false ∧
      (s 0x40).memberOf 2 0 = some 0 ∧ ((s 0x40).fent 2 0).trans = none ∧
      ((s 0x40).ccx 2).resv.any (fun r => r.gran == 0 && r.who != 0) = false ∧
      (((s 0x40).setFent 2 0 { (default : FEntry) with there := true }).fent 2 0).there = true ∧ (t 0x40).rivals 2 0 = [] ∧
      (t 0x40).memberOf 2 0 = some 0 := by
  decide +kernel

/-- A state and operands for CoherenceRequestsReachTheArbiter: member 0's RD_S waits while member 1's RD_S for the same line is taken. -/
theorem test_requests_of_one_cycle_tie :
    let m := { demoMsg 0x40 0 with srcSlot := 1 }
    let s := ((demoCoh 0x40 0).wr 2 Reg.CCX_MEMBER_MASK 3).wr 2 Reg.CCX_SLOTS_A 0x0100
    s.memberOf 2 m.srcSlot = some 1 ∧ (s.fent 2 m.gran).trans = none ∧ (s.ccx 2).resv.any (fun r => r.gran == m.gran) = false ∧
      (s.rivals 2 m.gran).map (fun x => x.1) = [0] ∧
      s.firstOf 2 ((requesterOf 0 1, s.aged 2 m) :: (s.rivals 2 m.gran).map fun x => (x.1, s.aged 2 x.2.2)) = 0 := by
  decide +kernel

/-- A state and operands for CoherenceAgentsAnswerAndTakeData. -/
theorem test_messages_reach_the_agent :
    let s := fun k => demoCoh k 5
    let t := fun k => ((s k).updSlp 2 fun y => { y with inbox := y.inbox.erase (0, demoMsg k 5) }).freeSlots 0 (demoMsg k 5)
    let tag := fun (u : TagUse) => (t 0x53).updSlp 2 fun x => { x with tags := x.tags.set 5 { (default : STag) with live := true, use := u } }
    (∀ k ∈ [0x50, 0x53, 0x58, 0x60], (((s k).slp 2).inbox.find? fun y => y.2.mtype == k) = some (0, demoMsg k 5)) ∧ (t 0x50).cohOn 2 = true ∧
      (demoMsg 0x50 5).domain = (t 0x50).domainId 2 ∧ (t 0x50).isAgent 2 = true ∧ (t 0x53).slotDead 2 0 = false ∧
      (tag (.agent 9)).agentTag 2 5 = some 9 ∧ (tag (.home 9)).agentTag 2 5 = none ∧ (tag (.home 9)).homeTag 2 5 = some 9 ∧
      (t 0x58).vpoison (rackT1 0) 128 = false ∧ snoopOf 0x52 LineState.s = some (false, false, .i) ∧
      ((t 0x50).updCcx 2 fun x => { x with lines := x.lines.set 9 { (default : CLine) with resend := some 700 } }).resends 2 = [(700, true, 9)] := by
  decide +kernel

/-- A state and operands for CoherenceAgentsAnswerAndTakeData: a flush of two granules. -/
theorem test_a_flush_is_taken :
    let k : Cmd := { (default : Cmd) with op := 0x0A4, job := 3, payload := leBytes 8 4096 ++ leBytes 8 256 }
    let t := demoShared.taken 2 2 k
    let v := t.updSlp 2 fun x => { x with held := false }
    let x := v.translateRange 2 3 4096 256 false 2
    demoShared.comesNext 2 2 k = true ∧ (t.engine 2 2).holder = some k ∧ t.enabledCh 2 = true ∧ t.cmdsOut 2 < 256 ∧
      recNat k.payload 0 8 = 4096 ∧ recNat k.payload 8 8 = 256 ∧ x.2.toOption = some [(rackBase, 256)] ∧
      (inRack rackBase && (v.cohEntry 2 rackBase 256).isSome) = true ∧ (v.remoteKey 2 3 rackBase 256).isSome = true := by
  decide +kernel

/-- A state and operands for CoherenceDomainsJoinBeatAndDie. -/
theorem test_domain_messages_arrive :
    let s := fun k => demoCoh k 0
    let d := fun n => (demoCoh 0 0).updCcx 2 fun x => { x with dstate := n, up := [0, 1] }
    let t := fun k => ((s k).updSlp 2 fun y => { y with inbox := y.inbox.erase (0, demoMsg k 0) }).freeSlots 0 (demoMsg k 0)
    (∀ k ∈ [0x70, 0x71, 0x74, 0x75, 0x76], (((s k).slp 2).inbox.find? fun y => y.2.mtype == k) = some (0, demoMsg k 0)) ∧
      (t 0x70).memberOf 2 0 = some 0 ∧ (t 0x70).isController 2 = true ∧ (d 0).reachesReg .core 2 Reg.CCX_CMD = true ∧ (d 0).isAgent 2 = true ∧
      ((d 2).ccx 2).dstate = 2 ∧ ((d 2).ccx 2).up.contains 1 = true ∧ (d 2).serves 2 = true ∧ (d 2).memberSlot 2 0 = (d 2).selfSlot 2 ∧
      ((d 2).wr 2 Reg.CCX_SLOTS_A 3).memberSlot 2 0 ≠ ((d 2).wr 2 Reg.CCX_SLOTS_A 3).selfSlot 2 ∧
      ((d 2).wr 2 Reg.CCX_CFG 0x0B).isController 2 = false ∧ ((d 2).wr 2 Reg.CCX_CFG 0x0B).isAgent 2 = true := by
  decide +kernel

/-- A state and operands for ChannelsAndCapacityAreComposed. -/
theorem test_capacity_is_composed :
    let s := demoHost
    let x : DcExtent := { (default : DcExtent) with region := 1, stateBase := t1Base 2 + 0x40000000, length := 0x200000 }
    let p := s.setCmp fun x => { x with entries := x.entries.set 7 { (default : CompEntry) with pending := true, ld := 4, dpaBase := 64 } }
    let v := s.setCmp fun x => { x with entries := x.entries.set 7 { (default : CompEntry) with valid := true, ld := 4, dpaBase := 64 } }
    s.released = true ∧ s.maskOk 12 = true ∧ s.maskOk 0x10000 = false ∧ s.boundHere 4 4 = false ∧ s.cmp.retiring = none ∧
      (s.wrAt (jscPage 2) 0x200 1 3).boundHere 0 4 = true ∧
      s.extentsOk 4 ((s.cmp.entries.filter fun e => e.2.used).map Prod.snd) [x] = true ∧ [x].length ≤ s.freeEntries.length ∧
      (p.cmp.entries.filter fun e => e.2.pending && e.2.num == 4).isEmpty = false ∧
      ((p.cmp.entries.filter fun e => e.2.pending && e.2.num == 4).filter fun e => [64].contains e.2.dpaBase).isEmpty = false ∧
      (v.cmp.entries.filter fun e => e.2.valid && e.2.num == 4 && [64].contains e.2.dpaBase).length = [64].length ∧
      (s.compEpoch.cmp.retiring = some s.cmp.epoch ∧ s.compEpoch.compInflight s.cmp.epoch = 0) ∧
      (let b := (p.setCmp fun x => { x with retiring := some 9, waiting := [⟨4, 0, 0, false, 0, [], 9, noJob, 0⟩] })
       b.released = true ∧ b.cmp.retiring = some 9 ∧ b.compInflight 9 ≠ 0 ∧ b.maskOk 12 = true ∧ b.boundHere 4 12 = false ∧
       (b.cmp.entries.any fun e => e.2.pending && e.2.num == 4 && [64].contains e.2.dpaBase) = true) := by
  decide +kernel

/-- A state and operands for HostsReadWriteAndAreSnooped. -/
theorem test_hosts_access_memory :
    let d := (demoHost.wr 0 Reg.CMP_CFG 1).updPort 0 fun x => { x with linkUp := true }
    let s := d.updBlk cmpPage fun b => { b with st := .running }
    let e : CompEntry := { (default : CompEntry) with valid := true, length := 4096, stateBase := 0x1000000000 }
    let c := s.setCmp fun x => { x with entries := x.entries.set 7 e }
    let f := c.setBoot fun b => { b with chOut := b.chOut.set (t1Channel 0x1000000040) .out }
    let n := s.setCmp fun x => { x with snoops := [⟨0, 5, false, 0⟩], filter := x.filter.set 5 { (default : BifEntry) with holdA := some 0 } }
    let w := c.setCmp fun x => { x with snoops := [⟨0, 0x40000001, false, 0⟩], filter := x.filter.set 0x40000001 { (default : BifEntry) with holdA := some 0 } }
    s.released = true ∧ s.portCarries 0 = true ∧ s.ldEnabled 0 = true ∧ s.ldEnabled 1 = false ∧ s.ready cmpPage = true ∧ d.ready cmpPage = false ∧
      s.ras.fatal = none ∧ s.compMap 0 64 = none ∧ c.compMap 0 64 = some 0x1000000040 ∧ c.withheld 0x1000000040 = false ∧ c.writesBack 0 0x1000000040 = false ∧
      f.compMap 0 64 = some 0x1000000040 ∧ f.withheld 0x1000000040 = true ∧ (d.compMap 0 64).any (d.writesBack 0) = false ∧
      w.compMap 0 64 = some 0x1000000040 ∧ w.withheld 0x1000000040 = false ∧ w.writesBack 0 0x1000000040 = true ∧
      (n.cmp.snoops.find? fun x => x.ld == 0 && x.line == 5) = some ⟨0, 5, false, 0⟩ ∧ (n.biDue 0).isSome = true ∧
      (n.cmp.filter.at 5).holdA = some 0 := by
  decide +kernel

/-- A state and operands for SharesAndConfigurationAnswerHosts. -/
theorem test_shares_are_asked :
    let k : Cmd := { (default : Cmd) with op := 0x0E0, job := 3, payload := leBytes 8 5 ++ leBytes 8 0 ++ leBytes 8 1 ++ leBytes 8 0x100000000000 ++ leBytes 8 64 }
    let n := demoHeld k demoKwpOn
    let s := n.setCmp fun x => { x with shares := x.shares.set 5 { (default : Share) with valid := true, tenant := n.tenant 2 3 } }
    (∀ x ∈ [n, s], x.occupy 2 0 k = x ∧ x.holdsCmd 2 0 k = true) ∧ nfld (recNat k.payload 0 2) 9 0 = 5 ∧ (n.share 5).valid = false ∧
      (s.share 5).valid = true ∧ s.shareOk 2 k 5 = true ∧ n.shareOk 2 k 5 = false ∧ s.rangeInRegion 2 3 0x100000000000 64 false = true ∧
      demoHost.released = true ∧ State.reset.released = false ∧ demoHost.ldEnabled 0 = true ∧ demoHost.ldEnabled 1 = false ∧
      demoHost.doeUp 0 = true := by
  decide +kernel

/-- A state and operands for AttestationRequestsAreAnsweredInOrder. -/
theorem test_attestation_is_asked :
    let s := (demoHost.updSpdm 0 fun x => { x with gotVersion := true, gotCaps := true, negotiated := true })
    demoHost.spdmUp 0 = true ∧ s.spdmUp 0 = true ∧ (s.spdm 0).gotVersion = true ∧ (s.spdm 0).gotCaps = true ∧ (s.spdm 0).negotiated = true ∧
      (demoHost.spdm 0).gotVersion = false ∧ (demoHost.spdm 0).gotCaps = false ∧ (demoHost.spdm 0).negotiated = false ∧
      ([true, true, true, true].take 4).contains false = false ∧ ((s.setSec fun x => { x with meas := x.meas.set 1 [7] }).measured.filter fun i => i == 1) ≠ [] := by
  decide +kernel

/-- A state and operands for SessionsAreOpenedKeyedAndEnded. -/
theorem test_a_session_is_open :
    let n := (demoHost.updSpdm 0 fun x => { x with gotVersion := true, gotCaps := true, negotiated := true })
    let s := n.updSpdm 0 fun x => { x with sessions := [⟨5, false, 0⟩, ⟨6, true, 0⟩] }
    let f := n.updSpdm 0 fun x => { x with sessions := [⟨5, true, 0⟩, ⟨6, true, 0⟩, ⟨7, true, 0⟩, ⟨8, true, 0⟩] }
    s.spdmUp 0 = true ∧ (s.spdm 0).negotiated = true ∧ (s.placeSessions (spdmPlace 0)).length < placeLimit (spdmPlace 0) ∧
      ((s.spdm 0).sessions.any fun x => x.id == 5 && x.established == false) = true ∧
      ((s.spdm 0).sessions.any fun x => x.id == 6 && x.established == true) = true ∧ ((s.spdm 0).sessions.any fun x => x.id == 9) = false ∧
      placeLimit (spdmPlace 0) ≤ (f.placeSessions (spdmPlace 0)).length := by
  decide +kernel

/-- A state and operands for MailboxesHoldMessagesAndAnswerThem. -/
theorem test_mailboxes_are_used :
    let s := (demoHost.wr 0 Reg.MBX_CFG 1).updBlk mbxPage fun b => { b with st := .running }
    let f := (s.updBox 3 fun b => { b with full := true, seq := 9 }).setMbx fun x => { x with latch := some (3, 9, 0) }
    let g := (s.updBox 1030 fun b => { b with full := true, seq := 9 }).setMbx fun x => { x with latch := some (1030, 9, 0) }
    s.seesBox (.ld 0) 3 = true ∧ s.rdB 0 Reg.MBX_CFG 0 = true ∧ s.ready mbxPage = true ∧ (s.box 3).full = false ∧ (f.box 3).full = true ∧ (f.box 3).seq = 9 ∧
      8 / 4 < boxWords 3 ∧ f.reachesReg .core 0 Reg.MBX_RX_CTRL = true ∧ f.mbx.latch = some (3, 9, 0) ∧ f.seesBox (.ld 0) 3 = true ∧
      s.mbx.latch = none ∧ s.canRead .core mbxPage = true ∧ g.reachesReg .core 0 Reg.MBX_RX_ACK = true ∧ (g.box 1030).seq = 9 ∧
      (g.box 1030).full = true ∧ s.reachesReg .core 0 Reg.MBX_ROUTE = true ∧ s.routable 3 = true := by
  decide +kernel

/-- A state and operands for PowerRisesFusesLoadAndImagesAreChecked. -/
theorem test_a_boot_goes_on :
    let p := fun (x : BootPhase) (cxl : Bool) => (State.reset.setBoot fun b => { b with pwrGood := true, phase := x, srcCxl := cxl })
    State.reset.boot.pwrGood = false ∧ State.reset.psq.tripped = false ∧ (p .fuses true).boot.phase = .fuses ∧
      overlaps (p .image true).boot.chunks 0 4096 = false ∧ (p .verify true).boot.phase = (if (p .verify true).boot.srcCxl then .verify else .image) ∧
      bootCheck (p .verify true).boot.fuses (p .verify true).gotImage = 1 := by
  decide +kernel

/-- A state and operands for ResetsAndUpdatesOfTheFirmware. -/
theorem test_an_update_runs :
    let r := State.reset.updCore 3 fun x => { x with st := .running }
    let w := r.updCore 1 fun x => { x with st := .running }
    let u : CoreUpdate := { (default : CoreUpdate) with core := 3, step := 1, standin := 1, len := 4 }
    let s := r.setUpdate (coreDie 3) (some u)
    State.reset.reachesReg .core 0 Reg.BOOT_CTRL = true ∧ State.reset.reachesReg .core 0 Reg.BOOT_UPD_CMD = true ∧
      (State.reset.setBoot fun b => { b with phase := .failed }).reachesReg .fm 0 Reg.BOOT_CTRL = true ∧ State.reset.tim.cad = .stopped ∧
      (State.reset.setTim fun t => { t with cad := .running }).reachesReg .core 0 Reg.BOOT_CTRL = true ∧
      (w.updateOn (coreDie 3)).isSome = false ∧ (w.core 3).st = .running ∧ (w.standinOf 3 1).toOption = some 1 ∧ s.updateOn (coreDie 3) = some u ∧
      s.vpoison u.addr u.len = false ∧ updateCheck s.boot.fuses 3 (s.vread u.addr u.len) = 1 := by
  decide +kernel

/-- A state and operands for ChannelsLeaveAndReturnAndFlashIsKept. -/
theorem test_channels_and_flash :
    let o := State.reset.setChSvc 2 .out
    let f := (State.reset.updCore 5 fun x => { x with st := .running, svn := 9 }).setBoot fun b => { b with phase := .released }
    State.reset.reachesReg .core 0 Reg.BOOT_CH_CMD = true ∧ State.reset.enabledCh 2 = true ∧ State.reset.chSvc 2 = .inService ∧
      State.reset.canGoOut 2 = true ∧ o.chSvc 2 = .out ∧ (State.reset.setChSvc 2 .retraining).chSvc 2 = .retraining ∧
      State.reset.reachesReg .core 0 Reg.BOOT_NOR_CMD = true ∧ inChain State.reset.norAddr 256 = false ∧
      65536 * (State.reset.norAddr / 65536) < chainBase ∧ f.reachesReg .mgmt 0 Reg.SEC_SVN_BURN = true ∧
      f.reachesReg .mgmt 0 Reg.SEC_KEY_REVOKE = true ∧ f.boot.fuses.svn < 3 ∧ mayBurn .mgmt = true ∧
      (f.runningCores.all fun k => decide ((f.core k).svn < 3)) = false ∧ (2 : Nat).testBit f.sec.keySlot = false := by
  decide +kernel

/-- A state and operands for PowerSequencerSamplesAndThrottles. -/
theorem test_power_is_sequenced :
    let r := State.reset.setDom 16 .ramping
    let h := State.reset.wr 0 Reg.PSQ_CFG 0x100
    let m := State.reset.setPsq fun p => { p with samples := 2, sampleSum := 4, temps := p.temps.set 0 4000 }
    let hi := State.reset.setPsq fun p => { p with samples := 2, sampleSum := 840001 }
    let at_ := State.reset.setPsq fun p => { p with samples := 2, sampleSum := 840000 }
    r.domSt 16 = .ramping ∧ domCore 16 = some 4 ∧ domCore 0 = none ∧ h.enabledCh 2 = true ∧ h.pdEn = true ∧ h.domSt 2 = .on ∧
      ((h.ch 2).jsc.engines.at 1).holder = none ∧ h.domSt (coreDom 5) = .on ∧ m.psq.samples ≠ 0 ∧ m.psq.sampleSum ≤ m.pwrLimit * m.psq.samples ∧
      m.psq.sampleSum * 100 < m.pwrLimit * 95 * m.psq.samples ∧ hi.pwrLimit * hi.psq.samples < hi.psq.sampleSum ∧
      at_.psq.sampleSum ≤ at_.pwrLimit * at_.psq.samples ∧ at_.pwrLimit * 95 * at_.psq.samples ≤ at_.psq.sampleSum * 100 ∧
      State.reset.reachesReg .core 0 Reg.PSQ_THROT_FORCE = true ∧ (m.setPsq fun p => { p with hotSince := some 0 }).tripAt.isSome = true := by
  decide +kernel

/-- A state and operands for ReferencesAndClockDomainsAreWatched. -/
theorem test_references_are_lost :
    State.reset.clk.lost.at 0 = false ∧ (State.reset.setClk fun x => { x with lost := x.lost.set 6 true }).clk.lost.at 6 = true ∧
      State.reset.clkDom 12 = true ∧ State.reset.clkDom 96 = true ∧ State.reset.clk.unlocked.at 12 = false := by
  decide +kernel

/-- A state and operands for FaultsAreLoggedByClass. -/
theorem test_faults_have_classes :
    let u := State.reset.updCore 5 fun x => { x with st := .running }
    let w := State.reset.updCore 2 fun x => { x with st := .running }
    let z := State.reset.updCore 20 fun x => { x with st := .running }
    let i := State.reset.updPgm 2 fun x => { x with used := [3], poolSlots := 5 }
    i.enabledCh 2 = true ∧ i.inImage 2 (i.slotAddr 2 3) = true ∧ i.inImage 2 (i.sideAddr 2 3 + 4095) = true ∧
      i.inImage 2 (i.sideAddr 2 3 + 4096) = false ∧ i.inImage 2 (i.slotAddr 2 2) = false ∧
      sourceClass 0x10 = 1 ∧ sourceClass 0x20 = 2 ∧ sourceClass 0x30 = 3 ∧ sourceClass 0x41 = 4 ∧ sourceClass 0x50 = 5 ∧ sourceClass 0x60 = 0 ∧
      State.reset.pageExists (jscPage 2) = true ∧ (jscPage 2).blk.perChannel = true ∧ rasPage.blk.perChannel = false ∧
      State.reset.ras.fatal = none ∧ (State.reset.rasCh 2).svc = .inService ∧ State.reset.slotFree = true ∧
      ((State.reset.updRas 2 fun x => { x with svc := .recovering }).rasCh 2).svc = .recovering ∧
      (State.reset.setRas fun x => { x with slot0 := some 3, slot1 := some 4 }).slotFree = false ∧
      ((u.dropUpdates 5).core 5).st ≠ .off ∧ (u.dropUpdates 5).enabledCh 1 = true ∧ ((w.dropUpdates 2).core 2).st ≠ .off ∧
      ((z.dropUpdates 20).core 20).st ≠ .off ∧ State.reset.reachesReg .core 0 Reg.RAS_INJECT = true ∧ wbit 0x80001202 31 = true ∧
      State.reset.enabledCh (fld 0x80001202 3 0) = true := by
  decide +kernel

/-- A state and operands for FaultsAreLoggedByClass: a channel that is OUT, and an empty error log. -/
theorem test_faults_of_an_out_channel :
    let s := State.reset.setChSvc 2 .out
    s.isOut 2 = true ∧ State.reset.isOut 2 = false ∧ s.pageExists (jscPage 2) = true ∧ (jscPage 2).blk.perChannel = true ∧
      s.enabledCh (fld (0x80002002 : Word) 3 0) = true ∧ s.isOut (fld (0x80002002 : Word) 3 0) = true ∧
      wbit (0x80002002 : Word) 31 = true ∧ s.reachesReg .core 0 Reg.RAS_INJECT = true ∧ sourceClass (fld (0x80002002 : Word) 15 8) = 2 ∧
      wbit (State.reset.rdAt (slpPage 2) 0x020) 31 = false := by
  decide +kernel

/-- A state and operands for FaultsAreLoggedByClass: the context cache of KWP names its connection. -/
theorem test_a_kweuz_unit_fails :
    let x : ChFault := ⟨.kwp, 2, 0x44, 0, 0, 0, 3, 5⟩
    let t := State.reset.logErr (kwpPage x.ch) 0x44 0 4 x.addr x.detail
    let u := if x.kwpUnit = 3 then t.kwpError x.ch 3 (t.conn x.ch x.conn).job (kDetail x.conn 0 0) else t.kwpError x.ch 1 0 0
    let v := (u.bump 0 Reg.RAS_CHFATAL_CNT).updRas x.ch fun y => { y with source := 0x44, faultDay := State.reset.curDay }
    x.blk = .kwp ∧ x.source = 0x44 ∧ x.kwpUnit ≠ 0 ∧ State.reset.enabledCh x.ch = true ∧ State.reset.ras.fatal = none ∧
      u.boot.chOut.at x.ch = .inService ∧ (State.reset.rasCh x.ch).svc = .inService ∧ v.slotFree = true := by
  decide +kernel

/-- A state and operands for SparesSnapshotsAndWatchpoints. -/
theorem test_spares_and_debug :
    let o := State.reset.setSpr fun x => { x with offers := x.offers.upd 7 fun o => { o with pending := true } }
    let r := State.reset.updRas 2 fun x => { x with svc := .recovering, check := 1, source := 0x43 }
    let l := State.reset.setBoot fun b => { b with fuses := { b.fuses with options := 256 } }
    o.reachesReg .core 0 Reg.SPR_CMD = true ∧ (o.spr.offers.at 7).pending = true ∧ (o.spr.offers.at 8).pending = false ∧
      State.reset.reachesReg .core 0 Reg.DBG_SNAP_CMD = true ∧ State.reset.reachesReg .core 0 Reg.DBG_WP_CTRL = true ∧ l.debugLock = true ∧
      State.reset.debugLock = false ∧ State.reset.reachesReg .core 0 Reg.DBG_MEM_CMD = true ∧ r.recovering 2 = true ∧ (r.rasCh 2).check = 1 ∧
      (r.rasCh 2).source = 0x43 ∧ r.ras.fatal = none ∧ inRack (rackEnd - 64) = true ∧ (State.reset.coreParts 2 (rackEnd - 64) 64).all (fun p => !p.2.2) = true ∧
      demoShared.enabledCh 2 = true ∧ inRack (rackBase + 0xFF00) = true ∧ (demoShared.coreParts 2 (rackBase + 0xFF00) 512) =
        [(rackBase + 0xFF00, 128, true), (rackBase + 0xFF80, 128, true), (rackBase + 0x10000, 256, false)] := by
  decide +kernel

/-- A state and operands for StepRunsTheFrontCommand. -/
theorem test_a_queue_is_taken :
    ({ State.reset with pending := [.tokenTick, .powerLoss] } : State).pending = .tokenTick :: [.powerLoss] ∧ State.reset.pending = [] := by
  exact ⟨rfl, rfl⟩

/-- A state and operands for EveryStepKeepsTheCanonicalForm. -/
theorem test_reset_takes_a_step :
    State.reset.canon = true ∧ step State.reset = .next (State.reset.pass 1) := by
  exact ⟨by decide, rfl⟩

/-- A state and operands for BurnedFusesStayBurned. -/
theorem test_a_bank_is_fused :
    let s := State.reset.setBoot fun b => { b with fused := true }
    s.boot.fused = true ∧ step s = .next (s.pass 1) := by
  exact ⟨by decide, rfl⟩

/-- A state and operands for ResetBlockActsOnlyWhileQuiesced. -/
theorem test_a_block_is_quiesced :
    State.reset.reaches .core (jscPage 2) 0x008 = true ∧ (State.reset.blkSt (jscPage 2)).quiesced = false ∧
      ((State.reset.updBlk (jscPage 2) fun b => { b with quiesced := true }).blkSt (jscPage 2)).quiesced = true ∧
      wbit (State.reset.rdAt (jscPage 2) 0x020) 31 = false := by
  decide +kernel

/-- A state and operands for ReadsOfTheTimeLatchTheRest. -/
theorem test_the_time_is_read :
    State.reset.canRead .core timPage = true := by
  decide +kernel

/-- A state and operands for ReviveFreesTheQuarantinedTags. -/
theorem test_a_slot_is_dead :
    let s := State.reset.updSlp 2 fun x => { x with dead := [9], tags := x.tags.set 5 { (default : STag) with quar := true, slot := 9 } }
    (∀ x ∈ (s.slp 2).tags, x.1 < 2 ^ 34) ∧ ((s.pgm 2).moves.keysWhere fun _ m => m.any fun m => !m.paused) = [] ∧ s.reachesReg .core 2 Reg.SLP_ABANDON = true ∧ s.slotDead 2 9 = true ∧ s.slotDead 2 8 = false ∧ ((s.slp 2).tags.at 5).quar = true ∧
      ((s.slp 2).tags.at 5).slot = 9 := by
  decide +kernel

/-- A state and operands for CounterReadAnswersItsSet. -/
theorem test_a_set_matches_its_job :
    let k : Cmd := { (default : Cmd) with job := 3, payload := [1] }
    let s := (demoHeld k State.reset).wr 0 Reg.DBG_SET_MATCH 3 129
    s.occupy 2 0 k = s ∧ s.holdsCmd 2 0 k = true ∧ 129 = 2 * 64 + nfld (recNat k.payload 0 1) 5 0 ∧ (fld (s.rd 0 Reg.DBG_SET_MATCH 129) 9 0 = 3 ∧ wbit (s.rd 0 Reg.DBG_SET_MATCH 129) 10 = false) ∧
      ¬ (fld (State.reset.rd 0 Reg.DBG_SET_MATCH 129) 9 0 = 3 ∧ wbit (State.reset.rd 0 Reg.DBG_SET_MATCH 129) 10 = false) := by
  decide +kernel

/-- A state and operands for PoisonedLinesKeepTheirBytes. -/
theorem test_a_line_is_marked :
    let m : Memory := ⟨[], [2]⟩
    m.poison.contains (130 / 64) = true ∧ m.poison.contains (10 / 64) = false ∧ 128 ≤ 64 * (130 / 64) ∧ 64 * (130 / 64) < 129 := by
  decide

/-- A state and operands for AccumulatorsRescaleAndSaturate. -/
theorem test_an_accumulator_meets_a_tile :
    let x : Acc := { (default : Acc) with live := true, a := -5, ref := 2 }
    x.live = true ∧ x.sat = false ∧ x.ref < 4 ∧ (x.a + 9).natAbs ≤ 2 ^ 31 - 1 ∧ 2 ^ 31 - 1 < x.a + 2 ^ 32 ∧ x.a + -(2 ^ 32) < -(2 ^ 31 - 1) ∧
      ({ x with sat := true } : Acc).sat = true := by
  decide

/-- A state and operands for TheErrorLogKeepsTheFirstError. -/
theorem test_the_log_is_clear_and_held :
    wbit (State.reset.rdAt (jscPage 2) 0x020) 31 = false ∧ wbit ((State.reset.wrAt (jscPage 2) 0x020 0x80000001).rdAt (jscPage 2) 0x020) 31 = true := by
  decide +kernel

/-- A state and operands for WritesThatDoNotReachChangeNothing. -/
theorem test_writes_that_do_not_reach :
    let s := (State.reset.setBoot fun b => { b with phase := .released }).wrAt ⟨.jsc, 2⟩ 0x008 8
    s.gate (.ld 3) ⟨.jsc, 2⟩ = .ignore ∧ s.ldOff (.ld 3) = some 3 ∧ demoHost.gate (.ld 0) ⟨.jsc, 3⟩ = .ignore ∧ demoHost.ldOff (.ld 0) = none ∧ s.gate .core ⟨.jsc, 2⟩ = .pass ∧ s.locked ⟨.jsc, 2⟩ = true ∧ findRow .jsc 0x1FC = none ∧
      (findRow .jsc 0x144).any (fun r => r.acc == .rwl) = true := by
  decide +kernel

/-- A state and operands for FramesOfCommands. -/
theorem test_a_write_of_registers_alone :
    (Instr.lock .core timPage).writesMemory = false ∧ ∃ t, exec (.lock .core timPage) State.reset = .next t := by
  exact ⟨rfl, _, rfl⟩

/-- A state and operands for FramesOfCommands. -/
theorem test_rings_are_owned :
    let s := ((((((demoHost.wr 2 Reg.JSC_Q_CFG 0x00030001 5).wr 2 Reg.ATN_XR_CFG 0x00030001 5).wr 2 Reg.SLP_RXQ_CFG 0x00030001 5).wr 2
      Reg.JSC_PEVQ_CFG 1).wr 2 Reg.TRC_SMP_CFG 1)).wrAt (jscPage 2) 0x20C 0x00060000 3
    s.seesDoorbell (.ld 0) 2 (some 3) = true ∧ dbObj 0x0000000500000040 = 5 ∧ s.rdB 2 Reg.JSC_Q_CFG 0 5 = true ∧ s.qJob 2 5 = 3 ∧
      s.xrIs 2 5 0 = true ∧ s.xrJob 2 5 = 3 ∧ s.rdB 2 Reg.SLP_RXQ_CFG 0 5 = true ∧ s.rdF 2 Reg.SLP_RXQ_CFG 25 16 5 = 3 ∧
      s.evqOn 2 3 = true ∧ s.seesDoorbell (.ld 0) 2 none = true ∧ s.rdB 2 Reg.JSC_PEVQ_CFG 0 = true ∧ s.rdB 2 Reg.TRC_SMP_CFG 0 = true := by
  decide +kernel

/-- A state and operands for FramesOfCommands. -/
theorem test_units_are_reached :
    State.reset.reachesReg .core 0 Reg.SPR_CMD = true ∧ State.reset.reachesReg .core 2 Reg.ATU_INV_CTRL = true ∧
      State.reset.reachesReg .core 0 Reg.MBX_RX_CTRL = true := by
  decide +kernel

end Sys2Proof.Tests
end

section
/-! Proof of the statement on RESET_BLOCK (R9), with the laws of the error log and of the block reset that it cites. -/
namespace Sys2Proof.Machine

/-! ### The error log (R559) -/

/-- Two words of one page at one selector have different keys. -/
theorem regKey_ne_of_word_ne (b : Blk) (i sel : Nat) {o o' : Nat} (h : o / 4 ≠ o' / 4) :
    regKey b i o sel ≠ regKey b i o' sel := by
  unfold regKey selSpan
  omega

/-- A store at another word of the page leaves a word as it was. -/
theorem State.rdAt_wrAt_word_ne (s : State) (p : Page) {o o' : Nat} (v : Word) (h : o' / 4 ≠ o / 4) :
    (s.wrAt p o v).rdAt p o' = s.rdAt p o' := by
  rw [State.rdAt_wrAt, if_neg (regKey_ne_of_word_ne _ _ _ h)]

/-- The word that BLK_ERR_LOG captures (R559): SOURCE, JOB, CLASS and ERR. -/
def errLogWord (source job cls : Nat) : Word :=
  BitVec.ofNat 32 (fieldAt 0 8 source + fieldAt 8 10 job + fieldAt 28 3 cls + 2 ^ 31)

/-- The captured word as a number: its fields do not overlap. -/
theorem errLogWord_toNat (source job cls : Nat) :
    (errLogWord source job cls).toNat = source % 256 + job % 1024 * 256 + cls % 8 * 2 ^ 28 + 2 ^ 31 := by
  simp only [errLogWord, fieldAt, BitVec.toNat_ofNat]
  omega

/-- SOURCE of the captured word. -/
theorem fld_errLogWord_source (source job cls : Nat) : fld (errLogWord source job cls) 7 0 = source % 256 := by
  unfold fld
  rw [errLogWord_toNat]
  omega

/-- The captured word shows that the log holds an error. -/
theorem wbit_errLogWord (source job cls : Nat) : wbit (errLogWord source job cls) 31 = true := by
  unfold wbit
  rw [BitVec.getLsbD, errLogWord_toNat, Nat.testBit_eq_decide_div_mod_eq, decide_eq_true_eq]
  omega

/-- A log that holds no error captures the error. -/
theorem State.rdAt_errLog_logErr (s : State) (p : Page) (source job cls addr detail : Nat) (clear : wbit (s.rdAt p 0x020) 31 = false) :
    (s.logErr p source job cls addr detail).rdAt p 0x020 = errLogWord source job cls := by
  unfold State.logErr
  rw [clear]
  simp only [Bool.false_eq_true, if_false]
  iterate 5 rw [State.rdAt_wrAt_word_ne _ _ _ (by decide)]
  exact State.rdAt_wrAt_same ..

/-! ### The write of RESET_BLOCK (R9) -/

variable {s : State} {p : Page}

/-- RESET_BLOCK that reaches BLK_CTRL is the block's own behaviour. -/
theorem exec_resetBlock_of_reaches {rq : Requester} (h : s.reaches rq p 0x008 = true) (clearQuiesce : Bool) :
    exec (.resetBlock rq p clearQuiesce) s = .next (s.resetBlock p clearQuiesce) :=
  congrArg Host.Outcome.next (State.withWrite_of_reaches h _ _)

/-- While QUIESCED the block is reset, and only then is QUIESCE cleared. -/
theorem State.resetBlock_of_quiesced (h : (s.blkSt p).quiesced = true) (clearQuiesce : Bool) :
    s.resetBlock p clearQuiesce = (s.resetWork p).when clearQuiesce fun s => s.mayReady p fun s => s.setQuiesce p false := by
  unfold State.resetBlock
  rw [if_pos h]

/-- Otherwise the write is recorded, and QUIESCE is still cleared by it (log entry 39). -/
theorem State.resetBlock_of_not_quiesced (h : (s.blkSt p).quiesced = false) (clearQuiesce : Bool) :
    s.resetBlock p clearQuiesce =
      (s.logIgnored p 0x008 (if clearQuiesce then 4 else 6)).when clearQuiesce fun s => s.mayReady p fun s => s.setQuiesce p false := by
  unfold State.resetBlock
  rw [h, if_neg Bool.false_ne_true]

/-- Settles O52, by the reading of QUIESCED before the write; the record is the one that an empty log captures. -/
theorem resetBlockActsOnlyWhileQuiesced : Obligations.ResetBlockActsOnlyWhileQuiesced := by
  intro s rq p reach
  have run := exec_resetBlock_of_reaches reach
  refine ⟨fun quiesced => ⟨?_, ?_⟩, fun active => ⟨?_, ?_, fun clear => ⟨?_, ?_⟩⟩⟩
  · rw [run, State.resetBlock_of_quiesced quiesced, State.when_false]
    rfl
  · rw [run, State.resetBlock_of_quiesced quiesced, State.when_true]
    rfl
  · rw [run, State.resetBlock_of_not_quiesced active, State.when_false]
    rfl
  · rw [run, State.resetBlock_of_not_quiesced active, State.when_true]
    rfl
  · rw [State.rdAt_errLog_logErr s p _ _ _ _ _ clear, fld_errLogWord_source]
  · rw [State.rdAt_errLog_logErr s p _ _ _ _ _ clear, wbit_errLogWord]

end Sys2Proof.Machine
end

section
/-! Proof of the statement on REVIVE (R426): what of SLP's state the operations leave alone that a returned tag sets going, and what
returning a list of tags makes of the tag table. -/
namespace Sys2Proof.Machine

variable (s : State) (j : Nat)

/-! ### SLP's state under the plain operations -/

theorem SameRest.slp {s t : State} (h : SameRest s t) (j : Nat) : t.slp j = s.slp j := by
  unfold State.slp State.ch
  rw [h.chan]

@[simp] theorem State.slp_wr (i : Nat) (r : RegId) (v : Word) (sel : Nat) : (s.wr i r v sel).slp j = s.slp j :=
  (State.wr_rest ..).slp j
@[simp] theorem State.slp_bump (i : Nat) (r : RegId) (n sel : Nat) : (s.bump i r n sel).slp j = s.slp j :=
  (State.bump_rest ..).slp j
@[simp] theorem State.slp_emit (m : OutMsg) : (s.emit m).slp j = s.slp j := (State.emit_rest ..).slp j
@[simp] theorem State.slp_logErr (p : Page) (source job cls addr detail : Nat) : (s.logErr p source job cls addr detail).slp j = s.slp j :=
  (State.logErr_rest ..).slp j
@[simp] theorem State.slp_evt (p : Page) (n : Nat) : (s.evt p n).slp j = s.slp j := (State.evt_rest ..).slp j
@[simp] theorem State.slp_postPriv (c : Nat) (r : List Byte) : (s.postPriv c r).slp j = s.slp j := (State.postPriv_rest ..).slp j
@[simp] theorem State.slp_t2Send (job a n : Nat) (write : Bool) : (s.t2Send job a n write).slp j = s.slp j :=
  (State.t2Send_rest ..).slp j
@[simp] theorem State.slp_dcode (a : Nat) (bs : List Byte) (job : Nat) : (s.dcode a bs job).1.slp j = s.slp j :=
  (State.dcode_rest ..).slp j
@[simp] theorem State.slp_zCheck (z : ZRegion) (a : Nat) : (s.zCheck z a).1.slp j = s.slp j := (State.zCheck_rest ..).slp j
@[simp] theorem State.slp_drawBytes (n : Nat) : (s.drawBytes n).2.slp j = s.slp j := rfl

/-- A change of a channel's other state leaves SLP's alone. -/
theorem State.slp_updCh (c : Nat) (f : Chan → Chan) (hf : ∀ x, (f x).slp = x.slp) : (s.updCh c f).slp j = s.slp j := by
  unfold State.slp
  rw [State.ch_updCh]
  split
  · next h => rw [hf, h]
  · rfl

/-- A conditional change leaves what its change leaves. -/
@[simp] theorem State.slp_when (c : Bool) (f : State → State) (hf : ∀ t, (f t).slp j = t.slp j) : (s.when c f).slp j = s.slp j := by
  cases c
  · rw [State.when_false]
  · rw [State.when_true, hf]

/-- A change per element leaves what each of them leaves. -/
@[simp] theorem State.slp_each {α : Type} (l : List α) (f : State → α → State) (hf : ∀ t a, (f t a).slp j = t.slp j) :
    (s.each l f).slp j = s.slp j := by
  induction l generalizing s with
  | nil => rw [State.each_nil]
  | cons a l ih => rw [State.each_cons, ih, hf]

/-! ### Events and memory -/

@[simp] theorem State.slp_deferred (p : Page) (source job addr : Nat) : (s.deferred p source job addr).slp j = s.slp j := by
  unfold State.deferred
  exact (State.slp_bump ..).trans (State.slp_logErr ..)

@[simp] theorem State.slp_putEvent (c k : Nat) (r : List Byte) : (s.putEvent c k r).1.slp j = s.slp j := by
  unfold State.putEvent
  extract_lets size tail d t q
  split
  · have dropped : t.slp j = s.slp j := by
      refine (State.slp_updCh _ j c _ ?_).trans (State.slp_bump ..)
      exact fun _ => rfl
    simp only [State.slp_when, State.slp_postPriv, State.slp_evt, implies_true, dropped]
  · simp only [State.slp_wr, State.slp_dcode, q]

@[simp] theorem State.slp_postJobs (fuel c k : Nat) (r : List Byte) : (State.postJobs fuel s c k r).slp j = s.slp j := by
  induction fuel generalizing s c k r with
  | zero => exact State.slp_putEvent ..
  | succ n ih =>
    unfold State.postJobs
    refine (State.slp_each _ j _ _ fun t note => ?_).trans (State.slp_putEvent ..)
    cases note with
    | ready => exact State.slp_evt ..
    | bad => exact (ih _ _ _ _).trans ((State.slp_evt ..).trans (State.slp_deferred ..))

@[simp] theorem State.slp_evtJob (c : Nat) (b : Blk) (bit code cause gen req job detail : Nat) :
    (s.evtJob c b bit code cause gen req job detail).slp j = s.slp j := by
  unfold State.evtJob State.postJob
  exact (State.slp_postJobs ..).trans (State.slp_evt ..)

@[simp] theorem State.slp_zPost (job : Nat) (l : List ZNote) : (s.zPost job l).slp j = s.slp j := by
  refine State.slp_each _ j _ _ fun t note => ?_
  cases note with
  | ready => exact State.slp_evt ..
  | bad => exact (State.slp_evtJob ..).trans (State.slp_deferred ..)

@[simp] theorem State.slp_touch (job a n : Nat) : (s.touch job a n).slp j = s.slp j := by
  unfold State.touch State.t2Poison
  refine (State.slp_each _ j _ _ fun t p => ?_).trans
    ((State.slp_when _ j _ _ fun _ => State.slp_deferred ..).trans (State.slp_t2Send ..))
  split
  · exact (State.slp_zPost ..).trans (State.slp_zCheck ..)
  · rfl

@[simp] theorem State.slp_vwrite (a : Nat) (bs : List Byte) (job : Nat) : (s.vwrite a bs job).slp j = s.slp j := by
  unfold State.vwrite
  exact (State.slp_zPost ..).trans (State.slp_dcode ..)

@[simp] theorem State.slp_rangesRead (l : List (Nat × Nat)) : (s.rangesRead l).1.slp j = s.slp j := by
  unfold State.rangesRead
  split <;> rfl

/-! ### The traffic block -/

@[simp] theorem State.slp_enqueue (c q : Nat) (p : EPkt) : (s.enqueue c q p).slp j = s.slp j := State.slp_updTrc ..
@[simp] theorem State.slp_setShaper (c k : Nat) (x : Shaper) : (s.setShaper c k x).slp j = s.slp j := State.slp_updTrc ..
@[simp] theorem State.slp_shpFill (c k : Nat) : (s.shpFill c k).slp j = s.slp j := State.slp_setShaper ..

@[simp] theorem State.slp_sendControl (p : EPkt) : (s.sendControl p).slp j = s.slp j := by
  unfold State.sendControl
  extract_lets c q
  split
  · exact State.slp_enqueue ..
  · exact (State.slp_when _ j _ _ fun _ => (State.slp_evt ..).trans (State.slp_updTrc ..)).trans (State.slp_bump ..)

@[simp] theorem State.slp_releaseHead (c k : Nat) (p : EPkt) (cost : Nat) : (s.releaseHead c k p cost).slp j = s.slp j := by
  unfold State.releaseHead
  exact (State.slp_enqueue ..).trans (State.slp_setShaper ..)

@[simp] theorem State.slp_evalShaper (c k fuel : Nat) : (s.evalShaper c k fuel).slp j = s.slp j := by
  induction fuel generalizing s with
  | zero => rfl
  | succ n ih =>
    unfold State.evalShaper
    extract_lets s0 x on
    have filled : s0.slp j = s.slp j := State.slp_shpFill ..
    split
    · exact (State.slp_setShaper ..).trans filled
    · extract_lets
      split
      · exact (State.slp_setShaper ..).trans filled
      · split
        · exact (State.slp_when _ j _ _ fun _ => State.slp_bump ..).trans ((State.slp_setShaper ..).trans filled)
        · split
          · exact (State.slp_when _ j _ _ fun _ => State.slp_bump ..).trans ((State.slp_setShaper ..).trans filled)
          · exact (ih _).trans ((State.slp_releaseHead ..).trans filled)

@[simp] theorem State.slp_evalShp (c k : Nat) : (s.evalShp c k).slp j = s.slp j := State.slp_evalShaper ..

@[simp] theorem State.slp_shape (c k : Nat) (p : EPkt) : (s.shape c k p).slp j = s.slp j := by
  unfold State.shape
  extract_lets s0 x s1
  have queued : s1.slp j = s.slp j := (State.slp_setShaper ..).trans (State.slp_shpFill ..)
  split
  · exact (State.slp_evalShp ..).trans queued
  · exact queued

/-! ### Kweuz -/

@[simp] theorem State.slp_updConn (c k : Nat) (f : KConn → KConn) : (s.updConn c k f).slp j = s.slp j := State.slp_updKwp ..
@[simp] theorem State.slp_updKReq (c k id : Nat) (f : KReq → KReq) : (s.updKReq c k id f).slp j = s.slp j := State.slp_updConn ..
@[simp] theorem State.slp_updMove (c id : Nat) (f : PageMove → PageMove) : (s.updMove c id f).slp j = s.slp j := State.slp_updPgm ..

@[simp] theorem State.slp_sealPkt (c k op flags psn : Nat) (ext pay : List Byte) (path : KPath) :
    (s.sealPkt c k op flags psn ext pay path).1.slp j = s.slp j := State.slp_updConn ..

@[simp] theorem State.slp_writePay (c k : Nat) (x : KSent) : (s.writePay c k x).1.slp j = s.slp j := by
  unfold State.writePay
  extract_lets coded s1
  have touched : s1.slp j = s.slp j := State.slp_each _ j _ _ fun _ _ => State.slp_touch ..
  split
  · exact State.slp_drawBytes ..
  · split
    · exact touched
    · exact (State.slp_rangesRead ..).trans touched

@[simp] theorem State.slp_sendPsn (c k : Nat) (x : KSent) (retx last : Bool) : (s.sendPsn c k x retx last).slp j = s.slp j := by
  have read : (if x.op ≠ 1 then (s, x.data) else s.writePay c k x).1.slp j = s.slp j := by
    split
    · rfl
    · exact State.slp_writePay ..
  unfold State.sendPsn
  split
  next s1 pay paid =>
    rw [paid] at read
    extract_lets iv
    split
    next s2 p made =>
      have sealed : s2.slp j = s1.slp j := (congrArg (fun x : State × EPkt => x.1.slp j) made).symm.trans (State.slp_sealPkt ..)
      extract_lets pkt s3 s4
      have ready : s4.slp j = s.slp j :=
        (State.slp_when _ j _ _ fun _ => State.slp_bump ..).trans ((State.slp_updConn ..).trans (sealed.trans read))
      split
      · exact (State.slp_sendControl ..).trans ready
      · exact (State.slp_shape ..).trans ready

@[simp] theorem State.slp_sendNew (c k : Nat) (x : KSent) (last : Bool) : (s.sendNew c k x last).slp j = s.slp j := by
  unfold State.sendNew
  exact (State.slp_sendPsn ..).trans (State.slp_updConn ..)

@[simp] theorem State.slp_formWrite (c k : Nat) (r : KReq) (n : Nat) : (s.formWrite c k r n).slp j = s.slp j := by
  unfold State.formWrite; exact State.slp_sendNew ..
@[simp] theorem State.slp_formOther (c k : Nat) (r : KReq) : (s.formOther c k r).slp j = s.slp j := by
  unfold State.formOther; exact State.slp_sendNew ..

@[simp] theorem State.slp_writeCpl (c q : Nat) (r : List Byte) : (s.writeCpl c q r).slp j = s.slp j := by
  unfold State.writeCpl
  exact (State.slp_updJsc ..).trans ((State.slp_wr ..).trans (State.slp_vwrite ..))

@[simp] theorem State.slp_kwpCpl (c k op tag status bytes extra : Nat) : (s.kwpCpl c k op tag status bytes extra).slp j = s.slp j := by
  unfold State.kwpCpl
  extract_lets v _ cmd r q s1
  have waits : s1.slp j = s.slp j := State.slp_updJsc ..
  split
  · exact State.slp_logErr ..
  · split
    · exact (State.slp_when _ j _ _ fun _ => (State.slp_evtJob ..).trans (State.slp_updJsc ..)).trans waits
    · exact State.slp_writeCpl ..

/-- A packet of a request that is formed leaves SLP's state alone. -/
theorem State.slp_formReq {s t : State} {c k : Nat} {r : KReq} (h : s.formReq c k r = some t) : t.slp j = s.slp j := by
  unfold State.formReq at h
  extract_lets psn mark n at h
  split at h
  · split at h
    · exact nomatch h
    · rw [← Option.some.inj h, State.slp_updKReq, State.slp_formWrite]
  · split at h
    · exact nomatch h
    · rw [← Option.some.inj h, State.slp_updKReq, State.slp_formOther]

theorem State.slp_formResp {s t : State} {c k : Nat} {r : KRead} (h : s.formResp c k r = some t) : t.slp j = s.slp j := by
  unfold State.formResp at h
  extract_lets v left us take n bad flags pay _ x s1 at h
  have taken : s1.slp j = s.slp j := State.slp_updConn ..
  split at h
  · exact nomatch h
  · rw [← Option.some.inj h, State.slp_sendNew, State.slp_touch, taken]

theorem State.slp_formNext {s t : State} {c k node : Nat} {r : KReq} (h : s.formNext c k node r = some t) : t.slp j = s.slp j := by
  unfold State.formNext at h
  extract_lets ep at h
  split at h
  · rw [← Option.some.inj h, State.slp_kwpCpl, State.slp_updConn]
  · exact (State.slp_formReq j h).trans (State.slp_updKReq ..)

theorem State.slp_formOne {s t : State} {c k : Nat} (h : s.formOne c k = some t) : t.slp j = s.slp j := by
  unfold State.formOne at h
  extract_lets v at h
  split at h
  · rw [← Option.some.inj h, State.slp_sendNew, State.slp_updConn]
  · exact State.slp_formResp j h
  · obtain ⟨r, -, formed⟩ := Option.bind_eq_some_iff.1 h
    exact State.slp_formNext j formed

@[simp] theorem State.slp_pump (c k fuel : Nat) : (s.pump c k fuel).slp j = s.slp j := by
  induction fuel generalizing s with
  | zero => rfl
  | succ n ih =>
    unfold State.pump
    split
    · rfl
    · split
      · rfl
      · next t formed => exact (ih t).trans (State.slp_formOne j formed)

@[simp] theorem State.slp_addReqAt (c k ep : Nat) (r : KReq) : (s.addReqAt c k ep r).slp j = s.slp j := by
  unfold State.addReqAt State.pumpAll
  exact (State.slp_pump ..).trans (State.slp_updConn ..)

@[simp] theorem State.slp_kwpPiece (c id : Nat) : (s.kwpPiece c id).slp j = s.slp j := by
  unfold State.kwpPiece
  split
  · rfl
  · split
    · exact State.slp_updMove ..
    · split
      · exact State.slp_updMove ..
      · exact State.slp_when _ j _ _ fun _ => State.slp_addReqAt ..

@[simp] theorem State.slp_kwpGoOn (c id : Nat) (m : PageMove) : (s.kwpGoOn c id m).slp j = s.slp j :=
  State.slp_when _ j _ _ fun _ => State.slp_kwpPiece ..

/-! ### DEAD slots (R425), where SLP's own state changes -/

variable (d : Nat)

theorem State.slotDead_of_slp {s t : State} {j : Nat} (h : t.slp j = s.slp j) (d : Nat) : t.slotDead j d = s.slotDead j d := by
  unfold State.slotDead
  rw [h]

/-- A change of SLP's state that keeps its DEAD slots. -/
theorem State.slotDead_updSlp (c : Nat) (f : SlpCh → SlpCh) (hf : ∀ x, (f x).dead = x.dead) :
    (s.updSlp c f).slotDead j d = s.slotDead j d := by
  unfold State.slotDead
  rw [State.slp_updSlp]
  split
  · next h => rw [hf, h]
  · rfl

@[simp] theorem State.slotDead_bump (i : Nat) (r : RegId) (n sel : Nat) : (s.bump i r n sel).slotDead j d = s.slotDead j d :=
  State.slotDead_of_slp (State.slp_bump ..) d
@[simp] theorem State.slotDead_sendFlit (p : Nat) (f : List Byte) : (s.sendFlit p f).slotDead j d = s.slotDead j d :=
  State.slotDead_of_slp (State.slp_emit ..) d
@[simp] theorem State.slotDead_kwpGoOn (c id : Nat) (m : PageMove) : (s.kwpGoOn c id m).slotDead j d = s.slotDead j d :=
  State.slotDead_of_slp (State.slp_kwpGoOn ..) d
@[simp] theorem State.slotDead_updLink (p : Nat) (f : SlpLink → SlpLink) : (s.updLink p f).slotDead j d = s.slotDead j d :=
  State.slotDead_updSlp _ _ _ _ _ fun _ => rfl
@[simp] theorem State.slotDead_toInbox (p : Nat) (m : SMsg) : (s.toInbox p m).slotDead j d = s.slotDead j d :=
  State.slotDead_updSlp _ _ _ _ _ fun _ => rfl

theorem State.slotDead_when (c : Bool) (f : State → State) (hf : ∀ t, (f t).slotDead j d = t.slotDead j d) :
    (s.when c f).slotDead j d = s.slotDead j d := by
  cases c
  · rw [State.when_false]
  · rw [State.when_true, hf]

theorem State.slotDead_each {α : Type} (l : List α) (f : State → α → State) (hf : ∀ t a, (f t a).slotDead j d = t.slotDead j d) :
    (s.each l f).slotDead j d = s.slotDead j d := by
  induction l generalizing s with
  | nil => rw [State.each_nil]
  | cons a l ih => rw [State.each_cons, ih, hf]

@[simp] theorem State.slotDead_pumpFlits (p fuel : Nat) : (s.pumpFlits p fuel).slotDead j d = s.slotDead j d := by
  induction fuel generalizing s with
  | zero => rfl
  | succ n ih =>
    unfold State.pumpFlits
    extract_lets
    split
    · rfl
    · exact (ih _).trans ((State.slotDead_bump ..).trans ((State.slotDead_sendFlit ..).trans (State.slotDead_updLink ..)))

@[simp] theorem State.slotDead_pumpLink (p : Nat) : (s.pumpLink p).slotDead j d = s.slotDead j d := by
  unfold State.pumpLink
  extract_lets l
  split
  · rfl
  · split
    exact (State.slotDead_pumpFlits ..).trans (State.slotDead_updLink ..)

@[simp] theorem State.slotDead_sendBy (c p : Nat) (m : SMsg) : (s.sendBy c p m).slotDead j d = s.slotDead j d := by
  unfold State.sendBy
  split
  · split
    · exact State.slotDead_toInbox ..
    · split
      · exact (State.slotDead_toInbox ..).trans (State.slotDead_bump ..)
      · rfl
  · exact (State.slotDead_pumpLink ..).trans
      ((State.slotDead_when _ _ _ _ _ fun _ => State.slotDead_bump ..).trans (State.slotDead_updLink ..))

@[simp] theorem State.slotDead_renumber (c k t : Nat) : (s.renumber c k t).slotDead j d = s.slotDead j d := by
  unfold State.renumber
  refine (State.slotDead_of_slp (State.slp_updCh _ j c _ ?_) d).trans (State.slotDead_updSlp _ j d c _ ?_)
  · exact fun _ => rfl
  · exact fun _ => rfl

@[simp] theorem State.slotDead_promoteTag (c t : Nat) : (s.promoteTag c t).slotDead j d = s.slotDead j d := by
  unfold State.promoteTag
  split
  · rfl
  · split
    · rfl
    · rw [State.slotDead_sendBy, State.slotDead_renumber, State.slotDead_updSlp]
      exact fun _ => rfl

@[simp] theorem State.slotDead_tagsBack (c : Nat) : (s.tagsBack c).slotDead j d = s.slotDead j d := by
  unfold State.tagsBack
  rw [State.slotDead_each, State.slotDead_each]
  · exact fun t _ => State.slotDead_when _ _ _ _ _ fun _ => State.slotDead_promoteTag ..
  · intro t id
    split
    · exact State.slotDead_kwpGoOn ..
    · rfl

/-- Returning a tag makes no slot DEAD and revives none. -/
@[simp] theorem State.slotDead_dropTag (c k : Nat) : (s.dropTag c k).slotDead j d = s.slotDead j d := by
  unfold State.dropTag
  rw [State.slotDead_when _ _ _ _ _ fun _ => State.slotDead_tagsBack .., State.slotDead_updSlp]
  exact fun _ => rfl

/-! ### Tags that come back while nothing waits for one -/

/-- Writing the default removes the entry. -/
theorem SMap.set_default {α : Type} [DecidableEq α] [Inhabited α] (m : SMap α) (k : Nat) : m.set k default = m.drop k := if_pos rfl

/-- What a table holds at a key and is not the default stands among its entries. -/
theorem SMap.mem_of_at_ne_default {α : Type} [Inhabited α] {m : SMap α} {k : Nat} (h : m.at k ≠ default) : (k, m.at k) ∈ m := by
  induction m with
  | nil => exact absurd rfl h
  | cons e m ih =>
    unfold SMap.at at h ih ⊢
    rw [SMap.get_cons] at h ⊢
    split at h
    · next same =>
      rw [same, if_pos rfl]
      exact List.mem_cons_self
    · next other =>
      rw [if_neg other]
      exact List.mem_cons_of_mem _ (ih h)

/-- No request of a channel waits for a tag, and no page move of it runs: a tag that comes back stays free (log entry 12). -/
structure State.NoneTakesTags (s : State) (c : Nat) : Prop where
  tags : ∀ x ∈ (s.slp c).tags, x.1 < 2 ^ 34
  moves : ((s.pgm c).moves.keysWhere fun _ m => m.any fun m => !m.paused) = []

/-- SLP's state of a channel with one tag given back. -/
def SlpCh.freed (x : SlpCh) (k : Nat) : SlpCh := { x with tags := x.tags.set k default }

variable {s} {c : Nat}

theorem State.NoneTakesTags.updSlp_freed (h : s.NoneTakesTags c) (k : Nat) :
    (s.updSlp c fun x => x.freed k).NoneTakesTags c where
  tags x hx := by
    rw [State.slp_updSlp_same] at hx
    unfold SlpCh.freed at hx
    rw [SMap.set_default] at hx
    exact h.tags x (List.mem_filter.1 hx).1
  moves := by
    rw [State.pgm_updSlp]
    exact h.moves

theorem State.NoneTakesTags.tagWaits (h : s.NoneTakesTags c) : s.tagWaits c = 0 := by
  unfold State.tagWaits
  rw [List.length_eq_zero_iff, List.filter_eq_nil_iff]
  intro x hx
  rw [decide_eq_false (Nat.not_le.2 (h.tags x hx)), Bool.false_and]
  exact Bool.false_ne_true

theorem State.NoneTakesTags.tagsBack (h : s.NoneTakesTags c) : s.tagsBack c = s := by
  unfold State.tagsBack
  rw [h.tagWaits, List.range_zero, State.each_nil, h.moves, State.each_nil]

theorem State.NoneTakesTags.dropTag (h : s.NoneTakesTags c) (k : Nat) : s.dropTag c k = s.updSlp c fun x => x.freed k := by
  unfold State.dropTag State.when
  split
  · exact (h.updSlp_freed k).tagsBack
  · rfl

/-- A list of tags that come back: they are free, and the other tags are as before. -/
theorem State.NoneTakesTags.tags_each_dropTag (h : s.NoneTakesTags c) (ks : List Nat) (i : Nat) :
    ((s.each ks fun s k => s.dropTag c k).slp c).tags.at i = if i ∈ ks then default else (s.slp c).tags.at i := by
  induction ks generalizing s with
  | nil => rw [State.each_nil, if_neg List.not_mem_nil]
  | cons k ks ih =>
    rw [State.each_cons, h.dropTag, ih (h.updSlp_freed k), State.slp_updSlp_same]
    unfold SlpCh.freed
    rw [SMap.at_set]
    by_cases same : i = k
    · rw [if_pos same, ite_self, if_pos (List.mem_cons.2 (.inl same))]
    · simp only [List.mem_cons, same, false_or, if_false]

/-! ### REVIVE (R426) -/

/-- The tags quarantined for a slot. -/
def State.quarTags (s : State) (c slot : Nat) : List Nat :=
  ((s.slp c).tags.filter fun t => t.2.quar && t.2.slot == slot).map Prod.fst

theorem State.mem_quarTags {slot k : Nat} (quar : ((s.slp c).tags.at k).quar = true) (target : ((s.slp c).tags.at k).slot = slot) :
    k ∈ s.quarTags c slot := by
  have listed : (k, (s.slp c).tags.at k) ∈ (s.slp c).tags := by
    refine SMap.mem_of_at_ne_default fun free => ?_
    rw [free] at quar
    exact Bool.false_ne_true quar
  refine List.mem_map.2 ⟨_, List.mem_filter.2 ⟨listed, ?_⟩, rfl⟩
  simp only [quar, target, beq_self_eq_true, Bool.and_self]

/-- A channel with one slot no longer DEAD, before its tags come back. -/
def State.undead (s : State) (c slot : Nat) : State :=
  s.updSlp c fun x => { x with dead := x.dead.filter fun d => d != slot }

theorem State.slotDead_undead (s : State) (c slot : Nat) : (s.undead c slot).slotDead c slot = false := by
  unfold State.slotDead State.undead
  rw [State.slp_updSlp_same]
  refine Bool.eq_false_iff.2 fun still => ?_
  have kept := List.mem_filter.1 (List.contains_iff_mem.1 still)
  exact bne_iff_ne.1 kept.2 rfl

theorem State.NoneTakesTags.undead (h : s.NoneTakesTags c) (slot : Nat) : (s.undead c slot).NoneTakesTags c where
  tags x hx := by
    unfold State.undead at hx
    rw [State.slp_updSlp_same] at hx
    exact h.tags x hx
  moves := by
    unfold State.undead
    rw [State.pgm_updSlp]
    exact h.moves

theorem State.reviveSlot_of_dead {slot : Nat} (dead : s.slotDead c slot = true) :
    s.reviveSlot c slot = (s.undead c slot).each (s.quarTags c slot) fun s k => s.dropTag c k := by
  unfold State.reviveSlot
  rw [dead, State.when_true]
  rfl

theorem State.slotDead_reviveSlot {slot : Nat} (dead : s.slotDead c slot = true) : (s.reviveSlot c slot).slotDead c slot = false := by
  rw [State.reviveSlot_of_dead dead, State.slotDead_each _ _ _ _ _ fun _ _ => State.slotDead_dropTag .., State.slotDead_undead]

theorem State.NoneTakesTags.tags_reviveSlot (h : s.NoneTakesTags c) {slot k : Nat} (dead : s.slotDead c slot = true)
    (quar : ((s.slp c).tags.at k).quar = true) (target : ((s.slp c).tags.at k).slot = slot) :
    ((s.reviveSlot c slot).slp c).tags.at k = default := by
  rw [State.reviveSlot_of_dead dead, (h.undead slot).tags_each_dropTag, if_pos (State.mem_quarTags quar target)]

variable {rq : Requester} {slot : Nat}

/-- A REVIVE of one slot that reaches SLP_ABANDON acts on its own channel. -/
theorem exec_slpRevive_of_reaches (reach : s.reachesReg rq c Reg.SLP_ABANDON = true) (small : slot < 128) :
    exec (.slpRevive rq c slot false) s =
      .next (if s.slotDead c slot then s.reviveSlot c slot else s.logIgnored (slpPage c) 0x110 (abandonWord slot 9 false)) := by
  show execSlpRevive rq c slot false s = _
  unfold execSlpRevive State.abandonChans
  rw [State.onWrite_of_reaches reach, Nat.mod_eq_of_lt small, if_neg Bool.false_ne_true, State.each_cons, State.each_nil]

/-- Settles O54: what the returned tags set going, down to the packets that Kweuz then forms, touches no slot's DEAD mark, and where
nothing waits for a tag nothing takes the returned ones. -/
theorem reviveFreesTheQuarantinedTags : Obligations.ReviveFreesTheQuarantinedTags := by
  intro s rq c slot reach small
  have run := exec_slpRevive_of_reaches reach small
  refine ⟨fun dead tags moves => ?_, fun dead => ?_, fun alive => ?_⟩
  · rw [dead, if_pos rfl] at run
    exact ⟨_, run, State.slotDead_reviveSlot dead, fun k => State.NoneTakesTags.tags_reviveSlot ⟨tags, moves⟩ dead⟩
  · rw [dead, if_pos rfl] at run
    exact ⟨_, run, State.slotDead_reviveSlot dead⟩
  · rw [run, alive, if_neg Bool.false_ne_true]

end Sys2Proof.Machine
end

section
/-! Proof of the statement on COUNTER_READ (R574), with the law of a CONTROL command that holds its engine and the length of a number
written as bytes. -/
namespace Sys2Proof.Machine

/-- A number takes as many bytes as are asked for. -/
@[simp] theorem length_leBytes (n v : Nat) : (leBytes n v).length = n := by
  induction n generalizing v with
  | zero => rfl
  | succ n ih => exact congrArg Nat.succ (ih (v / 256))

/-- A command of CONTROL that holds its engine once it has arrived is acted on (R310). -/
theorem State.control_of_holdsCmd {s : State} {c : Nat} {cmd : Cmd} (held : (s.occupy c 0 cmd).holdsCmd c 0 cmd = true)
    (f : State → State) : s.control c cmd f = f (s.occupy c 0 cmd) := by
  calc s.control c cmd f = (s.occupy c 0 cmd).when ((s.occupy c 0 cmd).holdsCmd c 0 cmd) f := rfl
    _ = f (s.occupy c 0 cmd) := by rw [held, State.when_true]

/-- Settles O55: once COUNTER_READ holds the engine, its check of the set's JOB and JOB_ANY alone decides between the two answers. -/
theorem counterReadAnswersItsSet : Obligations.CounterReadAnswersItsSet := by
  refine ⟨by decide, ?_⟩
  rintro s0 _ c _ cmd rfl held rfl
  have run : exec (.counterRead c cmd) s0 = .next _ := congrArg Host.Outcome.next (State.control_of_holdsCmd held _)
  refine ⟨?_, fun own => ?_, fun other => ?_⟩
  · simp only [List.length_append, length_leBytes]
  · rw [run, if_pos own]
  · rw [run, if_neg other]

end Sys2Proof.Machine
end

section
/-! The answer of a command whose meaning begins with a test: a write that reaches its register, and a change under a condition. -/
namespace Sys2Proof.Machine

variable {s t : State} {rq : Requester} {f : State → State}

/-- A write of a page that reaches its register answers the register's own behaviour. -/
theorem next_of_withWrite {p : Page} {off : Nat} {v : Word} (reach : s.reaches rq p off = true) (h : f s = t) :
    (.next (s.withWrite rq p off v f) : Host.Outcome State Fault Refusal) = .next t := by
  rw [State.withWrite_of_reaches reach, h]

/-- The same for a named register. -/
theorem next_of_onWrite {i : Nat} {r : RegId} {v : Word} (reach : s.reachesReg rq i r = true) (h : f s = t) :
    (.next (s.onWrite rq i r v f) : Host.Outcome State Fault Refusal) = .next t := by
  rw [State.onWrite_of_reaches reach, h]

/-- A change under a condition that holds. -/
theorem next_of_when {c : Bool} (holds : c = true) (h : f s = t) :
    (.next (s.when c f) : Host.Outcome State Fault Refusal) = .next t := by
  rw [holds, State.when_true, h]

/-- A change under a condition that does not hold. -/
theorem next_of_not_when {c : Bool} (fails : c = false) :
    (.next (s.when c f) : Host.Outcome State Fault Refusal) = .next s := by
  rw [fails, State.when_false]

/-- The same inside a composition. -/
theorem State.when_pos {c : Bool} (holds : c = true) : s.when c f = f s := by rw [holds, State.when_true]

theorem State.when_neg {c : Bool} (fails : c = false) : s.when c f = s := by rw [fails, State.when_false]

/-- A part of the state that a change leaves is left by the change under a condition. -/
theorem State.when_leaves {α : Type} (g : State → α) (c : Bool) (hf : ∀ t, g (f t) = g t) : g (s.when c f) = g s := by
  cases c
  · rw [State.when_false]
  · rw [State.when_true, hf]

/-- A part of the state that the change of every element leaves is left by them all. -/
theorem State.each_leaves {α β : Type} (g : State → α) (l : List β) {f : State → β → State} (hf : ∀ t b, g (f t b) = g t) :
    g (s.each l f) = g s := by
  induction l generalizing s with
  | nil => rw [State.each_nil]
  | cons b l ih => rw [State.each_cons, ih, hf]

/-- What reads as before where no register changed: a bit and a field of a named register. -/
theorem State.rdB_congr (h : t.regs = s.regs) (i : Nat) (r : RegId) (b sel : Nat) : t.rdB i r b sel = s.rdB i r b sel := by
  unfold State.rdB
  rw [State.rd_congr h]

theorem State.rdF_congr (h : t.regs = s.regs) (i : Nat) (r : RegId) (hi lo sel : Nat) : t.rdF i r hi lo sel = s.rdF i r hi lo sel := by
  unfold State.rdF
  rw [State.rd_congr h]

end Sys2Proof.Machine
end

section
/-! Proofs of the statements on steps (spec/00_scope.md, spec/16_boot_and_trust.md): what `Keeps` says of every command, carried over to a step. -/
namespace Sys2Proof.Machine

variable {s t : State}

/-- The canonical form of the device is that of each of its tables. -/
theorem State.canon_iff : s.canon = true ↔ s.mem.wf = true ∧ SMap.wf regReset s.regs = true ∧ SMap.wf regReset s.shadow = true ∧
    SMap.wf (fun _ => default) s.blk = true ∧ SMap.wf (fun _ => default) s.chan = true := by
  unfold State.canon
  simp only [Bool.and_eq_true, and_assoc]

/-- What keeps the tables keeps the canonical form. -/
theorem Keeps.canon (h : Keeps s t) (wf : s.canon = true) : t.canon = true := by
  obtain ⟨mem, regs, shadow, blk, chan⟩ := State.canon_iff.mp wf
  exact State.canon_iff.mpr ⟨h.mem mem, h.regs regs, h.shadow shadow, h.blk blk, h.chan chan⟩

/-- With no command waiting, one nanosecond passes. -/
theorem step_of_idle (idle : s.pending = []) : step s = .next (s.pass 1) := by
  unfold step
  rw [idle]

/-- With a command waiting, the front one is acted on. -/
theorem step_of_waiting {c : Instr} {cs : List Instr} (waits : s.pending = c :: cs) :
    step s = exec c { s with pending := cs } := by
  unfold step
  rw [waits]

/-- Every meaning answers a next state. -/
theorem exec_next (i : Instr) (s : State) : ∃ t, exec i s = .next t := by
  cases i <;> exact ⟨_, rfl⟩

/-- A step answers a next state, and from the state with its front command taken it keeps what every command keeps. -/
theorem step_next (s : State) : ∃ t, step s = .next t ∧ Keeps { s with pending := s.pending.tail } t := by
  cases waits : s.pending with
  | nil =>
    have same : { s with pending := [].tail } = s := by rw [List.tail_nil, ← waits]
    rw [same]
    exact ⟨_, step_of_idle waits, State.pass_keeps 1 (Keeps.refl s)⟩
  | cons c cs =>
    obtain ⟨t, run⟩ := exec_next c { s with pending := cs }
    exact ⟨t, (step_of_waiting waits).trans run, exec_keeps c _ t run⟩

/-- The same for a next state that is given. -/
theorem step_keeps (run : step s = .next t) : Keeps { s with pending := s.pending.tail } t := by
  obtain ⟨u, run', keeps⟩ := step_next s
  rw [run] at run'
  cases run'
  exact keeps

/-- Settles O47: the two cases of the queue. -/
theorem stepRunsTheFrontCommand : Obligations.StepRunsTheFrontCommand :=
  ⟨fun _ _ _ waits => step_of_waiting waits, fun _ idle => step_of_idle idle⟩

/-- Settles O48: the tables of the reset state list nothing. -/
theorem resetStartsCanonicalIdleAndUnfused : Obligations.ResetStartsCanonicalIdleAndUnfused :=
  ⟨State.canon_iff.mpr ⟨rfl, rfl, rfl, rfl, rfl⟩, rfl, rfl, rfl, rfl, rfl, rfl, rfl⟩

/-- Settles O49: the queue is no part of the canonical form, so the step's own `Keeps` carries it. -/
theorem everyStepKeepsTheCanonicalForm : Obligations.EveryStepKeepsTheCanonicalForm :=
  fun _ _ wf run => (step_keeps run).canon wf

/-- Settles O50. -/
theorem everyStepAnswersAndNothingIsUnsaid : Obligations.EveryStepAnswersAndNothingIsUnsaid := by
  intro s
  obtain ⟨t, run, keeps⟩ := step_next s
  exact ⟨t, run, keeps.pending, keeps.now, keeps.out⟩

/-- Settles O51. -/
theorem burnedFusesStayBurned : Obligations.BurnedFusesStayBurned :=
  fun _ _ read run => (step_keeps run).fused read

end Sys2Proof.Machine
end

section
/-! Proof of the statement on the common header and plain register writes (R5 to R9, R559, R597, R603). -/
namespace Sys2Proof.Machine

variable {s : State} {p : Page} {rq : Requester}

/-- Two changes of a block page that agree on what it holds are the same change. -/
theorem State.updBlk_congr {f g : BlkSt → BlkSt} (h : f (s.blkSt p) = g (s.blkSt p)) : s.updBlk p f = s.updBlk p g := by
  rw [State.updBlk_const p f, h, ← State.updBlk_const p g]

/-- A register write leaves the state of the blocks. -/
@[simp] theorem State.blkSt_wrAt (s : State) (p q : Page) (off : Nat) (v : Word) (sel : Nat) :
    (s.wrAt q off v sel).blkSt p = s.blkSt p := by
  unfold State.blkSt
  rw [State.wrAt_blk]

/-! ### QUIESCE and ENABLE (R7, R8, R603) -/

/-- A block that accepts work has no work waiting to be taken up. -/
theorem State.mayReady_of_running (st : (s.blkSt p).st = .running) (f : State → State) : s.mayReady p f = f s := by
  unfold State.mayReady State.ready
  rw [st]
  rfl

/-- A block that accepts none takes up what waited, if the change lets it. -/
theorem State.mayReady_of_not_running (st : (s.blkSt p).st ≠ .running) (f : State → State) : s.mayReady p f = (f s).readyAgain p := by
  unfold State.mayReady State.ready
  rw [beq_false_of_ne st]
  rfl

/-- QUIESCE of a running block drains it. -/
theorem State.setQuiesce_running (st : (s.blkSt p).st = .running) :
    s.setQuiesce p true = (s.wrAt p 0x008 (setBit (s.rdAt p 0x008) 1 true)).updBlk p fun b => { b with st := .draining } := by
  unfold State.setQuiesce
  refine State.updBlk_congr ?_
  simp only [State.blkSt_wrAt, st]

/-- QUIESCE taken from a draining block lets it run again. -/
theorem State.setQuiesce_draining (st : (s.blkSt p).st = .draining) :
    s.setQuiesce p false =
      (s.wrAt p 0x008 (setBit (s.rdAt p 0x008) 1 false)).updBlk p fun b => { b with st := .running, quiesced := false } := by
  unfold State.setQuiesce
  refine State.updBlk_congr ?_
  simp only [State.blkSt_wrAt, st]

/-- What follows the end of a block's work leaves BOOT's state. -/
@[simp] theorem State.setQuiesced_boot : (s.setQuiesced p).boot = s.boot := by
  have rerank : ∀ (t : State) (c : Nat), (t.syncRerank c).boot = t.boot := fun t c => by
    unfold State.syncRerank
    exact State.when_leaves State.boot _ fun t => State.updCh_boot ..
  have split : ∀ (t : State) (c : Nat), (t.syncSplit c).boot = t.boot := fun t c => by
    unfold State.syncSplit
    exact State.when_leaves State.boot _ fun t => State.updCh_boot ..
  have solrov : ∀ (t : State) (c : Nat), (t.syncSolrov c).boot = t.boot := fun t c => by
    unfold State.syncSolrov
    extract_lets
    split
    · exact State.updCh_boot ..
    · split
      · exact State.updCh_boot ..
      · rfl
  unfold State.setQuiesced
  split
  · rw [State.when_leaves State.boot _ fun t => (solrov _ _).trans (split _ _), State.when_leaves State.boot _ fun t => rerank _ _, State.updBlk_boot]
  · rfl

/-- Of a channel that is not leaving service, the end of a block's work ends no more than the block's. -/
theorem exec_blockQuiesced_of_inService (inService : (p.blk.perChannel && s.boot.chOut.at p.idx == .draining) = false) :
    exec (.blockQuiesced p) s = .next (s.setQuiesced p) := by
  refine congrArg Host.Outcome.next ?_
  simp only [State.setQuiesced_boot, inService, Bool.false_and, State.when_false]

/-! ### BLK_EVT (R596, R597) -/

/-- No bit is set in 0. -/
@[simp] theorem evtsOf_zero (b : Blk) : evtsOf b 0 = [] := by
  unfold evtsOf
  refine List.filter_eq_nil_iff.mpr fun n _ => ?_
  unfold wbit
  simp

/-- A block without the alert pin clears its events alone. -/
theorem State.clearEvts_of_not_alerts (quiet : alerts p.blk = false) (v setNow : Word) :
    s.clearEvts p v setNow =
      (s.wrAt p 0x010 (s.rdAt p 0x010 &&& ~~~v)).each (evtsOf p.blk setNow) fun t n => t.setOverClear p (s.rdAt p 0x010) n := by
  unfold State.clearEvts
  simp only [quiet, State.when_false]

/-- An event that stood and raises no interrupt stays set when the same write would clear it. -/
theorem State.setOverClear_masked {old : Word} {n : Nat} (stood : wbit old n = true) (masked : wbit (s.rdAt p 0x014) n = false) :
    s.setOverClear p old n = s.wrAt p 0x010 (setBit (s.rdAt p 0x010) n true) := by
  unfold State.setOverClear
  rw [if_pos stood, masked, State.when_false]

/-! ### REGISTER_WRITE (R4, R5) -/

/-- A register of the active bank that no rule holds back, of a block whose registers have no rule of their own, stores its writable
bits. -/
theorem State.bankWrite_plain {off : Nat} {r : RegRow} (v : Word) (row : findRow p.blk off = some r) (acc : r.acc = .rw ∨ r.acc = .rwl)
    (plain : p.blk ∉ [Blk.pln, .rqt, .skt, .kwp, .cmp, .zrb, .psq, .clk]) (noRing : ∀ x ∈ ringsOf p.blk, x.cfg.off ≠ off)
    (free : s.heldBack p off = false) : s.bankWrite p off v = s.storeActive p off (s.selOf p off) r.mask v := by
  have ring : (ringsOf p.blk).find? (fun x => x.cfg.off == off) = none :=
    List.find?_eq_none.mpr fun x mem => by simpa using noRing x mem
  have writable : ¬ (r.acc = .ro ∨ (r.acc = .wo ∧ isKey p off = false)) := by
    rcases acc with h | h <;> simp [h]
  unfold State.bankWrite
  rw [free, ring, row]
  simp only [Bool.false_eq_true, if_false, if_neg writable]
  cases blk : p.blk <;> simp [blk] at plain <;> rfl

/-- Such a register is written by REGISTER_WRITE as its access type says, where no row of the command table is the register's own. -/
theorem State.regWrite_plain {off : Nat} {r : RegRow} (v : Word) (reach : s.reaches rq p off = true) (aligned : off % 4 = 0)
    (body : 0x100 ≤ off) (row : findRow p.blk off = some r) (acc : r.acc = .rw ∨ r.acc = .rwl)
    (plain : p.blk ∉ [Blk.pln, .rqt, .skt, .kwp, .cmp, .zrb, .psq, .clk]) (noRow : ∀ x ∈ rowWrites rq p.idx v p.blk, x.1.off ≠ off)
    (noRing : ∀ x ∈ ringsOf p.blk, x.cfg.off ≠ off) (free : s.heldBack p off = false) (notDmv : p.blk = .dmv → off ≠ 0x100)
    (notCtx : p.blk = .jsc → off < 0x200) :
    s.regWrite rq p off v = s.storeActive p off (s.selOf p off) r.mask v := by
  have value : ¬ (p.blk = .dmv ∧ off = 0x100) := fun h => notDmv h.1 h.2
  have noCtx : ¬ (p.blk = .jsc ∧ 0x200 ≤ off ∧ off < 0x240) := fun h => absurd (notCtx h.1) (Nat.not_lt.mpr h.2.1)
  have none : (rowWrites rq p.idx v p.blk).find? (fun x => x.1.off == off) = none :=
    List.find?_eq_none.mpr fun x mem => by simpa using noRow x mem
  unfold State.regWrite
  simp only [if_neg value, if_neg (not_not_intro aligned), if_neg noCtx, none]
  rw [State.withWrite_of_reaches reach, if_neg (Nat.not_lt.mpr body)]
  exact State.bankWrite_plain v row acc plain noRing free

/-- Settles O1: each write that reaches its register runs the register's own behaviour, decided by the state of the block. -/
theorem blockControlWritesAct : Obligations.BlockControlWritesAct := by
  refine ⟨?lock, ?quiesce, ?resume, ?enable, ?disable, ?refused, ?initDone, ?quiesced, ?notQuiesced, ?clear, ?clearAlert, ?setOver,
    ?evtSet, ?errClear, ?errKept, ?reset, ?resetIgnored, ?plain⟩
  case lock => exact fun s rq p reach => next_of_withWrite reach rfl
  case quiesce =>
    intro s rq p reach running
    refine next_of_withWrite reach ?_
    rw [State.mayReady_of_running running, State.setQuiesce_running running]
  case resume =>
    intro s rq p reach draining
    refine next_of_withWrite reach ?_
    rw [State.mayReady_of_not_running (by rw [draining]; decide), State.setQuiesce_draining draining]
  case enable =>
    intro s rq p reach off
    refine next_of_withWrite reach ?_
    unfold State.setEnable
    simp only [off]
  case disable =>
    intro s rq p reach draining quiesced
    refine next_of_withWrite reach ?_
    unfold State.setEnable
    simp only [draining, quiesced, if_true]
  case refused =>
    intro s rq p reach running
    refine next_of_withWrite reach ?_
    unfold State.setEnable
    simp only [running]
    rfl
  case initDone =>
    intro s p init
    refine congrArg Host.Outcome.next ((State.mayReady_of_not_running (by rw [init]; decide) _).trans ?_)
    unfold State.initDone
    rw [init, beq_self_eq_true, if_pos rfl]
    rfl
  case quiesced =>
    intro s p quiesce idle inService
    refine (exec_blockQuiesced_of_inService inService).trans (congrArg Host.Outcome.next ?_)
    have ends : (s.quiesceBit p && !s.hasWork p) = true := by rw [idle, State.quiesceBit, quiesce]; rfl
    unfold State.setQuiesced
    rw [if_pos ends]
    cases p.blk <;> rfl
  case notQuiesced =>
    intro s p busy inService
    refine (exec_blockQuiesced_of_inService inService).trans (congrArg Host.Outcome.next ?_)
    have stays : ¬ (s.quiesceBit p && !s.hasWork p) = true := by
      unfold State.quiesceBit
      rcases busy with h | h <;> simp [h]
    unfold State.setQuiesced
    rw [if_neg stays]
  case clear =>
    intro s rq p v reach quiet
    refine next_of_withWrite reach ?_
    rw [State.clearEvts_of_not_alerts quiet, evtsOf_zero, State.each_nil]
  case clearAlert =>
    intro s rq p v reach alert
    refine next_of_withWrite reach ?_
    unfold State.clearEvts
    simp only [alert, State.when_true, evtsOf_zero, State.each_nil]
  case setOver =>
    intro s rq p v setNow n reach quiet only stood masked
    refine next_of_withWrite reach ?_
    have masked' : wbit ((s.wrAt p 0x010 (s.rdAt p 0x010 &&& ~~~v)).rdAt p 0x014) n = false := by
      rwa [State.rdAt_wrAt_word_ne _ _ _ (by decide)]
    rw [State.clearEvts_of_not_alerts quiet, only, State.each_cons, State.each_nil, State.setOverClear_masked stood masked']
  case evtSet => exact fun s rq p v reach => next_of_withWrite reach rfl
  case errClear => exact fun s rq p errorNow reach => next_of_withWrite reach rfl
  case errKept =>
    intro s rq p v errorNow reach nonzero
    refine next_of_withWrite reach ?_
    unfold State.clearErrLog
    rw [if_neg nonzero]
  case reset => exact fun s rq p reach quiesced => (resetBlockActsOnlyWhileQuiesced s rq p reach).1 quiesced
  case resetIgnored => exact fun s rq p reach active => ((resetBlockActsOnlyWhileQuiesced s rq p reach).2 active).1
  case plain =>
    intro s rq p off v r reach aligned body row acc plain noRow noRing free noCmd notDmv notCtx
    refine congrArg Host.Outcome.next ?_
    rw [State.writeTurnedAway_of_reaches reach, noCmd]
    exact State.regWrite_plain v reach aligned body row acc plain noRow noRing free notDmv notCtx

end Sys2Proof.Machine
end

section
/-! A command that arrives at an engine (R310 to R314): what its arrival leaves of the engines, and what becomes of it. -/
namespace Sys2Proof.Machine

variable {s s0 t : State} {c e : Nat} {cmd : Cmd} {f : State → State}

/-- The window that is open follows from TIM's state. -/
theorem State.inWindow_congr (h : t.tim = s.tim) (w : Window) : t.inWindow w = s.inWindow w := by
  unfold State.inWindow
  rw [h]

/-- The channels that are enabled follow from BOOT's state. -/
theorem State.enabledCh_congr (h : t.boot = s.boot) (c : Nat) : t.enabledCh c = s.enabledCh c := by
  unfold State.enabledCh
  rw [h]

/-- A change of JSC's state leaves BOOT's. -/
@[simp] theorem State.updJsc_boot (c : Nat) (f : JscCh → JscCh) : (s.updJsc c f).boot = s.boot := by
  unfold State.updJsc
  exact State.updCh_boot ..

/-- A change of JSC's other state leaves the engines. -/
theorem State.engine_updJsc {f : JscCh → JscCh} (c : Nat) (hf : ∀ x, (f x).engines = x.engines) (k i : Nat) :
    (s.updJsc c f).engine k i = s.engine k i := by
  unfold State.engine
  rw [State.jsc_updJsc]
  split
  · next same => rw [hf, same]
  · rfl

/-- A change of JSC's state leaves TIM's. -/
@[simp] theorem State.updJsc_tim (c : Nat) (f : JscCh → JscCh) : (s.updJsc c f).tim = s.tim := by
  unfold State.updJsc
  exact State.updCh_tim ..

/-- From `s`, the device comes to `t` with every engine, BOOT's state and TIM's as they were. -/
structure SameEngines (s t : State) : Prop where
  engine : ∀ k i, t.engine k i = s.engine k i
  boot : t.boot = s.boot
  tim : t.tim = s.tim

theorem SameEngines.refl (s : State) : SameEngines s s := ⟨fun _ _ => rfl, rfl, rfl⟩

theorem SameEngines.trans {u : State} (h : SameEngines s t) (g : SameEngines t u) : SameEngines s u :=
  ⟨fun k i => (g.engine k i).trans (h.engine k i), g.boot.trans h.boot, g.tim.trans h.tim⟩

/-- A change of JSC's other state. -/
theorem State.updJsc_engines {f : JscCh → JscCh} (s : State) (c : Nat) (hf : ∀ x, (f x).engines = x.engines) :
    SameEngines s (s.updJsc c f) := ⟨State.engine_updJsc c hf, State.updJsc_boot .., State.updJsc_tim ..⟩

theorem State.setLane_engines (s : State) (c j e : Nat) (l : List LaneCmd) : SameEngines s (s.setLane c j e l) := by
  unfold State.setLane
  exact State.updJsc_engines s c fun _ => rfl

theorem State.addUse_engines (s : State) (c j e : Nat) (f : Usage → Usage) : SameEngines s (s.addUse c j e f) := by
  unfold State.addUse
  exact State.updJsc_engines s c fun _ => rfl

theorem State.each_engines {α : Type} (s : State) (l : List α) {f : State → α → State} (hf : ∀ t a, SameEngines t (f t a)) :
    SameEngines s (s.each l f) := by
  induction l generalizing s with
  | nil => rw [State.each_nil]; exact SameEngines.refl s
  | cons a l ih => rw [State.each_cons]; exact (hf s a).trans (ih _)

/-- The deficits accrue beside the engines (R313). -/
theorem State.accrue_engines (s : State) (c : Nat) : SameEngines s (s.accrue c) := by
  have job : ∀ (t : State) (e dt total j : Nat), SameEngines t (t.accrueJob c e dt total j) := fun t e dt total j => by
    unfold State.accrueJob
    extract_lets held d t1
    have first : SameEngines t t1 := State.updJsc_engines t c fun _ => rfl
    split
    · exact first
    · exact first.trans ((State.addUse_engines ..).trans (State.setLane_engines ..))
  have engine : ∀ (t : State) (dt e : Nat), SameEngines t (t.accrueEngine c dt e) := fun t dt e => by
    unfold State.accrueEngine
    exact State.each_engines t _ fun u j => job u ..
  unfold State.accrue
  extract_lets dt
  split
  · exact SameEngines.refl s
  · exact (State.each_engines s _ fun t e => engine t dt e).trans (State.updJsc_engines _ c fun _ => rfl)

theorem State.accrueAll_engines (s : State) : SameEngines s s.accrueAll := State.each_engines s _ State.accrue_engines

/-- A command enters its lane beside the engines. -/
theorem State.arrive_engines (s : State) (c e : Nat) (cmd : Cmd) : SameEngines s (s.arrive c e cmd) := by
  have counted : SameEngines s (s.countOut c cmd) := by
    unfold State.countOut
    split
    · exact SameEngines.refl s
    · exact State.updJsc_engines s c fun _ => rfl
  unfold State.arrive State.when
  split
  · exact counted.trans (State.setLane_engines ..)
  · exact SameEngines.refl s

/-- The accounts settle beside the engines. -/
theorem State.settle_engines (s : State) (c : Nat) : SameEngines s (s.settle c) := by
  unfold State.settle
  exact State.updJsc_engines s c fun _ => rfl

/-- A command that another one keeps from the engine leaves the engines as they are. -/
theorem State.waits_engines (s : State) (c e : Nat) (cmd : Cmd) : SameEngines s (((s.accrue c).arrive c e cmd).settle c) :=
  (State.accrue_engines s c).trans ((State.arrive_engines ..).trans (State.settle_engines ..))

/-- A command waits where another one holds the engine. -/
theorem State.occupy_other {x : Cmd} (on : s.enabledCh c = true) (held : (s.engine c e).holder = some x) (other : x ≠ cmd) :
    s.occupy c e cmd = ((s.accrue c).arrive c e cmd).settle c := by
  have engine : ((s.accrue c).arrive c e cmd).engine c e = s.engine c e :=
    ((State.accrue_engines s c).trans (State.arrive_engines ..)).engine c e
  have notNext : ((s.accrue c).arrive c e cmd).nextIs c e cmd = false := by
    unfold State.nextIs
    rw [engine, held]
    rfl
  unfold State.occupy
  rw [if_neg (by simp [on, held, other])]
  simp only [notNext, State.when_false]

/-- It does not hold the engine then. -/
theorem State.holdsCmd_other {x : Cmd} (on : s.enabledCh c = true) (held : (s.engine c e).holder = some x) (other : x ≠ cmd) :
    (s.occupy c e cmd).holdsCmd c e cmd = false := by
  have engine : (s.occupy c e cmd).engine c e = s.engine c e := by
    rw [State.occupy_other on held other]
    exact (State.waits_engines s c e cmd).engine c e
  unfold State.holdsCmd
  rw [engine, held, beq_false_of_ne (fun h => other (Option.some.inj h)), Bool.and_false]

/-- A command that comes next takes the engine. -/
theorem State.occupy_of_comesNext (next : s.comesNext c e cmd = true) : s.occupy c e cmd = s.taken c e cmd := by
  unfold State.comesNext at next
  simp only [Bool.and_eq_true, Option.isNone_iff_eq_none] at next
  obtain ⟨⟨on, free⟩, next⟩ := next
  unfold State.occupy State.taken
  rw [if_neg (by simp [on, free])]
  simp only [next, State.when_true]

/-- A CONTROL command that does not hold its engine waits. -/
theorem State.control_of_not_holdsCmd (waits : (s.occupy c 0 cmd).holdsCmd c 0 cmd = false) (f : State → State) :
    s.control c cmd f = s.occupy c 0 cmd := by
  calc s.control c cmd f = (s.occupy c 0 cmd).when ((s.occupy c 0 cmd).holdsCmd c 0 cmd) f := rfl
    _ = s.occupy c 0 cmd := by rw [waits, State.when_false]

/-- The answer of a CONTROL command that holds its engine. -/
theorem next_of_control (arrived : s0.occupy c 0 cmd = s) (held : s.holdsCmd c 0 cmd = true) (h : f s = t) :
    (.next (s0.control c cmd f) : Host.Outcome State Fault Refusal) = .next t := by
  subst arrived
  rw [State.control_of_holdsCmd held, h]

/-- The answer of one that does not. -/
theorem next_of_control_waits (waits : (s.occupy c 0 cmd).holdsCmd c 0 cmd = false) :
    (.next (s.control c cmd f) : Host.Outcome State Fault Refusal) = .next (s.occupy c 0 cmd) := by
  rw [State.control_of_not_holdsCmd waits]

end Sys2Proof.Machine
end

section
/-! Proofs of the statements on the time of day, the synchronisation states and the timing pins (spec/01_cadence.md). -/
namespace Sys2Proof.Machine

variable {s : State} {rq : Requester}

/-! ### The time of day (R16, R17) -/

/-- With the cadence stopped a step of ToD is no more than that. -/
theorem State.stepTod_of_stopped (stopped : s.tim.cad = .stopped) (d : Int) :
    s.stepTod d = s.setTim fun t => { t with tod := ((t.tod : Int) + d).toNat, err := 0 } := by
  simp only [State.stepTod, State.checkRealign, State.setTim_tim, stopped]
  rfl

/-- With the cadence running the error takes the difference, and REALIGN_PENDING follows it. -/
theorem State.stepTod_of_running (running : s.tim.cad = .running) (d : Int) :
    let t := s.setTim fun t => { t with
      tod := ((t.tod : Int) + d).toNat, err := t.err - ((((t.tod : Int) + d).toNat : Int) - t.tod) }
    s.stepTod d = if t.errTooBig then t.setTim fun x => { x with realign := true } else t := by
  simp only [State.stepTod, State.checkRealign, State.setTim_tim, running]
  rfl

/-- A read with a side effect that reaches its page. -/
theorem State.sideRead_of_canRead {p : Page} (reach : s.canRead rq p = true) (v : State → Word) (latch : State → State) :
    s.sideRead rq p v latch = (latch s).emit (.readData (v s)) := by
  unfold State.sideRead
  rw [if_pos reach]

/-- One that does not reach it latches nothing. -/
theorem State.sideRead_of_not_canRead {p : Page} (reach : s.canRead rq p = false) (v : State → Word) (latch : State → State) :
    s.sideRead rq p v latch = match s.ldOff rq with
      | none => s.emit (.readData 0)
      | some n => s.emit (.msg "IO_UR" [n] []) := by
  unfold State.sideRead State.ioUr
  rw [reach]
  cases s.ldOff rq <;> rfl

/-- Settles O2, by the state of the cadence and by whether the reader reaches TIM. -/
theorem timeOfDayIsSetSteppedAndLatched : Obligations.TimeOfDayIsSetSteppedAndLatched := by
  refine ⟨?set, ?step, ?stepRunning, ?todRead, ?phaseRead, ?ppsRead, ?noRead⟩
  case set =>
    intro s rq alsoStep reach stopped
    refine next_of_onWrite reach ?_
    unfold State.doTodSet
    rw [State.stepTod_of_stopped stopped]
    refine congrArg (State.evt · timPage 7) ?_
    unfold State.setTim
    have meets (a b : Int) : a + (b - a) = b := by omega
    simp only [meets]
  case step =>
    intro s rq reach stopped
    exact next_of_onWrite reach (congrArg (State.evt · timPage 7) (State.stepTod_of_stopped stopped _))
  case stepRunning =>
    intro s rq reach running
    exact next_of_onWrite reach (congrArg (State.evt · timPage 7) (State.stepTod_of_running running _))
  case todRead => exact fun s rq reach => congrArg Host.Outcome.next (State.sideRead_of_canRead reach _ _)
  case phaseRead => exact fun s rq reach => congrArg Host.Outcome.next (State.sideRead_of_canRead reach _ _)
  case ppsRead => exact fun s rq reach => congrArg Host.Outcome.next (State.sideRead_of_canRead reach _ _)
  case noRead =>
    intro s rq unreached c listed
    simp only [List.mem_cons, List.not_mem_nil, or_false] at listed
    rcases listed with rfl | rfl | rfl <;> exact congrArg Host.Outcome.next (State.sideRead_of_not_canRead unreached _ _)

/-! ### Synchronisation (R22, R23) -/

/-- In LOCKED, or where TIME_DEGRADED is set already, the drift is not looked at. -/
theorem State.checkDrift_idle (h : s.tim.sync = .locked ∨ s.tim.degraded = true) : s.checkDrift = s := by
  unfold State.checkDrift
  rcases h with h | h <;> rw [h] <;> simp

/-- Elsewhere TIME_DEGRADED rises once the drift estimate passes 1 PU. -/
theorem State.checkDrift_over (unlocked : s.tim.sync ≠ .locked) (fresh : s.tim.degraded = false)
    (beyond : s.driftOver (s.tim.now - s.tim.lastReport) = true) :
    s.checkDrift = (s.setTim fun t => { t with degraded := true }).evt timPage 2 := by
  unfold State.checkDrift
  rw [beyond, fresh, bne_iff_ne.mpr unlocked]
  rfl

/-- A good report (R22). -/
theorem State.servoReport_good {off : Int} (good : off.natAbs ≤ s.rdF 0 Reg.LOCK_CFG 15 0) :
    let t := s.setTim fun t => { t with
      lastOffset := off, lastReport := t.now, goodCount := min 255 (t.goodCount + 1) }
    s.servoReport off =
      if s.rdF 0 Reg.LOCK_CFG 23 16 ≤ t.tim.goodCount && t.tim.sync != .locked then t.enterLocked else t.checkDrift := by
  unfold State.servoReport
  simp only [if_pos good]
  rfl

/-- A report that is not good (R22). -/
theorem State.servoReport_bad {off : Int} (bad : s.rdF 0 Reg.LOCK_CFG 15 0 < off.natAbs) :
    let t := s.setTim fun t => { t with lastOffset := off, lastReport := t.now, goodCount := 0 }
    s.servoReport off =
      if 8 * s.rdF 0 Reg.LOCK_CFG 15 0 < off.natAbs && t.tim.sync == .locked then t.enterHoldover.checkDrift else t.checkDrift := by
  unfold State.servoReport
  simp only [if_neg (Nat.not_le.mpr bad)]
  rfl

/-- Settles O3: the report by its size, and the time-outs by the state that they leave. -/
theorem synchronisationStatesFollowTheServo : Obligations.SynchronisationStatesFollowTheServo := by
  refine ⟨?report, ?goodLocked, ?between, ?noLoss, ?noHoldover, ?noDrift, ?drift, ?acquire, ?lose, ?loss, ?holdover, ?degraded⟩
  case report => exact fun s rq v reach => next_of_onWrite reach rfl
  case goodLocked =>
    intro s rq v reach locked good
    refine next_of_onWrite reach ((State.servoReport_good good).trans ?_)
    rw [if_neg (by simp [locked])]
    exact State.checkDrift_idle (.inl locked)
  case between =>
    intro s rq v reach locked bad close
    refine next_of_onWrite reach ((State.servoReport_bad bad).trans ?_)
    rw [if_neg (by simp; omega)]
    exact State.checkDrift_idle (.inl locked)
  case noLoss =>
    intro s h
    refine next_of_not_when ?_
    rcases h with h | h <;> simp [h]
  case noHoldover => exact fun s h => next_of_not_when (beq_false_of_ne h)
  case noDrift =>
    intro s h
    refine congrArg Host.Outcome.next ?_
    rcases h with h | h | h
    · rw [h]
    all_goals
      cases s.driftDue with
      | none => rfl
      | some el => simp only [h]; simp
  case drift =>
    intro s el due unlocked fresh
    refine congrArg Host.Outcome.next ?_
    rw [due]
    simp only [fresh, bne_iff_ne.mpr unlocked, Bool.not_false, Bool.and_true, State.when_true, State.passToNow]
  case acquire =>
    intro s rq v reach good enough unlocked
    refine next_of_onWrite reach ((State.servoReport_good good).trans ?_)
    rw [if_pos (by simp [enough, unlocked])]
    rfl
  case lose =>
    intro s rq v reach locked far degraded
    refine next_of_onWrite reach ((State.servoReport_bad (by omega)).trans ?_)
    rw [if_pos (by simp [locked, far])]
    exact State.checkDrift_idle (.inr ((congrArg Tim.degraded (State.evt_tim ..)).trans degraded))
  case loss =>
    intro s locked timed
    exact next_of_when (by simp [locked, timed]) (by unfold State.passToNow State.enterHoldover; rfl)
  case holdover => exact fun s holdover => next_of_when (by simp [holdover]) (by unfold State.passToNow; rfl)
  case degraded =>
    intro s el due unlocked fresh t beyond
    refine congrArg Host.Outcome.next ?_
    rw [due]
    simp only [fresh, bne_iff_ne.mpr unlocked, Bool.not_false, Bool.and_true, State.when_true]
    exact State.checkDrift_over (by rwa [State.passToNow_tim_sync]) (by rwa [State.passToNow_tim_degraded]) beyond

/-! ### The timing pins (R49 to R51) -/

/-- Settles O4: each row acts where its enable bit and the pin's state let it. -/
theorem timingPinsAreStampedAndDriven : Obligations.TimingPinsAreStampedAndDriven := by
  refine ⟨?stamped, ?seen, ?missing, ?second, ?day, ?extended, ?ends⟩
  case stamped => exact fun s enabled => next_of_when enabled rfl
  case seen => exact fun s disabled => next_of_not_when disabled
  case missing =>
    intro s present enabled
    refine next_of_when present ?_
    have enabled' : ∀ n, ((s.pass n).setTim fun t => { t with ppsPresent := false }).rdB 0 Reg.PPS_CFG 19 = true := fun n =>
      (State.rdB_congr ((State.setTim_regs ..).trans (State.pass_regs ..)) ..).trans enabled
    simp only [State.passToNow, enabled', State.when_true]
  case second =>
    intro s enabled onSecond low
    refine next_of_when (by simp [enabled, low]) ?_
    simp only [onSecond, Bool.false_eq_true, if_false, State.nextSecond]
  case day =>
    intro s enabled onDay low
    refine next_of_when (by simp [enabled, low]) ?_
    simp only [onDay, if_true]
  case extended =>
    intro s enabled onDay low extended
    refine next_of_when (by simp [enabled, low]) ?_
    simp only [onDay, if_true, State.passToDayStart, extended, beq_self_eq_true]
  case ends => exact fun s high => next_of_when high (by unfold State.passToNow; rfl)

end Sys2Proof.Machine
end

section
/-! Proofs of the statements on the cadence, the windows of the day and the day plans (spec/01_cadence.md). -/
namespace Sys2Proof.Machine

variable {s : State} {rq : Requester}

/-! ### The cadence (R28, R29, R39, R41) -/

/-- Settles O5: by the state of the cadence, and at a boundary by CAD_RUN and a pending realignment. -/
theorem cadenceStartsTurnsAndStops : Obligations.CadenceStartsTurnsAndStops := by
  refine ⟨?set, ?clear, ?start, ?boundary, ?realigned⟩
  case set =>
    intro s rq reach stopped
    refine next_of_onWrite reach ?_
    unfold State.cadRunSet
    simp only [stopped, beq_self_eq_true, State.when_true]
  case clear =>
    intro s rq reach
    refine next_of_onWrite reach ?_
    unfold State.cadRunClear State.when
    simp only [beq_iff_eq]
  case start => exact fun s waiting => next_of_when (by rw [waiting]; rfl) rfl
  case boundary =>
    intro s running midnight t
    have due : (s.tim.cad == .running && s.tim.win == .midnight) = true := by rw [running, midnight]; rfl
    refine ⟨fun stop => next_of_when due ?_, fun run pending => next_of_when due ?_, fun run aligned => next_of_when due ?_⟩
    · exact if_pos (by rw [stop]; rfl)
    · exact (if_neg (by rw [run]; decide)).trans (if_pos pending)
    · exact (if_neg (by rw [run]; decide)).trans (if_neg (by rw [aligned]; decide))
  case realigned =>
    intro s extended t
    have due : (s.tim.cad == .extended) = true := by rw [extended]; rfl
    refine ⟨fun stop => next_of_when due ?_, fun run => next_of_when due ?_⟩
    · exact if_pos (by rw [stop]; rfl)
    · exact if_neg (by rw [run]; decide)

/-! ### The windows (R33, R34, R160) -/

/-- Settles O6: the window that is open decides. -/
theorem windowsOfTheDayOpenInOrder : Obligations.WindowsOfTheDayOpenInOrder := by
  refine ⟨?noon, ?dusk, ?midnight, ?guard, ?guardNoon⟩
  case noon => exact fun s running dawn => next_of_when (by rw [running, dawn]; rfl) rfl
  case dusk => exact fun s running noon => next_of_when (by rw [running, noon]; rfl) rfl
  case midnight => exact fun s running dusk => next_of_when (by rw [running, dusk]; rfl) rfl
  case guard =>
    intro s running early some other
    refine next_of_when (by simp [running, early, some]) ?_
    simp only [State.setTim_tim, (State.accrueAll_engines _).tim, State.passToCad_tim_win, beq_false_of_ne other, State.when_false]
  case guardNoon =>
    intro s running early some noon
    refine next_of_when (by simp [running, early, some]) ?_
    simp only [State.setTim_tim, (State.accrueAll_engines _).tim, State.passToCad_tim_win, noon, beq_self_eq_true, State.when_true]

/-! ### Day plans (R46, R47) -/

/-- PLN's own state and a register are stored apart. -/
theorem State.setPln_wr (i : Nat) (r : RegId) (v : Word) (sel : Nat) (f : Pln → Pln) :
    (s.wr i r v sel).setPln f = (s.setPln f).wr i r v sel := by
  unfold State.setPln State.wr State.wrAt
  rfl

/-- Two changes of PLN's own state are one. -/
theorem State.setPln_setPln (f g : Pln → Pln) : (s.setPln f).setPln g = s.setPln fun p => g (f p) := rfl

/-- Settles O7: whether a load may begin, what its checks find, and whether the retiring epoch still has work. -/
theorem dayPlansLoadStageAndRetire : Obligations.DayPlansLoadStageAndRetire := by
  refine ⟨?load, ?ignored, ?discard, ?staged, ?failed, ?retire⟩
  case load =>
    intro s rq reach idle ready
    refine next_of_onWrite reach ?_
    simp only [Bool.false_eq_true, if_false, State.planLoad, idle, ready, Bool.not_true, Bool.or_false, State.stagedIdReg,
      State.wr_pln, State.setPln_pln]
  case ignored =>
    intro s rq reach busy
    refine next_of_onWrite reach ?_
    exact if_pos (by rcases busy with h | h <;> simp [h])
  case discard =>
    intro s rq reach
    refine next_of_onWrite reach ?_
    simp only [State.planDiscard, State.stagedIdReg, State.wr_pln, State.setPln_pln]
  case staged =>
    intro s p loading plan early
    refine next_of_when loading ?_
    simp only [plan, if_neg (Nat.not_le.mpr early), State.setPln_wr, State.setPln_setPln, State.stagedIdReg, State.wr_pln, State.setPln_pln]
  case failed =>
    intro s loading
    refine ⟨fun bad => next_of_when loading ?_, fun p plan late => next_of_when loading ?_⟩
    · simp only [bad]
    · simp only [plan, if_pos late]
  case retire =>
    intro s p retiring idle
    refine congrArg Host.Outcome.next ?_
    unfold State.retirePlan
    simp only [retiring, idle, beq_self_eq_true, State.when_true]

end Sys2Proof.Machine
end

section
/-! Proof of the statement on the words that a read of the time latches (R17). -/
namespace Sys2Proof.Machine

variable {s : State}

/-- The two words of a number make it up, modulo 2^64. -/
theorem lo32_add_hi32 (v : Nat) : (lo32 v).toNat + 2 ^ 32 * (hi32 v).toNat = v % 2 ^ 64 := by
  unfold lo32 hi32
  simp only [BitVec.toNat_ofNat]
  omega

/-- A stored pair reads back. -/
theorem State.rd64_wr64_same (i : Nat) (r : RegId) (v sel : Nat) : (s.wr64 i r v sel).rd64 i r sel = v % 2 ^ 64 := by
  have low : (s.wr64 i r v sel).rd i r sel = lo32 v := by
    unfold State.wr64 State.rd
    rw [State.rdAt_wrAt, if_neg (regKey_ne_of_word_ne _ _ _ (by omega))]
    exact State.rd_wr_same ..
  unfold State.rd64
  rw [low, State.wr64, State.rdAt_wrAt_same]
  exact lo32_add_hi32 v

/-- Settles O53: the latched words are the last stores to their registers. -/
theorem readsOfTheTimeLatchTheRest : Obligations.ReadsOfTheTimeLatchTheRest := by
  intro s rq reach
  refine ⟨⟨_, congrArg Host.Outcome.next (State.sideRead_of_canRead reach _ _), ?_, ?_⟩,
    ⟨_, congrArg Host.Outcome.next (State.sideRead_of_canRead reach _ _), State.rd64_wr64_same ..⟩⟩
  · unfold State.latchSec State.rd
    rw [State.rdAt_wrAt_word_ne _ _ _ (by decide)]
    exact State.rd_wr_same ..
  · unfold State.latchSec State.rd
    exact State.rdAt_wrAt_same ..

end Sys2Proof.Machine
end

section
/-! Proofs of the statements on requests (spec/02_requests.md, spec/05_kv_pages.md): admission, the commands on a request, and moves between nodes. -/
namespace Sys2Proof.Machine

variable {s : State} {c : Nat} {cmd : Cmd}

/-! ### Admission (R62, R68, R86) -/

/-- An admission that a check refuses. -/
theorem State.admitEarly_refused (st : Nat) (check : s.admitCheck c cmd = st) (refused : st ≠ 0) :
    s.admitEarly c cmd = (s.countReject c st).complete c cmd st := by
  unfold State.admitEarly State.admitNow
  simp only [check, ne_eq, refused, not_false_iff, if_true]

/-- An admission for which no page-table root can be had (log entry 53). -/
theorem State.admitEarly_noRoot {i : Nat} (check : s.admitCheck c cmd = 0) (slot : s.freeReq c = some i)
    (root : s.makeEntry c cmd i = none) : s.admitEarly c cmd = (s.countReject c 1).complete c cmd 1 := by
  unfold State.admitEarly State.admitNow
  simp only [check, ne_eq, not_true, if_false, slot, root]

/-- An admission that takes the lowest free slot. -/
theorem State.admitEarly_admitted {i : Nat} {s1 : State} (check : s.admitCheck c cmd = 0) (slot : s.freeReq c = some i)
    (made : s.makeEntry c cmd i = some s1) :
    s.admitEarly c cmd = ((s1.complete c cmd 0 (leBytes 4 (s1.handleNum c i))).when (cmd.op == 0x012) fun t =>
      t.sendOpen c i).placeNow c i := by
  unfold State.admitEarly State.admitNow
  simp only [check, ne_eq, not_true, if_false, slot, made]

/-- Settles O8: by the window of its stamp, the checks in their order, and the root of its page table. -/
theorem admissionCommandsAdmitOrReject : Obligations.AdmissionCommandsAdmitOrReject := by
  refine ⟨?admits, ?reject, ?late, ?noRoot, ?waits, ?accept, ?acceptReject⟩
  case admits =>
    intro s0 s s1 c i cmd k arrived held early check slot made
    refine next_of_control arrived held ((if_pos early).trans ((State.admitEarly_admitted check slot made).trans ?_))
    rw [show (k.op == 0x012) = false from rfl, State.when_false]
  case reject =>
    intro s0 s c st cmd k arrived held early check refused
    exact next_of_control arrived held ((if_pos early).trans (State.admitEarly_refused st check refused))
  case late =>
    intro s0 s c cmd k arrived held late
    exact next_of_control arrived held (if_neg (by rw [late]; decide))
  case noRoot =>
    intro s0 s c i cmd k arrived held early check slot root
    exact next_of_control arrived held ((if_pos early).trans (State.admitEarly_noRoot check slot root))
  case waits =>
    intro s c cmd x k on holder other
    exact (next_of_control_waits (State.holdsCmd_other on holder other)).trans
      (congrArg Host.Outcome.next (State.occupy_other on holder other))
  case accept =>
    intro s0 s s1 c i cmd k arrived held early check slot made
    refine next_of_control arrived held ((if_pos early).trans ((State.admitEarly_admitted check slot made).trans ?_))
    rw [show (k.op == 0x012) = true from rfl, State.when_true]
  case acceptReject =>
    intro s0 s c st cmd k arrived held early check refused
    exact next_of_control arrived held ((if_pos early).trans (State.admitEarly_refused st check refused))

/-! ### The commands on a request (R56, R61, R81 to R92) -/

/-- A live handle names the slot's generation, and the slot is in use. -/
theorem State.gen_st_of_handleLive (live : s.handleLive c cmd = true) :
    (s.req c (cmdReq cmd % 4096)).gen = cmdGen cmd ∧ (s.req c (cmdReq cmd % 4096)).st ≠ .free := by
  unfold State.handleLive at live
  simp only [Bool.and_eq_true, beq_iff_eq, bne_iff_ne, ne_eq] at live
  exact ⟨live.1.1.2, live.1.2⟩

/-- So an operation on the slot does not find the handle stale. -/
theorem State.not_stale_of_handleLive (live : s.handleLive c cmd = true) :
    ¬ ((s.req c (cmdReq cmd % 4096)).gen ≠ cmdGen cmd ∨ (s.req c (cmdReq cmd % 4096)).st = .free) := by
  obtain ⟨gen, st⟩ := State.gen_st_of_handleLive live
  exact fun h => h.elim (fun g => g gen) st

/-- A request command with a stale handle. -/
theorem State.reqCommand_stale (k : PendKind) (stale : s.handleLive c cmd = false) : s.reqCommand c k cmd = s.complete c cmd 0x06 := by
  unfold State.reqCommand
  rw [stale]
  rfl

/-- A request command of the present step is applied at once, and a resumed request is placed. -/
theorem State.reqCommand_early (k : PendKind) (live : s.handleLive c cmd = true) (early : (s.cmdStamp cmd).early = true) :
    s.reqCommand c k cmd = (s.applyFour c ⟨k, 0, cmdReq cmd % 4096, cmdGen cmd, cmd, 0, 0, false⟩).when (k == .resume) fun t =>
      t.placeNow c (cmdReq cmd % 4096) := by
  unfold State.reqCommand
  rw [live, early]
  rfl

/-- A cancel that may take effect does. -/
theorem State.applyCancel_first {p : Pend} (gen : (s.req c p.slot).gen = p.gen) (st : (s.req c p.slot).st ≠ .free)
    (free : (s.req c p.slot).cancelHeld = false) (first : p.again = false) (cancellable : (s.req c p.slot).cancelStatus = 0) :
    s.applyCancel c p = ((s.cancelling c p.slot).complete c p.cmd 0, true) := by
  unfold State.applyCancel
  simp [gen, st, free, first, cancellable]

/-- A second one completes with ALREADY_CANCELLING. -/
theorem State.applyCancel_again {p : Pend} (gen : (s.req c p.slot).gen = p.gen) (st : (s.req c p.slot).st ≠ .free)
    (free : (s.req c p.slot).cancelHeld = false) (again : p.again = true) :
    s.applyCancel c p = (s.complete c p.cmd 0x09, true) := by
  unfold State.applyCancel
  simp [gen, st, free, again]

/-- Settles O9: the handle, the step that the command is for, and the request's state decide in this order. -/
theorem requestCommandsMoveTheStateMachine : Obligations.RequestCommandsMoveTheStateMachine := by
  refine ⟨?cancel, ?again, ?applied, ?stale, ?park, ?resume, ?abort, ?query, ?stales, ?read⟩
  case cancel =>
    intro s0 s c cmd arrived held live early i first notHeld cancellable
    refine next_of_control arrived held ?_
    obtain ⟨gen, st⟩ := State.gen_st_of_handleLive live
    have now : ((s.cmdStamp cmd).early && !(s.req c (cmdReq cmd % 4096)).flags.cancelPending) = true := by rw [early, first]; rfl
    unfold State.cancel
    rw [live, if_neg (by decide)]
    simp only [if_pos now]
    rw [State.applyCancel_first (by rw [State.req_updReq_same]; exact gen) (by rw [State.req_updReq_same]; exact st)
      (by rw [State.req_updReq_same]; exact notHeld) first (by rw [State.req_updReq_same]; exact cancellable)]
  case again =>
    intro s0 s c cmd arrived held live i pending
    refine next_of_control arrived held ?_
    have later : ¬ ((s.cmdStamp cmd).early && !(s.req c (cmdReq cmd % 4096)).flags.cancelPending) = true := by rw [pending]; simp
    unfold State.cancel
    rw [live, if_neg (by decide)]
    simp only [if_neg later]
    rfl
  case applied => exact fun s c p gen st free again => State.applyCancel_again gen st free again
  case stale =>
    intro s0 s c cmd arrived held stale
    exact next_of_control arrived held (if_pos (by rw [stale]; rfl))
  case park =>
    intro s0 s c cmd arrived held live early i st
    refine next_of_control arrived held ((State.reqCommand_early .park live early).trans ((State.when_false _).trans ?_))
    exact (if_neg (State.not_stale_of_handleLive live)).trans (if_pos st.symm)
  case resume =>
    intro s0 s c cmd arrived held live early i st
    refine next_of_control arrived held ((State.reqCommand_early .resume live early).trans ((State.when_true _).trans ?_))
    exact congrArg (State.placeNow · c i) ((if_neg (State.not_stale_of_handleLive live)).trans (if_pos st))
  case abort =>
    intro s0 s c cmd arrived held live early i st outbound
    refine next_of_control arrived held ((State.reqCommand_early .moveAbort live early).trans ((State.when_false _).trans ?_))
    have moves : ¬ ((s.req c i).st ≠ .moving ∨ (s.req c i).outbound = false) := by simp [st, outbound]
    exact (if_neg (State.not_stale_of_handleLive live)).trans (if_neg moves)
  case query =>
    intro s0 s c cmd arrived held live e
    exact next_of_control arrived held (if_pos live)
  case stales =>
    intro s0 s c cmd arrived held stale
    exact ⟨next_of_control arrived held (State.reqCommand_stale _ stale), next_of_control arrived held (State.reqCommand_stale _ stale),
      next_of_control arrived held (State.reqCommand_stale _ stale), next_of_control arrived held (if_neg (by simp [stale]))⟩
  case read => exact fun s rq c reach => congrArg Host.Outcome.next (State.sideRead_of_canRead reach _ _)

/-! ### Moves between nodes (R85 to R88, R209) -/

/-- Page table entries follow from the channels. -/
theorem State.pte_congr {t : State} (h : t.chan = s.chan) (c k : Nat) : t.pte c k = s.pte c k := by
  unfold State.pte State.pgm State.ch
  rw [h]

/-- A request entry is stored beside the page table. -/
@[simp] theorem State.pte_updReq (c i j k : Nat) (f : ReqEntry → ReqEntry) : (s.updReq c i f).pte j k = s.pte j k := by
  unfold State.updReq State.pte State.pgm
  rw [State.ch_updCh]
  split
  · next same => rw [same]
  · rfl

/-- So a request gives a page slot back beside it. -/
@[simp] theorem State.pte_unhold (c i j k : Nat) : (s.unhold c i).pte j k = s.pte j k := by
  unfold State.unhold
  split
  · rfl
  · unfold State.uncharge
    exact (State.pte_congr (State.wr_chan ..) ..).trans (State.pte_updReq ..)

/-- Settles O10: the side that the entry is on, and what its state lets the record do. -/
theorem movingARequestBetweenNodes : Obligations.MovingARequestBetweenNodes := by
  refine ⟨?opened, ?refused, ?waits, ?table, ?tableRefused, ?switched, ?closed⟩
  case opened =>
    intro s c slot gen node peer on dawn i same out
    refine congrArg Host.Outcome.next ?_
    unfold State.moveOpened
    simp only [on, State.when_true, if_pos dawn]
    exact if_neg (not_or.mpr ⟨fun h => h same, by rw [out]; decide⟩)
  case refused =>
    intro s c slot gen node peer on dawn bad
    refine congrArg Host.Outcome.next ?_
    unfold State.moveOpened
    simp only [on, State.when_true, if_pos dawn]
    exact if_pos bad
  case waits =>
    intro s c slot gen node peer on later
    refine congrArg Host.Outcome.next ?_
    unfold State.moveOpened
    simp only [on, State.when_true, later, Bool.false_eq_true, if_false]
  case table =>
    intro s c slot gen m i on same pulling inbound fresh taken t
    refine congrArg Host.Outcome.next ?_
    have takes : ¬ (!s.enabledCh c ∨ (s.req c i).gen ≠ gen ∨ (s.req c i).flags.pulling = false ∨ (s.req c i).outbound ∨
      (s.req c i).tableIn) := by simp [on, same, pulling, inbound, fresh]
    exact (if_neg takes).trans (if_neg (by rw [taken]; decide))
  case tableRefused =>
    intro s c slot gen m i on same pulling inbound fresh refused
    refine congrArg Host.Outcome.next ?_
    have takes : ¬ (!s.enabledCh c ∨ (s.req c i).gen ≠ gen ∨ (s.req c i).flags.pulling = false ∨ (s.req c i).outbound ∨
      (s.req c i).tableIn) := by simp [on, same, pulling, inbound, fresh]
    exact (if_neg takes).trans (if_pos refused)
  case switched =>
    intro s c slot gen layer page i k p on same outbound listed home present t
    refine congrArg Host.Outcome.next ?_
    have switches : ¬ (!s.enabledCh c ∨ (s.req c i).gen ≠ gen ∨ (s.req c i).outbound = false ∨ p.there = false ∨ p.link ∨
      p.st = .evicted) := by simp [on, same, outbound, listed, home, present]
    refine (if_neg switches).trans ?_
    have kept : ∀ b, (t.when b fun s => s.unhold c i).pte c k = p := fun b =>
      (State.when_leaves (State.pte · c k) b fun t => State.pte_unhold ..).trans (State.pte_updReq ..)
    unfold State.leaveHome
    rw [kept]
    by_cases shared : 1 < p.ref
    · rw [if_pos shared, if_pos shared, State.when_neg (by rw [decide_eq_false (Nat.not_le.mpr shared), Bool.false_and])]
    · rw [if_neg shared, if_neg shared]
      unfold State.when
      rw [decide_eq_true (Nat.not_lt.mp shared), Bool.true_and]
  case closed =>
    intro s c slot gen i e on same moving outbound links
    refine congrArg Host.Outcome.next ?_
    have moves : ¬ (!s.enabledCh c ∨ e.gen ≠ gen ∨ e.st ≠ .moving ∨ e.outbound = false) := by simp [on, same, moving, outbound]
    exact if_neg moves

end Sys2Proof.Machine
end

section
/-! Proofs of the statements on sweeps, ring records, commits and the sampler (spec/04_attention_array.md, spec/08_sampling.md). -/
namespace Sys2Proof.Machine

variable {s t : State} {c : Nat} {cmd : Cmd}

/-! ### Sweep commands (R139, R146, R157) -/

/-- A sweep command that takes the powered array starts its sweep. -/
theorem State.sweepCmd_starts (sweep : isSweep cmd.op = true) (next : s.comesNext c 1 cmd = true) (power : s.domSt c = .on)
    (holder : ((s.taken c 1 cmd).engine c 1).holder = some cmd) (fresh : (s.taken c 1 cmd).run c cmd.job = none) :
    s.sweepCmd c cmd = (s.taken c 1 cmd).startSweep c cmd := by
  have free : (s.enabledCh c && (s.engine c 1).holder.isNone) = true := by
    unfold State.comesNext at next
    exact (Bool.and_eq_true ..).mp next |>.1
  unfold State.sweepCmd
  rw [if_pos power, State.when_pos free, State.occupy_of_comesNext next]
  unfold State.sweepTaken
  simp only [holder, sweep, fresh, Bool.not_true, Bool.false_eq_true, if_false]

/-- One for an array that is powered down waits, and in Noon the array is woken. -/
theorem State.sweepCmd_unpowered (on : s.enabledCh c = true) (power : s.domSt c ≠ .on) :
    let t := ((s.accrue c).arrive c 1 cmd).settle c
    s.sweepCmd c cmd = if t.inWindow .noon then t.wake c else t := by
  unfold State.sweepCmd
  rw [if_neg power, State.when_pos on, ← State.inWindow_congr (State.waits_engines s c 1 cmd).tim]
  rfl

/-- One that another command keeps from the array waits. -/
theorem State.sweepCmd_other {x : Cmd} (on : s.enabledCh c = true) (power : s.domSt c = .on)
    (holder : (s.engine c 1).holder = some x) (other : x ≠ cmd) :
    s.sweepCmd c cmd = ((s.accrue c).arrive c 1 cmd).settle c := by
  unfold State.sweepCmd
  rw [if_pos power, State.when_neg (by rw [holder, Option.isNone_some, Bool.and_false]), State.occupy_other on holder other]

/-- What every sweep command answers at the same state, each with its own OP. -/
theorem exec_sweeps {op : Nat} (run : isSweep op = true → s.sweepCmd c { cmd with op := op } = t) :
    (op = 0x101 → exec (.qk c cmd) s = .next t) ∧ (op = 0x102 → exec (.softmax c cmd) s = .next t) ∧
    (op = 0x103 → exec (.pv c cmd) s = .next t) ∧ (op = 0x104 → exec (.fused c cmd) s = .next t) ∧
    (op = 0x105 → exec (.partialSweep c cmd) s = .next t) ∧ (op = 0x106 → exec (.stateUpdate c cmd) s = .next t) ∧
    (op = 0x107 → exec (.cross c cmd) s = .next t) := by
  refine ⟨?_, ?_, ?_, ?_, ?_, ?_, ?_⟩ <;> (rintro rfl; exact congrArg Host.Outcome.next (run rfl))

/-- Settles O11: the power of the array, then the engine, then the descriptor. -/
theorem sweepCommandsTakeTheArray : Obligations.SweepCommandsTakeTheArray := by
  refine ⟨?starts, ?unpowered, ?other, ?keeps⟩
  case starts =>
    intro s c op cmd k next power t holder fresh
    exact exec_sweeps fun sweep => State.sweepCmd_starts sweep next power holder fresh
  case unpowered => exact fun s c op cmd on power => exec_sweeps fun _ => State.sweepCmd_unpowered on power
  case other => exact fun s c op cmd x on power holder other => exec_sweeps fun _ => State.sweepCmd_other on power holder other
  case keeps =>
    intro s c cmd ok d ms placed rows
    exact if_neg (by rw [ok]; decide)

/-! ### Tiles and ring records (R138, R162 to R171, R284) -/

/-- The end of a tile of the sweep that holds the array. -/
theorem exec_tileEnd_of_running {r : SweepRun} (bad : Option Nat) (holder : (s.engine c 1).holder = some cmd)
    (sweep : isSweep cmd.op = true) (run : s.run c cmd.job = some r) (same : r.cmd = cmd) (served : s.arrayStuck c cmd.job = false) :
    exec (.tileEnd c bad) s = .next (s.tile c cmd bad) := by
  refine congrArg Host.Outcome.next ?_
  simp [holder, sweep, run, same, served]

/-- The tile of a sweep with nothing left to run: its members end. -/
theorem State.tile_ends {u v : State} {bad : Option Nat} {r1 r : SweepRun}
    (laid : (s.underRun c cmd.job fun s => (s.flushHeld c cmd.job 4096).layAll c cmd.job) = u) (went : u.run c cmd.job = some r1)
    (covered : (u.setRun c cmd.job (some { r1 with streams := r1.streams.map (u.refresh c) })).coverStruck c cmd.job = v)
    (struck : v.run c cmd.job = some r) (empty : r.held = []) (noFault : (v.asOld c r.old).layFault c r = none)
    (noProj : r.projDue (v.nextSet c r) = none) (noSet : v.nextSet c r = []) :
    s.tile c cmd bad = (v.underRun c cmd.job fun s => s.endMembers c cmd.job).afterTile c cmd := by
  unfold State.tile
  simp only [laid, went, covered, struck, empty, noFault, noSet ▸ noProj, noSet, List.isEmpty_nil, Bool.not_true, Bool.false_eq_true, if_false,
    if_true]

/-- A ring record of a channel that serves, where no snoop is outstanding for it. -/
theorem State.onRing_of_clear {r : Nat} (serves : s.serves c = true) (clear : s.snoopClear (s.xrPublished c r) = true) (f : State → State) :
    s.onRing c r f = f s := by
  unfold State.onRing
  rw [State.when_pos serves, State.afterSnoops_clear s _ _ clear]

/-- Settles O12: what the array holds, and the first rule that drops a record. -/
theorem arrayTilesAndRingRecordsAreWorkedOff : Obligations.ArrayTilesAndRingRecordsAreWorkedOff := by
  refine ⟨?tile, ?last, ?fresh, ?query, ?queryDropped, ?partials, ?logits⟩
  case tile =>
    exact fun s c bad cmd r holder sweep run same served => exec_tileEnd_of_running bad holder sweep run same served
  case last =>
    intro s u c bad cmd r0 r1 r holder sweep run same served laid went v struck empty noFault noProj none'
    exact (exec_tileEnd_of_running bad holder sweep run same served).trans
      (congrArg Host.Outcome.next (State.tile_ends laid went rfl struck empty noFault noProj none'))
  case fresh =>
    intro s c bad cmd holder sweep fresh
    refine congrArg Host.Outcome.next ?_
    simp [holder, sweep, fresh]
  case query =>
    intro s t c r h d serves clear head noCause desc
    refine congrArg Host.Outcome.next ((State.onRing_of_clear serves clear _).trans ?_)
    simp only [head, noCause, desc]
  case queryDropped =>
    intro s t c r h serves clear head cause
    refine congrArg Host.Outcome.next ((State.onRing_of_clear serves clear _).trans ?_)
    simp only [head]
    split
    · next none' _ => exact absurd none' cause
    · next drops => rfl
  case partials =>
    intro s t c r h d pay serves clear head noCause desc payload
    refine congrArg Host.Outcome.next ((State.onRing_of_clear serves clear _).trans ?_)
    simp only [head, noCause, desc, payload]
  case logits =>
    intro s t c r h serves clear head noCause
    refine congrArg Host.Outcome.next ((State.onRing_of_clear serves clear _).trans ?_)
    simp only [head, noCause]

/-! ### Commits and the sampler (R168, R173, R282 to R296) -/

/-- A request whose commit has not begun commits at the bank as it is. -/
theorem State.underBegun_of_not_begun {i : Nat} (fresh : s.commitBegun c i = false) (f : State → State) : s.underBegun c i f = s.under c none f := by
  unfold State.underBegun
  rw [List.find?_eq_none.2 fun b mem => by simpa using List.any_eq_false.1 fresh b mem, Option.map_none]

/-- The commit of a request alone, in the order of its checks. -/
theorem exec_stepCommit_alone {slot : Nat} (serves : s.serves c = true) (alone : s.commitSet c (slot % 4096) = [])
    (may : (s.inWindow .dusk || s.commitBegun c (slot % 4096)) = true) (done : s.stepComplete c (slot % 4096) = true) :
    exec (.stepCommit c slot) s =
      .next (s.underBegun c (slot % 4096) fun s => s.tryCommit c (slot % 4096) [] [slot % 4096]) := by
  refine next_of_when serves ?_
  unfold State.stepCommit
  simp only [alone, List.isEmpty_nil, if_true, List.any_cons, List.any_nil, Bool.or_false, may, List.all_cons, List.all_nil, done,
    Bool.and_true, Bool.not_true, Bool.or_self, Bool.false_eq_true, if_false]

/-- The commit of a whole beam group. -/
theorem exec_stepCommit_group {slot : Nat} (serves : s.serves c = true) (group : s.commitSet c (slot % 4096) ≠ [])
    (dusk : s.inWindow .dusk = true) (done : ∀ x ∈ s.commitSet c (slot % 4096), s.stepComplete c x.slot = true) :
    exec (.stepCommit c slot) s = .next (s.underBegun c (slot % 4096) fun u => u.tryCommit c (slot % 4096) (s.commitSet c (slot % 4096))
      ((s.commitSet c (slot % 4096)).map BeamMember.slot)) := by
  refine next_of_when serves ?_
  have all : ((s.commitSet c (slot % 4096)).map BeamMember.slot).all (s.stepComplete c) = true := by
    rw [List.all_map, List.all_eq_true]
    exact done
  unfold State.stepCommit
  simp only [List.isEmpty_eq_false_iff.2 group, Bool.false_eq_true, if_false, dusk, Bool.true_or, Bool.not_true, all, Bool.or_self]

/-- Outside Dusk a commit that has not begun does not begin. -/
theorem exec_stepCommit_outside_dusk {slot : Nat} (serves : s.serves c = true) (alone : s.commitSet c (slot % 4096) = [])
    (noDusk : s.inWindow .dusk = false) (fresh : s.commitBegun c (slot % 4096) = false) : exec (.stepCommit c slot) s = .next s := by
  refine next_of_when serves ?_
  unfold State.stepCommit
  simp only [alone, List.isEmpty_nil, if_true, List.any_cons, List.any_nil, Bool.or_false, noDusk, fresh, Bool.not_false, Bool.true_or]

/-- What a commit of one request does, by its stalls (R168). -/
theorem State.tryCommit_alone {i : Nat} : s.tryCommit c i [] [i] =
    if s.commitStalls c i i then s.beginCommit c [i]
    else if s.writesRecord c i && !s.cancelDrops c i && s.crStalls c i 1 then (s.beginCommit c [i]).stallCommit c i
    else s.commitOne c i i := by
  unfold State.tryCommit
  simp only [List.any_cons, List.any_nil, Bool.or_false, List.isEmpty_nil, if_true]
  refine ite_congr rfl (fun _ => rfl) fun _ => ?_
  by_cases writes : (s.writesRecord c i && !s.cancelDrops c i) = true
  · cases full : s.crStalls c i 1 <;> simp [writes, full]
  · simp [Bool.not_eq_true _ ▸ writes]

/-- Settles O13: the window, the step, the stalls, and the write of the record. -/
theorem stepsCommitAndTheSamplerRuns : Obligations.StepsCommitAndTheSamplerRuns := by
  refine ⟨?commits, ?ringFull, ?stalls, ?begun, ?group, ?idle, ?cfgSet, ?cfgOther, ?cfgRelease, ?bind, ?bindStale, ?row⟩
  case commits =>
    intro s c slot serves i alone dusk fresh done free room
    refine (exec_stepCommit_alone serves alone (by rw [dusk, Bool.true_or]) done).trans (congrArg Host.Outcome.next ?_)
    rw [State.underBegun_of_not_begun fresh]
    refine State.tryCommit_alone.trans ((if_neg (by rw [free]; decide)).trans ((if_neg (by rw [room]; decide)).trans ?_))
    unfold State.commitOne
    rfl
  case ringFull =>
    intro s c slot serves i alone dusk fresh done free full
    refine (exec_stepCommit_alone serves alone (by rw [dusk, Bool.true_or]) done).trans (congrArg Host.Outcome.next ?_)
    rw [State.underBegun_of_not_begun fresh]
    exact State.tryCommit_alone.trans ((if_neg (by rw [free]; decide)).trans (if_pos full))
  case stalls =>
    intro s c slot serves i alone dusk fresh done stalls
    refine (exec_stepCommit_alone serves alone (by rw [dusk, Bool.true_or]) done).trans (congrArg Host.Outcome.next ?_)
    rw [State.underBegun_of_not_begun fresh]
    exact State.tryCommit_alone.trans (if_pos stalls)
  case begun =>
    intro s c slot serves i alone begun done
    exact exec_stepCommit_alone serves alone (by rw [begun, Bool.or_true]) done
  case group => exact fun s c slot serves group dusk done => exec_stepCommit_group serves group dusk done
  case idle => exact fun s c slot serves alone noDusk fresh => exec_stepCommit_outside_dusk serves alone noDusk fresh
  case cfgSet =>
    intro s0 s c cmd r arrived held own ok
    exact next_of_control arrived held ((if_neg (by rw [own]; decide)).trans (if_pos ok))
  case cfgOther =>
    intro s0 s c cmd arrived held other
    exact ⟨next_of_control arrived held (if_pos other), next_of_control arrived held (if_pos other)⟩
  case cfgRelease =>
    intro s0 s c cmd arrived held own
    exact next_of_control arrived held (if_neg (by rw [own]; decide))
  case bind =>
    intro s0 s c cmd hs arrived held two distinct live all
    exact next_of_control arrived held ((if_neg (by rw [live]; decide)).trans (if_pos ⟨two, distinct, all⟩))
  case bindStale =>
    intro s0 s c cmd arrived held stale
    exact next_of_control arrived held (if_pos stale)
  case row =>
    intro s c cmd holder i j gen day fresh ready
    refine congrArg Host.Outcome.next ?_
    rw [holder]
    exact (if_neg (not_or.2 ⟨not_not_intro gen, not_or.2 ⟨not_not_intro day, not_not_intro fresh⟩⟩)).trans (if_neg (by rw [ready]; decide))

end Sys2Proof.Machine
end

section
/-! Proofs of the statement on the vector commands (spec/06_sketches_and_search.md). -/
namespace Sys2Proof.Machine

variable {s : State} {c : Nat} {cmd : Cmd}

/-- A vector command that takes a powered engine starts in the state after its take. -/
theorem State.vseCmd_of_comesNext {e : Nat} (power : e = 1 → s.domSt c = .on) (next : s.comesNext c e cmd = true) :
    s.vseCmd c e cmd = (s.taken c e cmd).vseTaken c e := by
  have on : s.enabledCh c = true := by
    unfold State.comesNext at next
    exact ((Bool.and_eq_true ..).mp ((Bool.and_eq_true ..).mp next).1).1
  unfold State.vseCmd
  rw [if_neg (fun h => h.2 (power h.1)), State.when_pos on, State.occupy_of_comesNext next]

/-- On the array that is powered down, it waits and wakes the array. -/
theorem State.vseCmd_unpowered (on : s.enabledCh c = true) (power : s.domSt c ≠ .on) :
    s.vseCmd c 1 cmd = (((s.accrue c).arrive c 1 cmd).settle c).wake c := by
  unfold State.vseCmd
  rw [if_pos ⟨rfl, power⟩, State.when_pos on]

section Taken

variable {e : Nat} (holder : (s.engine c e).holder = some cmd) (free : s.engineStuck c e cmd.job = false)
include holder free

/-- A VSE_STORE_SET that holds its engine sets the store or completes with the cause. -/
theorem State.vseTaken_storeSet (op : cmd.op = 0x060) :
    s.vseTaken c e = (s.storeSet c cmd).1.complete c cmd (s.storeSet c cmd).2 := by
  unfold State.vseTaken
  simp only [holder, free, op, Bool.false_eq_true, if_false, if_true]

/-- A VSE_INSERT that holds its engine inserts while no search scans the list. -/
theorem State.vseTaken_insert (op : cmd.op = 0x061)
    (calm : s.storeOf c (nfld (recNat cmd.payload 0 8) 5 0) cmd.job = false ∨
      s.listScanned c (nfld (recNat cmd.payload 0 8) 5 0) (nfld (recNat cmd.payload 0 8) 51 32) = false) :
    s.vseTaken c e = s.vseInsert c e cmd := by
  unfold State.vseTaken
  simp only [holder, free, op, Bool.false_eq_true, if_false, if_true, Nat.reduceEqDiff]
  exact if_neg (ne_true_of_eq_false (Bool.and_eq_false_iff.2 calm))

/-- A VSE_DELETE that holds its engine deletes while no search scans the list. -/
theorem State.vseTaken_delete (op : cmd.op = 0x062)
    (calm : s.storeOf c (vrefStore (recNat cmd.payload 0 8)) cmd.job = false ∨
      s.listScanned c (vrefStore (recNat cmd.payload 0 8)) (vrefList (recNat cmd.payload 0 8)) = false) :
    s.vseTaken c e = s.vseDelete c e cmd := by
  unfold State.vseTaken
  simp only [holder, free, op, Bool.false_eq_true, if_false, if_true, Nat.reduceEqDiff]
  exact if_neg (ne_true_of_eq_false (Bool.and_eq_false_iff.2 calm))

/-- A VSE_SEARCH that holds its engine begins while its job has no search there. -/
theorem State.vseTaken_search (op : cmd.op = 0x063) (fresh : s.search c e cmd.job = none) : s.vseTaken c e = s.beginSearch c e cmd := by
  unfold State.vseTaken
  simp only [holder, free, op, fresh, Bool.false_eq_true, if_false, if_true, Nat.reduceEqDiff]

end Taken

/-- A descriptor that no rule refuses sets the store and shows it in the read registers (R238). -/
theorem State.storeSet_of_ok {n : Nat} {v : VStore} (at_ : nfld (recNat cmd.payload 0 4) 5 0 = n)
    (desc : { isSet := true, job := cmd.job, desc := padTo 64 cmd.payload, groups := [] } = v)
    (own : (s.vstore c n).isSet = false ∨ (s.vstore c n).job = cmd.job) (empty : (s.vstore c n).groupCount = 0)
    (kind : v.kind = 0 ∨ (s.vse c).rerank = true) (ok : v.ok = true) :
    s.storeSet c cmd = ((s.setStore c n v).each (List.range 16) fun s i => s.wr c ⟨.vse, 0x200 + 4 * i⟩ (lo32 (recNat v.desc (4 * i) 4)) n, 0) := by
  have noOwner : ((s.vstore c n).isSet && (s.vstore c n).job != cmd.job) = false := by
    rcases own with unset | same
    · rw [unset, Bool.false_and]
    · rw [same, bne_self_eq_false, Bool.and_false]
  subst desc
  unfold State.storeSet
  simp only [at_, noOwner, empty, Nat.lt_irrefl, decide_false, Bool.or_self, Bool.false_eq_true, if_false, ok, Bool.not_true]
  refine if_neg fun h => ?_
  rcases kind with zero | rerank
  · exact absurd (zero.symm.trans h.1) (by decide)
  · exact Bool.false_ne_true (h.2.symm.trans rerank)

/-- Settles O17: the engine, the checks of the store, and the registers of VSE. -/
theorem vectorCommandsStoreInsertDeleteAndSearch : Obligations.VectorCommandsStoreInsertDeleteAndSearch := by
  refine ⟨?storeSet, ?insert, ?delete, ?search, ?searchUnpowered, ?group, ?repair, ?rerank, ?rerankAgent⟩
  case storeSet =>
    intro s c cmd k n v t next holder free own empty kind ok
    refine congrArg Host.Outcome.next ((State.vseCmd_of_comesNext (fun h => absurd h (by decide)) next).trans ?_)
    rw [State.vseTaken_storeSet holder free rfl, State.storeSet_of_ok (cmd := k) rfl rfl own empty kind ok]
  case insert =>
    intro s c cmd k r t next holder free calm
    exact congrArg Host.Outcome.next ((State.vseCmd_of_comesNext (fun h => absurd h (by decide)) next).trans
      (State.vseTaken_insert holder free rfl calm))
  case delete =>
    intro s c cmd k r t next holder free calm
    exact congrArg Host.Outcome.next ((State.vseCmd_of_comesNext (fun h => absurd h (by decide)) next).trans
      (State.vseTaken_delete holder free rfl calm))
  case search =>
    intro s c e cmd k t engine power next holder free fresh
    refine congrArg Host.Outcome.next ?_
    rw [engine]
    exact (State.vseCmd_of_comesNext power next).trans (State.vseTaken_search holder free rfl fresh)
  case searchUnpowered =>
    intro s c cmd k on engine power
    refine congrArg Host.Outcome.next ?_
    rw [engine]
    exact State.vseCmd_unpowered on power
  case group =>
    intro s c e cmd r on array holder op free run same
    refine next_of_when (by rcases array with rfl | rfl <;> rw [on] <;> rfl) ?_
    unfold State.scanGroupEnd
    simp only [holder, op, free, run, same, ne_eq, not_true, Bool.false_eq_true, or_self, if_false, if_true]
  case repair => exact fun s rq c v reach set => next_of_onWrite reach (State.when_pos set)
  case rerank =>
    intro s rq c v reach plain
    refine next_of_onWrite reach (if_neg ?_)
    rcases plain with no | no | no | no <;> simp [no]
  case rerankAgent =>
    intro s rq c v reach agent set unset room
    exact next_of_onWrite reach (if_pos (by rw [agent, set, unset, room]; rfl))

end Sys2Proof.Machine
end

section
/-! Proof of the statement on Kweuz packets (spec/10_kweuz_transport.md). -/
namespace Sys2Proof.Machine

variable {s : State} {c i op : Nat} {p : KPkt}

/-- What holds of a frame that a Kweuz port passes to the context of its connection. -/
structure PassesFrame (s : State) (c i : Nat) (p : KPkt) : Prop where
  ethernet : s.ethMode c = true
  serves : s.serves c = true
  on : s.kwEn c = true
  mtu : p.len ≤ s.rdF c Reg.KWP_MTU 13 0
  port : p.dstUdp = s.rdF c Reg.KWP_UDP_PORT 15 0
  here : s.localEntry c p.peer.v6 p.dstIp = some (i, c)
  class_ : s.classify c i p = (s, true)

/-- A frame that passes meets the context of its connection. -/
theorem State.rxFrame_of_passes (h : PassesFrame s c i p) (op : Nat) : s.rxFrame c op p =
    (s.rxContext c op c { p with peer := { p.peer with port := c }, dstConn := p.dstConn % 2 ^ 18 }).tagsBack c := by
  obtain ⟨ethernet, serves, on, mtu, port, here, class_⟩ := h
  have fits : ¬ (s.rdF c Reg.KWP_MTU 13 0 < p.len ∨ p.dstUdp ≠ s.rdF c Reg.KWP_UDP_PORT 15 0) :=
    not_or.2 ⟨Nat.not_lt.2 mtu, not_not_intro port⟩
  unfold State.rxFrame
  simp only [ethernet, serves, Bool.not_true, Bool.and_false, Bool.or_self, Bool.false_eq_true, if_false, if_neg fits, here]
  unfold State.rxLocal
  simp only [class_, serves, on, Bool.not_true, Bool.and_false, Bool.or_self, Bool.false_eq_true, if_false]

/-- A reliable packet of the connection's generation is taken by its PSN, an ACK by its number. -/
theorem State.rxTrue_of_live (gen : p.gen = (s.conn c p.dstConn).gen) (young : s.tooOld c p = false) :
    s.rxTrue c op p = if op = 9 then s.rxAck c p.dstConn p else s.acceptReliable c p.dstConn op p := by
  unfold State.rxTrue
  rw [if_neg (not_not_intro gen), if_neg (by rw [young]; decide)]

section Open

variable {f : Nat} (reliable : op ≠ 10) (opened : (s.conn c p.dstConn).cstate = 1)
include reliable opened

/-- A packet of an open connection that is no BUSY is taken with its opened payload. -/
theorem State.rxPacket_of_sealed {pay : List Byte}
    (sealed : kweuzOpen (s.conn c p.dstConn).rxKey (s.conn c p.dstConn).rxSalt p.iv (pktHeaders op p) p.pay p.tag = some pay) :
    s.rxPacket c op f p = (s.countRx c f).rxTrue c op { p with pay := pay } := by
  unfold State.rxPacket
  simp only [reliable, opened, sealed, ne_eq, not_true, if_false]

/-- One whose seal does not open is counted alone. -/
theorem State.rxPacket_of_not_sealed
    (broken : kweuzOpen (s.conn c p.dstConn).rxKey (s.conn c p.dstConn).rxSalt p.iv (pktHeaders op p) p.pay p.tag = none) :
    s.rxPacket c op f p = s.bump c Reg.KWP_AUTH_FAIL_CNT := by
  unfold State.rxPacket
  simp only [reliable, opened, broken, ne_eq, not_true, if_false]

end Open

/-- Settles O23: the frame, the context, the seal, the generation and the PSN. -/
theorem kweuzPacketsAreCheckedAndProcessed : Obligations.KweuzPacketsAreCheckedAndProcessed := by
  refine ⟨?frame, ?context, ?opens, ?badSeal, ?busy, ?live, ?window⟩
  case frame =>
    intro s c i p ethernet serves on mtu port here class_ go
    have passes (op : Nat) : (.next (s.rxFrame c op p) : Host.Outcome State Fault Refusal) = go op :=
      congrArg Host.Outcome.next (State.rxFrame_of_passes ⟨ethernet, serves, on, mtu, port, here, class_⟩ op)
    exact ⟨passes 1, passes 2, passes 3, passes 4, passes 5, passes 6, passes 7, passes 8, passes 9, passes 10⟩
  case context =>
    intro s c op f p good cached
    exact (if_neg (by rw [good]; decide)).trans (if_pos cached)
  case opens => exact fun s c op f p pay reliable opened sealed => State.rxPacket_of_sealed reliable opened sealed
  case badSeal => exact fun s c op f p reliable opened broken => State.rxPacket_of_not_sealed reliable opened broken
  case busy =>
    intro s c f p
    simp only [State.rxPacket, if_true]
  case live =>
    intro s c op p gen young
    exact ⟨fun reliable => (State.rxTrue_of_live gen young).trans (if_neg (Nat.ne_of_lt reliable)),
      (State.rxTrue_of_live gen young).trans (if_pos rfl)⟩
  case window =>
    intro s c k op p d
    refine ⟨fun near fresh => ?_, fun seen => if_pos seen, fun far ahead => ?_⟩
    · refine (if_neg ?_).trans (if_neg (Nat.not_le.2 near))
      rintro (behind | ⟨_, twice⟩)
      · exact absurd (Nat.lt_of_le_of_lt behind near) (by decide)
      · exact Bool.false_ne_true (fresh.symm.trans twice)
    · exact (if_neg (not_or.2 ⟨Nat.not_le.2 ahead, fun h => Nat.not_le.2 h.1 far⟩)).trans (if_pos far)

end Sys2Proof.Machine
end

section
/-! Proof of the statement on Solrov mode and flits (spec/12_solrov_fabric.md). -/
namespace Sys2Proof.Machine

variable {s : State} {c : Nat} {data b : List Byte}

/-- Solrov mode is entered where SLP_CFG has EN, and KWP is off and quiesced. -/
theorem State.syncSolrov_enters (en : s.rdB c Reg.SLP_CFG 0 = true) (off : (s.ch c).slp.mode = false) (kwp : s.rdB c Reg.KWP_CFG 0 = false)
    (quiet : (s.blkSt ⟨.kwp, c⟩).quiesced = true) :
    s.syncSolrov c = s.updCh c fun x => { x with slp := { x.slp with mode := true, link := freshLink } } :=
  if_pos (by rw [en, off, kwp, quiet]; rfl)

/-- It is left where SLP_CFG has no EN. -/
theorem State.syncSolrov_leaves (en : s.rdB c Reg.SLP_CFG 0 = false) (on : (s.ch c).slp.mode = true) :
    s.syncSolrov c = s.updCh c fun x => { x with slp := { x.slp with mode := false, link := default } } :=
  (if_neg (by rw [en, Bool.false_and, Bool.false_and, Bool.false_and]; decide)).trans (if_pos (by rw [en, on]; rfl))

/-- A flit that arrives on a link that is up, by its check. -/
theorem State.rxFlit_of_up (mode : s.solMode c = true) (up : (s.link c).up = true) : s.rxFlit c data =
    match flitCheck data with
    | none => s.badFlit c
    | some (b, n) => (s.when (n != 0) fun s => s.fecCorrected c n).goodFlit c b :=
  if_neg (by rw [mode, up]; decide)

/-- A flit without a corrected error goes by its type. -/
theorem exec_flit_of_clean (mode : s.solMode c = true) (up : (s.link c).up = true) (clean : flitCheck data = some (b, 0)) :
    exec (.flit c data) s = .next (s.goodFlit c b) := by
  refine congrArg Host.Outcome.next ((State.rxFlit_of_up mode up).trans ?_)
  rw [clean]
  rfl

/-- Settles O28: the mode, the check of a flit, its type, and the link. -/
theorem flitsAreCheckedAndReplayed : Obligations.FlitsAreCheckedAndReplayed := by
  refine ⟨?enters, ?leaves, ?flit, ?badFlit, ?replay, ?link⟩
  case enters => exact fun s rq c v reach en off kwp quiet => next_of_onWrite reach (State.syncSolrov_enters en off kwp quiet)
  case leaves => exact fun s rq c v reach en on => next_of_onWrite reach (State.syncSolrov_leaves en on)
  case flit =>
    intro s c data b mode up clean
    refine ⟨fun type seq => ?_, fun type seq => ?_, fun type => ?_⟩ <;>
      refine (exec_flit_of_clean mode up clean).trans (congrArg Host.Outcome.next ?_) <;> unfold State.goodFlit <;> simp only [type]
    · exact if_pos seq
    · exact if_neg seq
  case badFlit =>
    intro s c data mode up bad
    have closed : ¬ (!s.solMode c || !(s.link c).up) = true := by rw [mode, up]; decide
    refine ⟨congrArg Host.Outcome.next ((State.rxFlit_of_up mode up).trans ?_), congrArg Host.Outcome.next ((if_neg closed).trans ?_)⟩ <;>
      rw [bad]
  case replay =>
    intro s c data b mode up clean type
    refine congrArg Host.Outcome.next ((if_neg (by rw [mode, up]; decide)).trans ?_)
    rw [clean]
    exact State.when_pos (s := s) (by rw [type]; rfl)
  case link =>
    intro s c mode
    refine ⟨fun down => congrArg Host.Outcome.next ?_, fun up => congrArg Host.Outcome.next ?_⟩
    · exact (if_neg (by rw [mode, down]; decide)).trans (if_pos rfl)
    · exact (if_neg (by rw [mode, up]; decide)).trans (if_neg (by decide))

end Sys2Proof.Machine
end

section
/-! Proofs of the statements on rack accesses, responses and Solrov commands (spec/12_solrov_fabric.md). -/
namespace Sys2Proof.Machine

variable {s t : State} {c k : Nat} {cmd : Cmd} {x : Nat × SMsg}

/-! ### Messages from the inbox -/

/-- No access waits for no snoop. -/
theorem State.snoopClear_nil (s : State) : s.snoopClear [] = true := by
  unfold State.snoopClear State.needSnoops
  simp

/-- A message that stands first of its type is taken with its slots freed. -/
theorem State.onMsg_of_find (first : ((s.slp c).inbox.find? fun y => y.2.mtype == k) = some x) (f : State → SMsg → State) :
    s.onMsg c k f = f ((s.updSlp c fun y => { y with inbox := y.inbox.erase x }).freeSlots x.1 x.2) x.2 := by
  unfold State.onMsg State.takeMsg
  simp only [first]

section Access

variable {right : Nat} (first : ((s.slp c).inbox.find? fun y => y.2.mtype == k) = some x) (takes : s.slpTakes c = true)
include first takes

/-- An access that its checks pass is served at its home, once no snoop is outstanding for it. -/
theorem State.accessRow_served
    (ok : s.rackCheck c x.2 x.2.span [right] = none) (clear : s.snoopClear [(rackT1 x.2.addr, x.2.span, decide (k ≠ 1))] = true)
    (taken : (s.updSlp c fun y => { y with inbox := y.inbox.erase x }).freeSlots x.1 x.2 = t)
    (still : t.rackCheck c x.2 x.2.span [right] = none) : s.accessRow c k right = t.homeServe c x.2 := by
  unfold State.accessRow
  simp only [first, takes, ok, State.when_true, State.afterSnoops_clear _ _ _ clear, State.onMsg_of_find first, taken]
  unfold State.targetAccess
  rw [still]

/-- One that a check fails is refused by that check. -/
theorem State.accessRow_refused {r : Nat × Bool} (fails : (s.rackCheck c x.2 x.2.span [right]).isSome = true)
    (taken : (s.updSlp c fun y => { y with inbox := y.inbox.erase x }).freeSlots x.1 x.2 = t)
    (cause : t.rackCheck c x.2 x.2.span [right] = some r) : s.accessRow c k right = t.refuseRack c x.2 r := by
  obtain ⟨q, fails⟩ := Option.isSome_iff_exists.1 fails
  unfold State.accessRow
  simp only [first, takes, fails, State.when_true, State.afterSnoops_clear s [] _ s.snoopClear_nil, State.onMsg_of_find first, taken]
  unfold State.targetAccess
  rw [cause]

end Access

/-! ### Near-memory operations and messages -/

/-- An operation that ends is removed and answered. -/
theorem State.nmoEnd_of_running {o : NmoOp} (running : (s.nmo c).running[k]? = some o)
    (may : s.rgnCoherent c o.msg = false ∨ (s.ccx c).dstate = 3 ∨ o.isOver = true) :
    s.nmoEnd c k = ((s.nmoRun c o (nmoSteps o.msg)).1.updNmo c fun x => { x with
      running := x.running.filter fun y => y.id != o.id }).nmoAnswer c (s.nmoRun c o (nmoSteps o.msg)).2 := by
  have passes : (s.rgnCoherent c o.msg && (s.ccx c).dstate != 3 && !o.isOver) = false := by
    rcases may with plain | lost | begun
    · rw [plain, Bool.false_and, Bool.false_and]
    · rw [lost, bne_self_eq_false, Bool.and_false, Bool.false_and]
    · rw [begun, Bool.not_true, Bool.and_false]
  unfold State.nmoEnd
  simp only [running, passes, Bool.false_eq_true, if_false]

/-- A message to a queue that is open, with its key and with room, is stored and acknowledged. -/
theorem State.msgArrives_stored {m : SMsg} {q : Nat} (serves : s.serves c = true) (on : s.enabledCh c = true)
    (open_ : s.rdB c Reg.SLP_RXQ_CFG 0 (m.addr % 256) = true) (key : m.key = s.rdN c Reg.SLP_RXQ_KEY (m.addr % 256))
    (room : ringFull (2 ^ s.rdF c Reg.SLP_RXQ_CFG 5 1 (m.addr % 256)) (s.rdN c Reg.SLP_RXQ_HEAD (m.addr % 256))
      (s.rdN c Reg.SLP_RXQ_TAIL (m.addr % 256)) = false) (queue : m.addr % 256 = q) :
    s.msgArrives c m = ((s.vwrite (s.rd64 c Reg.SLP_RXQ_BASE_LO q + 256 * s.rdN c Reg.SLP_RXQ_TAIL q) (rxqEntry m s.stamp)
      (s.rdF c Reg.SLP_RXQ_CFG 25 16 q)).wr c Reg.SLP_RXQ_TAIL
        (lo32 ((s.rdN c Reg.SLP_RXQ_TAIL q + 1) % 2 ^ s.rdF c Reg.SLP_RXQ_CFG 5 1 q)) q).replyTo c m (m.reply 0x15 0) := by
  subst queue
  unfold State.msgArrives
  simp only [serves, on, open_, key, room, Bool.not_true, Bool.and_false, bne_self_eq_false, Bool.or_self, Bool.false_eq_true, if_false]

/-- Settles O29: the message, the checks at the target, and the near-memory operations. -/
theorem rackAccessesAreServedAtTheTarget : Obligations.RackAccessesAreServedAtTheTarget := by
  refine ⟨?load, ?loadRefused, ?store, ?storeRefused, ?atomic, ?atomicRefused, ?nmo, ?nmoStart, ?nmoDone, ?msg, ?devMsg⟩
  case load =>
    exact fun s c x first takes ok clear still => congrArg Host.Outcome.next (State.accessRow_served first takes ok clear rfl still)
  case loadRefused =>
    exact fun s c st b x first takes fails cause => congrArg Host.Outcome.next (State.accessRow_refused first takes fails rfl cause)
  case store =>
    exact fun s c x first takes ok clear still => congrArg Host.Outcome.next (State.accessRow_served first takes ok clear rfl still)
  case storeRefused =>
    exact fun s c st b x first takes fails cause => congrArg Host.Outcome.next (State.accessRow_refused first takes fails rfl cause)
  case atomic =>
    exact fun s c x first takes ok clear still => congrArg Host.Outcome.next (State.accessRow_served first takes ok clear rfl still)
  case atomicRefused =>
    exact fun s c st b x first takes fails cause => congrArg Host.Outcome.next (State.accessRow_refused first takes fails rfl cause)
  case nmo =>
    intro s c x first t ok ready takes
    have arrives : exec (.nmo c) s = .next (t.nmoArrives c x.2) :=
      next_of_when (by rw [ready, takes]; rfl) (State.onMsg_of_find first _)
    refine ⟨fun room idle => arrives.trans ?_, fun full => arrives.trans ?_⟩ <;>
      unfold State.nmoArrives <;> simp only [ok]
    · rw [if_pos ⟨room, idle⟩]
    · rw [if_neg fun h => Nat.not_lt.2 full h.1]
  case nmoStart =>
    intro s c m l waiting room
    refine congrArg Host.Outcome.next ?_
    unfold State.nmoNext
    simp only [waiting, if_neg (Nat.not_le.2 room)]
  case nmoDone =>
    intro s c k o running clear may
    refine congrArg Host.Outcome.next ?_
    simp only [running, State.afterSnoops_clear _ _ _ clear]
    exact State.nmoEnd_of_running running may
  case msg =>
    intro s c q x first queue t n takes serves on open_ key room
    subst queue
    refine next_of_when takes ((State.onMsg_of_find first _).trans ?_)
    exact State.msgArrives_stored serves on open_ key room rfl
  case devMsg =>
    intro s c x first t takes serves on bit
    refine next_of_when takes ((State.onMsg_of_find first _).trans ((if_neg ?_).trans (if_pos ?_)))
    · rw [serves, Bool.not_true, Bool.and_false]; decide
    · rw [on, bit]; rfl

/-! ### Responses -/

/-- A response is taken, then what waits for tags and slots goes on. -/
theorem State.onRsp_of_find (first : ((s.slp c).inbox.find? fun y => y.2.mtype == k) = some x) (plain : k ≠ 0x14)
    (taken : (s.updSlp c fun y => { y with inbox := y.inbox.erase x }).freeSlots x.1 x.2 = t) :
    s.onRsp c k = ((t.gotResponse c x.2 x.2.status x.2.poison).retryHeld c).cutOpens c := by
  unfold State.onRsp
  rw [State.onMsg_of_find first, taken, beq_false_of_ne plain, State.when_false]

/-- A NAK is counted as well. -/
theorem State.onRsp_nak (first : ((s.slp c).inbox.find? fun y => y.2.mtype == 0x14) = some x)
    (taken : (s.updSlp c fun y => { y with inbox := y.inbox.erase x }).freeSlots x.1 x.2 = t) :
    s.onRsp c 0x14 = (((t.bump c Reg.SLP_NAK_RX_CNT).gotResponse c x.2 x.2.status x.2.poison).retryHeld c).cutOpens c := by
  unfold State.onRsp
  rw [State.onMsg_of_find first, taken, State.when_pos (beq_self_eq_true _)]

/-! ### Solrov commands -/

/-- A command that takes the MOVER acts in the state after its take. -/
theorem State.onMover_of_comesNext (next : s.comesNext c 2 cmd = true) (holder : ((s.taken c 2 cmd).engine c 2).holder = some cmd)
    (on : (s.taken c 2 cmd).enabledCh c = true) : s.onMover c cmd = (s.taken c 2 cmd).solAct c cmd := by
  unfold State.onMover
  rw [State.occupy_of_comesNext next]
  exact State.when_pos (by rw [on, holder, beq_self_eq_true]; rfl)

/-- A Solrov command with a free tag sends what its OP asks, and the agent goes on where the channel is in a domain. -/
theorem State.solAct_of_room {u : State} (room : s.cmdsOut c < 256) (acts : (match cmd.op with
      | 0x0A0 => (s.updSlp c fun x => { x with held := false }).actStore c cmd
      | 0x0A1 => (s.updSlp c fun x => { x with held := false }).actAtomic c cmd
      | 0x0A2 => (s.updSlp c fun x => { x with held := false }).actNmo c cmd
      | 0x0A3 => (s.updSlp c fun x => { x with held := false }).actMsg c cmd
      | _ => (s.updSlp c fun x => { x with held := false }).actFlush c cmd) = u) :
    s.solAct c cmd = if u.cohOn c then u.agentGo (u.ownAgent c) else u := by
  subst acts
  exact if_neg (Nat.not_le.2 room)

/-- Settles O30: the response, its tag, the commands, the stall and the dead slots. -/
theorem responsesStallsAndSolrovCommands : Obligations.ResponsesStallsAndSolrovCommands := by
  refine ⟨?responses, ?nak, ?tag, ?ordered, ?store, ?atomic, ?nmo, ?msg, ?full, ?stall, ?abandon, ?abandonAll, ?revive, ?notDead⟩
  case responses =>
    intro s c k x first t
    refine ⟨?_, ?_, ?_, ?_, ?_⟩ <;>
      (rintro rfl; exact congrArg Host.Outcome.next (State.onRsp_of_find first (by decide) rfl))
  case nak => exact fun s c x first => congrArg Host.Outcome.next (State.onRsp_nak first rfl)
  case tag =>
    intro s c status m p t
    refine ⟨fun dead small => if_pos (by rw [dead, decide_eq_true small]; rfl), fun reach live quar slot answer => ?_⟩
    refine (if_neg ?_).trans (if_pos ?_)
    · rcases reach with alive | big
      · rw [alive, Bool.false_and]; decide
      · rw [decide_eq_false (Nat.not_lt.2 big), Bool.and_false]; decide
    · rw [live, quar, slot, answer, beq_self_eq_true]; rfl
  case ordered =>
    intro s c plain
    refine congrArg Host.Outcome.next ?_
    simp only [plain, State.when_false]
  case store =>
    intro s c cmd k t u next holder on room
    exact congrArg Host.Outcome.next ((State.onMover_of_comesNext next holder on).trans (State.solAct_of_room room rfl))
  case atomic =>
    intro s c cmd k t u next holder on room
    exact congrArg Host.Outcome.next ((State.onMover_of_comesNext next holder on).trans (State.solAct_of_room room rfl))
  case nmo =>
    intro s c cmd k t u next holder on room
    exact congrArg Host.Outcome.next ((State.onMover_of_comesNext next holder on).trans (State.solAct_of_room room rfl))
  case msg =>
    intro s c cmd k t u next holder on room
    exact congrArg Host.Outcome.next ((State.onMover_of_comesNext next holder on).trans (State.solAct_of_room room rfl))
  case full => exact fun s c cmd full => if_pos full
  case stall =>
    intro s c slot t due u
    refine congrArg Host.Outcome.next ?_
    unfold State.reportStall
    rw [due]
  case abandon =>
    intro s rq c slot reach
    refine next_of_onWrite reach ?_
    unfold State.abandonChans
    rw [if_neg Bool.false_ne_true, State.each_cons, State.each_nil]
  case abandonAll =>
    intro s rq c slot reach
    refine next_of_onWrite reach ?_
    unfold State.abandonChans
    rw [if_pos rfl]
  case revive =>
    intro s rq c slot reach small dead
    refine (exec_slpRevive_of_reaches reach small).trans (congrArg Host.Outcome.next ((if_pos dead).trans ?_))
    exact State.when_pos dead
  case notDead =>
    intro s rq c slot reach small alive
    exact (exec_slpRevive_of_reaches reach small).trans (congrArg Host.Outcome.next (if_neg (by rw [alive]; decide)))

end Sys2Proof.Machine
end

section
/-! Proofs of the statements on the coherence domain (spec/13_domain_coherence.md). -/
namespace Sys2Proof.Machine

variable {s t : State} {c a k kind : Nat} {cmd : Cmd} {m : SMsg} {x : Nat × SMsg}

section Messages

variable (first : ((s.slp c).inbox.find? fun y => y.2.mtype == k) = some x)
  (taken : (s.updSlp c fun y => { y with inbox := y.inbox.erase x }).freeSlots x.1 x.2 = t)
  (on : t.cohOn c = true) (domain : x.2.domain = t.domainId c)
include first taken on domain

/-- A message of the channel's domain is heard, an answer of it where its slot is not dead. -/
theorem State.cohTake_of_find (heard : answers.contains k = false ∨ t.slotDead c x.2.srcSlot = false) (f : State → SMsg → State) :
    s.cohTake c k f = f t x.2 := by
  have alive : (answers.contains k && t.slotDead c x.2.srcSlot) = false := Bool.and_eq_false_iff.2 heard
  unfold State.cohTake State.takeMsg
  simp only [first, taken, on, domain, alive, bne_self_eq_false, Bool.not_true, Bool.or_self, Bool.false_eq_true, if_false]

/-- The arbiter hears it. -/
theorem State.atArb_of_find (heard : answers.contains k = false ∨ t.slotDead c x.2.srcSlot = false) (arb : t.isArb c = true)
    (f : State → SMsg → State) : s.atArb c k f = f t x.2 := by
  unfold State.atArb
  rw [State.cohTake_of_find first taken on domain heard, if_pos arb]

/-- The agent hears it. -/
theorem State.atAgent_of_find (heard : answers.contains k = false ∨ t.slotDead c x.2.srcSlot = false) (agent : t.isAgent c = true)
    (f : State → SMsg → State) : s.atAgent c k f = f t x.2 := by
  unfold State.atAgent
  rw [State.cohTake_of_find first taken on domain heard, if_pos agent]

end Messages

/-! ### The arbiter (R450) -/

section Arbiter

variable (member : s.memberOf a m.srcSlot = some k)
include member

/-- A request for a granule that is busy or reserved for another is refused. -/
theorem State.arbServe_refused
    (busy : (s.fent a m.gran).trans.isSome = true ∨ (s.ccx a).resv.any (fun r => r.gran == m.gran && r.who != requesterOf kind k) = true) :
    s.arbServe a kind m = s.arbRefuse a (requesterOf kind k) m := by
  unfold State.arbServe
  simp only [member]
  exact if_pos (by rcases busy with busy | busy <;> simp [busy])

/-- A request for a granule that is listed and free, and whose region takes it, begins its transaction. -/
theorem State.arbServe_begins (read : kind < 3) (idle : (s.fent a m.gran).trans = none)
    (free : (s.ccx a).resv.any (fun r => r.gran == m.gran && r.who != k) = false) (there : (s.fent a m.gran).there = true)
    (takes : s.crgnRefusal a m kind = none) :
    s.arbServe a kind m = ((s.arbServed a m.gran).beginTrans a m.gran (newTrans kind k m)).transGo a m.gran chainFuel := by
  have who : requesterOf kind k = k := if_neg (Nat.ne_of_lt (Nat.lt_trans read (by decide)))
  unfold State.arbServe
  simp only [member, who, idle, free, there, takes, Option.isSome_none, Bool.or_self, Bool.false_eq_true, if_false, ite_self, if_true]
  exact if_neg fun evict => by omega

/-- Without rivals, or with a reservation or a transaction, a request is served as it comes. -/
theorem State.arbRequest_of_no_tie
    (noTie : (s.rivals a m.gran).isEmpty = true ∨ (s.fent a m.gran).trans.isSome = true ∨ (s.ccx a).resv.any (fun r => r.gran == m.gran) = true) :
    s.arbRequest a kind m = s.arbServe a kind m := by
  unfold State.arbRequest
  simp only [member]
  exact if_pos (by rcases noTie with h | h | h <;> simp [h])

/-- Among rivals the arbiter draws who is first. -/
theorem State.arbRequest_of_rivals (idle : (s.fent a m.gran).trans = none) (noResv : (s.ccx a).resv.any (fun r => r.gran == m.gran) = false)
    (rivals : s.rivals a m.gran ≠ []) {w : Nat}
    (first : s.firstOf a ((requesterOf kind k, s.aged a m) :: (s.rivals a m.gran).map fun x => (x.1, s.aged a x.2.2)) = w)
    (tie : (s.updCcx a fun x => { x with tiePtr := (w + 1) % 16 }) = t) :
    s.arbRequest a kind m = match if w = requesterOf kind k then none else (s.rivals a m.gran).find? fun x => x.1 == w with
      | none => t.arbServe a kind m
      | some x => (((t.updSlp a fun y => { y with inbox := y.inbox.erase x.2 }).freeSlots x.2.1 x.2.2).arbServe a
          (x.2.2.mtype - 0x40) x.2.2).arbServe a kind m := by
  unfold State.arbRequest
  simp only [member, List.isEmpty_eq_false_iff.2 rivals, idle, noResv, Option.isSome_none, Bool.or_self, Bool.false_eq_true, if_false, first, tie] <;> rfl

end Arbiter

/-- Settles O31: the message at the arbiter, then the reservation, the tie and the transaction. -/
theorem coherenceRequestsReachTheArbiter : Obligations.CoherenceRequestsReachTheArbiter := by
  refine ⟨?rdS, ?rdX, ?upg, ?wb, ?evc, ?clean, ?srsp, ?cmp, ?mwrAck, ?psnAck, ?refuse, ?tie, ?begins⟩
  case rdS =>
    exact fun s c x first on domain arb => congrArg Host.Outcome.next (State.atArb_of_find first rfl on domain (.inl (by decide)) arb _)
  case rdX =>
    exact fun s c x first on domain arb => congrArg Host.Outcome.next (State.atArb_of_find first rfl on domain (.inl (by decide)) arb _)
  case upg =>
    exact fun s c x first on domain arb => congrArg Host.Outcome.next (State.atArb_of_find first rfl on domain (.inl (by decide)) arb _)
  case wb =>
    exact fun s c x first on domain arb => congrArg Host.Outcome.next (State.atArb_of_find first rfl on domain (.inl (by decide)) arb _)
  case evc =>
    exact fun s c x first on domain arb => congrArg Host.Outcome.next (State.atArb_of_find first rfl on domain (.inl (by decide)) arb _)
  case clean =>
    exact fun s c x first on domain arb => congrArg Host.Outcome.next (State.atArb_of_find first rfl on domain (.inl (by decide)) arb _)
  case srsp =>
    exact fun s c x first on domain alive arb => congrArg Host.Outcome.next (State.atArb_of_find first rfl on domain (.inr alive) arb _)
  case cmp =>
    exact fun s c x first on domain alive arb => congrArg Host.Outcome.next (State.atArb_of_find first rfl on domain (.inr alive) arb _)
  case mwrAck =>
    exact fun s c x first on domain alive arb => congrArg Host.Outcome.next (State.atArb_of_find first rfl on domain (.inr alive) arb _)
  case psnAck =>
    exact fun s c x first on domain alive arb => congrArg Host.Outcome.next (State.atArb_of_find first rfl on domain (.inr alive) arb _)
  case refuse =>
    intro s a kind k m request member busy
    have who : requesterOf kind k = k := if_neg (Nat.ne_of_lt request)
    have noTie : (s.rivals a m.gran).isEmpty = true ∨ (s.fent a m.gran).trans.isSome = true ∨
        (s.ccx a).resv.any (fun r => r.gran == m.gran) = true :=
      .inr (busy.imp_right fun reserved => by
        obtain ⟨r, mem, both⟩ := List.any_eq_true.1 reserved
        exact List.any_eq_true.2 ⟨r, mem, ((Bool.and_eq_true ..).mp both).1⟩)
    rw [State.arbRequest_of_no_tie member noTie, State.arbServe_refused member (by rw [who]; exact busy), who]
  case tie =>
    intro s a kind k m member idle noResv rivals who w t
    have drawn := State.arbRequest_of_rivals (kind := kind) member idle noResv rivals (w := w) rfl rfl
    refine ⟨fun self => drawn.trans ?_, fun other x found => drawn.trans ?_⟩
    · rw [if_pos self]
    · rw [if_neg other, found]
  case begins =>
    intro s a kind k m read member idle free noTie there takes
    rw [State.arbRequest_of_no_tie member (noTie.imp (fun none' => List.isEmpty_iff.2 none') .inr),
      State.arbServe_begins member read idle free there takes]

end Sys2Proof.Machine
end

section
/-! Proof of the statement on coherence agents and the home (spec/13_domain_coherence.md). -/
namespace Sys2Proof.Machine

variable {s t u : State} {c a : Nat} {cmd : Cmd} {m : SMsg}

/-- A home that reads a clean line sends its data. -/
theorem State.homeMrd_clean (clean : s.vpoison (rackT1 m.addr) 128 = false) :
    s.homeMrd c m = (s.touch 0 (rackT1 m.addr) 128).sendData c m (s.vread (rackT1 m.addr) 128) false false := by
  unfold State.homeMrd
  simp only [clean, Bool.false_eq_true, if_false]

/-- A flush of whole granules that the job may reach, in the domain, is handed to the agent with the lines it holds. -/
theorem State.actFlush_hands {ps : List (Nat × Nat)} (va : recNat cmd.payload 0 8 % 128 = 0) (n : recNat cmd.payload 8 8 % 128 = 0)
    (translated : s.translateRange c cmd.job (recNat cmd.payload 0 8) (recNat cmd.payload 8 8) false (recNat cmd.payload 8 8 / 4096 + 2)
      = (u, .ok ps))
    (coherent : (ps.all fun p => inRack p.1 && (s.cohEntry c p.1 p.2).isSome) = true)
    (keyed : (ps.all fun p => (s.remoteKey c cmd.job p.1 p.2).isSome) = true) :
    s.actFlush c cmd = ((u.handOver c cmd).updCcx (u.ownAgent c) fun x => { x with flushes := x.flushes ++ [⟨cmd, c,
      ((u.ccx (u.ownAgent c)).lines.filter fun l => l.2.st != .i && l.2.st != .isD && l.2.st != .imD &&
        ps.any fun p => decide (p.1 ≤ 128 * l.1) && decide (128 * l.1 < p.1 + p.2)).map Prod.fst⟩] }).agentGo (u.ownAgent c) := by
  unfold State.actFlush
  simp only [va, n, ne_eq, not_true, or_self, if_false, translated, coherent, keyed, Bool.not_true, Bool.false_eq_true]

/-- Settles O32: the message, the agent's or the home's tag, the backoff and the flush. -/
theorem coherenceAgentsAnswerAndTakeData : Obligations.CoherenceAgentsAnswerAndTakeData := by
  refine ⟨?snpS, ?snpX, ?snpInv, ?snoops, ?noSnoop, ?gntAgent, ?gntHome, ?retryAgent, ?retryHome, ?evAck, ?mrd, ?mwr, ?psn, ?dataAgent,
    ?dataHome, ?dataArb, ?backoff, ?flush, ?flushHands⟩
  case snpS =>
    exact fun s c x first on domain agent => congrArg Host.Outcome.next (State.atAgent_of_find first rfl on domain (.inl (by decide)) agent _)
  case snpX =>
    exact fun s c x first on domain agent => congrArg Host.Outcome.next (State.atAgent_of_find first rfl on domain (.inl (by decide)) agent _)
  case snpInv =>
    exact fun s c x first on domain agent => congrArg Host.Outcome.next (State.atAgent_of_find first rfl on domain (.inl (by decide)) agent _)
  case snoops =>
    intro s a m ex dirty st move
    unfold State.agentSnoop
    simp only [move]
    rfl
  case noSnoop =>
    intro s a m none'
    unfold State.agentSnoop
    simp only [none']
  case gntAgent =>
    intro s c x first t on domain alive g tag
    refine congrArg Host.Outcome.next ((State.cohTake_of_find (t := t) first rfl on domain (.inr alive) _).trans ?_)
    simp only [tag]
  case gntHome =>
    intro s c x first t on domain alive g noAgent tag
    refine congrArg Host.Outcome.next ((State.cohTake_of_find (t := t) first rfl on domain (.inr alive) _).trans ?_)
    simp only [noAgent, tag]
  case retryAgent =>
    intro s c x first t on domain alive g tag
    refine congrArg Host.Outcome.next ((State.cohTake_of_find (t := t) first rfl on domain (.inr alive) _).trans ?_)
    simp only [tag]
  case retryHome =>
    intro s c x first t on domain alive g noAgent tag
    refine congrArg Host.Outcome.next ((State.cohTake_of_find (t := t) first rfl on domain (.inr alive) _).trans ?_)
    simp only [noAgent, tag]
  case evAck =>
    intro s c x first t on domain alive g tag
    refine congrArg Host.Outcome.next ((State.cohTake_of_find (t := t) first rfl on domain (.inr alive) _).trans ?_)
    simp only [tag]
  case mrd =>
    exact fun s c x first on domain clean => congrArg Host.Outcome.next
      ((State.cohTake_of_find first rfl on domain (.inl (by decide)) _).trans (State.homeMrd_clean clean))
  case mwr =>
    exact fun s c x first on domain => congrArg Host.Outcome.next (State.cohTake_of_find first rfl on domain (.inl (by decide)) _)
  case psn =>
    exact fun s c x first on domain => congrArg Host.Outcome.next (State.cohTake_of_find first rfl on domain (.inl (by decide)) _)
  case dataAgent =>
    intro s c x first t on domain alive g tag
    refine congrArg Host.Outcome.next ((State.cohTake_of_find (t := t) first rfl on domain (.inr alive) _).trans ?_)
    simp only [tag]
  case dataHome =>
    intro s c x first t on domain alive g noAgent tag
    refine congrArg Host.Outcome.next ((State.cohTake_of_find (t := t) first rfl on domain (.inr alive) _).trans ?_)
    simp only [noAgent, tag]
  case dataArb =>
    intro s c x first t on domain alive r noAgent noHome tag
    refine congrArg Host.Outcome.next ((State.cohTake_of_find (t := t) first rfl on domain (.inr alive) _).trans ?_)
    simp only [noAgent, noHome, tag]
  case backoff =>
    intro s c x l resends t
    refine congrArg Host.Outcome.next ?_
    simp only [resends]
    rfl
  case flush =>
    intro s c cmd k t u next holder on room
    exact congrArg Host.Outcome.next ((State.onMover_of_comesNext next holder on).trans (State.solAct_of_room room rfl))
  case flushHands =>
    intro s u c cmd ps k t v va n next holder on room vaWhole nWhole translated coherent keyed a gs w
    exact congrArg Host.Outcome.next ((State.onMover_of_comesNext next holder on).trans
      (State.solAct_of_room room (State.actFlush_hands vaWhole nWhole translated coherent keyed)))

end Sys2Proof.Machine
end

section
/-! Proof of the statement on membership of a coherence domain (spec/13_domain_coherence.md). -/
namespace Sys2Proof.Machine

/-- Settles O33: the membership, the heartbeats, and the messages between members. -/
theorem coherenceDomainsJoinBeatAndDie : Obligations.CoherenceDomainsJoinBeatAndDie := by
  refine ⟨?join, ?leave, ?leaveController, ?revive, ?beat, ?dead, ?lost, ?hb, ?echo, ?joins, ?joinAck, ?note⟩
  case join =>
    intro s rq c reach agent out
    refine next_of_onWrite reach (if_pos ?_)
    rcases out with out | out <;> rw [agent, out] <;> rfl
  case leave =>
    intro s rq c reach agent in_ other
    exact next_of_onWrite reach ((if_pos (by rw [agent, in_]; rfl)).trans (if_neg other))
  case leaveController =>
    intro s rq c reach agent in_ self t k
    exact next_of_onWrite reach ((if_pos (by rw [agent, in_]; rfl)).trans (if_pos self))
  case revive =>
    intro s rq c m reach controller small
    refine next_of_onWrite reach ((if_pos controller).trans ?_)
    rw [Nat.mod_eq_of_lt small]
  case beat =>
    intro s c agent serves in_ t u plain
    refine congrArg Host.Outcome.next ((if_pos (by rw [agent, serves, in_]; rfl)).trans ?_)
    show (let v := u.when (u.isController c) fun s => s.echoAll c; v.updCcx c fun x => { x with hbSent := v.tim.now + 1 }) = _
    simp only [plain, State.when_false]
  case dead =>
    intro s c m controller in_ up
    exact congrArg Host.Outcome.next (if_pos (by rw [controller, in_, up]; rfl))
  case lost =>
    intro s c agent in_
    exact congrArg Host.Outcome.next (if_pos (by rw [agent, in_]; rfl))
  case hb =>
    intro s c x first t on domain agent k member controller
    refine congrArg Host.Outcome.next ((State.atAgent_of_find (t := t) first rfl on domain (.inl (by decide)) agent _).trans ?_)
    simp only [member, controller, if_true]
  case echo =>
    exact fun s c x first on domain agent => congrArg Host.Outcome.next (State.atAgent_of_find first rfl on domain (.inl (by decide)) agent _)
  case joins =>
    intro s c x first t on domain agent k member controller
    refine congrArg Host.Outcome.next ((State.atAgent_of_find (t := t) first rfl on domain (.inl (by decide)) agent _).trans ?_)
    simp only [member, controller, if_true]
  case joinAck =>
    exact fun s c x first on domain agent joining => congrArg Host.Outcome.next
      ((State.atAgent_of_find first rfl on domain (.inl (by decide)) agent _).trans (if_pos joining))
  case note =>
    exact fun s c x first on domain agent => congrArg Host.Outcome.next (State.atAgent_of_find first rfl on domain (.inl (by decide)) agent _)

end Sys2Proof.Machine
end

section
/-! Proof of the statement on composition (spec/14_host_port.md). -/
namespace Sys2Proof.Machine

variable {s : State} {ld ep : Nat}

/-- A command of the fabric manager is heard once the device is released. -/
theorem next_of_onFm {f : State → State} (released : s.released = true) (small : ld < 32) :
    (.next (s.onFm ld f) : Host.Outcome State Fault Refusal) = .next (f s) := by
  unfold State.onFm
  rw [if_pos (by rw [released, decide_eq_true small]; rfl)]

/-- While no epoch retires, none ends. -/
theorem State.compRetire_of_none (calm : s.cmp.retiring = none) : s.compRetire = s := by
  unfold State.compRetire
  rw [calm]

/-- An epoch with accesses in flight does not end. -/
theorem State.compRetire_of_inflight (retiring : s.cmp.retiring = some ep) (inflight : s.compInflight ep ≠ 0) : s.compRetire = s := by
  unfold State.compRetire
  simp only [retiring]
  exact if_pos inflight

/-- One without ends: its released entries are freed and the hosts told. -/
theorem State.compRetire_of_idle (retiring : s.cmp.retiring = some ep) (idle : s.compInflight ep = 0) :
    s.compRetire = ((s.setCmp fun x => { x with retiring := none, entries :=
        (s.cmp.entries.filter fun x => x.2.releasing).foldl (fun m e => m.set e.1 default) x.entries }).each
      (freedOf (s.cmp.entries.filter fun x => x.2.releasing)) fun s x =>
        s.evtPriv cmpPage 1 0xC3 0 (fieldAt 0 5 x.1 + fieldAt 32 12 x.2)).evt cmpPage 3 := by
  unfold State.compRetire
  simp only [retiring]
  exact if_neg (not_not_intro idle)

/-- A change of the composition is made where no epoch retires. -/
theorem State.withEpoch_of_none (calm : s.cmp.retiring = none) (f : State → State) : s.withEpoch ld f = f s := by
  unfold State.withEpoch
  simp only [State.compRetire_of_none calm, calm]

/-- It is turned away while the last epoch has accesses in flight. -/
theorem State.withEpoch_busy (retiring : s.cmp.retiring = some ep) (inflight : s.compInflight ep ≠ 0) (f : State → State) :
    s.withEpoch ld f = ((s.bump 0 Reg.CMP_MAP_BUSY_CNT).evtPriv cmpPage 2 0xC4 0 ep).fmAnswer "FM_BUSY" ld := by
  unfold State.withEpoch
  simp only [State.compRetire_of_inflight retiring inflight, retiring]
  rfl

/-- The entries that a response accepts, out of those that wait for it. -/
theorem accepted_ne_nil {l : List (Nat × CompEntry)} {ok : List Nat}
    (some' : (l.any fun e => e.2.pending && e.2.num == ld && ok.contains e.2.dpaBase) = true) :
    ((l.filter fun e => e.2.pending && e.2.num == ld).filter fun e => ok.contains e.2.dpaBase).isEmpty = false := by
  obtain ⟨e, mem, both⟩ := List.any_eq_true.1 some'
  obtain ⟨mine, yes⟩ := (Bool.and_eq_true ..).mp both
  exact List.isEmpty_eq_false_iff.2 (List.ne_nil_of_mem (List.mem_filter.2 ⟨List.mem_filter.2 ⟨mem, mine⟩, yes⟩))

/-- Settles O34: the checks of each command, then the epoch. -/
theorem channelsAndCapacityAreComposed : Obligations.ChannelsAndCapacityAreComposed := by
  refine ⟨?bind, ?unbind, ?invalid, ?busy, ?add, ?accept, ?beginRelease, ?release, ?notRetired, ?retired⟩
  case bind =>
    intro s ld mask released small ok calm
    exact (next_of_onFm released small).trans (congrArg Host.Outcome.next
      ((if_neg (by rw [ok]; decide)).trans (State.withEpoch_of_none calm _)))
  case unbind =>
    intro s ld mask released small ok apart calm
    exact (next_of_onFm released small).trans (congrArg Host.Outcome.next
      ((if_neg (by rw [ok]; decide)).trans ((if_neg (by rw [apart]; decide)).trans (State.withEpoch_of_none calm _))))
  case invalid =>
    intro s ld mask released small
    refine ⟨fun bad => ?_, fun ok here => ?_⟩
    · have refused : (!s.maskOk mask) = true := by rw [bad]; rfl
      exact ⟨(next_of_onFm released small).trans (congrArg Host.Outcome.next (if_pos refused)),
        (next_of_onFm released small).trans (congrArg Host.Outcome.next (if_pos refused))⟩
    · exact (next_of_onFm released small).trans (congrArg Host.Outcome.next ((if_neg (by rw [ok]; decide)).trans (if_pos here)))
  case busy =>
    intro s ld mask ep ok released small retiring inflight busy
    refine ⟨fun valid => ?_, fun valid apart => ?_, fun accepts => ?_⟩ <;> refine (next_of_onFm released small).trans (congrArg Host.Outcome.next ?_)
    · exact (if_neg (by rw [valid]; decide)).trans (State.withEpoch_busy retiring inflight _)
    · exact (if_neg (by rw [valid]; decide)).trans ((if_neg (by rw [apart]; decide)).trans (State.withEpoch_busy retiring inflight _))
    · have some' := accepted_ne_nil accepts
      have mine : (s.cmp.entries.filter fun e => e.2.pending && e.2.num == ld).isEmpty = false :=
        List.isEmpty_eq_false_iff.2 fun none' => by rw [none', List.filter_nil] at some'; exact absurd some' (by decide)
      simp only [State.compRetire_of_inflight retiring inflight, mine, some', Bool.false_eq_true, if_false, State.withEpoch_busy retiring inflight]
  case add =>
    intro s ld xs released small calm ok room
    refine (next_of_onFm released small).trans (congrArg Host.Outcome.next ((if_neg (by rw [ok]; decide)).trans ?_))
    exact (State.withEpoch_of_none calm _).trans (if_neg (Nat.not_lt.2 room))
  case accept =>
    intro s ld ok released small calm mine yes put someMine someYes
    refine (next_of_onFm released small).trans (congrArg Host.Outcome.next ?_)
    simp only [State.compRetire_of_none calm, State.withEpoch_of_none calm]
    exact (if_neg (by rw [someMine]; decide)).trans (if_neg (by rw [someYes]; decide))
  case beginRelease =>
    intro s ld dpas released small calm es put all
    refine ⟨?_, ?_⟩ <;>
      refine (next_of_onFm released small).trans (congrArg Host.Outcome.next ((if_neg (not_not_intro all)).trans (State.withEpoch_of_none calm _)))
  case release => exact fun s ld dpas released small => next_of_onFm released small
  case notRetired =>
    intro s ep retiring inflight
    refine congrArg Host.Outcome.next ?_
    rw [State.compRetire_of_inflight retiring inflight]
  case retired =>
    intro s ep retiring idle es
    refine congrArg Host.Outcome.next ?_
    rw [State.compRetire_of_idle retiring idle]

end Sys2Proof.Machine
end

section
/-! Proof of the statement on accesses of hosts (spec/14_host_port.md). -/
namespace Sys2Proof.Machine

variable {s : State} {ld dpa want a : Nat} {bs : List Byte} {f : State → State}

/-! ### Accesses -/

section Access

variable (released : s.released = true) (small : ld < 32) (carries : s.portCarries (ld / 16) = true)
include released small carries

/-- An access of an LD that is enabled is taken. -/
theorem State.onMem_of_enabled (enabled : s.ldEnabled ld = true) : s.onMem ld dpa f = f s := by
  unfold State.onMem
  rw [if_neg (by rw [released, carries, decide_eq_true small]; decide), if_neg (by rw [enabled]; decide)]

/-- One of an LD that is not is unsupported. -/
theorem State.onMem_of_disabled (disabled : s.ldEnabled ld = false) : s.onMem ld dpa f = s.emit (.msg "MEM_UR" [ld, dpa] []) := by
  unfold State.onMem
  rw [if_neg (by rw [released, carries, decide_eq_true small]; decide), if_pos (by rw [disabled]; rfl)]

end Access

/-- A read while no fatal error stands, by what the address maps to. -/
theorem State.memRead_of_no_fatal {d : Nat} (calm : s.ras.fatal = none) : s.memRead ld d want =
    match s.compMap ld d with
    | none => (s.bump (ld / 16) Reg.CXH_UNMAPPED_CNT).memData ld d true []
    | some a => if s.withheld a then s.memData ld d true []
        else (s.setCmp fun x => { x with waiting := x.waiting ++ [⟨ld, d, a, false, want, [], x.epoch, noJob, 0⟩] }).hostGo := by
  unfold State.memRead
  rw [if_neg (by rw [calm]; decide)] <;> rfl

/-- A write to an address that maps nowhere is counted and completed. -/
theorem State.memWrite_unmapped (unmapped : s.compMap ld dpa = none) :
    s.memWrite ld dpa bs = (s.bump (ld / 16) Reg.CXH_UNMAPPED_CNT).memCmp ld dpa := by
  unfold State.memWrite
  rw [unmapped]

/-- One to memory that is withheld is counted and discarded. -/
theorem State.memWrite_withheld (mapped : s.compMap ld dpa = some a) (withheld : s.withheld a = true) :
    s.memWrite ld dpa bs = (s.bump (ld / 16) Reg.CXH_DISCARD_WR_CNT).memCmp ld dpa := by
  unfold State.memWrite
  simp only [mapped, withheld, if_true]

/-- One to memory that serves waits its turn, or is served at once where it writes back a line that a snoop waits for. -/
theorem State.memWrite_mapped (mapped : s.compMap ld dpa = some a) (serves : s.withheld a = false) :
    s.memWrite ld dpa bs =
      let x : HostAccess := ⟨ld, dpa, a, true, 0, bs, s.cmp.epoch, noJob, 0⟩
      let t := s.setCmp fun y => { y with waiting := y.waiting ++ [x] }
      if s.writesBack ld a then t.hostServe x (s.cmp.filter.at (a / 64)) else t.hostGo := by
  unfold State.memWrite
  simp only [mapped, serves, Bool.false_eq_true, if_false]

/-- Settles O35: the LD, CMP, the map of the address, and then the snoops and the ports. -/
theorem hostsReadWriteAndAreSnooped : Obligations.HostsReadWriteAndAreSnooped := by
  refine ⟨?read, ?write, ?later, ?writesBack, ?unsupported, ?birsp, ?birspKeeps, ?timeout, ?reset, ?fault, ?up⟩
  case read =>
    intro s ld dpa want released small carries enabled ready calm
    have taken : exec (.cxlMemRead ld dpa want) s = .next (s.memRead ld (dpa / 64 * 64) want) :=
      congrArg Host.Outcome.next ((State.onMem_of_enabled released small carries enabled).trans (if_pos ready))
    refine ⟨fun a mapped serves => ?_, fun unmapped => ?_, fun a mapped withheld => ?_⟩ <;>
      refine taken.trans (congrArg Host.Outcome.next ((State.memRead_of_no_fatal calm).trans ?_))
    · simp only [mapped, serves, Bool.false_eq_true, if_false]
    · simp only [unmapped]
    · simp only [mapped, withheld, if_true]
  case write =>
    intro s ld dpa data released small carries enabled ready
    have taken : exec (.cxlMemWrite ld dpa data) s = .next (s.memWrite ld dpa (data.take (64 - dpa % 64))) :=
      congrArg Host.Outcome.next ((State.onMem_of_enabled released small carries enabled).trans (if_pos (by rw [ready, Bool.true_or])))
    refine ⟨fun a mapped serves fresh => taken.trans (congrArg Host.Outcome.next ?_), fun unmapped => taken.trans (congrArg Host.Outcome.next ?_),
      fun a mapped withheld => taken.trans (congrArg Host.Outcome.next ?_)⟩
    · exact (State.memWrite_mapped mapped serves).trans (if_neg (by rw [fresh]; decide))
    · exact State.memWrite_unmapped unmapped
    · exact State.memWrite_withheld mapped withheld
  case later =>
    intro s ld dpa want data released small carries enabled notReady d
    refine ⟨congrArg Host.Outcome.next ((State.onMem_of_enabled released small carries enabled).trans (if_neg (by rw [notReady]; decide))),
      fun fresh => congrArg Host.Outcome.next ((State.onMem_of_enabled released small carries enabled).trans
        (if_neg (by rw [notReady, fresh]; decide)))⟩
  case writesBack =>
    intro s ld dpa a data released small carries enabled mapped serves back x
    refine congrArg Host.Outcome.next ((State.onMem_of_enabled released small carries enabled).trans ((if_pos ?_).trans ?_))
    · rw [mapped, Option.any_some, back, Bool.or_true]
    · exact (State.memWrite_mapped mapped serves).trans (if_pos back)
  case unsupported =>
    intro s ld dpa want data released small carries disabled
    exact ⟨congrArg Host.Outcome.next (State.onMem_of_disabled released small carries disabled),
      congrArg Host.Outcome.next (State.onMem_of_disabled released small carries disabled)⟩
  case birsp =>
    intro s ld line x first
    refine congrArg Host.Outcome.next ?_
    simp only [first, or_true, if_true]
  case birspKeeps =>
    intro s ld line keeps x first shared keepsSome held e
    refine congrArg Host.Outcome.next ?_
    simp only [first, shared, keepsSome, held, Bool.false_eq_true, or_self, if_false, if_true]
    rfl
  case timeout =>
    intro s ld t due
    refine congrArg Host.Outcome.next ?_
    simp only [due]
  case reset => exact fun s ld small => congrArg Host.Outcome.next (if_pos small)
  case fault =>
    intro s p small t go
    exact ⟨congrArg Host.Outcome.next (if_neg (Nat.not_le.2 small)), congrArg Host.Outcome.next (if_neg (Nat.not_le.2 small)),
      congrArg Host.Outcome.next (if_neg (Nat.not_le.2 small))⟩
  case up =>
    intro s p v w small speed width
    refine congrArg Host.Outcome.next ((if_pos small).trans ?_)
    rw [Nat.mod_eq_of_lt speed]
    rcases width with rfl | rfl <;> rfl

end Sys2Proof.Machine
end

section
/-! Proof of the statement on secure sessions (spec/14_host_port.md, spec/16_boot_and_trust.md). -/
namespace Sys2Proof.Machine

variable {s : State} {t k : Nat} {f : State → State}

section Negotiated

variable (up : s.spdmUp t = true) (negotiated : (s.spdm t).negotiated = true)
include up negotiated

/-- A request after the negotiation is heard. -/
theorem State.onSpdm_of_negotiated : s.onSpdm t f = f s := by
  unfold State.onSpdm
  rw [if_neg (by rw [up]; decide), if_pos negotiated]

/-- A request in a session of the state it needs is heard. -/
theorem State.onSession_of_session {b : Bool} (session : ((s.spdm t).sessions.any fun x => x.id == k && x.established == b) = true) :
    s.onSession t k b f = f s :=
  (State.onSpdm_of_negotiated up negotiated).trans (if_pos session)

/-- One in a session that the endpoint does not know is answered by an error. -/
theorem State.onSession_of_unknown (b : Bool) (unknown : ((s.spdm t).sessions.any fun x => x.id == k) = false) :
    s.onSession t k b f = s.spdmError t "SPDM_SESSION_REQUIRED" := by
  refine (State.onSpdm_of_negotiated up negotiated).trans (if_neg fun session => ?_)
  obtain ⟨x, mem, both⟩ := List.any_eq_true.1 session
  exact List.any_eq_false.1 unknown x mem ((Bool.and_eq_true ..).mp both).1

end Negotiated

/-- Settles O38: the endpoint, the session, and what each request does in it. -/
theorem sessionsAreOpenedKeyedAndEnded : Obligations.SessionsAreOpenedKeyedAndEnded := by
  refine ⟨?exchange, ?busy, ?finish, ?inSession, ?keys, ?unknown⟩
  case exchange =>
    intro s t r up negotiated room id
    refine congrArg Host.Outcome.next ((State.onSpdm_of_negotiated up negotiated).trans ((if_neg (by decide)).trans ?_))
    exact if_neg (Nat.not_le.2 room)
  case busy =>
    intro s t r up negotiated full
    exact congrArg Host.Outcome.next ((State.onSpdm_of_negotiated up negotiated).trans ((if_neg (by decide)).trans (if_pos full)))
  case finish =>
    exact fun s t k up negotiated session => congrArg Host.Outcome.next (State.onSession_of_session up negotiated session)
  case inSession =>
    exact fun s t k up negotiated session => ⟨congrArg Host.Outcome.next (State.onSession_of_session up negotiated session),
      congrArg Host.Outcome.next (State.onSession_of_session up negotiated session)⟩
  case keys =>
    intro s ld k small up negotiated session say
    have heard (f : State → State) : (.next (s.when (decide (ld < 32)) fun s => s.onSession ld k true f) :
        Host.Outcome State Fault Refusal) = .next (f s) :=
      next_of_when (decide_eq_true small) (State.onSession_of_session up negotiated session)
    exact ⟨heard _, heard _, heard _, heard _, heard _, heard _, heard _, heard _⟩
  case unknown =>
    intro s t k step io small up negotiated unknown e
    have error (b : Bool) (f : State → State) : (.next (s.onSession t k b f) : Host.Outcome State Fault Refusal) = e :=
      congrArg Host.Outcome.next (State.onSession_of_unknown up negotiated b unknown)
    exact ⟨error false _, error true _, error true _,
      next_of_when (decide_eq_true small) (State.onSession_of_unknown up negotiated true unknown)⟩

end Sys2Proof.Machine
end

section
/-! Refutation of the statement on resets and updates of the firmware: its clause on SWAP_NOW leaves out what the swap keeps. -/
namespace Sys2Proof.Machine

/-- A device with a sweep on its first channel and a cadence that has not started. -/
def sweptState : State := (State.reset.setBoot fun b => { b with chanMask := 1 }).setRun 0 0 (some default)

/-- Whether the sweep of the first channel keeps the bank that was active before a swap. -/
def keepsOldBank (s : State) : Bool := ((s.run 0 0).bind SweepRun.old).isSome

/-- SWAP_NOW keeps the bank of a running sweep before it swaps. -/
theorem exec_swapNow_sweptState : exec (.swapNow .core) sweptState = .next sweptState.keepBanks.swapAll :=
  next_of_onWrite (by decide) (if_pos (by decide))

/-- The swap alone does not. -/
theorem swapAll_ne_keepBanks_swapAll : sweptState.keepBanks.swapAll ≠ sweptState.swapAll := fun same =>
  absurd (congrArg keepsOldBank same) (by decide)

/-- Refutes O41: SWAP_NOW while the cadence is stopped answers the swap after the banks of running sweeps are kept, and with a
sweep in the array this is not the swap alone. -/
theorem not_resetsAndUpdatesOfTheFirmware : ¬ Obligations.ResetsAndUpdatesOfTheFirmware := by
  intro h
  obtain ⟨_, _, _, swapNow, _⟩ := h
  have swaps : exec (.swapNow .core) sweptState = .next sweptState.swapAll := (swapNow sweptState .core (by decide)).1 (.inl (by decide))
  exact swapAll_ne_keepBanks_swapAll (Host.Outcome.next.inj (exec_swapNow_sweptState.symm.trans swaps))

end Sys2Proof.Machine
end

section
/-! Proofs of the statements on power, thermal and clock events (spec/17_module_power_clocks.md). -/
namespace Sys2Proof.Machine

/-- Settles O43: the timers of the power sequencer, its samples, and the trips. -/
theorem powerSequencerSamplesAndThrottles : Obligations.PowerSequencerSamplesAndThrottles := by
  refine ⟨?tick, ?ramp, ?idle, ?core, ?sample, ?average, ?fall, ?force, ?trip, ?warn, ?fault⟩
  case tick => exact fun s => rfl
  case ramp =>
    intro s d ramping t
    refine ⟨fun none' => next_of_when (by rw [ramping]; rfl) ?_, fun k core => next_of_when (by rw [ramping]; rfl) ?_⟩
    · simp only [none']
      rfl
    · simp only [core]
      rfl
  case idle => exact fun s c on enabled power free => next_of_when (by rw [on, enabled, power, free]; rfl) rfl
  case core => exact fun s k small enabled power => next_of_when (by rw [decide_eq_true small, enabled, power]; rfl) rfl
  case sample => exact fun s temps mw mv ma => rfl
  case average =>
    intro s some' a t u
    have nonzero {α : Type} (x y : α) : (if s.psq.samples = 0 then x else y) = y := if_neg some'
    refine ⟨fun above => congrArg Host.Outcome.next ?_, fun within low => congrArg Host.Outcome.next ?_,
      fun within high => congrArg Host.Outcome.next ?_⟩ <;> simp only [nonzero]
    · exact if_pos above
    · exact (if_neg (Nat.not_lt.2 within)).trans (if_pos low)
    · exact (if_neg (Nat.not_lt.2 within)).trans (if_neg (Nat.not_lt.2 high))
  case fall =>
    intro s t u
    exact ⟨fun above => next_of_when (decide_eq_true above) rfl,
      fun below => congrArg Host.Outcome.next (State.when_neg (decide_eq_false (Nat.not_lt.2 below)))⟩
  case force => exact fun s rq v reach => next_of_onWrite reach rfl
  case trip =>
    intro s t due u
    refine congrArg Host.Outcome.next ?_
    simp only [due]
    rfl
  case warn =>
    intro s mv good range
    refine next_of_when ?_ rfl
    rw [good, Bool.true_and, Bool.or_eq_true, Bool.and_eq_true, Bool.and_eq_true, decide_eq_true_iff, decide_eq_true_iff,
      decide_eq_true_iff, decide_eq_true_iff]
    exact range
  case fault =>
    intro s mv
    refine ⟨fun low => next_of_when (by rw [decide_eq_true low, Bool.true_or]) (State.when_pos (decide_eq_true low)),
      fun high => next_of_when (by rw [decide_eq_true high, Bool.or_true]) (State.when_neg (decide_eq_false ?_))⟩
    omega

/-- Settles O44: the reference, then what its loss does; the clock domain, then its class. -/
theorem referencesAndClockDomainsAreWatched : Obligations.ReferencesAndClockDomainsAreWatched := by
  refine ⟨?lost, ?restored, ?unlock, ?relock⟩
  case lost =>
    intro s r small here t
    have gate : (decide (r < 7) && !s.clk.lost.at r) = true := by rw [decide_eq_true small, here]; rfl
    refine ⟨fun core => next_of_when gate ?_, fun host => next_of_when gate ?_, fun tod => next_of_when gate ?_,
      fun low high => next_of_when gate ?_⟩ <;> unfold State.refEffect
    · subst core; rfl
    · subst host; rfl
    · subst tod; rfl
    · rw [if_neg (by omega), if_neg (by omega), if_pos high]
  case restored =>
    intro s r small lost t
    have gate : (decide (r < 7) && (s.clk.lost.at r || r == 6 && !s.tim.ref10m)) = true := by
      rw [decide_eq_true small, lost]; rfl
    exact ⟨fun other => next_of_when gate (State.when_neg (beq_false_of_ne other)),
      fun tod => next_of_when gate (State.when_pos (beq_iff_eq.2 tod))⟩
  case unlock =>
    intro s d dom locked t
    have gate : (s.clkDom d && !s.clk.unlocked.at d) = true := by rw [dom, locked]; rfl
    exact ⟨fun channel => next_of_when gate (if_neg (Nat.not_le.2 channel)), fun device => next_of_when gate (if_pos device)⟩
  case relock => exact fun s d dom => next_of_when dom rfl

end Sys2Proof.Machine
end

section
/-! Proofs of the statements on the error log and on errors by class (spec/18_faults_and_debug.md). -/
namespace Sys2Proof.Machine

variable {s : State} {p : Page} {k j cl a d o : Nat}

/-! ### The error log (R559) -/

/-- JOB of the captured word. -/
theorem fld_errLogWord_job (source job cls : Nat) : fld (errLogWord source job cls) 17 8 = job % 1024 := by
  unfold fld
  rw [errLogWord_toNat]
  omega

/-- CLASS of the captured word. -/
theorem fld_errLogWord_class (source job cls : Nat) : fld (errLogWord source job cls) 30 28 = cls % 8 := by
  unfold fld
  rw [errLogWord_toNat]
  omega

/-- The count of errors, one higher and no higher than its field. -/
theorem toNat_saturated (n : Nat) : (BitVec.ofNat 32 (min (n + 1) (2 ^ 32 - 1))).toNat = min (n + 1) (2 ^ 32 - 1) := by
  rw [BitVec.toNat_ofNat]
  omega

/-- A log that holds an error counts the next one. -/
theorem State.logErr_of_held (held : wbit (s.rdAt p 0x020) 31 = true) :
    s.logErr p k j cl a d = s.wrAt p 0x024 (BitVec.ofNat 32 (min ((s.rdAt p 0x024).toNat + 1) (2 ^ 32 - 1))) := by
  unfold State.logErr
  rw [if_pos held]

/-- A log that holds none captures it. -/
theorem State.logErr_of_clear (clear : wbit (s.rdAt p 0x020) 31 = false) :
    s.logErr p k j cl a d = ((((((s.wrAt p 0x024 (BitVec.ofNat 32 (min ((s.rdAt p 0x024).toNat + 1) (2 ^ 32 - 1)))).wrAt p 0x020
      (errLogWord k j cl)).wrAt p 0x028 (lo32 s.stamp)).wrAt p 0x02C (hi32 s.stamp)).wrAt p 0x030 (lo32 a)).wrAt p 0x034
        (hi32 a)).wrAt p 0x038 (lo32 d) := by
  unfold State.logErr
  rw [if_neg (by rw [clear]; decide)]
  rfl

/-- The count after an error. -/
theorem State.rdAt_count_logErr : ((s.logErr p k j cl a d).rdAt p 0x024).toNat = min ((s.rdAt p 0x024).toNat + 1) (2 ^ 32 - 1) := by
  cases held : wbit (s.rdAt p 0x020) 31
  · rw [State.logErr_of_clear held]
    iterate 6 rw [State.rdAt_wrAt_word_ne _ _ _ (by decide)]
    rw [State.rdAt_wrAt_same, toNat_saturated]
  · rw [State.logErr_of_held held, State.rdAt_wrAt_same, toNat_saturated]

/-- The address of a captured error. -/
theorem State.rdAt_addr_logErr (clear : wbit (s.rdAt p 0x020) 31 = false) : (s.logErr p k j cl a d).rdAt p 0x030 = lo32 a := by
  rw [State.logErr_of_clear clear]
  iterate 2 rw [State.rdAt_wrAt_word_ne _ _ _ (by decide)]
  exact State.rdAt_wrAt_same ..

/-- Settles O58: an empty log captures, a full one counts. -/
theorem theErrorLogKeepsTheFirstError : Obligations.TheErrorLogKeepsTheFirstError := by
  refine ⟨?captures, ?counts, ?leaves⟩
  case captures =>
    intro s p k j cl a d hk hj hcl clear t
    have word : t.rdAt p 0x020 = errLogWord k j cl := State.rdAt_errLog_logErr s p k j cl a d clear
    have words : t = _ := State.logErr_of_clear clear
    refine ⟨?_, ?_, ?_, ?_, ?_, ?_, State.rdAt_addr_logErr clear, ?_, ?_, State.rdAt_count_logErr⟩
    · rw [word, fld_errLogWord_source, Nat.mod_eq_of_lt hk]
    · rw [word, fld_errLogWord_job, Nat.mod_eq_of_lt hj]
    · rw [word, fld_errLogWord_class, Nat.mod_eq_of_lt hcl]
    · rw [word, wbit_errLogWord]
    · rw [words]
      iterate 4 rw [State.rdAt_wrAt_word_ne _ _ _ (by decide)]
      exact State.rdAt_wrAt_same ..
    · rw [words]
      iterate 3 rw [State.rdAt_wrAt_word_ne _ _ _ (by decide)]
      exact State.rdAt_wrAt_same ..
    · rw [words, State.rdAt_wrAt_word_ne _ _ _ (by decide)]
      exact State.rdAt_wrAt_same ..
    · rw [words]
      exact State.rdAt_wrAt_same ..
  case counts =>
    intro s p k j cl a d o held t
    refine ⟨State.rdAt_count_logErr, fun other _ => ?_⟩
    have counted : t = _ := State.logErr_of_held held
    rw [counted, State.rdAt_wrAt_word_ne _ _ _ other]
  case leaves => exact fun s p k j cl a d => ⟨s.logErr_mem .., s.logErr_chan .., s.logErr_out .., s.logErr_tim ..⟩

/-- Words at different offsets of any two pages have different keys. -/
theorem regKey_ne_of_offset_ne (p q : Page) {o o' : Nat} (h : o / 4 % 1024 ≠ o' / 4 % 1024) :
    regKey p.blk p.idx o 0 ≠ regKey q.blk q.idx o' 0 := by
  unfold regKey selSpan
  omega

/-- A counter at another offset leaves a word as it was. -/
theorem State.rdAt_bump_offset_ne (s : State) (p : Page) {o : Nat} (i n : Nat) (r : RegId) (h : o / 4 % 1024 ≠ r.off / 4 % 1024) :
    (s.bump i r n).rdAt p o = s.rdAt p o := by
  unfold State.bump State.wr
  rw [State.rdAt_wrAt, if_neg]
  exact fun same => regKey_ne_of_offset_ne p ⟨r.blk, i⟩ h same

/-! ### Corrected errors (R560) -/

/-- Memory of one channel is no other's. -/
theorem inT1_unique {c c' a : Nat} (h : inT1 c a = true) (h' : inT1 c' a = true) : c = c' := by
  obtain ⟨low, high⟩ := (Bool.and_eq_true ..).mp h
  obtain ⟨low', high'⟩ := (Bool.and_eq_true ..).mp h'
  have := of_decide_eq_true low
  have := of_decide_eq_true high
  have := of_decide_eq_true low'
  have := of_decide_eq_true high'
  unfold t1Base at *
  omega

/-- The image of a page lies in the memory of its channel. -/
theorem State.inT1_of_inImage {c a : Nat} (h : s.inImage c a = true) : inT1 c a = true := by
  unfold State.inImage at h
  exact ((Bool.and_eq_true ..).mp ((Bool.and_eq_true ..).mp h).1).1

/-- Of a list without duplicates, a condition that one element alone meets leaves it. -/
theorem filter_eq_singleton {l : List Nat} {f : Nat → Bool} {c : Nat} (nodup : l.Nodup) (mem : c ∈ l) (holds : f c = true)
    (alone : ∀ x ∈ l, f x = true → x = c) : l.filter f = [c] := by
  have same : l.filter f = l.filter (· == c) :=
    List.filter_congr fun x hx => by
      by_cases eq : x = c
      · rw [eq, holds, beq_self_eq_true]
      · rw [beq_false_of_ne eq]
        exact Bool.eq_false_iff.2 fun h => eq (alone x hx h)
  rw [same, List.filter_beq, nodup.count, if_pos mem, List.replicate_one]

/-- The channels are listed once each. -/
theorem State.mem_channels {c : Nat} : c ∈ s.channels ↔ s.enabledCh c = true := by
  unfold State.channels State.enabledCh
  simp only [List.mem_filter, List.mem_range, Bool.and_eq_true, decide_eq_true_eq]
  exact and_self_left

/-- An error in no image is counted nowhere. -/
theorem State.countImageCe_of_none (none' : k ≠ 0x10 ∨ ∀ c, s.inImage c a = false) : s.countImageCe k a = s := by
  have no : (s.channels.filter fun c => k == 0x10 && s.inImage c a) = [] :=
    List.filter_eq_nil_iff.2 fun c _ => by rcases none' with other | outside <;> simp [*]
  unfold State.countImageCe
  rw [no, State.each_nil]

/-- One in the image of a page is counted on its channel. -/
theorem State.countImageCe_of_inImage {c : Nat} (on : s.enabledCh c = true) (image : s.inImage c a = true) :
    s.countImageCe 0x10 a = s.bump c Reg.PGM_CE_CNT := by
  have one : (s.channels.filter fun c => (0x10 : Nat) == 0x10 && s.inImage c a) = [c] :=
    filter_eq_singleton (List.nodup_range.filter _) (State.mem_channels.2 on) (by rw [image]; rfl) fun x _ hx =>
      inT1_unique (State.inT1_of_inImage ((Bool.and_eq_true ..).mp hx).2) (State.inT1_of_inImage image)
  unfold State.countImageCe
  rw [one, State.each_cons, State.each_nil]

/-! ### Errors of a channel (R563 to R566) -/

/-- A channel in service is not OUT. -/
theorem State.isOut_of_inService {c : Nat} (h : s.boot.chOut.at c = .inService) : s.isOut c = false := by
  unfold State.isOut
  rw [h]
  rfl

/-- An injected error on a channel that is not OUT, by its class. -/
theorem State.inject_of_inService {v : Word} {c : Nat} (chan : fld v 3 0 = c) (source : fld v 15 8 = k) (on : s.enabledCh c = true)
    (inService : s.isOut c = false) :
    s.inject v = match sourceClass k with
      | 1 => if k = 0x12 then s.coreFault (4 + c) else ((s.logErr rasPage k 0 1 0 c).bump 0 Reg.RAS_CE_CNT).countCe c
      | 2 => s.injectDeferred c k
      | 3 => s.injectJob k
      | 4 => s.chFatals [⟨.ras, c, k, 0, 0, 0, 0, 0⟩]
      | 5 => s.deviceFatal rasPage k 0 c
      | _ => s := by
  subst chan source
  unfold State.inject
  rw [if_neg (by rw [on]; decide), if_neg (by rw [inService, Bool.false_and]; decide)] <;> rfl

/-- A channel-fatal error as it is logged and, for a window and for a Kweuz unit, reported. -/
def State.chLogged (s : State) (x : ChFault) : State :=
  ((s.logErr ⟨x.blk, if x.blk.perChannel then x.ch else 0⟩ x.source 0 4 x.addr x.detail).when (x.source == 0x40 && x.window != 0) fun s =>
    (s.closeWin x.ch (x.window - 1)).kwpError x.ch 2 (s.win x.ch (x.window - 1)).job
      (kDetail 0 (x.window - 1) (s.win x.ch (x.window - 1)).gen)).when (x.source == 0x44 && x.blk == .kwp && x.kwpUnit != 0) fun s =>
    if x.kwpUnit = 3 then s.kwpError x.ch 3 (s.conn x.ch x.conn).job (kDetail x.conn 0 0) else s.kwpError x.ch 1 0 0

/-- One that is neither of a window nor of a Kweuz unit is logged alone. -/
theorem State.chLogged_plain {x : ChFault} (noWindow : x.source ≠ 0x40) (noUnit : x.blk = .kwp → x.kwpUnit = 0) :
    s.chLogged x = s.logErr ⟨x.blk, if x.blk.perChannel then x.ch else 0⟩ x.source 0 4 x.addr x.detail := by
  have window : (x.source == 0x40 && x.window != 0) = false := by rw [beq_false_of_ne noWindow, Bool.false_and]
  have unit : (x.source == 0x44 && x.blk == .kwp && x.kwpUnit != 0) = false := by
    by_cases kwp : x.blk = .kwp
    · rw [noUnit kwp, bne_self_eq_false, Bool.and_false]
    · rw [beq_false_of_ne kwp, Bool.and_false, Bool.false_and]
  unfold State.chLogged
  rw [State.when_neg window, State.when_neg unit]

/-- One of a Kweuz unit posts what the unit lost. -/
theorem State.chLogged_kweuz {x : ChFault} (kwp : x.blk = .kwp) (source : x.source = 0x44) (unit : x.kwpUnit ≠ 0) :
    s.chLogged x =
      let t := s.logErr (kwpPage x.ch) 0x44 0 4 x.addr x.detail
      if x.kwpUnit = 3 then t.kwpError x.ch 3 (t.conn x.ch x.conn).job (kDetail x.conn 0 0) else t.kwpError x.ch 1 0 0 := by
  have noWindow : (x.source == 0x40 && x.window != 0) = false := by rw [source]; rfl
  have isUnit : (x.source == 0x44 && x.blk == .kwp && x.kwpUnit != 0) = true := by rw [source, kwp, bne_iff_ne.2 unit]; rfl
  unfold State.chLogged
  rw [State.when_neg noWindow, State.when_pos isUnit, source, kwp]
  rfl

/-- What a channel-fatal error does to a channel that serves, by its state of recovery. -/
theorem State.chFatal_of_serving {x : ChFault} {t : State} (on : s.enabledCh x.ch = true) (calm : s.ras.fatal = none)
    (serves : (s.chLogged x).boot.chOut.at x.ch = .inService)
    (counted : (((s.chLogged x).bump 0 Reg.RAS_CHFATAL_CNT).updRas x.ch fun y => { y with source := x.source, faultDay := s.curDay }) = t) :
    s.chFatal x = match (s.rasCh x.ch).svc with
      | .recovering => (t.evtPriv rasPage 0 0xE0 x.source x.ch).quarantine x.ch 1 .held
      | .waiting | .held => t
      | .inService =>
        if t.slotFree then
          ((((t.abandonAll x.ch 6).discardRunning x.ch).recover x.ch false).rerouteFrom x.ch).evtPriv rasPage 0 0xE0 x.source (x.ch + 16)
        else (t.evtPriv rasPage 0 0xE0 x.source x.ch).quarantine x.ch 2 .waiting := by
  subst counted
  unfold State.chFatal
  exact (if_neg (by rw [on, calm]; decide)).trans (if_neg (ne_true_of_eq_false (State.isOut_of_inService serves)))

/-- Settles O45: the class of the error, the channel it hits, and what it takes with it. -/
theorem faultsAreLoggedByClass : Obligations.FaultsAreLoggedByClass := by
  refine ⟨?corrected, ?correctedOut, ?noImage, ?image, ?channel, ?plain, ?kweuz, ?device, ?deviceFatal, ?core, ?inject, ?injectOut, ?deferred⟩
  case corrected =>
    intro s p k a d class_ exists_ inService t
    have run : exec (.correctedError p k a d) s = .next (t.when p.blk.perChannel fun s => s.countCe p.idx) :=
      next_of_when (beq_iff_eq.2 class_) ((if_pos exists_).trans (if_neg (by rw [inService]; decide)))
    exact ⟨fun per => run.trans (congrArg Host.Outcome.next (State.when_pos per)),
      fun one => run.trans (congrArg Host.Outcome.next (State.when_neg one))⟩
  case correctedOut =>
    intro s p k a d class_ exists_ per out
    exact next_of_when (beq_iff_eq.2 class_) ((if_pos exists_).trans (if_pos (by rw [per, out]; rfl)))
  case noImage => exact fun s k a none' => State.countImageCe_of_none none'
  case image => exact fun s a c on image => State.countImageCe_of_inImage on image
  case channel => exact fun s l => rfl
  case plain =>
    intro s x p t on calm noWindow noUnit serves
    have logged := s.chLogged_plain noWindow noUnit
    have fatal := State.chFatal_of_serving (t := t) on calm (by rw [logged]; exact serves) (by rw [logged])
    refine ⟨fun recovering => ?_, fun held => ?_, fun inService free => ?_, fun inService full => ?_⟩
    · simp only [fatal, recovering]
    · simp only [fatal, held]
    · simp only [fatal, inService, free, if_true]
    · simp only [fatal, inService, full, Bool.false_eq_true, if_false]
  case kweuz =>
    intro s x kwp source unit on calm t u v serves inService free
    have logged := s.chLogged_kweuz kwp source unit
    have fatal := State.chFatal_of_serving (t := v) on calm (by rw [logged]; exact serves) (by rw [logged, source])
    simp only [fatal, inService, free, if_true, source]
  case device =>
    intro s p k a d class_ exists_
    exact next_of_when (by rw [class_, exists_]; rfl) rfl
  case deviceFatal =>
    intro s p k a d calm t u
    refine ⟨by rw [State.logErr_ras]; exact calm, if_neg (by rw [calm]; decide)⟩
  case core =>
    intro s k on
    refine ⟨fun device => ?_, fun notDevice channel enabled => ?_, fun notChannel spare => ?_⟩ <;>
      refine congrArg Host.Outcome.next ((if_neg (by rw [beq_iff_eq]; exact on)).trans ?_)
    · exact if_pos device
    · exact (if_neg (Nat.not_lt.2 notDevice)).trans ((if_pos channel).trans (if_pos enabled))
    · exact (if_neg (by omega)).trans ((if_neg (Nat.not_lt.2 notChannel)).trans (if_pos spare))
  case inject =>
    intro s rq v reach go on inService c k
    have run : exec (.rasInject rq v) s = .next (s.inject v) := next_of_onWrite reach (State.when_pos go)
    have here := s.inject_of_inService (c := c) (k := k) rfl rfl on inService
    refine ⟨fun core => ?_, fun memory => ?_, fun deferred => ?_, fun job => ?_, fun channel => ?_, fun device => ?_, fun none' => ?_⟩ <;>
      refine run.trans (congrArg Host.Outcome.next (here.trans ?_))
    · have class_ : sourceClass k = 1 := by rw [core]; decide
      simp only [class_]
      exact if_pos core
    · have class_ : sourceClass k = 1 := by rcases memory with memory | memory <;> rw [memory] <;> decide
      simp only [class_]
      exact if_neg fun core => by rcases memory with memory | memory <;> exact absurd (memory.symm.trans core) (by decide)
    · simp only [deferred]
    · simp only [job]
    · simp only [channel]
    · simp only [device]
    · simp only [none']
  case injectOut =>
    intro s rq v reach go on out low high
    refine next_of_onWrite reach ((State.when_pos go).trans ((if_neg (by rw [on]; decide)).trans (if_pos ?_)))
    rw [out, decide_eq_true low, decide_eq_true high]
    rfl
  case deferred =>
    intro s p k j a clear hk hj hp t
    have word : t.rdAt p 0x020 = errLogWord k j 2 := by
      rw [← Nat.mod_eq_of_lt hj]
      exact (State.rdAt_bump_offset_ne _ p 0 1 _ (by decide)).trans (State.rdAt_errLog_logErr s p k (j % noJob) 2 a 0 clear)
    refine ⟨?_, ?_, ?_, ?_, ?_, ?_⟩
    · rw [word, fld_errLogWord_source, Nat.mod_eq_of_lt hk]
    · rw [word, fld_errLogWord_class]
    · rw [word, fld_errLogWord_job, Nat.mod_eq_of_lt hj]
    · exact (State.rdAt_bump_offset_ne _ p 0 1 _ (by decide)).trans (State.rdAt_addr_logErr clear)
    · exact (State.bump_mem ..).trans (State.logErr_mem ..)
    · exact (State.bump_chan ..).trans (State.logErr_chan ..)

end Sys2Proof.Machine
end

section
/-! Proofs of the statements on poisoned memory (R606) and on accumulators (spec/03_log_numbers.md). -/
namespace Sys2Proof.Machine

/-! ### Lines of memory -/

/-- A line is touched by a range that is not empty exactly where a byte of it lies in the range. -/
theorem mem_linesOf {a n l : Nat} (some' : 0 < n) : l ∈ linesOf a n ↔ ∃ x, a ≤ x ∧ x < a + n ∧ x / 64 = l := by
  unfold linesOf
  simp only [List.mem_map, List.mem_range]
  constructor
  · rintro ⟨i, small, rfl⟩
    exact ⟨max a (64 * (a / 64 + i)), by omega, by omega, by omega⟩
  · rintro ⟨x, low, high, rfl⟩
    exact ⟨x / 64 - a / 64, by omega, by omega⟩

/-- The lines after many are. -/
theorem mem_foldl_insertLine {k : Nat} (ls ps : List Nat) : k ∈ ls.foldl (fun ps l => insertLine l ps) ps ↔ k ∈ ls ∨ k ∈ ps := by
  induction ls generalizing ps with
  | nil => simp
  | cons l ls ih =>
    rw [List.foldl_cons, ih, mem_insertLine, List.mem_cons, or_left_comm, or_assoc]

/-- A mark marks the line of each byte of its range. -/
theorem Memory.contains_mark {m : Memory} {a n x : Nat} (low : a ≤ x) (high : x < a + n) : (m.mark a n).poison.contains (x / 64) = true := by
  have some' : 0 < n := by omega
  unfold Memory.mark
  simp only [Nat.ne_of_gt some', if_false]
  exact List.contains_iff_mem.2 ((mem_foldl_insertLine ..).2 (.inl ((mem_linesOf some').2 ⟨x, low, high, rfl⟩)))

/-- A range is poisoned where one of its bytes lies in a marked line. -/
theorem Memory.poisoned_iff {m : Memory} {a n : Nat} :
    m.poisoned a n = true ↔ ∃ x, a ≤ x ∧ x < a + n ∧ m.poison.contains (x / 64) = true := by
  unfold Memory.poisoned
  rw [Bool.and_eq_true, decide_eq_true_iff, List.any_eq_true]
  constructor
  · rintro ⟨some', l, mem, marked⟩
    obtain ⟨x, low, high, rfl⟩ := (mem_linesOf some').1 mem
    exact ⟨x, low, high, marked⟩
  · rintro ⟨x, low, high, marked⟩
    have some' : 0 < n := by omega
    exact ⟨some', x / 64, (mem_linesOf some').2 ⟨x, low, high, rfl⟩, marked⟩

/-- After a write a line is marked where it was and the write did not cover it. -/
theorem Memory.contains_write (m : Memory) (a : Nat) (bs : List Byte) (l : Nat) :
    (m.write a bs).poison.contains l = (m.poison.contains l && !coversLine a bs.length l) := by
  rw [Bool.eq_iff_iff, Bool.and_eq_true, List.contains_iff_mem, List.contains_iff_mem]
  exact List.mem_filter

/-- Settles O56: by lines of the mark, and by the line of each byte of a write. -/
theorem poisonedLinesKeepTheirBytes : Obligations.PoisonedLinesKeepTheirBytes := by
  refine ⟨?mark, ?reads, ?write, ?outside⟩
  case mark => exact fun m a n x low high => ⟨Memory.contains_mark low high, m.byte_mark a n x⟩
  case reads => exact fun m a n => Memory.poisoned_iff
  case write =>
    intro m a bs x low high
    have inside : x - a < bs.length := by omega
    refine ⟨fun unmarked => ?_, fun marked first last => ?_, fun marked part => ?_⟩
    · rw [Memory.byte_write, if_pos ⟨low, high, by rw [unmarked, Bool.false_and]⟩]
    · have covers : coversLine a bs.length (x / 64) = true := by
        unfold coversLine
        rw [decide_eq_true first, decide_eq_true last, Bool.and_true]
      refine ⟨?_, ?_⟩
      · rw [Memory.byte_write, if_pos ⟨low, high, by rw [covers, Bool.not_true, Bool.and_false]⟩]
      · rw [Memory.contains_write, covers, Bool.not_true, Bool.and_false]
    · have covers : coversLine a bs.length (x / 64) = false := by
        unfold coversLine
        rw [Bool.and_eq_false_iff, decide_eq_false_iff_not, decide_eq_false_iff_not]
        omega
      refine ⟨?_, ?_⟩
      · rw [Memory.byte_write, marked, covers, if_neg (fun kept => Bool.false_ne_true kept.2.2.symm)]
      · rw [Memory.contains_write, marked, covers, Bool.not_false, Bool.and_true]
  case outside => exact fun m a bs x out => m.byte_write_outside a bs x out

/-! ### Accumulators -/

/-- The rounded shift by at least one place, with the sign in front. -/
theorem shiftRound_of_pos {d : Nat} (a : Int) (some' : 0 < d) :
    shiftRound a d = if 32 ≤ d then 0 else a.sign * (((a.natAbs + 2 ^ (d - 1)) / 2 ^ d : Nat) : Int) := by
  unfold shiftRound
  rw [if_neg (Nat.ne_of_gt some')]
  refine ite_congr rfl (fun _ => rfl) fun _ => ?_
  rcases Int.lt_trichotomy a 0 with neg | zero | pos
  · rw [if_pos neg, Int.sign_eq_neg_one_of_neg neg, Int.neg_one_mul]
  · have half : 2 ^ (d - 1) / 2 ^ d = 0 := Nat.div_eq_of_lt (Nat.pow_lt_pow_right (by decide) (by omega))
    subst zero
    rw [if_neg (by decide), Int.sign_zero, Int.zero_mul, Int.natAbs_zero, Nat.zero_add, half]
    rfl
  · rw [if_neg (by omega), Int.sign_eq_one_of_pos pos, Int.one_mul]

/-- Settles O57: the meeting of references, then the limits of the sum, then the saturated one. -/
theorem accumulatorsRescaleAndSaturate : Obligations.AccumulatorsRescaleAndSaturate := by
  refine ⟨?meets, ?adds, ?saturated⟩
  case meets =>
    intro x t live room above d
    have some' : 0 < d := by omega
    unfold Acc.meet
    simp only [live, room, decide_eq_false (Int.not_le.2 above), Bool.not_true, Bool.or_self, Bool.false_eq_true, if_false]
    rw [shiftRound_of_pos _ some']
  case adds =>
    intro x v room
    refine ⟨fun within => ?_, fun above => ?_, fun below => ?_⟩ <;> unfold Acc.add <;> rw [if_neg (by rw [room]; decide)]
    · exact (if_neg (by omega)).trans (if_neg (by omega))
    · exact if_pos above
    · exact (if_neg (by omega)).trans (if_pos below)
  case saturated =>
    intro x v t u live full
    refine ⟨if_pos full, ?_, if_pos full⟩
    unfold Acc.meet
    simp only [live, full, Bool.not_true, Bool.true_or, Bool.false_eq_true, if_false, if_true]

end Sys2Proof.Machine
end

section
/-! Refutation of the statement on register writes that do not reach: a write of a reserved offset of PSQ counts the tokens anew. -/
namespace Sys2Proof.Machine

/-- A device whose power sequencer has more tokens spent than PSQ_CFG gives out. -/
def overspentState : State := State.reset.setPsq fun p => { p with spent := 100 }

/-- How many tokens are spent in the state that a command answers. -/
def spentAfter (o : Host.Outcome State Fault Refusal) : Option Nat := match o with
  | .next t => some t.psq.spent
  | _ => none

/-- The write of a reserved offset bounds the tokens spent by those that PSQ_CFG gives out. -/
theorem spentAfter_registerWrite_overspentState :
    spentAfter (exec (.registerWrite .core ⟨.psq, 0⟩ 0xFFC 0) overspentState) = some 16 := by decide

/-- Refutes O59: a write to a reserved offset of PSQ is followed by the count of the tokens that are held, which changes the tokens
spent where they are more than PSQ_CFG gives out. -/
theorem not_writesThatDoNotReachChangeNothing : ¬ Obligations.WritesThatDoNotReachChangeNothing := by
  intro h
  obtain ⟨_, _, _, reserved⟩ := h
  have same : exec (.registerWrite .core ⟨.psq, 0⟩ 0xFFC 0) overspentState = .next overspentState :=
    reserved overspentState .core ⟨.psq, 0⟩ 0xFFC 0 (by decide) (by decide) (by decide) (by decide) (by decide)
  have spent := congrArg spentAfter same
  rw [spentAfter_registerWrite_overspentState] at spent
  exact absurd spent (by decide)

end Sys2Proof.Machine
end

section
/-! Proofs of the statements on doorbells and on what commands leave unchanged (spec/19_register_index.md, spec/09_jobs_and_sharing.md). -/
namespace Sys2Proof.Machine

variable {s t u : State} {rq : Requester} {c j size off : Nat} {owner : Blk} {v : DWord} {ok : Bool} {f : State → State}

/-! ### Doorbells (R599, R600) -/

section Job

variable (sees : s.seesDoorbell rq c (some j) = true)
include sees

/-- A doorbell of a job's object moves its pointer. -/
theorem State.jobBell_of_sees (ok' : ok = true) : s.jobBell rq c j 8 off owner v ok f = f s := by
  unfold State.jobBell
  rw [if_neg (by rw [sees]; decide), if_pos ⟨rfl, ok'⟩]

/-- One of another size is ignored and recorded. -/
theorem State.jobBell_of_size (other : size ≠ 8) : s.jobBell rq c j size off owner v ok f =
    s.logDoorbell ⟨owner, c⟩ ((c * 1024 + j) * 0x1000 + off) (v.toNat % 2 ^ 32) := by
  unfold State.jobBell
  rw [if_neg (by rw [sees]; decide), if_neg fun h => other h.1]

end Job

section Privileged

variable (sees : s.seesDoorbell rq c none = true)
include sees

/-- A privileged doorbell moves its pointer. -/
theorem State.privBell_of_sees (ok' : ok = true) : s.privBell rq c 8 off owner v ok f = f s := by
  unfold State.privBell
  rw [if_neg (by rw [sees]; decide), if_pos ⟨rfl, ok'⟩]

/-- One of another size is ignored and recorded. -/
theorem State.privBell_of_size (other : size ≠ 8) : s.privBell rq c size off owner v ok f =
    s.logDoorbell ⟨owner, c⟩ (0x4000000 + c * 0x1000 + off) (v.toNat % 2 ^ 32) := by
  unfold State.privBell
  rw [if_neg (by rw [sees]; decide), if_neg fun h => other h.1]

end Privileged

/-- The object of a doorbell is one of the channel's, is set up, and is the job's. -/
theorem object_ok {n q k : Nat} {b : Bool} (small : q < n) (on : b = true) (own : k = j) : (decide (q < n) && b && k == j) = true := by
  rw [decide_eq_true small, on, own, beq_self_eq_true]
  rfl

/-- A privileged object has the number 0. -/
theorem priv_ok {b : Bool} (on : b = true) (zero : dbObj v = 0) : (b && dbObj v == 0) = true := by rw [on, zero]; rfl

section Pointers

variable {q : Nat} (object : dbObj v = q)
include object

theorem exec_dbCqTail_of_sees (sees : s.seesDoorbell rq c (some j) = true) (small : q < 1024) (on : s.rdB c Reg.JSC_Q_CFG 0 q = true)
    (own : s.qJob c q = j) : exec (.dbCqTail rq c j 8 v) s = .next (s.setQTail c q (dbPtr v)) := by
  subst object
  exact congrArg Host.Outcome.next (State.jobBell_of_sees sees (object_ok small on own))

theorem exec_dbXrPtr_of_out (sees : s.seesDoorbell rq c (some j) = true) (small : q < 256) (out : s.xrIs c q 0 = true)
    (own : s.xrJob c q = j) :
    exec (.dbXrPtr rq c j 8 v) s = .next (s.wr c Reg.ATN_XR_TAIL (lo32 (dbPtr v / 64 * 64 % s.xrSize c q)) q) := by
  subst object
  exact congrArg Host.Outcome.next ((State.jobBell_of_sees sees (object_ok small (by rw [out, Bool.true_or]) own)).trans (if_pos out))

theorem exec_dbRxqHead_of_sees (sees : s.seesDoorbell rq c (some j) = true) (small : q < 256) (on : s.rdB c Reg.SLP_RXQ_CFG 0 q = true)
    (own : s.rdF c Reg.SLP_RXQ_CFG 25 16 q = j) : exec (.dbRxqHead rq c j 8 v) s =
      .next (s.wr c Reg.SLP_RXQ_HEAD (lo32 (dbPtr v % 2 ^ s.rdF c Reg.SLP_RXQ_CFG 5 1 q)) q) := by
  subst object
  exact congrArg Host.Outcome.next (State.jobBell_of_sees sees (object_ok small on own))

end Pointers

theorem exec_dbEvqHead_of_sees (sees : s.seesDoorbell rq c (some j) = true) (on : s.evqOn c j = true) :
    exec (.dbEvqHead rq c j 8 v) s = .next (s.wr c Reg.JSC_EVQ_HEAD (lo32 (dbPtr v % 2 ^ s.evqLog2 c j)) j) :=
  congrArg Host.Outcome.next (State.jobBell_of_sees sees on)

theorem exec_dbPevqHead_of_sees (sees : s.seesDoorbell rq c none = true) (on : s.rdB c Reg.JSC_PEVQ_CFG 0 = true) (zero : dbObj v = 0) :
    exec (.dbPevqHead rq c 8 v) s = .next (s.wr c Reg.JSC_PEVQ_HEAD (lo32 (dbPtr v % 2 ^ s.rdF c Reg.JSC_PEVQ_CFG 5 1))) :=
  congrArg Host.Outcome.next (State.privBell_of_sees sees (priv_ok on zero))

theorem exec_dbSmpHead_of_sees (sees : s.seesDoorbell rq c none = true) (on : s.rdB c Reg.TRC_SMP_CFG 0 = true) (zero : dbObj v = 0) :
    exec (.dbSmpHead rq c 8 v) s = .next (s.wr c Reg.TRC_SMP_HEAD (lo32 (dbPtr v % 2 ^ s.rdF c Reg.TRC_SMP_CFG 5 1))) :=
  congrArg Host.Outcome.next (State.privBell_of_sees sees (priv_ok on zero))

/-- Settles O19: the object of the doorbell, then its pointer. -/
theorem doorbellsMoveTheRingPointers : Obligations.DoorbellsMoveTheRingPointers := by
  refine ⟨?cq, ?cpl, ?xrOut, ?xrIn, ?cr, ?evq, ?sq, ?rxq, ?pevq, ?fq, ?smp, ?sizes, ?privSizes⟩
  case cq => exact fun s rq c j q v object sees small on own => exec_dbCqTail_of_sees object sees small on own
  case cpl =>
    intro s rq c j q v object sees small on own
    subst object
    exact congrArg Host.Outcome.next (State.jobBell_of_sees sees (object_ok small on own))
  case xrOut => exact fun s rq c j q v object sees small out own => exec_dbXrPtr_of_out object sees small out own
  case xrIn =>
    intro s rq c j q v object sees small notOut in_ own
    subst object
    exact congrArg Host.Outcome.next
      ((State.jobBell_of_sees sees (object_ok small (by rw [in_, Bool.or_true]) own)).trans (if_neg (by rw [notOut]; decide)))
  case cr =>
    intro s rq c j q v object sees small on own
    subst object
    exact congrArg Host.Outcome.next (State.jobBell_of_sees sees (object_ok small on own))
  case evq =>
    intro s rq c j v sees low high
    exact exec_dbEvqHead_of_sees sees (by unfold State.evqOn; rw [decide_eq_true low, decide_eq_true high]; rfl)
  case sq =>
    intro s rq c j q v object sees on own
    subst object
    exact congrArg Host.Outcome.next (State.jobBell_of_sees sees (by rw [bne_iff_ne.2 on, own, beq_self_eq_true]; rfl))
  case rxq => exact fun s rq c j q v object sees small on own => exec_dbRxqHead_of_sees object sees small on own
  case pevq => exact fun s rq c v sees on zero => exec_dbPevqHead_of_sees sees on zero
  case fq => exact fun s rq c v sees on zero => congrArg Host.Outcome.next (State.privBell_of_sees sees (priv_ok on zero))
  case smp => exact fun s rq c v sees on zero => exec_dbSmpHead_of_sees sees on zero
  case sizes =>
    intro s rq c j size v sees other
    refine ⟨?_, ?_, ?_, ?_, ?_, ?_, ?_⟩ <;> exact congrArg Host.Outcome.next (State.jobBell_of_size sees other)
  case privSizes =>
    intro s rq c size v sees other
    refine ⟨?_, ?_, ?_⟩ <;> exact congrArg Host.Outcome.next (State.privBell_of_size sees other)

end Sys2Proof.Machine
end

section
/-! Proof of the statement on what commands leave unchanged. -/
namespace Sys2Proof.Machine

variable {s t u : State} {f : State → State}

/-- From `s`, the device comes to `t` with memory, registers and time as they were. -/
structure SameCore (s t : State) : Prop where
  mem : t.mem = s.mem
  regs : t.regs = s.regs
  tim : t.tim = s.tim

theorem SameCore.refl (s : State) : SameCore s s := ⟨rfl, rfl, rfl⟩

theorem SameCore.when (b : Bool) (h : ∀ s, SameCore s (f s)) (s : State) : SameCore s (s.when b f) := by
  cases b
  · rw [State.when_false]; exact SameCore.refl s
  · rw [State.when_true]; exact h s

theorem SameCore.updCh (s : State) (c : Nat) (g : Chan → Chan) : SameCore s (s.updCh c g) :=
  ⟨State.updCh_mem .., State.updCh_regs .., State.updCh_tim ..⟩

theorem SameCore.emit (s : State) (m : OutMsg) : SameCore s (s.emit m) := ⟨State.emit_mem .., State.emit_regs .., State.emit_tim ..⟩

theorem SameCore.updLd (s : State) (n : Nat) (g : LdSt → LdSt) : SameCore s (s.updLd n g) := ⟨rfl, rfl, rfl⟩

theorem SameCore.updPort (s : State) (n : Nat) (g : CxhPort → CxhPort) : SameCore s (s.updPort n g) := ⟨rfl, rfl, rfl⟩

theorem SameCore.setSpr (s : State) (g : Spr → Spr) : SameCore s (s.setSpr g) :=
  ⟨State.setSpr_mem .., State.setSpr_regs .., State.setSpr_tim ..⟩

theorem SameCore.setBoot (s : State) (g : Boot → Boot) : SameCore s (s.setBoot g) :=
  ⟨State.setBoot_mem .., State.setBoot_regs .., State.setBoot_tim ..⟩

theorem SameCore.setClk (s : State) (g : Clk → Clk) : SameCore s (s.setClk g) :=
  ⟨State.setClk_mem .., State.setClk_regs .., State.setClk_tim ..⟩

theorem SameCore.setPsq (s : State) (g : Psq → Psq) : SameCore s (s.setPsq g) :=
  ⟨State.setPsq_mem .., State.setPsq_regs .., State.setPsq_tim ..⟩

theorem SameCore.updBox (s : State) (n : Nat) (g : Mailbox → Mailbox) : SameCore s (s.updBox n g) :=
  ⟨State.setMbx_mem .., State.setMbx_regs .., State.setMbx_tim ..⟩

/-- Every byte and every register then reads as before. -/
theorem SameCore.reads (h : SameCore s t) :
    (∀ a, t.mem.byte a = s.mem.byte a) ∧ (∀ (p : Page) (o k : Nat), t.rdAt p o k = s.rdAt p o k) ∧ t.tim = s.tim :=
  ⟨fun a => by rw [h.mem], fun p o k => by unfold State.rdAt; rw [h.regs], h.tim⟩

/-- A store of a register after a change beside the registers leaves every other register. -/
theorem SameCore.wr_reads (h : SameCore s u) (i : Nat) (r : RegId) (v : Word) (sel : Nat) :
    (∀ a, (u.wr i r v sel).mem.byte a = s.mem.byte a) ∧ (u.wr i r v sel).tim = s.tim ∧
      ∀ (p : Page) (o k : Nat), regKey p.blk p.idx o k ≠ regKey r.blk i r.off sel → (u.wr i r v sel).rdAt p o k = s.rdAt p o k := by
  refine ⟨fun a => by rw [State.wr_mem, h.mem], (State.wr_tim ..).trans h.tim, fun p o k other => ?_⟩
  unfold State.wr
  rw [State.rdAt_wrAt, if_neg other]
  unfold State.rdAt
  rw [h.regs]

/-- The commands of the last two groups, each a change beside memory, registers and time. -/
theorem sameCore_of_next {o : Host.Outcome State Fault Refusal} (run : o = .next u) (same : SameCore s u) (answer : o = .next t) :
    SameCore s t := Host.Outcome.next.inj (run.symm.trans answer) ▸ same

theorem State.startInv_sameCore (s : State) (c : Nat) (v : Word) : SameCore s (s.startInv c v) := SameCore.updCh ..

theorem execInvalidateDone_sameCore (c : Nat) : ∃ u, execInvalidateDone c s = .next u ∧ SameCore s u := by
  unfold execInvalidateDone
  split
  · exact ⟨s, rfl, SameCore.refl s⟩
  · exact ⟨_, rfl, SameCore.updCh ..⟩

theorem execLinkUp_sameCore (p v w : Nat) : ∃ u, execLinkUp p v w s = .next u ∧ SameCore s u := by
  unfold execLinkUp
  split
  · exact ⟨_, rfl, SameCore.updPort ..⟩
  · exact ⟨s, rfl, SameCore.refl s⟩

theorem execConfigurationRequest_sameCore (ld : Nat) (m : Option Bool) :
    ∃ u, execConfigurationRequest ld m s = .next u ∧ SameCore s u := by
  refine ⟨_, rfl, ?_⟩
  split
  · exact SameCore.refl s
  · split
    · exact SameCore.emit ..
    · split
      · exact SameCore.emit ..
      · cases m with
        | none => exact SameCore.emit ..
        | some b =>
          have ld' := SameCore.updLd s ld fun x => { x with msix := b, contained := x.contained && !b }
          have said := SameCore.emit (s.updLd ld fun x => { x with msix := b, contained := x.contained && !b }) (.msg "CFG_CPL" [ld] [])
          exact ⟨said.mem.trans ld'.mem, said.regs.trans ld'.regs, said.tim.trans ld'.tim⟩

/-- A doorbell that stores its pointer after a change beside the registers leaves every other register, time and messages. -/
theorem SameCore.wr_frame {i sel : Nat} {r : RegId} {v : Word} (h : SameCore s u) (out : u.out = s.out)
    (run : (.next (u.wr i r v sel) : Host.Outcome State Fault Refusal) = .next t) :
    (∀ a, t.mem.byte a = s.mem.byte a) ∧ t.tim = s.tim ∧ t.out = s.out ∧
      ∀ (p : Page) (o k : Nat), regKey p.blk p.idx o k ≠ regKey r.blk i r.off sel → t.rdAt p o k = s.rdAt p o k := by
  cases run
  obtain ⟨mem, tim, reads⟩ := h.wr_reads i r v sel
  exact ⟨mem, tim, (State.wr_out ..).trans out, reads⟩

/-- The doorbell of a completion queue's tail changes JSC's state and its register. -/
theorem State.setQTail_eq (s : State) (c q p : Nat) : ∃ g : JscCh → JscCh,
    s.setQTail c q p = (s.updJsc c g).wr c Reg.JSC_Q_TAIL (lo32 (p % s.qSize c q)) q := ⟨_, rfl⟩

/-- The frame of a command that changes neither memory, registers, time nor messages. -/
theorem SameCore.frame {o : Host.Outcome State Fault Refusal} (h : SameCore s u) (out : u.out = s.out) (run : o = .next u)
    (answer : o = .next t) : (∀ a, t.mem.byte a = s.mem.byte a) ∧ (∀ (p : Page) (o k : Nat), t.rdAt p o k = s.rdAt p o k) ∧
      t.tim = s.tim ∧ t.out = s.out := by
  cases run.symm.trans answer
  obtain ⟨mem, regs, tim⟩ := h.reads
  exact ⟨mem, regs, tim, out⟩

/-- Settles O60: by the one register or the one part of the state that each command changes. -/
theorem framesOfCommands : Obligations.FramesOfCommands := by
  refine ⟨?memory, ?jobBells, ?evqBell, ?privBells, ?units, ?others⟩
  case memory =>
    intro i s t reads run a
    rw [(exec_sameMem i s reads t run).mem]
  case jobBells =>
    rintro s t rq c j q v object sees r (⟨rfl, small, on, own, run⟩ | ⟨rfl, small, out, own, run⟩ | ⟨rfl, small, on, own, run⟩)
    · obtain ⟨g, tail⟩ := s.setQTail_eq c q (dbPtr v)
      rw [exec_dbCqTail_of_sees object sees small on own, tail] at run
      exact SameCore.wr_frame (SameCore.updCh ..) (State.updCh_out ..) run
    · exact SameCore.wr_frame (SameCore.refl s) rfl ((exec_dbXrPtr_of_out object sees small out own).symm.trans run)
    · exact SameCore.wr_frame (SameCore.refl s) rfl ((exec_dbRxqHead_of_sees object sees small on own).symm.trans run)
  case evqBell =>
    intro s t rq c j v sees on run
    have answer := (exec_dbEvqHead_of_sees sees on).symm.trans run
    obtain ⟨mem, tim, out, reads⟩ := SameCore.wr_frame (SameCore.refl s) rfl answer
    exact ⟨mem, by cases answer; exact State.wr_chan .., tim, out, reads⟩
  case privBells =>
    rintro s t rq c v r sees zero (⟨rfl, on, run⟩ | ⟨rfl, on, run⟩)
    · have answer := (exec_dbPevqHead_of_sees sees on zero).symm.trans run
      obtain ⟨mem, tim, out, reads⟩ := SameCore.wr_frame (SameCore.refl s) rfl answer
      exact ⟨mem, by cases answer; exact State.wr_chan .., tim, out, reads⟩
    · have answer := (exec_dbSmpHead_of_sees sees on zero).symm.trans run
      obtain ⟨mem, tim, out, reads⟩ := SameCore.wr_frame (SameCore.refl s) rfl answer
      exact ⟨mem, by cases answer; exact State.wr_chan .., tim, out, reads⟩
  case units =>
    rintro s t rq i v (⟨reach, run | run⟩ | ⟨reach, run⟩ | ⟨reach, run⟩)
    · exact SameCore.frame (SameCore.when _ (fun s => SameCore.setSpr ..) s)
        (State.when_leaves State.out _ fun s => State.setSpr_out ..) (next_of_onWrite reach rfl) run
    · exact SameCore.frame (SameCore.setSpr ..) (State.setSpr_out ..) (next_of_onWrite reach rfl) run
    · exact SameCore.frame (SameCore.when _ (fun s => s.startInv_sameCore i v) s)
        (State.when_leaves State.out _ fun s => State.updCh_out ..) (next_of_onWrite reach rfl) run
    · exact SameCore.frame (SameCore.when _ (fun s => SameCore.updBox ..) s)
        (State.when_leaves State.out _ fun s => State.setMbx_out ..) (next_of_onWrite reach rfl) run
  case others =>
    rintro s t c i j k m (run | run | run | run | run | run | run | run)
    · obtain ⟨u, answer, same⟩ := execLinkUp_sameCore (s := s) c i j
      exact (sameCore_of_next answer same run).reads
    · exact (sameCore_of_next rfl (SameCore.when _ (fun s => SameCore.setBoot ..) s) run).reads
    · obtain ⟨u, answer, same⟩ := execInvalidateDone_sameCore (s := s) c
      exact (sameCore_of_next answer same run).reads
    · exact (sameCore_of_next rfl (SameCore.when _ (fun s => SameCore.setClk ..) s) run).reads
    · exact (sameCore_of_next rfl (SameCore.when _ (fun s => SameCore.setPsq ..) s) run).reads
    · exact (sameCore_of_next rfl (SameCore.when _ (fun s => SameCore.emit ..) s) run).reads
    · exact (sameCore_of_next rfl (SameCore.when _ (fun s => SameCore.emit ..) s) run).reads
    · obtain ⟨u, answer, same⟩ := execConfigurationRequest_sameCore (s := s) c m
      exact (sameCore_of_next answer same run).reads

end Sys2Proof.Machine
end

section
/-! Proof of the statement on engines, barriers and tokens (spec/09_jobs_and_sharing.md). -/
namespace Sys2Proof.Machine

variable {s t : State} {c e j n q : Nat} {cmd : Cmd}

/-- The dispatch of the queue or plan that comes next. -/
theorem State.dispatch_of_pick (pick : (s.accrue c).dispPick c = some n)
    (turned : ((s.accrue c).updJsc c fun x => { x with ptr := x.ptr.set 8 ((n + 1) % 2048) }) = t) :
    s.dispatch c = (if n < 1024 then t.takeHead c n else t.takePlan c (n - 1024)).settle c := by
  unfold State.dispatch
  simp only [pick, turned]

/-- A barrier at the head of its queue that no rule refuses completes. -/
theorem State.takeHead_barrier (head : s.qHeadCmd c q = cmd) (op : cmd.op = 0x0F0)
    (clean : s.mem.poisoned (s.qHeadAddr c q) (64 * (cmd.sizeM1 + 1)) = false) (ok : s.refusal c q cmd = none) :
    s.takeHead c q = (((s.popQueue c q cmd).bump c Reg.JSC_DISPATCH_CNT).countOut c cmd).complete c cmd 0 := by
  unfold State.takeHead
  simp only [head, op, clean, ok, Bool.false_eq_true, if_false, if_true, Nat.reduceEqDiff]

/-- An engine that is free, and powered where it is the array, is given to the job that comes first. -/
theorem State.engineStart_takes (free : ((s.accrue c).engine c e).holder = none) (best : (s.accrue c).bestTaker c e = some j)
    (power : e = 1 → (s.accrue c).domSt c = .on) : s.engineStart c e = ((s.accrue c).takeEngine c e j).settle c := by
  unfold State.engineStart
  simp only [free, best, Option.isSome_none, Bool.false_eq_true, if_false]
  exact if_neg fun h => h.2 (power h.1)

/-- What the start of an engine does after the engine is given. -/
theorem exec_engineStart_of_start (on : s.enabledCh c = true) (small : e < 5) (started : s.engineStart c e = t) :
    exec (.engineStart c e) s = .next (((t.when ((s.engine c e).holder.isNone && e == 1) fun s => s.sweepTaken c).when
      ((s.engine c e).holder.isNone && e == 2) fun s => s.dmvArm c).when
        ((s.engine c e).holder.isNone && (e == 1 || e == 3)) fun s => s.vseTaken c e) := by
  subst started
  exact next_of_when (by rw [on, decide_eq_true small]; rfl) rfl

/-- Settles O20: the queue that comes next, the engine that is free, and CONTROL. -/
theorem enginesAreGivenToJobsAndBarriersPass : Obligations.EnginesAreGivenToJobsAndBarriersPass := by
  refine ⟨?head, ?plan, ?barrier, ?barrierEnds, ?notBarrier, ?control, ?array, ?mover, ?vector, ?deficit, ?token, ?noToken, ?counter,
    ?noCounter, ?waits, ?occupy, ?assign⟩
  case head =>
    intro s c n on clear pick queue
    refine next_of_when on ((State.afterSnoops_clear s _ _ clear).trans ((State.dispatch_of_pick pick rfl).trans ?_))
    rw [if_pos queue]
  case plan =>
    intro s c n on clear pick plan
    refine next_of_when on ((State.afterSnoops_clear s _ _ clear).trans ((State.dispatch_of_pick pick rfl).trans ?_))
    rw [if_neg (Nat.not_lt.2 plan)]
  case barrier =>
    intro s c q on op pick
    exact next_of_when (by rw [on, op, pick, beq_self_eq_true, beq_self_eq_true]; rfl) rfl
  case barrierEnds =>
    intro s c q on op pick queue t cmd again clean ok
    refine next_of_when (by rw [on, op, pick, beq_self_eq_true, beq_self_eq_true]; rfl) ((State.dispatch_of_pick (t := t) pick rfl).trans ?_)
    rw [if_pos queue, State.takeHead_barrier rfl again clean ok]
  case notBarrier =>
    intro s c q other
    exact next_of_not_when (by rw [beq_false_of_ne other, Bool.and_false])
  case control =>
    intro s c e j on engine free best
    have started := State.engineStart_takes free best fun array => by rcases engine with rfl | rfl <;> exact absurd array (by decide)
    refine (exec_engineStart_of_start on (by omega) started).trans (congrArg Host.Outcome.next ?_)
    rcases engine with rfl | rfl <;>
      rw [State.when_neg (by rw [Bool.and_eq_false_iff]; exact .inr rfl), State.when_neg (by rw [Bool.and_eq_false_iff]; exact .inr rfl),
        State.when_neg (by rw [Bool.and_eq_false_iff]; exact .inr rfl)]
  case array =>
    intro s c j on idle free best power
    refine (exec_engineStart_of_start on (by decide) (State.engineStart_takes free best fun _ => power)).trans
      (congrArg Host.Outcome.next ?_)
    simp only [idle, Option.isNone_none, Bool.true_and, Nat.reduceBEq, Bool.or_false, State.when_true, State.when_false]
  case mover =>
    intro s c j on idle free best
    refine (exec_engineStart_of_start on (by decide) (State.engineStart_takes free best fun h => absurd h (by decide))).trans
      (congrArg Host.Outcome.next ?_)
    simp only [idle, Option.isNone_none, Bool.true_and, Nat.reduceBEq, Bool.or_self, State.when_true, State.when_false]
  case vector =>
    intro s c j on idle free best
    refine (exec_engineStart_of_start on (by decide) (State.engineStart_takes free best fun h => absurd h (by decide))).trans
      (congrArg Host.Outcome.next ?_)
    simp only [idle, Option.isNone_none, Bool.true_and, Nat.reduceBEq, Bool.or_true, State.when_true, State.when_false]
  case deficit => exact fun s c on => next_of_when on rfl
  case token => exact fun s0 s c cmd arrived held own => next_of_control arrived held (if_pos own)
  case noToken => exact fun s0 s c cmd arrived held other => next_of_control arrived held (if_neg (by rw [other]; decide))
  case counter =>
    intro s0 s c k cmd arrived held set own match_
    subst set
    exact next_of_control arrived held (if_pos ⟨own, match_⟩)
  case noCounter =>
    intro s0 s c k cmd arrived held set other
    subst set
    refine next_of_control arrived held (if_neg ?_)
    rintro ⟨own, exact_⟩
    rcases other with other | any
    · exact other own
    · exact Bool.false_ne_true (exact_.symm.trans any)
  case waits =>
    intro s c cmd
    refine ⟨next_of_control_waits, next_of_control_waits, fun waits => ?_⟩
    have answer (f : State → State) := next_of_control_waits (f := f) waits
    exact ⟨answer _, answer _, answer _, answer _, answer _, answer _, answer _, answer _, answer _, answer _, answer _, answer _,
      answer _, answer _, answer _, answer _⟩
  case occupy =>
    intro s c e cmd
    refine ⟨?_, State.occupy_of_comesNext, fun x on held other => State.occupy_other on held other⟩
    rintro (off | held)
    · exact State.occupy_disabled s c e cmd off
    · exact State.occupy_holder s c e cmd held
  case assign => exact fun s rq c v reach => next_of_onWrite reach rfl

end Sys2Proof.Machine
end

section
/-! Proofs of the statements on jobs and on translation faults (spec/09_jobs_and_sharing.md). -/
namespace Sys2Proof.Machine

variable {s : State} {c j id : Nat}

/-- CLEAR of a job that is FAULTED and holds nothing. -/
theorem State.clearJob_of_faulted (faulted : s.jobFaulted c j = true) (empty : s.holdsAny c j = false) :
    s.clearJob c j = (s.wrAt (jscPage c) 0x200 (setBit (s.jobWord c j 0) 1 false) j).updJsc c fun x =>
      { x with deficits := [0, 1, 2, 3, 4].foldl (fun m e => m.set (laneKey j e) 0) x.deficits,
               shown := [0, 1, 2, 3, 4].foldl (fun m e => m.set (laneKey j e) 0) x.shown } := by
  unfold State.clearJob
  rw [if_neg (by rw [faulted, empty]; decide)]

/-- CLEAR of another job is recorded. -/
theorem State.clearJob_ignored (fails : s.jobFaulted c j = false ∨ s.holdsAny c j = true) :
    s.clearJob c j = s.logIgnored (jscPage c) 0x10C 2 := by
  unfold State.clearJob
  rw [if_pos (by rcases fails with h | h <;> simp [h])]

/-- Settles O21: the context, then KILL and CLEAR by the job's state, then the teardown. -/
theorem jobsAreEnabledTornDownAndCleared : Obligations.JobsAreEnabledTornDownAndCleared := by
  refine ⟨?context, ?enable, ?kill, ?killClear, ?clear, ?notClear, ?teardown⟩
  case context => exact fun s rq c off v reach small whole => next_of_withWrite reach (if_pos ⟨small, whole⟩)
  case enable =>
    intro s c j v on disabled clean calm bound
    unfold State.ctxWrite State.jobEnable
    rw [if_pos rfl, if_pos on, if_neg (by rw [clean, calm, bound]; decide), if_neg (by rw [disabled]; decide)]
  case kill =>
    intro s rq c reach
    refine next_of_onWrite reach ?_
    unfold State.killJob
    rw [State.when_false]
  case killClear =>
    intro s rq c j reach job faulted empty
    subst job
    refine next_of_onWrite reach ?_
    unfold State.killJob
    rw [State.when_true, State.when_pos (by rw [faulted, empty]; rfl)]
  case clear =>
    intro s rq c j reach job faulted empty
    subst job
    refine next_of_onWrite reach ((State.when_pos (by rw [faulted, empty]; rfl)).trans ?_)
    rw [State.clearJob_of_faulted faulted empty]
  case notClear =>
    intro s rq c j reach job fails
    subst job
    refine next_of_onWrite reach ((State.when_neg ?_).trans (State.clearJob_ignored fails))
    rcases fails with h | h <;> simp [h]
  case teardown =>
    intro s c j on tearing
    exact next_of_when (by rw [on, tearing]; rfl) rfl

/-- Settles O22: the fault that a response is for, then the invalidation. -/
theorem translationFaultsAndInvalidations : Obligations.TranslationFaultsAndInvalidations := by
  refine ⟨?retry, ?fail, ?ignored, ?timeout, ?invalidate, ?plain, ?done⟩
  case retry =>
    intro s rq c id x reach small fault t u
    refine next_of_onWrite reach ?_
    unfold State.retryGo State.faultRetry
    simp only [Nat.mod_eq_of_lt small, fault]
    by_cases array : x.engine = 1 ∨ x.engine = 3
    · rw [if_pos array]
      exact State.when_pos (by rcases array with h | h <;> rw [h] <;> rfl)
    · obtain ⟨notArray, notVector⟩ := not_or.1 array
      rw [if_neg array]
      exact State.when_neg (by rw [beq_false_of_ne notArray, beq_false_of_ne notVector]; rfl)
  case fail =>
    intro s rq c id x reach small fault
    refine next_of_onWrite reach ?_
    unfold State.faultFail
    simp only [Nat.mod_eq_of_lt small, fault]
  case ignored =>
    intro s rq c id reach small none'
    refine ⟨next_of_onWrite reach ?_, next_of_onWrite reach ?_⟩
    · unfold State.retryGo
      simp only [Nat.mod_eq_of_lt small, none']
    · unfold State.faultFail
      simp only [Nat.mod_eq_of_lt small, none']
  case timeout =>
    intro s c id x fault on posted limit
    refine congrArg Host.Outcome.next ?_
    simp only [fault]
    exact State.when_pos (by rw [on, posted, bne_iff_ne.2 limit]; rfl)
  case invalidate => exact fun s rq c v reach go => next_of_onWrite reach (State.when_pos go)
  case plain => exact fun s rq c v reach stay => next_of_onWrite reach (State.when_neg stay)
  case done =>
    intro s c i running
    refine congrArg Host.Outcome.next ?_
    simp only [running]

end Sys2Proof.Machine
end

section
/-! Proofs of the statements on handles of prefixes, page moves and the MOVER (spec/05_kv_pages.md). -/
namespace Sys2Proof.Machine

variable {s t : State} {c id : Nat} {cmd : Cmd}

/-- Settles O14: the handle, then the command. -/
theorem prefixHandlesAreAllocatedFreedAndQueried : Obligations.PrefixHandlesAreAllocatedFreedAndQueried := by
  refine ⟨?alloc, ?free, ?query, ?other⟩
  case alloc =>
    intro s0 s c i cmd arrived held free g
    refine next_of_control arrived held ?_
    simp only [free]
    rfl
  case free => exact fun s0 s c cmd arrived held own => next_of_control arrived held (if_pos own)
  case query => exact fun s0 s c cmd arrived held own => next_of_control arrived held (if_pos own)
  case other =>
    intro s0 s c cmd arrived held other
    have fails : ¬ s.handleOk c cmd.job (recNat cmd.payload 0 4) = true := ne_true_of_eq_false other
    exact ⟨next_of_control arrived held (if_neg fails), next_of_control arrived held (if_neg fails)⟩

/-! ### Page moves (R204 to R206) -/

/-- A move whose page has gone drops its target. -/
theorem State.finishMove_of_gone {m : PageMove} (gone : s.moveHolds c id m = false) :
    s.finishMove c id m = (s.dropMove c id).placeFree c m.dst false := by
  unfold State.finishMove
  exact if_pos (by rw [gone]; rfl)

/-- An image that stays on its channel is read and written. -/
theorem State.copyImage_of_local {m : PageMove} {job : Nat} (local_ : crossesXbar c m = false) :
    s.copyImage c job m = (s.touchImage job m.src).imgWrite m.dst 0 ((s.touchImage job m.src).imgRead m.src 0 20480) job :=
  if_neg (ne_true_of_eq_false local_)

/-- A move inside the device that holds its page copies the image and switches the page's home. -/
theorem State.finishMove_of_near {m : PageMove} {job : Nat} (holds : s.moveHolds c id m = true) (near : m.far = false)
    (owner : (s.table c (keyTable m.pte)).job = job) : s.finishMove c id m =
      ((((s.copyImage c job m).countMove c m).switchHome c id m
        ((s.pte c m.pte).st == .poisoned || (s.imgPoison m.src 0 20480 || decide (2 ≤ m.flaw)))).moveSlots c m).switchedHome c m.pte := by
  unfold State.finishMove
  simp only [holds, near, owner, Bool.not_true, Bool.false_eq_true, if_false]

/-- Settles O15: the end of a move, well or badly, and the release of a tier. -/
theorem pagesMoveBetweenTiers : Obligations.PagesMoveBetweenTiers := by
  refine ⟨?done, ?near, ?gone, ?failed, ?release⟩
  case done =>
    intro s c id m move ends goes
    refine congrArg Host.Outcome.next ?_
    simp only [move]
    exact State.when_pos (by rw [ends, goes]; rfl)
  case near =>
    intro s c id m holds near local_ pull bad job t
    rw [State.finishMove_of_near holds near rfl, State.copyImage_of_local local_]
  case gone => exact fun s c id m gone => State.finishMove_of_gone gone
  case failed =>
    intro s c id m move may calm
    refine congrArg Host.Outcome.next ?_
    simp only [move]
    exact State.when_pos (by rcases may with near | full <;> simp [*])
  case release => exact fun s c a => rfl

/-! ### The MOVER (R216 to R218) -/

/-- A command that comes next takes the MOVER and starts its chunks. -/
theorem next_of_mover (next : s.comesNext c 2 cmd = true) :
    (.next ((s.occupy c 2 cmd).when (s.enabledCh c) fun s => s.dmvArm c) : Host.Outcome State Fault Refusal) =
      .next ((s.taken c 2 cmd).dmvArm c) := by
  have on : s.enabledCh c = true := by
    unfold State.comesNext at next
    exact ((Bool.and_eq_true ..).mp ((Bool.and_eq_true ..).mp next).1).1
  rw [State.occupy_of_comesNext next, State.when_pos on]

/-- One that another command keeps from the MOVER waits. -/
theorem next_of_mover_waits {x : Cmd} (on : s.enabledCh c = true) (holder : (s.engine c 2).holder = some x) (other : x ≠ cmd) :
    (.next ((s.occupy c 2 cmd).when (s.enabledCh c) fun s => s.dmvArm c) : Host.Outcome State Fault Refusal) =
      .next ((((s.accrue c).arrive c 2 cmd).settle c).dmvArm c) := by
  rw [State.occupy_other on holder other, State.when_pos on]

/-- Settles O16: the engine, then the chunk. -/
theorem moverRunsCopyAndConvertInChunks : Obligations.MoverRunsCopyAndConvertInChunks := by
  refine ⟨?copy, ?copyWaits, ?convert, ?convertWaits, ?chunk, ?copied⟩
  case copy => exact fun s c cmd next => next_of_mover next
  case copyWaits => exact fun s c cmd x on holder other => next_of_mover_waits on holder other
  case convert => exact fun s c cmd next => next_of_mover next
  case convertWaits => exact fun s c cmd x on holder other => next_of_mover_waits on holder other
  case chunk =>
    intro s c cmd holder op clear
    refine congrArg Host.Outcome.next ?_
    simp only [holder]
    exact (if_pos op).trans (State.afterSnoops_clear s _ _ clear)
  case copied =>
    intro s t c cmd r op free clean active more unstuck noRack copied
    unfold State.dmvChunk
    simp only [free, unstuck, clean, active, noRack, op, copied, Nat.not_le.2 more, Bool.or_self, Bool.false_eq_true, if_false, if_true,
      ne_eq, not_true, and_false]

end Sys2Proof.Machine
end

section
/-! Refutation of the statement on block coding: its last clause takes no account of a header that lies across two lines. -/
namespace Sys2Proof.Machine

variable {s : State} {c a : Nat} {data : List Byte} {z : ZRegion}

/-- The block of a test: the first block of the memory of the first channel. -/
def splitBlock : Nat := t1Base 0

/-- A region whose first header lies across the last line of its first block and the line after it, the former marked as poisoned. -/
def splitState : State :=
  (((((State.reset.setBoot fun b => { b with chanMask := 1 }).wr 0 Reg.ZRB_RGN_CFG 1).wr 0 Reg.ZRB_RGN_SLOTS 1).wr64 0
    Reg.ZRB_RGN_SIDE_LO (splitBlock + 511)).mpoison (splitBlock + 511) 1)

/-- The region of the block. -/
def splitRegion : ZRegion := ⟨0, 0, splitBlock⟩

/-- The header that a RAW block of these bytes gets there. -/
def splitHdr (data : List Byte) : ZHdr := ⟨0, 0, 16, 0, (crc32c data).toNat⟩

/-- A whole block that waits for no lane is stored RAW with its header. -/
theorem exec_wrWaitExpiry_split (whole : data.length = 512) :
    exec (.wrWaitExpiry 0 splitBlock data) splitState = .next ((((splitState.putSectors splitBlock data).setZHdr splitRegion splitBlock
      (splitHdr data)).bump 0 Reg.ZRB_BUSY_RAW_CNT).bump 0 Reg.ZRB_RAW_CNT) := by
  have region : splitState.zrbRegion splitBlock = some splitRegion := by decide
  have busy : splitState.rdB 0 Reg.ZRB_RGN_STAT 1 0 = false := by decide
  have cfg : splitState.rd 0 Reg.ZRB_RGN_CFG 0 = 1 := by decide
  refine congrArg Host.Outcome.next ?_
  simp only [region]
  refine (State.when_pos (by rw [whole]; decide)).trans ?_
  have ready : splitState.zReady splitRegion = (splitState, []) := if_neg (ne_true_of_eq_false busy)
  have written : splitState.zWrite splitRegion splitBlock data true = (splitState.zWriteBlock splitRegion splitBlock data true, []) := by
    unfold State.zWrite
    simp only [whole, if_true, ready]
  rw [written]
  unfold State.zPost
  rw [State.each_nil]
  unfold State.zWriteBlock
  simp only [if_true, State.when_true]
  have token : tokensOf (fld (splitState.rd splitRegion.c Reg.ZRB_RGN_CFG splitRegion.r) 31 8) ((splitBlock - splitRegion.start) / 512) = 0 := by
    decide
  rw [token]
  rfl

/-- Memory reads as poisoned by its marks alone. -/
theorem Memory.poisoned_congr {m m' : Memory} (h : m.poison = m'.poison) (a n : Nat) : m.poisoned a n = m'.poisoned a n := by
  unfold Memory.poisoned
  rw [h]

/-- The block takes away the mark of its last line. -/
theorem poison_after_splitBlock (whole : data.length = 512) : (splitState.putSectors splitBlock data).mem.poison = [] := by
  unfold State.putSectors
  rw [whole]
  show splitState.mem.poison.filter (fun l => !(linesOf splitBlock 512).contains l) = []
  decide

/-- So its header does not lie in a marked line. -/
theorem poisoned_after_splitBlock (whole : data.length = 512) :
    (splitState.putSectors splitBlock data).mem.poisoned (splitBlock + 511) 8 = false := by
  rw [Memory.poisoned_congr (m' := ⟨[], []⟩) (poison_after_splitBlock whole)]
  decide

/-- A store of sectors changes neither where a header stands nor which memory there is. -/
theorem State.zSide_putSectors (s : State) (b : Nat) (bs : List Byte) (z : ZRegion) (a : Nat) :
    (s.putSectors b bs).zSide z a = s.zSide z a := rfl

theorem State.hasSpan_putSectors (s : State) (b : Nat) (bs : List Byte) (a n : Nat) :
    (s.putSectors b bs).hasSpan a n = s.hasSpan a n := rfl

/-- So the header is stored as it is, across the two lines. -/
theorem setZHdr_splitBlock (whole : data.length = 512) (h : ZHdr) :
    ((splitState.putSectors splitBlock data).setZHdr splitRegion splitBlock h).mem =
      (splitState.putSectors splitBlock data).mem.write (splitBlock + 511) (leBytes 8 h.val) := by
  have side : (splitState.putSectors splitBlock data).zSide splitRegion splitBlock = splitBlock + 511 := by
    rw [State.zSide_putSectors]
    decide
  have span : (splitState.putSectors splitBlock data).hasSpan (splitBlock + 511) 8 = true := by
    rw [State.hasSpan_putSectors]
    decide
  unfold State.setZHdr
  simp only [side, poisoned_after_splitBlock whole, Bool.not_false, if_true]
  unfold State.mwrite State.memWith
  rw [length_leBytes, span, if_pos rfl]

/-- The second byte of the header holds its length. -/
theorem second_byte_splitHdr (data : List Byte) : (leBytes 8 (splitHdr data).val).getD 1 0 = 4 := by
  show BitVec.ofNat 8 ((splitHdr data).val / 256) = 4
  refine BitVec.eq_of_toNat_eq ?_
  rw [BitVec.toNat_ofNat, show (4 : Byte).toNat = 4 from rfl]
  simp only [splitHdr, ZHdr.val, fieldAt]
  omega

/-- Refutes O18: the bytes of the header in the line after the block are written, and lie outside both ranges that the last clause
of the statement names. -/
theorem not_residueBlocksAndRegionsAreKept : ¬ Obligations.ResidueBlocksAndRegionsAreKept := by
  intro h
  obtain ⟨_, _, _, _, _, _, _, outside⟩ := h
  have whole : (List.replicate 512 (0 : Byte)).length = 512 := List.length_replicate
  have same := outside splitState _ 0 splitBlock (List.replicate 512 0) splitRegion (by decide) (by decide) whole
    (exec_wrWaitExpiry_split whole) (splitBlock + 512) (.inr (by decide)) (.inr (by decide))
  have inside : splitBlock + 511 ≤ splitBlock + 512 ∧ splitBlock + 512 < splitBlock + 511 + 8 := by decide
  rw [State.bump_mem, State.bump_mem, setZHdr_splitBlock whole, Memory.byte_write, length_leBytes, poison_after_splitBlock whole,
    if_pos ⟨inside.1, inside.2, rfl⟩, Nat.add_sub_add_left, second_byte_splitHdr] at same
  exact absurd same (by decide)

end Sys2Proof.Machine
end

section
/-! Proof of the statement on work requests and windows (spec/10_kweuz_transport.md). -/
namespace Sys2Proof.Machine

variable {s t : State} {c k op st : Nat}

/-- A work request at the head of a queue that is ready, of a cached connection, is taken by its own command. -/
theorem next_of_takeWr {f : State → List Byte → State} (ready : s.sqReady c k = true) (cached : s.cachedConn c k = true)
    (head : recNat (s.sqHeadWr c k) 0 1 = op) (taken : f s (s.sqHeadWr c k) = t) :
    (.next (s.takeWr c k op f) : Host.Outcome State Fault Refusal) = .next (t.tagsBack c) := by
  subst taken
  unfold State.takeWr
  simp only [ready, cached, head, Bool.not_true, Bool.false_eq_true, if_false, if_true]

/-- A transfer that no check refuses is added to its connection. -/
theorem State.takeTransfer_of_ok {r : KReq} (ok : s.wrRefusal c k r = none) : s.takeTransfer c k r = (s.sqPop c k).addReq c k r := by
  unfold State.takeTransfer
  simp only [ok]

/-- One that a check refuses completes with its status. -/
theorem State.takeTransfer_of_refused {r : KReq} (refused : s.wrRefusal c k r = some st) (shown : r.noCpl = false ∨ st ≠ 0) :
    s.takeTransfer c k r = (s.sqPop c k).kwpCpl c k r.op r.tag st 0 0 := by
  unfold State.takeTransfer
  simp only [refused]
  refine if_neg fun quiet => ?_
  obtain ⟨noCpl, zero⟩ := (Bool.and_eq_true ..).mp quiet
  rcases shown with shown | shown
  · exact Bool.false_ne_true (shown.symm.trans noCpl)
  · exact shown (beq_iff_eq.1 zero)

/-- A window that no check refuses, and whose last closing is over, is opened. -/
theorem State.takeOpen_of_ok {wr : List Byte} (ok : s.winRefusal c k wr = none)
    (fresh : (s.win c (nfld (recNat wr 0x10 8) 23 0)).closed = 0) : s.takeOpen c k wr = (s.sqPop c k).winOpen c k wr := by
  unfold State.takeOpen
  simp only [ok]
  exact if_neg fun h => h.1 fresh

/-- A window of the connection's job that nothing uses is revoked. -/
theorem State.takeRevoke_of_idle {wr : List Byte} {i : Nat} (window : nfld (recNat wr 0x10 8) 23 0 = i) (small : i < 65536)
    (own : (s.win c i).job = (s.conn c k).job) (isOpen : (s.win c i).isOpen = true) (idle : s.winInUse c i = 0)
    (shown : (recNat wr 0 4).testBit 9 = false) :
    s.takeRevoke c k wr = (((s.sqPop c k).closeWin c i).cutReads c i).kwpCpl c k 0x11 (recNat wr 0x20 8) 0 0 0 := by
  unfold State.takeRevoke
  simp only [window, own, isOpen, idle, shown, Nat.not_le.2 small, ne_eq, not_true, Bool.true_eq_false, or_self, if_false,
    bne_self_eq_false, State.when_false, Bool.false_and, Bool.not_false, State.when_true]

/-- A transfer to a node without a route ends with 0x97. -/
theorem State.formOne_of_no_route {r : KReq} (noOut : (s.conn c k).outq = []) (noReads : (s.conn c k).reads = [])
    (first : ((s.conn c k).reqs.find? fun x => !x.formedAll) = some r) (mem : r.dev = 0) (fresh : r.formed = 0)
    (noRoute : s.route c (s.epochFor r) (s.conn c k).peerNode = none) :
    s.formOne c k = some ((s.updConn c k fun v => { v with reqs := v.reqs.filter fun x => x.id != r.id }).kwpCpl c k r.op r.tag 0x97 0 0) := by
  unfold State.formOne
  simp only [noOut, noReads, first, Option.bind_some]
  unfold State.formNext
  exact if_pos ⟨mem, fresh, by rw [noRoute]; rfl⟩

/-- Settles O24: the head of the send queue, its checks, and the window it names. -/
theorem workRequestsAndWindowsAreTaken : Obligations.WorkRequestsAndWindowsAreTaken := by
  refine ⟨?write, ?read, ?flush, ?atomic, ?refused, ?noRoute, ?opens, ?gap, ?revoke⟩
  case write => exact fun s c k ready cached head ok => next_of_takeWr ready cached head (State.takeTransfer_of_ok ok)
  case read => exact fun s c k ready cached head ok => next_of_takeWr ready cached head (State.takeTransfer_of_ok ok)
  case flush => exact fun s c k ready cached head ok => next_of_takeWr ready cached head (State.takeTransfer_of_ok ok)
  case atomic => exact fun s c k ready cached head ok => next_of_takeWr ready cached head (State.takeTransfer_of_ok ok)
  case refused => exact fun s c k st r refused shown => State.takeTransfer_of_refused refused shown
  case noRoute =>
    intro s c k n r may noOut noReads first mem fresh noRoute
    rw [State.pump, if_neg (by rw [may]; decide), State.formOne_of_no_route noOut noReads first mem fresh noRoute]
  case opens => exact fun s c k ready cached head ok fresh => next_of_takeWr ready cached head (State.takeOpen_of_ok ok fresh)
  case gap =>
    intro s c k ready cached head ok closed
    exact next_of_takeWr ready cached head (if_pos ⟨closed, by rw [ok]; rfl⟩)
  case revoke =>
    intro s c k i ready cached head small own isOpen idle shown
    exact next_of_takeWr ready cached head (State.takeRevoke_of_idle rfl small own isOpen idle shown)

end Sys2Proof.Machine
end

section
/-! Proof of the statement on connections and their timers (spec/10_kweuz_transport.md). -/
namespace Sys2Proof.Machine

/-- Settles O25: the connection command, the fetch of a context, and the timers. -/
theorem connectionsAreSetResetAndTimed : Obligations.ConnectionsAreSetResetAndTimed := by
  refine ⟨?set, ?reset, ?resetKeys, ?destroy, ?snap, ?fetched, ?fetchFailed, ?rto, ?rtoLast, ?ack, ?backoff, ?rate⟩
  case set =>
    intro s rq c k reach idle
    exact next_of_onWrite reach (if_neg (ne_true_of_eq_false idle))
  case reset =>
    intro s rq c reach
    refine next_of_onWrite reach ?_
    unfold State.connReset
    simp only [Bool.false_eq_true, if_false]
  case resetKeys => exact fun s rq c reach => next_of_onWrite reach rfl
  case destroy => exact fun s rq c reach => next_of_onWrite reach rfl
  case snap => exact fun s rq c reach => next_of_onWrite reach rfl
  case fetched =>
    intro s c k i fetching place
    refine next_of_when fetching ((if_neg Bool.false_ne_true).trans ?_)
    simp only [place]
  case fetchFailed => exact fun s c k fetching => next_of_when fetching (if_pos rfl)
  case rto =>
    intro s c k on open_ sent running more t
    exact next_of_when (by rw [on, open_, sent, running]; rfl) (if_neg more)
  case rtoLast =>
    intro s c k on open_ sent running last
    exact next_of_when (by rw [on, open_, sent, running]; rfl) (if_pos last)
  case ack =>
    intro s c k on open_ accepted
    exact next_of_when (by rw [on, open_, bne_iff_ne.2 accepted]; rfl) rfl
  case backoff =>
    intro s c k t psn on pause
    refine congrArg Host.Outcome.next ?_
    simp only [pause]
    exact State.when_pos on
  case rate =>
    intro s c k open_ known t
    exact next_of_when (by rw [open_, bne_iff_ne.2 known]; rfl) rfl

end Sys2Proof.Machine
end

section
/-! Proofs of the statements on Ethernet ports and on the traffic block (spec/10_kweuz_transport.md, spec/11_traffic_control.md). -/
namespace Sys2Proof.Machine

variable {s t : State} {c sub : Nat} {d : List Byte}

/-- A two-step message, or one that arrives, keeps its bytes. -/
theorem State.oneStep_same {e : Bool} (plain : e = false ∨ s.rdB 0 Reg.PTP_CFG 11 = false) : s.oneStep e d = d := by
  unfold State.oneStep
  exact if_neg (by rcases plain with plain | plain <;> simp [plain])

/-- A SYNC that leaves in one step carries the time of day. -/
theorem State.oneStep_sync (long : 44 ≤ d.length) (sync : recNat d 0 1 % 16 = 0) (step : s.rdB 0 Reg.PTP_CFG 11 = true) :
    s.oneStep true d = d.take 34 ++ (leBytes 6 (s.tim.tod / 1000000000)).reverse ++ (leBytes 4 (s.tim.tod % 1000000000)).reverse ++ d.drop 44 := by
  unfold State.oneStep
  exact if_pos (by rw [step, sync, decide_eq_true long]; rfl)

/-- A frame that the scheduler takes leaves. -/
theorem exec_egressTransmit_of_frame {p : EPkt} (mode : s.ethMode c = true)
    (frame : (if s.kwEn c then s.takeFrame c sub else s.takePtp c sub) = (t, some p)) :
    exec (.egressTransmit c sub) s = .next (t.frameLeaves c sub p) := by
  refine next_of_when mode ?_
  simp only [frame]

/-- Settles O26: the port's mode, then the frame or the link. -/
theorem ethernetPortsCountStampAndTransmit : Obligations.EthernetPortsCountStampAndTransmit := by
  refine ⟨?frame, ?ptp, ?sync, ?plain, ?ptpOff, ?link, ?fecBad, ?fecGood, ?egress, ?nothing⟩
  case frame => exact fun s c why mode => next_of_when mode rfl
  case ptp =>
    intro s c d on
    exact ⟨congrArg Host.Outcome.next ((if_pos on).trans (if_neg Bool.false_ne_true)),
      congrArg Host.Outcome.next ((if_pos on).trans (if_pos rfl))⟩
  case sync => exact fun s d long sync step => State.oneStep_sync long sync step
  case plain => exact fun s e d plain => State.oneStep_same plain
  case ptpOff =>
    intro s c d off mode
    refine congrArg Host.Outcome.next ((if_neg (ne_true_of_eq_false off)).trans (State.when_pos ?_))
    rw [mode]
    rfl
  case link => exact fun s c sub cause mode => next_of_when mode rfl
  case fecBad =>
    intro s c sub corr mode over'
    refine next_of_when mode ?_
    simp only [decide_eq_true over', if_true, State.when_true]
  case fecGood =>
    intro s c sub corr mode within
    refine next_of_when mode ?_
    simp only [decide_eq_false (Nat.not_lt.2 within), Bool.false_eq_true, if_false, State.when_false]
  case egress =>
    intro s t c sub p mode frame
    have leaves := exec_egressTransmit_of_frame mode frame
    refine ⟨fun data => leaves.trans (congrArg Host.Outcome.next ?_), fun ptp up => leaves.trans (congrArg Host.Outcome.next ?_),
      fun ptp down => leaves.trans (congrArg Host.Outcome.next ?_)⟩ <;> unfold State.frameLeaves
    · exact if_neg (ne_true_of_eq_false data)
    · exact (if_pos ptp).trans (State.when_pos up)
    · exact (if_pos ptp).trans (State.when_neg (Bool.eq_false_iff.2 (ne_true_of_eq_false down)))
  case nothing =>
    intro s t c sub mode frame
    refine next_of_when mode ?_
    simp only [frame]

/-- Settles O27: the register, then the shaper, the policer or the slot that is due. -/
theorem shapersPolicersAndSamplesOfTheTrafficBlock : Obligations.ShapersPolicersAndSamplesOfTheTrafficBlock := by
  refine ⟨?rate, ?config, ?policer, ?sample, ?wheel, ?coarse⟩
  case rate =>
    intro s rq c k v reach shaper
    subst shaper
    exact next_of_onWrite reach rfl
  case config =>
    intro s rq c k b v reach shaper
    subst shaper
    exact next_of_onWrite reach rfl
  case policer =>
    intro s rq c off n v r row reach policer
    subst policer
    show (.next (match polReg off with
      | none => s
      | some r => s.onWrite rq c r v fun s => s.polChange c r v) : Host.Outcome State Fault Refusal) = _
    rw [row]
    exact next_of_onWrite reach rfl
  case sample =>
    intro s c mode on period t
    exact next_of_when (by rw [mode, on, decide_eq_true period]; rfl) rfl
  case wheel =>
    intro s c t due
    refine congrArg Host.Outcome.next ?_
    simp only [due]
  case coarse =>
    intro s c t due
    refine congrArg Host.Outcome.next ?_
    simp only [due] <;> rfl

end Sys2Proof.Machine
end

section
/-! Proof of the statement on shared regions and configuration (spec/14_host_port.md). -/
namespace Sys2Proof.Machine

/-- Settles O36: each command in the order of its checks. -/
theorem sharesAndConfigurationAnswerHosts : Obligations.SharesAndConfigurationAnswerHosts := by
  refine ⟨?set, ?taken, ?query, ?publish, ?notHolder, ?configuration, ?discovery, ?cdat⟩
  case set =>
    intro s0 s c n cmd share free arrived held
    subst share
    exact next_of_control arrived held (if_neg (ne_true_of_eq_false free))
  case taken =>
    intro s0 s c n cmd share valid arrived held
    subst share
    exact next_of_control arrived held (if_pos valid)
  case query =>
    intro s0 s c n cmd share arrived held
    subst share
    exact ⟨fun holder => next_of_control arrived held (if_pos holder),
      fun other => next_of_control arrived held (if_neg (ne_true_of_eq_false other))⟩
  case publish =>
    intro s0 s c n cmd share p arrived held holder changes inRegion
    subst share
    refine next_of_control arrived held ((if_neg ?_).trans ((if_neg changes).trans (if_neg ?_)))
    · rw [holder]; decide
    · rw [inRegion]; decide
  case notHolder =>
    intro s0 s c n cmd share arrived held other
    subst share
    exact next_of_control arrived held (if_pos (by rw [other]; rfl))
  case configuration =>
    intro s ld small
    have known : ¬ 32 ≤ ld := Nat.not_le.2 small
    refine ⟨fun waits m => ?_, fun released off m => ?_, fun released on => ?_⟩
    · exact congrArg Host.Outcome.next ((if_neg known).trans (if_pos (by rw [waits]; rfl)))
    · exact congrArg Host.Outcome.next ((if_neg known).trans ((if_neg (by rw [released]; decide)).trans (if_pos (by rw [off]; rfl))))
    · have answers (m : Option Bool) : exec (.configurationRequest ld m) s = .next ((match m with
          | some b => s.updLd ld fun x => { x with msix := b, contained := x.contained && !b }
          | none => s).emit (.msg "CFG_CPL" [ld] [])) :=
        congrArg Host.Outcome.next ((if_neg known).trans ((if_neg (by rw [released]; decide)).trans (if_neg (by rw [on]; decide))))
      exact ⟨answers none, fun b => answers (some b)⟩
  case discovery =>
    intro s ld i up small
    have last : min i 3 = i := Nat.min_eq_left (Nat.le_of_lt_succ small)
    exact next_of_when up (by rw [last])
  case cdat => exact fun s ld up => next_of_when up rfl

end Sys2Proof.Machine
end

section
/-! Proof of the statement on attestation (spec/14_host_port.md, spec/16_boot_and_trust.md). -/
namespace Sys2Proof.Machine

/-- A request before the negotiation is unexpected. -/
theorem State.onSpdm_of_not_negotiated {s : State} {t : Nat} {f : State → State} (up : s.spdmUp t = true)
    (before : (s.spdm t).negotiated = false) : s.onSpdm t f = s.spdmError t "SPDM_UNEXPECTED_REQUEST" := by
  unfold State.onSpdm
  rw [if_neg (by rw [up]; decide), if_neg (ne_true_of_eq_false before)]

/-- Settles O37: the endpoint, its place in the order, and what each request is answered. -/
theorem attestationRequestsAreAnsweredInOrder : Obligations.AttestationRequestsAreAnsweredInOrder := by
  refine ⟨?version, ?capabilities, ?algorithms, ?early, ?identity, ?measurements, ?unexpected⟩
  case version => exact fun s t up => next_of_when up rfl
  case capabilities =>
    intro s t v up got known
    refine next_of_when up ((if_neg (by rw [got]; decide)).trans (if_neg fun wrong => ?_))
    exact known.elim wrong.1 wrong.2
  case algorithms =>
    intro s t o up got four all
    refine next_of_when up ((if_neg (by rw [got]; decide)).trans (if_neg fun wrong => ?_))
    exact wrong.elim (Nat.not_lt.2 four) (ne_true_of_eq_false all)
  case early =>
    exact fun s t v o up => ⟨fun before => next_of_when up (if_pos (by rw [before]; rfl)),
      fun before => next_of_when up (if_pos (by rw [before]; rfl))⟩
  case identity =>
    intro s t off len up negotiated
    have slot0 : ¬ (0 : Nat) ≠ 0 := fun h => h rfl
    have heard (f : State → State) : (.next (s.onSpdm t f) : Host.Outcome State Fault Refusal) = .next (f s) :=
      congrArg Host.Outcome.next (State.onSpdm_of_negotiated up negotiated)
    exact ⟨(heard _).trans (congrArg _ (if_neg slot0)), (heard _).trans (congrArg _ (if_neg slot0)),
      (heard _).trans (congrArg _ (if_neg slot0))⟩
  case measurements =>
    intro s t up negotiated
    refine ⟨?count, ?all, ?one⟩
    case count =>
      exact congrArg Host.Outcome.next ((State.onSpdm_of_negotiated up negotiated).trans (if_neg fun wrong => wrong.1 rfl))
    case all =>
      refine congrArg Host.Outcome.next ((State.onSpdm_of_negotiated up negotiated).trans ?_)
      by_cases none : s.measured = []
      · exact (if_pos ⟨by decide, none⟩).trans (if_pos none).symm
      · exact (if_neg fun wrong => none wrong.2).trans (if_neg none).symm
    case one =>
      intro i notCount notAll some
      refine congrArg Host.Outcome.next ((State.onSpdm_of_negotiated up negotiated).trans ?_)
      simp only [if_neg notAll, if_neg notCount, some, and_false, if_false, Bool.false_eq_true]
  case unexpected =>
    intro s t a off len r b up before e
    have error (f : State → State) : (.next (s.onSpdm t f) : Host.Outcome State Fault Refusal) = e :=
      congrArg Host.Outcome.next (State.onSpdm_of_not_negotiated up before)
    exact ⟨error _, error _, error _, error _, error _⟩

end Sys2Proof.Machine
end

section
/-! Proof of the statement on the mailboxes (spec/15_mailboxes.md). -/
namespace Sys2Proof.Machine

variable {s : State} {rq : Requester} {v : Word} {n box off seq sender : Nat}

/-! ### What a write of a box does -/

/-- A word of the message of a box that its writer sees. -/
theorem next_of_mbDataWrite (sees : s.seesBox rq box = true) (aligned : off % 4 = 0) (inBox : off / 4 < boxWords box) :
    exec (.mbDataWrite rq box off v) s = .next ((s.updBox box fun b => { b with data := b.data.set (off / 4) v }).when (s.box box).full
      fun s => s.collide box) :=
  congrArg Host.Outcome.next ((if_neg (by rw [sees]; decide)).trans (if_pos ⟨aligned, inBox⟩))

/-- A box that is not full takes the message. -/
theorem State.go_of_not_full {p : Option Nat} (free : (s.box n).full = false) :
    s.go rq n p = (((s.senderOf rq n p).2.updBox n fun b =>
      { b with seq := (b.seq + 1) % 2 ^ 16, sender := (s.senderOf rq n p).1, full := true, ackValid := false }).bump 0
        Reg.MBX_MSG_CNT).wakeCore (s.routeOf n) := by
  unfold State.go
  simp only [free, State.when_false]

/-! ### What the holder of a latched message does -/

/-- EMPTY of the message that was latched, which its box still holds. -/
theorem next_of_empty (reach : s.reachesReg rq 0 Reg.MBX_RX_CTRL = true) (latched : s.mbx.latch = some (n, seq, sender))
    (compact : isCompact n = true) (same : (s.box n).seq = seq) (full : (s.box n).full = true) :
    exec (.empty rq) s = .next (((s.setMbx fun x => { x with latch := none }).emptyBox n).boxIrq n sender) := by
  refine next_of_onWrite reach ?_
  simp only [latched, compact, same, full, ne_eq, not_true_eq_false, Bool.not_true, Bool.false_eq_true, if_false, State.when_true]

/-- MBX_RX_ACK of the message that was latched, which its box still holds. -/
theorem next_of_mbxRxAck (reach : s.reachesReg rq 0 Reg.MBX_RX_ACK = true) (latched : s.mbx.latch = some (n, seq, sender))
    (large : isCompact n = false) (same : (s.box n).seq = seq) (full : (s.box n).full = true) :
    exec (.mbxRxAck rq v) s = .next (((((s.setMbx fun x => { x with latch := none }).updBox n fun b =>
      { b with ack := lo32 (fld v 15 0 + fieldAt 16 16 seq), ackValid := true }).emptyBox n)).boxIrq n sender) := by
  refine next_of_onWrite reach ?_
  simp only [latched, large, same, full, beq_self_eq_true, Bool.or_true, Bool.false_eq_true, if_false, if_true, State.when_true]

/-- Settles O39: the box and whether it is full, and for a receiver the latched message. -/
theorem mailboxesHoldMessagesAndAnswerThem : Obligations.MailboxesHoldMessagesAndAnswerThem := by
  refine ⟨?data, ?dataFull, ?go, ?latch, ?empty, ?emptyNone, ?collision, ?ack, ?route⟩
  case data =>
    intro s rq box off v sees aligned inBox free
    rw [next_of_mbDataWrite sees aligned inBox, free, State.when_false]
  case dataFull =>
    intro s rq box off v sees aligned inBox full
    rw [next_of_mbDataWrite sees aligned inBox, full, State.when_true]
  case go =>
    intro s rq n p sees enabled ready free
    exact congrArg Host.Outcome.next ((if_neg (by rw [sees]; decide)).trans
      ((if_pos (by rw [enabled, ready]; rfl)).trans (State.go_of_not_full free)))
  case latch =>
    intro s rq n sees selected small
    subst selected
    have latches : (s.when (decide (s.rdF 0 Reg.MBX_RX_SEL 10 0 < mailboxes)) fun t => t.latchBox (s.rdF 0 Reg.MBX_RX_SEL 10 0)) =
        s.latchBox (s.rdF 0 Reg.MBX_RX_SEL 10 0) := if_pos (decide_eq_true small)
    refine congrArg Host.Outcome.next ((if_neg (by rw [sees]; decide)).trans ?_)
    simp only [latches]
  case empty =>
    exact fun s rq n seq sender reach latched compact same full => next_of_empty reach latched (decide_eq_true compact) same full
  case emptyNone =>
    intro s rq reach latched
    refine next_of_onWrite reach ?_
    simp only [latched]
  case collision =>
    intro s rq n reach selected small
    subst selected
    exact next_of_onWrite reach (if_pos (decide_eq_true small))
  case ack =>
    exact fun s rq v n seq sender reach latched large same full =>
      next_of_mbxRxAck reach latched (decide_eq_false (Nat.not_lt.2 large)) same full
  case route =>
    intro s rq v n reach selected small routable
    subst selected
    exact next_of_onWrite reach (if_pos ((Bool.and_eq_true ..).mpr ⟨decide_eq_true small, routable⟩))

end Sys2Proof.Machine
end

section
/-! Proof of the statement on power-good, the fuses and the boot image (spec/16_boot_and_trust.md). -/
namespace Sys2Proof.Machine

variable {s : State}

/-- A step of a phase of the boot. -/
theorem next_of_phase {t : State} {p : BootPhase} {f : State → State} (phase : s.boot.phase = p) (h : f s = t) :
    (.next (s.when (s.boot.phase == p) f) : Host.Outcome State Fault Refusal) = .next t :=
  next_of_when (beq_of_eq phase) h

/-- A step of the phase in which the image comes through CXL. -/
theorem next_of_cxlImage {t : State} {f : State → State} (phase : s.boot.phase = .image) (cxl : s.boot.srcCxl = true) (h : f s = t) :
    (.next (s.when (s.boot.phase == .image && s.boot.srcCxl) f) : Host.Outcome State Fault Refusal) = .next t :=
  next_of_when ((Bool.and_eq_true ..).mpr ⟨beq_of_eq phase, cxl⟩) h

/-- Settles O40: the phase of the boot each step is for, and the check of the image. -/
theorem powerRisesFusesLoadAndImagesAreChecked : Obligations.PowerRisesFusesLoadAndImagesAreChecked := by
  refine ⟨?good, ?loss, ?fuses, ?chunk, ?imageDone, ?timeout, ?received, ?load, ?training⟩
  case good => exact fun s sel off cool => next_of_when (by rw [off, cool]; rfl) rfl
  case loss => exact fun s => rfl
  case fuses => exact fun s f cxl good phase => next_of_when (by rw [good, phase]; rfl) rfl
  case chunk =>
    intro s off d phase cxl
    refine ⟨fun short apart => next_of_cxlImage phase cxl (if_neg fun wrong => ?_),
      fun wrong => next_of_cxlImage phase cxl (if_pos wrong)⟩
    exact wrong.elim (Nat.not_lt.2 short) (ne_true_of_eq_false apart)
  case imageDone => exact fun s phase cxl => next_of_cxlImage phase cxl rfl
  case timeout => exact fun s phase cxl => next_of_cxlImage phase cxl rfl
  case received =>
    intro s phase
    refine ⟨next_of_phase phase rfl, fun passes => next_of_phase phase ?_, fun e fails => next_of_phase phase ?_⟩
    · simp only [passes, Bool.false_eq_true, if_false]
    · simp only [fails, Bool.false_eq_true, if_false]
  case load => exact fun s phase => next_of_phase phase rfl
  case training => exact fun s bad phase => next_of_phase phase rfl

end Sys2Proof.Machine
end

section
/-! Proof of the statement on the service of channels, the flash and the fuses (spec/16_boot_and_trust.md). -/
namespace Sys2Proof.Machine

variable {s : State}

/-- An SVN above the burned one that some running core does not exceed yet is burned. -/
theorem State.svnBurn_of_higher {v : Nat} (higher : s.boot.fuses.svn < v)
    (some : (s.runningCores.all fun k => decide ((s.core k).svn < v)) = false) :
    s.svnBurn v = ((s.setFuses fun f => { f with svn := v }).measureHw).evt secPage 1 := by
  refine if_neg ?_
  rw [some, decide_eq_false (Nat.not_le.2 higher)]
  decide

/-- Settles O42: the register, the channel's service state, the address in the flash, and what may be burned. -/
theorem channelsLeaveAndReturnAndFlashIsKept : Obligations.ChannelsLeaveAndReturnAndFlashIsKept := by
  refine ⟨?out, ?retrain, ?retrained, ?back, ?disabled, ?read, ?program, ?erase, ?svn, ?revoke⟩
  case out =>
    intro s rq c reach small enabled service
    have mod : c % 16 = c := Nat.mod_eq_of_lt small
    have serves : ¬ (!s.enabledCh c || s.chSvc c != .inService) = true := by rw [enabled, service]; decide
    refine ⟨fun can => next_of_onWrite reach ?_, fun cannot => next_of_onWrite reach ?_⟩
    · simp only [mod, if_neg serves, if_pos can]
    · simp only [mod, if_neg serves, if_neg (ne_true_of_eq_false cannot)]
  case retrain =>
    intro s rq c reach small enabled out
    refine next_of_onWrite reach ?_
    simp only [Nat.mod_eq_of_lt small, enabled, out, beq_self_eq_true, Bool.and_self, if_true]
  case retrained =>
    exact fun s c retraining => ⟨next_of_when (beq_of_eq retraining) rfl, next_of_when (beq_of_eq retraining) rfl⟩
  case back =>
    intro s rq c reach small enabled out
    refine next_of_onWrite reach ?_
    simp only [Nat.mod_eq_of_lt small, enabled, out, beq_self_eq_true, Bool.and_self, if_true]
  case disabled =>
    intro s rq c reach small off
    have mod : c % 16 = c := Nat.mod_eq_of_lt small
    refine ⟨next_of_onWrite reach ?_, next_of_onWrite reach ?_, next_of_onWrite reach ?_⟩
    · simp only [mod, off, Bool.not_false, Bool.true_or, if_true]
    · simp only [mod, off, Bool.false_and, Bool.false_eq_true, if_false]
    · simp only [mod, off, Bool.false_and, Bool.false_eq_true, if_false]
  case read => exact fun s rq reach => next_of_onWrite reach rfl
  case program =>
    exact fun s rq reach => ⟨fun free => next_of_onWrite reach (if_neg (ne_true_of_eq_false free)),
      fun chain => next_of_onWrite reach (if_pos chain)⟩
  case erase =>
    exact fun s rq reach => ⟨fun below => next_of_onWrite reach (if_neg (Nat.not_le.2 below)),
      fun chain => next_of_onWrite reach (if_pos chain)⟩
  case svn =>
    intro s rq v reach may small higher some
    have mod : v % 128 = v := Nat.mod_eq_of_lt small
    refine next_of_onWrite reach ?_
    rw [may, State.when_true, mod, State.svnBurn_of_higher higher some]
  case revoke =>
    intro s rq m reach may small
    have mod : m % 16 = m := Nat.mod_eq_of_lt small
    refine ⟨fun other => next_of_onWrite reach ?_, fun own => next_of_onWrite reach ?_⟩
    · rw [may, State.when_true, mod]
      exact if_neg (ne_true_of_eq_false other)
    · rw [may, State.when_true, mod]
      exact if_pos own

end Sys2Proof.Machine
end

section
/-! Proof of the statement on spares, snapshots, watchpoints and the accesses of control cores (spec/18_faults_and_debug.md, spec/13_domain_coherence.md). -/
namespace Sys2Proof.Machine

variable {s : State} {c k j a n : Nat}

/-! ### The checks of a channel -/

/-- A check of a recovering channel that no fatal error of the device overtook ends; a retraining can only fail where one was due. -/
theorem check_ends {r : CheckResult} (recovering : s.recovering c = true) (running : (s.rasCh c).check = 1)
    (alive : s.ras.fatal = none) (fits : r ≠ .retrainFailed ∨ (s.rasCh c).source = 0x43) :
    (s.recovering c && (s.rasCh c).check == 1 && s.ras.fatal.isNone &&
      !(r == .retrainFailed && (s.rasCh c).source != 0x43)) = true := by
  have fit : (r == .retrainFailed && (s.rasCh c).source != 0x43) = false := by
    refine Bool.and_eq_false_iff.2 (fits.imp beq_false_of_ne fun source => ?_)
    rw [source]; rfl
  rw [recovering, running, alive, fit]
  rfl

/-! ### An access of a control core, part by part (R435) -/

/-- An access to the rack on an enabled channel. -/
theorem next_of_controlCoreAccess {w : Bool} {d : List Byte} (enabled : s.enabledCh c = true) (rack : inRack a = true)
    (inside : a + (if w then d.length else n) ≤ rackEnd) :
    exec (.controlCoreAccess c k j a n w d) s =
      .next ((s.each (s.coreParts c a (if w then d.length else n)) fun s p => s.corePart c k j a w d p).when
        ((s.coreParts c a (if w then d.length else n)).any fun p => p.2.2) fun s => s.agentGo (s.ownAgent c)) := by
  refine congrArg Host.Outcome.next (if_neg ?_)
  rw [enabled, rack, decide_eq_true inside]
  decide

/-- A change of the state per element is settled by what it does for each element of the list. -/
theorem State.each_congr {α : Type} {f g : State → α → State} {l : List α} (same : ∀ x ∈ l, ∀ s, f s x = g s x) (s : State) :
    s.each l f = s.each l g := by
  unfold State.each
  induction l generalizing s with
  | nil => rfl
  | cons x l ih =>
    rw [List.foldl_cons, List.foldl_cons, same x List.mem_cons_self, ih fun y mem => same y (List.mem_cons_of_mem x mem)]

/-- An access whose parts are all plain sends its parts, and the agent has nothing to do. -/
theorem next_of_plain_controlCoreAccess {w : Bool} {d : List Byte} {f : State → Nat × Nat × Bool → State}
    (enabled : s.enabledCh c = true) (rack : inRack a = true) (inside : a + (if w then d.length else n) ≤ rackEnd)
    (plain : (s.coreParts c a (if w then d.length else n)).all (fun p => !p.2.2) = true)
    (sends : ∀ (s : State) (x m : Nat), s.corePart c k j a w d (x, m, false) = f s (x, m, false)) :
    exec (.controlCoreAccess c k j a n w d) s = .next (s.each (s.coreParts c a (if w then d.length else n)) f) := by
  have each_plain : ∀ p ∈ s.coreParts c a (if w then d.length else n), p.2.2 = false := fun p mem =>
    Bool.not_eq_true' _ ▸ List.all_eq_true.1 plain p mem
  have none_coherent : ((s.coreParts c a (if w then d.length else n)).any fun p => p.2.2) = false :=
    List.any_eq_false.2 fun p mem => ne_true_of_eq_false (each_plain p mem)
  rw [next_of_controlCoreAccess enabled rack inside, none_coherent, State.when_false]
  refine congrArg Host.Outcome.next (State.each_congr (fun p mem t => ?_) s)
  obtain ⟨x, m, coherent⟩ := p
  obtain rfl : coherent = false := each_plain _ mem
  exact sends t x m

/-- A coherent part of an access is a granule of a 4 KB piece that coherence covers. -/
theorem State.granule_of_mem_coreParts {x : Nat × Nat × Bool} (mem : x ∈ s.coreParts c a n) (coherent : x.2.2 = true) :
    ∃ p ∈ cutAt 4096 a n (n / 4096 + 2), s.coherentAt c p.1 p.2 = true ∧ (x.1, x.2.1) ∈ cutAt 128 p.1 p.2 (p.2 / 128 + 2) := by
  obtain ⟨p, piece, part⟩ := List.mem_flatMap.1 mem
  refine ⟨p, piece, ?_⟩
  by_cases covered : s.coherentAt c p.1 p.2 = true
  · rw [if_pos covered] at part
    obtain ⟨q, granule, rfl⟩ := List.mem_map.1 part
    exact ⟨covered, granule⟩
  · rw [if_neg covered] at part
    obtain ⟨q, -, rfl⟩ := List.mem_map.1 part
    cases coherent

/-- Settles O46: the register and the offer or lock behind it, the result of a check, and the parts of an access. -/
theorem sparesSnapshotsAndWatchpoints : Obligations.SparesSnapshotsAndWatchpoints := by
  refine ⟨?commit, ?noOffer, ?decline, ?snap, ?list, ?arm, ?memory, ?check, ?load, ?store, ?coherent, ?granules⟩
  case commit =>
    intro s rq id reach small offered
    refine next_of_onWrite reach ?_
    rw [Nat.mod_eq_of_lt small, offered, State.when_true]
  case noOffer =>
    intro s rq id reach small none
    refine next_of_onWrite reach ?_
    rw [Nat.mod_eq_of_lt small, none, State.when_false]
  case decline =>
    intro s rq id reach small
    refine next_of_onWrite reach ?_
    rw [Nat.mod_eq_of_lt small]
  case snap => exact fun s rq reach => next_of_onWrite reach rfl
  case list => exact fun s c => rfl
  case arm =>
    exact fun s rq v reach => ⟨fun set => next_of_onWrite reach (if_pos set),
      fun clear => next_of_onWrite reach (if_neg (ne_true_of_eq_false clear))⟩
  case memory =>
    exact fun s rq reach => ⟨fun locked => next_of_onWrite reach (if_pos locked),
      fun unlocked => next_of_onWrite reach (if_neg (ne_true_of_eq_false unlocked))⟩
  case check =>
    intro s c l recovering running alive
    have ends {r : CheckResult} (fits : r ≠ .retrainFailed ∨ (s.rasCh c).source = 0x43) := check_ends recovering running alive fits
    exact ⟨next_of_when (ends (r := .passed l) (.inl nofun)) rfl, next_of_when (ends (r := .readBackFailed) (.inl nofun)) rfl,
      next_of_when (ends (r := .coreFailed) (.inl nofun)) rfl,
      fun source => next_of_when (ends (r := .retrainFailed) (.inr source)) rfl⟩
  case load =>
    exact fun s c k j a n enabled rack inside plain =>
      next_of_plain_controlCoreAccess (w := false) enabled rack inside plain fun s x m => rfl
  case store =>
    exact fun s c k j a n d enabled rack inside plain =>
      next_of_plain_controlCoreAccess (w := true) enabled rack inside plain fun s x m => rfl
  case coherent =>
    intro s c k j a n w d m enabled rack inside coherent t
    exact (next_of_controlCoreAccess enabled rack inside).trans (congrArg Host.Outcome.next (if_pos coherent))
  case granules => exact fun s c a n x => State.granule_of_mem_coreParts

end Sys2Proof.Machine
end
